-- ==== Sys2Proof/Word.lean ====
section
/-! DEFINITION. The word types of the KY-9: 32-bit register dwords and bytes of the BAR0 memories (R15). -/

namespace Sys2Proof

/-- A 32-bit dword: register contents, write data, read data (R15). -/
abbrev Word := BitVec 32

/-- A byte of a BAR0 memory. -/
abbrev Byte := BitVec 8

end Sys2Proof
end

