-- ==== Sys2Proof/Syntax.lean ====
section
/-! DEFINITION. The commands of the KY-9: one constructor of Instr per row of spec/opcode_table.json, and the types of their operands. -/

namespace Sys2Proof

/-! ### Masters and accesses (chapter 01) -/

/-- Who sends an access: the PCIe host, the supervisor, or the supervisor for a remote station (R20, R21, R30). -/
inductive Master where
  | host | supervisor | remote
  deriving DecidableEq, Repr

/-- What a write reaches: a BAR0 address, or word `q` of the supervisor's pending set through the supervisor's own port (R338). -/
inductive Target where
  | bar0 (addr : BitVec 24)
  | svPending (q : Fin 8)
  deriving DecidableEq, Repr

/-- A write: its dwords in ascending address order, each with its byte enables (R15). -/
structure WriteReq where
  master : Master
  target : Target
  words : List (Word × BitVec 4)
  deriving DecidableEq, Repr

/-- A read of `len` dwords from `addr` (R15). -/
structure ReadReq where
  master : Master
  addr : BitVec 24
  len : Nat
  deriving DecidableEq, Repr

/-- What the hardware does to the written register in the same fabric cycle (R18): bits of W1C fields it sets, the increment of each
CNT field at the field's place, WS bits whose run completes, and an update of RW fields. -/
structure SameCycle where
  w1cSet : Word := 0
  cntInc : Word := 0
  wsDone : Word := 0
  rwUpd : Option Word := none
  /-- the same for the second register of a 64-bit write (R15) -/
  hiW1c : Word := 0
  hiCnt : Word := 0
  hiWs : Word := 0
  hiRw : Option Word := none
  deriving DecidableEq, Repr

/-- What the hardware does to the second register of a 64-bit write. -/
def SameCycle.second (h : SameCycle) : SameCycle := { w1cSet := h.hiW1c, cntInc := h.hiCnt, wsDone := h.hiWs, rwUpd := h.hiRw }

/-- A read or a write. -/
inductive Access where
  | read (r : ReadReq)
  | write (w : WriteReq)
  deriving DecidableEq, Repr

/-- A configuration request (R25, R386): the identity, the base of BAR0, and the power state, D3hot where `hot`. -/
inductive CfgOp where
  | readIdentity | readBar | writeBar (base : BitVec 64) | readPower | writePower (hot : Bool)
  deriving DecidableEq, Repr

/-- A non-posted request: a memory read or a configuration request (R25, R26). -/
inductive NpReq where
  | read (r : ReadReq)
  | config (c : CfgOp)
  deriving DecidableEq, Repr

/-- A non-posted request arrives, or the oldest one's completion leaves (R26). -/
inductive NpOp where
  | request (r : NpReq)
  | complete
  deriving DecidableEq, Repr

/-- The resets of the endpoint (R29). -/
inductive PcieLoss where
  | fundamental | hot | linkDown | functionLevel
  deriving DecidableEq, Repr

/-- A change of the MSI-X masks (R28): vector `v` or the function. -/
inductive MsixMask where
  | vector (v : Fin 32) (masked : Bool)
  | function (masked : Bool)
  deriving DecidableEq, Repr

/-! ### Faults (chapter 14) -/

/-- A dual-rail fault line: block type of the receiver, its instance, and the line's number within the block (R327, R329). -/
structure LineId where
  blk : Fin 256
  inst : Fin 256
  line : Fin 256
  deriving DecidableEq, Repr

/-- Errors of the internal fabric (R328, codes 0x08 and 0x09). -/
inductive FabricErr where
  | timeout | parity
  deriving DecidableEq, Repr

/-! ### Time (chapter 09) -/

/-- The two tracked PTP domains. -/
inductive Dom where
  | a | b
  deriving DecidableEq, Repr

/-- The Ethernet ports. -/
inductive EthPort where
  | e1 | e2 | e3
  deriving DecidableEq, Repr

/-- A Sync (with its Follow_Up where it is two-step): port, domainNumber, source clockIdentity, origin time in ns since the epoch,
correctionField in 2⁻¹⁶ ns, logMessageInterval, and the raw ingress stamp in TB2 ticks (R213, R216). -/
structure SyncMsg where
  port : EthPort
  domain : Nat
  source : Nat
  origin : Nat
  corr : Int
  logInt : Int
  stamp : Nat
  deriving DecidableEq, Repr

/-- An Announce message (R213): the data the default comparison reads, stepsRemoved, logMessageInterval and the UTC data. -/
structure AnnMsg where
  port : EthPort
  domain : Nat
  source : Nat
  p1 : Nat
  cls : Nat
  acc : Nat
  var : Nat
  p2 : Nat
  gm : Nat
  steps : Nat
  logInt : Int
  utcOffset : Int
  utcValid : Bool
  leap61 : Bool
  leap59 : Bool
  deriving DecidableEq, Repr

/-- A received Pdelay_Req: port, sequenceId, requester, raw ingress stamp in TB2 ticks. -/
structure PdReq where
  port : EthPort
  seq : Nat
  source : Nat
  stamp : Nat
  deriving DecidableEq, Repr

/-- A received Pdelay_Resp: port, sequenceId, the responder's turnaround in 1/16 ns, raw ingress stamp in TB2 ticks. -/
structure PdResp where
  port : EthPort
  seq : Nat
  turn : Int
  stamp : Nat
  deriving DecidableEq, Repr

/-- Kinds of PTP frames the transparent clock meets (R217). -/
inductive TcKind where
  | sync | followUp | announce | signalling | management | pdelay | delay
  deriving DecidableEq, Repr

/-- A PTP frame at the transparent clock: ingress port, kind, domainNumber, correctionField in 2⁻¹⁶ ns, raw ingress stamp in TB2
ticks, sequence number of its HSR tag (R216, R217, R234). -/
structure TcFrame where
  port : EthPort
  kind : TcKind
  domain : Nat
  corr : Int
  stamp : Nat
  tag : BitVec 16
  deriving DecidableEq, Repr

/-! ### Lanes (chapter 04) -/

/-- What training measured at one rate (R98, R103): electrical latencies in 1/64 tick, and for each row H and V with block lock
present throughout its sample. -/
structure TrainMeas where
  tx : Nat
  rx : Nat
  rows : List (Nat × Nat × Bool)
  deriving DecidableEq, Repr

/-! ### Control engine operands (chapters 07, 08, 14) -/

/-- The live unit of the control matrix engine, or its shadow unit (R186). -/
inductive EngUnit where
  | live
  | shadow
  deriving DecidableEq, Repr

/-- The memories the groom scrubs, by the class of their errors; a word is named as R329 forms its address (R328, R329). -/
inductive ScrubMem where
  | engine
  | table
  | buffer
  deriving DecidableEq, Repr

/-- What the groom finds at a word: nothing, a single-bit error, or an uncorrectable one (R171, R328). -/
inductive ScrubFind where
  | clean
  | single
  | uncorrectable
  deriving DecidableEq, Repr

/-! ### Ethernet and CAN (chapter 10) -/

/-- Where a received frame is addressed (R229). -/
inductive EthDst where
  | own | broadcast | enabledGroup | other
  deriving DecidableEq, Repr

/-- What a received frame carries (R229, R232–R236). -/
inductive EthKind where
  | pause | ptp | supervision | arp | icmpEcho
  | udp (port : Nat)
  | fragment | ipv6 | dhcp | otherIp
  | otherLink
  deriving DecidableEq, Repr

/-- A received Ethernet frame: port, octets between the address field and the FCS inclusive (without trailer or tag), whether its FCS
is good, source address, destination, what it carries, sequence number of its redundancy trailer with the LAN it names (true: A), and
sequence number of its HSR tag (R229, R232, R233). -/
structure EthFrame where
  port : EthPort
  octets : Nat
  fcsOk : Bool
  src : Nat
  dst : EthDst
  kind : EthKind
  rct : Option (Nat × Bool)
  tag : Option Nat
  deriving DecidableEq, Repr

/-- How an attempt to send a CAN frame fails (R246, R248): arbitration lost, a bit error after arbitration was won and before the ACK
slot, no ACK (with whether a dominant bit was seen during a passive error flag), or another error. -/
inductive CanFail where
  | arbitration
  | bitError
  | noAck (dominant : Bool)
  | other
  deriving DecidableEq, Repr

/-- An error met while receiving (R243): an ordinary one, or one that ISO 11898-1 counts by 8. -/
inductive CanRxErr where
  | ordinary
  | heavy
  deriving DecidableEq, Repr

/-- A received CAN frame: identifier, IDE, RTR, FDF, BRS, ESI, DLC, data words, the CTB of its start of frame, whether the controller
sent it itself. -/
structure CanRx where
  id : BitVec 29
  ide : Bool
  rtr : Bool
  fdf : Bool
  brs : Bool
  esi : Bool
  dlc : BitVec 4
  data : List Word
  sof : Nat
  own : Bool
  deriving DecidableEq, Repr

/-! ### Measurement and temperature (chapter 11) -/

/-- What a calibration sweep derives for one converter: OFFS and GTRIM at each of the four gains (R266). -/
structure CalMeas where
  conv : Fin 8
  trims : List (Int × Nat)
  deriving DecidableEq, Repr


/-! ### Power section (chapter 12) -/

/-- Why a soft start fails (R281): holds of the ramp total SS_MS, a short, a sense-cell trip or a bootstrap that stays below 9.0 V. -/
inductive SoftStartFail where
  | holds | short
  | sense (phase : Fin 3) (high : Bool)
  | bootstrap (phase : Fin 3)
  deriving DecidableEq, Repr

/-- What a window of 1,024 switching cycles measured in a group (R282): RUN throughout, mean output current in mA, mean delivery
interval of each phase in ns, rise of each sensed current relative to the expected rise in 1/1,000, change of each sense in LSB. -/
structure PhaseWindow where
  runThroughout : Bool
  iout : Nat
  d : List Nat
  sigma : List Nat
  change : List Nat
  deriving DecidableEq, Repr

/-- What a loop controller measured over 100 µs (R284): loop current in 10 mA, output power of the loop's group and of the other
group in 0.1 W. -/
structure LoopMeas where
  iloop : Nat
  pown : Nat
  pother : Nat
  deriving DecidableEq, Repr

/-- One raw telemetry sample of a group (R287): VOUT in 10 mV, IOUT and the three phase currents in 10 mA, and for group A the 54 V
bus in 10 mV and the 12 V bus in mV. -/
structure TelSample where
  vout : Nat
  iout : Nat
  ph0 : Nat
  ph1 : Nat
  ph2 : Nat
  b54 : Nat
  b12 : Nat
  deriving DecidableEq, Repr

/-- What the driver reports at an input edge of a half-bridge (R292): sense cell below its threshold, bootstrap voltage in mV, only
one input asserted. -/
structure GateEdge where
  senseBelow : Bool
  bstMv : Nat
  oneInput : Bool
  deriving DecidableEq, Repr

/-- What brings a sync to a PWM channel (R293): a compare unit, SYNC_IN, or the zero of a channel. -/
inductive PwmSync where
  | compare | syncIn
  | channel (c : Fin 16)
  deriving DecidableEq, Repr

/-! ### Safety (chapter 13) -/

/-- The two safety channels (R301). -/
inductive Chan where
  | fence | supervisor
  deriving DecidableEq, Repr

/-- What a dual-rail line carries for the safety functions (R308): a class A function in a channel, a class B condition, THERM_CRIT,
or none of these. -/
inductive LineKind where
  | other
  | classA (fn : Fin 16) (ch : Chan)
  | classB (c : Fin 8)
  | thermCrit
  deriving DecidableEq, Repr

/-! ### Security and update (chapter 15) -/

/-- What the SEC block finds when it recomputes the roots of the trees its cache holds: current bottom tree, spare, level-1 tree
(R343). -/
structure TreeCheck where
  current : Bool
  spare : Bool
  level1 : Bool
  deriving DecidableEq, Repr


/-! ### The commands -/

/-- What an SFP reports: TX_FAULT and LOS (R254). -/
structure SfpPins where
  txFault : Bool
  los : Bool
  deriving DecidableEq, Repr

/-- What the tack store does with a kind 6 record and counter 6: both durable, the record alone, or a record that fails its read-back (R343, R356). -/
inductive OwnerWrite where
  | both | recordOnly | none
  deriving DecidableEq, Repr

/-- One constructor per row of the opcode table; each docstring is the row's summary and rule. -/
inductive Instr where
  /-- REGISTER_WRITE (R18): A host, supervisor or remote write to a register field that has no row of its own, judged by access code, alias page and same-cycle outcome. -/
  | registerWrite (w : WriteReq) (hw : SameCycle)
  /-- UNMAPPED_ACCESS (R10): An access to an unmapped BAR0 address reads 0xFFFF_FFFF or drops the write, sets UNMAPPED and may capture a first error. -/
  | unmappedAccess (a : Access)
  /-- LOCK_WRITE (R16): A 1 written to CFG_LOCK sets it until module reset, making the block's lockable fields read-only. -/
  | lockWrite (w : WriteReq)
  /-- GUARDED_PRIMARY_WRITE (R20): A write to a guarded primary in IDLE holds the value uncommitted, arms the sequencer and starts the 1,024-cycle timer. -/
  | guardedPrimaryWrite (w : WriteReq)
  /-- GUARD_TWIN_WRITE (R20): A write to a guarded twin commits the held value if it is its exact complement from the same master, else fails the sequence. -/
  | guardTwinWrite (w : WriteReq)
  /-- GUARD_TIMEOUT (R20): The guard timer reaches 1,024 cycles in ARMED, discarding the held value and setting GUARD_FAIL. -/
  | guardTimeout (blk : BitVec 8)
  /-- RESULT_READ (R22): A read of a result register returns the result with FRESH, STALE and SEQ and clears FRESH. -/
  | resultRead (r : ReadReq) (meets : Option Nat)
  /-- HOST_NP_REQUEST (R26): A PCIe non-posted request is accepted or stalled at 128 in flight and completed in request order. -/
  | hostNpRequest (op : NpOp)
  /-- PCIE_RESET (R29): A PCIe fundamental reset, hot reset, link down or FLR resets the endpoint only and raises LINK_CHANGE. -/
  | pcieReset (kind : PcieLoss)
  /-- PCIE_LINK_UP (R29): The PCIe link returns to L0 and LINK_CHANGE occurs again. -/
  | pcieLinkUp (speed width : Nat) (sris : Bool) (mps : Fin 2)
  /-- AER_ERROR (R25): A PCIe correctable or uncorrectable error is reported through AER and counted. -/
  | aerError (correctable : Bool)
  /-- MSIX_UNMASK (R28): Removing a vector or function mask sends the message for each pending bit. -/
  | msixUnmask (op : MsixMask)
  /-- CMD_NOP (R32): Command opcode 0x00 does nothing and ends OK in the next fabric cycle. -/
  | cmdNop
  /-- CMD_BAD_OPCODE (R32): A command start with an undefined opcode ends at once with RESULT BAD_OPCODE. -/
  | cmdBadOpcode
  /-- CMD_COMPLETE (R30): A running command port operation ends, writing RESULT, SYS_CMD_RES0-3 and DONE and raising CMD_DONE. -/
  | cmdComplete
  /-- CMD_TIMEOUT (R30): A command's busy time reaches its opcode limit, stopping it with RESULT TIMEOUT. -/
  | cmdTimeout
  /-- SVR_RESTART_REQUEST (R360): A committed SYS_RESTART.SVR requests a supervisor restart, judged against the refusal conditions and the port state. -/
  | svrRestartRequest
  /-- SVR_RESTART_BEGIN (R31): A requested supervisor restart begins once the command port is IDLE, making the port UNAVAILABLE. -/
  | svrRestartBegin
  /-- SVR_WATCHDOG_RESTART (R31): An unrequested supervisor restart starts at once, aborting any running command with ABORTED_RESTART. -/
  | svrWatchdogRestart
  /-- SVR_RESTART_END (R31): The supervisor restart ends, the port returns to IDLE and SVR_RESTART_END is raised. -/
  | svrRestartEnd (trees : TreeCheck)
  /-- YARD_CHECK (R48): A write of CHECK in CONFIG or CHECKED starts the yard check over the description. -/
  | yardCheck
  /-- YARD_CHECK_COMPLETE (R48): The yard check ends, writing YARD_CHECK and moving to CHECKED or CONFIG, void if the description changed. -/
  | yardCheckComplete
  /-- YARD_START (R48): A write of START is held pending in CHECKED or refused in other states. -/
  | yardStart
  /-- YARD_STOP (R48): A write of STOP requests a stop in RUN or withdraws a pending START. -/
  | yardStop
  /-- YARD_ENTER_RUN (R48): At the next period boundary after a pending START the yard enters RUN and warm-up begins. -/
  | yardEnterRun
  /-- YARD_ENTER_STOPPING (R48): At the next period boundary after STOP or a module lock-out every stall is sent coast and the yard enters STOPPING. -/
  | yardEnterStopping
  /-- YARD_STOP_COMPLETE (R48): All active stalls coast or 64 periods pass, schedules stop, the engine parks and the yard returns to CONFIG. -/
  | yardStopComplete
  /-- STALL_RECORD_WRITE (R56): A host write to a stall record word, dropped with DESC_DROP where reserved, RO or outside its allowed state. -/
  | stallRecordWrite (w : WriteReq × SameCycle)
  /-- STALL_INSERT_REQUEST (R52): A STALL_CFG write setting ENABLE 0 to 1 in RUN runs the insertion check and starts insertion. -/
  | stallInsertRequest (i : Fin 192) (v : Word)
  /-- STALL_REMOVE_REQUEST (R95): A STALL_CFG write setting ENABLE 1 to 0 in RUN discards unsent schedules and starts removal schedules. -/
  | stallRemoveRequest (i : Fin 192)
  /-- STALL_LASTING_CLEAR (R90): A write of 1 to a stall's LASTING is refused while the cause persists, or clears it and starts insertion. -/
  | stallLastingClear (i : Fin 192)
  /-- PERIOD_BOUNDARY (R46): The CTB reaches a period boundary t_k, the period number advances and period-start actions take place. -/
  | periodBoundary
  /-- UPLINK_RECEIVED (R69): An UPLINK frame is accepted, converted and stored, or discarded and counted. -/
  | uplinkReceived (n : Fin 48) (f : List (BitVec 64))
  /-- UPLINK_CUTOFF (R76): The lane's uplink cut-off passes; later uplinks are counted late. -/
  | uplinkCutoff (n : Fin 48)
  /-- MGMT_REQUEST (R71): The KY-9 sends an MREQ read or write to a node path when a gap allows. -/
  | mgmtRequest (n : Fin 48)
  /-- MRSP_RECEIVED (R70): A management response frame ends its outstanding request. -/
  | mrspReceived (n : Fin 48) (f : List (BitVec 64))
  /-- MGMT_TIMEOUT (R71): No MRSP arrives within 100 µs; the request is retried or, after two retries, ends REFUSED. -/
  | mgmtTimeout (n : Fin 48) (path : Word)
  /-- INSERT_READY_TIMEOUT (R94): A node not READY 1 s after configuration ends the insertion with NODE_NOT_READY. -/
  | insertReadyTimeout (i : Fin 192)
  /-- PRECHARGE_TIMEOUT (R94): Precharge exceeds 2 × PRECHG_MS + 1 s; the stall becomes FAULTED and PRECHG_FAIL is raised. -/
  | prechargeTimeout (i : Fin 192)
  /-- REMOVAL_COMPLETE (R95): After 16 removal schedules the stall becomes ABSENT and STALL_REMOVED is raised. -/
  | removalComplete (i : Fin 192)
  /-- SCHED_TRANSMIT (R77): A ready schedule or reference frame is sent on its lane if it can leave by DL_DUE, else skipped.
  The lane, the record whose frame leaves, and whether it is a REF frame. -/
  | schedTransmit (n : Fin 48) (i : Fin 192) (ref : Bool)
  /-- LANE_ENABLE (R102): EN written 1 powers a PARKED lane and its PLL and moves it to WAKE. -/
  | laneEnable (n : Fin 50)
  /-- LANE_PARK (R107): EN written 0 parks the lane, or is refused with PARK_REFUSED while enabled records name it in RUN or STOPPING. -/
  | lanePark (n : Fin 50)
  /-- LANE_PLL_LOCK (R102): The lane PLL locks, latencies are measured and the lane enters TRAIN. -/
  | lanePllLock (n : Fin 50) (tx rx : Nat)
  /-- LANE_TRAIN_COMPLETE (R103): The equalisation rows of a rate have been measured; the best row is applied, the lane falls back or fails. -/
  | laneTrainComplete (n : Fin 50) (m : TrainMeas)
  /-- LANE_ADAPT (R104): ADAPT written 1 retrains an UP lane, or is refused while stalls are ACTIVE or in PRECHARGE. -/
  | laneAdapt (n : Fin 50)
  /-- APPLY_EQ (R105): APPLY_EQ applies the stored settings of the row in use at the next marker slot without retraining. -/
  | applyEq (n : Fin 50)
  /-- LANE_LASTING_CLEAR (R111): A clear of a lane's LASTING is refused while the cause persists, or empties the window and starts TRAIN. -/
  | laneLastingClear (n : Fin 50)
  /-- LANE_RETRY_TIMEOUT (R102): One second in FAILED elapses and the lane returns to TRAIN. -/
  | laneRetryTimeout (n : Fin 50)
  /-- BLOCK_LOCK_LOSS (R102): A receiver loses block lock in UP; the lane enters RELOCK and counts a fault. -/
  | blockLockLoss (n : Fin 50)
  /-- BLOCK_LOCK_GAIN (R101): A receiver gains block lock; a lane in RELOCK returns to UP. -/
  | blockLockGain (n : Fin 50)
  /-- RELOCK_TIMEOUT (R102): Block lock is not regained within 250 µs and the lane retrains. -/
  | relockTimeout (n : Fin 50)
  /-- ALIGNMENT_MARKER (R100): An alignment marker is received and checked for slot, count and pattern. -/
  | alignmentMarker (n : Fin 50) (payload : BitVec 64) (gap : Nat)
  /-- MARKER_MISSING (R100): No marker arrives within 4,097 blocks of the previous one; a marker error is counted. -/
  | markerMissing (n : Fin 50)
  /-- MARKER_INTERVAL_END (R101): A marker interval ends and HIBER is judged on its invalid header count. -/
  | markerIntervalEnd (n : Fin 50)
  /-- ECHO_TIMER (R108): The echo interval expires and an ECHO block is sent in the first idle slot. -/
  | echoTimer (n : Fin 50)
  /-- ECHO_RSP_RECEIVED (R108): An ECHO_RSP gives a raw one-way delay, updating the filtered and published delay. -/
  | echoRspReceived (n : Fin 50) (payload : BitVec 64) (rt : Nat)
  /-- ECHO_LOST (R108): No ECHO_RSP arrives in time; the echo is counted lost, and 8 in a row in DELAY fail the lane. -/
  | echoLost (n : Fin 50)
  /-- EDGE_COMMIT (R137): COMMIT written 1 requests that the EDGE shadow be copied at the next cut-off, or within 8 cycles outside RUN. -/
  | edgeCommit
  /-- EDGE_CUTOFF (R137): The cut-off cycle 4 cycles before the reload edge copies a committed shadow and samples DBG_HOLD, guard, stall and conversion words. -/
  | edgeCutoff
  /-- RELOAD_EDGE (R137): The reload edge activates a passed commit, latches membership and starts balancing and per-period judgements. -/
  | reloadEdge
  /-- BALANCE_DELIVERY (R146): The sorters deliver insertion orders, bypass orders, arm means and trims to the synthesiser and engine. -/
  | balanceDelivery (fail : BitVec 6)
  /-- COMMAND_DEADLINE (R118): A stall's command deadline passes without ready inputs; the schedule is computed from last committed slots with CMD_REUSE. -/
  | commandDeadline (i : Fin 192)
  /-- SCHEDULE_COMPUTE (R117): An edge unit computes a stall's schedule for the next period once its last input is available. -/
  | scheduleCompute
  /-- ARM_RESET_REQUEST (R157): A committed BAL_ARM_RESET raises a reset request for each named arm. -/
  | armResetRequest (v : BitVec 6)
  /-- NOP (R173): Engine instruction that does nothing for one cycle. -/
  | nop (u : EngUnit)
  /-- END (R164): Engine instruction that ends the run and clears the latched PRESET_PEND bits. -/
  | endRun (u : EngUnit)
  /-- WAIT (R176): Engine instruction that holds issue until the reload edge, balancing delivery or a given cycle. -/
  | wait (u : EngUnit)
  /-- WAIT_EVENT (R176): The awaited event of a WAIT occurs and issue resumes in the next cycle. -/
  | waitEvent (u : EngUnit)
  /-- LOOP (R173): Engine instruction that repeats a body NUM times. -/
  | loop (u : EngUnit)
  /-- BRF (R173): Engine instruction that jumps forward on a condition. -/
  | brf (u : EngUnit)
  /-- SETX (R173): Engine instruction that sets or adds to an index register. -/
  | setx (u : EngUnit)
  /-- LDC (R173): Engine instruction that loads a coefficient row into a vector register. -/
  | ldc (u : EngUnit)
  /-- LDS (R173): Engine instruction that loads a state row into a vector register. -/
  | lds (u : EngUnit)
  /-- STS (R173): Engine instruction that stores a vector register into a state row. -/
  | sts (u : EngUnit)
  /-- GATH (R174): Engine instruction that gathers one item of 32 consecutive stalls into a vector register. -/
  | gath (u : EngUnit)
  /-- SCAT (R174): Engine instruction that scatters a vector register to pending command slots or health halfwords. -/
  | scat (u : EngUnit)
  /-- MARK (R175): Engine instruction that commits pending slots or arm words and marks stalls or an arm ready. -/
  | mark (u : EngUnit)
  /-- WRA (R173): Engine instruction that writes a pending arm command word. -/
  | wra (u : EngUnit)
  /-- MVM (R173): Engine instruction that multiplies a coefficient matrix by a vector into an accumulator. -/
  | mvm (u : EngUnit)
  /-- VMAC (R166): Engine instruction that multiply-accumulates two vector registers lane-wise. -/
  | vmac (u : EngUnit)
  /-- VMACC (R166): Engine instruction that multiply-accumulates a coefficient row and a vector lane-wise. -/
  | vmacc (u : EngUnit)
  /-- OBS (R173): Engine instruction that advances an observer in every lane. -/
  | obs (u : EngUnit)
  /-- ACCL (R173): Engine instruction that clears or loads an accumulator. -/
  | accl (u : EngUnit)
  /-- WB (R167): Engine instruction that writes an accumulator back to a vector register with shift, rounding and saturation. -/
  | wb (u : EngUnit)
  /-- LIM (R173): Engine instruction that limits a vector between two coefficient rows. -/
  | lim (u : EngUnit)
  /-- SAT (R173): Engine instruction that clamps an accumulator in place. -/
  | sat (u : EngUnit)
  /-- PRESET (R173): Engine instruction that presets a state row for bumpless transfer. -/
  | preset (u : EngUnit)
  /-- SEL (R173): Engine instruction that selects lane-wise by the predicate. -/
  | sel (u : EngUnit)
  /-- VADD (R168): Engine instruction that adds or subtracts vectors or coefficients with saturation. -/
  | vadd (u : EngUnit)
  /-- RED (R173): Engine instruction that sums a vector across lanes into every lane. -/
  | red (u : EngUnit)
  /-- CMP (R173): Engine instruction that compares two vectors into the predicate. -/
  | cmp (u : EngUnit)
  /-- ILLEGAL_OPCODE (R182): An undefined opcode or a PC past the last word ends the run as an overrun with ILLEGAL. -/
  | illegalOpcode (u : EngUnit)
  /-- CME_OVERRUN (R164): END has not issued by cycle Y − 4; the run is abandoned and every arm misses. -/
  | cmeOverrun (u : EngUnit)
  /-- ENGINE_RAM_WRITE (R170): A host write to engine RAM is applied or dropped by yard state and clears PROG_OK where it changes the program. -/
  | engineRamWrite (w : WriteReq)
  /-- PADDOCK_RAM_WRITE (R199): A host write to a paddock RAM is applied in NONE and dropped during a session. -/
  | paddockRamWrite (w : WriteReq)
  /-- PROGRAM_CHECK (R180): CME CHECK written starts the static program check. -/
  | programCheck
  /-- PROGRAM_CHECK_COMPLETE (R180): The program check ends, reporting CME_CHECK and setting or clearing PROG_OK. -/
  | programCheckComplete
  /-- ARM_RESTORE_REQUEST (R183): A committed CME_ARM_RESTORE raises a restore request for each named arm. -/
  | armRestoreRequest (v : BitVec 6)
  /-- PRESET_REQUEST (R184): A write of 1 to CME_PRESET sets PRESET_PEND of the named arms. -/
  | presetRequest (v : BitVec 6)
  /-- DEBUG_HALT (R185): HALT written 1 with DBG_EN stops the run at the next instruction boundary. -/
  | debugHalt
  /-- BREAKPOINT_HIT (R185): The run reaches BRK_ADDR with BRK_EN and halts before the instruction. -/
  | breakpointHit
  /-- DEBUG_STEP (R185): STEP executes one instruction while halted. -/
  | debugStep
  /-- DEBUG_RELEASE (R185): HALT written 0 abandons the halted run and sets PRESET_PEND for every arm. -/
  | debugRelease
  /-- GROOM_SCRUB (R171): The groom scrubs memory words, correcting and writing back single-bit errors. -/
  | groomScrub (mem : ScrubMem) (a : BitVec 32) (f : ScrubFind)
  /-- WARMUP_END (R194): WU_LEFT reaches 0; warm-up ends and PRESET_PEND is set for every enabled arm. -/
  | warmupEnd
  /-- PADDOCK_LOAD (R200): Command 0x30 loads and checks a program in the paddock and starts a shadow session. -/
  | paddockLoad
  /-- PADDOCK_COMPARE_HANDOVER (R202): PADDOCK_COMMIT mode 0 starts comparison and handover, or exchanges roles at once outside RUN. -/
  | paddockCompareHandover
  /-- PADDOCK_REPORT (R205): PADDOCK_COMMIT mode 1 reports comparison counts and session state. -/
  | paddockReport
  /-- PADDOCK_END (R198): PADDOCK_COMMIT mode 2 stops the shadow unit and ends the session. -/
  | paddockEnd (durable : Bool)
  /-- PADDOCK_ROLLBACK (R198): PADDOCK_COMMIT mode 3 exchanges roles back at the next boundary. -/
  | paddockRollback
  /-- PADDOCK_COMPARE_END (R202): N periods have been compared and acceptance is judged. -/
  | paddockCompareEnd
  /-- PADDOCK_HANDOVER (R203): At the handover boundary BANK toggles, CME_ENTRY is loaded and PRESET_PEND set. -/
  | paddockHandover
  /-- RETAIN_EXPIRY (R198): RETAIN_PER periods after the exchange the shadow unit stops and the session ends. -/
  | retainExpiry (durable : Bool)
  /-- HEALTH_LOG (R197): Once per minute the supervisor reads every health area and keeps daily records in FRAM. -/
  | healthLog
  /-- TIME_SNAP (R208): SNAP written captures the CTB, TB0–TB3 and TIME_ROLLCNT in one root cycle. -/
  | timeSnap
  /-- TB_WRAP (R207): A time base wraps forward or backward, updating TIME_ROLL and TIME_ROLLCNT. -/
  | tbWrap (n : Fin 4)
  /-- ALIGN (R210): ALIGN written aligns the CTB to its source if the conditions hold, else is refused. -/
  | align
  /-- CTB_AUTO_ALIGN (R210): With ALIGN_EN and the CTB FREE, alignment takes place as soon as the conditions hold. -/
  | ctbAutoAlign
  /-- CTB_SERVO_UPDATE (R211): The 1 ms CTB update computes the offset and moves the rate, changing source or holdover as needed. -/
  | ctbServoUpdate
  /-- PTP_ENABLE (R214): PTP_EN or the domain number written enables, disables or restarts a domain. -/
  | ptpEnable (v : Word)
  /-- PTP_SYNC_RX (R214): A Sync message from the selected master advances the domain servo and lock state. -/
  | ptpSyncRx (m : SyncMsg)
  /-- PTP_ANNOUNCE_RX (R213): An Announce message is processed by the BMCA and may select a master. -/
  | ptpAnnounceRx (m : AnnMsg)
  /-- PDELAY_TIMER (R213): Each second a Pdelay_Req is sent on each port. -/
  | pdelayTimer
  /-- PDELAY_REQ_RX (R213): A received Pdelay_Req is answered one-step with Pdelay_Resp. -/
  | pdelayReqRx (m : PdReq)
  /-- PDELAY_RESP_RX (R213): A received Pdelay_Resp updates the port's meanLinkDelay. -/
  | pdelayRespRx (m : PdResp)
  /-- SYNC_TIMEOUT (R214): No valid Sync for 3 intervals moves a LOCKED domain to HOLDOVER. -/
  | syncTimeout (d : Dom)
  /-- ANNOUNCE_TIMEOUT (R214): The announce receipt timeout expires for a domain. -/
  | announceTimeout (d : Dom)
  /-- DOMAIN_HOLDOVER_EXPIRY (R214): HOLD_S seconds in HOLDOVER return the domain to LISTENING. -/
  | domainHoldoverExpiry (d : Dom)
  /-- TC_FORWARD (R217): A PTP frame is forwarded between E1 and E2 as a one-step transparent clock. -/
  | tcForward (f : TcFrame)
  /-- TIME_FIFO_POP (R401): A read of TIME_TXTS1, TIME_TXTS2 or TIME_CAP pops the head entry or reports empty. -/
  | timeFifoPop (r : ReadReq)
  /-- COMPARE_FIRE (R220): A compare unit's target is reached; it fires its outputs and re-arms or disarms. -/
  | compareFire (n : Fin 8)
  /-- SYNC_IN_CAPTURE (R221): A SYNC_IN rising edge enters its CTB into TIME_CAP. -/
  | syncInCapture (ns : Nat)
  /-- CAL_CORRECTION (R224): At a domain second boundary the calendar is corrected from the domain if it differs. -/
  | calCorrection (d : Dom)
  /-- CAL_TRIM (R224): Every 1,000 s with TRIM_AUTO the calendar trim is written from the measured rate. -/
  | calTrim (measured : Int)
  /-- CAL_SET (R224): A committed RTC_CMD.SET loads RTC_SET into the calendar. -/
  | calSet
  /-- BACKUP_WRITE (R225): A write to a backup-domain register starts the synchroniser or is refused while one is in flight. -/
  | backupWrite (w : WriteReq)
  /-- BACKUP_WRITE_DONE (R225): The backup-domain synchroniser completes a write and WR_BUSY clears. -/
  | backupWriteDone
  /-- TAMPER_INPUT (R226): The tamper input becomes active after 3 consistent samples, latching the calendar and signalling the tack store. -/
  | tamperInput
  /-- BACKUP_LOW (R223): The supercapacitor falls below 2.0 V. -/
  | backupLow (mv : Nat)
  /-- BACKUP_STOP (R223): Below 1.6 V the backup domain stops. -/
  | backupStop (mv : Nat)
  /-- BACKUP_START (R223): The backup domain starts, clearing CAL_VALID, log and tamper latch and writing BACKUP_START. -/
  | backupStart (mv : Nat)
  /-- RTC_ALARM (R228): Calendar seconds equal ALARM with ALARM_EN. -/
  | rtcAlarm
  /-- RTC_LOG_READ (R227): A read of dword 3 of the log record advances IDX. -/
  | rtcLogRead (r : ReadReq)
  /-- E12_ENABLE (R231): E12_EN going 0 to 1 takes the redundancy mode and speed. -/
  | e12Enable (v : Word)
  /-- ETH_FRAME_RX (R229): An Ethernet frame is received, filtered, de-duplicated, forwarded or passed to the supervisor. -/
  | ethFrameRx (f : EthFrame)
  /-- ETH_LINK_CHANGE (R254): A port's link changes state. -/
  | ethLinkChange (p : EthPort) (up fast : Bool)
  /-- SFP_CHANGE (R254): An SFP is inserted or removed or its TX_FAULT or LOS changes. -/
  | sfpChange (p : EthPort) (present : Bool) (pins : SfpPins)
  /-- SUPERVISION_TIMER (R232): Every LIFE_MS a PRP or HSR supervision frame is sent. -/
  | supervisionTimer
  /-- LAN_FAULT_TIMEOUT (R232): A node heard on one LAN only for 3 × LIFE_MS raises ETH_LAN_FAULT. -/
  | lanFaultTimeout (mac : BitVec 48)
  /-- NODE_FORGET_EXPIRY (R232): A node not heard for NODE_FORGET leaves the PRP node table. -/
  | nodeForgetExpiry (mac : BitVec 48)
  /-- RING_OPEN (R233): Own supervision frames fail to return within 2 × LIFE_MS; RING_CLOSED falls. -/
  | ringOpen
  /-- RRA_REQUEST (R238): A remote register access datagram is authenticated, checked for replay and queued or rejected. -/
  | rraRequest (p : EthPort) (octets : List Byte)
  /-- RRA_EXECUTE (R239): A queued remote request is executed as supervisor accesses and a reply sent. -/
  | rraExecute
  /-- CAN_ENABLE (R242): EN written 0 to 1 checks bit timing and joins the bus, or leaves EN at 0 with CFG_DROP. -/
  | canEnable (n : Fin 2) (v : Word)
  /-- TX_PUSH (R244): A push copies the staging words into a software-owned entry, or is refused. -/
  | txPush (n : Fin 2) (m : Master) (v : Word)
  /-- TX_CANCEL (R247): A cancel write withdraws a pending entry or is refused once its start of frame is sent. -/
  | txCancel (n : Fin 2) (m : Master) (v : BitVec 64) (sof : Option Nat)
  /-- CAN_TX_ACK (R246): An entry's frame completes with ACK; DONE and its timestamp are set. -/
  | canTxAck (n : Fin 2) (sof : Nat)
  /-- CAN_TX_FAIL (R246): An attempt loses arbitration or meets an error and the entry stays pending for retry. -/
  | canTxFail (n : Fin 2) (sof : Nat) (why : CanFail)
  /-- COLLISION_HOLD_EXPIRY (R248): The collision hold of an entry ends and it competes again. -/
  | collisionHoldExpiry (n : Fin 2) (e : Fin 64)
  /-- CAN_RX_FRAME (R250): A received frame accepted by a filter is stored in the receive FIFO or dropped on overflow. -/
  | canRxFrame (n : Fin 2) (f : CanRx)
  /-- RX_TOP_POP (R250): A read of RX_TOP pops the head frame into the receive window or reports empty. -/
  | rxTopPop (r : ReadReq)
  /-- CAN_RECOVER (R243): RECOVER written in bus-off starts recovery. -/
  | canRecover (n : Fin 2)
  /-- CAN_RECOVERY_DONE (R243): 128 occurrences of 11 recessive bits end bus-off. -/
  | canRecoveryDone (n : Fin 2)
  /-- CAN_BASIC_CYCLE (R251): A basic cycle starts and the reference message is offered. -/
  | canBasicCycle (n : Fin 2)
  /-- CAN_TT_MISS (R251): A time-triggered entry's window closes before its frame started. -/
  | canTtMiss (n : Fin 2) (e : Fin 64)
  /-- CAN_MASTER_RESUME (R252): Eight basic cycles without a higher-priority reference message resume the time master role. -/
  | canMasterResume (n : Fin 2)
  /-- ADC_START (R262): START written triggers one burst of a converter. -/
  | adcStart (k : Fin 8)
  /-- ADC_TRIGGER (R262): A hardware trigger starts a burst, or is dropped as TRIG_MISS while a burst runs. -/
  | adcTrigger (k : Fin 8)
  /-- ADC_RESULT (R264): A filtered result is stored in the converter FIFO and latest view, or dropped when the FIFO is full. -/
  | adcResult (k : Fin 8) (raw : List (BitVec 16))
  /-- ADC_FIFO_POP (R265): A read of a FIFO pop port pops the head result and loads its timestamp, or reports empty. -/
  | adcFifoPop (r : ReadReq)
  /-- ADC_WINDOW_WRITE (R265): A write to the ADC result window is dropped and sets WIN_WR. -/
  | adcWindowWrite (w : WriteReq)
  /-- VREFX_MEASURE (R256): Every 10 µs VREFX is measured and a bad external reference returns the converters to internal. -/
  | vrefxMeasure (mv : Nat)
  /-- CAL_SWEEP (R266): Command 0x40 calibrates the named converters and writes passing trims. -/
  | calSweep (m : List CalMeas)
  /-- COMPARATOR_TRIP (R268): A comparator side trips after its filter; the decision reaches the fence and supervisor. -/
  | comparatorTrip (n : Fin 12) (high : Bool) (mv : Int) (ns : Nat)
  /-- COMPARATOR_RELEASE (R268): A tripped comparator side releases below its hysteresis. -/
  | comparatorRelease (n : Fin 12) (high : Bool) (mv : Int) (ns : Nat)
  /-- TEMP_MEASURE (R271): Every millisecond the 16 sensors are measured, cross-checked and zones judged. -/
  | tempMeasure (t : List Int)
  /-- FEED_JUDGE (R276): Each feed is judged every half cycle and its state and P_LIM updated. -/
  | feedJudge (feed : Fin 2) (dc : Bool) (v : Nat)
  /-- BUS_54V_LOW (R281): The 54 V bus falls below 38 V and both groups go OFF. -/
  | bus54vLow (mv : Nat)
  /-- BUS_12V_LOW (R278): The 12 V bus falls below 10.8 V, requesting a module reset with MAINS_LOSS. -/
  | bus12vLow (mv : Nat)
  /-- GROUP_ENABLE (R281): EN of a group committed 1 or 0 starts soft start or turns the group OFF. -/
  | groupEnable (g : Fin 2) (v : Word)
  /-- SOFT_START_COMPLETE (R281): The soft-start ramp reaches VOUT_MIN and the group enters RUN. -/
  | softStartComplete (g : Fin 2) (holdTicks : Nat)
  /-- SOFT_START_FAIL (R281): Soft start meets a short, current limit too long, a sense trip or a bootstrap failure and hiccups. -/
  | softStartFail (g : Fin 2) (why : SoftStartFail)
  /-- GROUP_OUTPUT_FAULT (R281): VOUT below 80 % of VSET in current limit or a sense trip sends a running group to HICCUP. -/
  | groupOutputFault (g : Fin 2) (sense : Option (Fin 3 × Bool))
  /-- HICCUP_EXPIRY (R281): HIC_MS elapses and the group soft-starts again or latches. -/
  | hiccupExpiry (g : Fin 2)
  /-- GROUP_LATCH_CLEAR (R281): A clear of a group's LATCH empties the hiccup window and restarts it. -/
  | groupLatchClear (g : Fin 2)
  /-- SYNC_LOCK_CHANGE (R280): A group gains or loses synchronisation lock to its reference instants. -/
  | syncLockChange (g : Fin 2) (trips : List Nat)
  /-- PHASE_WINDOW_END (R282): A 1,024-cycle window is judged and a phase may be declared OPEN or SENSE_LOST. -/
  | phaseWindowEnd (g : Fin 2) (w : PhaseWindow)
  /-- PHASE_READMIT (R283): A write to OPEN or SENSE_LOST re-admits a phase, or is refused when lasting. -/
  | phaseReadmit (g : Fin 2) (openBits senseBits : BitVec 3)
  /-- LOOP_ENABLE (R284): EN of a loop committed starts or stops its inverter. -/
  | loopEnable (x : Fin 2) (v : Word)
  /-- LOOP_CONTROL_UPDATE (R284): Every 100 µs the loop controller measures ILOOP and steps VSET within P_LIM. -/
  | loopControlUpdate (x : Fin 2) (m : LoopMeas)
  /-- LOOP_RETRY (R285): One second after an OPEN or OVER fault the loop retries. -/
  | loopRetry (x : Fin 2)
  /-- LOOP_LATCH_CLEAR (R285): A clear of a loop's LATCH restarts the loop. -/
  | loopLatchClear (x : Fin 2)
  /-- TELEMETRY_WINDOW (R287): An averaging window completes and AUX_TEL results are published. -/
  | telemetryWindow (g : Fin 2) (samples : List TelSample)
  /-- PEAK_CLR (R287): PEAK_CLR loads every peak and trough hold with the current sample. -/
  | peakClr
  /-- GDRV_XCMD (R289): Simultaneous inputs turn both switches off and latch XCMD. -/
  | gdrvXcmd (h : Fin 10)
  /-- GDRV_SENSE_TRIP (R290): A sense cell above threshold turns the switch off and latches SC_HI or SC_LO. -/
  | gdrvSenseTrip (h : Fin 10) (high : Bool)
  /-- GDRV_BST_UV (R291): A bootstrap below under-voltage holds the upper switch off and latches BST_UV. -/
  | gdrvBstUv (h : Fin 10) (mv : Nat)
  /-- GDRV_REFRESH (R291): A bootstrap refresh is inserted after REFRESH_N slots or on low bootstrap. The
  half-bridge, its slots, its bootstrap in mV, and the root ticks until then: the power die times it. -/
  | gdrvRefresh (h : Fin 10) (slots mv wait : Nat)
  /-- GDRV_LATCH_RELEASE (R292): An input edge with the cause gone releases a half-bridge fault latch. -/
  | gdrvLatchRelease (h : Fin 10) (high : Bool) (e : GateEdge)
  /-- GDRV_DISABLED_CLEAR (R292): A clear of DISABLED re-enables the half-bridge or is refused on low bootstrap. -/
  | gdrvDisabledClear (h : Fin 10) (bstMv : Nat)
  /-- PWM_CHANNEL_ENABLE (R293): EN 0 to 1 starts a channel's counter; EN 1 to 0 drives both outputs low. -/
  | pwmChannelEnable (c : Fin 16) (en : Bool)
  /-- PWM_COMMIT (R294): COMMIT bit c requests the channel's shadow copy at its next cut-off. -/
  | pwmCommit (mask : BitVec 16)
  /-- PWM_CUTOFF (R294): Four cycles before a channel's reload edge its committed shadow is copied. -/
  | pwmCutoff (c : Fin 16)
  /-- PWM_RELOAD (R294): A channel's counter reaches 0, applying copied settings and leaving a cycle-by-cycle trip. -/
  | pwmReload (c : Fin 16)
  /-- PWM_SYNC (R293): A sync source loads PHASE into a channel counter. -/
  | pwmSync (c : Fin 16) (src : PwmSync)
  /-- PWM_TRIP (R295): A masked unblanked trip input drives the channel's outputs to the trip state. -/
  | pwmTrip (c : Fin 16)
  /-- PWM_BLANK_END (R296): A blanking window closes and an input still active trips. -/
  | pwmBlankEnd (i : Fin 8)
  /-- PWM_TRIP_CLEAR (R298): A clear of TRIPPED is refused while an input is active, or returns outputs at the next reload. -/
  | pwmTripClear (c : Fin 16)
  /-- SAFETY_CYCLE (R302): Every 8 µs the supervisor evaluates all functions and answers the fence challenge. -/
  | safetyCycle (good fenceBad : Bool)
  /-- SAFETY_INPUT_CHANGE (R304): A safety input contact changes after its filter and may make the input active. -/
  | safetyInputChange (i : Fin 8) (aClosed bClosed : Bool) (held10us : Nat)
  /-- SI_DISCREPANCY (R304): Contacts disagree for DISC_MS and SI_DISC latches. -/
  | siDiscrepancy (i : Fin 8)
  /-- FEEDBACK_CHANGE (R306): A feedback contact changes state. -/
  | feedbackChange (m : Fin 8) (closed : Bool)
  /-- FB_MISMATCH (R306): Feedback fails its expected state within FB_T and trips. -/
  | fbMismatch (m : Fin 8)
  /-- DISAGREE (R307): One channel has tripped a function and the other not for AGREE_US; the module locks out. -/
  | disagree (f : Fin 16)
  /-- BROKEN_LINE (R327): A dual-rail line with equal rails for 2 cycles is declared broken and treated as asserted. -/
  | brokenLine (l : LineId) (kind : LineKind)
  /-- BROKEN_LINE_HEAL (R327): A broken line's rails differ for 16 cycles and it carries its value again. -/
  | brokenLineHeal (l : LineId)
  /-- RESTART_WINDOW_LONG (R309): A restart window outlasts RESTART_MAX and starts a controlled stop. -/
  | restartWindowLong
  /-- CSTOP_COMPLETE (R311): Every stall coasts or CS_COAST_MS elapses; the controlled stop ends in a trip. -/
  | cstopComplete
  /-- LOCKOUT_LOOP_OFF (R311): LOOP_OFF_S seconds in LOCKOUT commit EN 0 of both loops. -/
  | lockoutLoopOff
  /-- HOST_HALT_REQUEST (R311): HALT_REQ written sends a halt request to both channels and trips. -/
  | hostHaltRequest
  /-- HOST_CSTOP_REQUEST (R311): CSTOP_REQ written starts a controlled stop. -/
  | hostCstopRequest
  /-- FABRIC_CLOCK_LOSS (R143): The fence detects loss of the fabric clock and holds HALT on every lane. -/
  | fabricClockLoss
  /-- ROOT_PLL_RELOCK (R388): The root PLL locks again; PCIe retrains, time bases resume and the CTB becomes FREE. -/
  | rootPllRelock
  /-- RST_IN_CHANGE (R317): The lockout-reset input opens or closes; an opening after 50 ms to 5 s is a reset request. -/
  | rstInChange (closed svSaw : Bool) (afterMs : Nat)
  /-- RESET_HELD (R317): RST_IN stays closed for 5 s and RESET_HELD latches. -/
  | resetHeld
  /-- RESET_STUCK (R317): RST_IN stays closed for RST_STUCK_S and RESET_STUCK latches. -/
  | resetStuck
  /-- LOCKOUT_RESET (R318): A committed SAFE_RESET.REQ is judged as a lock-out reset request and accepted or refused. -/
  | lockoutReset (svAgrees : Bool)
  /-- PROOF_RUN (R321): PROOF_RUN written starts a full proof-test sweep. -/
  | proofRun
  /-- PROOF_TEST (R321): The groom runs one proof test; a failure latches PROOF_FAIL and trips. -/
  | proofTest (t : Fin 7) (bad : Option (Fin 4))
  /-- PROOF_OVERDUE (R322): A test's last pass becomes older than PT_MAX_H. -/
  | proofOverdue
  /-- POWER_UP_TESTS_DONE (R311): The power-up tests end and SAFE leaves TEST for LOCKOUT or NORMAL. -/
  | powerUpTestsDone (pass : Bool)
  /-- FABRIC_TIMEOUT (R328): A fabric target does not answer in 256 cycles; reads return all ones and writes drop. -/
  | fabricTimeout (kind : FabricErr) (a : Access)
  /-- CAP_CLR (R330): CAP_CLR clears the first-error record and FLT_MORE. -/
  | capClr
  /-- FABRIC_PROBE (R332): Every 10 ms the groom probes a captured fabric target to judge whether the cause persists. -/
  | fabricProbe (bad : Bool)
  /-- EVENT_DELIVERY (R336): Four cycles after an enabled occurrence its host and supervisor pending bits are set. -/
  | eventDelivery
  /-- EOI (R337): EOI written for an asserted vector sends its message again. -/
  | eoi (v : Word)
  /-- MSIX_HOLDOFF_EXPIRY (R337): The holdoff interval ends and a deferred message is sent if the vector is asserted. -/
  | msixHoldoffExpiry (v : Fin 32)
  /-- EVT_SW (R340): A write to EVT_SW makes one occurrence of each named software event. -/
  | evtSw (v : BitVec 16)
  /-- EVT_LOG_POP (R339): A read of EVT_LOG pops the head entry or reports empty. -/
  | evtLogPop (r : ReadReq)
  /-- FLASH_ERASE (R357): Command 0x10 erases a 64 KiB sector and invalidates verified entries. -/
  | flashErase (ok : Bool)
  /-- FLASH_PROGRAM (R357): Command 0x11 programs up to 1,024 bytes and invalidates verified entries. -/
  | flashProgram (ok : Bool)
  /-- IMAGE_VERIFY (R353): Command 0x20 with ACTION 0 verifies an image and records it in the verified table. -/
  | imageVerify (ue : Option (BitVec 29))
  /-- IMAGE_STAGE (R358): IMAGE_VERIFY with ACTION 1 stages verified firmware for the next requested restart. -/
  | imageStage (ue : Option (BitVec 29))
  /-- LANE_TABLE_APPLY (R365): IMAGE_VERIFY applying a kind 3 image writes lane equalisation rows lane by lane. -/
  | laneTableApply (ue : Option (BitVec 29)) (durable : Bool)
  /-- ADC_CAL_APPLY (R365): IMAGE_VERIFY applying a kind 4 image writes the ADC trims. -/
  | adcCalApply (ue : Option (BitVec 29)) (durable : Bool)
  /-- FENCE_PARAM_APPLY (R364): IMAGE_VERIFY applying a kind 5 image writes fence parameters and runs a confirmation in RUN. -/
  | fenceParamApply (ue : Option (BitVec 29)) (sv : Option Word) (durable : Bool)
  /-- OWNERSHIP_APPLY (R355): IMAGE_VERIFY applying a kind 6 record changes the owner keys, identity and policy. -/
  | ownershipApply (ue : Option (BitVec 29)) (w : OwnerWrite)
  /-- ATTEST_SIGN (R350): Command 0x21 builds and signs an attestation statement with the next index. -/
  | attestSign (durable : Bool)
  /-- READ_IDENTITY (R359): TACK_OP 0x01 returns the identity public key. -/
  | readIdentity
  /-- STATION_SET (R359): TACK_OP 0x02 stores a station key and resets its last SEQ. -/
  | stationSet (durable : Bool)
  /-- STATION_ERASE (R359): TACK_OP 0x03 erases a station key. -/
  | stationErase (durable : Bool)
  /-- INDEX_STATUS (R359): TACK_OP 0x04 reports the next index, R and indices remaining. -/
  | indexStatus
  /-- TACK_BAD_SUBOP (R359): A TACK_OP with an undefined sub-operation ends BAD_ARG. -/
  | tackBadSubop
  /-- TREE_GENERATED (R346): Background generation of a signature tree completes. -/
  | treeGenerated
  /-- CONFIRM (R363): CONFIRM written during a trial clears TRIAL and raises rollback counter 1. -/
  | confirm (durable : Bool)
  /-- TRIAL_TIMEOUT (R363): CONFIRM_S passes with TRIAL set and the supervisor restarts from PREV_BANK. -/
  | trialTimeout
  /-- FENCE_CONFIRMATION (R364): A committed UPD_FCONF snapshots the pending fence parameters in both channels. -/
  | fenceConfirmation (c : Word) (sv : Option Word)
  /-- FENCE_CONFIRMATION_DONE (R364): The fence confirmation is judged and pending values applied or left. -/
  | fenceConfirmationDone (durable : Bool)
  /-- FPEND_DISCARD (R364): FPEND_DISCARD discards the pending fence parameter set. -/
  | fpendDiscard
  /-- PAIR_ENABLE (R371): PAIR_CFG.EN committed starts or ends pair operation. -/
  | pairEnable (v : Word)
  /-- FORCE_LEAD (R371): FORCE_LEAD committed 1 makes the module lead. -/
  | forceLead
  /-- PSTAT_RX (R369): A PSTAT frame from the partner is accepted from either pair lane. -/
  | pstatRx (p : Fin 2) (f : List (BitVec 64))
  /-- POUT_RX (R369): A POUT frame of the partner's committed words is stored for tracking. -/
  | poutRx (p : Fin 2) (f : List (BitVec 64))
  /-- PAIR_LINK_LOSS (R371): No valid PSTAT for LOSS_PER periods moves the pair to LOST. -/
  | pairLinkLoss
  /-- DIGEST_UPDATE (R372): A yard, program or settings digest is recomputed after a change. -/
  | digestUpdate (d : Fin 3)
  /-- DIGEST_MISMATCH (R372): A digest differs from the partner's for 16 periods. -/
  | digestMismatch (d : Fin 3)
  /-- WITHDRAW (R381): The module switches off its stall-lane transmitters after a qualifying lock-out. -/
  | withdraw
  /-- POWER_ON (R386): Mains is first judged present and the front-end converter starts under power-on reset. -/
  | powerOn (lowestMv : Nat)
  /-- MODULE_RESET_RELEASE (R386): The root PLL locks and module reset is released, sampling straps and entering TEST. -/
  | moduleResetRelease (pairPresent : Bool) (slot : BitVec 6)
  /-- RESET_INPUT_ASSERT (R389): MRST_N held low for 10 µs requests a module reset. -/
  | resetInputAssert
  /-- RESET_INPUT_RELEASE (R389): MRST_N high for 10 µs allows the reset to be released. -/
  | resetInputRelease
  /-- SERVICE_BUTTON_CHANGE (R391): The service button opens or closes; an opening after 2–10 s requests a module reset. -/
  | serviceButtonChange (closed : Bool) (afterMs : Nat)
  /-- SERVICE_BUTTON_HELD (R391): The button is held 10 s and a retained-log record is written. -/
  | serviceButtonHeld
  /-- SERVICE_BUTTON_STUCK (R391): The button stays closed 60 s and a stuck record is written. -/
  | serviceButtonStuck
  /-- SERVICE_BUTTON_UNSTICK (R391): A stuck button stays open 1 s and returns to OPEN. -/
  | serviceButtonUnstick
  /-- MODULE_RESET (R390): After the 3 µs pre-reset phase the module reset asserts and every block returns to reset. -/
  | moduleReset
  /-- ECHO_RECEIVED (R114): An ECHO block from the partner arrives on a pair lane and is answered with an ECHO_RSP. -/
  | echoReceived (p : Fin 2) (payload : BitVec 64) (turn : BitVec 24)
  /-- BLOCK_RECEIVED (R111): A received block that completes no frame (an IDLE block, a block with an invalid sync header, an unknown block type or an orphan data block) is counted in LANE_IDLE_BITERR, LANE_SH_ERR or LANE_FRAMING. -/
  | blockReceived (n : Fin 50) (hdr : BitVec 2) (payload : BitVec 64)
  /-- TAMPER_INPUT_RELEASE (R226): The filtered tamper input returns to inactive, so that TAMPER_IN clears and a clear of TAMPER can be accepted. -/
  | tamperInputRelease
  /-- SVR_DEBUG_HALT (R286): A supervisor debug halt begins, freezing the power section and applying each PWM channel's HALT_MODE. -/
  | svrDebugHalt
  /-- SVR_DEBUG_RELEASE (R299): A supervisor debug halt ends, releasing the freeze and returning safe-mode PWM outputs at their next reload edge. -/
  | svrDebugRelease
  /-- BUS_54V_RETURN (R281): The 54 V bus rises back to 44 V or more, so that a group with EN = 1 leaves OFF for SOFT_START. -/
  | bus54vReturn (mv : Nat)
  /-- CAN_BUS_ERROR (R243): An error detected on the bus while receiving is counted in BUS_ERR and in REC, and may change the error state. -/
  | canBusError (n : Fin 2) (e : CanRxErr)
  /-- SO_OVERLOAD (R396): A safety output held in overload current limit for 5 ms opens its switch B and reads back de-energised. -/
  | soOverload (o : Fin 4)
  /-- BOOT_NO_BANK (R361): The boot ROM finds that neither bank verifies, ends the supervisor start without SVR_UP and leaves the supervisor down. -/
  | bootNoBank (trees : TreeCheck)
  /-- ADC_SETTLED (R261): The settling interval after a gain or reference change ends, and SETTLED bit k sets at the first sample instant outside it. -/
  | adcSettled (k : Fin 8)
  /-- PCIE_CONFIG_READY (R386): 100 ms after the later of module reset release and PERST_N release, the endpoint stops answering configuration requests with Configuration Request Retry Status. -/
  | pcieConfigReady
  /-- TRIP_INPUT_CHANGE (R296): A PWM trip input changes state after its TF filter; a pulse wholly inside a blanking window is counted in PWM_TRIP_BLANKED and TRIP_IN follows the input. -/
  | tripInputChange (i : Fin 8) (level : Bool) (widthNs : Nat)
  deriving DecidableEq, Repr

end Sys2Proof
end

