-- ==== Sys2Proof/Decode.lean ====
section
/-! DEFINITION. The command a word of the opcode table spells. The table's rows carry no bits: a command is an access, a protocol unit, a
pin or a time, not a word. The engine's own 64-bit instruction words (R172) are decoded by `eDecode` in Machine/Cme.lean. -/

namespace Sys2Proof

/-- No row of the table gives bits, so no word spells a command. -/
def decodeTableWord (_nbits _w : Nat) : Option Instr := none

end Sys2Proof
end

