-- ==== Sys2Proof/Config.lean ====
section
/-! DEFINITION. What the spec leaves open: free values (no body, so nothing can be proved of a value) and functions of
algorithms the spec leaves to the implementation. -/

namespace Sys2Proof.Config

/-- A fresh value each time it is drawn, applied to the counter State.freeIx: for values the spec does not state (log 8). -/
opaque free : Nat → Nat

/-- The rate a domain's servo chooses from its rate and the measured offset, both in units of 2⁻⁴⁰ (R214 states no algorithm). DESIGN
CHOICE, log 88. -/
opaque domainRate : Int → Int → Int

/-- Phase of the lanes' block grid, in 1/10 tick of elapsed time, after each lock of the root PLL: where marker slot 0 of a rate falls. The
spec states the spacing and that the lanes of a rate share it (R98, R99, log 173). -/
opaque blockOrigin : Nat → Nat → Nat

/-- Where the fall-back oscillator stands in a loop's cycle at an elapsed tick (R286, log 190). -/
opaque fallback : Nat → Nat

/-- Word of the per-board lane and ADC tables for the register at an address, set at manufacture (R105, R267, R352, log 27). -/
opaque boardWord : Nat → Nat

/-- Byte of flash as delivered, by flash byte address (log 18). -/
opaque flashShipped : Nat → Byte

/-- Byte `i` of the vendor public key in slot `k`, set at manufacture (R343, log 20). -/
opaque vendorKey : Nat → Nat → Byte

/-- The Dravmon vendor identifier and the revision of the PCIe function, which the spec does not state (R25, log 163). -/
opaque pciVendor : BitVec 16

/-- The revision the PCIe function shows beside its class code (R25, log 163). -/
opaque pciRevision : BitVec 8

/-- Byte `i` of the identifier I of tree `n` of level `l` of the identity key, which follows from the identity seed (R343, R346, log 20). -/
opaque identityTree : Nat → Nat → Nat → Byte

/-- Byte `i` of the root of that tree (R343, R346, log 20). -/
opaque identityRoot : Nat → Nat → Nat → Byte

/-- Byte `i` of the one-time signature that leaf `n` of level `l` gives a message (R346, log 20). -/
opaque identityOts : Nat → Nat → List Byte → Nat → Byte

/-- Byte `i` of the authentication path of leaf `n` of level `l` (R346, log 20). -/
opaque identityPath : Nat → Nat → Nat → Byte

end Sys2Proof.Config
end

