-- ==== Sys2Proof/Machine/RegMap.lean ====
section
/-! DEFINITION. The register map (R9, R10, R12, R16, R19): every register of every block, with its fields, their access
codes, places, lengths, lockability and reset values, as the register tables of the spec's chapters give them. Also the named
fields (namespace `F`) and register addresses (namespace `A`) the meanings use. Addresses are canonical: normal page,
bits [11:10] = 0 (R11). -/

namespace Sys2Proof.Machine

/-- The access code of a register field (R12, R16, R18, R19, R22). -/
inductive Kind where
  | rw | ro | w1c | cnt | ws | grd | res | lk
  deriving DecidableEq, Repr

/-- One field of a register: access code, lowest bit, length, whether the chapter marks it lockable, reset value. -/
structure FieldSpec where
  kind : Kind
  lo : Nat
  len : Nat
  lockable : Bool
  reset : Nat
  deriving DecidableEq, Repr

/-- A register, or an array of `n` registers `stride` bytes apart, at offset `off` of its block's normal pages. -/
structure RegRow where
  off : Nat
  n : Nat
  stride : Nat
  fields : List FieldSpec
  deriving DecidableEq, Repr

/-- A register block of R9: window base (of instance 0), type code, number of instances, the pages that hold registers, and its registers. -/
structure BlockSpec where
  base : Nat
  typ : Nat
  count : Nat
  pages : List Nat
  rows : List RegRow
  deriving DecidableEq, Repr

namespace RegMap

/-- Registers of SYS (01_register_and_host_access). -/
def sysRows : List RegRow := [
  ⟨0x0, 1, 4, [⟨.ro, 24, 8, false, 1⟩, ⟨.ro, 16, 8, false, 0⟩, ⟨.ro, 8, 8, false, 0⟩, ⟨.ro, 0, 8, false, 0⟩]⟩,  -- SYS_ID
  ⟨0x4, 1, 4, [⟨.ro, 0, 32, false, 0⟩]⟩,  -- SYS_CAP
  ⟨0x10, 1, 4, [⟨.w1c, 0, 16, false, 0⟩]⟩,  -- SYS_EVT_RAW
  ⟨0x14, 1, 4, [⟨.rw, 0, 16, false, 0⟩]⟩,  -- SYS_EVT_EN
  ⟨0x18, 1, 4, [⟨.rw, 16, 16, false, 0xffff⟩, ⟨.rw, 0, 16, false, 0⟩]⟩,  -- SYS_EVT_ROUTE
  ⟨0x1c, 1, 4, [⟨.w1c, 16, 1, false, 0⟩, ⟨.w1c, 3, 1, false, 0⟩, ⟨.w1c, 2, 1, false, 0⟩, ⟨.w1c, 1, 1, false, 0⟩, ⟨.w1c, 0, 1, false, 0⟩]⟩,  -- SYS_FAULT_STAT
  ⟨0x20, 1, 4, [⟨.cnt, 0, 16, false, 0⟩]⟩,  -- SYS_ERR_COUNT
  ⟨0x24, 1, 4, [⟨.lk, 0, 1, false, 0⟩]⟩,  -- SYS_LOCK
  ⟨0x8, 1, 4, [⟨.rw, 1, 1, true, 1⟩, ⟨.rw, 0, 1, true, 1⟩]⟩,  -- SYS_CTRL
  ⟨0xc, 1, 4, [⟨.ro, 3, 1, false, 0⟩, ⟨.ro, 2, 1, false, 0⟩, ⟨.ro, 1, 1, false, 0⟩, ⟨.ro, 0, 1, false, 0⟩]⟩,  -- SYS_STAT
  ⟨0x28, 1, 4, [⟨.ro, 16, 16, false, 0⟩, ⟨.ro, 8, 8, false, 9⟩, ⟨.ro, 0, 8, false, 0x41⟩]⟩,  -- SYS_PART
  ⟨0x2c, 1, 4, [⟨.ro, 0, 32, false, 0⟩]⟩,  -- SYS_SERIAL
  ⟨0x30, 1, 4, [⟨.ro, 8, 1, false, 0⟩, ⟨.ro, 0, 6, false, 0⟩]⟩,  -- SYS_SLOT
  ⟨0x34, 1, 4, [⟨.w1c, 8, 1, false, 0⟩, ⟨.w1c, 3, 1, false, 0⟩, ⟨.w1c, 2, 1, false, 0⟩, ⟨.w1c, 1, 1, false, 0⟩, ⟨.w1c, 0, 1, false, 1⟩]⟩,  -- SYS_RESET_CAUSE
  ⟨0x38, 1, 4, [⟨.rw, 0, 32, false, 0⟩]⟩,  -- SYS_SCRATCH
  ⟨0x80, 1, 4, [⟨.ws, 31, 1, false, 0⟩, ⟨.rw, 8, 8, false, 0⟩, ⟨.rw, 0, 8, false, 0⟩]⟩,  -- SYS_CMD
  ⟨0x84, 1, 4, [⟨.ro, 24, 8, false, 0⟩, ⟨.ro, 16, 8, false, 0⟩, ⟨.ro, 8, 8, false, 0⟩, ⟨.w1c, 5, 1, false, 0⟩, ⟨.w1c, 4, 1, false, 0⟩, ⟨.ro, 2, 2, false, 0⟩, ⟨.ro, 0, 2, false, 0⟩]⟩,  -- SYS_CMD_STAT
  ⟨0x88, 1, 4, [⟨.cnt, 0, 32, false, 0⟩]⟩,  -- SYS_CMD_REFUSED
  ⟨0x90, 8, 4, [⟨.rw, 0, 32, false, 0⟩]⟩,  -- SYS_CMD_ARG
  ⟨0xb0, 4, 4, [⟨.ro, 0, 32, false, 0⟩]⟩,  -- SYS_CMD_RES
  ⟨0x100, 1, 4, [⟨.grd, 0, 1, false, 0⟩]⟩,  -- SYS_RESTART
  ⟨0x1000, 256, 4, [⟨.rw, 0, 32, false, 0⟩]⟩  -- SYS_CMD_DATA
]

/-- Registers of HOST (01_register_and_host_access). -/
def hostRows : List RegRow := [
  ⟨0x0, 1, 4, [⟨.ro, 24, 8, false, 2⟩, ⟨.ro, 16, 8, false, 0⟩, ⟨.ro, 8, 8, false, 0⟩, ⟨.ro, 0, 8, false, 0⟩]⟩,  -- HOST_ID
  ⟨0x4, 1, 4, [⟨.ro, 0, 32, false, 0⟩]⟩,  -- HOST_CAP
  ⟨0x8, 1, 4, []⟩,  -- HOST_CTRL
  ⟨0xc, 1, 4, []⟩,  -- HOST_STAT
  ⟨0x10, 1, 4, [⟨.w1c, 0, 16, false, 0⟩]⟩,  -- HOST_EVT_RAW
  ⟨0x14, 1, 4, [⟨.rw, 0, 16, false, 0⟩]⟩,  -- HOST_EVT_EN
  ⟨0x18, 1, 4, [⟨.rw, 16, 16, false, 0xffff⟩, ⟨.rw, 0, 16, false, 0⟩]⟩,  -- HOST_EVT_ROUTE
  ⟨0x1c, 1, 4, [⟨.w1c, 3, 1, false, 0⟩, ⟨.w1c, 2, 1, false, 0⟩, ⟨.w1c, 1, 1, false, 0⟩, ⟨.w1c, 0, 1, false, 0⟩]⟩,  -- HOST_FAULT_STAT
  ⟨0x20, 1, 4, [⟨.cnt, 0, 16, false, 0⟩]⟩,  -- HOST_ERR_COUNT
  ⟨0x24, 1, 4, [⟨.lk, 0, 1, false, 0⟩]⟩,  -- HOST_LOCK
  ⟨0x28, 1, 4, [⟨.ro, 16, 3, false, 0⟩, ⟨.ro, 9, 1, false, 0⟩, ⟨.ro, 8, 1, false, 0⟩, ⟨.ro, 4, 4, false, 0⟩, ⟨.ro, 0, 4, false, 0⟩]⟩,  -- HOST_LINK
  ⟨0x2c, 1, 4, [⟨.rw, 8, 8, false, 0⟩, ⟨.ro, 0, 8, false, 0⟩]⟩,  -- HOST_NP
  ⟨0x30, 1, 4, [⟨.cnt, 0, 32, false, 0⟩]⟩,  -- HOST_NP_LIMIT_COUNT
  ⟨0x34, 1, 4, [⟨.cnt, 0, 32, false, 0⟩]⟩,  -- HOST_AER_COUNT
  ⟨0x38, 1, 4, [⟨.cnt, 0, 32, false, 0⟩]⟩,  -- HOST_LINK_DOWN_COUNT
  ⟨0x3000, 32, 16, [⟨.rw, 0, 32, false, 0⟩]⟩,  -- HOST_MSIX_ADDR_LO
  ⟨0x3004, 32, 16, [⟨.rw, 0, 32, false, 0⟩]⟩,  -- HOST_MSIX_ADDR_HI
  ⟨0x3008, 32, 16, [⟨.rw, 0, 32, false, 0⟩]⟩,  -- HOST_MSIX_DATA
  ⟨0x300c, 32, 16, [⟨.rw, 0, 1, false, 1⟩]⟩,  -- HOST_MSIX_VCTRL
  ⟨0x3200, 2, 4, [⟨.ro, 0, 32, false, 0⟩]⟩  -- HOST_MSIX_PBA
]

/-- Registers of EVT (14_faults_and_events). -/
def evtRows : List RegRow := [
  ⟨0x0, 1, 4, [⟨.ro, 24, 8, false, 3⟩, ⟨.ro, 16, 8, false, 0⟩, ⟨.ro, 8, 8, false, 0⟩, ⟨.ro, 0, 8, false, 0⟩]⟩,  -- EVT_ID
  ⟨0x4, 1, 4, [⟨.ro, 0, 32, false, 0⟩]⟩,  -- EVT_CAP
  ⟨0x10, 1, 4, [⟨.w1c, 0, 16, false, 0⟩]⟩,  -- EVT_EVT_RAW
  ⟨0x14, 1, 4, [⟨.rw, 0, 16, false, 0⟩]⟩,  -- EVT_EVT_EN
  ⟨0x18, 1, 4, [⟨.rw, 16, 16, false, 0xffff⟩, ⟨.rw, 0, 16, false, 0⟩]⟩,  -- EVT_EVT_ROUTE
  ⟨0x1c, 1, 4, [⟨.w1c, 4, 1, false, 0⟩, ⟨.w1c, 3, 1, false, 0⟩, ⟨.w1c, 2, 1, false, 0⟩, ⟨.w1c, 1, 1, false, 0⟩, ⟨.w1c, 0, 1, false, 0⟩]⟩,  -- EVT_FAULT_STAT
  ⟨0x20, 1, 4, [⟨.cnt, 0, 16, false, 0⟩]⟩,  -- EVT_ERR_COUNT
  ⟨0x24, 1, 4, [⟨.lk, 0, 1, false, 0⟩]⟩,  -- EVT_LOCK
  ⟨0x8, 1, 4, [⟨.rw, 8, 1, false, 1⟩, ⟨.rw, 0, 8, false, 0⟩]⟩,  -- EVT_CTRL
  ⟨0xc, 1, 4, [⟨.ro, 0, 9, false, 0⟩]⟩,  -- EVT_STAT
  ⟨0x28, 1, 4, [⟨.ws, 0, 16, false, 0⟩]⟩,  -- EVT_SW
  ⟨0x2c, 1, 4, [⟨.ws, 0, 32, false, 0⟩]⟩,  -- EVT_EOI
  ⟨0x30, 1, 4, [⟨.ro, 0, 32, false, 0⟩]⟩,  -- EVT_VEC_ASSERT
  ⟨0x38, 1, 4, [⟨.res, 0, 32, false, 0⟩]⟩,  -- EVT_LOG_LO
  ⟨0x3c, 1, 4, [⟨.res, 0, 32, false, 0⟩]⟩,  -- EVT_LOG_HI
  ⟨0x80, 8, 4, [⟨.w1c, 0, 32, false, 0⟩]⟩,  -- EVT_HPEND
  ⟨0xa0, 8, 4, [⟨.ro, 0, 32, false, 0⟩]⟩,  -- EVT_SPEND
  ⟨0xc0, 1, 4, [⟨.rw, 16, 16, false, 0xffff⟩, ⟨.rw, 0, 16, false, 0xffff⟩]⟩,  -- EVT_SW_ROUTE
  ⟨0xc4, 1, 4, [⟨.cnt, 0, 32, false, 0⟩]⟩,  -- EVT_LOG_DROP
  ⟨0x1000, 64, 4, [⟨.rw, 24, 5, false, 0⟩, ⟨.rw, 16, 5, false, 0⟩, ⟨.rw, 8, 5, false, 0⟩, ⟨.rw, 0, 5, false, 0⟩]⟩  -- EVT_MAP
]

/-- Registers of FLT (14_faults_and_events). -/
def fltRows : List RegRow := [
  ⟨0x0, 1, 4, [⟨.ro, 24, 8, false, 4⟩, ⟨.ro, 16, 8, false, 0⟩, ⟨.ro, 8, 8, false, 0⟩, ⟨.ro, 0, 8, false, 0⟩]⟩,  -- FLT_ID
  ⟨0x4, 1, 4, [⟨.ro, 0, 32, false, 0⟩]⟩,  -- FLT_CAP
  ⟨0x10, 1, 4, [⟨.w1c, 0, 16, false, 0⟩]⟩,  -- FLT_EVT_RAW
  ⟨0x14, 1, 4, [⟨.rw, 0, 16, false, 0⟩]⟩,  -- FLT_EVT_EN
  ⟨0x18, 1, 4, [⟨.rw, 16, 16, false, 0xffff⟩, ⟨.rw, 0, 16, false, 0⟩]⟩,  -- FLT_EVT_ROUTE
  ⟨0x1c, 1, 4, [⟨.w1c, 6, 1, false, 0⟩, ⟨.w1c, 5, 1, false, 0⟩, ⟨.w1c, 4, 1, false, 0⟩, ⟨.w1c, 3, 1, false, 0⟩, ⟨.w1c, 2, 1, false, 0⟩, ⟨.w1c, 1, 1, false, 0⟩, ⟨.w1c, 0, 1, false, 0⟩]⟩,  -- FLT_FAULT_STAT
  ⟨0x20, 1, 4, [⟨.cnt, 16, 16, false, 0⟩, ⟨.cnt, 0, 16, false, 0⟩]⟩,  -- FLT_ERR_COUNT
  ⟨0x24, 1, 4, [⟨.lk, 0, 1, false, 0⟩]⟩,  -- FLT_LOCK
  ⟨0x8, 1, 4, [⟨.ws, 0, 1, false, 0⟩]⟩,  -- FLT_CTRL
  ⟨0xc, 1, 4, [⟨.ro, 8, 8, false, 0⟩, ⟨.ro, 0, 1, false, 0⟩]⟩,  -- FLT_STAT
  ⟨0x28, 1, 4, [⟨.ro, 0, 32, false, 0⟩]⟩,  -- FLT_FIRST_ADDR
  ⟨0x2c, 1, 4, [⟨.ro, 31, 1, false, 0⟩, ⟨.ro, 16, 8, false, 0⟩, ⟨.ro, 12, 4, false, 0⟩, ⟨.ro, 8, 4, false, 0⟩]⟩,  -- FLT_FIRST_INFO
  ⟨0x30, 2, 4, [⟨.ro, 0, 32, false, 0⟩]⟩,  -- FLT_FIRST_CTB
  ⟨0x38, 1, 4, [⟨.cnt, 0, 32, false, 0⟩]⟩,  -- FLT_MORE
  ⟨0x3c, 1, 4, [⟨.cnt, 0, 32, false, 0⟩]⟩,  -- FLT_CE
  ⟨0x40, 1, 4, [⟨.rw, 24, 8, true, 0x10⟩, ⟨.rw, 8, 16, true, 0x3e8⟩]⟩,  -- FLT_CLASS0
  ⟨0x44, 6, 4, [⟨.rw, 24, 8, true, 4⟩, ⟨.rw, 8, 16, true, 0x3e8⟩]⟩,  -- FLT_CLASS1TO6
  ⟨0x5c, 1, 4, [⟨.rw, 24, 8, true, 0xff⟩, ⟨.rw, 8, 16, true, 0xea60⟩]⟩,  -- FLT_CLASS7
  ⟨0x80, 8, 4, [⟨.cnt, 0, 32, false, 0⟩]⟩,  -- FLT_COUNT
  ⟨0xa0, 1, 4, [⟨.w1c, 0, 8, false, 0⟩]⟩  -- FLT_LASTING
]

/-- Registers of SEC (15_security_and_update). -/
def secRows : List RegRow := [
  ⟨0x0, 1, 4, [⟨.ro, 24, 8, false, 5⟩, ⟨.ro, 16, 8, false, 0⟩, ⟨.ro, 8, 8, false, 0⟩, ⟨.ro, 0, 8, false, 0⟩]⟩,  -- SEC_ID
  ⟨0x4, 1, 4, [⟨.ro, 0, 32, false, 0⟩]⟩,  -- SEC_CAP
  ⟨0x10, 1, 4, [⟨.w1c, 0, 16, false, 0⟩]⟩,  -- SEC_EVT_RAW
  ⟨0x14, 1, 4, [⟨.rw, 0, 16, false, 0⟩]⟩,  -- SEC_EVT_EN
  ⟨0x18, 1, 4, [⟨.rw, 16, 16, false, 0xffff⟩, ⟨.rw, 0, 16, false, 0⟩]⟩,  -- SEC_EVT_ROUTE
  ⟨0x1c, 1, 4, [⟨.w1c, 6, 1, false, 0⟩, ⟨.w1c, 5, 1, false, 0⟩, ⟨.w1c, 4, 1, false, 0⟩, ⟨.w1c, 3, 1, false, 0⟩, ⟨.w1c, 2, 1, false, 0⟩, ⟨.w1c, 1, 1, false, 0⟩, ⟨.w1c, 0, 1, false, 0⟩]⟩,  -- SEC_FAULT_STAT
  ⟨0x20, 1, 4, [⟨.cnt, 16, 16, false, 0⟩, ⟨.cnt, 0, 16, false, 0⟩]⟩,  -- SEC_ERR_COUNT
  ⟨0x24, 1, 4, [⟨.lk, 0, 1, false, 0⟩]⟩,  -- SEC_LOCK
  ⟨0x8, 1, 4, [⟨.rw, 0, 1, true, 1⟩]⟩,  -- SEC_CTRL
  ⟨0xc, 1, 4, [⟨.ro, 30, 2, false, 0⟩, ⟨.ro, 5, 1, false, 0⟩, ⟨.ro, 3, 1, false, 0⟩, ⟨.ro, 2, 1, false, 0⟩, ⟨.ro, 1, 1, false, 0⟩, ⟨.ro, 0, 1, false, 0⟩]⟩,  -- SEC_STAT
  ⟨0x28, 1, 4, [⟨.ro, 0, 32, false, 0xaa⟩]⟩,  -- SEC_POLICY
  ⟨0x2c, 1, 4, [⟨.ro, 0, 32, false, 0⟩]⟩,  -- SEC_OWNER_ID
  ⟨0x30, 1, 4, [⟨.ro, 0, 30, false, 0⟩]⟩,  -- SEC_INDEX
  ⟨0x34, 1, 4, [⟨.ro, 0, 25, false, 0⟩]⟩,  -- SEC_RESERVED
  ⟨0x38, 6, 4, [⟨.ro, 0, 32, false, 0⟩]⟩,  -- SEC_ROLLBACK
  ⟨0x50, 1, 4, [⟨.ro, 16, 16, false, 0⟩, ⟨.ro, 0, 8, false, 0xf⟩]⟩,  -- SEC_KEYS
  ⟨0x54, 1, 4, [⟨.ro, 16, 16, false, 0⟩, ⟨.rw, 0, 3, false, 0⟩]⟩,  -- SEC_ATT
  ⟨0x80, 1, 4, [⟨.cnt, 0, 32, false, 0⟩]⟩,  -- SEC_SIGNS
  ⟨0x84, 1, 4, [⟨.cnt, 0, 32, false, 0⟩]⟩,  -- SEC_SKIPPED
  ⟨0x88, 1, 4, [⟨.cnt, 0, 32, false, 0⟩]⟩,  -- SEC_VERIFY_OK
  ⟨0x8c, 1, 4, [⟨.cnt, 0, 32, false, 0⟩]⟩,  -- SEC_VERIFY_FAIL
  ⟨0x90, 1, 4, [⟨.cnt, 0, 32, false, 0⟩]⟩,  -- SEC_TREES
  ⟨0x100, 1, 4, [⟨.grd, 0, 2, false, 1⟩]⟩,  -- SEC_TAMPER_CFG
  ⟨0x1000, 256, 4, [⟨.ro, 0, 32, false, 0⟩]⟩  -- SEC_ATT_DATA
]

/-- Registers of UPD (15_security_and_update). -/
def updRows : List RegRow := [
  ⟨0x0, 1, 4, [⟨.ro, 24, 8, false, 6⟩, ⟨.ro, 16, 8, false, 0⟩, ⟨.ro, 8, 8, false, 0⟩, ⟨.ro, 0, 8, false, 0⟩]⟩,  -- UPD_ID
  ⟨0x4, 1, 4, [⟨.ro, 0, 32, false, 0⟩]⟩,  -- UPD_CAP
  ⟨0x10, 1, 4, [⟨.w1c, 0, 16, false, 0⟩]⟩,  -- UPD_EVT_RAW
  ⟨0x14, 1, 4, [⟨.rw, 0, 16, false, 0⟩]⟩,  -- UPD_EVT_EN
  ⟨0x18, 1, 4, [⟨.rw, 16, 16, false, 0xffff⟩, ⟨.rw, 0, 16, false, 0⟩]⟩,  -- UPD_EVT_ROUTE
  ⟨0x1c, 1, 4, [⟨.w1c, 9, 1, false, 0⟩, ⟨.w1c, 8, 1, false, 0⟩, ⟨.w1c, 7, 1, false, 0⟩, ⟨.w1c, 6, 1, false, 0⟩, ⟨.w1c, 5, 1, false, 0⟩, ⟨.w1c, 4, 1, false, 0⟩, ⟨.w1c, 3, 1, false, 0⟩, ⟨.w1c, 2, 1, false, 0⟩, ⟨.w1c, 1, 1, false, 0⟩, ⟨.w1c, 0, 1, false, 0⟩]⟩,  -- UPD_FAULT_STAT
  ⟨0x20, 1, 4, [⟨.cnt, 0, 16, false, 0⟩]⟩,  -- UPD_ERR_COUNT
  ⟨0x24, 1, 4, [⟨.lk, 0, 1, false, 0⟩]⟩,  -- UPD_LOCK
  ⟨0x8, 1, 4, [⟨.ws, 1, 1, false, 0⟩, ⟨.ws, 0, 1, false, 0⟩]⟩,  -- UPD_CTRL
  ⟨0xc, 1, 4, [⟨.ro, 12, 1, false, 0⟩, ⟨.ro, 8, 1, false, 0⟩, ⟨.ro, 5, 1, false, 0⟩, ⟨.ro, 4, 1, false, 0⟩, ⟨.ro, 3, 1, false, 0⟩, ⟨.ro, 2, 1, false, 0⟩]⟩,  -- UPD_STAT
  ⟨0x28, 1, 4, [⟨.rw, 0, 16, true, 0x3c⟩]⟩,  -- UPD_CFG
  ⟨0x2c, 1, 4, [⟨.res, 0, 32, false, 0⟩]⟩,  -- UPD_FCONF_RES
  ⟨0x30, 1, 4, [⟨.ro, 0, 32, false, 0⟩]⟩,  -- UPD_CRC_FENCE
  ⟨0x34, 1, 4, [⟨.ro, 0, 32, false, 0⟩]⟩,  -- UPD_CRC_SV
  ⟨0x38, 1, 4, [⟨.ro, 0, 8, false, 0⟩]⟩,  -- UPD_RESTART_WHY
  ⟨0x80, 1, 4, [⟨.cnt, 0, 32, false, 0⟩]⟩,  -- UPD_RESTARTS
  ⟨0x84, 1, 4, [⟨.cnt, 0, 32, false, 0⟩]⟩,  -- UPD_TRIAL_FAILS
  ⟨0x88, 1, 4, [⟨.cnt, 0, 32, false, 0⟩]⟩,  -- UPD_FCONF_OK
  ⟨0x8c, 1, 4, [⟨.cnt, 0, 32, false, 0⟩]⟩,  -- UPD_FCONF_FAILS
  ⟨0x90, 1, 4, [⟨.cnt, 0, 32, false, 0⟩]⟩,  -- UPD_TABLE_DROPS
  ⟨0x100, 1, 4, [⟨.grd, 0, 32, false, 0⟩]⟩,  -- UPD_FCONF
  ⟨0x1000, 8, 8, [⟨.ro, 0, 32, false, 0⟩]⟩,  -- UPD_VTAB_ADDR
  ⟨0x1004, 8, 8, [⟨.ro, 31, 1, false, 0⟩, ⟨.ro, 30, 1, false, 0⟩, ⟨.ro, 8, 8, false, 0⟩, ⟨.ro, 0, 8, false, 0⟩]⟩  -- UPD_VTAB_INFO
]

/-- Registers of PAIR (16_pairing_and_availability). -/
def pairRows0 : List RegRow := [
  ⟨0x0, 1, 4, [⟨.ro, 24, 8, false, 7⟩, ⟨.ro, 16, 8, false, 0⟩, ⟨.ro, 8, 8, false, 0⟩, ⟨.ro, 0, 8, false, 0⟩]⟩,  -- PAIR_ID
  ⟨0x4, 1, 4, [⟨.ro, 0, 32, false, 0⟩]⟩,  -- PAIR_CAP
  ⟨0x10, 1, 4, [⟨.w1c, 0, 16, false, 0⟩]⟩,  -- PAIR_EVT_RAW
  ⟨0x14, 1, 4, [⟨.rw, 0, 16, false, 0⟩]⟩,  -- PAIR_EVT_EN
  ⟨0x18, 1, 4, [⟨.rw, 16, 16, false, 0xffff⟩, ⟨.rw, 0, 16, false, 0⟩]⟩,  -- PAIR_EVT_ROUTE
  ⟨0x1c, 1, 4, [⟨.w1c, 11, 3, false, 0⟩, ⟨.w1c, 10, 1, false, 0⟩, ⟨.w1c, 9, 1, false, 0⟩, ⟨.w1c, 8, 1, false, 0⟩, ⟨.w1c, 7, 1, false, 0⟩, ⟨.w1c, 6, 1, false, 0⟩, ⟨.w1c, 5, 1, false, 0⟩, ⟨.w1c, 4, 1, false, 0⟩, ⟨.w1c, 3, 1, false, 0⟩, ⟨.w1c, 2, 1, false, 0⟩, ⟨.w1c, 1, 1, false, 0⟩, ⟨.w1c, 0, 1, false, 0⟩]⟩,  -- PAIR_FAULT_STAT
  ⟨0x20, 1, 4, [⟨.cnt, 16, 16, false, 0⟩, ⟨.cnt, 0, 16, false, 0⟩]⟩,  -- PAIR_ERR_COUNT
  ⟨0x24, 1, 4, [⟨.lk, 0, 1, false, 0⟩]⟩,  -- PAIR_LOCK
  ⟨0x8, 1, 4, [⟨.rw, 0, 1, false, 0⟩]⟩,  -- PAIR_CTRL
  ⟨0xc, 1, 4, [⟨.ro, 24, 6, false, 0⟩, ⟨.ro, 16, 6, false, 0⟩, ⟨.ro, 8, 6, false, 0⟩, ⟨.ro, 5, 1, false, 0⟩, ⟨.ro, 4, 1, false, 0⟩, ⟨.ro, 3, 1, false, 0⟩, ⟨.ro, 0, 2, false, 0⟩]⟩,  -- PAIR_STAT
  ⟨0x28, 1, 4, [⟨.ro, 0, 32, false, 0⟩]⟩,  -- PAIR_PARTNER
  ⟨0x2c, 1, 4, [⟨.ro, 16, 8, false, 0⟩, ⟨.ro, 8, 8, false, 0⟩, ⟨.ro, 0, 8, false, 0⟩]⟩,  -- PAIR_FOLLOW
  ⟨0x30, 1, 4, [⟨.ro, 0, 32, false, 0⟩]⟩,  -- PAIR_DIG_YARD
  ⟨0x34, 1, 4, [⟨.ro, 0, 32, false, 0⟩]⟩,  -- PAIR_DIG_PROG
  ⟨0x38, 1, 4, [⟨.ro, 0, 32, false, 0⟩]⟩,  -- PAIR_DIG_SET
  ⟨0x3c, 1, 4, [⟨.ro, 0, 32, false, 0⟩]⟩,  -- PAIR_PDIG_YARD
  ⟨0x40, 1, 4, [⟨.ro, 0, 32, false, 0⟩]⟩,  -- PAIR_PDIG_PROG
  ⟨0x44, 1, 4, [⟨.ro, 0, 32, false, 0⟩]⟩,  -- PAIR_PDIG_SET
  ⟨0x48, 1, 4, [⟨.ro, 0, 32, false, 0⟩]⟩,  -- PAIR_CTB_DIFF
  ⟨0x4c, 1, 4, [⟨.rw, 8, 8, false, 0⟩, ⟨.ro, 0, 8, false, 0⟩]⟩,  -- PAIR_MIRROR_LAG
  ⟨0x60, 6, 4, [⟨.ro, 0, 32, false, 0⟩]⟩,  -- PAIR_CLAIM
  ⟨0x80, 1, 4, [⟨.cnt, 0, 32, false, 0⟩]⟩,  -- PAIR_PSTAT_RX
  ⟨0x84, 1, 4, [⟨.cnt, 0, 32, false, 0⟩]⟩,  -- PAIR_PSTAT_MISS
  ⟨0x88, 1, 4, [⟨.cnt, 0, 32, false, 0⟩]⟩  -- PAIR_TAKEOVERS
]

/-- Registers of PAIR (continued) (16_pairing_and_availability). -/
def pairRows1 : List RegRow := [
  ⟨0x8c, 1, 4, [⟨.cnt, 0, 32, false, 0⟩]⟩,  -- PAIR_YIELD_PER
  ⟨0x90, 1, 4, [⟨.cnt, 0, 32, false, 0⟩]⟩,  -- PAIR_CONFLICTS
  ⟨0x100, 1, 4, [⟨.grd, 31, 1, false, 0⟩, ⟨.grd, 30, 1, false, 0⟩, ⟨.grd, 29, 1, false, 1⟩, ⟨.grd, 28, 1, false, 0⟩, ⟨.grd, 16, 8, false, 0x10⟩, ⟨.grd, 0, 16, false, 0x101⟩]⟩  -- PAIR_CFG
]

/-- Registers of TIME (09_time). -/
def timeRows0 : List RegRow := [
  ⟨0x0, 1, 4, [⟨.ro, 24, 8, false, 8⟩, ⟨.ro, 16, 8, false, 0⟩, ⟨.ro, 8, 8, false, 0⟩, ⟨.ro, 0, 8, false, 0⟩]⟩,  -- TIME_ID
  ⟨0x4, 1, 4, [⟨.ro, 0, 32, false, 0⟩]⟩,  -- TIME_CAP
  ⟨0x10, 1, 4, [⟨.w1c, 0, 16, false, 0⟩]⟩,  -- TIME_EVT_RAW
  ⟨0x14, 1, 4, [⟨.rw, 0, 16, false, 0⟩]⟩,  -- TIME_EVT_EN
  ⟨0x18, 1, 4, [⟨.rw, 16, 16, false, 0xffff⟩, ⟨.rw, 0, 16, false, 0⟩]⟩,  -- TIME_EVT_ROUTE
  ⟨0x1c, 1, 4, [⟨.w1c, 8, 1, false, 0⟩, ⟨.w1c, 7, 1, false, 0⟩, ⟨.w1c, 6, 1, false, 0⟩, ⟨.w1c, 5, 1, false, 0⟩, ⟨.w1c, 4, 1, false, 0⟩, ⟨.w1c, 3, 1, false, 0⟩, ⟨.w1c, 2, 1, false, 0⟩, ⟨.w1c, 1, 1, false, 0⟩, ⟨.w1c, 0, 1, false, 0⟩]⟩,  -- TIME_FAULT_STAT
  ⟨0x20, 1, 4, [⟨.cnt, 24, 8, false, 0⟩, ⟨.cnt, 16, 8, false, 0⟩, ⟨.cnt, 0, 16, false, 0⟩]⟩,  -- TIME_ERR_COUNT
  ⟨0x24, 1, 4, [⟨.lk, 0, 1, false, 0⟩]⟩,  -- TIME_LOCK
  ⟨0x8, 1, 4, [⟨.ws, 7, 1, false, 0⟩, ⟨.ws, 6, 1, false, 0⟩, ⟨.rw, 5, 1, true, 1⟩, ⟨.rw, 4, 1, true, 1⟩, ⟨.rw, 0, 2, true, 0⟩]⟩,  -- TIME_CTRL
  ⟨0xc, 1, 4, [⟨.ro, 15, 1, false, 0⟩, ⟨.ro, 14, 1, false, 0⟩, ⟨.ro, 12, 2, false, 3⟩, ⟨.ro, 8, 3, false, 0⟩, ⟨.ro, 4, 3, false, 0⟩, ⟨.ro, 0, 2, false, 0⟩]⟩,  -- TIME_STAT
  ⟨0x28, 1, 4, [⟨.rw, 24, 8, true, 1⟩, ⟨.rw, 16, 8, true, 0⟩, ⟨.rw, 10, 1, true, 1⟩, ⟨.rw, 9, 1, false, 0⟩, ⟨.rw, 8, 1, false, 1⟩]⟩,  -- TIME_DOMCFG
  ⟨0x2c, 1, 4, [⟨.rw, 20, 8, true, 0xa⟩, ⟨.rw, 12, 8, true, 0xa⟩, ⟨.rw, 4, 8, true, 0x64⟩, ⟨.rw, 0, 4, true, 3⟩]⟩,  -- TIME_SERVO
  ⟨0x30, 1, 4, [⟨.rw, 24, 8, false, 0xa⟩, ⟨.rw, 16, 8, false, 0x3c⟩, ⟨.rw, 0, 16, false, 0xfa⟩]⟩,  -- TIME_LOCKCFG
  ⟨0x34, 1, 4, [⟨.w1c, 4, 4, false, 0⟩, ⟨.w1c, 0, 4, false, 0⟩]⟩,  -- TIME_ROLL
  ⟨0x38, 1, 4, [⟨.w1c, 0, 8, false, 0⟩]⟩,  -- TIME_CMP_FIRED
  ⟨0x3c, 1, 4, [⟨.ro, 24, 8, false, 0⟩, ⟨.ro, 16, 8, false, 0⟩, ⟨.ro, 8, 8, false, 0⟩, ⟨.ro, 0, 8, false, 0⟩]⟩,  -- TIME_ROLLCNT
  ⟨0x40, 2, 4, [⟨.ro, 0, 32, false, 0⟩]⟩,  -- TIME_CTB
  ⟨0x48, 1, 4, [⟨.ro, 0, 32, false, 0⟩]⟩,  -- TIME_CTB_RATE
  ⟨0x4c, 1, 4, [⟨.ro, 0, 32, false, 0⟩]⟩,  -- TIME_CTB_OFFS
  ⟨0x50, 4, 4, [⟨.ro, 0, 32, false, 0⟩]⟩,  -- TIME_TB
  ⟨0x60, 4, 4, [⟨.ro, 0, 32, false, 0⟩]⟩,  -- TIME_SNAP_TB
  ⟨0x70, 2, 4, [⟨.ro, 0, 32, false, 0⟩]⟩,  -- TIME_SNAP_CTB
  ⟨0x78, 1, 4, [⟨.ro, 0, 32, false, 0⟩]⟩,  -- TIME_SNAP_ROLLCNT
  ⟨0x80, 1, 4, [⟨.ro, 0, 32, false, 0⟩]⟩  -- TIME_DOMA_OFFS
]

/-- Registers of TIME (continued) (09_time). -/
def timeRows1 : List RegRow := [
  ⟨0x84, 1, 4, [⟨.ro, 0, 32, false, 0⟩]⟩,  -- TIME_DOMA_MPD
  ⟨0x88, 1, 4, [⟨.ro, 0, 32, false, 0⟩]⟩,  -- TIME_DOMB_OFFS
  ⟨0x8c, 1, 4, [⟨.ro, 0, 32, false, 0⟩]⟩,  -- TIME_DOMB_MPD
  ⟨0x90, 2, 4, [⟨.rw, 16, 16, true, 0⟩, ⟨.rw, 0, 16, true, 0⟩]⟩,  -- TIME_PORT
  ⟨0x98, 1, 4, [⟨.res, 0, 32, false, 0⟩]⟩,  -- TIME_TXTS1_LO
  ⟨0x9c, 1, 4, [⟨.res, 0, 32, false, 0⟩]⟩,  -- TIME_TXTS1_HI
  ⟨0xa0, 1, 4, [⟨.res, 0, 32, false, 0⟩]⟩,  -- TIME_TXTS2_LO
  ⟨0xa4, 1, 4, [⟨.res, 0, 32, false, 0⟩]⟩,  -- TIME_TXTS2_HI
  ⟨0xa8, 1, 4, [⟨.res, 0, 32, false, 0⟩]⟩,  -- TIME_CAP_LO
  ⟨0xac, 1, 4, [⟨.res, 0, 32, false, 0⟩]⟩,  -- TIME_CAP_HI
  ⟨0xb0, 1, 4, [⟨.cnt, 0, 32, false, 0⟩]⟩,  -- TIME_SYNC_RX_A
  ⟨0xb4, 1, 4, [⟨.cnt, 0, 32, false, 0⟩]⟩,  -- TIME_SYNC_RX_B
  ⟨0xb8, 1, 4, [⟨.cnt, 0, 32, false, 0⟩]⟩,  -- TIME_TC_FWD
  ⟨0xbc, 1, 4, [⟨.cnt, 0, 32, false, 0⟩]⟩,  -- TIME_PTP_DROP
  ⟨0x1000, 8, 16, [⟨.rw, 24, 8, false, 1⟩, ⟨.rw, 8, 4, false, 1⟩, ⟨.rw, 4, 2, false, 0⟩, ⟨.rw, 2, 1, false, 0⟩, ⟨.rw, 1, 1, false, 0⟩, ⟨.rw, 0, 1, false, 0⟩]⟩,  -- TIME_CMP_CFG
  ⟨0x1004, 8, 16, [⟨.rw, 0, 32, false, 0⟩]⟩,  -- TIME_CMP_VAL
  ⟨0x1008, 8, 16, [⟨.rw, 0, 32, false, 0⟩]⟩  -- TIME_CMP_PER
]

/-- Registers of RTC (09_time). -/
def rtcRows : List RegRow := [
  ⟨0x0, 1, 4, [⟨.ro, 24, 8, false, 9⟩, ⟨.ro, 16, 8, false, 0⟩, ⟨.ro, 8, 8, false, 0⟩, ⟨.ro, 0, 8, false, 0⟩]⟩,  -- RTC_ID
  ⟨0x4, 1, 4, [⟨.ro, 0, 32, false, 0⟩]⟩,  -- RTC_CAP
  ⟨0x10, 1, 4, [⟨.w1c, 0, 16, false, 0⟩]⟩,  -- RTC_EVT_RAW
  ⟨0x14, 1, 4, [⟨.rw, 0, 16, false, 0⟩]⟩,  -- RTC_EVT_EN
  ⟨0x18, 1, 4, [⟨.rw, 16, 16, false, 0xffff⟩, ⟨.rw, 0, 16, false, 0⟩]⟩,  -- RTC_EVT_ROUTE
  ⟨0x1c, 1, 4, [⟨.w1c, 6, 1, false, 0⟩, ⟨.w1c, 5, 1, false, 0⟩, ⟨.w1c, 4, 1, false, 0⟩, ⟨.w1c, 3, 1, false, 0⟩, ⟨.w1c, 2, 1, false, 0⟩, ⟨.w1c, 1, 1, false, 0⟩, ⟨.w1c, 0, 1, false, 0⟩]⟩,  -- RTC_FAULT_STAT
  ⟨0x20, 1, 4, [⟨.cnt, 16, 16, false, 0⟩, ⟨.cnt, 0, 16, false, 0⟩]⟩,  -- RTC_ERR_COUNT
  ⟨0x24, 1, 4, [⟨.lk, 0, 1, false, 0⟩]⟩,  -- RTC_LOCK
  ⟨0x8, 1, 4, [⟨.rw, 4, 1, true, 1⟩, ⟨.rw, 3, 1, true, 0⟩, ⟨.rw, 2, 1, false, 0⟩, ⟨.rw, 1, 1, false, 1⟩, ⟨.rw, 0, 1, false, 1⟩]⟩,  -- RTC_CTRL
  ⟨0xc, 1, 4, [⟨.ro, 8, 8, false, 0⟩, ⟨.ro, 3, 1, false, 0⟩, ⟨.ro, 2, 1, false, 0⟩, ⟨.ro, 1, 1, false, 0⟩, ⟨.ro, 0, 1, false, 0⟩]⟩,  -- RTC_STAT
  ⟨0x28, 1, 4, [⟨.ro, 0, 32, false, 0⟩]⟩,  -- RTC_SEC
  ⟨0x2c, 1, 4, [⟨.ro, 16, 15, false, 0⟩, ⟨.ro, 0, 16, false, 0⟩]⟩,  -- RTC_SECHI
  ⟨0x30, 1, 4, [⟨.rw, 0, 32, false, 0⟩]⟩,  -- RTC_SET
  ⟨0x34, 1, 4, [⟨.rw, 16, 15, false, 0⟩, ⟨.rw, 0, 16, false, 0⟩]⟩,  -- RTC_SETHI
  ⟨0x38, 1, 4, [⟨.rw, 18, 1, false, 0⟩, ⟨.rw, 17, 1, false, 0⟩, ⟨.rw, 16, 1, false, 0⟩, ⟨.rw, 0, 16, false, 0x25⟩]⟩,  -- RTC_UTC
  ⟨0x3c, 1, 4, [⟨.rw, 0, 16, false, 0⟩]⟩,  -- RTC_TRIM
  ⟨0x40, 1, 4, [⟨.rw, 0, 32, false, 0⟩]⟩,  -- RTC_ALARM
  ⟨0x48, 1, 4, [⟨.ro, 0, 32, false, 0⟩]⟩,  -- RTC_TAMPER_TS
  ⟨0x4c, 1, 4, [⟨.ro, 16, 15, false, 0⟩, ⟨.ro, 0, 16, false, 0⟩]⟩,  -- RTC_TAMPER_TSHI
  ⟨0x50, 1, 4, [⟨.ro, 8, 8, false, 0⟩, ⟨.rw, 0, 8, false, 0⟩]⟩,  -- RTC_LOG_IDX
  ⟨0x54, 4, 4, [⟨.ro, 0, 32, false, 0⟩]⟩,  -- RTC_LOG_DATA
  ⟨0x64, 1, 4, [⟨.cnt, 0, 32, false, 0⟩]⟩,  -- RTC_CORR
  ⟨0x100, 1, 4, [⟨.grd, 0, 1, false, 0⟩]⟩  -- RTC_CMD
]

/-- Registers of YARD (02_yard_model). -/
def yardRows : List RegRow := [
  ⟨0x0, 1, 4, [⟨.ro, 24, 8, false, 0x12⟩, ⟨.ro, 16, 8, false, 0⟩, ⟨.ro, 8, 8, false, 0⟩, ⟨.ro, 0, 8, false, 0⟩]⟩,  -- YARD_ID
  ⟨0x4, 1, 4, [⟨.ro, 0, 32, false, 0⟩]⟩,  -- YARD_CAP
  ⟨0x10, 1, 4, [⟨.w1c, 0, 16, false, 0⟩]⟩,  -- YARD_EVT_RAW
  ⟨0x14, 1, 4, [⟨.rw, 0, 16, false, 0⟩]⟩,  -- YARD_EVT_EN
  ⟨0x18, 1, 4, [⟨.rw, 16, 16, false, 0xffff⟩, ⟨.rw, 0, 16, false, 0⟩]⟩,  -- YARD_EVT_ROUTE
  ⟨0x1c, 1, 4, [⟨.w1c, 6, 1, false, 0⟩, ⟨.w1c, 5, 1, false, 0⟩, ⟨.w1c, 4, 1, false, 0⟩, ⟨.w1c, 3, 1, false, 0⟩, ⟨.w1c, 2, 1, false, 0⟩, ⟨.w1c, 1, 1, false, 0⟩, ⟨.w1c, 0, 1, false, 0⟩]⟩,  -- YARD_FAULT_STAT
  ⟨0x20, 1, 4, [⟨.cnt, 16, 16, false, 0⟩, ⟨.cnt, 0, 16, false, 0⟩]⟩,  -- YARD_ERR_COUNT
  ⟨0x24, 1, 4, [⟨.lk, 0, 1, false, 0⟩]⟩,  -- YARD_LOCK
  ⟨0x8, 1, 4, [⟨.ws, 2, 1, false, 0⟩, ⟨.ws, 1, 1, false, 0⟩, ⟨.ws, 0, 1, false, 0⟩]⟩,  -- YARD_CTRL
  ⟨0xc, 1, 4, [⟨.ro, 16, 8, false, 0⟩, ⟨.ro, 8, 8, false, 0⟩, ⟨.ro, 2, 6, false, 0⟩, ⟨.ro, 0, 2, false, 0⟩]⟩,  -- YARD_STAT
  ⟨0x28, 1, 4, [⟨.grd, 2, 2, false, 0⟩, ⟨.grd, 0, 2, false, 0⟩]⟩,  -- YARD_CFG
  ⟨0x2c, 1, 4, [⟨.grd, 0, 8, false, 0xa⟩]⟩,  -- YARD_PERIOD
  ⟨0x30, 6, 4, [⟨.ro, 19, 13, false, 0⟩, ⟨.rw, 6, 13, true, 0⟩, ⟨.rw, 3, 3, true, 0⟩, ⟨.rw, 0, 1, true, 0⟩]⟩,  -- YARD_ARM
  ⟨0x50, 1, 4, [⟨.res, 0, 32, false, 0⟩]⟩,  -- YARD_CHECK
  ⟨0x58, 2, 4, [⟨.ro, 0, 32, false, 0⟩]⟩,  -- YARD_PERIOD_NUM
  ⟨0x60, 6, 4, [⟨.ro, 0, 32, false, 0⟩]⟩,  -- YARD_ACTIVE
  ⟨0x80, 1, 4, [⟨.ro, 16, 16, false, 0⟩, ⟨.rw, 0, 16, true, 0x40⟩]⟩,  -- YARD_WARMUP
  ⟨0x1000, 16, 4, [⟨.rw, 0, 32, true, 0⟩]⟩,  -- YARD_FS
  ⟨0x2000, 64, 4, [⟨.rw, 16, 5, false, 0⟩, ⟨.rw, 0, 16, false, 0⟩]⟩  -- YARD_CONV
]

/-- Registers of EDGE (05_timed_edges). -/
def edgeRows0 : List RegRow := [
  ⟨0x0, 1, 4, [⟨.ro, 24, 8, false, 0x13⟩, ⟨.ro, 16, 8, false, 0⟩, ⟨.ro, 8, 8, false, 0⟩, ⟨.ro, 0, 8, false, 0⟩]⟩,  -- EDGE_ID
  ⟨0x4, 1, 4, [⟨.ro, 0, 32, false, 0⟩]⟩,  -- EDGE_CAP
  ⟨0x10, 1, 4, [⟨.w1c, 0, 16, false, 0⟩]⟩,  -- EDGE_EVT_RAW
  ⟨0x14, 1, 4, [⟨.rw, 0, 16, false, 0⟩]⟩,  -- EDGE_EVT_EN
  ⟨0x18, 1, 4, [⟨.rw, 16, 16, false, 0xffff⟩, ⟨.rw, 0, 16, false, 0⟩]⟩,  -- EDGE_EVT_ROUTE
  ⟨0x1c, 1, 4, [⟨.w1c, 8, 1, false, 0⟩, ⟨.w1c, 7, 1, false, 0⟩, ⟨.w1c, 6, 1, false, 0⟩, ⟨.w1c, 5, 1, false, 0⟩, ⟨.w1c, 4, 1, false, 0⟩, ⟨.w1c, 3, 1, false, 0⟩, ⟨.w1c, 2, 1, false, 0⟩, ⟨.w1c, 1, 1, false, 0⟩, ⟨.w1c, 0, 1, false, 0⟩]⟩,  -- EDGE_FAULT_STAT
  ⟨0x20, 1, 4, [⟨.cnt, 16, 16, false, 0⟩, ⟨.cnt, 0, 16, false, 0⟩]⟩,  -- EDGE_ERR_COUNT
  ⟨0x24, 1, 4, [⟨.lk, 0, 1, false, 0⟩]⟩,  -- EDGE_LOCK
  ⟨0x8, 1, 4, [⟨.rw, 1, 1, false, 0⟩, ⟨.ws, 0, 1, false, 0⟩]⟩,  -- EDGE_CTRL
  ⟨0xc, 1, 4, [⟨.ro, 8, 6, false, 0⟩, ⟨.ro, 1, 1, false, 0⟩, ⟨.ro, 0, 1, false, 0⟩]⟩,  -- EDGE_STAT
  ⟨0x28, 1, 4, [⟨.ro, 0, 16, false, 0⟩]⟩,  -- EDGE_RELOAD
  ⟨0x30, 1, 4, [⟨.res, 0, 32, false, 0⟩]⟩,  -- EDGE_CHECK
  ⟨0x38, 1, 4, [⟨.rw, 16, 15, false, 0x1000⟩, ⟨.rw, 0, 16, false, 0x400⟩]⟩,  -- EDGE_PRECHG
  ⟨0x40, 6, 32, [⟨.rw, 16, 16, false, 0⟩, ⟨.rw, 8, 8, false, 1⟩, ⟨.rw, 5, 1, false, 0⟩, ⟨.rw, 4, 1, false, 0⟩, ⟨.rw, 2, 2, false, 0⟩, ⟨.rw, 0, 2, false, 0⟩]⟩,  -- EDGE_ARM_MODE
  ⟨0x44, 6, 32, [⟨.rw, 16, 16, true, 0x7d⟩, ⟨.rw, 0, 16, true, 0x7d⟩]⟩,  -- EDGE_ARM_DT
  ⟨0x48, 6, 32, [⟨.rw, 0, 25, false, 0x2625a0⟩]⟩,  -- EDGE_ARM_CR
  ⟨0x4c, 6, 32, [⟨.rw, 0, 20, false, 0xf424⟩]⟩,  -- EDGE_ARM_ISO
  ⟨0x50, 6, 32, [⟨.rw, 0, 24, false, 0⟩]⟩,  -- EDGE_ARM_KQ
  ⟨0x54, 6, 32, [⟨.rw, 0, 16, false, 0x800⟩]⟩,  -- EDGE_ARM_SLEW
  ⟨0x100, 1, 4, [⟨.cnt, 0, 32, false, 0⟩]⟩,  -- EDGE_PULSE_DROP
  ⟨0x104, 1, 4, [⟨.cnt, 0, 32, false, 0⟩]⟩,  -- EDGE_ENTRY_OVF
  ⟨0x108, 1, 4, [⟨.cnt, 0, 32, false, 0⟩]⟩,  -- EDGE_CMD_REUSE
  ⟨0x10c, 1, 4, [⟨.cnt, 0, 32, false, 0⟩]⟩,  -- EDGE_NLM_DEFER
  ⟨0x120, 1, 4, [⟨.grd, 0, 1, false, 0⟩]⟩  -- EDGE_GUARD
]

/-- Registers of EDGE (continued) (05_timed_edges). -/
def edgeRows1 : List RegRow := [
  ⟨0x1000, 192, 4, [⟨.rw, 24, 7, false, 0⟩, ⟨.rw, 16, 6, false, 0⟩, ⟨.rw, 10, 1, false, 0⟩, ⟨.rw, 9, 1, false, 0⟩, ⟨.rw, 8, 1, false, 0⟩, ⟨.rw, 0, 6, false, 0⟩]⟩,  -- EDGE_STALL
  ⟨0x2000, 6, 16, [⟨.ro, 0, 16, false, 0⟩]⟩,  -- EDGE_ACMD0
  ⟨0x2004, 6, 16, [⟨.ro, 0, 16, false, 0⟩]⟩,  -- EDGE_ACMD1
  ⟨0x2008, 6, 16, [⟨.ro, 0, 16, false, 0⟩]⟩,  -- EDGE_ACMD2
  ⟨0x200c, 6, 16, [⟨.ro, 0, 16, false, 0⟩]⟩  -- EDGE_ACMD3
]

/-- Registers of BAL (06_arm_balancing). -/
def balRows0 : List RegRow := [
  ⟨0x0, 1, 4, [⟨.ro, 24, 8, false, 0x14⟩, ⟨.ro, 16, 8, false, 0⟩, ⟨.ro, 8, 8, false, 0⟩, ⟨.ro, 0, 8, false, 0⟩]⟩,  -- BAL_ID
  ⟨0x4, 1, 4, [⟨.ro, 0, 32, false, 0⟩]⟩,  -- BAL_CAP
  ⟨0x10, 1, 4, [⟨.w1c, 0, 16, false, 0⟩]⟩,  -- BAL_EVT_RAW
  ⟨0x14, 1, 4, [⟨.rw, 0, 16, false, 0⟩]⟩,  -- BAL_EVT_EN
  ⟨0x18, 1, 4, [⟨.rw, 16, 16, false, 0xffff⟩, ⟨.rw, 0, 16, false, 0⟩]⟩,  -- BAL_EVT_ROUTE
  ⟨0x1c, 1, 4, [⟨.w1c, 6, 1, false, 0⟩, ⟨.w1c, 5, 1, false, 0⟩, ⟨.w1c, 4, 1, false, 0⟩, ⟨.w1c, 3, 1, false, 0⟩, ⟨.w1c, 2, 1, false, 0⟩, ⟨.w1c, 1, 1, false, 0⟩, ⟨.w1c, 0, 1, false, 0⟩]⟩,  -- BAL_FAULT_STAT
  ⟨0x20, 1, 4, [⟨.cnt, 16, 16, false, 0⟩, ⟨.cnt, 0, 16, false, 0⟩]⟩,  -- BAL_ERR_COUNT
  ⟨0x24, 1, 4, [⟨.lk, 0, 1, false, 0⟩]⟩,  -- BAL_LOCK
  ⟨0x8, 1, 4, [⟨.rw, 0, 8, false, 1⟩]⟩,  -- BAL_CTRL
  ⟨0xc, 1, 4, [⟨.ro, 24, 8, false, 0⟩, ⟨.ro, 12, 1, false, 0⟩, ⟨.ro, 0, 12, false, 0⟩]⟩,  -- BAL_STAT
  ⟨0x2c, 1, 4, [⟨.rw, 16, 16, false, 0⟩, ⟨.ro, 0, 16, false, 0⟩]⟩,  -- BAL_DONE
  ⟨0x40, 6, 64, [⟨.rw, 16, 16, false, 0x80⟩, ⟨.rw, 8, 8, false, 0x10⟩, ⟨.rw, 4, 4, false, 2⟩, ⟨.rw, 2, 1, false, 0⟩, ⟨.rw, 0, 2, false, 0⟩]⟩,  -- BAL_ARM_CFG
  ⟨0x44, 6, 64, [⟨.rw, 16, 16, false, 0x7fff⟩, ⟨.rw, 0, 16, false, 0⟩]⟩,  -- BAL_ARM_BAND
  ⟨0x48, 6, 64, [⟨.rw, 24, 8, true, 4⟩, ⟨.rw, 0, 13, true, 0⟩]⟩,  -- BAL_ARM_LIM
  ⟨0x4c, 6, 64, [⟨.rw, 16, 16, false, 0x28f⟩, ⟨.rw, 0, 16, false, 0x148⟩]⟩,  -- BAL_ARM_IDB
  ⟨0x50, 6, 64, [⟨.rw, 16, 15, false, 0x800⟩, ⟨.rw, 0, 16, false, 0⟩]⟩,  -- BAL_ARM_SHARE
  ⟨0x54, 6, 64, [⟨.rw, 16, 15, false, 0x400⟩, ⟨.rw, 0, 16, false, 0⟩]⟩,  -- BAL_ARM_MVT
  ⟨0x58, 6, 64, [⟨.rw, 0, 16, false, 0x800⟩]⟩,  -- BAL_ARM_FLOOR
  ⟨0x60, 6, 64, [⟨.ro, 24, 8, false, 0⟩, ⟨.ro, 8, 13, false, 0⟩, ⟨.ro, 7, 1, false, 0⟩, ⟨.ro, 6, 1, false, 0⟩, ⟨.ro, 0, 2, false, 0⟩]⟩,  -- BAL_ARM_STAT
  ⟨0x64, 6, 64, [⟨.ro, 16, 16, false, 0⟩, ⟨.ro, 0, 16, false, 0⟩]⟩,  -- BAL_ARM_MEAS
  ⟨0x68, 6, 64, [⟨.ro, 8, 8, false, 0⟩, ⟨.ro, 0, 8, false, 0⟩]⟩,  -- BAL_ARM_LOW
  ⟨0x1c0, 1, 4, [⟨.cnt, 0, 32, false, 0⟩]⟩,  -- BAL_STALE_USED
  ⟨0x1c4, 1, 4, [⟨.cnt, 0, 32, false, 0⟩]⟩,  -- BAL_MISSING_COUNT
  ⟨0x1c8, 1, 4, [⟨.cnt, 0, 32, false, 0⟩]⟩  -- BAL_BYP_ORDERS
]

/-- Registers of BAL (continued) (06_arm_balancing). -/
def balRows1 : List RegRow := [
  ⟨0x1cc, 1, 4, [⟨.cnt, 0, 32, false, 0⟩]⟩,  -- BAL_SORT_ERR_COUNT
  ⟨0x1e0, 1, 4, [⟨.grd, 0, 6, false, 0⟩]⟩,  -- BAL_ARM_RESET
  ⟨0x1000, 192, 4, [⟨.rw, 0, 1, false, 0⟩]⟩,  -- BAL_STALL
  ⟨0x2000, 192, 4, [⟨.ro, 17, 1, false, 0⟩, ⟨.ro, 16, 1, false, 0⟩, ⟨.ro, 12, 4, false, 0⟩, ⟨.ro, 9, 3, false, 0⟩, ⟨.ro, 8, 1, false, 0⟩, ⟨.ro, 0, 8, false, 0xff⟩]⟩,  -- BAL_RES
  ⟨0x3000, 192, 4, [⟨.ro, 16, 16, false, 0⟩, ⟨.ro, 0, 16, false, 0⟩]⟩  -- BAL_TRIM
]

/-- Registers of CME (07_control_engine). -/
def cmeRows0 : List RegRow := [
  ⟨0x0, 1, 4, [⟨.ro, 24, 8, false, 0x15⟩, ⟨.ro, 16, 8, false, 0⟩, ⟨.ro, 8, 8, false, 0⟩, ⟨.ro, 0, 8, false, 0⟩]⟩,  -- CME_ID
  ⟨0x4, 1, 4, [⟨.ro, 0, 32, false, 0⟩]⟩,  -- CME_CAP
  ⟨0x10, 1, 4, [⟨.w1c, 0, 16, false, 0⟩]⟩,  -- CME_EVT_RAW
  ⟨0x14, 1, 4, [⟨.rw, 0, 16, false, 0⟩]⟩,  -- CME_EVT_EN
  ⟨0x18, 1, 4, [⟨.rw, 16, 16, false, 0xffff⟩, ⟨.rw, 0, 16, false, 0⟩]⟩,  -- CME_EVT_ROUTE
  ⟨0x1c, 1, 4, [⟨.w1c, 14, 1, false, 0⟩, ⟨.w1c, 13, 1, false, 0⟩, ⟨.w1c, 12, 1, false, 0⟩, ⟨.w1c, 11, 1, false, 0⟩, ⟨.w1c, 10, 1, false, 0⟩, ⟨.w1c, 9, 1, false, 0⟩, ⟨.w1c, 8, 1, false, 0⟩, ⟨.w1c, 7, 1, false, 0⟩, ⟨.w1c, 6, 1, false, 0⟩, ⟨.w1c, 5, 1, false, 0⟩, ⟨.w1c, 4, 1, false, 0⟩, ⟨.w1c, 3, 1, false, 0⟩, ⟨.w1c, 2, 1, false, 0⟩, ⟨.w1c, 1, 1, false, 0⟩, ⟨.w1c, 0, 1, false, 0⟩]⟩,  -- CME_FAULT_STAT
  ⟨0x20, 1, 4, [⟨.cnt, 16, 16, false, 0⟩, ⟨.cnt, 0, 16, false, 0⟩]⟩,  -- CME_ERR_COUNT
  ⟨0x24, 1, 4, [⟨.lk, 0, 1, false, 0⟩]⟩,  -- CME_LOCK
  ⟨0x8, 1, 4, [⟨.ws, 0, 1, false, 0⟩]⟩,  -- CME_CTRL
  ⟨0xc, 1, 4, [⟨.ro, 24, 6, false, 0⟩, ⟨.ro, 16, 6, false, 0⟩, ⟨.ro, 8, 6, false, 0⟩, ⟨.ro, 4, 1, false, 0⟩, ⟨.ro, 3, 1, false, 0⟩, ⟨.ro, 2, 1, false, 0⟩, ⟨.ro, 0, 2, false, 0⟩]⟩,  -- CME_STAT
  ⟨0x28, 1, 4, [⟨.rw, 0, 14, true, 0⟩]⟩,  -- CME_ENTRY
  ⟨0x2c, 1, 4, [⟨.rw, 8, 8, true, 1⟩, ⟨.rw, 0, 8, true, 1⟩]⟩,  -- CME_MISSCFG
  ⟨0x30, 1, 4, [⟨.res, 0, 32, false, 0⟩]⟩,  -- CME_CHECK_LO
  ⟨0x34, 1, 4, [⟨.res, 0, 32, false, 0⟩]⟩,  -- CME_CHECK_HI
  ⟨0x38, 1, 4, [⟨.ro, 16, 16, false, 0⟩, ⟨.ro, 0, 16, false, 0⟩]⟩,  -- CME_BUDGET
  ⟨0x3c, 1, 4, [⟨.rw, 16, 16, false, 0⟩, ⟨.ro, 0, 16, false, 0⟩]⟩,  -- CME_LASTRUN
  ⟨0x40, 1, 4, [⟨.ws, 0, 6, false, 0⟩]⟩,  -- CME_PRESET
  ⟨0x80, 1, 4, [⟨.cnt, 0, 32, false, 0⟩]⟩,  -- CME_OVERRUN_COUNT
  ⟨0x84, 1, 4, [⟨.cnt, 0, 32, false, 0⟩]⟩,  -- CME_MISS_COUNT
  ⟨0x88, 1, 4, [⟨.cnt, 0, 32, false, 0⟩]⟩,  -- CME_SAT_COUNT
  ⟨0x8c, 1, 4, [⟨.cnt, 0, 32, false, 0⟩]⟩,  -- CME_RAM_DROP
  ⟨0x90, 1, 4, [⟨.cnt, 0, 32, false, 0⟩]⟩,  -- CME_RAM_CE
  ⟨0xc0, 1, 4, [⟨.grd, 0, 1, false, 0⟩]⟩,  -- CME_DBG_CTRL
  ⟨0xc4, 1, 4, [⟨.rw, 16, 14, false, 0⟩, ⟨.rw, 2, 1, false, 0⟩, ⟨.ws, 1, 1, false, 0⟩, ⟨.rw, 0, 1, false, 0⟩]⟩  -- CME_DBG
]

/-- Registers of CME (continued) (07_control_engine). -/
def cmeRows1 : List RegRow := [
  ⟨0xc8, 1, 4, [⟨.ro, 17, 1, false, 0⟩, ⟨.ro, 16, 1, false, 0⟩, ⟨.ro, 0, 14, false, 0⟩]⟩,  -- CME_DBG_STAT
  ⟨0xcc, 1, 4, [⟨.rw, 9, 2, false, 0⟩, ⟨.rw, 4, 5, false, 0⟩, ⟨.rw, 0, 4, false, 0⟩]⟩,  -- CME_DBG_SEL
  ⟨0xd0, 1, 4, [⟨.ro, 0, 32, false, 0⟩]⟩,  -- CME_DBG_DATA
  ⟨0x100, 1, 4, [⟨.grd, 0, 6, false, 0⟩]⟩  -- CME_ARM_RESTORE
]

/-- Registers of ETH (10_ethernet_and_can). -/
def ethRows0 : List RegRow := [
  ⟨0x0, 1, 4, [⟨.ro, 24, 8, false, 0xa⟩, ⟨.ro, 16, 8, false, 0⟩, ⟨.ro, 8, 8, false, 0⟩, ⟨.ro, 0, 8, false, 0⟩]⟩,  -- ETH_ID
  ⟨0x4, 1, 4, [⟨.ro, 0, 32, false, 0⟩]⟩,  -- ETH_CAP
  ⟨0x10, 1, 4, [⟨.w1c, 0, 16, false, 0⟩]⟩,  -- ETH_EVT_RAW
  ⟨0x14, 1, 4, [⟨.rw, 0, 16, false, 0⟩]⟩,  -- ETH_EVT_EN
  ⟨0x18, 1, 4, [⟨.rw, 16, 16, false, 0xffff⟩, ⟨.rw, 0, 16, false, 0⟩]⟩,  -- ETH_EVT_ROUTE
  ⟨0x1c, 1, 4, [⟨.w1c, 8, 1, false, 0⟩, ⟨.w1c, 7, 1, false, 0⟩, ⟨.w1c, 6, 1, false, 0⟩, ⟨.w1c, 5, 1, false, 0⟩, ⟨.w1c, 3, 1, false, 0⟩, ⟨.w1c, 2, 1, false, 0⟩, ⟨.w1c, 1, 1, false, 0⟩, ⟨.w1c, 0, 1, false, 0⟩]⟩,  -- ETH_FAULT_STAT
  ⟨0x20, 1, 4, [⟨.cnt, 16, 16, false, 0⟩, ⟨.cnt, 0, 16, false, 0⟩]⟩,  -- ETH_ERR_COUNT
  ⟨0x24, 1, 4, [⟨.lk, 0, 1, false, 0⟩]⟩,  -- ETH_LOCK
  ⟨0x8, 1, 4, [⟨.rw, 10, 2, false, 0⟩, ⟨.rw, 8, 2, true, 0⟩, ⟨.rw, 4, 2, true, 0⟩, ⟨.rw, 3, 1, true, 1⟩, ⟨.rw, 2, 1, true, 0⟩, ⟨.rw, 1, 1, false, 1⟩, ⟨.rw, 0, 1, false, 0⟩]⟩,  -- ETH_CTRL
  ⟨0xc, 1, 4, [⟨.ro, 13, 1, false, 0⟩, ⟨.ro, 12, 1, false, 0⟩, ⟨.ro, 10, 1, false, 0⟩, ⟨.ro, 9, 1, false, 0⟩, ⟨.ro, 8, 1, false, 0⟩, ⟨.ro, 6, 1, false, 0⟩, ⟨.ro, 5, 1, false, 0⟩, ⟨.ro, 4, 1, false, 0⟩, ⟨.ro, 2, 1, false, 0⟩, ⟨.ro, 1, 1, false, 0⟩, ⟨.ro, 0, 1, false, 0⟩]⟩,  -- ETH_STAT
  ⟨0x28, 1, 4, [⟨.ro, 0, 32, false, 0⟩]⟩,  -- ETH_MAC_LO
  ⟨0x2c, 1, 4, [⟨.ro, 0, 16, false, 0⟩]⟩,  -- ETH_MAC_HI
  ⟨0x30, 1, 4, [⟨.rw, 0, 32, true, 0⟩]⟩,  -- ETH_IP12
  ⟨0x34, 1, 4, [⟨.rw, 0, 32, true, 0⟩]⟩,  -- ETH_MASK12
  ⟨0x38, 1, 4, [⟨.rw, 0, 32, true, 0⟩]⟩,  -- ETH_GW12
  ⟨0x3c, 1, 4, [⟨.rw, 0, 32, true, 0xc0a80a0a⟩]⟩,  -- ETH_IP3
  ⟨0x40, 1, 4, [⟨.rw, 0, 32, true, 0xffffff00⟩]⟩,  -- ETH_MASK3
  ⟨0x44, 1, 4, [⟨.rw, 0, 32, true, 0⟩]⟩,  -- ETH_GW3
  ⟨0x48, 1, 4, [⟨.rw, 0, 16, true, 0xb7fc⟩]⟩,  -- ETH_RRA
  ⟨0x4c, 1, 4, [⟨.rw, 16, 16, false, 0x3c⟩, ⟨.rw, 0, 16, false, 0x7d0⟩]⟩,  -- ETH_RED
  ⟨0x80, 3, 16, [⟨.cnt, 0, 32, false, 0⟩]⟩,  -- ETH_RX_OK
  ⟨0x84, 3, 16, [⟨.cnt, 0, 32, false, 0⟩]⟩,  -- ETH_RX_ERR
  ⟨0x88, 3, 16, [⟨.cnt, 0, 32, false, 0⟩]⟩,  -- ETH_RX_DROP
  ⟨0x8c, 3, 16, [⟨.cnt, 0, 32, false, 0⟩]⟩  -- ETH_TX_OK
]

/-- Registers of ETH (continued) (10_ethernet_and_can). -/
def ethRows1 : List RegRow := [
  ⟨0xb0, 1, 4, [⟨.cnt, 0, 32, false, 0⟩]⟩,  -- ETH_DUP_DISCARD
  ⟨0xb4, 1, 4, [⟨.cnt, 0, 32, false, 0⟩]⟩,  -- ETH_WRONG_LAN
  ⟨0xb8, 1, 4, [⟨.cnt, 0, 32, false, 0⟩]⟩,  -- ETH_HSR_FWD
  ⟨0xbc, 1, 4, [⟨.cnt, 0, 32, false, 0⟩]⟩,  -- ETH_HSR_OWN_REMOVED
  ⟨0xc0, 1, 4, [⟨.cnt, 0, 32, false, 0⟩]⟩,  -- ETH_RRA_OK
  ⟨0xc4, 1, 4, [⟨.cnt, 0, 32, false, 0⟩]⟩  -- ETH_RRA_REJ
]

/-- Registers of CAN (10_ethernet_and_can). -/
def canRows0 : List RegRow := [
  ⟨0x0, 1, 4, [⟨.ro, 24, 8, false, 0xb⟩, ⟨.ro, 16, 8, false, 0⟩, ⟨.ro, 8, 8, false, 0⟩, ⟨.ro, 0, 8, false, 0⟩]⟩,  -- CAN_ID
  ⟨0x4, 1, 4, [⟨.ro, 0, 32, false, 0⟩]⟩,  -- CAN_CAP
  ⟨0x10, 1, 4, [⟨.w1c, 0, 16, false, 0⟩]⟩,  -- CAN_EVT_RAW
  ⟨0x14, 1, 4, [⟨.rw, 0, 16, false, 0⟩]⟩,  -- CAN_EVT_EN
  ⟨0x18, 1, 4, [⟨.rw, 16, 16, false, 0xffff⟩, ⟨.rw, 0, 16, false, 0⟩]⟩,  -- CAN_EVT_ROUTE
  ⟨0x1c, 1, 4, [⟨.w1c, 11, 1, false, 0⟩, ⟨.w1c, 10, 1, false, 0⟩, ⟨.w1c, 9, 1, false, 0⟩, ⟨.w1c, 8, 1, false, 0⟩, ⟨.w1c, 7, 1, false, 0⟩, ⟨.w1c, 6, 1, false, 0⟩, ⟨.w1c, 5, 1, false, 0⟩, ⟨.w1c, 4, 1, false, 0⟩, ⟨.w1c, 3, 1, false, 0⟩, ⟨.w1c, 2, 1, false, 0⟩, ⟨.w1c, 1, 1, false, 0⟩, ⟨.w1c, 0, 1, false, 0⟩]⟩,  -- CAN_FAULT_STAT
  ⟨0x20, 1, 4, [⟨.cnt, 16, 16, false, 0⟩, ⟨.cnt, 0, 16, false, 0⟩]⟩,  -- CAN_ERR_COUNT
  ⟨0x24, 1, 4, [⟨.lk, 0, 1, false, 0⟩]⟩,  -- CAN_LOCK
  ⟨0x8, 1, 4, [⟨.rw, 7, 1, true, 0⟩, ⟨.rw, 6, 1, false, 0⟩, ⟨.rw, 5, 1, false, 0⟩, ⟨.rw, 4, 1, false, 0⟩, ⟨.rw, 3, 1, false, 0⟩, ⟨.ws, 2, 1, false, 0⟩, ⟨.rw, 1, 1, false, 1⟩, ⟨.rw, 0, 1, false, 0⟩]⟩,  -- CAN_CTRL
  ⟨0xc, 1, 4, [⟨.ro, 25, 1, false, 0⟩, ⟨.ro, 24, 1, false, 0⟩, ⟨.ro, 16, 7, false, 0⟩, ⟨.ro, 8, 7, false, 0⟩, ⟨.ro, 3, 1, false, 0⟩, ⟨.ro, 2, 1, false, 0⟩, ⟨.ro, 0, 2, false, 0⟩]⟩,  -- CAN_STAT
  ⟨0x28, 1, 4, [⟨.rw, 25, 7, false, 0x13⟩, ⟨.rw, 16, 8, false, 0x4e⟩, ⟨.rw, 8, 7, false, 0x13⟩, ⟨.rw, 0, 5, false, 7⟩]⟩,  -- CAN_NBT
  ⟨0x2c, 1, 4, [⟨.rw, 24, 4, false, 4⟩, ⟨.rw, 16, 5, false, 0x12⟩, ⟨.rw, 8, 4, false, 4⟩, ⟨.rw, 0, 5, false, 3⟩]⟩,  -- CAN_DBT
  ⟨0x30, 1, 4, [⟨.ro, 16, 7, false, 0⟩, ⟨.rw, 8, 7, false, 0⟩, ⟨.rw, 0, 1, false, 0⟩]⟩,  -- CAN_TDC
  ⟨0x34, 1, 4, [⟨.ro, 16, 9, false, 0⟩, ⟨.ro, 0, 9, false, 0⟩]⟩,  -- CAN_ECNT
  ⟨0x38, 1, 4, [⟨.rw, 31, 1, false, 0⟩, ⟨.rw, 28, 3, false, 0⟩, ⟨.rw, 0, 20, false, 0x3e8⟩]⟩,  -- CAN_TT_CFG
  ⟨0x3c, 1, 4, [⟨.rw, 29, 1, false, 0⟩, ⟨.rw, 0, 29, false, 0⟩]⟩,  -- CAN_TT_REF
  ⟨0x40, 1, 4, [⟨.ro, 16, 3, false, 0⟩, ⟨.ro, 9, 1, false, 0⟩, ⟨.ro, 8, 1, false, 0⟩, ⟨.ro, 0, 6, false, 0⟩]⟩,  -- CAN_TT_STAT
  ⟨0x44, 1, 4, [⟨.rw, 0, 32, false, 0⟩]⟩,  -- CAN_REF_DATA_LO
  ⟨0x48, 1, 4, [⟨.rw, 24, 4, false, 1⟩, ⟨.rw, 0, 24, false, 0⟩]⟩,  -- CAN_REF_DATA_HI
  ⟨0x80, 1, 4, [⟨.cnt, 0, 32, false, 0⟩]⟩,  -- CAN_TX_OK
  ⟨0x84, 1, 4, [⟨.cnt, 0, 32, false, 0⟩]⟩,  -- CAN_RX_OK
  ⟨0x88, 1, 4, [⟨.cnt, 0, 32, false, 0⟩]⟩,  -- CAN_RX_DROP
  ⟨0x8c, 1, 4, [⟨.cnt, 0, 32, false, 0⟩]⟩,  -- CAN_RX_UNDER
  ⟨0x90, 1, 4, [⟨.cnt, 0, 32, false, 0⟩]⟩  -- CAN_BUS_ERR
]

/-- Registers of CAN (continued) (10_ethernet_and_can). -/
def canRows1 : List RegRow := [
  ⟨0x94, 1, 4, [⟨.cnt, 0, 32, false, 0⟩]⟩,  -- CAN_ARB_LOST
  ⟨0x98, 1, 4, [⟨.cnt, 0, 32, false, 0⟩]⟩,  -- CAN_CAN_COLLISION
  ⟨0x9c, 1, 4, [⟨.cnt, 0, 32, false, 0⟩]⟩,  -- CAN_TT_MISS
  ⟨0x1000, 1, 4, [⟨.rw, 30, 1, false, 0⟩, ⟨.rw, 29, 1, false, 0⟩, ⟨.rw, 0, 29, false, 0⟩]⟩,  -- CAN_TXS_ID
  ⟨0x1004, 1, 4, [⟨.rw, 5, 1, false, 0⟩, ⟨.rw, 4, 1, false, 0⟩, ⟨.rw, 0, 4, false, 0⟩]⟩,  -- CAN_TXS_CTL
  ⟨0x1008, 1, 4, [⟨.rw, 31, 1, false, 0⟩, ⟨.rw, 28, 3, false, 0⟩, ⟨.rw, 22, 6, false, 0⟩, ⟨.rw, 0, 20, false, 0⟩]⟩,  -- CAN_TXS_TT
  ⟨0x100c, 1, 4, [⟨.ws, 31, 1, false, 0⟩, ⟨.rw, 0, 6, false, 0⟩]⟩,  -- CAN_TX_PUSH
  ⟨0x1040, 16, 4, [⟨.rw, 0, 32, false, 0⟩]⟩,  -- CAN_TXS_DATA
  ⟨0x1080, 2, 4, [⟨.ro, 0, 32, false, 0⟩]⟩,  -- CAN_TX_PEND
  ⟨0x1088, 2, 4, [⟨.w1c, 0, 32, false, 0⟩]⟩,  -- CAN_TX_DONE
  ⟨0x1090, 2, 4, [⟨.ws, 0, 32, false, 0⟩]⟩,  -- CAN_TX_CANCEL
  ⟨0x1098, 2, 4, [⟨.w1c, 0, 32, false, 0⟩]⟩,  -- CAN_TX_CANREF
  ⟨0x10c0, 1, 4, [⟨.res, 0, 32, false, 0⟩]⟩,  -- CAN_RX_TOP_LO
  ⟨0x10c4, 1, 4, [⟨.res, 0, 32, false, 0⟩]⟩,  -- CAN_RX_TOP_HI
  ⟨0x10c8, 2, 4, [⟨.ro, 0, 32, false, 0⟩]⟩,  -- CAN_RXW_TS
  ⟨0x10d0, 1, 4, [⟨.ro, 0, 7, false, 0⟩]⟩,  -- CAN_RX_LEVEL
  ⟨0x1100, 16, 4, [⟨.ro, 0, 32, false, 0⟩]⟩,  -- CAN_RXW_DATA
  ⟨0x2000, 32, 8, [⟨.rw, 31, 1, false, 0⟩, ⟨.rw, 29, 1, false, 0⟩, ⟨.rw, 0, 29, false, 0⟩]⟩,  -- CAN_FLT_ID
  ⟨0x2004, 32, 8, [⟨.rw, 0, 29, false, 0⟩]⟩,  -- CAN_FLT_MASK
  ⟨0x3000, 128, 4, [⟨.ro, 0, 32, false, 0⟩]⟩  -- CAN_TXTS
]

/-- Registers of LANE (04_lanes). DEDUCED, log 205. -/
def laneRows0 : List RegRow := [
  ⟨0x0, 1, 4, [⟨.ro, 24, 8, false, 0x20⟩, ⟨.ro, 16, 8, false, 0⟩, ⟨.ro, 8, 8, false, 0⟩, ⟨.ro, 0, 8, false, 0⟩]⟩,  -- LANE_ID
  ⟨0x4, 1, 4, [⟨.ro, 0, 32, false, 0⟩]⟩,  -- LANE_CAP
  ⟨0x10, 1, 4, [⟨.w1c, 0, 16, false, 0⟩]⟩,  -- LANE_EVT_RAW
  ⟨0x14, 1, 4, [⟨.rw, 0, 16, false, 0⟩]⟩,  -- LANE_EVT_EN
  ⟨0x18, 1, 4, [⟨.rw, 16, 16, false, 0xffff⟩, ⟨.rw, 0, 16, false, 0⟩]⟩,  -- LANE_EVT_ROUTE
  ⟨0x1c, 1, 4, [⟨.w1c, 7, 1, false, 0⟩, ⟨.w1c, 6, 1, false, 0⟩, ⟨.w1c, 5, 1, false, 0⟩, ⟨.w1c, 4, 1, false, 0⟩, ⟨.w1c, 3, 1, false, 0⟩, ⟨.w1c, 2, 1, false, 0⟩, ⟨.w1c, 1, 1, false, 0⟩, ⟨.w1c, 0, 1, false, 0⟩]⟩,  -- LANE_FAULT_STAT
  ⟨0x20, 1, 4, [⟨.cnt, 16, 16, false, 0⟩, ⟨.cnt, 0, 16, false, 0⟩]⟩,  -- LANE_ERR_COUNT
  ⟨0x24, 1, 4, [⟨.lk, 0, 1, false, 0⟩]⟩,  -- LANE_LOCK
  ⟨0x8, 1, 4, [⟨.rw, 24, 8, true, 0x40⟩, ⟨.rw, 16, 8, true, 0x60⟩, ⟨.rw, 4, 2, true, 0⟩, ⟨.ws, 3, 1, false, 0⟩, ⟨.ws, 2, 1, false, 0⟩, ⟨.ws, 1, 1, false, 0⟩, ⟨.rw, 0, 1, false, 0⟩]⟩,  -- LANE_CTRL
  ⟨0xc, 1, 4, [⟨.ro, 16, 8, false, 0⟩, ⟨.ro, 13, 1, false, 0⟩, ⟨.ro, 12, 1, false, 0⟩, ⟨.ro, 11, 1, false, 0⟩, ⟨.ro, 10, 1, false, 0⟩, ⟨.ro, 9, 1, false, 0⟩, ⟨.ro, 8, 1, false, 0⟩, ⟨.ro, 6, 2, false, 0⟩, ⟨.ro, 4, 2, false, 0⟩, ⟨.ro, 0, 4, false, 0⟩]⟩,  -- LANE_STAT
  ⟨0x28, 1, 4, [⟨.rw, 24, 8, false, 0x10⟩, ⟨.rw, 8, 16, false, 0x3e8⟩, ⟨.rw, 0, 8, false, 4⟩]⟩,  -- LANE_ERRCFG
  ⟨0x2c, 1, 4, [⟨.rw, 16, 8, false, 2⟩, ⟨.rw, 0, 16, false, 0x64⟩]⟩,  -- LANE_ECHOCFG
  ⟨0x30, 1, 4, [⟨.ro, 0, 24, false, 0⟩]⟩,  -- LANE_DLY
  ⟨0x34, 1, 4, [⟨.ro, 0, 24, false, 0⟩]⟩,  -- LANE_RT_RAW
  ⟨0x38, 1, 4, [⟨.ro, 16, 16, false, 0⟩, ⟨.ro, 0, 16, false, 0⟩]⟩,  -- LANE_LAT
  ⟨0x3c, 1, 4, [⟨.ro, 0, 8, false, 0xff⟩]⟩,  -- LANE_LAST_STALL
  ⟨0x80, 1, 4, [⟨.cnt, 0, 32, false, 0⟩]⟩,  -- LANE_SH_ERR
  ⟨0x84, 1, 4, [⟨.cnt, 0, 32, false, 0⟩]⟩,  -- LANE_LOCK_LOSS
  ⟨0x88, 1, 4, [⟨.cnt, 0, 32, false, 0⟩]⟩,  -- LANE_HIBER
  ⟨0x8c, 1, 4, [⟨.cnt, 0, 32, false, 0⟩]⟩,  -- LANE_FRAMING
  ⟨0x90, 1, 4, [⟨.cnt, 0, 32, false, 0⟩]⟩,  -- LANE_CRC_ERR
  ⟨0x94, 1, 4, [⟨.cnt, 0, 32, false, 0⟩]⟩,  -- LANE_MARKER_ERR
  ⟨0x98, 1, 4, [⟨.cnt, 0, 32, false, 0⟩]⟩,  -- LANE_IDLE_BITERR
  ⟨0x9c, 1, 4, [⟨.cnt, 0, 32, false, 0⟩]⟩  -- LANE_ECHO_LOST
]

/-- Registers of LANE (continued) (04_lanes). -/
def laneRows1 : List RegRow := [
  ⟨0xa0, 1, 4, [⟨.cnt, 0, 32, false, 0⟩]⟩,  -- LANE_RETRAIN
  ⟨0x1000, 4, 4, [⟨.rw, 31, 1, false, 0⟩, ⟨.rw, 29, 2, false, 0⟩, ⟨.rw, 20, 9, false, 0⟩, ⟨.rw, 16, 4, false, 0⟩, ⟨.rw, 12, 4, false, 0⟩, ⟨.rw, 8, 4, false, 0⟩, ⟨.rw, 4, 3, false, 0⟩, ⟨.rw, 0, 3, false, 0⟩]⟩,  -- LANE_EQ
  ⟨0x1010, 4, 4, [⟨.ro, 8, 8, false, 0⟩, ⟨.ro, 0, 8, false, 0⟩]⟩  -- LANE_FOM
]

/-- Registers of ADC (11_measurement_and_thermal). -/
def adcRows0 : List RegRow := [
  ⟨0x0, 1, 4, [⟨.ro, 24, 8, false, 0xc⟩, ⟨.ro, 16, 8, false, 0⟩, ⟨.ro, 8, 8, false, 0⟩, ⟨.ro, 0, 8, false, 0⟩]⟩,  -- ADC_ID
  ⟨0x4, 1, 4, [⟨.ro, 0, 32, false, 0⟩]⟩,  -- ADC_CAP
  ⟨0x10, 1, 4, [⟨.w1c, 0, 16, false, 0⟩]⟩,  -- ADC_EVT_RAW
  ⟨0x14, 1, 4, [⟨.rw, 0, 16, false, 0⟩]⟩,  -- ADC_EVT_EN
  ⟨0x18, 1, 4, [⟨.rw, 16, 16, false, 0xffff⟩, ⟨.rw, 0, 16, false, 0⟩]⟩,  -- ADC_EVT_ROUTE
  ⟨0x1c, 1, 4, [⟨.w1c, 10, 1, false, 0⟩, ⟨.w1c, 9, 1, false, 0⟩, ⟨.w1c, 8, 1, false, 0⟩, ⟨.w1c, 7, 1, false, 0⟩, ⟨.w1c, 6, 1, false, 0⟩, ⟨.w1c, 5, 1, false, 0⟩, ⟨.w1c, 4, 1, false, 0⟩, ⟨.w1c, 3, 1, false, 0⟩, ⟨.w1c, 2, 1, false, 0⟩, ⟨.w1c, 1, 1, false, 0⟩, ⟨.w1c, 0, 1, false, 0⟩]⟩,  -- ADC_FAULT_STAT
  ⟨0x20, 1, 4, [⟨.cnt, 16, 16, false, 0⟩, ⟨.cnt, 0, 16, false, 0⟩]⟩,  -- ADC_ERR_COUNT
  ⟨0x24, 1, 4, [⟨.lk, 0, 1, false, 0⟩]⟩,  -- ADC_LOCK
  ⟨0x8, 1, 4, [⟨.rw, 8, 8, false, 0⟩, ⟨.rw, 0, 1, true, 0⟩]⟩,  -- ADC_CTRL
  ⟨0xc, 1, 4, [⟨.ro, 25, 1, false, 0⟩, ⟨.ro, 24, 1, false, 0⟩, ⟨.ro, 16, 8, false, 0⟩, ⟨.ro, 8, 8, false, 0⟩, ⟨.ro, 0, 8, false, 0xff⟩]⟩,  -- ADC_STAT
  ⟨0x28, 1, 4, [⟨.ro, 16, 12, false, 0⟩, ⟨.ro, 0, 12, false, 0⟩]⟩,  -- ADC_CMP_LIVE
  ⟨0x2c, 1, 4, [⟨.w1c, 16, 12, false, 0⟩, ⟨.w1c, 0, 12, false, 0⟩]⟩,  -- ADC_CMP_TRIPPED
  ⟨0x30, 1, 4, [⟨.ro, 0, 12, false, 0⟩]⟩,  -- ADC_CMP_PEND
  ⟨0x34, 1, 4, [⟨.ro, 0, 16, false, 0⟩]⟩,  -- ADC_VREFX
  ⟨0x80, 1, 4, [⟨.cnt, 0, 32, false, 0⟩]⟩,  -- ADC_FIFO_OVF_COUNT
  ⟨0x84, 1, 4, [⟨.cnt, 0, 32, false, 0⟩]⟩,  -- ADC_TRIG_MISS_COUNT
  ⟨0x88, 1, 4, [⟨.cnt, 0, 32, false, 0⟩]⟩,  -- ADC_UNDERFLOW
  ⟨0x8c, 1, 4, [⟨.cnt, 0, 32, false, 0⟩]⟩,  -- ADC_CMP_TRIPS
  ⟨0x90, 1, 4, [⟨.cnt, 0, 32, false, 0⟩]⟩,  -- ADC_DISCARDS
  ⟨0x1000, 1, 4, [⟨.rw, 31, 1, false, 0⟩, ⟨.rw, 8, 3, false, 0⟩, ⟨.rw, 5, 2, false, 0⟩, ⟨.rw, 0, 5, false, 0⟩]⟩,  -- ADC_CH_CFG0
  ⟨0x1020, 1, 4, [⟨.rw, 31, 1, false, 0⟩, ⟨.rw, 8, 3, false, 0⟩, ⟨.rw, 5, 2, false, 0⟩, ⟨.rw, 0, 5, false, 1⟩]⟩,  -- ADC_CH_CFG1
  ⟨0x1040, 1, 4, [⟨.rw, 31, 1, false, 0⟩, ⟨.rw, 8, 3, false, 0⟩, ⟨.rw, 5, 2, false, 0⟩, ⟨.rw, 0, 5, false, 2⟩]⟩,  -- ADC_CH_CFG2
  ⟨0x1060, 1, 4, [⟨.rw, 31, 1, false, 0⟩, ⟨.rw, 8, 3, false, 0⟩, ⟨.rw, 5, 2, false, 0⟩, ⟨.rw, 0, 5, false, 3⟩]⟩,  -- ADC_CH_CFG3
  ⟨0x1080, 1, 4, [⟨.rw, 31, 1, false, 0⟩, ⟨.rw, 8, 3, false, 0⟩, ⟨.rw, 5, 2, false, 0⟩, ⟨.rw, 0, 5, false, 4⟩]⟩  -- ADC_CH_CFG4
]

/-- Registers of ADC (continued) (11_measurement_and_thermal). -/
def adcRows1 : List RegRow := [
  ⟨0x10a0, 1, 4, [⟨.rw, 31, 1, false, 0⟩, ⟨.rw, 8, 3, false, 0⟩, ⟨.rw, 5, 2, false, 0⟩, ⟨.rw, 0, 5, false, 5⟩]⟩,  -- ADC_CH_CFG5
  ⟨0x10c0, 1, 4, [⟨.rw, 31, 1, false, 0⟩, ⟨.rw, 8, 3, false, 0⟩, ⟨.rw, 5, 2, false, 0⟩, ⟨.rw, 0, 5, false, 6⟩]⟩,  -- ADC_CH_CFG6
  ⟨0x10e0, 1, 4, [⟨.rw, 31, 1, false, 0⟩, ⟨.rw, 8, 3, false, 0⟩, ⟨.rw, 5, 2, false, 0⟩, ⟨.rw, 0, 5, false, 7⟩]⟩,  -- ADC_CH_CFG7
  ⟨0x1004, 8, 32, [⟨.ws, 31, 1, false, 0⟩, ⟨.rw, 28, 3, false, 0⟩, ⟨.rw, 24, 4, false, 0⟩, ⟨.rw, 16, 8, false, 1⟩, ⟨.rw, 0, 16, false, 0⟩]⟩,  -- ADC_CH_TRIG
  ⟨0x1008, 8, 32, [⟨.rw, 0, 19, false, 0⟩]⟩,  -- ADC_CH_OFFS
  ⟨0x100c, 8, 32, [⟨.res, 0, 32, false, 0⟩]⟩,  -- ADC_CH_RES
  ⟨0x1010, 8, 32, [⟨.ro, 0, 32, false, 0⟩]⟩,  -- ADC_CH_TS_LO
  ⟨0x1014, 8, 32, [⟨.ro, 0, 16, false, 0⟩]⟩,  -- ADC_CH_TS_HI
  ⟨0x1018, 8, 32, [⟨.rw, 16, 7, false, 0⟩, ⟨.ro, 0, 7, false, 0⟩]⟩,  -- ADC_CH_LEVEL
  ⟨0x2000, 12, 4, [⟨.grd, 31, 1, false, 0⟩, ⟨.grd, 30, 1, false, 0⟩, ⟨.grd, 28, 2, false, 3⟩, ⟨.grd, 23, 3, false, 2⟩, ⟨.grd, 10, 10, false, 0x3ff⟩, ⟨.grd, 0, 10, false, 0⟩]⟩,  -- ADC_CMP
  ⟨0x2100, 12, 4, [⟨.ro, 31, 1, false, 0⟩, ⟨.ro, 30, 1, false, 0⟩, ⟨.ro, 28, 2, false, 3⟩, ⟨.ro, 23, 3, false, 2⟩, ⟨.ro, 10, 10, false, 0x3ff⟩, ⟨.ro, 0, 10, false, 0⟩]⟩,  -- ADC_CMP_ACT
  ⟨0x3000, 32, 8, [⟨.rw, 0, 16, false, 0⟩]⟩,  -- ADC_CAL_OFFS
  ⟨0x3004, 32, 8, [⟨.rw, 0, 16, false, 0x4000⟩]⟩  -- ADC_CAL_GTRIM
]

/-- Registers of THERM (11_measurement_and_thermal). -/
def thermRows : List RegRow := [
  ⟨0x0, 1, 4, [⟨.ro, 24, 8, false, 0xd⟩, ⟨.ro, 16, 8, false, 0⟩, ⟨.ro, 8, 8, false, 0⟩, ⟨.ro, 0, 8, false, 0⟩]⟩,  -- THERM_ID
  ⟨0x4, 1, 4, [⟨.ro, 0, 32, false, 0⟩]⟩,  -- THERM_CAP
  ⟨0x10, 1, 4, [⟨.w1c, 0, 16, false, 0⟩]⟩,  -- THERM_EVT_RAW
  ⟨0x14, 1, 4, [⟨.rw, 0, 16, false, 0⟩]⟩,  -- THERM_EVT_EN
  ⟨0x18, 1, 4, [⟨.rw, 16, 16, false, 0xffff⟩, ⟨.rw, 0, 16, false, 0⟩]⟩,  -- THERM_EVT_ROUTE
  ⟨0x1c, 1, 4, [⟨.w1c, 6, 1, false, 0⟩, ⟨.w1c, 5, 1, false, 0⟩, ⟨.w1c, 4, 1, false, 0⟩, ⟨.w1c, 3, 1, false, 0⟩, ⟨.w1c, 2, 1, false, 0⟩, ⟨.w1c, 1, 1, false, 0⟩, ⟨.w1c, 0, 1, false, 0⟩]⟩,  -- THERM_FAULT_STAT
  ⟨0x20, 1, 4, [⟨.cnt, 16, 16, false, 0⟩, ⟨.cnt, 0, 16, false, 0⟩]⟩,  -- THERM_ERR_COUNT
  ⟨0x24, 1, 4, [⟨.lk, 0, 1, false, 0⟩]⟩,  -- THERM_LOCK
  ⟨0x8, 1, 4, [⟨.rw, 8, 8, true, 0xf⟩, ⟨.rw, 0, 2, false, 0⟩]⟩,  -- THERM_CTRL
  ⟨0xc, 1, 4, [⟨.ro, 24, 6, false, 0⟩, ⟨.ro, 16, 6, false, 0⟩, ⟨.ro, 8, 6, false, 0⟩, ⟨.ro, 2, 1, false, 0⟩, ⟨.ro, 0, 2, false, 0⟩]⟩,  -- THERM_STAT
  ⟨0x28, 1, 4, [⟨.w1c, 0, 16, false, 0⟩]⟩,  -- THERM_FAILED
  ⟨0x2c, 1, 4, [⟨.rw, 8, 16, false, 0x2710⟩, ⟨.rw, 0, 8, false, 5⟩]⟩,  -- THERM_XCFG
  ⟨0x40, 1, 4, [⟨.grd, 24, 8, false, 0x7d⟩, ⟨.grd, 16, 8, false, 0x73⟩, ⟨.grd, 8, 8, false, 0x69⟩, ⟨.grd, 0, 8, false, 0x64⟩]⟩,  -- THERM_ZONE0
  ⟨0x44, 1, 4, [⟨.grd, 24, 8, false, 0x7d⟩, ⟨.grd, 16, 8, false, 0xff⟩, ⟨.grd, 8, 8, false, 0xff⟩, ⟨.grd, 0, 8, false, 0x64⟩]⟩,  -- THERM_ZONE1
  ⟨0x48, 1, 4, [⟨.grd, 24, 8, false, 0x8c⟩, ⟨.grd, 16, 8, false, 0x82⟩, ⟨.grd, 8, 8, false, 0x78⟩, ⟨.grd, 0, 8, false, 0x6e⟩]⟩,  -- THERM_ZONE2
  ⟨0x4c, 1, 4, [⟨.grd, 24, 8, false, 0x7d⟩, ⟨.grd, 16, 8, false, 0x73⟩, ⟨.grd, 8, 8, false, 0x6e⟩, ⟨.grd, 0, 8, false, 0x64⟩]⟩,  -- THERM_ZONE3
  ⟨0x50, 1, 4, [⟨.grd, 24, 8, false, 0x64⟩, ⟨.grd, 16, 8, false, 0x60⟩, ⟨.grd, 8, 8, false, 0x5c⟩, ⟨.grd, 0, 8, false, 0x58⟩]⟩,  -- THERM_ZONE4
  ⟨0x54, 1, 4, [⟨.grd, 24, 8, false, 0x5f⟩, ⟨.grd, 16, 8, false, 0x58⟩, ⟨.grd, 8, 8, false, 0x55⟩, ⟨.grd, 0, 8, false, 0x50⟩]⟩,  -- THERM_ZONE5
  ⟨0x60, 6, 4, [⟨.ro, 0, 16, false, 0⟩]⟩,  -- THERM_ZVAL
  ⟨0x80, 16, 4, [⟨.ro, 18, 1, false, 0⟩, ⟨.ro, 17, 1, false, 0⟩, ⟨.ro, 0, 16, false, 0⟩]⟩,  -- THERM_T
  ⟨0xc0, 1, 4, [⟨.cnt, 0, 32, false, 0⟩]⟩,  -- THERM_XCHK_FAULTS
  ⟨0xc4, 1, 4, [⟨.cnt, 0, 32, false, 0⟩]⟩,  -- THERM_THROTTLE_MS
  ⟨0xc8, 1, 4, [⟨.cnt, 0, 32, false, 0⟩]⟩  -- THERM_CRIT_COUNT
]

/-- Registers of AUX (12_power_section). -/
def auxRows0 : List RegRow := [
  ⟨0x0, 1, 4, [⟨.ro, 24, 8, false, 0xe⟩, ⟨.ro, 16, 8, false, 0⟩, ⟨.ro, 8, 8, false, 0⟩, ⟨.ro, 0, 8, false, 0⟩]⟩,  -- AUX_ID
  ⟨0x4, 1, 4, [⟨.ro, 0, 32, false, 0⟩]⟩,  -- AUX_CAP
  ⟨0x10, 1, 4, [⟨.w1c, 0, 16, false, 0⟩]⟩,  -- AUX_EVT_RAW
  ⟨0x14, 1, 4, [⟨.rw, 0, 16, false, 0⟩]⟩,  -- AUX_EVT_EN
  ⟨0x18, 1, 4, [⟨.rw, 16, 16, false, 0xffff⟩, ⟨.rw, 0, 16, false, 0⟩]⟩,  -- AUX_EVT_ROUTE
  ⟨0x1c, 1, 4, [⟨.w1c, 6, 1, false, 0⟩, ⟨.w1c, 5, 1, false, 0⟩, ⟨.w1c, 4, 1, false, 0⟩, ⟨.w1c, 3, 1, false, 0⟩, ⟨.w1c, 2, 1, false, 0⟩, ⟨.w1c, 1, 1, false, 0⟩, ⟨.w1c, 0, 1, false, 0⟩]⟩,  -- AUX_FAULT_STAT
  ⟨0x20, 1, 4, [⟨.cnt, 16, 16, false, 0⟩, ⟨.cnt, 0, 16, false, 0⟩]⟩,  -- AUX_ERR_COUNT
  ⟨0x24, 1, 4, [⟨.lk, 0, 1, false, 0⟩]⟩,  -- AUX_LOCK
  ⟨0x8, 1, 4, [⟨.ws, 8, 1, false, 0⟩, ⟨.rw, 0, 4, false, 8⟩]⟩,  -- AUX_CTRL
  ⟨0xc, 1, 4, [⟨.ro, 16, 16, false, 0⟩, ⟨.ro, 5, 1, false, 0⟩, ⟨.ro, 4, 1, false, 0⟩, ⟨.ro, 2, 2, false, 0⟩, ⟨.ro, 0, 2, false, 0⟩]⟩,  -- AUX_STAT
  ⟨0x28, 1, 4, [⟨.rw, 16, 16, true, 0xc350⟩, ⟨.rw, 0, 16, true, 0x2710⟩]⟩,  -- AUX_SYNC
  ⟨0x2c, 1, 4, [⟨.rw, 16, 16, false, 0x30d4⟩, ⟨.rw, 0, 16, false, 0x683⟩]⟩,  -- AUX_PHASE
  ⟨0x30, 2, 4, [⟨.ro, 17, 1, false, 0⟩, ⟨.ro, 0, 16, false, 0⟩]⟩,  -- AUX_FEED
  ⟨0x80, 1, 4, [⟨.cnt, 0, 32, false, 0⟩]⟩,  -- AUX_HICCUP_COUNT
  ⟨0x84, 1, 4, [⟨.cnt, 0, 32, false, 0⟩]⟩,  -- AUX_FEED_CHANGES
  ⟨0x88, 1, 4, [⟨.cnt, 0, 32, false, 0⟩]⟩,  -- AUX_FREEZE_COUNT
  ⟨0x8c, 1, 4, [⟨.cnt, 0, 32, false, 0⟩]⟩,  -- AUX_LOOP_FAULTS
  ⟨0x1000, 2, 64, [⟨.grd, 31, 1, false, 0⟩, ⟨.grd, 24, 7, false, 0xa⟩, ⟨.grd, 16, 8, false, 0x14⟩, ⟨.grd, 8, 8, false, 0xf0⟩, ⟨.grd, 0, 8, false, 0x64⟩]⟩,  -- AUX_GRP_CFG
  ⟨0x1004, 2, 64, [⟨.rw, 24, 8, false, 0x14⟩, ⟨.rw, 16, 8, false, 8⟩, ⟨.rw, 8, 8, false, 0x82⟩, ⟨.rw, 0, 8, false, 0xa⟩]⟩,  -- AUX_GRP_LIM
  ⟨0x1008, 2, 64, [⟨.ro, 28, 4, false, 0⟩, ⟨.ro, 24, 3, false, 0⟩, ⟨.ro, 23, 1, false, 0⟩, ⟨.ro, 22, 1, false, 0⟩, ⟨.ro, 21, 1, false, 0⟩, ⟨.ro, 0, 16, false, 0⟩]⟩,  -- AUX_GRP_STAT
  ⟨0x100c, 2, 64, [⟨.w1c, 11, 3, false, 0⟩, ⟨.w1c, 8, 3, false, 0⟩, ⟨.w1c, 4, 1, false, 0⟩, ⟨.w1c, 1, 1, false, 0⟩, ⟨.w1c, 0, 1, false, 0⟩]⟩,  -- AUX_GRP_FAULT
  ⟨0x1010, 2, 64, [⟨.ro, 16, 16, false, 0⟩, ⟨.ro, 0, 16, false, 0⟩]⟩,  -- AUX_GRP_PEAK
  ⟨0x1014, 2, 64, [⟨.ro, 0, 16, false, 0xffff⟩]⟩,  -- AUX_GRP_TROUGH
  ⟨0x2000, 2, 64, [⟨.grd, 31, 1, false, 0⟩, ⟨.grd, 16, 8, false, 0x64⟩, ⟨.grd, 0, 16, false, 0⟩]⟩  -- AUX_LOOP_CFG
]

/-- Registers of AUX (continued) (12_power_section). -/
def auxRows1 : List RegRow := [
  ⟨0x2008, 2, 64, [⟨.ro, 28, 4, false, 0⟩, ⟨.ro, 0, 16, false, 0⟩]⟩,  -- AUX_LOOP_STAT
  ⟨0x200c, 2, 64, [⟨.w1c, 6, 1, false, 0⟩, ⟨.w1c, 5, 1, false, 0⟩, ⟨.w1c, 4, 1, false, 0⟩]⟩,  -- AUX_LOOP_FAULT
  ⟨0x3000, 16, 4, [⟨.res, 0, 32, false, 0⟩]⟩  -- AUX_TEL
]

/-- Registers of GDRV (12_power_section). -/
def gdrvRows : List RegRow := [
  ⟨0x0, 1, 4, [⟨.ro, 24, 8, false, 0xf⟩, ⟨.ro, 16, 8, false, 0⟩, ⟨.ro, 8, 8, false, 0⟩, ⟨.ro, 0, 8, false, 0⟩]⟩,  -- GDRV_ID
  ⟨0x4, 1, 4, [⟨.ro, 0, 32, false, 0⟩]⟩,  -- GDRV_CAP
  ⟨0x8, 1, 4, []⟩,  -- GDRV_CTRL
  ⟨0x10, 1, 4, [⟨.w1c, 0, 16, false, 0⟩]⟩,  -- GDRV_EVT_RAW
  ⟨0x14, 1, 4, [⟨.rw, 0, 16, false, 0⟩]⟩,  -- GDRV_EVT_EN
  ⟨0x18, 1, 4, [⟨.rw, 16, 16, false, 0xffff⟩, ⟨.rw, 0, 16, false, 0⟩]⟩,  -- GDRV_EVT_ROUTE
  ⟨0x1c, 1, 4, [⟨.w1c, 7, 1, false, 0⟩, ⟨.w1c, 6, 1, false, 0⟩, ⟨.w1c, 5, 1, false, 0⟩, ⟨.w1c, 4, 1, false, 0⟩, ⟨.w1c, 3, 1, false, 0⟩, ⟨.w1c, 2, 1, false, 0⟩, ⟨.w1c, 1, 1, false, 0⟩, ⟨.w1c, 0, 1, false, 0⟩]⟩,  -- GDRV_FAULT_STAT
  ⟨0x20, 1, 4, [⟨.cnt, 16, 16, false, 0⟩, ⟨.cnt, 0, 16, false, 0⟩]⟩,  -- GDRV_ERR_COUNT
  ⟨0x24, 1, 4, [⟨.lk, 0, 1, false, 0⟩]⟩,  -- GDRV_LOCK
  ⟨0xc, 1, 4, [⟨.ro, 16, 10, false, 0⟩, ⟨.ro, 0, 10, false, 0⟩]⟩,  -- GDRV_STAT
  ⟨0x28, 1, 4, [⟨.rw, 16, 16, true, 0x3e8⟩, ⟨.rw, 8, 8, true, 0x10⟩, ⟨.rw, 0, 8, true, 8⟩]⟩,  -- GDRV_CFG
  ⟨0x80, 1, 4, [⟨.cnt, 0, 32, false, 0⟩]⟩,  -- GDRV_SC_COUNT
  ⟨0x84, 1, 4, [⟨.cnt, 0, 32, false, 0⟩]⟩,  -- GDRV_BST_UV_COUNT
  ⟨0x88, 1, 4, [⟨.cnt, 0, 32, false, 0⟩]⟩,  -- GDRV_XCMD_COUNT
  ⟨0x8c, 1, 4, [⟨.cnt, 0, 32, false, 0⟩]⟩,  -- GDRV_REFRESH_COUNT
  ⟨0x1000, 10, 4, [⟨.w1c, 11, 1, false, 0⟩, ⟨.w1c, 10, 1, false, 0⟩, ⟨.w1c, 9, 1, false, 0⟩, ⟨.w1c, 8, 1, false, 0⟩, ⟨.w1c, 7, 1, false, 0⟩, ⟨.ro, 2, 1, false, 0⟩, ⟨.ro, 1, 1, false, 0⟩, ⟨.ro, 0, 1, false, 0⟩]⟩  -- GDRV_HB
]

/-- Registers of PWM (12_power_section). -/
def pwmRows : List RegRow := [
  ⟨0x0, 1, 4, [⟨.ro, 24, 8, false, 0x10⟩, ⟨.ro, 16, 8, false, 0⟩, ⟨.ro, 8, 8, false, 0⟩, ⟨.ro, 0, 8, false, 0⟩]⟩,  -- PWM_ID
  ⟨0x4, 1, 4, [⟨.ro, 0, 32, false, 0⟩]⟩,  -- PWM_CAP
  ⟨0x10, 1, 4, [⟨.w1c, 0, 16, false, 0⟩]⟩,  -- PWM_EVT_RAW
  ⟨0x14, 1, 4, [⟨.rw, 0, 16, false, 0⟩]⟩,  -- PWM_EVT_EN
  ⟨0x18, 1, 4, [⟨.rw, 16, 16, false, 0xffff⟩, ⟨.rw, 0, 16, false, 0⟩]⟩,  -- PWM_EVT_ROUTE
  ⟨0x1c, 1, 4, [⟨.w1c, 4, 1, false, 0⟩, ⟨.w1c, 3, 1, false, 0⟩, ⟨.w1c, 2, 1, false, 0⟩, ⟨.w1c, 1, 1, false, 0⟩, ⟨.w1c, 0, 1, false, 0⟩]⟩,  -- PWM_FAULT_STAT
  ⟨0x20, 1, 4, [⟨.cnt, 16, 16, false, 0⟩, ⟨.cnt, 0, 16, false, 0⟩]⟩,  -- PWM_ERR_COUNT
  ⟨0x24, 1, 4, [⟨.lk, 0, 1, false, 0⟩]⟩,  -- PWM_LOCK
  ⟨0x8, 1, 4, [⟨.rw, 16, 16, false, 0⟩, ⟨.ws, 0, 16, false, 0⟩]⟩,  -- PWM_CTRL
  ⟨0xc, 1, 4, [⟨.ro, 16, 8, false, 0⟩, ⟨.ro, 0, 16, false, 0⟩]⟩,  -- PWM_STAT
  ⟨0x28, 8, 4, [⟨.rw, 31, 1, true, 0⟩, ⟨.rw, 24, 4, false, 0⟩, ⟨.rw, 22, 2, false, 0⟩, ⟨.rw, 14, 8, false, 0⟩, ⟨.rw, 0, 8, true, 5⟩]⟩,  -- PWM_TRIPIN
  ⟨0x80, 1, 4, [⟨.cnt, 0, 32, false, 0⟩]⟩,  -- PWM_TRIPS
  ⟨0x84, 1, 4, [⟨.cnt, 0, 32, false, 0⟩]⟩,  -- PWM_TRIP_BLANKED
  ⟨0x1000, 16, 32, [⟨.rw, 31, 1, false, 0⟩, ⟨.rw, 30, 1, false, 0⟩, ⟨.rw, 29, 1, false, 0⟩, ⟨.rw, 27, 2, true, 0⟩, ⟨.rw, 26, 1, true, 1⟩, ⟨.rw, 16, 9, true, 0⟩, ⟨.rw, 8, 3, false, 0⟩, ⟨.rw, 4, 3, false, 0⟩, ⟨.rw, 0, 4, false, 0⟩]⟩,  -- PWM_CH_CFG
  ⟨0x1004, 16, 32, [⟨.rw, 0, 24, false, 0⟩]⟩,  -- PWM_CH_PHASE
  ⟨0x1008, 16, 32, [⟨.rw, 0, 24, false, 0x61a8⟩]⟩,  -- PWM_CH_PER
  ⟨0x100c, 16, 32, [⟨.rw, 16, 10, false, 0x19⟩, ⟨.rw, 0, 10, false, 0x19⟩]⟩,  -- PWM_CH_DT
  ⟨0x1010, 16, 32, [⟨.rw, 0, 24, false, 0⟩]⟩,  -- PWM_CH_CMPA
  ⟨0x1014, 16, 32, [⟨.rw, 0, 24, false, 0⟩]⟩,  -- PWM_CH_CMPB
  ⟨0x1018, 16, 32, [⟨.ro, 24, 1, false, 0⟩, ⟨.ro, 0, 24, false, 0⟩]⟩,  -- PWM_CH_CNT
  ⟨0x101c, 16, 32, [⟨.w1c, 1, 1, false, 0⟩, ⟨.ro, 0, 1, false, 0⟩]⟩  -- PWM_CH_TRIP
]

/-- Registers of SAFE (13_safety). -/
def safeRows0 : List RegRow := [
  ⟨0x0, 1, 4, [⟨.ro, 24, 8, false, 0x11⟩, ⟨.ro, 16, 8, false, 0⟩, ⟨.ro, 8, 8, false, 0⟩, ⟨.ro, 0, 8, false, 0⟩]⟩,  -- SAFE_ID
  ⟨0x4, 1, 4, [⟨.ro, 0, 32, false, 0⟩]⟩,  -- SAFE_CAP
  ⟨0x10, 1, 4, [⟨.w1c, 0, 16, false, 0⟩]⟩,  -- SAFE_EVT_RAW
  ⟨0x14, 1, 4, [⟨.rw, 0, 16, false, 0⟩]⟩,  -- SAFE_EVT_EN
  ⟨0x18, 1, 4, [⟨.rw, 16, 16, false, 0xffff⟩, ⟨.rw, 0, 16, false, 0⟩]⟩,  -- SAFE_EVT_ROUTE
  ⟨0x1c, 1, 4, [⟨.w1c, 15, 1, false, 0⟩, ⟨.w1c, 14, 1, false, 0⟩, ⟨.w1c, 13, 1, false, 0⟩, ⟨.w1c, 12, 1, false, 0⟩, ⟨.w1c, 11, 1, false, 0⟩, ⟨.w1c, 10, 1, false, 0⟩, ⟨.w1c, 9, 1, false, 0⟩, ⟨.w1c, 8, 1, false, 0⟩, ⟨.w1c, 7, 1, false, 0⟩, ⟨.w1c, 6, 1, false, 0⟩, ⟨.w1c, 5, 1, false, 0⟩, ⟨.w1c, 4, 1, false, 0⟩, ⟨.w1c, 3, 1, false, 0⟩, ⟨.w1c, 2, 1, false, 0⟩, ⟨.w1c, 1, 1, false, 0⟩, ⟨.w1c, 0, 1, false, 0⟩]⟩,  -- SAFE_FAULT_STAT
  ⟨0x20, 1, 4, [⟨.cnt, 24, 8, false, 0⟩, ⟨.cnt, 16, 8, false, 0⟩, ⟨.cnt, 0, 16, false, 0⟩]⟩,  -- SAFE_ERR_COUNT
  ⟨0x24, 1, 4, [⟨.lk, 0, 1, false, 0⟩]⟩,  -- SAFE_LOCK
  ⟨0x8, 1, 4, [⟨.ws, 3, 1, false, 0⟩, ⟨.ws, 2, 1, false, 0⟩, ⟨.ws, 1, 1, false, 0⟩]⟩,  -- SAFE_CTRL
  ⟨0xc, 1, 4, [⟨.ro, 28, 4, false, 0⟩, ⟨.ro, 27, 1, false, 0⟩, ⟨.ro, 26, 1, false, 0⟩, ⟨.ro, 25, 1, false, 0⟩, ⟨.ro, 24, 1, false, 1⟩, ⟨.ro, 23, 1, false, 1⟩, ⟨.ro, 21, 2, false, 0⟩, ⟨.ro, 20, 1, false, 0⟩, ⟨.ro, 16, 4, false, 0⟩]⟩,  -- SAFE_STAT
  ⟨0x28, 1, 4, [⟨.ro, 24, 8, false, 0⟩, ⟨.ro, 16, 8, false, 0⟩, ⟨.ro, 8, 2, false, 0⟩]⟩,  -- SAFE_CAUSE
  ⟨0x2c, 1, 4, [⟨.ro, 0, 8, false, 0⟩]⟩,  -- SAFE_REFUSE
  ⟨0x30, 2, 4, [⟨.ro, 0, 32, false, 0⟩]⟩,  -- SAFE_CAUSE_CTB
  ⟨0x38, 1, 4, [⟨.ro, 16, 16, false, 0⟩, ⟨.ro, 0, 16, false, 0⟩]⟩,  -- SAFE_FN_LIVE
  ⟨0x3c, 1, 4, [⟨.ro, 24, 1, false, 0⟩, ⟨.ro, 16, 8, false, 0⟩, ⟨.ro, 8, 8, false, 0⟩, ⟨.ro, 0, 8, false, 0⟩]⟩,  -- SAFE_IN
  ⟨0x40, 1, 4, [⟨.ro, 12, 4, false, 0⟩, ⟨.ro, 8, 4, false, 0⟩, ⟨.ro, 0, 4, false, 0⟩]⟩,  -- SAFE_OUT
  ⟨0x44, 1, 4, [⟨.rw, 0, 4, false, 0⟩]⟩,  -- SAFE_SO_CMD
  ⟨0x48, 1, 4, [⟨.ro, 0, 24, false, 0⟩]⟩,  -- SAFE_PEND
  ⟨0x4c, 1, 4, [⟨.ro, 0, 16, false, 0⟩]⟩,  -- SAFE_PEND_FN
  ⟨0x50, 1, 4, [⟨.ro, 0, 8, false, 0⟩]⟩,  -- SAFE_CLASSB
  ⟨0x54, 1, 4, [⟨.ro, 16, 16, false, 0⟩, ⟨.ro, 8, 8, false, 0⟩, ⟨.ro, 0, 1, false, 0⟩]⟩,  -- SAFE_PROOF
  ⟨0x80, 1, 4, [⟨.cnt, 0, 32, false, 0⟩]⟩,  -- SAFE_TRIPS
  ⟨0x84, 1, 4, [⟨.cnt, 0, 32, false, 0⟩]⟩,  -- SAFE_CSTOPS
  ⟨0x88, 1, 4, [⟨.cnt, 0, 32, false, 0⟩]⟩  -- SAFE_DISAGREE_COUNT
]

/-- Registers of SAFE (continued) (13_safety). -/
def safeRows1 : List RegRow := [
  ⟨0x8c, 1, 4, [⟨.cnt, 0, 32, false, 0⟩]⟩,  -- SAFE_SV_WINDOWS
  ⟨0x90, 1, 4, [⟨.cnt, 0, 32, false, 0⟩]⟩,  -- SAFE_PROOF_RUNS
  ⟨0x100, 1, 4, [⟨.grd, 31, 1, false, 1⟩, ⟨.grd, 30, 1, false, 0⟩, ⟨.grd, 29, 1, false, 1⟩, ⟨.grd, 24, 5, false, 0⟩, ⟨.grd, 16, 8, false, 0x28⟩, ⟨.grd, 8, 8, false, 0x28⟩, ⟨.grd, 4, 4, false, 2⟩]⟩,  -- SAFE_CFG
  ⟨0x104, 1, 4, [⟨.grd, 24, 8, false, 5⟩, ⟨.grd, 16, 8, false, 5⟩, ⟨.grd, 0, 16, false, 0⟩]⟩,  -- SAFE_TIMES
  ⟨0x108, 1, 4, [⟨.grd, 20, 4, false, 0⟩, ⟨.grd, 0, 16, false, 0x11⟩]⟩,  -- SAFE_CLASSB_ACT
  ⟨0x10c, 1, 4, [⟨.grd, 24, 8, false, 0x18⟩, ⟨.grd, 0, 4, false, 0xf⟩]⟩,  -- SAFE_PROOF_CFG
  ⟨0x110, 1, 4, [⟨.grd, 0, 1, false, 0⟩]⟩,  -- SAFE_RESET
  ⟨0x120, 4, 4, [⟨.grd, 0, 2, false, 0⟩]⟩,  -- SAFE_SO
  ⟨0x140, 8, 4, [⟨.grd, 30, 2, false, 0⟩, ⟨.grd, 16, 7, false, 0x64⟩, ⟨.grd, 0, 16, false, 0x32⟩]⟩,  -- SAFE_SI
  ⟨0x160, 8, 4, [⟨.grd, 31, 1, false, 0⟩, ⟨.grd, 30, 1, false, 0⟩, ⟨.grd, 0, 2, false, 0⟩]⟩,  -- SAFE_FB
  ⟨0x180, 16, 4, [⟨.grd, 28, 4, false, 0⟩, ⟨.grd, 27, 1, false, 0⟩, ⟨.grd, 20, 4, false, 0⟩, ⟨.grd, 18, 2, false, 0⟩, ⟨.grd, 12, 4, false, 0⟩, ⟨.grd, 8, 4, false, 0⟩]⟩  -- SAFE_FN
]

/-- Every register block of the BAR0 map (R9). -/
def blocks : List BlockSpec := [
  ⟨0x0, 0x1, 1, [0, 1], sysRows⟩,
  ⟨0x10000, 0x2, 1, [0, 3], hostRows⟩,
  ⟨0x20000, 0x3, 1, [0, 1], evtRows⟩,
  ⟨0x30000, 0x4, 1, [0], fltRows⟩,
  ⟨0x40000, 0x5, 1, [0, 1], secRows⟩,
  ⟨0x50000, 0x6, 1, [0, 1], updRows⟩,
  ⟨0x60000, 0x7, 1, [0], pairRows0 ++ pairRows1⟩,
  ⟨0x70000, 0x8, 1, [0, 1], timeRows0 ++ timeRows1⟩,
  ⟨0x80000, 0x9, 1, [0], rtcRows⟩,
  ⟨0x120000, 0x12, 1, [0, 1, 2], yardRows⟩,
  ⟨0x130000, 0x13, 1, [0, 1, 2], edgeRows0 ++ edgeRows1⟩,
  ⟨0x140000, 0x14, 1, [0, 1, 2, 3], balRows0 ++ balRows1⟩,
  ⟨0x150000, 0x15, 1, [0], cmeRows0 ++ cmeRows1⟩,
  ⟨0x90000, 0xa, 1, [0], ethRows0 ++ ethRows1⟩,
  ⟨0xa0000, 0xb, 2, [0, 1, 2, 3], canRows0 ++ canRows1⟩,
  ⟨0x400000, 0x20, 50, [0, 1], laneRows0 ++ laneRows1⟩,
  ⟨0xc0000, 0xc, 1, [0, 1, 2, 3], adcRows0 ++ adcRows1⟩,
  ⟨0xd0000, 0xd, 1, [0], thermRows⟩,
  ⟨0xe0000, 0xe, 1, [0, 1, 2, 3], auxRows0 ++ auxRows1⟩,
  ⟨0xf0000, 0xf, 1, [0, 1], gdrvRows⟩,
  ⟨0x100000, 0x10, 1, [0, 1], pwmRows⟩,
  ⟨0x110000, 0x11, 1, [0], safeRows0 ++ safeRows1⟩
]

end RegMap

/-- A named field: canonical address of its register, lowest bit, length. -/
structure Fld where
  reg : Nat
  lo : Nat
  len : Nat
  deriving DecidableEq, Repr

/-! Canonical block base addresses (R9). -/
namespace Base

def SYS : Nat := 0x0
def HOST : Nat := 0x10000
def EVT : Nat := 0x20000
def FLT : Nat := 0x30000
def SEC : Nat := 0x40000
def UPD : Nat := 0x50000
def PAIR : Nat := 0x60000
def TIME : Nat := 0x70000
def RTC : Nat := 0x80000
def YARD : Nat := 0x120000
def EDGE : Nat := 0x130000
def BAL : Nat := 0x140000
def CME : Nat := 0x150000
def ETH : Nat := 0x90000
def CAN (n : Nat) : Nat := 0xa0000 + 0x10000 * n
def LANE (n : Nat) : Nat := 0x400000 + 0x10000 * n
def ADC : Nat := 0xc0000
def THERM : Nat := 0xd0000
def AUX : Nat := 0xe0000
def GDRV : Nat := 0xf0000
def PWM : Nat := 0x100000
def SAFE : Nat := 0x110000

end Base

namespace A

def SYS_PART : Nat := 0x28
def SYS_SERIAL : Nat := 0x2c
def SYS_SLOT : Nat := 0x30
def SYS_RESET_CAUSE : Nat := 0x34
def SYS_SCRATCH : Nat := 0x38
def SYS_CMD : Nat := 0x80
def SYS_CMD_STAT : Nat := 0x84
def SYS_CMD_REFUSED : Nat := 0x88
def SYS_CMD_ARG (i : Nat) : Nat := 0x90 + 4 * i
def SYS_CMD_RES (i : Nat) : Nat := 0xb0 + 4 * i
def SYS_RESTART : Nat := 0x100
def SYS_CMD_DATA (i : Nat) : Nat := 0x1000 + 4 * i
def HOST_LINK : Nat := 0x10028
def HOST_NP : Nat := 0x1002c
def HOST_NP_LIMIT_COUNT : Nat := 0x10030
def HOST_AER_COUNT : Nat := 0x10034
def HOST_LINK_DOWN_COUNT : Nat := 0x10038
def HOST_MSIX_ADDR_LO (i : Nat) : Nat := 0x13000 + 16 * i
def HOST_MSIX_ADDR_HI (i : Nat) : Nat := 0x13004 + 16 * i
def HOST_MSIX_DATA (i : Nat) : Nat := 0x13008 + 16 * i
def HOST_MSIX_VCTRL (i : Nat) : Nat := 0x1300c + 16 * i
def HOST_MSIX_PBA (i : Nat) : Nat := 0x13200 + 4 * i
def EVT_SW : Nat := 0x20028
def EVT_EOI : Nat := 0x2002c
def EVT_VEC_ASSERT : Nat := 0x20030
def EVT_LOG_LO : Nat := 0x20038
def EVT_LOG_HI : Nat := 0x2003c
def EVT_HPEND (i : Nat) : Nat := 0x20080 + 4 * i
def EVT_SPEND (i : Nat) : Nat := 0x200a0 + 4 * i
def EVT_SW_ROUTE : Nat := 0x200c0
def EVT_LOG_DROP : Nat := 0x200c4
def EVT_MAP (i : Nat) : Nat := 0x21000 + 4 * i
def FLT_FIRST_ADDR : Nat := 0x30028
def FLT_FIRST_INFO : Nat := 0x3002c
def FLT_FIRST_CTB (i : Nat) : Nat := 0x30030 + 4 * i
def FLT_MORE : Nat := 0x30038
def FLT_CE : Nat := 0x3003c
def FLT_CLASS0 : Nat := 0x30040
def FLT_CLASS1TO6 (i : Nat) : Nat := 0x30044 + 4 * i
def FLT_CLASS7 : Nat := 0x3005c
def FLT_COUNT (i : Nat) : Nat := 0x30080 + 4 * i
def FLT_LASTING : Nat := 0x300a0
def SEC_POLICY : Nat := 0x40028
def SEC_OWNER_ID : Nat := 0x4002c
def SEC_INDEX : Nat := 0x40030
def SEC_RESERVED : Nat := 0x40034
def SEC_ROLLBACK (i : Nat) : Nat := 0x40038 + 4 * i
def SEC_KEYS : Nat := 0x40050
def SEC_ATT : Nat := 0x40054
def SEC_SIGNS : Nat := 0x40080
def SEC_SKIPPED : Nat := 0x40084
def SEC_VERIFY_OK : Nat := 0x40088
def SEC_VERIFY_FAIL : Nat := 0x4008c
def SEC_TREES : Nat := 0x40090
def SEC_TAMPER_CFG : Nat := 0x40100
def SEC_ATT_DATA (i : Nat) : Nat := 0x41000 + 4 * i
def UPD_CFG : Nat := 0x50028
def UPD_FCONF_RES : Nat := 0x5002c
def UPD_CRC_FENCE : Nat := 0x50030
def UPD_CRC_SV : Nat := 0x50034
def UPD_RESTART_WHY : Nat := 0x50038
def UPD_RESTARTS : Nat := 0x50080
def UPD_TRIAL_FAILS : Nat := 0x50084
def UPD_FCONF_OK : Nat := 0x50088
def UPD_FCONF_FAILS : Nat := 0x5008c
def UPD_TABLE_DROPS : Nat := 0x50090
def UPD_FCONF : Nat := 0x50100
def UPD_VTAB_ADDR (i : Nat) : Nat := 0x51000 + 8 * i
def UPD_VTAB_INFO (i : Nat) : Nat := 0x51004 + 8 * i
def PAIR_PARTNER : Nat := 0x60028
def PAIR_FOLLOW : Nat := 0x6002c
def PAIR_DIG_YARD : Nat := 0x60030
def PAIR_DIG_PROG : Nat := 0x60034
def PAIR_DIG_SET : Nat := 0x60038
def PAIR_PDIG_YARD : Nat := 0x6003c
def PAIR_PDIG_PROG : Nat := 0x60040
def PAIR_PDIG_SET : Nat := 0x60044
def PAIR_CTB_DIFF : Nat := 0x60048
def PAIR_MIRROR_LAG : Nat := 0x6004c
def PAIR_CLAIM (i : Nat) : Nat := 0x60060 + 4 * i
def PAIR_PSTAT_RX : Nat := 0x60080
def PAIR_PSTAT_MISS : Nat := 0x60084
def PAIR_TAKEOVERS : Nat := 0x60088
def PAIR_YIELD_PER : Nat := 0x6008c
def PAIR_CONFLICTS : Nat := 0x60090
def PAIR_CFG : Nat := 0x60100
def TIME_DOMCFG : Nat := 0x70028
def TIME_SERVO : Nat := 0x7002c
def TIME_LOCKCFG : Nat := 0x70030
def TIME_ROLL : Nat := 0x70034
def TIME_CMP_FIRED : Nat := 0x70038
def TIME_ROLLCNT : Nat := 0x7003c
def TIME_CTB (i : Nat) : Nat := 0x70040 + 4 * i
def TIME_CTB_RATE : Nat := 0x70048
def TIME_CTB_OFFS : Nat := 0x7004c
def TIME_TB (i : Nat) : Nat := 0x70050 + 4 * i
def TIME_SNAP_TB (i : Nat) : Nat := 0x70060 + 4 * i
def TIME_SNAP_CTB (i : Nat) : Nat := 0x70070 + 4 * i
def TIME_SNAP_ROLLCNT : Nat := 0x70078
def TIME_DOMA_OFFS : Nat := 0x70080
def TIME_DOMA_MPD : Nat := 0x70084
def TIME_DOMB_OFFS : Nat := 0x70088
def TIME_DOMB_MPD : Nat := 0x7008c
def TIME_PORT (i : Nat) : Nat := 0x70090 + 4 * i
def TIME_TXTS1_LO : Nat := 0x70098
def TIME_TXTS1_HI : Nat := 0x7009c
def TIME_TXTS2_LO : Nat := 0x700a0
def TIME_TXTS2_HI : Nat := 0x700a4
def TIME_CAP_LO : Nat := 0x700a8
def TIME_CAP_HI : Nat := 0x700ac
def TIME_SYNC_RX_A : Nat := 0x700b0
def TIME_SYNC_RX_B : Nat := 0x700b4
def TIME_TC_FWD : Nat := 0x700b8
def TIME_PTP_DROP : Nat := 0x700bc
def TIME_CMP_CFG (i : Nat) : Nat := 0x71000 + 16 * i
def TIME_CMP_VAL (i : Nat) : Nat := 0x71004 + 16 * i
def TIME_CMP_PER (i : Nat) : Nat := 0x71008 + 16 * i
def RTC_SEC : Nat := 0x80028
def RTC_SECHI : Nat := 0x8002c
def RTC_SET : Nat := 0x80030
def RTC_SETHI : Nat := 0x80034
def RTC_UTC : Nat := 0x80038
def RTC_TRIM : Nat := 0x8003c
def RTC_ALARM : Nat := 0x80040
def RTC_TAMPER_TS : Nat := 0x80048
def RTC_TAMPER_TSHI : Nat := 0x8004c
def RTC_LOG_IDX : Nat := 0x80050
def RTC_LOG_DATA (i : Nat) : Nat := 0x80054 + 4 * i
def RTC_CORR : Nat := 0x80064
def RTC_CMD : Nat := 0x80100
def YARD_CFG : Nat := 0x120028
def YARD_PERIOD : Nat := 0x12002c
def YARD_ARM (i : Nat) : Nat := 0x120030 + 4 * i
def YARD_CHECK : Nat := 0x120050
def YARD_PERIOD_NUM (i : Nat) : Nat := 0x120058 + 4 * i
def YARD_ACTIVE (i : Nat) : Nat := 0x120060 + 4 * i
def YARD_WARMUP : Nat := 0x120080
def YARD_FS (i : Nat) : Nat := 0x121000 + 4 * i
def YARD_CONV (i : Nat) : Nat := 0x122000 + 4 * i
def EDGE_RELOAD : Nat := 0x130028
def EDGE_CHECK : Nat := 0x130030
def EDGE_PRECHG : Nat := 0x130038
def EDGE_ARM_MODE (i : Nat) : Nat := 0x130040 + 32 * i
def EDGE_ARM_DT (i : Nat) : Nat := 0x130044 + 32 * i
def EDGE_ARM_CR (i : Nat) : Nat := 0x130048 + 32 * i
def EDGE_ARM_ISO (i : Nat) : Nat := 0x13004c + 32 * i
def EDGE_ARM_KQ (i : Nat) : Nat := 0x130050 + 32 * i
def EDGE_ARM_SLEW (i : Nat) : Nat := 0x130054 + 32 * i
def EDGE_PULSE_DROP : Nat := 0x130100
def EDGE_ENTRY_OVF : Nat := 0x130104
def EDGE_CMD_REUSE : Nat := 0x130108
def EDGE_NLM_DEFER : Nat := 0x13010c
def EDGE_GUARD : Nat := 0x130120
def EDGE_STALL (i : Nat) : Nat := 0x131000 + 4 * i
def EDGE_ACMD0 (i : Nat) : Nat := 0x132000 + 16 * i
def EDGE_ACMD1 (i : Nat) : Nat := 0x132004 + 16 * i
def EDGE_ACMD2 (i : Nat) : Nat := 0x132008 + 16 * i
def EDGE_ACMD3 (i : Nat) : Nat := 0x13200c + 16 * i
def BAL_DONE : Nat := 0x14002c
def BAL_ARM_CFG (i : Nat) : Nat := 0x140040 + 64 * i
def BAL_ARM_BAND (i : Nat) : Nat := 0x140044 + 64 * i
def BAL_ARM_LIM (i : Nat) : Nat := 0x140048 + 64 * i
def BAL_ARM_IDB (i : Nat) : Nat := 0x14004c + 64 * i
def BAL_ARM_SHARE (i : Nat) : Nat := 0x140050 + 64 * i
def BAL_ARM_MVT (i : Nat) : Nat := 0x140054 + 64 * i
def BAL_ARM_FLOOR (i : Nat) : Nat := 0x140058 + 64 * i
def BAL_ARM_STAT (i : Nat) : Nat := 0x140060 + 64 * i
def BAL_ARM_MEAS (i : Nat) : Nat := 0x140064 + 64 * i
def BAL_ARM_LOW (i : Nat) : Nat := 0x140068 + 64 * i
def BAL_STALE_USED : Nat := 0x1401c0
def BAL_MISSING_COUNT : Nat := 0x1401c4
def BAL_BYP_ORDERS : Nat := 0x1401c8
def BAL_SORT_ERR_COUNT : Nat := 0x1401cc
def BAL_ARM_RESET : Nat := 0x1401e0
def BAL_STALL (i : Nat) : Nat := 0x141000 + 4 * i
def BAL_RES (i : Nat) : Nat := 0x142000 + 4 * i
def BAL_TRIM (i : Nat) : Nat := 0x143000 + 4 * i
def CME_ENTRY : Nat := 0x150028
def CME_MISSCFG : Nat := 0x15002c
def CME_CHECK_LO : Nat := 0x150030
def CME_CHECK_HI : Nat := 0x150034
def CME_BUDGET : Nat := 0x150038
def CME_LASTRUN : Nat := 0x15003c
def CME_PRESET : Nat := 0x150040
def CME_OVERRUN_COUNT : Nat := 0x150080
def CME_MISS_COUNT : Nat := 0x150084
def CME_SAT_COUNT : Nat := 0x150088
def CME_RAM_DROP : Nat := 0x15008c
def CME_RAM_CE : Nat := 0x150090
def CME_DBG_CTRL : Nat := 0x1500c0
def CME_DBG : Nat := 0x1500c4
def CME_DBG_STAT : Nat := 0x1500c8
def CME_DBG_SEL : Nat := 0x1500cc
def CME_DBG_DATA : Nat := 0x1500d0
def CME_ARM_RESTORE : Nat := 0x150100
def ETH_MAC_LO : Nat := 0x90028
def ETH_MAC_HI : Nat := 0x9002c
def ETH_IP12 : Nat := 0x90030
def ETH_MASK12 : Nat := 0x90034
def ETH_GW12 : Nat := 0x90038
def ETH_IP3 : Nat := 0x9003c
def ETH_MASK3 : Nat := 0x90040
def ETH_GW3 : Nat := 0x90044
def ETH_RRA : Nat := 0x90048
def ETH_RED : Nat := 0x9004c
def ETH_RX_OK (i : Nat) : Nat := 0x90080 + 16 * i
def ETH_RX_ERR (i : Nat) : Nat := 0x90084 + 16 * i
def ETH_RX_DROP (i : Nat) : Nat := 0x90088 + 16 * i
def ETH_TX_OK (i : Nat) : Nat := 0x9008c + 16 * i
def ETH_DUP_DISCARD : Nat := 0x900b0
def ETH_WRONG_LAN : Nat := 0x900b4
def ETH_HSR_FWD : Nat := 0x900b8
def ETH_HSR_OWN_REMOVED : Nat := 0x900bc
def ETH_RRA_OK : Nat := 0x900c0
def ETH_RRA_REJ : Nat := 0x900c4
def CAN_NBT (n : Nat) : Nat := 0xa0028 + 0x10000 * n
def CAN_DBT (n : Nat) : Nat := 0xa002c + 0x10000 * n
def CAN_TDC (n : Nat) : Nat := 0xa0030 + 0x10000 * n
def CAN_ECNT (n : Nat) : Nat := 0xa0034 + 0x10000 * n
def CAN_TT_CFG (n : Nat) : Nat := 0xa0038 + 0x10000 * n
def CAN_TT_REF (n : Nat) : Nat := 0xa003c + 0x10000 * n
def CAN_TT_STAT (n : Nat) : Nat := 0xa0040 + 0x10000 * n
def CAN_REF_DATA_LO (n : Nat) : Nat := 0xa0044 + 0x10000 * n
def CAN_REF_DATA_HI (n : Nat) : Nat := 0xa0048 + 0x10000 * n
def CAN_TX_OK (n : Nat) : Nat := 0xa0080 + 0x10000 * n
def CAN_RX_OK (n : Nat) : Nat := 0xa0084 + 0x10000 * n
def CAN_RX_DROP (n : Nat) : Nat := 0xa0088 + 0x10000 * n
def CAN_RX_UNDER (n : Nat) : Nat := 0xa008c + 0x10000 * n
def CAN_BUS_ERR (n : Nat) : Nat := 0xa0090 + 0x10000 * n
def CAN_ARB_LOST (n : Nat) : Nat := 0xa0094 + 0x10000 * n
def CAN_CAN_COLLISION (n : Nat) : Nat := 0xa0098 + 0x10000 * n
def CAN_TT_MISS (n : Nat) : Nat := 0xa009c + 0x10000 * n
def CAN_TXS_ID (n : Nat) : Nat := 0xa1000 + 0x10000 * n
def CAN_TXS_CTL (n : Nat) : Nat := 0xa1004 + 0x10000 * n
def CAN_TXS_TT (n : Nat) : Nat := 0xa1008 + 0x10000 * n
def CAN_TX_PUSH (n : Nat) : Nat := 0xa100c + 0x10000 * n
def CAN_TXS_DATA (n : Nat) (i : Nat) : Nat := 0xa1040 + 0x10000 * n + 4 * i
def CAN_TX_PEND (n : Nat) (i : Nat) : Nat := 0xa1080 + 0x10000 * n + 4 * i
def CAN_TX_DONE (n : Nat) (i : Nat) : Nat := 0xa1088 + 0x10000 * n + 4 * i
def CAN_TX_CANCEL (n : Nat) (i : Nat) : Nat := 0xa1090 + 0x10000 * n + 4 * i
def CAN_TX_CANREF (n : Nat) (i : Nat) : Nat := 0xa1098 + 0x10000 * n + 4 * i
def CAN_RX_TOP_LO (n : Nat) : Nat := 0xa10c0 + 0x10000 * n
def CAN_RX_TOP_HI (n : Nat) : Nat := 0xa10c4 + 0x10000 * n
def CAN_RXW_TS (n : Nat) (i : Nat) : Nat := 0xa10c8 + 0x10000 * n + 4 * i
def CAN_RX_LEVEL (n : Nat) : Nat := 0xa10d0 + 0x10000 * n
def CAN_RXW_DATA (n : Nat) (i : Nat) : Nat := 0xa1100 + 0x10000 * n + 4 * i
def CAN_FLT_ID (n : Nat) (i : Nat) : Nat := 0xa2000 + 0x10000 * n + 8 * i
def CAN_FLT_MASK (n : Nat) (i : Nat) : Nat := 0xa2004 + 0x10000 * n + 8 * i
def CAN_TXTS (n : Nat) (i : Nat) : Nat := 0xa3000 + 0x10000 * n + 4 * i
def LANE_ERRCFG (n : Nat) : Nat := 0x400028 + 0x10000 * n
def LANE_ECHOCFG (n : Nat) : Nat := 0x40002c + 0x10000 * n
def LANE_DLY (n : Nat) : Nat := 0x400030 + 0x10000 * n
def LANE_RT_RAW (n : Nat) : Nat := 0x400034 + 0x10000 * n
def LANE_LAT (n : Nat) : Nat := 0x400038 + 0x10000 * n
def LANE_LAST_STALL (n : Nat) : Nat := 0x40003c + 0x10000 * n
def LANE_SH_ERR (n : Nat) : Nat := 0x400080 + 0x10000 * n
def LANE_LOCK_LOSS (n : Nat) : Nat := 0x400084 + 0x10000 * n
def LANE_HIBER (n : Nat) : Nat := 0x400088 + 0x10000 * n
def LANE_FRAMING (n : Nat) : Nat := 0x40008c + 0x10000 * n
def LANE_CRC_ERR (n : Nat) : Nat := 0x400090 + 0x10000 * n
def LANE_MARKER_ERR (n : Nat) : Nat := 0x400094 + 0x10000 * n
def LANE_IDLE_BITERR (n : Nat) : Nat := 0x400098 + 0x10000 * n
def LANE_ECHO_LOST (n : Nat) : Nat := 0x40009c + 0x10000 * n
def LANE_RETRAIN (n : Nat) : Nat := 0x4000a0 + 0x10000 * n
def LANE_EQ (n : Nat) (i : Nat) : Nat := 0x401000 + 0x10000 * n + 4 * i
def LANE_FOM (n : Nat) (i : Nat) : Nat := 0x401010 + 0x10000 * n + 4 * i
def ADC_CMP_LIVE : Nat := 0xc0028
def ADC_CMP_TRIPPED : Nat := 0xc002c
def ADC_CMP_PEND : Nat := 0xc0030
def ADC_VREFX : Nat := 0xc0034
def ADC_FIFO_OVF_COUNT : Nat := 0xc0080
def ADC_TRIG_MISS_COUNT : Nat := 0xc0084
def ADC_UNDERFLOW : Nat := 0xc0088
def ADC_CMP_TRIPS : Nat := 0xc008c
def ADC_DISCARDS : Nat := 0xc0090
def ADC_CH_CFG (i : Nat) : Nat := 0xc1000 + 32 * i
def ADC_CH_TRIG (i : Nat) : Nat := 0xc1004 + 32 * i
def ADC_CH_OFFS (i : Nat) : Nat := 0xc1008 + 32 * i
def ADC_CH_RES (i : Nat) : Nat := 0xc100c + 32 * i
def ADC_CH_TS_LO (i : Nat) : Nat := 0xc1010 + 32 * i
def ADC_CH_TS_HI (i : Nat) : Nat := 0xc1014 + 32 * i
def ADC_CH_LEVEL (i : Nat) : Nat := 0xc1018 + 32 * i
def ADC_CMP (i : Nat) : Nat := 0xc2000 + 4 * i
def ADC_CMP_ACT (i : Nat) : Nat := 0xc2100 + 4 * i
def ADC_CAL_OFFS (i : Nat) : Nat := 0xc3000 + 8 * i
def ADC_CAL_GTRIM (i : Nat) : Nat := 0xc3004 + 8 * i
def THERM_FAILED : Nat := 0xd0028
def THERM_XCFG : Nat := 0xd002c
def THERM_ZONE (i : Nat) : Nat := 0xd0040 + 4 * i
def THERM_ZVAL (i : Nat) : Nat := 0xd0060 + 4 * i
def THERM_T (i : Nat) : Nat := 0xd0080 + 4 * i
def THERM_XCHK_FAULTS : Nat := 0xd00c0
def THERM_THROTTLE_MS : Nat := 0xd00c4
def THERM_CRIT_COUNT : Nat := 0xd00c8
def AUX_SYNC : Nat := 0xe0028
def AUX_PHASE : Nat := 0xe002c
def AUX_FEED (i : Nat) : Nat := 0xe0030 + 4 * i
def AUX_HICCUP_COUNT : Nat := 0xe0080
def AUX_FEED_CHANGES : Nat := 0xe0084
def AUX_FREEZE_COUNT : Nat := 0xe0088
def AUX_LOOP_FAULTS : Nat := 0xe008c
def AUX_GRP_CFG (i : Nat) : Nat := 0xe1000 + 64 * i
def AUX_GRP_LIM (i : Nat) : Nat := 0xe1004 + 64 * i
def AUX_GRP_STAT (i : Nat) : Nat := 0xe1008 + 64 * i
def AUX_GRP_FAULT (i : Nat) : Nat := 0xe100c + 64 * i
def AUX_GRP_PEAK (i : Nat) : Nat := 0xe1010 + 64 * i
def AUX_GRP_TROUGH (i : Nat) : Nat := 0xe1014 + 64 * i
def AUX_LOOP_CFG (i : Nat) : Nat := 0xe2000 + 64 * i
def AUX_LOOP_STAT (i : Nat) : Nat := 0xe2008 + 64 * i
def AUX_LOOP_FAULT (i : Nat) : Nat := 0xe200c + 64 * i
def AUX_TEL (i : Nat) : Nat := 0xe3000 + 4 * i
def GDRV_CFG : Nat := 0xf0028
def GDRV_SC_COUNT : Nat := 0xf0080
def GDRV_BST_UV_COUNT : Nat := 0xf0084
def GDRV_XCMD_COUNT : Nat := 0xf0088
def GDRV_REFRESH_COUNT : Nat := 0xf008c
def GDRV_HB (i : Nat) : Nat := 0xf1000 + 4 * i
def PWM_TRIPIN (i : Nat) : Nat := 0x100028 + 4 * i
def PWM_TRIPS : Nat := 0x100080
def PWM_TRIP_BLANKED : Nat := 0x100084
def PWM_CH_CFG (i : Nat) : Nat := 0x101000 + 32 * i
def PWM_CH_PHASE (i : Nat) : Nat := 0x101004 + 32 * i
def PWM_CH_PER (i : Nat) : Nat := 0x101008 + 32 * i
def PWM_CH_DT (i : Nat) : Nat := 0x10100c + 32 * i
def PWM_CH_CMPA (i : Nat) : Nat := 0x101010 + 32 * i
def PWM_CH_CMPB (i : Nat) : Nat := 0x101014 + 32 * i
def PWM_CH_CNT (i : Nat) : Nat := 0x101018 + 32 * i
def PWM_CH_TRIP (i : Nat) : Nat := 0x10101c + 32 * i
def SAFE_CAUSE : Nat := 0x110028
def SAFE_REFUSE : Nat := 0x11002c
def SAFE_CAUSE_CTB (i : Nat) : Nat := 0x110030 + 4 * i
def SAFE_FN_LIVE : Nat := 0x110038
def SAFE_IN : Nat := 0x11003c
def SAFE_OUT : Nat := 0x110040
def SAFE_SO_CMD : Nat := 0x110044
def SAFE_PEND : Nat := 0x110048
def SAFE_PEND_FN : Nat := 0x11004c
def SAFE_CLASSB : Nat := 0x110050
def SAFE_PROOF : Nat := 0x110054
def SAFE_TRIPS : Nat := 0x110080
def SAFE_CSTOPS : Nat := 0x110084
def SAFE_DISAGREE_COUNT : Nat := 0x110088
def SAFE_SV_WINDOWS : Nat := 0x11008c
def SAFE_PROOF_RUNS : Nat := 0x110090
def SAFE_CFG : Nat := 0x110100
def SAFE_TIMES : Nat := 0x110104
def SAFE_CLASSB_ACT : Nat := 0x110108
def SAFE_PROOF_CFG : Nat := 0x11010c
def SAFE_RESET : Nat := 0x110110
def SAFE_SO (i : Nat) : Nat := 0x110120 + 4 * i
def SAFE_SI (i : Nat) : Nat := 0x110140 + 4 * i
def SAFE_FB (i : Nat) : Nat := 0x110160 + 4 * i
def SAFE_FN (i : Nat) : Nat := 0x110180 + 4 * i

end A

namespace F

/-! Fields every block has at the common offsets of page 0; `b` is the block base. Then the fields of each block. -/
def evtRaw (b : Nat) : Fld := ⟨b + 0x10, 0, 16⟩
def evtEn (b : Nat) : Fld := ⟨b + 0x14, 0, 16⟩
def evtRouteHost (b : Nat) : Fld := ⟨b + 0x18, 0, 16⟩
def evtRouteSv (b : Nat) : Fld := ⟨b + 0x18, 16, 16⟩
def guardFail (b : Nat) : Fld := ⟨b + 0x1C, 0, 1⟩
def aliasGrd (b : Nat) : Fld := ⟨b + 0x1C, 1, 1⟩
def lockedWr (b : Nat) : Fld := ⟨b + 0x1C, 2, 1⟩
def sizeErr (b : Nat) : Fld := ⟨b + 0x1C, 3, 1⟩
def accessErr (b : Nat) : Fld := ⟨b + 0x20, 0, 16⟩
def cfgLock (b : Nat) : Fld := ⟨b + 0x24, 0, 1⟩
def SYS_CTRL_REMOTE_CMD_EN : Fld := ⟨0x8, 1, 1⟩
def SYS_CTRL_HOST_CMD_EN : Fld := ⟨0x8, 0, 1⟩
def SYS_STAT_BOOT_BANK : Fld := ⟨0xc, 3, 1⟩
def SYS_STAT_CMD_BUSY : Fld := ⟨0xc, 2, 1⟩
def SYS_STAT_SVR_RESTARTING : Fld := ⟨0xc, 1, 1⟩
def SYS_STAT_SVR_UP : Fld := ⟨0xc, 0, 1⟩
def SYS_FAULT_STAT_UNMAPPED : Fld := ⟨0x1c, 16, 1⟩
def SYS_PART_BUILD : Fld := ⟨0x28, 16, 16⟩
def SYS_PART_MEMBER : Fld := ⟨0x28, 8, 8⟩
def SYS_PART_VARIANT : Fld := ⟨0x28, 0, 8⟩
def SYS_SERIAL : Fld := ⟨0x2c, 0, 32⟩
def SYS_SLOT_PAIR_PRESENT : Fld := ⟨0x30, 8, 1⟩
def SYS_SLOT_SLOT_ID : Fld := ⟨0x30, 0, 6⟩
def SYS_RESET_CAUSE_SVR_RESTART : Fld := ⟨0x34, 8, 1⟩
def SYS_RESET_CAUSE_MAINS_LOSS : Fld := ⟨0x34, 3, 1⟩
def SYS_RESET_CAUSE_SERVICE_BUTTON : Fld := ⟨0x34, 2, 1⟩
def SYS_RESET_CAUSE_RESET_INPUT : Fld := ⟨0x34, 1, 1⟩
def SYS_RESET_CAUSE_POWER_ON : Fld := ⟨0x34, 0, 1⟩
def SYS_SCRATCH : Fld := ⟨0x38, 0, 32⟩
def SYS_CMD_START : Fld := ⟨0x80, 31, 1⟩
def SYS_CMD_TAG : Fld := ⟨0x80, 8, 8⟩
def SYS_CMD_OPCODE : Fld := ⟨0x80, 0, 8⟩
def SYS_CMD_STAT_PROGRESS : Fld := ⟨0x84, 24, 8⟩
def SYS_CMD_STAT_RESULT : Fld := ⟨0x84, 16, 8⟩
def SYS_CMD_STAT_TAG : Fld := ⟨0x84, 8, 8⟩
def SYS_CMD_STAT_REFUSED : Fld := ⟨0x84, 5, 1⟩
def SYS_CMD_STAT_DONE : Fld := ⟨0x84, 4, 1⟩
def SYS_CMD_STAT_OWNER : Fld := ⟨0x84, 2, 2⟩
def SYS_CMD_STAT_PORT_STATE : Fld := ⟨0x84, 0, 2⟩
def SYS_CMD_REFUSED : Fld := ⟨0x88, 0, 32⟩
def SYS_CMD_ARG (i : Nat) : Fld := ⟨0x90 + 4 * i, 0, 32⟩
def SYS_CMD_RES (i : Nat) : Fld := ⟨0xb0 + 4 * i, 0, 32⟩
def SYS_RESTART : Fld := ⟨0x100, 0, 1⟩
def SYS_CMD_DATA (i : Nat) : Fld := ⟨0x1000 + 4 * i, 0, 32⟩
def HOST_LINK_MPS : Fld := ⟨0x10028, 16, 3⟩
def HOST_LINK_SRIS : Fld := ⟨0x10028, 9, 1⟩
def HOST_LINK_LINK_UP : Fld := ⟨0x10028, 8, 1⟩
def HOST_LINK_WIDTH : Fld := ⟨0x10028, 4, 4⟩
def HOST_LINK_SPEED : Fld := ⟨0x10028, 0, 4⟩
def HOST_NP_PEAK : Fld := ⟨0x1002c, 8, 8⟩
def HOST_NP_INFLIGHT : Fld := ⟨0x1002c, 0, 8⟩
def HOST_NP_LIMIT_COUNT : Fld := ⟨0x10030, 0, 32⟩
def HOST_AER_COUNT : Fld := ⟨0x10034, 0, 32⟩
def HOST_LINK_DOWN_COUNT : Fld := ⟨0x10038, 0, 32⟩
def HOST_MSIX_ADDR_LO (i : Nat) : Fld := ⟨0x13000 + 16 * i, 0, 32⟩
def HOST_MSIX_ADDR_HI (i : Nat) : Fld := ⟨0x13004 + 16 * i, 0, 32⟩
def HOST_MSIX_DATA (i : Nat) : Fld := ⟨0x13008 + 16 * i, 0, 32⟩
def HOST_MSIX_VCTRL (i : Nat) : Fld := ⟨0x1300c + 16 * i, 0, 1⟩
def HOST_MSIX_PBA (i : Nat) : Fld := ⟨0x13200 + 4 * i, 0, 32⟩
def EVT_CTRL_LOG_EN : Fld := ⟨0x20008, 8, 1⟩
def EVT_CTRL_HOLDOFF_US : Fld := ⟨0x20008, 0, 8⟩
def EVT_STAT_LOG_LEVEL : Fld := ⟨0x2000c, 0, 9⟩
def EVT_FAULT_STAT_LOG_OVF : Fld := ⟨0x2001c, 4, 1⟩
def EVT_SW : Fld := ⟨0x20028, 0, 16⟩
def EVT_EOI : Fld := ⟨0x2002c, 0, 32⟩
def EVT_VEC_ASSERT : Fld := ⟨0x20030, 0, 32⟩
def EVT_LOG_LO : Fld := ⟨0x20038, 0, 32⟩
def EVT_LOG_HI : Fld := ⟨0x2003c, 0, 32⟩
def EVT_HPEND (i : Nat) : Fld := ⟨0x20080 + 4 * i, 0, 32⟩
def EVT_SPEND (i : Nat) : Fld := ⟨0x200a0 + 4 * i, 0, 32⟩
def EVT_SW_ROUTE_SV : Fld := ⟨0x200c0, 16, 16⟩
def EVT_SW_ROUTE_HOST : Fld := ⟨0x200c0, 0, 16⟩
def EVT_LOG_DROP : Fld := ⟨0x200c4, 0, 32⟩
def EVT_MAP_VEC3 (i : Nat) : Fld := ⟨0x21000 + 4 * i, 24, 5⟩
def EVT_MAP_VEC2 (i : Nat) : Fld := ⟨0x21000 + 4 * i, 16, 5⟩
def EVT_MAP_VEC1 (i : Nat) : Fld := ⟨0x21000 + 4 * i, 8, 5⟩
def EVT_MAP_VEC0 (i : Nat) : Fld := ⟨0x21000 + 4 * i, 0, 5⟩
def FLT_CTRL_CAP_CLR : Fld := ⟨0x30008, 0, 1⟩
def FLT_STAT_BROKEN_N : Fld := ⟨0x3000c, 8, 8⟩
def FLT_STAT_CAP_VALID : Fld := ⟨0x3000c, 0, 1⟩
def FLT_FAULT_STAT_FABRIC : Fld := ⟨0x3001c, 6, 1⟩
def FLT_FAULT_STAT_UE : Fld := ⟨0x3001c, 5, 1⟩
def FLT_FAULT_STAT_BROKEN_LINE : Fld := ⟨0x3001c, 4, 1⟩
def FLT_ERR_COUNT_CLR_REFUSED : Fld := ⟨0x30020, 16, 16⟩
def FLT_FIRST_ADDR : Fld := ⟨0x30028, 0, 32⟩
def FLT_FIRST_INFO_VALID : Fld := ⟨0x3002c, 31, 1⟩
def FLT_FIRST_INFO_CODE : Fld := ⟨0x3002c, 16, 8⟩
def FLT_FIRST_INFO_MASTER : Fld := ⟨0x3002c, 12, 4⟩
def FLT_FIRST_INFO_ACCESS : Fld := ⟨0x3002c, 8, 4⟩
def FLT_FIRST_CTB (i : Nat) : Fld := ⟨0x30030 + 4 * i, 0, 32⟩
def FLT_MORE : Fld := ⟨0x30038, 0, 32⟩
def FLT_CE : Fld := ⟨0x3003c, 0, 32⟩
def FLT_CLASS0_N : Fld := ⟨0x30040, 24, 8⟩
def FLT_CLASS0_W : Fld := ⟨0x30040, 8, 16⟩
def FLT_CLASS1TO6_N (i : Nat) : Fld := ⟨0x30044 + 4 * i, 24, 8⟩
def FLT_CLASS1TO6_W (i : Nat) : Fld := ⟨0x30044 + 4 * i, 8, 16⟩
def FLT_CLASS7_N : Fld := ⟨0x3005c, 24, 8⟩
def FLT_CLASS7_W : Fld := ⟨0x3005c, 8, 16⟩
def FLT_COUNT (i : Nat) : Fld := ⟨0x30080 + 4 * i, 0, 32⟩
def FLT_LASTING : Fld := ⟨0x300a0, 0, 8⟩
def SEC_CTRL_KEY_WR_EN : Fld := ⟨0x40008, 0, 1⟩
def SEC_STAT_OWNER_STATE : Fld := ⟨0x4000c, 30, 2⟩
def SEC_STAT_IDENT_ERASED : Fld := ⟨0x4000c, 5, 1⟩
def SEC_STAT_GEN_BUSY : Fld := ⟨0x4000c, 3, 1⟩
def SEC_STAT_SPARE_READY : Fld := ⟨0x4000c, 2, 1⟩
def SEC_STAT_TREE_READY : Fld := ⟨0x4000c, 1, 1⟩
def SEC_STAT_TACK_OK : Fld := ⟨0x4000c, 0, 1⟩
def SEC_FAULT_STAT_TACK_WR_FAIL : Fld := ⟨0x4001c, 6, 1⟩
def SEC_FAULT_STAT_INDEX_LOW : Fld := ⟨0x4001c, 5, 1⟩
def SEC_FAULT_STAT_NO_TREE : Fld := ⟨0x4001c, 4, 1⟩
def SEC_ERR_COUNT_CLR_REFUSED : Fld := ⟨0x40020, 16, 16⟩
def SEC_POLICY : Fld := ⟨0x40028, 0, 32⟩
def SEC_OWNER_ID : Fld := ⟨0x4002c, 0, 32⟩
def SEC_INDEX : Fld := ⟨0x40030, 0, 30⟩
def SEC_RESERVED : Fld := ⟨0x40034, 0, 25⟩
def SEC_ROLLBACK (i : Nat) : Fld := ⟨0x40038 + 4 * i, 0, 32⟩
def SEC_KEYS_STATION : Fld := ⟨0x40050, 16, 16⟩
def SEC_KEYS_SLOT : Fld := ⟨0x40050, 0, 8⟩
def SEC_ATT_LEN : Fld := ⟨0x40054, 16, 16⟩
def SEC_ATT_CHUNK : Fld := ⟨0x40054, 0, 3⟩
def SEC_SIGNS : Fld := ⟨0x40080, 0, 32⟩
def SEC_SKIPPED : Fld := ⟨0x40084, 0, 32⟩
def SEC_VERIFY_OK : Fld := ⟨0x40088, 0, 32⟩
def SEC_VERIFY_FAIL : Fld := ⟨0x4008c, 0, 32⟩
def SEC_TREES : Fld := ⟨0x40090, 0, 32⟩
def SEC_TAMPER_CFG : Fld := ⟨0x40100, 0, 2⟩
def SEC_ATT_DATA (i : Nat) : Fld := ⟨0x41000 + 4 * i, 0, 32⟩
def UPD_CTRL_FPEND_DISCARD : Fld := ⟨0x50008, 1, 1⟩
def UPD_CTRL_CONFIRM : Fld := ⟨0x50008, 0, 1⟩
def UPD_STAT_FCONF_BUSY : Fld := ⟨0x5000c, 12, 1⟩
def UPD_STAT_APPLYING : Fld := ⟨0x5000c, 8, 1⟩
def UPD_STAT_STAGED_BANK : Fld := ⟨0x5000c, 5, 1⟩
def UPD_STAT_STAGED : Fld := ⟨0x5000c, 4, 1⟩
def UPD_STAT_PREV_BANK : Fld := ⟨0x5000c, 3, 1⟩
def UPD_STAT_TRIAL : Fld := ⟨0x5000c, 2, 1⟩
def UPD_FAULT_STAT_TABLE_DROP : Fld := ⟨0x5001c, 9, 1⟩
def UPD_FAULT_STAT_APPLY_STOP : Fld := ⟨0x5001c, 8, 1⟩
def UPD_FAULT_STAT_FCONF_FAIL : Fld := ⟨0x5001c, 7, 1⟩
def UPD_FAULT_STAT_RESTART_REFUSED : Fld := ⟨0x5001c, 6, 1⟩
def UPD_FAULT_STAT_BOOT_FALLBACK : Fld := ⟨0x5001c, 5, 1⟩
def UPD_FAULT_STAT_TRIAL_FAIL : Fld := ⟨0x5001c, 4, 1⟩
def UPD_CFG : Fld := ⟨0x50028, 0, 16⟩
def UPD_FCONF_RES : Fld := ⟨0x5002c, 0, 32⟩
def UPD_CRC_FENCE : Fld := ⟨0x50030, 0, 32⟩
def UPD_CRC_SV : Fld := ⟨0x50034, 0, 32⟩
def UPD_RESTART_WHY : Fld := ⟨0x50038, 0, 8⟩
def UPD_RESTARTS : Fld := ⟨0x50080, 0, 32⟩
def UPD_TRIAL_FAILS : Fld := ⟨0x50084, 0, 32⟩
def UPD_FCONF_OK : Fld := ⟨0x50088, 0, 32⟩
def UPD_FCONF_FAILS : Fld := ⟨0x5008c, 0, 32⟩
def UPD_TABLE_DROPS : Fld := ⟨0x50090, 0, 32⟩
def UPD_FCONF : Fld := ⟨0x50100, 0, 32⟩
def UPD_VTAB_ADDR (i : Nat) : Fld := ⟨0x51000 + 8 * i, 0, 32⟩
def UPD_VTAB_INFO_VALID (i : Nat) : Fld := ⟨0x51004 + 8 * i, 31, 1⟩
def UPD_VTAB_INFO_STAGED (i : Nat) : Fld := ⟨0x51004 + 8 * i, 30, 1⟩
def UPD_VTAB_INFO_KEYSLOT (i : Nat) : Fld := ⟨0x51004 + 8 * i, 8, 8⟩
def UPD_VTAB_INFO_KIND (i : Nat) : Fld := ⟨0x51004 + 8 * i, 0, 8⟩
def PAIR_CTRL_RELINQUISH : Fld := ⟨0x60008, 0, 1⟩
def PAIR_STAT_TRACK : Fld := ⟨0x6000c, 24, 6⟩
def PAIR_STAT_PARTNER_FIT : Fld := ⟨0x6000c, 16, 6⟩
def PAIR_STAT_FIT : Fld := ⟨0x6000c, 8, 6⟩
def PAIR_STAT_WITHDRAWN : Fld := ⟨0x6000c, 5, 1⟩
def PAIR_STAT_LEAD : Fld := ⟨0x6000c, 4, 1⟩
def PAIR_STAT_MEMBER : Fld := ⟨0x6000c, 3, 1⟩
def PAIR_STAT_STATE : Fld := ⟨0x6000c, 0, 2⟩
def PAIR_FAULT_STAT_DIGEST_MISMATCH : Fld := ⟨0x6001c, 11, 3⟩
def PAIR_FAULT_STAT_JOIN_BLOCK : Fld := ⟨0x6001c, 10, 1⟩
def PAIR_FAULT_STAT_MIRROR_LATE : Fld := ⟨0x6001c, 9, 1⟩
def PAIR_FAULT_STAT_MIRROR_BAD : Fld := ⟨0x6001c, 8, 1⟩
def PAIR_FAULT_STAT_CTB_ALARM : Fld := ⟨0x6001c, 7, 1⟩
def PAIR_FAULT_STAT_SPLIT : Fld := ⟨0x6001c, 6, 1⟩
def PAIR_FAULT_STAT_LOST : Fld := ⟨0x6001c, 5, 1⟩
def PAIR_FAULT_STAT_CFG_BAD : Fld := ⟨0x6001c, 4, 1⟩
def PAIR_ERR_COUNT_CLR_REFUSED : Fld := ⟨0x60020, 16, 16⟩
def PAIR_PARTNER : Fld := ⟨0x60028, 0, 32⟩
def PAIR_FOLLOW_NOBODY : Fld := ⟨0x6002c, 16, 8⟩
def PAIR_FOLLOW_PARTNER : Fld := ⟨0x6002c, 8, 8⟩
def PAIR_FOLLOW_SELF : Fld := ⟨0x6002c, 0, 8⟩
def PAIR_DIG_YARD : Fld := ⟨0x60030, 0, 32⟩
def PAIR_DIG_PROG : Fld := ⟨0x60034, 0, 32⟩
def PAIR_DIG_SET : Fld := ⟨0x60038, 0, 32⟩
def PAIR_PDIG_YARD : Fld := ⟨0x6003c, 0, 32⟩
def PAIR_PDIG_PROG : Fld := ⟨0x60040, 0, 32⟩
def PAIR_PDIG_SET : Fld := ⟨0x60044, 0, 32⟩
def PAIR_CTB_DIFF : Fld := ⟨0x60048, 0, 32⟩
def PAIR_MIRROR_LAG_PEAK : Fld := ⟨0x6004c, 8, 8⟩
def PAIR_MIRROR_LAG_LAG : Fld := ⟨0x6004c, 0, 8⟩
def PAIR_CLAIM (i : Nat) : Fld := ⟨0x60060 + 4 * i, 0, 32⟩
def PAIR_PSTAT_RX : Fld := ⟨0x60080, 0, 32⟩
def PAIR_PSTAT_MISS : Fld := ⟨0x60084, 0, 32⟩
def PAIR_TAKEOVERS : Fld := ⟨0x60088, 0, 32⟩
def PAIR_YIELD_PER : Fld := ⟨0x6008c, 0, 32⟩
def PAIR_CONFLICTS : Fld := ⟨0x60090, 0, 32⟩
def PAIR_CFG_EN : Fld := ⟨0x60100, 31, 1⟩
def PAIR_CFG_WITHDRAW_EN : Fld := ⟨0x60100, 30, 1⟩
def PAIR_CFG_TRACK_EN : Fld := ⟨0x60100, 29, 1⟩
def PAIR_CFG_FORCE_LEAD : Fld := ⟨0x60100, 28, 1⟩
def PAIR_CFG_LOSS_PER : Fld := ⟨0x60100, 16, 8⟩
def PAIR_CFG_MIRROR_MASK : Fld := ⟨0x60100, 0, 16⟩
def TIME_CTRL_SNAP : Fld := ⟨0x70008, 7, 1⟩
def TIME_CTRL_ALIGN : Fld := ⟨0x70008, 6, 1⟩
def TIME_CTRL_ALIGN_EN : Fld := ⟨0x70008, 5, 1⟩
def TIME_CTRL_AUTO_FALL : Fld := ⟨0x70008, 4, 1⟩
def TIME_CTRL_SEL : Fld := ⟨0x70008, 0, 2⟩
def TIME_STAT_ALIGN_PEND : Fld := ⟨0x7000c, 15, 1⟩
def TIME_STAT_ALIGNED : Fld := ⟨0x7000c, 14, 1⟩
def TIME_STAT_SRC_ACT : Fld := ⟨0x7000c, 12, 2⟩
def TIME_STAT_DOMB_STATE : Fld := ⟨0x7000c, 8, 3⟩
def TIME_STAT_DOMA_STATE : Fld := ⟨0x7000c, 4, 3⟩
def TIME_STAT_CTB_STATE : Fld := ⟨0x7000c, 0, 2⟩
def TIME_FAULT_STAT_DOM_CLASH : Fld := ⟨0x7001c, 8, 1⟩
def TIME_FAULT_STAT_TS_OVF : Fld := ⟨0x7001c, 7, 1⟩
def TIME_FAULT_STAT_OFFS_ALARM : Fld := ⟨0x7001c, 6, 1⟩
def TIME_FAULT_STAT_RATE_LIMIT : Fld := ⟨0x7001c, 5, 1⟩
def TIME_FAULT_STAT_ALIGN_REFUSED : Fld := ⟨0x7001c, 4, 1⟩
def TIME_ERR_COUNT_CLR_REFUSED : Fld := ⟨0x70020, 24, 8⟩
def TIME_ERR_COUNT_ALIGN_REFUSED_COUNT : Fld := ⟨0x70020, 16, 8⟩
def TIME_DOMCFG_DOMAIN_B : Fld := ⟨0x70028, 24, 8⟩
def TIME_DOMCFG_DOMAIN_A : Fld := ⟨0x70028, 16, 8⟩
def TIME_DOMCFG_TC_EN : Fld := ⟨0x70028, 10, 1⟩
def TIME_DOMCFG_PTP_EN_B : Fld := ⟨0x70028, 9, 1⟩
def TIME_DOMCFG_PTP_EN_A : Fld := ⟨0x70028, 8, 1⟩
def TIME_SERVO_STEP_THR : Fld := ⟨0x7002c, 20, 8⟩
def TIME_SERVO_RATE_SLEW : Fld := ⟨0x7002c, 12, 8⟩
def TIME_SERVO_RATE_MAX : Fld := ⟨0x7002c, 4, 8⟩
def TIME_SERVO_TAU_LOG2 : Fld := ⟨0x7002c, 0, 4⟩
def TIME_LOCKCFG_OFFS_ALM : Fld := ⟨0x70030, 24, 8⟩
def TIME_LOCKCFG_HOLD_S : Fld := ⟨0x70030, 16, 8⟩
def TIME_LOCKCFG_LOCK_THR : Fld := ⟨0x70030, 0, 16⟩
def TIME_ROLL_BACK : Fld := ⟨0x70034, 4, 4⟩
def TIME_ROLL_FWD : Fld := ⟨0x70034, 0, 4⟩
def TIME_CMP_FIRED : Fld := ⟨0x70038, 0, 8⟩
def TIME_ROLLCNT_TB3 : Fld := ⟨0x7003c, 24, 8⟩
def TIME_ROLLCNT_TB2 : Fld := ⟨0x7003c, 16, 8⟩
def TIME_ROLLCNT_TB1 : Fld := ⟨0x7003c, 8, 8⟩
def TIME_ROLLCNT_TB0 : Fld := ⟨0x7003c, 0, 8⟩
def TIME_CTB (i : Nat) : Fld := ⟨0x70040 + 4 * i, 0, 32⟩
def TIME_CTB_RATE : Fld := ⟨0x70048, 0, 32⟩
def TIME_CTB_OFFS : Fld := ⟨0x7004c, 0, 32⟩
def TIME_TB (i : Nat) : Fld := ⟨0x70050 + 4 * i, 0, 32⟩
def TIME_SNAP_TB (i : Nat) : Fld := ⟨0x70060 + 4 * i, 0, 32⟩
def TIME_SNAP_CTB (i : Nat) : Fld := ⟨0x70070 + 4 * i, 0, 32⟩
def TIME_SNAP_ROLLCNT : Fld := ⟨0x70078, 0, 32⟩
def TIME_DOMA_OFFS : Fld := ⟨0x70080, 0, 32⟩
def TIME_DOMA_MPD : Fld := ⟨0x70084, 0, 32⟩
def TIME_DOMB_OFFS : Fld := ⟨0x70088, 0, 32⟩
def TIME_DOMB_MPD : Fld := ⟨0x7008c, 0, 32⟩
def TIME_PORT_SFP_EGR (i : Nat) : Fld := ⟨0x70090 + 4 * i, 16, 16⟩
def TIME_PORT_SFP_ING (i : Nat) : Fld := ⟨0x70090 + 4 * i, 0, 16⟩
def TIME_TXTS1_LO : Fld := ⟨0x70098, 0, 32⟩
def TIME_TXTS1_HI : Fld := ⟨0x7009c, 0, 32⟩
def TIME_TXTS2_LO : Fld := ⟨0x700a0, 0, 32⟩
def TIME_TXTS2_HI : Fld := ⟨0x700a4, 0, 32⟩
def TIME_CAP_LO : Fld := ⟨0x700a8, 0, 32⟩
def TIME_CAP_HI : Fld := ⟨0x700ac, 0, 32⟩
def TIME_SYNC_RX_A : Fld := ⟨0x700b0, 0, 32⟩
def TIME_SYNC_RX_B : Fld := ⟨0x700b4, 0, 32⟩
def TIME_TC_FWD : Fld := ⟨0x700b8, 0, 32⟩
def TIME_PTP_DROP : Fld := ⟨0x700bc, 0, 32⟩
def TIME_CMP_CFG_PULSE_W (i : Nat) : Fld := ⟨0x71000 + 16 * i, 24, 8⟩
def TIME_CMP_CFG_OUT (i : Nat) : Fld := ⟨0x71000 + 16 * i, 8, 4⟩
def TIME_CMP_CFG_TB (i : Nat) : Fld := ⟨0x71000 + 16 * i, 4, 2⟩
def TIME_CMP_CFG_PERIODIC (i : Nat) : Fld := ⟨0x71000 + 16 * i, 2, 1⟩
def TIME_CMP_CFG_MODE (i : Nat) : Fld := ⟨0x71000 + 16 * i, 1, 1⟩
def TIME_CMP_CFG_EN (i : Nat) : Fld := ⟨0x71000 + 16 * i, 0, 1⟩
def TIME_CMP_VAL (i : Nat) : Fld := ⟨0x71004 + 16 * i, 0, 32⟩
def TIME_CMP_PER (i : Nat) : Fld := ⟨0x71008 + 16 * i, 0, 32⟩
def RTC_CTRL_TAMPER_EN : Fld := ⟨0x80008, 4, 1⟩
def RTC_CTRL_TAMPER_POL : Fld := ⟨0x80008, 3, 1⟩
def RTC_CTRL_ALARM_EN : Fld := ⟨0x80008, 2, 1⟩
def RTC_CTRL_TRIM_AUTO : Fld := ⟨0x80008, 1, 1⟩
def RTC_CTRL_SYNC_EN : Fld := ⟨0x80008, 0, 1⟩
def RTC_STAT_VBAK : Fld := ⟨0x8000c, 8, 8⟩
def RTC_STAT_TAMPER_IN : Fld := ⟨0x8000c, 3, 1⟩
def RTC_STAT_BACKUP_OK : Fld := ⟨0x8000c, 2, 1⟩
def RTC_STAT_WR_BUSY : Fld := ⟨0x8000c, 1, 1⟩
def RTC_STAT_CAL_VALID : Fld := ⟨0x8000c, 0, 1⟩
def RTC_FAULT_STAT_WR_REFUSED : Fld := ⟨0x8001c, 6, 1⟩
def RTC_FAULT_STAT_BACKUP_LOW : Fld := ⟨0x8001c, 5, 1⟩
def RTC_FAULT_STAT_TAMPER : Fld := ⟨0x8001c, 4, 1⟩
def RTC_ERR_COUNT_CLR_REFUSED : Fld := ⟨0x80020, 16, 16⟩
def RTC_SEC : Fld := ⟨0x80028, 0, 32⟩
def RTC_SECHI_SUB : Fld := ⟨0x8002c, 16, 15⟩
def RTC_SECHI_SECHI : Fld := ⟨0x8002c, 0, 16⟩
def RTC_SET : Fld := ⟨0x80030, 0, 32⟩
def RTC_SETHI_SUB : Fld := ⟨0x80034, 16, 15⟩
def RTC_SETHI_SECHI : Fld := ⟨0x80034, 0, 16⟩
def RTC_UTC_UTC_VALID : Fld := ⟨0x80038, 18, 1⟩
def RTC_UTC_LEAP59 : Fld := ⟨0x80038, 17, 1⟩
def RTC_UTC_LEAP61 : Fld := ⟨0x80038, 16, 1⟩
def RTC_UTC_UTC_OFFSET : Fld := ⟨0x80038, 0, 16⟩
def RTC_TRIM : Fld := ⟨0x8003c, 0, 16⟩
def RTC_ALARM : Fld := ⟨0x80040, 0, 32⟩
def RTC_TAMPER_TS : Fld := ⟨0x80048, 0, 32⟩
def RTC_TAMPER_TSHI_SUB : Fld := ⟨0x8004c, 16, 15⟩
def RTC_TAMPER_TSHI_SECHI : Fld := ⟨0x8004c, 0, 16⟩
def RTC_LOG_IDX_HEAD : Fld := ⟨0x80050, 8, 8⟩
def RTC_LOG_IDX_IDX : Fld := ⟨0x80050, 0, 8⟩
def RTC_LOG_DATA (i : Nat) : Fld := ⟨0x80054 + 4 * i, 0, 32⟩
def RTC_CORR : Fld := ⟨0x80064, 0, 32⟩
def RTC_CMD : Fld := ⟨0x80100, 0, 1⟩
def YARD_CTRL_STOP : Fld := ⟨0x120008, 2, 1⟩
def YARD_CTRL_START : Fld := ⟨0x120008, 1, 1⟩
def YARD_CTRL_CHECK : Fld := ⟨0x120008, 0, 1⟩
def YARD_STAT_ACTIVE : Fld := ⟨0x12000c, 16, 8⟩
def YARD_STAT_ENABLED : Fld := ⟨0x12000c, 8, 8⟩
def YARD_STAT_ARMS_EN : Fld := ⟨0x12000c, 2, 6⟩
def YARD_STAT_STATE : Fld := ⟨0x12000c, 0, 2⟩
def YARD_FAULT_STAT_START_REFUSED : Fld := ⟨0x12001c, 6, 1⟩
def YARD_FAULT_STAT_DESC_DROP : Fld := ⟨0x12001c, 5, 1⟩
def YARD_FAULT_STAT_CHECK_FAIL : Fld := ⟨0x12001c, 4, 1⟩
def YARD_ERR_COUNT_DESC_DROP_COUNT : Fld := ⟨0x120020, 16, 16⟩
def YARD_CFG_CONNECTION : Fld := ⟨0x120028, 2, 2⟩
def YARD_CFG_TOPOLOGY : Fld := ⟨0x120028, 0, 2⟩
def YARD_PERIOD : Fld := ⟨0x12002c, 0, 8⟩
def YARD_ARM_LEVELS_INST (i : Nat) : Fld := ⟨0x120030 + 4 * i, 19, 13⟩
def YARD_ARM_LEVELS_REQ (i : Nat) : Fld := ⟨0x120030 + 4 * i, 6, 13⟩
def YARD_ARM_ROLE (i : Nat) : Fld := ⟨0x120030 + 4 * i, 3, 3⟩
def YARD_ARM_EN (i : Nat) : Fld := ⟨0x120030 + 4 * i, 0, 1⟩
def YARD_CHECK : Fld := ⟨0x120050, 0, 32⟩
def YARD_PERIOD_NUM (i : Nat) : Fld := ⟨0x120058 + 4 * i, 0, 32⟩
def YARD_ACTIVE (i : Nat) : Fld := ⟨0x120060 + 4 * i, 0, 32⟩
def YARD_WARMUP_WU_LEFT : Fld := ⟨0x120080, 16, 16⟩
def YARD_WARMUP_W_UP : Fld := ⟨0x120080, 0, 16⟩
def YARD_FS (i : Nat) : Fld := ⟨0x121000 + 4 * i, 0, 32⟩
def YARD_CONV_SHIFT (i : Nat) : Fld := ⟨0x122000 + 4 * i, 16, 5⟩
def YARD_CONV_MANT (i : Nat) : Fld := ⟨0x122000 + 4 * i, 0, 16⟩
def EDGE_CTRL_DBG_HOLD : Fld := ⟨0x130008, 1, 1⟩
def EDGE_CTRL_COMMIT : Fld := ⟨0x130008, 0, 1⟩
def EDGE_STAT_ARM_COAST : Fld := ⟨0x13000c, 8, 6⟩
def EDGE_STAT_HOLD_ACTIVE : Fld := ⟨0x13000c, 1, 1⟩
def EDGE_STAT_APPLYING : Fld := ⟨0x13000c, 0, 1⟩
def EDGE_FAULT_STAT_NLM_DEFER : Fld := ⟨0x13001c, 8, 1⟩
def EDGE_FAULT_STAT_CMD_REUSE : Fld := ⟨0x13001c, 7, 1⟩
def EDGE_FAULT_STAT_PULSE_DROP : Fld := ⟨0x13001c, 6, 1⟩
def EDGE_FAULT_STAT_ENTRY_OVF : Fld := ⟨0x13001c, 5, 1⟩
def EDGE_FAULT_STAT_CFG_REJECT : Fld := ⟨0x13001c, 4, 1⟩
def EDGE_ERR_COUNT_CFG_REJECT_COUNT : Fld := ⟨0x130020, 16, 16⟩
def EDGE_RELOAD : Fld := ⟨0x130028, 0, 16⟩
def EDGE_CHECK : Fld := ⟨0x130030, 0, 32⟩
def EDGE_PRECHG_PC_PHI_MAX : Fld := ⟨0x130038, 16, 15⟩
def EDGE_PRECHG_K_PC : Fld := ⟨0x130038, 0, 16⟩
def EDGE_ARM_MODE_MIN_ON (i : Nat) : Fld := ⟨0x130040 + 32 * i, 16, 16⟩
def EDGE_ARM_MODE_N_SLOTS (i : Nat) : Fld := ⟨0x130040 + 32 * i, 8, 8⟩
def EDGE_ARM_MODE_ISO_STAG (i : Nat) : Fld := ⟨0x130040 + 32 * i, 5, 1⟩
def EDGE_ARM_MODE_DT_CENTRE (i : Nat) : Fld := ⟨0x130040 + 32 * i, 4, 1⟩
def EDGE_ARM_MODE_ISO_MODE (i : Nat) : Fld := ⟨0x130040 + 32 * i, 2, 2⟩
def EDGE_ARM_MODE_MV_MODE (i : Nat) : Fld := ⟨0x130040 + 32 * i, 0, 2⟩
def EDGE_ARM_DT_DT_ISO (i : Nat) : Fld := ⟨0x130044 + 32 * i, 16, 16⟩
def EDGE_ARM_DT_DT_MV (i : Nat) : Fld := ⟨0x130044 + 32 * i, 0, 16⟩
def EDGE_ARM_CR (i : Nat) : Fld := ⟨0x130048 + 32 * i, 0, 25⟩
def EDGE_ARM_ISO (i : Nat) : Fld := ⟨0x13004c + 32 * i, 0, 20⟩
def EDGE_ARM_KQ (i : Nat) : Fld := ⟨0x130050 + 32 * i, 0, 24⟩
def EDGE_ARM_SLEW (i : Nat) : Fld := ⟨0x130054 + 32 * i, 0, 16⟩
def EDGE_PULSE_DROP : Fld := ⟨0x130100, 0, 32⟩
def EDGE_ENTRY_OVF : Fld := ⟨0x130104, 0, 32⟩
def EDGE_CMD_REUSE : Fld := ⟨0x130108, 0, 32⟩
def EDGE_NLM_DEFER : Fld := ⟨0x13010c, 0, 32⟩
def EDGE_GUARD : Fld := ⟨0x130120, 0, 1⟩
def EDGE_STALL_PSC_SLOT (i : Nat) : Fld := ⟨0x131000 + 4 * i, 24, 7⟩
def EDGE_STALL_FORCE_OFF (i : Nat) : Fld := ⟨0x131000 + 4 * i, 16, 6⟩
def EDGE_STALL_SWAP_SEC (i : Nat) : Fld := ⟨0x131000 + 4 * i, 10, 1⟩
def EDGE_STALL_SWAP_PRI (i : Nat) : Fld := ⟨0x131000 + 4 * i, 9, 1⟩
def EDGE_STALL_SWAP_MV (i : Nat) : Fld := ⟨0x131000 + 4 * i, 8, 1⟩
def EDGE_STALL_INV (i : Nat) : Fld := ⟨0x131000 + 4 * i, 0, 6⟩
def EDGE_ACMD0 (i : Nat) : Fld := ⟨0x132000 + 16 * i, 0, 16⟩
def EDGE_ACMD1 (i : Nat) : Fld := ⟨0x132004 + 16 * i, 0, 16⟩
def EDGE_ACMD2 (i : Nat) : Fld := ⟨0x132008 + 16 * i, 0, 16⟩
def EDGE_ACMD3 (i : Nat) : Fld := ⟨0x13200c + 16 * i, 0, 16⟩
def BAL_CTRL_ROT_STEP : Fld := ⟨0x140008, 0, 8⟩
def BAL_STAT_RES_PERIOD : Fld := ⟨0x14000c, 24, 8⟩
def BAL_STAT_WARMUP : Fld := ⟨0x14000c, 12, 1⟩
def BAL_STAT_ARM_STATE : Fld := ⟨0x14000c, 0, 12⟩
def BAL_FAULT_STAT_VBAR_CLAMP : Fld := ⟨0x14001c, 6, 1⟩
def BAL_FAULT_STAT_RESET_REFUSED : Fld := ⟨0x14001c, 5, 1⟩
def BAL_FAULT_STAT_SORT_ERR : Fld := ⟨0x14001c, 4, 1⟩
def BAL_ERR_COUNT_RESET_REFUSED_COUNT : Fld := ⟨0x140020, 16, 16⟩
def BAL_DONE_DONE_PEAK : Fld := ⟨0x14002c, 16, 16⟩
def BAL_DONE_DONE_LAST : Fld := ⟨0x14002c, 0, 16⟩
def BAL_ARM_CFG_HYST (i : Nat) : Fld := ⟨0x140040 + 64 * i, 16, 16⟩
def BAL_ARM_CFG_REJOIN_N (i : Nat) : Fld := ⟨0x140040 + 64 * i, 8, 8⟩
def BAL_ARM_CFG_STALE_LIM (i : Nat) : Fld := ⟨0x140040 + 64 * i, 4, 4⟩
def BAL_ARM_CFG_ISRC (i : Nat) : Fld := ⟨0x140040 + 64 * i, 2, 1⟩
def BAL_ARM_CFG_SORT_MODE (i : Nat) : Fld := ⟨0x140040 + 64 * i, 0, 2⟩
def BAL_ARM_BAND_V_HI (i : Nat) : Fld := ⟨0x140044 + 64 * i, 16, 16⟩
def BAL_ARM_BAND_V_LO (i : Nat) : Fld := ⟨0x140044 + 64 * i, 0, 16⟩
def BAL_ARM_LIM_LOCK_PER (i : Nat) : Fld := ⟨0x140048 + 64 * i, 24, 8⟩
def BAL_ARM_LIM_LEVELS_LOCK (i : Nat) : Fld := ⟨0x140048 + 64 * i, 0, 13⟩
def BAL_ARM_IDB_REJOIN_BAND (i : Nat) : Fld := ⟨0x14004c + 64 * i, 16, 16⟩
def BAL_ARM_IDB_I_DB (i : Nat) : Fld := ⟨0x14004c + 64 * i, 0, 16⟩
def BAL_ARM_SHARE_SH_MAX (i : Nat) : Fld := ⟨0x140050 + 64 * i, 16, 15⟩
def BAL_ARM_SHARE_K_SH (i : Nat) : Fld := ⟨0x140050 + 64 * i, 0, 16⟩
def BAL_ARM_MVT_MV_MAX (i : Nat) : Fld := ⟨0x140054 + 64 * i, 16, 15⟩
def BAL_ARM_MVT_K_MV (i : Nat) : Fld := ⟨0x140054 + 64 * i, 0, 16⟩
def BAL_ARM_FLOOR (i : Nat) : Fld := ⟨0x140058 + 64 * i, 0, 16⟩
def BAL_ARM_STAT_SEL (i : Nat) : Fld := ⟨0x140060 + 64 * i, 24, 8⟩
def BAL_ARM_STAT_L_AVAIL (i : Nat) : Fld := ⟨0x140060 + 64 * i, 8, 13⟩
def BAL_ARM_STAT_DIR (i : Nat) : Fld := ⟨0x140060 + 64 * i, 7, 1⟩
def BAL_ARM_STAT_I_SIGN (i : Nat) : Fld := ⟨0x140060 + 64 * i, 6, 1⟩
def BAL_ARM_STAT_STATE (i : Nat) : Fld := ⟨0x140060 + 64 * i, 0, 2⟩
def BAL_ARM_MEAS_I_ARM (i : Nat) : Fld := ⟨0x140064 + 64 * i, 16, 16⟩
def BAL_ARM_MEAS_VBAR (i : Nat) : Fld := ⟨0x140064 + 64 * i, 0, 16⟩
def BAL_ARM_LOW_SORT_ERRS (i : Nat) : Fld := ⟨0x140068 + 64 * i, 8, 8⟩
def BAL_ARM_LOW_LOW_COUNT (i : Nat) : Fld := ⟨0x140068 + 64 * i, 0, 8⟩
def BAL_STALE_USED : Fld := ⟨0x1401c0, 0, 32⟩
def BAL_MISSING_COUNT : Fld := ⟨0x1401c4, 0, 32⟩
def BAL_BYP_ORDERS : Fld := ⟨0x1401c8, 0, 32⟩
def BAL_SORT_ERR_COUNT : Fld := ⟨0x1401cc, 0, 32⟩
def BAL_ARM_RESET : Fld := ⟨0x1401e0, 0, 6⟩
def BAL_STALL (i : Nat) : Fld := ⟨0x141000 + 4 * i, 0, 1⟩
def BAL_RES_INS (i : Nat) : Fld := ⟨0x142000 + 4 * i, 17, 1⟩
def BAL_RES_HELD (i : Nat) : Fld := ⟨0x142000 + 4 * i, 16, 1⟩
def BAL_RES_V_AGE (i : Nat) : Fld := ⟨0x142000 + 4 * i, 12, 4⟩
def BAL_RES_CAUSE (i : Nat) : Fld := ⟨0x142000 + 4 * i, 9, 3⟩
def BAL_RES_BYP (i : Nat) : Fld := ⟨0x142000 + 4 * i, 8, 1⟩
def BAL_RES_RANK (i : Nat) : Fld := ⟨0x142000 + 4 * i, 0, 8⟩
def BAL_TRIM_SHARE (i : Nat) : Fld := ⟨0x143000 + 4 * i, 16, 16⟩
def BAL_TRIM_MVT (i : Nat) : Fld := ⟨0x143000 + 4 * i, 0, 16⟩
def CME_CTRL_CHECK : Fld := ⟨0x150008, 0, 1⟩
def CME_STAT_MISS_LAST : Fld := ⟨0x15000c, 24, 6⟩
def CME_STAT_PRESET_PEND : Fld := ⟨0x15000c, 16, 6⟩
def CME_STAT_DEGRADED : Fld := ⟨0x15000c, 8, 6⟩
def CME_STAT_PROG_OK : Fld := ⟨0x15000c, 4, 1⟩
def CME_STAT_PAD_SESSION : Fld := ⟨0x15000c, 3, 1⟩
def CME_STAT_BANK : Fld := ⟨0x15000c, 2, 1⟩
def CME_STAT_ENG_STATE : Fld := ⟨0x15000c, 0, 2⟩
def CME_FAULT_STAT_PROG_BAD : Fld := ⟨0x15001c, 14, 1⟩
def CME_FAULT_STAT_RAM_DROP : Fld := ⟨0x15001c, 13, 1⟩
def CME_FAULT_STAT_BUDGET_WARN : Fld := ⟨0x15001c, 12, 1⟩
def CME_FAULT_STAT_RESTORE_REFUSED : Fld := ⟨0x15001c, 11, 1⟩
def CME_FAULT_STAT_EARLY_BAL : Fld := ⟨0x15001c, 10, 1⟩
def CME_FAULT_STAT_RAM_UE : Fld := ⟨0x15001c, 9, 1⟩
def CME_FAULT_STAT_ILLEGAL : Fld := ⟨0x15001c, 8, 1⟩
def CME_FAULT_STAT_ADDR_ERR : Fld := ⟨0x15001c, 7, 1⟩
def CME_FAULT_STAT_ACC_OVF : Fld := ⟨0x15001c, 6, 1⟩
def CME_FAULT_STAT_SAT : Fld := ⟨0x15001c, 5, 1⟩
def CME_FAULT_STAT_OVERRUN : Fld := ⟨0x15001c, 4, 1⟩
def CME_ERR_COUNT_RESTORE_REFUSED_COUNT : Fld := ⟨0x150020, 16, 16⟩
def CME_ENTRY : Fld := ⟨0x150028, 0, 14⟩
def CME_MISSCFG_MISS_W : Fld := ⟨0x15002c, 8, 8⟩
def CME_MISSCFG_MISS_N : Fld := ⟨0x15002c, 0, 8⟩
def CME_CHECK_LO : Fld := ⟨0x150030, 0, 32⟩
def CME_CHECK_HI : Fld := ⟨0x150034, 0, 32⟩
def CME_BUDGET_MARK_SLACK : Fld := ⟨0x150038, 16, 16⟩
def CME_BUDGET_T_END : Fld := ⟨0x150038, 0, 16⟩
def CME_LASTRUN_END_PEAK : Fld := ⟨0x15003c, 16, 16⟩
def CME_LASTRUN_END_CYCLE : Fld := ⟨0x15003c, 0, 16⟩
def CME_PRESET : Fld := ⟨0x150040, 0, 6⟩
def CME_OVERRUN_COUNT : Fld := ⟨0x150080, 0, 32⟩
def CME_MISS_COUNT : Fld := ⟨0x150084, 0, 32⟩
def CME_SAT_COUNT : Fld := ⟨0x150088, 0, 32⟩
def CME_RAM_DROP : Fld := ⟨0x15008c, 0, 32⟩
def CME_RAM_CE : Fld := ⟨0x150090, 0, 32⟩
def CME_DBG_CTRL : Fld := ⟨0x1500c0, 0, 1⟩
def CME_DBG_BRK_ADDR : Fld := ⟨0x1500c4, 16, 14⟩
def CME_DBG_BRK_EN : Fld := ⟨0x1500c4, 2, 1⟩
def CME_DBG_STEP : Fld := ⟨0x1500c4, 1, 1⟩
def CME_DBG_HALT : Fld := ⟨0x1500c4, 0, 1⟩
def CME_DBG_STAT_AT_BRK : Fld := ⟨0x1500c8, 17, 1⟩
def CME_DBG_STAT_HALTED : Fld := ⟨0x1500c8, 16, 1⟩
def CME_DBG_STAT_PC : Fld := ⟨0x1500c8, 0, 14⟩
def CME_DBG_SEL_KIND : Fld := ⟨0x1500cc, 9, 2⟩
def CME_DBG_SEL_LANE : Fld := ⟨0x1500cc, 4, 5⟩
def CME_DBG_SEL_REG : Fld := ⟨0x1500cc, 0, 4⟩
def CME_DBG_DATA : Fld := ⟨0x1500d0, 0, 32⟩
def CME_ARM_RESTORE : Fld := ⟨0x150100, 0, 6⟩
def ETH_CTRL_E3_SPEED : Fld := ⟨0x90008, 10, 2⟩
def ETH_CTRL_E12_SPEED : Fld := ⟨0x90008, 8, 2⟩
def ETH_CTRL_RED_MODE : Fld := ⟨0x90008, 4, 2⟩
def ETH_CTRL_RRA_E3_EN : Fld := ⟨0x90008, 3, 1⟩
def ETH_CTRL_RRA_E12_EN : Fld := ⟨0x90008, 2, 1⟩
def ETH_CTRL_E3_EN : Fld := ⟨0x90008, 1, 1⟩
def ETH_CTRL_E12_EN : Fld := ⟨0x90008, 0, 1⟩
def ETH_STAT_RRA_UP : Fld := ⟨0x9000c, 13, 1⟩
def ETH_STAT_RING_CLOSED : Fld := ⟨0x9000c, 12, 1⟩
def ETH_STAT_SFP3 : Fld := ⟨0x9000c, 10, 1⟩
def ETH_STAT_SPD3 : Fld := ⟨0x9000c, 9, 1⟩
def ETH_STAT_LINK3 : Fld := ⟨0x9000c, 8, 1⟩
def ETH_STAT_SFP2 : Fld := ⟨0x9000c, 6, 1⟩
def ETH_STAT_SPD2 : Fld := ⟨0x9000c, 5, 1⟩
def ETH_STAT_LINK2 : Fld := ⟨0x9000c, 4, 1⟩
def ETH_STAT_SFP1 : Fld := ⟨0x9000c, 2, 1⟩
def ETH_STAT_SPD1 : Fld := ⟨0x9000c, 1, 1⟩
def ETH_STAT_LINK1 : Fld := ⟨0x9000c, 0, 1⟩
def ETH_FAULT_STAT_BAD_MODE : Fld := ⟨0x9001c, 8, 1⟩
def ETH_FAULT_STAT_REPLAY_SEEN : Fld := ⟨0x9001c, 7, 1⟩
def ETH_FAULT_STAT_AUTH : Fld := ⟨0x9001c, 6, 1⟩
def ETH_FAULT_STAT_SFP_FAULT : Fld := ⟨0x9001c, 5, 1⟩
def ETH_ERR_COUNT_CLR_REFUSED : Fld := ⟨0x90020, 16, 16⟩
def ETH_MAC_LO : Fld := ⟨0x90028, 0, 32⟩
def ETH_MAC_HI : Fld := ⟨0x9002c, 0, 16⟩
def ETH_IP12 : Fld := ⟨0x90030, 0, 32⟩
def ETH_MASK12 : Fld := ⟨0x90034, 0, 32⟩
def ETH_GW12 : Fld := ⟨0x90038, 0, 32⟩
def ETH_IP3 : Fld := ⟨0x9003c, 0, 32⟩
def ETH_MASK3 : Fld := ⟨0x90040, 0, 32⟩
def ETH_GW3 : Fld := ⟨0x90044, 0, 32⟩
def ETH_RRA : Fld := ⟨0x90048, 0, 16⟩
def ETH_RED_NODE_FORGET : Fld := ⟨0x9004c, 16, 16⟩
def ETH_RED_LIFE_MS : Fld := ⟨0x9004c, 0, 16⟩
def ETH_RX_OK (i : Nat) : Fld := ⟨0x90080 + 16 * i, 0, 32⟩
def ETH_RX_ERR (i : Nat) : Fld := ⟨0x90084 + 16 * i, 0, 32⟩
def ETH_RX_DROP (i : Nat) : Fld := ⟨0x90088 + 16 * i, 0, 32⟩
def ETH_TX_OK (i : Nat) : Fld := ⟨0x9008c + 16 * i, 0, 32⟩
def ETH_DUP_DISCARD : Fld := ⟨0x900b0, 0, 32⟩
def ETH_WRONG_LAN : Fld := ⟨0x900b4, 0, 32⟩
def ETH_HSR_FWD : Fld := ⟨0x900b8, 0, 32⟩
def ETH_HSR_OWN_REMOVED : Fld := ⟨0x900bc, 0, 32⟩
def ETH_RRA_OK : Fld := ⟨0x900c0, 0, 32⟩
def ETH_RRA_REJ : Fld := ⟨0x900c4, 0, 32⟩
def CAN_CTRL_QUEUE_OWNER (n : Nat) : Fld := ⟨0xa0008 + 0x10000 * n, 7, 1⟩
def CAN_CTRL_ACCEPT_ALL (n : Nat) : Fld := ⟨0xa0008 + 0x10000 * n, 6, 1⟩
def CAN_CTRL_LOOPBACK (n : Nat) : Fld := ⟨0xa0008 + 0x10000 * n, 5, 1⟩
def CAN_CTRL_MON (n : Nat) : Fld := ⟨0xa0008 + 0x10000 * n, 4, 1⟩
def CAN_CTRL_RESTRICTED (n : Nat) : Fld := ⟨0xa0008 + 0x10000 * n, 3, 1⟩
def CAN_CTRL_RECOVER (n : Nat) : Fld := ⟨0xa0008 + 0x10000 * n, 2, 1⟩
def CAN_CTRL_AUTO_RECOV (n : Nat) : Fld := ⟨0xa0008 + 0x10000 * n, 1, 1⟩
def CAN_CTRL_EN (n : Nat) : Fld := ⟨0xa0008 + 0x10000 * n, 0, 1⟩
def CAN_STAT_BACKED (n : Nat) : Fld := ⟨0xa000c + 0x10000 * n, 25, 1⟩
def CAN_STAT_TT_MASTER (n : Nat) : Fld := ⟨0xa000c + 0x10000 * n, 24, 1⟩
def CAN_STAT_TX_PENDING (n : Nat) : Fld := ⟨0xa000c + 0x10000 * n, 16, 7⟩
def CAN_STAT_RX_LEVEL (n : Nat) : Fld := ⟨0xa000c + 0x10000 * n, 8, 7⟩
def CAN_STAT_SYNCED (n : Nat) : Fld := ⟨0xa000c + 0x10000 * n, 3, 1⟩
def CAN_STAT_WARN (n : Nat) : Fld := ⟨0xa000c + 0x10000 * n, 2, 1⟩
def CAN_STAT_ERR_STATE (n : Nat) : Fld := ⟨0xa000c + 0x10000 * n, 0, 2⟩
def CAN_FAULT_STAT_NOT_OWNER (n : Nat) : Fld := ⟨0xa001c + 0x10000 * n, 11, 1⟩
def CAN_FAULT_STAT_TT_MISS_F (n : Nat) : Fld := ⟨0xa001c + 0x10000 * n, 10, 1⟩
def CAN_FAULT_STAT_PUSH_REF (n : Nat) : Fld := ⟨0xa001c + 0x10000 * n, 9, 1⟩
def CAN_FAULT_STAT_CFG_DROP (n : Nat) : Fld := ⟨0xa001c + 0x10000 * n, 8, 1⟩
def CAN_FAULT_STAT_BUS_OFF (n : Nat) : Fld := ⟨0xa001c + 0x10000 * n, 7, 1⟩
def CAN_FAULT_STAT_COLLISION (n : Nat) : Fld := ⟨0xa001c + 0x10000 * n, 6, 1⟩
def CAN_FAULT_STAT_CANCEL_REF (n : Nat) : Fld := ⟨0xa001c + 0x10000 * n, 5, 1⟩
def CAN_FAULT_STAT_RX_OVF (n : Nat) : Fld := ⟨0xa001c + 0x10000 * n, 4, 1⟩
def CAN_ERR_COUNT_PUSH_REFUSED (n : Nat) : Fld := ⟨0xa0020 + 0x10000 * n, 16, 16⟩
def CAN_NBT_NSJW (n : Nat) : Fld := ⟨0xa0028 + 0x10000 * n, 25, 7⟩
def CAN_NBT_NTSEG1 (n : Nat) : Fld := ⟨0xa0028 + 0x10000 * n, 16, 8⟩
def CAN_NBT_NTSEG2 (n : Nat) : Fld := ⟨0xa0028 + 0x10000 * n, 8, 7⟩
def CAN_NBT_NBRP (n : Nat) : Fld := ⟨0xa0028 + 0x10000 * n, 0, 5⟩
def CAN_DBT_DSJW (n : Nat) : Fld := ⟨0xa002c + 0x10000 * n, 24, 4⟩
def CAN_DBT_DTSEG1 (n : Nat) : Fld := ⟨0xa002c + 0x10000 * n, 16, 5⟩
def CAN_DBT_DTSEG2 (n : Nat) : Fld := ⟨0xa002c + 0x10000 * n, 8, 4⟩
def CAN_DBT_DBRP (n : Nat) : Fld := ⟨0xa002c + 0x10000 * n, 0, 5⟩
def CAN_TDC_TDCV (n : Nat) : Fld := ⟨0xa0030 + 0x10000 * n, 16, 7⟩
def CAN_TDC_TDCO (n : Nat) : Fld := ⟨0xa0030 + 0x10000 * n, 8, 7⟩
def CAN_TDC_TDC_EN (n : Nat) : Fld := ⟨0xa0030 + 0x10000 * n, 0, 1⟩
def CAN_ECNT_REC (n : Nat) : Fld := ⟨0xa0034 + 0x10000 * n, 16, 9⟩
def CAN_ECNT_TEC (n : Nat) : Fld := ⟨0xa0034 + 0x10000 * n, 0, 9⟩
def CAN_TT_CFG_TT_EN (n : Nat) : Fld := ⟨0xa0038 + 0x10000 * n, 31, 1⟩
def CAN_TT_CFG_CC_LOG2 (n : Nat) : Fld := ⟨0xa0038 + 0x10000 * n, 28, 3⟩
def CAN_TT_CFG_CYCLE_US (n : Nat) : Fld := ⟨0xa0038 + 0x10000 * n, 0, 20⟩
def CAN_TT_REF_REF_IDE (n : Nat) : Fld := ⟨0xa003c + 0x10000 * n, 29, 1⟩
def CAN_TT_REF_REF_ID (n : Nat) : Fld := ⟨0xa003c + 0x10000 * n, 0, 29⟩
def CAN_TT_STAT_OTHER_PRI (n : Nat) : Fld := ⟨0xa0040 + 0x10000 * n, 16, 3⟩
def CAN_TT_STAT_BACKED (n : Nat) : Fld := ⟨0xa0040 + 0x10000 * n, 9, 1⟩
def CAN_TT_STAT_MASTER (n : Nat) : Fld := ⟨0xa0040 + 0x10000 * n, 8, 1⟩
def CAN_TT_STAT_CYCLE (n : Nat) : Fld := ⟨0xa0040 + 0x10000 * n, 0, 6⟩
def CAN_REF_DATA_LO (n : Nat) : Fld := ⟨0xa0044 + 0x10000 * n, 0, 32⟩
def CAN_REF_DATA_HI_REF_DLC (n : Nat) : Fld := ⟨0xa0048 + 0x10000 * n, 24, 4⟩
def CAN_REF_DATA_HI_OCT5TO7 (n : Nat) : Fld := ⟨0xa0048 + 0x10000 * n, 0, 24⟩
def CAN_TX_OK (n : Nat) : Fld := ⟨0xa0080 + 0x10000 * n, 0, 32⟩
def CAN_RX_OK (n : Nat) : Fld := ⟨0xa0084 + 0x10000 * n, 0, 32⟩
def CAN_RX_DROP (n : Nat) : Fld := ⟨0xa0088 + 0x10000 * n, 0, 32⟩
def CAN_RX_UNDER (n : Nat) : Fld := ⟨0xa008c + 0x10000 * n, 0, 32⟩
def CAN_BUS_ERR (n : Nat) : Fld := ⟨0xa0090 + 0x10000 * n, 0, 32⟩
def CAN_ARB_LOST (n : Nat) : Fld := ⟨0xa0094 + 0x10000 * n, 0, 32⟩
def CAN_CAN_COLLISION (n : Nat) : Fld := ⟨0xa0098 + 0x10000 * n, 0, 32⟩
def CAN_TT_MISS (n : Nat) : Fld := ⟨0xa009c + 0x10000 * n, 0, 32⟩
def CAN_TXS_ID_RTR (n : Nat) : Fld := ⟨0xa1000 + 0x10000 * n, 30, 1⟩
def CAN_TXS_ID_IDE (n : Nat) : Fld := ⟨0xa1000 + 0x10000 * n, 29, 1⟩
def CAN_TXS_ID_ID (n : Nat) : Fld := ⟨0xa1000 + 0x10000 * n, 0, 29⟩
def CAN_TXS_CTL_BRS (n : Nat) : Fld := ⟨0xa1004 + 0x10000 * n, 5, 1⟩
def CAN_TXS_CTL_FDF (n : Nat) : Fld := ⟨0xa1004 + 0x10000 * n, 4, 1⟩
def CAN_TXS_CTL_DLC (n : Nat) : Fld := ⟨0xa1004 + 0x10000 * n, 0, 4⟩
def CAN_TXS_TT_TT (n : Nat) : Fld := ⟨0xa1008 + 0x10000 * n, 31, 1⟩
def CAN_TXS_TT_REP_LOG2 (n : Nat) : Fld := ⟨0xa1008 + 0x10000 * n, 28, 3⟩
def CAN_TXS_TT_BASE (n : Nat) : Fld := ⟨0xa1008 + 0x10000 * n, 22, 6⟩
def CAN_TXS_TT_OFFS_US (n : Nat) : Fld := ⟨0xa1008 + 0x10000 * n, 0, 20⟩
def CAN_TX_PUSH_GO (n : Nat) : Fld := ⟨0xa100c + 0x10000 * n, 31, 1⟩
def CAN_TX_PUSH_ENTRY (n : Nat) : Fld := ⟨0xa100c + 0x10000 * n, 0, 6⟩
def CAN_TXS_DATA (n : Nat) (i : Nat) : Fld := ⟨0xa1040 + 0x10000 * n + 4 * i, 0, 32⟩
def CAN_TX_PEND (n : Nat) (i : Nat) : Fld := ⟨0xa1080 + 0x10000 * n + 4 * i, 0, 32⟩
def CAN_TX_DONE (n : Nat) (i : Nat) : Fld := ⟨0xa1088 + 0x10000 * n + 4 * i, 0, 32⟩
def CAN_TX_CANCEL (n : Nat) (i : Nat) : Fld := ⟨0xa1090 + 0x10000 * n + 4 * i, 0, 32⟩
def CAN_TX_CANREF (n : Nat) (i : Nat) : Fld := ⟨0xa1098 + 0x10000 * n + 4 * i, 0, 32⟩
def CAN_RX_TOP_LO (n : Nat) : Fld := ⟨0xa10c0 + 0x10000 * n, 0, 32⟩
def CAN_RX_TOP_HI (n : Nat) : Fld := ⟨0xa10c4 + 0x10000 * n, 0, 32⟩
def CAN_RXW_TS (n : Nat) (i : Nat) : Fld := ⟨0xa10c8 + 0x10000 * n + 4 * i, 0, 32⟩
def CAN_RX_LEVEL (n : Nat) : Fld := ⟨0xa10d0 + 0x10000 * n, 0, 7⟩
def CAN_RXW_DATA (n : Nat) (i : Nat) : Fld := ⟨0xa1100 + 0x10000 * n + 4 * i, 0, 32⟩
def CAN_FLT_ID_FLT_EN (n : Nat) (i : Nat) : Fld := ⟨0xa2000 + 0x10000 * n + 8 * i, 31, 1⟩
def CAN_FLT_ID_FLT_IDE (n : Nat) (i : Nat) : Fld := ⟨0xa2000 + 0x10000 * n + 8 * i, 29, 1⟩
def CAN_FLT_ID_FLT_ID (n : Nat) (i : Nat) : Fld := ⟨0xa2000 + 0x10000 * n + 8 * i, 0, 29⟩
def CAN_FLT_MASK (n : Nat) (i : Nat) : Fld := ⟨0xa2004 + 0x10000 * n + 8 * i, 0, 29⟩
def CAN_TXTS (n : Nat) (i : Nat) : Fld := ⟨0xa3000 + 0x10000 * n + 4 * i, 0, 32⟩
def LANE_CTRL_FOM_MIN_LO (n : Nat) : Fld := ⟨0x400008 + 0x10000 * n, 24, 8⟩
def LANE_CTRL_FOM_MIN_HI (n : Nat) : Fld := ⟨0x400008 + 0x10000 * n, 16, 8⟩
def LANE_CTRL_RATE_SEL (n : Nat) : Fld := ⟨0x400008 + 0x10000 * n, 4, 2⟩
def LANE_CTRL_LASTING_CLR (n : Nat) : Fld := ⟨0x400008 + 0x10000 * n, 3, 1⟩
def LANE_CTRL_APPLY_EQ (n : Nat) : Fld := ⟨0x400008 + 0x10000 * n, 2, 1⟩
def LANE_CTRL_ADAPT (n : Nat) : Fld := ⟨0x400008 + 0x10000 * n, 1, 1⟩
def LANE_CTRL_EN (n : Nat) : Fld := ⟨0x400008 + 0x10000 * n, 0, 1⟩
def LANE_STAT_FOM (n : Nat) : Fld := ⟨0x40000c + 0x10000 * n, 16, 8⟩
def LANE_STAT_EQ_PENDING (n : Nat) : Fld := ⟨0x40000c + 0x10000 * n, 13, 1⟩
def LANE_STAT_DELAY_VALID (n : Nat) : Fld := ⟨0x40000c + 0x10000 * n, 12, 1⟩
def LANE_STAT_MARKER_LOCK (n : Nat) : Fld := ⟨0x40000c + 0x10000 * n, 11, 1⟩
def LANE_STAT_HEALTHY (n : Nat) : Fld := ⟨0x40000c + 0x10000 * n, 10, 1⟩
def LANE_STAT_HIBER (n : Nat) : Fld := ⟨0x40000c + 0x10000 * n, 9, 1⟩
def LANE_STAT_BLOCK_LOCK (n : Nat) : Fld := ⟨0x40000c + 0x10000 * n, 8, 1⟩
def LANE_STAT_ROW (n : Nat) : Fld := ⟨0x40000c + 0x10000 * n, 6, 2⟩
def LANE_STAT_RATE (n : Nat) : Fld := ⟨0x40000c + 0x10000 * n, 4, 2⟩
def LANE_STAT_STATE (n : Nat) : Fld := ⟨0x40000c + 0x10000 * n, 0, 4⟩
def LANE_FAULT_STAT_ADAPT_REFUSED (n : Nat) : Fld := ⟨0x40001c + 0x10000 * n, 7, 1⟩
def LANE_FAULT_STAT_PARK_REFUSED (n : Nat) : Fld := ⟨0x40001c + 0x10000 * n, 6, 1⟩
def LANE_FAULT_STAT_TRAIN_FAIL (n : Nat) : Fld := ⟨0x40001c + 0x10000 * n, 5, 1⟩
def LANE_FAULT_STAT_LASTING (n : Nat) : Fld := ⟨0x40001c + 0x10000 * n, 4, 1⟩
def LANE_ERR_COUNT_LANE_CLR_REFUSED (n : Nat) : Fld := ⟨0x400020 + 0x10000 * n, 16, 16⟩
def LANE_ERRCFG_HIBER_N (n : Nat) : Fld := ⟨0x400028 + 0x10000 * n, 24, 8⟩
def LANE_ERRCFG_ERR_W (n : Nat) : Fld := ⟨0x400028 + 0x10000 * n, 8, 16⟩
def LANE_ERRCFG_ERR_N (n : Nat) : Fld := ⟨0x400028 + 0x10000 * n, 0, 8⟩
def LANE_ECHOCFG_DLY_HYST (n : Nat) : Fld := ⟨0x40002c + 0x10000 * n, 16, 8⟩
def LANE_ECHOCFG_INT_US (n : Nat) : Fld := ⟨0x40002c + 0x10000 * n, 0, 16⟩
def LANE_DLY (n : Nat) : Fld := ⟨0x400030 + 0x10000 * n, 0, 24⟩
def LANE_RT_RAW (n : Nat) : Fld := ⟨0x400034 + 0x10000 * n, 0, 24⟩
def LANE_LAT_RX_LAT (n : Nat) : Fld := ⟨0x400038 + 0x10000 * n, 16, 16⟩
def LANE_LAT_TX_LAT (n : Nat) : Fld := ⟨0x400038 + 0x10000 * n, 0, 16⟩
def LANE_LAST_STALL (n : Nat) : Fld := ⟨0x40003c + 0x10000 * n, 0, 8⟩
def LANE_SH_ERR (n : Nat) : Fld := ⟨0x400080 + 0x10000 * n, 0, 32⟩
def LANE_LOCK_LOSS (n : Nat) : Fld := ⟨0x400084 + 0x10000 * n, 0, 32⟩
def LANE_HIBER (n : Nat) : Fld := ⟨0x400088 + 0x10000 * n, 0, 32⟩
def LANE_FRAMING (n : Nat) : Fld := ⟨0x40008c + 0x10000 * n, 0, 32⟩
def LANE_CRC_ERR (n : Nat) : Fld := ⟨0x400090 + 0x10000 * n, 0, 32⟩
def LANE_MARKER_ERR (n : Nat) : Fld := ⟨0x400094 + 0x10000 * n, 0, 32⟩
def LANE_IDLE_BITERR (n : Nat) : Fld := ⟨0x400098 + 0x10000 * n, 0, 32⟩
def LANE_ECHO_LOST (n : Nat) : Fld := ⟨0x40009c + 0x10000 * n, 0, 32⟩
def LANE_RETRAIN (n : Nat) : Fld := ⟨0x4000a0 + 0x10000 * n, 0, 32⟩
def LANE_EQ_VALID (n : Nat) (i : Nat) : Fld := ⟨0x401000 + 0x10000 * n + 4 * i, 31, 1⟩
def LANE_EQ_RATES (n : Nat) (i : Nat) : Fld := ⟨0x401000 + 0x10000 * n + 4 * i, 29, 2⟩
def LANE_EQ_OPT_ALLOW (n : Nat) (i : Nat) : Fld := ⟨0x401000 + 0x10000 * n + 4 * i, 20, 9⟩
def LANE_EQ_RX_VGA (n : Nat) (i : Nat) : Fld := ⟨0x401000 + 0x10000 * n + 4 * i, 16, 4⟩
def LANE_EQ_RX_CTLE (n : Nat) (i : Nat) : Fld := ⟨0x401000 + 0x10000 * n + 4 * i, 12, 4⟩
def LANE_EQ_TX_POST (n : Nat) (i : Nat) : Fld := ⟨0x401000 + 0x10000 * n + 4 * i, 8, 4⟩
def LANE_EQ_TX_PRE (n : Nat) (i : Nat) : Fld := ⟨0x401000 + 0x10000 * n + 4 * i, 4, 3⟩
def LANE_EQ_TX_SWING (n : Nat) (i : Nat) : Fld := ⟨0x401000 + 0x10000 * n + 4 * i, 0, 3⟩
def LANE_FOM_FOM_LO (n : Nat) (i : Nat) : Fld := ⟨0x401010 + 0x10000 * n + 4 * i, 8, 8⟩
def LANE_FOM_FOM_HI (n : Nat) (i : Nat) : Fld := ⟨0x401010 + 0x10000 * n + 4 * i, 0, 8⟩
def ADC_CTRL_EN : Fld := ⟨0xc0008, 8, 8⟩
def ADC_CTRL_REF_SEL : Fld := ⟨0xc0008, 0, 1⟩
def ADC_STAT_VREFX_OK : Fld := ⟨0xc000c, 25, 1⟩
def ADC_STAT_REF_ACT : Fld := ⟨0xc000c, 24, 1⟩
def ADC_STAT_CAL_BUSY : Fld := ⟨0xc000c, 16, 8⟩
def ADC_STAT_BUSY : Fld := ⟨0xc000c, 8, 8⟩
def ADC_STAT_SETTLED : Fld := ⟨0xc000c, 0, 8⟩
def ADC_FAULT_STAT_WIN_WR : Fld := ⟨0xc001c, 10, 1⟩
def ADC_FAULT_STAT_REF_REFUSED : Fld := ⟨0xc001c, 9, 1⟩
def ADC_FAULT_STAT_CMP_BAD : Fld := ⟨0xc001c, 8, 1⟩
def ADC_FAULT_STAT_CMP_TRIP : Fld := ⟨0xc001c, 7, 1⟩
def ADC_FAULT_STAT_VREFX_BAD : Fld := ⟨0xc001c, 6, 1⟩
def ADC_FAULT_STAT_TRIG_MISS : Fld := ⟨0xc001c, 5, 1⟩
def ADC_FAULT_STAT_FIFO_OVF : Fld := ⟨0xc001c, 4, 1⟩
def ADC_ERR_COUNT_CLR_REFUSED : Fld := ⟨0xc0020, 16, 16⟩
def ADC_CMP_LIVE_LO : Fld := ⟨0xc0028, 16, 12⟩
def ADC_CMP_LIVE_HI : Fld := ⟨0xc0028, 0, 12⟩
def ADC_CMP_TRIPPED_LO : Fld := ⟨0xc002c, 16, 12⟩
def ADC_CMP_TRIPPED_HI : Fld := ⟨0xc002c, 0, 12⟩
def ADC_CMP_PEND : Fld := ⟨0xc0030, 0, 12⟩
def ADC_VREFX : Fld := ⟨0xc0034, 0, 16⟩
def ADC_FIFO_OVF_COUNT : Fld := ⟨0xc0080, 0, 32⟩
def ADC_TRIG_MISS_COUNT : Fld := ⟨0xc0084, 0, 32⟩
def ADC_UNDERFLOW : Fld := ⟨0xc0088, 0, 32⟩
def ADC_CMP_TRIPS : Fld := ⟨0xc008c, 0, 32⟩
def ADC_DISCARDS : Fld := ⟨0xc0090, 0, 32⟩
def ADC_CH_CFG_PAIR (i : Nat) : Fld := ⟨0xc1000 + 32 * i, 31, 1⟩
def ADC_CH_CFG_FILT (i : Nat) : Fld := ⟨0xc1000 + 32 * i, 8, 3⟩
def ADC_CH_CFG_GAIN (i : Nat) : Fld := ⟨0xc1000 + 32 * i, 5, 2⟩
def ADC_CH_CFG_AIN (i : Nat) : Fld := ⟨0xc1000 + 32 * i, 0, 5⟩
def ADC_CH_TRIG_START (i : Nat) : Fld := ⟨0xc1004 + 32 * i, 31, 1⟩
def ADC_CH_TRIG_SRC (i : Nat) : Fld := ⟨0xc1004 + 32 * i, 28, 3⟩
def ADC_CH_TRIG_SEL (i : Nat) : Fld := ⟨0xc1004 + 32 * i, 24, 4⟩
def ADC_CH_TRIG_BURST (i : Nat) : Fld := ⟨0xc1004 + 32 * i, 16, 8⟩
def ADC_CH_TRIG_DLY (i : Nat) : Fld := ⟨0xc1004 + 32 * i, 0, 16⟩
def ADC_CH_OFFS (i : Nat) : Fld := ⟨0xc1008 + 32 * i, 0, 19⟩
def ADC_CH_RES (i : Nat) : Fld := ⟨0xc100c + 32 * i, 0, 32⟩
def ADC_CH_TS_LO (i : Nat) : Fld := ⟨0xc1010 + 32 * i, 0, 32⟩
def ADC_CH_TS_HI (i : Nat) : Fld := ⟨0xc1014 + 32 * i, 0, 16⟩
def ADC_CH_LEVEL_WM (i : Nat) : Fld := ⟨0xc1018 + 32 * i, 16, 7⟩
def ADC_CH_LEVEL_LEVEL (i : Nat) : Fld := ⟨0xc1018 + 32 * i, 0, 7⟩
def ADC_CMP_EN_HI (i : Nat) : Fld := ⟨0xc2000 + 4 * i, 31, 1⟩
def ADC_CMP_EN_LO (i : Nat) : Fld := ⟨0xc2000 + 4 * i, 30, 1⟩
def ADC_CMP_FILT (i : Nat) : Fld := ⟨0xc2000 + 4 * i, 28, 2⟩
def ADC_CMP_HYST (i : Nat) : Fld := ⟨0xc2000 + 4 * i, 23, 3⟩
def ADC_CMP_HIGH (i : Nat) : Fld := ⟨0xc2000 + 4 * i, 10, 10⟩
def ADC_CMP_LOW (i : Nat) : Fld := ⟨0xc2000 + 4 * i, 0, 10⟩
def ADC_CMP_ACT_EN_HI (i : Nat) : Fld := ⟨0xc2100 + 4 * i, 31, 1⟩
def ADC_CMP_ACT_EN_LO (i : Nat) : Fld := ⟨0xc2100 + 4 * i, 30, 1⟩
def ADC_CMP_ACT_FILT (i : Nat) : Fld := ⟨0xc2100 + 4 * i, 28, 2⟩
def ADC_CMP_ACT_HYST (i : Nat) : Fld := ⟨0xc2100 + 4 * i, 23, 3⟩
def ADC_CMP_ACT_HIGH (i : Nat) : Fld := ⟨0xc2100 + 4 * i, 10, 10⟩
def ADC_CMP_ACT_LOW (i : Nat) : Fld := ⟨0xc2100 + 4 * i, 0, 10⟩
def ADC_CAL_OFFS (i : Nat) : Fld := ⟨0xc3000 + 8 * i, 0, 16⟩
def ADC_CAL_GTRIM (i : Nat) : Fld := ⟨0xc3004 + 8 * i, 0, 16⟩
def THERM_CTRL_XCHK_LIM : Fld := ⟨0xd0008, 8, 8⟩
def THERM_CTRL_FORCE_LVL : Fld := ⟨0xd0008, 0, 2⟩
def THERM_STAT_SUSPECT : Fld := ⟨0xd000c, 24, 6⟩
def THERM_STAT_ZONE_LOST : Fld := ⟨0xd000c, 16, 6⟩
def THERM_STAT_ZONE_WARN : Fld := ⟨0xd000c, 8, 6⟩
def THERM_STAT_CRIT : Fld := ⟨0xd000c, 2, 1⟩
def THERM_STAT_LEVEL : Fld := ⟨0xd000c, 0, 2⟩
def THERM_FAULT_STAT_XCHK : Fld := ⟨0xd001c, 6, 1⟩
def THERM_FAULT_STAT_SENSOR_FAIL : Fld := ⟨0xd001c, 5, 1⟩
def THERM_FAULT_STAT_CRIT_LATCH : Fld := ⟨0xd001c, 4, 1⟩
def THERM_ERR_COUNT_CLR_REFUSED : Fld := ⟨0xd0020, 16, 16⟩
def THERM_FAILED : Fld := ⟨0xd0028, 0, 16⟩
def THERM_XCFG_XCHK_W : Fld := ⟨0xd002c, 8, 16⟩
def THERM_XCFG_XCHK_N : Fld := ⟨0xd002c, 0, 8⟩
def THERM_ZONE_CRIT (i : Nat) : Fld := ⟨0xd0040 + 4 * i, 24, 8⟩
def THERM_ZONE_THR2 (i : Nat) : Fld := ⟨0xd0040 + 4 * i, 16, 8⟩
def THERM_ZONE_THR1 (i : Nat) : Fld := ⟨0xd0040 + 4 * i, 8, 8⟩
def THERM_ZONE_WARN (i : Nat) : Fld := ⟨0xd0040 + 4 * i, 0, 8⟩
def THERM_ZVAL (i : Nat) : Fld := ⟨0xd0060 + 4 * i, 0, 16⟩
def THERM_T_DISAGREE (i : Nat) : Fld := ⟨0xd0080 + 4 * i, 18, 1⟩
def THERM_T_FAILED (i : Nat) : Fld := ⟨0xd0080 + 4 * i, 17, 1⟩
def THERM_T_T (i : Nat) : Fld := ⟨0xd0080 + 4 * i, 0, 16⟩
def THERM_XCHK_FAULTS : Fld := ⟨0xd00c0, 0, 32⟩
def THERM_THROTTLE_MS : Fld := ⟨0xd00c4, 0, 32⟩
def THERM_CRIT_COUNT : Fld := ⟨0xd00c8, 0, 32⟩
def AUX_CTRL_PEAK_CLR : Fld := ⟨0xe0008, 8, 1⟩
def AUX_CTRL_AVG_LOG2 : Fld := ⟨0xe0008, 0, 4⟩
def AUX_STAT_P_LIM : Fld := ⟨0xe000c, 16, 16⟩
def AUX_STAT_HOLDUP : Fld := ⟨0xe000c, 5, 1⟩
def AUX_STAT_FREEZE : Fld := ⟨0xe000c, 4, 1⟩
def AUX_STAT_FEED3 : Fld := ⟨0xe000c, 2, 2⟩
def AUX_STAT_FEED2 : Fld := ⟨0xe000c, 0, 2⟩
def AUX_FAULT_STAT_SYNC_LOST : Fld := ⟨0xe001c, 6, 1⟩
def AUX_FAULT_STAT_MAINS_LOST : Fld := ⟨0xe001c, 5, 1⟩
def AUX_FAULT_STAT_FEED_OVER : Fld := ⟨0xe001c, 4, 1⟩
def AUX_ERR_COUNT_CLR_REFUSED : Fld := ⟨0xe0020, 16, 16⟩
def AUX_SYNC_LOOP_TICKS : Fld := ⟨0xe0028, 16, 16⟩
def AUX_SYNC_SW_TICKS : Fld := ⟨0xe0028, 0, 16⟩
def AUX_PHASE_LOOP_PH : Fld := ⟨0xe002c, 16, 16⟩
def AUX_PHASE_GRPB_PH : Fld := ⟨0xe002c, 0, 16⟩
def AUX_FEED_DC (i : Nat) : Fld := ⟨0xe0030 + 4 * i, 17, 1⟩
def AUX_FEED_V (i : Nat) : Fld := ⟨0xe0030 + 4 * i, 0, 16⟩
def AUX_HICCUP_COUNT : Fld := ⟨0xe0080, 0, 32⟩
def AUX_FEED_CHANGES : Fld := ⟨0xe0084, 0, 32⟩
def AUX_FREEZE_COUNT : Fld := ⟨0xe0088, 0, 32⟩
def AUX_LOOP_FAULTS : Fld := ⟨0xe008c, 0, 32⟩
def AUX_GRP_CFG_EN (i : Nat) : Fld := ⟨0xe1000 + 64 * i, 31, 1⟩
def AUX_GRP_CFG_SS_MS (i : Nat) : Fld := ⟨0xe1000 + 64 * i, 24, 7⟩
def AUX_GRP_CFG_HIC_MS (i : Nat) : Fld := ⟨0xe1000 + 64 * i, 16, 8⟩
def AUX_GRP_CFG_VOUT_MAX (i : Nat) : Fld := ⟨0xe1000 + 64 * i, 8, 8⟩
def AUX_GRP_CFG_VOUT_MIN (i : Nat) : Fld := ⟨0xe1000 + 64 * i, 0, 8⟩
def AUX_GRP_LIM_RIPPLE (i : Nat) : Fld := ⟨0xe1004 + 64 * i, 24, 8⟩
def AUX_GRP_LIM_HIC_N (i : Nat) : Fld := ⟨0xe1004 + 64 * i, 16, 8⟩
def AUX_GRP_LIM_I_VALLEY (i : Nat) : Fld := ⟨0xe1004 + 64 * i, 8, 8⟩
def AUX_GRP_LIM_HIC_W (i : Nat) : Fld := ⟨0xe1004 + 64 * i, 0, 8⟩
def AUX_GRP_STAT_STATE (i : Nat) : Fld := ⟨0xe1008 + 64 * i, 28, 4⟩
def AUX_GRP_STAT_PH_ACTIVE (i : Nat) : Fld := ⟨0xe1008 + 64 * i, 24, 3⟩
def AUX_GRP_STAT_SYNC_LOCK (i : Nat) : Fld := ⟨0xe1008 + 64 * i, 23, 1⟩
def AUX_GRP_STAT_ILIM (i : Nat) : Fld := ⟨0xe1008 + 64 * i, 22, 1⟩
def AUX_GRP_STAT_DROPOUT (i : Nat) : Fld := ⟨0xe1008 + 64 * i, 21, 1⟩
def AUX_GRP_STAT_VSET (i : Nat) : Fld := ⟨0xe1008 + 64 * i, 0, 16⟩
def AUX_GRP_FAULT_SENSE_LOST (i : Nat) : Fld := ⟨0xe100c + 64 * i, 11, 3⟩
def AUX_GRP_FAULT_OPEN (i : Nat) : Fld := ⟨0xe100c + 64 * i, 8, 3⟩
def AUX_GRP_FAULT_LATCH (i : Nat) : Fld := ⟨0xe100c + 64 * i, 4, 1⟩
def AUX_GRP_FAULT_SS_SHORT (i : Nat) : Fld := ⟨0xe100c + 64 * i, 1, 1⟩
def AUX_GRP_FAULT_HICCUP (i : Nat) : Fld := ⟨0xe100c + 64 * i, 0, 1⟩
def AUX_GRP_PEAK_VOUT_HI (i : Nat) : Fld := ⟨0xe1010 + 64 * i, 16, 16⟩
def AUX_GRP_PEAK_IOUT_HI (i : Nat) : Fld := ⟨0xe1010 + 64 * i, 0, 16⟩
def AUX_GRP_TROUGH (i : Nat) : Fld := ⟨0xe1014 + 64 * i, 0, 16⟩
def AUX_LOOP_CFG_EN (i : Nat) : Fld := ⟨0xe2000 + 64 * i, 31, 1⟩
def AUX_LOOP_CFG_DT_LOOP (i : Nat) : Fld := ⟨0xe2000 + 64 * i, 16, 8⟩
def AUX_LOOP_CFG_ILOOP_SET (i : Nat) : Fld := ⟨0xe2000 + 64 * i, 0, 16⟩
def AUX_LOOP_STAT_STATE (i : Nat) : Fld := ⟨0xe2008 + 64 * i, 28, 4⟩
def AUX_LOOP_STAT_ILOOP (i : Nat) : Fld := ⟨0xe2008 + 64 * i, 0, 16⟩
def AUX_LOOP_FAULT_LATCH (i : Nat) : Fld := ⟨0xe200c + 64 * i, 6, 1⟩
def AUX_LOOP_FAULT_OVER (i : Nat) : Fld := ⟨0xe200c + 64 * i, 5, 1⟩
def AUX_LOOP_FAULT_OPEN (i : Nat) : Fld := ⟨0xe200c + 64 * i, 4, 1⟩
def AUX_TEL (i : Nat) : Fld := ⟨0xe3000 + 4 * i, 0, 32⟩
def GDRV_STAT_DISABLED : Fld := ⟨0xf000c, 16, 10⟩
def GDRV_STAT_LATCHED : Fld := ⟨0xf000c, 0, 10⟩
def GDRV_FAULT_STAT_DISABLED : Fld := ⟨0xf001c, 7, 1⟩
def GDRV_FAULT_STAT_XCMD : Fld := ⟨0xf001c, 6, 1⟩
def GDRV_FAULT_STAT_BST_UV : Fld := ⟨0xf001c, 5, 1⟩
def GDRV_FAULT_STAT_SC : Fld := ⟨0xf001c, 4, 1⟩
def GDRV_ERR_COUNT_CLR_REFUSED : Fld := ⟨0xf0020, 16, 16⟩
def GDRV_CFG_DRV_W : Fld := ⟨0xf0028, 16, 16⟩
def GDRV_CFG_DRV_N : Fld := ⟨0xf0028, 8, 8⟩
def GDRV_CFG_REFRESH_N : Fld := ⟨0xf0028, 0, 8⟩
def GDRV_SC_COUNT : Fld := ⟨0xf0080, 0, 32⟩
def GDRV_BST_UV_COUNT : Fld := ⟨0xf0084, 0, 32⟩
def GDRV_XCMD_COUNT : Fld := ⟨0xf0088, 0, 32⟩
def GDRV_REFRESH_COUNT : Fld := ⟨0xf008c, 0, 32⟩
def GDRV_HB_DISABLED (i : Nat) : Fld := ⟨0xf1000 + 4 * i, 11, 1⟩
def GDRV_HB_XCMD (i : Nat) : Fld := ⟨0xf1000 + 4 * i, 10, 1⟩
def GDRV_HB_BST_UV (i : Nat) : Fld := ⟨0xf1000 + 4 * i, 9, 1⟩
def GDRV_HB_SC_LO (i : Nat) : Fld := ⟨0xf1000 + 4 * i, 8, 1⟩
def GDRV_HB_SC_HI (i : Nat) : Fld := ⟨0xf1000 + 4 * i, 7, 1⟩
def GDRV_HB_LATCH (i : Nat) : Fld := ⟨0xf1000 + 4 * i, 2, 1⟩
def GDRV_HB_HI_ON (i : Nat) : Fld := ⟨0xf1000 + 4 * i, 1, 1⟩
def GDRV_HB_LO_ON (i : Nat) : Fld := ⟨0xf1000 + 4 * i, 0, 1⟩
def PWM_CTRL_HALT_MODE : Fld := ⟨0x100008, 16, 16⟩
def PWM_CTRL_COMMIT : Fld := ⟨0x100008, 0, 16⟩
def PWM_STAT_TRIP_IN : Fld := ⟨0x10000c, 16, 8⟩
def PWM_STAT_ACTIVE : Fld := ⟨0x10000c, 0, 16⟩
def PWM_FAULT_STAT_TRIP : Fld := ⟨0x10001c, 4, 1⟩
def PWM_ERR_COUNT_CLR_REFUSED : Fld := ⟨0x100020, 16, 16⟩
def PWM_TRIPIN_POL (i : Nat) : Fld := ⟨0x100028 + 4 * i, 31, 1⟩
def PWM_TRIPIN_BLANK_CH (i : Nat) : Fld := ⟨0x100028 + 4 * i, 24, 4⟩
def PWM_TRIPIN_BLANK_EDGE (i : Nat) : Fld := ⟨0x100028 + 4 * i, 22, 2⟩
def PWM_TRIPIN_BLANK_W (i : Nat) : Fld := ⟨0x100028 + 4 * i, 14, 8⟩
def PWM_TRIPIN_TF (i : Nat) : Fld := ⟨0x100028 + 4 * i, 0, 8⟩
def PWM_TRIPS : Fld := ⟨0x100080, 0, 32⟩
def PWM_TRIP_BLANKED : Fld := ⟨0x100084, 0, 32⟩
def PWM_CH_CFG_EN (i : Nat) : Fld := ⟨0x101000 + 32 * i, 31, 1⟩
def PWM_CH_CFG_MODE (i : Nat) : Fld := ⟨0x101000 + 32 * i, 30, 1⟩
def PWM_CH_CFG_OUTMODE (i : Nat) : Fld := ⟨0x101000 + 32 * i, 29, 1⟩
def PWM_CH_CFG_TS (i : Nat) : Fld := ⟨0x101000 + 32 * i, 27, 2⟩
def PWM_CH_CFG_TRIP_LATCH (i : Nat) : Fld := ⟨0x101000 + 32 * i, 26, 1⟩
def PWM_CH_CFG_TRIP_MASK (i : Nat) : Fld := ⟨0x101000 + 32 * i, 16, 9⟩
def PWM_CH_CFG_TRIG_SEL (i : Nat) : Fld := ⟨0x101000 + 32 * i, 8, 3⟩
def PWM_CH_CFG_SYNC_SRC (i : Nat) : Fld := ⟨0x101000 + 32 * i, 4, 3⟩
def PWM_CH_CFG_SYNC_SEL (i : Nat) : Fld := ⟨0x101000 + 32 * i, 0, 4⟩
def PWM_CH_PHASE (i : Nat) : Fld := ⟨0x101004 + 32 * i, 0, 24⟩
def PWM_CH_PER (i : Nat) : Fld := ⟨0x101008 + 32 * i, 0, 24⟩
def PWM_CH_DT_DT_F (i : Nat) : Fld := ⟨0x10100c + 32 * i, 16, 10⟩
def PWM_CH_DT_DT_R (i : Nat) : Fld := ⟨0x10100c + 32 * i, 0, 10⟩
def PWM_CH_CMPA (i : Nat) : Fld := ⟨0x101010 + 32 * i, 0, 24⟩
def PWM_CH_CMPB (i : Nat) : Fld := ⟨0x101014 + 32 * i, 0, 24⟩
def PWM_CH_CNT_DIR (i : Nat) : Fld := ⟨0x101018 + 32 * i, 24, 1⟩
def PWM_CH_CNT_CNT (i : Nat) : Fld := ⟨0x101018 + 32 * i, 0, 24⟩
def PWM_CH_TRIP_TRIPPED (i : Nat) : Fld := ⟨0x10101c + 32 * i, 1, 1⟩
def PWM_CH_TRIP_ACTIVE (i : Nat) : Fld := ⟨0x10101c + 32 * i, 0, 1⟩
def SAFE_CTRL_PROOF_RUN : Fld := ⟨0x110008, 3, 1⟩
def SAFE_CTRL_CSTOP_REQ : Fld := ⟨0x110008, 2, 1⟩
def SAFE_CTRL_HALT_REQ : Fld := ⟨0x110008, 1, 1⟩
def SAFE_STAT_STATE : Fld := ⟨0x11000c, 28, 4⟩
def SAFE_STAT_FENCE_OK : Fld := ⟨0x11000c, 27, 1⟩
def SAFE_STAT_SV_OK : Fld := ⟨0x11000c, 26, 1⟩
def SAFE_STAT_SV_WINDOW : Fld := ⟨0x11000c, 25, 1⟩
def SAFE_STAT_HALT_FENCE : Fld := ⟨0x11000c, 24, 1⟩
def SAFE_STAT_HALT_SV : Fld := ⟨0x11000c, 23, 1⟩
def SAFE_STAT_RST_IN : Fld := ⟨0x11000c, 21, 2⟩
def SAFE_STAT_SELFTEST_OK : Fld := ⟨0x11000c, 20, 1⟩
def SAFE_STAT_SV_STATE : Fld := ⟨0x11000c, 16, 4⟩
def SAFE_FAULT_STAT_PARAM_BAD : Fld := ⟨0x11001c, 15, 1⟩
def SAFE_FAULT_STAT_SV_LASTING : Fld := ⟨0x11001c, 14, 1⟩
def SAFE_FAULT_STAT_FENCE_FAIL : Fld := ⟨0x11001c, 13, 1⟩
def SAFE_FAULT_STAT_PROOF_OVERDUE : Fld := ⟨0x11001c, 12, 1⟩
def SAFE_FAULT_STAT_PROOF_FAIL : Fld := ⟨0x11001c, 11, 1⟩
def SAFE_FAULT_STAT_FB_MISMATCH : Fld := ⟨0x11001c, 10, 1⟩
def SAFE_FAULT_STAT_SI_DISC : Fld := ⟨0x11001c, 9, 1⟩
def SAFE_FAULT_STAT_BROKEN_LINE : Fld := ⟨0x11001c, 8, 1⟩
def SAFE_FAULT_STAT_DISAGREE : Fld := ⟨0x11001c, 7, 1⟩
def SAFE_FAULT_STAT_RESET_STUCK : Fld := ⟨0x11001c, 6, 1⟩
def SAFE_FAULT_STAT_RESET_HELD : Fld := ⟨0x11001c, 5, 1⟩
def SAFE_FAULT_STAT_RESET_REFUSED : Fld := ⟨0x11001c, 4, 1⟩
def SAFE_ERR_COUNT_CLR_REFUSED : Fld := ⟨0x110020, 24, 8⟩
def SAFE_ERR_COUNT_RESET_REFUSED_COUNT : Fld := ⟨0x110020, 16, 8⟩
def SAFE_CAUSE_CODE : Fld := ⟨0x110028, 24, 8⟩
def SAFE_CAUSE_INDEX : Fld := ⟨0x110028, 16, 8⟩
def SAFE_CAUSE_CHANNEL : Fld := ⟨0x110028, 8, 2⟩
def SAFE_REFUSE : Fld := ⟨0x11002c, 0, 8⟩
def SAFE_CAUSE_CTB (i : Nat) : Fld := ⟨0x110030 + 4 * i, 0, 32⟩
def SAFE_FN_LIVE_SV : Fld := ⟨0x110038, 16, 16⟩
def SAFE_FN_LIVE_FENCE : Fld := ⟨0x110038, 0, 16⟩
def SAFE_IN_RST_CLOSED : Fld := ⟨0x11003c, 24, 1⟩
def SAFE_IN_FB : Fld := ⟨0x11003c, 16, 8⟩
def SAFE_IN_HEALTHY_B : Fld := ⟨0x11003c, 8, 8⟩
def SAFE_IN_HEALTHY_A : Fld := ⟨0x11003c, 0, 8⟩
def SAFE_OUT_SW_B : Fld := ⟨0x110040, 12, 4⟩
def SAFE_OUT_SW_A : Fld := ⟨0x110040, 8, 4⟩
def SAFE_OUT_ENERGISED : Fld := ⟨0x110040, 0, 4⟩
def SAFE_SO_CMD : Fld := ⟨0x110044, 0, 4⟩
def SAFE_PEND : Fld := ⟨0x110048, 0, 24⟩
def SAFE_PEND_FN : Fld := ⟨0x11004c, 0, 16⟩
def SAFE_CLASSB : Fld := ⟨0x110050, 0, 8⟩
def SAFE_PROOF_AGE_MIN : Fld := ⟨0x110054, 16, 16⟩
def SAFE_PROOF_LAST_FAIL : Fld := ⟨0x110054, 8, 8⟩
def SAFE_PROOF_RUNNING : Fld := ⟨0x110054, 0, 1⟩
def SAFE_TRIPS : Fld := ⟨0x110080, 0, 32⟩
def SAFE_CSTOPS : Fld := ⟨0x110084, 0, 32⟩
def SAFE_DISAGREE_COUNT : Fld := ⟨0x110088, 0, 32⟩
def SAFE_SV_WINDOWS : Fld := ⟨0x11008c, 0, 32⟩
def SAFE_PROOF_RUNS : Fld := ⟨0x110090, 0, 32⟩
def SAFE_CFG_POWERUP_LOCK : Fld := ⟨0x110100, 31, 1⟩
def SAFE_CFG_RST_REMOTE : Fld := ⟨0x110100, 30, 1⟩
def SAFE_CFG_RST_INPUT : Fld := ⟨0x110100, 29, 1⟩
def SAFE_CFG_LANE_HALT_N : Fld := ⟨0x110100, 24, 5⟩
def SAFE_CFG_AGREE_US : Fld := ⟨0x110100, 16, 8⟩
def SAFE_CFG_RESTART_MAX : Fld := ⟨0x110100, 8, 8⟩
def SAFE_CFG_SV_LOSS_N : Fld := ⟨0x110100, 4, 4⟩
def SAFE_TIMES_FB_T : Fld := ⟨0x110104, 24, 8⟩
def SAFE_TIMES_CS_COAST_MS : Fld := ⟨0x110104, 16, 8⟩
def SAFE_TIMES_LOOP_OFF_S : Fld := ⟨0x110104, 0, 16⟩
def SAFE_CLASSB_ACT_TRIP_SO : Fld := ⟨0x110108, 20, 4⟩
def SAFE_CLASSB_ACT_ACT : Fld := ⟨0x110108, 0, 16⟩
def SAFE_PROOF_CFG_PT_MAX_H : Fld := ⟨0x11010c, 24, 8⟩
def SAFE_PROOF_CFG_PULSE_EN : Fld := ⟨0x11010c, 0, 4⟩
def SAFE_RESET : Fld := ⟨0x110110, 0, 1⟩
def SAFE_SO (i : Nat) : Fld := ⟨0x110120 + 4 * i, 0, 2⟩
def SAFE_SI_TYPE (i : Nat) : Fld := ⟨0x110140 + 4 * i, 30, 2⟩
def SAFE_SI_SI_FILT (i : Nat) : Fld := ⟨0x110140 + 4 * i, 16, 7⟩
def SAFE_SI_DISC_MS (i : Nat) : Fld := ⟨0x110140 + 4 * i, 0, 16⟩
def SAFE_FB_EN (i : Nat) : Fld := ⟨0x110160 + 4 * i, 31, 1⟩
def SAFE_FB_POL (i : Nat) : Fld := ⟨0x110160 + 4 * i, 30, 1⟩
def SAFE_FB_SO (i : Nat) : Fld := ⟨0x110160 + 4 * i, 0, 2⟩
def SAFE_FN_KIND (i : Nat) : Fld := ⟨0x110180 + 4 * i, 28, 4⟩
def SAFE_FN_ACT (i : Nat) : Fld := ⟨0x110180 + 4 * i, 27, 1⟩
def SAFE_FN_TRIP_SO (i : Nat) : Fld := ⟨0x110180 + 4 * i, 20, 4⟩
def SAFE_FN_SIDE (i : Nat) : Fld := ⟨0x110180 + 4 * i, 18, 2⟩
def SAFE_FN_SRC_B (i : Nat) : Fld := ⟨0x110180 + 4 * i, 12, 4⟩
def SAFE_FN_SRC_A (i : Nat) : Fld := ⟨0x110180 + 4 * i, 8, 4⟩

end F

end Sys2Proof.Machine
end

