-- ==== Sys2Proof/Machine/Store.lean ====
section
/-! DEFINITION. Sparse stores in one canonical form, bit-field access, signed and fixed-point number helpers, and the
reset value of every register (R9, R16, R22, R35). -/

namespace Sys2Proof.Machine

open Sys2Proof

/-- A sparse store: keys strictly rising, no entry equal to what an unlisted key reads as. -/
abbrev KMap (α : Type) := List (Nat × α)

/-- Read of key `k`; `d` gives what an unlisted key reads as. -/
def KMap.get {α : Type} (d : Nat → α) : KMap α → Nat → α
  | [], k => d k
  | (a, v) :: t, k => if a = k then v else KMap.get d t k

/-- Removal of key `k`. -/
def KMap.erase {α : Type} : KMap α → Nat → KMap α
  | [], _ => []
  | (a, v) :: t, k => if a = k then KMap.erase t k else (a, v) :: KMap.erase t k

/-- Insertion of an unlisted key at its place in the order. -/
def KMap.insert {α : Type} (k : Nat) (v : α) : KMap α → KMap α
  | [] => [(k, v)]
  | (a, w) :: t => if k < a then (k, v) :: (a, w) :: t else (a, w) :: KMap.insert k v t

/-- Write of `v` to key `k`; writing what an unlisted key reads as removes the entry. -/
def KMap.set {α : Type} [DecidableEq α] (d : Nat → α) (m : KMap α) (k : Nat) (v : α) : KMap α :=
  if v = d k then KMap.erase m k else KMap.insert k v (KMap.erase m k)

/-- The keys of a store rise strictly from above `lo`, and no entry equals what an unlisted key reads as. -/
def KMap.wfFrom {α : Type} [DecidableEq α] (d : Nat → α) : Option Nat → KMap α → Bool
  | _, [] => true
  | lo, (a, v) :: t =>
    (match lo with | none => true | some l => decide (l < a)) && decide (v ≠ d a) && KMap.wfFrom d (some a) t

/-- The canonical form of a store. -/
def KMap.wf {α : Type} [DecidableEq α] (d : Nat → α) (m : KMap α) : Bool := KMap.wfFrom d none m

/-! ### Bit fields -/

/-- The mask of a field in its register. -/
def Fld.mask (f : Fld) : Word := BitVec.ofNat 32 (2 ^ f.len - 1) <<< f.lo

/-- The value of a field of a register dword. -/
def Fld.read (f : Fld) (w : Word) : Nat := (w.toNat >>> f.lo) % 2 ^ f.len

/-- A register dword with one field replaced. -/
def Fld.write (f : Fld) (w : Word) (v : Nat) : Word :=
  (w &&& ~~~ f.mask) ||| (BitVec.ofNat 32 (v % 2 ^ f.len) <<< f.lo)

/-- The mask of a field of the register map in its register. -/
def FieldSpec.mask (f : FieldSpec) : Word := BitVec.ofNat 32 (2 ^ f.len - 1) <<< f.lo

/-- Bits `hi` down to `lo` of a number. -/
def bits (n hi lo : Nat) : Nat := (n >>> lo) % 2 ^ (hi + 1 - lo)

/-- Bit `i` of a number. -/
def bit (n i : Nat) : Bool := n.testBit i

/-- A number with bit `i` set. -/
def setBit (n i : Nat) : Nat := n ||| (1 <<< i)

/-- A number with bit `i` cleared. -/
def clearBit (n i : Nat) : Nat := if n.testBit i then n - (1 <<< i) else n

/-- A number with bit `i` given. -/
def putBit (n i : Nat) (b : Bool) : Nat := if b then setBit n i else clearBit n i

/-- 1 for true. -/
def b2n (b : Bool) : Nat := if b then 1 else 0

/-- How many of the lowest `w` bits of a number are 1. -/
def popcount : Nat → Nat → Nat
  | 0, _ => 0
  | w + 1, n => b2n (n.testBit w) + popcount w n

/-- The indices below `w` whose bit is 1, rising. -/
def bitIndices (w n : Nat) : List Nat := (List.range w).filter (fun i => n.testBit i)

/-! ### Numbers -/

/-- The signed value of the lowest `w` bits of a number. -/
def sx (w : Nat) (n : Nat) : Int :=
  let m := n % 2 ^ w
  if 2 * m < 2 ^ w then (m : Int) else (m : Int) - (2 ^ w : Nat)

/-- The two's complement pattern of an integer in `w` bits. -/
def tc (w : Nat) (i : Int) : Nat := (i % ((2 ^ w : Nat) : Int)).toNat

/-- An integer saturated to [`lo`, `hi`]. -/
def clampI (lo hi i : Int) : Int := if i < lo then lo else if i > hi then hi else i

/-- A number clamped to [`lo`, `hi`]. -/
def clampN (lo hi n : Nat) : Nat := if n < lo then lo else if n > hi then hi else n

/-- Saturation to a signed 16-bit number (Q1.15, R35). -/
def sat16 (i : Int) : Int := clampI (-32768) 32767 i

/-- Division by a positive number, rounded to the nearest, a half to even. -/
def divHalfEven (n : Int) (d : Nat) : Int :=
  let q := n / (d : Int)
  let r := n % (d : Int)
  if 2 * r < (d : Int) then q
  else if 2 * r > (d : Int) then q + 1
  else if q % 2 = 0 then q else q + 1

/-- Floor of the square root, by bisection on `fuel` bits. -/
def isqrtAux : Nat → Nat → Nat → Nat
  | 0, _, r => r
  | f + 1, n, r => let c := r + 2 ^ f; if c * c ≤ n then isqrtAux f n c else isqrtAux f n r

/-- Floor of the square root of a number below 2^(2·40). -/
def isqrt (n : Nat) : Nat := isqrtAux 40 n 0

/-! ### Exact quotients (R115) -/

/-- An exact quotient in lowest terms. -/
structure Q where
  n : Int := 0
  d : Nat := 1
  deriving DecidableEq, Repr

/-- `n` / `d` in lowest terms; 0 where `d` is 0. -/
def Q.of (n : Int) (d : Nat) : Q := if d = 0 then {} else let g := Nat.gcd n.natAbs d; ⟨n / (g : Int), d / g⟩

/-- Sum. -/
def Q.add (a b : Q) : Q := Q.of (a.n * b.d + b.n * a.d) (a.d * b.d)
/-- Difference. -/
def Q.sub (a b : Q) : Q := Q.of (a.n * b.d - b.n * a.d) (a.d * b.d)
/-- Product. -/
def Q.mul (a b : Q) : Q := Q.of (a.n * b.n) (a.d * b.d)
/-- Product with an integer. -/
def Q.smul (k : Int) (a : Q) : Q := Q.of (k * a.n) a.d
/-- Quotient by a positive quotient. -/
def Q.div (a b : Q) : Q := Q.of (a.n * b.d) (a.d * b.n.natAbs)
/-- Magnitude. -/
def Q.abs (a : Q) : Q := ⟨a.n.natAbs, a.d⟩
/-- Order. -/
def Q.le (a b : Q) : Bool := a.n * b.d ≤ b.n * a.d
/-- The larger. -/
def Q.max (a b : Q) : Q := if a.le b then b else a
/-- Rounded to the nearest integer, a half to even (R115). -/
def Q.round (a : Q) : Int := divHalfEven a.n a.d
/-- Limited to ±`m`. -/
def Q.clamp (m a : Q) : Q := if m.le a then m else if a.le ⟨-m.n, m.d⟩ then ⟨-m.n, m.d⟩ else a

/-- Replacement of the element at an index. -/
def setAt {α : Type} (l : List α) (i : Nat) (v : α) : List α := l.set i v

/-- Sum of a list of integers. -/
def sumI (l : List Int) : Int := l.foldl (· + ·) 0

/-- A number put at its place in a rising list. -/
def insertUp (x : Nat) : List Nat → List Nat
  | [] => [x]
  | y :: t => if x ≤ y then x :: y :: t else y :: insertUp x t

/-- The numbers of a list, rising. -/
def sortUp (l : List Nat) : List Nat := l.foldl (fun a x => insertUp x a) []

/-- Little-endian bytes of a number. -/
def bytesLE : Nat → Nat → List Byte
  | 0, _ => []
  | k + 1, n => BitVec.ofNat 8 n :: bytesLE k (n / 256)

/-- Number of a little-endian byte list. -/
def ofBytesLE : List Byte → Nat
  | [] => 0
  | b :: t => b.toNat + 256 * ofBytesLE t

/-- Big-endian bytes of a number. -/
def bytesBE (k n : Nat) : List Byte := (bytesLE k n).reverse

/-! ### The register map (R9–R11) -/

/-- The 64 KiB window a canonical address lies in, its instance and the offset inside it. -/
def RegMap.block (a : Nat) : Option (BlockSpec × Nat × Nat) :=
  (RegMap.blocks.find? (fun b => b.base ≤ a && a < b.base + b.count * 0x10000)).map
    (fun b => (b, (a - b.base) / 0x10000, (a - b.base) % 0x10000))

/-- Whether a register row covers offset `o` of its block. -/
def RegRow.covers (r : RegRow) (o : Nat) : Bool :=
  r.off ≤ o && (o - r.off) % r.stride = 0 && (o - r.off) / r.stride < r.n

/-- The register row at a canonical address. -/
def RegMap.find (a : Nat) : Option RegRow :=
  match RegMap.block a with
  | none => none
  | some (b, _, o) => b.rows.find? (fun r => r.covers o)

/-- The dword a row's fields reset to. -/
def RegRow.resetWord (r : RegRow) : Word :=
  r.fields.foldl (fun w f => w ||| (BitVec.ofNat 32 (f.reset % 2 ^ f.len) <<< f.lo)) 0#32

/-- The reset value of the register at a canonical address, as the register tables give it; the ID register also names its instance.
An address with no register reads 0 (R10). DESIGN CHOICE, log 3. DESIGN CHOICE, log 4. DEDUCED, log 154. DESIGN CHOICE, log 158. -/
def RegMap.resetWord (a : Nat) : Word :=
  match RegMap.block a with
  | none => 0#32
  | some (b, n, o) =>
    match b.rows.find? (fun r => r.covers o) with
    | none => 0#32
    | some r => if o = 0 then r.resetWord ||| (BitVec.ofNat 32 n <<< 16) else r.resetWord

end Sys2Proof.Machine
end

