-- ==== Sys2Proof/Machine/State.lean ====
section
/-! DEFINITION. The state of the KY-9 as plain data: the register store, the memories, the queue of waiting commands, and the state
beyond the registers that each chapter of the spec gives a block. Also the outcomes that stop a step, and State.reset. -/

namespace Sys2Proof.Machine

open Sys2Proof

/-! ### Register access, host port and command port (chapter 01) -/

/-- The guard sequencer of one block (R20). -/
inductive GuardState where
  | idle
  /-- ARMED: `m` wrote `v` to the primary at canonical address `reg`; the timer started at `start` elapsed ticks -/
  | armed (m : Master) (reg : Nat) (v : Word) (start : Nat)
  deriving DecidableEq, Repr

/-- A block's guard sequencer and the writes of other masters held back while it is ARMED (R20). -/
structure Guard where
  /-- the sequencer state (R20) -/
  st : GuardState := .idle
  /-- writes held back, oldest first (R20) -/
  held : List WriteReq := []
  deriving DecidableEq, Repr

/-- A result register, or the control part of a result FIFO (R22, R23). -/
structure Res where
  /-- the result's VALUE, up to 48 bits (R22, R23) -/
  value : Nat := 0
  /-- its SEQ (R22) -/
  seq : Nat := 0
  /-- FRESH (R22) -/
  fresh : Bool := false
  /-- a run is in progress, so that reads carry STALE (R22) -/
  busy : Bool := false
  deriving DecidableEq, Repr

/-- The copy of the dword at 8m + 4 that a 32-bit read of 8m captured for a master (R23). -/
structure Capture where
  /-- the master that read 8m (R23) -/
  m : Master
  /-- canonical address of the dword at 8m + 4 (R23) -/
  addr : Nat
  /-- the captured dword (R23) -/
  value : Word
  /-- SEQ of the captured result, whose FRESH clears when the copy is returned (R23) -/
  seq : Nat
  /-- elapsed ticks of the capture (R23) -/
  time : Nat
  deriving DecidableEq, Repr

/-- A result that a full result FIFO dropped in the present fabric cycle: it is stored after all if a pop falls in the same cycle
(R401). -/
structure Spill where
  /-- address of the FIFO's first dword -/
  fifo : Nat
  /-- fabric cycle of the store -/
  cycle : Nat
  /-- its VALUE, its time and its data -/
  value : Nat
  ts : Nat := 0
  data : List Word := []
  /-- fields the drop moves, as they stood before it -/
  marks : List (Fld × Nat)
  /-- number of the event the drop raised -/
  event : Nat
  deriving DecidableEq, Repr

/-- The operation the command port runs (R30). -/
structure CmdRun where
  /-- latched OPCODE (R30) -/
  opcode : Nat
  /-- who started it (R30) -/
  owner : Master
  /-- latched SYS_CMD_ARG0–7 (R30) -/
  args : List Word
  /-- latched SYS_CMD_DATA (R30) -/
  data : List Word
  /-- elapsed ticks at its start (R30) -/
  start : Nat
  /-- RESULT code and SYS_CMD_RES0–3 the operation has come to, none while it works (R30, R403) -/
  outcome : Option (Nat × List Word) := none
  deriving DecidableEq, Repr

/-- The PCIe endpoint beyond its registers (R25–R29, R386). -/
structure HostPort where
  /-- non-posted requests in flight, oldest first (R26) -/
  np : List NpReq := []
  /-- requests the requester holds back for want of non-posted credits, oldest first (R26) -/
  stalled : List NpReq := []
  /-- MSI-X function mask (R28) -/
  funcMask : Bool := false
  /-- elapsed ticks of the latest release of PERST_N (R386) -/
  perstAt : Nat := 0
  /-- the endpoint has stopped answering configuration requests with Retry Status (R386) -/
  cfgReady : Bool := false
  /-- the function is in D3hot, where it answers configuration requests only (R25) -/
  d3hot : Bool := false
  /-- base address in BAR0, a multiple of 16 MiB (R25) -/
  bar0 : Nat := 0
  deriving DecidableEq, Repr

/-! ### Yard (chapter 02) -/

/-- The yard beyond the YARD registers (R46–R56, R404). -/
structure YardSt where
  /-- period boundaries passed since reset: orders requests against boundaries (R48) -/
  bnd : Nat := 0
  /-- START held pending, with the boundary count at its write (R48) -/
  startPend : Option Nat := none
  /-- STOP or a module lock-out waits for the next boundary, with the boundary count at the request (R48) -/
  stopPend : Option Nat := none
  /-- a yard check runs (R48) -/
  checkRun : Bool := false
  /-- the running check is void (R404) -/
  checkVoid : Bool := false
  /-- CTB of the last period boundary, t_k (R46) -/
  tk : Nat := 0
  /-- HALF_US of the period in progress (R46) -/
  half : Nat := 10
  /-- period number at the entry to STOPPING (R48) -/
  stopK : Nat := 0
  deriving DecidableEq, Repr

/-! ### Stall link (chapter 03) -/

/-- A schedule or reference computed for a stall and ready to be sent (R64, R67). -/
structure Sched where
  /-- the period it is for (R64) -/
  period : Nat
  /-- a REF frame (R67) -/
  isRef : Bool := false
  /-- edge entries (R65) -/
  entries : List Nat := []
  /-- C4–C7 of a reference, as 16-bit patterns (R67) -/
  cmd : List Nat := []
  standby : Bool := false
  bypass : Bool := false
  resume : Bool := false
  prechg : Bool := false
  remove : Bool := false
  deriving DecidableEq, Repr

/-- Phases of an insertion (R94); `describe` waits for R91. -/
inductive InsPhase where
  | none | describe | configure | precharge | join
  deriving DecidableEq, Repr

/-- A stall's link beyond its record (R69, R90, R94, R95). -/
structure LinkS where
  /-- an uplink of the period in progress has been accepted (R69) -/
  acc : Bool := false
  /-- that uplink shows SCHED_REJ, SCHED_LATE or SCHED_CRC (R90) -/
  bad : Bool := false
  /-- periods in a row, up to now, with an accepted uplink (R90) -/
  run : Nat := 0
  /-- periods of the link faults, newest first (R90) -/
  faults : List Nat := []
  /-- LK_CFG as sampled at the last period boundary (R89) -/
  cfg : Nat := 0x0103E808
  /-- phase of an insertion (R94) -/
  phase : InsPhase := .none
  /-- elapsed ticks of the last configuration write, or of the start of precharge (R94) -/
  at0 : Nat := 0
  /-- the configuration writes have ended (R94) -/
  written : Bool := false
  /-- M0 at the start of precharge (R94) -/
  v0 : Int := 0
  /-- precharge periods passed: n of the ramp (R94) -/
  n : Nat := 0
  /-- accepted uplinks in a row within 0.02 per unit of the arm mean (R94) -/
  near : Nat := 0
  /-- removal schedules left to send, none when no removal runs (R95) -/
  removal : Option Nat := none
  /-- the schedule or reference ready to leave (R77) -/
  ready : Option Sched := none
  deriving DecidableEq, Repr

/-- What a management request is for (R91, R92). -/
inductive MPurpose where
  /-- NODE_PATH of the node being enumerated -/
  | path
  /-- descriptor dword `j` -/
  | desc (j : Nat)
  /-- PORT_DLY of port `p` -/
  | portDly (p : Nat)
  | portUp
  /-- a configuration write of stall `i`; the last is CONFIGURED -/
  | config (i : Nat) (last : Bool)
  /-- NODE_PAIR of a relay -/
  | relay
  deriving DecidableEq, Repr

/-- A management request (R70, R71). -/
structure MReq where
  path : Nat
  wr : Bool
  addr : Nat
  data : Nat
  why : MPurpose
  /-- transmissions made (R71) -/
  tries : Nat := 0
  deriving DecidableEq, Repr

/-- An outstanding request: its TAG and the elapsed ticks of its last block (R71). -/
structure MOut where
  req : MReq
  tag : Nat
  sent : Nat
  deriving DecidableEq, Repr

/-- A node under enumeration: path, depth, and the delay of its link, 1/64 tick (R91). -/
structure EnumNode where
  path : Nat
  depth : Nat
  /-- what its D_path holds beyond the lane's first hop, 1/64 tick -/
  below : Nat
  deriving DecidableEq, Repr

/-- The enumeration of a lane or of one path (R91). -/
structure EnumJob where
  /-- the whole lane, rather than the path of one stall -/
  whole : Bool
  /-- the path asked for, where it is one -/
  path : Nat := 0
  /-- nodes to do -/
  todo : List EnumNode := []
  /-- the node in hand -/
  cur : Option EnumNode := none
  /-- period boundaries waited for TIME_LOCK, none once the reads run (R91 step 2) -/
  waited : Option Nat := none
  /-- descriptor dwords read -/
  desc : List Nat := []
  /-- port delays read -/
  ports : List Nat := []
  /-- paths found -/
  found : List Nat := []
  deriving DecidableEq, Repr

/-- A node an enumeration found: its path, what its D_path holds beyond the lane's first hop, 1/64 tick, and its descriptor, empty where the last
job that asked for the node did not find it (R91). -/
structure FoundNode where
  path : Nat
  below : Nat
  desc : List Nat
  deriving DecidableEq, Repr

/-- A lane's management and enumeration (R71, R91). -/
structure LinkLane where
  /-- requests waiting to be sent, first in, first out -/
  queue : List MReq := []
  /-- requests outstanding, at most one per path (R71) -/
  out : List MOut := []
  /-- next TAG (R70) -/
  tag : Nat := 0
  job : Option EnumJob := none
  /-- enumerations waiting: none for the whole lane, some i for stall i's path (R91) -/
  wait : List (Option Nat) := []
  /-- paths of the relays found on the lane (R92) -/
  relays : List Nat := []
  /-- the nodes found on the lane (R91) -/
  nodes : List FoundNode := []
  /-- the uplink cut-off of the period in progress has passed (R76) -/
  cut : Bool := false
  deriving DecidableEq, Repr

/-! ### Lanes (chapter 04) -/

/-- A lane beyond its LANE registers (R98–R112). -/
structure LaneX where
  /-- elapsed ticks at the entry to the present STATE (R102) -/
  at0 : Nat := 0
  /-- TRAIN was entered from RELOCK, so that the present rate is measured first (R103) -/
  fromRelock : Bool := false
  /-- electrical parts of TX_LAT and RX_LAT, 1/64 tick (R98) -/
  txEl : Nat := 0
  /-- electrical part of RX_LAT, 1/64 tick (R98) -/
  rxEl : Nat := 0
  /-- settings of the row in use as applied on the wire (R105) -/
  rowWord : Word := 0
  /-- LANE_ERRCFG as in effect since the last marker interval began (R111) -/
  errCfg : Word := 0x1003E804
  /-- elapsed ticks of the lane faults, newest first (R111) -/
  faults : List Nat := []
  /-- AM_COUNT of the last marker received, none before the first since block lock (R100) -/
  marker : Option Nat := none
  /-- invalid headers in the marker interval in progress (R101) -/
  invalid : Nat := 0
  /-- next ECHO_SEQ (R72) -/
  echoSeq : Nat := 0
  /-- echoes not yet answered or lost: ECHO_SEQ and elapsed ticks at departure, oldest first (R108) -/
  echoOut : List (Nat × Nat) := []
  /-- elapsed ticks of the last echo interval's start (R108) -/
  echoAt : Nat := 0
  /-- echoes accepted since entry to DELAY (R102) -/
  accepted : Nat := 0
  /-- echoes lost in a row since entry to DELAY (R102) -/
  lost : Nat := 0
  /-- the last 8 raw values, newest first, each twice the one-way delay in 1/64 tick (R108) -/
  raw : List Nat := []
  /-- the filtered delay differs from LANE_DLY by more than 1 ns (R108) -/
  stepOver : Bool := false
  /-- elapsed time, in 1/10 tick, at which the last block of the last frame or ECHO sent has left (R61) -/
  txFree10 : Nat := 0
  /-- markers sent since training, up to `amAt10` (R99) -/
  amCount : Nat := 0
  /-- elapsed time, in 1/10 tick, up to which sent markers have been counted (R99) -/
  amAt10 : Nat := 0
  /-- elapsed ticks at which the measurement of the present rate began (R103) -/
  measAt : Nat := 0
  /-- elapsed ticks at which block lock was first there during that measurement (R103) -/
  lockAt : Option Nat := none
  /-- the blocks received of a frame that is not complete, its control block first (R59) -/
  rx : List (BitVec 64) := []
  deriving DecidableEq, Repr

/-! ### Timed edges (chapter 05) -/

/-- What a stall is sent for the next period, fixed at the reload edge (R119). -/
inductive EKind where
  /-- nothing -/
  | none
  | coast | active
  /-- FAULTED: BYPASS = 1 -/
  | closed
  | removing | precharge
  deriving DecidableEq, Repr

/-- The synthesiser's record of what it has sent to a stall (R117, R124, R126, R129, R132, R134). Leg states: 0 off, 1 upper,
2 lower. -/
structure Hist where
  /-- state of L0–L5 after the last sent entries, carried ones included -/
  legs : List Nat := [0, 0, 0, 0, 0, 0]
  /-- CTB at which each leg's switch last turned off -/
  offAt : List (Option Nat) := [none, none, none, none, none, none]
  /-- switch of each leg last turned on -/
  lastOn : List Nat := [0, 0, 0, 0, 0, 0]
  /-- entries carried into the next period: CTB, leg, state (R134) -/
  carried : List (Nat × Nat × Nat) := []
  /-- L0 and L1 of the bridge before swap and inversion -/
  l0 : Nat := 0
  l1 : Nat := 0
  /-- the leg that did not move on entering +1 or −1 (R126) -/
  zeroLeg : Nat := 0
  /-- φ, D1 and D2 as applied (R129) -/
  phi : Q := {}
  d1 : Q := {}
  d2 : Q := {}
  /-- the isolation legs ran in the last sent period (R129) -/
  isoOn : Bool := false
  /-- C0 as sampled at the last carrier vertex (R124) -/
  pscM : Int := 0
  /-- L0 and L1 stay lower until the first vertex (R124, R142) -/
  wait : Bool := true
  /-- BYPASS as last sent (R119) -/
  byp : Bool := false
  deriving DecidableEq, Repr

/-- A stall in the edge synthesiser (R117–R142). -/
structure EdgeS where
  kind : EKind := .none
  /-- the record of what has been sent -/
  sent : Hist := {}
  /-- the record as it will stand once the schedule computed last has been sent -/
  next : Option Hist := none
  /-- C0–C15 as taken at the stall's ready mark for the schedule in hand, and for the one after it (R117, R141) -/
  inC : Option (List Int) := none
  inCNext : Option (List Int) := none
  /-- A0 as taken at its arm's ready mark likewise -/
  inA : Option Int := none
  inANext : Option Int := none
  deriving DecidableEq, Repr

/-- An arm in the edge synthesiser (R125, R127). -/
structure EdgeA where
  /-- A0 of the last NLM period, none after coasting -/
  r0 : Option Int := none
  /-- A0 the changes of the next period were decided with, none until decided -/
  r1 : Option Int := none
  /-- bridge changes of the next period: stall, CTB, state −1, 0 or +1 -/
  plan : List (Nat × Nat × Int) := []
  /-- how many changes were deferred in deciding them -/
  defers : Nat := 0
  /-- the bridges as sent when the changes were first decided: stall, state -/
  bridges : List (Nat × Int) := []
  deriving DecidableEq, Repr

/-- The edge synthesiser beyond the EDGE registers (R117–R142). -/
structure EdgeSt where
  stall : KMap EdgeS := []
  arm : KMap EdgeA := []
  /-- active set, by address of its shadow; an unlisted register holds its reset value (R137) -/
  active : KMap Word := []
  /-- the copy between the cut-off and the reload edge (R137) -/
  copy : Option (KMap Word) := none
  /-- arms that run OFF until a commit passes, as a mask (R140) -/
  off : Nat := 0
  /-- DBG_HOLD as sampled at the cut-off (R137, R142) -/
  hold : Bool := false
  /-- the engine was in debug halt at the cut-off (R181) -/
  haltCut : Bool := false
  /-- OVR_EN as sampled at the cut-off (R131, R137) -/
  ovr : Bool := false
  /-- ENABLE of every STALL_CFG as sampled at the cut-off, as a mask (R93, R137) -/
  enab : Nat := 0
  /-- stalls whose removal was requested since the last sample, as a mask (R95, R158) -/
  left : Nat := 0
  /-- the cut-off of the period in progress has passed (R137) -/
  cut : Bool := false
  /-- the reload edge of the period in progress has passed (R137) -/
  edge : Bool := false
  /-- stalls whose schedule for the next period has been computed, as a mask (R141) -/
  taken : Nat := 0
  deriving DecidableEq, Repr

/-! ### Arm balancing (chapter 06) -/

/-- A stall in balancing (R147–R151). -/
structure BalS where
  /-- STALL_CFG as latched when the stall joined the sort (R93, R137, R153) -/
  cfg : Nat := 0
  /-- its bypass order (R147) -/
  byp : Bool := false
  /-- a cause of code 2, 4 or 5 has held since the order went to 1 (R148) -/
  hard : Bool := false
  /-- cause 3 has held since the stall joined the sort (R148) -/
  stuck : Bool := false
  /-- cause 4 holds (R149) -/
  miss : Bool := false
  /-- reload edges in a row without a cause, toward REJOIN_N (R148) -/
  rejoin : Nat := 0
  /-- V_AGE (R149) -/
  vage : Nat := 0
  /-- ins of the period (R151) -/
  ins : Bool := false
  /-- lowest cause that holds, 0 for none (R147) -/
  cause : Nat := 0
  /-- M0 as read at the reload edge (R146) -/
  m0 : Int := 0
  deriving DecidableEq, Repr

/-- An arm in balancing (R150–R157). -/
structure BalA where
  /-- 0 NORMAL, 1 SHORT, 2 LOW, 3 LOCKED (R156) -/
  st : Nat := 0
  /-- c of R156 -/
  c : Nat := 0
  /-- s_i is −1 (R150) -/
  neg : Bool := false
  /-- D is −1 (R150) -/
  dirNeg : Bool := false
  /-- I used under R150 -/
  iArm : Int := 0
  /-- periods of the sort errors in the window, newest first (R154) -/
  errs : List Nat := []
  /-- four sort errors within 1,000 periods: the sorter's fault is lasting (R154) -/
  errLast : Bool := false
  /-- a reset request waits to be judged (R157) -/
  reset : Bool := false
  /-- the insertion order last delivered (R151) -/
  order : List Nat := []
  /-- L_avail (R155) -/
  lavail : Nat := 0
  /-- selectable stalls (R147) -/
  sel : Nat := 0
  /-- v̄ of the arm (R152) -/
  vbar : Int := 0
  deriving DecidableEq, Repr

/-- The balancing engine beyond the BAL registers (R146–R162). -/
structure BalSt where
  stall : KMap BalS := []
  arm : KMap BalA := []
  /-- RW fields sampled at the last cut-off, by address; an unlisted register holds its reset value (R160) -/
  set : KMap Word := []
  /-- the sorters run: the reload edge has passed and the results are not delivered (R146) -/
  busy : Bool := false
  /-- the results of the period in progress have been delivered (R146) -/
  done : Bool := false
  /-- period number of the sort in hand (R151) -/
  k : Nat := 0
  /-- the next reload edge is the first of RUN (R159) -/
  first : Bool := false
  deriving DecidableEq, Repr

/-! ### The control matrix engine (chapters 07, 08) -/

/-- Where a unit stands in its run (R163, R164, R176). -/
inductive RunSt where
  /-- no run since the yard entered RUN, or the yard is in CONFIG or CHECKED -/
  | parked
  | running
  /-- a WAIT holds issue: its MOD and NUM -/
  | waiting (mod num : Nat)
  /-- the instruction in progress reaches into cycle Y − 4: nothing more issues -/
  | stuck
  /-- the run has ended -/
  | idle
  deriving DecidableEq, Repr

/-- A unit of the engine (R163–R178, R186). Samples and accumulators are integers, 32 to a register. -/
structure EngU where
  run : RunSt := .parked
  /-- V0–V15; an unlisted register is 0 -/
  v : KMap (List Int) := []
  /-- ACC0–ACC3, in units of 2⁻³⁰ (R166) -/
  acc : KMap (List Int) := []
  /-- X0–X7; X0 is never written -/
  x : KMap Nat := []
  /-- predicate PR -/
  pr : Nat := 0
  /-- next word to issue -/
  pc : Nat := 0
  /-- open loops, innermost first: first word, last word, repetitions left (R173) -/
  loops : List (Nat × Nat × Nat) := []
  /-- engine cycle in which the next instruction issues -/
  cyc : Nat := 8
  /-- issue cycle of the last VMAC, VMACC or ACCL MOD 1 into each accumulator (R178) -/
  accAt : KMap (Option Nat) := []
  /-- PRESET_PEND as latched in the start sequence (R184) -/
  latch : Nat := 0
  /-- the run of the period in progress overran (R164, R182) -/
  ranOver : Bool := false
  deriving DecidableEq, Repr

/-- States of the paddock (R198). -/
inductive PadState where
  | none | shadow | compare | retain
  deriving DecidableEq, Repr

/-- The paddock session (R198–R205). -/
structure Pad where
  st : PadState := .none
  /-- ENTRY latched for the shadow unit's program, or the old entry for rollback (R198, R203) -/
  entry : Nat := 0
  /-- periods to compare, compared -/
  n : Nat := 0
  done : Nat := 0
  mask : Nat := 0
  maskA : Nat := 0
  tol : Nat := 0
  overMax : Nat := 0
  handoverAt : Nat := 0
  retainPer : Nat := 0
  /-- bnd counter of the boundary from which periods are compared -/
  fromBnd : Nat := 0
  /-- largest deviation, its word and its stall or 0xF0 + arm (R201, R205) -/
  maxDev : Nat := 0
  maxWord : Nat := 0
  maxAt : Nat := 0
  overCount : Nat := 0
  overruns : Nat := 0
  late : Nat := 0
  /-- the period in progress has been compared -/
  cmpDone : Bool := false
  /-- an exchange waits for its boundary: the boundary count at the decision, and whether it is a rollback -/
  exchange : Option (Nat × Bool) := none
  /-- the command ends with the first run of the new program (R203) -/
  awaitRun : Bool := false
  /-- the boundary, counted as `bnd` of the yard, at which RETAIN ends -/
  retainEnd : Nat := 0
  deriving DecidableEq, Repr

/-- The engine beyond the CME registers and its RAMs, and the paddock (R163–R186, R198–R205). -/
structure CmeSt where
  /-- PROG_OK at entry to RUN: the engine runs (R163, R165) -/
  live : Bool := false
  u0 : EngU := {}
  u1 : EngU := {}
  /-- pending command slots, by 16 × stall + slot, as 16-bit patterns (R175) -/
  pendC : KMap Nat := []
  /-- pending arm words, by 4 × arm + word (R175) -/
  pendA : KMap Nat := []
  /-- PRESET_PEND bits set since the run in progress latched them (R184) -/
  presetNew : Nat := 0
  /-- arms with a miss in the period that has ended, none where it is not judged (R181) -/
  missed : Option Nat := none
  /-- misses of each arm in its judged periods, newest first, 256 kept (R181, R183) -/
  hist : KMap (List Bool) := []
  /-- arms with a restore request waiting (R183) -/
  restore : Nat := 0
  /-- a program check runs (R180) -/
  checkRun : Bool := false
  /-- the program or CME_ENTRY has been written while it runs (R180) -/
  checkDirty : Bool := false
  /-- the shadow unit's pending slots and arm words (R186) -/
  pendC1 : KMap Nat := []
  pendA1 : KMap Nat := []
  /-- the comparison buffers: slots and arm words the shadow unit has committed (R186, R201) -/
  cmpC : KMap Nat := []
  cmpA : KMap Nat := []
  /-- stalls and arms the shadow unit marked by their deadline in the period in progress, as masks (R201) -/
  shMarked : Nat := 0
  shArm : Nat := 0
  /-- words the shadow unit committed after their deadline, for the next period -/
  lateC : List (Nat × Nat) := []
  lateA : List (Nat × Nat) := []
  /-- slots each stall's schedule used, by 16 × stall + slot, in a compared period (R201) -/
  usedC : KMap Nat := []
  /-- committed words of an arm before marks that came after its latest deadline (R201) -/
  usedA : KMap (Option Nat) := []
  /-- the shadow unit's PRESET_PEND (R198) -/
  preset1 : Nat := 0
  pad : Pad := {}
  /-- records of the daily health ring, newest first: stall, day, 16 bytes (R197) -/
  health : List (Nat × Nat × List Nat) := []
  /-- records of the ring kept from before the last module reset, newest first (R197) -/
  healthOld : List (Nat × Nat × List Nat) := []
  deriving DecidableEq, Repr

/-! ### Time (chapter 09) -/

/-- A master a domain's Announce messages have shown (R213). -/
structure Foreign where
  id : Nat
  p1 : Nat
  cls : Nat
  acc : Nat
  var : Nat
  p2 : Nat
  /-- the grandmaster it reports -/
  gm : Nat
  steps : Nat
  port : Nat
  logInt : Int
  /-- elapsed ticks of its last Announce, and of the one before -/
  time : Nat
  prev : Option Nat
  deriving DecidableEq, Repr

/-- A tracked PTP domain beyond the TIME registers (R206, R214, R215). -/
structure Domain where
  /-- the domain's time since the PTP epoch, in 2⁻⁴⁰ of a 200 ps tick -/
  tf : Nat := 0
  /-- its rate relative to the root clock, 2⁻⁴⁰ -/
  rate : Int := 0
  foreign : List Foreign := []
  master : Option Nat := none
  /-- port Sync is taken from: 1 or 2 -/
  port : Nat := 1
  /-- stepsRemoved of the selected master on E1 and E2 -/
  steps : List (Option Nat) := [none, none]
  inLock : Nat := 0
  outLock : Nat := 0
  /-- elapsed ticks of the last Sync on E1 and E2 -/
  lastSync : List (Option Nat) := [none, none]
  /-- elapsed ticks at which its master was selected (R215) -/
  selAt : Nat := 0
  logSync : Int := 0
  logAnn : Int := 0
  lastAnn : Nat := 0
  /-- elapsed ticks at entry to HOLDOVER -/
  holdAt : Nat := 0
  /-- elapsed ticks since which it has been LOCKED without a break -/
  lockedAt : Nat := 0
  deriving DecidableEq, Repr

/-- The TIME block beyond its registers (R206–R221). -/
structure TimeSt where
  /-- the converter time base in 2⁻⁴⁰ of a tick (R206, R209) -/
  ctbF : Nat := 0
  /-- root ticks since module reset, from which TB2 counts (R206) -/
  tb2 : Nat := 0
  /-- the root PLL has lost lock, so that every time base stands still (R388) -/
  stopped : Bool := false
  /-- how often the root PLL has regained lock: each time the lanes' block grid takes a new phase -/
  relocks : Nat := 0
  /-- elapsed ticks of the last 1 ms update (R211) -/
  servoAt : Nat := 0
  /-- alignments of the last 20,000 ticks: elapsed ticks and the CTB's step in ticks (R210, R264) -/
  jumps : List (Nat × Int) := []
  /-- the CTB rate y, 2⁻⁴⁰ (R209) -/
  y : Int := 0
  /-- y of the last 16 s of TRACKING, newest first, one entry per 1 ms update (R211) -/
  yHist : List Int := []
  domA : Domain := {}
  domB : Domain := {}
  /-- wraps of TB0–TB3 recorded so far, counted from the epoch of each (R207) -/
  rolled : KMap Nat := []
  /-- elapsed ticks since which domain A, domain B and the partner have qualified without a break, none while they do not (R212) -/
  qualSince : List (Option Nat) := [none, none, none]
  /-- compare units whose target a step or an advance of VAL has passed, which fire in the next cycle (R220) -/
  cmpDue : Nat := 0
  /-- unwrapped count of each unit's time base in the cycle in which software last wrote the unit (R220) -/
  cmpFrom : KMap Nat := []
  /-- meanLinkDelay of E1 and E2, 1/16 ns (R213) -/
  mpd : List Nat := [0, 0]
  /-- elapsed ticks at which the last Pdelay_Reqs were due (R213) -/
  pdAt : Nat := 0
  /-- sequenceId of the next Pdelay_Req of E1 and E2 -/
  pdSeq : List Nat := [0, 0]
  /-- elapsed ticks at which the outstanding Pdelay_Req of E1 and E2 left, with its sequenceId -/
  pdSent : List (Option (Nat × Nat)) := [none, none]
  deriving DecidableEq, Repr

/-- The backup domain beyond the RTC registers (R223–R227). It keeps its contents through module reset. -/
structure RtcSt where
  /-- calendar, in 1/32,768 s scaled by 5·10¹⁷ (R223) -/
  calF : Nat := 0
  running : Bool := true
  /-- a write on its way through the synchroniser: register and value (R225) -/
  inflight : Option (Nat × Word) := none
  /-- the retained log: 256 records of 16 bytes, as 128-bit numbers (R227) -/
  log : KMap Nat := []
  /-- records written, for the sequence field -/
  written : Nat := 0
  /-- last measured supercapacitor voltage in mV, none before the first measurement (R223) -/
  vbakMv : Option Nat := none
  /-- level of the tamper input: true while the contact is open (R226) -/
  tamperOpen : Bool := false
  /-- elapsed ticks at which the last measurement of the trim ended (R224) -/
  trimAt : Nat := 0
  /-- what the main-domain copy still shows of a register changed in the present 1/32,768 s: the count of 1/32,768 s and the value (R225) -/
  shown : KMap (Option (Nat × Word)) := []
  /-- a TAMPER event to be raised at the next power-up (R226) -/
  tamperPend : Bool := false
  deriving DecidableEq, Repr

/-! ### Ethernet and CAN (chapter 10) -/

/-- A node of the PRP node table: source address, elapsed ticks of its last frame on LAN A and on LAN B, and whether
ETH_LAN_FAULT has been raised for it since it was last heard on both (R232). -/
structure PrpNode where
  mac : Nat
  /-- elapsed ticks of the first frame -/
  first : Nat
  a : Option Nat
  b : Option Nat
  raised : Bool
  deriving DecidableEq, Repr

/-- A remote request that waits (R238, R239): port, its octets, elapsed ticks of its arrival. -/
structure RraReq where
  port : EthPort
  octets : List Byte
  at0 : Nat
  deriving DecidableEq, Repr

/-- The Ethernet ports and the remote register access service beyond the ETH registers (R229–R240). -/
structure EthSt where
  /-- the redundancy mode in force, taken at E12_EN 0→1: 0 PRP, 1 HSR, 2 Single (R231) -/
  mode : Nat := 2
  /-- RED_MODE stood at 3 when the mode was taken (R231) -/
  mode3 : Bool := false
  /-- E12_SPEED taken at E12_EN 0→1 -/
  speed : Nat := 0
  nodes : List PrpNode := []
  /-- first copies accepted: source address, sequence number, elapsed ticks (R232, R233) -/
  copies : List (Nat × Nat × Nat) := []
  /-- first copies sent on in the ring by E1 and by E2: source address, sequence number, elapsed ticks (R233) -/
  ringCopies : List (List (Nat × Nat × Nat)) := [[], []]
  /-- elapsed ticks at which own supervision frames last came back on E1 and E2 (R233) -/
  own : List (Option Nat) := [none, none]
  /-- elapsed ticks of the last supervision frame sent (R232) -/
  lifeAt : Nat := 0
  /-- next redundancy sequence number -/
  seq : Nat := 0
  /-- TX_FAULT or LOS stands on E1, E2, E3 (R254) -/
  sfpBad : List SfpPins := [⟨false, false⟩, ⟨false, false⟩, ⟨false, false⟩]
  /-- last SEQ accepted from each station, kept in FRAM (R238) -/
  lastSeq : KMap (Option Nat) := []
  /-- the reply held for each station's last request (R238) -/
  replies : KMap (List Byte) := []
  queue : List RraReq := []
  deriving DecidableEq, Repr

/-- A transmit entry of a CAN controller: staging words [ID, CTL, TT, DATA0–15], CTB at its push, consecutive collisions, end of its
hold (R244, R248). -/
structure CanEntry where
  words : List Word := []
  pushed : Nat := 0
  coll : Nat := 0
  held : Bool := false
  /-- elapsed ticks at which the hold began -/
  heldAt : Nat := 0
  /-- CTB at which the hold began, and at which it last ended (R245, R248) -/
  heldFrom : Nat := 0
  heldTo : Nat := 0
  deriving DecidableEq, Repr

/-- What the receive FIFO holds of a frame beside its header: CTB of its start of frame and its data words (R250). -/
structure CanFrame where
  ts : Nat
  data : List Word
  deriving DecidableEq, Repr

/-- A CAN controller beyond its registers (R241–R253). -/
structure CanSt where
  entries : KMap CanEntry := []
  rx : List CanFrame := []
  /-- mode bits taken at EN 0→1: RESTRICTED, MON, LOOPBACK (R242) -/
  mode : Nat := 0
  /-- a bus-off recovery counts its 128 sequences (R243) -/
  recovering : Bool := false
  /-- CTB instant at which the latest reference message started, from which cycle time runs, none before the first (R251) -/
  cycleAt : Option Nat := none
  /-- cycle count that message carried, by which the windows stand (R251) -/
  winCount : Nat := 0
  /-- CTB instant since which the master's own reference message waits to be sent, none while it does not (R245, R251) -/
  refDue : Option Nat := none
  /-- CTB instant of a further cycle that started while a message still waited or was on the bus, and the count before it (R251) -/
  refNext : Option (Nat × Nat) := none
  /-- consecutive collisions of the reference message (R248, R252) -/
  refColl : Nat := 0
  /-- CTB from which and until which the reference message is withheld (R248, R252) -/
  refHoldFrom : Nat := 0
  refHold : Nat := 0
  /-- CTB at which EN went to 0, until the frame then in progress has ended (R242, R246) -/
  offAt : Option Nat := none
  /-- CTB of the last basic cycle start counted -/
  lastCycle : Option Nat := none
  /-- basic cycles since a higher-priority reference message while BACKED (R252) -/
  quiet : Nat := 0
  /-- entries whose miss in the current basic cycle has been counted -/
  missed : Nat := 0
  deriving DecidableEq, Repr

/-! ### Measurement and temperature (chapter 11) -/

/-- A burst of a converter (R262, R263). -/
structure AdcRun where
  /-- SRC the results are tagged with; 0 for START -/
  src : Nat
  /-- results still to deliver -/
  left : Nat
  /-- index of the next result -/
  idx : Nat
  /-- elapsed ticks of the next result's first raw conversion -/
  next : Nat
  /-- elapsed ticks of the trigger -/
  trigAt : Nat
  deriving DecidableEq, Repr

/-- The settings of results whose conversions all precede a change (R260): CFG, whether the converter was paired, how many such results are
still to be delivered, the ends of INVALID and UNSETTLED before the change, and elapsed ticks of the change. -/
structure AdcOld where
  cfg : Word
  pair : Bool
  left : Nat
  inv : Nat
  uns : Nat
  at0 : Nat
  deriving DecidableEq, Repr

/-- A converter beyond its registers (R257–R267). -/
structure AdcCh where
  run : Option AdcRun := none
  /-- results that changes of settings found complete and not yet delivered, in order (R260) -/
  old : List AdcOld := []
  /-- bursts started, modulo 256 (R264) -/
  bursts : Nat := 0
  /-- elapsed ticks until which raw conversions are INVALID, and UNSETTLED (R260) -/
  invUntil : Nat := 0
  /-- elapsed ticks from which, and until which, they are UNSETTLED (R260, R261) -/
  unsFrom : Nat := 0
  unsUntil : Nat := 0
  /-- timestamps of the FIFO's entries, oldest first (R264, R265) -/
  ts : List Nat := []
  /-- trims in force before an instant: gain, elapsed ticks, OFFS and GTRIM, oldest first (R267) -/
  oldTrims : List (Nat × Nat × Nat × Nat) := []
  deriving DecidableEq, Repr

/-- The converters' common part (R256). -/
structure AdcSt where
  chans : KMap AdcCh := []
  /-- measurements in a row with VREFX outside 3.0–4.2 V while it was in use -/
  vrefBad : Nat := 0
  /-- elapsed ticks of the last VREFX measurement -/
  vrefAt : Nat := 0
  /-- the turns of a calibration sweep: converter, or even converter of a pair, and elapsed ticks at which its turn begins (R266) -/
  cal : List (Nat × Nat) := []
  /-- elapsed ticks at which the last turn ends -/
  calEnd : Nat := 0
  /-- how many of the turns have given their results, and the converters calibrated and failed in them -/
  calDone : Nat := 0
  calOk : Nat := 0
  calBad : Nat := 0
  deriving DecidableEq, Repr

/-- Temperature beyond the THERM registers (R271–R274). -/
structure ThermSt where
  /-- elapsed ticks of the last measurement -/
  at0 : Nat := 0
  /-- elapsed ticks of cross-check faults, newest first: keys 0–15 sensors, 16–21 zones -/
  faults : KMap (List Nat) := []
  /-- measurements in a row above CRIT, by zone -/
  critRun : List Nat := [0, 0, 0, 0, 0, 0]
  /-- throttle level each zone demands -/
  demand : List Nat := [0, 0, 0, 0, 0, 0]
  /-- CRIT of each zone, in °C, as taken by the last measurement (R271, R274) -/
  crit : List Nat := [125, 125, 140, 125, 100, 95]
  deriving DecidableEq, Repr

/-! ### Power section (chapter 12) -/

/-- One pulse of a regulator phase (R279). -/
structure Pulse where
  /-- elapsed ticks at which its upper switch turns on -/
  at0 : Nat
  /-- its on-time in ticks -/
  len : Nat
  /-- how long the lower switch is on after it; until the next turn-on where none, in diode emulation a time of its own (R281) -/
  low : Option Nat
  /-- elapsed ticks until which the upper switch is still on for the pulse before -/
  tail : Nat
  deriving DecidableEq, Repr

/-- A regulator group beyond its AUX registers (R279–R283). -/
structure GrpSt where
  /-- elapsed ticks at which soft start began (R281) -/
  ssAt : Nat := 0
  /-- the ramp's first value in mV: the output measured at soft start (R281) -/
  ramp0 : Nat := 0
  /-- elapsed ticks at the entry to HICCUP (R281) -/
  hicAt : Nat := 0
  /-- elapsed ticks of the hiccups in the window, newest first (R281) -/
  hiccups : List Nat := []
  /-- consecutive windows in which each phase was an open candidate (R282) -/
  openCnt : List Nat := [0, 0, 0]
  /-- consecutive windows in which each phase was a sense candidate (R282) -/
  senseCnt : List Nat := [0, 0, 0]
  /-- elapsed ticks of each phase's last re-admission from OPEN (R283) -/
  openReadmit : List (Option Nat) := [none, none, none]
  /-- elapsed ticks of each phase's last re-admission from SENSE_LOST (R283) -/
  senseReadmit : List (Option Nat) := [none, none, none]
  /-- OPEN bits whose fault is lasting (R283) -/
  openLasting : Nat := 0
  /-- SENSE_LOST bits whose fault is lasting (R283) -/
  senseLasting : Nat := 0
  /-- consecutive turn-ons within 40 ns of target (R280) -/
  syncGood : Nat := 0
  /-- consecutive turn-ons more than 200 ns away (R280) -/
  syncBad : Nat := 0
  /-- the phase in turn for the next turn-on (R279) -/
  turn : Nat := 0
  /-- the valley limit has withheld that turn-on (R279) -/
  withheld : Bool := false
  /-- the last pulse of each phase since soft start (R279) -/
  pulse : List (Option Pulse) := [none, none, none]
  /-- current of each phase in the last raw sample, 10 mA (R279, R287) -/
  ph : List Nat := [0, 0, 0]
  /-- CTB of the reference instant at which the changes in hand act; they have acted once the CTB has reached it (R280) -/
  refCtb : Nat := 0
  /-- AUX_SYNC as it acts until then (R280) -/
  sync0 : Word := 0#32
  /-- AUX_PHASE as it acts until then (R280) -/
  phase0 : Word := 0#32
  /-- the phases the targets are spaced over until then (R280, R282) -/
  space0 : Nat := 0
  /-- phases that are active from then on (R283) -/
  join : Nat := 0
  /-- the group relocks from then on (R280) -/
  relocks : Bool := false
  /-- phases whose sense counts again from then on (R283) -/
  senseJoin : Nat := 0
  /-- elapsed ticks at which DROPOUT last began or ended, with the phases whose upper and whose lower switch was on then (R279, R289) -/
  flipAt : Nat := 0
  flipHi : Nat := 0
  flipLo : Nat := 0
  /-- phases whose bootstrap the last soft start charged (R291) -/
  chg : Nat := 0
  /-- elapsed ticks at which that charge began (R291) -/
  chgAt : Nat := 0
  /-- measured VOUT and IOUT of the last raw sample, 10 mV and 10 mA (R287) -/
  vout : Nat := 0
  /-- measured IOUT of the last raw sample, 10 mA (R287) -/
  iout : Nat := 0
  deriving DecidableEq, Repr

/-- A gate-power loop beyond its AUX registers (R284, R285). -/
structure LoopSt where
  /-- elapsed ticks of its OPEN and OVER faults, newest first (R285) -/
  faults : List Nat := []
  /-- elapsed ticks at the entry to RETRY (R285) -/
  retryAt : Nat := 0
  /-- elapsed ticks since which the OPEN condition holds (R285) -/
  openSince : Option Nat := none
  /-- elapsed ticks since which the OVER condition holds (R285) -/
  overSince : Option Nat := none
  /-- elapsed ticks of the last 100 µs update (R284) -/
  updAt : Nat := 0
  deriving DecidableEq, Repr

/-- What the writes of one fabric cycle found in the power section, and the writes: a freeze that begins in the cycle holds them (R286). -/
structure AuxUndo where
  cycle : Nat
  grpA : GrpSt
  grpB : GrpSt
  loopA : LoopSt
  loopB : LoopSt
  regs : List (Nat × Word)
  writes : List (Nat × Word)
  deriving DecidableEq, Repr

/-- The power section beyond the AUX registers (R276–R287). -/
structure AuxSt where
  /-- groups A and B (R279–R283) -/
  grpA : GrpSt := {}
  /-- group B (R279–R283) -/
  grpB : GrpSt := {}
  /-- loop A (R284, R285) -/
  loopA : LoopSt := {}
  /-- loop B (R284, R285) -/
  loopB : LoopSt := {}
  /-- state the last judgement of each feed proposed, and how many in a row did (R276) -/
  feedCand : List (Nat × Nat) := [(0, 0), (0, 0)]
  /-- the 54 V bus as last measured, mV; it stands at 54 V at the release of module reset (R281, R386) -/
  busMv : Nat := 54000
  /-- writes a freeze holds pending: register and value, oldest first (R286) -/
  heldWrites : List (Nat × Word) := []
  /-- the writes of the latest fabric cycle that had any (R286) -/
  undo : Option AuxUndo := none
  /-- a supervisor debug halt is in force (R286, R299) -/
  svDebug : Bool := false
  /-- the first telemetry window of each group after the clock returned is to be discarded (R287) -/
  telDiscard : List Bool := [false, false]
  /-- the PWM channels are in their halt behaviour (R299) -/
  pwmHalt : Bool := false
  deriving DecidableEq, Repr

/-- A half-bridge driver beyond its GDRV register (R289–R292). -/
structure HbSt where
  /-- fault latches that hold: bit 0 SC_HI, 1 SC_LO, 2 BST_UV, 3 XCMD (R292) -/
  latch : Nat := 0
  /-- elapsed ticks of its latches, newest first (R292) -/
  times : List Nat := []
  /-- bootstrap voltage last seen, mV (R291, R292) -/
  bstMv : Nat := 12000
  /-- elapsed ticks from which its inputs act: those of the last accepted clear of DISABLED (R292) -/
  liveFrom : Nat := 0
  /-- elapsed ticks of the last assertion of IN_H that met IN_L asserted and is ignored (R289) -/
  ignH : Option Nat := none
  /-- elapsed ticks of the last assertion of IN_L that met IN_H asserted and is ignored (R289) -/
  ignL : Option Nat := none
  /-- elapsed ticks at which the last refresh began (R291) -/
  refreshAt : Option Nat := none
  deriving DecidableEq, Repr

/-- The settings of a PWM channel that a commit copies (R294). -/
structure PwmSet where
  /-- PER (R293) -/
  per : Nat := 25000
  /-- DT_R (R293) -/
  dtR : Nat := 25
  /-- DT_F (R293) -/
  dtF : Nat := 25
  /-- CMPA (R293) -/
  cmpa : Nat := 0
  /-- CMPB (R293) -/
  cmpb : Nat := 0
  deriving DecidableEq, Repr

/-- A PWM channel beyond its registers (R293–R299). -/
structure PwmCh where
  /-- the counter runs (R293) -/
  running : Bool := false
  /-- elapsed ticks at which the counter last stood at `base` (R293) -/
  at0 : Nat := 0
  /-- the position in the cycle at `at0`: 0 after a reload, PHASE after a sync (R293) -/
  base : Nat := 0
  /-- active settings (R294) -/
  active : PwmSet := {}
  /-- the copy taken at the cut-off, active from the reload edge (R294) -/
  copy : Option PwmSet := none
  /-- the CFG word in effect; changes apply at the next reload edge (R293) -/
  cfg : Word := RegMap.resetWord (A.PWM_CH_CFG 0)
  /-- the outputs are in the trip state (R295) -/
  tripped : Bool := false
  /-- a clear of TRIPPED has been accepted: the outputs return at the next reload edge (R298) -/
  clearing : Bool := false
  /-- behaviour in a halt: 0 none, 1 safe with the outputs low, 2 freeze (R299) -/
  haltMode : Nat := 0
  /-- the halt has ended: safe outputs return at the next reload edge (R299) -/
  unhalting : Bool := false
  /-- elapsed ticks from which the output that TS turns on may be on (R297) -/
  tsOnAt : Nat := 0
  /-- elapsed ticks of the last start, load, reload, trip or halt: what stands before is carried in the fields below -/
  chgAt : Nat := 0
  /-- elapsed ticks at which A last turned off, up to `chgAt` (R293, R297) -/
  offA : Option Nat := none
  /-- elapsed ticks at which B last turned off, up to `chgAt` (R293, R297) -/
  offB : Option Nat := none
  /-- elapsed ticks of A's last turn-on, up to `chgAt` (R296) -/
  eOn : Option Nat := none
  /-- elapsed ticks of A's last turn-off on its contact, up to `chgAt` (R296) -/
  eOff : Option Nat := none
  /-- elapsed ticks of the last edge of A or B, up to `chgAt` (R296) -/
  eAny : Option Nat := none
  deriving DecidableEq, Repr

/-- The filtered trip inputs and their blanking (R295, R296). -/
structure TripIn where
  /-- the input is active after its filter (R295) -/
  active : Bool := false
  /-- it became active inside a blanking window that has not closed since (R296) -/
  inBlank : Bool := false
  deriving DecidableEq, Repr

/-! ### Safety (chapter 13) -/

/-- A cause of a trip or a controlled stop (R311). -/
structure Cause where
  /-- CHANNEL: 1 fence, 2 supervisor, 3 both (R311) -/
  chan : Nat
  /-- CODE (R311) -/
  code : Nat
  /-- INDEX (R311) -/
  index : Nat
  /-- the BREAKER outputs it names (R315) -/
  names : Nat
  deriving DecidableEq, Repr

/-- The safety section beyond the SAFE registers (R302–R323). -/
structure SafeSt where
  /-- outputs named by causes since the last accepted reset (R303) -/
  named : Nat := 0
  /-- elapsed ticks at which each output last changed (R306) -/
  outAt : List Nat := [0, 0, 0, 0]
  /-- outputs whose switch B an overload has opened (R396) -/
  soOver : Nat := 0
  /-- closed A contacts of SI0–SI7 after their filter (R304) -/
  closedA : Nat := 0
  /-- closed B contacts of SI0–SI7 after their filter (R304) -/
  closedB : Nat := 0
  /-- elapsed ticks since which the contacts of an input disagree (R304) -/
  discAt : KMap (Option Nat) := []
  /-- inputs latched active by a discrepancy (R304) -/
  discLatch : Nat := 0
  /-- latched inputs whose contacts have since shown demand together (R304) -/
  discShown : Nat := 0
  /-- feedbacks that have reached their expected state since their output changed (R306) -/
  fbMet : Nat := 0
  /-- feedbacks found out of their expected state (R306) -/
  fbBad : Nat := 0
  /-- functions whose present disagreement has been counted (R307) -/
  disagreed : Nat := 0
  /-- elapsed ticks since which the channels differ on a function (R307) -/
  diffAt : KMap (Option Nat) := []
  /-- comparator sides the supervisor's capture latches hold: high sides in bits 11:0, low sides in 27:16 (R302) -/
  capture : Nat := 0
  /-- challenge responses failed in a row (R309) -/
  svFails : Nat := 0
  /-- good safety cycles in a row (R309) -/
  svGood : Nat := 0
  /-- elapsed ticks at which the restart window opened (R309) -/
  winAt : Nat := 0
  /-- elapsed ticks from which agreement is judged (R309) -/
  agreeFrom : Nat := 0
  /-- elapsed ticks of the SV losses of the last 24 h, newest first (R309) -/
  losses : List Nat := []
  /-- elapsed ticks of the last safety cycle (R302) -/
  cycAt : Nat := 0
  /-- the supervisor has found the fence failed (R310) -/
  fenceFailed : Bool := false
  /-- elapsed ticks at which RST_IN closed (R317) -/
  rstAt : Nat := 0
  /-- fabric cycle of the last reset request judged, and whether it was a committed SAFE_RESET (R318) -/
  reqAt : Option (Nat × Bool) := none
  /-- the tests of R321 that have failed and not passed a rerun since, by row 1–7 (R321) -/
  proofFailed : Nat := 0
  /-- elapsed ticks of each test's last pass, rows 1–7 (R322) -/
  proofPass : List Nat := [0, 0, 0, 0, 0, 0, 0]
  /-- tests the running sweep has yet to do (R321) -/
  sweepLeft : Nat := 0
  /-- the power-up tests failed (R318) -/
  testsFailed : Bool := false
  /-- first cause met in TEST (R311) -/
  testCause : Option Cause := none
  /-- active values of the fence parameters whose committed value is pending, by primary address (R323) -/
  active : KMap (Option Word) := []
  /-- elapsed ticks of the entry to LOCKOUT (R311) -/
  lockAt : Nat := 0
  /-- elapsed ticks of the entry to CSTOP (R311) -/
  cstopAt : Nat := 0
  /-- elapsed ticks at which the fence's halt request was last released (R109) -/
  haltEndAt : Nat := 0
  deriving DecidableEq, Repr

/-! ### Faults and events (chapter 14) -/

/-- An occurrence on its way to delivery (R336). -/
structure Occ where
  /-- event number (R341) -/
  event : Nat
  /-- instance of the block that raised it (R339) -/
  inst : Nat
  /-- its HOST route bit (R336) -/
  host : Bool
  /-- its SV route bit (R336) -/
  sv : Bool
  /-- elapsed ticks at the occurrence (R336) -/
  time : Nat
  /-- CTB of the occurrence (R339) -/
  ctb : Nat
  deriving DecidableEq, Repr

/-- Event delivery beyond the EVT registers (R336–R339). -/
structure Evt where
  /-- enabled occurrences not yet delivered, oldest first (R336) -/
  pipe : List Occ := []
  /-- elapsed ticks at which each vector's last message left (R337) -/
  lastMsg : KMap (Option Nat) := []
  /-- fabric cycle of the latest delivery, and the pending bits the deliveries of that cycle set: register and bit (R18, R336) -/
  setAt : Nat := 0
  setBits : List (Nat × Nat) := []
  /-- vectors whose message falls due at the end of their holdoff (R337) -/
  due : List Nat := []
  deriving DecidableEq, Repr

/-- An error other than a CE as a capture record holds it (R329). -/
structure FltErr where
  /-- CODE -/
  code : Nat
  /-- MASTER -/
  master : Nat
  /-- ACCESS -/
  access : Nat
  /-- ADDR -/
  addr : Nat
  /-- CTB of the detection -/
  ctb : Nat
  deriving DecidableEq, Repr

/-- A poisoned word of a FIFO's memory (R328, R333). -/
structure FifoBad where
  /-- address of the FIFO's first dword -/
  fifo : Nat
  /-- sequence number of the entry the word holds; 256 where it held none -/
  entry : Nat
  /-- last sequence number stored when the word's entry was popped, or when an empty word was found -/
  left : Option Nat
  deriving DecidableEq, Repr

/-- The fault collector beyond the FLT registers (R327–R333). -/
structure Flt where
  /-- lines broken now, with what they carry for the safety functions (R308, R327) -/
  broken : List (LineId × LineKind) := []
  /-- elapsed ticks of the errors of each class, newest first, since the class's window was last emptied (R331) -/
  times : KMap (List Nat) := []
  /-- poisoned words: class and address as R329 forms it (R333) -/
  poisoned : List (Nat × Nat) := []
  /-- the groom's last probe of the captured target failed (R332) -/
  probeBad : Bool := false
  /-- poisoned words of FIFO memories (R328, R333) -/
  fifoBad : List FifoBad := []
  /-- fabric cycle in which the record held was captured (R329) -/
  capAt : Option Nat := none
  /-- a fabric cycle and the errors other than CEs detected in it, in the order of detection (R329, R330) -/
  recent : Nat × List FltErr := (0, [])
  deriving DecidableEq, Repr

/-! ### Identity, signatures and live update (chapter 15) -/

/-- A signature tree to be generated (R346): the top tree regenerated from the seed, a level-1 tree, or a bottom tree. -/
inductive TreeJob where
  | top
  | level1 (n : Nat)
  | bottom (n : Nat)
  deriving DecidableEq, Repr

/-- The tack store and the SEC block beyond the SEC registers (R343–R350). -/
structure SecSt where
  /-- owner public keys of slots 4–7, empty where none (R343, R355); tack store -/
  ownerKeys : List (List Byte) := [[], [], [], []]
  /-- station keys 0–15, 32 bytes each, empty where none (R343, R359); tack store -/
  stations : KMap (List Byte) := []
  /-- the bottom tree the cache in FRAM holds as current (R343, R346) -/
  current : Option Nat := none
  /-- the bottom tree it holds as spare (R343, R346) -/
  spare : Option Nat := none
  /-- the level-1 tree it holds (R343, R346) -/
  level1 : Option Nat := none
  /-- the block of 64 indices in use and the next index; lost at module reset (R348) -/
  block : Option (Nat × Nat) := none
  /-- indices of blocks given up at module resets and not yet counted as skipped (R348) -/
  unused : Nat := 0
  /-- trees to be generated, the one in work first (R346) -/
  jobs : List TreeJob := []
  /-- a tamper signal met without main power, to be acted on at the next power-up (R344) -/
  tamperPend : Bool := false
  /-- the tack store has been read since module reset (R343) -/
  started : Bool := false
  /-- the attestation buffer (R350) -/
  att : List Byte := []
  deriving DecidableEq, Repr

/-- The flash of both banks (R357). -/
structure FlashSt where
  /-- bytes by flash byte address -/
  bytes : KMap Byte := []
  /-- sectors erased since delivery, by address / 64 Ki -/
  erased : KMap Bool := []
  /-- byte addresses whose read still fails after 2 retries (R328, R332) -/
  bad : List Nat := []
  deriving DecidableEq, Repr

/-- A fence confirmation in progress (R364). -/
structure FConf where
  /-- elapsed ticks of the commit -/
  time : Nat
  /-- the value C committed -/
  c : Word
  /-- the snapshot: primary address and value of each pending word, ascending -/
  snap : List (Nat × Word)
  /-- CRC of the fence's snapshot -/
  crcF : Nat
  /-- CRC of the supervisor's snapshot -/
  crcS : Nat
  /-- a fence-parameter commit landed since -/
  changed : Bool := false
  /-- it belongs to a kind 5 apply -/
  byApply : Bool := false
  deriving DecidableEq, Repr

/-- A kind 3 apply in progress (R365). -/
structure LaneApply where
  /-- lanes still to be written, each with its four rows, in order -/
  todo : List (Nat × List Word)
  /-- the lane whose second marker slot is awaited -/
  waiting : Option Nat
  /-- flash address of the image -/
  addr : Nat
  deriving DecidableEq, Repr

/-- Live update beyond the UPD registers (R353–R366). -/
structure UpdSt where
  /-- slots of the verified table, oldest entry first (R354) -/
  order : List Nat := [0, 1, 2, 3, 4, 5, 6, 7]
  /-- the fence confirmation being judged (R364) -/
  fconf : Option FConf := none
  /-- the pending set was entered by a kind 5 apply (R364) -/
  byKind5 : Bool := false
  /-- the lane table apply that runs (R365) -/
  lanes : Option LaneApply := none
  /-- host writes to LANE_EQr and ADC_CALk_g held until the apply completes: address and value, oldest first (R365) -/
  held : List (Nat × Word) := []
  /-- ROLLBACK of the image in the paddock of the present session (R356) -/
  session : Option Nat := none
  /-- the first start of the supervisor since module reset has not ended (R360) -/
  firstStart : Bool := true
  /-- the supervisor has not yet run since module reset (R386 step 6) -/
  unstarted : Bool := true
  /-- the supervisor is down because no bank could be booted (R360) -/
  noBank : Bool := false
  /-- the supervisor restart in progress was requested (R361) -/
  requested : Bool := false
  /-- elapsed ticks at the end of the last supervisor restart (R363) -/
  endAt : Nat := 0
  /-- fabric cycle of the last commit of a fence parameter (R364) -/
  fenceAt : Option Nat := none
  deriving DecidableEq, Repr

/-! ### Pairing (chapter 16) -/

/-- A PSTAT frame received from the partner (R369). -/
structure PStat where
  period : Nat
  safe : Nat
  yard : Nat
  warmup : Bool
  lead : Bool
  member : Nat
  relinquish : Bool
  chOk : Bool
  ctbOk : Bool
  ctb : Nat
  dly : Nat
  fit : Nat
  followN : Nat
  sortN : Nat
  serial : Nat
  digYard : Nat
  digProg : Nat
  digSet : Nat
  /-- the lane it came on, 48 or 49 -/
  lane : Nat
  deriving DecidableEq, Repr

/-- A part of the partner's committed words: period, part number, words (R369, R377). -/
structure PoutPart where
  period : Nat
  part : Nat
  words : List Nat
  deriving DecidableEq, Repr

/-- The module pair beyond the PAIR registers (R368–R381). -/
structure PairSt where
  /-- the module has been LINKED since module reset (R379) -/
  everLinked : Bool := false
  /-- reload edges in a row at which the module was LINKED, up to 16 (R379) -/
  linkedRun : Nat := 0
  /-- the module has been LINKED for 16 periods since module reset (R379) -/
  linked16 : Bool := false
  /-- next PSEQ (R369) -/
  pseq : Nat := 0
  /-- PSEQ of the last PSTAT taken (R370) -/
  lastSeq : Option Nat := none
  /-- the last valid PSTAT of the other member number (R369) -/
  partner : Option PStat := none
  /-- the last PSTAT came from a module of the same member number (R368) -/
  clash : Bool := false
  /-- a valid PSTAT has arrived since the last reload edge (R371) -/
  rxNow : Bool := false
  /-- periods in a row, up to the last reload edge, with a valid PSTAT (R371) -/
  rxRun : Nat := 0
  /-- periods in a row, up to the last reload edge, without one (R371) -/
  rxMiss : Nat := 0
  /-- own CTB less the partner's at the last PSTAT, in 1/64 tick, of which PAIR_CTB_DIFF shows 32 bits (R210, R378) -/
  ctbGap : Int := 0
  /-- PSTATs of consecutive periods with CTB_OK = 1 (R378) -/
  ctbRun : Nat := 0
  /-- periods in a row each digest has differed: yard, program, settings (R372) -/
  digRun : List Nat := [0, 0, 0]
  /-- parts of the partner's committed words of the last 9 periods, newest first (R369, R377) -/
  parts : List PoutPart := []
  /-- arms being yielded (R376) -/
  yielding : Nat := 0
  /-- what each stall followed at the last reload edge: 0 nobody, 1 this member, 2 the partner (R374) -/
  follow : KMap Nat := []
  /-- arms to which STANDBY = 0 was decided for some stall at the last reload edge (R377) -/
  claimArms : Nat := 0
  /-- MIRROR_MASK as sampled at the last cut-off, 0 where it fails its check (R370) -/
  mask : Nat := 0x0101
  /-- stalls the module decided at the last reload edge to send STANDBY = 0 to, as six words (R375) -/
  claim : List Nat := [0, 0, 0, 0, 0, 0]
  /-- stalls yielded for the next schedule, as six words (R376) -/
  yielded : List Nat := [0, 0, 0, 0, 0, 0]
  /-- elapsed ticks of the trip that a withdrawal follows (R381) -/
  withdrawAt : Option Nat := none
  /-- a controlled stop has yielded every stall (R381) -/
  csYielded : Bool := false
  deriving DecidableEq, Repr

/-! ### Power-up and reset (chapter 17) -/

/-- The service button (R391). -/
inductive Button where
  | open
  /-- closed at the given elapsed ticks -/
  | pressed (at0 : Nat)
  | held (at0 : Nat)
  /-- stuck; where it has opened, the elapsed ticks since which it stays open -/
  | stuck (openAt : Option Nat)
  deriving DecidableEq, Repr

/-- The module's reset and power machinery (R386–R396). -/
structure ResetSt where
  /-- module reset is asserted (R386) -/
  asserted : Bool := false
  /-- main power is absent: the 12 V bus has fallen and no start has begun (R386, R389) -/
  off : Bool := false
  /-- elapsed ticks at which the pre-reset phase began (R390) -/
  preAt : Option Nat := none
  /-- the pre-reset phase is of the second form: HALT on every stall lane (R390) -/
  preHalt : Bool := false
  /-- reset causes requested and not yet written: bits of SYS_RESET_CAUSE (R389) -/
  causes : Nat := 0
  /-- elapsed ticks at which module reset asserted (R389) -/
  at0 : Nat := 0
  /-- elapsed ticks at which module reset was last released (R386) -/
  releasedAt : Nat := 0
  /-- MRST_N has been low for 10 µs and not high for 10 µs since (R389) -/
  mrstLow : Bool := false
  /-- the service button (R391) -/
  button : Button := .open
  /-- main power has returned since the last release, so that this release is a main power-up (R226, R228) -/
  fromOff : Bool := false
  /-- the button's contact is closed, after its 20 ms (R391) -/
  closed : Bool := false
  deriving DecidableEq, Repr

/-! ### The machine -/

/-- What the KY-9 sends or drives outward, in the order it leaves; a record the model keeps of each command's effect outside the module. -/
inductive Output where
  /-- an MSI-X message: vector, address and data of its table entry (R28, R337) -/
  | msix (vector addr data : Nat)
  /-- a read completion on the PCIe host port (R26) -/
  | completion (words : List Word)
  /-- a configuration request completes with Configuration Request Retry Status (R386) -/
  | cfgRetry
  /-- the SYNC_OUT pulse of a compare unit: unit, width in µs (R220) -/
  | syncOut (unit widthUs : Nat)
  /-- the other outputs a compare unit drives: bits 2 ADC trigger, 3 PWM trigger of OUT (R220) -/
  | cmpOut (unit out : Nat)
  /-- a PTP message the transparent clock forwards: port it leaves by, kind, correctionField, sequence number of its HSR tag (R217, R234) -/
  | ptp (port : EthPort) (kind : Nat) (corr : Int) (tag : Nat)
  /-- a PTP event message of the module's own: port, messageType, sequenceId, sourcePortIdentity, the port identity it answers (0 in a request),
  sequence number of its HSR tag, egress timestamp in TB2 ticks, correctionField in 2⁻¹⁶ ns (R213, R218, R230, R234) -/
  | ptpOwn (port : EthPort) (kind seq source requester : Nat) (hsr : Option Nat) (egress : Nat) (corr : Int)
  /-- an Ethernet frame on E1–E3 (0–2): 1 ARP reply, 2 ICMP echo reply, 3 forwarded, 4 supervision, 5 remote service reply; its source address;
  sequence number of its redundancy trailer with the LAN it names (true: A), and sequence number of its HSR tag (R230, R232–R239) -/
  | eth (port kind src : Nat) (rct : Option (Nat × Bool)) (tag : Option Nat)
  /-- a reply of the remote register access service (R237) -/
  | rra (e3 : Bool) (octets : List Byte)
  /-- a CAN frame: controller, identifier word, control word with ESI in bit 6, data words (R241, R245) -/
  | can (n : Nat) (head : Word) (ctl : Word) (data : List Word)
  /-- a PWM channel's trigger pulse to the converters (R293) -/
  | pwmTrig (channel : Nat)
  /-- a block of no frame on a lane: ECHO or ECHO_RSP (R72) -/
  | block (lane : Nat) (payload : BitVec 64)
  /-- a frame on a lane, its control block first (R59) -/
  | frame (lane : Nat) (blocks : List (BitVec 64))
  /-- from its next block boundary on, the lane sends this block, IDLE or HALT, in every slot that nothing else takes; HALT takes every slot,
  and a frame in progress ends there unfinished (R58, R60, R61, R109) -/
  | fill (lane : Nat) (payload : BitVec 64)
  /-- `n` alignment markers left a lane in its marker slots, the first with AM_COUNT `first` (R99) -/
  | markers (lane rate first n : Nat)
  deriving DecidableEq, Repr

/-- What stops a step. No meaning of this model ends in one of these: every command of the table has an effect in the spec. -/
inductive Fault where
  /-- Raised by no meaning (the type must not be empty of names); safe. -/
  | none
  deriving DecidableEq, Repr

/-- Why a command has no effect in the model. -/
inductive Refusal where
  /-- Raised by the arms of exec whose command has no meaning yet; safe: nothing is claimed of such a command. -/
  | notModelled (mnemonic : String)
  deriving DecidableEq, Repr

/-- The state of the KY-9. -/
structure State where
  /-- commands waiting, first in, first out; reset: empty -/
  pending : List Instr := []
  /-- root-clock periods of 200 ps elapsed; the model's own clock, from which every timer of the spec is judged; reset 0 -/
  now : Nat := 0
  /-- every register dword of the BAR0 map by its canonical address (R9–R11); an unlisted one holds its reset value -/
  regs : KMap Word := []
  /-- bytes of the BAR0 memories by address (R9, R14); an unlisted byte reads as `memDefault` gives -/
  mem : KMap Byte := []
  /-- dwords returned by the last read access -/
  readData : List Word := []
  /-- a write has been refused, or dropped under a rule that sets a fault bit, since the remote service last looked (R240): the model's own
  field -/
  wrDrop : Bool := false
  /-- what has left the module, newest first -/
  out : List Output := []
  /-- how many free values have been drawn: the model's own field, the argument of the opaque constants of Config -/
  freeIx : Nat := 0

  /-- guard sequencer of each register block, keyed by window number, address bits [23:16] (R20); reset: IDLE, nothing held -/
  guards : KMap Guard := []
  /-- result registers, keyed by the address of the dword that carries FRESH and SEQ (R22, R23); reset: no result, SEQ 0 -/
  results : KMap Res := []
  /-- entries of the result FIFOs, oldest first: VALUE and SEQ, keyed by the address of the first dword (R22, R401); reset: empty -/
  fifos : KMap (List (Nat × Nat)) := []
  /-- fabric cycle of the last store into each result FIFO, and how many fell in it, by address of the first dword (R401); reset: none -/
  fifoIn : KMap (Nat × Nat) := []
  /-- results dropped by full FIFOs in the present fabric cycle (R401); reset: none -/
  spills : List Spill := []
  /-- captured second dwords of 64-bit results (R23); reset: none -/
  captures : List Capture := []
  /-- the operation the command port runs (R30); reset: none -/
  cmd : Option CmdRun := none
  /-- elapsed ticks at which the last operation ended: the port is BUSY through that fabric cycle (R402); reset: none -/
  cmdEnded : Option Nat := none
  /-- a supervisor restart waits for the port to be IDLE (R31); reset: no -/
  restartPend : Bool := false
  /-- the PCIe endpoint (R25–R29); reset: nothing in flight -/
  host : HostPort := {}
  /-- the yard (R46–R56); reset: CONFIG, nothing pending, P of the reset HALF_US -/
  yard : YardSt := {}
  /-- stalls' links (R69–R96); reset: ABSENT, nothing running -/
  links : KMap LinkS := []
  /-- lanes' management and enumeration (R71, R91); reset: nothing queued -/
  linkLanes : KMap LinkLane := []
  /-- conversion words in force in RUN and STOPPING, by 16 × scale set + class, as sampled at the last cut-off but one period (R51); reset: 0 -/
  conv : KMap Word := []
  /-- conversion words sampled at the last cut-off, in force from the next period (R51) -/
  convNext : KMap Word := []
  /-- lanes 0–49 (R97–R114); reset: PARKED, nothing counted -/
  lanes : KMap LaneX := []
  /-- the edge synthesiser (R115–R143); reset: active set at the reset values, every leg off -/
  edge : EdgeSt := {}
  /-- the balancing engine (R146–R162); reset: every arm NORMAL, nothing in the sort -/
  bal : BalSt := {}
  /-- the control matrix engine and the paddock (R163–R205); reset: parked, every register 0, no session -/
  cme : CmeSt := {}
  /-- the time bases, the CTB servo and the PTP domains (R206–R221); reset: CTB 0, FREE, domains at 0 -/
  time : TimeSt := {}
  /-- the backup domain (R223–R227); kept through module reset; reset: DESIGN CHOICE calendar 0 and running (log 7) -/
  rtc : RtcSt := {}
  /-- the Ethernet ports and the remote service (R229–R240); reset: mode Single until E1/E2 are enabled, tables empty; last SEQ kept -/
  eth : EthSt := {}
  /-- CAN0 and CAN1 (R241–R253); reset: queues empty, off the bus -/
  can : KMap CanSt := []
  /-- converters and reference (R255–R267); reset: no burst, everything settled -/
  adc : AdcSt := {}
  /-- temperature (R271–R274); reset: no fault, no demand -/
  therm : ThermSt := {}
  /-- the power section (R276–R287); reset: 54 V bus up, groups and loops OFF, nothing pending -/
  aux : AuxSt := {}
  /-- half-bridge drivers HB0–HB9 (R288–R292); reset: no latch, bootstraps DESIGN CHOICE 12,000 mV (log 10) -/
  hb : KMap HbSt := []
  /-- PWM channels 0–15 (R293–R299); reset: stopped -/
  pwm : KMap PwmCh := []
  /-- trip inputs TRIP0–TRIP7 (R295, R296); reset: inactive -/
  tripIn : KMap TripIn := []
  /-- the safety section (R301–R323); reset: nothing tripped, nothing pending -/
  safe : SafeSt := {}
  /-- event delivery (R336–R339); reset: nothing waiting -/
  evt : Evt := {}
  /-- fault collector (R327–R333); reset: nothing broken, nothing poisoned, windows empty -/
  flt : Flt := {}
  /-- the tack store and the SEC block (R343–R350); reset: no owner or station key, no tree cached, no index block (log 4) -/
  tack : SecSt := {}
  /-- flash (R357); reset: as delivered, bytes the spec does not give (log 18) -/
  flash : FlashSt := {}
  /-- live update (R353–R366); reset: nothing in progress, supervisor starting -/
  upd : UpdSt := {}
  /-- the module pair (R368–R381); reset: nothing received -/
  pair : PairSt := {}
  /-- reset and power-up (R386–R396); reset: released -/
  rst : ResetSt := {}
  deriving DecidableEq, Repr

/-- The machine right after module reset: every register at the value its table gives, every memory, queue and engine empty. DESIGN
CHOICE, log 5. DESIGN CHOICE, log 7. DESIGN CHOICE, log 10. DESIGN CHOICE, log 157. -/
def State.reset : State := {}

end Sys2Proof.Machine
end

