-- ==== Sys2Proof/Machine/Ops.lean ====
section
/-! DEFINITION. The named operations every meaning is written with: registers and their fields, counters, time, events, the
fault collector, result registers and result FIFOs, memory bytes and outputs. -/

namespace Sys2Proof.Machine

open Sys2Proof

/-! ### Registers -/

/-- The register dword at a canonical address. -/
def State.reg (s : State) (a : Nat) : Word := KMap.get RegMap.resetWord s.regs a

/-- A register dword replaced. -/
def State.setReg (s : State) (a : Nat) (w : Word) : State := { s with regs := KMap.set RegMap.resetWord s.regs a w }

/-- The value of a register field. -/
def State.get (s : State) (f : Fld) : Nat := f.read (s.reg f.reg)

/-- A register field replaced. -/
def State.put (s : State) (f : Fld) (v : Nat) : State := s.setReg f.reg (f.write (s.reg f.reg) v)

/-- Whether a field is not 0. -/
def State.on (s : State) (f : Fld) : Bool := s.get f ≠ 0

/-- Bit `i` of a field. -/
def State.bitOf (s : State) (f : Fld) (i : Nat) : Bool := (s.get f).testBit i

/-- A field with bit `i` set. -/
def State.setBitOf (s : State) (f : Fld) (i : Nat) : State := s.put f (setBit (s.get f) i)

/-- A field with bit `i` cleared. -/
def State.clrBitOf (s : State) (f : Fld) (i : Nat) : State := s.put f (clearBit (s.get f) i)

/-- A field with bit `i` given. -/
def State.putBitOf (s : State) (f : Fld) (i : Nat) (b : Bool) : State := if b then s.setBitOf f i else s.clrBitOf f i

/-- A counter field raised by `n`, saturating at its width (R18). -/
def State.cnt (s : State) (f : Fld) (n : Nat := 1) : State := s.put f (min (s.get f + n) (2 ^ f.len - 1))

/-- The signed value of a field. -/
def State.getS (s : State) (f : Fld) : Int := sx f.len (s.get f)

/-- The field when it is not 0, else what 0 acts as. -/
def State.getOr (s : State) (f : Fld) (z : Nat) : Nat := if s.get f = 0 then z else s.get f

/-! ### Outputs and free values -/

/-- Something leaves the module, which module reset holds silent (R389). DESIGN CHOICE, log 22. -/
def State.emit (s : State) (o : Output) : State := { s with out := if s.rst.asserted then s.out else o :: s.out }

/-- A free value below 2^`w`, drawn fresh (log 8). -/
def State.free (s : State) (w : Nat) : Nat := Config.free s.freeIx % 2 ^ w

/-- The state after a free value has been drawn. -/
def State.drew (s : State) : State := { s with freeIx := s.freeIx + 1 }

/-! ### Time (R206, R209, R223) -/

/-- Root ticks of one fabric cycle, one µs, one ms and one s. -/
def cyc : Nat := 10
/-- Ticks of 1 µs. -/
def us : Nat := 5000
/-- Ticks of 1 ms. -/
def ms : Nat := 5000000
/-- Ticks of 1 s. -/
def sec : Nat := 5000000000

/-- 2⁻⁴⁰ of a tick: the resolution the model keeps rates in. -/
def unit40 : Nat := 2 ^ 40

/-- What `n` root ticks add to a time base of rate `r`. -/
def scaled (n : Nat) (r : Int) : Nat := ((n : Int) * ((unit40 : Int) + r)).toNat

/-- The number of the fabric cycle in progress. -/
def State.cycleNo (s : State) : Nat := s.now / cyc

/-- A domain's time after `n` root ticks. -/
def Domain.tick (d : Domain) (n : Nat) : Domain := { d with tf := d.tf + scaled n d.rate }

/-- The time bases after `n` root ticks; they stand still while the root PLL has lost lock. -/
def TimeSt.tick (t : TimeSt) (n : Nat) : TimeSt :=
  if t.stopped then t
  else { t with ctbF := t.ctbF + scaled n t.y, tb2 := t.tb2 + n, domA := t.domA.tick n, domB := t.domB.tick n }

/-- The calendar after `n` root ticks, trimmed by `trim` in 0.01 ppm (R223, R224). -/
def RtcSt.tick (r : RtcSt) (n : Nat) (trim : Int) : RtcSt :=
  if r.running then { r with calF := r.calF + ((n : Int) * 32768 * (100000000 + trim)).toNat } else r

/-- `n` root ticks pass. Only the clocks move: everything else that time brings is a command of its own. -/
def State.advance (s : State) (n : Nat) : State :=
  { s with now := s.now + n, time := s.time.tick n, rtc := s.rtc.tick n (s.getS F.RTC_TRIM) }

/-- Time passes until `t` elapsed ticks, where that lies ahead. -/
def State.until (s : State) (t : Nat) : State := s.advance (t - s.now)

/-- The 64-bit CTB (R206). -/
def State.ctb (s : State) : Nat := (s.time.ctbF / unit40) % 2 ^ 64

/-- Root ticks until the CTB reaches `t`, 0 where it has. -/
def State.ticksToCtb (s : State) (t : Nat) : Nat :=
  let per := scaled 1 s.time.y
  if t * unit40 ≤ s.time.ctbF then 0 else (t * unit40 - s.time.ctbF + per - 1) / per

/-- Time passes until the CTB reaches `t`, where that lies ahead: to the first root tick at which it stands there or beyond, its
fraction of a tick kept (R209). DEDUCED, log 156. DESIGN CHOICE, log 9. -/
def State.untilCtb (s : State) (t : Nat) : State := s.advance (s.ticksToCtb t)

/-- A domain. -/
def TimeSt.dom (t : TimeSt) : Dom → Domain
  | .a => t.domA
  | .b => t.domB

/-- A domain replaced. -/
def TimeSt.setDom (t : TimeSt) (d : Dom) (x : Domain) : TimeSt :=
  match d with
  | .a => { t with domA := x }
  | .b => { t with domB := x }

/-- A domain's time in ns since the PTP epoch. -/
def Domain.ns (d : Domain) : Nat := d.tf / (5 * unit40)

/-- The unwrapped count of TB0–TB3 in ns (R206). -/
def State.tbFull (s : State) (n : Nat) : Nat :=
  if n = 0 then s.time.domA.ns else if n = 1 then s.time.domB.ns else if n = 2 then s.time.tb2 / 5 else s.ctb / 5

/-- TB0–TB3 (R206). -/
def State.tb (s : State) (n : Nat) : Nat := s.tbFull n % 2 ^ 32

/-! ### Events (R335, R336, R341) -/

/-- The first event number of the block at a base address (R341). -/
def evBase (b : Nat) : Nat :=
  match b / 0x10000 with
  | 0 => 0
  | 1 => 8
  | 2 => 20
  | 3 => 12
  | 4 => 24
  | 5 => 40
  | 6 => 56
  | 7 => 120
  | 8 => 128
  | 9 => 132
  | 10 => 140
  | 11 => 148
  | 12 => 156
  | 13 => 164
  | 14 => 172
  | 15 => 182
  | 16 => 188
  | 17 => 196
  | 18 => 72
  | 19 => 80
  | 20 => 88
  | 21 => 112
  | _ => 96

/-- How many events the block at a base address has (R341). -/
def evCount (b : Nat) : Nat :=
  (([8, 12, 20, 24, 40, 56, 72, 76, 80, 88, 96, 112, 120, 128, 132, 140, 148, 156, 164, 172, 182, 188, 196].find? (fun n => evBase b < n)).getD 212) -
    evBase b

/-- The instance an event carries: the lane number for LANE, otherwise 0 (R339). -/
def evInst (b : Nat) : Nat := b / 0x10000 - 0x40

/-- An occurrence put in its place: by time, and by event number within one fabric cycle (R336, R339). -/
def Occ.insert (o : Occ) : List Occ → List Occ
  | [] => [o]
  | x :: t => if o.time / cyc = x.time / cyc ∧ o.event < x.event then o :: x :: t else x :: Occ.insert o t

/-- An occurrence sent on its way to delivery. -/
def State.pushOcc (s : State) (e inst : Nat) (host sv : Bool) : State :=
  { s with evt := { s.evt with pipe := Occ.insert ⟨e, inst, host, sv, s.now, s.ctb⟩ s.evt.pipe } }

/-- Event bit `k` of the block at base `b` occurs: RAW is set, and the occurrence is delivered if EN is 1 (R335, R336). -/
def State.raise (s : State) (b k : Nat) : State :=
  let s := s.setBitOf (F.evtRaw b) k
  if s.bitOf (F.evtEn b) k then
    s.pushOcc (evBase b + k) (evInst b) (s.bitOf (F.evtRouteHost b) k) (s.bitOf (F.evtRouteSv b) k)
  else s

/-- The vector EVT_MAP gives an event (R337). -/
def State.vecOf (s : State) (e : Nat) : Nat := s.get ⟨A.EVT_MAP (e / 4), 8 * (e % 4), 5⟩

/-- The events pending to host software. -/
def State.hostPending (s : State) : List Nat := (List.range 256).filter (fun e => s.bitOf (F.EVT_HPEND (e / 32)) (e % 32))

/-- Whether vector `v` is asserted (R337). -/
def State.asserted (s : State) (v : Nat) : Bool := s.hostPending.any (fun e => s.vecOf e = v)

/-- Vector `v`'s message leaves, or sets its pending bit while masked (R28). PRESUMED, log 6. DESIGN CHOICE, log 171. -/
def State.msixSend (s : State) (v : Nat) : State :=
  if s.host.funcMask || s.on (F.HOST_MSIX_VCTRL v) then s.setBitOf (F.HOST_MSIX_PBA (v / 32)) (v % 32)
  else
    let s := s.emit (.msix v (s.get (F.HOST_MSIX_ADDR_LO v) + 2 ^ 32 * s.get (F.HOST_MSIX_ADDR_HI v)) (s.get (F.HOST_MSIX_DATA v)))
    { s with evt := { s.evt with lastMsg := KMap.set (fun _ => none) s.evt.lastMsg v (some s.now) } }

/-- The end of vector `v`'s holdoff, if a message has been sent (R337). -/
def State.holdoffEnd (s : State) (v : Nat) : Nat :=
  match KMap.get (fun _ => none) s.evt.lastMsg v with
  | none => 0
  | some t => t + s.get F.EVT_CTRL_HOLDOFF_US * us

/-- A message of vector `v` falls due: sent at once, or at the end of its holdoff (R337). -/
def State.msixDue (s : State) (v : Nat) : State :=
  if s.now < s.holdoffEnd v then
    { s with evt := { s.evt with due := if s.evt.due.contains v then s.evt.due else s.evt.due ++ [v] } }
  else s.msixSend v

/-- Messages of the vectors asserted in `s` that were not asserted in `before` (R337). -/
def State.msixEdges (before s : State) : State :=
  (List.range 32).foldl (fun t v => if s.asserted v && !before.asserted v then t.msixDue v else t) s

/-! ### The fault collector (R328–R331) -/

/-- The code a master has in a capture record (R329). -/
def masterCode : Master → Nat
  | .host => 0
  | .supervisor => 1
  | .remote => 2

/-- Error codes of R328 with their class. -/
inductive Err where
  | unmapped | sizeErr | lockedWr | aliasGrd | guardFail | engineUe | ce | fabricTimeout | fabricParity | brokenLine | tableUe
  | bufferUe | nvUe
  deriving DecidableEq, Repr

/-- CODE of an error (R328). -/
def Err.code : Err → Nat
  | .unmapped => 1
  | .sizeErr => 2
  | .lockedWr => 3
  | .aliasGrd => 4
  | .guardFail => 5
  | .engineUe => 6
  | .ce => 7
  | .fabricTimeout => 8
  | .fabricParity => 9
  | .brokenLine => 10
  | .tableUe => 11
  | .bufferUe => 12
  | .nvUe => 13

/-- Class of an error (R328). -/
def Err.cls : Err → Nat
  | .engineUe => 2
  | .ce => 7
  | .fabricTimeout => 1
  | .fabricParity => 1
  | .brokenLine => 6
  | .tableUe => 3
  | .bufferUe => 4
  | .nvUe => 5
  | _ => 0

/-- N of class `c`, 0 acting as 1 (R331). -/
def State.fltN (s : State) (c : Nat) : Nat :=
  let v := s.get ⟨A.FLT_CLASS0 + 4 * c, 24, 8⟩
  if v = 0 then 1 else v

/-- W of class `c` in ms, 0 acting as 1 (R331). -/
def State.fltW (s : State) (c : Nat) : Nat :=
  let v := s.get ⟨A.FLT_CLASS0 + 4 * c, 8, 16⟩
  if v = 0 then 1 else v

/-- An error of class `c` is counted and, while the class is not lasting, judged (R331). -/
def State.fltCount (s : State) (c : Nat) : State :=
  let s := s.cnt (F.FLT_COUNT c)
  if s.bitOf F.FLT_LASTING c then s
  else
    let ts := (s.now :: KMap.get (fun _ => []) s.flt.times c).take 255
    let s := { s with flt := { s.flt with times := KMap.set (fun _ => []) s.flt.times c ts } }
    if s.fltN c ≤ ts.length && decide (s.now ≤ ts.getD (s.fltN c - 1) 0 + s.fltW c * ms) then (s.setBitOf F.FLT_LASTING c).raise Base.FLT 1
    else s

/-- The record of the first error is `x` (R329). -/
def State.fltRecord (s : State) (x : FltErr) : State :=
  let s := { s with flt := { s.flt with capAt := some s.cycleNo, probeBad := false } }
  let s := (s.put F.FLT_STAT_CAP_VALID 1).setReg A.FLT_FIRST_ADDR (BitVec.ofNat 32 x.addr)
  let s := (((s.put F.FLT_FIRST_INFO_VALID 1).put F.FLT_FIRST_INFO_CODE x.code).put F.FLT_FIRST_INFO_MASTER x.master).put
    F.FLT_FIRST_INFO_ACCESS x.access
  (s.put (F.FLT_FIRST_CTB 0) (x.ctb % 2 ^ 32)).put (F.FLT_FIRST_CTB 1) (x.ctb / 2 ^ 32)

/-- The errors other than CEs detected in the fabric cycle in progress. -/
def State.fltRecent (s : State) : List FltErr := if s.flt.recent.1 = s.cycleNo then s.flt.recent.2 else []

/-- The record held was captured in the fabric cycle in progress. -/
def State.fltFresh (s : State) : Bool := s.on F.FLT_STAT_CAP_VALID && s.flt.capAt = some s.cycleNo

/-- The first error is captured, or counted in FLT_MORE while one is held; of two detected in one fabric cycle with none held, the record
is that of the lower MASTER number (R329). -/
def State.fltCapture (s : State) (e : Err) (master access addr : Nat) : State :=
  let x : FltErr := ⟨e.code, master, access, addr, s.ctb⟩
  let s := { s with flt := { s.flt with recent := (s.cycleNo, s.fltRecent ++ [x]) } }
  if !s.on F.FLT_STAT_CAP_VALID then (s.fltRecord x).raise Base.FLT 0
  else
    let s := s.cnt F.FLT_MORE
    if s.fltFresh && decide (master < s.get F.FLT_FIRST_INFO_MASTER) then s.fltRecord x else s

/-- Of errors detected in one fabric cycle, the one to be captured: the first of the lowest MASTER number (R329). DEDUCED, log 118. -/
def firstErr : List FltErr → Option FltErr
  | [] => none
  | x :: t => match firstErr t with
    | none => some x
    | some y => some (if y.master < x.master then y else x)

/-- The fault collector receives an error (R328–R331, R342). -/
def State.err (s : State) (e : Err) (master access addr : Nat) : State :=
  let s := s.fltCount e.cls
  match e with
  | .ce => s.cnt F.FLT_CE
  | .engineUe | .tableUe | .bufferUe | .nvUe => ((s.fltCapture e master access addr).put F.FLT_FAULT_STAT_UE 1).raise Base.FLT 3
  | .fabricTimeout | .fabricParity => ((s.fltCapture e master access addr).put F.FLT_FAULT_STAT_FABRIC 1).raise Base.FLT 4
  | _ => s.fltCapture e master access addr

/-- A write has been refused, or dropped under a rule that sets a fault bit (R240). -/
def State.noteDrop (s : State) : State := { s with wrDrop := true }

/-- A common fault bit of the block at base `b` is set: ACCESS_ERR counts, ACCESS_FAULT occurs and the collector receives the
error (R15–R17, R19, R20). -/
def State.accessFault (s : State) (b : Nat) (e : Err) (master access addr : Nat) : State :=
  let f := match e with
    | .sizeErr => F.sizeErr b
    | .lockedWr => F.lockedWr b
    | .aliasGrd => F.aliasGrd b
    | _ => F.guardFail b
  ((((s.put f 1).cnt (F.accessErr b)).raise Base.SYS 0).err e master access addr).noteDrop

/-! ### Result registers and result FIFOs (R22, R23, R401) -/

/-- The result register whose first dword is at `a`. -/
def State.res (s : State) (a : Nat) : Res := KMap.get (fun _ => {}) s.results a

/-- A result register replaced. -/
def State.setRes (s : State) (a : Nat) (r : Res) : State := { s with results := KMap.set (fun _ => {}) s.results a r }

/-- A run starts: reads carry STALE until it completes (R22). -/
def State.startRes (s : State) (a : Nat) : State := s.setRes a { s.res a with busy := true }

/-- A run ends without a result. -/
def State.stopRes (s : State) (a : Nat) : State := s.setRes a { s.res a with busy := false }

/-- A result completes: SEQ rises by 1 modulo 256 and the result is fresh (R22). -/
def State.complete (s : State) (a v : Nat) : State := s.setRes a ⟨v, ((s.res a).seq + 1) % 256, true, false⟩

/-- The entries of a result FIFO. -/
def State.fifo (s : State) (a : Nat) : List (Nat × Nat) := KMap.get (fun _ => []) s.fifos a

/-- The entries of a result FIFO replaced. -/
def State.setFifo (s : State) (a : Nat) (l : List (Nat × Nat)) : State := { s with fifos := KMap.set (fun _ => []) s.fifos a l }

/-- Entries of the FIFO at `a` that were stored in the fabric cycle in progress: a pop in this cycle does not take them (R401). -/
def State.fifoNew (s : State) (a : Nat) : Nat :=
  let n := KMap.get (fun _ => (0, 0)) s.fifoIn a
  if n.1 = s.cycleNo then n.2 else 0

/-- Whether a pop in the fabric cycle in progress finds the FIFO at `a` empty (R401). -/
def State.fifoEmpty (s : State) (a : Nat) : Bool := (s.fifo a).length ≤ s.fifoNew a

/-- A result is stored at the tail of a FIFO, with the next SEQ. -/
def State.storeFifo (s : State) (a v : Nat) : State :=
  let q := ((s.res a).seq + 1) % 256
  let t := (s.setFifo a (s.fifo a ++ [(v, q)])).setRes a { s.res a with seq := q }
  { t with fifoIn := KMap.set (fun _ => (0, 0)) t.fifoIn a (s.cycleNo, s.fifoNew a + 1) }

/-- A full FIFO is about to drop a result, by which the fields `fs` and RAW bit `k` of the block at `b` move: what it is and how they stand
are kept for a pop in the same fabric cycle (R401). -/
def State.spill (s : State) (a v ts : Nat) (data : List Word) (fs : List Fld) (b k : Nat) : State :=
  { s with spills := s.spills.filter (fun p => p.cycle = s.cycleNo) ++
      [⟨a, s.cycleNo, v, ts, data, (⟨(F.evtRaw b).reg, (F.evtRaw b).lo + k, 1⟩ :: fs).map (fun f => (f, s.get f)), evBase b + k⟩] }

/-- Occurrences with the last one of event `e` in fabric cycle `c` taken out. -/
def unOccur (e c : Nat) (l : List Occ) : List Occ :=
  (l.reverse.eraseP (fun o => o.event = e && o.time / cyc = c)).reverse

/-- What a drop moved in a field that stood at `m.2` is taken back: a counter's step, and a flag that no other drop of the cycle, in `rest`,
has set as well (R401). -/
def State.unmark (s : State) (rest : List Spill) (m : Fld × Nat) : State :=
  if m.1.len = 1 then (if rest.any (fun q => q.marks.any (fun x => x.1 = m.1)) then s else s.put m.1 m.2)
  else if m.2 < 2 ^ m.1.len - 1 then s.put m.1 (s.get m.1 - 1)
  else s

/-- A drop of the same fabric cycle as it stands once the drop `p` before it is taken back: a flag it found set by `p` alone was clear. -/
def Spill.without (p q : Spill) : Spill :=
  { q with marks := q.marks.map (fun x => match p.marks.find? (fun y => y.1 = x.1 && y.1.len = 1) with
      | some y => (x.1, min x.2 y.2)
      | none => x) }

/-- The result that the FIFO at `a` dropped in the fabric cycle in progress, and the state without its drop (R401). -/
def State.unspill (s : State) (a : Nat) : Option (Spill × State) :=
  (s.spills.find? (fun p => p.fifo = a && p.cycle = s.cycleNo)).map (fun p =>
    let rest := (s.spills.erase p).map p.without
    let t := p.marks.foldl (fun (t : State) m => t.unmark (rest.filter (fun q => q.cycle = p.cycle)) m) { s with spills := rest }
    (p, { t with evt := { t.evt with pipe := unOccur p.event p.cycle t.evt.pipe } }))

/-- Whether the module answers a master's accesses: none in module reset, and not the host's while the endpoint is in D3hot (R25, R389).
DEDUCED, log 128. -/
def State.answers (s : State) (m : Master) : Bool := !s.rst.asserted && !(m = .host && s.host.d3hot)

/-! ### The calendar and the retained log (R223, R227) -/

/-- Units of `RtcSt.calF` in one subsecond of 1/32,768 s. -/
def subUnit : Nat := 500000000000000000

/-- Calendar seconds (R223). -/
def State.calSec (s : State) : Nat := (s.rtc.calF / (subUnit * 32768)) % 2 ^ 48

/-- Calendar subseconds (R223). -/
def State.calSub (s : State) : Nat := (s.rtc.calF / subUnit) % 32768

/-- Dword 1 of the calendar layout: seconds [47:32] and subseconds (R227). -/
def State.calHi (s : State) : Nat := s.calSec / 2 ^ 32 + s.calSub * 2 ^ 16

/-- A record of type `typ` enters the retained log; the source and the type-specific data are free values (R227, log 11). -/
def State.rtcRecord (s : State) (typ : Nat) : State :=
  if !s.rtc.running then s
  else
    let src := s.free 8
    let t := s.drew
    let data := t.free 32
    let t := t.drew
    let rec16 := s.calSec % 2 ^ 32 + 2 ^ 32 * (s.calHi + 2 ^ 31 * s.get F.RTC_STAT_CAL_VALID) +
      2 ^ 64 * (typ + 2 ^ 8 * src + 2 ^ 16 * (s.rtc.written % 2 ^ 16)) + 2 ^ 96 * data
    let head := s.get F.RTC_LOG_IDX_HEAD
    let t := { t with rtc := { t.rtc with log := KMap.set (fun _ => 0) t.rtc.log head rec16, written := t.rtc.written + 1 } }
    t.put F.RTC_LOG_IDX_HEAD ((head + 1) % 256)

/-! ### Memory bytes (R14) -/

/-- What an unlisted byte of the BAR0 memories reads as: in a stall record the reset values of STALL_CFG (0x0020_013F) and LK_CFG
(0x0103_E808), elsewhere 0, which the stall table states and which is the model's choice for the engine and paddock RAMs (R53,
R89, log 17). -/
def memDefault (a : Nat) : Byte :=
  if 0x800000 ≤ a ∧ a < 0x8C0000 then
    match a % 0x1000 with
    | 0x000 => 0x3F#8
    | 0x001 => 0x01#8
    | 0x002 => 0x20#8
    | 0x424 => 0x08#8
    | 0x425 => 0xE8#8
    | 0x426 => 0x03#8
    | 0x427 => 0x01#8
    | _ => 0#8
  else 0#8

/-- A byte of a BAR0 memory. -/
def State.byte (s : State) (a : Nat) : Byte := KMap.get memDefault s.mem a

/-- A byte of a BAR0 memory replaced. -/
def State.setByte (s : State) (a : Nat) (b : Byte) : State := { s with mem := KMap.set memDefault s.mem a b }

/-- `n` bytes of memory from address `a` as a little-endian number. -/
def State.load (s : State) (a n : Nat) : Nat := ofBytesLE ((List.range n).map (fun i => s.byte (a + i)))

/-- The low bytes of a number stored from address `a`, little-endian. -/
def State.storeBytes (s : State) (a : Nat) : List Byte → State
  | [] => s
  | b :: t => (s.setByte a b).storeBytes (a + 1) t

/-- A number of `n` bytes stored from address `a`, little-endian. -/
def State.store (s : State) (a n v : Nat) : State := s.storeBytes a (bytesLE n v)

end Sys2Proof.Machine
end

