-- ==== Sys2Proof/Machine/Power.lean ====
section
/-! DEFINITION. Mains feeds, regulator groups, gate-power loops, the freeze and telemetry (R276–R287). -/

namespace Sys2Proof.Machine

open Sys2Proof

/-! ### Access to groups and loops -/

/-- A group's state beyond its registers. -/
def State.grp (s : State) (g : Nat) : GrpSt := if g = 0 then s.aux.grpA else s.aux.grpB

/-- A group's state replaced. -/
def State.setGrp (s : State) (g : Nat) (x : GrpSt) : State :=
  if g = 0 then { s with aux := { s.aux with grpA := x } } else { s with aux := { s.aux with grpB := x } }

/-- A loop's state beyond its registers. -/
def State.loop (s : State) (x : Nat) : LoopSt := if x = 0 then s.aux.loopA else s.aux.loopB

/-- A loop's state replaced. -/
def State.setLoop (s : State) (x : Nat) (l : LoopSt) : State :=
  if x = 0 then { s with aux := { s.aux with loopA := l } } else { s with aux := { s.aux with loopB := l } }

/-- A half-bridge's state beyond its register. -/
def State.hbs (s : State) (h : Nat) : HbSt := KMap.get (fun _ => {}) s.hb h

/-- A half-bridge's state replaced. -/
def State.setHb (s : State) (h : Nat) (x : HbSt) : State := { s with hb := KMap.set (fun _ => {}) s.hb h x }

/-- Codes of GRP_STAT.STATE. -/
abbrev grpOff : Nat := 0
abbrev grpSoft : Nat := 1
abbrev grpRun : Nat := 2
abbrev grpHiccup : Nat := 3
abbrev grpLatched : Nat := 4

/-- Codes of LOOP_STAT.STATE. -/
abbrev loopOff : Nat := 0
abbrev loopWait : Nat := 1
abbrev loopRun : Nat := 2
abbrev loopRetry : Nat := 3
abbrev loopLatched : Nat := 4

/-- SS_MS as it acts (R281). -/
def State.ssMs (s : State) (g : Nat) : Nat := clampN 1 50 (s.get (F.AUX_GRP_CFG_SS_MS g))

/-- HIC_MS as it acts. -/
def State.hicMs (s : State) (g : Nat) : Nat := clampN 5 200 (s.get (F.AUX_GRP_CFG_HIC_MS g))

/-- VOUT_MAX as it acts, 0.2 V. -/
def State.voutMax (s : State) (g : Nat) : Nat := clampN 100 240 (s.get (F.AUX_GRP_CFG_VOUT_MAX g))

/-- VOUT_MIN as it acts, 0.2 V. -/
def State.voutMin (s : State) (g : Nat) : Nat := min (s.voutMax g) (clampN 100 240 (s.get (F.AUX_GRP_CFG_VOUT_MIN g)))

/-- ILOOP_SET as it acts, 10 mA. -/
def State.iloopSet (s : State) (x : Nat) : Nat := min 4000 (s.get (F.AUX_LOOP_CFG_ILOOP_SET x))

/-! ### Reference instants (R280) -/

/-- Changes of a group wait for its next reference instant, which the CTB has not reached (R280). -/
def State.refWait (s : State) (g : Nat) : Bool :=
  decide (s.ctb < (s.grp g).refCtb) && decide ((s.grp g).refCtb ≤ s.ctb + 12500)

/-- AUX_SYNC as it acts on a group and its loop (R280). -/
def State.syncWord (s : State) (g : Nat) : Word := if s.refWait g then (s.grp g).sync0 else s.reg A.AUX_SYNC

/-- AUX_PHASE as it acts on a group and its loop (R280). -/
def State.phaseWord (s : State) (g : Nat) : Word := if s.refWait g then (s.grp g).phase0 else s.reg A.AUX_PHASE

/-- SW_TICKS as it acts (R280). -/
def State.swTicks (s : State) (g : Nat) : Nat := clampN 8000 12500 (F.AUX_SYNC_SW_TICKS.read (s.syncWord g))

/-- LOOP_TICKS as it acts (R284). -/
def State.loopTicks (s : State) (x : Nat) : Nat := clampN 33334 62500 (F.AUX_SYNC_LOOP_TICKS.read (s.syncWord x))

/-- The first reference instant of a group, modulo SW_TICKS (R280). -/
def State.refOff (s : State) (g : Nat) : Nat := if g = 0 then 0 else F.AUX_PHASE_GRPB_PH.read (s.phaseWord g) % s.swTicks g

/-- The CTB of a group's next reference instant (R280). -/
def State.nextRef (s : State) (g : Nat) : Nat :=
  s.refOff g + s.swTicks g * ((s.ctb + s.swTicks g - s.refOff g) / s.swTicks g)

/-- The phases of a group that switch (R279, R283). -/
def State.phActive (s : State) (g : Nat) : Nat :=
  s.get (F.AUX_GRP_STAT_PH_ACTIVE g) ||| (if s.refWait g then 0 else (s.grp g).join)

/-- SYNC_LOCK of a group (R280). -/
def State.syncLock (s : State) (g : Nat) : Bool := s.on (F.AUX_GRP_STAT_SYNC_LOCK g) && (s.refWait g || !(s.grp g).relocks)

/-- The phases a group's targets are spaced over (R280, R282). -/
def State.spaced (s : State) (g : Nat) : Nat := if s.refWait g then (s.grp g).space0 else s.phActive g

/-- The changes whose reference instant has come are settled in the group's state. -/
def State.refSettle (s : State) (g : Nat) : State :=
  if s.refWait g then s
  else
    let x := s.grp g
    let t := (s.put (F.AUX_GRP_STAT_PH_ACTIVE g) (s.phActive g)).put (F.AUX_GRP_STAT_SYNC_LOCK g) (b2n (s.syncLock g))
    t.setGrp g { x with join := 0, senseJoin := 0, relocks := false, syncGood := if x.relocks then 0 else x.syncGood,
                        syncBad := if x.relocks then 0 else x.syncBad }

/-- A change of a group is to act at its next reference instant: until then what acts now goes on acting (R280, R282, R283). -/
def State.refAsk (s : State) (g : Nat) : State :=
  if s.refWait g then s
  else
    let t := s.refSettle g
    t.setGrp g { t.grp g with refCtb := s.nextRef g, sync0 := s.reg A.AUX_SYNC, phase0 := s.reg A.AUX_PHASE, space0 := s.phActive g }

/-- VSET exceeds 0.94 × VIN: a running group holds every upper switch on (R279). -/
def State.dropout (s : State) (g : Nat) : Bool :=
  s.get (F.AUX_GRP_STAT_STATE g) = grpRun && decide (94 * s.aux.busMv < 1000 * s.get (F.AUX_GRP_STAT_VSET g))

/-- The sense of phase `j` is lost, or counts again only from the next reference instant (R282, R283). -/
def State.senseLost (s : State) (g j : Nat) : Bool :=
  s.bitOf (F.AUX_GRP_FAULT_SENSE_LOST g) j || (s.refWait g && (s.grp g).senseJoin.testBit j)

/-- The lower switch of a phase is on at `t`, after its last pulse (R279, R281). -/
def Pulse.lowAt (p : Pulse) (t : Nat) : Bool :=
  decide (p.at0 + p.len + 75 ≤ t) &&
    match p.low with
    | none => true
    | some n => decide (t < p.at0 + p.len + 75 + n)

/-- The upper switch of a phase is on at `t`, in its last pulse or in the one before (R279). -/
def Pulse.highAt (p : Pulse) (t : Nat) : Bool := decide (t < p.tail) || (decide (p.at0 ≤ t) && decide (t < p.at0 + p.len))

/-- The switches of phase `j` that are on now: upper and lower (R279). -/
def State.phaseOn (s : State) (g j : Nat) : Bool × Bool :=
  if !(s.phActive g).testBit j then (false, false)
  else if s.dropout g then (true, false)
  else
    match (s.grp g).pulse.getD j none with
    | none => (false, false)
    | some p => (p.highAt s.now, p.lowAt s.now)

/-- Phases 0–2 of which `f` holds, as a mask. -/
def phaseMask (f : Nat → Bool) : Nat := (List.range 3).foldl (fun m j => if f j then setBit m j else m) 0

/-- From `was` to `s` DROPOUT of a group may begin or end: which switches were on is kept, so that the other of a phase turns on 15 ns later
(R279, R289). -/
def State.dropNote (s : State) (was : State) (g : Nat) : State :=
  if was.dropout g = s.dropout g then s
  else
    s.setGrp g { s.grp g with
      flipAt := s.now, flipHi := phaseMask (fun j => (was.phaseOn g j).1), flipLo := phaseMask (fun j => (was.phaseOn g j).2) }

/-- VSET of a group, in 10 mV, takes a new value. -/
def State.setVset (s : State) (g v : Nat) : State := (s.put (F.AUX_GRP_STAT_VSET g) v).dropNote s g

/-- What AUX_GRPg_STAT reads as: its fields that follow the time and the input are computed at the read. -/
def State.grpStat (s : State) (g : Nat) : Word :=
  (F.AUX_GRP_STAT_DROPOUT g).write
    ((F.AUX_GRP_STAT_SYNC_LOCK g).write ((F.AUX_GRP_STAT_PH_ACTIVE g).write (s.reg (A.AUX_GRP_STAT g)) (s.phActive g)) (b2n (s.syncLock g)))
    (b2n (s.dropout g))

/-! ### Loops (R284, R285) -/

/-- A loop that waits for its group runs once the group does. -/
def State.loopJoin (s : State) (x : Nat) : State :=
  if s.get (F.AUX_LOOP_STAT_STATE x) = loopWait && s.get (F.AUX_GRP_STAT_STATE x) = grpRun then
    s.put (F.AUX_LOOP_STAT_STATE x) loopRun
  else s

/-- A stopped inverter's fault conditions are no longer timed (R285). -/
def State.unwatch (s : State) (x : Nat) : State := s.setLoop x { s.loop x with openSince := none, overSince := none }

/-- A running loop stops and waits when its group leaves RUN. -/
def State.loopDrop (s : State) (x : Nat) : State :=
  if s.get (F.AUX_LOOP_STAT_STATE x) = loopRun then (s.unwatch x).put (F.AUX_LOOP_STAT_STATE x) loopWait else s

/-- A loop latches: inverter off, no retry (R285). -/
def State.loopLatch (s : State) (x : Nat) : State :=
  if s.get (F.AUX_LOOP_STAT_STATE x) = loopLatched then s
  else
    ((((s.unwatch x).put (F.AUX_LOOP_FAULT_LATCH x) 1).cnt F.AUX_LOOP_FAULTS).raise Base.AUX 6).put (F.AUX_LOOP_STAT_STATE x) loopLatched

/-- An OPEN (`tooHigh` = false) or OVER fault of a loop; OPEN holds the group at VOUT_MIN, and the third fault within 60 s latches (R285). -/
def State.loopFault (s : State) (x : Nat) (tooHigh : Bool) : State :=
  let s := s.put (if tooHigh then F.AUX_LOOP_FAULT_OVER x else F.AUX_LOOP_FAULT_OPEN x) 1
  let s := (s.cnt F.AUX_LOOP_FAULTS).raise Base.AUX 6
  let s := if !tooHigh && s.get (F.AUX_GRP_STAT_STATE x) = grpRun then s.setVset x (20 * s.voutMin x) else s
  let l := s.loop x
  let ts := (s.now :: l.faults).filter (fun t => s.now ≤ t + 60 * sec)
  let s := s.setLoop x { l with faults := ts, retryAt := s.now, openSince := none, overSince := none }
  if 3 ≤ ts.length then s.loopLatch x else s.put (F.AUX_LOOP_STAT_STATE x) loopRetry

/-! ### Groups (R281–R283) -/

/-- The phases of a group not declared OPEN (R281, R282). -/
def State.goodPhases (s : State) (g : Nat) : Nat :=
  (List.range 3).foldl
    (fun m j => if s.bitOf (F.AUX_GRP_FAULT_OPEN g) j then m else setBit m j) 0

/-- Phases of the mask `m` whose bootstrap stands below 9.0 V (R291). -/
def State.lowBst (s : State) (g m : Nat) : Nat :=
  (bitIndices 3 m).foldl (fun n j => if (s.hbs (3 * g + j)).bstMv < 9000 then setBit n j else n) 0

/-- A group starts softly: charge pulses every 2 µs on the good phases whose bootstrap is low, a free number up to 50; then the ramp from
the measured output, every good phase in diode emulation (R281, R291). DESIGN CHOICE, log 186. -/
def State.startSoft (s : State) (g : Nat) : State :=
  let x := s.grp g
  let m := s.goodPhases g
  let low := s.lowBst g m
  let n := if low = 0 then 0 else 1 + s.free 16 % 50
  let s := s.drew.setGrp g { x with ssAt := s.now + n * (2 * us), ramp0 := 10 * x.vout, syncGood := 0, syncBad := 0, turn := 0,
                                    withheld := false, pulse := [none, none, none], join := 0, relocks := false, chg := low, chgAt := s.now }
  (s.put (F.AUX_GRP_STAT_PH_ACTIVE g) m).put (F.AUX_GRP_STAT_STATE g) grpSoft

/-- The phases of a group are switched off. -/
def State.phasesOff (s : State) (g : Nat) : State :=
  let s := ((s.put (F.AUX_GRP_STAT_PH_ACTIVE g) 0).put (F.AUX_GRP_STAT_SYNC_LOCK g) 0).put (F.AUX_GRP_STAT_ILIM g) 0
  (s.setGrp g { s.grp g with join := 0, relocks := false, withheld := false, pulse := [none, none, none] }).loopDrop g

/-- A group goes OFF: phases off, nothing counted (R281). -/
def State.groupOff (s : State) (g : Nat) : State := (s.phasesOff g).put (F.AUX_GRP_STAT_STATE g) grpOff

/-- A group latches; its loop latches with it (R281, R285). -/
def State.groupLatch (s : State) (g : Nat) : State :=
  let s := (s.phasesOff g).put (F.AUX_GRP_FAULT_LATCH g) 1
  ((s.put (F.AUX_GRP_STAT_STATE g) grpLatched).raise Base.AUX 3).loopLatch g

/-- HIC_N of a group, 0 acting as 1. -/
def State.hicN (s : State) (g : Nat) : Nat := s.getOr (F.AUX_GRP_LIM_HIC_N g) 1

/-- The hiccups of a group in the last HIC_W s (R281). -/
def State.recentHiccups (s : State) (g : Nat) : List Nat :=
  (s.grp g).hiccups.filter (fun t => s.now ≤ t + s.getOr (F.AUX_GRP_LIM_HIC_W g) 1 * sec)

/-- One hiccup: phases off and counted; the last of HIC_N in HIC_W s latches the group (R281). -/
def State.groupHiccup (s : State) (g : Nat) : State :=
  let s := ((s.phasesOff g).put (F.AUX_GRP_STAT_STATE g) grpHiccup).cnt F.AUX_HICCUP_COUNT
  let x := s.grp g
  let s := (s.setGrp g { x with hicAt := s.now, hiccups := s.now :: x.hiccups }).raise Base.AUX 2
  if s.hicN g ≤ (s.recentHiccups g).length then s.groupLatch g else s

/-- A sense-cell trip, or an output below 80 % of VSET, takes a group to HICCUP: from SOFT_START with SS_SHORT, from RUN with
HICCUP (R281). -/
def State.groupFault (s : State) (g : Nat) : State :=
  if s.get (F.AUX_GRP_STAT_STATE g) = grpSoft then (s.put (F.AUX_GRP_FAULT_SS_SHORT g) 1).groupHiccup g
  else if s.get (F.AUX_GRP_STAT_STATE g) = grpRun then (s.put (F.AUX_GRP_FAULT_HICCUP g) 1).groupHiccup g
  else s

/-- A group left with no active phase that has a working sense latches (R281, R282). -/
def State.groupSenseCheck (s : State) (g : Nat) : State :=
  let sensed := (List.range 3).any
    (fun j => (s.phActive g).testBit j && !s.senseLost g j)
  if s.get (F.AUX_GRP_STAT_STATE g) = grpRun && !sensed then s.groupLatch g else s

/-- A time at most `n` seconds ago. -/
def State.within (s : State) (t : Option Nat) (n : Nat) : Bool :=
  match t with
  | none => false
  | some a => s.now ≤ a + n * sec

/-- A phase is declared OPEN: its switches are held off at once, and the others are spaced anew from the next reference instant (R282); a
declaration within 3,600 s of its re-admission is lasting (R283). -/
def State.declareOpen (s : State) (g j : Nat) : State :=
  let s := s.refAsk g
  let x := s.grp g
  let lasting := s.within (x.openReadmit.getD j none) 3600
  let s := s.setGrp g { x with openCnt := setAt x.openCnt j 0, senseCnt := setAt x.senseCnt j 0, join := clearBit x.join j,
                               openLasting := if lasting then setBit x.openLasting j else x.openLasting }
  ((((s.clrBitOf (F.AUX_GRP_STAT_PH_ACTIVE g) j).setBitOf (F.AUX_GRP_FAULT_OPEN g) j)).raise Base.AUX 4).groupSenseCheck g

/-- A phase is declared SENSE_LOST (R282, R283). -/
def State.declareSense (s : State) (g j : Nat) : State :=
  let x := s.grp g
  let lasting := s.within (x.senseReadmit.getD j none) 3600
  let s := s.setGrp g { x with openCnt := setAt x.openCnt j 0, senseCnt := setAt x.senseCnt j 0,
                               senseLasting := if lasting then setBit x.senseLasting j else x.senseLasting }
  ((s.setBitOf (F.AUX_GRP_FAULT_SENSE_LOST g) j).raise Base.AUX 5).groupSenseCheck g

/-! ### Commits and the freeze (R286) -/

/-- A committed AUX_GRPg_CFG takes effect: in RUN its limits hold VSET at once (R281, R283, R284). DEDUCED, log 187. -/
def State.grpApply (s : State) (g : Nat) (v : Word) : State :=
  let s := s.setReg (A.AUX_GRP_CFG g) v
  if s.on (F.AUX_GRP_CFG_EN g) then
    if s.get (F.AUX_GRP_STAT_STATE g) = grpOff then (if 44000 ≤ s.aux.busMv then s.startSoft g else s)
    else if s.get (F.AUX_GRP_STAT_STATE g) = grpRun then
      s.setVset g
        (if s.on (F.AUX_LOOP_CFG_EN g) then clampN (20 * s.voutMin g) (20 * s.voutMax g) (s.get (F.AUX_GRP_STAT_VSET g)) else 20 * s.voutMin g)
    else s
  else
    let x := s.grp g
    let s := s.setGrp g { x with openLasting := 0, senseLasting := 0 }
    if s.get (F.AUX_GRP_STAT_STATE g) = grpOff then s else s.groupOff g

/-- A loop with EN = 0 holds its group at VOUT_MIN (R284). -/
def State.groupMin (s : State) (x : Nat) : State :=
  if s.get (F.AUX_GRP_STAT_STATE x) = grpRun then s.setVset x (20 * s.voutMin x) else s

/-- A committed AUX_LOOPx_CFG takes effect: EN starts the loop, or stops it and holds its group at VOUT_MIN (R284). -/
def State.loopApply (s : State) (x : Nat) (v : Word) : State :=
  let s := s.setReg (A.AUX_LOOP_CFG x) v
  if s.on (F.AUX_LOOP_CFG_EN x) then
    if s.get (F.AUX_LOOP_STAT_STATE x) = loopOff then (s.put (F.AUX_LOOP_STAT_STATE x) loopWait).loopJoin x else s
  else
    let s := if s.get (F.AUX_LOOP_STAT_STATE x) = loopLatched then s else (s.unwatch x).put (F.AUX_LOOP_STAT_STATE x) loopOff
    s.groupMin x

/-- A group relocks to its reference instants after a loss of the clock (R286). -/
def State.relock (s : State) (g : Nat) : State :=
  (s.setGrp g { s.grp g with syncGood := 0, syncBad := 0, relocks := false }).put (F.AUX_GRP_STAT_SYNC_LOCK g) 0

/-- A write to AUX_SYNC or AUX_PHASE: each group follows it from its next reference instant, and relocks then (R280). -/
def State.syncApply (s : State) (a : Nat) (v : Word) : State :=
  let s := ((s.refAsk 0).refAsk 1).setReg a v
  let s := s.setGrp 0 { s.grp 0 with relocks := true }
  s.setGrp 1 { s.grp 1 with relocks := true }

/-- A write the freeze held takes effect. -/
def State.auxApply (s : State) (a : Nat) (v : Word) : State :=
  if a = A.AUX_GRP_CFG 0 then s.grpApply 0 v
  else if a = A.AUX_GRP_CFG 1 then s.grpApply 1 v
  else if a = A.AUX_LOOP_CFG 0 then s.loopApply 0 v
  else if a = A.AUX_LOOP_CFG 1 then s.loopApply 1 v
  else if a = A.AUX_SYNC || a = A.AUX_PHASE then s.syncApply a v
  else s.setReg a v

/-- Whether any cause of a freeze holds: a halt request (R302), an engine debug halt, a supervisor debug halt, loss of the fabric
clock (R286). -/
def State.freezeCause (s : State) : Bool :=
  s.on F.SAFE_STAT_HALT_FENCE || s.on F.SAFE_STAT_HALT_SV || s.on F.CME_DBG_STAT_HALTED || s.aux.svDebug || s.time.stopped

/-- Whether a freeze is in force: from its cause on, and so from reset, whose halt requests stand (R286, R302). DEDUCED, log 192. -/
def State.frozen (s : State) : Bool := s.on F.AUX_STAT_FREEZE || s.freezeCause

/-- The registers a write of the power section may change. -/
def auxRegs : List Nat :=
  [A.AUX_SYNC, A.AUX_PHASE] ++ (List.range 2).flatMap
    (fun g => [A.AUX_GRP_CFG g, A.AUX_GRP_LIM g, A.AUX_GRP_STAT g, A.AUX_LOOP_CFG g, A.AUX_LOOP_STAT g])

/-- A write takes effect now; what it found is kept for the fabric cycle (R286). -/
def State.auxNow (s : State) (a : Nat) (v : Word) : State :=
  let fresh : AuxUndo := ⟨s.cycleNo, s.aux.grpA, s.aux.grpB, s.aux.loopA, s.aux.loopB, auxRegs.map (fun r => (r, s.reg r)), []⟩
  let u := match s.aux.undo with
    | some u => if u.cycle = s.cycleNo then u else fresh
    | none => fresh
  { s with aux := { s.aux with undo := some { u with writes := u.writes ++ [(a, v)] } } }.auxApply a v

/-- A committed EN = 0 (R286). -/
def commitsOff (a : Nat) (v : Word) : Bool :=
  !v.toNat.testBit 31 && (a = A.AUX_GRP_CFG 0 || a = A.AUX_GRP_CFG 1 || a = A.AUX_LOOP_CFG 0 || a = A.AUX_LOOP_CFG 1)

/-- A freeze begins: the writes that landed earlier in its fabric cycle are undone and held, but for a committed EN = 0 (R286). -/
def State.auxTakeBack (s : State) : State :=
  match s.aux.undo with
  | none => s
  | some u =>
    if u.cycle ≠ s.cycleNo then s
    else
      let t := u.regs.foldl (fun (t : State) p => t.setReg p.1 p.2)
        { s with aux := { s.aux with grpA := u.grpA, grpB := u.grpB, loopA := u.loopA, loopB := u.loopB, undo := none } }
      u.writes.foldl (fun (t : State) w =>
        if commitsOff w.1 w.2 then t.auxApply w.1 w.2
        else { t with aux := { t.aux with heldWrites := t.aux.heldWrites ++ [w] } }) t

/-- A committed word of AUX: held while frozen, unless it commits EN = 0 (R286). -/
def State.auxCommit (s : State) (a : Nat) (v : Word) : State :=
  if s.frozen && v.toNat.testBit 31 then { s with aux := { s.aux with heldWrites := s.aux.heldWrites ++ [(a, v)] } }
  else s.auxNow a v

/-- A register of AUX as a further write finds it: the last write the freeze holds for it, else the register (R286). -/
def State.heldImage (s : State) (a : Nat) : Word :=
  match s.aux.heldWrites.reverse.find? (fun w => w.1 = a) with
  | some w => w.2
  | none => s.reg a

/-- A write to AUX_SYNC, AUX_PHASE or AUX_GRPg_LIM: held while frozen (R286). -/
def State.auxWrite (s : State) (a : Nat) (v : Word) : State :=
  if s.frozen then { s with aux := { s.aux with heldWrites := s.aux.heldWrites ++ [(a, v)] } } else s.auxNow a v

/-- The held writes take effect in arrival order. -/
def State.applyHeld (s : State) : State :=
  s.aux.heldWrites.foldl (fun t w => t.auxApply w.1 w.2) { s with aux := { s.aux with heldWrites := [] } }

/-- The freeze begins or ends with its causes (R286). -/
def State.updateFreeze (s : State) : State :=
  if s.freezeCause && !s.on F.AUX_STAT_FREEZE then ((s.auxTakeBack.put F.AUX_STAT_FREEZE 1).cnt F.AUX_FREEZE_COUNT).raise Base.AUX 7
  else if !s.freezeCause && s.on F.AUX_STAT_FREEZE then ((s.put F.AUX_STAT_FREEZE 0).applyHeld).raise Base.AUX 7
  else s

/-! ### Feeds and hold-up (R276–R278) -/

/-- The state a judgement shows: 0 ABSENT, 1 LOW, 2 FULL, 3 OVER; between the bands the previous state `old` (R276). -/
def feedBand (dc : Bool) (v old : Nat) : Nat :=
  if dc then
    if v < 1000 then 0 else if 1200 ≤ v ∧ v < 2500 then 1 else if 2500 ≤ v ∧ v ≤ 3700 then 2 else if 3850 < v then 3 else old
  else
    if v < 700 then 0 else if 850 ≤ v ∧ v < 1800 then 1 else if 1800 ≤ v ∧ v ≤ 2650 then 2 else if 2750 < v then 3 else old

/-- The STAT field of feed X2 (0) or X3 (1). -/
def feedFld (feed : Nat) : Fld := if feed = 0 then F.AUX_STAT_FEED2 else F.AUX_STAT_FEED3

/-- P_LIM in W by the states of the feeds, none in hold-up (R277). -/
def pLim (f2 f3 : Nat) : Option Nat :=
  if f2 = 2 ∨ f3 = 2 then some 1200
  else if f2 = 1 ∧ f3 = 1 then some 1200
  else if f2 = 1 ∨ f3 = 1 then some 700
  else none

/-- P_LIM is judged again; a change raises AUX_DERATE. Entering hold-up sets HOLDUP and MAINS_LOST; the value of P_LIM in hold-up is
a free one (R277, R278, log 12). -/
def State.judgePower (s : State) : State :=
  match pLim (s.get F.AUX_STAT_FEED2) (s.get F.AUX_STAT_FEED3) with
  | some p =>
    let s := if s.on F.AUX_STAT_HOLDUP then (s.put F.AUX_STAT_HOLDUP 0).rtcRecord 4 else s
    if s.get F.AUX_STAT_P_LIM = p then s else (s.put F.AUX_STAT_P_LIM p).raise Base.AUX 1
  | none =>
    if s.on F.AUX_STAT_HOLDUP then s
    else
      let p := s.free 16
      let s := s.drew
      let s := if s.get F.AUX_STAT_P_LIM = p then s else (s.put F.AUX_STAT_P_LIM p).raise Base.AUX 1
      (((s.put F.AUX_STAT_HOLDUP 1).put F.AUX_FAULT_STAT_MAINS_LOST 1).raise Base.AUX 9).rtcRecord 3

/-- A feed changes state (R276). -/
def State.feedChange (s : State) (feed v : Nat) : State :=
  let s := ((s.put (feedFld feed) v).cnt F.AUX_FEED_CHANGES).raise Base.AUX 0
  (if v = 3 then s.put F.AUX_FAULT_STAT_FEED_OVER 1 else s).judgePower

/-- FEED_JUDGE (R276): a feed is judged on `v` tenths of a volt; it changes after two judgements in a row agree. -/
def execFeedJudge (feed : Fin 2) (dc : Bool) (v : Nat) (s : State) : Host.Outcome State Fault Refusal :=
  let i := feed.val
  let old := s.get (feedFld i)
  let s := (s.put (F.AUX_FEED_V i) (min v 65535)).put (F.AUX_FEED_DC i) (b2n dc)
  let new := feedBand dc v old
  let c := s.aux.feedCand.getD i (0, 0)
  let n := if c.1 = new then c.2 + 1 else 1
  let setC := fun (t : State) (p : Nat × Nat) => { t with aux := { t.aux with feedCand := setAt t.aux.feedCand i p } }
  if new = old then .next (setC s (new, 0))
  else if 2 ≤ n then .next ((setC s (new, 0)).feedChange i new)
  else .next (setC s (new, n))

/-- The 54 V bus, the groups' VIN, measured at `mv` (R279, R281). -/
def State.setBus (s : State) (mv : Nat) : State :=
  let t := { s with aux := { s.aux with busMv := mv } }
  (t.dropNote s 0).dropNote s 1

/-- BUS_54V_LOW (R281): the 54 V bus falls below 38 V and both groups go OFF. -/
def execBus54vLow (mv : Nat) (s : State) : Host.Outcome State Fault Refusal :=
  let s := s.setBus mv
  if mv < 38000 then
    .next ((List.range 2).foldl (fun t g => if t.get (F.AUX_GRP_STAT_STATE g) = grpOff then t else t.groupOff g) s)
  else .next s

/-- BUS_54V_RETURN (R281): the 54 V bus is back at 44 V or more, and each group with EN = 1 leaves OFF. -/
def execBus54vReturn (mv : Nat) (s : State) : Host.Outcome State Fault Refusal :=
  let s := s.setBus mv
  if 44000 ≤ mv then
    .next ((List.range 2).foldl
      (fun t g => if t.get (F.AUX_GRP_STAT_STATE g) = grpOff && t.on (F.AUX_GRP_CFG_EN g) then t.startSoft g else t) s)
  else .next s

/-! ### Group commands -/

/-- GROUP_ENABLE (R281): a committed AUX_GRPg_CFG. -/
def execGroupEnable (g : Fin 2) (v : Word) (s : State) : Host.Outcome State Fault Refusal :=
  .next (s.auxCommit (A.AUX_GRP_CFG g.val) v)

/-- Root ticks the ramp needs from its first value to VOUT_MIN, rising by VOUT_MIN / SS_MS per ms (R281). -/
def State.rampTicks (s : State) (g : Nat) : Nat :=
  let vmin := 200 * s.voutMin g
  ((vmin - (s.grp g).ramp0) * s.ssMs g * ms + vmin - 1) / vmin

/-- The bootstraps a soft start charged stand at 9.0 V or above (R291). -/
def State.charged (s : State) (g : Nat) : State :=
  (bitIndices 3 (s.grp g).chg).foldl
    (fun t j => t.setHb (3 * g + j) { t.hbs (3 * g + j) with bstMv := max 9000 (t.hbs (3 * g + j)).bstMv }) s

/-- SOFT_START_COMPLETE (R281): the ramp, held for `holdTicks` in all, reaches VOUT_MIN. -/
def execSoftStartComplete (g : Fin 2) (holdTicks : Nat) (s : State) : Host.Outcome State Fault Refusal :=
  let i := g.val
  if s.get (F.AUX_GRP_STAT_STATE i) = grpSoft && holdTicks < s.ssMs i * ms then
    let s := (s.until ((s.grp i).ssAt + s.rampTicks i + holdTicks)).charged i
    let s := ((s.put (F.AUX_GRP_STAT_STATE i) grpRun).put (F.AUX_GRP_STAT_VSET i) (20 * s.voutMin i)).dropNote s i
    .next ((s.loopJoin i).groupSenseCheck i)
  else .next s

/-- HICCUP_EXPIRY (R281): HIC_MS after the hiccup the group starts again, or latches on HIC_N hiccups in the last HIC_W s. -/
def execHiccupExpiry (g : Fin 2) (s : State) : Host.Outcome State Fault Refusal :=
  let i := g.val
  if s.get (F.AUX_GRP_STAT_STATE i) = grpHiccup then
    let s := s.until ((s.grp i).hicAt + s.hicMs i * ms)
    let hs := s.recentHiccups i
    let s := s.setGrp i { s.grp i with hiccups := hs }
    if hs.length < s.hicN i then .next (s.startSoft i) else .next (s.groupLatch i)
  else .next s

/-- A clear of a group's LATCH (R281). -/
def State.groupUnlatch (s : State) (g : Nat) : State :=
  let s := s.put (F.AUX_GRP_FAULT_LATCH g) 0
  if s.get (F.AUX_GRP_STAT_STATE g) = grpLatched then
    let s := s.setGrp g { s.grp g with hiccups := [] }
    if s.on (F.AUX_GRP_CFG_EN g) then s.startSoft g else s.groupOff g
  else s

/-- GROUP_LATCH_CLEAR (R281). -/
def execGroupLatchClear (g : Fin 2) (s : State) : Host.Outcome State Fault Refusal := .next (s.groupUnlatch g.val)

/-- The phase whose turn comes next among the active ones: 0, 1, 2, 0 … (R279). -/
def nextPhase (active turn : Nat) : Nat := (([turn % 3, (turn + 1) % 3, (turn + 2) % 3]).find? (fun j => active.testBit j)).getD 0

/-- The valley limit withholds a turn-on of phase `j`: its sensed current, as last sampled, is above I_VALLEY and its sense works (R279,
R282). DESIGN CHOICE, log 188. -/
def State.valley (s : State) (g j : Nat) : Bool :=
  !s.senseLost g j &&
    decide (10 * clampN 40 140 (s.get (F.AUX_GRP_LIM_I_VALLEY g)) < (s.grp g).ph.getD j 0)

/-- The target of phase `j`, in ticks after the reference instant: the phases spaced evenly over the cycle (R280). -/
def State.target (s : State) (g j : Nat) : Nat :=
  let m := s.spaced g
  let n := (bitIndices 3 m).length
  let k := (bitIndices j m).length
  (2 * k * s.swTicks g + n) / (2 * n)

/-- Ticks from the CTB to the nearest target of phase `j` (R280). -/
def State.targetErr (s : State) (g j : Nat) : Nat :=
  let sw := s.swTicks g
  let d := (s.ctb + 2 * sw - s.refOff g - s.target g j % sw) % sw
  min d (sw - d)

/-- The on-time of a phase (R279, R280): (VSET / VIN) × SW_TICKS, trimmed by up to 25 % while locked; in soft start it follows the ramp and
is free. DESIGN CHOICE, log 189. -/
def State.onTime (s : State) (g : Nat) : Nat :=
  let f := s.free 32
  if s.get (F.AUX_GRP_STAT_STATE g) = grpSoft then f % (s.swTicks g + 1)
  else
    let nominal := 10 * s.get (F.AUX_GRP_STAT_VSET g) * s.swTicks g / s.aux.busMv
    if s.syncLock g && !s.time.stopped then nominal * (750 + f % 501) / 1000 else nominal

/-- A pulse of phase `j` begins: its upper switch turns on at once, 15 ns after its lower switch turns off, or 120 ns after its last on-time; in diode emulation the lower
switch is then on for a free time, else until the next turn-on (R279, R281, R289). -/
def State.startPulse (s : State) (g j : Nat) : State :=
  let x := s.grp g
  let now := match x.pulse.getD j none with
    | some p => (max (s.now + (if p.lowAt s.now then 75 else 0)) (p.at0 + p.len + 600), if p.highAt s.now then p.at0 + p.len else 0)
    | none => (s.now, 0)
  let low := if s.get (F.AUX_GRP_STAT_STATE g) = grpSoft then some (s.free 32 / 2 ^ 16 % (s.swTicks g + 1)) else none
  s.drew.setGrp g { x with turn := (j + 1) % 3, withheld := false,
                           pulse := setAt x.pulse j (some ⟨now.1, s.onTime g, low, now.2⟩) }

/-- One turn-on, `err` ticks from its target (R280). -/
def State.syncJudge (s : State) (g err : Nat) : State :=
  let x := s.grp g
  let good := if err ≤ 200 then x.syncGood + 1 else 0
  let bad := if 1000 < err then x.syncBad + 1 else 0
  let s := s.setGrp g { x with syncGood := good, syncBad := bad }
  if s.on (F.AUX_GRP_STAT_SYNC_LOCK g) then
    if 8 ≤ bad then
      (((s.setGrp g { s.grp g with syncGood := 0, syncBad := 0 }).put (F.AUX_GRP_STAT_SYNC_LOCK g) 0).put
        F.AUX_FAULT_STAT_SYNC_LOST 1).raise Base.AUX 8
    else s
  else if 64 ≤ good then s.put (F.AUX_GRP_STAT_SYNC_LOCK g) 1
  else s

/-- The output comparator of a group trips as the CTB reaches `c`, or at once on the fall-back oscillator: the phase in turn is turned on, or
withheld by its valley limit. ILIM stands for the switching cycle in which that happens (R279, R280, R286). -/
def State.turnOn (g : Nat) (s : State) (c : Nat) : State :=
  let s := (if s.time.stopped then s else s.untilCtb c).refSettle g
  let x := s.grp g
  let active := s.phActive g
  let j := nextPhase active x.turn
  if active = 0 || s.dropout g || decide (s.now < x.ssAt) then s
  else if s.valley g j then (s.setGrp g { x with turn := j, withheld := true }).put (F.AUX_GRP_STAT_ILIM g) 1
  else
    let t := if (bitIndices j active).isEmpty then s.put (F.AUX_GRP_STAT_ILIM g) (b2n x.withheld) else s
    let t := t.startPulse g j
    if s.time.stopped then t else t.syncJudge g (s.targetErr g j)

/-- SYNC_LOCK_CHANGE (R279, R280): the output comparator of a group trips as the CTB reaches each of the given values. -/
def execSyncLockChange (g : Fin 2) (trips : List Nat) (s : State) : Host.Outcome State Fault Refusal :=
  .next (trips.foldl (State.turnOn g.val) s)

/-- The verdict on phase `j` of a judged window: 0 none, 1 open candidate, 2 sense candidate (R282). -/
def phaseVerdict (active : List Nat) (w : PhaseWindow) (j : Nat) : Nat :=
  let others := active.filter (fun i => i ≠ j)
  let sum := others.foldl (fun a i => a + w.d.getD i 0) 0
  if 2 * (w.d.getD j 0) * others.length < sum then 1
  else if w.sigma.getD j 0 < 250 ∨ 4000 < w.sigma.getD j 0 ∨ w.change.getD j 0 ≤ 2 then 2
  else 0

/-- A judged window counts a phase's candidates and declares it after four in a row of one kind (R282). -/
def State.judgePhase (g : Nat) (active : List Nat) (w : PhaseWindow) (s : State) (j : Nat) : State :=
  let v := phaseVerdict active w j
  let x := s.grp g
  let o := if v = 1 then x.openCnt.getD j 0 + 1 else 0
  let c := if v = 2 then x.senseCnt.getD j 0 + 1 else 0
  let s := s.setGrp g { x with openCnt := setAt x.openCnt j o, senseCnt := setAt x.senseCnt j c }
  if 4 ≤ o then s.declareOpen g j
  else if 4 ≤ c && !s.bitOf (F.AUX_GRP_FAULT_SENSE_LOST g) j then s.declareSense g j
  else s

/-- PHASE_WINDOW_END (R282): a window is judged if the group was in RUN throughout and gave at least 10.8 A. -/
def execPhaseWindowEnd (g : Fin 2) (w : PhaseWindow) (s : State) : Host.Outcome State Fault Refusal :=
  let i := g.val
  if s.get (F.AUX_GRP_STAT_STATE i) = grpRun && w.runThroughout && 10800 ≤ w.iout then
    let active := bitIndices 3 (s.phActive i)
    .next (active.foldl (State.judgePhase i active w) s)
  else .next s

/-- A write of 1 to OPEN bit `j`: refused while lasting, else the phase is re-admitted at the next reference instant (R283). -/
def State.readmitOpen (g : Nat) (s : State) (j : Nat) : State :=
  let x := s.grp g
  if x.openLasting.testBit j then s.cnt F.AUX_ERR_COUNT_CLR_REFUSED
  else
    let s := s.setGrp g { x with openCnt := setAt x.openCnt j 0, senseCnt := setAt x.senseCnt j 0,
                                 openReadmit := setAt x.openReadmit j (some s.now) }
    let s := s.clrBitOf (F.AUX_GRP_FAULT_OPEN g) j
    if s.get (F.AUX_GRP_STAT_STATE g) = grpRun || s.get (F.AUX_GRP_STAT_STATE g) = grpSoft then
      let s := s.refAsk g
      s.setGrp g { s.grp g with join := s.goodPhases g }
    else s

/-- A write of 1 to SENSE_LOST bit `j` (R283). -/
def State.readmitSense (g : Nat) (s : State) (j : Nat) : State :=
  let x := s.grp g
  if x.senseLasting.testBit j then s.cnt F.AUX_ERR_COUNT_CLR_REFUSED
  else
    let s := (s.setGrp g { x with openCnt := setAt x.openCnt j 0, senseCnt := setAt x.senseCnt j 0,
                                  senseReadmit := setAt x.senseReadmit j (some s.now) }).clrBitOf (F.AUX_GRP_FAULT_SENSE_LOST g) j
    let s := s.refAsk g
    s.setGrp g { s.grp g with senseJoin := setBit (s.grp g).senseJoin j }

/-- A write of 1s to bits of OPEN and SENSE_LOST that are set (R283). -/
def State.readmit (s : State) (g openBits senseBits : Nat) : State :=
  let s' := (bitIndices 3 (openBits &&& s.get (F.AUX_GRP_FAULT_OPEN g))).foldl (State.readmitOpen g) s
  (bitIndices 3 (senseBits &&& s'.get (F.AUX_GRP_FAULT_SENSE_LOST g))).foldl (State.readmitSense g) s'

/-- PHASE_READMIT (R283). -/
def execPhaseReadmit (g : Fin 2) (openBits senseBits : BitVec 3) (s : State) : Host.Outcome State Fault Refusal :=
  .next (s.readmit g.val openBits.toNat senseBits.toNat)

/-! ### Loop commands -/

/-- LOOP_ENABLE (R284): a committed AUX_LOOPx_CFG. -/
def execLoopEnable (x : Fin 2) (v : Word) (s : State) : Host.Outcome State Fault Refusal :=
  .next (s.auxCommit (A.AUX_LOOP_CFG x.val) v)

/-- The controller's step of VSET in 10 mV: toward ILOOP_SET, of a size the spec bounds by 0.5 V and does not state (R284, log 13). -/
def loopStep (iloop set free : Nat) : Int :=
  if iloop < set then (free % 51 : Nat) else if set < iloop then -((free % 51 : Nat) : Int) else 0

/-- VSET after a controller update: lowered, by at most 0.5 V, where the group's power exceeds P_LIM less the other group's power; else a
step toward ILOOP_SET, unless frozen (R277, R284, R286, log 13). -/
def State.stepVset (s : State) (x : Nat) (m : LoopMeas) : State :=
  let lo := 20 * s.voutMin x
  let hi := 20 * s.voutMax x
  let v := s.get (F.AUX_GRP_STAT_VSET x)
  let f := s.free 32
  let v :=
    if 10 * s.get F.AUX_STAT_P_LIM - m.pother < m.pown then max (min lo v) (v - (1 + f % 50))
    else if s.frozen then v
    else (clampI lo hi ((v : Int) + loopStep m.iloop (s.iloopSet x) f)).toNat
  s.drew.setVset x v

/-- The times since which the OPEN and OVER conditions hold (R285). -/
def State.watchLoop (s : State) (x : Nat) (m : LoopMeas) : State :=
  let l := s.loop x
  let set := s.iloopSet x
  let op := 10 * m.iloop < set && s.get (F.AUX_GRP_STAT_VSET x) = 20 * s.voutMax x
  let ov := 125 * set + 10000 < 100 * m.iloop || 4200 < m.iloop
  let since := fun (b : Bool) (o : Option Nat) => if b then some (o.getD s.now) else none
  s.setLoop x { l with openSince := since op l.openSince, overSince := since ov l.overSince }

/-- A condition has held for `n` ticks. -/
def State.held (s : State) (o : Option Nat) (n : Nat) : Bool :=
  match o with
  | none => false
  | some t => t + n ≤ s.now

/-- LOOP_CONTROL_UPDATE (R284, R285, R287): every 100 µs ILOOP and the loop's power are measured and published, VSET moves, and the faults are
judged. -/
def execLoopControlUpdate (x : Fin 2) (m : LoopMeas) (s : State) : Host.Outcome State Fault Refusal :=
  let i := x.val
  let s := s.until ((s.loop i).updAt + 100 * us)
  let s := s.setLoop i { s.loop i with updAt := s.now }
  let s := if s.time.stopped then s else
    ((s.put (F.AUX_LOOP_STAT_ILOOP i) (min m.iloop 65535)).complete (A.AUX_TEL (14 + i)) (min m.iloop 65535)).complete
      (A.AUX_TEL (4 + 3 * i)) (min m.pown 65535)
  if s.get (F.AUX_LOOP_STAT_STATE i) = loopRun && s.get (F.AUX_GRP_STAT_STATE i) = grpRun then
    let s := (s.stepVset i m).watchLoop i m
    if s.held (s.loop i).overSince ms then .next (s.loopFault i true)
    else if s.held (s.loop i).openSince (10 * ms) then .next (s.loopFault i false)
    else .next s
  else .next s

/-- LOOP_RETRY (R285): one second after the fault the loop starts again. -/
def execLoopRetry (x : Fin 2) (s : State) : Host.Outcome State Fault Refusal :=
  if s.get (F.AUX_LOOP_STAT_STATE x.val) = loopRetry then
    let s := s.until ((s.loop x.val).retryAt + sec)
    .next ((s.put (F.AUX_LOOP_STAT_STATE x.val) loopWait).loopJoin x.val)
  else .next s

/-- A clear of a loop's LATCH: the loop starts again under R284 (R285). -/
def State.loopUnlatch (s : State) (x : Nat) : State :=
  let s := s.put (F.AUX_LOOP_FAULT_LATCH x) 0
  if s.get (F.AUX_LOOP_STAT_STATE x) = loopLatched then
    if s.on (F.AUX_LOOP_CFG_EN x) then (s.put (F.AUX_LOOP_STAT_STATE x) loopWait).loopJoin x
    else (s.put (F.AUX_LOOP_STAT_STATE x) loopOff).groupMin x
  else s

/-- LOOP_LATCH_CLEAR (R285). -/
def execLoopLatchClear (x : Fin 2) (s : State) : Host.Outcome State Fault Refusal := .next (s.loopUnlatch x.val)

/-! ### Telemetry (R287) -/

/-- Peak and trough holds follow a raw sample. -/
def State.hold (g : Nat) (s : State) (t : TelSample) : State :=
  let s := s.setGrp g { s.grp g with vout := t.vout, iout := t.iout, ph := [t.ph0, t.ph1, t.ph2] }
  let s := if g = 0 then s.setBus (10 * t.b54) else s
  let s := s.put (F.AUX_GRP_PEAK_VOUT_HI g) (max (s.get (F.AUX_GRP_PEAK_VOUT_HI g)) (min t.vout 65535))
  let s := s.put (F.AUX_GRP_PEAK_IOUT_HI g) (max (s.get (F.AUX_GRP_PEAK_IOUT_HI g)) (min t.iout 65535))
  s.put (F.AUX_GRP_TROUGH g) (min (s.get (F.AUX_GRP_TROUGH g)) (min t.vout 65535))

/-- The mean of a quantity over the samples of a window, rounded down (log 14). -/
def telMean (l : List TelSample) (f : TelSample → Nat) : Nat := l.foldl (fun a t => a + f t) 0 / l.length

/-- The averages of a window are published (R287). -/
def State.publishTel (s : State) (g : Nat) (l : List TelSample) : State :=
  let pub := fun (t : State) (i : Nat) (v : Nat) => t.complete (A.AUX_TEL i) (v % 65536)
  let s := if g = 0 then pub (pub s 0 (telMean l TelSample.b54)) 1 (telMean l TelSample.b12) else s
  let b := 2 + 3 * g
  let s := pub (pub s b (telMean l TelSample.vout)) (b + 1) (telMean l TelSample.iout)
  let p := 8 + 3 * g
  pub (pub (pub s p (telMean l TelSample.ph0)) (p + 1) (telMean l TelSample.ph1)) (p + 2) (telMean l TelSample.ph2)

/-- TELEMETRY_WINDOW (R287): a window of 2^AVG_LOG2 raw samples completes; it is not published while the fabric clock is lost, and
the first one after its return is discarded. -/
def execTelemetryWindow (g : Fin 2) (samples : List TelSample) (s : State) : Host.Outcome State Fault Refusal :=
  let i := g.val
  if samples.length = 2 ^ min 10 (s.get F.AUX_CTRL_AVG_LOG2) && !s.time.stopped then
    let s := samples.foldl (State.hold i) s
    if s.aux.telDiscard.getD i false then
      .next { s with aux := { s.aux with telDiscard := setAt s.aux.telDiscard i false } }
    else .next (s.publishTel i samples)
  else .next s

/-- PEAK_CLR: every hold takes the current sample (R287). -/
def State.peakClr (s : State) : State :=
  (List.range 2).foldl
    (fun t g => ((t.put (F.AUX_GRP_PEAK_VOUT_HI g) (min (t.grp g).vout 65535)).put (F.AUX_GRP_PEAK_IOUT_HI g)
      (min (t.grp g).iout 65535)).put (F.AUX_GRP_TROUGH g) (min (t.grp g).vout 65535)) s

/-- PEAK_CLR (R287). -/
def execPeakClr (s : State) : Host.Outcome State Fault Refusal := .next s.peakClr

/-! ### Hooks of Access -/

/-- Whether a clear of a W1C bit of AUX is accepted (R276, R278). -/
def auxClearOk (s : State) (a i : Nat) : Bool :=
  if a = F.AUX_FAULT_STAT_MAINS_LOST.reg && i = 5 then (pLim (s.get F.AUX_STAT_FEED2) (s.get F.AUX_STAT_FEED3)).isSome
  else if a = F.AUX_FAULT_STAT_MAINS_LOST.reg && i = 4 then !(s.get F.AUX_STAT_FEED2 = 3 || s.get F.AUX_STAT_FEED3 = 3)
  else true

end Sys2Proof.Machine
end

