-- ==== Sys2Proof/Machine/Pwm.lean ====
section
/-! DEFINITION. The local PWM channels and their trip inputs (R293–R299). -/

namespace Sys2Proof.Machine

open Sys2Proof

/-- Root ticks of one peripheral clock of 4 ns (R293). -/
def pclk : Nat := 20

/-- A channel's state beyond its registers. -/
def State.pwmCh (s : State) (c : Nat) : PwmCh := KMap.get (fun _ => {}) s.pwm c

/-- A channel's state replaced. -/
def State.setPwm (s : State) (c : Nat) (x : PwmCh) : State := { s with pwm := KMap.set (fun _ => {}) s.pwm c x }

/-- A trip input. -/
def State.tripInput (s : State) (i : Nat) : TripIn := KMap.get (fun _ => {}) s.tripIn i

/-- A trip input replaced. -/
def State.setTripIn (s : State) (i : Nat) (x : TripIn) : State := { s with tripIn := KMap.set (fun _ => {}) s.tripIn i x }

/-- A field of the CFG word in effect. -/
def PwmCh.cfgF (x : PwmCh) (lo len : Nat) : Nat := bits x.cfg.toNat (lo + len - 1) lo

/-- UPDN mode (R293). -/
def PwmCh.updn (x : PwmCh) : Bool := x.cfg.toNat.testBit 30

/-- INDEP output mode (R293). -/
def PwmCh.indep (x : PwmCh) : Bool := x.cfg.toNat.testBit 29

/-- TS, 3 acting as 0 (R295). -/
def PwmCh.ts (x : PwmCh) : Nat := let t := x.cfgF 27 2; if t = 3 then 0 else t

/-- TRIP_MASK (R295). -/
def PwmCh.mask (x : PwmCh) : Nat := x.cfgF 16 9

/-- The length of a cycle in peripheral clocks (R293). -/
def PwmCh.len (x : PwmCh) : Nat := if x.updn then 2 * x.active.per else x.active.per

/-- The position in the cycle at `t` elapsed ticks. -/
def PwmCh.pos (x : PwmCh) (t : Nat) : Nat := if x.running then (x.base + (t - x.at0) / pclk) % x.len else 0

/-- The counter at `t` elapsed ticks, and whether it counts down (R293). -/
def PwmCh.count (x : PwmCh) (t : Nat) : Nat × Bool :=
  let p := x.pos t
  if x.updn && x.active.per < p then (2 * x.active.per - p, true) else (p, false)

/-- The next reload edge after `t` elapsed ticks: the counter's next return to 0 (R294). -/
def PwmCh.nextReload (x : PwmCh) (t : Nat) : Nat :=
  let per := x.len * pclk
  let start := x.at0 - x.base * pclk
  let off := x.base * pclk - x.at0
  start + ((t + off - start) / per + 1) * per - off

/-- A's command where the counter stands at `c`: high below CMPA, and throughout where CMPA is PER or more (R293). -/
def PwmCh.cmdA (x : PwmCh) (c : Nat) : Bool := decide (x.active.per ≤ x.active.cmpa) || decide (c < x.active.cmpa)

/-- A's command at `t` elapsed ticks. -/
def PwmCh.cmd (x : PwmCh) (t : Nat) : Bool := x.running && x.cmdA (x.count t).1

/-- The positions at which a command that is high below `cmp` rises and falls, none where it stands still (R293). -/
def PwmCh.edges (x : PwmCh) (cmp : Nat) : Option (Nat × Nat) :=
  if cmp = 0 ∨ x.active.per < cmp ∨ (cmp = x.active.per ∧ !x.updn) then none
  else if x.updn then some ((2 * x.active.per - cmp + 1) % x.len, cmp)
  else some (0, cmp)

/-- The positions at which A's command rises and falls. -/
def PwmCh.aEdges (x : PwmCh) : Option (Nat × Nat) := if x.active.per ≤ x.active.cmpa then none else x.edges x.active.cmpa

/-- Elapsed ticks at which the counter last reached position `e` after it stood at `base`. -/
def PwmCh.lastAt (x : PwmCh) (t e : Nat) : Option Nat :=
  let n := (t - x.at0) / pclk
  let d := if e = x.base % x.len then x.len else (e + x.len - x.base % x.len) % x.len
  if x.running && decide (d ≤ n) then some (x.at0 + (d + (n - d) / x.len * x.len) * pclk) else none

/-- The later of two times. -/
def laterOf (a b : Option Nat) : Option Nat :=
  match a, b with
  | some x, some y => some (max x y)
  | some x, none => some x
  | none, b => b

/-- Elapsed ticks at which B last turned off, in COMPL mode with the last rise of A's command (R293). -/
def PwmCh.lastOffB (x : PwmCh) (t : Nat) : Option Nat := laterOf (x.aEdges.bind (fun e => x.lastAt t e.1)) x.offB

/-- Elapsed ticks at which A last turned off, in COMPL mode with the last fall of A's command. -/
def PwmCh.lastOffA (x : PwmCh) (t : Nat) : Option Nat := laterOf (x.aEdges.bind (fun e => x.lastAt t e.2)) x.offA

/-- `n` peripheral clocks have passed at `t` since the time `o`, if there is one. -/
def pastDead (o : Option Nat) (n t : Nat) : Bool := o.all (fun e => e + n * pclk ≤ t)

/-- The outputs A and B of a running channel outside trips and halts (R293): in COMPL mode each turns on its dead time after the
other turned off, or was commanded off where it was not on. DEDUCED, log 191. -/
def PwmCh.drive (x : PwmCh) (t : Nat) : Bool × Bool :=
  if !x.running then (false, false)
  else
    let a := x.cmd t
    if x.indep then (a, decide ((x.count t).1 < x.active.cmpb))
    else (a && pastDead (x.lastOffB t) x.active.dtR t, !a && pastDead (x.lastOffA t) x.active.dtF t)

/-- The contacts PWMc_A and PWMc_B at `t` elapsed ticks (R293, R295, R297, R299). -/
def PwmCh.contacts (x : PwmCh) (t : Nat) : Bool × Bool :=
  if x.haltMode = 1 then (false, false)
  else if x.tripped then (x.running && x.ts = 1 && x.tsOnAt ≤ t, x.running && x.ts = 2 && x.tsOnAt ≤ t)
  else x.drive t

/-- The contacts of channel `c` now. -/
def State.pwmOut (s : State) (c : Nat) : Bool × Bool := (s.pwmCh c).contacts s.now

/-! ### Blanking (R296) -/

/-- The last two times at which the counter reached a position since it stood at `base`. -/
def PwmCh.lastTwo (x : PwmCh) (t e : Nat) : List Nat :=
  match x.lastAt t e with
  | none => []
  | some r => r :: (x.lastAt (r - 1) e).toList

/-- Times up to `t` at which a contact may have changed since `chgAt`: the last edges of each command, each with its dead time, and the turn-on
of a trip state. -/
def PwmCh.moments (x : PwmCh) (t : Nat) : List Nat :=
  let of := fun (o : Option (Nat × Nat)) (r f : Nat) =>
    match o with
    | none => []
    | some e => (x.lastTwo t e.1).flatMap (fun m => [m, m + r * pclk]) ++ (x.lastTwo t e.2).flatMap (fun m => [m, m + f * pclk])
  let late := (x.offA.toList.map (fun m => m + x.active.dtF * pclk)) ++ (x.offB.toList.map (fun m => m + x.active.dtR * pclk))
  (of x.aEdges x.active.dtR x.active.dtF ++ (if x.indep then of (x.edges x.active.cmpb) 0 0 else []) ++ late ++ [x.tsOnAt]).filter
    (fun m => x.chgAt < m && m ≤ t)

/-- Whether the contacts `a` change to `b` by an edge of the kind BLANK_EDGE selects: 1 turn-on of A, 2 turn-off of A, 3 any edge (R296). -/
def edgeOf (kind : Nat) (a b : Bool × Bool) : Bool :=
  if kind = 1 then !a.1 && b.1 else if kind = 2 then a.1 && !b.1 else a ≠ b

/-- Elapsed ticks of the last edge of the kind BLANK_EDGE selects on a channel's contacts (R296). -/
def PwmCh.lastEdge (x : PwmCh) (t kind : Nat) : Option Nat :=
  ((x.moments t).filter (fun m => edgeOf kind (x.contacts (m - 1)) (x.contacts m))).foldl (fun o m => laterOf o (some m))
    (if kind = 1 then x.eOn else if kind = 2 then x.eOff else x.eAny)

/-- A channel moved to the settings `y` at `t`: the last edges of its contacts are carried over (R293, R296, R297). -/
def PwmCh.carry (x y : PwmCh) (t : Nat) : PwmCh :=
  let a := x.contacts (t - 1)
  let rise := x.running && y.running && !x.cmd (t - 1) && y.cmd t
  let fall := x.running && y.running && x.cmd (t - 1) && !y.cmd t
  let y := { y with chgAt := t, offA := x.lastOffA (t - 1), offB := x.lastOffB (t - 1) }
  let b := y.contacts t
  let y := { y with offA := if a.1 && !b.1 || fall then some t else y.offA, offB := if a.2 && !b.2 || rise then some t else y.offB }
  let b := y.contacts t
  let at' := fun (kind : Nat) => if edgeOf kind a b then some t else x.lastEdge (t - 1) kind
  { y with eOn := at' 1, eOff := at' 2, eAny := at' 3 }

/-- A channel replaced, its last edges carried over. -/
def State.movePwm (s : State) (c : Nat) (y : PwmCh) : State := s.setPwm c ((s.pwmCh c).carry y s.now)

/-- The end of the blanking window of input `i` that is open now, if one is (R296). -/
def State.blankEnd (s : State) (i : Nat) : Option Nat :=
  let kind := s.get (F.PWM_TRIPIN_BLANK_EDGE i)
  if kind = 0 then none
  else
    match (s.pwmCh (s.get (F.PWM_TRIPIN_BLANK_CH i))).lastEdge s.now kind with
    | none => none
    | some e =>
      let w := e + s.get (F.PWM_TRIPIN_BLANK_W i) * pclk
      if s.now < w then some w else none

/-- Whether an input is active and not blanked. -/
def State.tripActive (s : State) (i : Nat) : Bool := (s.tripInput i).active && (s.blankEnd i).isNone

/-- Whether channel `c`'s TRIP_MASK names an active input that is not blanked, or the fence's halt request (R295, R296). -/
def State.pwmCause (s : State) (c : Nat) : Bool :=
  let m := (s.pwmCh c).mask
  (List.range 8).any (fun i => m.testBit i && s.tripActive i) || (m.testBit 8 && s.on F.SAFE_STAT_HALT_FENCE)

/-- Whether any masked input is active, blanked or not (R298). -/
def State.pwmMasked (s : State) (c : Nat) : Bool :=
  let m := (s.pwmCh c).mask
  (List.range 8).any (fun i => m.testBit i && (s.tripInput i).active) || (m.testBit 8 && s.on F.SAFE_STAT_HALT_FENCE)

/-! ### Trips (R295–R298) -/

/-- Elapsed ticks from which the output that TS of `y` turns on may be on, the channel being at `x`: the end of its own dead time, counted from
the other output's last turn-off (R297). -/
def PwmCh.tsOn (x y : PwmCh) (t : Nat) : Nat :=
  let after := fun (own other : Bool) (off : Option Nat) (d : Nat) =>
    if own then t else if other then t + d * pclk else off.elim t (fun o => max t (o + d * pclk))
  let d := x.contacts t
  if y.indep then t
  else if y.ts = 1 then after d.1 d.2 (x.lastOffB t) y.active.dtR
  else if y.ts = 2 then after d.2 d.1 (x.lastOffA t) y.active.dtF
  else t

/-- Channel `c` trips: its outputs go to the trip state, and stay there where a cleared trip waits for its reload edge (R295, R298). -/
def State.pwmEnterTrip (s : State) (c : Nat) : State :=
  let x := s.pwmCh c
  let s :=
    if x.tripped then s.setPwm c { x with clearing := false }
    else s.movePwm c { x with tripped := true, clearing := false, tsOnAt := x.tsOn x s.now }
  let s := ((s.put (F.PWM_CH_TRIP_TRIPPED c) 1).put (F.PWM_CH_TRIP_ACTIVE c) 1).setBitOf F.PWM_STAT_ACTIVE c
  ((s.put F.PWM_FAULT_STAT_TRIP 1).cnt F.PWM_TRIPS).raise Base.PWM 0

/-- Channel `c` trips if a cause stands and it is not already in the trip state. -/
def State.pwmJudge (s : State) (c : Nat) : State :=
  if s.pwmCause c && (!(s.pwmCh c).tripped || (s.pwmCh c).clearing) then s.pwmEnterTrip c else s

/-- Every channel is judged. -/
def State.pwmScan (s : State) : State := (List.range 16).foldl State.pwmJudge s

/-- The outputs leave the trip state. -/
def State.pwmLeaveTrip (s : State) (c : Nat) : State :=
  ((s.movePwm c { s.pwmCh c with tripped := false, clearing := false }).put (F.PWM_CH_TRIP_ACTIVE c) 0).clrBitOf F.PWM_STAT_ACTIVE c

/-- PWM_TRIP (R295). -/
def execPwmTrip (c : Fin 16) (s : State) : Host.Outcome State Fault Refusal := .next (s.pwmJudge c.val)

/-- PWM_BLANK_END (R296): the window of input `i` closes, and an input still active trips at that instant; an edge in the meantime has
restarted the window, which then stays open. -/
def execPwmBlankEnd (i : Fin 8) (s : State) : Host.Outcome State Fault Refusal :=
  match s.blankEnd i.val with
  | none => .next s
  | some w =>
    let s := s.until w
    if (s.blankEnd i.val).isSome then .next s
    else .next ((s.setTripIn i.val { s.tripInput i.val with inBlank := false }).pwmScan)

/-- TRIP_INPUT_CHANGE (R295, R296): the pin of input `i` stands at `level` for `widthNs`; shorter than TF it is filtered out. A pulse
wholly within a blanking window is ignored and counted. -/
def execTripInputChange (i : Fin 8) (level : Bool) (widthNs : Nat) (s : State) : Host.Outcome State Fault Refusal :=
  let x := s.tripInput i.val
  let act := decide (level ≠ s.on (F.PWM_TRIPIN_POL i.val))
  if widthNs < 4 * s.get (F.PWM_TRIPIN_TF i.val) || act = x.active then .next s
  else
    let blanked := (s.blankEnd i.val).isSome
    let s := s.setTripIn i.val ⟨act, act && blanked⟩
    let s := s.putBitOf F.PWM_STAT_TRIP_IN i.val act
    if act then .next s.pwmScan
    else if x.inBlank && blanked then .next (s.cnt F.PWM_TRIP_BLANKED)
    else .next s

/-- A clear of TRIPPED: refused while any masked input is active; an accepted clear of a latched trip returns the outputs at the
next reload edge (R298). -/
def State.pwmClear (s : State) (c : Nat) : State :=
  if s.pwmMasked c then s.cnt F.PWM_ERR_COUNT_CLR_REFUSED
  else (s.setPwm c { s.pwmCh c with clearing := true }).put (F.PWM_CH_TRIP_TRIPPED c) 0

/-- PWM_TRIP_CLEAR (R298). -/
def execPwmTripClear (c : Fin 16) (s : State) : Host.Outcome State Fault Refusal :=
  if s.on (F.PWM_CH_TRIP_TRIPPED c.val) then .next (s.pwmClear c.val) else .next s

/-! ### Counting, commits and syncs (R293, R294) -/

/-- The shadow settings of a channel; PER below 2 acts as 2. -/
def State.pwmShadow (s : State) (c : Nat) : PwmSet :=
  ⟨max 2 (s.get (F.PWM_CH_PER c)), s.get (F.PWM_CH_DT_DT_R c), s.get (F.PWM_CH_DT_DT_F c), s.get (F.PWM_CH_CMPA c),
   s.get (F.PWM_CH_CMPB c)⟩

/-- The position in the cycle at which TRIG_SEL sends its pulse inside the cycle: the peak in UPDN mode, or the up-counting match of
CMPA or CMPB. None for the pulse at counter zero, and where the counter reaches no such value (R293). -/
def PwmCh.trigPos (x : PwmCh) : Option Nat :=
  let reach := fun (v : Nat) => if v < x.active.per || (x.updn && v = x.active.per) then some v else none
  let t := x.cfgF 8 3
  if t = 2 then (if x.updn then some x.active.per else none)
  else if t = 3 then reach x.active.cmpa
  else if t = 4 then reach x.active.cmpb
  else none

/-- A channel gives trigger outputs: it runs, and TRIG_SEL names a position its counter reaches (R262, R293). -/
def PwmCh.givesTrig (x : PwmCh) : Bool := x.running && (x.cfgF 8 3 = 1 || x.trigPos.isSome)

/-- The positions the counter has stood at since `at0` are those from `base` to below this one, within the cycle. -/
def PwmCh.upto (x : PwmCh) (t : Nat) : Nat := min x.len (x.base + (t - x.at0) / pclk + 1)

/-- The pulse of the peak or of a match, if the counter stood at its position since `at0` and below `upto` (R293). DESIGN CHOICE, log 160. -/
def State.pwmPulse (s : State) (c upto : Nat) : State :=
  let x := s.pwmCh c
  match x.trigPos with
  | none => s
  | some p => if x.running && decide (x.base ≤ p) && decide (p < upto) then s.emit (.pwmTrig c) else s

/-- The pulse at counter zero (R293). -/
def State.pwmZero (s : State) (c : Nat) : State := if (s.pwmCh c).cfgF 8 3 = 1 then s.emit (.pwmTrig c) else s

/-- EN 0 to 1 starts the counter at 0; EN 1 to 0 drives both outputs low at once (R293). DESIGN CHOICE, log 30. -/
def State.pwmStart (s : State) (c : Nat) : State :=
  let x := s.pwmCh c
  let w := s.reg (A.PWM_CH_CFG c)
  if w.toNat.testBit 31 && !x.running then (s.movePwm c { x with running := true, at0 := s.now, base := 0, cfg := w }).pwmZero c
  else if !w.toNat.testBit 31 && x.running then (s.pwmPulse c (x.upto s.now)).movePwm c { x with running := false, cfg := w }
  else if !x.running then s.setPwm c { x with cfg := w }
  else s

/-- PWM_CHANNEL_ENABLE (R293). -/
def execPwmChannelEnable (c : Fin 16) (en : Bool) (s : State) : Host.Outcome State Fault Refusal :=
  .next ((s.put (F.PWM_CH_CFG_EN c.val) (b2n en)).pwmStart c.val)

/-- COMMIT bits written (R294): in a channel without reload edges the copy is applied within 8 cycles, at the next PWM_CUTOFF. -/
def execPwmCommit (mask : BitVec 16) (s : State) : Host.Outcome State Fault Refusal :=
  .next (s.put F.PWM_CTRL_COMMIT (s.get F.PWM_CTRL_COMMIT ||| mask.toNat))

/-- The next cut-off of a running channel: 4 fabric cycles before a reload edge (R294). -/
def PwmCh.nextCut (x : PwmCh) (t : Nat) : Nat :=
  let r := x.nextReload t
  if t ≤ r - 4 * cyc then r - 4 * cyc else r + x.len * pclk - 4 * cyc

/-- PWM_CUTOFF (R294): a committed shadow is copied; a frozen channel takes none (R299). -/
def execPwmCutoff (c : Fin 16) (s : State) : Host.Outcome State Fault Refusal :=
  let i := c.val
  let x := s.pwmCh i
  let s := if x.running then s.until (x.nextCut s.now) else s
  if s.bitOf F.PWM_CTRL_COMMIT i && x.haltMode ≠ 2 then
    let set := s.pwmShadow i
    let s := if x.running then s.setPwm i { x with copy := some set } else s.setPwm i { x with active := set }
    .next ((s.clrBitOf F.PWM_CTRL_COMMIT i).raise Base.PWM 1)
  else .next s

/-- What a reload edge does to a channel: the copy and the CFG word take effect, a cycle-by-cycle trip with no masked input active
and a cleared trip end, and safe outputs return after a halt (R293–R299). -/
def State.pwmEdge (s : State) (c : Nat) : State :=
  let x := s.pwmCh c
  let back := x.haltMode = 1 && x.unhalting
  let y : PwmCh := { x with at0 := s.now, base := 0, active := x.copy.getD x.active, copy := none, cfg := s.reg (A.PWM_CH_CFG c),
                            haltMode := if back then 0 else x.haltMode, unhalting := x.unhalting && !back }
  let s := s.movePwm c { y with tsOnAt := if x.tripped && x.ts ≠ y.ts then x.tsOn y s.now else x.tsOnAt }
  let s := if back then s.raise Base.PWM 2 else s
  let y := s.pwmCh c
  let s := if y.tripped && (y.clearing || (!s.pwmMasked c && !y.cfg.toNat.testBit 26)) then s.pwmLeaveTrip c else s
  s.pwmZero c

/-- A sync loads PHASE into the counter; a load of 0 counts as a reload edge (R293). -/
def State.pwmLoad (s : State) (c : Nat) : State :=
  let p := s.get (F.PWM_CH_PHASE c)
  if p = 0 then s.pwmEdge c else s.movePwm c { s.pwmCh c with at0 := s.now, base := p }

/-- Whether a sync source is the one a channel selects (R293). -/
def syncSelected (src : PwmSync) (x : PwmCh) : Bool :=
  match src with
  | .compare => x.cfgF 4 3 = 1
  | .syncIn => x.cfgF 4 3 = 2
  | .channel c => x.cfgF 4 3 = 3 && x.cfgF 0 4 = c.val

/-- PWM_RELOAD (R293, R294): the channel's counter reaches 0. -/
def execPwmReload (c : Fin 16) (s : State) : Host.Outcome State Fault Refusal :=
  let i := c.val
  let x := s.pwmCh i
  if x.running then
    let t := x.nextReload s.now
    .next (((s.until t).pwmPulse i x.len).pwmEdge i)
  else .next s

/-- PWM_SYNC (R293): a sync source reaches a running channel that selects it, which loads PHASE at the next peripheral clock. -/
def execPwmSync (c : Fin 16) (src : PwmSync) (s : State) : Host.Outcome State Fault Refusal :=
  let x := s.pwmCh c.val
  if x.running && syncSelected src x then .next (((s.pwmPulse c.val (x.upto s.now)).advance (pclk - (s.now - x.at0) % pclk)).pwmLoad c.val) else .next s

/-! ### Halts (R299) -/

/-- Whether a debug halt holds, or the peripheral clock is lost (R299). -/
def State.pwmHaltCause (s : State) : Bool := s.on F.CME_DBG_STAT_HALTED || s.aux.svDebug || s.time.stopped

/-- A channel enters the behaviour HALT_MODE selects. -/
def State.pwmEnterHalt (s : State) (c : Nat) : State :=
  s.movePwm c { s.pwmCh c with haltMode := if s.bitOf F.PWM_CTRL_HALT_MODE c then 2 else 1, unhalting := false }

/-- A channel's halt ends: a frozen one at once, a safe one at its next reload edge, or at once when it does not run. -/
def State.pwmEndHalt (s : State) (c : Nat) : State :=
  let x := s.pwmCh c
  if x.haltMode = 1 && x.running then s.setPwm c { x with unhalting := true } else s.movePwm c { x with haltMode := 0 }

/-- A channel leaves its halt behaviour at the release itself: a frozen one, or a safe one that does not run (R299). -/
def PwmCh.leavesNow (x : PwmCh) : Bool := x.haltMode = 2 || x.haltMode = 1 && !x.running

/-- The channels follow the debug halts and the clock (R299). -/
def State.pwmHaltUpdate (s : State) : State :=
  if s.pwmHaltCause && !s.aux.pwmHalt then
    ((List.range 16).foldl State.pwmEnterHalt { s with aux := { s.aux with pwmHalt := true } }).raise Base.PWM 2
  else if !s.pwmHaltCause && s.aux.pwmHalt then
    let t := (List.range 16).foldl State.pwmEndHalt { s with aux := { s.aux with pwmHalt := false } }
    if (List.range 16).any (fun c => (s.pwmCh c).leavesNow) then t.raise Base.PWM 2 else t
  else s

/-- HALT_MODE written during a debug halt: a channel whose bit changes leaves one behaviour for the other (R299). DEDUCED, log 211. -/
def State.pwmHaltModes (s : State) : State :=
  let other := (List.range 16).filter (fun c =>
    s.aux.pwmHalt && (s.pwmCh c).haltMode ≠ (if s.bitOf F.PWM_CTRL_HALT_MODE c then 2 else 1))
  if other = [] then s else (other.foldl State.pwmEnterHalt s).raise Base.PWM 2

/-- SVR_DEBUG_HALT (R286, R299). -/
def execSvrDebugHalt (s : State) : Host.Outcome State Fault Refusal :=
  .next ({ s with aux := { s.aux with svDebug := true } }.updateFreeze.pwmHaltUpdate)

/-- SVR_DEBUG_RELEASE (R286, R299). -/
def execSvrDebugRelease (s : State) : Host.Outcome State Fault Refusal :=
  .next ({ s with aux := { s.aux with svDebug := false } }.updateFreeze.pwmHaltUpdate)

/-! ### Hooks of Access -/

/-- The channel whose registers an address lies in. -/
def pwmOfAddr (a : Nat) : Option Nat :=
  if A.PWM_CH_CFG 0 ≤ a ∧ a < A.PWM_CH_CFG 16 then some ((a - A.PWM_CH_CFG 0) / 32) else none

/-- Whether a clear of TRIPPED is accepted (R298). -/
def pwmClearOk (s : State) (a i : Nat) : Bool :=
  match pwmOfAddr a with
  | none => true
  | some c => if a = A.PWM_CH_TRIP c && i = 1 then !s.pwmMasked c else true

/-- After an accepted clear of TRIPPED the outputs return at the next reload edge (R298). -/
def pwmCleared (s : State) (a bits : Nat) : State :=
  match pwmOfAddr a with
  | none => s
  | some c => if a = A.PWM_CH_TRIP c && bits.testBit 1 then s.setPwm c { s.pwmCh c with clearing := true } else s

/-- After a write to a PWM register: EN starts or stops the channel. -/
def pwmPostWrite (s : State) (a : Nat) : State :=
  match pwmOfAddr a with
  | none => if a = F.PWM_CTRL_HALT_MODE.reg then s.pwmHaltModes else s
  | some c => if a = A.PWM_CH_CFG c then s.pwmStart c else s

end Sys2Proof.Machine
end

