-- ==== Sys2Proof/Machine/Events.lean ====
section
/-! DEFINITION. Delivery of events: pending bits, MSI-X messages, the event log and software events (R336–R340). -/

namespace Sys2Proof.Machine

open Sys2Proof

/-- First dword of the EVT_LOG result FIFO. -/
abbrev evtLogAddr : Nat := A.EVT_LOG_LO

/-- The 48-bit VALUE of a log entry (R339). -/
def Occ.logValue (o : Occ) : Nat := o.event <<< 40 ||| o.inst <<< 34 ||| bits o.ctb 37 4

/-- An entry is stored in the log, or dropped when the log is full (R339, R401). -/
def State.logStore (s : State) (v : Nat) : State :=
  if (s.fifo evtLogAddr).length < 256 then
    let s := s.storeFifo evtLogAddr v
    s.put F.EVT_STAT_LOG_LEVEL (s.fifo evtLogAddr).length
  else
    let s := s.spill evtLogAddr v 0 [] [F.EVT_FAULT_STAT_LOG_OVF, F.EVT_LOG_DROP] Base.EVT 0
    ((s.put F.EVT_FAULT_STAT_LOG_OVF 1).cnt F.EVT_LOG_DROP).raise Base.EVT 0

/-- A delivered occurrence enters the log (R339). -/
def State.logOcc (s : State) (o : Occ) : State :=
  if !s.on F.EVT_CTRL_LOG_EN || o.event = 20 then s else s.logStore o.logValue

/-- The pending bits an occurrence sets are noted for its fabric cycle (R18, R336). -/
def State.noteSet (s : State) (o : Occ) : State :=
  let new := (if o.host then [(A.EVT_HPEND (o.event / 32), o.event % 32)] else []) ++
    (if o.sv then [(A.EVT_SPEND (o.event / 32), o.event % 32)] else [])
  { s with evt := { s.evt with setAt := s.cycleNo, setBits := (if s.evt.setAt = s.cycleNo then s.evt.setBits else []) ++ new } }

/-- Pending bits of a delivered occurrence (R336). DEDUCED, log 150. -/
def State.deliver (s0 : State) (o : Occ) : State :=
  let s := s0.noteSet o
  let t := if o.host then s.setBitOf (F.EVT_HPEND (o.event / 32)) (o.event % 32) else s
  let t := if o.sv then t.setBitOf (F.EVT_SPEND (o.event / 32)) (o.event % 32) else t
  (State.msixEdges s t).logOcc o

/-- EVENT_DELIVERY (R336): the oldest enabled occurrence is delivered 4 fabric cycles after its own cycle. -/
def execEventDelivery (s : State) : Host.Outcome State Fault Refusal :=
  match s.evt.pipe with
  | [] => .next s
  | o :: rest =>
    let s := { s with evt := { s.evt with pipe := rest } }
    .next ((s.until (o.time + 4 * cyc)).deliver o)

/-- A write of EVT_EOI: a message of each named vector still asserted falls due (R337). -/
def State.eoiWrite (s : State) (v : Nat) : State :=
  (bitIndices 32 v).foldl (fun t i => if t.asserted i then t.msixDue i else t) s

/-- EOI (R337). -/
def execEoi (v : Word) (s : State) : Host.Outcome State Fault Refusal := .next (s.eoiWrite v.toNat)

/-- MSIX_HOLDOFF_EXPIRY (R337): the message of vector `v` that fell due inside the holdoff is sent at its end if the vector is
still asserted. -/
def execMsixHoldoffExpiry (v : Fin 32) (s : State) : Host.Outcome State Fault Refusal :=
  if s.evt.due.contains v.val then
    let s := s.until (s.holdoffEnd v.val)
    let s := { s with evt := { s.evt with due := s.evt.due.filter (fun x => x ≠ v.val) } }
    .next (if s.asserted v.val then s.msixSend v.val else s)
  else .next s

/-- A write of EVT_SW: one occurrence of each named software event, routed by EVT_SW_ROUTE (R340). -/
def State.swEvents (s : State) (v : Nat) : State :=
  (bitIndices 16 v).foldl
    (fun t b => t.pushOcc (240 + b) 0 (t.bitOf F.EVT_SW_ROUTE_HOST b) (t.bitOf F.EVT_SW_ROUTE_SV b)) s

/-- EVT_SW (R340). -/
def execEvtSw (v : BitVec 16) (s : State) : Host.Outcome State Fault Refusal := .next (s.swEvents v.toNat)

/-- Vector `v` is no longer masked: the message of its pending bit is sent, not before its holdoff ends (R28, R337). DEDUCED, log 197. -/
def State.msixFlush (s : State) (v : Nat) : State :=
  if s.bitOf (F.HOST_MSIX_PBA (v / 32)) (v % 32) && !s.host.funcMask && !s.on (F.HOST_MSIX_VCTRL v) then
    (s.clrBitOf (F.HOST_MSIX_PBA (v / 32)) (v % 32)).msixDue v
  else s

/-- Every vector's pending message that no mask holds back is sent. -/
def State.msixFlushAll (s : State) : State := (List.range 32).foldl State.msixFlush s

/-- MSIX_UNMASK (R28). -/
def execMsixUnmask (op : MsixMask) (s : State) : Host.Outcome State Fault Refusal :=
  match op with
  | .vector v masked => .next ((s.put (F.HOST_MSIX_VCTRL v.val) (b2n masked)).msixFlush v.val)
  | .function masked => .next ({ s with host := { s.host with funcMask := masked } }.msixFlushAll)

/-! Hooks of Access: what writes to EVT and to the MSI-X table do beyond the field rules of R12 and R18. -/

/-- After a write to an EVT register: starts of SW and EOI, edges of vectors after a change of EVT_MAP or EVT_HPEND. -/
def evtPostWrite (before s : State) (a : Nat) (v : Nat) : State :=
  if a = A.EVT_SW then (s.put F.EVT_SW 0).swEvents v
  else if a = A.EVT_EOI then (s.put F.EVT_EOI 0).eoiWrite v
  else State.msixEdges before s

/-- After a write to a HOST register: a vector mask removed sends a pending message. -/
def hostPostWrite (s : State) : State := s.msixFlushAll

end Sys2Proof.Machine
end

