-- ==== Sys2Proof/Machine/Transmit.lean ====
section
/-! DEFINITION. What the lanes transmit: states of a lane, the block grid common to the lanes of a rate, the frame in flight, alignment
markers, IDLE and the halt (R57–R61, R97–R99, R109). -/

namespace Sys2Proof.Machine

open Sys2Proof

/-- A lane beyond its registers. -/
def State.lane (s : State) (n : Nat) : LaneX := KMap.get (fun _ => {}) s.lanes n

/-- A lane's hidden state replaced. -/
def State.setLane (s : State) (n : Nat) (x : LaneX) : State := { s with lanes := KMap.set (fun _ => {}) s.lanes n x }

/-- Register base of lane `n`. -/
abbrev laneBase (n : Nat) : Nat := Base.LANE n

/-- Codes of LANE_STAT.STATE (R102). -/
abbrev lnParked : Nat := 0
abbrev lnWake : Nat := 1
abbrev lnTrain : Nat := 2
abbrev lnDelay : Nat := 3
abbrev lnUp : Nat := 4
abbrev lnRelock : Nat := 5
abbrev lnFailed : Nat := 6
abbrev lnFaulted : Nat := 7

/-- STATE of a lane. -/
def State.laneState (s : State) (n : Nat) : Nat := s.get (F.LANE_STAT_STATE n)

/-- Whether a lane transmits: from the end of WAKE until it parks (R102, R107, R109). -/
def State.laneLit (s : State) (n : Nat) : Bool := s.laneState n ≠ lnParked && s.laneState n ≠ lnWake

/-- A halt request of either channel stands (R302). -/
def State.haltReq (s : State) : Bool := s.on F.SAFE_STAT_HALT_FENCE || s.on F.SAFE_STAT_HALT_SV

/-- HALT fills the slots of a stall lane; it is never sent on lanes 48 and 49 (R109, R302). DEDUCED, log 35. -/
def State.laneHalted (s : State) (n : Nat) : Bool := n < 48 && s.haltReq

/-! ### Blocks (R57, R58, R99) -/

/-- The 2-bit sync header of a block: 0b10 for a control block, 0b01 for a data block (R57). -/
def syncHeader (control : Bool) : BitVec 2 := if control then 2#2 else 1#2

/-- One payload bit through the self-synchronous scrambler 1 + x³⁹ + x⁵⁸: bit `i` of the register is the line bit sent `i` + 1 bits
earlier (R57). -/
def scrambleBit (r : BitVec 58) (b : Bool) : BitVec 58 × Bool :=
  let o := b ^^ r.getLsbD 38 ^^ r.getLsbD 57
  (r.shiftConcat o, o)

/-- One line bit through the descrambler. -/
def descrambleBit (r : BitVec 58) (b : Bool) : BitVec 58 × Bool := (r.shiftConcat b, b ^^ r.getLsbD 38 ^^ r.getLsbD 57)

/-- Bits through a scrambler or descrambler, in transmission order: payload bit 0 first (R57). -/
def throughBits (f : BitVec 58 → Bool → BitVec 58 × Bool) (r : BitVec 58) : List Bool → BitVec 58 × List Bool
  | [] => (r, [])
  | b :: t =>
    let p := f r b
    let q := throughBits f p.1 t
    (q.1, p.2 :: q.2)

/-- A block on the line: its sync header, low bit first and never scrambled, then its scrambled payload; and the scrambler's register after
it (R57). DESIGN CHOICE, log 209. -/
def lineBits (r : BitVec 58) (control : Bool) (payload : BitVec 64) : BitVec 58 × List Bool :=
  let h := syncHeader control
  let q := throughBits scrambleBit r ((List.range 64).map payload.getLsbD)
  (q.1, h.getLsbD 0 :: h.getLsbD 1 :: q.2)

/-- The IDLE block (R58). -/
def idleBlock : BitVec 64 := 0x3C#64

/-- The HALT block (R58). -/
def haltBlock : BitVec 64 := BitVec.ofNat 64 (0x5A + 2 ^ 8 * 0x69966996699669)

/-- AM_RATE of a lane rate (R99, R114). -/
def amRate (rate : Nat) : Nat := rate + 1

/-- An alignment marker (R99). -/
def markerBlock (lane count rate : Nat) : BitVec 64 :=
  BitVec.ofNat 64 (0x96 + 2 ^ 8 * (lane % 256) + 2 ^ 16 * (count % 2 ^ 24) + 2 ^ 40 * amRate rate + 2 ^ 48 * 0x4B2D)

/-! ### The block grid (R57, R97–R99) -/

/-- Block time at a lane rate in 1/10 tick (R57, R97). -/
def blockTime10 (rate : Nat) : Nat := if rate = 0 then 528 else if rate = 1 then 1056 else 320

/-- RATE of a lane. -/
def State.rateOf (s : State) (n : Nat) : Nat := s.get (F.LANE_STAT_RATE n)

/-- Block time of lane `n` in 1/10 tick. -/
def State.blockB (s : State) (n : Nat) : Nat := blockTime10 (s.rateOf n)

/-- The marker slot the grid of a rate is counted from: at 3.125 Gb/s the boundaries are every second one of the 6.25 Gb/s lanes (R98, R99).
DESIGN CHOICE, log 173. -/
def State.slotZero10 (s : State) (rate : Nat) : Nat :=
  let o := Config.blockOrigin s.time.relocks 0
  if rate = 0 then o else if rate = 1 then o + 528 * Config.blockOrigin s.time.relocks 1 else Config.blockOrigin s.time.relocks 2

/-- How far an instant, in 1/10 tick of elapsed time, lies behind the last marker slot's start (R99). -/
def State.intoMarker10 (s : State) (rate t10 : Nat) : Nat :=
  let m := 4096 * blockTime10 rate
  (t10 + m - s.slotZero10 rate % m) % m

/-- The first block boundary at or after an instant. -/
def State.boundary10 (s : State) (rate t10 : Nat) : Nat :=
  let r := s.intoMarker10 rate t10 % blockTime10 rate
  if r = 0 then t10 else t10 + (blockTime10 rate - r)

/-- The first marker slot at or after an instant (R99). -/
def State.markerFrom10 (s : State) (rate t10 : Nat) : Nat :=
  let r := s.intoMarker10 rate t10
  if r = 0 then t10 else t10 + (4096 * blockTime10 rate - r)

/-- The first block boundary at or after an instant that is no marker slot: where a frame or block may begin (R99). -/
def State.frameFrom10 (s : State) (rate t10 : Nat) : Nat :=
  let b := s.boundary10 rate t10
  if s.markerFrom10 rate b = b then b + blockTime10 rate else b

/-- Where the last of `len` blocks that begin at boundary `st` has left, a marker slot inside counted (R99). -/
def State.frameEnd10 (s : State) (rate st len : Nat) : Nat :=
  let e := st + len * blockTime10 rate
  if s.markerFrom10 rate st < e then e + blockTime10 rate else e

/-- Marker slots that begin in [`a`, `b`). -/
def State.markerSlots (s : State) (rate a b : Nat) : Nat :=
  let m := 4096 * blockTime10 rate
  let f := s.markerFrom10 rate a
  if b ≤ f then 0 else (b - f + m - 1) / m

/-- The CTB, in 2⁻⁴⁰ tick, at an instant in 1/10 tick of elapsed time that is not past. -/
def State.ctbF10 (s : State) (t10 : Nat) : Nat := s.time.ctbF + (t10 - 10 * s.now) * scaled 1 s.time.y / 10

/-- DLY of a frame that departs at an instant: its distance from t_k in 1/64 tick (R63, R98, R369). -/
def State.departDly (s : State) (t10 : Nat) : Nat := (s.ctbF10 t10 - s.yard.tk * unit40) / 2 ^ 34

/-! ### Sending (R59, R61, R99, R109) -/

/-- After the release of a halt a stall lane resumes normal traffic at its next marker slot (R109). -/
def State.resume10 (s : State) (n : Nat) : Nat :=
  if n < 48 && s.safe.haltEndAt ≠ 0 then s.markerFrom10 (s.rateOf n) (s.boundary10 (s.rateOf n) (10 * s.safe.haltEndAt)) else 0

/-- Where the lane's last HALT block ended (R109). -/
def State.haltLast10 (s : State) (n : Nat) : Nat :=
  if n < 48 && s.safe.haltEndAt ≠ 0 then s.boundary10 (s.rateOf n) (10 * s.safe.haltEndAt) else 0

/-- Where a frame or block asked for at an instant may begin on lane `n`: after the frame in flight, and not before normal traffic has
resumed (R59, R61, R99, R109). -/
def State.txStart10 (s : State) (n t10 : Nat) : Nat :=
  s.frameFrom10 (s.rateOf n) (max (max t10 (10 * s.now)) (max (s.lane n).txFree10 (s.resume10 n)))

/-- A frame leaves lane `n`, its first block at boundary `st`. -/
def State.sendAt (s : State) (n st : Nat) (f : List (BitVec 64)) : State :=
  (s.setLane n { s.lane n with txFree10 := s.frameEnd10 (s.rateOf n) st f.length }).emit (.frame n f)

/-- A frame leaves lane `n` as soon as it may. -/
def State.laneSend (s : State) (n : Nat) (f : List (BitVec 64)) : State := s.sendAt n (s.txStart10 n 0) f

/-- The markers sent so far leave in their slots and are counted (R99). DESIGN CHOICE, log 174. -/
def State.sendMarkers (s : State) (n : Nat) : State :=
  let x := s.lane n
  let k := s.markerSlots (s.rateOf n) x.amAt10 (10 * s.now)
  let t := s.setLane n { x with amCount := (x.amCount + k) % 2 ^ 24, amAt10 := max x.amAt10 (10 * s.now) }
  if k = 0 then t else t.emit (.markers n (s.rateOf n) x.amCount k)

/-- The same where the lane is lit and not halted: AM_COUNT does not advance under HALT (R109). -/
def State.markersDue (s : State) (n : Nat) : State := if s.laneLit n && !s.laneHalted n then s.sendMarkers n else s

/-- What fills the free slots of lane `n`. -/
def State.filler (s : State) (n : Nat) : BitVec 64 := if s.laneHalted n then haltBlock else idleBlock

/-- A lane begins to transmit, or begins at another rate: IDLE, or HALT from its first block while the request stands, with AM_COUNT counted
afresh (R99, R102, R109). -/
def State.startStream (s : State) (n : Nat) : State :=
  (s.setLane n { s.lane n with txFree10 := 10 * s.now, amCount := 0, amAt10 := 10 * s.now }).emit (.fill n (s.filler n))

/-- Training begins anew on a lane that transmits: the markers sent before it no longer count (R99). -/
def State.restartMarkers (s : State) (n : Nat) : State :=
  let t := s.markersDue n
  t.setLane n { t.lane n with amCount := 0, amAt10 := 10 * s.now }

/-- A halt request reaches lane `n`: HALT from the next block boundary on, the frame in progress abandoned (R60, R61, R109). -/
def State.haltLane (s : State) (n : Nat) : State :=
  if s.laneLit n then
    let t := s.sendMarkers n
    (t.setLane n { t.lane n with txFree10 := 10 * s.now }).emit (.fill n haltBlock)
  else s

/-- The halt is released on lane `n`: IDLE until its next marker slot (R109). -/
def State.unhaltLane (s : State) (n : Nat) : State :=
  if s.laneLit n then (s.setLane n { s.lane n with amAt10 := 10 * s.now }).emit (.fill n idleBlock) else s

/-- The halt requests have changed, `was` being whether either stood before: both must fall for the halt to end (R109, R302). -/
def State.haltEdge (was : Bool) (s : State) : State :=
  if s.haltReq = was then s
  else if was then
    (List.range 48).foldl (fun (t : State) n => t.unhaltLane n) { s with safe := { s.safe with haltEndAt := s.now } }
  else (List.range 48).foldl (fun (t : State) n => t.haltLane n) s

end Sys2Proof.Machine
end

