-- ==== Sys2Proof/Machine/Trip.lean ====
section
/-! DEFINITION. The safety core: fence parameters as they act, class A functions, trips and controlled stops, and what each
safety state drives (R303–R305, R307, R311–R315, R323). -/

namespace Sys2Proof.Machine

open Sys2Proof

/-! ### Fence parameters as they act (R323) -/

/-- The active word of a fence parameter: while a committed value is pending, the one in force before. -/
def State.actReg (s : State) (a : Nat) : Word := (KMap.get (fun _ => none) s.safe.active a).getD (s.reg a)

/-- The active value of a fence parameter's field. -/
def State.aget (s : State) (f : Fld) : Nat := f.read (s.actReg f.reg)

/-- Codes of SAFE_STAT.STATE (R311). -/
abbrev safeTest : Nat := 0
abbrev safeLockout : Nat := 1
abbrev safeNormal : Nat := 2
abbrev safeCstop : Nat := 3

/-- The safety state. -/
def State.safeState (s : State) : Nat := s.get F.SAFE_STAT_STATE

/-- The safety state and the supervisor's copy of it (R310, R311). -/
def State.setSafe (s : State) (v : Nat) : State := (s.put F.SAFE_STAT_STATE v).put F.SAFE_STAT_SV_STATE v

/-- The supervisor channel evaluates its functions: the supervisor runs and no restart window is open (R309, log 15). -/
def State.svAlive (s : State) : Bool := s.on F.SYS_STAT_SVR_UP && !s.on F.SAFE_STAT_SV_WINDOW

/-! ### Inputs and functions (R304, R305) -/

/-- TYPE of an input, 3 acting as 0. -/
def State.siType (s : State) (i : Nat) : Nat := let t := s.aget (F.SAFE_SI_TYPE i); if t = 3 then 0 else t

/-- Whether contact A, and contact B, of an input demands (R304). -/
def State.siDemand (s : State) (i : Nat) : Bool × Bool :=
  match s.siType i with
  | 1 => (!s.safe.closedA.testBit i, !s.safe.closedB.testBit i)
  | 2 => (!s.safe.closedA.testBit i, s.safe.closedB.testBit i)
  | _ => (false, false)

/-- Whether an input is active (R304). -/
def State.siActive (s : State) (i : Nat) : Bool :=
  s.siType i ≠ 0 && ((s.siDemand i).1 || (s.siDemand i).2 || s.safe.discLatch.testBit i)

/-- KIND of a function, 6–15 acting as 0. -/
def State.fnKind (s : State) (f : Nat) : Nat := let k := s.aget (F.SAFE_FN_KIND f); if 6 ≤ k then 0 else k

/-- Whether an enabled side of comparator `n` is tripped; comparators above 11 act as unused (R305). -/
def sideTripped (sides side n : Nat) : Bool :=
  n < 12 && ((side.testBit 0 && sides.testBit n) || (side.testBit 1 && sides.testBit (16 + n)))

/-- Whether function `f` demands a trip, with the given comparator sides tripped (R305). -/
def State.fnDemand (s : State) (sides f : Nat) : Bool :=
  match s.fnKind f with
  | 1 | 2 =>
    let side := s.aget (F.SAFE_FN_SIDE f)
    sideTripped sides side (s.aget (F.SAFE_FN_SRC_A f)) || sideTripped sides side (s.aget (F.SAFE_FN_SRC_B f))
  | 3 | 4 | 5 => s.siActive (s.aget (F.SAFE_FN_SRC_A f) % 8) && s.aget (F.SAFE_FN_SRC_A f) < 8
  | _ => false

/-- Whether a broken class A line makes a channel treat function `f` as tripped (R308). -/
def State.fnBroken (s : State) (ch : Chan) (f : Nat) : Bool :=
  s.flt.broken.any (fun b => match b.2 with
    | .classA g c => g.val = f && c = ch
    | _ => false)

/-- The functions a channel finds tripped, as a mask (R305, R308). -/
def State.fnMask (s : State) (ch : Chan) (sides : Nat) : Nat :=
  (List.range 16).foldl (fun m f => if s.fnDemand sides f || s.fnBroken ch f then setBit m f else m) 0

/-! ### What each state drives (R302, R303) -/

/-- ROLE of an output, 3 acting as 0. -/
def State.soRole (s : State) (o : Nat) : Nat := let r := s.aget (F.SAFE_SO o); if r = 3 then 0 else r

/-- Whether an output is wanted energised (R303). -/
def State.soWanted (s : State) (o : Nat) : Bool :=
  match s.soRole o with
  | 1 => (s.safeState = safeNormal || s.safeState = safeCstop) && !s.safe.named.testBit o && s.rst.preAt.isNone
  | 2 => s.safeState = safeNormal && s.bitOf F.SAFE_SO_CMD o && s.rst.preAt.isNone
  | _ => false

/-- The outputs wanted, as a mask. -/
def State.soWantedMask (s : State) : Nat := (List.range 4).foldl (fun m o => if s.soWanted o then setBit m o else m) 0

/-- Switch B: held through a restart window, opened by a failed fence, a pre-reset phase or, even then, an overload (R303, R309, R310, R390,
R396). -/
def State.swB (s : State) : Nat :=
  if s.safe.fenceFailed || s.rst.preAt.isSome then 0
  else (if s.on F.SAFE_STAT_SV_WINDOW then s.get F.SAFE_OUT_SW_B else s.soWantedMask) &&& (15 - s.safe.soOver % 16)

/-- The switches follow; a change of an output is timed for its feedbacks, which are judged afresh (R303, R306). -/
def State.driveOutputs (s : State) : State :=
  let a := s.soWantedMask
  let b := s.swB
  let old := s.get F.SAFE_OUT_ENERGISED
  let en := a &&& b
  let at' := (List.range 4).map (fun o => if en.testBit o = old.testBit o then s.safe.outAt.getD o 0 else s.now)
  let keep := fun (m0 : Nat) => (List.range 8).foldl
    (fun m f => let o := s.aget (F.SAFE_FB_SO f); if en.testBit o = old.testBit o then m else clearBit m f) m0
  let s := { s with safe := { s.safe with outAt := at', fbMet := keep s.safe.fbMet, fbBad := keep s.safe.fbBad } }
  ((s.put F.SAFE_OUT_SW_A a).put F.SAFE_OUT_SW_B b).put F.SAFE_OUT_ENERGISED en

/-- Whether the safety state asks for the halt requests (R302, R311, R390). -/
def State.haltWanted (s : State) : Bool :=
  s.safeState = safeTest || s.safeState = safeLockout || s.time.stopped || s.rst.preHalt

/-- Both channels enforce the state: halt requests, outputs, the freeze and the PWM trip on the fence's halt (R302, R303, R286,
R295). The supervisor's request is asserted while it runs, and released with the fence's in any case (R311, R319). -/
def State.enforce (s : State) : State :=
  let h := b2n s.haltWanted
  let was := s.haltReq
  let s := if s.safe.fenceFailed then s else s.put F.SAFE_STAT_HALT_FENCE h
  let s := (if s.svAlive || !s.haltWanted then s.put F.SAFE_STAT_HALT_SV h else s).haltEdge was
  s.driveOutputs.updateFreeze.pwmScan

/-! ### Trips and controlled stops (R311, R312, R315) -/

/-- The module lock-out of R48: a yard in RUN stops at the next period boundary. -/
def State.yardLockout (s : State) : State :=
  if s.get F.YARD_STAT_STATE = 2 && s.yard.stopPend.isNone then { s with yard := { s.yard with stopPend := some s.yard.bnd } } else s

/-- SAFE_CAUSE and SAFE_CAUSE_CTB (R311). DEDUCED, log 115. -/
def State.recordCause (s : State) (c : Cause) : State :=
  let s := ((s.put F.SAFE_CAUSE_CODE c.code).put F.SAFE_CAUSE_INDEX c.index).put F.SAFE_CAUSE_CHANNEL c.chan
  (s.put (F.SAFE_CAUSE_CTB 0) (s.ctb % 2 ^ 32)).put (F.SAFE_CAUSE_CTB 1) (s.ctb / 2 ^ 32)

/-- Causes of a lock-out that a withdrawal follows (R381). -/
def withdrawCause (c : Nat) : Bool := [0x04, 0x06, 0x07, 0x0A, 0x0B, 0x0C, 0x0D, 0x0E, 0x10].contains c

/-- The partner's PSTAT of the last 2 periods reports SAFE NORMAL, CH_OK = 1 and FIT ≠ 0 (R381, R390). -/
def State.partnerServes (s : State) : Bool :=
  match s.pair.partner with
  | none => false
  | some p =>
    p.safe = safeNormal && p.chOk && p.fit ≠ 0 && decide ((s.get (F.YARD_PERIOD_NUM 0) + 2 ^ 32 - p.period) % 2 ^ 32 ≤ 1)

/-- A lock-out that meets R381 with a partner fit to serve starts the withdrawal's 50 µs. -/
def State.withdrawArm (s : State) : State :=
  if s.on F.PAIR_CFG_EN && s.on F.PAIR_CFG_WITHDRAW_EN && withdrawCause (s.get F.SAFE_CAUSE_CODE) && s.partnerServes then
    { s with pair := { s.pair with withdrawAt := some s.now } }
  else s

/-- LOCKOUT is entered (R311, R381). -/
def State.enterLockout (s : State) : State :=
  let s := ((s.setSafe safeLockout).raise Base.SAFE 2).withdrawArm
  { s with safe := { s.safe with lockAt := s.now } }.yardLockout.enforce

/-- Outputs named by a cause (R303). -/
def State.nameOutputs (s : State) (m : Nat) : State := { s with safe := { s.safe with named := s.safe.named ||| m } }

/-- A trip by a cause (R315): in TEST it is kept until the tests end, in LOCKOUT it only names its outputs (log 16). -/
def State.trip (s : State) (c : Cause) : State :=
  if s.safeState = safeTest then
    { s with safe := { s.safe with testCause := some (s.safe.testCause.getD c) } }
  else if s.safeState = safeLockout then (s.nameOutputs c.names).enforce
  else (((((s.nameOutputs c.names).recordCause c).cnt F.SAFE_TRIPS).raise Base.SAFE 0)).enterLockout

/-- Every BREAKER output (R315). -/
abbrev allOutputs : Nat := 15

/-- A controlled stop by a cause; only NORMAL enters CSTOP (R311, R312). DEDUCED, log 151. -/
def State.cstop (s : State) (c : Cause) : State :=
  if s.safeState = safeNormal then
    let s := (((s.recordCause c).setSafe safeCstop).cnt F.SAFE_CSTOPS).raise Base.SAFE 1
    let s := { s with pair := { s.pair with csYielded := false } }
    { s with safe := { s.safe with cstopAt := s.now } }.yardLockout.enforce
  else s

/-- The reaction of class A function `f` in channel `chan` (R305, R311). -/
def State.fnReact (chan : Nat) (s : State) (f : Nat) : State :=
  let c : Cause := ⟨chan, 1, f, s.aget (F.SAFE_FN_TRIP_SO f)⟩
  if s.aget (F.SAFE_FN_ACT f) = 0 then s.trip c else s.cstop c

/-- The times since which the channels differ on each function follow SAFE_FN_LIVE (R307). -/
def State.diffUpdate (s : State) : State :=
  let x := s.get F.SAFE_FN_LIVE_FENCE ^^^ s.get F.SAFE_FN_LIVE_SV
  let d := (List.range 16).foldl
    (fun m f => KMap.set (fun _ => none) m f
      (if x.testBit f then some ((KMap.get (fun _ => none) s.safe.diffAt f).getD s.now) else none)) s.safe.diffAt
  { s with safe := { s.safe with diffAt := d, disagreed := s.safe.disagreed &&& x } }

/-- The comparator sides tripped now: high in bits 11:0, low in bits 27:16 (R268). -/
def State.sidesLive (s : State) : Nat := s.get F.ADC_CMP_LIVE_HI + 2 ^ 16 * s.get F.ADC_CMP_LIVE_LO

/-- The fence evaluates every class A function at once and reacts to those newly tripped (R302, R305). -/
def State.fenceJudge (s : State) : State :=
  if s.safe.fenceFailed then s
  else
    let m := s.fnMask .fence s.sidesLive
    let old := s.get F.SAFE_FN_LIVE_FENCE
    let s := (s.put F.SAFE_FN_LIVE_FENCE m).diffUpdate
    ((List.range 16).filter (fun f => m.testBit f && !old.testBit f)).foldl (State.fnReact 1) s

/-- The supervisor evaluates every class A function, on the sides live now or held by its capture latches (R302). -/
def State.svJudge (s : State) : State :=
  if s.svAlive then
    let m := s.fnMask .supervisor (s.sidesLive ||| s.safe.capture)
    let old := s.get F.SAFE_FN_LIVE_SV
    let s := ((s.put F.SAFE_FN_LIVE_SV m).diffUpdate)
    let s := { s with safe := { s.safe with capture := 0 } }
    ((List.range 16).filter (fun f => m.testBit f && !old.testBit f)).foldl (State.fnReact 2) s
  else s

end Sys2Proof.Machine
end

