-- ==== Sys2Proof/Machine/Records.lean ====
section
/-! DEFINITION. The stall records: their words, their configuration, descriptor, uplink and link fields (R36–R40, R53, R88, R89). -/

namespace Sys2Proof.Machine

open Sys2Proof

/-- The dword at offset `o` of stall record `i`. -/
def State.rword (s : State) (i o : Nat) : Nat := s.load (0x800000 + 0x1000 * i + o) 4

/-- The dword at offset `o` of stall record `i` replaced. -/
def State.setRec (s : State) (i o v : Nat) : State := s.store (0x800000 + 0x1000 * i + o) 4 v

/-- A counter word of a stall record raised by 1, saturating (R89). -/
def State.cntRec (s : State) (i o : Nat) : State := s.setRec i o (min (s.rword i o + 1) (2 ^ 32 - 1))

/-- A field of a record word. -/
def State.recF (s : State) (i o lo len : Nat) : Nat := bits (s.rword i o) (lo + len - 1) lo

/-- A field of a record word replaced. -/
def State.setRecF (s : State) (i o lo len v : Nat) : State :=
  s.setRec i o ((Fld.write ⟨0, lo, len⟩ (BitVec.ofNat 32 (s.rword i o)) v).toNat)

/-! Offsets of the words of a record (R53, R88, R89). -/

abbrev offCfg : Nat := 0x000
abbrev offLink : Nat := 0x004
abbrev offPath : Nat := 0x008
abbrev offNodeId : Nat := 0x00C
abbrev offUpPeriod : Nat := 0x100
abbrev offUpTstamp : Nat := 0x104
abbrev offUpStatus : Nat := 0x108
abbrev offUpValid : Nat := 0x10C
abbrev offM : Nat := 0x110
abbrev offUpSat : Nat := 0x130
abbrev offCmd : Nat := 0x200
abbrev offDnEdge : Nat := 0x300
abbrev offDnPeriod : Nat := 0x360
abbrev offDnFlags : Nat := 0x364
abbrev offUlOk : Nat := 0x400
abbrev offUlCrc : Nat := 0x404
abbrev offUlLate : Nat := 0x408
abbrev offUlMiss : Nat := 0x40C
abbrev offUlDup : Nat := 0x410
abbrev offDlSent : Nat := 0x414
abbrev offDlSkip : Nat := 0x418
abbrev offNodeRej : Nat := 0x41C
abbrev offMgmtFail : Nat := 0x420
abbrev offLkCfg : Nat := 0x424
abbrev offPathDly : Nat := 0x428
abbrev offLkState : Nat := 0x42C
abbrev offClrRefused : Nat := 0x430

/-- ENABLE of a record. -/
def State.enabled (s : State) (i : Nat) : Bool := s.recF i offCfg 31 1 ≠ 0
/-- KIND of a record. -/
def State.kindOf (s : State) (i : Nat) : Nat := s.recF i offCfg 28 2
/-- ARM of a record. -/
def State.armOf (s : State) (i : Nat) : Nat := s.recF i offCfg 25 3
/-- SCALE_SEL of a record. -/
def State.scaleOf (s : State) (i : Nat) : Nat := s.recF i offCfg 23 2
/-- HOLD_LIMIT of a record. -/
def State.holdLimit (s : State) (i : Nat) : Nat := s.recF i offCfg 21 2 + 1
/-- LEVELS of a record. -/
def State.levelsOf (s : State) (i : Nat) : Nat := s.recF i offCfg 8 7
/-- LEG_EN of a record. -/
def State.legEn (s : State) (i : Nat) : Nat := s.recF i offCfg 0 6
/-- LANE of a record. -/
def State.laneOf (s : State) (i : Nat) : Nat := s.recF i offLink 0 6
/-- PATH of a record. -/
def State.pathOf (s : State) (i : Nat) : Nat := s.rword i offPath
/-- Measurement slot `m` of a record, signed Q1.15 (R53). -/
def State.slotM (s : State) (i m : Nat) : Int := sx 16 (s.recF i (offM + 4 * (m / 2)) (16 * (m % 2)) 16)
/-- UP_VALID bit of a slot (R53). -/
def State.slotValid (s : State) (i m : Nat) : Bool := (s.rword i offUpValid).testBit m
/-- AGE of a record (R53). -/
def State.ageOf (s : State) (i : Nat) : Nat := s.recF i offUpValid 16 16
/-- Command slot C`c` of a record, signed Q1.15. -/
def State.slotC (s : State) (i c : Nat) : Int := sx 16 (s.recF i (offCmd + 4 * (c / 2)) (16 * (c % 2)) 16)
/-- A word of record `i`'s uplink area is poisoned: the record has no valid uplink (R333). -/
def State.uplinkPoisoned (s : State) (i : Nat) : Bool :=
  s.flt.poisoned.any (fun p => p.1 = 3 && 0x800100 + 0x1000 * i ≤ p.2 + 7 && p.2 < 0x800134 + 0x1000 * i)
/-- NSTATE in the last uplink (R80). -/
def State.nstate (s : State) (i : Nat) : Nat := s.recF i offUpStatus 28 4
/-- A bit of UP_STATUS (R80). -/
def State.upBit (s : State) (i b : Nat) : Bool := (s.rword i offUpStatus).testBit b
/-- LK_STATE (R89): 0 ABSENT, 1 ENUMERATED, 2 PRECHARGE, 3 ACTIVE, 4 REMOVING, 5 FAULTED. -/
def State.lkState (s : State) (i : Nat) : Nat := s.recF i offLkState 0 3
/-- LK_STATE replaced. -/
def State.setLk (s : State) (i v : Nat) : State := s.setRecF i offLkState 0 3 v
/-- LASTING of a record (R90). -/
def State.lasting (s : State) (i : Nat) : Bool := s.recF i offLkState 8 1 ≠ 0
/-- D_path of a record in 1/64 tick (R89). -/
def State.pathDly (s : State) (i : Nat) : Nat := s.recF i offPathDly 0 24

abbrev lkAbsent : Nat := 0
abbrev lkEnumerated : Nat := 1
abbrev lkPrecharge : Nat := 2
abbrev lkActive : Nat := 3
abbrev lkRemoving : Nat := 4
abbrev lkFaulted : Nat := 5

/-- NODE_KIND of the descriptor: 1 cell, 2 opaque shed, 3 relay (R88). -/
def State.nodeKind (s : State) (i : Nat) : Nat := s.recF i 0x044 26 2
/-- LEGS the node declares (R88). -/
def State.nodeLegs (s : State) (i : Nat) : Nat := s.recF i 0x044 20 6
/-- DT_MIN of the node in ticks (R88). -/
def State.dtMin (s : State) (i : Nat) : Nat := s.recF i 0x048 0 16
/-- PRECHG_MS of the node (R88). -/
def State.prechgMs (s : State) (i : Nat) : Nat := s.recF i 0x04C 0 16
/-- INSERTABLE (R88). -/
def State.insertable (s : State) (i : Nat) : Bool := s.recF i 0x044 4 1 ≠ 0
/-- BYP_CLOSED when the descriptor was read (R88). -/
def State.bypClosed (s : State) (i : Nat) : Bool := s.recF i 0x044 6 1 ≠ 0
/-- BYP_REOPEN (R88). -/
def State.bypReopen (s : State) (i : Nat) : Bool := s.recF i 0x044 7 1 ≠ 0

/-- Signal class of measurement slot `m` of a stall (R54). -/
def State.classOf (s : State) (i m : Nat) : Nat :=
  match m with
  | 0 => 0
  | 1 => 1
  | 2 => 2
  | 3 => 3
  | 4 => 4
  | 5 => 11
  | 6 => 9
  | 7 => 10
  | _ => s.recF i 0x070 (4 * (m - 8)) 4

/-- The stall numbers. -/
def stalls : List Nat := List.range 192

/-- The enabled records, ascending. -/
def State.enabledList (s : State) : List Nat := stalls.filter s.enabled

/-- The enabled records on lane `n`, ascending. -/
def State.onLane (s : State) (n : Nat) : List Nat := s.enabledList.filter (fun i => s.laneOf i = n)

/-- Whether arm `a` is enabled. -/
def State.armEn (s : State) (a : Nat) : Bool := a < 6 && s.on (F.YARD_ARM_EN a)

/-- The enabled arms as a mask. -/
def State.armsEn (s : State) : Nat := (List.range 6).foldl (fun m a => if s.armEn a then setBit m a else m) 0

/-- Whether stall `i` takes part in the sort (YARD_ACTIVE). -/
def State.inSort (s : State) (i : Nat) : Bool := s.bitOf (F.YARD_ACTIVE (i / 32)) (i % 32)

/-- The stalls in the sort, ascending. -/
def State.sortList (s : State) : List Nat := stalls.filter s.inSort

/-- YARD_ACTIVE bit of a stall; STAT.ACTIVE is the number of stalls in the sort. -/
def State.setInSort (s : State) (i : Nat) (b : Bool) : State :=
  let t := s.putBitOf (F.YARD_ACTIVE (i / 32)) (i % 32) b
  t.put F.YARD_STAT_ACTIVE ((List.range 6).foldl (fun n w => n + popcount 32 (t.get (F.YARD_ACTIVE w))) 0)

/-- Codes of YARD_STAT.STATE (R48). -/
abbrev yardConfig : Nat := 0
abbrev yardChecked : Nat := 1
abbrev yardRun : Nat := 2
abbrev yardStopping : Nat := 3

/-- The yard state. -/
def State.yardState (s : State) : Nat := s.get F.YARD_STAT_STATE

/-- RUN or STOPPING. -/
def State.running (s : State) : Bool := s.yardState = yardRun || s.yardState = yardStopping

/-- P in ticks of the period in progress (R44, R46). -/
def State.perTicks (s : State) : Nat := s.yard.half * 2500

/-- The nibbles of a path up to the first 0 (R37). -/
def pathNibbles (p : Nat) : List Nat := ((List.range 8).map (fun i => bits p (4 * i + 3) (4 * i))).takeWhile (fun n => n ≠ 0)

/-- A non-zero nibble follows a 0 nibble (R37). -/
def pathMalformed (p : Nat) : Bool := p ≠ (pathNibbles p).foldr (fun n a => n + 16 * a) 0

/-- Two paths of one lane conflict: one is a prefix of the other (R38). -/
def pathsConflict (p q : Nat) : Bool := (pathNibbles p).isPrefixOf (pathNibbles q) || (pathNibbles q).isPrefixOf (pathNibbles p)

end Sys2Proof.Machine
end

