-- ==== Sys2Proof/Machine/Result.lean ====
section
/-! DEFINITION. Addresses inside block windows (R11), and reads of result registers and result FIFOs (R22, R23, R401). -/

namespace Sys2Proof.Machine

open Sys2Proof

/-- The canonical address a register-window address reaches: normal page, bits [11:10] and [1:0] 0 (R11). -/
def canon (a : Nat) : Nat := a / 0x10000 * 0x10000 + a / 0x1000 % 4 * 0x1000 + a % 0x400 / 4 * 4

/-- The alias an address goes through: 0 normal, 1 set, 2 clear, 3 toggle. -/
def aliasOf (a : Nat) : Nat := a / 0x4000 % 4

/-- The dword of a result that carries FRESH, STALE, EMPTY and SEQ, over 16 bits of VALUE (R22, R23). -/
def ctlDword (v16 seq : Nat) (fresh stale empty : Bool) : Word :=
  BitVec.ofNat 32 (v16 % 2 ^ 16 + 2 ^ 16 * (seq % 256) + 2 ^ 29 * b2n empty + 2 ^ 30 * b2n stale + 2 ^ 31 * b2n fresh)

/-- The master of an access: the supervisor makes a remote station's accesses (R20, R239). DEDUCED, log 139. -/
def busMaster : Master → Master
  | .host => .host
  | _ => .supervisor

/-- The copy captured for a master of the dword at `a`, within 64 fabric cycles of its capture (R23). DEDUCED, log 149. -/
def State.capturedCopy (s : State) (m : Master) (a : Nat) : Option Capture :=
  s.captures.find? (fun c => c.m = busMaster m ∧ c.addr = a ∧ s.now ≤ c.time + 64 * cyc)

/-- A master's copy of a dword dropped. -/
def State.dropCopy (s : State) (m : Master) (a : Nat) : State :=
  { s with captures := s.captures.filter (fun c => !(decide (c.m = busMaster m) && decide (c.addr = a))) }

/-- The dword at `a` captured for a master. -/
def State.captureCopy (s : State) (m : Master) (a : Nat) (w : Word) (seq : Nat) : State :=
  let t := s.dropCopy m a
  { t with captures := t.captures ++ [⟨busMaster m, a, w, seq, s.now⟩] }

/-- FRESH of the result whose control part is kept at `a` clears when the dword carrying it is returned, if the result is still that
one (R23). -/
def State.unfresh (s : State) (a seq : Nat) : State :=
  if (s.res a).seq = seq then s.setRes a { s.res a with fresh := false } else s

/-- A read of the first dword of a pair returns `lo` and captures `hi` for the master; a 64-bit read returns both (R23). -/
def State.pairRead (s : State) (m : Master) (a : Nat) (wide : Bool) (lo hi : Word) (seq : Nat) : State :=
  if wide then { s.unfresh (a + 4) seq with readData := [lo, hi] }
  else { s.captureCopy m (a + 4) hi seq with readData := [lo] }

/-- A read of the second dword of a pair: the captured copy, else the live dword `hi` (R23). -/
def State.highRead (s : State) (m : Master) (a : Nat) (hi : Word) : State :=
  match s.capturedCopy m a with
  | some c => { (s.dropCopy m a).unfresh a c.seq with readData := [c.value] }
  | none => { (s.dropCopy m a).unfresh a (s.res a).seq with readData := [hi] }

/-- The live control dword of the result kept at `a`. -/
def State.ctlLive (s : State) (a : Nat) : Word :=
  let r := s.res a
  ctlDword (r.value / 2 ^ 32) r.seq r.fresh r.busy false

/-- A word of a FIFO's memory is still poisoned: its entry waits in the FIFO, or nothing has been stored since it left (R333).
DESIGN CHOICE, log 210. -/
def State.stillBad (s : State) (x : FifoBad) : Bool :=
  match x.left with
  | none => (s.fifo x.fifo).any (fun e => e.2 = x.entry)
  | some q => (s.res x.fifo).seq = q

/-- A pop of the entry numbered `q` meets an uncorrectable error where its word is poisoned (R328, R329, R333). -/
def State.fifoUe (s : State) (m : Master) (a q : Nat) : State :=
  let mine := fun (x : FifoBad) => decide (x.fifo = a) && decide (x.entry = q) && x.left.isNone
  if s.flt.fifoBad.any mine then
    let l := s.flt.fifoBad.map (fun x => if mine x then { x with left := some (s.res a).seq } else x)
    { s with flt := { s.flt with fifoBad := l.filter s.stillBad } }.err .bufferUe (masterCode m) 0 a
  else s

/-- A pop of the result FIFO at `a` by a read of its first dword, or its empty form, counted in `under` (R22, R23); a store of the same
fabric cycle is behind the pop (R401). -/
def State.fifoPop (s : State) (m : Master) (a : Nat) (wide : Bool) (under : Fld) : State :=
  match s.fifo a, s.fifoEmpty a with
  | (v, q) :: rest, false =>
    let s := ((s.fifoUe m a q).setFifo a rest).setRes (a + 4) ⟨v, q, true, false⟩
    s.pairRead m a wide (BitVec.ofNat 32 v) (ctlDword (v / 2 ^ 32) q true false false) q
  | _, _ => (s.cnt under).pairRead m a wide 0x8000#32 (ctlDword 0 (s.res (a + 4)).seq false false true) 256

/-- After a pop of the FIFO at `a`: a result that the full FIFO dropped earlier in the same fabric cycle is stored, by `store` (R401). -/
def State.afterPop (s : State) (a : Nat) (store : State → Spill → State) : State :=
  match s.unspill a with
  | some (p, t) => store t p
  | none => s

/-- A read of a 64-bit result register at `a`, whose result is kept at `a + 4` (R22, R23). -/
def State.resPairRead (s : State) (m : Master) (a : Nat) (wide : Bool) : State :=
  s.pairRead m a wide (BitVec.ofNat 32 (s.res (a + 4)).value) (s.ctlLive (a + 4)) (s.res (a + 4)).seq

/-- A read of a 32-bit result register at `a` (R22). -/
def State.resRead (s : State) (a : Nat) : State :=
  { s.unfresh a (s.res a).seq with readData := [ctlDword (s.res a).value (s.res a).seq (s.res a).fresh (s.res a).busy false] }

/-- Whether a read of a result FIFO takes both dwords: 64 bits at a multiple of 8 (R15, R23). -/
def readWide (r : ReadReq) : Bool := r.len = 2 ∧ r.addr.toNat % 8 = 0

end Sys2Proof.Machine
end

