-- ==== Sys2Proof/Machine/Time.lean ====
section
/-! DEFINITION. Time bases, alignment and discipline of the CTB, compare units and captures (R206–R212, R220, R221). -/

namespace Sys2Proof.Machine

open Sys2Proof

/-- The TIME block replaced. -/
def State.withTime (s : State) (t : TimeSt) : State := { s with time := t }

/-- CTB_STATE values (R212). -/
def ctbFree : Nat := 0
/-- TRACKING. -/
def ctbTracking : Nat := 1
/-- HOLDOVER. -/
def ctbHoldover : Nat := 2

/-- The CTB state. -/
def State.ctbState (s : State) : Nat := s.get F.TIME_STAT_CTB_STATE

/-! ### Wraps and snapshots (R207, R208) -/

/-- A wrap of TBn is recorded; the direction is forward or backward and byte n of TIME_ROLLCNT moves by `k` modulo 256 (R207).
DEDUCED, log 87. -/
def State.noteWrap (s : State) (n : Nat) (fwd : Bool) (k : Nat) : State :=
  let c := s.get ⟨A.TIME_ROLLCNT, 8 * n, 8⟩
  let s := s.put ⟨A.TIME_ROLLCNT, 8 * n, 8⟩ (if fwd then (c + k) % 256 else (c + 256 - k % 256) % 256)
  let s := s.setBitOf (if fwd then F.TIME_ROLL_FWD else F.TIME_ROLL_BACK) n
  s.raise Base.TIME 0

/-- Wraps of TBn since its epoch that have been recorded or excused. -/
def State.rolledOf (s : State) (n : Nat) : Nat := KMap.get (fun _ => 0) s.time.rolled n

/-- Wraps of TBn taken as recorded up to now. -/
def State.markRolled (s : State) (n : Nat) : State :=
  s.withTime { s.time with rolled := KMap.set (fun _ => 0) s.time.rolled n (s.tbFull n / 2 ^ 32) }

/-- Every wrap of TBn not yet recorded is recorded (R207). -/
def State.wrapTb (s : State) (n : Nat) : State :=
  let now := s.tbFull n / 2 ^ 32
  let was := s.rolledOf n
  if was < now then (s.noteWrap n true (now - was)).markRolled n
  else if now < was then (s.noteWrap n false (was - now)).markRolled n
  else s

/-- Root ticks until the unwrapped count of TBn reaches `t` ns, 0 where it has. -/
def State.ticksToTb (s : State) (n t : Nat) : Nat :=
  let up (f r goal : Nat) : Nat := if goal ≤ f then 0 else (goal - f + r - 1) / r
  if n = 0 then up s.time.domA.tf (scaled 1 s.time.domA.rate) (t * 5 * unit40)
  else if n = 1 then up s.time.domB.tf (scaled 1 s.time.domB.rate) (t * 5 * unit40)
  else if n = 2 then 5 * t - s.time.tb2
  else s.ticksToCtb (5 * t)

/-- TB_WRAP (R207, R388): time base n wraps; where no wrap waits to be recorded, time passes until its next forward wrap. -/
def execTbWrap (n : Fin 4) (s : State) : Host.Outcome State Fault Refusal :=
  if s.time.stopped then .next s
  else
    let s := if s.tbFull n.val / 2 ^ 32 = s.rolledOf n.val then s.advance (s.ticksToTb n.val ((s.rolledOf n.val + 1) * 2 ^ 32)) else s
    .next (s.wrapTb n.val)

/-- The CTB, TB0–TB3 and TIME_ROLLCNT are captured in one root cycle (R208). -/
def State.timeSnap (s : State) : State :=
  let s := (List.range 4).foldl (fun (t : State) n => t.setReg (A.TIME_SNAP_TB n) (BitVec.ofNat 32 (s.tb n))) s
  let s := (s.setReg (A.TIME_SNAP_CTB 0) (BitVec.ofNat 32 s.ctb)).setReg (A.TIME_SNAP_CTB 1) (BitVec.ofNat 32 (s.ctb / 2 ^ 32))
  (s.setReg A.TIME_SNAP_ROLLCNT (s.reg A.TIME_ROLLCNT)).put F.TIME_CTRL_SNAP 0

/-- TIME_SNAP (R208). -/
def execTimeSnap (s : State) : Host.Outcome State Fault Refusal := .next s.timeSnap

/-! ### Sources and alignment (R210, R212, R378) -/

/-- The state field of a domain. -/
def domStateFld : Dom → Fld
  | .a => F.TIME_STAT_DOMA_STATE
  | .b => F.TIME_STAT_DOMB_STATE

/-- A domain's state: 0 DISABLED, 1 LISTENING, 2 UNCALIBRATED, 3 LOCKED, 4 HOLDOVER (R214). -/
def State.domState (s : State) (d : Dom) : Nat := s.get (domStateFld d)

/-- The partner qualifies as a source (R378). -/
def State.partnerQualifies (s : State) : Bool :=
  s.get F.PAIR_STAT_STATE = 2 && decide (16 ≤ s.pair.ctbRun) &&
    [48, 49].any (fun n => s.get (F.LANE_STAT_STATE n) = 4 && s.on (F.LANE_STAT_DELAY_VALID n))

/-- Whether source `sel` qualifies; 3 names none (R212). -/
def State.qualifies (s : State) (sel : Nat) : Bool :=
  match sel with
  | 0 => s.domState .a = 3
  | 1 => s.domState .b = 3
  | 2 => s.partnerQualifies
  | _ => false

/-- T_src × 5 of a source in 2⁻⁴⁰ of a tick: a domain's time, or the partner's CTB as its last PSTAT gave it (R210, R378). -/
def State.srcTime (s : State) (sel : Nat) : Nat :=
  match sel with
  | 0 => s.time.domA.tf
  | 1 => s.time.domB.tf
  | _ => ((s.time.ctbF : Int) - s.pair.ctbGap * 2 ^ 34).toNat

/-- RATE_MAX in 2⁻⁴⁰: 0 acts as 0.1 ppm, above 100 as 10 ppm (R209). -/
def State.rateMax (s : State) : Int :=
  let r := s.get F.TIME_SERVO_RATE_MAX
  ((min (if r = 0 then 1 else r) 100 * unit40 / 10000000 : Nat) : Int)

/-- How far y may move in one update, 2⁻⁴⁰: RATE_SLEW × 1 ms, 0 acting as 10 ppb/s (R209). -/
def State.rateSlew (s : State) : Int := ((s.getOr F.TIME_SERVO_RATE_SLEW 1 * unit40 / 100000000000 : Nat) : Int)

/-- The rate of a source relative to the OCXO; the partner's own rate is a free value (R211). DESIGN CHOICE, log 89. -/
def State.srcRate (s : State) (sel : Nat) : Int :=
  match sel with
  | 0 => s.time.domA.rate
  | 1 => s.time.domB.rate
  | _ => sx 32 (s.free 32)

/-- The state after the rate of source `sel` has been read. -/
def State.srcDrew (s : State) (sel : Nat) : State := if sel < 2 then s else s.drew

/-- The rate y replaced, with TIME_CTB_RATE (R209). -/
def State.setRate (s : State) (y : Int) : State :=
  (s.withTime { s.time with y := y }).setReg A.TIME_CTB_RATE (BitVec.ofInt 32 y)

/-- The conditions of alignment that belong to the source, the lanes and the yard (R210). -/
def State.alignOk (s : State) : Bool :=
  s.qualifies (s.get F.TIME_CTRL_SEL) && (List.range 48).all (fun n => s.get (F.LANE_STAT_STATE n) = 0) &&
    (s.yardState = yardConfig || s.yardState = yardChecked)

/-- ALIGN_PEND (R210). -/
def State.alignPend (s : State) : Bool := s.on F.TIME_CTRL_ALIGN_EN && s.ctbState = ctbFree && !s.alignOk

/-- The CTB is loaded with `f`: by its step the partner's CTB now lies further from it (R210, R382). -/
def State.ctbLoad (s : State) (f : Nat) : State :=
  let d := (f : Int) - (s.time.ctbF : Int)
  let s := { s with pair := { s.pair with ctbGap := s.pair.ctbGap + d / 2 ^ 34 } }
  s.withTime { s.time with ctbF := f, jumps := (s.now, d / 2 ^ 40) :: s.time.jumps.filter (fun x => decide (s.now ≤ x.1 + 20000)) }

/-- Alignment: the CTB is loaded from the source in one root cycle (R210, R212). Period boundaries are whole multiples of P of the new
CTB; no wrap of TB3 is recorded (R207). DEDUCED, log 98. DESIGN CHOICE, log 170. -/
def State.align (s : State) : State :=
  let sel := s.get F.TIME_CTRL_SEL
  let was := s.ctbState
  let s := s.ctbLoad (s.srcTime sel)
  let s := if was = ctbFree then (s.setRate (clampI (-s.rateMax) s.rateMax (s.srcRate sel))).srcDrew sel else s
  let s := (s.put F.TIME_STAT_CTB_STATE ctbTracking).put F.TIME_STAT_SRC_ACT sel
  let s := ((s.put F.TIME_STAT_ALIGNED 1).put F.TIME_CTRL_ALIGN 0).markRolled 3
  let s := (List.range 8).foldl
    (fun (t : State) n => if t.get (F.TIME_CMP_CFG_TB n) = 3 then t.put (F.TIME_CMP_CFG_EN n) 0 else t) s
  let s := s.withTime { s.time with servoAt := s.now }
  let p := s.perTicks
  let s := { s with yard := { s.yard with tk := if p = 0 then s.yard.tk else s.ctb / p * p } }
  let s := s.raise Base.TIME 7
  if was = ctbFree then s.raise Base.TIME 3 else s

/-- An ALIGN write: alignment where its conditions hold, else refused and counted (R210). -/
def State.alignWrite (s : State) : State :=
  if s.alignOk then s.align
  else (((s.put F.TIME_CTRL_ALIGN 0).put F.TIME_FAULT_STAT_ALIGN_REFUSED 1).cnt F.TIME_ERR_COUNT_ALIGN_REFUSED_COUNT).noteDrop

/-- ALIGN (R210). -/
def execAlign (s : State) : Host.Outcome State Fault Refusal := .next s.alignWrite

/-- CTB_AUTO_ALIGN (R210): with ALIGN_EN and the CTB FREE, alignment takes place as soon as the conditions hold. -/
def execCtbAutoAlign (s : State) : Host.Outcome State Fault Refusal :=
  if s.on F.TIME_CTRL_ALIGN_EN && s.ctbState = ctbFree && s.alignOk then .next s.align else .next s

/-! ### Discipline (R211, R212) -/

/-- Since when each source has qualified without a break, brought up to date. DEDUCED, log 91. -/
def State.noteQualified (s : State) : State :=
  let q := (List.range 3).map (fun i =>
    if s.qualifies i then some ((s.time.qualSince.getD i none).getD s.now) else none)
  s.withTime { s.time with qualSince := q }

/-- A source has qualified for 60 s without a break. -/
def State.qualifiedLong (s : State) (sel : Nat) : Bool :=
  match s.time.qualSince.getD sel none with
  | some t => s.qualifies sel && decide (t + 60 * sec ≤ s.now)
  | none => false

/-- The active source replaced, with CTB_SOURCE raised (R212). -/
def State.ctbSource (s : State) (st src : Nat) : State :=
  ((s.put F.TIME_STAT_CTB_STATE st).put F.TIME_STAT_SRC_ACT src).raise Base.TIME 3

/-- The mean of y over the last 16 s of TRACKING (R211). -/
def meanRate (l : List Int) (y : Int) : Int := if l.isEmpty then y else divHalfEven (sumI l) l.length

/-- The CTB enters HOLDOVER: y is frozen at its mean over the last 16 s (R211, R212). DEDUCED, log 90. -/
def State.ctbHold (s : State) : State := (s.setRate (meanRate s.time.yHist s.time.y)).ctbSource ctbHoldover 3

/-- The state machine of R212, judged at an update. -/
def State.ctbJudge (s : State) : State :=
  let sel := s.get F.TIME_CTRL_SEL
  let act := s.get F.TIME_STAT_SRC_ACT
  let fall := decide (sel < 2) && s.on F.TIME_CTRL_AUTO_FALL
  if s.ctbState = ctbTracking then
    if sel = 3 then s.ctbHold
    else if s.qualifies act then
      if act ≠ sel && s.qualifiedLong sel then s.ctbSource ctbTracking sel else s
    else if fall && decide (act < 2) && s.qualifies (1 - act) then s.ctbSource ctbTracking (1 - act)
    else s.ctbHold
  else if s.ctbState = ctbHoldover then
    if s.qualifies sel then s.ctbSource ctbTracking sel
    else if fall && s.qualifies (1 - sel) then s.ctbSource ctbTracking (1 - sel)
    else s
  else s

/-- θ of the active source, in ticks (R211). -/
def State.theta (s : State) : Int :=
  ((s.srcTime (s.get F.TIME_STAT_SRC_ACT) / unit40 : Nat) : Int) - ((s.time.ctbF / unit40 : Nat) : Int)

/-- OFFS_ALM in ticks, none where it is disabled (R211). -/
def State.offsLimit (s : State) : Option Nat :=
  if s.get F.TIME_LOCKCFG_OFFS_ALM = 0 then none else some (s.get F.TIME_LOCKCFG_OFFS_ALM * 500)

/-- The condition of OFFS_ALARM stands. -/
def State.offsBad (s : State) : Bool :=
  s.ctbState = ctbTracking &&
    (match s.offsLimit with | some l => decide (l < (sx 32 (s.reg A.TIME_CTB_OFFS).toNat).natAbs) | none => false)

/-- The condition of RATE_LIMIT stands: y at ±RATE_MAX. -/
def State.rateAtLimit (s : State) : Bool := s.ctbState ≠ ctbFree && decide (s.rateMax ≤ (s.time.y.natAbs : Int))

/-- The servo of R211, in TRACKING. -/
def State.servo (s : State) : State :=
  let th := s.theta
  let s := s.setReg A.TIME_CTB_OFFS (BitVec.ofInt 32 (clampI (-(2 ^ 31)) (2 ^ 31 - 1) th))
  let src := s.get F.TIME_STAT_SRC_ACT
  let tau := min (s.get F.TIME_SERVO_TAU_LOG2) 10
  let goal := clampI (-s.rateMax) s.rateMax (s.srcRate src + divHalfEven (th * (unit40 : Int)) (sec * 2 ^ tau))
  let y := clampI (-s.rateMax) s.rateMax (clampI (s.time.y - s.rateSlew) (s.time.y + s.rateSlew) goal)
  let s := (s.srcDrew src).setRate y
  let s := s.withTime { s.time with yHist := (y :: s.time.yHist).take 16000 }
  let s := if s.offsBad && !s.on F.TIME_FAULT_STAT_OFFS_ALARM then (s.put F.TIME_FAULT_STAT_OFFS_ALARM 1).raise Base.TIME 4 else s
  if s.rateAtLimit then s.put F.TIME_FAULT_STAT_RATE_LIMIT 1 else s

/-- CTB_SERVO_UPDATE (R211, R212): the next 1 ms update; in FREE, y stays 0. -/
def execCtbServoUpdate (s : State) : Host.Outcome State Fault Refusal :=
  if s.ctbState = ctbFree || s.time.stopped then .next s
  else
    let s := s.until (s.time.servoAt + ms)
    let s := s.withTime { s.time with servoAt := s.now }
    let s := s.noteQualified.ctbJudge
    .next (if s.ctbState = ctbTracking then s.servo else s)

/-! ### Compare units and capture (R220, R221) -/

/-- A forward step of TBn by `d` ns from `v0`: every armed ABS unit whose VAL it crosses fires in the next cycle (R220). -/
def State.stepCross (s : State) (n v0 d : Nat) : State :=
  let due := (List.range 8).foldl (fun m u =>
    if s.on (F.TIME_CMP_CFG_EN u) && s.get (F.TIME_CMP_CFG_TB u) = n && !s.on (F.TIME_CMP_CFG_MODE u) &&
        decide (0 < (s.get (F.TIME_CMP_VAL u) + 2 ^ 32 - v0) % 2 ^ 32 ∧ (s.get (F.TIME_CMP_VAL u) + 2 ^ 32 - v0) % 2 ^ 32 ≤ d)
    then setBit m u else m) s.time.cmpDue
  s.withTime { s.time with cmpDue := due }

/-- Unit `u` as software has just written it: its VAL and EN are judged from the next cycle (R220). -/
def State.cmpWritten (s : State) (u : Nat) : State :=
  s.withTime { s.time with cmpDue := clearBit s.time.cmpDue u,
                           cmpFrom := KMap.set (fun _ => 0) s.time.cmpFrom u (s.tbFull (s.get (F.TIME_CMP_CFG_TB u))) }

/-- ns until unit `u` fires, 0 where it fires at once: in ABS mode a VAL that equals the count at which the unit was written lies outside
(v₀, v₁] until the next pass (R220). DEDUCED, log 99. -/
def State.cmpWait (s : State) (u : Nat) : Nat :=
  let n := s.get (F.TIME_CMP_CFG_TB u)
  let tb := s.tb n
  let v := s.get (F.TIME_CMP_VAL u)
  if s.time.cmpDue.testBit u then 0
  else if s.on (F.TIME_CMP_CFG_MODE u) then (if 0 ≤ sx 32 (tb + 2 ^ 32 - v) then 0 else (v + 2 ^ 32 - tb) % 2 ^ 32)
  else if tb = v ∧ s.tbFull n = KMap.get (fun _ => 0) s.time.cmpFrom u then 2 ^ 32
  else (v + 2 ^ 32 - tb) % 2 ^ 32

/-- Whether the VAL that an advance by `per` gives is passed when the unit fires at VAL `v`: in ABS mode the count has moved on from `v` by
`per` or more, in SDIFF mode (int32)(v₁ − VAL) ≥ 0 (R220). -/
def cmpPassed (sdiff : Bool) (tb v per : Nat) : Bool :=
  if sdiff then decide (0 ≤ sx 32 (tb + 2 ^ 32 - (v + per) % 2 ^ 32)) else decide (per ≤ (tb + 2 ^ 32 - v) % 2 ^ 32)

/-- Unit `u` fires: FIRED, its outputs, and EN or VAL (R220). -/
def State.cmpFire (s : State) (u : Nat) : State :=
  let n := s.get (F.TIME_CMP_CFG_TB u)
  let out := s.get (F.TIME_CMP_CFG_OUT u)
  let s := s.withTime { s.time with cmpDue := clearBit s.time.cmpDue u }
  let s := s.setBitOf F.TIME_CMP_FIRED u
  let s := if out.testBit 1 then s.emit (.syncOut u (s.getOr (F.TIME_CMP_CFG_PULSE_W u) 1)) else s
  let s := if 4 ≤ out then s.emit (.cmpOut u (out / 4 * 4)) else s
  let s := if out.testBit 0 then s.raise Base.TIME 1 else s
  if s.on (F.TIME_CMP_CFG_PERIODIC u) then
    let v := s.get (F.TIME_CMP_VAL u)
    let per := max (s.get (F.TIME_CMP_PER u)) 100
    let s := s.put (F.TIME_CMP_VAL u) ((v + per) % 2 ^ 32)
    if cmpPassed (s.on (F.TIME_CMP_CFG_MODE u)) (s.tb n) v per then s.withTime { s.time with cmpDue := setBit s.time.cmpDue u } else s
  else s.put (F.TIME_CMP_CFG_EN u) 0

/-- COMPARE_FIRE (R220): an armed unit's target is reached. -/
def execCompareFire (n : Fin 8) (s : State) : Host.Outcome State Fault Refusal :=
  let u := n.val
  if !s.on (F.TIME_CMP_CFG_EN u) || s.time.stopped then .next s
  else
    let b := s.get (F.TIME_CMP_CFG_TB u)
    let w := s.cmpWait u
    let s := if s.time.cmpDue.testBit u then s.advance cyc else s.advance (if w = 0 then 0 else s.ticksToTb b (s.tbFull b + w))
    .next (s.cmpFire u)

/-- An entry of a 16-entry queue of TIME, dropped with TS_OVF where it is full (R218, R221). -/
def State.timeQueue (s : State) (a v : Nat) : State :=
  if (s.fifo a).length < 16 then s.storeFifo a v
  else ((s.spill a v 0 [] [F.TIME_FAULT_STAT_TS_OVF] Base.TIME 5).put F.TIME_FAULT_STAT_TS_OVF 1).raise Base.TIME 5

/-- An edge enters TIME_CAP, and raises SYNC_IN_CAP where it is stored (R221). -/
def State.capStore (s : State) (v : Nat) : State :=
  let full := decide (16 ≤ (s.fifo A.TIME_CAP_LO).length)
  let s := s.timeQueue A.TIME_CAP_LO v
  if full then s else s.raise Base.TIME 6

/-- SYNC_IN_CAPTURE (R221): a rising edge of SYNC_IN that lasts `ns`; shorter than 20 ns it is none. -/
def execSyncInCapture (ns : Nat) (s : State) : Host.Outcome State Fault Refusal :=
  if ns < 20 then .next s
  else
    .next (s.capStore (s.ctb % 2 ^ 48))

/-- The result FIFOs of TIME. -/
def timeFifos : List Nat := [A.TIME_TXTS1_LO, A.TIME_TXTS2_LO, A.TIME_CAP_LO]

/-- A pop of a result FIFO of TIME (R22, R401). -/
def State.timePop (s : State) (m : Master) (a : Nat) (wide : Bool) : State :=
  (s.fifoPop m a wide F.TIME_PTP_DROP).afterPop a (fun t p => if a = A.TIME_CAP_LO then t.capStore p.value else t.timeQueue a p.value)

/-- TIME_FIFO_POP (R22, R23, R401): a read of TIME_TXTS1, TIME_TXTS2 or TIME_CAP. -/
def execTimeFifoPop (r : ReadReq) (s : State) : Host.Outcome State Fault Refusal :=
  if timeFifos.contains (canon r.addr.toNat) && s.answers r.master then .next (s.timePop r.master (canon r.addr.toNat) (readWide r)) else .next s

/-! Hooks of Access. -/

/-- After a write of TIME_CTRL: starts of SNAP and ALIGN (R208, R210). -/
def timeCtrlWrite (s : State) (v : Nat) : State :=
  let s := if v.testBit 7 then s.timeSnap else s
  if v.testBit 6 then s.alignWrite else s

/-- Whether a clear of bit `i` of TIME_FAULT_STAT is accepted (R211, R214). -/
def timeClearOk (s : State) (i : Nat) : Bool :=
  match i with
  | 5 => !s.rateAtLimit
  | 6 => !s.offsBad
  | 8 => !(s.on F.TIME_DOMCFG_PTP_EN_A && s.on F.TIME_DOMCFG_PTP_EN_B && s.get F.TIME_DOMCFG_DOMAIN_A = s.get F.TIME_DOMCFG_DOMAIN_B)
  | _ => true

end Sys2Proof.Machine
end

