-- ==== Sys2Proof/Machine/Adc.lean ====
section
/-! DEFINITION. Converters, calibration, reference and comparators (R255–R269). -/

namespace Sys2Proof.Machine

open Sys2Proof

/-- Converter `k`. -/
def State.conv8 (s : State) (k : Nat) : AdcCh := KMap.get (fun _ => {}) s.adc.chans k

/-- Converter `k` replaced. -/
def State.setConv8 (s : State) (k : Nat) (c : AdcCh) : State :=
  { s with adc := { s.adc with chans := KMap.set (fun _ => {}) s.adc.chans k c } }

/-- Converter `k` is the even one of a pair (R257). -/
def State.paired (s : State) (k : Nat) : Bool := k % 2 = 0 && s.on (F.ADC_CH_CFG_PAIR k)

/-- Converter `k` is the odd one of a pair: its own CFG and TRIG are ignored (R257). -/
def State.pairedOdd (s : State) (k : Nat) : Bool := k % 2 = 1 && s.on (F.ADC_CH_CFG_PAIR (k - 1))

/-- Ticks between sample instants: 50 ns, 25 ns in a pair (R257). -/
def State.sampleStep (s : State) (k : Nat) : Nat := if s.paired k || s.pairedOdd k then 125 else 250

/-- First sample instant of converter `k` at or after `t`. -/
def State.sampleFrom (s : State) (k t : Nat) : Nat := (t + s.sampleStep k - 1) / s.sampleStep k * s.sampleStep k

/-- First sample instant that follows the fabric cycle of a write landing now (R260). -/
def State.sampleNext (s : State) (k : Nat) : Nat := s.sampleFrom k ((s.cycleNo + 1) * cyc)

/-- The FIFO of converter `k` (R265). -/
def adcFifo (k : Nat) : Nat := 0xE00000 + 8 * k

/-- The latest view of input `i` (R265). -/
def adcLatest (i : Nat) : Nat := 0xE00100 + 8 * i

/-- CTB at elapsed ticks `t`, where that is near now: an alignment since then is taken back (R210, R264). -/
def State.ctbAt (s : State) (t : Nat) : Nat :=
  let steps := sumI ((s.time.jumps.filter (fun x => decide (t < x.1))).map (fun x => x.2))
  (((s.ctb : Int) + (t : Int) - (s.now : Int) - steps) % 2 ^ 64).toNat

/-- The input an AIN code selects: 26–31 act as 24 (R255). -/
def inputOf (cfg : Word) (k : Nat) : Nat :=
  let a := (F.ADC_CH_CFG_AIN k).read cfg
  if 26 ≤ a then 24 else a

/-- SETTLED bit `k`: 0 from the first sample instant whose conversion is UNSETTLED to the first that is not (R261). -/
def State.settled (s : State) (k : Nat) : Bool :=
  let c := s.conv8 k
  !(decide (c.unsFrom ≤ s.now) && decide (s.now < s.sampleFrom k c.unsUntil))

/-- The converter, or even converter of a pair, whose turn in a calibration sweep it is (R266). -/
def State.calTurn (s : State) : Option Nat := (s.adc.cal.reverse.find? (fun (x : Nat × Nat) => decide (x.2 ≤ s.now))).map (fun x => x.1)

/-- CAL_BUSY bit `k` (R266). -/
def State.calBusy (s : State) (k : Nat) : Bool :=
  match s.calTurn with
  | some j => j = k || (s.paired j && decide (k = j + 1))
  | none => false

/-- ADC_STAT as it reads: SETTLED and CAL_BUSY follow the instant of the read (R261, R266). -/
def State.adcStat (s : State) (w : Word) : Word :=
  let mask (p : Nat → Bool) := (List.range 8).foldl (fun n k => if p k then setBit n k else n) 0
  F.ADC_STAT_CAL_BUSY.write (F.ADC_STAT_SETTLED.write w (mask s.settled)) (mask s.calBusy)

/-! ### Bursts (R262, R263) -/

/-- A burst of converter `k` starts, tagged `src`, by a trigger at elapsed ticks `t`. DEDUCED, log 107. -/
def State.startBurst (s : State) (k src t : Nat) : State :=
  let c := s.conv8 k
  let cont := s.get (F.ADC_CH_TRIG_SRC k) = 5
  let b := s.get (F.ADC_CH_TRIG_BURST k)
  let n := if cont || b = 0 then 256 else b
  let d := if cont then 0 else s.get (F.ADC_CH_TRIG_DLY k) * 10
  let r : AdcRun := ⟨src, n, 0, s.sampleFrom k (t + d), t⟩
  let s := (s.setConv8 k { c with run := some r, bursts := (c.bursts + 1) % 256 }).setBitOf F.ADC_STAT_BUSY k
  (s.startRes (A.ADC_CH_RES k)).put (F.ADC_CH_TRIG_START k) 0

/-- A trigger is dropped (R263). -/
def State.trigMiss (s : State) : State :=
  ((s.put F.ADC_FAULT_STAT_TRIG_MISS 1).cnt F.ADC_TRIG_MISS_COUNT).raise Base.ADC 1

/-- Converter `k` takes triggers: enabled, and not the odd one of a pair. -/
def State.convTakes (s : State) (k : Nat) : Bool := s.bitOf F.ADC_CTRL_EN k && !s.pairedOdd k

/-- A trigger of converter `k`, tagged `src`; a software and a hardware trigger of one cycle start one burst with the hardware tag. -/
def State.adcTrig (s : State) (k src : Nat) : State :=
  if !s.convTakes k then s.put (F.ADC_CH_TRIG_START k) 0
  else if s.calBusy k then (s.put (F.ADC_CH_TRIG_START k) 0).trigMiss
  else
    match (s.conv8 k).run with
    | none => s.startBurst k src s.now
    | some r =>
      let s := s.put (F.ADC_CH_TRIG_START k) 0
      if r.trigAt / cyc = s.cycleNo && r.idx = 0 && ((src = 0 && r.src ≠ 0) || (src ≠ 0 && r.src = 0)) then
        s.setConv8 k { s.conv8 k with run := some { r with src := max src r.src } }
      else (s.spill (A.ADC_CH_TRIG k) src s.now [] [F.ADC_FAULT_STAT_TRIG_MISS, F.ADC_TRIG_MISS_COUNT] Base.ADC 1).trigMiss

/-- The triggers that converter `k` dropped in the fabric cycle in which its burst's last result is stored: they start a new burst
(R263). -/
def State.retrigger (s : State) (k : Nat) : State :=
  match s.unspill (A.ADC_CH_TRIG k) with
  | none => s
  | some (p, t) =>
    let t := t.startBurst k p.value p.ts
    match t.unspill (A.ADC_CH_TRIG k) with
    | none => t
    | some (q, u) => u.adcTrig k q.value

/-- START written (R262): with SRC 5 it is ignored. -/
def State.adcStart (s : State) (k : Nat) : State :=
  if s.get (F.ADC_CH_TRIG_SRC k) = 5 then s.put (F.ADC_CH_TRIG_START k) 0 else s.adcTrig k 0

/-- ADC_START (R262, R263). -/
def execAdcStart (k : Fin 8) (s : State) : Host.Outcome State Fault Refusal := .next (s.adcStart k.val)

/-- The instant of a period trigger, CTB t_k + (OFFSET mod P), at or after now (R262). -/
def State.periodTrig (s : State) (k : Nat) : Nat :=
  let p := s.perTicks
  let t := s.yard.tk + (if p = 0 then 0 else s.get (F.ADC_CH_OFFS k) % p)
  if t < s.ctb then t + p else t

/-- ADC_TRIGGER (R262, R263): the hardware source SRC of converter `k` triggers; SRC 0, 5, 6 and 7 have no hardware trigger, the period
triggers in RUN and STOPPING only, compare unit SEL with bit 10 of its OUT set only, and PWM channel SEL only where it gives trigger
outputs. -/
def execAdcTrigger (k : Fin 8) (s : State) : Host.Outcome State Fault Refusal :=
  let src := s.get (F.ADC_CH_TRIG_SRC k.val)
  if src = 1 then
    if s.running && decide (s.perTicks ≠ 0) then .next ((s.untilCtb (s.periodTrig k.val)).adcTrig k.val 1) else .next s
  else if (src = 2 ∧ (s.get (F.TIME_CMP_CFG_OUT (s.get (F.ADC_CH_TRIG_SEL k.val) % 8))).testBit 2) ∨
      (src = 3 ∧ (s.pwmCh (s.get (F.ADC_CH_TRIG_SEL k.val))).givesTrig) ∨ src = 4 then .next (s.adcTrig k.val src)
  else .next s

/-- A continuous converter starts (SRC 5). -/
def State.startCont (s : State) (k : Nat) : State :=
  if s.convTakes k && s.get (F.ADC_CH_TRIG_SRC k) = 5 && (s.conv8 k).run.isNone then s.startBurst k 5 s.now else s

/-- A converter's burst ends without its remaining results. -/
def State.dropRun (s : State) (k : Nat) : State :=
  ((s.setConv8 k { s.conv8 k with run := none, old := [] }).clrBitOf F.ADC_STAT_BUSY k).stopRes (A.ADC_CH_RES k)

/-! ### Results (R257–R259, R264, R265) -/

/-- OFFS and GTRIM of converter `k` at gain `g` for a conversion at elapsed ticks `t` (R258, R267). -/
def State.trimAt (s : State) (k g t : Nat) : Int × Nat :=
  match (s.conv8 k).oldTrims.find? (fun (x : Nat × Nat × Nat × Nat) => x.1 = g ∧ t < x.2.1) with
  | some x => (sx 16 x.2.2.1, x.2.2.2)
  | none => (s.getS (F.ADC_CAL_OFFS (4 * k + g)), s.get (F.ADC_CAL_GTRIM (4 * k + g)))

/-- A raw code corrected, and whether it is clipped (R258). -/
def corrected (x : Int) (trim : Int × Nat) : Int × Bool :=
  let y := divHalfEven ((x - trim.1) * (trim.2 : Int)) (2 ^ 14)
  (sat16 y, decide (x = -32768) || decide (x = 32767) || decide (sat16 y ≠ y))

/-- D of FILT, 7 acting as 6 (R259). -/
def decim (filt : Nat) : Nat := 2 ^ min filt 6

/-- The VALUE of a filtered result (R264). -/
def adcValue (data : Int) (ain gain : Nat) (inv uns clip : Bool) (src idx trig : Nat) : Nat :=
  tc 16 data + 2 ^ 16 * ain + 2 ^ 21 * gain + 2 ^ 23 * b2n inv + 2 ^ 24 * b2n uns + 2 ^ 25 * b2n clip + 2 ^ 26 * src + 2 ^ 32 * idx +
    2 ^ 40 * trig

/-- LEVEL of converter `k`'s FIFO. -/
def State.adcLevel (s : State) (k : Nat) : State := s.put (F.ADC_CH_LEVEL_LEVEL k) (s.fifo (adcFifo k)).length

/-- LEVEL of converter `k`'s FIFO has risen: to WM or not (R265). -/
def State.adcMark (s : State) (k : Nat) : State :=
  if s.get (F.ADC_CH_LEVEL_WM k) ≠ 0 && s.get (F.ADC_CH_LEVEL_LEVEL k) = s.get (F.ADC_CH_LEVEL_WM k) then
    (s.spill (adcFifo k + 4) 0 0 [] [] Base.ADC 5).raise Base.ADC 5
  else s

/-- A pop has left converter `k`'s FIFO, and a result stored earlier in the same fabric cycle comes after it: LEVEL rises to where it
stands now (R265, R401). -/
def State.adcRemark (s : State) (k : Nat) : State :=
  let s := match s.unspill (adcFifo k + 4) with
    | some (_, t) => t
    | none => s
  let s := s.adcLevel k
  if s.fifoNew (adcFifo k) = 0 then s else s.adcMark k

/-- A filtered result enters the FIFO, or is dropped (R265). -/
def State.adcPush (s : State) (k v ts : Nat) : State :=
  if 64 ≤ (s.fifo (adcFifo k)).length then
    let s := s.spill (adcFifo k) v ts [] [F.ADC_FAULT_STAT_FIFO_OVF, F.ADC_FIFO_OVF_COUNT] Base.ADC 0
    ((s.put F.ADC_FAULT_STAT_FIFO_OVF 1).cnt F.ADC_FIFO_OVF_COUNT).raise Base.ADC 0
  else
    let s := (s.storeFifo (adcFifo k) v).adcLevel k
    (s.setConv8 k { s.conv8 k with ts := (s.conv8 k).ts ++ [ts] }).adcMark k

/-- The settings of converter `k`'s next result: those before a change for a result whose conversions all precede it (R260). -/
def State.adcNow (s : State) (k : Nat) : AdcOld :=
  let c := s.conv8 k
  c.old.headD ⟨s.reg (A.ADC_CH_CFG k), s.paired k, 0, c.invUntil, c.unsUntil, 0⟩

/-- Ticks between sample instants under given settings. -/
def AdcOld.step (o : AdcOld) : Nat := if o.pair then 125 else 250

/-- D under given settings. -/
def AdcOld.d (o : AdcOld) (k : Nat) : Nat := decim ((F.ADC_CH_CFG_FILT k).read o.cfg)

/-- Results still to deliver under the settings before changes, one delivered; where none is left before a change, its instant. -/
def AdcCh.oldDone (c : AdcCh) : List AdcOld × Option Nat :=
  match c.old with
  | o :: rest => if o.left ≤ 1 then (rest, some o.at0) else ({ o with left := o.left - 1 } :: rest, none)
  | [] => ([], none)

/-- How many results a burst has still to deliver under settings before changes. -/
def AdcCh.oldLeft (c : AdcCh) : Nat := c.old.foldl (fun n o => n + o.left) 0

/-- A result of converter `k` from the raw codes of its conversions, the first at elapsed ticks `t0` (R258–R260, R264). -/
def State.adcStore (s : State) (k : Nat) (r : AdcRun) (raw : List Int) : State :=
  let c := s.conv8 k
  let o := s.adcNow k
  let step := o.step
  let g := (F.ADC_CH_CFG_GAIN k).read o.cfg
  let ain := inputOf o.cfg k
  let ys := raw.mapIdx (fun i x =>
    let t := r.next + step * i
    corrected x (s.trimAt (if o.pair && t % 250 ≠ 0 then k + 1 else k) g t))
  let data := divHalfEven (sumI (ys.map (fun (y : Int × Bool) => y.1))) raw.length
  let v := adcValue data ain g (decide (r.next < o.inv)) (decide (r.next < o.uns))
    (ys.any (fun (y : Int × Bool) => y.2)) r.src r.idx c.bursts
  let ts := s.ctbAt r.next % 2 ^ 48
  let s := s.adcPush k v ts
  let s := if ain < 24 then s.complete (adcLatest ain + 4) v else s
  let last := r.left ≤ 1
  let s := s.complete (A.ADC_CH_RES k) (tc 16 data)
  let od := c.oldDone
  let r := { r with left := r.left - 1, idx := r.idx + 1, next := od.2.getD (r.next + step * raw.length) }
  if !last then (s.setConv8 k { s.conv8 k with run := some r, old := od.1 }).startRes (A.ADC_CH_RES k)
  else
    let s := (s.setConv8 k { s.conv8 k with run := none, old := [] }).clrBitOf F.ADC_STAT_BUSY k
    if !s.convTakes k then s
    else if s.get (F.ADC_CH_TRIG_SRC k) = 5 then
      let s := s.startBurst k 5 s.now
      s.setConv8 k { s.conv8 k with run := ((s.conv8 k).run.map (fun x => { x with next := r.next })) }
    else s.retrigger k

/-- ADC_RESULT (R257–R265): converter `k` completes a filtered result from `raw`, its D raw codes in sample order. The odd converter of a
pair completes those that precede the pairing (R260). -/
def execAdcResult (k : Fin 8) (raw : List (BitVec 16)) (s : State) : Host.Outcome State Fault Refusal :=
  match (s.conv8 k.val).run with
  | none => .next s
  | some r =>
    let o := s.adcNow k.val
    let d := o.d k.val
    if (!s.convTakes k.val && (s.conv8 k.val).old.isEmpty) || raw.length ≠ d then .next s
    else .next ((s.until (r.next + o.step * (d - 1))).adcStore k.val r (raw.map (fun x => x.toInt)))

/-- STALE of the latest view at `a`: a burst of some converter on that input runs (R22, R265). DEDUCED, log 185. -/
def State.latestMark (s : State) (a : Nat) : State :=
  let runs := (List.range 8).any (fun k => (s.conv8 k).run.isSome && decide (adcLatest (inputOf (s.adcNow k).cfg k) = a))
  if runs then s.startRes (a + 4) else s.stopRes (a + 4)

/-- Which FIFO's pop port a window address is (R265). -/
def popPort (a : Nat) : Option Nat := if 0xE00000 ≤ a ∧ a < 0xE00040 ∧ a % 8 = 0 then some ((a - 0xE00000) / 8) else none

/-- A read of pop port `k`: the head result and its timestamp, or the empty form (R265). -/
def State.adcPop (s : State) (k : Nat) (m : Master) (wide : Bool) : State :=
  let a := adcFifo k
  if s.pairedOdd k then (s.cnt F.ADC_UNDERFLOW).pairRead m a wide 0x8000#32 (ctlDword 0 (s.res (a + 4)).seq false false true) 256
  else
    let s :=
      match (s.conv8 k).ts, s.fifoEmpty a with
      | t :: rest, false =>
        ((s.setConv8 k { s.conv8 k with ts := rest }).put (F.ADC_CH_TS_LO k) (t % 2 ^ 32)).put (F.ADC_CH_TS_HI k) (t / 2 ^ 32)
      | _, _ => s
    let pops := !s.fifoEmpty a
    let s := s.fifoPop m a wide F.ADC_UNDERFLOW
    if pops then (s.adcRemark k).afterPop a (fun t p => t.adcPush k p.value p.ts) else s.adcLevel k

/-- ADC_FIFO_POP (R265, R401). -/
def execAdcFifoPop (r : ReadReq) (s : State) : Host.Outcome State Fault Refusal :=
  match popPort r.addr.toNat with
  | some k => .next (if s.answers r.master then s.adcPop k r.master (readWide r) else s)
  | none => .next s

/-- A write anywhere in the result window is dropped (R265). -/
def State.windowWrite (s : State) : State := (s.put F.ADC_FAULT_STAT_WIN_WR 1).noteDrop

/-- ADC_WINDOW_WRITE (R265). -/
def execAdcWindowWrite (w : WriteReq) (s : State) : Host.Outcome State Fault Refusal :=
  match w.target with
  | .bar0 a => if 0xE00000 ≤ a.toNat ∧ a.toNat < 0xE01000 then .next s.windowWrite else .next s
  | .svPending _ => .next s

/-! ### Changes of settings (R260, R261, R256) -/

/-- A converter whose settings change at sample instant `t`, and whether the change leaves a result partial: results whose conversions all
precede `t` stay to be delivered as before it, and the decimator restarts at `t` (R260). `o` holds the settings before the change, and
`from'` is the first sample instant under the new ones of a burst that has not begun. -/
def AdcCh.cut (c : AdcCh) (k t from' : Nat) (o : AdcOld) : AdcCh × Bool :=
  match c.run with
  | none => (c, false)
  | some r =>
    let b := match c.old.getLast? with | some p => p.at0 | none => r.next
    let move (u v : Nat) : AdcCh := match c.old.getLast? with
      | some p => { c with old := c.old.dropLast ++ [{ p with at0 := u }] }
      | none => { c with run := some { r with next := v } }
    if t ≤ b then (move t from', false)
    else
      let n := o.step * o.d k
      let left := r.left - c.oldLeft
      let m := min left ((t - b + o.step - 1) / n)
      let part := decide (m < left) && decide (b + m * n < t)
      if m = 0 then (move t t, part) else ({ c with old := c.old ++ [{ o with left := m, at0 := t }] }, part)

/-- A change takes effect on converter `k` at its next sample instant: a partial result is discarded and counted, and conversions are tagged
for `inv` and `uns` ticks (R260). `cfg` and `pair` are the settings before the change. -/
def State.adcRestart (s : State) (k inv uns : Nat) (cfg : Word) (pair : Bool) : State :=
  let t := s.sampleNext k
  let c := s.conv8 k
  let from' := match c.run with | some r => s.sampleFrom k r.next | none => t
  let x := c.cut k t from' ⟨cfg, pair, 0, c.invUntil, c.unsUntil, 0⟩
  let c := x.1
  let c := if inv = 0 then c else { c with invUntil := max c.invUntil (t + inv) }
  let c := if uns = 0 then c else { c with unsFrom := if s.now < c.unsUntil then min c.unsFrom t else t, unsUntil := max c.unsUntil (t + uns) }
  let s := s.setConv8 k c
  if x.2 then s.cnt F.ADC_DISCARDS else s

/-- A pair takes over its odd converter `k`: of the burst only the results that precede the pairing are left (R257, R260). -/
def State.pairOff (s : State) (k : Nat) : State :=
  match (s.conv8 k).run with
  | none => s
  | some r =>
    if (s.conv8 k).oldLeft = 0 then s.dropRun k else s.setConv8 k { s.conv8 k with run := some { r with left := (s.conv8 k).oldLeft } }

/-- After a write of ADC_CHk_CFG whose former value was `old` (R257, R260). -/
def State.adcCfgWritten (s : State) (k : Nat) (old : Word) : State :=
  let s := if k % 2 = 1 then s.put (F.ADC_CH_CFG_PAIR k) 0 else s
  let w := s.reg (A.ADC_CH_CFG k)
  let gain : Bool := (F.ADC_CH_CFG_GAIN k).read old ≠ (F.ADC_CH_CFG_GAIN k).read w
  let input : Bool := inputOf old k ≠ inputOf w k
  let filt : Bool := decim ((F.ADC_CH_CFG_FILT k).read old) ≠ decim ((F.ADC_CH_CFG_FILT k).read w)
  let pairCh : Bool := (F.ADC_CH_CFG_PAIR k).read old ≠ (F.ADC_CH_CFG_PAIR k).read w
  if s.pairedOdd k || !(gain || input || filt || pairCh) then s
  else
    let s := s.adcRestart k (if gain then 10000 else if input || pairCh then 250 else 0) (if gain then 10000 else 0) old
      ((F.ADC_CH_CFG_PAIR k).read old ≠ 0)
    if !pairCh then s
    else
      let s := s.adcRestart (k + 1) 250 0 (s.reg (A.ADC_CH_CFG (k + 1))) false
      if s.paired k then s.pairOff (k + 1) else s.startCont (k + 1)

/-- The reference changes on every converter (R260). -/
def State.refChange (s : State) : State :=
  (List.range 8).foldl (fun (t : State) k => t.adcRestart k 1000000 1000000 (t.reg (A.ADC_CH_CFG k)) (t.paired k)) s

/-- VREFX lies outside 3.0–4.2 V, as last measured. -/
def State.vrefOut (s : State) : Bool := decide (s.get F.ADC_VREFX < 3000 ∨ 4200 < s.get F.ADC_VREFX)

/-- After a write of ADC_CTRL whose former value was `old` (R256). -/
def State.adcCtrlWritten (s : State) (old : Word) : State :=
  let was := old.toNat.testBit 0
  let now := s.on F.ADC_CTRL_REF_SEL
  let s :=
    if !was && now then
      if s.vrefOut then
        (((s.put F.ADC_CTRL_REF_SEL 0).put F.ADC_FAULT_STAT_REF_REFUSED 1).cnt F.ADC_ERR_COUNT_CLR_REFUSED).noteDrop
      else (({ s with adc := { s.adc with vrefBad := 0 } }).put F.ADC_STAT_REF_ACT 1).refChange
    else if was && !now && s.on F.ADC_STAT_REF_ACT then (s.put F.ADC_STAT_REF_ACT 0).refChange
    else s
  (List.range 8).foldl (fun (t : State) k =>
    if old.toNat.testBit (8 + k) && !t.bitOf F.ADC_CTRL_EN k then t.dropRun k else t.startCont k) s

/-- VREFX_MEASURE (R256): every 10 µs; the third bad measurement in a row returns the converters to the internal reference. -/
def execVrefxMeasure (mv : Nat) (s : State) : Host.Outcome State Fault Refusal :=
  let s := s.until (s.adc.vrefAt + 10 * us)
  let s := s.put F.ADC_VREFX mv
  let s := s.put F.ADC_STAT_VREFX_OK (b2n (!s.vrefOut))
  let n := if s.on F.ADC_STAT_REF_ACT && s.vrefOut then s.adc.vrefBad + 1 else 0
  let s := { s with adc := { s.adc with vrefAt := s.now, vrefBad := n } }
  .next (if 3 ≤ n then
    (((s.put F.ADC_FAULT_STAT_VREFX_BAD 1).put F.ADC_STAT_REF_ACT 0).refChange).raise Base.ADC 2 else s)

/-- ADC_SETTLED (R261): SETTLED bit `k` sets at the first sample instant outside the interval. -/
def execAdcSettled (k : Fin 8) (s : State) : Host.Outcome State Fault Refusal :=
  .next (s.until (s.sampleFrom k.val (s.conv8 k.val).unsUntil))

/-! ### Trims and calibration (R266, R267) -/

/-- The trims of converter `k` at gain `g` change at its next sample instant; conversions before it keep those held before (R267). -/
def State.noteTrim (s : State) (k g : Nat) (offs gtrim : Nat) : State :=
  let c := s.conv8 k
  let keep := match (s.conv8 (if s.pairedOdd k then k - 1 else k)).run with
    | some r => c.oldTrims.filter (fun (x : Nat × Nat × Nat × Nat) => decide (r.next < x.2.1))
    | none => []
  s.setConv8 k { c with oldTrims := keep ++ [(g, s.sampleNext k, offs, gtrim)] }

/-- A calibration result passes (R266). -/
def calOk (m : CalMeas) : Bool :=
  m.trims.length = 4 && m.trims.all (fun (x : Int × Nat) => decide (-512 ≤ x.1 ∧ x.1 ≤ 512 ∧ 0x3999 ≤ x.2 ∧ x.2 ≤ 0x4666))

/-- The trims of one converter written (R266, R267). -/
def State.calWrite (s : State) (m : CalMeas) : State :=
  let k := m.conv.val
  (List.range 4).foldl (fun (t : State) g =>
    let x := m.trims.getD g (0, 0x4000)
    let t := t.noteTrim k g (t.get (F.ADC_CAL_OFFS (4 * k + g))) (t.get (F.ADC_CAL_GTRIM (4 * k + g)))
    (t.put (F.ADC_CAL_OFFS (4 * k + g)) (tc 16 x.1)).put (F.ADC_CAL_GTRIM (4 * k + g)) x.2) s

/-- The converters a mask names, pairs together (R266). -/
def State.calSet8 (s : State) (mask : Nat) : List Nat :=
  (List.range 8).filter (fun k => mask.testBit k || (s.paired k && mask.testBit (k + 1)) || (s.pairedOdd k && mask.testBit (k - 1)))

/-- The turns of a sweep that begins at `t`, with the instant at which the last one ends: each lasts at most 300 ms, a free value.
DESIGN CHOICE, log 108. -/
def calTurns (t ix : Nat) : List Nat → List (Nat × Nat) × Nat
  | [] => ([], t)
  | k :: rest =>
    let r := calTurns (t + Config.free ix % (300 * ms + 1)) (ix + 1) rest
    ((k, t) :: r.1, r.2)

/-- A calibration sweep begins: the converters or pairs named take their turns one after another, the others keeping their triggers (R266).
DESIGN CHOICE, log 108. -/
def State.calBegin (s : State) (mask : Nat) : State :=
  let l := (s.calSet8 mask).filter (fun k => !s.pairedOdd k)
  let r := calTurns s.now s.freeIx l
  { s with adc := { s.adc with cal := r.1, calEnd := r.2, calDone := 0, calOk := 0, calBad := 0 }, freeIx := s.freeIx + l.length }

/-- A sweep ends. -/
def State.calOver (s : State) : State := { s with adc := { s.adc with cal := [] } }

/-- TABLE_LOCK is in force: the policy's bit 10, with an owner (R366). DEDUCED, log 199. -/
def State.tableLock (s : State) : Bool := s.get F.SEC_STAT_OWNER_STATE ≠ 0 && (s.reg A.SEC_POLICY).toNat.testBit 10

/-- One converter's results in a sweep: its trims are written where they lie within the limits, and never under TABLE_LOCK (R266, R366).
DEDUCED, log 199. -/
def State.calOne (s : State) (x : CalMeas) : State :=
  if calOk x && !s.tableLock then
    let t := s.calWrite x
    { t with adc := { t.adc with calOk := setBit t.adc.calOk x.conv.val } }
  else { s with adc := { s.adc with calBad := setBit s.adc.calBad x.conv.val } }

/-- The turns of a sweep that `m` brings results for, in order: the turn of converter `x.1`, or of its pair, ends at elapsed ticks `x.2`
with its trims written; the first turn without its results waits (R266). -/
def State.calTake (m : List CalMeas) (s : State) : List (Nat × Nat) → State
  | [] => s
  | x :: rest =>
    let ms := (if s.paired x.1 then [x.1, x.1 + 1] else [x.1]).map (fun k => m.find? (fun y => y.conv.val = k))
    if ms.all (fun y => y.isSome) then
      let t := (ms.filterMap id).foldl State.calOne (s.until x.2)
      ({ t with adc := { t.adc with calDone := t.adc.calDone + 1 } } : State).calTake m rest
    else s

/-- The turns still to give their results, each with its end. -/
def State.calLeft (s : State) : List (Nat × Nat) :=
  let l := s.adc.cal.drop s.adc.calDone
  (l.map (fun x => x.1)).zip ((l.drop 1).map (fun x => x.2) ++ [s.adc.calEnd])

/-! ### Comparators (R268, R269) -/

/-- FILT of a comparator in ns (R268). -/
def cmpFilt (f : Nat) : Nat := if f = 0 then 0 else if f = 1 then 50 else if f = 2 then 100 else 200

/-- The input level of threshold code `c`, in mV (R268). -/
def thrMv (c : Nat) : Int := 20 * (c : Int) - 10240

/-- The live field of a side. -/
def liveFld (high : Bool) : Fld := if high then F.ADC_CMP_LIVE_HI else F.ADC_CMP_LIVE_LO

/-- The sticky field of a side. -/
def trippedFld (high : Bool) : Fld := if high then F.ADC_CMP_TRIPPED_HI else F.ADC_CMP_TRIPPED_LO

/-- A side of comparator `n` is enabled, as active (R268, R269). -/
def State.sideOn (s : State) (n : Nat) (high : Bool) : Bool := s.on (if high then F.ADC_CMP_ACT_EN_HI n else F.ADC_CMP_ACT_EN_LO n)

/-- The input stands past the side's threshold (R268). -/
def State.pastThr (s : State) (n : Nat) (high : Bool) (mv : Int) : Bool :=
  if high then decide (thrMv (s.get (F.ADC_CMP_ACT_HIGH n)) < mv) else decide (mv < thrMv (s.get (F.ADC_CMP_ACT_LOW n)))

/-- The input stands back inside the side's hysteresis (R268). -/
def State.insideHyst (s : State) (n : Nat) (high : Bool) (mv : Int) : Bool :=
  let h : Int := 20 * (s.get (F.ADC_CMP_ACT_HYST n) : Int)
  if high then decide (mv < thrMv (s.get (F.ADC_CMP_ACT_HIGH n)) - h) else decide (thrMv (s.get (F.ADC_CMP_ACT_LOW n)) + h < mv)

/-- A side trips: live, sticky, counted; the fence judges at once, the supervisor's capture latch holds it (R268, R302). -/
def State.cmpTrip (s : State) (n : Nat) (high : Bool) : State :=
  let s := (s.setBitOf (liveFld high) n).setBitOf (trippedFld high) n
  let s := ((s.put F.ADC_FAULT_STAT_CMP_TRIP 1).cnt F.ADC_CMP_TRIPS).raise Base.ADC 3
  let s := { s with safe := { s.safe with capture := setBit s.safe.capture (if high then n else 16 + n) } }
  s.fenceJudge

/-- COMPARATOR_TRIP (R268): the input has stayed at `mv` for `ns`. -/
def execComparatorTrip (n : Fin 12) (high : Bool) (mv : Int) (ns : Nat) (s : State) : Host.Outcome State Fault Refusal :=
  if s.sideOn n.val high && !s.bitOf (liveFld high) n.val && s.pastThr n.val high mv &&
      decide (cmpFilt (s.get (F.ADC_CMP_ACT_FILT n.val)) ≤ ns) then .next (s.cmpTrip n.val high)
  else .next s

/-- COMPARATOR_RELEASE (R268): the input has stayed at `mv` for `ns`. -/
def execComparatorRelease (n : Fin 12) (high : Bool) (mv : Int) (ns : Nat) (s : State) : Host.Outcome State Fault Refusal :=
  if s.bitOf (liveFld high) n.val && s.insideHyst n.val high mv && decide (cmpFilt (s.get (F.ADC_CMP_ACT_FILT n.val)) ≤ ns) then
    .next (s.clrBitOf (liveFld high) n.val).fenceJudge
  else .next s

/-- A committed comparator word that is never applied (R269). -/
def State.cmpBad (s : State) (n : Nat) : Bool :=
  s.on (F.ADC_CMP_EN_HI n) && s.on (F.ADC_CMP_EN_LO n) &&
    decide (s.get (F.ADC_CMP_HIGH n) ≤ s.get (F.ADC_CMP_LOW n) + s.get (F.ADC_CMP_HYST n))

/-- The pending value of comparator `n` is applied, or rejected (R269); a side it disables is no longer tripped. DEDUCED, log 109. -/
def State.cmpApply (s : State) (n : Nat) : State :=
  let s := s.clrBitOf F.ADC_CMP_PEND n
  if s.cmpBad n then s.put F.ADC_FAULT_STAT_CMP_BAD 1
  else
    let s := s.setReg (A.ADC_CMP_ACT n) (s.reg (A.ADC_CMP n))
    let s := if s.sideOn n true then s else s.clrBitOf F.ADC_CMP_LIVE_HI n
    let s := if s.sideOn n false then s else s.clrBitOf F.ADC_CMP_LIVE_LO n
    (s.raise Base.ADC 4).fenceJudge

/-- After ADC_CMPn has been committed (R269). -/
def State.cmpCommitted (s : State) (n : Nat) : State :=
  if s.running then s.setBitOf F.ADC_CMP_PEND n else s.cmpApply n

/-! Hooks of Access. -/

/-- Whether a clear of bit `i` of ADC_FAULT_STAT is accepted. -/
def adcClearOk (s : State) (i : Nat) : Bool := !(i = 6 && s.vrefOut)

/-- Whether a clear of bit `i` of ADC_CMP_TRIPPED is accepted (R268). -/
def trippedClearOk (s : State) (i : Nat) : Bool := !(s.reg A.ADC_CMP_LIVE).toNat.testBit i

/-- START of a converter as it reads: 1 until its burst starts (R262). -/
def State.startBit (s : State) (k : Nat) : Bool :=
  match (s.conv8 k).run with
  | some r => r.src = 0 && r.idx = 0 && decide (s.now < r.next)
  | none => false

end Sys2Proof.Machine
end

