-- ==== Sys2Proof/Machine/Yard.lean ====
section
/-! DEFINITION. The yard check, the yard states and the writes of the yard description (R33–R34, R40, R44–R56, R404). -/

namespace Sys2Proof.Machine

open Sys2Proof

/-! ### The yard check (R49) -/

/-- Codes of YARD_CHECK (R49). -/
abbrev ckBadTopology : Nat := 1
abbrev ckPeriodRange : Nat := 2
abbrev ckPeriodFloor : Nat := 3
abbrev ckArmFull : Nat := 4
abbrev ckArmUndefined : Nat := 5
abbrev ckLaneOverload : Nat := 6
abbrev ckPathConflict : Nat := 7
abbrev ckPathMalformed : Nat := 8
abbrev ckNodeMismatch : Nat := 9
abbrev ckLegMismatch : Nat := 10
abbrev ckScaleUnset : Nat := 11
abbrev ckLevelsBad : Nat := 12
abbrev ckLevelsShort : Nat := 13
abbrev ckLaneParked : Nat := 14
abbrev ckNodeNotReady : Nat := 15

/-- The combinations of TOPOLOGY, CONNECTION and enabled-arm count R33 allows. -/
def topologyOk (t c n : Nat) : Bool :=
  (t = 1 && ((c = 0 && n = 3) || (c = 1 && n = 3) || (c = 2 && n = 6))) ||
  (t = 2 && ((c = 0 && 1 ≤ n && n ≤ 3) || (c = 1 && (n = 2 || n = 4 || n = 6))))

/-- The period floor of R44 for `n` enabled records. -/
def periodFloor (n : Nat) : Nat := if n ≤ 96 then 5 else 10

/-- Most enabled records a lane may carry at HALF_US `h`, by whether its RATE_SEL is 1 (R40). -/
def laneLimit (h : Nat) (fixedHi : Bool) : Nat :=
  if h < 10 then (if fixedHi then 4 else 2) else if h < 15 then (if fixedHi then 8 else 4) else 8

/-- YARD_PERIOD.HALF_US as committed. -/
def State.halfUs (s : State) : Nat := s.get F.YARD_PERIOD

/-- The yard-level code: 0 where none fails (R49). -/
def State.checkYard (s : State) : Nat :=
  let n := s.enabledList.length
  if !topologyOk (s.get F.YARD_CFG_TOPOLOGY) (s.get F.YARD_CFG_CONNECTION) (popcount 6 s.armsEn) then ckBadTopology
  else if s.halfUs < 5 ∨ 200 < s.halfUs then ckPeriodRange
  else if s.halfUs < periodFloor n then ckPeriodFloor
  else 0

/-- The lane of a record, or its own placing, breaks R40. -/
def State.laneOverload (s : State) (i : Nat) : Bool :=
  let l := s.laneOf i
  47 < l || laneLimit s.halfUs (s.get (F.LANE_CTRL_RATE_SEL l) = 1) < (s.onLane l).length ||
    (s.halfUs < 10 && 80000 < s.pathDly i)

/-- An enabled record of the same lane conflicts with record `i` (R38). -/
def State.pathConflict (s : State) (i : Nat) : Bool :=
  (s.onLane (s.laneOf i)).any (fun j => j ≠ i && pathsConflict (s.pathOf i) (s.pathOf j))

/-- No descriptor, a KIND the node does not offer, or another identity (R49 code 0x09). -/
def State.nodeMismatch (s : State) (i : Nat) : Bool :=
  s.rword i 0x040 = 0 || s.kindOf i = 0 || s.kindOf i = 3 || s.kindOf i ≠ s.nodeKind i ||
    (s.rword i offNodeId ≠ 0 && s.rword i offNodeId ≠ s.rword i 0x040)

/-- An IEEE 754 single-precision number that is finite and above 0 (R49 code 0x0B). -/
def fsOk (w : Nat) : Bool := !w.testBit 31 && bits w 30 23 ≠ 255 && w ≠ 0

/-- A class the stall uses has no full scale or no conversion word (R49 code 0x0B): the slots its descriptor fills. -/
def State.scaleUnset (s : State) (i : Nat) : Bool :=
  (bitIndices 16 (s.recF i 0x074 0 16)).any (fun m =>
    let c := s.classOf i m
    !fsOk (s.get (F.YARD_FS c)) || s.reg (A.YARD_CONV (16 * s.scaleOf i + c)) = 0#32)

/-- LEVELS outside R39. -/
def State.levelsBad (s : State) (i : Nat) : Bool :=
  if s.kindOf i = 1 then s.levelsOf i ≠ 1 else s.levelsOf i = 0 || 64 < s.levelsOf i

/-- The lowest stall-level code of an enabled record, 0 where none fails (R49). -/
def State.checkStall (s : State) (i : Nat) : Nat :=
  if !s.armEn (s.armOf i) then ckArmUndefined
  else if s.laneOverload i then ckLaneOverload
  else if s.pathConflict i then ckPathConflict
  else if pathMalformed (s.pathOf i) then ckPathMalformed
  else if s.nodeMismatch i then ckNodeMismatch
  else if s.legEn i &&& (63 - s.nodeLegs i) ≠ 0 then ckLegMismatch
  else if s.scaleUnset i then ckScaleUnset
  else if s.levelsBad i then ckLevelsBad
  else if !s.on (F.LANE_CTRL_EN (s.laneOf i)) then ckLaneParked
  else 0

/-- ROLE of an arm that R34 does not allow. -/
def State.roleBad (s : State) (a : Nat) : Bool :=
  let r := s.get (F.YARD_ARM_ROLE a)
  if s.get F.YARD_CFG_TOPOLOGY = 1 then
    5 < r || (s.get F.YARD_CFG_CONNECTION ≠ 2 && 2 < r) ||
      (List.range a).any (fun b => s.armEn b && s.get (F.YARD_ARM_ROLE b) = r)
  else if s.get F.YARD_CFG_CONNECTION = 1 then r ≠ a % 2
  else r ≠ 0

/-- The enabled records of an arm. -/
def State.inArm (s : State) (a : Nat) : List Nat := s.enabledList.filter (fun i => s.armOf i = a)

/-- Sum of LEVELS over records. -/
def State.levelsSum (s : State) (l : List Nat) : Nat := l.foldl (fun n i => n + s.levelsOf i) 0

/-- The lowest arm-level code of an enabled arm, 0 where none fails (R49). -/
def State.checkArm (s : State) (a : Nat) : Nat :=
  if s.roleBad a then ckBadTopology
  else if 96 < (s.inArm a).length then ckArmFull
  else if s.levelsSum (s.inArm a) < s.get (F.YARD_ARM_LEVELS_REQ a) then ckLevelsShort
  else 0

/-- The first failure of a list, with the value VALUE[7:0] names it by. -/
def firstFail (l : List Nat) (code : Nat → Nat) (name : Nat → Nat) : Option (Nat × Nat) :=
  (l.find? (fun i => code i ≠ 0)).map (fun i => (code i, name i))

/-- The yard check: code and what VALUE[7:0] names, 0xFF where it passes (R49). DESIGN CHOICE, log 166. -/
def State.yardCheck (s : State) : Nat × Nat :=
  if s.checkYard ≠ 0 then (s.checkYard, 0xFF)
  else
    match firstFail s.enabledList s.checkStall id with
    | some r => r
    | none => (firstFail ((List.range 6).filter s.armEn) s.checkArm (fun a => 0xF0 + a)).getD (0, 0xFF)

/-- The result of a yard check or an insertion check is reported, with YARD_CHECK_DONE (R48, R49, R52). DESIGN CHOICE, log 167. -/
def State.reportCheck (s : State) (code name : Nat) : State :=
  let s := (s.complete A.YARD_CHECK (256 * code + name)).raise Base.YARD 1
  if code = 0 then s else s.put F.YARD_FAULT_STAT_CHECK_FAIL 1

/-! ### START, STOP and CHECK (R48) -/

/-- A change of YARD_STAT.STATE. -/
def State.setYard (s : State) (v : Nat) : State := s.put F.YARD_STAT_STATE v

/-- START refused (R48). -/
def State.refuseStart (s : State) : State :=
  let s := { s with yard := { s.yard with startPend := none } }
  ((s.put F.YARD_CTRL_START 0).put F.YARD_FAULT_STAT_START_REFUSED 1).raise Base.YARD 3

/-- A description write has been accepted: a running check is void (R404), CHECKED falls back to CONFIG and a pending START is
refused (R48). -/
def State.descAccepted (s : State) : State :=
  let s := { s with yard := { s.yard with checkVoid := s.yard.checkVoid || s.yard.checkRun } }
  if s.yardState = yardChecked then
    let s := s.setYard yardConfig
    if s.yard.startPend.isSome then s.refuseStart else s
  else s

/-- A write dropped under R51 or R56. -/
def State.descDrop (s : State) : State :=
  (((s.put F.YARD_FAULT_STAT_DESC_DROP 1).cnt F.YARD_ERR_COUNT_DESC_DROP_COUNT).raise Base.YARD 2).noteDrop

/-- CHECK written (R48): in RUN and STOPPING it clears without effect; while a check runs, that run goes on, void or not (R18, R404). -/
def State.checkWrite (s : State) : State :=
  if s.running then s.put F.YARD_CTRL_CHECK 0
  else
    { (s.put F.YARD_CTRL_CHECK 1).startRes A.YARD_CHECK with yard := { s.yard with checkRun := true, checkVoid := s.yard.checkVoid && s.yard.checkRun } }

/-- YARD_CHECK (R48). -/
def execYardCheck (s : State) : Host.Outcome State Fault Refusal := .next s.checkWrite

/-- YARD_CHECK_COMPLETE (R48, R404): the check reads the description, within 50 µs of the write of CHECK. A check that fails or is void in
CHECKED refuses a pending START; one that completes after the entry to RUN only reports. DESIGN CHOICE, log 28. DESIGN CHOICE, log 164. -/
def execYardCheckComplete (s : State) : Host.Outcome State Fault Refusal :=
  if s.yard.checkRun then
    let r := s.yardCheck
    let void := s.yard.checkVoid
    let s := { s with yard := { s.yard with checkRun := false, checkVoid := false } }
    let s := (s.reportCheck r.1 r.2).put F.YARD_CTRL_CHECK 0
    if s.running then .next s
    else if r.1 = 0 && !void then .next (s.setYard yardChecked)
    else
      let s := s.setYard yardConfig
      .next (if s.yard.startPend.isSome then s.refuseStart else s)
  else .next s

/-- START written (R48). -/
def State.startWrite (s : State) : State :=
  if s.yardState = yardChecked then
    { s.put F.YARD_CTRL_START 1 with yard := { s.yard with startPend := some (s.yard.startPend.getD s.yard.bnd) } }
  else s.refuseStart.noteDrop

/-- YARD_START (R48). -/
def execYardStart (s : State) : Host.Outcome State Fault Refusal := .next s.startWrite

/-- STOP written (R48). -/
def State.stopWrite (s : State) : State :=
  if s.yardState = yardRun then
    { s.put F.YARD_CTRL_STOP 1 with yard := { s.yard with stopPend := some (s.yard.stopPend.getD s.yard.bnd) } }
  else if s.yardState = yardChecked && s.yard.startPend.isSome then
    { (s.put F.YARD_CTRL_START 0).put F.YARD_CTRL_STOP 0 with yard := { s.yard with startPend := none } }
  else s.put F.YARD_CTRL_STOP 0

/-- YARD_STOP (R48). -/
def execYardStop (s : State) : Host.Outcome State Fault Refusal := .next s.stopWrite

/-! ### Period boundaries (R46) -/

/-- The CTB of the next boundary, none while HALF_US is 0: the first multiple of the committed P at or after the end of the period
in progress (R46). After a time with HALF_US 0 it is computed from that end as well, and may lie behind the CTB. DESIGN CHOICE, log 170. -/
def State.nextBoundary (s : State) : Option Nat :=
  let p := s.halfUs * 2500
  if p = 0 || s.time.stopped then none else some ((s.yard.tk + s.perTicks + p - 1) / p * p)

/-- LEVELS_INST of every arm (R46). DESIGN CHOICE, log 204. -/
def State.updLevels (s : State) : State :=
  (List.range 6).foldl (fun t a => t.put (F.YARD_ARM_LEVELS_INST a) (s.levelsSum (s.inArm a))) s

/-- The period number (R46). -/
def State.periodK (s : State) : Nat := s.get (F.YARD_PERIOD_NUM 0) + 2 ^ 32 * s.get (F.YARD_PERIOD_NUM 1)

/-- The boundary at CTB `t` is reached: k advances and the levels are summed (R46). -/
def State.enterPeriod (s : State) (t : Nat) : State :=
  let s := s.untilCtb t
  let k := t / (s.halfUs * 2500)
  let s := { s with yard := { s.yard with tk := t, half := s.halfUs, bnd := s.yard.bnd + 1 } }
  ((s.put (F.YARD_PERIOD_NUM 0) (k % 2 ^ 32)).put (F.YARD_PERIOD_NUM 1) (k / 2 ^ 32)).updLevels

/-- The CTB stands at the boundary just passed: this is the first root tick at or beyond it. -/
def State.atBoundary (s : State) : Bool :=
  decide (s.yard.tk * unit40 ≤ s.time.ctbF) && decide (s.time.ctbF < s.yard.tk * unit40 + scaled 1 s.time.y) && s.yard.bnd ≠ 0

/-- A request made before the boundary just passed. -/
def State.dueAt (s : State) (o : Option Nat) : Bool :=
  match o with
  | none => false
  | some b => b < s.yard.bnd && s.atBoundary

/-! ### Writes of the stall records (R51, R52, R56, R89) -/

/-- What kind of word offset `o` of a record is for a host write: 0 read-only or reserved, 1 configuration, 2 command slot, 3 a
counter or LK_CFG, 4 LK_STATE (R56, R89). -/
def recWordKind (o : Nat) : Nat :=
  if o < 0x010 then 1
  else if 0x200 ≤ o ∧ o < 0x220 then 2
  else if 0x400 ≤ o ∧ o < 0x428 then 3
  else if o = 0x42C then 4
  else if o = 0x430 then 3
  else 0

/-- Writable bits of a configuration word (R53). -/
def cfgMask (o : Nat) : Nat :=
  if o = offCfg then 0xBFE07F3F else if o = offLink then 0x3F else 0xFFFFFFFF

/-- Whether a configuration word of an enabled record changes ENABLE alone, from 1 to 0. -/
def onlyDisables (o old new : Nat) : Bool := o = offCfg && new = old - 2 ^ 31 && old.testBit 31

end Sys2Proof.Machine
end

