-- ==== Sys2Proof/Machine/Lanes.lean ====
section
/-! DEFINITION. The optical lanes: training, equalisation, parking, block lock, markers, echoes, delay and error counting
(R97–R114), and the fence's lane-common halt (R307). -/

namespace Sys2Proof.Machine

open Sys2Proof

/-- HEALTHY (R112). -/
def State.laneHealthy (s : State) (n : Nat) : Bool :=
  (s.laneState n = lnUp && !s.on (F.LANE_STAT_HIBER n)) || (s.laneState n = lnParked && (s.onLane n).isEmpty)

/-- How many lanes that carry enabled records are not HEALTHY (R307). -/
def State.unhealthyLanes (s : State) : Nat :=
  ((List.range 48).filter (fun n => !(s.onLane n).isEmpty && !s.laneHealthy n)).length

/-- The fence's lane-common rule: LANE_HALT_N loaded lanes not HEALTHY at once halt the module (R307, R311). DEDUCED, log 152. -/
def State.laneCommon (s : State) : State :=
  let h := s.aget F.SAFE_CFG_LANE_HALT_N
  if h ≠ 0 && h ≤ s.unhealthyLanes && !s.safe.fenceFailed && (s.safeState = safeNormal || s.safeState = safeCstop) then
    s.trip ⟨1, 0x11, s.unhealthyLanes, allOutputs⟩
  else s

/-! ### Rates and rows (R97, R98, R103) -/

/-- Whether an equalisation row may be measured at a rate (R103). -/
def rowFits (w : Word) (rate : Nat) : Bool := w.toNat.testBit 31 && w.toNat.testBit (if rate = 1 then 30 else 29)

/-- The rows of lane `n` that fit a rate, ascending (R103). -/
def State.rowsFor (s : State) (n rate : Nat) : List Nat := (List.range 4).filter (fun r => rowFits (s.reg (A.LANE_EQ n r)) rate)

/-- Whether RATE_SEL allows a rate; lanes 48 and 49 ignore it (R103, R114). -/
def State.rateAllowed (s : State) (n rate : Nat) : Bool :=
  48 ≤ n || (if rate = 1 then s.get (F.LANE_CTRL_RATE_SEL n) ≠ 1 else s.get (F.LANE_CTRL_RATE_SEL n) ≠ 2)

/-- The field that holds row `r`'s FOM at a rate. -/
def fomFld (n r rate : Nat) : Fld := if rate = 1 then F.LANE_FOM_FOM_LO n r else F.LANE_FOM_FOM_HI n r

/-- TX_LAT and RX_LAT: the electrical parts plus a row's OPT_ALLOW (R98). -/
def State.setLat (s : State) (n : Nat) (row : Word) : State :=
  let o := bits row.toNat 28 20
  (s.put (F.LANE_LAT_TX_LAT n) ((s.lane n).txEl + o)).put (F.LANE_LAT_RX_LAT n) ((s.lane n).rxEl + o)

/-- Row `r` takes effect: ROW, FOM, its applied settings and the latencies (R98, R102, R105). -/
def State.useRow (s : State) (n r : Nat) : State :=
  let w := s.reg (A.LANE_EQ n r)
  let s := s.setLane n { s.lane n with rowWord := w }
  let s := (s.put (F.LANE_STAT_ROW n) r).put (F.LANE_STAT_FOM n) (s.get (fomFld n r (s.get (F.LANE_STAT_RATE n))))
  (s.put (F.LANE_STAT_EQ_PENDING n) 0).setLat n w

/-- The lane transmits with the first row that fits its rate, where there is one (R102). -/
def State.useFirst (s : State) (n : Nat) : State :=
  match s.rowsFor n (s.get (F.LANE_STAT_RATE n)) with
  | [] => s
  | r :: _ => s.useRow n r

/-- The row of lane `n` under measurement in TRAIN: the first while block lock is awaited, for at most 250 µs, then each in turn for 10 µs and
8,192 blocks (R103). -/
def State.rowMeasured (s : State) (n : Nat) : Option Nat :=
  let x := s.lane n
  let rows := s.rowsFor n (s.rateOf n)
  let base := min (x.lockAt.getD (x.measAt + 250 * us)) (x.measAt + 250 * us)
  let each := 10 * (10 * us) + 8192 * s.blockB n
  rows[min (10 * (s.now - base) / each) (rows.length - 1)]?

/-- LANE_LAT as it reads: while a row is measured, with that row's OPT_ALLOW (R98). -/
def State.latNow (s : State) (n : Nat) : Word :=
  match s.rowMeasured n with
  | some r => if s.laneState n = lnTrain then (s.setLat n (s.reg (A.LANE_EQ n r))).reg (A.LANE_LAT n) else s.reg (A.LANE_LAT n)
  | none => s.reg (A.LANE_LAT n)

/-- The rows of the present rate are measured from now on (R103). -/
def State.startMeas (s : State) (n : Nat) : State :=
  s.setLane n { s.lane n with measAt := s.now, lockAt := if s.on (F.LANE_STAT_BLOCK_LOCK n) then some s.now else none }

/-! ### States (R102) -/

/-- A change of STATE. -/
def State.goLane (s : State) (n st : Nat) : State :=
  (s.put (F.LANE_STAT_STATE n) st).setLane n { s.lane n with at0 := s.now }

/-- TRAIN is entered from any state but WAKE: LANE_RETRAIN counts, DELAY_VALID and ADAPT clear; from RELOCK the present rate is
measured first, otherwise the full measurement starts at the highest rate allowed (R102, R103, R108, R111). DEDUCED, log 33. -/
def State.enterTrain (s : State) (n : Nat) (fromRelock : Bool) : State :=
  let old := s.rateOf n
  let s := (((s.restartMarkers n).goLane n lnTrain).cnt (F.LANE_RETRAIN n)).put (F.LANE_STAT_DELAY_VALID n) 0
  let s := (s.put (F.LANE_CTRL_ADAPT n) 0).put (F.LANE_CTRL_APPLY_EQ n) 0
  let s := s.setLane n { s.lane n with fromRelock := fromRelock }
  let s := if fromRelock || 48 ≤ n then s
    else s.put (F.LANE_STAT_RATE n) (if s.get (F.LANE_CTRL_RATE_SEL n) = 2 then 1 else 0)
  (if s.rateOf n = old then s else s.startStream n).startMeas n

/-- ERR_N, 0 acting as 1 (R111). -/
def LaneX.errN (x : LaneX) : Nat := let v := bits x.errCfg.toNat 7 0; if v = 0 then 1 else v
/-- ERR_W in ms, 0 acting as 1 (R111). -/
def LaneX.errW (x : LaneX) : Nat := let v := bits x.errCfg.toNat 23 8; if v = 0 then 1 else v
/-- HIBER_N, 0 acting as 1 (R101). -/
def LaneX.hiberN (x : LaneX) : Nat := let v := bits x.errCfg.toNat 31 24; if v = 0 then 1 else v

/-- A lane fault: ERR_N within ERR_W make it lasting and the lane FAULTED (R111). -/
def State.laneFault (s : State) (n : Nat) : State :=
  let x := s.lane n
  let ts := (s.now :: x.faults).take 255
  let s := s.setLane n { x with faults := ts }
  if x.errN ≤ ts.length && decide (s.now ≤ ts.getD (x.errN - 1) 0 + x.errW * ms) then
    ((s.put (F.LANE_FAULT_STAT_LASTING n) 1).goLane n lnFaulted).raise (laneBase n) 4
  else s

/-- FAILED is entered: TRAIN_FAIL, LANE_TRAIN_FAIL and one lane fault (R102). -/
def State.laneFail (s : State) (n : Nat) : State :=
  (((s.goLane n lnFailed).put (F.LANE_FAULT_STAT_TRAIN_FAIL n) 1).raise (laneBase n) 3).laneFault n

/-! ### EN (R102, R107) -/

/-- Whether a joining module's stall lanes stay parked: its SAFE state is not NORMAL while it is LINKED to a partner that reports
NORMAL, or it has not been LINKED for 16 periods (R379). -/
def State.joinBlocked (s : State) : Bool :=
  s.on F.PAIR_CFG_EN &&
    (!s.pair.linked16 ||
      (s.safeState ≠ safeNormal && s.get F.PAIR_STAT_STATE = 2 && (s.pair.partner.map (fun p => p.safe)) = some safeNormal))

/-- EN of lane `n` written 1: a PARKED lane goes to WAKE, unless R379 drops the write (R102, R379). -/
def State.laneWake (s : State) (n : Nat) : State :=
  if n < 48 && !s.on (F.LANE_CTRL_EN n) && s.joinBlocked then (s.put F.PAIR_FAULT_STAT_JOIN_BLOCK 1).noteDrop
  else if s.laneState n = lnParked && !(n < 48 && s.on F.PAIR_STAT_WITHDRAWN) && !s.rst.asserted then (s.put (F.LANE_CTRL_EN n) 1).goLane n lnWake
  else s.put (F.LANE_CTRL_EN n) 1

/-- Whether EN 1→0 is refused (R107). -/
def State.parkRefused (s : State) (n : Nat) : Bool := s.running && !(s.onLane n).isEmpty

/-- PARK_REFUSED (R107). -/
def State.refusePark (s : State) (n : Nat) : State :=
  (((s.put (F.LANE_FAULT_STAT_PARK_REFUSED n) 1).cnt (F.accessErr (laneBase n))).raise Base.SYS 0).noteDrop

/-- EN 1→0 accepted: PARKED, everything off (R102, R107, R108). -/
def State.laneToPark (s : State) (n : Nat) : State :=
  if s.laneState n = lnParked then s.put (F.LANE_CTRL_EN n) 0
  else
    let s := (((s.markersDue n).put (F.LANE_CTRL_EN n) 0).goLane n lnParked).put (F.LANE_STAT_DELAY_VALID n) 0
    let s := ((s.put (F.LANE_STAT_BLOCK_LOCK n) 0).put (F.LANE_STAT_MARKER_LOCK n) 0).put (F.LANE_STAT_HIBER n) 0
    let s := (s.put (F.LANE_CTRL_ADAPT n) 0).put (F.LANE_CTRL_APPLY_EQ n) 0
    s.setLane n { s.lane n with marker := none, invalid := 0, echoOut := [], rx := [] }

/-- EN written 1→0: the lane parks, and the healthy lanes are counted again (R107, R109, R307). -/
def State.lanePark (s : State) (n : Nat) : State :=
  if s.laneState n = lnParked then s.put (F.LANE_CTRL_EN n) 0 else (s.laneToPark n).laneCommon

/-- LANE_ENABLE (R102). -/
def execLaneEnable (n : Fin 50) (s : State) : Host.Outcome State Fault Refusal := .next (s.laneWake n.val)

/-- LANE_PARK (R107). -/
def execLanePark (n : Fin 50) (s : State) : Host.Outcome State Fault Refusal :=
  .next (if s.on (F.LANE_CTRL_EN n.val) && s.parkRefused n.val then s.refusePark n.val else s.lanePark n.val)

/-- LANE_PLL_LOCK (R102): the PLL of a lane in WAKE has locked and its latencies are measured; it sends IDLE, or HALT while the
fence's request stands, with the first valid row. -/
def execLanePllLock (n : Fin 50) (tx rx : Nat) (s : State) : Host.Outcome State Fault Refusal :=
  let k := n.val
  if s.laneState k = lnWake then
    let s := (s.goLane k lnTrain).put (F.LANE_STAT_DELAY_VALID k) 0
    let s := s.put (F.LANE_STAT_RATE k) (if 48 ≤ k then 2 else if s.get (F.LANE_CTRL_RATE_SEL k) = 2 then 1 else 0)
    let s := s.setLane k { s.lane k with txEl := tx, rxEl := rx, fromRelock := false, errCfg := s.reg (A.LANE_ERRCFG k) }
    .next ((((s.setLat k 0).useFirst k).startStream k).startMeas k)
  else .next s

/-! ### Training (R103) -/

/-- The FOM of a measured row: min(H, V) capped at 255, 0 without block lock throughout (R103). -/
def fomOf (m : Nat × Nat × Bool) : Nat := if m.2.2 then min (min m.1 m.2.1) 255 else 0

/-- The row with the highest FOM, the lowest among equals. -/
def bestRow (fom : Nat → Nat) : List Nat → Option Nat
  | [] => none
  | r :: t =>
    match bestRow fom t with
    | none => some r
    | some q => if fom r < fom q then some q else some r

/-- The lane sends ECHO every 8 µs with nothing outstanding (R102, R108). -/
def State.enterDelay (s : State) (n : Nat) : State :=
  let s := s.goLane n lnDelay
  s.setLane n { s.lane n with accepted := 0, lost := 0, raw := [], echoOut := [], echoAt := s.now, stepOver := false }

/-- The lane falls back to 3.125 Gb/s and measures its rows (R102, R103). -/
def State.fallBack (s : State) (n : Nat) : State :=
  ((((((s.markersDue n).put (F.LANE_STAT_RATE n) 1).useFirst n).startStream n).startMeas n).raise (laneBase n) 2)

/-- The rows of the present rate have been measured (R102, R103). -/
def State.trainDone (s : State) (n : Nat) (m : TrainMeas) : State :=
  let rate := s.get (F.LANE_STAT_RATE n)
  let rows := s.rowsFor n rate
  let fom := fun r => fomOf (m.rows.getD r (0, 0, false))
  let s := s.setLane n { s.lane n with txEl := m.tx, rxEl := m.rx }
  let s := rows.foldl (fun t r => (t.put (fomFld n r rate) (fom r)).setLat n (t.reg (A.LANE_EQ n r))) s
  let least := if rate = 1 then s.get (F.LANE_CTRL_FOM_MIN_LO n) else s.get (F.LANE_CTRL_FOM_MIN_HI n)
  match bestRow fom rows with
  | some r =>
    if s.rateAllowed n rate && least ≤ fom r then (s.useRow n r).enterDelay n
    else if rate = 0 && s.rateAllowed n 1 then s.fallBack n
    else s.laneFail n
  | none =>
    if rate = 0 && s.rateAllowed n 1 && !(s.rowsFor n 1).isEmpty then s.fallBack n
    else s.laneFail n

/-- LANE_TRAIN_COMPLETE (R103): the best row is applied at the marker slot this command stands at, the lane falls back or fails. -/
def execLaneTrainComplete (n : Fin 50) (m : TrainMeas) (s : State) : Host.Outcome State Fault Refusal :=
  .next (if s.laneState n.val = lnTrain then s.trainDone n.val m else s)

/-- ADAPT_REFUSED with its count and event (R40, R104). -/
def State.adaptRefused (s : State) (n : Nat) : State :=
  (((s.put (F.LANE_FAULT_STAT_ADAPT_REFUSED n) 1).cnt (F.accessErr (laneBase n))).raise (laneBase n) 7).noteDrop

/-- ADAPT written 1 (R102, R104): refused while an enabled record of a stall lane is ACTIVE or PRECHARGE, accepted in UP and FAILED,
without effect elsewhere. DEDUCED, log 32. -/
def State.laneAdapt (s : State) (n : Nat) : State :=
  let s := s.put (F.LANE_CTRL_ADAPT n) 0
  if n < 48 && (s.onLane n).any (fun i => s.lkState i = lkActive || s.lkState i = lkPrecharge) then s.adaptRefused n
  else if s.laneState n = lnUp then (s.enterTrain n false).laneCommon
  else if s.laneState n = lnFailed then s.enterTrain n false
  else s

/-- LANE_ADAPT (R104). -/
def execLaneAdapt (n : Fin 50) (s : State) : Host.Outcome State Fault Refusal := .next (s.laneAdapt n.val)

/-- The marker slot at which APPLY_EQ takes effect, or is dropped where the lane is not UP (R105). -/
def State.laneEqSlot (s : State) (n : Nat) : State :=
  let s := (s.put (F.LANE_CTRL_APPLY_EQ n) 0)
  if s.laneState n = lnUp then (s.useRow n (s.get (F.LANE_STAT_ROW n))).raise (laneBase n) 12
  else s.put (F.LANE_STAT_EQ_PENDING n) 0

/-- APPLY_EQ written 1: held until the marker slot in UP, else dropped (R105). -/
def State.laneEqWrite (s : State) (n : Nat) : State :=
  if s.laneState n = lnUp then s.put (F.LANE_CTRL_APPLY_EQ n) 1 else s.laneEqSlot n

/-- APPLY_EQ (R105): the write and the marker slot that ends it. DEDUCED, log 31. -/
def execApplyEq (n : Fin 50) (s : State) : Host.Outcome State Fault Refusal := .next ((s.laneEqWrite n.val).laneEqSlot n.val)

/-- A row of the equalisation table has been written: the row in use sets EQ_PENDING (R105). -/
def State.laneRowWritten (s : State) (n r : Nat) : State :=
  if s.laneState n ≠ lnParked && s.get (F.LANE_STAT_ROW n) = r then s.put (F.LANE_STAT_EQ_PENDING n) 1 else s

/-! ### Lasting faults and retries (R102, R111) -/

/-- Whether a clear of LASTING is accepted (R111). -/
def State.laneClearOk (s : State) (n : Nat) : Bool := s.on (F.LANE_STAT_BLOCK_LOCK n) && !s.on (F.LANE_STAT_HIBER n)

/-- LASTING has been cleared: the window empties and a FAULTED lane trains (R102, R111). -/
def State.laneCleared (s : State) (n : Nat) : State :=
  let s := s.setLane n { s.lane n with faults := [] }
  if s.laneState n = lnFaulted then s.enterTrain n false else s

/-- A clear of LASTING is requested (R111). -/
def State.laneLastClear (s : State) (n : Nat) : State :=
  if !s.on (F.LANE_FAULT_STAT_LASTING n) then s
  else if s.laneClearOk n then (s.put (F.LANE_FAULT_STAT_LASTING n) 0).laneCleared n
  else s.cnt (F.LANE_ERR_COUNT_LANE_CLR_REFUSED n)

/-- LANE_LASTING_CLEAR (R111). -/
def execLaneLastingClear (n : Fin 50) (s : State) : Host.Outcome State Fault Refusal := .next (s.laneLastClear n.val)

/-- LANE_RETRY_TIMEOUT (R102): 1 s in FAILED. -/
def execLaneRetryTimeout (n : Fin 50) (s : State) : Host.Outcome State Fault Refusal :=
  .next (if s.laneState n.val = lnFailed then (s.until ((s.lane n.val).at0 + sec)).enterTrain n.val false else s)

/-! ### Block lock (R101, R102) -/

/-- BLOCK_LOCK_LOSS (R101, R102). -/
def execBlockLockLoss (n : Fin 50) (s : State) : Host.Outcome State Fault Refusal :=
  let k := n.val
  let was := s.on (F.LANE_STAT_BLOCK_LOCK k)
  let s := (s.put (F.LANE_STAT_BLOCK_LOCK k) 0).put (F.LANE_STAT_MARKER_LOCK k) 0
  let s := s.setLane k { s.lane k with marker := none, rx := [] }
  if was && s.laneState k = lnUp then
    let s := ((s.goLane k lnRelock).cnt (F.LANE_LOCK_LOSS k)).raise (laneBase k) 1
    .next (((s.put (F.LANE_CTRL_APPLY_EQ k) 0).laneFault k).laneCommon)
  else .next s

/-- Time a lane may take to regain block lock: 250 µs (R102). -/
abbrev relockTicks : Nat := 250 * us

/-- BLOCK_LOCK_GAIN (R101, R102). -/
def execBlockLockGain (n : Fin 50) (s : State) : Host.Outcome State Fault Refusal :=
  let k := n.val
  if s.laneState k = lnParked then .next s
  else
    let s := (s.put (F.LANE_STAT_BLOCK_LOCK k) 1).setLane k { s.lane k with lockAt := some ((s.lane k).lockAt.getD s.now) }
    .next (if s.laneState k = lnRelock && s.now ≤ (s.lane k).at0 + relockTicks then (s.goLane k lnUp).raise (laneBase k) 0 else s)

/-- RELOCK_TIMEOUT (R102): 250 µs pass in RELOCK. -/
def execRelockTimeout (n : Fin 50) (s : State) : Host.Outcome State Fault Refusal :=
  let k := n.val
  .next (if s.laneState k = lnRelock then (s.until ((s.lane k).at0 + relockTicks)).enterTrain k true else s)

/-! ### Markers (R99–R101) -/

/-- A marker error (R100, R111). -/
def State.markerErr (s : State) (n : Nat) : State := s.cnt (F.LANE_MARKER_ERR n)

/-- A received alignment marker, `gap` blocks after the previous one (R100). DEDUCED, log 34. -/
def State.marker (s : State) (n : Nat) (payload : BitVec 64) (gap : Nat) : State :=
  let w := payload.toNat
  let diff := popcount 16 (bits w 63 48 ^^^ 0x4B2D)
  if 2 < diff then ((s.markerErr n).cnt (F.LANE_FRAMING n)).put (F.LANE_STAT_MARKER_LOCK n) 0
  else
    let c := bits w 39 16
    let prev := (s.lane n).marker
    let s := s.setLane n { s.lane n with marker := some c }
    match prev with
    | none => s
    | some p =>
      let badSlot := gap ≠ 4096
      let badCount := c ≠ (p + 1) % 2 ^ 24
      let s := if badSlot || badCount then s.markerErr n else s
      s.put (F.LANE_STAT_MARKER_LOCK n) (b2n (!badSlot))

/-- ALIGNMENT_MARKER (R100). -/
def execAlignmentMarker (n : Fin 50) (payload : BitVec 64) (gap : Nat) (s : State) : Host.Outcome State Fault Refusal :=
  .next (if s.on (F.LANE_STAT_BLOCK_LOCK n.val) then s.marker n.val payload gap else s)

/-- MARKER_MISSING (R100): 4,097 blocks pass after the last marker without another. -/
def execMarkerMissing (n : Fin 50) (s : State) : Host.Outcome State Fault Refusal :=
  .next (if s.on (F.LANE_STAT_BLOCK_LOCK n.val) && (s.lane n.val).marker.isSome then
    (s.markerErr n.val).put (F.LANE_STAT_MARKER_LOCK n.val) 0 else s)

/-- The end of a marker interval: HIBER is judged, entries to it are lane faults, and a written LANE_ERRCFG takes effect (R101,
R111). -/
def State.intervalEnd (s : State) (n : Nat) : State :=
  let x := s.lane n
  let hi := x.hiberN ≤ x.invalid
  let was := s.on (F.LANE_STAT_HIBER n)
  let s := s.put (F.LANE_STAT_HIBER n) (b2n hi)
  let s := if hi then s.cnt (F.LANE_HIBER n) else s
  let s := s.setLane n { s.lane n with invalid := 0 }
  let s := if hi && !was then
    let t := s.raise (laneBase n) 5
    if s.laneState n = lnFaulted then t else t.laneFault n
  else s
  (s.setLane n { s.lane n with errCfg := s.reg (A.LANE_ERRCFG n) }).laneCommon

/-- MARKER_INTERVAL_END (R101). The markers the lane has sent are given out here (log 174). -/
def execMarkerIntervalEnd (n : Fin 50) (s : State) : Host.Outcome State Fault Refusal :=
  .next (if s.laneState n.val = lnParked then s else (s.markersDue n.val).intervalEnd n.val)

/-! ### Echoes and delay (R72, R108, R114) -/

/-- The echo interval in ticks: 8 µs in DELAY, INT_US in UP (R108). -/
def State.echoGap (s : State) (n : Nat) : Nat :=
  if s.laneState n = lnDelay then 8 * us else clampN 8 10000 (s.get (F.LANE_ECHOCFG_INT_US n)) * us

/-- The instant of the next ECHO: an interval after the last, or after the release of a halt (R108). -/
def State.echoDue (s : State) (n : Nat) : Nat :=
  let last := (s.lane n).echoAt
  let rel := if n < 48 then s.safe.haltEndAt else 0
  max last rel + s.echoGap n

/-- The ECHO block: BTYPE, DLY_LAST, ECHO_SEQ (R58, R72). -/
def echoBlock (dly seq : Nat) : BitVec 64 := BitVec.ofNat 64 (0x8D + 2 ^ 8 * (dly % 2 ^ 24) + 2 ^ 32 * (seq % 256))

/-- DLY_LAST: LANE_DLY while it is published, else 0 (R72). -/
def State.dlyLast (s : State) (n : Nat) : Nat := if s.on (F.LANE_STAT_DELAY_VALID n) then s.get (F.LANE_DLY n) else 0

/-- How long an echo may stay unanswered: 2 × LANE_DLY + 2 µs, in ticks (R108). -/
def State.echoLimit (s : State) (n : Nat) : Nat := (2 * s.get (F.LANE_DLY n) + 63) / 64 + 2 * us

/-- The median of raw values, each held doubled, rounded half up in 1/64 tick (R108). -/
def medianDelay (raw : List Nat) : Nat :=
  let l := sortUp raw
  let n := l.length
  if n % 2 = 1 then (l.getD (n / 2) 0 + 1) / 2 else (l.getD (n / 2 - 1) 0 + l.getD (n / 2) 0 + 2) / 4

/-- LANE_DLY follows the filtered delay (R108). -/
def State.laneMove (s : State) (n filt : Nat) : State :=
  let d := s.get (F.LANE_DLY n)
  let diff := if d ≤ filt then filt - d else d - filt
  let beyond := decide (320 < diff)
  let s := if beyond && !(s.lane n).stepOver then s.raise (laneBase n) 6 else s
  let move := if s.get (F.LANE_ECHOCFG_DLY_HYST n) < diff then min 16 diff else 0
  let s := s.setLane n { s.lane n with stepOver := decide (320 < diff - move) }
  s.put (F.LANE_DLY n) (if d ≤ filt then d + move else d - move)

/-- An accepted echo: in DELAY the eighth publishes the delay and the lane is UP, in UP the published delay moves (R102, R108). The
raw value where TURN exceeds the round trip is a free value (log 8). -/
def State.echoOk (s : State) (n rt turn : Nat) : State :=
  let raw := if turn ≤ rt then rt - turn else s.free 24
  let s := if turn ≤ rt then s else s.drew
  let x := s.lane n
  let s := s.put (F.LANE_RT_RAW n) rt
  let s := s.setLane n { x with raw := (raw :: x.raw).take 8, accepted := x.accepted + 1, lost := 0 }
  let filt := medianDelay (s.lane n).raw
  if s.laneState n = lnDelay then
    if 8 ≤ (s.lane n).accepted then
      let s := (s.put (F.LANE_DLY n) filt).put (F.LANE_STAT_DELAY_VALID n) 1
      ((s.goLane n lnUp).setLane n { (s.goLane n lnUp).lane n with stepOver := false }).raise (laneBase n) 0
    else s
  else s.laneMove n filt

/-- An ECHO_RSP on lane `n` that answers an outstanding echo in time, taken from the list (R108). -/
def State.echoRsp (s : State) (n : Nat) (payload : BitVec 64) (rt : Nat) : State :=
  let w := payload.toNat
  let seq := bits w 39 32
  let x := s.lane n
  match x.echoOut.find? (fun e => e.1 = seq) with
  | none => s
  | some e =>
    if s.now ≤ e.2 + s.echoLimit n && (s.laneState n = lnDelay || s.laneState n = lnUp) then
      (s.setLane n { x with echoOut := x.echoOut.filter (fun q => q.1 ≠ seq) }).echoOk n rt (bits w 31 8)
    else s

/-- ECHO_LOST (R108): the oldest unanswered echo is lost; 8 in a row in DELAY fail the lane. -/
def execEchoLost (n : Fin 50) (s : State) : Host.Outcome State Fault Refusal :=
  let k := n.val
  match (s.lane k).echoOut with
  | [] => .next s
  | e :: rest =>
    let s := s.until (e.2 + s.echoLimit k)
    let s := (s.setLane k { s.lane k with echoOut := rest, lost := (s.lane k).lost + 1 }).cnt (F.LANE_ECHO_LOST k)
    .next (if s.laneState k = lnDelay && 8 ≤ (s.lane k).lost then s.laneFail k else s)

/-- The ECHO_RSP block: BTYPE, TURN, ECHO_SEQ (R58, R72). -/
def echoRspBlock (turn seq : Nat) : BitVec 64 := BitVec.ofNat 64 (0x93 + 2 ^ 8 * (turn % 2 ^ 24) + 2 ^ 32 * (seq % 256))

/-- ECHO_RECEIVED (R114): the partner's ECHO on a transmitting pair lane is answered. -/
def execEchoReceived (p : Fin 2) (payload : BitVec 64) (turn : BitVec 24) (s : State) : Host.Outcome State Fault Refusal :=
  let n := 48 + p.val
  let st := s.laneState n
  .next (if s.on (F.LANE_STAT_BLOCK_LOCK n) && st ≠ lnFaulted then
    (s.setLane n { s.lane n with rx := [], txFree10 := s.txStart10 n 0 + s.blockB n }).emit
      (.block n (echoRspBlock turn.toNat (bits payload.toNat 39 32))) else s)

end Sys2Proof.Machine
end

