-- ==== Sys2Proof/Machine/Frames.lean ====
section
/-! DEFINITION. Frames of the stall link as lists of 64-bit block payloads, with their CRCs: building and reading (R58, R62–R70). -/

namespace Sys2Proof.Machine

open Sys2Proof

/-! ### CRCs (R62, R63) -/

/-- `n` shift steps of a reflected CRC with polynomial `poly`. -/
def crcSteps (poly : Nat) : Nat → Nat → Nat
  | 0, c => c
  | n + 1, c => crcSteps poly n (if c % 2 = 1 then (c / 2) ^^^ poly else c / 2)

/-- A reflected CRC register after a list of bytes. -/
def crcBytes (poly : Nat) : List Byte → Nat → Nat
  | [], c => c
  | b :: t, c => crcBytes poly t (crcSteps poly 8 (c ^^^ b.toNat))

/-- CRC-32C of a list of bytes (R62). -/
def crc32c (l : List Byte) : Nat := crcBytes 0x82F63B78 l 0xFFFFFFFF ^^^ 0xFFFFFFFF

/-- CRC-8 of a list of bytes, polynomial 0x2F reflected (R63). -/
def crc8 (l : List Byte) : Nat := crcBytes 0xF4 l 0xFF ^^^ 0xFF

/-- The bytes of a block in transmission order. -/
def blockBytes (b : BitVec 64) : List Byte := bytesLE 8 b.toNat

/-- The CRC of a frame: every block before the CRC block, then bits [63:32] of the CRC block (R62). -/
def frameCrc (body : List (BitVec 64)) (hi : Nat) : Nat := crc32c (body.flatMap blockBytes ++ bytesLE 4 hi)

/-- A frame closed with its CRC block, whose bits [63:32] hold `hi`. -/
def sealFrame (body : List Nat) (hi : Nat) : List (BitVec 64) :=
  let b := body.map (BitVec.ofNat 64)
  b ++ [BitVec.ofNat 64 (frameCrc b hi + 2 ^ 32 * hi)]

/-- A received frame's CRC is right (R62). -/
def frameOk (f : List (BitVec 64)) : Bool :=
  match f.reverse with
  | [] => false
  | last :: rest => frameCrc rest.reverse (last.toNat / 2 ^ 32) = last.toNat % 2 ^ 32

/-- Block `i` of a frame as a number. -/
def blk (f : List (BitVec 64)) (i : Nat) : Nat := (f.getD i 0#64).toNat

/-! ### TIME (R63) -/

/-- The TIME frame of period `k` starting at CTB `t0`. -/
def timeFrame (k t0 half dly : Nat) : List (BitVec 64) :=
  let c := 0xC3 + 2 ^ 8 * (k % 2 ^ 16) + 2 ^ 24 * (t0 % 2 ^ 32) + 2 ^ 56 * (half % 256)
  let d := dly % 2 ^ 24 + 2 ^ 24 * (t0 / 2 ^ 32 % 2 ^ 32)
  [BitVec.ofNat 64 c, BitVec.ofNat 64 (d + 2 ^ 56 * crc8 (bytesLE 7 (c / 256) ++ bytesLE 7 d))]

/-! ### SCHED and REF (R64, R65, R67) -/

/-- An edge entry (R65). -/
def edgeEntry (offset leg st : Nat) : Nat := 2 ^ 12 * (offset % 2 ^ 20) + 2 ^ 9 * (leg % 8) + 2 ^ 7 * (st % 4)

/-- Entries two to a data block. -/
def packEntries : List Nat → List Nat
  | [] => []
  | [a] => [a]
  | a :: b :: t => (a + 2 ^ 32 * b) :: packEntries t

/-- The frame of a schedule or reference (R64, R67). -/
def schedFrame (path serial : Nat) (x : Sched) : List (BitVec 64) :=
  let count := if x.isRef then 0 else x.entries.length
  let c := (if x.isRef then 0xE4 else 0xD8) + 2 ^ 8 * path + 2 ^ 40 * (x.period % 2 ^ 16) + 2 ^ 56 * (count % 32) +
    2 ^ 61 * b2n x.standby + 2 ^ 62 * b2n x.bypass + 2 ^ 63 * b2n x.resume
  let d := serial + 2 ^ 32 * b2n x.prechg + 2 ^ 33 * b2n x.remove
  let body := if x.isRef then
      [(x.cmd.getD 0 0) + 2 ^ 16 * (x.cmd.getD 1 0) + 2 ^ 32 * (x.cmd.getD 2 0) + 2 ^ 48 * (x.cmd.getD 3 0)]
    else packEntries x.entries
  sealFrame (c :: d :: body) 0

/-! ### MREQ (R70) -/

/-- The MREQ frame of a request. -/
def mreqFrame (path tag : Nat) (wr : Bool) (addr data : Nat) : List (BitVec 64) :=
  sealFrame [0x4E + 2 ^ 8 * path + 2 ^ 40 * (tag % 256) + 2 ^ 48 * (if wr then 2 else 1),
    (if wr then data % 2 ^ 32 else 0) + 2 ^ 32 * (addr % 2 ^ 16)] 0

end Sys2Proof.Machine
end

