-- ==== Sys2Proof/Machine/Link.lean ====
section
/-! DEFINITION. The stall link: uplinks and their conversion, management requests, enumeration, insertion and removal, and the
sending of schedules (R42, R52, R55, R69–R77, R89–R96). -/

namespace Sys2Proof.Machine

open Sys2Proof

/-- A stall's link. -/
def State.link (s : State) (i : Nat) : LinkS := KMap.get (fun _ => {}) s.links i

/-- A stall's link replaced. -/
def State.setLink (s : State) (i : Nat) (x : LinkS) : State := { s with links := KMap.set (fun _ => {}) s.links i x }

/-! ### A stall in the synthesiser (R117, R119, R375) -/

/-- A stall in the synthesiser. -/
def State.es (s : State) (i : Nat) : EdgeS := KMap.get (fun _ => {}) s.edge.stall i

/-- A stall in the synthesiser replaced. -/
def State.setEs (s : State) (i : Nat) (x : EdgeS) : State := { s with edge := { s.edge with stall := KMap.set (fun _ => {}) s.edge.stall i x } }

/-- The record after a period in which every leg is off (R120, R124). -/
def offRecord (h : Hist) (t1 : Nat) : Hist :=
  { h with legs := List.replicate 6 0
           offAt := (List.range 6).map (fun l => if h.legs.getD l 0 = 0 then h.offAt.getD l none else some t1)
           carried := [], l0 := 0, l1 := 0, isoOn := false, wait := true }

/-- STANDBY of stall `i`'s schedules (R375): 0 for the stalls this member decided at the reload edge to serve. -/
def State.standbyOf (s : State) (i : Nat) : Bool := !(s.pair.claim.getD (i / 32) 0).testBit (i % 32)

/-- Stall `i` waits for its schedule to be computed: its kind is fixed, it has not been taken, and no removal has overtaken it. -/
def State.waits (s : State) (i : Nat) : Bool :=
  s.edge.edge && !s.edge.taken.testBit i && (s.es i).kind ≠ .none &&
    (s.lkState i ≠ lkRemoving || (s.es i).kind = .removing)

/-- A lane's management and enumeration. -/
def State.ll (s : State) (n : Nat) : LinkLane := KMap.get (fun _ => {}) s.linkLanes n

/-- A lane's management and enumeration replaced. -/
def State.setLl (s : State) (n : Nat) (x : LinkLane) : State := { s with linkLanes := KMap.set (fun _ => {}) s.linkLanes n x }

/-- A stall-level event of lane `n` for stall `i` (R113). -/
def State.stallEvent (s : State) (i bit : Nat) : State :=
  (s.put (F.LANE_LAST_STALL (s.laneOf i)) i).raise (laneBase (s.laneOf i)) bit

/-- ENABLE of a record written 0 by the KY-9. -/
def State.disable (s : State) (i : Nat) : State := s.setRecF i offCfg 31 1 0

/-- Stall `i` is yielded for the next schedule, as decided at the reload edge (R376). -/
def State.yieldedNow (s : State) (i : Nat) : Bool := (s.pair.yielded.getD (i / 32) 0).testBit (i % 32)

/-! ### Uplinks (R42, R55, R69) -/

/-- The conversion word of class `c` in scale set `j`: the sampled one in RUN and STOPPING (R51). DEDUCED, log 46. -/
def State.convWord (s : State) (j c : Nat) : Word :=
  if s.running then KMap.get (fun _ => 0) s.conv (16 * j + c) else s.reg (A.YARD_CONV (16 * j + c))

/-- A raw count converted: value and whether it saturated (R42). -/
def convert (w : Word) (x : Int) : Int × Bool :=
  let v := divHalfEven (x * (bits w.toNat 15 0 : Int)) (2 ^ bits w.toNat 20 16)
  (sat16 v, decide (sat16 v ≠ v))

/-- Slot `m` of a record replaced. -/
def State.setM (s : State) (i m : Nat) (v : Int) : State := s.setRecF i (offM + 4 * (m / 2)) (16 * (m % 2)) 16 (tc 16 v)

/-- One slot of an accepted uplink is converted and stored (R42, R69). -/
def State.storeSlot (s : State) (i m raw : Nat) (valid : Bool) : State :=
  if !valid then s.setRecF i offUpValid m 1 0
  else
    let w := s.convWord (s.scaleOf i) (s.classOf i m)
    if w = 0#32 then ((s.setM i m 0).setRecF i offUpValid m 1 0).setRecF i offUpSat m 1 0
    else
      let r := convert w (sx 16 raw)
      ((s.setM i m r.1).setRecF i offUpValid m 1 1).setRecF i offUpSat m 1 (b2n r.2)

/-- A poisoned word that is written loses its poison (R333). -/
def State.unpoison (s : State) (lo n : Nat) : State :=
  { s with flt := { s.flt with poisoned := s.flt.poisoned.filter (fun p => !(lo ≤ p.2 && p.2 < lo + n)) } }

/-- The uplink area of record `i` is written from an accepted frame (R53, R55, R69). -/
def State.storeUplink (s : State) (i : Nat) (f : List (BitVec 64)) : State :=
  let valid := bits (blk f 6) 47 32
  let s := (List.range 16).foldl
    (fun t m => t.storeSlot i m (bits (blk f (2 + m / 4)) (16 * (m % 4) + 15) (16 * (m % 4))) (valid.testBit m)) s
  let s := s.setRec i offUpPeriod (s.periodK % 2 ^ 32)
  let s := s.setRec i offUpTstamp (bits (blk f 1) 31 0)
  let s := (s.setRec i offUpStatus (bits (blk f 1) 63 32)).setRecF i offUpValid 16 16 0
  s.unpoison (0x800000 + 0x1000 * i + 0x100) 0x34

/-- Largest D_path of the enabled records on a lane, 1/64 tick. -/
def State.maxPath (s : State) (n : Nat) : Nat := (s.onLane n).foldl (fun m i => max m (s.pathDly i)) 0

/-- The uplink cut-off of a lane, ticks after t_k (R76). -/
def State.ulCutoff (s : State) (n : Nat) : Nat :=
  (s.maxPath n * 10 + 7 * (s.onLane n).length * s.blockB n * 64 + 1050 * 640 + 639) / 640

/-! ### Precharge (R94) -/

/-- Sum of M0 and number of the sorted stalls of an arm. -/
def State.armM0 (s : State) (a : Nat) : Int × Nat :=
  let l := s.sortList.filter (fun i => bits (KMap.get (fun _ => {}) s.bal.stall i).cfg 27 25 = a)
  (sumI (l.map (fun i => s.slotM i 0)), l.length)

/-- M0 lies within 0.02 per unit of the mean M0 of the arm's sorted stalls; with none sorted the mean is a free value (log 8). -/
def State.m0Near (s : State) (i : Nat) : Bool :=
  let p := s.armM0 (s.armOf i)
  let d := if p.2 = 0 then s.slotM i 0 - sx 16 (s.free 16) else (p.2 : Int) * s.slotM i 0 - p.1
  decide (100 * d.natAbs ≤ 2 * 32768 * max p.2 1)

/-- An accepted uplink drives the stall's insertion: READY starts precharge, sixteen near values end it (R94). DEDUCED, log 43. -/
def State.insertStep (s : State) (i : Nat) : State :=
  let x := s.link i
  match x.phase with
  | .configure =>
    if x.written && s.nstate i = 2 then
      (s.setLk i lkPrecharge).setLink i { x with phase := .precharge, at0 := s.now, v0 := s.slotM i 0, n := 0, near := 0 }
    else s
  | .precharge =>
    let near := if s.m0Near i then x.near + 1 else 0
    let s := if (s.armM0 (s.armOf i)).2 = 0 then s.drew else s
    s.setLink i { x with near := near, phase := if 16 ≤ near then .join else .precharge }
  | _ => s

/-! ### Enumeration and management (R70, R71, R91, R92) -/

/-- A request joins a lane's queue. -/
def State.ask (s : State) (n : Nat) (r : MReq) : State := s.setLl n { s.ll n with queue := (s.ll n).queue ++ [r] }

/-- The configuration writes of R92 and R379 for NODE_PAIR0 and NODE_PAIR1, unit by unit. -/
def State.pairValues (s : State) : List (Nat × Nat) :=
  let own := (s.reg A.SYS_SERIAL).toNat
  let other := (s.reg A.PAIR_PARTNER).toNat
  if !s.on F.PAIR_CFG_EN then [(0x048, own), (0x04C, 0)]
  else
    let me := s.get F.PAIR_STAT_MEMBER
    (if me = 0 then [(0x048, own)] else [(0x04C, own)]) ++
      (if s.pair.everLinked then (if me = 0 then [(0x04C, other)] else [(0x048, other)]) else [])

/-- The configuration writes of stall `i` are queued (R92). DESIGN CHOICE, log 44. -/
def State.askConfig (s : State) (i : Nat) : State :=
  let n := s.laneOf i
  let hold := s.holdLimit i + 2 ^ 16 * (64 * bits (s.link i).cfg 31 24)
  let rq := fun (p : Nat × Nat) => (⟨s.pathOf i, true, p.1, p.2, .config i (p.1 = 0x050), 0⟩ : MReq)
  let s' := ([(0x040, s.legEn i), (0x044, hold)] ++ s.pairValues ++ [(0x050, 1)]).foldl (fun (t : State) p => t.ask n (rq p)) s
  s'.setLink i { s'.link i with written := false }

/-- The pair registers of the relay at path `p` are queued (R92). -/
def State.askRelay (s : State) (n p : Nat) : State :=
  s.pairValues.foldl (fun (u : State) v => u.ask n ⟨p, true, v.1, v.2, .relay, 0⟩) s

/-- The pair registers of every relay found on a lane are queued (R92). -/
def State.askRelays (s : State) (n : Nat) : State := (s.ll n).relays.foldl (fun (t : State) p => t.askRelay n p) s

/-- The relays found above stall `i` (R83, R92). -/
def State.relaysAbove (s : State) (i : Nat) : List Nat :=
  (s.ll (s.laneOf i)).relays.filter (fun p => p ≠ s.pathOf i && s.pathOf i % 16 ^ (pathNibbles p).length = p)

/-- An insertion or its check fails: ENABLE is written 0 and the code reported (R52, R94). -/
def State.insertFail (s : State) (i code name : Nat) : State :=
  let s := (s.disable i).setLink i { s.link i with phase := .none }
  s.reportCheck code name

/-- CONFIGURE is entered: a node that cannot be inserted ends the insertion, else it is configured (R94). -/
def State.insertConfigure (s : State) (i : Nat) : State :=
  if s.nodeMismatch i || !s.insertable i || (s.bypClosed i && !s.bypReopen i) then s.insertFail i ckNodeMismatch i
  else
    let t := (s.relaysAbove i).foldl (fun (t : State) p => t.askRelay (t.laneOf i) p) s
    (t.setLink i { t.link i with phase := .configure, at0 := t.now }).askConfig i

/-- What the D_path of a path on lane `n` holds beyond the lane's first hop, where the lane's enumeration found a node there (R91). -/
def State.belowRoot (s : State) (n p : Nat) : Option Nat := ((s.ll n).nodes.find? (fun q => q.path = p)).map (fun q => q.below)

/-- A job is started if none runs and one waits (R91). The hop delay of a lane root is LANE_DLY as it stands; below it the hops and relays are
those the lane's enumeration found. -/
def State.enumStart (s : State) (n : Nat) : State :=
  let x := s.ll n
  match x.job, x.wait with
  | none, w :: rest =>
    let job : EnumJob := match w with
      | none => { whole := true, todo := [⟨0, 0, 0⟩] }
      | some i =>
        let p := s.pathOf i
        { whole := false, path := p, todo := [⟨p, (pathNibbles p).length, (s.belowRoot n p).getD 0⟩] }
    s.setLl n { x with job := some job, wait := rest, relays := if w = none then [] else x.relays, nodes := if w = none then [] else x.nodes }
  | _, _ => s

/-- The next node of a lane's job is taken in hand: it waits for DELAY_OK and TIME_LOCK (R91 steps 1 and 2). -/
def State.enumNext (s : State) (n : Nat) : State :=
  match (s.ll n).job with
  | none => s
  | some j =>
    match j.cur, j.todo with
    | none, d :: rest =>
      s.setLl n { s.ll n with job := some { j with cur := some d, todo := rest, waited := some 0, desc := [], ports := [] } }
    | _, _ => s

/-- A descriptor and a D_path are copied to record `i` (R91). -/
def State.describe (s : State) (i : Nat) (desc : List Nat) (dly : Nat) : State :=
  ((List.range 16).foldl (fun (u : State) k => u.setRec i (0x040 + 4 * k) (desc.getD k 0)) s).setRecF i offPathDly 0 24 dly

/-- Record `i` has no found node: its descriptor reads 0, and where it was ENUMERATED it is ABSENT (R91). DEDUCED, log 41. -/
def State.undescribe (s : State) (i : Nat) : State :=
  if s.lkState i = lkAbsent || s.lkState i = lkEnumerated then (s.describe i [] 0).setLk i lkAbsent else s.describe i [] (s.pathDly i)

/-- LANE or PATH of record `i` has changed: it takes the descriptor of the node last found there, or none (R91). DEDUCED, log 41. -/
def State.replaceNode (s : State) (i : Nat) : State :=
  match (s.ll (s.laneOf i)).nodes.find? (fun q => q.path = s.pathOf i && !q.desc.isEmpty) with
  | some q =>
    let t := s.describe i q.desc (s.get (F.LANE_DLY (s.laneOf i)) + q.below)
    if t.lkState i = lkAbsent then t.setLk i lkEnumerated else t
  | none => s.undescribe i

/-- The job of a lane ends: records with no found node are emptied, insertions that waited go on (R91, R94). DEDUCED, log 41. -/
def State.enumEnd (s : State) (n : Nat) (j : EnumJob) : State :=
  let gone (p : Nat) : Bool := !j.whole && decide (p = j.path) && !j.found.contains p
  let s := s.setLl n { s.ll n with job := none, nodes := (s.ll n).nodes.map (fun q => if gone q.path then { q with desc := [] } else q) }
  let s := (stalls.filter (fun i => s.laneOf i = n && !j.found.contains (s.pathOf i) && (j.whole || s.pathOf i = j.path))).foldl
      State.undescribe s
  (stalls.filter (fun i => s.laneOf i = n && (s.link i).phase = .describe &&
      (j.whole || j.found.contains (s.pathOf i) || !(s.ll n).wait.contains (some i)))).foldl
    (fun t i => if j.found.contains (t.pathOf i) then t.insertConfigure i else t.insertFail i ckNodeMismatch i) s

/-- The job of a lane goes on to its next node, ends, or the next job starts (R91). -/
def State.enumGo (s : State) (n : Nat) : State :=
  let s := s.enumStart n
  match (s.ll n).job with
  | none => s
  | some j => if j.cur.isNone && j.todo.isEmpty then ((s.enumEnd n j).enumStart n).enumNext n else s.enumNext n

/-- An enumeration is asked for: none for the whole lane, some i for stall i's path (R91). -/
def State.enumAsk (s : State) (n : Nat) (w : Option Nat) : State :=
  let w' := match w with
    | none => none
    | some i => if (s.belowRoot n (s.pathOf i)).isSome then some i else none
  if (s.ll n).wait.contains w' then s else (s.setLl n { s.ll n with wait := (s.ll n).wait ++ [w'] }).enumGo n

/-- A lane has completed training: it is enumerated afresh (R91). -/
def State.enumLane (s : State) (n : Nat) : State :=
  let x := s.ll n
  let keep := x.queue.filter (fun r => match r.why with
    | .config _ _ => true
    | .relay => true
    | _ => false)
  s.setLl n { x with queue := keep, out := [], job := none, wait := [] } |>.enumAsk n none

/-- The reads of the node in hand begin: NODE_PATH first, then its descriptor (R91 step 3). -/
def State.enumRead (s : State) (n : Nat) : State :=
  match (s.ll n).job with
  | some j =>
    match j.cur with
    | some d =>
      let s := s.setLl n { s.ll n with job := some { j with waited := none } }
      s.ask n ⟨d.path, true, 0x054, d.path, .path, 0⟩
    | none => s
  | none => s

/-- An uplink of lane `n` with DELAY_OK and TIME_LOCK from the node in hand ends its wait (R91). -/
def State.enumUplink (s : State) (n path status : Nat) : State :=
  match (s.ll n).job with
  | some j =>
    match j.cur with
    | some d =>
      if j.waited.isSome && status.testBit 11 && status.testBit 10 && (path = d.path || path = 0xFFFFFFFF) then s.enumRead n else s
    | none => s
  | none => s

/-- A period boundary passes for a waiting job; after 64 the node is read all the same (R91 step 2). DEDUCED, log 40. -/
def State.enumPeriod (s : State) (n : Nat) : State :=
  match (s.ll n).job with
  | some j =>
    match j.waited with
    | some w => if 63 ≤ w then s.enumRead n else s.setLl n { s.ll n with job := some { j with waited := some (w + 1) } }
    | none => s
  | none => s

/-- DESC_CRC of a descriptor read as 16 dwords (R88). -/
def descOk (d : List Nat) : Bool :=
  d.length = 16 && crc32c ((d.take 15).flatMap (bytesLE 4)) = d.getD 15 0

/-- D_path at most 2,500 ticks, in 1/64 tick (R76, R91). -/
abbrev maxDpath : Nat := 160000

/-- D_path of a node: the hop of the lane as published and what lies below it (R91 step 5). -/
def State.dPath (s : State) (n : Nat) (d : EnumNode) : Nat := s.get (F.LANE_DLY n) + d.below

/-- A found node's descriptor is copied to every matching record (R91); a running yard check is void (R404). -/
def State.foundNode (s : State) (n : Nat) (d : EnumNode) (desc : List Nat) (whole : Bool) : State :=
  let m := stalls.filter (fun i => s.laneOf i = n && s.pathOf i = d.path)
  let s := m.foldl
    (fun t i =>
      let t := t.describe i desc (t.dPath n d)
      if t.lkState i = lkAbsent || ((t.link i).phase = .describe && !whole) then t.setLk i lkEnumerated else t) s
  if m.isEmpty then s else { s with yard := { s.yard with checkVoid := s.yard.checkVoid || s.yard.checkRun } }

/-- The node in hand has been read whole: it is found or not; a relay's ports with lock follow (R91). -/
def State.nodeDone (s : State) (n : Nat) (j : EnumJob) (d : EnumNode) (portUp : Nat) : State :=
  let ok := descOk j.desc && decide (s.dPath n d ≤ maxDpath)
  let relay := bits (j.desc.getD 1 0) 27 26 = 3
  let fwd := 64 * bits (j.desc.getD 2 0) 15 0
  let kids := if descOk j.desc && relay && j.whole && d.depth < 8 then
      ((List.range 16).filter (fun p => p ≠ 0 && portUp.testBit p)).map
        (fun p => (⟨d.path + p * 16 ^ d.depth, d.depth + 1, d.below + fwd + j.ports.getD (p - 1) 0 % 2 ^ 24⟩ : EnumNode))
    else []
  let s := if ok then s.foundNode n d j.desc j.whole else s
  let x := s.ll n
  let s := s.setLl n { x with
    relays := if ok && relay && !x.relays.contains d.path then x.relays ++ [d.path] else x.relays
    nodes := if ok then x.nodes.filter (fun q => q.path ≠ d.path) ++ [⟨d.path, d.below, j.desc⟩] else x.nodes
    job := some { j with cur := none, todo := j.todo ++ kids, found := if ok then j.found ++ [d.path] else j.found } }
  s.enumGo n

/-- The node in hand could not be read: it is not found (R71, R91). -/
def State.nodeLost (s : State) (n : Nat) : State :=
  match (s.ll n).job with
  | some j => (s.setLl n { s.ll n with job := some { j with cur := none } }).enumGo n
  | none => s

/-- The last configuration write of stall `i` has ended (R94). -/
def State.configEnd (s : State) (i : Nat) : State :=
  let s := s.setLink i { s.link i with written := true, at0 := if (s.link i).phase = .configure then s.now else (s.link i).at0 }
  s

/-- A request has been answered with RESULT `res` and data `d`; what follows it (R91, R92). -/
def State.answered (s : State) (n : Nat) (r : MReq) (res d : Nat) : State :=
  match r.why with
  | .config i last => if last then s.configEnd i else s
  | .relay => s
  | .path =>
    if res ≠ 0 then s.nodeLost n
    else (List.range 16).foldl (fun t k => t.ask n ⟨r.path, false, 4 * k, 0, .desc k, 0⟩) s
  | .desc k =>
    if res ≠ 0 then
      let s := s.setLl n { s.ll n with queue := (s.ll n).queue.filter (fun q => !(q.path = r.path && q.wr = false)) }
      s.nodeLost n
    else
      match (s.ll n).job with
      | some j =>
        let j := { j with desc := j.desc ++ [d] }
        let s := s.setLl n { s.ll n with job := some j }
        if k = 15 then
          match j.cur with
          | some c =>
            if descOk j.desc && bits (j.desc.getD 1 0) 27 26 = 3 then
              let s := (List.range 15).foldl (fun t p => t.ask n ⟨r.path, false, 0x080 + 4 * p, 0, .portDly (p + 1), 0⟩) s
              s.ask n ⟨r.path, false, 0x0BC, 0, .portUp, 0⟩
            else s.nodeDone n j c 0
          | none => s
        else s
      | none => s
  | .portDly _ =>
    match (s.ll n).job with
    | some j => s.setLl n { s.ll n with job := some { j with ports := j.ports ++ [if res = 0 then d else 0] } }
    | none => s
  | .portUp =>
    match (s.ll n).job with
    | some j =>
      match j.cur with
      | some c => s.nodeDone n j c (if res = 0 then d else 0)
      | none => s
    | none => s

/-- Whether a schedule of the lane is ready to leave. -/
def State.anyReady (s : State) (n : Nat) : Bool := stalls.any (fun i => s.laneOf i = n && (s.link i).ready.isSome)

/-- Whether frames may leave lane `n`: UP and no halt request (R109, R110). -/
def State.laneSends (s : State) (n : Nat) : Bool := s.laneState n = lnUp && !s.laneHalted n

/-- A frame or block whose last block ends at an instant leaves the next TIME frame of lane `n` its place: that block begins before the
period ends (R61, R63, R71). -/
def State.beforeTime (s : State) (n fin10 : Nat) : Bool :=
  match s.nextBoundary with
  | none => true
  | some t => s.laneState n ≠ lnUp || decide (s.ctbF10 (fin10 - s.blockB n) < t * unit40)

/-- Where an MREQ of lane `n` that started now would end. -/
def State.mreqEnd10 (s : State) (n : Nat) : Nat := s.frameEnd10 (s.rateOf n) (s.txStart10 n 0) 3

/-- Whether an MREQ may start on lane `n` now: it ends before any schedule of the period can leave, or after the last one has left, and leaves
the next TIME frame its place (R71). -/
def State.mgmtGap (s : State) (n : Nat) : Bool :=
  let fin := s.mreqEnd10 n
  !s.anyReady n && s.beforeTime n fin && (!s.running || (if s.edge.edge then !stalls.any (fun i => s.laneOf i = n && s.waits i)
    else decide (s.ctbF10 fin ≤ (s.yard.tk + s.get F.EDGE_RELOAD) * unit40)))

/-- The oldest waiting request of a lane whose path has none outstanding (R71). -/
def LinkLane.mgmtNext (x : LinkLane) : Option MReq := x.queue.find? (fun r => !x.out.any (fun o => o.req.path = r.path))

/-- MGMT_REQUEST (R71): the oldest waiting request whose path has none outstanding leaves, in a gap of the lane's schedules; the wait for
its answer is counted from its last block. DESIGN CHOICE, log 39. DEDUCED, log 201. -/
def execMgmtRequest (n : Fin 48) (s : State) : Host.Outcome State Fault Refusal :=
  let k := n.val
  let x := s.ll k
  match x.mgmtNext with
  | none => .next s
  | some r =>
    if s.laneSends k && s.mgmtGap k then
      let y := { x with queue := x.queue.erase r, tag := (x.tag + 1) % 256
                        out := x.out ++ [⟨{ r with tries := r.tries + 1 }, x.tag, (s.mreqEnd10 k + 9) / 10⟩] }
      .next ((s.setLl k y).laneSend k (mreqFrame r.path x.tag r.wr r.addr r.data))
    else .next s

/-- An ECHO of lane `n` would overtake a schedule that is ready, a request that may leave, or the TIME frame of the next period (R61, R108). -/
def State.echoYields (s : State) (n : Nat) : Bool :=
  s.anyReady n || ((s.ll n).mgmtNext.isSome && s.laneSends n && s.mgmtGap n) || !s.beforeTime n (s.txStart10 n 0 + s.blockB n)

/-- ECHO_TIMER (R108): the block leaves in the first slot that no frame in flight and no marker takes, and yields to what has a higher
priority (R61). -/
def execEchoTimer (n : Fin 50) (s : State) : Host.Outcome State Fault Refusal :=
  let k := n.val
  if (s.laneState k = lnDelay || s.laneState k = lnUp) && !s.laneHalted k then
    let s := s.until (s.echoDue k)
    if s.echoYields k then .next s
    else
      let q := (s.lane k).echoSeq
      let fin := s.txStart10 k 0 + s.blockB k
      let s := s.setLane k { s.lane k with
        echoAt := s.now, echoSeq := (q + 1) % 256, echoOut := (s.lane k).echoOut ++ [(q, fin / 10)], txFree10 := fin }
      .next (s.emit (.block k (echoBlock (s.dlyLast k) q)))
  else .next s

/-- A whole MRSP frame on lane `k`: it ends its outstanding request (R62, R70). -/
def State.mrspTake (s : State) (k : Nat) (f : List (BitVec 64)) : State :=
  if !frameOk f then s.cnt (F.LANE_CRC_ERR k)
  else
    let path := bits (blk f 0) 39 8
    let tag := bits (blk f 0) 47 40
    match (s.ll k).out.find? (fun o => o.req.path = path && o.tag = tag && o.req.addr = bits (blk f 1) 47 32) with
    | none => s
    | some o =>
      let s := s.setLl k { s.ll k with out := (s.ll k).out.erase o }
      s.answered k o.req (bits (blk f 0) 51 48) (bits (blk f 1) 31 0)

/-- MGMT_TIMEOUT (R71): 100 µs without an answer; two retries, then the request ends REFUSED. DESIGN CHOICE, log 172. -/
def execMgmtTimeout (n : Fin 48) (path : Word) (s : State) : Host.Outcome State Fault Refusal :=
  let k := n.val
  match (s.ll k).out.find? (fun o => o.req.path = path.toNat) with
  | none => .next s
  | some o =>
    let s := s.until (o.sent + 100 * us)
    let x := s.ll k
    let s := s.setLl k { x with out := x.out.erase o }
    if o.req.tries < 3 then .next (s.setLl k { s.ll k with queue := o.req :: (s.ll k).queue })
    else
      let s := (stalls.filter (fun i => s.laneOf i = k && s.pathOf i = path.toNat)).foldl (fun t i => t.cntRec i offMgmtFail) s
      .next (s.answered k o.req 3 0)

/-! ### Uplinks received (R69, R96) -/

/-- An uplink of record `i` is accepted (R69, R89, R94, R385). -/
def State.uplinkAccept (s : State) (i : Nat) (f : List (BitVec 64)) : State :=
  let s := (s.storeUplink i f).cntRec i offUlOk
  let st := s.rword i offUpStatus
  let bad := st.testBit 17 || st.testBit 16 || st.testBit 15
  let s := if bad then s.cntRec i offNodeRej else s
  let s := s.setLink i { s.link i with acc := true, bad := bad }
  let s := if st.testBit 18 then (s.cnt F.PAIR_CONFLICTS).raise Base.PAIR 7 else s
  s.insertStep i

/-- The record whose uplinks carry a path on lane `k`: enabled, or being removed (R69, R96). -/
def State.uplinkRecord (s : State) (k path : Nat) : Option Nat :=
  stalls.find? (fun i => s.laneOf i = k && s.pathOf i = path && (s.enabled i || s.lkState i = lkRemoving))

/-- A whole UPLINK frame on lane `k` (R69, R96). DEDUCED, log 37. DEDUCED, log 38. -/
def State.uplinkTake (s : State) (k : Nat) (f : List (BitVec 64)) : State :=
  let path := bits (blk f 0) 39 8
  let owner := s.uplinkRecord k path
  if !frameOk f then
    let s := s.cnt (F.LANE_CRC_ERR k)
    match owner with
    | some i => s.cntRec i offUlCrc
    | none => s
  else
    let s := s.enumUplink k path (bits (blk f 1) 63 32)
    match owner with
    | none => s.cnt (F.LANE_FRAMING k)
    | some i =>
      if bits (blk f 0) 55 40 ≠ s.periodK % 2 ^ 16 then s
      else if (s.ll k).cut || s.yard.tk + s.ulCutoff k ≤ s.ctb then s.cntRec i offUlLate
      else if (s.link i).acc then s.cntRec i offUlDup
      else s.uplinkAccept i f

/-- The records of lane `n` whose uplinks are taken, ascending: the enabled ones and those in removal (R69, R96). -/
def State.uplinkers (s : State) (n : Nat) : List Nat := stalls.filter (fun i => s.laneOf i = n && (s.enabled i || s.lkState i = lkRemoving))

/-- The cut-off of lane `n` has passed: records whose uplinks are taken and that have had none miss the period, and AGE counts up (R55, R76,
R89, R96, R110). DEDUCED, log 50. DEDUCED, log 168. -/
def State.lateUplinks (s : State) (n : Nat) : State :=
  if (s.ll n).cut then s
  else
    let s := s.setLl n { s.ll n with cut := true }
    (s.uplinkers n).foldl
      (fun t i =>
        if (t.link i).acc then (if t.uplinkPoisoned i then t.setRecF i offUpValid 16 16 (min (t.ageOf i + 1) 0xFFFF) else t)
        else (t.cntRec i offUlMiss).setRecF i offUpValid 16 16 (min (t.ageOf i + 1) 0xFFFF)) s

/-- UPLINK_CUTOFF (R76). -/
def execUplinkCutoff (n : Fin 48) (s : State) : Host.Outcome State Fault Refusal :=
  .next ((s.untilCtb (s.yard.tk + s.ulCutoff n.val)).lateUplinks n.val)

/-! ### Link faults (R90) -/

/-- FAULT_N and FAULT_W as sampled at the boundary, 0 acting as 1 (R89, R90). -/
def LinkS.faultN (x : LinkS) : Nat := let v := bits x.cfg 7 0; if v = 0 then 1 else v
/-- FAULT_W in periods, 0 acting as 1. -/
def LinkS.faultW (x : LinkS) : Nat := let v := bits x.cfg 23 8; if v = 0 then 1 else v

/-- A stall becomes FAULTED with LASTING (R90, R94). -/
def State.stallFault (s : State) (i bit : Nat) : State :=
  let s := ((s.setRecF i offLkState 8 1 1).setLk i lkFaulted)
  (s.setLink i { s.link i with phase := .none, faults := [] }).stallEvent i bit

/-- The period's link fault of stall `i` is judged, in every yard state (R90, R110). -/
def State.judgeLink (s : State) (i : Nat) : State :=
  let x := s.link i
  let s := s.setLink i { x with run := if x.acc then x.run + 1 else 0 }
  if s.lasting i || (x.acc && !x.bad) then s
  else
    let k := s.periodK
    let ts := (k :: x.faults).take 255
    let s := s.setLink i { s.link i with faults := ts }
    if x.faultN ≤ ts.length && k < ts.getD (x.faultN - 1) 0 + x.faultW then s.stallFault i 8 else s

/-- A write of 1 to LASTING of record `i` (R90). -/
def State.stallLastingWrite (s : State) (i : Nat) : State :=
  if !s.lasting i then s
  else if (s.link i).run < 16 || s.nstate i = 7 || s.nstate i = 6 then s.cntRec i offClrRefused
  else
    let s := (s.setRecF i offLkState 8 1 0).setLk i lkEnumerated
    let s := s.setLink i { s.link i with faults := [], phase := .none }
    if s.yardState = yardRun && s.enabled i then
      (s.setLink i { s.link i with phase := .describe }).enumAsk (s.laneOf i) (some i)
    else s.enumAsk (s.laneOf i) (some i)

/-- STALL_LASTING_CLEAR (R90). -/
def execStallLastingClear (i : Fin 192) (s : State) : Host.Outcome State Fault Refusal := .next (s.stallLastingWrite i.val)

/-! ### Insertion and removal (R45, R52, R94, R95) -/

/-- The insertion check: code and what VALUE[7:0] names (R45, R49, R52). DEDUCED, log 42. -/
def State.insertCheck (s : State) (i : Nat) : Nat × Nat :=
  if s.halfUs < periodFloor s.enabledList.length then (ckPeriodFloor, 0xFF)
  else if s.checkStall i ≠ 0 then (s.checkStall i, i)
  else if s.checkArm (s.armOf i) ≠ 0 then (s.checkArm (s.armOf i), 0xF0 + s.armOf i)
  else (0, 0xFF)

/-- An insertion is requested by a STALL_CFG word with ENABLE = 1 in RUN (R52, R94). -/
def State.insertRequest (s : State) (i : Nat) (w : Nat) : State :=
  let s := s.setRec i offCfg w
  let r := s.insertCheck i
  if r.1 ≠ 0 then s.insertFail i r.1 r.2
  else
    let s := s.reportCheck 0 0xFF
    let s := s.setLink i { s.link i with removal := none, ready := none }
    if s.lkState i = lkEnumerated then s.insertConfigure i
    else (s.setLink i { s.link i with phase := .describe }).enumAsk (s.laneOf i) (some i)

/-- Stall `i`'s removal is requested, for the next sample (R95, R158). -/
def State.noteLeft (s : State) (i : Nat) : State := { s with edge := { s.edge with left := setBit s.edge.left i } }

/-- A removal is requested by ENABLE 1→0 (R95). Before the period's reload edge its removal schedule is computed like any other; after it, one
takes the place of a schedule that has not left. -/
def State.removeRequest (s : State) (i : Nat) : State :=
  let s := (s.disable i).noteLeft i
  let rs : Sched := { period := s.periodK + 1, standby := s.standbyOf i, bypass := true, remove := true }
  let late := s.edge.edge && decide (s.rword i offDnPeriod ≠ (s.periodK + 1) % 2 ^ 32)
  let s := if late then s.setEs i { s.es i with next := some (offRecord (s.es i).sent (s.yard.tk + s.perTicks)) } else s
  let away := late && s.yieldedNow i
  (s.setLk i lkRemoving).setLink i
    { s.link i with phase := .none, ready := if late && !away then some rs else none, removal := some (if away then 15 else 16) }

/-- A write of STALL_CFG, masked to its writable bits (R51, R52, R56). -/
def State.stallCfgWrite (s : State) (i : Nat) (w : Nat) : State :=
  let old := s.rword i offCfg
  if !s.running then ((s.setRec i offCfg w).descAccepted).laneCommon
  else if s.enabled i then (if onlyDisables offCfg old w then s.removeRequest i else s.descDrop)
  else if w.testBit 31 then (if s.yardState = yardRun then (s.insertRequest i w).laneCommon else s.descDrop)
  else s.setRec i offCfg w

/-- STALL_INSERT_REQUEST (R52). -/
def execStallInsertRequest (i : Fin 192) (v : Word) (s : State) : Host.Outcome State Fault Refusal :=
  .next (s.stallCfgWrite i.val ((v.toNat &&& cfgMask offCfg) ||| 2 ^ 31))

/-- STALL_REMOVE_REQUEST (R95). -/
def execStallRemoveRequest (i : Fin 192) (s : State) : Host.Outcome State Fault Refusal :=
  .next (if s.enabled i.val then s.stallCfgWrite i.val (s.rword i.val offCfg - 2 ^ 31) else s)

/-- INSERT_READY_TIMEOUT (R94): 1 s after the last configuration write without READY. -/
def execInsertReadyTimeout (i : Fin 192) (s : State) : Host.Outcome State Fault Refusal :=
  let k := i.val
  .next (if (s.link k).phase = .configure && (s.link k).written then
    (s.until ((s.link k).at0 + sec)).insertFail k ckNodeNotReady k else s)

/-- PRECHARGE_TIMEOUT (R94): 2 × PRECHG_MS + 1 s in PRECHARGE. -/
def execPrechargeTimeout (i : Fin 192) (s : State) : Host.Outcome State Fault Refusal :=
  let k := i.val
  .next (if (s.link k).phase = .precharge then
    (s.until ((s.link k).at0 + 2 * s.prechgMs k * ms + sec)).stallFault k 9 else s)

/-- REMOVAL_COMPLETE (R95): the 16 removal schedules have been sent. -/
def execRemovalComplete (i : Fin 192) (s : State) : Host.Outcome State Fault Refusal :=
  let k := i.val
  .next (if (s.link k).removal = some 0 then
    ((s.setLk k lkAbsent).setLink k { s.link k with removal := none, ready := none }).stallEvent k 11 else s)

/-! ### Sending (R64, R76, R77) -/

/-- The schedule's due time DL_DUE, in 1/640 tick after t_k; none where P is too short (R76). -/
def State.dlDue640 (s : State) (i : Nat) : Nat := s.perTicks * 640 - s.pathDly i * 10 - 300 * 640

/-- Where a SCHED or REF frame may start on lane `n`: no earlier than 64 blocks after the lane's last HALT block (R61, R109). -/
def State.schedStart10 (s : State) (n : Nat) : Nat :=
  s.txStart10 n (if s.haltLast10 n = 0 then 0 else s.haltLast10 n + 64 * s.blockB n)

/-- The downlink copy of a sent schedule (R56, R64). DEDUCED, log 48. -/
def State.copyDown (s : State) (i : Nat) (x : Sched) : State :=
  let s := (List.range 24).foldl (fun t k => t.setRec i (offDnEdge + 4 * k) (x.entries.getD k 0)) s
  (s.setRec i offDnPeriod (x.period % 2 ^ 32)).setRec i offDnFlags (b2n x.bypass + 2 * b2n x.standby)

/-- The schedule computed for stall `i` has been sent: it becomes the synthesiser's record of what it sent (R117, R119). DEDUCED, log
53. -/
def State.edgeSent (s : State) (i : Nat) (byp : Bool) : State :=
  let x := KMap.get (fun _ => {}) s.edge.stall i
  let h := x.next.getD x.sent
  { s with edge := { s.edge with stall := KMap.set (fun _ => {}) s.edge.stall i { x with sent := { h with byp := byp }, next := none } } }

/-- The schedule computed for stall `i` was not sent: the record stands (R117). -/
def State.edgeSkipped (s : State) (i : Nat) : State :=
  let x := KMap.get (fun _ => {}) s.edge.stall i
  { s with edge := { s.edge with stall := KMap.set (fun _ => {}) s.edge.stall i { x with next := none } } }

/-- A schedule is not sent: LK_DL_SKIP counts it (R77). -/
def State.skipSched (s : State) (i : Nat) : State := (s.cntRec i offDlSkip).edgeSkipped i

/-- Whether a frame whose last bit leaves at an instant leaves by DL_DUE of stall `i` (R76, R77). -/
def State.byDue (s : State) (i fin10 : Nat) : Bool := decide (640 * s.ctbF10 fin10 ≤ (640 * s.yard.tk + s.dlDue640 i) * unit40)

/-- The ready schedule of stall `i` is sent on lane `n`, or skipped where the whole frame, a marker slot inside counted, cannot leave by DL_DUE;
RESUME as SAFE stands (R77, R95, R99, R110, R313). -/
def State.sendSched (s : State) (n i : Nat) (x : Sched) : State :=
  let x := { x with resume := s.safeState = safeNormal }
  let f := schedFrame (s.pathOf i) (s.reg A.SYS_SERIAL).toNat x
  let start := s.schedStart10 n
  let s := s.setLink i { s.link i with ready := none }
  if s.laneSends n && s.byDue i (s.frameEnd10 (s.rateOf n) start f.length) then
    let s := (((s.copyDown i x).cntRec i offDlSent).sendAt n start f).edgeSent i x.bypass
    match (s.link i).removal with
    | some m => s.setLink i { s.link i with removal := some (m - 1) }
    | none => s
  else s.skipSched i

/-- The frame lane `n` sends next: that of its lowest-numbered ready stall (R77). -/
def State.nextReady (s : State) (n : Nat) : Option Nat := stalls.find? (fun i => s.laneOf i = n && (s.link i).ready.isSome)

/-- SCHED_TRANSMIT (R77): the frame of record `i`, a REF frame or a schedule, where it is the lane's next. DESIGN CHOICE, log 45. -/
def execSchedTransmit (n : Fin 48) (i : Fin 192) (ref : Bool) (s : State) : Host.Outcome State Fault Refusal :=
  match (s.link i.val).ready with
  | none => .next s
  | some x => .next (if s.nextReady n.val = some i.val && x.isRef = ref then s.sendSched n.val i.val x else s)

/-! ### A lane comes up (R102, R108) -/

/-- ECHO_RSP_RECEIVED (R108): `rt` is the corrected round trip in 1/64 tick. A stall lane that becomes UP out of DELAY is
enumerated (R91). -/
def execEchoRspReceived (n : Fin 50) (payload : BitVec 64) (rt : Nat) (s : State) : Host.Outcome State Fault Refusal :=
  let k := n.val
  let was := s.laneState k
  let s := (s.setLane k { s.lane k with rx := [] }).echoRsp k payload rt
  .next (if was = lnDelay && s.laneState k = lnUp && k < 48 then s.enumLane k else s)

/-! ### Writes of the stall records (R51, R52, R56, R89) -/

/-- The bytes of a word replaced where their enables are set. -/
def mergeBytes (old : Nat) (w : Word) (be : BitVec 4) : Nat :=
  (List.range 4).foldl
    (fun n b => if be.toNat.testBit b then (Fld.write ⟨0, 8 * b, 8⟩ (BitVec.ofNat 32 n) (bits w.toNat (8 * b + 7) (8 * b))).toNat else n) old

/-- The CNT words of a record's link words (R89). -/
def isLinkCnt (o : Nat) : Bool := (0x400 ≤ o && o < 0x424) || o = 0x430

/-- A host write to the dword at offset `o` of record `i`, with what the hardware does to that word in the same cycle: a counter ends at the
written value plus the increment, a set of LASTING wins over its clear, and a write of STALL_CFG is judged with ENABLE as the KY-9 clears it
(R51, R52, R56, R89). -/
def State.recordWrite (s : State) (i o : Nat) (w : Word) (be : BitVec 4) (hw : SameCycle) : State :=
  let fails := decide (o = offCfg) && s.enabled i && (match hw.rwUpd with | some x => !x.toNat.testBit 31 | none => false)
  let s := if fails then (s.disable i).setLink i { s.link i with phase := .none } else s
  let old := s.rword i o
  let new := mergeBytes old w be
  match recWordKind o with
  | 1 =>
    let v := (old &&& (0xFFFFFFFF - cfgMask o)) ||| (new &&& cfgMask o)
    if o = offCfg then s.stallCfgWrite i v
    else if s.running && s.enabled i then s.descDrop
    else
      let t := s.setRec i o v
      let t := if (o = offLink || o = offPath) && v ≠ old then t.replaceNode i else t
      let t := if o = offLink then t.laneCommon else t
      if s.running then t else t.descAccepted
  | 2 => if s.running then s.descDrop else s.setRec i o new
  | 3 => s.setRec i o (min (new + if isLinkCnt o then hw.cntInc.toNat else 0) (2 ^ 32 - 1))
  | 4 =>
    if hw.w1cSet.toNat.testBit 8 then s.stallFault i 8
    else if be.toNat.testBit 1 && w.toNat.testBit 8 then s.stallLastingWrite i else s
  | _ => s.descDrop

/-- The dwords of a write to the stall table, in ascending address order (R15, R56). DESIGN CHOICE, log 169. -/
def State.tableWrite (s : State) (a : Nat) (hw : SameCycle) : List (Word × BitVec 4) → State
  | [] => s
  | (w, be) :: t =>
    let o := a - 0x800000
    (if be = 0#4 then s else s.recordWrite (o / 0x1000) (o % 0x1000 / 4 * 4) w be hw).tableWrite (a + 4) hw.second t

/-- STALL_RECORD_WRITE (R56): the write, and what the hardware does to the words in its cycle. -/
def execStallRecordWrite (w : WriteReq × SameCycle) (s : State) : Host.Outcome State Fault Refusal :=
  match w.1.target with
  | .bar0 a =>
    if 0x800000 ≤ a.toNat ∧ a.toNat + 4 * w.1.words.length ≤ 0x8C0000 then .next (s.tableWrite (a.toNat / 4 * 4) w.2 w.1.words)
    else .next s
  | .svPending _ => .next s

end Sys2Proof.Machine
end

