-- ==== Sys2Proof/Machine/Bal.lean ====
section
/-! DEFINITION. Arm balancing: the membership latch, value ages, bypass orders, the sort, the trims and the arm states (R93, R146–R160). -/

namespace Sys2Proof.Machine

open Sys2Proof

/-- A stall in balancing. -/
def State.bs (s : State) (i : Nat) : BalS := KMap.get (fun _ => {}) s.bal.stall i

/-- A stall in balancing replaced. -/
def State.setBs (s : State) (i : Nat) (x : BalS) : State := { s with bal := { s.bal with stall := KMap.set (fun _ => {}) s.bal.stall i x } }

/-- An arm in balancing. -/
def State.ba (s : State) (a : Nat) : BalA := KMap.get (fun _ => {}) s.bal.arm a

/-- An arm in balancing replaced. -/
def State.setBa (s : State) (a : Nat) (x : BalA) : State := { s with bal := { s.bal with arm := KMap.set (fun _ => {}) s.bal.arm a x } }

/-- ARM of a sorted stall as latched (R153). -/
def State.armIn (s : State) (i : Nat) : Nat := bits (s.bs i).cfg 27 25
/-- KIND of a sorted stall as latched (R153). -/
def State.kindIn (s : State) (i : Nat) : Nat := bits (s.bs i).cfg 29 28
/-- LEVELS of a sorted stall as latched (R153). -/
def State.levelsIn (s : State) (i : Nat) : Nat := bits (s.bs i).cfg 14 8
/-- LEG_EN of a sorted stall as latched (R153). -/
def State.legIn (s : State) (i : Nat) : Nat := bits (s.bs i).cfg 5 0

/-- A BAL setting as sampled at the cut-off (R160). -/
def State.bget (s : State) (f : Fld) : Nat := f.read (KMap.get RegMap.resetWord s.bal.set f.reg)

/-- A signed BAL setting as sampled. -/
def State.bgetS (s : State) (f : Fld) : Int := sx f.len (s.bget f)

/-- Whether an address is one of the registers R160 samples. -/
def isBalSetting (a : Nat) : Bool :=
  a = F.BAL_CTRL_ROT_STEP.reg || (A.BAL_ARM_CFG 0 ≤ a && a < A.BAL_ARM_CFG 6 && (a - A.BAL_ARM_CFG 0) % 0x40 < 0x1C) ||
    (A.BAL_STALL 0 ≤ a && a < A.BAL_STALL 192)

/-- The BAL settings are sampled (R160). -/
def State.balSample (s : State) : State := { s with bal := { s.bal with set := s.regs.filter (fun p => isBalSetting p.1) } }

/-- Warm-up is in progress (R194). -/
def State.warmup (s : State) : Bool := s.yardState = yardRun && s.on F.YARD_WARMUP_WU_LEFT

/-- The sorted stalls of an arm, ascending. -/
def State.members (s : State) (a : Nat) : List Nat := s.sortList.filter (fun i => s.armIn i = a)

/-- STALE_LIM of stall `i`'s arm. -/
def State.staleLim (s : State) (i : Nat) : Nat := s.bget (F.BAL_ARM_CFG_STALE_LIM (s.armIn i))

/-! ### The membership latch (R93, R94, R158) -/

/-- Whether stall `i` is in the sort from this latch on: enabled as sampled, not lasting, and ACTIVE or joining; a stall removed after
the sample stays (R93, R95). DEDUCED, log 51. -/
def State.latched (s : State) (i : Nat) : Bool :=
  s.edge.enab.testBit i && !s.lasting i &&
    (s.lkState i = lkActive || (s.link i).phase = .join || (s.lkState i = lkRemoving && s.inSort i))

/-- Stall `i` at the membership latch (R93, R94, R149). DEDUCED, log 52. -/
def State.latchOne (s : State) (i : Nat) : State :=
  if s.latched i then
    let t := if s.inSort i then s else (s.setInSort i true).setBs i { cfg := s.rword i offCfg }
    if (t.link i).phase = .join then
      ((t.setLk i lkActive).setLink i { t.link i with phase := .none }).stallEvent i 10
    else t
  else if s.inSort i then s.setInSort i false else s

/-- Whether stall `i` joins under R94 at this latch. -/
def State.joins (s : State) (i : Nat) : Bool := s.latched i && (s.link i).phase = .join

/-! ### Bypass orders (R147–R149) -/

/-- The value age at the reload edge (R149, R158); a poisoned record has no valid uplink (R333). -/
def State.newAge (s : State) (i : Nat) (joins : Bool) : Nat :=
  if joins || ((s.link i).acc && s.slotValid i 0 && !s.uplinkPoisoned i) then 0 else min ((s.bs i).vage + 1) 15

/-- Cause 2: the node asks for its bypass or cannot take part (R147). -/
def State.causeNode (s : State) (i : Nat) : Bool :=
  s.nstate i = 7 || s.nstate i = 6 || s.upBit i 14 || s.upBit i 12 || s.recF i offUpStatus 0 8 = 0

/-- Cause 3 starts to hold (R147). -/
def State.causeStuck (s : State) (i : Nat) : Bool := s.upBit i 13 && !s.bypReopen i

/-- Cause 5: M0 outside the arm's band (R147). -/
def State.causeBand (s : State) (i : Nat) : Bool :=
  let a := s.armIn i
  s.slotM i 0 < s.bgetS (F.BAL_ARM_BAND_V_LO a) || s.bgetS (F.BAL_ARM_BAND_V_HI a) < s.slotM i 0

/-- A stall's age, causes and bypass order up to the release under R148 with the band check (R147–R149). -/
def State.balStall (s : State) (i : Nat) (joins first : Bool) : State :=
  let x := s.bs i
  let vage := s.newAge i joins
  let stuck := x.stuck || s.causeStuck i
  let miss := decide (s.staleLim i < vage)
  let force := s.bget (F.BAL_STALL i) ≠ 0
  let node := s.causeNode i
  let band := s.causeBand i
  let cause := if force then 1 else if node then 2 else if stuck then 3 else if miss then 4 else if band then 5 else 0
  let h := (KMap.get (fun _ => {}) s.edge.stall i).sent
  let ins := !first && !joins && ((h.l0 = 1 && (h.l1 = 2 || !(s.legIn i).testBit 1)) || (h.l1 = 1 && h.l0 = 2))
  let s := if miss && !x.miss then (s.cnt F.BAL_MISSING_COUNT).raise Base.BAL 4 else s
  let s := if cause ≠ 0 && !x.byp then (s.cnt F.BAL_BYP_ORDERS).raise Base.BAL 3 else s
  let hard := x.hard || node || miss || band
  let y : BalS := { x with vage := vage, stuck := stuck, miss := miss, cause := cause, ins := ins, m0 := s.slotM i 0 }
  s.setBs i
    (if cause ≠ 0 then { y with byp := true, hard := hard, rejoin := 0 }
     else if !x.byp then y
     else if !x.hard then { y with byp := false }
     else { y with rejoin := x.rejoin + 1 })

/-- Stalls of a list with bypass order 0. -/
def State.selectable (s : State) (l : List Nat) : List Nat := l.filter (fun i => !(s.bs i).byp)

/-- Levels a selectable stall contributes (R155). -/
def State.levelsNow (s : State) (i : Nat) : Nat := if s.kindIn i = 2 then min (s.recF i offUpStatus 0 8) (s.levelsIn i) else 1

/-- The mean of R152 over the selectable stalls `l` of an arm. -/
def State.armMean (s : State) (l : List Nat) : Int :=
  let cells := l.filter (fun i => s.kindIn i ≠ 2 && decide ((s.bs i).vage ≤ s.staleLim i))
  if cells ≠ [] then divHalfEven (sumI (cells.map (fun i => (s.bs i).m0))) cells.length
  else
    let sheds := l.filter (fun i => s.kindIn i = 2)
    let w := s.levelsNow
    let tot := sheds.foldl (fun n i => n + w i) 0
    if tot = 0 then 0 else divHalfEven (sumI (sheds.map (fun i => (w i : Int) * (s.bs i).m0))) tot

/-- v̄ of arm `a` over the selectable stalls `l` (R152). -/
def State.vbarOf (s : State) (a : Nat) (l : List Nat) : Int := max (s.armMean l) (s.bgetS (F.BAL_ARM_FLOOR a))

/-- REJOIN_N of an arm, 0 acting as 1. -/
def State.rejoinN (s : State) (a : Nat) : Nat := max (s.bget (F.BAL_ARM_CFG_REJOIN_N a)) 1

/-- Stalls of an arm whose rejoin count is full and whose M0 lies near enough to v̄ rejoin (R148). -/
def State.rejoinArm (s : State) (a : Nat) : State :=
  let l := s.members a
  let v := s.vbarOf a (s.selectable l)
  l.foldl
    (fun t i =>
      let x := t.bs i
      if x.byp && x.cause = 0 && t.rejoinN a ≤ x.rejoin && decide (((x.m0 - v).natAbs : Int) ≤ t.bgetS (F.BAL_ARM_IDB_REJOIN_BAND a))
      then t.setBs i { x with byp := false, hard := false, rejoin := 0 } else t) s

/-! ### Direction (R150) -/

/-- The arm current I: the lower median of M2 over the fresh selectable cells, or A1 of the arm; none where no cell gives it. -/
def State.armI (s : State) (a : Nat) (l : List Nat) : Option Int :=
  if s.bget (F.BAL_ARM_CFG_ISRC a) = 1 then some (s.getS (F.EDGE_ACMD1 a))
  else
    let m2 := sortUp ((l.filter (fun i => s.kindIn i ≠ 2 && decide ((s.bs i).vage ≤ s.staleLim i))).map
      (fun i => (s.slotM i 2 + 32768).toNat))
    if m2 = [] then none else some ((m2.getD ((m2.length - 1) / 2) 0 : Int) - 32768)

/-- Direction, mean and levels of an arm, fixed at the reload edge (R150, R152, R155). DEDUCED, log 207. DESIGN CHOICE, log 208. -/
def State.balArm (s : State) (a : Nat) (first : Bool) : State :=
  let s := s.rejoinArm a
  let l := s.selectable (s.members a)
  let x := s.ba a
  let i := (s.armI a l).getD x.iArm
  let db := s.bgetS (F.BAL_ARM_IDB_I_DB a)
  let neg := if first then false else if (s.armI a l).isNone then x.neg else if db < i then false else if i < -db then true else x.neg
  let mode := s.bget (F.BAL_ARM_CFG_SORT_MODE a)
  let refNeg := decide (s.getS (F.EDGE_ACMD0 a) < 0)
  let dirNeg := if mode = 0 then neg != refNeg else mode = 2
  let mean := s.armMean l
  let floor := s.bgetS (F.BAL_ARM_FLOOR a)
  let s := if mean < floor then (s.put F.BAL_FAULT_STAT_VBAR_CLAMP 1).raise Base.BAL 5 else s
  s.setBa a { x with neg := neg, dirNeg := dirNeg, iArm := i, sel := l.length, vbar := max mean floor
                     lavail := l.foldl (fun n j => n + s.levelsNow j) 0 }

/-! ### Arm states (R155–R157) -/

/-- LEVELS_LOCK, 0 acting as LEVELS_REQ (R155). -/
def State.levelsLock (s : State) (a : Nat) : Nat :=
  let v := s.bget (F.BAL_ARM_LIM_LEVELS_LOCK a)
  if v = 0 then s.get (F.YARD_ARM_LEVELS_REQ a) else v

/-- LOCK_PER, 0 acting as 1. -/
def State.lockPer (s : State) (a : Nat) : Nat := max (s.bget (F.BAL_ARM_LIM_LOCK_PER a)) 1

/-- NORMAL or SHORT, by L_avail. -/
def State.byLevels (s : State) (a : Nat) : Nat := if (s.ba a).lavail < s.get (F.YARD_ARM_LEVELS_REQ a) then 1 else 0

/-- An arm enters state `v`, with its event where the state changes (R156, R161). -/
def State.setArm (s : State) (a v : Nat) : State :=
  let was := (s.ba a).st
  let s := s.setBa a { s.ba a with st := v }
  if v = was then s else if v = 1 then s.raise Base.BAL 0 else if v = 3 then s.raise Base.BAL 1 else s

/-- The control program's presets of arm `a` fall due (R184). -/
def State.presetArm (s : State) (a : Nat) : State :=
  { s.setBitOf F.CME_STAT_PRESET_PEND a with cme := { s.cme with presetNew := setBit s.cme.presetNew a } }

/-- A pending reset request of a LOCKED arm is judged (R157). -/
def State.judgeReset (s : State) (a : Nat) : State :=
  if (s.ba a).lavail < s.levelsLock a then
    ((s.put F.BAL_FAULT_STAT_RESET_REFUSED 1).cnt F.BAL_ERR_COUNT_RESET_REFUSED_COUNT).raise Base.BAL 2
  else
    let s := s.setBa a { s.ba a with c := 0, errs := [], errLast := false }
    ((s.raise Base.BAL 6).presetArm a).setArm a (s.byLevels a)

/-- The state machine of R156 for arm `a`, at a reload edge of RUN after warm-up. -/
def State.armStep (s : State) (a : Nat) : State :=
  let x := s.ba a
  let s := s.setBa a { x with reset := false }
  if x.st = 3 then (if x.reset then s.judgeReset a else s)
  else if x.errLast then s.setArm a 3
  else if x.lavail < s.levelsLock a then
    let c := if x.st = 2 then x.c + 1 else 1
    let s := s.setBa a { s.ba a with c := c }
    if s.lockPer a ≤ c then s.setArm a 3 else s.setArm a 2
  else (s.setBa a { s.ba a with c := 0 }).setArm a (s.byLevels a)

/-- ARM_STATE of BAL_STAT. -/
def State.armStates (s : State) : Nat := (List.range 6).foldl (fun n a => n + (s.ba a).st * 4 ^ a) 0

/-! ### The reload edge and the delivery (R146) -/

/-- Balancing begins at the reload edge of a period of RUN or STOPPING: membership, ages, bypass orders, directions and arm states. -/
def State.balReload (s : State) : State :=
  let joining := stalls.filter s.joins
  let first := s.bal.first
  let s := stalls.foldl (fun t i => t.latchOne i) s
  let k := s.periodK
  let s := { s with bal := { s.bal with busy := true, done := false, k := k, first := false } }
  let s := s.sortList.foldl (fun t i => t.balStall i (joining.contains i) first) s
  let arms := (List.range 6).filter s.armEn
  let s := arms.foldl (fun t a => t.setBa a { t.ba a with errs := (t.ba a).errs.filter (fun e => decide (k < e + 1000)) }) s
  let s := arms.foldl (fun t a => t.balArm a first) s
  if s.yardState = yardRun && !s.warmup then arms.foldl (fun t a => t.armStep a) s else s

/-- The tie rank of stall `i` (R151). -/
def State.tieRank (s : State) (i : Nat) : Nat :=
  let rho := (s.bal.k % 2 ^ 16 * s.bget F.BAL_CTRL_ROT_STEP) % 192
  (i + 192 - rho) % 192

/-- The sort key of stall `i` (R151); under SORT_MODE 3 the tie rank alone orders. -/
def State.sortKey (s : State) (i : Nat) : Int :=
  let a := s.armIn i
  if s.bget (F.BAL_ARM_CFG_SORT_MODE a) = 3 then 0
  else (if (s.ba a).dirNeg then -(s.bs i).m0 else (s.bs i).m0) -
    (if (s.bs i).ins then s.bgetS (F.BAL_ARM_CFG_HYST a) else 0)

/-- Stall `i` comes before stall `j` (R151). -/
def State.before (s : State) (i j : Nat) : Bool :=
  s.sortKey i < s.sortKey j || (s.sortKey i = s.sortKey j && s.tieRank i < s.tieRank j)

/-- A stall put at its place in an order. -/
def orderInsert (lt : Nat → Nat → Bool) (x : Nat) : List Nat → List Nat
  | [] => [x]
  | y :: t => if lt x y then x :: y :: t else y :: orderInsert lt x t

/-- The cells that belong in an arm's insertion order (R151). -/
def State.orderCells (s : State) (a : Nat) : List Nat :=
  (s.selectable (s.members a)).filter (fun i => s.kindIn i ≠ 2 && (s.legIn i).testBit 0)

/-- The insertion order of an arm (R151). -/
def State.sortArm (s : State) (a : Nat) : List Nat := (s.orderCells a).foldl (fun l i => orderInsert s.before i l) []

/-- The order delivered when the sorter's check fails: the last one without the stalls gone, the new ones by tie rank (R154). -/
def State.keptOrder (s : State) (a : Nat) : List Nat :=
  let now := s.orderCells a
  let keep := (s.ba a).order.filter now.contains
  keep ++ (now.filter (fun i => !keep.contains i)).foldl (fun l i => orderInsert (fun x y => s.tieRank x < s.tieRank y) i l) []

/-- SHARE and MVT of a stall (R152). -/
def State.trims (s : State) (i : Nat) : Int × Int :=
  let a := s.armIn i
  let x := s.bs i
  let y := s.ba a
  if x.byp then (0, 0)
  else
    let sh := divHalfEven ((s.bget (F.BAL_ARM_SHARE_K_SH a) : Int) * (x.m0 - y.vbar)) 256
    let mv := divHalfEven ((s.bget (F.BAL_ARM_MVT_K_MV a) : Int) * (y.vbar - x.m0) * (if y.neg then -1 else 1)) 256
    let shm := (s.bget (F.BAL_ARM_SHARE_SH_MAX a) : Int)
    let mvm := (s.bget (F.BAL_ARM_MVT_MV_MAX a) : Int)
    (clampI (-shm) shm sh, clampI (-mvm) mvm mv)

/-- An arm's order is delivered, the sorter's own check having passed or failed; the fourth failure within 1,000 consecutive periods makes the
fault lasting (R154). -/
def State.deliverArm (s : State) (a : Nat) (failed : Bool) : State :=
  if failed then
    let o := s.keptOrder a
    let s := ((s.put F.BAL_FAULT_STAT_SORT_ERR 1).cnt F.BAL_SORT_ERR_COUNT).raise Base.BAL 7
    let errs := s.bal.k :: (s.ba a).errs.filter (fun e => decide (s.bal.k < e + 1000))
    s.setBa a { s.ba a with order := o, errs := errs, errLast := (s.ba a).errLast || decide (4 ≤ errs.length) }
  else s.setBa a { s.ba a with order := s.sortArm a }

/-- BAL_RES and BAL_TRIM of a sorted stall, and STALE_USED (R149, R152, R162). -/
def State.publishStall (s : State) (i : Nat) : State :=
  let x := s.bs i
  let held := !x.byp && 1 ≤ x.vage && x.vage ≤ s.staleLim i
  let order := (s.ba (s.armIn i)).order
  let rank := if order.contains i then order.findIdx (· = i) else 0xFF
  let t := s.trims i
  let s := if held then s.cnt F.BAL_STALE_USED else s
  let s := s.setReg (A.BAL_RES i)
    (BitVec.ofNat 32 (rank + 2 ^ 8 * b2n x.byp + 2 ^ 9 * x.cause + 2 ^ 12 * x.vage + 2 ^ 16 * b2n held + 2 ^ 17 * b2n x.ins))
  s.setReg (A.BAL_TRIM i) (BitVec.ofNat 32 (2 ^ 16 * tc 16 t.1 + tc 16 t.2))

/-- STAT, MEAS and LOW of an arm (R162). -/
def State.publishArm (s : State) (a : Nat) : State :=
  let x := s.ba a
  let s := s.setReg (A.BAL_ARM_STAT a)
    (BitVec.ofNat 32 (2 ^ 24 * min x.sel 255 + 2 ^ 8 * (x.lavail % 2 ^ 13) + 2 ^ 7 * b2n x.dirNeg + 2 ^ 6 * b2n x.neg + x.st))
  let s := s.setReg (A.BAL_ARM_MEAS a) (BitVec.ofNat 32 (2 ^ 16 * tc 16 x.iArm + tc 16 x.vbar))
  s.setReg (A.BAL_ARM_LOW a) (BitVec.ofNat 32 (2 ^ 8 * min x.errs.length 255 + min x.c 255))

/-- BALANCE_DELIVERY (R146, R154, R162): the sorters deliver; `fail` names the arms whose sorter's check fails. -/
def execBalanceDelivery (fail : BitVec 6) (s : State) : Host.Outcome State Fault Refusal :=
  if !s.bal.busy then .next s
  else
    let arms := (List.range 6).filter s.armEn
    let s := { s with bal := { s.bal with busy := false, done := true } }
    let s := arms.foldl (fun t a => t.deliverArm a (fail.toNat.testBit a)) s
    let s := (stalls.filter (fun i => !s.inSort i)).foldl (fun t i => t.put (F.BAL_RES_RANK i) 0xFF) s
    let s := s.sortList.foldl (fun t i => t.publishStall i) s
    let s := (arms.foldl (fun t a => t.publishArm a) s).unpoison Base.BAL 0x10000
    let d := (s.ctb - s.yard.tk) % 2 ^ 16
    let s := (s.put F.BAL_DONE_DONE_LAST d).put F.BAL_DONE_DONE_PEAK (max d (s.get F.BAL_DONE_DONE_PEAK))
    .next ((s.put F.BAL_STAT_RES_PERIOD (s.bal.k % 256)).put F.BAL_STAT_ARM_STATE s.armStates)

/-- Reset requests of the arms named in a committed BAL_ARM_RESET (R157). -/
def State.armResetAsk (s : State) (v : Nat) : State :=
  (bitIndices 6 v).foldl (fun t a => t.setBa a { t.ba a with reset := true }) s

/-- ARM_RESET_REQUEST (R157). -/
def execArmResetRequest (v : BitVec 6) (s : State) : Host.Outcome State Fault Refusal :=
  .next ((s.put F.BAL_ARM_RESET v.toNat).armResetAsk v.toNat)

end Sys2Proof.Machine
end

