-- ==== Sys2Proof/Machine/Can.lean ====
section
/-! DEFINITION. The CAN FD controllers (R241–R253). -/

namespace Sys2Proof.Machine

open Sys2Proof

/-- Controller `n`. -/
def State.canOf (s : State) (n : Nat) : CanSt := KMap.get (fun _ => {}) s.can n

/-- Controller `n` replaced. -/
def State.setCan (s : State) (n : Nat) (c : CanSt) : State := { s with can := KMap.set (fun _ => {}) s.can n c }

/-- Transmit entry `e` of a controller. -/
def CanSt.entry (c : CanSt) (e : Nat) : CanEntry := KMap.get (fun _ => {}) c.entries e

/-- A transmit entry replaced. -/
def CanSt.setEntry (c : CanSt) (e : Nat) (x : CanEntry) : CanSt := { c with entries := KMap.set (fun _ => {}) c.entries e x }

/-- Event base of controller `n`. -/
def canBase (n : Nat) : Nat := 0xA0000 + 0x10000 * n

/-! ### Enabling and error states (R242, R243) -/

/-- One nominal bit in ticks: NBRP × (1 + NTSEG1 + NTSEG2) periods of 100 MHz, each field stored minus one (R242). -/
def State.nomBit (s : State) (n : Nat) : Nat :=
  50 * (s.get (F.CAN_NBT_NBRP n) + 1) * (3 + s.get (F.CAN_NBT_NTSEG1 n) + s.get (F.CAN_NBT_NTSEG2 n))

/-- One data bit in ticks (R242). -/
def State.dataBit (s : State) (n : Nat) : Nat :=
  50 * (s.get (F.CAN_DBT_DBRP n) + 1) * (3 + s.get (F.CAN_DBT_DTSEG1 n) + s.get (F.CAN_DBT_DTSEG2 n))

/-- The settings pass the check of EN 0→1: 20 kb/s to 1 Mb/s nominal, up to 8 Mb/s data, above 1 Mb/s with TDC_EN = 1 only (R241,
R242). DEDUCED, log 104. -/
def State.canSettingsOk (s : State) (n : Nat) : Bool :=
  let nb := s.nomBit n
  let db := s.dataBit n
  decide (us ≤ nb ∧ nb ≤ 50 * us ∧ us ≤ 8 * db) && (s.on (F.CAN_TDC_TDC_EN n) || decide (us ≤ db))

/-- Error counters of controller `n` take new values: ERR_STATE, WARN, and entry to bus-off (R243). PRESUMED, log 102. -/
def State.canErr (s : State) (n tec rec : Nat) : State :=
  let was := s.get (F.CAN_STAT_ERR_STATE n)
  let st := if 256 ≤ tec then 2 else if 128 ≤ tec ∨ 128 ≤ rec then 1 else 0
  let s := (s.put (F.CAN_ECNT_TEC n) (min tec 511)).put (F.CAN_ECNT_REC n) (min rec 511)
  let s := (s.put (F.CAN_STAT_WARN n) (b2n (decide (96 ≤ tec ∨ 96 ≤ rec)))).put (F.CAN_STAT_ERR_STATE n) st
  let s := if st = was then s else s.raise (canBase n) 3
  if st = 2 ∧ was ≠ 2 then
    let s := (s.put (F.CAN_FAULT_STAT_BUS_OFF n) 1).put (F.CAN_STAT_SYNCED n) 0
    s.setCan n { s.canOf n with recovering := false }
  else s

/-- TEC and REC. -/
def State.tec (s : State) (n : Nat) : Nat := s.get (F.CAN_ECNT_TEC n)
/-- REC. -/
def State.recOf (s : State) (n : Nat) : Nat := s.get (F.CAN_ECNT_REC n)

/-- The controller is in bus-off. -/
def State.busOff (s : State) (n : Nat) : Bool := s.get (F.CAN_STAT_ERR_STATE n) = 2

/-- RECOVER written: recovery starts in bus-off; elsewhere it has no effect (R243). -/
def State.canRecover (s : State) (n : Nat) : State :=
  let s := s.put (F.CAN_CTRL_RECOVER n) 0
  if s.busOff n then s.setCan n { s.canOf n with recovering := true } else s

/-- The controller sends reference messages or not. -/
def State.ttMaster (s : State) (n : Nat) (b : Bool) : State := (s.put (F.CAN_STAT_TT_MASTER n) (b2n b)).put (F.CAN_TT_STAT_MASTER n) (b2n b)

/-- BACKED in both places. -/
def State.ttBacked (s : State) (n : Nat) (b : Bool) : State := (s.put (F.CAN_STAT_BACKED n) (b2n b)).put (F.CAN_TT_STAT_BACKED n) (b2n b)

/-- The time master's work ends: EN or TT_EN has gone to 0 (R251, R252). -/
def State.ttEnd (s : State) (n : Nat) : State :=
  let s := s.setCan n { s.canOf n with cycleAt := none, lastCycle := none, quiet := 0, missed := 0, refDue := none, refNext := none, refColl := 0
                                       refHoldFrom := 0, refHold := 0 }
  (s.ttMaster n false).ttBacked n false

/-- EN goes to 0: the controller leaves the bus after the frame in progress (R242). -/
def State.canOff (s : State) (n : Nat) : State :=
  let s := (s.setCan n { s.canOf n with offAt := some s.ctb }).put (F.CAN_STAT_SYNCED n) 0
  (s.ttMaster n false).ttBacked n false

/-- The controller has left the bus. -/
def State.canLeft (s : State) (n : Nat) : State := (s.ttEnd n).setCan n { (s.ttEnd n).canOf n with offAt := none }

/-- After a write of CAN_CTRL whose former value was `old` and written value `v`: the check of EN 0→1, the mode bits taken then, the
end of EN, and RECOVER (R242, R243). -/
def State.canCtrlWritten (s : State) (n : Nat) (old v : Word) : State :=
  let s :=
    if !old.toNat.testBit 0 && s.on (F.CAN_CTRL_EN n) then
      if s.canSettingsOk n then
        let s := s.canLeft n
        (s.setCan n { s.canOf n with mode := bits (s.reg (canBase n + 8)).toNat 5 3 }).put (F.CAN_STAT_SYNCED n) 1
      else ((s.put (F.CAN_CTRL_EN n) 0).put (F.CAN_FAULT_STAT_CFG_DROP n) 1).noteDrop
    else if old.toNat.testBit 0 && !s.on (F.CAN_CTRL_EN n) then
      s.canOff n
    else s
  if v.toNat.testBit 2 then s.canRecover n else s

/-- CAN_RECOVER (R243). -/
def execCanRecover (n : Fin 2) (s : State) : Host.Outcome State Fault Refusal := .next (s.canRecover n.val)

/-- CAN_RECOVERY_DONE (R243): 128 occurrences of 11 recessive bits end bus-off; the error counters restart from 0. -/
def execCanRecoveryDone (n : Fin 2) (s : State) : Host.Outcome State Fault Refusal :=
  if s.busOff n.val && ((s.canOf n.val).recovering || s.on (F.CAN_CTRL_AUTO_RECOV n.val)) then
    let s := s.setCan n.val { s.canOf n.val with recovering := false }
    .next ((s.put (F.CAN_STAT_SYNCED n.val) 1).canErr n.val 0 0)
  else .next s

/-- CAN_BUS_ERROR (R243): an error met while receiving; bus monitoring and restricted operation leave the counters unchanged. -/
def execCanBusError (n : Fin 2) (e : CanRxErr) (s : State) : Host.Outcome State Fault Refusal :=
  if !s.on (F.CAN_CTRL_EN n.val) || s.busOff n.val then .next s
  else
    let s := s.cnt (F.CAN_BUS_ERR n.val)
    let c := s.canOf n.val
    if c.mode.testBit 0 || c.mode.testBit 1 then .next s
    else .next (s.canErr n.val (s.tec n.val) (s.recOf n.val + (match e with | .ordinary => 1 | .heavy => 8)))

/-! ### The transmit queue (R244–R248) -/

/-- Bit `e` of a 64-bit pair of registers. -/
def State.pairBit (s : State) (f : Nat → Fld) (e : Nat) : Bool := s.bitOf (f (e / 32)) (e % 32)

/-- Bit `e` of a 64-bit pair given. -/
def State.putPairBit (s : State) (f : Nat → Fld) (e : Nat) (b : Bool) : State := s.putBitOf (f (e / 32)) (e % 32) b

/-- TX_PEND bit `e`: the entry is owned by hardware. -/
def State.txPend (s : State) (n e : Nat) : Bool := s.pairBit (F.CAN_TX_PEND n) e

/-- TX_PEND bit `e` given, and TX_PENDING counted. -/
def State.setTxPend (s : State) (n e : Nat) (b : Bool) : State :=
  let s := s.putPairBit (F.CAN_TX_PEND n) e b
  s.put (F.CAN_STAT_TX_PENDING n) (popcount 32 (s.get (F.CAN_TX_PEND n 0)) + popcount 32 (s.get (F.CAN_TX_PEND n 1)))

/-- Whether a master is the one QUEUE_OWNER names (R244). -/
def State.queueOwner (s : State) (n : Nat) (m : Master) : Bool := (m = .host) = !s.on (F.CAN_CTRL_QUEUE_OWNER n)

/-- A write by the other master is dropped (R244). -/
def State.notOwner (s : State) (n : Nat) : State := ((s.put (F.CAN_FAULT_STAT_NOT_OWNER n) 1).cnt (F.accessErr (canBase n))).noteDrop

/-- The staging words: ID, CTL, TT and DATA0–15. -/
def State.staging (s : State) (n : Nat) : List Word :=
  [s.reg (A.CAN_TXS_ID n), s.reg (A.CAN_TXS_CTL n), s.reg (A.CAN_TXS_TT n)] ++ (List.range 16).map (fun i => s.reg (A.CAN_TXS_DATA n i))

/-- TX_PUSH written with `v` (R244). -/
def State.txPush (s : State) (n : Nat) (v : Word) : State :=
  let e := v.toNat % 64
  let s := s.put (F.CAN_TX_PUSH_ENTRY n) e
  if !v.toNat.testBit 31 then s
  else if s.txPend n e then ((s.put (F.CAN_FAULT_STAT_PUSH_REF n) 1).cnt (F.CAN_ERR_COUNT_PUSH_REFUSED n)).noteDrop
  else
    let s := s.setCan n ((s.canOf n).setEntry e { words := s.staging n, pushed := s.ctb })
    (s.setTxPend n e true).putPairBit (F.CAN_TX_DONE n) e false

/-- TX_PUSH (R244). -/
def execTxPush (n : Fin 2) (m : Master) (v : Word) (s : State) : Host.Outcome State Fault Refusal :=
  .next (if s.queueOwner n.val m then s.txPush n.val v else s.notOwner n.val)

/-- What arbitration compares of an identifier word [30] RTR, [29] IDE, [28:0] ID: the frame with the lower number wins. A base
identifier stands in [10:0]. PRESUMED, log 102. -/
def arbKey (w : Nat) : Nat :=
  let id := w % 2 ^ 29
  let r := b2n (w.testBit 30)
  if w.testBit 29 then ((id / 2 ^ 18 * 2 + 1) * 2 + 1) * 2 ^ 19 + id % 2 ^ 18 * 2 + r else (id % 2 ^ 11 * 2 + r) * 2 * 2 ^ 19

/-- Word `i` of an entry. -/
def CanEntry.word (x : CanEntry) (i : Nat) : Nat := (x.words.getD i 0#32).toNat

/-- The identifier word a frame is sent with: remote frames are Classical only, so that RTR counts for nothing where FDF = 1 (R241). DEDUCED,
log 181. -/
def CanEntry.head (x : CanEntry) : Nat := if (x.word 1).testBit 4 then clearBit (x.word 0) 30 else x.word 0

/-- The control word a frame is sent with: DLC, FDF, BRS in a CAN FD frame only, and in bit 6 ESI from the controller's error state (R241).
DEDUCED, log 181. -/
def State.sentCtl (s : State) (n : Nat) (x : CanEntry) : Nat :=
  let c := x.word 1 % 2 ^ 6
  if c.testBit 4 then c + 2 ^ 6 * b2n (s.get (F.CAN_STAT_ERR_STATE n) = 1) else c % 2 ^ 5

/-- The data words a frame is sent with; a remote frame has none. -/
def CanEntry.sentData (x : CanEntry) : List Word := if x.head.testBit 30 then [] else x.words.drop 3

/-- CC_LOG2, 7 acting as 6. -/
def State.ccLog2 (s : State) (n : Nat) : Nat := min (s.get (F.CAN_TT_CFG_CC_LOG2 n)) 6

/-- A time-triggered entry's basic cycles include the one whose count is `c` (R251). -/
def CanEntry.inCycle (x : CanEntry) (c : Nat) : Bool :=
  let r := min (bits (x.word 2) 30 28) 6
  c % 2 ^ r = bits (x.word 2) 27 22 % 2 ^ r

/-- An entry is time-triggered. -/
def CanEntry.tt (x : CanEntry) : Bool := (x.word 2).testBit 31

/-- An entry may be offered at CTB `t`: not held, and inside its window where it is time-triggered (R245, R248, R251); the window goes by
the count of the latest reference message. -/
def State.mayOffer (s : State) (n e t : Nat) : Bool :=
  let c := s.canOf n
  let x := c.entry e
  s.txPend n e && decide (x.pushed ≤ t) && !(decide (x.heldFrom ≤ t) && (x.held || decide (t < x.heldTo))) &&
    (!s.on (F.CAN_TT_CFG_TT_EN n) || !x.tt ||
      (match c.cycleAt with
      | some c0 => x.inCycle c.winCount && decide (c0 + bits (x.word 2) 19 0 * us ≤ t)
      | none => false))

/-- The entry offered at a start of frame at CTB `t`: the pending frame that wins arbitration, the lowest number among equals (R245).
DEDUCED, log 103. -/
def State.canOffer (s : State) (n t : Nat) : Option Nat :=
  (List.range 64).foldl (fun (b : Option Nat) e =>
    if s.mayOffer n e t then
      match b with
      | none => some e
      | some o => if arbKey ((s.canOf n).entry e).head < arbKey ((s.canOf n).entry o).head then some e else some o
    else b) none

/-- The reference message is offered at a start of frame at CTB `t`: due, and not withheld. It comes before every entry (R245, R248, R251). -/
def State.refOffered (s : State) (n t : Nat) : Bool :=
  match (s.canOf n).refDue with
  | some t0 => decide (t0 ≤ t) && !(decide ((s.canOf n).refHoldFrom ≤ t) && decide (t < (s.canOf n).refHold))
  | none => false

/-- The controller may send: enabled, not in bus-off, not monitoring, and not in restricted operation, which sends no data and no remote
frames (R241). PRESUMED, log 102. -/
def State.canSends (s : State) (n : Nat) : Bool :=
  s.on (F.CAN_CTRL_EN n) && !s.busOff n && !(s.canOf n).mode.testBit 1 && !(s.canOf n).mode.testBit 0

/-- The controller may have sent the frame whose start of frame stood at CTB `sof`: it may send, or EN has gone to 0 since (R242, R246). -/
def State.canSending (s : State) (n sof : Nat) : Bool :=
  s.canSends n ||
    (!s.on (F.CAN_CTRL_EN n) && !s.busOff n && !(s.canOf n).mode.testBit 1 && !(s.canOf n).mode.testBit 0 &&
      (match (s.canOf n).offAt with
        | some t => decide (sof ≤ t)
        | none => false))

/-- A frame of the controller's has ended: it leaves the bus where EN has gone to 0 (R242). -/
def State.canEnded (s : State) (n : Nat) : State := if s.on (F.CAN_CTRL_EN n) then s else s.canLeft n

/-- A cancel of entry `e` while the entry `cur` is on the bus (R247). -/
def State.cancelOne (s : State) (n : Nat) (cur : Option Nat) (e : Nat) : State :=
  if !s.txPend n e then s
  else if cur = some e then
    ((s.put (F.CAN_FAULT_STAT_CANCEL_REF n) 1).putPairBit (F.CAN_TX_CANREF n) e true).raise (canBase n) 4
  else (s.setTxPend n e false).setCan n ((s.canOf n).setEntry e {})

/-- TX_CANCEL written with `v` (R247); `sof` is the CTB of the start of frame of the frame the controller is sending, if it is. -/
def State.txCancel (s : State) (n v : Nat) (sof : Option Nat) : State :=
  let cur := match sof with | some t => if s.canSending n t && !s.refOffered n t then s.canOffer n t else none | none => none
  (bitIndices 64 v).foldl (fun t e => t.cancelOne n cur e) s

/-- TX_CANCEL (R247). -/
def execTxCancel (n : Fin 2) (m : Master) (v : BitVec 64) (sof : Option Nat) (s : State) : Host.Outcome State Fault Refusal :=
  .next (if s.queueOwner n.val m then s.txCancel n.val v.toNat sof else s.notOwner n.val)

/-- TXTS of entry `e`. -/
def State.setTxts (s : State) (n e t : Nat) : State :=
  (s.setReg (A.CAN_TXTS n (2 * e)) (BitVec.ofNat 32 t)).setReg (A.CAN_TXTS n (2 * e + 1)) (BitVec.ofNat 32 (t / 2 ^ 32 % 2 ^ 16))

/-- A frame leaves on the bus; in internal loopback nothing does (R241). -/
def State.canEmit (s : State) (n head ctl : Nat) (data : List Word) : State :=
  if (s.canOf n).mode.testBit 2 then s else s.emit (.can n (BitVec.ofNat 32 head) (BitVec.ofNat 32 ctl) data)

/-- With TDC_EN = 1 a CAN FD frame sent with bit rate switching publishes the transmitter delay measured in it, a free value (R242). DESIGN
CHOICE, log 182. -/
def State.tdcMeasure (s : State) (n ctl : Nat) : State :=
  if s.on (F.CAN_TDC_TDC_EN n) && ctl.testBit 4 && ctl.testBit 5 then (s.put (F.CAN_TDC_TDCV n) (s.free 7)).drew else s

/-- Entry `e`'s frame is acknowledged (R246). -/
def State.txAck (s : State) (n e sof : Nat) : State :=
  let x := (s.canOf n).entry e
  let s := (s.canEmit n x.head (s.sentCtl n x) x.sentData).tdcMeasure n (s.sentCtl n x)
  let s := (s.setTxPend n e false).putPairBit (F.CAN_TX_DONE n) e true
  let s := ((s.setTxts n e sof).cnt (F.CAN_TX_OK n)).raise (canBase n) 0
  (s.setCan n ((s.canOf n).setEntry e { x with coll := 0 })).canErr n (s.tec n - 1) (s.recOf n)

/-- The reference message's data words: octet 0 the cycle count, octets 1–7 REF_DATA (R251). -/
def State.refWords (s : State) (n c : Nat) : List Word :=
  let d := c + 2 ^ 8 * s.get (F.CAN_REF_DATA_LO n) + 2 ^ 40 * s.get (F.CAN_REF_DATA_HI_OCT5TO7 n)
  [BitVec.ofNat 32 d, BitVec.ofNat 32 (d / 2 ^ 32)]

/-- The reference message whose start of frame stood at CTB `sof` completes: the windows of the cycle before have closed, and cycle time runs
from this start of frame (R251). DEDUCED, log 183. -/
def State.refAck (s : State) (n sof : Nat) : State :=
  let later := match (s.canOf n).refNext with
    | some p => if sof < p.1 then some p else none
    | none => none
  let k := (later.map (fun p => p.2)).getD (s.get (F.CAN_TT_STAT_CYCLE n))
  let s := s.canEmit n (s.get (F.CAN_TT_REF_REF_ID n) + 2 ^ 29 * s.get (F.CAN_TT_REF_REF_IDE n))
    (clampN 1 8 (s.get (F.CAN_REF_DATA_HI_REF_DLC n))) (s.refWords n k)
  let s := s.setCan n { s.canOf n with refDue := later.map (fun p => p.1), refNext := none, refColl := 0, cycleAt := some sof, winCount := k, missed := 0 }
  s.canErr n (s.tec n - 1) (s.recOf n)

/-- CAN_TX_ACK (R245, R246, R251): the frame whose start of frame stood at CTB `sof` completes with ACK. -/
def execCanTxAck (n : Fin 2) (sof : Nat) (s : State) : Host.Outcome State Fault Refusal :=
  if !s.canSending n.val sof then .next s
  else if s.refOffered n.val sof then .next ((s.refAck n.val sof).canEnded n.val)
  else
    match s.canOffer n.val sof with
    | none => .next s
    | some e => .next ((s.txAck n.val e sof).canEnded n.val)

/-- A collision of entry `e`; the third in a row holds it (R248). DEDUCED, log 105. -/
def State.collision (s : State) (n e : Nat) : State :=
  let x := (s.canOf n).entry e
  let s := s.cnt (F.CAN_CAN_COLLISION n)
  if 2 ≤ x.coll then
    let s := s.setCan n ((s.canOf n).setEntry e { x with coll := 0, held := true, heldAt := s.now, heldFrom := s.ctb, heldTo := s.ctb })
    (s.put (F.CAN_FAULT_STAT_COLLISION n) 1).raise (canBase n) 5
  else s.setCan n ((s.canOf n).setEntry e { x with coll := x.coll + 1 })

/-- Consecutive collisions of entry `e` restart. -/
def State.clearColl (s : State) (n e : Nat) : State :=
  s.setCan n ((s.canOf n).setEntry e { (s.canOf n).entry e with coll := 0 })

/-- An attempt of entry `e` fails; the entry stays pending (R246, R248, R243). -/
def State.txFail (s : State) (n e : Nat) (why : CanFail) : State :=
  match why with
  | .arbitration => (s.clearColl n e).cnt (F.CAN_ARB_LOST n)
  | .bitError => ((s.collision n e).cnt (F.CAN_BUS_ERR n)).canErr n (s.tec n + 8) (s.recOf n)
  | .noAck dominant =>
    let s := (s.clearColl n e).cnt (F.CAN_BUS_ERR n)
    if s.get (F.CAN_STAT_ERR_STATE n) = 1 && !dominant then s else s.canErr n (s.tec n + 8) (s.recOf n)
  | .other => ((s.clearColl n e).cnt (F.CAN_BUS_ERR n)).canErr n (s.tec n + 8) (s.recOf n)

/-- Ticks of the hold after 3 consecutive collisions: (1 + SLOT_ID) × 64 nominal bit times (R248). -/
def State.collisionHold (s : State) (n : Nat) : Nat := (1 + s.get F.SYS_SLOT_SLOT_ID) * 64 * s.nomBit n

/-- A collision of the reference message: its own attempt failed so, or another node sent one of equal priority (R248, R252). DEDUCED, log
184. -/
def State.refCollision (s : State) (n : Nat) : State :=
  let c := s.canOf n
  let s := s.cnt (F.CAN_CAN_COLLISION n)
  if 2 ≤ c.refColl then
    ((s.setCan n { c with refColl := 0, refHoldFrom := s.ctb, refHold := s.ctb + s.collisionHold n }).put (F.CAN_FAULT_STAT_COLLISION n) 1).raise (canBase n) 5
  else s.setCan n { c with refColl := c.refColl + 1 }

/-- An attempt of the reference message fails; it stays due (R245, R246). -/
def State.refFail (s : State) (n : Nat) (why : CanFail) : State :=
  let calm := s.setCan n { s.canOf n with refColl := 0 }
  match why with
  | .arbitration => calm.cnt (F.CAN_ARB_LOST n)
  | .bitError => ((s.refCollision n).cnt (F.CAN_BUS_ERR n)).canErr n (s.tec n + 8) (s.recOf n)
  | .noAck dominant =>
    let t := calm.cnt (F.CAN_BUS_ERR n)
    if s.get (F.CAN_STAT_ERR_STATE n) = 1 && !dominant then t else t.canErr n (s.tec n + 8) (s.recOf n)
  | .other => (calm.cnt (F.CAN_BUS_ERR n)).canErr n (s.tec n + 8) (s.recOf n)

/-- CAN_TX_FAIL (R246, R248, R251). -/
def execCanTxFail (n : Fin 2) (sof : Nat) (why : CanFail) (s : State) : Host.Outcome State Fault Refusal :=
  if !s.canSending n.val sof then .next s
  else if s.refOffered n.val sof then .next ((s.refFail n.val why).canEnded n.val)
  else
    match s.canOffer n.val sof with
    | none => .next s
    | some e => .next ((s.txFail n.val e why).canEnded n.val)

/-- COLLISION_HOLD_EXPIRY (R248): after (1 + SLOT_ID) × 64 nominal bit times entry `e` competes again. -/
def execCollisionHoldExpiry (n : Fin 2) (e : Fin 64) (s : State) : Host.Outcome State Fault Refusal :=
  let x := (s.canOf n.val).entry e.val
  if x.held then
    let s := s.until (x.heldAt + s.collisionHold n.val)
    .next (s.setCan n.val ((s.canOf n.val).setEntry e.val { x with held := false, heldTo := s.ctb }))
  else .next s

/-! ### The receive queue (R250) -/

/-- Whether filter `f` accepts a frame (R250). -/
def State.filterAccepts (s : State) (n f : Nat) (x : CanRx) : Bool :=
  s.on (F.CAN_FLT_ID_FLT_EN n f) && s.on (F.CAN_FLT_ID_FLT_IDE n f) = x.ide &&
    (Nat.xor x.id.toNat (s.get (F.CAN_FLT_ID_FLT_ID n f))) &&& s.get (F.CAN_FLT_MASK n f) = 0

/-- RX_LEVEL in both places. -/
def State.rxLevel (s : State) (n : Nat) : State :=
  let l := (s.fifo (A.CAN_RX_TOP_LO n)).length
  (s.put (F.CAN_STAT_RX_LEVEL n) l).put (F.CAN_RX_LEVEL n) l

/-- The header of a received frame as RX_TOP gives it. -/
def rxHeader (x : CanRx) (flt : Nat) : Nat :=
  x.id.toNat + 2 ^ 29 * b2n x.ide + 2 ^ 30 * b2n x.rtr + 2 ^ 31 * b2n x.fdf + 2 ^ 32 * x.dlc.toNat + 2 ^ 36 * b2n x.brs +
    2 ^ 37 * b2n x.esi + 2 ^ 38 * (flt % 32)

/-- A frame is stored, or discarded on a full FIFO (R250). -/
def State.rxEnter (s : State) (n v ts : Nat) (data : List Word) : State :=
  let a := A.CAN_RX_TOP_LO n
  if 64 ≤ (s.fifo a).length then
    let s := s.spill a v ts data [F.CAN_FAULT_STAT_RX_OVF n, F.CAN_RX_DROP n] (canBase n) 2
    ((s.put (F.CAN_FAULT_STAT_RX_OVF n) 1).cnt (F.CAN_RX_DROP n)).raise (canBase n) 2
  else
    let s := s.storeFifo a v
    let s := s.setCan n { s.canOf n with rx := (s.canOf n).rx ++ [⟨ts, data⟩] }
    ((s.rxLevel n).cnt (F.CAN_RX_OK n)).raise (canBase n) 1

/-- A received frame is stored, with the filter that accepted it (R250). -/
def State.rxStore (s : State) (n : Nat) (x : CanRx) (flt : Nat) : State := s.rxEnter n (rxHeader x flt) (x.sof % 2 ^ 48) x.data

/-- A frame meets the filters (R250); where ACCEPT_ALL alone stores it, FILTER is a free value. -/
def State.rxFilter (s : State) (n : Nat) (x : CanRx) : State :=
  match (List.range 32).find? (fun f => s.filterAccepts n f x) with
  | some f => s.rxStore n x f
  | none => if s.on (F.CAN_CTRL_ACCEPT_ALL n) then s.drew.rxStore n x (s.free 5) else s

/-- REC after a frame received without error (R243): above 127 it falls to a value between 119 and 127 that ISO 11898-1 leaves open. -/
def State.recGood (s : State) (n : Nat) : State :=
  let r := s.recOf n
  if r = 0 then s else if r ≤ 127 then s.canErr n (s.tec n) (r - 1) else s.drew.canErr n (s.tec n) (119 + s.free 32 % 9)

/-! ### The time master (R251, R252) -/

/-- CYCLE_US, values outside 100 to 1,000,000 acting as the nearer bound, in ticks. -/
def State.cycleTicks (s : State) (n : Nat) : Nat := clampN 100 1000000 (s.get (F.CAN_TT_CFG_CYCLE_US n)) * us

/-- A received reference message is judged by its priority (R252). -/
def State.refRx (s : State) (n : Nat) (x : CanRx) : State :=
  let own := s.get (F.CAN_TT_REF_REF_ID n)
  if !s.on (F.CAN_TT_CFG_TT_EN n) || x.own || x.ide ≠ s.on (F.CAN_TT_REF_REF_IDE n) || x.id.toNat / 8 ≠ own / 8 then s
  else
    let p := x.id.toNat % 8
    if p < own % 8 then
      let was := s.on (F.CAN_STAT_BACKED n)
      let s := (s.ttMaster n false).ttBacked n true
      let s := s.put (F.CAN_TT_STAT_CYCLE n) ((x.data.getD 0 0#32).toNat % 64)
      let k := s.get (F.CAN_TT_STAT_CYCLE n)
      let s := s.setCan n { s.canOf n with cycleAt := some x.sof, winCount := k, quiet := 0, missed := 0, refDue := none, refNext := none }
      if was then s else s.raise (canBase n) 7
    else if p = own % 8 then s.refCollision n
    else s.put (F.CAN_TT_STAT_OTHER_PRI n) p

/-- CAN_RX_FRAME (R250, R252): a frame completes on the bus; an own frame is received in loopback only. -/
def execCanRxFrame (n : Fin 2) (f : CanRx) (s : State) : Host.Outcome State Fault Refusal :=
  if !s.on (F.CAN_CTRL_EN n.val) || s.busOff n.val || (f.own && !(s.canOf n.val).mode.testBit 2) then .next s
  else .next (((s.recGood n.val).refRx n.val f).rxFilter n.val f)

/-- Which controller's RX_TOP a canonical address is. -/
def rxTopOf (a : Nat) : Option Nat := if a = A.CAN_RX_TOP_LO 0 then some 0 else if a = A.CAN_RX_TOP_LO 1 then some 1 else none

/-- The receive window takes the head frame's timestamp and data (R250). -/
def State.rxWindow (s : State) (n : Nat) : State :=
  match (s.canOf n).rx, s.fifoEmpty (A.CAN_RX_TOP_LO n) with
  | x :: rest, false =>
    let s := s.setCan n { s.canOf n with rx := rest }
    let s := (s.setReg (A.CAN_RXW_TS n 0) (BitVec.ofNat 32 x.ts)).setReg (A.CAN_RXW_TS n 1) (BitVec.ofNat 32 (x.ts / 2 ^ 32))
    (List.range 16).foldl (fun (t : State) i => t.setReg (A.CAN_RXW_DATA n i) (x.data.getD i 0#32)) s
  | _, _ => s

/-- A read of RX_TOP (R244, R250): the owner pops; the other master reads the empty form. -/
def State.rxTopRead (s : State) (n : Nat) (m : Master) (wide : Bool) : State :=
  let a := A.CAN_RX_TOP_LO n
  if s.queueOwner n m then
    (((s.rxWindow n).fifoPop m a wide (F.CAN_RX_UNDER n)).afterPop a (fun t p => t.rxEnter n p.value p.ts p.data)).rxLevel n
  else s.pairRead m a wide 0x8000#32 (ctlDword 0 (s.res (a + 4)).seq false false true) 256

/-- RX_TOP_POP (R250, R401). -/
def execRxTopPop (r : ReadReq) (s : State) : Host.Outcome State Fault Refusal :=
  match rxTopOf (canon r.addr.toNat) with
  | some n => .next (if s.answers r.master then s.rxTopRead n r.master (readWide r) else s)
  | none => .next s

/-- The next CTB instant at which a basic cycle starts (R251). -/
def State.nextCycle (s : State) (n : Nat) : Nat :=
  let p := s.cycleTicks n
  let t := (s.ctb + p - 1) / p * p
  if (s.canOf n).lastCycle = some t then t + p else t

/-- A basic cycle of the master starts: the cycle count moves and the reference message is offered; one that waits, or is on the bus, keeps the count
it had if its frame started before (R245, R251). -/
def State.masterCycle (s : State) (n t : Nat) : State :=
  let c := s.canOf n
  let k := if c.lastCycle.isNone then 0 else (s.get (F.CAN_TT_STAT_CYCLE n) + 1) % 2 ^ s.ccLog2 n
  let next := if c.refDue.isSome then some (t, s.get (F.CAN_TT_STAT_CYCLE n)) else none
  ((s.ttMaster n true).put (F.CAN_TT_STAT_CYCLE n) k).setCan n { c with lastCycle := some t, refDue := some (c.refDue.getD t), refNext := next }

/-- CAN_BASIC_CYCLE (R251, R252): the next basic cycle starts; while backed off the cycle is only counted. -/
def execCanBasicCycle (n : Fin 2) (s : State) : Host.Outcome State Fault Refusal :=
  let i := n.val
  if !s.canSends i || !s.on (F.CAN_TT_CFG_TT_EN i) then .next s
  else
    let t := s.nextCycle i
    let s := s.untilCtb t
    if s.on (F.CAN_STAT_BACKED i) then
      .next (s.setCan i { s.canOf i with lastCycle := some t, quiet := (s.canOf i).quiet + 1 })
    else .next (s.masterCycle i t)

/-- CAN_MASTER_RESUME (R252): after 8 basic cycles without a reference message of higher priority, the role resumes at the next one. -/
def execCanMasterResume (n : Fin 2) (s : State) : Host.Outcome State Fault Refusal :=
  let i := n.val
  if s.canSends i && s.on (F.CAN_TT_CFG_TT_EN i) && s.on (F.CAN_STAT_BACKED i) && decide (8 ≤ (s.canOf i).quiet) then
    let t := s.nextCycle i
    let s := (s.untilCtb t).ttBacked i false
    .next (((s.setCan i { s.canOf i with quiet := 0 }).masterCycle i t).raise (canBase i) 7)
  else .next s

/-- CAN_TT_MISS (R251): the window of entry `e` closes at the next reference message, which is offered before every entry, before its frame
started; while backed off that message is another master's, which comes now. -/
def execCanTtMiss (n : Fin 2) (e : Fin 64) (s : State) : Host.Outcome State Fault Refusal :=
  let i := n.val
  let c := s.canOf i
  let x := c.entry e.val
  if s.on (F.CAN_CTRL_EN i) && s.on (F.CAN_TT_CFG_TT_EN i) && s.txPend i e.val && x.tt && c.cycleAt.isSome && x.inCycle c.winCount &&
      !c.missed.testBit e.val then
    let s := if c.refDue.isSome || s.on (F.CAN_STAT_BACKED i) then s else s.untilCtb (s.nextCycle i)
    let s := s.setCan i { c with missed := setBit c.missed e.val }
    .next (((s.cnt (F.CAN_TT_MISS i)).put (F.CAN_FAULT_STAT_TT_MISS_F i) 1).raise (canBase i) 6)
  else .next s

/-- Whether a clear of bit `b` of CAN_FAULT_STAT is accepted: BUS_OFF not while in bus-off (R243). -/
def canClearOk (s : State) (n b : Nat) : Bool := !(b = 7 && s.busOff n)

/-- Registers written only while EN = 0 (R242). -/
def isBitTiming (n a : Nat) : Bool := a = A.CAN_NBT n || a = A.CAN_DBT n || a = A.CAN_TDC n

end Sys2Proof.Machine
end

