-- ==== Sys2Proof/Machine/Modulate.lean ====
section
/-! DEFINITION. Modulation as pure functions of converter time: carriers, nearest levels, isolation phases, and the turning of leg
states into dead-timed entries (R115–R136). Leg states: 0 off, 1 upper, 2 lower. -/

namespace Sys2Proof.Machine

open Sys2Proof

/-- The settings of one arm in the active set (R137). -/
structure ArmSet where
  mv : Nat
  iso : Nat
  stag : Bool
  centre : Bool
  nSlots : Nat
  minOn : Nat
  dtMv : Nat
  dtIso : Nat
  cr : Nat
  half : Nat
  kq : Nat
  slew : Nat

/-- What a leg does in a period: one entry at OFFSET 0 in any case, or a sequence of states. -/
inductive LegPlan where
  | fixed (st : Nat)
  | wave (pts : List (Nat × Nat))
  deriving DecidableEq, Repr

/-- Points of a leg, in time order, as the state at `t1` and the changes before `t2`; the later of two points at one tick wins. -/
def compress (t1 t2 : Nat) (pts : List (Int × Nat)) : List (Nat × Nat) :=
  let s0 := match (pts.filter (fun p => p.1 ≤ (t1 : Int))).getLast? with
    | some p => p.2
    | none => 0
  let later := pts.filter (fun p => decide ((t1 : Int) < p.1) && decide (p.1 < (t2 : Int)))
  let step := fun (acc : List (Nat × Nat)) (p : Int × Nat) =>
    let acc := match acc with
      | (t, _) :: rest => if (t : Int) = p.1 && !rest.isEmpty then rest else acc
      | [] => acc
    if (acc.head?.map (fun q => q.2)) = some p.2 then acc else (p.1.toNat, p.2) :: acc
  (later.foldl step [(t1, s0)]).reverse

/-! ### Phase-shifted carrier (R123, R124) -/

/-- The first carrier vertex at or after `t1`. -/
def firstVertex (t1 th h : Nat) : Int := (th : Int) - (((th : Int) - t1) / h) * h

/-- Points of one carrier segment that starts at `a`, rising from a trough or falling from a peak, against the reference `m`. -/
def segPoints (a : Int) (h : Nat) (rising : Bool) (m : Int) : List (Int × Nat) :=
  if m ≤ -32768 then [(a, 2)]
  else if 32768 ≤ m then [(a, 1)]
  else
    let tau := divHalfEven (65536 * a + (h : Int) * (if rising then m + 32768 else 32768 - m)) 65536
    [(a, if rising then 1 else 2), (tau, if rising then 2 else 1)]

/-- A leg under PSC: `old` up to the first vertex, `new` from it; in the wait after coasting, lower until it. DEDUCED, log 54. -/
def pscWave (t1 t2 h th : Nat) (old new : Int) (wait : Bool) : List (Nat × Nat) :=
  if h = 0 then [(t1, 2)]
  else
    let v1 := firstVertex t1 th h
    let i0 := ((t1 : Int) - th) / h
    let segs := (List.range ((t2 - t1) / h + 2)).map (fun (j : Nat) =>
      let i := i0 + (j : Int)
      let a := (th : Int) + i * h
      if wait && a < v1 then [(a, 2)] else segPoints a h (i % 2 = 0) (if v1 ≤ a then new else old))
    compress t1 t2 segs.flatten

/-! ### Isolation stage (R128, R129) -/

/-- Leg states of a square wave of half period `h` and phase `psi`. -/
def isoWave (t1 t2 h : Nat) (psi : Int) : List (Nat × Nat) :=
  if h = 0 then [(t1, 2)]
  else
    let ph := (((t1 : Int) - psi) % (2 * h)).toNat
    let up := decide (ph < h)
    let first := t1 + (if up then h - ph else 2 * h - ph)
    let ts := (List.range ((t2 - t1) / h + 1)).map (fun j => (j, first + j * h))
    (t1, if up then 1 else 2) :: ((ts.filter (fun p => p.2 < t2)).map (fun p => (p.2, if up = (p.1 % 2 = 0) then 2 else 1)))

/-- φ, D1 and D2 after one step toward their targets, all three by one common factor (R129). -/
def slewIso (h slew : Nat) (on : Bool) (phi d1 d2 tphi td1 td2 : Q) : Q × Q × Q :=
  if !on then (tphi, td1, td2)
  else
    let a := tphi.sub phi
    let b := td1.sub d1
    let c := td2.sub d2
    let mx := (Q.max b.abs (Q.max a.abs (a.sub c).abs)).smul h
    let m : Q := ⟨(slew * 2 * h / 65536 : Nat), 1⟩
    let f : Q := if mx.le m then ⟨1, 1⟩ else m.div mx
    (phi.add (f.mul a), d1.add (f.mul b), d2.add (f.mul c))

/-- Phases of L2–L5, each rounded (R128). -/
def isoPhases (h : Nat) (th phi d1 d2 : Q) : List Int :=
  let one : Q := ⟨1, 1⟩
  [th.round, (th.add ((one.sub d1).smul h)).round, (th.add (phi.smul h)).round,
    ((th.add (phi.smul h)).add ((one.sub d2).smul h)).round]

/-! ### Nearest level with sorting (R125–R127) -/

/-- Bridge state of two legs: +1, −1 or 0. -/
def bridgeOf (l0 l1 : Nat) (halfBridge : Bool) : Int :=
  if halfBridge then (if l0 = 1 then 1 else 0) else if l0 = 1 && l1 = 2 then 1 else if l0 = 2 && l1 = 1 then -1 else 0

/-- L0, L1 and the leg that did not move, after the bridge goes to state `b` (R126). DEDUCED, log 61. -/
def bridgeMove (l0 l1 zl : Nat) (b : Int) (halfBridge : Bool) : Nat × Nat × Nat :=
  if halfBridge then (if 0 < b then 1 else 2, l1, zl)
  else
    let cur := bridgeOf l0 l1 false
    if l0 = 0 || l1 = 0 || (cur ≠ 0 && b = -cur) then
      if b = 1 then (1, 2, 1) else if b = -1 then (2, 1, 0) else (2, 2, 0)
    else if b = cur then (l0, l1, zl)
    else if cur = 0 then
      if b = 1 then (1, 2, if l0 = 2 then 1 else 0) else (2, 1, if l1 = 2 then 0 else 1)
    else if zl = 1 then (l0, l0, zl)
    else (l1, l1, zl)

/-- Leg states of the bridge in a period with at most one change: waves of L0 and L1, and the leg that did not move (R126, R127). -/
def nlmWave (t1 l0 l1 zl : Nat) (change : Option (Nat × Int)) (halfBridge : Bool) : List (Nat × Nat) × List (Nat × Nat) × Nat :=
  let off := l0 = 0 || (!halfBridge && l1 = 0)
  let atStart : Option Int := match change with
    | some (t, b) => if t ≤ t1 then some b else none
    | none => none
  let x0 := match atStart with
    | some b => if off then bridgeMove 0 0 zl b halfBridge else bridgeMove l0 l1 zl b halfBridge
    | none => if off then bridgeMove 0 0 zl 0 halfBridge else (l0, l1, zl)
  match change with
  | some (t, b) =>
    if t ≤ t1 then ([(t1, x0.1)], [(t1, x0.2.1)], x0.2.2)
    else
      let x1 := bridgeMove x0.1 x0.2.1 x0.2.2 b halfBridge
      ((t1, x0.1) :: (if x1.1 = x0.1 then [] else [(t, x1.1)]), (t1, x0.2.1) :: (if x1.2.1 = x0.2.1 then [] else [(t, x1.2.1)]), x1.2.2)
  | none => ([(t1, x0.1)], [(t1, x0.2.1)], x0.2.2)

/-- KQ·|r|, the numerator of x over 65,536·v̄ (R125); r < 0 reads 0 where only positive levels are made. DEDUCED, log 56. -/
def nlmX (kq : Nat) (positive : Bool) (r : Int) : Nat := if positive && r < 0 then 0 else kq * r.natAbs

/-- The count nearest x₀ at t_{k+1}, a tie broken by the sign of x₁ − x₀ (R125). `d` is the denominator of x. -/
def nlmStart (x0 x1 d : Nat) : Nat :=
  if (2 * x0) % (2 * d) = d && x1 < x0 then (2 * x0 - d) / (2 * d) else (2 * x0 + d) / (2 * d)

/-- Levels j whose j + 1/2 lies strictly between two values of x, below the limit, rising. -/
def nlmLevels (lo hi d limit : Nat) : List Nat :=
  (List.range limit).filter (fun j => 2 * lo < (2 * j + 1) * d && (2 * j + 1) * d < 2 * hi)

/-- Count changes of a piece on which r runs from `ra` to `rb` with sign `sg`: OFFSET and whether n rises (R125). -/
def nlmPiece (p : Nat) (r0 r1 ra rb : Int) (neg : Bool) (kq d limit : Nat) (positive : Bool) : List (Nat × Bool × Bool) :=
  let dead := positive && neg
  let xa := if dead then 0 else nlmX kq positive ra
  let xb := if dead then 0 else nlmX kq positive rb
  let js := nlmLevels (min xa xb) (max xa xb) d limit
  let js := if xa < xb then js else js.reverse
  js.map (fun j =>
    let num : Int := (p : Int) * ((if neg then -1 else 1) * ((2 * j + 1 : Nat) : Int) * d - 2 * kq * r0)
    let den : Int := 2 * kq * (r1 - r0)
    ((divHalfEven (if den < 0 then -num else num) den.natAbs).toNat, decide (xa < xb), neg))

/-- Count changes of a period, with x unbounded where r is not 0 (v̄ ≤ 0, R125): `z` is the instant at which r is 0. -/
def nlmJump (p z : Nat) (r0 r1 : Int) (limit : Nat) (positive : Bool) : List (Nat × Bool × Bool) :=
  let live := fun (r : Int) => r ≠ 0 && !(positive && r < 0)
  let fall := if live r0 && (r1 = 0 || (0 < r0) != (0 < r1)) then List.replicate limit (if r1 = 0 then p else z, false, decide (r0 < 0)) else []
  let rise := if live r1 && (r0 = 0 || (0 < r0) != (0 < r1)) then List.replicate limit (if r0 = 0 then 0 else z, true, decide (r1 < 0)) else []
  fall ++ rise

/-- The plan in hand: bridge states, changes decided, and how many were deferred (R127). -/
structure NlmWork where
  cur : List (Nat × Int)
  plan : List (Nat × Nat × Int) := []
  deferred : Nat := 0

/-- A stall's bridge state in the plan in hand. -/
def NlmWork.get (w : NlmWork) (i : Nat) : Int := ((w.cur.find? (fun p => p.1 = i)).map (fun p => p.2)).getD 0

/-- A stall changes to `b` at CTB `t`. -/
def NlmWork.change (w : NlmWork) (i t : Nat) (b : Int) : NlmWork :=
  { w with cur := w.cur.map (fun p => if p.1 = i then (i, b) else p), plan := w.plan ++ [(i, t, b)] }

/-- Whether a stall has changed in this period. -/
def NlmWork.changed (w : NlmWork) (i : Nat) : Bool := w.plan.any (fun p => p.1 = i)

/-- The wanted set at t_{k+1}: each stall of the order with its wanted state (R127 rule 1). -/
def NlmWork.start (t1 : Nat) (w : NlmWork) : List (Nat × Int) → NlmWork
  | [] => w
  | (i, want) :: rest =>
    let c := w.get i
    let w := if c = want then w
      else if c = 0 || want = 0 then w.change i t1 want
      else { w.change i t1 0 with deferred := w.deferred + 1 }
    NlmWork.start t1 w rest

/-- One change of n at OFFSET `off` (R127 rules 2 to 4). -/
def NlmWork.step (t1 p : Nat) (order : List Nat) (w : NlmWork) (e : Nat × Bool × Bool) : NlmWork :=
  if p ≤ e.1 then w
  else
    let pick := if e.2.1 then order.find? (fun i => w.get i = 0 && !w.changed i)
      else order.reverse.find? (fun i => w.get i ≠ 0 && !w.changed i)
    match pick with
    | none => { w with deferred := w.deferred + 1 }
    | some i => w.change i (t1 + e.1) (if e.2.1 then (if e.2.2 then -1 else 1) else 0)

/-- The bridge changes of an arm in the period from `t1`, and how many are deferred (R125, R127): `bridge` gives each stall's state. -/
def nlmPlan (t1 p : Nat) (r0 r1 : Int) (kq : Nat) (vbar : Int) (order : List Nat) (bridge : Nat → Int) (limit : Nat)
    (positive : Bool) : List (Nat × Nat × Int) × Nat :=
  let d := 65536 * vbar.toNat
  let split := (r0 < 0 && 0 < r1) || (0 < r0 && r1 < 0)
  let z := if split then (divHalfEven ((p : Int) * r0.natAbs) (r0.natAbs + r1.natAbs)).toNat else 0
  let neg0 := decide (r0 < 0 || (r0 = 0 && r1 < 0))
  let n0 := if vbar ≤ 0 then (if nlmX 1 positive r0 = 0 then 0 else limit)
    else min (nlmStart (nlmX kq positive r0) (nlmX kq positive r1) d) limit
  let evs := if vbar ≤ 0 then nlmJump p z r0 r1 limit positive
    else if split then nlmPiece p r0 r1 r0 0 neg0 kq d limit positive ++ nlmPiece p r0 r1 0 r1 (!neg0) kq d limit positive
    else nlmPiece p r0 r1 r0 r1 neg0 kq d limit positive
  let sg : Int := if neg0 then -1 else 1
  let wants := (order.take n0).map (fun i => (i, sg)) ++ (order.drop n0).map (fun i => (i, (0 : Int)))
  let w := NlmWork.start t1 { cur := order.map (fun i => (i, bridge i)) } wants
  let w := evs.foldl (fun w e => w.step t1 p order e) w
  (w.plan, w.deferred)

/-! ### From leg states to entries (R132–R134) -/

/-- A leg while its entries are made. -/
structure LegWork where
  /-- state the leg is in -/
  cur : Nat
  /-- CTB at which its last switch turned off -/
  offAt : Option Nat
  /-- switch last turned on -/
  lastOn : Nat
  /-- an incoming entry not yet passed -/
  busy : Option Nat
  /-- CTB and number of the last incoming entry that belongs to this period -/
  inAt : Option (Nat × Nat) := none
  /-- entries made: CTB and state, newest first -/
  ents : List (Nat × Nat) := []
  /-- changes that R133 drops -/
  drop : Option (Nat × Nat) := none
  /-- a change falls in the next period -/
  stop : Bool := false

/-- The off entry at `o`, moved past an incoming entry not yet passed (log 21), and the incoming entry DT later (R132). -/
def LegWork.offThenOn (w : LegWork) (t2 dt o tgt i : Nat) : LegWork :=
  let o := match w.busy with
    | some b => if o ≤ b then b + 1 else o
    | none => o
  if t2 ≤ o then { w with stop := true }
  else if tgt = 0 then { w with cur := 0, offAt := some o, busy := none, inAt := none, ents := (o, 0) :: w.ents }
  else
    { w with cur := tgt, offAt := some o, lastOn := tgt, busy := some (o + dt), inAt := some (o + dt, i)
             ents := (o + dt, tgt) :: (o, 0) :: w.ents }

/-- One change of a leg to state `tgt` at `tau`, number `i` (R132, R133). -/
def LegWork.step (t1 t2 dt minOn : Nat) (centre : Bool) (w : LegWork) (c : Nat × Nat × Nat) : LegWork :=
  let i := c.1
  let tau := c.2.1
  let tgt := c.2.2
  if w.stop || w.drop.isSome || tgt = w.cur then w
  else
    let off := if w.cur = 0 then none else some (if tgt ≠ 0 && centre then max (tau - dt / 2) t1 else tau)
    match off with
    | none =>
      let on := match w.offAt with
        | some o => if w.lastOn ≠ 0 && w.lastOn ≠ tgt then max tau (o + dt) else tau
        | none => tau
      { w with cur := tgt, lastOn := tgt, busy := some on, inAt := some (on, i), ents := (on, tgt) :: w.ents }
    | some o =>
      match w.inAt with
      | some (a, j) =>
        if minOn ≠ 0 && o < a + minOn then { w with drop := some (j, i) }
        else w.offThenOn t2 dt o tgt i
      | none => w.offThenOn t2 dt o tgt i

/-- Changes with their numbers. -/
def numbered : Nat → List (Nat × Nat) → List (Nat × Nat × Nat)
  | _, [] => []
  | i, c :: t => (i, c) :: numbered (i + 1) t

/-- The entries of a leg, R133 dropping pairs of changes until none is too short: entries in time order, pairs dropped. -/
def buildLeg (t1 t2 dt minOn : Nat) (centre : Bool) (w : LegWork) : Nat → List (Nat × Nat × Nat) → List (Nat × Nat) × Nat
  | 0, _ => ([], 0)
  | fuel + 1, cs =>
    let r := cs.foldl (fun x c => LegWork.step t1 t2 dt minOn centre x c) w
    match r.drop with
    | none => (r.ents.reverse, 0)
    | some (j, i) =>
      let x := buildLeg t1 t2 dt minOn centre w fuel (cs.filter (fun c => c.1 ≠ j && c.1 ≠ i))
      (x.1, x.2 + 1)

/-- An entry put at its place: by OFFSET, then by leg; of two of one leg at one OFFSET the later made stays (R134). -/
def insertEntry (e : Nat × Nat × Nat) : List (Nat × Nat × Nat) → List (Nat × Nat × Nat)
  | [] => [e]
  | x :: t =>
    if x.1 = e.1 && x.2.1 = e.2.1 then e :: t
    else if e.1 < x.1 || (e.1 = x.1 && e.2.1 < x.2.1) then e :: x :: t
    else x :: insertEntry e t

end Sys2Proof.Machine
end

