-- ==== Sys2Proof/Machine/Edge.lean ====
section
/-! DEFINITION. The edge synthesiser: commits, cut-offs, command deadlines and schedules (R115–R145). -/

namespace Sys2Proof.Machine

open Sys2Proof

/-- An arm in the synthesiser. -/
def State.ea (s : State) (a : Nat) : EdgeA := KMap.get (fun _ => {}) s.edge.arm a

/-- An arm in the synthesiser replaced. -/
def State.setEa (s : State) (a : Nat) (x : EdgeA) : State := { s with edge := { s.edge with arm := KMap.set (fun _ => {}) s.edge.arm a x } }

/-! ### The shadow and its check (R137–R140) -/

/-- Whether an address is one of the shadow registers. -/
def isShadow (a : Nat) : Bool :=
  a = A.EDGE_PRECHG || (A.EDGE_ARM_MODE 0 ≤ a && a < A.EDGE_ARM_MODE 6) || (A.EDGE_STALL 0 ≤ a && a < A.EDGE_STALL 192)

/-- The shadow as it stands. -/
def State.shadow (s : State) : KMap Word := s.regs.filter (fun p => isShadow p.1)

/-- A field of a set of EDGE settings. -/
def setGet (m : KMap Word) (f : Fld) : Nat := f.read (KMap.get RegMap.resetWord m f.reg)

/-- The settings of arm `a` in a set. -/
def armSet (m : KMap Word) (a : Nat) : ArmSet where
  mv := setGet m (F.EDGE_ARM_MODE_MV_MODE a)
  iso := setGet m (F.EDGE_ARM_MODE_ISO_MODE a)
  stag := setGet m (F.EDGE_ARM_MODE_ISO_STAG a) ≠ 0
  centre := setGet m (F.EDGE_ARM_MODE_DT_CENTRE a) ≠ 0
  nSlots := setGet m (F.EDGE_ARM_MODE_N_SLOTS a)
  minOn := setGet m (F.EDGE_ARM_MODE_MIN_ON a)
  dtMv := setGet m (F.EDGE_ARM_DT_DT_MV a)
  dtIso := setGet m (F.EDGE_ARM_DT_DT_ISO a)
  cr := setGet m (F.EDGE_ARM_CR a)
  half := setGet m (F.EDGE_ARM_ISO a)
  kq := setGet m (F.EDGE_ARM_KQ a)
  slew := setGet m (F.EDGE_ARM_SLEW a)

/-- The settings arm `a` runs on: OFF where it failed the check at START (R140). -/
def State.armNow (s : State) (a : Nat) : ArmSet :=
  let x := armSet s.edge.active a
  if s.edge.off.testBit a then { x with mv := 0, iso := 0 } else x

/-- PSC_SLOT of a stall in a set. -/
def slotOf (m : KMap Word) (i : Nat) : Nat := setGet m (F.EDGE_STALL_PSC_SLOT i)

/-- FORCE_OFF of a stall, as it acts (R145). -/
def State.forceOff (s : State) (m : KMap Word) (i : Nat) : Nat := if s.edge.ovr then setGet m (F.EDGE_STALL_FORCE_OFF i) else 0

/-- Entries of a leg of the isolation stage in a period of `p` ticks (R135). -/
def isoBudget (p half : Nat) : Nat := 2 * (4 * p / (3 * max half 1) + 1) + 1

/-- The worst-case entry count E of a stall (R135). DEDUCED, log 59. -/
def State.budgetE (s : State) (m : KMap Word) (p i : Nat) : Nat :=
  let x := armSet m (s.armOf i)
  let legs := (bitIndices 6 (s.legEn i)).filter (fun l => !(s.forceOff m i).testBit l)
  let forced := ((bitIndices 6 (s.legEn i)).filter (fun l => (s.forceOff m i).testBit l)).length
  let mvLegs := (legs.filter (fun l => decide (l < 2))).length
  let isoLegs := (legs.filter (fun l => decide (2 ≤ l))).length
  let nc := (p + max x.cr 1 - 1) / max x.cr 1 + 1
  let mv := if x.mv = 1 then mvLegs * (2 * nc + 1) else if x.mv = 2 then (if mvLegs = 0 then 0 else 3) else mvLegs
  let iso := if x.iso = 0 then isoLegs else isoLegs * isoBudget p x.half
  let pre := mvLegs + isoLegs * isoBudget p x.half
  forced + (if s.lkState i = lkPrecharge then max (mv + iso) pre else mv + iso)

/-- Arm `a` runs PSC or staggered isolation in RUN, on the active set; an arm that the START check put OFF runs neither (R140). DEDUCED, log 60. -/
def State.slotsLive (s : State) (a : Nat) (live : Bool) : Bool :=
  let x := armSet s.edge.active a
  live && s.yardState = yardRun && s.armEn a && !s.edge.off.testBit a && (x.mv = 1 || x.stag)

/-- The first code of an arm in a set, 0 where it passes (R140). -/
def State.commitArm (s : State) (m : KMap Word) (live : Bool) (a : Nat) : Nat :=
  let x := armSet m a
  let pre := s.enabledList.any (fun i => s.armOf i = a && s.lkState i = lkPrecharge)
  if x.mv = 3 then 1
  else if (x.mv = 1 && (x.cr < 2500 || 25000000 < x.cr)) || ((x.iso ≠ 0 || pre) && (x.half < 16667 || 500000 < x.half)) ||
      x.nSlots = 0 || 96 < x.nSlots then 2
  else if x.dtMv = 0 || 10000 < x.dtMv || x.dtIso = 0 || 10000 < x.dtIso then 3
  else if x.iso ≠ 0 && (x.slew = 0 || 8192 < x.slew) then 4
  else if x.mv = 2 && x.kq = 0 then 5
  else if s.slotsLive a live && x.nSlots ≠ (armSet s.edge.active a).nSlots then 6
  else 0

/-- The first code of a stall in a set, 0 where it passes (R140). -/
def State.commitStall (s : State) (m : KMap Word) (live : Bool) (p i : Nat) : Nat :=
  let a := s.armOf i
  let x := armSet m a
  if s.slotsLive a live && slotOf m i ≠ slotOf s.edge.active i then 6
  else if (x.mv = 1 || x.stag) && x.nSlots ≤ slotOf m i then 7
  else if 24 < s.budgetE m p i then 8
  else 0

/-- The commit check: code and name of the first failure, (0, 0) where none fails (R140). DESIGN CHOICE, log 206. -/
def State.commitCheck (s : State) (m : KMap Word) (live : Bool) (p : Nat) : Nat × Nat :=
  match firstFail (List.range 6) (s.commitArm m live) (fun a => 0xF0 + a) with
  | some r => r
  | none => (firstFail s.enabledList (s.commitStall m live p) id).getD (0, 0)

/-- A copy is checked and becomes the active set, or is discarded (R137, R140). -/
def State.concludeCommit (s : State) (m : KMap Word) (live : Bool) (p : Nat) : State :=
  let r := s.commitCheck m live p
  let s := (s.complete A.EDGE_CHECK (256 * r.1 + r.2)).put F.EDGE_STAT_APPLYING 0
  if r.1 = 0 then { s with edge := { s.edge with active := m, off := 0, copy := none } }.raise Base.EDGE 0
  else
    ((({ s with edge := { s.edge with copy := none } }.put F.EDGE_FAULT_STAT_CFG_REJECT 1).cnt
      F.EDGE_ERR_COUNT_CFG_REJECT_COUNT).raise Base.EDGE 1)

/-- COMMIT written 1: it waits for the cut-off, or in CONFIG and CHECKED is copied, checked and applied (R137, R138). -/
def State.edgeCommit (s : State) : State :=
  if s.running then s.put F.EDGE_CTRL_COMMIT 1
  else (s.put F.EDGE_CTRL_COMMIT 0).concludeCommit s.shadow false (s.halfUs * 2500)

/-- EDGE_COMMIT (R137, R138). -/
def execEdgeCommit (s : State) : Host.Outcome State Fault Refusal := .next s.edgeCommit

/-- HOLD_ACTIVE follows DBG_HOLD as sampled and the engine's debug halt; a release presets every enabled arm (R142, R184). -/
def State.holdUpdate (s : State) : State :=
  let now := s.edge.hold || s.on F.CME_DBG_STAT_HALTED
  if now = s.on F.EDGE_STAT_HOLD_ACTIVE then s
  else
    let s := (s.put F.EDGE_STAT_HOLD_ACTIVE (b2n now)).raise Base.EDGE 5
    if now then s else ((List.range 6).filter s.armEn).foldl (fun t a => t.presetArm a) s

/-- The reload edge of the lanes that carry enabled records, ticks after t_k, a whole fabric cycle (R137). -/
def State.reloadOff (s : State) : Nat :=
  let ls := (List.range 48).filter (fun n => s.onLane n ≠ [])
  ls.foldl (fun m n => max m ((s.ulCutoff n + 9) / 10 * 10)) 0

/-- ENABLE of every record as a mask. -/
def State.enabMask (s : State) : Nat := s.enabledList.foldl (fun m i => setBit m i) 0

/-- YARD_CONV words by set and class (R51). -/
def State.convSample (s : State) : KMap Word :=
  (s.regs.filter (fun p => A.YARD_CONV 0 ≤ p.1 && p.1 < A.YARD_CONV 64)).map (fun p => ((p.1 - A.YARD_CONV 0) / 4, p.2))

/-- Blocks of a POUT part of `n` words beside its control and CRC blocks, summed over the parts of `w` words (R370). -/
def poutBlocks (w : Nat) : Nat :=
  (List.range ((w + 127) / 128)).foldl (fun t i => t + (2 + (min 128 (w - 128 * i) + 3) / 4)) 0

/-- The pair-link check of a mirror mask (R370). -/
def State.mirrorOk (s : State) (mask : Nat) : Bool :=
  14 + poutBlocks (s.sortList.length * popcount 16 mask) ≤ s.perTicks / 64

/-- MIRROR_MASK as it acts (R370). -/
def State.mirrorMask (s : State) : Nat :=
  let m := s.get F.PAIR_CFG_MIRROR_MASK
  if s.mirrorOk m then m else 0

/-- What the cut-off cycle copies and samples (R51, R93, R137, R160, R370). -/
def State.cutoffSample (s : State) : State :=
  let s := { s with
    pair := { s.pair with mask := s.mirrorMask }
    edge := { s.edge with cut := true, hold := s.on F.EDGE_CTRL_DBG_HOLD, ovr := s.on F.EDGE_GUARD, enab := s.enabMask - (s.enabMask &&& s.edge.left), left := 0
                          haltCut := s.on F.CME_DBG_STAT_HALTED }
    convNext := s.convSample }
  let s := s.balSample.holdUpdate
  if s.on F.EDGE_CTRL_COMMIT then
    (({ s with edge := { s.edge with copy := some s.shadow } }.startRes A.EDGE_CHECK).put F.EDGE_CTRL_COMMIT 0).put F.EDGE_STAT_APPLYING 1
  else s

/-- EDGE_CUTOFF (R137): the cycle 4 cycles before the reload edge. -/
def execEdgeCutoff (s : State) : Host.Outcome State Fault Refusal :=
  if s.running && !s.edge.cut && !s.edge.edge && !s.time.stopped then
    .next ((s.untilCtb (s.yard.tk + (s.get F.EDGE_RELOAD - 4 * cyc))).cutoffSample)
  else .next s

/-- At START the active set is checked against the new P: arms that fail run OFF (R140). -/
def State.edgeStartCheck (s : State) : State :=
  let p := s.perTicks
  let m := s.edge.active
  let bad := (List.range 6).filter (fun a =>
    s.commitArm m false a ≠ 0 || s.enabledList.any (fun i => s.armOf i = a && s.commitStall m false p i ≠ 0))
  let s := { s with edge := { s.edge with off := bad.foldl (fun x a => setBit x a) 0 } }
  if bad = [] then s else s.raise Base.EDGE 1

/-! ### Kinds and deadlines (R118, R119) -/

/-- DEGRADED of an arm (R181). -/
def State.degraded (s : State) (a : Nat) : Bool := s.bitOf F.CME_STAT_DEGRADED a

/-- Whether arm `a` receives coast schedules (R119, R142). -/
def State.armCoasts (s : State) (a : Nat) : Bool :=
  s.armEn a && (s.yardState = yardStopping || s.warmup || s.on F.EDGE_STAT_HOLD_ACTIVE || s.degraded a || (s.ba a).st = 3)

/-- The kind of schedule stall `i` receives (R119). -/
def State.kindNow (s : State) (i : Nat) : EKind :=
  let lk := s.lkState i
  if lk = lkRemoving then (if (s.link i).removal.isSome then .removing else .none)
  else if !s.enabled i then .none
  else if lk = lkFaulted then .closed
  else if lk = lkPrecharge then (if s.armCoasts (s.armOf i) then .coast else .precharge)
  else if lk = lkActive then (if s.armCoasts (s.armOf i) then .coast else .active)
  else .none

/-- The kinds are fixed at the reload edge; arms that coast start NLM afresh (R119, R125). -/
def State.fixKinds (s : State) : State :=
  let coast := (List.range 6).filter s.armCoasts
  let s := s.put F.EDGE_STAT_ARM_COAST (coast.foldl (fun m a => setBit m a) 0)
  let s := coast.foldl (fun t a => t.setEa a { t.ea a with r0 := none }) s
  stalls.foldl (fun t i => t.setEs i { t.es i with kind := t.kindNow i }) { s with edge := { s.edge with edge := true } }

/-- S of each enabled record of a lane from the last to the first, in 1/640 tick after t_k (R118). -/
def cdChain (f : Nat) (due : Nat → Nat) : List Nat → Option Nat → List (Nat × Nat)
  | [], _ => []
  | i :: t, none => let x := due i - f; (i, x) :: cdChain f due t (some x)
  | i :: t, some y => let x := min (due i - f) (y - f); (i, x) :: cdChain f due t (some x)

/-- CD of stall `i`, in 1/640 tick after t_k (R118). -/
def State.cd640 (s : State) (i : Nat) : Nat :=
  let n := s.laneOf i
  let l := cdChain (16 * s.blockB n * 64) s.dlDue640 (s.onLane n).reverse none
  ((l.find? (fun p => p.1 = i)).map (fun p => p.2)).getD (s.dlDue640 i) - 500 * 640

/-- The fabric cycle of stall `i`'s deadline has passed (R141). -/
def State.cdPassed (s : State) (i : Nat) : Bool := s.cd640 i / 6400 < (s.ctb - s.yard.tk) / 10

/-- A mark issued in this cycle, which makes its stall ready from the next cycle on, comes after the cycle of stall `i`'s deadline (R141, R175). -/
def State.cdLate (s : State) (i : Nat) : Bool := s.cd640 i / 6400 < (s.ctb - s.yard.tk) / 10 + 1

/-- Whether the inputs of stall `i` from the engine are ready: its mark, and in NLM its arm's (R117, R118). -/
def State.isMarked (s : State) (i : Nat) : Bool :=
  (s.es i).inC.isSome && ((s.armNow (s.armOf i)).mv ≠ 2 || (s.es i).inA.isSome)

/-- C0–C15 of stall `i` as committed. -/
def State.slotsC (s : State) (i : Nat) : List Int := (List.range 16).map (s.slotC i)

/-- MARK of stall `i`: its slots are taken for the schedule in hand, or for the next once they have been taken or its CD has passed
(R117, R118, R141, R175). DEDUCED, log 177. -/
def State.markStall (s : State) (i : Nat) : State :=
  let x := s.es i
  let late := s.cdLate i || x.inC.isSome || (s.edge.taken.testBit i && x.kind = .active && !(s.bs i).byp)
  s.setEs i (if late then { x with inCNext := some (s.slotsC i) } else { x with inC := some (s.slotsC i) })

/-- MARK of arm `a` as stall `i` of it takes it. -/
def State.markArmAt (s : State) (a i : Nat) : State :=
  let x := s.es i
  let w := s.getS (F.EDGE_ACMD0 a)
  let late := s.cdLate i || x.inA.isSome || (s.edge.taken.testBit i && x.kind = .active && !(s.bs i).byp)
  s.setEs i (if late then { x with inANext := some w } else { x with inA := some w })

/-- MARK of arm `a`: each of its stalls takes A0 for the schedule in hand where its own CD lies ahead, else for the next (R117, R118, R175). -/
def State.markArm (s : State) (a : Nat) : State := (s.inArm a).foldl (fun (t : State) i => t.markArmAt a i) s

/-- Command slot `c` of stall `i` as its schedule uses it: as taken at the mark, else as committed (R118, R141). -/
def State.takenC (s : State) (i c : Nat) : Int :=
  match (s.es i).inC with
  | some l => l.getD c 0
  | none => s.slotC i c

/-- A0 of arm `a` as stall `i`'s schedule uses it. -/
def State.takenA (s : State) (a i : Nat) : Int := (s.es i).inA.getD (s.getS (F.EDGE_ACMD0 a))

/-- The period's misses of served stalls: arms with a stall in the sort, bypass order 0, whose inputs were not ready (R181). -/
def State.notServed (s : State) : Nat :=
  s.sortList.foldl (fun m i => if !(s.bs i).byp && !s.isMarked i then setBit m (s.armIn i) else m) 0

/-- The synthesiser enters a period: marks given late serve it, RELOAD_OFF is recomputed, r₀ is the reference last served (R125, R137,
R141). DEDUCED, log 55. -/
def State.edgeBoundary (s : State) : State :=
  let s := (List.range 6).foldl
    (fun t a =>
      let x := t.ea a
      t.setEa a { r0 := if x.r1.isSome then x.r1 else if t.bitOf F.EDGE_STAT_ARM_COAST a then none else some (t.getS (F.EDGE_ACMD0 a)) }) s
  let s := stalls.foldl (fun (t : State) i =>
    t.setEs i { t.es i with inC := (t.es i).inCNext, inCNext := none, inA := (t.es i).inANext, inANext := none }) s
  let s := { s with edge := { s.edge with cut := false, edge := false, taken := 0 } }
  s.put F.EDGE_RELOAD s.reloadOff

/-! ### One schedule (R119–R136) -/

/-- Faults and counters of R127, R133, R136. -/
def State.note (s : State) (fault counter : Fld) (n bit : Nat) : State :=
  if n = 0 then s else ((s.put fault 1).cnt counter n).raise Base.EDGE bit

/-- The bridge changes of arm `a` for the next period are decided with reference `r1` at its end: once a period, and again from the same bridges
where stalls of the arm take another A0 (R118, R125, R127). -/
def State.planArm (s : State) (a : Nat) (r1 : Int) : State :=
  let x := s.ea a
  if x.r1 = some r1 then s
  else
    let order := (s.ba a).order
    let positive := s.get F.YARD_CFG_TOPOLOGY = 2 || !order.any (fun i => (s.legIn i).testBit 1)
    let now := fun i => let h := (s.es i).sent; bridgeOf h.l0 h.l1 (!(s.legIn i).testBit 1)
    let bridges := if x.r1.isSome then x.bridges else order.map (fun i => (i, now i))
    let bridge := fun i => ((bridges.find? (fun p => p.1 = i)).map (fun p => p.2)).getD (now i)
    let limit := ((s.selectable (s.members a)).filter (fun i => s.kindIn i ≠ 2)).length
    let p := nlmPlan (s.yard.tk + s.perTicks) s.perTicks (x.r0.getD r1) r1 (s.armNow a).kq (s.ba a).vbar order bridge limit positive
    (s.setEa a { x with r1 := some r1, plan := p.1, defers := max p.2 x.defers, bridges := bridges }).note F.EDGE_FAULT_STAT_NLM_DEFER
      F.EDGE_NLM_DEFER (p.2 - x.defers) 6

/-- C8 of a precharge (R94, R130), per unit: the mean M0 is a free value where nothing of the arm is sorted (log 8). DEDUCED, log 57. -/
def State.prechargePhi (s : State) (i : Nat) : Q :=
  let x := s.link i
  let am := s.armM0 (s.armOf i)
  let varm : Q := if am.2 = 0 then ⟨sx 16 (s.free 16), 1⟩ else Q.of am.1 am.2
  let ramp := (s.prechgMs i * 2000 + s.yard.half - 1) / s.yard.half
  let frac : Q := if ramp ≤ x.n then ⟨1, 1⟩ else Q.of x.n ramp
  let v0 : Q := ⟨x.v0, 1⟩
  let target := v0.add (frac.mul (varm.sub v0))
  let m0 : Q := ⟨s.slotM i 0, 1⟩
  let kpc : Q := Q.of (setGet s.edge.active F.EDGE_PRECHG_K_PC) 256
  let lim : Q := ⟨setGet s.edge.active F.EDGE_PRECHG_PC_PHI_MAX, 1⟩
  (Q.clamp lim (kpc.mul (m0.sub target))).mul ⟨1, 32768⟩

/-- D1 or D2 from a command slot: a negative value reads as 0 (R121). -/
def shiftQ (c : Int) : Q := Q.of (max c 0) 32768

/-- The isolation legs of a period: waves of L2–L5 and the record with the applied shifts (R128–R130). -/
def State.isoLegs (s : State) (i t1 t2 : Nat) (x : ArmSet) (pre : Bool) (h : Hist) : List LegPlan × Hist :=
  if x.iso = 0 && !pre then (List.replicate 4 (.fixed 0), { h with isoOn := false })
  else
    let tphi := if pre then s.prechargePhi i else Q.of (s.takenC i 8) 32768
    let td1 : Q := if pre || x.iso = 1 then {} else shiftQ (s.takenC i 9)
    let td2 : Q := if pre || x.iso = 1 then {} else if x.iso = 2 then td1 else shiftQ (s.takenC i 10)
    let r := slewIso x.half x.slew h.isoOn h.phi h.d1 h.d2 tphi td1 td2
    let th : Q := if x.stag then Q.of (slotOf s.edge.active i * 2 * x.half) (max x.nSlots 1) else {}
    ((isoPhases x.half th r.1 r.2.1 r.2.2).map (fun psi => .wave (isoWave t1 t2 x.half psi)),
      { h with isoOn := true, phi := r.1, d1 := r.2.1, d2 := r.2.2 })

/-- The legs of the MV-side bridge of a period, and the record with the carrier's reference and the zero leg (R122–R127, R130). -/
def State.mvLegs (s : State) (i t1 t2 : Nat) (x : ArmSet) (pre : Bool) (h : Hist) : List LegPlan × Hist :=
  let half := !(s.legEn i).testBit 1
  let c0 := s.takenC i 0
  let th := slotOf s.edge.active i * (x.cr / max x.nSlots 1)
  let atVertex := x.cr ≠ 0 && firstVertex t1 th x.cr < t2
  let h' := if atVertex then { h with pscM := c0, wait := false } else h
  let ref := fun (m : Int) => if half then max m 0 else m
  if pre then ([.fixed 2, .fixed 2], h)
  else if x.mv = 1 then
    ([.wave (pscWave t1 t2 x.cr th (ref h.pscM) (ref c0) h.wait), .wave (pscWave t1 t2 x.cr th (-h.pscM) (-c0) h.wait)], h')
  else if x.mv = 2 then
    let change := (s.ea (s.armOf i)).plan.find? (fun p => p.1 = i)
    let w := nlmWave t1 h.l0 h.l1 h.zeroLeg (change.map (fun p => (p.2.1, p.2.2))) half
    ([.wave w.1, .wave w.2.1], h')
  else ([.fixed 0, .fixed 0], h')

/-- The leg that drives leg `l` under the swaps in force (R131). -/
def State.swapOf (s : State) (i l : Nat) : Nat :=
  let on := fun (f : Fld) => s.edge.ovr && setGet s.edge.active f ≠ 0
  let f := if l < 2 then F.EDGE_STALL_SWAP_MV i else if l < 4 then F.EDGE_STALL_SWAP_PRI i else F.EDGE_STALL_SWAP_SEC i
  if on f then (if l % 2 = 0 then l + 1 else l - 1) else l

/-- Whether leg `l` is inverted (R131). -/
def State.inverted (s : State) (i l : Nat) : Bool := s.edge.ovr && (setGet s.edge.active (F.EDGE_STALL_INV i)).testBit l

/-- Upper and lower exchanged. -/
def flip (b : Bool) (st : Nat) : Nat := if b && st ≠ 0 then 3 - st else st

/-- The legs after swap, inversion and forcing off (R131 steps 1 to 3). -/
def State.overridden (s : State) (i : Nat) (legs : List LegPlan) : List LegPlan :=
  (List.range 6).map (fun l =>
    let b := s.inverted i l
    if (s.forceOff s.edge.active i).testBit l then .fixed 0
    else
      match legs.getD (s.swapOf i l) (.fixed 0) with
      | .fixed st => .fixed (flip b st)
      | .wave pts => .wave (pts.map (fun p => (p.1, flip b p.2))))

/-- The entries of one leg and how many pulses R133 dropped. -/
def State.legEntries (s : State) (i t1 t2 : Nat) (x : ArmSet) (h : Hist) (l : Nat) (p : LegPlan) : List (Nat × Nat × Nat) × Nat :=
  let cur := h.legs.getD l 0
  let carried := (h.carried.find? (fun c => c.2.1 = l)).map (fun c => (max c.1 t1, c.2.2))
  let w : LegWork := { cur := cur, offAt := h.offAt.getD l none, lastOn := h.lastOn.getD l 0, busy := carried.map (fun c => c.1) }
  let dt := max (if l < 2 then x.dtMv else x.dtIso) (s.dtMin i)
  let own := match carried with
    | some c => [(c.1, l, c.2)]
    | none => []
  match p with
  | .fixed 0 => ([(t1, l, 0)], 0)
  | .fixed st =>
    if cur = st then ((t1, l, st) :: own, 0)
    else
      let r := buildLeg t1 t2 dt x.minOn x.centre w 1 [(0, t1, st)]
      (own ++ r.1.map (fun e => (e.1, l, e.2)), 0)
  | .wave pts =>
    let r := buildLeg t1 t2 dt x.minOn x.centre w (pts.length + 1) (numbered 0 pts)
    (own ++ r.1.map (fun e => (e.1, l, e.2)), r.2)

/-- The record after entries have been sent or carried (R117, R134, R136): `out` sent, `carry` carried, in time order. -/
def recordSent (h : Hist) (out carry : List (Nat × Nat × Nat)) : Hist :=
  let start := { h with legs := (List.range 6).map (fun l => if h.carried.any (fun c => c.2.1 = l) then 0 else h.legs.getD l 0) }
  let x := (out ++ carry).foldl
    (fun (g : Hist) e =>
      let l := e.2.1
      if e.2.2 = 0 then
        { g with legs := setAt g.legs l 0, offAt := if g.legs.getD l 0 = 0 then g.offAt else setAt g.offAt l (some e.1) }
      else { g with legs := setAt g.legs l e.2.2, lastOn := setAt g.lastOn l e.2.2 }) start
  { x with carried := carry }

/-- L0 and L1 of the bridge as the sent states leave them, before swap and inversion. -/
def State.logical (s : State) (i : Nat) (h : Hist) : Hist :=
  let st := fun l => let p := s.swapOf i l; if (s.legEn i).testBit p then flip (s.inverted i p) (h.legs.getD p 0) else 0
  { h with l0 := st 0, l1 := st 1 }

/-- The MV bridge after one entry (logical leg, state), with the leg that did not move on entering +1 or −1; from off that is the lower leg (R126). -/
def bridgeAfter (b : Nat × Nat × Nat) (l st : Nat) : Nat × Nat × Nat :=
  let mine := if l = 0 then b.1 else b.2.1
  let other := if l = 0 then b.2.1 else b.1
  let zl :=
    if st = mine || other = 0 || st = other then b.2.2
    else if mine = 0 then (if st = 2 then l else 1 - l)
    else 1 - l
  if l = 0 then (st, b.2.1, zl) else (b.1, st, zl)

/-- The leg that carries the return to 0 after the entries `sent`, whatever the MV_MODE that drove them (R126). -/
def State.zeroAfter (s : State) (i : Nat) (h : Hist) (sent : List (Nat × Nat × Nat)) : Nat :=
  let own := (sent.filter (fun e => decide (e.2.1 < 2) && decide (e.2.2 ≠ 0))).foldl
    (fun b e => bridgeAfter b (s.swapOf i e.2.1) (flip (s.inverted i e.2.1) e.2.2)) (h.l0, h.l1, h.zeroLeg)
  own.2.2

/-- The modulated or precharge entries of stall `i` for the period from `t1`: entries, record, pulses dropped, overflow (R131–R136). -/
def State.modulated (s : State) (i t1 t2 : Nat) (pre : Bool) : List Nat × Hist × Nat × Bool :=
  let x := s.armNow (s.armOf i)
  let h := (s.es i).sent
  let mv := s.mvLegs i t1 t2 x pre h
  let iso := s.isoLegs i t1 t2 x pre mv.2
  let legs := s.overridden i (mv.1 ++ iso.1)
  let parts := (bitIndices 6 (s.legEn i)).map (fun l => s.legEntries i t1 t2 x h l (legs.getD l (.fixed 0)))
  let all := parts.flatMap (fun p => p.1)
  let drops := parts.foldl (fun n p => n + p.2) 0
  let now := (all.filter (fun e => decide (e.1 < t2))).foldl (fun l e => insertEntry e l) []
  let cut := (now.drop 24).map (fun e => e.2.1)
  let out := now.take 24
  let carry := ((all.filter (fun e => decide (t2 ≤ e.1))).filter (fun e => !cut.contains e.2.1)).foldl (fun l e => insertEntry e l) []
  (out.map (fun e => edgeEntry (e.1 - t1) e.2.1 e.2.2), { s.logical i (recordSent iso.2 out carry) with zeroLeg := s.zeroAfter i h (out ++ carry) }, drops, decide (24 < now.length))

/-- C4–C7 of stall `i` as a reference carries them (R67). -/
def State.refSlots (s : State) (i : Nat) : List Nat := [4, 5, 6, 7].map (fun c => tc 16 (s.takenC i c))

/-- In COMPARE the slots a schedule uses are kept for the comparison (R201). -/
def State.noteUsed (s : State) (i : Nat) : State :=
  if s.cme.pad.st = .compare then
    let m := (List.range 16).foldl (fun m c => KMap.set (fun _ => 0) m (16 * i + c) (tc 16 (s.takenC i c))) s.cme.usedC
    { s with cme := { s.cme with usedC := m } }
  else s

/-- Stall `i`'s schedule for the next period is computed and becomes ready for its lane; a yielded stall gets none (R117–R120, R376).
DEDUCED, log 58. -/
def State.compute (s : State) (i : Nat) : State :=
  let x := s.es i
  let t1 := s.yard.tk + s.perTicks
  let t2 := t1 + s.perTicks
  let k := s.periodK + 1
  let opaqueShed := decide (s.kindOf i = 2)
  let s := { s with edge := { s.edge with taken := setBit s.edge.taken i } }.noteUsed i
  let done := fun (t : State) (sch : Sched) (h : Hist) =>
    let t := t.setEs i { t.es i with next := some h }
    t.setLink i { t.link i with ready := some sch }
  let base : Sched := { period := k, standby := s.standbyOf i }
  let closed := fun (rm : Bool) => done s { base with bypass := true, remove := rm } (offRecord x.sent t1)
  let opened := fun (t : State) (sch : Sched) (h : Hist) =>
    done t (if opaqueShed then { sch with isRef := true, entries := [], cmd := t.refSlots i } else sch) h
  if x.kind ≠ .none && s.yieldedNow i then
    match (s.link i).removal with
    | some m => s.setLink i { s.link i with removal := some (m - 1) }
    | none => s
  else match x.kind with
  | .none => s
  | .closed => closed false
  | .removing => closed true
  | .coast =>
    if x.sent.byp then closed false
    else opened s { base with entries := (bitIndices 6 (s.legEn i)).map (fun l => edgeEntry 0 l 0) } (offRecord x.sent t1)
  | .active =>
    if (s.bs i).byp then closed false
    else
      let s := if (s.armNow (s.armOf i)).mv = 2 && !opaqueShed then s.planArm (s.armOf i) (s.takenA (s.armOf i) i) else s
      if opaqueShed then opened s base (offRecord x.sent t1)
      else
        let r := s.modulated i t1 t2 false
        let s := s.note F.EDGE_FAULT_STAT_PULSE_DROP F.EDGE_PULSE_DROP r.2.2.1 4
        let s := s.note F.EDGE_FAULT_STAT_ENTRY_OVF F.EDGE_ENTRY_OVF (b2n r.2.2.2) 2
        opened s { base with entries := r.1 } r.2.1
  | .precharge =>
    let r := s.modulated i t1 t2 true
    let s := s.note F.EDGE_FAULT_STAT_PULSE_DROP F.EDGE_PULSE_DROP r.2.2.1 4
    let s := s.note F.EDGE_FAULT_STAT_ENTRY_OVF F.EDGE_ENTRY_OVF (b2n r.2.2.2) 2
    let s := if (s.armM0 (s.armOf i)).2 = 0 then s.drew else s
    let s := s.setLink i { s.link i with n := (s.link i).n + 1 }
    opened s { base with entries := r.1, prechg := true } (if opaqueShed then offRecord x.sent t1 else r.2.1)

/-- The inputs of a waiting stall's schedule are all available (R117). -/
def State.inputsReady (s : State) (i : Nat) : Bool :=
  (s.es i).kind ≠ .active || (s.bal.done && ((s.bs i).byp || s.isMarked i))

/-- The stall the edge units take next: lowest CD, then lowest number (R117). -/
def State.nextStall (s : State) : Option Nat :=
  (stalls.filter (fun i => s.waits i && s.inputsReady i)).foldl
    (fun o i => match o with
      | none => some i
      | some j => if s.cd640 i < s.cd640 j then some i else some j) none

/-- SCHEDULE_COMPUTE (R117): the edge units take the next stall whose last input is available. -/
def execScheduleCompute (s : State) : Host.Outcome State Fault Refusal :=
  match s.nextStall with
  | none => .next s
  | some i => .next (s.compute i)

/-- COMMAND_DEADLINE (R118): CD of stall `i` passes; where its inputs are not ready the last committed slots are reused. -/
def execCommandDeadline (i : Fin 192) (s : State) : Host.Outcome State Fault Refusal :=
  if !s.waits i.val then .next s
  else
    let s := s.untilCtb (s.yard.tk + s.cd640 i.val / 640)
    let reuse := (s.es i.val).kind = .active && !(s.bs i.val).byp && !s.isMarked i.val
    .next ((if reuse then s.note F.EDGE_FAULT_STAT_CMD_REUSE F.EDGE_CMD_REUSE 1 3 else s).compute i.val)

end Sys2Proof.Machine
end

