-- ==== Sys2Proof/Machine/Cme.lean ====
section
/-! DEFINITION. The control matrix engine: its registers and memories, and every instruction of its two units (R163–R178, R182, R186). -/

namespace Sys2Proof.Machine

open Sys2Proof

/-! ### Units, registers and rows (R166, R169, R172) -/

/-- A unit. -/
def State.eng (s : State) : EngUnit → EngU
  | .live => s.cme.u0
  | .shadow => s.cme.u1

/-- A unit replaced. -/
def State.setEng (s : State) (u : EngUnit) (x : EngU) : State :=
  match u with
  | .live => { s with cme := { s.cme with u0 := x } }
  | .shadow => { s with cme := { s.cme with u1 := x } }

/-- The fields of an instruction word (R172). -/
structure EInstr where
  op : Nat
  vd : Nat
  va : Nat
  vb : Nat
  ac : Nat
  xi : Nat
  sh : Nat
  prm : Bool
  mod : Nat
  addr : Nat
  num : Nat
  deriving DecidableEq, Repr

/-- An instruction word taken apart (R172). -/
def eDecode (w : Nat) : EInstr where
  op := bits w 63 56
  vd := bits w 55 52
  va := bits w 51 48
  vb := bits w 47 44
  ac := bits w 43 42
  xi := bits w 41 39
  sh := bits w 38 35
  prm := w.testBit 34
  mod := bits w 33 32
  addr := bits w 31 16
  num := bits w 15 0

/-- Opcodes of R173. -/
def eOpcodes : List Nat :=
  [0x00, 0x01, 0x02, 0x03, 0x04, 0x05, 0x08, 0x09, 0x0A, 0x0B, 0x0C, 0x0D, 0x0E, 0x10, 0x11, 0x12, 0x13, 0x14, 0x15, 0x16, 0x17, 0x18,
    0x19, 0x1A, 0x1B, 0x1C]

/-- Base of a unit's program RAM: BAR0 addresses name roles (R169, R186). -/
def progBase : EngUnit → Nat
  | .live => 0xC00000
  | .shadow => 0xD00000
/-- Base of a unit's coefficient RAM. -/
def coefBase : EngUnit → Nat
  | .live => 0xC40000
  | .shadow => 0xD40000
/-- Base of a unit's state RAM. -/
def stateBase : EngUnit → Nat
  | .live => 0xC80000
  | .shadow => 0xD80000

/-- Rows of the coefficient RAM, of the state RAM, and the first host row (R169, R170). -/
abbrev coefRows : Nat := 4096
abbrev stateRows : Nat := 2048
abbrev hostRow : Nat := 1984

/-- Word `pc` of a unit's program RAM. -/
def State.progWord (s : State) (u : EngUnit) (pc : Nat) : Nat := s.load (progBase u + 8 * pc) 8

/-- 32 zero lanes. -/
def zero32 : List Int := List.replicate 32 0

/-- Vector register `r`. -/
def EngU.vec (x : EngU) (r : Nat) : List Int := KMap.get (fun _ => zero32) x.v r
/-- Accumulator `a`. -/
def EngU.ac (x : EngU) (a : Nat) : List Int := KMap.get (fun _ => zero32) x.acc a
/-- Index register `i`; X0 reads 0. -/
def EngU.ix (x : EngU) (i : Nat) : Nat := if i = 0 then 0 else KMap.get (fun _ => 0) x.x i

/-- Whether lane `i` is written by an instruction with the given PRM bit. -/
def EngU.writes (x : EngU) (prm : Bool) (i : Nat) : Bool := !prm || x.pr.testBit i

/-- A list of 32 lanes. -/
def lanes32 (f : Nat → Int) : List Int := (List.range 32).map f

/-- Lane `i` of 32. -/
def laneI (l : List Int) (i : Nat) : Int := l.getD i 0

/-- Vector register `r` replaced in the lanes PRM lets through (R172). -/
def EngU.setVec (x : EngU) (r : Nat) (prm : Bool) (new : List Int) : EngU :=
  let old := x.vec r
  { x with v := KMap.set (fun _ => zero32) x.v r (lanes32 (fun i => if x.writes prm i then laneI new i else laneI old i)) }

/-- Accumulator `a` replaced. -/
def EngU.setAcc (x : EngU) (a : Nat) (new : List Int) : EngU := { x with acc := KMap.set (fun _ => zero32) x.acc a new }

/-- A row of samples at a BAR0 address. -/
def State.rowAt (s : State) (a : Nat) : List Int := lanes32 (fun i => sx 16 (s.load (a + 2 * i) 2))

/-- Coefficient row `r`; outside the memory 0 (R169). -/
def State.crow (s : State) (u : EngUnit) (r : Nat) : List Int := if r < coefRows then s.rowAt (coefBase u + 64 * r) else zero32

/-- State row `r`; outside the memory 0 (R169). -/
def State.srow (s : State) (u : EngUnit) (r : Nat) : List Int := if r < stateRows then s.rowAt (stateBase u + 64 * r) else zero32

/-- State row `r` written in the lanes `m`; outside the memory and in the host rows dropped (R169, R170). -/
def State.writeRow (s : State) (u : EngUnit) (r : Nat) (m : Nat → Bool) (vals : List Int) : State :=
  if r < hostRow then
    let a := stateBase u + 64 * r
    let t := (List.range 32).foldl (fun (t : State) i => if m i then t.store (a + 2 * i) 2 (tc 16 (laneI vals i)) else t) s
    (List.range 8).foldl (fun (t : State) g => if (List.range 4).any (fun j => m (4 * g + j)) then t.unpoison (a + 8 * g) 8 else t) t
  else s

/-! ### Faults of the engine (R166–R169, R187) -/

/-- A fault bit of CME_FAULT_STAT that raises CME_FAULT. -/
def State.cmeFault (s : State) (f : Fld) : State := (s.put f 1).raise Base.CME 6

/-- ADDR_ERR where `b` (R169). -/
def State.addrErr (s : State) (b : Bool) : State := if b then s.cmeFault F.CME_FAULT_STAT_ADDR_ERR else s

/-- SAT where `b`, the instruction counted once (R167). DEDUCED, log 65. -/
def State.satFlag (s : State) (b : Bool) : State := if b then (s.put F.CME_FAULT_STAT_SAT 1).cnt F.CME_SAT_COUNT else s

/-- ACC_OVF where `b` (R166). -/
def State.ovfFlag (s : State) (b : Bool) : State := if b then s.put F.CME_FAULT_STAT_ACC_OVF 1 else s

/-! ### Numbers (R166–R168) -/

/-- A sum held in an accumulator: at a bound where it leaves the range (R166). -/
def accClip (a : Int) : Int := clampI (-(2 ^ 39)) (2 ^ 39 - 1) a

/-- Writeback before its saturation: a × 2^SH / 2¹⁵, half to even (R167). -/
def wbRaw (a : Int) (sh : Nat) : Int := divHalfEven (a * 2 ^ sh) 32768

/-- Writeback (R167). -/
def wb (a : Int) (sh : Nat) : Int := sat16 (wbRaw a sh)

/-- Whether a result saturates. -/
def saturates (q : Int) : Bool := sat16 q ≠ q

/-- Products of two registers added to an accumulator, and whether a lane passed a bound (R166). -/
def macRow (acc a b : List Int) : List Int × Bool :=
  let s := lanes32 (fun i => laneI acc i + laneI a i * laneI b i)
  (s.map accClip, s.any (fun x => accClip x ≠ x))

/-! ### The instructions (R173) -/

/-- Effective address (R169). -/
def EngU.ea (x : EngU) (d : EInstr) : Nat := (d.addr + x.ix d.xi) % 2 ^ 16

/-- LDC (R173). -/
def State.opLdc (s : State) (u : EngUnit) (d : EInstr) : State :=
  let x := s.eng u
  (s.setEng u (x.setVec d.vd d.prm (s.crow u (x.ea d)))).addrErr (decide (coefRows ≤ x.ea d))

/-- LDS (R173). -/
def State.opLds (s : State) (u : EngUnit) (d : EInstr) : State :=
  let x := s.eng u
  (s.setEng u (x.setVec d.vd d.prm (s.srow u (x.ea d)))).addrErr (decide (stateRows ≤ x.ea d))

/-- STS (R173). -/
def State.opSts (s : State) (u : EngUnit) (d : EInstr) : State :=
  let x := s.eng u
  (s.writeRow u (x.ea d) (x.writes d.prm) (x.vec d.va)).addrErr (decide (hostRow ≤ x.ea d))

/-- Items GATH may name (R174). -/
def gathItem (n : Nat) : Bool :=
  n < 0x12 || (0x20 ≤ n && n < 0x35) || n = 0x38 || (0x40 ≤ n && n < 0x48) || (0x80 ≤ n && n < 0x100)

/-- Items SCAT may name (R174). -/
def scatItem (n : Nat) : Bool := (0x20 ≤ n && n < 0x30) || (0x80 ≤ n && n < 0x100)

/-- The uplink condition of slot `m`: its UP_VALID bit, and UP_PERIOD = k (R174); a poisoned record has no valid uplink (R333). -/
def State.upCond (s : State) (i m : Nat) : Bool :=
  s.slotValid i m && s.rword i offUpPeriod = s.periodK % 2 ^ 32 && !s.uplinkPoisoned i

/-- Item `n` of stall `i`: value and condition (R174). -/
def State.gathValue (s : State) (i n : Nat) : Int × Bool :=
  let a := s.armOf i
  let byp := s.get (F.BAL_RES_BYP i) ≠ 0
  let armOk := s.armEn a
  if n < 0x10 then (s.slotM i n, s.upCond i n)
  else if n = 0x10 then (sx 16 (s.recF i offUpStatus 16 16), s.upCond i 0)
  else if n = 0x11 then (sx 16 (s.recF i offUpStatus 0 16), s.upCond i 0)
  else if n < 0x30 then (s.slotC i (n - 0x20), s.inSort i)
  else if n = 0x30 then (s.getS (F.BAL_TRIM_SHARE i), s.inSort i && !byp)
  else if n = 0x31 then (s.getS (F.BAL_TRIM_MVT i), s.inSort i && !byp)
  else if n = 0x32 then (s.get (F.BAL_RES_RANK i), s.inSort i)
  else if n = 0x33 then (s.get (F.BAL_RES_BYP i), s.inSort i)
  else if n = 0x34 then (s.get (F.BAL_RES_V_AGE i), s.inSort i)
  else if n = 0x38 then (s.lkState i, s.enabled i)
  else if 0x80 ≤ n then (sx 16 (s.recF i (0x500 + 2 * (n - 0x80) / 4 * 4) (16 * (n % 2)) 16), s.enabled i)
  else if !armOk && 6 ≤ a then (0, false)
  else if n = 0x40 then (s.getS (F.BAL_ARM_MEAS_VBAR a), armOk)
  else if n = 0x41 then (s.getS (F.BAL_ARM_MEAS_I_ARM a), armOk)
  else if n = 0x42 then (s.get (F.BAL_ARM_STAT_L_AVAIL a), armOk)
  else if n = 0x43 then (s.get (F.BAL_ARM_STAT_STATE a), armOk)
  else (sx 16 ((s.reg (A.EDGE_ACMD0 a + 4 * (n - 0x44))).toNat), armOk)

/-- Whether a read of item `n` for stall `i` comes before its arm's delivery in this period (R174). DEDUCED, log 64. -/
def State.earlyBal (s : State) (i n : Nat) : Bool :=
  ((0x30 ≤ n && n ≤ 0x34) || (0x40 ≤ n && n ≤ 0x43)) && s.armEn (s.armOf i) && !s.bal.done

/-- GATH (R173, R174). -/
def State.opGath (s : State) (u : EngUnit) (d : EInstr) : State :=
  let x := s.eng u
  let n := d.num % 256
  let ea := x.ea d
  let ok := fun i => gathItem n && ea + i < 192
  let vals := lanes32 (fun i => if ok i then (s.gathValue (ea + i) n).1 else 0)
  let cond := (List.range 32).foldl (fun m i => if ok i && (s.gathValue (ea + i) n).2 then setBit m i else m) 0
  let early := (List.range 32).any (fun i => ok i && s.earlyBal (ea + i) n)
  let x := x.setVec d.vd false vals
  let x := if d.mod = 1 then { x with pr := cond } else if d.mod = 2 then { x with pr := x.pr &&& cond } else x
  let s := (s.setEng u x).addrErr (!gathItem n)
  if early then s.put F.CME_FAULT_STAT_EARLY_BAL 1 else s

/-- A pending slot of a unit written: `j` is 16 × stall + slot (R175, R186). -/
def State.setPend (s : State) (u : EngUnit) (j v : Nat) : State :=
  match u with
  | .live => { s with cme := { s.cme with pendC := KMap.set (fun _ => 0) s.cme.pendC j v } }
  | .shadow => { s with cme := { s.cme with pendC1 := KMap.set (fun _ => 0) s.cme.pendC1 j v } }

/-- One lane of a SCAT (R174, R175): the shadow unit's health halfwords go no further than its buffers. -/
def State.scatLane (s : State) (u : EngUnit) (i n : Nat) (v : Int) : State :=
  if n < 0x30 then s.setPend u (16 * i + (n - 0x20)) (tc 16 v)
  else
    match u with
    | .live => (s.store (0x800000 + 0x1000 * i + 0x500 + 2 * (n - 0x80)) 2 (tc 16 v)).unpoison
        (0x800000 + 0x1000 * i + (0x500 + 2 * (n - 0x80)) / 8 * 8) 8
    | .shadow => s

/-- SCAT (R173–R175). -/
def State.opScat (s : State) (u : EngUnit) (d : EInstr) : State :=
  let x := s.eng u
  let n := d.num % 256
  let ea := x.ea d
  let t := (List.range 32).foldl
    (fun t i => if scatItem n && ea + i < 192 && x.writes d.prm i then t.scatLane u (ea + i) n (laneI (x.vec d.va) i) else t) s
  t.addrErr (!scatItem n)

/-- The live unit commits stall `i`'s slots and marks it ready (R175). -/
def State.commitStallSlots (s : State) (i : Nat) : State :=
  let s := (List.range 16).foldl
    (fun (t : State) c => t.store (0x800000 + 0x1000 * i + offCmd + 2 * c) 2 (KMap.get (fun _ => 0) s.cme.pendC (16 * i + c))) s
  (s.unpoison (0x800000 + 0x1000 * i + offCmd) 32).markStall i

/-- The live unit commits arm `a`'s words and marks it ready (R175); the words it had by its latest deadline are kept for comparison. -/
def State.commitArmWords (s : State) (a : Nat) : State :=
  let old := (List.range 4).map (fun w => ((4 * a + w), (s.reg (A.EDGE_ACMD0 a + 4 * w)).toNat))
  let past := (s.inArm a) ≠ [] && (s.inArm a).all s.cdLate
  let s := if past then
      { s with cme := { s.cme with usedA := old.foldl (fun m p =>
        if (KMap.get (fun _ => none) m p.1).isSome then m else KMap.set (fun _ => none) m p.1 (some p.2)) s.cme.usedA } }
    else s
  ((List.range 4).foldl
    (fun (t : State) w => t.setReg (A.EDGE_ACMD0 a + 4 * w) (BitVec.ofNat 32 (KMap.get (fun _ => 0) s.cme.pendA (4 * a + w)))) s).markArm a

/-- The shadow unit commits stall `i`'s slots to the comparison buffers; after the deadline they count from the next period (R186,
R201). -/
def State.shadowStall (s : State) (i : Nat) : State :=
  let ws := (List.range 16).map (fun c => (16 * i + c, KMap.get (fun _ => 0) s.cme.pendC1 (16 * i + c)))
  if s.cdLate i then { s with cme := { s.cme with lateC := s.cme.lateC ++ ws } }
  else
    { s with cme := { s.cme with cmpC := ws.foldl (fun m p => KMap.set (fun _ => 0) m p.1 p.2) s.cme.cmpC
                                 shMarked := setBit s.cme.shMarked i } }

/-- The shadow unit commits arm `a`'s words likewise; an arm's deadline is the latest of its stalls (R201). -/
def State.shadowArm (s : State) (a : Nat) : State :=
  let ws := (List.range 4).map (fun w => (4 * a + w, KMap.get (fun _ => 0) s.cme.pendA1 (4 * a + w)))
  if (s.inArm a) ≠ [] && (s.inArm a).all s.cdLate then { s with cme := { s.cme with lateA := s.cme.lateA ++ ws } }
  else
    { s with cme := { s.cme with cmpA := ws.foldl (fun m p => KMap.set (fun _ => 0) m p.1 p.2) s.cme.cmpA
                                 shArm := setBit s.cme.shArm a } }

/-- MARK (R173, R175, R186). DEDUCED, log 63. -/
def State.opMark (s : State) (u : EngUnit) (d : EInstr) : State :=
  let x := s.eng u
  let ea := x.ea d
  if d.mod = 1 then
    let a := d.num % 8
    if 6 ≤ a then s
    else
      match u with
      | .live => s.commitArmWords a
      | .shadow => s.shadowArm a
  else
    (List.range 32).foldl
      (fun t i =>
        if ea + i < 192 && x.writes d.prm i then
          match u with
          | .live => t.commitStallSlots (ea + i)
          | .shadow => t.shadowStall (ea + i)
        else t) s

/-- WRA (R173, R175). -/
def State.opWra (s : State) (u : EngUnit) (d : EInstr) : State :=
  let a := d.num % 8
  let w := tc 16 (laneI ((s.eng u).vec d.va) 0)
  if 6 ≤ a then s
  else
    let j := 4 * a + bits d.num 5 4
    match u with
    | .live => { s with cme := { s.cme with pendA := KMap.set (fun _ => 0) s.cme.pendA j w } }
    | .shadow => { s with cme := { s.cme with pendA1 := KMap.set (fun _ => 0) s.cme.pendA1 j w } }

/-- SETX (R173). -/
def State.opSetx (s : State) (u : EngUnit) (d : EInstr) : State :=
  let x := s.eng u
  let i := d.vd % 8
  let v := if d.mod = 1 then (x.ix i + d.addr) % 2 ^ 16 else d.addr
  if i = 0 then s else s.setEng u { x with x := KMap.set (fun _ => 0) x.x i v }

/-- MVM (R173): one coefficient row a cycle. -/
def State.opMvm (s : State) (u : EngUnit) (d : EInstr) : State :=
  let x := s.eng u
  let ea := x.ea d
  let v := x.vec d.va
  let n := min d.num 32
  let r := (List.range n).foldl
    (fun (p : List Int × Bool) j =>
      let q := macRow p.1 (s.crow u (ea + j)) (lanes32 (fun _ => laneI v j))
      (q.1, p.2 || q.2)) (x.ac d.ac, false)
  ((s.setEng u (x.setAcc d.ac r.1)).ovfFlag r.2).addrErr (n ≠ 0 && decide (coefRows < ea + n))

/-- An accumulator written by VMAC, VMACC or ACCL, with its issue cycle (R178). -/
def EngU.macAt (x : EngU) (a : Nat) (new : List Int) : EngU :=
  { x.setAcc a new with accAt := KMap.set (fun _ => none) x.accAt a (some x.cyc) }

/-- VMAC (R166, R173). -/
def State.opVmac (s : State) (u : EngUnit) (d : EInstr) : State :=
  let x := s.eng u
  let r := macRow (x.ac d.ac) (x.vec d.va) (x.vec d.vb)
  (s.setEng u (x.macAt d.ac r.1)).ovfFlag r.2

/-- VMACC (R166, R173). -/
def State.opVmacc (s : State) (u : EngUnit) (d : EInstr) : State :=
  let x := s.eng u
  let r := macRow (x.ac d.ac) (s.crow u (x.ea d)) (x.vec d.va)
  ((s.setEng u (x.macAt d.ac r.1)).ovfFlag r.2).addrErr (decide (coefRows ≤ x.ea d))

/-- ACCL (R173, R178). -/
def State.opAccl (s : State) (u : EngUnit) (d : EInstr) : State :=
  let x := s.eng u
  if d.mod = 1 then s.setEng u (x.macAt d.ac (lanes32 (fun i => laneI (x.vec d.va) i * 32768)))
  else s.setEng u (x.setAcc d.ac zero32)

/-- WB (R167, R173). -/
def State.opWb (s : State) (u : EngUnit) (d : EInstr) : State :=
  let x := s.eng u
  let raw := (x.ac d.ac).map (fun a => wbRaw a d.sh)
  (s.setEng u (x.setVec d.vd d.prm (raw.map sat16))).satFlag ((List.range 32).any (fun i => x.writes d.prm i && saturates (laneI raw i)))

/-- LIM (R173). -/
def State.opLim (s : State) (u : EngUnit) (d : EInstr) : State :=
  let x := s.eng u
  let lo := s.crow u (x.ea d)
  let hi := s.crow u (x.ea d + 1)
  let v := x.vec d.va
  (s.setEng u (x.setVec d.vd d.prm (lanes32 (fun i => min (max (laneI v i) (laneI lo i)) (laneI hi i))))).addrErr
    (decide (coefRows ≤ x.ea d + 1))

/-- SAT (R173): every lane, whatever PR holds. -/
def State.opSat (s : State) (u : EngUnit) (d : EInstr) : State :=
  let x := s.eng u
  let c := s.crow u (x.ea d)
  let bnd := fun i => ((laneI c i).natAbs : Int) * 2 ^ (15 - d.sh)
  let a := x.ac d.ac
  let out := fun i => bnd i < laneI a i || laneI a i < -bnd i
  let new := lanes32 (fun i => clampI (-bnd i) (bnd i) (laneI a i))
  let pr := (List.range 32).foldl (fun m i => if out i then setBit m i else m) 0
  let x := x.setAcc d.ac new
  (s.setEng u (if d.mod = 1 then { x with pr := pr } else x)).addrErr (decide (coefRows ≤ (s.eng u).ea d))

/-- PRESET (R173, R184, R190). -/
def State.opPreset (s : State) (u : EngUnit) (d : EInstr) : State :=
  let x := s.eng u
  if d.mod = 1 && !(x.latch % 64).testBit (d.num % 8) then s
  else
    let w := (x.ac d.ac).map (fun a => wbRaw a d.sh)
    let v := x.vec d.va
    let diff := lanes32 (fun i => laneI v i - sat16 (laneI w i))
    let sat := (List.range 32).any (fun i => x.writes d.prm i && (saturates (laneI w i) || saturates (laneI diff i)))
    ((s.writeRow u (x.ea d) (x.writes d.prm) (diff.map sat16)).satFlag sat).addrErr (decide (hostRow ≤ x.ea d))

/-- SEL (R173). -/
def State.opSel (s : State) (u : EngUnit) (d : EInstr) : State :=
  let x := s.eng u
  s.setEng u (x.setVec d.vd d.prm (lanes32 (fun i => if x.pr.testBit i then laneI (x.vec d.va) i else laneI (x.vec d.vb) i)))

/-- VADD (R168, R173). -/
def State.opVadd (s : State) (u : EngUnit) (d : EInstr) : State :=
  let x := s.eng u
  let other := if d.mod < 2 then x.vec d.vb else s.crow u (x.ea d)
  let raw := lanes32 (fun i => laneI (x.vec d.va) i + (if d.mod % 2 = 1 then -laneI other i else laneI other i))
  ((s.setEng u (x.setVec d.vd d.prm (raw.map sat16))).satFlag
    ((List.range 32).any (fun i => x.writes d.prm i && saturates (laneI raw i)))).addrErr (decide (2 ≤ d.mod) && decide (coefRows ≤ x.ea d))

/-- RED (R173). -/
def State.opRed (s : State) (u : EngUnit) (d : EInstr) : State :=
  let x := s.eng u
  let sum := sumI ((List.range 32).map (fun i => if x.writes d.prm i then laneI (x.vec d.va) i else 0))
  let q := wbRaw (32768 * sum) d.sh
  (s.setEng u (x.setVec d.vd false (lanes32 (fun _ => sat16 q)))).satFlag (saturates q)

/-- CMP (R173). -/
def State.opCmp (s : State) (u : EngUnit) (d : EInstr) : State :=
  let x := s.eng u
  let r := fun i =>
    let a := laneI (x.vec d.va) i
    let b := laneI (x.vec d.vb) i
    if d.mod = 0 then decide (a < b) else if d.mod = 1 then decide (a ≤ b) else if d.mod = 2 then decide (a = b) else decide (a ≠ b)
  let m := (List.range 32).foldl (fun n i => if r i then setBit n i else n) 0
  s.setEng u { x with pr := if d.prm then x.pr &&& m else m }

/-- The observer's sizes n, m, p (R173). -/
def obsDims (num : Nat) : Nat × Nat × Nat := (bits num 3 0, bits num 7 4, bits num 11 8)

/-- Sum of products of lane `l` over paired rows. -/
def dotLane (l : Nat) (a b : List (List Int)) : Int := sumI ((a.zip b).map (fun p => laneI p.1 l * laneI p.2 l))

/-- OBS (R173): `made` says which of the n state writes are made; the innovations come back only where the step completes (R164). -/
def State.opObs (s : State) (u : EngUnit) (d : EInstr) (made : Nat → Bool) (completes : Bool) : State :=
  let x := s.eng u
  let ea := x.ea d
  let n := (obsDims d.num).1
  let m := (obsDims d.num).2.1
  let p := (obsDims d.num).2.2
  let base := x.ix (d.vd % 8)
  let c := fun k => s.crow u (ea + k)
  let hRow := fun j => (List.range n).map (fun i => c (j * n + i))
  let fRow := fun i => (List.range n).map (fun l => c (p * n + i * n + l))
  let gRow := fun i => (List.range m).map (fun j => c (p * n + n * n + i * m + j))
  let kRow := fun i => (List.range p).map (fun j => c (p * n + n * n + n * m + i * p + j))
  let xs := (List.range n).map (fun i => s.srow u (base + i))
  let us := (List.range m).map (fun j => x.vec ((d.va + j) % 16))
  let eRaw := (List.range p).map (fun j =>
    lanes32 (fun l => if x.writes d.prm l then wbRaw (32768 * laneI (x.vec ((d.vb + j) % 16)) l - dotLane l (hRow j) xs) 0 else 0))
  let es := eRaw.map (fun e => e.map sat16)
  let newRaw := (List.range n).map (fun i =>
    lanes32 (fun l => wbRaw (dotLane l (fRow i) xs + dotLane l (gRow i) us + dotLane l (kRow i) es) d.sh))
  let sat := eRaw.any (fun e => e.any saturates) || newRaw.any (fun r => r.any saturates)
  let bad := decide (coefRows < ea + p * n + n * (n + m + p)) || decide (hostRow < base + n)
  let t := (List.range n).foldl
    (fun (t : State) i => if made i then t.writeRow u (base + i) (fun _ => true) ((newRaw.getD i zero32).map sat16) else t) s
  let x' := if completes then (List.range p).foldl (fun (y : EngU) j => y.setVec ((d.vb + j) % 16) false (es.getD j zero32)) (t.eng u)
    else t.eng u
  ((t.setEng u x').satFlag sat).addrErr bad

/-! ### Flow and cost (R163, R164, R173, R177, R178) -/

/-- Fixed cost of an instruction; MVM and OBS depend on NUM (R173). -/
def eCost (d : EInstr) : Nat :=
  if d.op = 0x10 then d.num + 3
  else if d.op = 0x13 then
    let n := (obsDims d.num).1
    let m := (obsDims d.num).2.1
    let p := (obsDims d.num).2.2
    p * n + n * (n + m + p) + n + 6
  else if d.op = 0x1B then 6
  else if [0x04, 0x0B, 0x0C, 0x16, 0x18].contains d.op then 2
  else 1

/-- Extra cycles of WB, SAT and PRESET after a write of their accumulator (R178). -/
def EngU.drain (x : EngU) (d : EInstr) : Nat :=
  if [0x15, 0x17, 0x18].contains d.op then
    match KMap.get (fun _ => none) x.accAt d.ac with
    | some c => 3 - (x.cyc - c)
    | none => 0
  else 0

/-- The word after `pc`, and the loops then open: a body that ends repeats until its count is done (R173). -/
def nextWord (pc : Nat) : List (Nat × Nat × Nat) → Nat × List (Nat × Nat × Nat)
  | [] => (pc + 1, [])
  | (first, last, left) :: rest =>
    if pc = last then (if 1 < left then (first, (first, last, left - 1) :: rest) else nextWord pc rest)
    else (pc + 1, (first, last, left) :: rest)

/-- Cycles of a period, Y (R163). -/
def State.cyclesY (s : State) : Nat := s.perTicks / 10

/-- Y − 4, the cycle by whose start a run has to have issued END (R164). -/
def State.limY (s : State) : Nat := s.cyclesY - 4

/-- Where a BRF goes (R173): PRESET_PEND as the run latched it. -/
def EngU.branch (x : EngU) (d : EInstr) : Bool :=
  if d.mod = 0 then true
  else if d.mod = 1 then x.pr.testBit 0
  else if d.mod = 2 then x.pr = 0
  else !(x.latch % 64).testBit (d.num % 8)

/-- The effect of one instruction on everything but the unit's flow. DEDUCED, log 62. -/
def State.engOp (s : State) (u : EngUnit) (d : EInstr) : State :=
  match d.op with
  | 0x05 => s.opSetx u d
  | 0x08 => s.opLdc u d
  | 0x09 => s.opLds u d
  | 0x0A => s.opSts u d
  | 0x0B => s.opGath u d
  | 0x0C => s.opScat u d
  | 0x0D => s.opMark u d
  | 0x0E => s.opWra u d
  | 0x10 => s.opMvm u d
  | 0x11 => s.opVmac u d
  | 0x12 => s.opVmacc u d
  | 0x13 => s.opObs u d (fun _ => true) true
  | 0x14 => s.opAccl u d
  | 0x15 => s.opWb u d
  | 0x16 => s.opLim u d
  | 0x17 => s.opSat u d
  | 0x18 => s.opPreset u d
  | 0x19 => s.opSel u d
  | 0x1A => s.opVadd u d
  | 0x1B => s.opRed u d
  | 0x1C => s.opCmp u d
  | _ => s

/-- The unit goes on to the next instruction, `c` cycles later (R173, R177). -/
def EngU.go (x : EngU) (d : EInstr) (c : Nat) : EngU :=
  match d.op with
  | 0x03 => { x with pc := x.pc + 1, loops := (x.pc + 1, d.addr, d.num) :: x.loops, cyc := x.cyc + c }
  | 0x04 =>
    if x.branch d then { x with pc := d.addr, cyc := x.cyc + c }
    else let n := nextWord x.pc x.loops; { x with pc := n.1, loops := n.2, cyc := x.cyc + c }
  | _ => let n := nextWord x.pc x.loops; { x with pc := n.1, loops := n.2, cyc := x.cyc + c }

/-- The rows an instruction reads: address and 8-byte groups of the RAM words it touches (R171). -/
def State.engReads (s : State) (u : EngUnit) (d : EInstr) : List (Nat × Nat) :=
  let x := s.eng u
  let rows := fun (base first have_ n : Nat) => if first < have_ then [(base + 64 * first, 64 * min n (have_ - first))] else []
  let c := rows (coefBase u) (x.ea d) coefRows
  match d.op with
  | 0x08 => c 1
  | 0x12 => c 1
  | 0x17 => c 1
  | 0x16 => c 2
  | 0x1A => if 2 ≤ d.mod then c 1 else []
  | 0x10 => c d.num
  | 0x09 => rows (stateBase u) (x.ea d) stateRows 1
  | 0x13 =>
    let n := (obsDims d.num).1
    c ((obsDims d.num).2.2 * n + n * (n + (obsDims d.num).2.1 + (obsDims d.num).2.2)) ++ rows (stateBase u) (x.ix (d.vd % 8)) stateRows n
  | _ => []

/-- A poisoned word of an engine RAM among the words read from `a` to `a + n` (R333). -/
def State.poisonIn (s : State) (a n : Nat) : Option Nat :=
  (s.flt.poisoned.find? (fun p => p.1 = 2 && a < p.2 + 8 && p.2 < a + n)).map (fun p => p.2)

/-! ### The end of a run (R164, R182, R184, R203) -/

/-- ENG_STATE as the live unit stands. -/
def State.engState (s : State) : State :=
  s.put F.CME_STAT_ENG_STATE
    (if s.on F.CME_DBG_STAT_HALTED then 3 else match s.cme.u0.run with
      | .parked => 0
      | .idle => 2
      | _ => 1)

/-- Argument `j` of the command that works. -/
def State.cmdArg (s : State) (j : Nat) : Nat := match s.cmd with
  | some r => (r.args.getD j 0).toNat
  | none => 0

/-- The report of PADDOCK_COMMIT: the counts belong to MODE 0 and 1, SESSION and the detail to every mode (R198, R205, R403). -/
def State.padReport (s : State) (detail : Nat) : List Word :=
  let p := s.cme.pad
  let sess := match p.st with
    | .none => 0
    | .shadow => 1
    | .compare => 2
    | .retain => 3
  if 2 ≤ s.cmdArg 0 % 4 then [0#32, 0#32, 0#32, BitVec.ofNat 32 (2 ^ 24 * sess + 2 ^ 28 * detail)]
  else
  [BitVec.ofNat 32 p.done, BitVec.ofNat 32 (p.maxDev % 2 ^ 16 + 2 ^ 16 * p.maxWord + 2 ^ 24 * p.maxAt), BitVec.ofNat 32 p.overCount,
    BitVec.ofNat 32 (min p.overruns 0xFFFF + 2 ^ 16 * min p.late 255 + 2 ^ 24 * sess + 2 ^ 28 * detail)]

/-- The running command operation comes to its outcome (R30, R403). -/
def State.finish (s : State) (code : Nat) (res : List Word) : State :=
  { s with cmd := s.cmd.map (fun r => { r with outcome := some (code, res) }) }

/-- The command of opcode `op` works. -/
def State.cmdIs (s : State) (op : Nat) : Bool := match s.cmd with
  | some r => r.opcode = op && r.outcome.isNone
  | none => false

/-- The session takes a state; PAD_SESSION follows (R198). -/
def State.setPad (s : State) (st : PadState) : State :=
  { s with cme := { s.cme with pad := { s.cme.pad with st := st } } }.put F.CME_STAT_PAD_SESSION (if st = PadState.none then 0 else 1)

/-- What follows the end of a live run: a handover's command ends (R203). -/
def State.runOver (s : State) : State :=
  if s.cme.pad.awaitRun then
    let s := { s with cme := { s.cme with pad := { s.cme.pad with awaitRun := false } } }
    if s.cmdIs 0x31 then s.finish 0 (s.padReport 0) else s
  else s

/-- COMPARE ends without an exchange, and its command with the given detail (R198, R205). -/
def State.padAbort (s : State) (detail : Nat) : State :=
  if s.cme.pad.st ≠ .compare then s
  else
    let s := { s with cme := { s.cme with pad := { s.cme.pad with exchange := none } } }.setPad .shadow
    if s.cmdIs 0x31 then s.finish 5 (s.padReport detail) else s

/-- A unit's run ends as an overrun (R164, R182, R186). -/
def State.overrun (s : State) (u : EngUnit) : State :=
  let s := s.setEng u { s.eng u with run := .idle, ranOver := true }
  match u with
  | .live =>
    let s := (((s.put F.CME_FAULT_STAT_OVERRUN 1).cnt F.CME_OVERRUN_COUNT).raise Base.CME 0)
    ((s.put F.CME_LASTRUN_END_CYCLE 0xFFFF).put F.CME_LASTRUN_END_PEAK 0xFFFF).engState.runOver
  | .shadow => s

/-- END issues in cycle `c` (R164, R184). -/
def State.endRun (s : State) (u : EngUnit) : State :=
  let x := s.eng u
  let s := s.setEng u { x with run := .idle }
  match u with
  | .live =>
    let left := s.get F.CME_STAT_PRESET_PEND &&& (63 - (x.latch &&& (63 - s.cme.presetNew % 64)) % 64)
    let s := s.put F.CME_STAT_PRESET_PEND left
    let s := s.put F.CME_PRESET (s.get F.CME_PRESET &&& left)
    let e := (x.cyc + 1) % 2 ^ 16
    ((s.put F.CME_LASTRUN_END_CYCLE e).put F.CME_LASTRUN_END_PEAK (max e (s.get F.CME_LASTRUN_END_PEAK))).engState.runOver
  | .shadow => { s with cme := { s.cme with preset1 := s.cme.preset1 &&& (63 - x.latch % 64) } }

/-- The event a WAIT names has occurred: its cycle, or none while it is still ahead and not yet known (R176). -/
def State.waitEvent (s : State) (mod num : Nat) : Option Nat :=
  let rc := s.get F.EDGE_RELOAD / 10
  let arm := num % 8
  if mod = 2 then some num
  else if mod = 1 then
    if arm = 6 || (arm < 6 && !s.armEn arm) || (arm = 7 && s.armsEn = 0) then some (rc + 174)
    else if s.bal.done then some (s.get F.BAL_DONE_DONE_LAST / 10) else none
  else if s.edge.edge then some rc else none

/-- WAIT (R176): 1 cycle where the event has occurred, else issue is held. -/
def State.opWait (s : State) (u : EngUnit) (d : EInstr) : State :=
  let x := s.eng u
  match s.waitEvent d.mod d.num with
  | some w => if w ≤ x.cyc then s.setEng u (x.go d 1) else s.setEng u { x with run := .waiting d.mod d.num }
  | none => s.setEng u { x with run := .waiting d.mod d.num }

/-- An uncorrectable error met in an engine read ends the run (R171, R182, R329). -/
def State.engineUe (s : State) (u : EngUnit) (access a : Nat) : State :=
  let s := s.cmeFault F.CME_FAULT_STAT_RAM_UE
  let m := match u with
    | .live => 3
    | .shadow => 4
  (s.err .engineUe m access a).overrun u

/-- Whether a unit may issue: running, the yard in RUN or STOPPING, not in debug halt, before cycle Y − 4. -/
def State.mayIssue (s : State) (u : EngUnit) : Bool :=
  s.running && (s.eng u).run = .running && !s.on F.CME_DBG_STAT_HALTED && (s.eng u).cyc + 4 < s.cyclesY && (s.eng u).pc < 16384

/-- A breakpoint stands at the live unit's next word (R185). -/
def State.atBreak (s : State) : Bool :=
  s.on F.CME_DBG_CTRL && s.on F.CME_DBG_BRK_EN && s.get F.CME_DBG_BRK_ADDR = s.cme.u0.pc

/-- Debug halt is entered before the next instruction; the power section freezes and the PWM channels halt (R185, R286, R299). -/
def State.enterHalt (s : State) (brk : Bool) : State :=
  (((((s.put F.CME_DBG_STAT_HALTED 1).put F.CME_DBG_STAT_AT_BRK (b2n brk)).put F.CME_DBG_STAT_PC s.cme.u0.pc).raise Base.CME 7).engState.updateFreeze.pwmHaltUpdate).padAbort 6

/-- An instruction whose cost passes cycle Y − 4 leaves the unit there; an OBS writes the lanes it reached (R163, R164, R178). -/
def State.issueStuck (s : State) (u : EngUnit) (d : EInstr) (c : Nat) : State :=
  let first := (s.eng u).cyc + c - (obsDims d.num).1
  let t := if d.op = 0x13 then s.opObs u d (fun i => decide (first + i < s.limY)) false else s
  t.setEng u { t.eng u with run := .stuck }

/-- Instruction `d` of unit `u` carried out, the unit going on at its cost. -/
def State.issueDone (s : State) (u : EngUnit) (d : EInstr) (c : Nat) : State :=
  (s.engOp u d).setEng u (((s.engOp u d).eng u).go d c)

/-- Instruction `d` of unit `u` at the start of its cycle: what it reads is checked first (R163, R171, R185). -/
def State.issueAt (s : State) (u : EngUnit) (d : EInstr) : State :=
  match s.poisonIn (progBase u + 8 * (s.eng u).pc) 8 with
  | some a => s.engineUe u 6 a
  | none =>
    match (s.engReads u d).findSome? (fun r => s.poisonIn r.1 r.2) with
    | some a => s.engineUe u 0 a
    | none =>
      if d.op = 0x01 then s.endRun u
      else if d.op = 0x02 then s.opWait u d
      else if (s.eng u).cyc + (eCost d + (s.eng u).drain d) ≤ s.limY then s.issueDone u d (eCost d + (s.eng u).drain d)
      else s.issueStuck u d (eCost d + (s.eng u).drain d)

/-- The next word of a unit. -/
def State.engNext (s : State) (u : EngUnit) : EInstr := eDecode (s.progWord u (s.eng u).pc)

/-- The next instruction of a unit issues, where it is one of opcode `op`: its effect and its cost, cut off at cycle Y − 4 (R163, R164,
R173). -/
def State.issue (s : State) (u : EngUnit) (op : Nat) : State :=
  if !s.mayIssue u || (s.engNext u).op ≠ op then s
  else if u = .live && s.atBreak then s.enterHalt true
  else (s.untilCtb (s.yard.tk + 10 * (s.eng u).cyc)).issueAt u (s.engNext u)

/-- NOP (R173). -/
def execNop (u : EngUnit) (s : State) : Host.Outcome State Fault Refusal := .next (s.issue u 0x00)
/-- END (R164, R173). -/
def execEndRun (u : EngUnit) (s : State) : Host.Outcome State Fault Refusal := .next (s.issue u 0x01)
/-- WAIT (R173, R176). -/
def execWait (u : EngUnit) (s : State) : Host.Outcome State Fault Refusal := .next (s.issue u 0x02)
/-- LOOP (R173, R177). -/
def execLoop (u : EngUnit) (s : State) : Host.Outcome State Fault Refusal := .next (s.issue u 0x03)
/-- BRF (R173, R177). -/
def execBrf (u : EngUnit) (s : State) : Host.Outcome State Fault Refusal := .next (s.issue u 0x04)
/-- SETX (R173). -/
def execSetx (u : EngUnit) (s : State) : Host.Outcome State Fault Refusal := .next (s.issue u 0x05)
/-- LDC (R173). -/
def execLdc (u : EngUnit) (s : State) : Host.Outcome State Fault Refusal := .next (s.issue u 0x08)
/-- LDS (R173). -/
def execLds (u : EngUnit) (s : State) : Host.Outcome State Fault Refusal := .next (s.issue u 0x09)
/-- STS (R173). -/
def execSts (u : EngUnit) (s : State) : Host.Outcome State Fault Refusal := .next (s.issue u 0x0A)
/-- GATH (R173, R174). -/
def execGath (u : EngUnit) (s : State) : Host.Outcome State Fault Refusal := .next (s.issue u 0x0B)
/-- SCAT (R173, R174). -/
def execScat (u : EngUnit) (s : State) : Host.Outcome State Fault Refusal := .next (s.issue u 0x0C)
/-- MARK (R173, R175). -/
def execMark (u : EngUnit) (s : State) : Host.Outcome State Fault Refusal := .next (s.issue u 0x0D)
/-- WRA (R173, R175). -/
def execWra (u : EngUnit) (s : State) : Host.Outcome State Fault Refusal := .next (s.issue u 0x0E)
/-- MVM (R173). -/
def execMvm (u : EngUnit) (s : State) : Host.Outcome State Fault Refusal := .next (s.issue u 0x10)
/-- VMAC (R166, R173). -/
def execVmac (u : EngUnit) (s : State) : Host.Outcome State Fault Refusal := .next (s.issue u 0x11)
/-- VMACC (R166, R173). -/
def execVmacc (u : EngUnit) (s : State) : Host.Outcome State Fault Refusal := .next (s.issue u 0x12)
/-- OBS (R173). -/
def execObs (u : EngUnit) (s : State) : Host.Outcome State Fault Refusal := .next (s.issue u 0x13)
/-- ACCL (R173). -/
def execAccl (u : EngUnit) (s : State) : Host.Outcome State Fault Refusal := .next (s.issue u 0x14)
/-- WB (R167, R173). -/
def execWb (u : EngUnit) (s : State) : Host.Outcome State Fault Refusal := .next (s.issue u 0x15)
/-- LIM (R173). -/
def execLim (u : EngUnit) (s : State) : Host.Outcome State Fault Refusal := .next (s.issue u 0x16)
/-- SAT (R173). -/
def execSat (u : EngUnit) (s : State) : Host.Outcome State Fault Refusal := .next (s.issue u 0x17)
/-- PRESET (R173, R184). -/
def execPreset (u : EngUnit) (s : State) : Host.Outcome State Fault Refusal := .next (s.issue u 0x18)
/-- SEL (R173). -/
def execSel (u : EngUnit) (s : State) : Host.Outcome State Fault Refusal := .next (s.issue u 0x19)
/-- VADD (R168, R173). -/
def execVadd (u : EngUnit) (s : State) : Host.Outcome State Fault Refusal := .next (s.issue u 0x1A)
/-- RED (R173). -/
def execRed (u : EngUnit) (s : State) : Host.Outcome State Fault Refusal := .next (s.issue u 0x1B)
/-- CMP (R173). -/
def execCmp (u : EngUnit) (s : State) : Host.Outcome State Fault Refusal := .next (s.issue u 0x1C)

/-- WAIT_EVENT (R176): the awaited event has occurred; the next instruction issues in the cycle after it. -/
def execWaitEvent (u : EngUnit) (s : State) : Host.Outcome State Fault Refusal :=
  let x := s.eng u
  match x.run with
  | .waiting mod num =>
    match (if u = .live && s.on F.CME_DBG_STAT_HALTED then none else s.waitEvent mod num) with
    | some w =>
      let c := max x.cyc w
      let n := nextWord x.pc x.loops
      .next ((s.untilCtb (s.yard.tk + 10 * c)).setEng u { x with run := .running, pc := n.1, loops := n.2, cyc := c + 1 })
    | none => .next s
  | _ => .next s

/-- ILLEGAL_OPCODE (R182): an opcode outside R173, or a program counter past word 16,383, ends the run. -/
def execIllegalOpcode (u : EngUnit) (s : State) : Host.Outcome State Fault Refusal :=
  let x := s.eng u
  let bad := decide (16384 ≤ x.pc) || !eOpcodes.contains (eDecode (s.progWord u x.pc)).op
  let may := s.running && x.run = .running && !s.on F.CME_DBG_STAT_HALTED && decide (x.cyc + 4 < s.cyclesY)
  .next (if may && bad then
      ((s.untilCtb (s.yard.tk + 10 * x.cyc)).cmeFault F.CME_FAULT_STAT_ILLEGAL).overrun u
    else s)

/-- Whether a run is in progress, other than in debug halt. -/
def State.runs (s : State) (u : EngUnit) : Bool :=
  s.running && !s.on F.CME_DBG_STAT_HALTED && (s.eng u).run ≠ .parked && (s.eng u).run ≠ .idle

/-- CME_OVERRUN (R164, R182): cycle Y − 4 begins and END has not issued. -/
def execCmeOverrun (u : EngUnit) (s : State) : Host.Outcome State Fault Refusal :=
  .next (if s.runs u then (s.untilCtb (s.yard.tk + 10 * s.limY)).overrun u else s)

end Sys2Proof.Machine
end

