-- ==== Sys2Proof/Machine/CmeCheck.lean ====
section
/-! DEFINITION. The static program check of the control matrix engine: word and flow failures, T_END and MARK_SLACK (R177–R180, R405). -/

namespace Sys2Proof.Machine

open Sys2Proof

/-! ### One word (R172, R173, R180) -/

/-- Masks of the fields of an instruction word an opcode may use, and its highest MOD (R172, R173). DEDUCED, log 74. -/
def opUse (op : Nat) : Nat × Nat :=
  let vd := 0xF <<< 52
  let va := 0xF <<< 48
  let vb := 0xF <<< 44
  let ac := 3 <<< 42
  let xi := 7 <<< 39
  let sh := 0xF <<< 35
  let prm := 1 <<< 34
  let ad := 0xFFFF <<< 16
  let num := 0xFFFF
  match op with
  | 0x02 => (num, 2)
  | 0x03 => (ad + num, 0)
  | 0x04 => (ad + num, 3)
  | 0x05 => (vd + ad, 1)
  | 0x08 => (vd + ad + xi + prm, 0)
  | 0x09 => (vd + ad + xi + prm, 0)
  | 0x0A => (va + ad + xi + prm, 0)
  | 0x0B => (vd + ad + xi + num, 2)
  | 0x0C => (va + ad + xi + num + prm, 0)
  | 0x0D => (ad + xi + num + prm, 1)
  | 0x0E => (va + num, 0)
  | 0x10 => (va + ac + ad + xi + num, 0)
  | 0x11 => (va + vb + ac, 0)
  | 0x12 => (va + ac + ad + xi, 0)
  | 0x13 => (vd + va + vb + ad + xi + sh + prm + num, 0)
  | 0x14 => (va + ac, 1)
  | 0x15 => (vd + ac + sh + prm, 0)
  | 0x16 => (vd + va + ad + xi + prm, 0)
  | 0x17 => (ac + ad + xi + sh, 1)
  | 0x18 => (va + ac + ad + xi + sh + prm + num, 1)
  | 0x19 => (vd + va + vb + prm, 0)
  | 0x1A => (vd + va + vb + ad + xi + prm, 3)
  | 0x1B => (vd + va + sh + prm, 0)
  | 0x1C => (va + vb + prm, 3)
  | _ => (0, 0)

/-- Code 0x02, BAD_FIELD, of a word (R180). -/
def badField (w : Nat) : Bool :=
  let d := eDecode w
  let use := opUse d.op
  let fields := (w % 2 ^ 56) &&& (2 ^ 64 - 1 - 3 <<< 32)
  let q := obsDims d.num
  decide (fields &&& use.1 ≠ fields) || decide (use.2 < d.mod) || decide (8 < d.sh) ||
    (d.op = 0x0B && (!gathItem (d.num % 256) || d.num / 256 ≠ 0)) ||
    (d.op = 0x0C && (!scatItem (d.num % 256) || d.num / 256 ≠ 0)) ||
    (d.op = 0x10 && (d.num = 0 || decide (32 < d.num))) ||
    (d.op = 0x13 && (q.1 = 0 || decide (8 < q.1) || decide (4 < q.2.1) || decide (4 < q.2.2) || d.num / 4096 ≠ 0 ||
      decide (16 < d.va + q.2.1) || decide (16 < d.vb + q.2.2))) ||
    (d.op = 0x03 && d.num = 0)

/-- Coefficient rows an instruction addresses from EA (R173). -/
def coefSpan (d : EInstr) : Nat :=
  let q := obsDims d.num
  if d.op = 0x08 || d.op = 0x12 || d.op = 0x17 || (d.op = 0x1A && decide (2 ≤ d.mod)) then 1
  else if d.op = 0x16 then 2
  else if d.op = 0x10 then d.num
  else if d.op = 0x13 then q.2.2 * q.1 + q.1 * (q.1 + q.2.1 + q.2.2)
  else 0

/-- Code 0x04, ADDR_RANGE, of a word with XI = 0 (R180). -/
def badRange (w : Nat) : Bool :=
  let d := eDecode w
  d.xi = 0 && ((coefSpan d ≠ 0 && decide (coefRows < d.addr + coefSpan d)) || (d.op = 0x09 && decide (stateRows ≤ d.addr)) ||
    ((d.op = 0x0A || d.op = 0x18) && decide (hostRow ≤ d.addr)))

/-- Code 0x03, BAD_FLOW, of word `pc` inside the loops whose last words are `ends`, innermost first (R177). -/
def badFlow (w pc : Nat) (ends : List Nat) : Bool :=
  let d := eDecode w
  let out := d.addr ≤ pc || decide (16383 ≤ d.addr)
  if d.op = 0x03 then out || decide (4 ≤ ends.length) || (match ends with | [] => false | e :: _ => decide (e ≤ d.addr))
  else if d.op = 0x04 then out || (match ends with | [] => false | e :: _ => decide (e < d.addr))
  else false

/-- The lowest code of word `pc`, 0 where it passes (R180). -/
def wordCode (w pc : Nat) (ends : List Nat) : Nat :=
  if decide (16383 ≤ pc) then 3
  else if !eOpcodes.contains (eDecode w).op then 1
  else if badField w then 2
  else if badFlow w pc ends then 3
  else if badRange w then 4
  else 0

/-- The loops still open after their last word `pc` has issued. -/
def closeLoops (pc : Nat) : List Nat → List Nat
  | [] => []
  | e :: t => if e = pc then closeLoops pc t else e :: t

/-- Where paths go from a word that passes: words and the loops open there (R173, R177). -/
def flowNext (w pc : Nat) (ends : List Nat) : List (Nat × List Nat) :=
  let d := eDecode w
  let on := (pc + 1, closeLoops pc ends)
  if d.op = 0x01 then []
  else if d.op = 0x03 then [(pc + 1, d.addr :: ends)]
  else if d.op = 0x04 then (if d.mod = 0 then [(d.addr, ends)] else [(d.addr, ends), on])
  else [on]

/-- Words in ascending address along every path: address and code of the first failure (R180). -/
def flowWalk (word : Nat → Nat) : Nat → Nat → List (Nat × List Nat) → Option (Nat × Nat)
  | 0, _, _ => none
  | n + 1, pc, pend =>
    if pend = [] then none
    else
      let here := (pend.filter (fun p => p.1 = pc)).eraseDups
      let rest := pend.filter (fun p => p.1 ≠ pc)
      let w := word pc
      match (here.map (fun p => wordCode w pc p.2)).filter (· ≠ 0) with
      | [] => flowWalk word n (pc + 1) (rest ++ here.flatMap (fun p => flowNext w pc p.2))
      | c :: t => some (pc, t.foldl min c)

/-- Address and code of the first word failure of a unit's program from `entry` (R180). -/
def State.firstBad (s : State) (u : EngUnit) (entry : Nat) : Option (Nat × Nat) := flowWalk (s.progWord u) 16385 entry [(entry, [])]

/-! ### The costliest path (R179, R405) -/

/-- A path at a word: its cycle, the cycle of the last multiply-accumulate into each accumulator, and X0–X7. -/
structure WPath where
  t : Nat
  acw : List (Option Nat) := [none, none, none, none]
  x : List Nat := [0, 0, 0, 0, 0, 0, 0, 0]
  deriving DecidableEq, Repr

/-- A MARK on a path: its issue cycle, MOD, target and word (R179). -/
structure WMark where
  c : Nat
  arm : Bool
  target : Nat
  pc : Nat
  deriving DecidableEq, Repr

/-- What a walk has met: MARKs, latest first, and the costliest END: T_END and its word. -/
structure WAcc where
  marks : List WMark := []
  last : Option (Nat × Nat) := none
  deriving DecidableEq, Repr

/-- Path `p` costs at least as much as `q` whatever follows: it is no earlier, and no drain of an accumulator ends earlier on it (R178, R179). -/
def WPath.covers (p q : WPath) : Bool :=
  decide (q.t ≤ p.t) && (List.range 4).all (fun a => match q.acw.getD a none, p.acw.getD a none with
    | none, _ => true
    | some c, none => decide (c + 3 ≤ p.t)
    | some c, some d => decide (c + 3 ≤ p.t) || decide (c ≤ d))

/-- A path among those that may yet be the costliest. DEDUCED, log 72. -/
def addPath (l : List WPath) (p : WPath) : List WPath := if l.any (fun q => q.covers p) then l else l.filter (fun q => !p.covers q) ++ [p]

/-- Paths put among those that wait, by word: all that may yet be the costliest go on where they meet (R179). -/
def joinPaths (pc : Nat) (ps : List WPath) : List (Nat × List WPath) → List (Nat × List WPath)
  | [] => [(pc, ps)]
  | (a, qs) :: t =>
    if pc < a then (pc, ps) :: (a, qs) :: t else if pc = a then (a, ps.foldl addPath qs) :: t else (a, qs) :: joinPaths pc ps t

/-- The latest cycle of some paths. -/
def lastOf (ps : List WPath) : Nat := ps.foldl (fun m p => max m p.t) 0

/-- The static event cycle of a WAIT (R176). -/
def waitCycle (rc : Nat) (d : EInstr) : Nat := if d.mod = 1 then rc + 174 else if d.mod = 2 then d.num else rc

/-- A path after an instruction other than LOOP, BRF and END (R173, R178, R179). -/
def pathStep (rc : Nat) (d : EInstr) (p : WPath) : WPath :=
  if d.op = 0x02 then { p with t := max p.t (waitCycle rc d) + 1 }
  else
    let wait := if [0x15, 0x17, 0x18].contains d.op then (match p.acw.getD d.ac none with | some c => 3 - (p.t - c) | none => 0) else 0
    let acw := if d.op = 0x11 || d.op = 0x12 || (d.op = 0x14 && d.mod = 1) then setAt p.acw d.ac (some p.t) else p.acw
    let i := d.vd % 8
    let x := if d.op = 0x05 && i ≠ 0 then setAt p.x i (if d.mod = 1 then (p.x.getD i 0 + d.addr) % 2 ^ 16 else d.addr) else p.x
    { t := p.t + eCost d + wait, acw := acw, x := x }

/-- The targets of a MARK on some paths: an arm, or EA of a stall mark as each finds it (R175, R405). -/
def markTarget (d : EInstr) (p : WPath) : Nat := if d.mod = 1 then d.num % 8 else (d.addr + p.x.getD d.xi 0) % 2 ^ 16

/-- The MARKs an instruction makes on the paths that reach it, each target once, at the latest of their cycles (R175, R179, R405). DEDUCED, log
72. -/
def pathMark (pc : Nat) (d : EInstr) (ps : List WPath) (a : WAcc) : WAcc :=
  if d.op = 0x0D then
    let es := (ps.map (markTarget d)).eraseDups
    { a with marks := es.map (fun e => ⟨lastOf (ps.filter (fun p => markTarget d p = e)), d.mod = 1, e, pc⟩) ++ a.marks }
  else a

/-- The costliest END so far, the lower word where two are equal. -/
def pathEnd (pc t : Nat) (a : WAcc) : WAcc :=
  match a.last with
  | none => { a with last := some (t, pc) }
  | some (u, q) => if u < t || (u = t && pc < q) then { a with last := some (t, pc) } else a

/-- A loop's body taken `n` times: until no path leaves it, or T_END is past its 16 bits. -/
def repeatBody (body : List WPath → WAcc → List WPath × WAcc) : Nat → List WPath → WAcc → List WPath × WAcc
  | 0, ps, a => (ps, a)
  | n + 1, ps, a => if ps = [] ∨ 0xFFFF ≤ lastOf ps then (ps, a) else let r := body ps a; repeatBody body n r.1 r.2

/-- The words of a body up to `lim`, in ascending address; `deeper` walks the body of a loop met in it. -/
def bodyWalk (word : Nat → Nat) (rc : Nat) (deeper : Nat → Nat → List WPath → WAcc → List WPath × WAcc) (lim : Nat) :
    Nat → List (Nat × List WPath) → List WPath → WAcc → List WPath × WAcc
  | 0, _, out, a => (out, a)
  | _ + 1, [], out, a => (out, a)
  | n + 1, (pc, ps) :: rest, out, a =>
    let go := bodyWalk word rc deeper lim n
    if lim < pc then go rest (ps.foldl addPath out) a
    else
      let d := eDecode (word pc)
      if !eOpcodes.contains d.op then go rest out a
      else if d.op = 0x01 then go rest out (pathEnd pc (lastOf ps + 1) a)
      else if d.op = 0x03 && decide (pc < d.addr) then
        let r := repeatBody (deeper (pc + 1) (min d.addr 16383)) d.num (ps.map (fun p => { p with t := p.t + 1 })) a
        if r.1 = [] then go rest out r.2 else go (joinPaths (d.addr + 1) r.1 rest) out r.2
      else if d.op = 0x04 && decide (pc < d.addr) then
        let qs := ps.map (fun p => { p with t := p.t + 2 })
        go (joinPaths d.addr qs (if d.mod = 0 then rest else joinPaths (pc + 1) qs rest)) out a
      else go (joinPaths (pc + 1) ((ps.map (pathStep rc d)).foldl addPath []) rest) out (pathMark pc d ps a)

/-- A body from word `first` to word `lim` with loops nested `depth` deep below it. -/
def loopWalk (word : Nat → Nat) (rc : Nat) : Nat → Nat → Nat → List WPath → WAcc → List WPath × WAcc
  | 0, _, _, _, a => ([], a)
  | depth + 1, first, lim, ps, a => bodyWalk word rc (loopWalk word rc depth) lim 16385 [(first, ps)] [] a

/-- T_END of a unit's program, the word of its END, and its MARKs in the order of the walk (R179); 0xFFFF where no END is met. -/
def State.staticWalk (s : State) (u : EngUnit) (entry rc : Nat) : Nat × Nat × List WMark :=
  let r := (loopWalk (s.progWord u) rc 6 entry 16383 [{ t := 8 }] {}).2
  match r.last with
  | none => (0xFFFF, 0xFFFF, r.marks.reverse)
  | some (t, pc) => (min t 0xFFFF, pc, r.marks.reverse)

/-! ### MARK_SLACK (R117, R179, R405) -/

/-- A marked stall in the queue: the cycle from which it is ready, its CD in 1/640 tick, its number, the word of its binding MARK. -/
structure WItem where
  av : Nat
  cd : Nat
  i : Nat
  pc : Nat
  deriving DecidableEq, Repr

/-- The first MARK of stall `i`, among those of a walk. -/
def markOf (l : List WMark) (i : Nat) : Option WMark := l.find? (fun m => !m.arm && decide (m.target ≤ i) && decide (i < m.target + 32))

/-- The marked stalls, each from the later of its mark and, in NLM, its arm's; none where an arm's mark is missing (R179, R405). -/
def State.slackItems (s : State) (l : List WMark) : Option (List WItem) :=
  s.enabledList.foldl
    (fun o i => match o, markOf l i with
      | none, _ => none
      | some t, none => some t
      | some t, some m =>
        let a := s.armOf i
        if (s.armNow a).mv ≠ 2 then some (t ++ [⟨m.c + 1, s.cd640 i, i, m.pc⟩])
        else match l.find? (fun m => m.arm && m.target = a) with
          | none => none
          | some am => some (t ++ [if m.c < am.c then ⟨am.c + 1, s.cd640 i, i, am.pc⟩ else ⟨m.c + 1, s.cd640 i, i, m.pc⟩]))
    (some [])

/-- The first in the queue: lowest CD, then lowest number (R117). -/
def firstItem (l : List WItem) : Option WItem :=
  l.foldl (fun o x => match o with
    | none => some x
    | some y => if x.cd < y.cd || (x.cd = y.cd && x.i < y.i) then some x else some y) none

/-- The lowest slack and the word of its MARK, serving the items with four units of 4 cycles each (R117, R179): `units` are the cycles
at which the units are free, `takes` the cycles of the services so far. DEDUCED, log 73. -/
def slackWalk : Nat → Nat → List WItem → List Nat → List Nat → Option (Int × Nat) → Option (Int × Nat)
  | 0, _, _, _, _, best => best
  | n + 1, cyc, items, units, takes, best =>
    let free := units.foldl min (units.headD 0)
    let c := max cyc free
    let c := if items.any (fun x => decide (x.av ≤ c)) then c else items.foldl (fun m x => min m x.av) ((items.map (fun x => x.av)).headD c)
    match firstItem (items.filter (fun x => decide (x.av ≤ c))) with
    | none => best
    | some x =>
      let takes := c :: takes
      let j := (takes.filter (fun t => decide (x.av ≤ t))).length
      let sl : Int := (x.cd / 6400 : Nat) - (x.av : Int) - 4 * (((j + 3) / 4 : Nat) - 1 : Int)
      let best := match best with
        | none => some (sl, x.pc)
        | some b => if sl < b.1 then some (sl, x.pc) else some b
      slackWalk n c (items.filter (fun y => y.i ≠ x.i)) ((units.erase free) ++ [c + 4]) takes best

/-- MARK_SLACK and the word of the MARK of lowest slack (R179, R405). -/
def State.markSlack (s : State) (l : List WMark) : Int × Nat :=
  match s.slackItems l with
  | none => (-32768, 0xFFFF)
  | some [] => (32767, 0xFFFF)
  | some items =>
    match slackWalk items.length 0 items [0, 0, 0, 0] [] none with
    | none => (32767, 0xFFFF)
    | some r => (clampI (-32768) 32767 r.1, r.2)

/-! ### The check and the budget (R179, R180) -/

/-- R_c of the period in progress, or in CONFIG and CHECKED from the present rates and delays (R76, R180). -/
def State.rcNow (s : State) : Nat := (if s.running then s.get F.EDGE_RELOAD else s.reloadOff) / 10

/-- The state the check computes its deadlines in: outside RUN and STOPPING with the committed period length. DEDUCED, log 75. -/
def State.forCheck (s : State) : State := if s.running then s else { s with yard := { s.yard with half := s.halfUs } }

/-- The program check of a unit from `entry`: code, address, T_END and MARK_SLACK (R180). -/
def State.progCheck (s : State) (u : EngUnit) (entry : Nat) : Nat × Nat × Nat × Int :=
  let s := s.forCheck
  let w := s.staticWalk u entry s.rcNow
  let m := s.markSlack w.2.2
  match s.firstBad u entry with
  | some (pc, c) => (c, pc, w.1, m.1)
  | none =>
    if s.cyclesY < w.1 + 4 then (5, w.2.1, w.1, m.1)
    else if m.1 < 0 then (6, m.2, w.1, m.1)
    else (0, 0xFFFF, w.1, m.1)

/-- VALUE of CME_CHECK (R180). -/
def checkValue (r : Nat × Nat × Nat × Int) : Nat := r.2.1 + 2 ^ 16 * r.2.2.1 + 2 ^ 32 * r.1

/-- CME_BUDGET is published, with its warning (R179, R405). DEDUCED, log 71. -/
def State.publishBudget (s : State) : State :=
  let t := s.forCheck
  let w := t.staticWalk .live (t.get F.CME_ENTRY) t.rcNow
  let m := (t.markSlack w.2.2).1
  let s := (s.put F.CME_BUDGET_T_END w.1).put F.CME_BUDGET_MARK_SLACK (tc 16 m)
  if t.cyclesY < w.1 + 4 || m < 0 then s.cmeFault F.CME_FAULT_STAT_BUDGET_WARN else s

/-- CHECK written (R180). -/
def State.progCheckWrite (s : State) : State :=
  let s := (s.put F.CME_CTRL_CHECK 1).startRes A.CME_CHECK_HI
  { s with cme := { s.cme with checkRun := true, checkDirty := false } }

/-- PROGRAM_CHECK (R180). -/
def execProgramCheck (s : State) : Host.Outcome State Fault Refusal := .next s.progCheckWrite

/-- PROGRAM_CHECK_COMPLETE (R180): the check reads the program and ends, within 100 µs of the write of CHECK. -/
def execProgramCheckComplete (s : State) : Host.Outcome State Fault Refusal :=
  if !s.cme.checkRun then .next s
  else
    let r := s.progCheck .live (s.get F.CME_ENTRY)
    let ok := r.1 = 0 && !s.cme.checkDirty
    let s := { s with cme := { s.cme with checkRun := false, checkDirty := false } }
    let s := ((s.complete A.CME_CHECK_HI (checkValue r)).put F.CME_CTRL_CHECK 0).put F.CME_STAT_PROG_OK (b2n ok)
    .next ((if r.1 = 0 then s else s.put F.CME_FAULT_STAT_PROG_BAD 1).raise Base.CME 5)

end Sys2Proof.Machine
end

