-- ==== Sys2Proof/Machine/CmeCtl.lean ====
section
/-! DEFINITION. The engine's periods, missed deadlines and restores, host access to its memories, presets, debug halt, the groom's scrub,
the end of warm-up and the health log (R163, R165, R170, R171, R181–R185, R194, R197, R199). -/

namespace Sys2Proof.Machine

open Sys2Proof

/-! ### A run starts (R163, R184–R186, R198) -/

/-- A paddock session is open (R198). -/
def State.session (s : State) : Bool := s.cme.pad.st ≠ .none

/-- A unit as its start sequence leaves it (R163). -/
def freshRun (entry latch : Nat) : EngU := { run := .running, pc := entry, latch := latch, cyc := 8 }

/-- The runs of the period that begins (R163, R185, R186). -/
def State.engStart (s : State) : State :=
  if !(s.running && s.cme.live) || s.on F.CME_DBG_STAT_HALTED then s
  else
    let s := { s with cme := { s.cme with
      u0 := freshRun (s.get F.CME_ENTRY) (s.get F.CME_STAT_PRESET_PEND), presetNew := 0
      u1 := if s.session then freshRun s.cme.pad.entry s.cme.preset1 else { run := .parked }
      shMarked := 0, shArm := 0 } }
    let s := s.engState
    if s.on F.CME_DBG_CTRL && s.on F.CME_DBG_HALT then s.enterHalt false else s

/-- Both units park (R163, R198). -/
def State.engPark (s : State) : State :=
  { s with cme := { s.cme with live := false, u0 := { s.cme.u0 with run := .parked }, u1 := { s.cme.u1 with run := .parked } } }.engState

/-! ### Missed deadlines (R181–R183) -/

/-- MISS_W and MISS_N as they act. -/
def State.missW (s : State) : Nat := max (s.get F.CME_MISSCFG_MISS_W) 1
def State.missN (s : State) : Nat := min (max (s.get F.CME_MISSCFG_MISS_N) 1) s.missW

/-- Arms with a miss in the period that ends (R165, R181, R182); none where the engine was in debug halt at its cut-off. -/
def State.missesNow (s : State) : Option Nat :=
  if s.edge.haltCut then none else some (if !s.cme.live || s.cme.u0.ranOver then 63 else s.notServed)

/-- Judged periods of arm `a`, newest first. -/
def State.missHist (s : State) (a : Nat) : List Bool := KMap.get (fun _ => []) s.cme.hist a

/-- How many of the last `n` judged periods had a miss. -/
def State.missIn (s : State) (a n : Nat) : Nat := ((s.missHist a).take n).countP (fun b => b)

/-- An arm's period is judged (R181). DEDUCED, log 67. -/
def State.judgeArmMiss (s : State) (a : Nat) (miss : Bool) : State :=
  let s := { s with cme := { s.cme with hist := KMap.set (fun _ => []) s.cme.hist a ((miss :: s.missHist a).take 256) } }
  if !miss then s
  else
    let s := (s.cnt F.CME_MISS_COUNT).raise Base.CME 1
    if s.warmup || s.degraded a then s
    else if s.missN ≤ s.missIn a s.missW then (s.setBitOf F.CME_STAT_DEGRADED a).raise Base.CME 2
    else s

/-- The misses of the last period are judged (R181). -/
def State.judgeMisses (s : State) : State :=
  match s.cme.missed with
  | none => s
  | some m =>
    let arms := (List.range 6).filter s.armEn
    let s := { s with cme := { s.cme with missed := none } }
    let s := arms.foldl (fun t a => t.judgeArmMiss a (m.testBit a)) s
    s.put F.CME_STAT_MISS_LAST (arms.foldl (fun x a => if m.testBit a then setBit x a else x) 0)

/-- A restore request of arm `a` is judged (R181, R183). -/
def State.judgeRestore (s : State) (a : Nat) : State :=
  if !s.degraded a then s
  else if s.missIn a 16 = 0 then ((s.clrBitOf F.CME_STAT_DEGRADED a).presetArm a).raise Base.CME 3
  else ((s.put F.CME_FAULT_STAT_RESTORE_REFUSED 1).cnt F.CME_ERR_COUNT_RESTORE_REFUSED_COUNT).raise Base.CME 4

/-- Restore requests are judged, in RUN after warm-up (R183). -/
def State.judgeRestores (s : State) : State :=
  if s.yardState = yardRun && !s.warmup then
    (bitIndices 6 s.cme.restore).foldl (fun t a => t.judgeRestore a) { s with cme := { s.cme with restore := 0 } }
  else s

/-- ARM_RESTORE_REQUEST (R183): a committed value names the arms. -/
def State.restoreAsk (s : State) (v : Nat) : State := { s with cme := { s.cme with restore := s.cme.restore ||| v } }

/-- ARM_RESTORE_REQUEST (R183). -/
def execArmRestoreRequest (v : BitVec 6) (s : State) : Host.Outcome State Fault Refusal :=
  .next ((s.put F.CME_ARM_RESTORE v.toNat).restoreAsk v.toNat)

/-! ### Presets (R184) -/

/-- REQ written 1 for the arms of `v` (R184). DEDUCED, log 66. -/
def State.presetAsk (s : State) (v : Nat) : State :=
  (bitIndices 6 v).foldl (fun t a => (t.setBitOf F.CME_PRESET a).presetArm a) s

/-- PRESET_REQUEST (R184). -/
def execPresetRequest (v : BitVec 6) (s : State) : Host.Outcome State Fault Refusal := .next (s.presetAsk v.toNat)

/-! ### Host writes of the memories (R170, R199) -/

/-- Regions of a RAM set: program, coefficient, state. -/
def inProg (u : EngUnit) (a : Nat) : Bool := progBase u ≤ a && a < progBase u + 8 * 16384
def inCoef (u : EngUnit) (a : Nat) : Bool := coefBase u ≤ a && a < coefBase u + 64 * coefRows
def inState (u : EngUnit) (a : Nat) : Bool := stateBase u ≤ a && a < stateBase u + 64 * stateRows

/-- Whether an address lies in a RAM set. -/
def inRams (u : EngUnit) (a : Nat) : Bool := inProg u a || inCoef u a || inState u a

/-- Whether an address lies in the live host rows (R170). -/
def inHostRows (a : Nat) : Bool := stateBase .live + 64 * hostRow ≤ a && a < stateBase .live + 64 * stateRows

/-- Distance of a paddock address from its live role. -/
abbrev paddockOff : Nat := 0x100000

/-- The enabled bytes of a dword stored; the 64-bit group is written, so it loses its poison (R15, R333). -/
def State.putDword (s : State) (a : Nat) (w : Word) (be : BitVec 4) : State :=
  ((List.range 4).foldl
    (fun (t : State) b => if be.toNat.testBit b then t.setByte (a + b) (BitVec.ofNat 8 (bits w.toNat (8 * b + 7) (8 * b))) else t) s).unpoison
    (a / 8 * 8) 8

/-- RAM_DROP (R170, R199). -/
def State.ramDrop (s : State) : State := ((s.cmeFault F.CME_FAULT_STAT_RAM_DROP).cnt F.CME_RAM_DROP).noteDrop

/-- The program or CME_ENTRY has been written (R170, R180). -/
def State.progWritten (s : State) : State :=
  { s.put F.CME_STAT_PROG_OK 0 with cme := { s.cme with checkDirty := s.cme.checkDirty || s.cme.checkRun } }

/-- Whether a host write to a RAM address is applied (R170, R199). -/
def State.ramWritable (s : State) (a : Nat) : Bool := if inRams .live a then !s.running || inHostRows a else !s.session

/-- An accepted dword of a RAM write (R170, R199). -/
def State.ramPut (s : State) (a : Nat) (w : Word) (be : BitVec 4) : State :=
  let t := s.putDword a w be
  let t := if inProg .live a then t.progWritten else t
  if inHostRows a && s.session then t.putDword (a + paddockOff) w be else t

/-- The dwords of a write with the addresses they reach, those with no byte enabled left out (R15). -/
def dwordsAt : Nat → List (Word × BitVec 4) → List (Nat × Word × BitVec 4)
  | _, [] => []
  | a, (w, be) :: t => if be = 0#4 then dwordsAt (a + 4) t else (a, w, be) :: dwordsAt (a + 4) t

/-- A host write to engine or paddock RAM: each dword is applied or dropped, a dropped write is reported once (R170, R199). DEDUCED,
log 77. -/
def State.ramWrite (s : State) (a : Nat) (l : List (Word × BitVec 4)) : State :=
  let ds := (dwordsAt a l).filter (fun d => inRams .live d.1 || inRams .shadow d.1)
  let t := (ds.filter (fun d => s.ramWritable d.1)).foldl (fun t d => t.ramPut d.1 d.2.1 d.2.2) s
  if ds.any (fun d => !s.ramWritable d.1) then t.ramDrop else t

/-- The BAR0 dword address of a write, where it goes to BAR0. -/
def barAddr (w : WriteReq) : Option Nat :=
  match w.target with
  | .bar0 a => some (a.toNat / 4 * 4)
  | .svPending _ => none

/-- ENGINE_RAM_WRITE (R170). -/
def execEngineRamWrite (w : WriteReq) (s : State) : Host.Outcome State Fault Refusal :=
  match barAddr w with
  | some a => .next (if inRams .live a then s.ramWrite a w.words else s)
  | none => .next s

/-- PADDOCK_RAM_WRITE (R199). -/
def execPaddockRamWrite (w : WriteReq) (s : State) : Host.Outcome State Fault Refusal :=
  match barAddr w with
  | some a => .next (if inRams .shadow a then s.ramWrite a w.words else s)
  | none => .next s

/-! ### Debug halt (R185) -/

/-- A unit may be halted between instructions. -/
def EngU.betweenOps (x : EngU) : Bool := match x.run with
  | .running => true
  | .waiting _ _ => true
  | _ => false

/-- HALT as it acts on the run in progress (R185). DEDUCED, log 76. -/
def State.haltNow (s : State) : State :=
  if s.on F.CME_DBG_CTRL && s.on F.CME_DBG_HALT && !s.on F.CME_DBG_STAT_HALTED && s.running && s.cme.u0.betweenOps then s.enterHalt false
  else s

/-- DEBUG_HALT (R185). -/
def execDebugHalt (s : State) : Host.Outcome State Fault Refusal := .next ((s.put F.CME_DBG_HALT 1).haltNow)

/-- BREAKPOINT_HIT (R185). -/
def execBreakpointHit (s : State) : Host.Outcome State Fault Refusal :=
  .next (if s.mayIssue .live && s.atBreak then s.enterHalt true else s)

/-- The halted run is abandoned (R184, R185). -/
def State.debugRelease (s : State) : State :=
  if !s.on F.CME_DBG_STAT_HALTED then s
  else
    let s := (s.put F.CME_DBG_STAT_HALTED 0).put F.CME_DBG_STAT_AT_BRK 0
    let idle := fun (x : EngU) => if x.run = .parked then x else { x with run := .idle }
    let s := { s with cme := { s.cme with u0 := idle s.cme.u0, u1 := idle s.cme.u1 } }
    let s := ((List.range 6).foldl (fun t a => t.presetArm a) s).raise Base.CME 7
    s.engState.holdUpdate.updateFreeze.pwmHaltUpdate

/-- DEBUG_RELEASE (R185). -/
def execDebugRelease (s : State) : Host.Outcome State Fault Refusal := .next ((s.put F.CME_DBG_HALT 0).debugRelease)

/-- One instruction of the halted run executes; a WAIT completes at once (R185). -/
def State.stepOne (s : State) : State :=
  let x := s.cme.u0
  let d := eDecode (s.progWord .live x.pc)
  let s := s.put F.CME_DBG_STAT_AT_BRK 0
  if !x.betweenOps then s
  else if 16384 ≤ x.pc || !eOpcodes.contains d.op then (s.cmeFault F.CME_FAULT_STAT_ILLEGAL).overrun .live
  else
    match s.poisonIn (progBase .live + 8 * x.pc) 8 with
    | some a => s.engineUe .live 6 a
    | none =>
      match (s.engReads .live d).findSome? (fun r => s.poisonIn r.1 r.2) with
      | some a => s.engineUe .live 0 a
      | none =>
        if d.op = 0x01 then s.endRun .live
        else if d.op = 0x02 then s.setEng .live { x.go d 1 with run := .running }
        else
          let t := s.engOp .live d
          t.setEng .live ((t.eng .live).go d (eCost d + x.drain d))

/-- STEP written 1 (R185): it clears when the instruction has completed. -/
def State.debugStep (s : State) : State :=
  if s.on F.CME_DBG_CTRL && s.on F.CME_DBG_STAT_HALTED then (s.put F.CME_DBG_STEP 0).stepOne else s.put F.CME_DBG_STEP 0

/-- DEBUG_STEP (R185). -/
def execDebugStep (s : State) : Host.Outcome State Fault Refusal := .next s.debugStep

/-- CME_DBG_DATA as read (R185). -/
def State.dbgData (s : State) : Nat :=
  let x := s.cme.u0
  let r := s.get F.CME_DBG_SEL_REG
  let l := s.get F.CME_DBG_SEL_LANE
  if !s.on F.CME_DBG_STAT_HALTED then 0
  else match s.get F.CME_DBG_SEL_KIND with
    | 0 => tc 16 (laneI (x.vec r) l)
    | 1 => tc 40 (laneI (x.ac (r % 4)) l) % 2 ^ 32
    | 2 => tc 40 (laneI (x.ac (r % 4)) l) / 2 ^ 32
    | _ => if r ≤ 7 then x.ix r else if r = 8 then x.pr else 0

/-! ### The groom's scrub (R171, R328, R333) -/

/-- The error code and the fetching master's record of a memory's uncorrectable error met by the groom (R328, R329). -/
def scrubErr : ScrubMem → Err
  | .engine => .engineUe
  | .table => .tableUe
  | .buffer => .bufferUe

/-- The word of a FIFO's memory at `a` becomes poisoned: the FIFO's oldest entry, `a` being its first dword (R329, R333). DESIGN CHOICE, log 210. -/
def State.poisonFifo (s : State) (a : Nat) : State :=
  let x : FifoBad := match s.fifo a with
    | [] => ⟨a, 256, some (s.res a).seq⟩
    | e :: _ => ⟨a, e.2, none⟩
  if s.flt.fifoBad.contains x then s else { s with flt := { s.flt with fifoBad := s.flt.fifoBad ++ [x] } }

/-- A word becomes poisoned (R333), by its 64-bit group where it has a BAR0 address. DEDUCED, log 69. -/
def State.poison (s : State) (c a0 : Nat) : State :=
  let a := if a0 < 2 ^ 24 then a0 / 8 * 8 else a0
  { s with flt := { s.flt with poisoned := if s.flt.poisoned.contains (c, a) then s.flt.poisoned else s.flt.poisoned ++ [(c, a)] } }

/-- GROOM_SCRUB (R171, R328, R329, R333). DEDUCED, log 78. -/
def execGroomScrub (mem : ScrubMem) (a : BitVec 32) (f : ScrubFind) (s : State) : Host.Outcome State Fault Refusal :=
  match f with
  | .clean => .next s
  | .single =>
    let s := if mem = .engine then s.cnt F.CME_RAM_CE else s
    .next (s.err .ce 8 7 a.toNat)
  | .uncorrectable =>
    let t := if mem = .buffer then s.poisonFifo a.toNat else s.poison (scrubErr mem).cls a.toNat
    .next (t.err (scrubErr mem) 8 7 a.toNat)

/-! ### Warm-up and the health log (R194, R197) -/

/-- Presets that fall due at the boundary itself are latched by the run that starts there (R163, R184). -/
def State.relatch (s : State) : State :=
  if s.atBoundary && s.cme.u0.run = .running && s.cme.u0.cyc = 8 then
    { s with cme := { s.cme with presetNew := 0, u0 := { s.cme.u0 with latch := s.get F.CME_STAT_PRESET_PEND } } }
  else s

/-- Warm-up ends: WU_LEFT has reached 0 (R184, R194). -/
def State.warmupEnd (s : State) : State :=
  (((List.range 6).filter s.armEn).foldl (fun t a => t.presetArm a) (s.put F.BAL_STAT_WARMUP 0)).relatch

/-- WARMUP_END (R194): the boundary after the last warm-up period. -/
def execWarmupEnd (s : State) : Host.Outcome State Fault Refusal :=
  .next (if s.on F.BAL_STAT_WARMUP && !s.on F.YARD_WARMUP_WU_LEFT then s.warmupEnd else s)

/-- The record of the day of an enabled stall, 16 bytes of free content, in the ring of 65,536 records: 341 days of 192 stalls (R197, log 8). -/
def State.healthOne (s : State) (day i : Nat) : State :=
  let b := (List.range 16).map (fun j => Config.free (s.freeIx + j) % 256)
  let l := ((i, day, b) :: s.cme.health.filter (fun r => !(r.1 = i && r.2.1 = day))).take 65536
  { s with freeIx := s.freeIx + 16, cme := { s.cme with health := l, healthOld := s.cme.healthOld.take (65536 - l.length) } }

/-- HEALTH_LOG (R197): the day's record of every stall is kept. -/
def execHealthLog (s : State) : Host.Outcome State Fault Refusal :=
  let day := s.ctb / (86400 * sec)
  .next (s.enabledList.foldl (fun t i => t.healthOne day i) s)

end Sys2Proof.Machine
end

