-- ==== Sys2Proof/Machine/Ptp.lean ====
section
/-! DEFINITION. Network time: the two tracked domains, their lock state, port choice, path delay and the transparent clock
(R213–R219, R224). -/

namespace Sys2Proof.Machine

open Sys2Proof

/-- 0 for E1, 1 for E2, 2 for E3. -/
def portIx : EthPort → Nat
  | .e1 => 0
  | .e2 => 1
  | .e3 => 2

/-- LINK, SPD1000 and SFP of a port (R254). -/
def linkFld (p : Nat) : Fld := ⟨0x9000C, 4 * p, 1⟩
/-- SPD1000. -/
def spdFld (p : Nat) : Fld := ⟨0x9000C, 4 * p + 1, 1⟩
/-- SFP. -/
def sfpFld (p : Nat) : Fld := ⟨0x9000C, 4 * p + 2, 1⟩

/-- A port is enabled: E12_EN for E1 and E2, of which Single uses E1 only; E3_EN for E3 (R231). -/
def State.portOn (s : State) (p : Nat) : Bool :=
  if p = 2 then s.on F.ETH_CTRL_E3_EN else s.on F.ETH_CTRL_E12_EN && (p = 0 || s.eth.mode ≠ 2)

/-- A port can send and receive: enabled, with its link up. -/
def State.portUp (s : State) (p : Nat) : Bool := s.portOn p && s.on (linkFld p)

/-- Counters of port `p`: TX_OK, RX_OK, RX_ERR, RX_DROP. -/
def txOk (p : Nat) : Fld := ⟨0x9008C + 16 * p, 0, 32⟩
/-- RX_OK. -/
def rxOk (p : Nat) : Fld := ⟨0x90080 + 16 * p, 0, 32⟩
/-- RX_ERR. -/
def rxErr (p : Nat) : Fld := ⟨0x90084 + 16 * p, 0, 32⟩
/-- RX_DROP. -/
def rxDrop (p : Nat) : Fld := ⟨0x90088 + 16 * p, 0, 32⟩

/-! ### Timestamps (R216, R218) -/

/-- A raw ingress stamp of port `p`, in TB2 ticks, referred to the medium (R216). -/
def State.ingress (s : State) (p stamp : Nat) : Int :=
  (stamp : Int) - ((if s.on (spdFld p) then 280 else 1480) + s.get (F.TIME_PORT_SFP_ING p) : Nat)

/-- The egress stamp of an event message sent now on port `p`, in TB2 ticks, referred to the medium (R216). -/
def State.egress (s : State) (p : Nat) : Nat :=
  s.time.tb2 + (if s.on (spdFld p) then 204 else 760) + s.get (F.TIME_PORT_SFP_EGR p)

/-- The transmit timestamp queue of port `p` (R218). -/
def txtsAddr (p : Nat) : Nat := if p = 0 then A.TIME_TXTS1_LO else A.TIME_TXTS2_LO

/-- The base address of the module's block of four (R230). -/
def State.macBase (s : State) : Nat := s.get F.ETH_MAC_LO + 2 ^ 32 * s.get F.ETH_MAC_HI

/-- The PTP clockIdentity: the EUI-64 of the base address followed by 0x00 and 0x01 (R230). -/
def State.clockIdentity (s : State) : Nat := s.macBase * 2 ^ 16 + 0x0001

/-- sourcePortIdentity of port `p`: the clockIdentity and portNumber, 1 for E1 and 2 for E2 (R213). -/
def State.portIdentity (s : State) (p : Nat) : Nat := s.clockIdentity * 2 ^ 16 + (p + 1)

/-- The sequence number of the HSR tag the next frame of the module's own carries, in HSR (R233, R234). -/
def State.hsrTag (s : State) : Option Nat := if s.eth.mode = 1 then some s.eth.seq else none

/-- The next sequence number, after a frame that carried one. -/
def State.nextSeq (s : State) : State := { s with eth := { s.eth with seq := (s.eth.seq + 1) % 2 ^ 16 } }

/-- An event message is sent on port `p`: it leaves with its egress timestamp in it, is counted, and its stamp is queued (R218). DEDUCED,
log 97. -/
def State.sendEvent (s : State) (port : EthPort) (kind seq requester : Nat) (corr : Int) : State :=
  let p := portIx port
  let st := s.egress p
  let t := s.emit (.ptpOwn port kind seq (s.portIdentity p) requester s.hsrTag st corr)
  ((if s.eth.mode = 1 then t.nextSeq else t).cnt (txOk p)).timeQueue (txtsAddr p) (st / 5 % 2 ^ 32 + 2 ^ 32 * (seq % 2 ^ 16))

/-! ### Domains (R214, R215) -/

/-- A domain replaced. -/
def State.setDom (s : State) (d : Dom) (x : Domain) : State := s.withTime (s.time.setDom d x)

/-- A domain. -/
def State.dom (s : State) (d : Dom) : Domain := s.time.dom d

/-- The time base of a domain. -/
def domTb : Dom → Nat
  | .a => 0
  | .b => 1

/-- PTP_EN of a domain. -/
def ptpEnFld : Dom → Fld
  | .a => F.TIME_DOMCFG_PTP_EN_A
  | .b => F.TIME_DOMCFG_PTP_EN_B

/-- The domainNumber of a domain. -/
def State.domNum (s : State) : Dom → Nat
  | .a => s.get F.TIME_DOMCFG_DOMAIN_A
  | .b => s.get F.TIME_DOMCFG_DOMAIN_B

/-- Both domains are enabled with one domainNumber (R214). -/
def State.domClash (s : State) : Bool :=
  s.on F.TIME_DOMCFG_PTP_EN_A && s.on F.TIME_DOMCFG_PTP_EN_B && s.domNum .a = s.domNum .b

/-- A domain's state replaced, with DOMAIN_STATE raised where R214 says so. DEDUCED, log 85. -/
def State.goDom (s : State) (d : Dom) (st : Nat) (ev : Bool) : State :=
  let s := s.put (domStateFld d) st
  if ev then s.raise Base.TIME 2 else s

/-- The master selection of a domain is dropped (R214). -/
def State.dropMaster (s : State) (d : Dom) : State :=
  s.setDom d { s.dom d with master := none, foreign := [], steps := [none, none], inLock := 0, outLock := 0, lastSync := [none, none] }

/-- A domain after its enable or its number has been written (R214). -/
def State.domWritten (s : State) (d : Dom) (number : Bool) : State :=
  let on := s.on (ptpEnFld d) && !(decide (d = .b) && s.domClash)
  if !on then (if s.domState d = 0 then s else (s.dropMaster d).goDom d 0 false)
  else if s.domState d = 0 || number then (s.dropMaster d).goDom d 1 false
  else s

/-- After a write of TIME_DOMCFG; `a` and `b` say whether it wrote the number of domain A and of domain B (R214). DEDUCED, log 86. -/
def State.domcfgWritten (s : State) (a b : Bool) : State :=
  let s := if s.domClash then s.put F.TIME_FAULT_STAT_DOM_CLASH 1 else s
  (s.domWritten .a a).domWritten .b b

/-- Ticks of an interval of 2^`l` s, for `l` ≥ −7. -/
def intervalTicks (l : Int) : Nat := if 0 ≤ l then sec * 2 ^ l.toNat else sec / 2 ^ (-l).toNat

/-- Whether port `p` (0 or 1) has had a Sync of the selected master within 3 Sync intervals (R214, R215). -/
def State.syncRecent (s : State) (d : Dom) (p : Nat) : Bool :=
  match (s.dom d).lastSync.getD p none with
  | some t => decide (s.now < t + 3 * intervalTicks (s.dom d).logSync)
  | none => false

/-- Whether port `p` (0 or 1) has missed 3 Sync intervals, counted from its last Sync or from the selection of the master (R215). -/
def State.syncMissed (s : State) (d : Dom) (p : Nat) : Bool :=
  let x := s.dom d
  decide ((x.lastSync.getD p none).getD x.selAt + 3 * intervalTicks x.logSync ≤ s.now)

/-- The port with the lower stepsRemoved of the selected master, E1 on a tie (R215): 1 or 2. -/
def bestPort (steps : List (Option Nat)) : Nat :=
  match steps.getD 0 none, steps.getD 1 none with
  | some a, some b => if b < a then 2 else 1
  | none, some _ => 2
  | _, _ => 1

/-- The port a domain uses, chosen again: a port that misses its Syncs while the other receives them is not chosen (R215). -/
def State.choosePort (s : State) (d : Dom) : State :=
  let x := s.dom d
  let p := bestPort x.steps
  let p := if s.syncRecent d (2 - p) && s.syncMissed d (p - 1) then 3 - p else p
  s.setDom d { x with port := p }

/-- TIME_DOMx_MPD from the port in use. -/
def State.updMpd (s : State) : State :=
  (s.setReg A.TIME_DOMA_MPD (BitVec.ofNat 32 (s.time.mpd.getD ((s.dom .a).port - 1) 0))).setReg A.TIME_DOMB_MPD
    (BitVec.ofNat 32 (s.time.mpd.getD ((s.dom .b).port - 1) 0))

/-- |offset| limits in 2⁻⁴⁰ of a tick: LOCK_THR in ns and STEP_THR in µs, 0 acting as 1 (R214). -/
def State.lockThr (s : State) : Nat := s.getOr F.TIME_LOCKCFG_LOCK_THR 1 * 5 * unit40
/-- STEP_THR. -/
def State.stepThr (s : State) : Nat := s.getOr F.TIME_SERVO_STEP_THR 1 * us * unit40

/-- The offset from master a Sync measures, in 2⁻⁴⁰ of a tick: the domain's time at ingress less origin, correction and
meanLinkDelay (R213, R216). -/
def State.syncOffset (s : State) (d : Dom) (m : SyncMsg) : Int :=
  let p := portIx m.port
  let x := s.dom d
  let ago := (s.time.tb2 : Int) - s.ingress p m.stamp
  let tIn := (x.tf : Int) - ago * ((unit40 : Int) + x.rate)
  tIn - ((m.origin * 5 * unit40 : Nat) : Int) - m.corr * 5 * 2 ^ 24 - ((s.time.mpd.getD p 0 * 5 * 2 ^ 36 : Nat) : Int)

/-- A domain's time base is stepped by the offset: it wraps, crosses compare targets forward, and never fires one backward (R207,
R214, R220). -/
def State.stepDomain (s : State) (d : Dom) (off : Int) : State :=
  let n := domTb d
  let v0 := s.tb n
  let before := s.tbFull n
  let s := s.setDom d { s.dom d with tf := ((s.dom d).tf - off).toNat, inLock := 0 }
  let s := if before < s.tbFull n then s.stepCross n v0 (s.tbFull n - before) else s
  s.wrapTb n

/-- The domain servo and lock state after an offset (R214). The rate the domain servo chooses is open: an opaque function. DEDUCED,
log 95. -/
def State.judgeOffset (s : State) (d : Dom) (off : Int) : State :=
  let s := s.setDom d { s.dom d with rate := Config.domainRate (s.dom d).rate off }
  let x := s.dom d
  match s.domState d with
  | 2 =>
    if s.stepThr < off.natAbs then s.stepDomain d off
    else
      let n := if off.natAbs ≤ s.lockThr then x.inLock + 1 else 0
      if 16 ≤ n then (s.setDom d { x with inLock := 0, outLock := 0, lockedAt := s.now }).goDom d 3 true
      else s.setDom d { x with inLock := n }
  | 3 =>
    let n := if s.lockThr < off.natAbs then x.outLock + 1 else 0
    if 4 ≤ n then (s.setDom d { x with inLock := 0, outLock := 0 }).goDom d 2 true else s.setDom d { x with outLock := n }
  | 4 => (s.setDom d { x with inLock := 0, outLock := 0 }).goDom d 2 true
  | _ => s

/-- The domain a domainNumber belongs to, if it is tracked and enabled. -/
def State.domOf (s : State) (num : Nat) : Option Dom :=
  if s.domState .a ≠ 0 && s.domNum .a = num then some .a
  else if s.domState .b ≠ 0 && s.domNum .b = num then some .b
  else none

/-- A PTP frame is discarded and counted (R213). -/
def State.ptpDrop (s : State) : State := s.cnt F.TIME_PTP_DROP

/-- The Sync counter of a domain. -/
def syncCnt : Dom → Fld
  | .a => F.TIME_SYNC_RX_A
  | .b => F.TIME_SYNC_RX_B

/-- A Sync of the selected master (R213–R215). DEDUCED, log 96. -/
def State.syncRx (s : State) (d : Dom) (m : SyncMsg) : State :=
  let p := portIx m.port
  let x := s.dom d
  let s := s.setDom d { x with lastSync := setAt x.lastSync p (some s.now), logSync := m.logInt }
  let resumes := s.domState d = 4 && x.port ≠ p + 1
  if x.port ≠ p + 1 && !resumes then s
  else if resumes && s.syncRecent d (x.port - 1) then (s.setDom d { s.dom d with inLock := 0, outLock := 0 }).goDom d 2 true
  else
    let s := s.setDom d { s.dom d with port := p + 1 }
    let off := s.syncOffset d m
    let ns := clampI (-(2 ^ 31)) (2 ^ 31 - 1) (divHalfEven off (5 * unit40))
    let s := (s.cnt (syncCnt d)).setReg (match d with | .a => A.TIME_DOMA_OFFS | .b => A.TIME_DOMB_OFFS) (BitVec.ofInt 32 ns)
    (s.judgeOffset d off).updMpd

/-- PTP_SYNC_RX (R213–R216): on E3, or with an interval outside −4 to +1, it is discarded; one of an untracked domain or of another
master changes nothing. -/
def execPtpSyncRx (m : SyncMsg) (s : State) : Host.Outcome State Fault Refusal :=
  if m.port = .e3 || decide (m.logInt < -4) || decide (1 < m.logInt) then .next s.ptpDrop
  else if !s.portUp (portIx m.port) then .next s
  else
    match s.domOf m.domain with
    | none => .next s
    | some d => .next (if (s.dom d).master = some m.source then s.syncRx d m else s)

/-! ### Best master (R213; the comparison of IEEE 1588-2019, PRESUMED) -/

/-- The data set comparison's order: priority1, clockClass, clockAccuracy, variance, priority2, grandmaster identity, stepsRemoved,
sender identity, receiving port. -/
def Foreign.key (f : Foreign) : List Nat := [f.p1, f.cls, f.acc, f.var, f.p2, f.gm, f.steps, f.id, f.port]

/-- Lexicographic order. -/
def lexLt : List Nat → List Nat → Bool
  | a :: s, b :: t => decide (a < b) || (decide (a = b) && lexLt s t)
  | _, _ => false

/-- A foreign master is qualified: two Announces within four Announce intervals, the last not yet timed out. -/
def Foreign.qualified (f : Foreign) (now : Nat) : Bool :=
  (match f.prev with | some t => decide (now ≤ t + 4 * intervalTicks f.logInt) | none => false) &&
    decide (now < f.time + 3 * intervalTicks f.logInt)

/-- The best qualified foreign master. -/
def bestForeign (now : Nat) (l : List Foreign) : Option Foreign :=
  (l.filter (fun f => f.qualified now)).foldl (fun (b : Option Foreign) f =>
    match b with
    | none => some f
    | some g => if lexLt f.key g.key then some f else some g) none

/-- stepsRemoved of master `id` on port `p` (1 or 2), while its Announces arrive there. -/
def stepsOn (now : Nat) (l : List Foreign) (id p : Nat) : Option Nat :=
  (l.find? (fun f => f.id = id ∧ f.port = p ∧ now < f.time + 3 * intervalTicks f.logInt)).map (·.steps)

/-- An Announce enters a domain's foreign master list. -/
def addForeign (now p : Nat) (m : AnnMsg) (l : List Foreign) : List Foreign :=
  let old := l.find? (fun f => f.id = m.source ∧ f.port = p)
  ⟨m.source, m.p1, m.cls, m.acc, m.var, m.p2, m.gm, m.steps, p, m.logInt, now, old.map (·.time)⟩ ::
    l.filter (fun f => !(decide (f.id = m.source) && decide (f.port = p)))

/-- The steps and the port of the selected master after an Announce of it (R215). -/
def State.masterPorts (s : State) (d : Dom) : State :=
  let x := s.dom d
  match x.master with
  | none => s
  | some id =>
    (s.setDom d { x with steps := [stepsOn s.now x.foreign id 1, stepsOn s.now x.foreign id 2] }).choosePort d

/-- BMCA's choice applied: in LISTENING and UNCALIBRATED another master is selected (R214). PRESUMED, log 92. DEDUCED, log 93. -/
def State.bmca (s : State) (d : Dom) : State :=
  let x := s.dom d
  match bestForeign s.now x.foreign with
  | none => s
  | some f =>
    if (s.domState d = 1 || s.domState d = 2) && x.master ≠ some f.id then
      let y : Domain := { x with
        master := some f.id, inLock := 0, outLock := 0, lastSync := [none, none], selAt := s.now, lastAnn := s.now, logAnn := f.logInt }
      ((s.setDom d y).masterPorts d).goDom d 2 false
    else s

/-- A backup-domain register is about to change: until the next 1/32,768 s the main-domain copy shows what it shows now (R225). -/
def State.backupNote (s : State) (a : Nat) : State :=
  let i := s.rtc.calF / subUnit
  match KMap.get (fun _ => none) s.rtc.shown a with
  | some (j, _) => if i = j then s else { s with rtc := { s.rtc with shown := KMap.set (fun _ => none) s.rtc.shown a (some (i, s.reg a)) } }
  | none => { s with rtc := { s.rtc with shown := KMap.set (fun _ => none) s.rtc.shown a (some (i, s.reg a)) } }

/-- The main-domain copy of a backup-domain register, refreshed each 1/32,768 s, from which it is read (R225). -/
def State.backupCopy (s : State) (a : Nat) : Word :=
  match KMap.get (fun _ => none) s.rtc.shown a with
  | some (j, v) => if s.rtc.calF / subUnit = j then v else s.reg a
  | none => s.reg a

/-- RTC_UTC from the master's Announce, while SYNC_EN = 1 and the CTB is TRACKING on the domain (R224). -/
def State.utcFrom (s : State) (d : Dom) (m : AnnMsg) : State :=
  if s.on F.RTC_CTRL_SYNC_EN && s.ctbState = ctbTracking && s.get F.TIME_STAT_SRC_ACT = domTb d && m.utcValid then
    ((((s.backupNote A.RTC_UTC).put F.RTC_UTC_UTC_OFFSET (tc 16 m.utcOffset)).put F.RTC_UTC_LEAP61 (b2n m.leap61)).put F.RTC_UTC_LEAP59
      (b2n m.leap59)).put F.RTC_UTC_UTC_VALID 1
  else s

/-- An Announce of a tracked domain (R213–R215, R224). -/
def State.announceRx (s : State) (d : Dom) (m : AnnMsg) : State :=
  let x := s.dom d
  let s := s.setDom d { x with foreign := addForeign s.now (portIx m.port + 1) m x.foreign }
  let s := s.bmca d
  if (s.dom d).master = some m.source then
    let s := s.setDom d { s.dom d with lastAnn := s.now, logAnn := m.logInt }
    ((s.masterPorts d).utcFrom d m).updMpd
  else s.updMpd

/-- PTP_ANNOUNCE_RX (R213, R219): discarded on E3 and with an interval outside −3 to +1; not processed while the supervisor is down. -/
def execPtpAnnounceRx (m : AnnMsg) (s : State) : Host.Outcome State Fault Refusal :=
  if m.port = .e3 || decide (m.logInt < -3) || decide (1 < m.logInt) then .next s.ptpDrop
  else if !s.portUp (portIx m.port) || !s.on F.SYS_STAT_SVR_UP then .next s
  else
    match s.domOf m.domain with
    | none => .next s
    | some d => .next (s.announceRx d m)

/-- The domain loses its Sync or its master: LOCKED goes to HOLDOVER with its rate frozen (R214). -/
def State.domHold (s : State) (d : Dom) : State :=
  if s.domState d = 3 then (s.setDom d { s.dom d with holdAt := s.now, inLock := 0, outLock := 0 }).goDom d 4 true else s

/-- SYNC_TIMEOUT (R214, R215): the port in use misses 3 Sync intervals; the alternate takes over without a state change where it
receives Sync from the same master, else a LOCKED domain goes to HOLDOVER. -/
def execSyncTimeout (d : Dom) (s : State) : Host.Outcome State Fault Refusal :=
  let x := s.dom d
  if x.master.isNone || s.domState d = 0 then .next s
  else
    let s := s.until ((x.lastSync.getD (x.port - 1) none).getD x.selAt + 3 * intervalTicks x.logSync)
    if s.syncRecent d (2 - x.port) then .next (s.setDom d { s.dom d with port := 3 - x.port }).updMpd
    else .next (s.domHold d)

/-- ANNOUNCE_TIMEOUT (R213, R214, R219): three intervals without an Announce of the selected master; not judged while the supervisor
is down. DEDUCED, log 94. -/
def execAnnounceTimeout (d : Dom) (s : State) : Host.Outcome State Fault Refusal :=
  if (s.dom d).master.isNone || !s.on F.SYS_STAT_SVR_UP then .next s
  else .next ((s.until ((s.dom d).lastAnn + 3 * intervalTicks (s.dom d).logAnn)).domHold d)

/-- At the end of a supervisor restart the announce receipt timers start again (R219). -/
def State.annRestart (s : State) : State :=
  (s.setDom .a { s.dom .a with lastAnn := s.now }).setDom .b { s.dom .b with lastAnn := s.now }

/-- DOMAIN_HOLDOVER_EXPIRY (R214): HOLD_S seconds in HOLDOVER return the domain to LISTENING. -/
def execDomainHoldoverExpiry (d : Dom) (s : State) : Host.Outcome State Fault Refusal :=
  if s.domState d = 4 then
    let s := s.until ((s.dom d).holdAt + s.getOr F.TIME_LOCKCFG_HOLD_S 1 * sec)
    .next ((s.setDom d { s.dom d with master := none, steps := [none, none], lastSync := [none, none] }).goDom d 1 true)
  else .next s

/-! ### Path delay (R213, R216, R218) -/

/-- A Pdelay_Req leaves on a port that is up. -/
def State.pdelayReq (s : State) (port : EthPort) : State :=
  let p := portIx port
  if !s.portUp p then s
  else
    let seq := s.time.pdSeq.getD p 0
    let st := s.egress p
    (s.withTime { s.time with pdSeq := setAt s.time.pdSeq p ((seq + 1) % 2 ^ 16), pdSent := setAt s.time.pdSent p (some (st, seq)) }).sendEvent
      port 2 seq 0 0

/-- PDELAY_TIMER (R213): each second a Pdelay_Req is sent on each port. -/
def execPdelayTimer (s : State) : Host.Outcome State Fault Refusal :=
  let s := s.until (s.time.pdAt + sec)
  .next (((s.withTime { s.time with pdAt := s.now }).pdelayReq .e1).pdelayReq .e2)

/-- The turnaround of a Pdelay_Resp that leaves now, in 2⁻¹⁶ ns: its egress timestamp less the ingress timestamp of the request (R213,
R216, R218). -/
def State.turnaround (s : State) (p stamp : Nat) : Int := divHalfEven (((s.egress p : Int) - s.ingress p stamp) * 2 ^ 16) 5

/-- PDELAY_REQ_RX (R213, R218): answered one-step with Pdelay_Resp, whose correctionField takes the turnaround; discarded on E3. -/
def execPdelayReqRx (m : PdReq) (s : State) : Host.Outcome State Fault Refusal :=
  if m.port = .e3 then .next s.ptpDrop
  else if !s.portUp (portIx m.port) then .next s
  else .next (s.sendEvent m.port 3 m.seq m.source (s.turnaround (portIx m.port) m.stamp))

/-- PDELAY_RESP_RX (R213): the answer to the outstanding Pdelay_Req gives meanLinkDelay, half of the round trip less the responder's
turnaround, in 1/16 ns. -/
def execPdelayRespRx (m : PdResp) (s : State) : Host.Outcome State Fault Refusal :=
  let p := portIx m.port
  if m.port = .e3 then .next s.ptpDrop
  else
    match s.time.pdSent.getD p none with
    | none => .next s
    | some (st, seq) =>
      if seq ≠ m.seq then .next s
      else
        let d := divHalfEven ((s.ingress p m.stamp - (st : Int)) * 16 - 5 * m.turn) 10
        .next (s.withTime { s.time with mpd := setAt s.time.mpd p d.toNat, pdSent := setAt s.time.pdSent p none }).updMpd

/-! ### The transparent clock (R217) -/

/-- The rate a residence time is scaled by: the domain's for DOMAIN_A and DOMAIN_B, else none (R217). -/
def State.tcRate (s : State) (num : Nat) : Int :=
  if s.domNum .a = num then (s.dom .a).rate else if s.domNum .b = num then (s.dom .b).rate else 0

/-- The correctionField of a forwarded Sync, in 2⁻¹⁶ ns (R217). -/
def State.tcCorr (s : State) (f : TcFrame) : Int :=
  let p := portIx f.port
  let res := (s.egress (1 - p) : Int) - s.ingress p f.stamp
  let c := f.corr + divHalfEven (res * ((unit40 : Int) + s.tcRate f.domain) * 2 ^ 16) (5 * unit40) +
    ((s.time.mpd.getD p 0 * 2 ^ 12 : Nat) : Int)
  if 2 ^ 63 - 1 < c then 2 ^ 63 - 1 else c

/-- The number an output names a frame kind by. -/
def tcKindNo : TcKind → Nat
  | .sync => 0
  | .delay => 1
  | .followUp => 8
  | .announce => 11
  | .signalling => 12
  | .management => 13
  | .pdelay => 2

/-- E1 and E2 run at different speeds in HSR, so that nothing is forwarded (R231). -/
def State.hsrMismatch (s : State) : Bool :=
  s.eth.mode = 1 && s.on (linkFld 0) && s.on (linkFld 1) && s.get (spdFld 0) ≠ s.get (spdFld 1)

/-- The ring forwards: HSR, both ports up, at one speed (R231, R233). -/
def State.ringForwards (s : State) : Bool := s.eth.mode = 1 && s.portUp 0 && s.portUp 1 && !s.hsrMismatch

/-- TC_FORWARD (R217, R213): one-step peer-to-peer forwarding between E1 and E2 in HSR with TC_EN = 1. Pdelay messages end at the port;
Delay messages are discarded and counted, as is any frame on E3. -/
def execTcForward (f : TcFrame) (s : State) : Host.Outcome State Fault Refusal :=
  if f.port = .e3 || f.kind = .delay then .next s.ptpDrop
  else if !s.on F.TIME_DOMCFG_TC_EN || !s.ringForwards || f.kind = .pdelay then .next s
  else
    let out : EthPort := if f.port = .e1 then .e2 else .e1
    let c := if f.kind = .sync then s.tcCorr f else f.corr
    .next (((s.emit (.ptp out (tcKindNo f.kind) c f.tag.toNat)).cnt (txOk (portIx out))).cnt F.TIME_TC_FWD)

end Sys2Proof.Machine
end

