-- ==== Sys2Proof/Machine/Eth.lean ====
section
/-! DEFINITION. The Ethernet ports: frames, PRP and HSR, supervision, links (R229–R236, R254). -/

namespace Sys2Proof.Machine

open Sys2Proof

/-- The Ethernet section replaced. -/
def State.withEth (s : State) (e : EthSt) : State := { s with eth := e }

/-- LIFE_MS in ticks: values outside 100 to 10,000 act as the nearer bound (R232). -/
def State.lifeTicks (s : State) : Nat := clampN 100 10000 (s.get F.ETH_RED_LIFE_MS) * ms

/-- NODE_FORGET in ticks; 0 acts as 1 s (R232). -/
def State.forgetTicks (s : State) : Nat := s.getOr F.ETH_RED_NODE_FORGET 1 * sec

/-- EntryForgetTime: 400 ms (R232). -/
def entryForget : Nat := 400 * ms

/-! ### Sending (R232–R234) -/

/-- The address a port sends under: E1 and E2 share the base address, E3 has base + 1 (R230). -/
def State.portMac (s : State) (p : Nat) : Nat := s.macBase + b2n (decide (p = 2))

/-- A frame leaves port `p`, with its trailer or tag, where the port is up. -/
def State.sendOn (s : State) (p kind src : Nat) (rct : Option (Nat × Bool)) (tag : Option Nat) : State :=
  if s.portUp p then (s.emit (.eth p kind src rct tag)).cnt (txOk p) else s

/-- A frame of the module leaves on the interface E3, or on E1/E2 as the redundancy mode says: in PRP on both LANs, each copy with the trailer
that names its LAN, in HSR tagged in both directions, both under the next sequence number (R232, R233). -/
def State.sendFrame (s : State) (e3 : Bool) (kind : Nat) : State :=
  let q := s.eth.seq
  if e3 then s.sendOn 2 kind (s.portMac 2) none none
  else if s.eth.mode = 2 then s.sendOn 0 kind (s.portMac 0) none none
  else if s.eth.mode = 0 then (s.nextSeq.sendOn 0 kind (s.portMac 0) (some (q, true)) none).sendOn 1 kind (s.portMac 1) (some (q, false)) none
  else (s.nextSeq.sendOn 0 kind (s.portMac 0) none (some q)).sendOn 1 kind (s.portMac 1) none (some q)

/-! ### Receiving -/

/-- A copy with this source and sequence number has been accepted within EntryForgetTime (R232). -/
def seenCopy (now src seq : Nat) (l : List (Nat × Nat × Nat)) : Bool :=
  l.any (fun (x : Nat × Nat × Nat) => decide (x.1 = src ∧ x.2.1 = seq ∧ now < x.2.2 + entryForget))

/-- A copy noted; entries past EntryForgetTime leave. -/
def addCopy (now src seq : Nat) (l : List (Nat × Nat × Nat)) : List (Nat × Nat × Nat) :=
  (src, seq, now) :: l.filter (fun (x : Nat × Nat × Nat) => decide (now < x.2.2 + entryForget))

/-- Elapsed ticks of a node's latest frame. -/
def PrpNode.last (n : PrpNode) : Nat := max (n.a.getD n.first) (n.b.getD n.first)

/-- The node table without its least recently seen node. -/
def dropOldest (l : List PrpNode) : List PrpNode :=
  match l.foldl (fun (b : Option PrpNode) n => match b with | none => some n | some o => if n.last < o.last then some n else some o) none with
  | none => l
  | some o => l.filter (fun n => n.mac ≠ o.mac)

/-- A node heard on LAN A or B enters the table or is brought up to date (R232). -/
def State.nodeHeard (s : State) (mac : Nat) (lanA : Bool) : State :=
  let l := s.eth.nodes
  match l.find? (fun n => n.mac = mac) with
  | some n =>
    let other := if lanA then n.b else n.a
    let own := if lanA then n.a else n.b
    let both := n.raised && other.isSome && decide (own.getD n.first ≤ other.getD n.first)
    let n := if lanA then { n with a := some s.now } else { n with b := some s.now }
    let n := if both then { n with raised := false } else n
    s.withEth { s.eth with nodes := n :: l.filter (fun m => m.mac ≠ mac) }
  | none =>
    let l := if 512 ≤ l.length then dropOldest l else l
    s.withEth { s.eth with nodes := ⟨mac, s.now, if lanA then some s.now else none, if lanA then none else some s.now, false⟩ :: l }

/-- RING_CLOSED from the returns of own supervision frames (R233). -/
def State.ringJudge (s : State) : State :=
  let fresh (p : Nat) : Bool := match s.eth.own.getD p none with | some t => decide (s.now ≤ t + 2 * s.lifeTicks) | none => false
  let closed := fresh 0 && fresh 1 && !s.hsrMismatch
  let was := s.on F.ETH_STAT_RING_CLOSED
  let s := s.put F.ETH_STAT_RING_CLOSED (b2n closed)
  if was && !closed then s.raise Base.ETH 2 else s

/-- The address of the interface a port belongs to (R236). -/
def State.ethAddr (s : State) (p : EthPort) : Nat := if p = .e3 then s.get F.ETH_IP3 else s.get F.ETH_IP12

/-- What the module does with an accepted frame (R235, R236): the supervisor answers ARP and ICMP echo, discards what it does not
serve, and while it is down every frame for it is discarded; a datagram to UDP_PORT of an interface goes to the remote service. An interface
whose address is 0.0.0.0 answers nothing. -/
def State.upward (s : State) (p : Nat) (k : EthKind) : State :=
  let ip := s.ethAddr (if p = 2 then .e3 else .e1)
  match k with
  | .ptp | .supervision | .pause | .otherLink => s
  | _ =>
    if !s.on F.SYS_STAT_SVR_UP then s.cnt (rxDrop p)
    else
      match k with
      | .arp => if ip = 0 then s else s.sendFrame (p = 2) 1
      | .icmpEcho => if ip = 0 then s else s.sendFrame (p = 2) 2
      | .udp port => if ip ≠ 0 ∧ port = s.get F.ETH_RRA then s else s.cnt (rxDrop p)
      | _ => s.cnt (rxDrop p)

/-- A frame taken in on port `p`. -/
def State.takeIn (s : State) (p : Nat) (k : EthKind) : State := (s.cnt (rxOk p)).upward p k

/-- Whether the port takes a frame addressed so (R229). -/
def forUs (d : EthDst) : Bool := d ≠ .other

/-- PRP reception on E1 or E2 (R232): the node table, the LAN named by the trailer, and discard of the second copy. -/
def State.prpRx (s : State) (f : EthFrame) : State :=
  let p := portIx f.port
  let s := s.nodeHeard f.src (p = 0)
  if !forUs f.dst then s
  else
    match f.rct with
    | none => s.takeIn p f.kind
    | some (seq, lanA) =>
      let s := if lanA ≠ decide (p = 0) then s.cnt F.ETH_WRONG_LAN else s
      if seenCopy s.now f.src seq s.eth.copies then s.cnt F.ETH_DUP_DISCARD
      else (s.withEth { s.eth with copies := addCopy s.now f.src seq s.eth.copies }).takeIn p f.kind

/-- HSR reception on E1 or E2 (R233): own frames are removed, others forwarded once in each direction and taken in once. -/
def State.hsrRx (s : State) (f : EthFrame) : State :=
  let p := portIx f.port
  if f.src = s.macBase then
    let s := s.cnt F.ETH_HSR_OWN_REMOVED
    if f.kind = .supervision then (s.withEth { s.eth with own := setAt s.eth.own p (some s.now) }).ringJudge else s
  else
    match f.tag with
    | none => if forUs f.dst then s.takeIn p f.kind else s
    | some seq =>
      let s :=
        let sent := s.eth.ringCopies.getD (1 - p) []
        if f.dst = .own || !s.ringForwards || seenCopy s.now f.src seq sent then s
        else
          let s := s.withEth { s.eth with ringCopies := setAt s.eth.ringCopies (1 - p) (addCopy s.now f.src seq sent) }
          (s.sendOn (1 - p) 3 f.src none (some seq)).cnt F.ETH_HSR_FWD
      if !forUs f.dst then s
      else if seenCopy s.now f.src seq s.eth.copies then s.cnt F.ETH_DUP_DISCARD
      else (s.withEth { s.eth with copies := addCopy s.now f.src seq s.eth.copies }).takeIn p f.kind

/-- A PTP frame: discarded on E3; on E1 and E2 exempt from duplicate discard, and received on each port separately (R213, R234). One addressed
elsewhere is discarded without counting (R229). -/
def State.ptpFrame (s : State) (f : EthFrame) : State :=
  let p := portIx f.port
  let s := if p < 2 && s.eth.mode = 0 then s.nodeHeard f.src (p = 0) else s
  if !forUs f.dst then s else if p = 2 then s.ptpDrop else s.cnt (rxOk p)

/-- ETH_FRAME_RX (R229, R232–R236). -/
def execEthFrameRx (f : EthFrame) (s : State) : Host.Outcome State Fault Refusal :=
  let p := portIx f.port
  if !s.portUp p then .next s
  else if !f.fcsOk || decide (f.octets < 64) || decide (1522 < f.octets) then .next (s.cnt (rxErr p))
  else if f.kind = .pause then .next (s.cnt (rxDrop p))
  else if f.kind = .ptp then .next (s.ptpFrame f)
  else if p < 2 && s.eth.mode = 0 then .next (s.prpRx f)
  else if p < 2 && s.eth.mode = 1 then .next (s.hsrRx f)
  else .next (if forUs f.dst then s.takeIn p f.kind else s)

/-! ### Redundancy (R231–R233) -/

/-- BAD_MODE is set and ETH_MODE raised (R231, R254). -/
def State.badMode (s : State) : State :=
  if s.on F.ETH_FAULT_STAT_BAD_MODE then s else (s.put F.ETH_FAULT_STAT_BAD_MODE 1).raise Base.ETH 6

/-- RING_CLOSED falls: ETH_RING_OPEN is raised (R233). -/
def State.openRing (s : State) : State :=
  if s.on F.ETH_STAT_RING_CLOSED then (s.put F.ETH_STAT_RING_CLOSED 0).raise Base.ETH 2 else s

/-- Ports at different speeds in HSR (R231, R233). -/
def State.judgeSpeeds (s : State) : State := if s.hsrMismatch then s.openRing.badMode else s

/-- LINK of port `p` changes (R254). -/
def State.setPortLink (s : State) (p : Nat) (up fast : Bool) : State :=
  let was := s.on (linkFld p)
  let s := (s.put (linkFld p) (b2n up)).put (spdFld p) (b2n (up && fast))
  let s := if was ≠ up then s.raise Base.ETH 0 else s
  s.judgeSpeeds

/-- The ports that no longer are enabled lose their links. -/
def State.darkPorts (s : State) : State :=
  [0, 1, 2].foldl (fun (t : State) p => if !t.portOn p && t.on (linkFld p) then t.setPortLink p false false else t) s

/-- E12_EN goes from 0 to 1: the redundancy mode and the speed are taken (R231). -/
def State.e12Up (s : State) : State :=
  let m := s.get F.ETH_CTRL_RED_MODE
  let s := s.openRing
  let s := s.withEth { s.eth with mode := min m 2, mode3 := decide (m = 3), speed := s.get F.ETH_CTRL_E12_SPEED, lifeAt := s.now, own := [none, none], nodes := [],
                                  copies := [], ringCopies := [[], []] }
  (if m = 3 then s.badMode else s).judgeSpeeds

/-- After a write of ETH_CTRL whose former value was `old`. -/
def State.ethCtrlWritten (s : State) (old : Word) : State :=
  let s := if !old.toNat.testBit 0 && s.on F.ETH_CTRL_E12_EN then s.e12Up else s
  s.darkPorts

/-- Whether a link speed is one the port's setting allows: 0 and 3 auto, 1 100 Mb/s, 2 1000 Mb/s. -/
def speedOk (cfg : Nat) (fast : Bool) : Bool := if cfg = 1 then !fast else if cfg = 2 then fast else true

/-- ETH_LINK_CHANGE (R254): the link of a port comes up, where it is enabled, holds an SFP and may run at that speed, or goes down. -/
def execEthLinkChange (p : EthPort) (up fast : Bool) (s : State) : Host.Outcome State Fault Refusal :=
  let i := portIx p
  let cfg := if i = 2 then s.get F.ETH_CTRL_E3_SPEED else s.eth.speed
  if up && !(s.portOn i && s.on (sfpFld i) && speedOk cfg fast) then .next s else .next (s.setPortLink i up fast)

/-- Neither TX_FAULT nor LOS. -/
def noSfp : SfpPins := ⟨false, false⟩

/-- A port's SFP reports TX_FAULT or LOS. -/
def State.sfpFails (s : State) (p : Nat) : Bool := (s.eth.sfpBad.getD p noSfp).txFault || (s.eth.sfpBad.getD p noSfp).los

/-- SFP_CHANGE (R254): an SFP is inserted or removed, or TX_FAULT or LOS changes. -/
def execSfpChange (p : EthPort) (present : Bool) (pins : SfpPins) (s : State) : Host.Outcome State Fault Refusal :=
  let i := portIx p
  let pins := if present then pins else noSfp
  let bad := pins.txFault || pins.los
  if s.on (sfpFld i) = present && s.eth.sfpBad.getD i noSfp = pins then .next s
  else
    let s := (s.withEth { s.eth with sfpBad := setAt s.eth.sfpBad i pins }).put (sfpFld i) (b2n present)
    let s := if bad && s.portOn i then s.put F.ETH_FAULT_STAT_SFP_FAULT 1 else s
    let s := s.raise Base.ETH 5
    .next (if !present && s.on (linkFld i) then s.setPortLink i false false else s)

/-- SUPERVISION_TIMER (R232, R233): every LIFE_MS a supervision frame leaves in PRP and HSR. -/
def execSupervisionTimer (s : State) : Host.Outcome State Fault Refusal :=
  if s.on F.ETH_CTRL_E12_EN && s.eth.mode ≠ 2 then
    let s := s.until (s.eth.lifeAt + s.lifeTicks)
    .next ((s.withEth { s.eth with lifeAt := s.now }).sendFrame false 4)
  else .next s

/-- LAN_FAULT_TIMEOUT (R232): a node heard on one LAN only for 3 × LIFE_MS raises ETH_LAN_FAULT once. DEDUCED, log 106. -/
def execLanFaultTimeout (mac : BitVec 48) (s : State) : Host.Outcome State Fault Refusal :=
  match s.eth.nodes.find? (fun n => n.mac = mac.toNat) with
  | none => .next s
  | some n =>
    let ta := n.a.getD n.first
    let tb := n.b.getD n.first
    let silent := if n.a.isNone then n.first else if n.b.isNone then n.first else min ta tb
    let t := s.until (silent + 3 * s.lifeTicks)
    if s.eth.mode ≠ 0 || n.raised || (n.a.isSome && n.b.isSome && decide (n.last ≤ silent)) || decide (n.last + 3 * s.lifeTicks < t.now) then .next s
    else
      let l := { n with raised := true } :: s.eth.nodes.filter (fun m => m.mac ≠ mac.toNat)
      .next ((t.withEth { t.eth with nodes := l }).raise Base.ETH 1)

/-- NODE_FORGET_EXPIRY (R232): a node not heard for NODE_FORGET seconds leaves the table. -/
def execNodeForgetExpiry (mac : BitVec 48) (s : State) : Host.Outcome State Fault Refusal :=
  match s.eth.nodes.find? (fun n => n.mac = mac.toNat) with
  | none => .next s
  | some n =>
    let t := s.until (n.last + s.forgetTicks)
    .next (t.withEth { t.eth with nodes := s.eth.nodes.filter (fun m => m.mac ≠ mac.toNat) })

/-- RING_OPEN (R233): own supervision frames fail to return on both ports within 2 × LIFE_MS. -/
def execRingOpen (s : State) : Host.Outcome State Fault Refusal :=
  if s.on F.ETH_STAT_RING_CLOSED then
    let t := min ((s.eth.own.getD 0 none).getD 0) ((s.eth.own.getD 1 none).getD 0)
    let s := s.until (t + 2 * s.lifeTicks + 1)
    .next s.openRing
  else .next s

/-- Whether a clear of bit `i` of ETH_FAULT_STAT is accepted. -/
def ethClearOk (s : State) (i : Nat) : Bool :=
  match i with
  | 5 => (List.range 3).all (fun p => !(s.sfpFails p && s.portOn p))
  | 8 => !(s.on F.ETH_CTRL_E12_EN && (s.eth.mode3 || s.hsrMismatch))
  | _ => true

end Sys2Proof.Machine
end

