-- ==== Sys2Proof/Machine/Flt.lean ====
section
/-! DEFINITION. The fault collector's commands (R330, R332) and the event log's read port (R339). -/

namespace Sys2Proof.Machine

open Sys2Proof

/-- CAP_CLR written 1: the record and FLT_MORE clear, and the groom has no captured target left to probe (R330, R332). Errors of the fabric
cycle in progress belong to the new record: one is captured, each of the others counts one in the new FLT_MORE. -/
def State.capClr (s : State) : State :=
  let l := s.fltRecent
  let s := s.put F.FLT_MORE (l.length - 1)
  if s.fltFresh then s
  else
    match firstErr l with
    | some x => (s.fltRecord x).raise Base.FLT 0
    | none =>
      let s := { s with flt := { s.flt with probeBad := false, capAt := none } }
      (s.put F.FLT_STAT_CAP_VALID 0).put F.FLT_FIRST_INFO_VALID 0

/-- CAP_CLR (R330). DEDUCED, log 118. -/
def execCapClr (s : State) : Host.Outcome State Fault Refusal := .next s.capClr

/-- The record held is that of a fabric error (R328, R329). -/
def State.fabricHeld (s : State) : Bool :=
  s.on F.FLT_STAT_CAP_VALID && (s.get F.FLT_FIRST_INFO_CODE = 8 || s.get F.FLT_FIRST_INFO_CODE = 9)

/-- FABRIC_PROBE (R332): the groom's probe of the captured target, whose result `bad` is kept until the next. DESIGN CHOICE, log 117. -/
def execFabricProbe (bad : Bool) (s : State) : Host.Outcome State Fault Refusal :=
  if s.fabricHeld then .next { s with flt := { s.flt with probeBad := bad } } else .next s

/-- Whether the cause of class `c` persists (R332). -/
def State.classPersists (s : State) (c : Nat) : Bool :=
  match c with
  | 1 => s.flt.probeBad
  | 2 => s.flt.poisoned.any (fun p => p.1 = 2)
  | 3 => s.flt.poisoned.any (fun p => p.1 = 3)
  | 4 => s.flt.fifoBad.any s.stillBad
  | 5 => s.on F.FLT_STAT_CAP_VALID && s.get F.FLT_FIRST_INFO_CODE = 13 && s.flash.bad.contains (s.reg A.FLT_FIRST_ADDR).toNat
  | 6 => s.flt.broken ≠ []
  | _ => false

/-- Whether a clear of a W1C bit of FLT is accepted: UE has the causes of classes 2 to 5 (R332, R334). -/
def fltClearOk (s : State) (a i : Nat) : Bool :=
  if a = F.FLT_LASTING.reg then !s.classPersists i
  else match i with
    | 4 => !s.classPersists 6
    | 5 => !(s.classPersists 2 || s.classPersists 3 || s.classPersists 4 || s.classPersists 5)
    | 6 => !s.classPersists 1
    | _ => true

/-- An accepted clear of bits of FLT_LASTING empties the windows of their classes (R332). -/
def fltCleared (s : State) (a cleared : Nat) : State :=
  if a = F.FLT_LASTING.reg then
    (bitIndices 8 cleared).foldl
      (fun t c => { t with flt := { t.flt with times := KMap.set (fun _ => []) t.flt.times c [] } }) s
  else s

/-- A read of EVT_LOG by a master pops the head entry (R339). -/
def State.logPop (s : State) (m : Master) (wide : Bool) : State :=
  let s := (s.fifoPop m evtLogAddr wide F.EVT_LOG_DROP).afterPop evtLogAddr (fun t p => t.logStore p.value)
  s.put F.EVT_STAT_LOG_LEVEL (s.fifo evtLogAddr).length

/-- EVT_LOG_POP (R22, R23, R339): a read of the first dword of EVT_LOG, alone or with the second. -/
def execEvtLogPop (r : ReadReq) (s : State) : Host.Outcome State Fault Refusal :=
  if canon r.addr.toNat = evtLogAddr && s.answers r.master then .next (s.logPop r.master (readWide r)) else .next s

end Sys2Proof.Machine
end

