-- ==== Sys2Proof/Machine/Switch.lean ====
section
/-! DEFINITION. What the regulator and loop controllers command of the half-bridges, and which switches are on (R279, R281, R284, R288–R292). -/

namespace Sys2Proof.Machine

open Sys2Proof

/-- What stands on the two inputs of a half-bridge: since which elapsed ticks each is asserted. -/
structure GateIn where
  high : Option Nat := none
  low : Option Nat := none
  deriving DecidableEq, Repr

/-- The bootstrap charge pulse in hand: 200 ns every 2 µs (R291). -/
def GrpSt.chargePulse (x : GrpSt) (now : Nat) : Option Nat :=
  let d := (now - x.chgAt) % (2 * us)
  if d < 1000 then some (now - d) else none

/-- What a group's controller commands of the driver of phase `j` (R279, R281, R291). -/
def State.phaseIn (s : State) (g j : Nat) : GateIn :=
  let x := s.grp g
  if !(s.phActive g).testBit j then {}
  else if s.dropout g then
    { high := if x.flipLo.testBit j && decide (s.now < x.flipAt + 75) then none else some (max x.ssAt ((x.openReadmit.getD j none).getD 0)) }
  else if s.now < x.ssAt then (if x.chg.testBit j then { low := x.chargePulse s.now } else {})
  else
    match x.pulse.getD j none with
    | none => {}
    | some p =>
      let from' := if x.flipHi.testBit j then x.flipAt + 75 else 0
      ⟨if p.highAt s.now then some p.at0 else none, if p.lowAt s.now && from' ≤ s.now then some (max from' (p.at0 + p.len + 75)) else none⟩

/-- Where a loop's bridge stands in its cycle: in step with the CTB, on the fall-back oscillator at a free place (R284, R286). DESIGN CHOICE,
log 190. -/
def State.loopPos (s : State) (x : Nat) : Nat :=
  let l := s.loopTicks x
  let off := if x = 0 then 0 else F.AUX_PHASE_LOOP_PH.read (s.phaseWord x) % l
  if s.time.stopped then Config.fallback s.now % l else (s.ctb + l - off) % l

/-- DT_LOOP as it acts, in ticks (R284). -/
def State.dtLoop (s : State) (x : Nat) : Nat := 5 * max 50 (s.get (F.AUX_LOOP_CFG_DT_LOOP x))

/-- The switches of a leg at place `p` of a cycle of `l` ticks: upper and lower, with `d` ticks of dead time (R284). -/
def legAt (l d p : Nat) : Bool × Bool := (decide (p < l / 2 - d), decide (l / 2 ≤ p) && decide (p < l - d))

/-- The place of leg 0 or 1 in the cycle where the bridge stands at `p`: the two in antiphase (R284). -/
def legPos (l leg p : Nat) : Nat := if leg = 0 then p else (p + (l - l / 2)) % l

/-- The switches of a leg just before the last change of LOOP_TICKS or LOOP_PH took effect, within 15 ns of it; none on otherwise (R280, R289). -/
def State.legBefore (s : State) (x leg : Nat) : Bool × Bool :=
  let g := s.grp x
  if !s.time.stopped && decide (g.refCtb ≤ s.ctb) && decide (s.ctb < g.refCtb + 75) && decide (0 < g.refCtb) then
    let l := clampN 33334 62500 (F.AUX_SYNC_LOOP_TICKS.read g.sync0)
    let off := if x = 0 then 0 else F.AUX_PHASE_LOOP_PH.read g.phase0 % l
    legAt l (s.dtLoop x) (legPos l leg ((g.refCtb - 1 + l - off) % l))
  else (false, false)

/-- What a loop's controller commands of leg 0 or 1 of its bridge: square waves in antiphase with DT_LOOP of dead time (R284); after a change of
the frequency or the phase a switch waits 15 ns for the other (R289). -/
def State.loopIn (s : State) (x leg : Nat) : GateIn :=
  if s.get (F.AUX_LOOP_STAT_STATE x) = loopRun then
    let l := s.loopTicks x
    let p := legPos l leg (s.loopPos x)
    let on := legAt l (s.dtLoop x) p
    let was := s.legBefore x leg
    ⟨if on.1 && !was.2 then some (s.now - p) else none, if on.2 && !was.1 then some (s.now - (p - l / 2)) else none⟩
  else {}

/-- The inputs of half-bridge `h` (R288). -/
def State.gateIn (s : State) (h : Nat) : GateIn :=
  if h < 6 then s.phaseIn (h / 3) (h % 3) else s.loopIn ((h - 6) / 2) ((h - 6) % 2)

/-- The controller of half-bridge `h` drives it: its phase is active, or its loop runs (R288). -/
def State.driven (s : State) (h : Nat) : Bool :=
  if h < 6 then (s.phActive (h / 3)).testBit (h % 3) else s.get (F.AUX_LOOP_STAT_STATE ((h - 6) / 2)) = loopRun

/-- Whether a half-bridge ignores all commands (R292). -/
def State.hbDisabled (s : State) (h : Nat) : Bool := s.bitOf F.GDRV_STAT_DISABLED h

/-- An input acts: it is asserted since its half-bridge was last re-enabled, and was not ignored when it was asserted (R289, R292). -/
def HbSt.acts (x : HbSt) (since ignored : Option Nat) : Bool :=
  match since with
  | none => false
  | some t => decide (x.liveFrom ≤ t) && decide (ignored.all (fun i => i < t))

/-- The lower switch in a refresh in hand at `now`: upper off, 20 ns, lower on for 100 ns, 20 ns (R291). -/
def HbSt.refreshing (x : HbSt) (now : Nat) : Option Bool :=
  match x.refreshAt with
  | none => none
  | some t => if now < t + 700 then some (decide (t + 100 ≤ now) && decide (now < t + 600)) else none

/-- The upper and the lower switch of half-bridge `h`: never both on (R289–R292). -/
def State.gates (s : State) (h : Nat) : Bool × Bool :=
  let x := s.hbs h
  let i := s.gateIn h
  let lowFree := x.latch &&& 0b1011 = 0
  if s.hbDisabled h then (false, false)
  else
    match x.refreshing s.now with
    | some lo => (false, lo && decide lowFree)
    | none =>
      let hi := x.latch = 0 && x.acts i.high x.ignH
      (hi, !hi && decide lowFree && x.acts i.low x.ignL)

/-- What GDRV_HBh reads as: HI_ON and LO_ON show the switches at the read. -/
def State.hbWord (s : State) (h : Nat) : Word :=
  let o := s.gates h
  (F.GDRV_HB_LO_ON h).write ((F.GDRV_HB_HI_ON h).write (s.reg (A.GDRV_HB h)) (b2n o.1)) (b2n o.2)

end Sys2Proof.Machine
end

