-- ==== Sys2Proof/Machine/Gdrv.lean ====
section
/-! DEFINITION. The integrated half-bridge drivers (R288–R292). -/

namespace Sys2Proof.Machine

open Sys2Proof

/-- The owner of a disabled half-bridge: its phase becomes OPEN, or its loop latches (R282, R285). -/
def State.ownerDisabled (s : State) (h : Nat) : State :=
  if h < 6 then s.declareOpen (h / 3) (h % 3) else s.loopLatch ((h - 6) / 2)

/-- DRV_N latches within DRV_W ms disable a half-bridge (R292). -/
def State.hbLasting (s : State) (h : Nat) : State :=
  let n := s.getOr F.GDRV_CFG_DRV_N 1
  let ts := ((s.hbs h).times).take n
  if ts.length = n && decide (s.now ≤ ts.getLastD 0 + s.getOr F.GDRV_CFG_DRV_W 1 * ms) then
    let s := ((s.put (F.GDRV_HB_DISABLED h) 1).setBitOf F.GDRV_STAT_DISABLED h).put F.GDRV_FAULT_STAT_DISABLED 1
    (s.raise Base.GDRV 3).ownerDisabled h
  else s

/-- Fault `k` of a half-bridge latches: 0 SC_HI, 1 SC_LO, 2 BST_UV, 3 XCMD. The status bit is sticky; the latch holds the
switches off (R289–R292). -/
def State.hbLatch (s : State) (h k : Nat) : State :=
  let x := s.hbs h
  let s := s.setHb h { x with latch := setBit x.latch k, times := s.now :: x.times }
  let s := s.setBitOf ⟨A.GDRV_HB h, 7, 5⟩ k
  ((s.put (F.GDRV_HB_LATCH h) 1).setBitOf F.GDRV_STAT_LATCHED h).hbLasting h

/-- GDRV_XCMD (R289): simultaneous inputs turn both switches off. -/
def execGdrvXcmd (h : Fin 10) (s : State) : Host.Outcome State Fault Refusal :=
  if s.hbDisabled h.val then .next s
  else .next ((((s.put F.GDRV_FAULT_STAT_XCMD 1).cnt F.GDRV_XCMD_COUNT).raise Base.GDRV 2).hbLatch h.val 3)

/-- The owning group or loop reacts to a sense-cell trip (R281, R285, R290). -/
def State.ownerSense (s : State) (h : Nat) : State :=
  if h < 6 then s.groupFault (h / 3)
  else
    let x := (h - 6) / 2
    if s.get (F.AUX_LOOP_STAT_STATE x) = loopRun then s.loopFault x true else s

/-- A sense cell reads above its threshold: the owner reacts, and SC_HI or SC_LO latches (R290). -/
def State.senseTrip (s : State) (h : Nat) (high : Bool) : State :=
  if s.hbDisabled h then s
  else
    let s := ((s.put F.GDRV_FAULT_STAT_SC 1).cnt F.GDRV_SC_COUNT).raise Base.GDRV 0
    (s.ownerSense h).hbLatch h (if high then 0 else 1)

/-- GDRV_SENSE_TRIP (R290): the switch turns off and SC_HI or SC_LO latches. -/
def execGdrvSenseTrip (h : Fin 10) (high : Bool) (s : State) : Host.Outcome State Fault Refusal := .next (s.senseTrip h.val high)

/-- SOFT_START_FAIL (R281): the ramp's holds total SS_MS, VOUT stays below 2.0 V for 2 ms of current limit, a sense cell trips, or a
bootstrap still stands below 9.0 V after 50 charge pulses (R291). -/
def execSoftStartFail (g : Fin 2) (why : SoftStartFail) (s : State) : Host.Outcome State Fault Refusal :=
  let i := g.val
  let x := s.grp i
  if s.get (F.AUX_GRP_STAT_STATE i) = grpSoft then
    match why with
    | .holds => .next ((s.until (x.ssAt + s.ssMs i * ms)).groupFault i)
    | .short => .next ((s.until (x.ssAt + 2 * ms)).groupFault i)
    | .sense j high => .next (s.senseTrip (3 * i + j.val) high)
    | .bootstrap j => .next (if x.chg.testBit j.val then (s.until (x.chgAt + 100 * us)).groupFault i else s)
  else .next s

/-- GROUP_OUTPUT_FAULT (R281): in RUN, VOUT below 80 % of VSET for 200 µs in current limit, or a sense-cell trip on a phase. -/
def execGroupOutputFault (g : Fin 2) (sense : Option (Fin 3 × Bool)) (s : State) : Host.Outcome State Fault Refusal :=
  let i := g.val
  if s.get (F.AUX_GRP_STAT_STATE i) = grpRun then
    match sense with
    | none => .next (s.groupFault i)
    | some (j, high) => .next (s.senseTrip (3 * i + j.val) high)
  else .next s

/-- GDRV_BST_UV (R291): a bootstrap below 8.0 V holds the upper switch off. -/
def execGdrvBstUv (h : Fin 10) (mv : Nat) (s : State) : Host.Outcome State Fault Refusal :=
  let s := s.setHb h.val { s.hbs h.val with bstMv := mv }
  if s.hbDisabled h.val || 8000 ≤ mv then .next s
  else .next ((((s.put F.GDRV_FAULT_STAT_BST_UV 1).cnt F.GDRV_BST_UV_COUNT).raise Base.GDRV 1).hbLatch h.val 2)

/-- REFRESH_N as it acts (R291). -/
def State.refreshN (s : State) : Nat := clampN 1 64 (s.get F.GDRV_CFG_REFRESH_N)

/-- GDRV_REFRESH (R291): after REFRESH_N slots with the upper switch on, or with its bootstrap below 10.0 V while on, a refresh is
inserted, at an instant the power die times; the upper switch is on again after it if IN_H is still asserted. -/
def execGdrvRefresh (h : Fin 10) (slots mv wait : Nat) (s : State) : Host.Outcome State Fault Refusal :=
  let s := s.advance wait
  let s := s.setHb h.val { s.hbs h.val with bstMv := mv }
  if (s.gates h.val).1 && (s.refreshN ≤ slots || mv < 10000) then
    .next ((s.cnt F.GDRV_REFRESH_COUNT).setHb h.val { s.hbs h.val with refreshAt := some s.now })
  else .next s

/-- Whether the cause of latch `k` is gone at an input edge (R292). -/
def gateGone (e : GateEdge) (k : Nat) : Bool :=
  if k < 2 then e.senseBelow else if k = 2 then 9000 ≤ e.bstMv else e.oneInput

/-- The latches of a half-bridge that an edge releases are gone. -/
def State.hbRelease (s : State) (h : Nat) (e : GateEdge) : State :=
  let x := s.hbs h
  let left := (bitIndices 4 x.latch).foldl (fun m k => if gateGone e k then clearBit m k else m) x.latch
  let s := s.setHb h { x with latch := left, bstMv := e.bstMv }
  if left = 0 then (s.put (F.GDRV_HB_LATCH h) 0).clrBitOf F.GDRV_STAT_LATCHED h else s

/-- An input asserted while the other is asserted is ignored until it is released and asserted again (R289). -/
def State.hbIgnore (s : State) (h : Nat) (high : Bool) : State :=
  let x := s.hbs h
  s.setHb h (if high then { x with ignH := some s.now } else { x with ignL := some s.now })

/-- GDRV_LATCH_RELEASE (R289, R292): a rising edge on the upper (`high`) or lower input of a driven half-bridge; a latch whose cause remains
stays. -/
def execGdrvLatchRelease (h : Fin 10) (high : Bool) (e : GateEdge) (s : State) : Host.Outcome State Fault Refusal :=
  if s.hbDisabled h.val || !s.driven h.val then .next s
  else
    let s := s.hbRelease h.val e
    .next (if e.oneInput then s else s.hbIgnore h.val high)

/-- A half-bridge is re-enabled: it acts from its next command edge on (R292). -/
def State.hbRevive (s : State) (h : Nat) : State := (s.setHb h { s.hbs h with liveFrom := s.now }).clrBitOf F.GDRV_STAT_DISABLED h

/-- A clear of a half-bridge's DISABLED: refused while its bootstrap is below 9.0 V (R292). -/
def State.hbEnable (s : State) (h : Nat) : State :=
  if (s.hbs h).bstMv < 9000 then s.cnt F.GDRV_ERR_COUNT_CLR_REFUSED else (s.put (F.GDRV_HB_DISABLED h) 0).hbRevive h

/-- GDRV_DISABLED_CLEAR (R292). -/
def execGdrvDisabledClear (h : Fin 10) (bstMv : Nat) (s : State) : Host.Outcome State Fault Refusal :=
  let s := s.setHb h.val { s.hbs h.val with bstMv := bstMv }
  if s.on (F.GDRV_HB_DISABLED h.val) then .next (s.hbEnable h.val) else .next s

/-! ### Hooks of Access -/

/-- The half-bridge whose register an address is. -/
def hbOfAddr (a : Nat) : Option Nat := if A.GDRV_HB 0 ≤ a ∧ a < A.GDRV_HB 10 then some ((a - A.GDRV_HB 0) / 4) else none

/-- Whether a clear of a W1C bit of GDRV is accepted: a status bit not while its latch holds, DISABLED not while the bootstrap is
below 9.0 V (R292). -/
def gdrvClearOk (s : State) (a i : Nat) : Bool :=
  match hbOfAddr a with
  | none => true
  | some h => if i = 11 then 9000 ≤ (s.hbs h).bstMv else !(s.hbs h).latch.testBit (i - 7)

/-- After an accepted clear in a half-bridge register: DISABLED re-enables it. -/
def gdrvCleared (s : State) (a : Nat) (bits : Nat) : State :=
  match hbOfAddr a with
  | none => s
  | some h => if bits.testBit 11 then s.hbRevive h else s

end Sys2Proof.Machine
end

