-- ==== Sys2Proof/Machine/Tack.lean ====
section
/-! DEFINITION. The tack store: its writes, rollback counters, the tamper response, signature trees and the index in use
(R343, R344, R346, R348, R349, R356). -/

namespace Sys2Proof.Machine

open Sys2Proof

/-- The tack store and SEC block replaced. -/
def State.withTack (s : State) (x : SecSt) : State := { s with tack := x }

/-- A tack-store write has failed its read-back: the previous copy stays in force (R343). -/
def State.tackFail (s : State) : State := (s.put F.SEC_FAULT_STAT_TACK_WR_FAIL 1).raise Base.SEC 8

/-- COUNT of kind `k` (R356). -/
def State.rollbackOf (s : State) (k : Nat) : Nat := s.get (F.SEC_ROLLBACK (k - 1))

/-- An accepted image of kind `k` raises its counter to ROLLBACK where that is higher (R356). -/
def State.advRollback (s : State) (k r : Nat) (durable : Bool) : State :=
  if r ≤ s.rollbackOf k then s
  else if durable then (s.put (F.SEC_ROLLBACK (k - 1)) r).raise Base.SEC 6
  else s.tackFail

/-! ### Indices and trees (R346, R348, R349) -/

/-- The first index not yet used: of the block in use, or of the block a reservation would give (R348). -/
def State.nextIndex (s : State) : Nat :=
  match s.tack.block with
  | some (b, n) => if n < 64 * (b + 1) then n else 64 * s.get F.SEC_RESERVED
  | none => 64 * s.get F.SEC_RESERVED

/-- The bottom tree the next index lies in (R346). -/
def State.treeNeeded (s : State) : Nat := s.nextIndex / 1024

/-- The identity has been erased (R344). -/
def State.erased (s : State) : Bool := s.on F.SEC_STAT_IDENT_ERASED

/-- GEN_BUSY, SPARE_READY and TREE_READY follow (R346). -/
def State.treeBits (s : State) : State :=
  let c := s.treeNeeded
  ((s.put F.SEC_STAT_GEN_BUSY (b2n (s.tack.jobs ≠ []))).put F.SEC_STAT_TREE_READY (b2n (s.tack.started && s.tack.current = some c))).put
    F.SEC_STAT_SPARE_READY (b2n (s.tack.started && s.tack.spare = some (c + 1)))

/-- Trees to generate for the spare slot once bottom tree `c` is current (R346). -/
def State.spareJobs (s : State) (c : Nat) : List TreeJob :=
  let t := c + 1
  if s.erased || decide (2 ^ 20 ≤ t) || s.tack.spare = some t then []
  else if t / 1024 = c / 1024 then (if s.tack.level1 = some (t / 1024) then [] else [.level1 (t / 1024)]) ++ [.bottom t]
  else .top :: .level1 (t / 1024) :: [.bottom t]

/-- Bottom tree `c` becomes current; the next is generated (R346). -/
def State.treeCurrent (s : State) (c : Nat) : State :=
  let s := s.withTack { s.tack with current := some c, spare := if s.tack.spare = some c then none else s.tack.spare }
  s.withTack { s.tack with jobs := s.tack.jobs ++ s.spareJobs c }

/-- After the next index has moved: the spare becomes current where the index has entered its tree (R346). -/
def State.treeMove (s : State) : State :=
  let c := s.treeNeeded
  let s := if s.tack.current = some c then s else if s.tack.spare = some c then s.treeCurrent c else s
  s.treeBits

/-- TREE_GENERATED (R346): the tree in work is complete. -/
def State.treeDone (s : State) : State :=
  match s.tack.jobs with
  | [] => s
  | j :: rest =>
    let s := s.withTack { s.tack with jobs := rest }
    let s := match j with
      | .top => s
      | .level1 n => s.withTack { s.tack with level1 := some n }
      | .bottom n => if n = s.treeNeeded then s.treeCurrent n else s.withTack { s.tack with spare := some n }
    ((s.treeBits).cnt F.SEC_TREES).raise Base.SEC 0

/-- TREE_GENERATED (R346). -/
def execTreeGenerated (s : State) : Host.Outcome State Fault Refusal := .next s.treeDone

/-- Indices remaining (R349, R359). -/
def State.indicesLeft (s : State) : Nat := 2 ^ 30 - s.nextIndex

/-- INDEX_LOW is set and raised once fewer than 2²⁰ indices remain (R349). -/
def State.indexLow (s : State) : State :=
  if s.indicesLeft < 2 ^ 20 && !s.on F.SEC_FAULT_STAT_INDEX_LOW then (s.put F.SEC_FAULT_STAT_INDEX_LOW 1).raise Base.SEC 2 else s

/-! ### The identity key and its signatures (R346) -/

/-- The public key of tree `n` of level `l`: the typecodes of LMS_SHA256_M32_H10 and LMOTS_SHA256_N32_W8, I and the root. -/
def treeKey (l n : Nat) : List Byte :=
  bytesBE 4 6 ++ bytesBE 4 4 ++ (List.range 16).map (Config.identityTree l n) ++ (List.range 32).map (Config.identityRoot l n)

/-- The signature that leaf `n` of level `l`, counted over the level's trees, gives `m`: leaf number within its tree, one-time signature and
authentication path. -/
def leafSign (l n : Nat) (m : List Byte) : List Byte :=
  bytesBE 4 (n % 1024) ++ bytesBE 4 4 ++ (List.range 1120).map (Config.identityOts l n m) ++ bytesBE 4 6 ++
    (List.range 320).map (Config.identityPath l n)

/-- The identity public key, 60 bytes: L = 3 and the top tree's key (R346). DESIGN CHOICE, log 20. -/
def identityKey : List Byte := bytesBE 4 3 ++ treeKey 0 0

/-- The 4,472 bytes of the signature with index `q`: top leaf q >> 20 signs the level-1 tree, leaf (q >> 10) & 1,023 of it the bottom tree, and
leaf q & 1,023 of that the statement (R346). DESIGN CHOICE, log 20. -/
def identitySign (q : Nat) (m : List Byte) : List Byte :=
  let k1 := treeKey 1 (q / 2 ^ 20)
  let k2 := treeKey 2 (q / 2 ^ 10)
  bytesBE 4 2 ++ leafSign 0 (q / 2 ^ 20) k1 ++ k1 ++ leafSign 1 (q / 2 ^ 10) k2 ++ k2 ++ leafSign 2 q m

/-! ### The tamper response (R344) -/

/-- Station keys erased; a change of keys is an event (R344, R355). -/
def State.stationsErase (s : State) : State :=
  let had := s.on F.SEC_KEYS_STATION
  let s := (s.withTack { s.tack with stations := [] }).put F.SEC_KEYS_STATION 0
  if had then s.raise Base.SEC 9 else s

/-- The response to a tamper signal, by ACTION (R344). -/
def State.tamperAct (s : State) : State :=
  let a := s.get F.SEC_TAMPER_CFG
  let s := if a = 0 then s else s.stationsErase
  let s := if a < 2 then s
    else ((s.put F.SEC_STAT_IDENT_ERASED 1).withTack { s.tack with current := none, spare := none, level1 := none, jobs := [] }).treeBits
  s.raise Base.SEC 7

/-- SEC's start-up, before the supervisor starts: the tack store is read, a tamper signal met without main power is acted on, cached
trees are verified and missing ones generated (R343, R344, R346). -/
def State.secStart (s : State) (chk : TreeCheck) : State :=
  if s.tack.started then s
  else
    let s := (s.withTack { s.tack with started := true }).put F.SEC_STAT_TACK_OK 1
    let s := if s.tack.tamperPend then (s.withTack { s.tack with tamperPend := false }).tamperAct else s
    if s.erased then s.indexLow.treeBits
    else
      let c := s.treeNeeded
      let keep (ok : Bool) (t : Option Nat) : Option Nat := if ok then t else none
      let cur := keep chk.current s.tack.current
      let sp := keep chk.spare s.tack.spare
      let cur := if cur = some c then cur else if sp = some c then sp else none
      let s := s.withTack { s.tack with current := cur, spare := if sp = some (c + 1) then sp else none
                                        level1 := keep chk.level1 s.tack.level1, jobs := [] }
      let jobs := if cur = some c then s.spareJobs c
        else if 2 ^ 20 ≤ c then []
        else (if s.tack.level1 = some (c / 1024) then [] else [.level1 (c / 1024)]) ++ [.bottom c]
      ((s.withTack { s.tack with jobs := jobs }).indexLow).treeBits

/-! Hooks of Access. -/

/-- Whether a clear of bit `i` of SEC_FAULT_STAT is accepted (R349). -/
def secClearOk (s : State) (i : Nat) : Bool := !(i = 5 && decide (s.indicesLeft < 2 ^ 20))

end Sys2Proof.Machine
end

