-- ==== Sys2Proof/Machine/Paddock.lean ====
section
/-! DEFINITION. The paddock: comparison, handover, rollback and the end of a session (R186, R198, R199, R201–R205). -/

namespace Sys2Proof.Machine

open Sys2Proof

/-- The paddock session replaced. -/
def State.withPad (s : State) (p : Pad) : State := { s with cme := { s.cme with pad := p } }

/-- A paddock command ends FAILED with a detail, or with BAD_ARG (R202, R205). -/
def State.padFail (s : State) (detail : Nat) : State := s.finish 5 (s.padReport detail)

/-- BAD_ARG (R202). -/
def State.padBadArg (s : State) : State := s.finish 2 (s.padReport 0)

/-! ### Comparison (R201) -/

/-- Deviation of two samples. -/
def deviation (a b : Nat) : Nat := (sx 16 a - sx 16 b).natAbs

/-- What a compared word of stall `i` was in the live schedule. -/
def State.liveSlot (s : State) (i c : Nat) : Nat :=
  if (s.es i).kind = .active then KMap.get (fun _ => 0) s.cme.usedC (16 * i + c) else tc 16 (s.slotC i c)

/-- What word `w` of arm `a` was at the arm's latest deadline. -/
def State.liveWord (s : State) (a w : Nat) : Nat :=
  (KMap.get (fun _ => none) s.cme.usedA (4 * a + w)).getD (s.reg (A.EDGE_ACMD0 a + 4 * w)).toNat

/-- One compared word. -/
def Pad.word (p : Pad) (dev word at0 : Nat) : Pad :=
  if p.maxDev < dev then { p with maxDev := dev, maxWord := word, maxAt := at0 } else p

/-- Stalls compared: in the sort with bypass order 0. -/
def State.comparedStalls (s : State) : List Nat := if s.cme.pad.mask = 0 then [] else s.selectable s.sortList

/-- Arms compared. -/
def State.comparedArms (s : State) : List Nat := if s.cme.pad.maskA = 0 then [] else (List.range 6).filter s.armEn

/-- The deviations of the period in progress: deviation, word, stall or 0xF0 + arm. -/
def State.deviations (s : State) : List (Nat × Nat × Nat) :=
  (s.comparedStalls.flatMap (fun i => (bitIndices 16 s.cme.pad.mask).map (fun c =>
    (deviation (KMap.get (fun _ => 0) s.cme.cmpC (16 * i + c)) (s.liveSlot i c), c, i)))) ++
  (s.comparedArms.flatMap (fun a => (bitIndices 4 s.cme.pad.maskA).map (fun w =>
    (deviation (KMap.get (fun _ => 0) s.cme.cmpA (4 * a + w)) (s.liveWord a w), 0x10 + w, 0xF0 + a))))

/-- The period in progress is compared (R201). DEDUCED, log 79. -/
def State.padCompare (s : State) : State :=
  let p := s.cme.pad
  let ds := s.deviations
  let late := (s.comparedStalls.filter (fun i => !s.cme.shMarked.testBit i)).length +
    (s.comparedArms.filter (fun a => !s.cme.shArm.testBit a)).length
  let q := ds.foldl (fun (p : Pad) d => p.word d.1 d.2.1 d.2.2) p
  s.withPad { q with
    done := p.done + 1, late := p.late + late, overruns := p.overruns + b2n s.cme.u1.ranOver
    overCount := p.overCount + b2n (ds.any (fun d => decide (p.tol < d.1))), cmpDone := true }

/-- The period in progress is to be compared and has not been. -/
def State.comparing (s : State) : Bool :=
  let p := s.cme.pad
  p.st = .compare && decide (p.fromBnd ≤ s.yard.bnd) && !p.cmpDone && decide (p.done < p.n)

/-- What a period boundary does to the comparison: the ending period is compared, and words committed late count from now (R201). -/
def State.padBoundary (s : State) : State :=
  let s := if s.comparing then s.padCompare else s
  let c := s.cme.lateC.foldl (fun m p => KMap.set (fun _ => 0) m p.1 p.2) s.cme.cmpC
  let a := s.cme.lateA.foldl (fun m p => KMap.set (fun _ => 0) m p.1 p.2) s.cme.cmpA
  let s := { s with cme := { s.cme with cmpC := c, cmpA := a, lateC := [], lateA := [], usedA := [], shMarked := 0, shArm := 0 } }
  s.withPad { s.cme.pad with cmpDone := false }

/-! ### The exchange of roles (R186, R198, R203) -/

/-- Where a BAR0 address stands after the two RAM sets have exchanged roles. -/
def swapAddr (a : Nat) : Nat :=
  if 0xC00000 ≤ a && a < 0xD00000 then a + paddockOff else if 0xD00000 ≤ a && a < 0xE00000 then a - paddockOff else a

/-- The memory with the two RAM sets exchanged, in its canonical order. -/
def swapMem (m : KMap Byte) : KMap Byte :=
  m.filter (fun p => p.1 < 0xC00000) ++
    (m.filter (fun p => 0xD00000 ≤ p.1 && p.1 < 0xE00000)).map (fun p => (p.1 - paddockOff, p.2)) ++
    (m.filter (fun p => 0xC00000 ≤ p.1 && p.1 < 0xD00000)).map (fun p => (p.1 + paddockOff, p.2)) ++
    m.filter (fun p => 0xE00000 ≤ p.1)

/-- The role exchange: RAM sets, BANK, CME_ENTRY and presets; command words stay (R203). -/
def State.exchangeRoles (s : State) : State :=
  let old := s.get F.CME_ENTRY
  let s := { s with mem := swapMem s.mem
                    flt := { s.flt with poisoned := s.flt.poisoned.map (fun (p : Nat × Nat) => if p.1 = 2 then (p.1, swapAddr p.2) else p) } }
  let s := (s.put F.CME_STAT_BANK (1 - s.get F.CME_STAT_BANK)).put F.CME_ENTRY s.cme.pad.entry
  let s := ((List.range 6).filter s.armEn).foldl (fun t a => t.presetArm a) s
  { s with cme := { s.cme with preset1 := 0, pad := { s.cme.pad with entry := old, exchange := none } } }

/-- RETAIN begins (R198, R202). -/
def State.retain (s : State) : State :=
  (s.withPad { s.cme.pad with retainEnd := s.yard.bnd + max s.cme.pad.retainPer 1 }).setPad .retain

/-- A session ends: the shadow unit stops (R198); one that ends after a handover raises rollback counter 2 to its image's ROLLBACK
(R356). -/
def State.padEnd (s : State) (durable : Bool) : State :=
  let s := match s.cme.pad.st, s.upd.session with
    | .retain, some r => s.advRollback 2 r durable
    | _, _ => s
  let s := { s with upd := { s.upd with session := none } }
  { s with cme := { s.cme with u1 := { s.cme.u1 with run := .parked } } }.setPad .none

/-! ### PADDOCK_COMMIT (R198, R202, R205) -/

/-- Periods from now to HANDOVER_AT, modulo 2³². -/
def State.toHandover (s : State) (h : Nat) : Nat := (h + 2 ^ 32 - s.periodK % 2 ^ 32) % 2 ^ 32

/-- The arguments of MODE 0 are within R202; with N = 0 the period in progress counts as the last compared. DEDUCED, log 176. -/
def State.padArgsOk (s : State) : Bool :=
  let n := s.cmdArg 1
  let h := s.cmdArg 5
  let d := s.toHandover h
  (if s.yardState = yardRun then decide (16 ≤ n) && decide (n ≤ 4000000) else n = 0) &&
    (if h = 0 then decide (n * s.perTicks ≤ 900 * ms)
     else decide (d < 2 ^ 31) && decide (n + 2 ≤ d) && decide ((d - 1) * s.perTicks ≤ 900 * ms))

/-- The session with the arguments of MODE 0 and cleared counts (R202). -/
def State.padArm (s : State) : Pad :=
  { s.cme.pad with
    n := s.cmdArg 1, mask := s.cmdArg 2 % 2 ^ 16, maskA := bits (s.cmdArg 2) 19 16, tol := s.cmdArg 3 % 2 ^ 16
    overMax := s.cmdArg 4, handoverAt := s.cmdArg 5, retainPer := s.cmdArg 6
    done := 0, maxDev := 0, maxWord := 0, maxAt := 0, overCount := 0, overruns := 0, late := 0
    fromBnd := s.yard.bnd + 1, cmpDone := false, exchange := none, awaitRun := false }

/-- PADDOCK_COMMIT of mode `m` works. -/
def State.padMode (s : State) (m : Nat) : Bool := s.cmdIs 0x31 && s.cmdArg 0 % 4 = m

/-- PADDOCK_COMPARE_HANDOVER (R198, R202): MODE 0. -/
def execPaddockCompareHandover (s : State) : Host.Outcome State Fault Refusal :=
  if !s.padMode 0 then .next s
  else if s.cme.pad.st = .none then .next (s.padFail 1)
  else if s.cme.pad.st ≠ .shadow then .next (s.padFail 10)
  else if s.yardState = yardStopping || (s.cmdArg 1 ≠ 0 && s.yardState ≠ yardRun) then .next (s.padFail 11)
  else if s.on F.CME_DBG_STAT_HALTED then .next (s.padFail 6)
  else if s.yardState = yardRun then
    .next (if s.padArgsOk then (s.withPad s.padArm).setPad .compare else s.padBadArg)
  else if !s.padArgsOk then .next s.padBadArg
  else
    let s := ((s.withPad s.padArm).exchangeRoles.put F.CME_STAT_PROG_OK 1).retain
    .next (s.finish 0 (s.padReport 0))

/-- PADDOCK_REPORT (R198, R205): MODE 1. -/
def execPaddockReport (s : State) : Host.Outcome State Fault Refusal :=
  .next (if s.padMode 1 then s.finish 0 (s.padReport 0) else s)

/-- PADDOCK_END (R198): MODE 2. -/
def execPaddockEnd (durable : Bool) (s : State) : Host.Outcome State Fault Refusal :=
  if !s.padMode 2 then .next s
  else if s.cme.pad.st = .none then .next (s.padFail 1)
  else
    let s := s.padEnd durable
    .next (s.finish 0 (s.padReport 0))

/-- PADDOCK_ROLLBACK (R198): MODE 3, exchanged back at the next period boundary. -/
def execPaddockRollback (s : State) : Host.Outcome State Fault Refusal :=
  if !s.padMode 3 then .next s
  else if s.cme.pad.st ≠ .retain then .next (s.padFail 7)
  else if s.yardState ≠ yardRun then .next (s.padFail 11)
  else .next (s.withPad { s.cme.pad with exchange := some (s.yard.bnd, true) })

/-- Acceptance of R202: 0, or the detail of the first condition not met. -/
def State.acceptance (s : State) : Nat :=
  let p := s.cme.pad
  let d := s.toHandover p.handoverAt
  if p.overMax < p.overCount then 2
  else if p.overruns ≠ 0 then 3
  else if p.late ≠ 0 then 4
  else if (s.progCheck .shadow p.entry).1 ≠ 0 then 9
  else if p.handoverAt ≠ 0 && ((d = 0 && !s.atBoundary) || decide (2 ^ 31 ≤ d)) then 5
  else 0

/-- The last period's words can all be compared: every deadline has passed and both runs have ended. -/
def State.periodCompared (s : State) : Bool :=
  s.sortList.all s.cdPassed && !s.runs .live && !s.runs .shadow

/-- PADDOCK_COMPARE_END (R198, R202, R203): acceptance is judged once N periods have been compared. -/
def execPaddockCompareEnd (s : State) : Host.Outcome State Fault Refusal :=
  if s.cme.pad.st ≠ .compare || s.cme.pad.exchange.isSome then .next s
  else
    let s := if s.comparing && !s.atBoundary && s.periodCompared then s.padCompare else s
    if s.cme.pad.done < s.cme.pad.n then .next s
    else
      match s.acceptance with
      | 0 => .next (s.withPad { s.cme.pad with exchange := some (if s.atBoundary then s.yard.bnd - 1 else s.yard.bnd, false) })
      | d => .next (s.padAbort d)

/-- The exchange that waits falls due at the boundary just passed (R202, R203). -/
def State.exchangeDue (s : State) : Option Bool :=
  match s.cme.pad.exchange with
  | none => none
  | some (b, back) =>
    if s.atBoundary && decide (b < s.yard.bnd) && (back || s.cme.pad.handoverAt = 0 || s.toHandover s.cme.pad.handoverAt = 0) then some back
    else none

/-- PADDOCK_HANDOVER (R198, R203): roles exchange at the boundary, before cycle 0 of the run that begins there. -/
def execPaddockHandover (s : State) : Host.Outcome State Fault Refusal :=
  match s.exchangeDue with
  | none => .next s
  | some back =>
    let s := s.exchangeRoles
    let s := if back then { s with upd := { s.upd with session := none } }.setPad .shadow else s.retain
    .next ((s.withPad { s.cme.pad with awaitRun := true }).engStart)

/-- RETAIN_EXPIRY (R198): RETAIN_PER periods after the exchange. -/
def execRetainExpiry (durable : Bool) (s : State) : Host.Outcome State Fault Refusal :=
  .next (if s.cme.pad.st = .retain && s.cme.pad.exchange.isNone && decide (s.cme.pad.retainEnd ≤ s.yard.bnd)
    then s.padEnd durable else s)

end Sys2Proof.Machine
end

