-- ==== Sys2Proof/Machine/Pair.lean ====
section
/-! DEFINITION. The module pair: PSTAT and POUT frames, lead, digests, fitness, following, claims, yields, tracking and withdrawal
(R368–R381). -/

namespace Sys2Proof.Machine

open Sys2Proof

/-- The pair state replaced. -/
def State.withPair (s : State) (p : PairSt) : State := { s with pair := p }

/-- Codes of PAIR_STAT.STATE (R371). -/
abbrev prDisabled : Nat := 0
abbrev prSearching : Nat := 1
abbrev prLinked : Nat := 2
abbrev prLost : Nat := 3

/-- STATE of the pair. -/
def State.pairState (s : State) : Nat := s.get F.PAIR_STAT_STATE

/-- This module's member number (R368). -/
def State.member (s : State) : Nat := s.get F.PAIR_STAT_MEMBER

/-- LEAD of this module (R371). -/
def State.lead (s : State) : Bool := s.on F.PAIR_STAT_LEAD

/-- A change of STATE raises PAIR_STATE (R385). -/
def State.setPairState (s : State) (v : Nat) : State :=
  if s.pairState = v then s else (s.put F.PAIR_STAT_STATE v).raise Base.PAIR 0

/-- A change of LEAD raises PAIR_LEAD (R385). -/
def State.setLead (s : State) (b : Bool) : State := if s.lead = b then s else (s.put F.PAIR_STAT_LEAD (b2n b)).raise Base.PAIR 1

/-- Period `j` lies at most `n` periods before the one in progress, both taken modulo 2³². -/
def State.recent (s : State) (j n : Nat) : Bool := decide ((s.periodK % 2 ^ 32 + 2 ^ 32 - j) % 2 ^ 32 ≤ n)

/-! ### Following and fitness (R373, R374) -/

/-- What stall `i` follows: 0 nobody, 1 this member, 2 the partner (R374). -/
def State.followOf (s : State) (i : Nat) : Nat :=
  if s.ageOf i ≤ 16 && [3, 4, 5, 6].contains (s.nstate i) then (if b2n (s.upBit i 20) = s.member then 1 else 2) else 0

/-- Stalls in the sort that follow `c`. -/
def State.followers (s : State) (c : Nat) : Nat := (s.sortList.filter (fun i => s.followOf i = c)).length

/-- The module is fit for arm `a` (R373). -/
def State.fitFor (s : State) (a : Nat) : Bool :=
  s.armEn a && s.safeState = safeNormal && s.yardState = yardRun && !s.warmup && (s.ba a).st ≠ 3 && !s.degraded a &&
    !s.edge.hold && !s.on F.CME_DBG_STAT_HALTED && !s.on F.PAIR_CTRL_RELINQUISH &&
    (s.lead || s.pairState ≠ prLinked || s.reg A.PAIR_DIG_YARD = s.reg A.PAIR_PDIG_YARD)

/-- FIT as a mask. -/
def State.fitMask (s : State) : Nat := (List.range 6).foldl (fun m a => if s.fitFor a then setBit m a else m) 0

/-! ### Frames (R369) -/

/-- CTB_OK of PSTAT. -/
def State.ctbOk (s : State) : Bool := s.on F.TIME_STAT_ALIGNED && s.get F.TIME_STAT_CTB_STATE ≠ 0

/-- The PSTAT frame of the period that begins; `dly` is its departure in 1/64 tick. -/
def State.pstatFrame (s : State) (dly : Nat) : List (BitVec 64) :=
  let c := 0xA5 + 2 ^ 8 * (s.pair.pseq % 256) + 2 ^ 16 * (s.periodK % 2 ^ 32) + 2 ^ 48 * (s.safeState % 16) + 2 ^ 52 * (s.yardState % 4) +
    2 ^ 54 * b2n s.warmup + 2 ^ 55 * b2n s.lead + 2 ^ 56 * s.member + 2 ^ 57 * s.get F.PAIR_CTRL_RELINQUISH +
    2 ^ 58 * b2n (s.on F.SAFE_STAT_FENCE_OK && s.on F.SAFE_STAT_SV_OK) + 2 ^ 59 * b2n s.ctbOk
  let d2 := dly % 2 ^ 24 + 2 ^ 24 * s.get F.PAIR_STAT_FIT + 2 ^ 32 * s.get F.PAIR_FOLLOW_SELF + 2 ^ 40 * s.sortList.length
  let d3 := (s.reg A.SYS_SERIAL).toNat + 2 ^ 32 * (s.reg A.PAIR_DIG_YARD).toNat
  let d4 := (s.reg A.PAIR_DIG_PROG).toNat + 2 ^ 32 * (s.reg A.PAIR_DIG_SET).toNat
  sealFrame [c, s.yard.tk, d2, d3, d4] 0

/-- Words packed four to a block. -/
def packWords : List Nat → List Nat
  | a :: b :: c :: d :: t => (a + 2 ^ 16 * b + 2 ^ 32 * c + 2 ^ 48 * d) :: packWords t
  | [] => []
  | [a] => [a]
  | [a, b] => [a + 2 ^ 16 * b]
  | [a, b, c] => [a + 2 ^ 16 * b + 2 ^ 32 * c]

/-- A POUT frame. -/
def poutFrame (period part : Nat) (words : List Nat) : List (BitVec 64) :=
  sealFrame ((0xB4 + 2 ^ 8 * (period % 2 ^ 32) + 2 ^ 40 * (part % 256) + 2 ^ 48 * words.length) :: packWords words) 0

/-- The 24 committed arm words. -/
def State.armWords (s : State) : List Nat :=
  (List.range 24).map (fun j => (s.reg (A.EDGE_ACMD0 (j / 4) + 4 * (j % 4))).toNat % 2 ^ 16)

/-- The committed slots a mirror mask names, over the stalls in the sort. -/
def State.mirrorWords (s : State) (mask : Nat) : List Nat :=
  s.sortList.flatMap (fun i => (bitIndices 16 mask).map (fun c => tc 16 (s.slotC i c)))

/-- Words cut into parts of 128. -/
def partsOf : Nat → List Nat → List (List Nat)
  | 0, _ => []
  | n + 1, l => if l = [] then [] else l.take 128 :: partsOf n (l.drop 128)

/-- Every part of the words committed in the period that ends. -/
def State.poutParts (s : State) : List (Nat × List Nat) :=
  let l := s.armWords :: partsOf 25 (s.mirrorWords s.pair.mask)
  (List.range l.length).zip l

/-- Frames leave on the pair lanes that are UP, one behind the other. -/
def State.pairEmit (s : State) (f : List (BitVec 64)) : State :=
  [48, 49].foldl (fun (t : State) n => if t.laneState n = lnUp then t.laneSend n f else t) s

/-- PSTAT leaves on the pair lanes that are UP, each with the departure of its own first bit (R369). -/
def State.pstatSend (s : State) : State :=
  [48, 49].foldl (fun (t : State) n =>
    if t.laneState n = lnUp then t.laneSend n (t.pstatFrame (t.departDly (t.txStart10 n 0))) else t) s

/-- PSTAT leaves with the period's start; then the words committed in the period that ended, in RUN and STOPPING (R369). DEDUCED, log
194. -/
def State.pairSend (s : State) (pout : List (Nat × List Nat)) (ended : Nat) : State :=
  if !s.on F.PAIR_CFG_EN then s
  else
    let t := s.pstatSend
    let t := t.withPair { t.pair with pseq := (t.pair.pseq + 1) % 256 }
    if s.running then pout.foldl (fun (t : State) p => t.pairEmit (poutFrame ended p.1 p.2)) t else t

/-- A PSTAT frame taken apart. -/
def readPstat (f : List (BitVec 64)) (lane : Nat) : PStat :=
  let c := blk f 0
  { period := bits c 47 16, safe := bits c 51 48, yard := bits c 53 52, warmup := c.testBit 54, lead := c.testBit 55
    member := bits c 56 56, relinquish := c.testBit 57, chOk := c.testBit 58, ctbOk := c.testBit 59, ctb := blk f 1
    dly := bits (blk f 2) 23 0, fit := bits (blk f 2) 29 24, followN := bits (blk f 2) 39 32, sortN := bits (blk f 2) 47 40
    serial := bits (blk f 3) 31 0, digYard := bits (blk f 3) 63 32, digProg := bits (blk f 4) 31 0, digSet := bits (blk f 4) 63 32
    lane := lane }

/-- PAIR_CTB_DIFF and CTB_ALARM from a PSTAT whose first bit has just arrived (R378). -/
def State.ctbDiff (s : State) (p : PStat) : State :=
  if !s.on (F.LANE_STAT_DELAY_VALID p.lane) then s
  else
    let own : Int := ((s.time.ctbF / 2 ^ 34 : Nat) : Int)
    let gap := own - ((64 * p.ctb + p.dly + s.get (F.LANE_DLY p.lane) : Nat) : Int)
    let d := clampI (-(2 ^ 31)) (2 ^ 31 - 1) gap
    let s := (s.withPair { s.pair with ctbGap := gap }).setReg A.PAIR_CTB_DIFF (BitVec.ofInt 32 d)
    if 640 < d.natAbs && !s.on F.PAIR_FAULT_STAT_CTB_ALARM then (s.put F.PAIR_FAULT_STAT_CTB_ALARM 1).raise Base.PAIR 9 else s

/-- A PSTAT of the partner is taken (R369, R371, R372, R378). -/
def State.pstatTake (s : State) (p : PStat) : State :=
  if p.member = s.member then
    if s.pair.clash then s else ((s.withPair { s.pair with clash := true }).put F.PAIR_FAULT_STAT_CFG_BAD 1).raise Base.PAIR 11
  else
    let run := if p.ctbOk then s.pair.ctbRun + 1 else 0
    let s := s.withPair { s.pair with partner := some p, rxNow := true, ctbRun := run, clash := false }
    let s := ((s.cnt F.PAIR_PSTAT_RX).setReg A.PAIR_PARTNER (BitVec.ofNat 32 p.serial)).put F.PAIR_STAT_PARTNER_FIT p.fit
    let s := (s.setReg A.PAIR_PDIG_YARD (BitVec.ofNat 32 p.digYard)).setReg A.PAIR_PDIG_PROG (BitVec.ofNat 32 p.digProg)
    (s.setReg A.PAIR_PDIG_SET (BitVec.ofNat 32 p.digSet)).ctbDiff p

/-- A whole PSTAT frame on pair lane `n`: the second copy of a frame is discarded (R369, R370). -/
def State.pstatIn (s : State) (n : Nat) (f : List (BitVec 64)) : State :=
  if !frameOk f then s.cnt (F.LANE_CRC_ERR n)
  else if !s.on F.PAIR_CFG_EN || s.pair.lastSeq = some (blk f 0 % 2 ^ 48) then s
  else (s.withPair { s.pair with lastSeq := some (blk f 0 % 2 ^ 48) }).pstatTake (readPstat f n)

/-- A whole POUT frame on pair lane `n`: the first copy of each part of the last 9 periods is kept (R369, R377). DEDUCED, log 194. -/
def State.poutIn (s : State) (n : Nat) (f : List (BitVec 64)) : State :=
  let c := blk f 0
  let nw := bits c 55 48
  if !frameOk f then s.cnt (F.LANE_CRC_ERR n)
  else if !s.on F.PAIR_CFG_EN || nw = 0 || decide (128 < nw) then s
  else
    let j := bits c 39 8
    let q := bits c 47 40
    if s.pair.parts.any (fun x => x.period = j && x.part = q) then s
    else
      let words := (List.range nw).map (fun i => bits (blk f (1 + i / 4)) (16 * (i % 4) + 15) (16 * (i % 4)))
      let old := s.pair.parts.filter (fun x => s.recent x.period 9)
      s.withPair { s.pair with parts := ⟨j, q, words⟩ :: old }

/-! ### States and lead (R371) -/

/-- The tie rule: one lead stays; else more followers, then member 0 (R371). -/
def State.tieLead (s : State) (partnerLead : Bool) : Bool :=
  if s.lead ≠ partnerLead then s.lead
  else if s.followers 2 < s.followers 1 then true
  else if s.followers 1 < s.followers 2 then false
  else s.member = 0

/-- Two leads have met (R371). -/
def State.splitMark (s : State) (partnerLead : Bool) : State :=
  if s.lead && partnerLead then (s.put F.PAIR_FAULT_STAT_SPLIT 1).raise Base.PAIR 10 else s

/-- LINKED is entered: the lead is settled by the tie rule. -/
def State.enterLinked (s : State) (p : PStat) : State :=
  let s := s.setPairState prLinked
  let s := s.withPair { s.pair with everLinked := true, digRun := [0, 0, 0] }
  (s.splitMark p.lead).setLead (s.tieLead p.lead)

/-- The module takes the lead with a majority of the sort (R371). -/
def State.majority (s : State) : State := if !s.lead && decide (s.sortList.length < 2 * s.followers 1) then s.setLead true else s

/-- The pair state machine at a reload edge, loss apart (R371). -/
def State.pairStep (s : State) : State :=
  match s.pairState, s.pair.partner with
  | 1, some p => if s.pair.rxRun ≠ 0 then s.enterLinked p else s.majority
  | 1, none => s.majority
  | 3, some p => if 16 ≤ s.pair.rxRun then s.enterLinked p else s.majority
  | 3, none => s.majority
  | 2, some p =>
    if s.lead then
      if s.on F.PAIR_CTRL_RELINQUISH && !p.relinquish then s.setLead false
      else if p.lead then (s.splitMark true).setLead (s.tieLead true)
      else s
    else if !p.lead then s.setLead (s.tieLead false)
    else s
  | _, _ => s

/-- LOSS_PER as it acts. -/
def State.lossPer (s : State) : Nat := max (s.get F.PAIR_CFG_LOSS_PER) 4

/-- PAIR_LINK_LOSS (R371): no valid PSTAT for LOSS_PER periods. -/
def execPairLinkLoss (s : State) : Host.Outcome State Fault Refusal :=
  .next (if s.pairState = prLinked && decide (s.lossPer ≤ s.pair.rxMiss) then
    ((s.put F.PAIR_FAULT_STAT_LOST 1).raise Base.PAIR 4).setPairState prLost
  else s)

/-- The check of MIRROR_MASK, whether EN is set or not (R370). -/
def State.mirrorCheck (s : State) : State :=
  if !s.mirrorOk (s.get F.PAIR_CFG_MIRROR_MASK) && !s.on F.PAIR_FAULT_STAT_MIRROR_BAD then
    (s.put F.PAIR_FAULT_STAT_MIRROR_BAD 1).raise Base.PAIR 11
  else s

/-- The rows of EN and FORCE_LEAD at a reload edge, the bit of FORCE_LEAD returning to 0 as it is taken (R371). DEDUCED, log 194. -/
def State.pairEnter (s : State) : State :=
  let s :=
    if s.on F.PAIR_CFG_EN && s.pairState = prDisabled then (s.setPairState prSearching).setLead (s.member = 0)
    else if !s.on F.PAIR_CFG_EN && s.pairState ≠ prDisabled then (s.setLead true).setPairState prDisabled
    else s
  if s.on F.PAIR_CFG_FORCE_LEAD then (s.put F.PAIR_CFG_FORCE_LEAD 0).setLead true else s

/-- PAIR_CFG has been committed, `was` being EN before: reception starts anew, and the mask is checked; the state machine follows at the
next reload edge (R370, R371). DEDUCED, log 194. -/
def State.pairCfgSet (s : State) (was : Bool) : State :=
  (if s.on F.PAIR_CFG_EN && !was then
    s.withPair { s.pair with rxRun := 0, rxMiss := 0, rxNow := false, lastSeq := none, ctbRun := 0 }
  else s).mirrorCheck

/-- PAIR_ENABLE (R371): a committed PAIR_CFG. -/
def State.pairCommit (s : State) (v : Word) : State := (s.setReg A.PAIR_CFG v).pairCfgSet (s.on F.PAIR_CFG_EN)

/-- PAIR_ENABLE (R371). -/
def execPairEnable (v : Word) (s : State) : Host.Outcome State Fault Refusal := .next (s.pairCommit v)

/-- FORCE_LEAD (R371): the bit committed 1, EN and the other fields as they are. DEDUCED, log 194. -/
def execForceLead (s : State) : Host.Outcome State Fault Refusal :=
  .next ((s.put F.PAIR_CFG_FORCE_LEAD 1).pairCfgSet (s.on F.PAIR_CFG_EN))

/-! ### Digests (R372) -/

/-- CRC-32C over dwords, least significant byte first. -/
def crcDwords (l : List Nat) : Nat := crc32c (l.flatMap (bytesLE 4))

/-- The addresses of every register of a block instance. -/
def blockAddrs (base : Nat) : List Nat :=
  match RegMap.block base with
  | none => []
  | some (b, _, _) => sortUp (b.rows.flatMap (fun r => (List.range r.n).map (fun i => base + r.off + i * r.stride)))

/-- YARD_DIGEST. -/
def State.digYard (s : State) : Nat :=
  let cover := fun a => a = A.YARD_CFG || a = A.YARD_PERIOD || (A.YARD_ARM 0 ≤ a && a < A.YARD_ARM 6) ||
    (A.YARD_FS 0 ≤ a && a < A.YARD_FS 16) || (A.YARD_CONV 0 ≤ a && a < A.YARD_CONV 64)
  let regs := ((blockAddrs Base.YARD).filter cover).map
    (fun a => if A.YARD_ARM 0 ≤ a && a < A.YARD_ARM 6 then (s.reg a).toNat % 2 ^ 19 else (s.reg a).toNat)
  crcDwords (regs ++ stalls.flatMap (fun i => [0, 4, 8, 12].map (fun o => s.rword i o)))

/-- PROG_DIGEST. -/
def State.digProg (s : State) : Nat :=
  crcDwords ((List.range 32768).map (fun i => s.load (progBase .live + 4 * i) 4) ++
    (List.range 65536).map (fun i => s.load (coefBase .live + 4 * i) 4))

/-- SET_DIGEST. -/
def State.digSet (s : State) : Nat :=
  crcDwords (((blockAddrs Base.EDGE).filter isShadow).map (fun a => (KMap.get RegMap.resetWord s.edge.active a).toNat) ++
    ((blockAddrs Base.BAL).filter isBalSetting).map (fun a => (KMap.get RegMap.resetWord s.bal.set a).toNat))

/-- Registers of own and partner digest `d`: yard, program, settings. -/
def digAddr (d : Nat) : Nat := A.PAIR_DIG_YARD + 4 * d
def pdigAddr (d : Nat) : Nat := A.PAIR_PDIG_YARD + 4 * d

/-- DIGEST_UPDATE (R372): within 1 ms of a change. -/
def execDigestUpdate (d : Fin 3) (s : State) : Host.Outcome State Fault Refusal :=
  let v := if d.val = 0 then s.digYard else if d.val = 1 then s.digProg else s.digSet
  .next (s.setReg (digAddr d.val) (BitVec.ofNat 32 v))

/-- Digest `d` differs from the partner's. -/
def State.digDiffers (s : State) (d : Nat) : Bool := s.reg (digAddr d) ≠ s.reg (pdigAddr d)

/-- DIGEST_MISMATCH (R372): a digest has differed for 16 periods in a row while LINKED. -/
def execDigestMismatch (d : Fin 3) (s : State) : Host.Outcome State Fault Refusal :=
  .next (if s.pairState = prLinked && decide (16 ≤ s.pair.digRun.getD d.val 0) && s.digDiffers d.val then
    (s.setBitOf F.PAIR_FAULT_STAT_DIGEST_MISMATCH d.val).raise Base.PAIR 5
  else s)

/-! ### Claims, takeovers and yields at the reload edge (R374–R377) -/

/-- The module is lead, or acts alone with EN = 0 (R375). -/
def State.leads (s : State) : Bool := s.lead || !s.on F.PAIR_CFG_EN

/-- Whether STANDBY = 0 is sent to stall `i` for the next period (R375). DEDUCED, log 161. -/
def State.claims (s : State) (i : Nat) : Bool :=
  s.fitFor (s.armOf i) && (s.followOf i = 1 || (s.followOf i = 0 && s.leads))

/-- Bits of stalls as six words. -/
def stallWords (p : Nat → Bool) : List Nat :=
  (List.range 6).map (fun w => (List.range 32).foldl (fun m b => if p (32 * w + b) then setBit m b else m) 0)

/-- Whether stall `i` is yielded for the next schedule (R376). -/
def State.yields (s : State) (i : Nat) : Bool :=
  let a := s.armOf i
  s.pairState = prLinked && !s.fitFor a &&
    (match s.pair.partner with
      | none => false
      | some p => p.fit.testBit a && s.recent p.period 1) &&
    (s.upBit i 8 || s.followOf i = 2)

/-- Stalls that a schedule goes to: enabled or being removed. -/
def State.served (s : State) : List Nat := stalls.filter (fun i => s.enabled i || (s.link i).removal.isSome)

/-- Receptions of the period are counted (R371, R372, R378, R379). -/
def State.pairCount (s : State) : State :=
  let x := s.pair
  let rx := x.rxNow
  let s := if rx then s else s.cnt F.PAIR_PSTAT_MISS
  let linked := s.pairState = prLinked
  let dig := (List.range 3).map (fun d => if linked && s.digDiffers d then x.digRun.getD d 0 + 1 else 0)
  s.withPair { x with
    rxNow := false, rxRun := if rx then x.rxRun + 1 else 0, rxMiss := if rx then 0 else x.rxMiss + 1
    ctbRun := if rx then x.ctbRun else 0, digRun := dig
    linkedRun := if linked then min (x.linkedRun + 1) 16 else 0, linked16 := x.linked16 || (linked && decide (15 ≤ x.linkedRun)) }

/-- The counts of PAIR_FOLLOW (R374). -/
def State.followCounts (s : State) : State :=
  ((s.put F.PAIR_FOLLOW_SELF (s.followers 1)).put F.PAIR_FOLLOW_PARTNER (s.followers 2)).put F.PAIR_FOLLOW_NOBODY (s.followers 0)

/-- Follow changes toward this module, and the presets of arms it sent no STANDBY = 0 to (R377). -/
def State.takeovers (s : State) : State :=
  let now := s.served.filter (fun i => s.followOf i = 1 && KMap.get (fun _ => 0) s.pair.follow i ≠ 1)
  let arms := (List.range 6).filter (fun a => now.any (fun i => s.armOf i = a) && !s.pair.claimArms.testBit a && s.armEn a)
  let f := stalls.foldl (fun m i => KMap.set (fun _ => 0) m i (s.followOf i)) s.pair.follow
  let s := s.withPair { s.pair with follow := f }
  if now = [] then s else arms.foldl (fun t a => t.presetArm a) ((s.cnt F.PAIR_TAKEOVERS now.length).raise Base.PAIR 2)

/-- Whether a controlled stop has yielded every stall, by its last reload edge of RUN or STOPPING (R381). DEDUCED, log 162. -/
def State.stopYielded (s : State) (yielded : List Nat) : Bool :=
  if s.running && decide (s.safeState = safeCstop) then decide (yielded ≠ []) && decide (yielded.length = s.served.length)
  else s.pair.csYielded

/-- Claims and yields for the next schedules (R375, R376, R381). -/
def State.claimYield (s : State) : State :=
  let claimed := s.served.filter s.claims
  let yielded := s.served.filter s.yields
  let arms := fun (l : List Nat) => l.foldl (fun m i => setBit m (s.armOf i)) 0
  let cw := stallWords claimed.contains
  let began := arms yielded &&& (arms yielded ^^^ s.pair.yielding)
  let s := s.withPair { s.pair with
    claim := cw, claimArms := arms claimed, yielded := stallWords yielded.contains, yielding := arms yielded
    csYielded := s.stopYielded yielded }
  let s := (List.range 6).foldl (fun (t : State) w => t.setReg (A.PAIR_CLAIM w) (BitVec.ofNat 32 (cw.getD w 0))) s
  let s := s.cnt F.PAIR_YIELD_PER yielded.length
  if began = 0 then s else s.raise Base.PAIR 3

/-- The pair at a reload edge (R371–R377); with EN = 0 the module acts alone, and its fitness and claims are judged so (R375). -/
def State.pairReload (s : State) : State :=
  let s := (if s.on F.PAIR_CFG_EN then s.pairCount.followCounts.pairStep else s.followCounts).pairEnter.mirrorCheck
  (s.put F.PAIR_STAT_FIT s.fitMask).takeovers.claimYield

/-! ### Tracking (R377) -/

/-- The complete mirror set of period `j`: arm words, then the slots, none where a part is missing. -/
def State.mirrorSet (s : State) (j : Nat) : Option (List Nat × List Nat) :=
  let ps := s.pair.parts.filter (fun p => p.period = j)
  let want := s.sortList.length * popcount 16 s.pair.mask
  let part := fun q => (ps.find? (fun p => p.part = q)).map (fun p => p.words)
  let slots := ((List.range ((want + 127) / 128)).map (fun q => (part (q + 1)).getD [])).flatten
  match part 0 with
  | some a => if a.length = 24 && slots.length = want then some (a, slots) else none
  | none => none

/-- The newest complete set at most 8 periods old: its age and words. -/
def State.newestSet (s : State) : Option (Nat × List Nat × List Nat) :=
  ((List.range 8).map (fun d => d + 1)).findSome? (fun d =>
    (s.mirrorSet ((s.periodK % 2 ^ 32 + 2 ^ 32 - d) % 2 ^ 32)).map (fun m => (d, m.1, m.2)))

/-- Arm `a`'s committed words and slots are loaded from a set and its presets fall due. -/
def State.loadArm (s : State) (a : Nat) (words slots : List Nat) : State :=
  let cs := bitIndices 16 s.pair.mask
  let s := (List.range 4).foldl
    (fun (t : State) w => t.setReg (A.EDGE_ACMD0 a + 4 * w) (BitVec.ofNat 32 (words.getD (4 * a + w) 0))) s
  let l := s.sortList
  let idx := (List.range l.length).filter (fun n => s.armOf (l.getD n 0) = a)
  let s := idx.foldl
    (fun (t : State) n => (List.range cs.length).foldl
      (fun (t : State) q =>
        let a := 0x800000 + 0x1000 * l.getD n 0 + offCmd + 2 * cs.getD q 0
        (t.store a 2 (slots.getD (n * cs.length + q) 0)).unpoison (a / 8 * 8) 8) t) s
  s.presetArm a

/-- Tracking at a period boundary (R377). -/
def State.track (s : State) : State :=
  if !(s.on F.PAIR_CFG_EN && s.on F.PAIR_CFG_TRACK_EN) then s.put F.PAIR_STAT_TRACK 0
  else
    let arms := (List.range 6).filter (fun a => s.bitOf F.PAIR_STAT_FIT a && !s.pair.claimArms.testBit a)
    if arms = [] then s.put F.PAIR_STAT_TRACK 0
    else
      match s.newestSet with
      | none => ((s.put F.PAIR_STAT_TRACK 0).put F.PAIR_FAULT_STAT_MIRROR_LATE 1).raise Base.PAIR 6
      | some (d, words, slots) =>
        let s := arms.foldl (fun (t : State) a => t.loadArm a words slots) s
        let s := s.put F.PAIR_STAT_TRACK (arms.foldl (fun m a => setBit m a) 0)
        (s.put F.PAIR_MIRROR_LAG_LAG d).put F.PAIR_MIRROR_LAG_PEAK (max d (s.get F.PAIR_MIRROR_LAG_PEAK))

/-! ### Withdrawal (R381) -/

/-- A stall lane's transmitter goes dark as a PARKED lane's; EN is unchanged. -/
def State.laneDark (s : State) (n : Nat) : State :=
  let en := s.get (F.LANE_CTRL_EN n)
  (s.laneToPark n).put (F.LANE_CTRL_EN n) en

/-- The module withdraws. -/
def State.withdrawNow (s : State) : State :=
  let s := s.withPair { s.pair with withdrawAt := none }
  let s := (List.range 48).foldl (fun (t : State) n => t.laneDark n) s
  (s.put F.PAIR_STAT_WITHDRAWN 1).raise Base.PAIR 8

/-- Withdrawal ends at an accepted lock-out reset: enabled lanes train from WAKE; one still to come is given up. -/
def State.withdrawEnd (s : State) : State :=
  let s := s.withPair { s.pair with withdrawAt := none }
  if !s.on F.PAIR_STAT_WITHDRAWN then s
  else
    (List.range 48).foldl (fun (t : State) n => if t.on (F.LANE_CTRL_EN n) then t.goLane n lnWake else t) (s.put F.PAIR_STAT_WITHDRAWN 0)

/-- WITHDRAW (R381): 50 µs after a qualifying trip. -/
def execWithdraw (s : State) : Host.Outcome State Fault Refusal :=
  match s.pair.withdrawAt with
  | some t => .next ((s.until (t + 50 * us)).withdrawNow)
  | none => .next s

/-- Whether a W1C clear of bit `i` of PAIR_FAULT_STAT is accepted (R368, R370–R372, R378). -/
def pairClearOk (s : State) (a i : Nat) : Bool :=
  if a ≠ F.PAIR_FAULT_STAT_LOST.reg then true
  else match i with
    | 5 => s.pairState ≠ prLost
    | 7 => decide ((sx 32 (s.reg A.PAIR_CTB_DIFF).toNat).natAbs ≤ 640)
    | 8 => s.mirrorOk (s.get F.PAIR_CFG_MIRROR_MASK)
    | 4 => !s.pair.clash
    | 11 => !s.digDiffers 0
    | 12 => !s.digDiffers 1
    | 13 => !s.digDiffers 2
    | _ => true

end Sys2Proof.Machine
end

