-- ==== Sys2Proof/Machine/Receive.lean ====
section
/-! DEFINITION. What the lanes receive: blocks, frames put together from them, and the errors of both (R57–R59, R62, R69, R70, R96, R111,
R369). -/

namespace Sys2Proof.Machine

open Sys2Proof

/-- Control block types a receiver of lane `n` knows: those of R58 and the marker, and on a pair lane those of R369 and R372. -/
def knownType (n t : Nat) : Bool :=
  [0x3C, 0x5A, 0xC3, 0xD8, 0xE4, 0x27, 0x4E, 0x72, 0x8D, 0x93, 0x96].contains t || (48 ≤ n && [0xA5, 0xB4].contains t)

/-- How many data blocks follow control block `c` on lane `n`, 0 where it begins no frame (R58, R59, R64, R369). -/
def dataBlocks (n c : Nat) : Nat :=
  match c % 256 with
  | 0xC3 => 1
  | 0xD8 => 2 + (bits c 60 56 + 1) / 2
  | 0xE4 => 3
  | 0x27 => 6
  | 0x4E => 2
  | 0x72 => 2
  | 0xA5 => if 48 ≤ n then 5 else 0
  | 0xB4 => if 48 ≤ n then (bits c 55 48 + 3) / 4 + 1 else 0
  | _ => 0

/-- A whole frame has been received on lane `n`: the frames that reach the KY-9 are taken, of the others only the CRC is judged (R62, R111). -/
def State.frameIn (s : State) (n : Nat) (f : List (BitVec 64)) : State :=
  let t := blk f 0 % 256
  if t = 0x27 ∧ n < 48 then s.uplinkTake n f
  else if t = 0x72 ∧ n < 48 then s.mrspTake n f
  else if t = 0xA5 then s.pstatIn n f
  else if t = 0xB4 then s.poutIn n f
  else if t = 0xC3 ∨ frameOk f then s
  else s.cnt (F.LANE_CRC_ERR n)

/-- The partial frame of lane `n`. -/
def State.setRx (s : State) (n : Nat) (l : List (BitVec 64)) : State := s.setLane n { s.lane n with rx := l }

/-- A received control block: a partial frame is discarded and the block parsed afresh; a marker stands between blocks (R58, R59, R111). -/
def State.rxControl (s : State) (n : Nat) (c : BitVec 64) : State :=
  let t := c.toNat % 256
  if t = 0x96 then s
  else
    let s := s.setRx n (if dataBlocks n c.toNat = 0 then [] else [c])
    if t = 0x3C then s.cnt (F.LANE_IDLE_BITERR n) (popcount 56 (bits c.toNat 63 8))
    else if knownType n t then s else s.cnt (F.LANE_FRAMING n)

/-- A received data block: it belongs to the frame in progress, which it may complete, or to none (R59, R111). -/
def State.rxData (s : State) (n : Nat) (d : BitVec 64) : State :=
  match (s.lane n).rx with
  | [] => s.cnt (F.LANE_FRAMING n)
  | c :: l =>
    if l.length + 1 = dataBlocks n c.toNat then (s.setRx n []).frameIn n (c :: l ++ [d])
    else s.setRx n (c :: l ++ [d])

/-- Blocks received on lane `n` one behind the other, the first a control block. -/
def State.rxBlocks (s : State) (n : Nat) : List (BitVec 64) → State
  | [] => s
  | c :: l => l.foldl (fun (t : State) d => t.rxData n d) (s.rxControl n c)

/-- BLOCK_RECEIVED (R57–R59, R111): a block of any kind, by its sync header. A block with an invalid header is neither a control nor a data
block. DESIGN CHOICE, log 36. -/
def execBlockReceived (n : Fin 50) (hdr : BitVec 2) (payload : BitVec 64) (s : State) : Host.Outcome State Fault Refusal :=
  let k := n.val
  .next (if s.laneState k = lnParked then s
    else if hdr = syncHeader true then s.rxControl k payload
    else if hdr = syncHeader false then s.rxData k payload
    else (s.setLane k { s.lane k with invalid := (s.lane k).invalid + 1 }).cnt (F.LANE_SH_ERR k))

/-- UPLINK_RECEIVED (R69, R96): the blocks of an UPLINK frame, in any state in which the receiver is on. -/
def execUplinkReceived (n : Fin 48) (f : List (BitVec 64)) (s : State) : Host.Outcome State Fault Refusal :=
  .next (if s.laneState n.val = lnParked then s else s.rxBlocks n.val f)

/-- MRSP_RECEIVED (R62, R70): the blocks of an MRSP frame. -/
def execMrspReceived (n : Fin 48) (f : List (BitVec 64)) (s : State) : Host.Outcome State Fault Refusal :=
  .next (if s.laneState n.val = lnParked then s else s.rxBlocks n.val f)

/-- PSTAT_RX (R369, R370): the blocks of a PSTAT frame. -/
def execPstatRx (p : Fin 2) (f : List (BitVec 64)) (s : State) : Host.Outcome State Fault Refusal :=
  .next (if s.laneState (48 + p.val) = lnParked then s else s.rxBlocks (48 + p.val) f)

/-- POUT_RX (R369, R377): the blocks of a POUT frame. -/
def execPoutRx (p : Fin 2) (f : List (BitVec 64)) (s : State) : Host.Outcome State Fault Refusal :=
  .next (if s.laneState (48 + p.val) = lnParked then s else s.rxBlocks (48 + p.val) f)

end Sys2Proof.Machine
end

