-- ==== Sys2Proof/Machine/Period.lean ====
section
/-! DEFINITION. The period: its boundary, its reload edge, and the entries to RUN, STOPPING and CONFIG that fall on boundaries
(R46, R48, R51, R63, R137, R163, R194). -/

namespace Sys2Proof.Machine

open Sys2Proof

/-! ### The boundary (R46) -/

/-- The runs that have not ended by a boundary overran at cycle Y − 4 (R164). DEDUCED, log 82. -/
def State.endRuns (s : State) : State :=
  let s := if s.runs .live then (s.untilCtb (s.yard.tk + 10 * s.limY)).overrun .live else s
  if s.runs .shadow then s.overrun .shadow else s

/-- TIME of the period leaves lane `n` at the first block boundary that no frame in flight and no marker takes, its DLY saying where; none while
HALT fills the lane, nor before normal traffic has resumed after a halt (R63, R99, R109, R110). DEDUCED, log 175. -/
def State.sendTimeOn (s : State) (n : Nat) : State :=
  if s.laneSends n && decide (s.resume10 n ≤ 10 * s.now) then
    let st := s.txStart10 n 0
    s.sendAt n st (timeFrame s.periodK s.yard.tk s.yard.half (s.departDly st))
  else s

/-- TIME leaves on every stall lane that is UP (R63). -/
def State.sendTime (s : State) : State := (List.range 48).foldl (fun (t : State) n => t.sendTimeOn n) s

/-- A schedule for the period that begins which has not left is not sent any more, and one that was never computed was not sent either: both
count in LK_DL_SKIP (R5, R77). -/
def State.dropUnsent (s : State) (i : Nat) : State :=
  if (s.link i).ready.isSome then (s.setLink i { s.link i with ready := none }).skipSched i
  else if s.waits i && !s.yieldedNow i then s.cntRec i offDlSkip
  else s

/-- A stall's link enters a period: LK_CFG is sampled (R69, R89, R90). -/
def State.linkPeriod (s : State) (i : Nat) : State :=
  let s := s.dropUnsent i
  s.setLink i { s.link i with acc := false, bad := false, cfg := s.rword i offLkCfg }

/-- A lane's management enters a period (R76, R91). -/
def State.lanePeriod (s : State) (n : Nat) : State := (s.setLl n { s.ll n with cut := false }).enumPeriod n

/-- The MASTER whose engine reads a poisoned working-memory word in each period; none for a stall record's uplink area (R329, R333): lanes,
synthesiser or balancing, by the word's place. DEDUCED, log 81. -/
def wordReader (a : Nat) : Option Nat :=
  if 0x800000 ≤ a ∧ a < 0x8C0000 then
    let o := a % 0x1000
    if 0x100 ≤ o ∧ o < 0x134 then none else if 0x040 ≤ o ∧ o < 0x100 ∨ 0x200 ≤ o ∧ o < 0x300 then some 6 else some 5
  else
    let ty := if a < 2 ^ 24 then a / 2 ^ 16 else a / 2 ^ 24
    if ty = 0x14 then some 7 else if ty = 0x13 then some 6 else some 5

/-- One error is counted in each period for each poisoned working-memory word that is no uplink word (R333). DEDUCED, log 81. -/
def State.poisonPeriod (s : State) : State :=
  (s.flt.poisoned.filter (fun p => p.1 = 3)).foldl
    (fun (t : State) p => match wordReader p.2 with
      | some m => t.err .tableUe m 0 p.2
      | none => t) s

/-- What a boundary does beyond the period number (R51, R125, R141, R163, R194, R369, R377). -/
def State.periodStart (s : State) (pout : List (Nat × List Nat)) (ended : Nat) : State :=
  let s := stalls.foldl (fun t i => t.linkPeriod i) s.sendTime
  let s := (List.range 48).foldl (fun t n => t.lanePeriod n) s
  let s := { s with conv := s.convNext }
  let s := if s.running && s.on F.YARD_WARMUP_WU_LEFT then
      s.put F.YARD_WARMUP_WU_LEFT (s.get F.YARD_WARMUP_WU_LEFT - 1) else s
  let s := { s with bal := { s.bal with done := false } }
  (((s.edgeBoundary.pairSend pout ended).track).poisonPeriod).engStart

/-- PERIOD_BOUNDARY (R46, R163): the CTB reaches the next boundary; with HALF_US 0 there is none. -/
def execPeriodBoundary (s : State) : Host.Outcome State Fault Refusal :=
  match s.nextBoundary with
  | none => .next s
  | some t =>
    let s := s.endRuns.padBoundary
    let s := { s with cme := { s.cme with missed := if s.running then s.missesNow else none } }
    let pout := s.poutParts
    let ended := s.periodK
    .next ((s.enterPeriod t).periodStart pout ended)

/-! ### The reload edge (R137) -/

/-- The cut-off is taken at its own instant where it has not been. -/
def State.cutoffNow (s : State) : State :=
  if s.edge.cut then s else (s.untilCtb (s.yard.tk + (s.get F.EDGE_RELOAD - 4 * cyc))).cutoffSample

/-- The copy taken at the cut-off is checked and becomes active (R137). -/
def State.commitEdge (s : State) : State :=
  match s.edge.copy with
  | some m => s.concludeCommit m true s.perTicks
  | none => s

/-- The links at the reload edge: lanes whose cut-off has not been taken, and the link faults of the period (R55, R76, R90). -/
def State.linkEdge (s : State) : State :=
  let s := (List.range 48).foldl (fun t n => t.lateUplinks n) s
  s.enabledList.foldl (fun t i => t.judgeLink i) s

/-- What the reload edge does in RUN and STOPPING (R137, R146, R179, R181, R183, R119). -/
def State.reloadRun (s : State) : State :=
  s.linkEdge.balReload.judgeMisses.judgeRestores.pairReload.fixKinds.publishBudget

/-- RELOAD_EDGE (R137). DEDUCED, log 84. -/
def execReloadEdge (s : State) : Host.Outcome State Fault Refusal :=
  if s.edge.edge || s.time.stopped then .next s
  else if s.running then
    let s := s.cutoffNow
    .next ((s.untilCtb (s.yard.tk + s.get F.EDGE_RELOAD)).commitEdge.reloadRun)
  else
    let s := (s.untilCtb (s.yard.tk + s.get F.EDGE_RELOAD)).linkEdge.pairReload
    .next ({ s with edge := { s.edge with edge := true } }.publishBudget)

/-! ### Yard states at boundaries (R48) -/

/-- Stalls of found nodes take part from START; their nodes and relays are configured (R92). -/
def State.startLinks (s : State) : State :=
  let s := s.enabledList.foldl (fun t i => if t.lkState i = lkEnumerated then t.setLk i lkActive else t) s
  let s := s.enabledList.foldl (fun t i => t.askConfig i) s
  (List.range 48).foldl (fun t n => if t.onLane n = [] then t else t.askRelays n) s

/-- Balancing starts afresh, and no removal waits for the next sample (R48, R158, R159). -/
def State.freshRun (s : State) : State :=
  { s with bal := { s.bal with first := true, busy := false, done := false }, edge := { s.edge with left := 0 } }

/-- RUN begins: warm-up, the engine and balancing start, the active EDGE set is checked (R48, R140, R159, R163, R194). -/
def State.enterRun (s : State) : State :=
  let s := ((s.setYard yardRun).put F.YARD_CTRL_START 0).raise Base.YARD 0
  let s := { s with yard := { s.yard with startPend := none }, conv := s.convSample, convNext := s.convSample }
  let s := (s.put F.YARD_WARMUP_WU_LEFT (max (s.get F.YARD_WARMUP_W_UP) 16)).put F.BAL_STAT_WARMUP 1
  let s := s.startLinks.freshRun
  let s := (List.range 6).foldl (fun t a => t.setBa a { t.ba a with neg := false }) s
  let s := (List.range 6).foldl (fun t a => t.setEa a {}) s
  let s := stalls.foldl (fun (t : State) i => t.setEs i { t.es i with inC := none, inCNext := none, inA := none, inANext := none }) s
  let s := { s with cme := { s.cme with live := s.on F.CME_STAT_PROG_OK, missed := none } }
  (s.edgeStartCheck.put F.EDGE_RELOAD s.reloadOff).engStart

/-- YARD_ENTER_RUN (R48): at the first boundary after START. DEDUCED, log 83. -/
def execYardEnterRun (s : State) : Host.Outcome State Fault Refusal :=
  .next (if s.yardState = yardChecked && s.dueAt s.yard.startPend then s.enterRun else s)

/-- STOPPING begins (R48, R198). -/
def State.enterStopping (s : State) : State :=
  let s := ((s.setYard yardStopping).put F.YARD_CTRL_STOP 0).raise Base.YARD 0
  { s with yard := { s.yard with stopPend := none, stopK := s.periodK } }.padAbort 11

/-- YARD_ENTER_STOPPING (R48): at the first boundary after STOP or a module lock-out. -/
def execYardEnterStopping (s : State) : Host.Outcome State Fault Refusal :=
  .next (if s.yardState = yardRun && s.dueAt s.yard.stopPend then s.enterStopping else s)

/-- Stall `i` reports coast in a period of STOPPING (R48): its last uplink is of the period in which STOPPING began or of a later one, modulo
2³². DESIGN CHOICE, log 165. -/
def State.reportsCoast (s : State) (i : Nat) : Bool :=
  s.nstate i = 5 && decide ((s.rword i offUpPeriod + 2 ^ 32 - s.yard.stopK % 2 ^ 32) % 2 ^ 32 < 2 ^ 31)

/-- Every active stall reports coast, or 64 periods have passed (R48). -/
def State.stopDone (s : State) : Bool :=
  decide (s.yard.stopK + 64 ≤ s.periodK) || s.enabledList.all (fun i => s.lkState i ≠ lkActive || s.reportsCoast i)

/-- A stall's link when the yard returns to CONFIG. -/
def State.stopLink (s : State) (i : Nat) : State :=
  let lk := s.lkState i
  let s := if lk = lkActive || lk = lkPrecharge then s.setLk i lkEnumerated
    else if lk = lkRemoving then (s.setLk i lkAbsent).stallEvent i 11 else s
  let s := s.setLink i { s.link i with phase := .none, ready := none, removal := none }
  s.setEs i { s.es i with kind := .none, next := none, inC := none, inCNext := none, inA := none, inANext := none }

end Sys2Proof.Machine
end

