-- ==== Sys2Proof/Machine/Therm.lean ====
section
/-! DEFINITION. Temperature: sensors, zones, throttling and critical temperature (R271–R274). -/

namespace Sys2Proof.Machine

open Sys2Proof

/-- Thermal state replaced. -/
def State.withTherm (s : State) (t : ThermSt) : State := { s with therm := t }

/-- The sensors of a zone (R271). -/
def zoneSensors (z : Nat) : List Nat :=
  match z with
  | 0 => [0, 1, 2, 3]
  | 1 => [4, 5]
  | 2 => [6, 7, 8, 9]
  | 3 => [10, 11]
  | 4 => [12, 13]
  | _ => [14, 15]

/-- The zone of a sensor. -/
def zoneOf (n : Nat) : Nat := if n < 4 then 0 else if n < 6 then 1 else if n < 10 then 2 else if n < 12 then 3 else if n < 14 then 4 else 5

/-- A sensor's last reading, in 1/16 °C. -/
def State.tempOf (s : State) (n : Nat) : Int := s.getS (F.THERM_T_T n)

/-- A sensor is FAILED. -/
def State.sensorFailed (s : State) (n : Nat) : Bool := s.bitOf F.THERM_FAILED n

/-- A reading outside −55 to +160 °C (R272). -/
def outOfRange (t : Int) : Bool := decide (t < -880) || decide (2560 < t)

/-- XCHK_LIM in 1/16 K; 0 acts as 1 K. -/
def State.xchkLim (s : State) : Nat := s.getOr F.THERM_CTRL_XCHK_LIM 1 * 16

/-- Twice the median of up to three readings; none without one. DEDUCED, log 110. -/
def median2 (l : List Int) : Option Int :=
  match l with
  | [] => none
  | [a] => some (2 * a)
  | [a, b] => some (a + b)
  | a :: b :: c :: _ => some (2 * (max (min a b) (min (max a b) c)))

/-- A sensor differs from its zone's other valid sensors by more than XCHK_LIM (R272). -/
def State.differs (s : State) (n : Nat) : Bool :=
  match median2 (((zoneSensors (zoneOf n)).filter (fun m => m ≠ n && !s.sensorFailed m)).map s.tempOf) with
  | none => false
  | some d => decide (2 * s.xchkLim < (2 * s.tempOf n - d).natAbs)

/-- A sensor becomes FAILED (R272). -/
def State.sensorFail (s : State) (n : Nat) : State :=
  if s.sensorFailed n then s
  else (((s.setBitOf F.THERM_FAILED n).put (F.THERM_T_FAILED n) 1).put F.THERM_FAULT_STAT_SENSOR_FAIL 1).raise Base.THERM 2

/-- A cross-check fault under key `k`; the answer says whether XCHK_N of them lie within XCHK_W (R272). -/
def State.xchkFault (s : State) (k : Nat) : State × Bool :=
  let n := s.getOr F.THERM_XCFG_XCHK_N 1
  let ts := (s.now :: KMap.get (fun _ => []) s.therm.faults k).take n
  let s := s.withTherm { s.therm with faults := KMap.set (fun _ => []) s.therm.faults k ts }
  let s := ((s.cnt F.THERM_XCHK_FAULTS).put F.THERM_FAULT_STAT_XCHK 1).raise Base.THERM 3
  (s, ts.length = n && decide (s.now ≤ ts.getLastD 0 + s.getOr F.THERM_XCFG_XCHK_W 1 * ms))

/-- The cross-check of one zone (R272). Faults are judged on the readings and the valid sensors at its start. -/
def State.checkZone (s : State) (z : Nat) : State :=
  let v := (zoneSensors z).filter (fun n => !s.sensorFailed n)
  if z = 0 ∨ z = 2 then
    v.foldl (fun (t : State) n =>
      if s.differs n then
        let r := t.xchkFault n
        if r.2 then r.1.sensorFail n else r.1
      else t) s
  else
    let bad := v.length = 2 && v.any s.differs
    let s := (zoneSensors z).foldl (fun (t : State) n => t.put (F.THERM_T_DISAGREE n) (b2n bad)) s
    if bad then
      let r := s.xchkFault (16 + z)
      if r.2 then r.1.setBitOf F.THERM_STAT_SUSPECT z else r.1
    else s

/-- The highest reading of a zone's valid sensors. -/
def State.zoneTemp (s : State) (z : Nat) : Option Int :=
  (((zoneSensors z).filter (fun n => !s.sensorFailed n)).map s.tempOf).foldl
    (fun (b : Option Int) t => some (match b with | none => t | some x => max x t)) none

/-- A threshold of a zone in 1/16 °C. -/
def State.thr (s : State) (f : Nat → Fld) (z : Nat) : Int := 16 * (s.get (f z) : Int)

/-- The level a zone demands, from its temperature and the level it demanded (R272, R273). -/
def State.zoneDemand (s : State) (z : Nat) : Nat :=
  match s.zoneTemp z with
  | none => 2
  | some t =>
    let old := s.therm.demand.getD z 0
    let holds (lvl : Nat) (thr : Int) : Bool := decide (thr ≤ t) || (decide (lvl ≤ old) && decide (thr - 80 < t))
    if holds 2 (s.thr F.THERM_ZONE_THR2 z) then 2 else if holds 1 (s.thr F.THERM_ZONE_THR1 z) then 1 else 0

/-- The throttle level from the zones' demands and FORCE_LVL, 3 acting as 2 (R273). -/
def State.throttle (s : State) : State :=
  let l := max (s.therm.demand.foldl max 0) (min (s.get F.THERM_CTRL_FORCE_LVL) 2)
  if s.get F.THERM_STAT_LEVEL = l then s else (s.put F.THERM_STAT_LEVEL l).raise Base.THERM 0

/-- ZVAL, ZONE_LOST, ZONE_WARN, the demand and the CRIT count of a zone (R272–R274). -/
def State.judgeZone (s : State) (z : Nat) : State :=
  let d := s.zoneDemand z
  match s.zoneTemp z with
  | none =>
    let was := s.bitOf F.THERM_STAT_ZONE_LOST z
    let s := (s.withTherm { s.therm with demand := setAt s.therm.demand z d, critRun := setAt s.therm.critRun z 0 }).setBitOf
      F.THERM_STAT_ZONE_LOST z
    if was then s else s.raise Base.THERM 4
  | some t =>
    let run := if s.thr F.THERM_ZONE_CRIT z < t && s.get (F.THERM_ZONE_CRIT z) ≠ 255 then s.therm.critRun.getD z 0 + 1 else 0
    let s := s.withTherm { s.therm with demand := setAt s.therm.demand z d, critRun := setAt s.therm.critRun z run }
    let s := (s.put (F.THERM_ZVAL z) (tc 16 t)).clrBitOf F.THERM_STAT_ZONE_LOST z
    let warn := decide (s.thr F.THERM_ZONE_WARN z ≤ t) && s.get (F.THERM_ZONE_WARN z) ≠ 255
    let was := s.bitOf F.THERM_STAT_ZONE_WARN z
    let s := s.putBitOf F.THERM_STAT_ZONE_WARN z warn
    if warn && !was then s.raise Base.THERM 5 else s

/-- THERM_CRIT is asserted: latched, counted, raised, and the fence starts a controlled stop (R274, R311). -/
def State.thermCrit (s : State) : State :=
  if s.on F.THERM_STAT_CRIT then s
  else
    let s := ((s.put F.THERM_STAT_CRIT 1).put F.THERM_FAULT_STAT_CRIT_LATCH 1).cnt F.THERM_CRIT_COUNT
    (s.raise Base.THERM 1).cstop ⟨1, 4, 0, allOutputs⟩

/-- The readings of one measurement enter the sensor registers; one out of range fails its sensor at once (R271, R272). -/
def State.readSensors (s : State) (t : List Int) : State :=
  (List.range 16).foldl (fun (u : State) n =>
    let x := t.getD n 0
    let u := u.put (F.THERM_T_T n) (tc 16 (sat16 x))
    if outOfRange x then u.sensorFail n else u) s

/-- One measurement of the sixteen sensors (R271–R274). -/
def State.measure (s : State) (t : List Int) : State :=
  let s := s.readSensors t
  let s := s.withTherm { s.therm with crit := (List.range 6).map (fun z => s.get (F.THERM_ZONE_CRIT z)) }
  let s := (List.range 6).foldl State.checkZone s
  let s := (List.range 6).foldl State.judgeZone s
  let s := s.throttle
  let s := if s.get F.THERM_STAT_LEVEL = 0 then s else s.cnt F.THERM_THROTTLE_MS
  if s.therm.critRun.any (fun n => decide (3 ≤ n)) then s.thermCrit else s

/-- TEMP_MEASURE (R271–R274): the next 1 ms measurement reads `t`, sixteen readings in 1/16 °C. -/
def execTempMeasure (t : List Int) (s : State) : Host.Outcome State Fault Refusal :=
  let s := s.until (s.therm.at0 + ms)
  .next ((s.withTherm { s.therm with at0 := s.now }).measure t)

/-! Hooks of Access. -/

/-- Whether a clear of FAILED bit `n` is accepted (R272). -/
def failedClearOk (s : State) (n : Nat) : Bool := !outOfRange (s.tempOf n) && !s.differs n

/-- A sensor is re-admitted (R272). -/
def State.thermReadmit (s : State) (n : Nat) : State :=
  (s.put (F.THERM_T_FAILED n) 0).withTherm { s.therm with faults := KMap.set (fun _ => []) s.therm.faults n [] }

/-- Whether a clear of bit `i` of THERM_FAULT_STAT is accepted: CRIT_LATCH not while a zone stands above its CRIT − 5 K (R274). -/
def thermClearOk (s : State) (i : Nat) : Bool :=
  !(i = 4 && (List.range 6).any (fun z => match s.zoneTemp z with
    | some t => decide (16 * (s.therm.crit.getD z 0 : Int) - 80 < t)
    | none => false))

/-- THERM_CRIT falls when CRIT_LATCH is cleared (R274). -/
def State.thermCleared (s : State) : State :=
  if s.on F.THERM_FAULT_STAT_CRIT_LATCH then s else s.put F.THERM_STAT_CRIT 0

end Sys2Proof.Machine
end

