-- ==== Sys2Proof/Machine/Safe.lean ====
section
/-! DEFINITION. The safety section's commands: safety cycles, inputs, feedback, agreement, restart windows, lock-out reset, class B
conditions and proof tests (R301–R323). -/

namespace Sys2Proof.Machine

open Sys2Proof

/-- The safety section replaced. -/
def State.withSafe (s : State) (x : SafeSt) : State := { s with safe := x }

/-! ### Restart windows (R309) -/

/-- A restart window opens, where none is open. -/
def State.openWindow (s : State) : State :=
  if s.on F.SAFE_STAT_SV_WINDOW then s
  else
    let s := (((s.put F.SAFE_STAT_SV_WINDOW 1).put F.SAFE_STAT_SV_OK 0).cnt F.SAFE_SV_WINDOWS).raise Base.SAFE 14
    (s.withSafe { s.safe with winAt := s.now, svGood := 0 }).enforce

/-- SV losses within 24 h. DEDUCED, log 112. -/
def State.lossesToday (s : State) : Nat := (s.safe.losses.filter (fun t => decide (s.now < t + 86400 * sec))).length

/-- An SV loss: a window opens; on the SV_LOSS_N-th in 24 h SV_LASTING is latched and the module trips (R309). -/
def State.svLoss (s : State) : State :=
  if s.on F.SAFE_STAT_SV_WINDOW then s
  else
    let s := s.withSafe { s.safe with losses := s.now :: s.safe.losses.filter (fun t => decide (s.now < t + 86400 * sec)) }
    let s := s.openWindow
    let n := s.aget F.SAFE_CFG_SV_LOSS_N
    if (if n = 0 then 1 else n) ≤ s.lossesToday then (s.put F.SAFE_FAULT_STAT_SV_LASTING 1).trip ⟨1, 0x0C, 0, allOutputs⟩ else s

/-- The window closes after 16 good cycles in a row; agreement is judged again 100 µs later (R309). -/
def State.closeWindow (s : State) : State :=
  let s := ((s.put F.SAFE_STAT_SV_WINDOW 0).put F.SAFE_STAT_SV_OK 1).raise Base.SAFE 14
  (s.withSafe { s.safe with agreeFrom := s.now + 100 * us }).enforce

/-- The answer to the fence's challenge (R309). -/
def State.challenge (s : State) (good : Bool) : State :=
  if good && s.on F.SYS_STAT_SVR_UP then
    let s := s.withSafe { s.safe with svFails := 0, svGood := s.safe.svGood + 1 }
    if s.on F.SAFE_STAT_SV_WINDOW then (if 16 ≤ s.safe.svGood then s.closeWindow else s) else s.put F.SAFE_STAT_SV_OK 1
  else
    let s := s.withSafe { s.safe with svFails := s.safe.svFails + 1, svGood := 0 }
    if s.safe.svFails = 3 then s.svLoss else s

/-- RESTART_MAX in ticks: 10 ms units, outside 30–100 the nearer bound (R309). -/
def State.restartMax (s : State) : Nat := clampN 30 100 (s.aget F.SAFE_CFG_RESTART_MAX) * 10 * ms

/-- RESTART_WINDOW_LONG (R309). -/
def execRestartWindowLong (s : State) : Host.Outcome State Fault Refusal :=
  if s.on F.SAFE_STAT_SV_WINDOW then .next ((s.until (s.safe.winAt + s.restartMax)).cstop ⟨1, 0x0D, 0, 0⟩) else .next s

/-! ### Class B conditions (R320) -/

/-- A loop's state. -/
def State.loopSt (s : State) (x : Nat) : Nat := s.get (F.AUX_LOOP_STAT_STATE x)

/-- The class B conditions present, bit c; a broken class B line counts as its condition (R308, R320). DEDUCED, log 198. -/
def State.classB (s : State) : Nat :=
  let act := s.enabledList.filter (fun i => s.lkState i = lkActive)
  let run := decide (s.yardState = yardRun)
  let lost := run && !s.warmup && (List.range 6).any (fun a => s.armEn a && ((s.ba a).st = 3 || s.bitOf F.CME_STAT_DEGRADED a))
  let l0 := s.loopSt 0
  let l1 := s.loopSt 1
  let one := decide (l0 = loopLatched) != decide (l1 = loopLatched)
  let dead (l : Nat) : Bool := l = loopLatched || l = loopOff
  let c := b2n lost + 2 * b2n one + 4 * b2n (run && dead l0 && dead l1) + 8 * b2n (act.any (fun i => s.upBit i 12)) +
    16 * b2n (act.any (fun i => s.nstate i = 7)) +
    32 * b2n (s.on F.THERM_STAT_SUSPECT || s.on F.THERM_STAT_ZONE_LOST || s.get F.THERM_STAT_LEVEL = 2) +
    64 * b2n ((List.range 50).any (fun n => s.on (F.LANE_FAULT_STAT_LASTING n)) || stalls.any s.lasting) +
    128 * b2n (s.on F.SAFE_FAULT_STAT_PROOF_OVERDUE)
  s.flt.broken.foldl (fun m b => match b.2 with | .classB k => setBit m k.val | _ => m) c

/-- The action of class B condition `c` (R320, R315). -/
def State.classBAct (s : State) (c : Nat) : State :=
  let s := s.raise Base.SAFE 11
  let a := bits (s.aget F.SAFE_CLASSB_ACT_ACT) (2 * c + 1) (2 * c)
  if a = 0 then s
  else if a = 1 then s.cstop ⟨2, 5, c, 0⟩
  else s.trip ⟨2, 5, c, s.aget F.SAFE_CLASSB_ACT_TRIP_SO⟩

/-- The supervisor judges the class B conditions; it acts at each rising edge, and not in a restart window (R309, R320). DEDUCED, log
111. -/
def State.judgeB (s : State) : State :=
  if !s.svAlive then s
  else
    let m := s.classB
    let old := s.get F.SAFE_CLASSB
    let s := s.put F.SAFE_CLASSB m
    ((List.range 8).filter (fun c => m.testBit c && !old.testBit c)).foldl State.classBAct s

/-! ### Safety cycles (R302, R309, R310) -/

/-- The supervisor finds the fence failed: its own halt request, every switch B open, LOCKOUT (R310). -/
def State.fenceFail (s : State) : State :=
  let s := (s.withSafe { s.safe with fenceFailed := true }).put F.SAFE_FAULT_STAT_FENCE_FAIL 1
  (s.put F.SAFE_STAT_FENCE_OK 0).trip ⟨2, 0x0B, 0, allOutputs⟩

/-- The supervisor's view of the fence; one that passes its checks again judges and enforces as before (R310, log 114). -/
def State.fenceView (s : State) (bad : Bool) : State :=
  if !s.svAlive then s
  else if bad then (if s.safe.fenceFailed then s else s.fenceFail)
  else if s.safe.fenceFailed then ((s.withSafe { s.safe with fenceFailed := false }).put F.SAFE_STAT_FENCE_OK 1).fenceJudge.enforce
  else s

/-- SAFETY_CYCLE (R302, R309, R310, R320): the next 8 µs cycle; `good` says whether the supervisor's response is right, `fenceBad`
whether it detects a fence failure. DESIGN CHOICE, log 114. -/
def execSafetyCycle (good fenceBad : Bool) (s : State) : Host.Outcome State Fault Refusal :=
  let s := s.until (s.safe.cycAt + 8 * us)
  let s := s.withSafe { s.safe with cycAt := s.now }
  .next ((((s.challenge good).fenceView fenceBad).svJudge).judgeB)

/-! ### Inputs and feedback (R304–R306) -/

/-- SI_FILT in 10 µs units; outside 1–100 the nearer bound. -/
def State.siFilt (s : State) (i : Nat) : Nat := clampN 1 100 (s.aget (F.SAFE_SI_SI_FILT i))

/-- HEALTHY_A and HEALTHY_B of SAFE_IN (R304). -/
def State.updHealthy (s : State) : State :=
  let m (f : Nat → Bool) : Nat := (List.range 8).foldl (fun a i => if s.siType i ≠ 0 && !f i then setBit a i else a) 0
  (s.put F.SAFE_IN_HEALTHY_A (m (fun i => (s.siDemand i).1))).put F.SAFE_IN_HEALTHY_B (m (fun i => (s.siDemand i).2))

/-- Discrepancy timing and the release of a latched input, after its contacts have changed (R304). -/
def State.siNote (s : State) (i : Nat) : State :=
  let d := s.siDemand i
  let at0 := if d.1 != d.2 then some ((KMap.get (fun _ => none) s.safe.discAt i).getD s.now) else none
  let x := { s.safe with discAt := KMap.set (fun _ => none) s.safe.discAt i at0 }
  let x := if d.1 && d.2 && x.discLatch.testBit i then { x with discShown := setBit x.discShown i } else x
  let x := if !d.1 && !d.2 && x.discShown.testBit i then
    { x with discShown := clearBit x.discShown i, discLatch := clearBit x.discLatch i } else x
  s.withSafe x

/-- SAFETY_INPUT_CHANGE (R304, R305): the contacts of input `i` have stood so for `held10us` × 10 µs. -/
def execSafetyInputChange (i : Fin 8) (aClosed bClosed : Bool) (held10us : Nat) (s : State) : Host.Outcome State Fault Refusal :=
  if held10us < s.siFilt i.val then .next s
  else
    let x := { s.safe with closedA := putBit s.safe.closedA i.val aClosed, closedB := putBit s.safe.closedB i.val bClosed }
    .next (((s.withSafe x).siNote i.val).updHealthy.fenceJudge)

/-- DISC_MS: 0 acts as 1, above 1,000 as 1,000. -/
def State.discMs (s : State) (i : Nat) : Nat := clampN 1 1000 (s.aget (F.SAFE_SI_DISC_MS i))

/-- SI_DISCREPANCY (R304, R311): the contacts of input `i` have disagreed for DISC_MS. -/
def execSiDiscrepancy (i : Fin 8) (s : State) : Host.Outcome State Fault Refusal :=
  match KMap.get (fun _ => none) s.safe.discAt i.val with
  | none => .next s
  | some t =>
    if s.siType i.val = 0 || s.safe.discLatch.testBit i.val then .next s
    else
      let s := s.until (t + s.discMs i.val * ms)
      let s := s.withSafe { s.safe with discLatch := setBit s.safe.discLatch i.val, discShown := clearBit s.safe.discShown i.val }
      let s := (s.put F.SAFE_FAULT_STAT_SI_DISC 1).raise Base.SAFE 10
      .next (s.fenceJudge.trip ⟨3, 8, i.val, allOutputs⟩)

/-- What feedback `m` is expected to show: closed or open, or nothing (R306). -/
def State.fbExpect (s : State) (m : Nat) : Option Bool :=
  let o := s.aget (F.SAFE_FB_SO m)
  let en := s.bitOf F.SAFE_OUT_ENERGISED o
  if !(s.aget (F.SAFE_FB_EN m) ≠ 0) then none
  else
    match s.soRole o with
    | 2 => some en
    | 1 => if en then none else some false
    | _ => none

/-- Feedback `m` is not in its expected state (R306). -/
def State.fbWrong (s : State) (m : Nat) : Bool :=
  match s.fbExpect m with
  | none => false
  | some e => (s.bitOf F.SAFE_IN_FB m != (s.aget (F.SAFE_FB_POL m) ≠ 0)) != e

/-- FB_T in ticks: 10 ms units, 0 acts as 1. -/
def State.fbTime (s : State) : Nat := (let t := s.aget F.SAFE_TIMES_FB_T; if t = 0 then 1 else t) * 10 * ms

/-- FEEDBACK_CHANGE (R306). -/
def execFeedbackChange (m : Fin 8) (closed : Bool) (s : State) : Host.Outcome State Fault Refusal :=
  let s := s.putBitOf F.SAFE_IN_FB m.val closed
  .next (if s.fbWrong m.val then s
    else s.withSafe { s.safe with fbMet := setBit s.safe.fbMet m.val, fbBad := clearBit s.safe.fbBad m.val })

/-- FB_MISMATCH (R306): feedback `m` has met its state and left it, or has not met it within FB_T of the output's change. -/
def execFbMismatch (m : Fin 8) (s : State) : Host.Outcome State Fault Refusal :=
  if !s.fbWrong m.val || s.safe.fbBad.testBit m.val then .next s
  else
    let o := s.aget (F.SAFE_FB_SO m.val)
    let s := if s.safe.fbMet.testBit m.val then s else s.until (s.safe.outAt.getD o 0 + s.fbTime)
    let s := s.withSafe { s.safe with fbBad := setBit s.safe.fbBad m.val }
    .next (((s.put F.SAFE_FAULT_STAT_FB_MISMATCH 1).raise Base.SAFE 9).trip ⟨3, 9, m.val, allOutputs⟩)

/-! ### Agreement and broken lines (R307, R308, R327) -/

/-- AGREE_US: below 30 acts as 30. -/
def State.agreeUs (s : State) : Nat := max 30 (s.aget F.SAFE_CFG_AGREE_US)

/-- DISAGREE (R307): the channels have differed on function `f` for AGREE_US, which counts once until they agree again; in a restart window
agreement is not judged. -/
def execDisagree (f : Fin 16) (s : State) : Host.Outcome State Fault Refusal :=
  match KMap.get (fun _ => none) s.safe.diffAt f.val with
  | none => .next s
  | some t =>
    if s.on F.SAFE_STAT_SV_WINDOW || s.safe.disagreed.testBit f.val then .next s
    else
      let s := s.withSafe { s.safe with disagreed := setBit s.safe.disagreed f.val }
      let s := s.until (max t s.safe.agreeFrom + s.agreeUs * us)
      let first := if s.bitOf F.SAFE_FN_LIVE_FENCE f.val then 1 else 2
      let s := ((s.put F.SAFE_FAULT_STAT_DISAGREE 1).cnt F.SAFE_DISAGREE_COUNT).raise Base.SAFE 7
      .next (s.trip ⟨first, 6, f.val, allOutputs⟩)

/-- BROKEN_N of FLT_STAT. -/
def State.updBroken (s : State) : State := s.put F.FLT_STAT_BROKEN_N (min s.flt.broken.length 255)

/-- The MASTER number of the receiver of a broken line (R329). DEDUCED, log 153. -/
def lineMaster (k : LineKind) : Nat :=
  match k with
  | .classA _ .fence => 10
  | .classA _ .supervisor => 1
  | .classB _ => 1
  | .thermCrit => 10
  | .other => 15

/-- The reaction of R308 to a broken safety line: on a class A line the trip for the break comes before that of the function, so that
SAFE_CAUSE names the break (R311, R381). DEDUCED, log 196. -/
def State.lineReact (s : State) (k : LineKind) : State :=
  match k with
  | .other => s
  | .classA f ch =>
    let s := (s.put F.SAFE_FAULT_STAT_BROKEN_LINE 1).raise Base.SAFE 8
    let c := match ch with | .fence => 1 | .supervisor => 2
    let s := s.trip ⟨c, 7, f.val, allOutputs⟩
    match ch with | .fence => s.fenceJudge | .supervisor => s.svJudge
  | .classB _ => ((s.put F.SAFE_FAULT_STAT_BROKEN_LINE 1).raise Base.SAFE 8).judgeB
  | .thermCrit => ((s.put F.SAFE_FAULT_STAT_BROKEN_LINE 1).raise Base.SAFE 8).cstop ⟨1, 4, 0, 0⟩

/-- BROKEN_LINE (R308, R327): a line is declared broken. DESIGN CHOICE, log 29. -/
def execBrokenLine (l : LineId) (kind : LineKind) (s : State) : Host.Outcome State Fault Refusal :=
  if s.flt.broken.any (fun b => b.1 = l) then .next s
  else
    let s := { s with flt := { s.flt with broken := s.flt.broken ++ [(l, kind)] } }.updBroken
    let s := s.err .brokenLine (lineMaster kind) 15 (l.blk.val * 2 ^ 24 + l.inst.val * 2 ^ 16 + l.line.val)
    .next (((s.put F.FLT_FAULT_STAT_BROKEN_LINE 1).raise Base.FLT 2).lineReact kind)

/-- BROKEN_LINE_HEAL (R327): the rails have differed for 16 cycles. -/
def execBrokenLineHeal (l : LineId) (s : State) : Host.Outcome State Fault Refusal :=
  .next { s with flt := { s.flt with broken := s.flt.broken.filter (fun b => b.1 ≠ l) } }.updBroken.fenceJudge

/-! ### Controlled stops, halts and lock-out (R311, R312) -/

/-- Every active stall reports COAST, HALTED or INIT (R311). -/
def State.allCoast (s : State) : Bool :=
  (s.enabledList.filter (fun i => s.lkState i = lkActive)).all (fun i => s.nstate i = 5 || s.nstate i = 6 || s.nstate i = 0)

/-- The end of a controlled stop: a trip naming every BREAKER output; the record of its first cause stays (R311). -/
def State.cstopEnd (s : State) : State := ((((s.nameOutputs allOutputs).cnt F.SAFE_TRIPS).raise Base.SAFE 0)).enterLockout

/-- A controlled stop ends; one that has yielded every stall withdraws first (R311, R381). -/
def State.cstopFinish (s : State) : State :=
  if s.on F.PAIR_CFG_EN && s.on F.PAIR_CFG_WITHDRAW_EN && s.pair.csYielded then
    let s := s.withdrawNow.cstopEnd
    { s with pair := { s.pair with withdrawAt := none } }
  else s.cstopEnd

/-- CSTOP_COMPLETE (R311, R381): every active stall coasts, or CS_COAST_MS has elapsed. -/
def execCstopComplete (s : State) : Host.Outcome State Fault Refusal :=
  if s.safeState ≠ safeCstop then .next s
  else
    let t := s.aget F.SAFE_TIMES_CS_COAST_MS
    .next (if s.allCoast then s else s.until (s.safe.cstopAt + (if t = 0 then 1 else t) * ms)).cstopFinish

/-- LOCKOUT_LOOP_OFF (R311): LOOP_OFF_S seconds after entry to LOCKOUT EN of both loops is committed 0. -/
def execLockoutLoopOff (s : State) : Host.Outcome State Fault Refusal :=
  let t := s.aget F.SAFE_TIMES_LOOP_OFF_S
  if s.safeState ≠ safeLockout || t = 0 then .next s
  else
    let s := s.until (s.safe.lockAt + t * sec)
    .next ((List.range 2).foldl
      (fun (u : State) x => u.auxApply (A.AUX_LOOP_CFG x) (u.reg (A.AUX_LOOP_CFG x) &&& 0x7FFFFFFF#32)) s)

/-- A host halt request to both channels (R311). -/
def State.hostHalt (s : State) : State := (s.put F.SAFE_CTRL_HALT_REQ 0).trip ⟨3, 2, 0, allOutputs⟩

/-- HOST_HALT_REQUEST (R311). -/
def execHostHaltRequest (s : State) : Host.Outcome State Fault Refusal := .next s.hostHalt

/-- A host request of a controlled stop (R311). -/
def State.hostCstop (s : State) : State := (s.put F.SAFE_CTRL_CSTOP_REQ 0).cstop ⟨3, 3, 0, 0⟩

/-- HOST_CSTOP_REQUEST (R311). -/
def execHostCstopRequest (s : State) : Host.Outcome State Fault Refusal := .next s.hostCstop

/-- SO_OVERLOAD (R396): an output held in overload for 5 ms opens its switch B. -/
def execSoOverload (o : Fin 4) (s : State) : Host.Outcome State Fault Refusal :=
  let t := s.advance (5 * ms)
  if s.bitOf F.SAFE_OUT_ENERGISED o.val then
    .next ((t.withSafe { t.safe with soOver := setBit t.safe.soOver o.val }).driveOutputs)
  else .next s

/-! ### Lock-out reset (R317–R319) -/

/-- Any class A function is tripped in either channel, an input is active, or a feedback is wrong (R318, WHY 1). -/
def State.classAActive (s : State) : Bool :=
  s.on F.SAFE_FN_LIVE_FENCE || s.on F.SAFE_FN_LIVE_SV || s.fnMask .fence s.sidesLive ≠ 0 || s.fnMask .supervisor s.sidesLive ≠ 0 ||
    (List.range 8).any s.siActive || (List.range 8).any s.fbWrong

/-- The lowest WHY that holds against a request, 0 where none does (R318). DEDUCED, log 47. -/
def State.resetWhy (s : State) (remote svAgrees : Bool) : Nat :=
  if s.classAActive then 1
  else if s.reg 0x11001C &&& 0x6F80#32 ≠ 0 then 2
  else if s.running then 3
  else if decide (2 ≤ s.get F.SAFE_STAT_RST_IN) || (remote && s.on F.SAFE_IN_RST_CLOSED) then 4
  else if s.safe.testsFailed then 5
  else if !svAgrees then 6
  else if !s.on (if remote then F.SAFE_CFG_RST_REMOTE else F.SAFE_CFG_RST_INPUT) then 7
  else if s.on F.THERM_FAULT_STAT_CRIT_LATCH then 8
  else if s.on F.SAFE_STAT_SV_WINDOW then 9
  else 0

/-- A reset request is accepted (R319, R381). -/
def State.resetAccept (s : State) : State :=
  let s := (s.withSafe { s.safe with named := 0, soOver := 0 }).setSafe safeNormal
  (s.enforce.raise Base.SAFE 3).withdrawEnd.laneCommon

/-- A reset request is refused (R318). -/
def State.resetRefuse (s : State) (why : Nat) : State :=
  (((s.put F.SAFE_REFUSE why).put F.SAFE_FAULT_STAT_RESET_REFUSED 1).cnt F.SAFE_ERR_COUNT_RESET_REFUSED_COUNT).raise Base.SAFE 4

/-- A request from the other source has been judged in the fabric cycle in progress: the two are one request (R318). DEDUCED, log 193. -/
def State.sameRequest (s : State) (remote : Bool) : Bool := s.safe.reqAt = some (s.cycleNo, !remote)

/-- A reset request is judged; outside LOCKOUT it is discarded (R318). -/
def State.lockReset (s : State) (remote svAgrees : Bool) : State :=
  let s := if remote then s.put F.SAFE_RESET 0 else s
  if s.safeState ≠ safeLockout || s.sameRequest remote then s
  else
    let w := s.resetWhy remote svAgrees
    let s := s.withSafe { s.safe with reqAt := some (s.cycleNo, remote) }
    if w = 0 then s.resetAccept else s.resetRefuse w

/-- LOCKOUT_RESET (R318, R319): a committed SAFE_RESET.REQ; `svAgrees` says whether the supervisor channel judges it as the fence does. -/
def execLockoutReset (svAgrees : Bool) (s : State) : Host.Outcome State Fault Refusal := .next (s.lockReset true svAgrees)

/-- RST_IN_CHANGE (R317): the filtered input closes, or opens `afterMs` after it closed; `svSaw` says whether the supervisor saw the
press as the fence did. -/
def execRstInChange (closed svSaw : Bool) (afterMs : Nat) (s : State) : Host.Outcome State Fault Refusal :=
  if closed then
    if s.on F.SAFE_IN_RST_CLOSED then .next s
    else .next (((s.withSafe { s.safe with rstAt := s.now }).put F.SAFE_IN_RST_CLOSED 1).put F.SAFE_STAT_RST_IN 1)
  else if !s.on F.SAFE_IN_RST_CLOSED then .next s
  else
    let st := s.get F.SAFE_STAT_RST_IN
    let s := s.until (s.safe.rstAt + afterMs * ms)
    let held := s.now - s.safe.rstAt
    let s := (s.put F.SAFE_IN_RST_CLOSED 0).put F.SAFE_STAT_RST_IN 0
    .next (if st = 1 && decide (50 * ms ≤ held) && decide (held < 5 * sec) then s.lockReset false svSaw else s)

/-- RESET_HELD (R317): the input stays closed for 5 s. -/
def execResetHeld (s : State) : Host.Outcome State Fault Refusal :=
  if s.get F.SAFE_STAT_RST_IN = 1 then
    let s := s.until (s.safe.rstAt + 5 * sec)
    .next (((s.put F.SAFE_STAT_RST_IN 2).put F.SAFE_FAULT_STAT_RESET_HELD 1).raise Base.SAFE 5)
  else .next s

/-- RESET_STUCK (R317): the input stays closed for 60 s. -/
def execResetStuck (s : State) : Host.Outcome State Fault Refusal :=
  if s.get F.SAFE_STAT_RST_IN = 2 then
    let s := s.until (s.safe.rstAt + 60 * sec)
    .next (((s.put F.SAFE_STAT_RST_IN 3).put F.SAFE_FAULT_STAT_RESET_STUCK 1).raise Base.SAFE 6)
  else .next s

/-! ### Tests (R311, R321, R322) -/

/-- The tests a sweep runs: rows 1 to 5 of R321, as bits. DEDUCED, log 113. -/
def sweepTests : Nat := 0b111110

/-- A full sweep starts (R321). -/
def State.proofRun (s : State) : State :=
  ((s.withSafe { s.safe with sweepLeft := sweepTests }).put F.SAFE_PROOF_RUNNING 1).put F.SAFE_CTRL_PROOF_RUN 0

/-- PROOF_RUN (R321). -/
def execProofRun (s : State) : Host.Outcome State Fault Refusal := .next s.proofRun

/-- Test `t` of R321 passes. -/
def State.proofPass (s : State) (t : Nat) : State :=
  let x := { s.safe with proofPass := setAt s.safe.proofPass (t - 1) s.now, proofFailed := clearBit s.safe.proofFailed t }
  if 6 ≤ t then s.withSafe x
  else
  let x := if x.sweepLeft = 0 then { x with sweepLeft := sweepTests } else x
  let s := (s.withSafe { x with sweepLeft := clearBit x.sweepLeft t })
  if s.safe.sweepLeft = 0 then (s.put F.SAFE_PROOF_RUNNING 0).cnt F.SAFE_PROOF_RUNS else s.put F.SAFE_PROOF_RUNNING 1

/-- Test `t` of R321 fails: latched, recorded, raised. -/
def State.proofFail (s : State) (t : Nat) : State :=
  let s := s.withSafe { s.safe with proofFailed := setBit s.safe.proofFailed t }
  ((s.put F.SAFE_FAULT_STAT_PROOF_FAIL 1).put F.SAFE_PROOF_LAST_FAIL t).raise Base.SAFE 12

/-- PROOF_TEST (R321): the groom runs the test of row `t` + 1; `bad` is none where it passes, else in row 4 the output whose switch fails, which with
its PULSE_EN bit 0 is not opened and cannot fail. -/
def execProofTest (t : Fin 7) (bad : Option (Fin 4)) (s : State) : Host.Outcome State Fault Refusal :=
  .next (match bad with
    | none => s.proofPass (t.val + 1)
    | some o =>
      if t.val = 3 && !(s.aget F.SAFE_PROOF_CFG_PULSE_EN).testBit o.val then s.proofPass (t.val + 1)
      else (s.proofFail (t.val + 1)).trip ⟨3, 0x0A, 0, allOutputs⟩)

/-- The tests whose age is judged: rows 1 to 5. -/
def State.oldestPass (s : State) : Nat := (s.safe.proofPass.take 5).foldl min (s.safe.proofPass.getD 0 0)

/-- PT_MAX_H in ticks; 0 acts as 1. -/
def State.ptMax (s : State) : Nat := (let h := s.aget F.SAFE_PROOF_CFG_PT_MAX_H; if h = 0 then 1 else h) * 3600 * sec

/-- PROOF_OVERDUE (R322). -/
def execProofOverdue (s : State) : Host.Outcome State Fault Refusal :=
  if s.on F.SAFE_FAULT_STAT_PROOF_OVERDUE then .next s
  else .next (((s.until (s.oldestPass + s.ptMax + 1)).put F.SAFE_FAULT_STAT_PROOF_OVERDUE 1).raise Base.SAFE 13)

/-- AGE_MIN (R322). -/
def State.ageMin (s : State) : Nat := min ((s.now - s.oldestPass) / (60 * sec)) 65535

/-- TEST ends in LOCKOUT by a cause (R311). -/
def State.testLock (s : State) (c : Cause) : State := ((s.nameOutputs c.names).recordCause c).enterLockout

/-- The lowest-numbered class A function a channel finds tripped. -/
def State.lowestFn (s : State) : Option Nat :=
  (List.range 16).find? (fun f => (s.fnMask .fence s.sidesLive ||| s.fnMask .supervisor s.sidesLive).testBit f)

/-- A cause met in TEST still stands when the tests have ended: its latch, its class B condition, or the loss of the clock (R311, R318). DEDUCED, log 16. -/
def State.causeStands (s : State) (c : Cause) : Bool :=
  if c.code = 5 then s.classB.testBit c.index
  else if 6 ≤ c.code ∧ c.code ≤ 0x0C then s.reg 0x11001C &&& 0x6F80#32 ≠ 0
  else c.code = 0x0E && s.time.stopped

/-- The power-up tests end: NORMAL unless a class A function is active (R311, R321). DEDUCED, log 16. -/
def State.testsDone (s : State) (pass : Bool) : State :=
  let s := ((s.put F.SAFE_STAT_SELFTEST_OK (b2n pass)).put F.SAFE_STAT_FENCE_OK (b2n pass)).put F.SAFE_STAT_SV_OK (b2n (pass && s.svAlive))
  let s := s.withSafe { s.safe with testsFailed := !pass }
  if !pass then (s.proofFail 7).testLock ⟨3, 0x10, 0, allOutputs⟩
  else
    let s := s.withSafe { s.safe with proofPass := [s.now, s.now, s.now, s.now, s.now, s.now, s.now] }
    if s.aget F.SAFE_CFG_POWERUP_LOCK ≠ 0 then s.testLock ⟨3, 0x0F, 0, allOutputs⟩
    else
      match s.lowestFn with
      | some f => s.testLock ⟨3, 1, f, s.aget (F.SAFE_FN_TRIP_SO f)⟩
      | none =>
        let s := (s.setSafe safeNormal).enforce.laneCommon
        match s.safe.testCause.filter s.causeStands with
        | some c => s.trip c
        | none => s

/-- POWER_UP_TESTS_DONE (R311, R386). -/
def execPowerUpTestsDone (pass : Bool) (s : State) : Host.Outcome State Fault Refusal :=
  if s.safeState = safeTest && !s.rst.asserted then .next (s.testsDone pass) else .next s

/-! ### Fence parameters (R323) -/

/-- The SAFE_PEND or SAFE_PEND_FN bit of a fence parameter, by its primary address. -/
def pendBit (a : Nat) : Option (Fld × Nat) :=
  if a < 0x110100 then none
  else if a < 0x110110 then some (F.SAFE_PEND, (a - 0x110100) / 4)
  else if 0x110120 ≤ a ∧ a < 0x110130 then some (F.SAFE_PEND, 4 + (a - 0x110120) / 4)
  else if 0x110140 ≤ a ∧ a < 0x110160 then some (F.SAFE_PEND, 8 + (a - 0x110140) / 4)
  else if 0x110160 ≤ a ∧ a < 0x110180 then some (F.SAFE_PEND, 16 + (a - 0x110160) / 4)
  else if 0x110180 ≤ a ∧ a < 0x1101C0 then some (F.SAFE_PEND_FN, (a - 0x110180) / 4)
  else none

/-- The committed values would leave function `f`, of KIND 1 or 2, with no enabled side, or give it, of KIND 3–5, an input with TYPE 0 (R323). -/
def State.fnBad (s : State) (f : Nat) : Bool :=
  let k := s.get (F.SAFE_FN_KIND f)
  let a := s.get (F.SAFE_FN_SRC_A f)
  if k = 1 ∨ k = 2 then s.get (F.SAFE_FN_SIDE f) = 0
  else if 3 ≤ k ∧ k ≤ 5 then a < 8 && (s.get (F.SAFE_SI_TYPE a) = 0 || s.get (F.SAFE_SI_TYPE a) = 3)
  else false

/-- A set of committed values may not apply as a whole (R323, R364). -/
def State.paramBad (s : State) : Bool := (List.range 16).any s.fnBad

/-- A committed value at `a` may not apply: it is part of a function that would be left so, as its own word or as that of its input (R323).
DEDUCED, log 116. -/
def State.paramBlocked (s : State) (a : Nat) : Bool :=
  (List.range 16).any (fun f => s.fnBad f &&
    (a = (F.SAFE_FN_KIND f).reg || (3 ≤ s.get (F.SAFE_FN_KIND f) && a = (F.SAFE_SI_TYPE (s.get (F.SAFE_FN_SRC_A f))).reg)))

/-- The committed value at `a` applies: it acts from here on (R323). -/
def State.paramApply (s : State) (a : Nat) : State :=
  let s := s.withSafe { s.safe with active := KMap.set (fun _ => none) s.safe.active a none }
  let s := match pendBit a with | some (f, i) => s.clrBitOf f i | none => s
  s.raise Base.SAFE 15

/-- After parameters have applied, inputs, functions and outputs are judged with them. -/
def State.paramsApplied (s : State) : State := (((List.range 8).foldl State.siNote s).updHealthy).fenceJudge.driveOutputs.laneCommon

/-- In CONFIG and CHECKED every pending value that may apply does (R323). -/
def State.paramsNow (s : State) : State :=
  let ok := s.safe.active.filter (fun x => !s.paramBlocked x.1)
  if ok.isEmpty then s else (ok.foldl (fun (t : State) (x : Nat × Option Word) => t.paramApply x.1) s).paramsApplied

/-- A fence parameter at `a` has been committed, `old` being its value before: it applies at once in CONFIG and CHECKED, and is held
pending in RUN and STOPPING; a value that may not apply stays pending with PARAM_BAD (R323). DEDUCED, log 116. -/
def State.paramCommitted (s : State) (a : Nat) (old : Word) : State :=
  match pendBit a with
  | none => s
  | some (f, i) =>
    let held := (KMap.get (fun _ => none) s.safe.active a).getD old
    let s := (s.withSafe { s.safe with active := KMap.set (fun _ => none) s.safe.active a (some held) }).setBitOf f i
    if s.running then s
    else (if s.paramBlocked a then s.put F.SAFE_FAULT_STAT_PARAM_BAD 1 else s).paramsNow

/-! Hooks of Access. -/

/-- Whether a clear of bit `i` of SAFE_FAULT_STAT is accepted (R318, R322). -/
def safeClearOk (s : State) (i : Nat) : Bool :=
  match i with
  | 7 => s.get F.SAFE_FN_LIVE_FENCE = s.get F.SAFE_FN_LIVE_SV
  | 8 => s.flt.broken.all (fun b => b.2 = .other)
  | 9 => s.safe.discLatch = 0
  | 10 => !(List.range 8).any s.fbWrong
  | 11 => s.safe.proofFailed = 0
  | 12 => decide (s.now ≤ s.oldestPass + s.ptMax)
  | 13 => !s.safe.fenceFailed
  | 14 => let n := s.aget F.SAFE_CFG_SV_LOSS_N; decide (s.lossesToday < (if n = 0 then 1 else n))
  | _ => true

/-- After a write of SAFE_CTRL with value `v`: starts of HALT_REQ, CSTOP_REQ and PROOF_RUN (R311, R321). -/
def State.safeCtrlWrite (s : State) (v : Nat) : State :=
  let s := if v.testBit 1 then s.hostHalt else s
  let s := if v.testBit 2 then s.hostCstop else s
  if v.testBit 3 then s.proofRun else s

/-- Pending values on the return to CONFIG: in CONFIG and CHECKED they apply (R269, R323). DEDUCED, log 159. -/
def State.pendingInConfig (s : State) : State :=
  let s := ((List.range 12).filter (fun n => s.bitOf F.ADC_CMP_PEND n)).foldl State.cmpApply s
  let s := (if s.safe.active.any (fun x => s.paramBlocked x.1) then s.put F.SAFE_FAULT_STAT_PARAM_BAD 1 else s).paramsNow
  if s.safe.active.isEmpty then { s with upd := { s.upd with byKind5 := false } } else s

/-- Schedules stop, the engine parks, every stall leaves the sort and the yard returns to CONFIG (R48, R162). -/
def State.enterConfig (s : State) : State :=
  let s := (s.setYard yardConfig).raise Base.YARD 0
  let s := (s.put F.YARD_WARMUP_WU_LEFT 0).put F.BAL_STAT_WARMUP 0
  let s := stalls.foldl (fun t i => ((t.stopLink i).setInSort i false).put (F.BAL_RES_RANK i) 0xFF) s
  let s := { s with bal := { s.bal with busy := false, done := false } }
  s.engPark.pendingInConfig

/-- YARD_STOP_COMPLETE (R48). -/
def execYardStopComplete (s : State) : Host.Outcome State Fault Refusal :=
  .next (if s.yardState = yardStopping && s.stopDone then s.enterConfig else s)

end Sys2Proof.Machine
end

