-- ==== Sys2Proof/Machine/Port.lean ====
section
/-! DEFINITION. The command port (R30–R32, R402, R403), the start of supervisor restarts (R31, R360, R363) and the endpoint's own
events (R25, R29). -/

namespace Sys2Proof.Machine

open Sys2Proof

/-! ### The command port (R30–R32) -/

/-- Codes of PORT_STATE. -/
abbrev portIdle : Nat := 0
abbrev portBusy : Nat := 1
abbrev portUnavail : Nat := 2

/-- PORT_STATE. -/
def State.portState (s : State) : Nat := s.get F.SYS_CMD_STAT_PORT_STATE

/-- PORT_STATE replaced; CMD_BUSY is its copy. -/
def State.setPort (s : State) (v : Nat) : State := (s.put F.SYS_CMD_STAT_PORT_STATE v).put F.SYS_STAT_CMD_BUSY (b2n (v = portBusy))

/-- An operation has ended in the fabric cycle in progress: the port is BUSY until the next (R402). -/
def State.portEnding (s : State) : Bool := s.cmdEnded.any (fun t => t / cyc = s.cycleNo)

/-- What the port's registers read as in the fabric cycle in which an operation ends: START and the state are those of BUSY (R402). -/
def State.endingReg (s : State) (c : Nat) : Word :=
  if c = A.SYS_CMD then F.SYS_CMD_START.write (s.reg c) 1
  else if c = A.SYS_CMD_STAT then F.SYS_CMD_STAT_PORT_STATE.write (s.reg c) portBusy
  else if c = F.SYS_STAT_CMD_BUSY.reg then F.SYS_STAT_CMD_BUSY.write (s.reg c) 1
  else s.reg c

/-- A write of the port is refused (R30). -/
def State.cmdRefuse (s : State) : State := (((s.put F.SYS_CMD_STAT_REFUSED 1).cnt F.SYS_CMD_REFUSED).raise Base.SYS 2).noteDrop

/-- A requester may start commands (R30). -/
def State.cmdEnabled (s : State) (m : Master) : Bool := match m with
  | .host => s.on F.SYS_CTRL_HOST_CMD_EN
  | .remote => s.on F.SYS_CTRL_REMOTE_CMD_EN
  | .supervisor => true

/-- OWNER code of a requester. -/
def ownerCode : Master → Nat
  | .host => 0
  | .remote => 1
  | .supervisor => 2

/-- A write of `w` to SYS_CMD in IDLE: with START = 1 the operation starts, or is refused to a disabled requester (R30). -/
def State.cmdWrite (s : State) (m : Master) (w : Nat) : State :=
  if !w.testBit 31 then (s.put F.SYS_CMD_TAG (bits w 15 8)).put F.SYS_CMD_OPCODE (w % 256)
  else if !s.cmdEnabled m then s.cmdRefuse
  else
    let s := ((s.put F.SYS_CMD_START 1).put F.SYS_CMD_TAG (bits w 15 8)).put F.SYS_CMD_OPCODE (w % 256)
    let args := (List.range 8).map (fun i => s.reg (A.SYS_CMD_ARG i))
    let data := (List.range 256).map (fun i => s.reg (A.SYS_CMD_DATA i))
    let s := { s with cmd := some { opcode := w % 256, owner := m, args := args, data := data, start := s.now } }
    let s := ((s.put F.SYS_CMD_STAT_OWNER (ownerCode m)).put F.SYS_CMD_STAT_DONE 0).put F.SYS_CMD_STAT_RESULT 0
    let s := ((s.put F.SYS_CMD_STAT_PROGRESS 0).put F.SYS_CMD_STAT_TAG (bits w 15 8)).setPort portBusy
    if w % 256 = 0x40 then s.calBegin (s.cmdArg 0 % 256) else s

/-- The operation ends: RESULT, DONE, the four result words, CMD_DONE; PROGRESS is a free value (R30, R403, log 23). -/
def State.cmdEnd (s : State) (code : Nat) (res : List Word) (next : Nat) : State :=
  let s := ((s.put F.SYS_CMD_STAT_RESULT code).put F.SYS_CMD_STAT_DONE 1).put F.SYS_CMD_START 0
  let s := (List.range 4).foldl (fun t i => t.setReg (A.SYS_CMD_RES i) (res.getD i 0#32)) s
  let s := (s.put F.SYS_CMD_STAT_PROGRESS (s.free 8)).drew
  ({ s with cmd := none, cmdEnded := some s.now }.setPort next).raise Base.SYS 1

/-- Busy-time limit of an opcode in ticks (R32). -/
def cmdLimit (op : Nat) : Option Nat :=
  match op with
  | 0x00 => some us
  | 0x10 => some (600 * ms)
  | 0x11 => some (5 * ms)
  | 0x20 => some (500 * ms)
  | 0x21 => some (1500 * ms)
  | 0x30 => some (100 * ms)
  | 0x31 => some (1000 * ms)
  | 0x40 => some (3000 * ms)
  | 0x50 => some (250 * ms)
  | _ => none

/-! ### Table registers (R105, R267, R365, R366) -/

/-- Live update replaced. -/
def State.withUpd (s : State) (x : UpdSt) : State := { s with upd := x }

/-- The defined bits of the register at `a`. -/
def definedMask (a : Nat) : Word :=
  match RegMap.find a with
  | none => 0#32
  | some r => r.fields.foldl (fun m f => m ||| f.mask) 0#32

/-- A canonical address is a LANE_EQr: lane and row. -/
def eqAddr (a : Nat) : Option (Nat × Nat) :=
  if 0x400000 ≤ a ∧ a < 0x400000 + 50 * 0x10000 ∧ 0x1000 ≤ a % 0x10000 ∧ a % 0x10000 < 0x1010 then
    some ((a - 0x400000) / 0x10000, (a % 0x10000 - 0x1000) / 4)
  else none

/-- A canonical address is one of ADC_CALk_g: index 4k + g. -/
def calAddr (a : Nat) : Option Nat := if 0xC3000 ≤ a ∧ a < 0xC3100 then some ((a - 0xC3000) / 8) else none

/-- A table register that R365 and R366 govern. -/
def tableAddr (a : Nat) : Bool := (eqAddr a).isSome || (calAddr a).isSome

/-- What a write of `v` through alias page `al` makes of an RW dword (R12). -/
def aliasWord (al : Nat) (old v : Word) : Word :=
  match al with
  | 1 => old ||| v
  | 2 => old &&& ~~~v
  | 3 => old ^^^ v
  | _ => v

/-- A write of `v` to a table register at window address `a` takes effect (R12, R105, R267). -/
def State.tableApply (s : State) (a : Nat) (v : Word) : State :=
  let c := canon a
  let w := aliasWord (aliasOf a) (s.reg c) v &&& definedMask c
  match eqAddr c, calAddr c with
  | some (n, r), _ => (s.setReg c w).laneRowWritten n r
  | none, some i =>
    (s.noteTrim (i / 4) (i % 4) (s.get (F.ADC_CAL_OFFS i)) (s.get (F.ADC_CAL_GTRIM i))).setReg c w
  | none, none => s

/-- An apply ends: the writes it held take effect in order (R365). -/
def State.applyEnd (s : State) : State :=
  let l := s.upd.held
  let s := (s.put F.UPD_STAT_APPLYING 0).withUpd { s.upd with lanes := none, held := [] }
  l.foldl (fun t x => t.tableApply x.1 x.2) s

/-! ### Ends by time or restart (R30, R403) -/

/-- The operation of an opcode is stopped: COMPARE returns to SHADOW, a calibration sweep and an apply are given up, and the
writes the apply held take effect (R30, R198, R365). -/
def State.cmdStop (s : State) (op : Nat) : State :=
  if op = 0x31 && s.cme.pad.st = .compare then (s.withPad { s.cme.pad with exchange := none }).setPad .shadow
  else if op = 0x40 then s.calOver
  else if op = 0x20 then
    let s := s.applyEnd
    s.withUpd { s.upd with fconf := s.upd.fconf.map (fun f => { f with byApply := false }) }
  else s

/-- What RES0–3 hold after TIMEOUT or ABORTED_RESTART: SESSION after a paddock command, else 0 (R403). DEDUCED, log 202. -/
def State.stopRes4 (s : State) (op : Nat) : List Word :=
  if op = 0x30 || op = 0x31 then [0#32, 0#32, 0#32, (s.padReport 0).getD 3 0#32 &&& 0x0F000000#32] else []

/-- CMD_NOP (R32): ends OK in the cycle after its start. -/
def execCmdNop (s : State) : Host.Outcome State Fault Refusal :=
  match s.cmd with
  | some r => if r.opcode = 0 && r.outcome.isNone then .next ((s.until (r.start + cyc)).cmdEnd 0 [] portIdle) else .next s
  | none => .next s

/-- CMD_BAD_OPCODE (R32): ends at once. -/
def execCmdBadOpcode (s : State) : Host.Outcome State Fault Refusal :=
  match s.cmd with
  | some r => if (cmdLimit r.opcode).isNone then .next (s.cmdEnd 1 [] portIdle) else .next s
  | none => .next s

/-- CMD_COMPLETE (R30, R403): an operation that has come to its outcome ends. -/
def execCmdComplete (s : State) : Host.Outcome State Fault Refusal :=
  match s.cmd with
  | some r => match r.outcome with
    | some (code, res) => .next (s.cmdEnd code res portIdle)
    | none => .next s
  | none => .next s

/-- CMD_TIMEOUT (R30): busy time reaches the opcode's limit. -/
def execCmdTimeout (s : State) : Host.Outcome State Fault Refusal :=
  match s.cmd with
  | some r => match r.outcome, cmdLimit r.opcode with
    | none, some d =>
      let s := (s.until (r.start + d)).cmdStop r.opcode
      .next ((s.cmdEnd 3 (s.stopRes4 r.opcode) portIdle).raise Base.SYS 3)
    | _, _ => .next s
  | none => .next s

/-! ### Supervisor restarts (R31, R360, R363) -/

/-- The lowest WHY against a requested restart, 0 where none holds; while no bank could be booted, 1 and 5 are not judged (R360). -/
def State.restartWhy (s : State) : Nat :=
  if !s.upd.noBank && s.on F.SAFE_STAT_SV_WINDOW then 1
  else if s.safeState = safeTest || s.safeState = safeCstop then 2
  else if s.on F.UPD_STAT_FCONF_BUSY then 3
  else if s.on F.UPD_STAT_TRIAL then 4
  else if !s.upd.noBank && (s.on F.SYS_STAT_SVR_RESTARTING || s.upd.firstStart) then 5
  else 0

/-- A restart request is discarded (R360). -/
def State.restartDiscard (s : State) (why : Nat) : State :=
  let s := (((s.put F.UPD_FAULT_STAT_RESTART_REFUSED 1).put F.UPD_RESTART_WHY why).put F.SYS_RESTART 0).raise Base.UPD 5
  { s with restartPend := false }

/-- What a supervisor restart does at its beginning, requested or not (R30, R31, R309, R360). -/
def State.restartStart (s : State) (requested : Bool) : State :=
  let s := (((s.put F.SYS_STAT_SVR_UP 0).put F.SYS_STAT_SVR_RESTARTING 1).setPort portUnavail).put F.SYS_RESET_CAUSE_SVR_RESTART 1
  let s := { s with upd := { s.upd with requested := requested, noBank := false }
                    eth := { s.eth with queue := [], replies := [] } }
  (s.raise Base.SYS 4).openWindow

/-- A trial ends without confirmation: the previous bank is to be booted (R362, R363). -/
def State.trialFail (s : State) : State :=
  ((((s.put F.SYS_STAT_BOOT_BANK (s.get F.UPD_STAT_PREV_BANK)).put F.UPD_STAT_TRIAL 0).put F.UPD_FAULT_STAT_TRIAL_FAIL 1).cnt
    F.UPD_TRIAL_FAILS)

/-- A committed SYS_RESTART.SVR (R31, R360): judged now unless an operation runs, which it waits for. -/
def State.restartAsk (s : State) : State :=
  let s := { s.put F.SYS_RESTART 1 with restartPend := true }
  if s.portState = portBusy || s.portEnding || s.restartWhy = 0 then s else s.restartDiscard s.restartWhy

/-- SVR_RESTART_REQUEST (R360). -/
def execSvrRestartRequest (s : State) : Host.Outcome State Fault Refusal := .next s.restartAsk

/-- SVR_RESTART_BEGIN (R31, R360): a waiting request meets an IDLE port, after an operation in the cycle that follows its end (R402); it
begins, or is discarded. -/
def execSvrRestartBegin (s : State) : Host.Outcome State Fault Refusal :=
  if s.restartPend && s.portState = portIdle then
    let s := if s.portEnding then s.until ((s.cycleNo + 1) * cyc) else s
    if s.restartWhy = 0 then
      .next (({ s.put F.SYS_RESTART 0 with restartPend := false }.cnt F.UPD_RESTARTS).restartStart true)
    else .next (s.restartDiscard s.restartWhy)
  else .next s

/-- An unrequested restart begins: at once, aborting the running operation, and ending a trial (R30, R31, R363). -/
def State.restartNow (s : State) : State :=
  let s := match s.cmd with
    | some r =>
      let s := s.cmdStop r.opcode
      s.cmdEnd 4 (s.stopRes4 r.opcode) portUnavail
    | none => s
  let s := if s.on F.UPD_STAT_TRIAL then s.trialFail.raise Base.UPD 3 else s
  s.restartStart false

/-- SVR_WATCHDOG_RESTART (R30, R31). -/
def execSvrWatchdogRestart (s : State) : Host.Outcome State Fault Refusal := .next s.restartNow

/-- CONFIRM_S as it acts, in seconds (R363). -/
def State.confirmS (s : State) : Nat := max (s.get F.UPD_CFG) 1

/-- TRIAL_TIMEOUT (R363): CONFIRM_S seconds after the end of the restart with TRIAL still 1. -/
def execTrialTimeout (s : State) : Host.Outcome State Fault Refusal :=
  if s.on F.UPD_STAT_TRIAL && s.on F.SYS_STAT_SVR_UP then .next (s.until (s.upd.endAt + s.confirmS * sec)).restartNow
  else .next s

/-! ### The endpoint (R25, R28, R29, R386) -/

/-- The endpoint is reset: HOST_LINK, HOST_NP, the MSI-X table and its pending bits; requests in flight are discarded (R29). -/
def State.endpointReset (s : State) : State :=
  let back (s : State) (l : List Nat) : State := l.foldl (fun (t : State) a => t.setReg a (RegMap.resetWord a)) s
  let s := back s [A.HOST_LINK, A.HOST_NP, A.HOST_MSIX_PBA 0, A.HOST_MSIX_PBA 1]
  let s := (List.range 32).foldl
    (fun t v => back t [A.HOST_MSIX_ADDR_LO v, A.HOST_MSIX_ADDR_HI v, A.HOST_MSIX_DATA v, A.HOST_MSIX_VCTRL v]) s
  { s with host := { s.host with np := [], stalled := [], funcMask := false, d3hot := false, bar0 := 0 } }

/-- The link is lost or the endpoint reset: counted where the link leaves L0, LINK_CHANGE occurs (R29). -/
def State.pcieReset (s : State) (countLoss : Bool) : State :=
  let s := if countLoss && s.on F.HOST_LINK_LINK_UP then s.cnt F.HOST_LINK_DOWN_COUNT else s
  s.endpointReset.raise Base.HOST 0

/-- PCIE_RESET (R29); a fundamental reset is the pulse of PERST_N, whose end starts the 100 ms of R386. DEDUCED, log 126. -/
def execPcieReset (kind : PcieLoss) (s : State) : Host.Outcome State Fault Refusal :=
  match kind with
  | .fundamental =>
    let t := s.pcieReset true
    .next { t with host := { t.host with perstAt := t.now, cfgReady := false } }
  | .hot => .next (s.pcieReset true)
  | .linkDown => .next (s.pcieReset true)
  | .functionLevel => .next (s.pcieReset false)

/-- WIDTH as the register shows it. -/
def linkWidth (w : Nat) : Nat := if w = 1 ∨ w = 2 ∨ w = 4 then w else 0

/-- PCIE_LINK_UP (R29): the link is back in L0 at a speed and width of R25; others cannot be. -/
def execPcieLinkUp (speed width : Nat) (sris : Bool) (mps : Fin 2) (s : State) : Host.Outcome State Fault Refusal :=
  if 1 ≤ speed ∧ speed ≤ 3 ∧ linkWidth width ≠ 0 ∧ !s.rst.asserted then
    let s := ((s.put F.HOST_LINK_SPEED speed).put F.HOST_LINK_WIDTH width).put F.HOST_LINK_LINK_UP 1
    .next (((s.put F.HOST_LINK_SRIS (b2n sris)).put F.HOST_LINK_MPS mps.val).raise Base.HOST 0)
  else .next s

/-- AER_ERROR (R25). -/
def execAerError (correctable : Bool) (s : State) : Host.Outcome State Fault Refusal :=
  if correctable then .next ((s.cnt F.HOST_AER_COUNT).raise Base.HOST 1) else .next (s.raise Base.HOST 2)

/-- PCIE_CONFIG_READY (R386): 100 ms after the later of the release of module reset and of PERST_N. -/
def execPcieConfigReady (s : State) : Host.Outcome State Fault Refusal :=
  if s.host.cfgReady || s.rst.asserted then .next s
  else
    let s := s.until (max s.rst.releasedAt s.host.perstAt + 100 * ms)
    .next { s with host := { s.host with cfgReady := true } }

end Sys2Proof.Machine
end

