-- ==== Sys2Proof/Machine/Rtc.lean ====
section
/-! DEFINITION. The calendar and the backup domain (R223–R228), but for the tamper signal and the accesses. -/

namespace Sys2Proof.Machine

open Sys2Proof

/-- The backup domain replaced. -/
def State.withRtc (s : State) (r : RtcSt) : State := { s with rtc := r }

/-- A domain's time in 1/32,768 s since the PTP epoch. -/
def State.domSubs (s : State) (d : Dom) : Nat := (s.dom d).tf * 32768 / (sec * unit40)

/-- The calendar in 1/32,768 s. -/
def State.calSubs (s : State) : Nat := s.rtc.calF / subUnit

/-- The calendar set to a count of 1/32,768 s; it is valid from then on (R223). -/
def State.setCal (s : State) (subs : Nat) : State :=
  (s.withRtc { s.rtc with calF := subs % (2 ^ 48 * 32768) * subUnit }).put F.RTC_STAT_CAL_VALID 1

/-- CAL_CORRECTION (R224): at the next second boundary of domain `d`, on which the CTB is TRACKING, with SYNC_EN = 1. -/
def execCalCorrection (d : Dom) (s : State) : Host.Outcome State Fault Refusal :=
  if s.rtc.running && s.on F.RTC_CTRL_SYNC_EN && s.ctbState = ctbTracking && s.get F.TIME_STAT_SRC_ACT = domTb d then
    let secs := (s.dom d).ns / 1000000000 + 1
    let s := s.advance (s.ticksToTb (domTb d) (secs * 1000000000))
    let goal := s.domSubs d
    let diff : Nat := ((goal : Int) - (s.calSubs : Int)).natAbs
    if diff < 2 then .next s
    else
      let s := (s.setCal goal).cnt F.RTC_CORR
      .next (if 32768 < diff then s.rtcRecord 6 else s)
  else .next s

/-- CAL_TRIM (R224): with TRIM_AUTO = 1, TRIM takes the rate measured against the domain over each 1,000 s, in 0.01 ppm. DEDUCED, log
178. -/
def execCalTrim (measured : Int) (s : State) : Host.Outcome State Fault Refusal :=
  if s.rtc.running && s.on F.RTC_CTRL_TRIM_AUTO && s.ctbState = ctbTracking && decide (s.get F.TIME_STAT_SRC_ACT < 2) then
    let s := s.until (s.rtc.trimAt + 1000 * sec)
    .next (((s.withRtc { s.rtc with trimAt := s.now }).backupNote A.RTC_TRIM).put F.RTC_TRIM (tc 16 (sat16 measured)))
  else .next s

/-- The calendar is loaded from RTC_SET and RTC_CMD returns to 0 (R224). -/
def State.calSet (s : State) : State :=
  let secs := s.get F.RTC_SET + 2 ^ 32 * (s.get F.RTC_SETHI_SECHI)
  ((s.setCal (secs * 32768 + s.get F.RTC_SETHI_SUB)).rtcRecord 5).setReg A.RTC_CMD 0

/-- A write to a backup-domain register is refused while another is in flight (R225). DEDUCED, log 101. -/
def State.wrRefused (s : State) : State := ((s.put F.RTC_FAULT_STAT_WR_REFUSED 1).cnt F.RTC_ERR_COUNT_CLR_REFUSED).noteDrop

/-- A write of the dword `v` to the backup-domain register at `a` enters the synchroniser (R225). -/
def State.backupPut (s : State) (a : Nat) (v : Word) : State :=
  if s.rtc.inflight.isSome then s.wrRefused else (s.withRtc { s.rtc with inflight := some (a, v) }).put F.RTC_STAT_WR_BUSY 1

/-- The write in flight takes effect (R224, R225). -/
def State.backupDone (s : State) : State :=
  match s.rtc.inflight with
  | none => s
  | some (a, v) =>
    let s := (s.withRtc { s.rtc with inflight := none }).put F.RTC_STAT_WR_BUSY 0
    if a = A.RTC_CMD then (if v.toNat.testBit 0 then s.calSet else s) else (s.backupNote a).setReg a v

/-- CAL_SET (R224): a committed RTC_CMD.SET, together with its passage through the synchroniser. -/
def execCalSet (s : State) : Host.Outcome State Fault Refusal :=
  .next (if s.rtc.inflight.isSome && s.rtc.inflight ≠ some (A.RTC_CMD, 1#32) then s.wrRefused
    else (s.backupPut A.RTC_CMD 1#32).backupDone)

/-- The supercapacitor was last measured below 2.0 V. -/
def State.backupWeak (s : State) : Bool := match s.rtc.vbakMv with | some mv => decide (mv < 2000) | none => false

/-- BACKUP_LOW is set and raised while the supercapacitor is below 2.0 V (R223). -/
def State.judgeBackup (s : State) : State :=
  if s.backupWeak && !s.on F.RTC_FAULT_STAT_BACKUP_LOW then (s.put F.RTC_FAULT_STAT_BACKUP_LOW 1).raise Base.RTC 2 else s

/-- The supercapacitor stands at `mv` (R223). -/
def State.vbak (s : State) (mv : Nat) : State :=
  (((s.withRtc { s.rtc with vbakMv := some mv }).put F.RTC_STAT_VBAK (min (mv / 20) 255)).put F.RTC_STAT_BACKUP_OK
    (b2n (decide (2000 ≤ mv)))).judgeBackup

/-- BACKUP_LOW (R223): the supercapacitor is measured at `mv`. -/
def execBackupLow (mv : Nat) (s : State) : Host.Outcome State Fault Refusal := .next (s.vbak mv)

/-- BACKUP_STOP (R223): below 1.6 V the backup domain stops. -/
def execBackupStop (mv : Nat) (s : State) : Host.Outcome State Fault Refusal :=
  .next (if mv < 1600 then (s.vbak mv).withRtc { (s.vbak mv).rtc with running := false, inflight := none } else s)

/-- The registers that reset at a backup-domain start only. -/
def backupRegs : List Nat :=
  [0x80008, A.RTC_UTC, A.RTC_TRIM, A.RTC_ALARM, A.RTC_TAMPER_TS, A.RTC_TAMPER_TSHI]

/-- The backup domain starts: CAL_VALID, the log and the tamper latch are cleared, its registers reset, and a BACKUP_START record is
written (R223). -/
def State.backupStart (s : State) (mv : Nat) : State :=
  let s := backupRegs.foldl (fun (t : State) a => t.setReg a (RegMap.resetWord a)) s
  let s := ((s.put F.RTC_STAT_CAL_VALID 0).put F.RTC_FAULT_STAT_TAMPER 0).put F.RTC_LOG_IDX_HEAD 0
  let s := s.put F.RTC_STAT_WR_BUSY 0
  ((s.withRtc { running := true, tamperOpen := s.rtc.tamperOpen }).vbak mv).rtcRecord 2

/-- Root ticks until the calendar seconds [31:0] equal `v`, 0 where they do (R228). -/
def State.ticksToAlarm (s : State) (v : Nat) : Nat :=
  let d := (v + 2 ^ 32 - s.calSec % 2 ^ 32) % 2 ^ 32
  let goal := (s.rtc.calF / (subUnit * 32768) + d) * (subUnit * 32768)
  let per := (32768 * (100000000 + s.getS F.RTC_TRIM)).toNat
  if d = 0 then 0 else (goal - s.rtc.calF + per - 1) / per

/-- RTC_ALARM (R228): calendar seconds [31:0] equal ALARM with ALARM_EN = 1. -/
def execRtcAlarm (s : State) : Host.Outcome State Fault Refusal :=
  if s.rtc.running && s.on F.RTC_CTRL_ALARM_EN then .next ((s.advance (s.ticksToAlarm (s.get F.RTC_ALARM))).raise Base.RTC 0) else .next s

/-- The 32-bit dword `j` of the log record IDX points at (R227). -/
def State.logDword (s : State) (j : Nat) : Word :=
  BitVec.ofNat 32 (KMap.get (fun _ => 0) s.rtc.log (s.get F.RTC_LOG_IDX_IDX) / 2 ^ (32 * j))

/-- IDX advances by 1 after a read of dword 3 (R227). -/
def State.logAdvance (s : State) : State := s.put F.RTC_LOG_IDX_IDX ((s.get F.RTC_LOG_IDX_IDX + 1) % 256)

/-- Whether an address belongs to a backup-domain register that the synchroniser serves (R225). -/
def isBackupReg (a : Nat) : Bool := a = 0x80008 || a = A.RTC_UTC || a = A.RTC_TRIM || a = A.RTC_ALARM || a = A.RTC_CMD

/-- Whether a clear of bit `i` of RTC_FAULT_STAT is accepted (R223, R226). -/
def rtcClearOk (s : State) (i : Nat) : Bool :=
  match i with
  | 4 => !s.on F.RTC_STAT_TAMPER_IN
  | 5 => !s.backupWeak
  | _ => true

end Sys2Proof.Machine
end

