-- ==== Sys2Proof/Machine/Sign.lean ====
section
/-! DEFINITION. The algorithms chapters 10 and 15 name: SHA-256 (FIPS 180-4), HMAC-SHA-256 (RFC 2104) and the verification of HSS
signatures (RFC 8554), with the parameter sets of R345. PRESUMED: taken from those standards (log 19). -/

namespace Sys2Proof.Machine

open Sys2Proof

/-! ### SHA-256 -/

/-- The first 64 primes, by trial division. -/
def primes64 : List Nat :=
  (List.range 312).filter (fun p => 2 ≤ p && (List.range 18).all (fun d => d < 2 || p = d || p % d ≠ 0))

/-- The largest number below `2 ^ n` above `r`'s present bits whose `k`-th power does not exceed `x`, found bit by bit from the top. -/
def rootBits (k x : Nat) : Nat → Nat → Nat
  | 0, r => r
  | n + 1, r => rootBits k x n (if (r + 2 ^ n) ^ k ≤ x then r + 2 ^ n else r)

/-- The first 32 bits of the fraction of the `k`-th root of `p`, as FIPS 180-4 defines its constants. -/
def rootFrac (k p : Nat) : Nat := rootBits k (p * 2 ^ (32 * k)) 37 0 % 2 ^ 32

/-- The 64 round constants of SHA-256: cube roots of the first 64 primes. -/
def shaKey : List Nat := primes64.map (rootFrac 3)

/-- The initial hash value of SHA-256: square roots of the first eight primes. -/
def shaSeed : List Nat := (primes64.take 8).map (rootFrac 2)

/-- The exclusive or of a 32-bit number rotated right by each of the amounts listed. -/
def turns (x : Nat) (l : List Nat) : Nat := l.foldl (fun r n => r ^^^ (x / 2 ^ n + x * 2 ^ (32 - n) % 2 ^ 32)) 0

/-- The working variables of SHA-256, and the window of the sixteen schedule words still to use, first the one of the coming round. -/
structure ShaWork where
  a : Nat
  b : Nat
  c : Nat
  d : Nat
  e : Nat
  f : Nat
  g : Nat
  h : Nat
  window : List Nat

/-- One round with round constant `k`; the window moves on by one word, and its new last word is formed from it. -/
def ShaWork.round (s : ShaWork) (k : Nat) : ShaWork :=
  let at' := fun i => s.window.getD i 0
  let grow := turns (at' 14) [17, 19] ^^^ at' 14 / 2 ^ 10
  let near := turns (at' 1) [7, 18] ^^^ at' 1 / 2 ^ 3
  let pick := (s.e &&& s.f) ||| (s.g &&& (s.e ^^^ 0xFFFFFFFF))
  let most := (s.a &&& (s.b ||| s.c)) ||| (s.b &&& s.c)
  let new := s.h + k + at' 0 + pick + turns s.e [6, 11, 25]
  { a := (new + most + turns s.a [2, 13, 22]) % 2 ^ 32, b := s.a, c := s.b, d := s.c, e := (s.d + new) % 2 ^ 32, f := s.e, g := s.f,
    h := s.g, window := s.window.drop 1 ++ [(at' 0 + near + at' 9 + grow) % 2 ^ 32] }

/-- A big-endian number of bytes. -/
def ofBytesBE (l : List Byte) : Nat := l.foldl (fun n b => 256 * n + b.toNat) 0

/-- One 64-byte block folded into the hash value. -/
def shaBlock (h : List Nat) (m : List Byte) : List Nat :=
  let v := fun i => h.getD i 0
  let s := shaKey.foldl ShaWork.round
    { a := v 0, b := v 1, c := v 2, d := v 3, e := v 4, f := v 5, g := v 6, h := v 7,
      window := (List.range 16).map (fun i => ofBytesBE ((m.drop (4 * i)).take 4)) }
  [(v 0 + s.a) % 2 ^ 32, (v 1 + s.b) % 2 ^ 32, (v 2 + s.c) % 2 ^ 32, (v 3 + s.d) % 2 ^ 32, (v 4 + s.e) % 2 ^ 32,
    (v 5 + s.f) % 2 ^ 32, (v 6 + s.g) % 2 ^ 32, (v 7 + s.h) % 2 ^ 32]

/-- The blocks of a padded message, `n` of them. -/
def shaBlocks : Nat → List Nat → List Byte → List Nat
  | 0, h, _ => h
  | n + 1, h, m => shaBlocks n (shaBlock h (m.take 64)) (m.drop 64)

/-- SHA-256 of a message: 32 bytes. PRESUMED, log 19. -/
def sha256 (m : List Byte) : List Byte :=
  let p := m ++ 0x80#8 :: List.replicate ((119 - m.length % 64) % 64) 0#8 ++ bytesBE 8 (8 * m.length)
  (shaBlocks (p.length / 64) shaSeed p).flatMap (bytesBE 4)

/-- HMAC-SHA-256 with a key of at most 64 bytes (R237). -/
def hmacSha256 (key m : List Byte) : List Byte :=
  let k := key ++ List.replicate (64 - key.length) 0#8
  sha256 (k.map (fun b => b ^^^ 0x5C#8) ++ sha256 (k.map (fun b => b ^^^ 0x36#8) ++ m))

/-! ### HSS signatures (R345) -/

/-- W of an accepted LM-OTS typecode. -/
def otsW (t : Nat) : Option Nat := match t with
  | 1 => some 1
  | 2 => some 2
  | 3 => some 4
  | 4 => some 8
  | _ => none

/-- Chains of an LM-OTS signature with N = 32. -/
def otsP (w : Nat) : Nat := if w = 1 then 265 else if w = 2 then 133 else if w = 4 then 67 else 34

/-- Left shift of the LM-OTS checksum. -/
def otsLs (w : Nat) : Nat := if w = 1 then 7 else if w = 2 then 6 else if w = 4 then 4 else 0

/-- H of an accepted LMS typecode. -/
def lmsH (t : Nat) : Option Nat := if 5 ≤ t ∧ t ≤ 9 then some (5 * (t - 4)) else none

/-- W and H of an LMS public key of 56 bytes, where both typecodes are accepted. -/
def lmsParams (k : List Byte) : Option (Nat × Nat) :=
  match otsW (ofBytesBE ((k.drop 4).take 4)), lmsH (ofBytesBE (k.take 4)) with
  | some w, some h => some (w, h)
  | _, _ => none

/-- Bytes of an LMS signature. -/
def lmsSigLen (w h : Nat) : Nat := 12 + 32 + 32 * otsP w + 32 * h

/-- A key slot holds a public key of the accepted set. -/
def hssKeyOk (k : List Byte) : Bool :=
  k.length = 60 && decide (1 ≤ ofBytesBE (k.take 4)) && decide (ofBytesBE (k.take 4) ≤ 3) && (lmsParams (k.drop 4)).isSome

/-- The lower `l` levels of a signature have accepted parameters and the length they imply; `k` is the level's public key. -/
def hssLevels : Nat → List Byte → List Byte → Bool
  | 0, _, _ => false
  | l + 1, k, sig =>
    match lmsParams k with
    | none => false
    | some (w, h) =>
      let n := lmsSigLen w h
      (otsW (ofBytesBE ((sig.drop 4).take 4))).isSome && (lmsH (ofBytesBE ((sig.drop (40 + 32 * otsP w)).take 4))).isSome &&
      if l = 0 then decide (sig.length = n)
      else decide (n + 56 ≤ sig.length) && hssLevels l ((sig.drop n).take 56) (sig.drop (n + 56))

/-- A signature has the accepted parameters and the length they imply. -/
def hssParamsOk (key sig : List Byte) : Bool :=
  hssKeyOk key && ofBytesBE (sig.take 4) + 1 = ofBytesBE (key.take 4) && hssLevels (ofBytesBE (key.take 4)) (key.drop 4) (sig.drop 4)

/-- Element `i` of `w` bits of a byte string. -/
def coefOf (s : List Byte) (i w : Nat) : Nat :=
  ((s.getD (i * w / 8) 0#8).toNat >>> (8 - (w * (i % (8 / w)) + w))) % 2 ^ w

/-- The checksum of LM-OTS over a 32-byte hash. -/
def otsChecksum (q : List Byte) (w : Nat) : Nat :=
  ((List.range (256 / w)).foldl (fun n i => n + (2 ^ w - 1 - coefOf q i w)) 0) * 2 ^ otsLs w

/-- `n` steps of an LM-OTS chain from step `j`. -/
def otsChain (pre : List Byte) : Nat → Nat → List Byte → List Byte
  | 0, _, t => t
  | n + 1, j, t => otsChain pre n (j + 1) (sha256 (pre ++ bytesBE 1 j ++ t))

/-- The public key candidate of an LM-OTS signature: randomiser `c`, chains `y`, over message `m` at leaf `q` of key identifier `id`. -/
def otsCandidate (id : List Byte) (q w : Nat) (c y m : List Byte) : List Byte :=
  let pre := id ++ bytesBE 4 q
  let h := sha256 (pre ++ bytesBE 2 0x8181 ++ c ++ m)
  let hc := h ++ bytesBE 2 (otsChecksum h w)
  let z := (List.range (otsP w)).flatMap (fun i =>
    let a := coefOf hc i w
    otsChain (pre ++ bytesBE 2 i) (2 ^ w - 1 - a) a ((y.drop (32 * i)).take 32))
  sha256 (pre ++ bytesBE 2 0x8080 ++ z)

/-- The root reached from node `node` along an authentication path. -/
def lmsClimb (id : List Byte) : Nat → Nat → List Byte → List Byte → List Byte
  | 0, _, t, _ => t
  | h + 1, node, t, path =>
    let p := path.take 32
    let x := if node % 2 = 1 then p ++ t else t ++ p
    lmsClimb id h (node / 2) (sha256 (id ++ bytesBE 4 (node / 2) ++ bytesBE 2 0x8383 ++ x)) (path.drop 32)

/-- An LMS signature over `m` verifies under the public key `k`. -/
def lmsVerify (k m sig : List Byte) : Bool :=
  match lmsParams k with
  | none => false
  | some (w, h) =>
    let id := (k.drop 8).take 16
    let q := ofBytesBE (sig.take 4)
    let o := sig.drop 4
    let y := 32 * otsP w
    let kc := otsCandidate id q w ((o.drop 4).take 32) ((o.drop 36).take y) m
    let leaf := sha256 (id ++ bytesBE 4 (2 ^ h + q) ++ bytesBE 2 0x8282 ++ kc)
    o.take 4 = (k.drop 4).take 4 && (o.drop (36 + y)).take 4 = k.take 4 && decide (q < 2 ^ h) &&
      lmsClimb id h (2 ^ h + q) leaf (o.drop (40 + y)) = k.drop 24

/-- The lower `l` levels of an HSS signature verify. -/
def hssChain : Nat → List Byte → List Byte → List Byte → Bool
  | 0, _, _, _ => false
  | l + 1, k, m, sig =>
    match lmsParams k with
    | none => false
    | some (w, h) =>
      let n := lmsSigLen w h
      if l = 0 then lmsVerify k m sig
      else
        let next := (sig.drop n).take 56
        lmsVerify k next (sig.take n) && hssChain l next m (sig.drop (n + 56))

/-- An HSS signature over `m` verifies under a 60-byte public key. -/
def hssVerify (key m sig : List Byte) : Bool := hssChain (ofBytesBE (key.take 4)) (key.drop 4) m (sig.drop 4)

end Sys2Proof.Machine
end

