-- ==== Sys2Proof/Machine/Image.lean ====
section
/-! DEFINITION. Flash, signed images, the verified table, and the commands FLASH_ERASE, FLASH_PROGRAM and PADDOCK_LOAD
(R200, R351–R357). -/

namespace Sys2Proof.Machine

open Sys2Proof

/-! ### Flash (R357) -/

/-- What an unlisted byte of flash reads as: 0xFF in a sector erased since delivery, else as delivered (log 18). -/
def flashDefault (erased : KMap Bool) (a : Nat) : Byte :=
  if KMap.get (fun _ => false) erased (a / 0x10000) then 0xFF#8 else Config.flashShipped a

/-- A byte of flash. -/
def State.flashByte (s : State) (a : Nat) : Byte := KMap.get (flashDefault s.flash.erased) s.flash.bytes a

/-- `n` bytes of flash from `a`. -/
def State.flashRead (s : State) (a n : Nat) : List Byte := (List.range n).map (fun i => s.flashByte (a + i))

/-- Bytes stored in flash from `a`. -/
def State.flashPut (s : State) (a : Nat) (l : List Byte) : State :=
  let m := (l.zipIdx).foldl (fun (m : KMap Byte) (x : Byte × Nat) => KMap.set (flashDefault s.flash.erased) m (a + x.2) x.1) s.flash.bytes
  { s with flash := { s.flash with bytes := m } }

/-- A sector erased to 0xFF. -/
def State.flashErase (s : State) (a : Nat) : State :=
  { s with flash := { s.flash with
                      bytes := s.flash.bytes.filter (fun (p : Nat × Byte) => p.1 / 0x10000 ≠ a / 0x10000)
                      erased := KMap.set (fun _ => false) s.flash.erased (a / 0x10000) true } }

/-- `n` free bytes: what flash holds after an operation whose check failed (log 8). -/
def State.freeBytes (s : State) (n : Nat) : List Byte := (List.range n).map (fun i => BitVec.ofNat 8 (Config.free (s.freeIx + i)))

/-- The bytes from `a` to `a + n` lie in flash. -/
def inFlash (a n : Nat) : Bool := decide (a + n ≤ 0x08000000) || (decide (0x10000000 ≤ a) && decide (a + n ≤ 0x18000000))

/-- The bank of a flash address. -/
def bankOf (a : Nat) : Nat := a / 0x10000000

/-- An operation at `a` would touch the first 24 MiB + 32 KiB of BOOT_BANK (R357). -/
def State.activeFlash (s : State) (a : Nat) : Bool :=
  bankOf a = s.get F.SYS_STAT_BOOT_BANK && decide (a % 0x10000000 < 0x1808000)

/-! ### Images (R351, R352) -/

/-- The header of an image (R351). -/
structure Image where
  addr : Nat
  header : List Byte
  magic : Nat
  format : Nat
  kind : Nat
  keySlot : Nat
  rollback : Nat
  length : Nat
  sigLen : Nat
  serial : Nat
  member : Nat
  variants : Nat
  version : Nat
  hash : List Byte
  info : List Byte
  deriving DecidableEq, Repr

/-- A little-endian field of a byte list. -/
def leAt (l : List Byte) (o n : Nat) : Nat := ofBytesLE ((l.drop o).take n)

/-- The image at flash address `a`. -/
def State.image (s : State) (a : Nat) : Image :=
  let h := s.flashRead a 128
  { addr := a, header := h, magic := leAt h 0 4, format := leAt h 4 2, kind := leAt h 6 1, keySlot := leAt h 7 1
    rollback := leAt h 8 4, length := leAt h 12 4, sigLen := leAt h 16 4, serial := leAt h 0x14 4, member := leAt h 0x18 1
    variants := leAt h 0x19 1, version := leAt h 0x1C 4, hash := (h.drop 0x20).take 32, info := (h.drop 0x40).take 64 }

/-- The end of an image's signature (R354). -/
def Image.size (i : Image) : Nat := 128 + i.length + i.sigLen

/-- An image's payload. -/
def State.payload (s : State) (i : Image) : List Byte := s.flashRead (i.addr + 128) i.length

/-- An image's signature. -/
def State.signature (s : State) (i : Image) : List Byte := s.flashRead (i.addr + 128 + i.length) i.sigLen

/-- LENGTH max of a kind (R352). -/
def kindMax (k : Nat) : Nat := match k with
  | 1 => 0x1800000
  | 2 => 0x80000
  | 3 => 800
  | 4 => 256
  | 5 => 1024
  | _ => 252

/-- A BAR0 address is a guarded primary of SAFE or an ADC_CMPn (R352). -/
def fenceWord (a : Nat) : Bool := (pendBit a).isSome || a = A.SAFE_RESET || (0xC2000 ≤ a && a < 0xC2030 && a % 4 = 0)

/-- The pairs of a kind 5 payload. -/
def fencePairs (p : List Byte) : List (Nat × Word) :=
  (List.range (p.length / 8)).map (fun i => (leAt p (8 * i) 4, BitVec.ofNat 32 (leAt p (8 * i + 4) 4)))

/-- A list of addresses rises. -/
def risingN : List Nat → Bool
  | a :: b :: t => decide (a < b) && risingN (b :: t)
  | _ => true

/-- The rules of R352 for an image's kind. -/
def State.kindRules (s : State) (i : Image) : Bool :=
  match i.kind with
  | 1 => true
  | 2 =>
    let pw := leAt i.info 2 2
    let cr := leAt i.info 4 2
    let sr := leAt i.info 8 2
    decide (pw ≤ 16384) && decide (cr ≤ coefRows) && decide (leAt i.info 6 2 + sr ≤ 1984) && i.length = 8 * pw + 64 * cr + 64 * sr
  | 3 => decide (leAt i.info 0 8 < 2 ^ 50) && i.length = 16 * popcount 50 (leAt i.info 0 8)
  | 4 => i.length = 256
  | 5 =>
    let ps := fencePairs (s.payload i)
    i.length % 8 = 0 && ps.all (fun p => fenceWord p.1) && risingN (ps.map (fun p => p.1))
  | 6 => let n := leAt (s.payload i) 8 4; decide (n ≤ 4) && i.length = 12 + 60 * n
  | _ => false

/-- Check 1 of R353. -/
def State.imgFormat (s : State) (i : Image) : Bool :=
  i.magic = 0x4D49594B && i.format = 1 && decide (1 ≤ i.kind) && decide (i.kind ≤ 6) && decide (i.length ≤ kindMax i.kind) &&
    inFlash i.addr i.size && s.kindRules i

/-- Check 2 of R353. -/
def State.imgTarget (s : State) (i : Image) : Bool :=
  (i.serial = 0 || i.serial = (s.reg A.SYS_SERIAL).toNat) && i.member = 9 &&
    i.variants.testBit (if s.get F.SYS_PART_VARIANT = 0x41 then 0 else 1)

/-- The public key in a slot: vendor slots 0–3, owner slots 4–7 (R343). -/
def State.keyAt (s : State) (slot : Nat) : List Byte :=
  if slot < 4 then (List.range 60).map (Config.vendorKey slot) else s.tack.ownerKeys.getD (slot - 4) []

/-- The policy admits key slot `slot` for kind `k` (R355). -/
def State.signerOk (s : State) (k slot : Nat) : Bool :=
  let vendor := decide (slot < 4)
  if s.get F.SEC_STAT_OWNER_STATE = 0 then vendor
  else if k = 1 then vendor
  else if k = 6 then !vendor
  else
    let f := bits (s.reg A.SEC_POLICY).toNat (2 * k - 3) (2 * k - 4)
    if f = 0 then vendor else if f = 1 then !vendor else true

/-- The detail of the first check of R353 that fails, 0 where all pass; `expect` is the kind ARG1 names, `ue` that the read met an
uncorrectable error. -/
def State.imageCheck (s : State) (i : Image) (expect : Nat) (ue : Bool) : Nat :=
  let key := s.keyAt i.keySlot
  let sig := s.signature i
  if !s.imgFormat i then 1
  else if !s.imgTarget i then 2
  else if expect ≠ 0 && expect ≠ i.kind then 3
  else if decide (8 ≤ i.keySlot) || !hssKeyOk key || !s.signerOk i.kind i.keySlot then 4
  else if !hssParamsOk key sig then 5
  else if !hssVerify key i.header sig then 6
  else if sha256 (s.payload i) ≠ i.hash then 7
  else if i.rollback < s.rollbackOf i.kind || (i.kind = 6 && i.rollback = s.rollbackOf 6) then 8
  else if ue then 9
  else 0

/-- A verification has ended with a detail: counted, a failure raised (R353). -/
def State.verifyCount (s : State) (detail : Nat) : State :=
  if detail = 0 then s.cnt F.SEC_VERIFY_OK else (s.cnt F.SEC_VERIFY_FAIL).raise Base.SEC 4

/-- The flash bytes of a range read well (R332). -/
def State.flashWell (s : State) (lo n : Nat) : State :=
  { s with flash := { s.flash with bad := s.flash.bad.filter (fun a => !(decide (lo ≤ a) && decide (a < lo + n))) } }

/-- An uncorrectable flash read at `a` by master `m` reaches the collector (R328, R329); a re-read fails until the byte is written or reads well (R332).
DEDUCED, log 124. -/
def State.flashUe (s : State) (m a : Nat) : State :=
  let t := s.err .nvUe m 0 a
  { t with flash := { t.flash with bad := if t.flash.bad.contains a then t.flash.bad else t.flash.bad ++ [a] } }

/-- The first byte of an image whose read fails. -/
def State.badByte (s : State) (i : Image) : Option Nat := s.flash.bad.find? (fun a => decide (i.addr ≤ a) && decide (a < i.addr + i.size))

/-- A flash byte known to fail is read again by master `m` (R328). -/
def State.flashAgain (s : State) (m : Nat) (i : Image) : State :=
  match s.badByte i with
  | some a => s.err .nvUe m 0 a
  | none => s

/-! ### The verified table (R354) -/

/-- The valid entries whose image meets a range of flash. -/
def State.entriesIn (s : State) (lo hi : Nat) : List Nat :=
  (List.range 8).filter (fun v =>
    let a := (s.reg (A.UPD_VTAB_ADDR v)).toNat
    s.on (F.UPD_VTAB_INFO_VALID v) && decide (a < hi) && decide (lo < a + (s.image a).size))

/-- An entry loses VALID; staged firmware is unstaged (R354). -/
def State.entryInvalid (s : State) (v : Nat) : State :=
  let s := if s.on (F.UPD_VTAB_INFO_STAGED v) then (s.put F.UPD_STAT_STAGED 0).put (F.UPD_VTAB_INFO_STAGED v) 0 else s
  (s.put (F.UPD_VTAB_INFO_VALID v) 0).raise Base.UPD 10

/-- A flash operation touches a range (R354); a byte that is rewritten no longer fails its re-read (R332). -/
def State.flashTouch (s : State) (lo hi : Nat) : State := ((s.entriesIn lo hi).foldl State.entryInvalid s).flashWell lo (hi - lo)

/-- An image has passed: the entry with its address, else the oldest, is replaced; also the slot used (R354). -/
def State.entryPut (s : State) (i : Image) : State × Nat :=
  let same := (List.range 8).find? (fun v => s.on (F.UPD_VTAB_INFO_KIND v) && (s.reg (A.UPD_VTAB_ADDR v)).toNat = i.addr)
  let v := same.getD (s.upd.order.headD 0)
  let staged := i.kind = 1 && s.on F.UPD_STAT_STAGED && i.addr = 0x10000000 * s.get F.UPD_STAT_STAGED_BANK
  let s := (s.setReg (A.UPD_VTAB_ADDR v) (BitVec.ofNat 32 i.addr)).put (F.UPD_VTAB_INFO_VALID v) 1
  let s := ((s.put (F.UPD_VTAB_INFO_STAGED v) (b2n staged)).put (F.UPD_VTAB_INFO_KEYSLOT v) i.keySlot).put (F.UPD_VTAB_INFO_KIND v) i.kind
  ({ s with upd := { s.upd with order := s.upd.order.filter (fun x => x ≠ v) ++ [v] } }, v)

/-! ### FLASH_ERASE and FLASH_PROGRAM (R357) -/

/-- FAILED with a detail in RES3[7:0]. -/
def State.failDetail (s : State) (d : Nat) : State := s.finish 5 [0#32, 0#32, 0#32, BitVec.ofNat 32 d]

/-- FLASH_ERASE (R357); `ok` is the outcome of the erase verify. -/
def execFlashErase (ok : Bool) (s : State) : Host.Outcome State Fault Refusal :=
  if !s.cmdIs 0x10 then .next s
  else
    let a := s.cmdArg 0
    if a % 0x10000 ≠ 0 || !inFlash a 0x10000 then .next (s.finish 2 [])
    else if s.activeFlash a then .next (s.failDetail 1)
    else
      let t := (s.flashTouch a (a + 0x10000)).flashErase a
      if ok then .next (t.finish 0 [])
      else
        let t := t.flashPut a (s.freeBytes 0x10000)
        .next ({ t with freeIx := t.freeIx + 0x10000 }.failDetail 2)

/-- FLASH_PROGRAM (R357); `ok` is the outcome of the read-back. -/
def execFlashProgram (ok : Bool) (s : State) : Host.Outcome State Fault Refusal :=
  if !s.cmdIs 0x11 then .next s
  else
    let a := s.cmdArg 0
    let n := s.cmdArg 1
    if a % 8 ≠ 0 || n % 8 ≠ 0 || n < 8 || decide (1024 < n) || !inFlash a n then .next (s.finish 2 [])
    else if s.activeFlash a then .next (s.failDetail 1)
    else
      let data := match s.cmd with
        | some r => (r.data.flatMap (fun w => bytesLE 4 w.toNat)).take n
        | none => []
      let t := s.flashTouch a (a + n)
      if ok then .next ((t.flashPut a data).finish 0 [])
      else
        let t := t.flashPut a (s.freeBytes n)
        .next ({ t with freeIx := t.freeIx + n }.failDetail 2)

/-! ### PADDOCK_LOAD (R198, R200) -/

/-- The entry of the verified table for a kind 2 image at `a`. -/
def State.programEntry (s : State) (a : Nat) : Bool :=
  (List.range 8).any (fun v =>
    s.on (F.UPD_VTAB_INFO_VALID v) && s.get (F.UPD_VTAB_INFO_KIND v) = 2 && (s.reg (A.UPD_VTAB_ADDR v)).toNat = a)

/-- Bytes stored in a memory, whose words lose their poison (R333). -/
def State.putMem (s : State) (a : Nat) (l : List Byte) : State := (s.storeBytes a l).unpoison a l.length

/-- The sections of a kind 2 image copied into the paddock RAMs (R200, R352). -/
def State.imageToPaddock (s : State) (i : Image) : State :=
  let p := s.payload i
  let pw := 8 * leAt i.info 2 2
  let cr := 64 * leAt i.info 4 2
  ((s.putMem (progBase .shadow) (p.take pw)).putMem (coefBase .shadow) ((p.drop pw).take cr)).putMem
    (stateBase .shadow + 64 * leAt i.info 6 2) (p.drop (pw + cr))

/-- Rows `lo` to `hi` of the live state RAM copied to the paddock (R198). -/
def State.copyRows (s : State) (lo hi : Nat) : State :=
  s.putMem (stateBase .shadow + 64 * lo) ((List.range (64 * (hi - lo))).map (fun i => s.byte (stateBase .live + 64 * lo + i)))

/-- The result words of PADDOCK_LOAD (R198, R200). -/
def State.loadReport (s : State) (value code : Nat) (slack : Int) (detail : Nat) : List Word :=
  [BitVec.ofNat 32 value, BitVec.ofNat 32 (code + 2 ^ 16 * tc 16 slack), 0#32,
    ((s.padReport detail).getD 3 0#32) &&& 0xFF000000#32]

/-- The program in the paddock is checked from ENTRY, and a session begins where it passes (R198, R200). -/
def State.paddockStart (s : State) (entry : Nat) (rollback : Option Nat) : State :=
  let r := s.progCheck .shadow entry
  if r.1 ≠ 0 then s.finish 5 (s.loadReport (r.2.1 + 2 ^ 16 * r.2.2.1) r.1 r.2.2.2 9)
  else
    let t := s.copyRows 1984 2048
    let t := if (s.cmdArg 0).testBit 2 then t.copyRows 0 1984 else t
    let t := { t with cme := { t.cme with preset1 := 63, pad := { t.cme.pad with entry := entry } }
                      upd := { t.upd with session := rollback } }.setPad .shadow
    t.finish 0 (t.loadReport (r.2.1 + 2 ^ 16 * r.2.2.1) r.1 r.2.2.2 0)

/-- PADDOCK_LOAD (R198, R200, R354, R355). DEDUCED, log 80. -/
def execPaddockLoad (s : State) : Host.Outcome State Fault Refusal :=
  if !s.cmdIs 0x30 then .next s
  else if s.cme.pad.st ≠ .none then .next (s.finish 5 (s.loadReport 0 0 0 10))
  else
    let src := s.cmdArg 0 % 4
    let entry := s.cmdArg 2 % 2 ^ 14
    if src = 0 then
      if s.get F.SEC_STAT_OWNER_STATE ≠ 0 && (s.reg A.SEC_POLICY).toNat.testBit 8 then .next (s.finish 5 (s.loadReport 0 0 0 8))
      else .next (s.paddockStart entry none)
    else if src = 1 && s.programEntry (s.cmdArg 1) then
      let i := s.image (s.cmdArg 1)
      .next (((s.flashAgain 9 i).imageToPaddock i).paddockStart entry (some i.rollback))
    else .next (s.finish 2 (s.loadReport 0 0 0 0))

end Sys2Proof.Machine
end

