-- ==== Sys2Proof/Machine/Update.lean ====
section
/-! DEFINITION. IMAGE_VERIFY and its actions, fence confirmations, attestation, TACK_OP, trials and the boot of the supervisor
(R345–R366). -/

namespace Sys2Proof.Machine

open Sys2Proof

/-! ### Equalisation rows and ADC trims (R105, R267, R365) -/

/-- A word of an image written to LANE_EQr of lane `n` (R105). -/
def State.eqPut (s : State) (n r : Nat) (w : Word) : State :=
  (s.setReg (A.LANE_EQ n r) (w &&& definedMask (A.LANE_EQ n r))).laneRowWritten n r

/-- One group of ADC_CALk_g written (R267). -/
def State.calPut (s : State) (k g : Nat) (offs gtrim : Word) : State :=
  let t := s.noteTrim k g (s.get (F.ADC_CAL_OFFS (4 * k + g))) (s.get (F.ADC_CAL_GTRIM (4 * k + g)))
  (t.put (F.ADC_CAL_OFFS (4 * k + g)) offs.toNat).put (F.ADC_CAL_GTRIM (4 * k + g)) gtrim.toNat

/-- A write of a table register by master `m` is dropped under TABLE_LOCK (R366). -/
def State.tableDrops (s : State) (m : Master) : Bool :=
  m ≠ .supervisor && s.tableLock

/-- A write of a table register by master `m` is held until the end of an apply (R365). -/
def State.tableHolds (s : State) (m : Master) : Bool := m = .host && s.on F.UPD_STAT_APPLYING

/-- A write of `v` to a table register by master `m`: dropped under TABLE_LOCK, held while an apply runs (R365, R366). -/
def State.tableWriteBy (s : State) (m : Master) (a : Nat) (v : Word) : State :=
  if s.tableDrops m then
    (((s.put F.UPD_FAULT_STAT_TABLE_DROP 1).cnt F.UPD_TABLE_DROPS).raise Base.UPD 11).noteDrop
  else if s.tableHolds m then s.withUpd { s.upd with held := s.upd.held ++ [(a, v)] }
  else s.tableApply a v

/-! ### Fence confirmations (R364) -/

/-- Primary addresses of the SAFE fence parameters, ascending (R323). -/
def safeParams : List Nat := ((List.range 48).map (fun i => 0x110100 + 4 * i)).filter (fun a => (pendBit a).isSome)

/-- The pending words: address and value, ascending (R364). -/
def State.pendingSet (s : State) : List (Nat × Word) :=
  ((List.range 12).filter (fun n => s.bitOf F.ADC_CMP_PEND n)).map (fun n => (A.ADC_CMP n, s.reg (A.ADC_CMP n))) ++
  (safeParams.filter (fun a => match pendBit a with | some (f, i) => s.bitOf f i | none => false)).map (fun a => (a, s.reg a))

/-- The CRC over a set of words (R364). -/
def setCrc (l : List (Nat × Word)) : Nat := crc32c (l.flatMap (fun p => bytesLE 4 p.1 ++ bytesLE 4 p.2.toNat))

/-- A confirmation starts: both channels take their snapshots and publish their CRCs; `sv` is the supervisor's where its copy of the
pending set differs. A fence-parameter commit in the cycle of the commit of UPD_FCONF has changed the set (R364). -/
def State.fconfStart (s : State) (c : Word) (sv : Option Word) (byApply : Bool) : State :=
  let snap := s.pendingSet
  let f := setCrc snap
  let x : FConf := { time := s.now, c := c, snap := snap, crcF := f
                     crcS := match sv with | some w => w.toNat | none => f
                     changed := !byApply && s.upd.fenceAt = some s.cycleNo
                     byApply := byApply }
  let s := ((s.put F.UPD_CRC_FENCE x.crcF).put F.UPD_CRC_SV x.crcS).put F.UPD_STAT_FCONF_BUSY 1
  (s.withUpd { s.upd with fconf := some x }).startRes A.UPD_FCONF_RES

/-- FENCE_CONFIRMATION (R364): UPD_FCONF is committed. -/
def execFenceConfirmation (c : Word) (sv : Option Word) (s : State) : Host.Outcome State Fault Refusal :=
  .next ((s.setReg A.UPD_FCONF c).fconfStart c sv false)

/-- A pending comparator word fails R269. -/
def State.cmpPendBad (s : State) : Bool := (List.range 12).any (fun n => s.bitOf F.ADC_CMP_PEND n && s.cmpBad n)

/-- The code of a confirmation: the lowest whose condition holds, 0 where none does (R364). DEDUCED, log 122. -/
def State.fconfCode (s : State) (f : FConf) : Nat :=
  if f.snap = [] then 1
  else if f.crcF = f.crcS && f.crcF ≠ f.c.toNat then 2
  else if f.crcF ≠ f.crcS then 3
  else if s.on F.SAFE_FN_LIVE_FENCE || s.on F.SAFE_FN_LIVE_SV then 4
  else if s.safeState = safeTest || s.safeState = safeCstop then 5
  else if s.on F.SAFE_STAT_SV_WINDOW then 6
  else if f.changed then 7
  else if s.cmpPendBad || s.paramBad then 8
  else if s.get F.SEC_STAT_OWNER_STATE ≠ 0 && (s.reg A.SEC_POLICY).toNat.testBit 9 && !s.upd.byKind5 then 9
  else 0

/-- The pending set is discarded: primaries return to the values in force (R364, log 24). -/
def State.pendingDiscard (s : State) : State :=
  let s := (List.range 12).foldl (fun (t : State) n =>
    if t.bitOf F.ADC_CMP_PEND n then (t.clrBitOf F.ADC_CMP_PEND n).setReg (A.ADC_CMP n) (t.reg (A.ADC_CMP_ACT n)) else t) s
  let s := s.safe.active.foldl (fun (t : State) (x : Nat × Option Word) =>
    match x.2, pendBit x.1 with
    | some w, some (f, i) => (t.clrBitOf f i).setReg x.1 w
    | _, _ => t) s
  (s.withSafe { s.safe with active := [] }).withUpd { s.upd with byKind5 := false }

/-- Every pending value is applied (R269, R323, R364). -/
def State.pendingApply (s : State) : State :=
  let s := ((List.range 12).filter (fun n => s.bitOf F.ADC_CMP_PEND n)).foldl State.cmpApply s
  let s := (s.safe.active.foldl (fun (t : State) (x : Nat × Option Word) => t.paramApply x.1) s).paramsApplied
  s.withUpd { s.upd with byKind5 := false }

/-- IMAGE_VERIFY ends OK: the verified table, RES0–RES2 (R354, R357). -/
def State.imageOk (s : State) (i : Image) : State :=
  let r := (s.verifyCount 0).entryPut i
  r.1.finish 0 [BitVec.ofNat 32 (i.kind + 2 ^ 8 * i.keySlot + 2 ^ 16 * r.2), BitVec.ofNat 32 i.version, BitVec.ofNat 32 i.rollback, 0#32]

/-- IMAGE_VERIFY ends FAILED with a detail (R353). DEDUCED, log 123. -/
def State.imageFail (s : State) (d : Nat) : State := (s.verifyCount d).failDetail d

/-- The confirmation is judged with a code (R364). -/
def State.fconfJudge (s : State) (f : FConf) (code : Nat) (durable : Bool) : State :=
  let s := (s.complete A.UPD_FCONF_RES code).put F.UPD_STAT_FCONF_BUSY 0
  let s := s.withUpd { s.upd with fconf := none }
  let s :=
    if code = 0 then ((s.pendingApply).cnt F.UPD_FCONF_OK).raise Base.UPD 6
    else
      let s := if code = 3 then s.pendingDiscard else s
      let s := if code = 8 && s.cmpPendBad then s.put F.ADC_FAULT_STAT_CMP_BAD 1 else s
      let s := if code = 8 && s.paramBad then s.put F.SAFE_FAULT_STAT_PARAM_BAD 1 else s
      ((s.put F.UPD_FAULT_STAT_FCONF_FAIL 1).cnt F.UPD_FCONF_FAILS).raise Base.UPD 7
  if f.byApply && s.cmdIs 0x20 then
    let i := s.image (s.cmdArg 0)
    if code = 0 then (s.advRollback 5 i.rollback durable).imageOk i else s.imageFail 12
  else s

/-- FENCE_CONFIRMATION_DONE (R364). -/
def execFenceConfirmationDone (durable : Bool) (s : State) : Host.Outcome State Fault Refusal :=
  match s.upd.fconf with
  | some f => .next (s.fconfJudge f (s.fconfCode f) durable)
  | none => .next s

/-- FPEND_DISCARD (R364). -/
def execFpendDiscard (s : State) : Host.Outcome State Fault Refusal := .next s.pendingDiscard

/-- A fence parameter is committed with value `v` at primary `a`, by master `m` or by a kind 5 apply; with FENCE_SIGNED = 1 a commit
by host software or a remote station in RUN or STOPPING is discarded (R269, R323, R364). -/
def State.fenceCommit (s : State) (m : Master) (a : Nat) (v : Word) : State :=
  if m ≠ .supervisor && s.running && s.get F.SEC_STAT_OWNER_STATE ≠ 0 && (s.reg A.SEC_POLICY).toNat.testBit 9 then
    (s.put F.UPD_FAULT_STAT_FCONF_FAIL 1).noteDrop
  else
    let old := s.reg a
    let s := s.setReg a (v &&& definedMask a)
    let s := s.withUpd { s.upd with fconf := s.upd.fconf.map (fun f => { f with changed := true }), byKind5 := false, fenceAt := some s.cycleNo }
    if (pendBit a).isSome then s.paramCommitted a old else s.cmpCommitted ((a - A.ADC_CMP 0) / 4)

/-! ### IMAGE_VERIFY (R353, R358) -/

/-- ACTION of the running IMAGE_VERIFY. -/
def State.imgAction (s : State) : Nat := bits (s.cmdArg 1) 9 8

/-- The row of the command table a running IMAGE_VERIFY belongs to, by ACTION and the kind its header names. -/
inductive ImgRow where
  | verify | stage | lanes | cal | fence | owner
  deriving DecidableEq, Repr

/-- The row of the running IMAGE_VERIFY. -/
def State.imgRow (s : State) : ImgRow :=
  let k := (s.image (s.cmdArg 0)).kind
  match s.imgAction with
  | 1 => .stage
  | 2 => if k = 3 then .lanes else if k = 4 then .cal else if k = 5 then .fence else if k = 6 then .owner else .verify
  | _ => .verify

/-- The detail of checks 10 and 11 of R353, 0 where both pass (R358). -/
def State.actionCheck (s : State) (i : Image) : Nat :=
  match s.imgAction with
  | 0 => 0
  | 1 =>
    if i.kind ≠ 1 then 10
    else if i.addr % 0x10000000 ≠ 0 || bankOf i.addr = s.get F.SYS_STAT_BOOT_BANK then 11
    else 0
  | 2 => if i.kind < 3 then 10 else if i.kind = 6 && s.running then 11 else 0
  | _ => 10

/-- IMAGE_VERIFY of a row: bad arguments, the first failing check, or the row's action on an image that passes (R353, R357, R358). -/
def State.imageRun (s : State) (row : ImgRow) (ue : Option (BitVec 29)) (act : State → Image → State) : State :=
  let a := s.cmdArg 0
  if !s.cmdIs 0x20 || s.imgRow ≠ row then s
  else if a % 0x10000 ≠ 0 || !inFlash a 0x10000 then s.finish 2 []
  else
    let i := s.image a
    let s := match ue with
      | some x => s.flashUe 9 x.toNat
      | none => s.flashWell i.addr i.size
    let d := s.imageCheck i (s.cmdArg 1 % 256) ue.isSome
    let d := if d = 0 then s.actionCheck i else d
    if d = 0 then act s i else s.imageFail d

/-- IMAGE_VERIFY (R353): ACTION 0, and every action that its kind does not have. -/
def execImageVerify (ue : Option (BitVec 29)) (s : State) : Host.Outcome State Fault Refusal :=
  .next (s.imageRun .verify ue (fun t i => t.imageOk i))

/-- STAGED and STAGED_BANK are set (R358). -/
def State.stage (s : State) (i : Image) : State :=
  let s := (List.range 8).foldl (fun t v => t.put (F.UPD_VTAB_INFO_STAGED v) 0) s
  (((s.put F.UPD_STAT_STAGED 1).put F.UPD_STAT_STAGED_BANK (bankOf i.addr)).imageOk i).raise Base.UPD 0

/-- IMAGE_STAGE (R358). -/
def execImageStage (ue : Option (BitVec 29)) (s : State) : Host.Outcome State Fault Refusal := .next (s.imageRun .stage ue State.stage)

/-! ### Lane tables (R365) -/

/-- The rows a kind 3 payload gives each masked lane, ascending (R352). -/
def laneRows (mask : Nat) (p : List Byte) : List (Nat × List Word) :=
  ((bitIndices 50 mask).zipIdx).map (fun x => (x.1, (List.range 4).map (fun r => BitVec.ofNat 32 (leAt p (16 * x.2 + 4 * r) 4))))

/-- The settings in force on an UP lane differ from the stored row in use. -/
def State.rowChanged (s : State) (n : Nat) : Bool :=
  s.laneState n = lnUp && (s.lane n).rowWord ≠ s.reg (A.LANE_EQ n (s.get (F.LANE_STAT_ROW n)))

/-- The apply goes on with the next lane that needs APPLY_EQ, or ends (R365). -/
def State.laneNext (s : State) (x : LaneApply) (durable : Bool) : State :=
  match x.todo.dropWhile (fun l => !s.rowChanged l.1) with
  | [] =>
    let i := s.image x.addr
    ((s.applyEnd.raise Base.UPD 8).advRollback 3 i.rollback durable).imageOk i
  | (n, _) :: rest => (s.laneEqWrite n).withUpd { s.upd with lanes := some { x with todo := rest, waiting := some n } }

/-- The apply begins: every row is stored, ascending (R365, log 25). -/
def State.laneApply (durable : Bool) (s : State) (i : Image) : State :=
  let l := laneRows (leAt i.info 0 8) (s.payload i)
  let s := l.foldl (fun (t : State) x => (x.2.zipIdx).foldl (fun (u : State) w => u.eqPut x.1 w.2 w.1) t) s
  (s.put F.UPD_STAT_APPLYING 1).laneNext { todo := l, waiting := none, addr := i.addr } durable

/-- The second marker slot after a lane's change has come: a lane not HEALTHY then stops the apply (R365). -/
def State.laneStep (s : State) (x : LaneApply) (durable : Bool) : State :=
  match x.waiting with
  | none => s
  | some n =>
    let s := if s.on (F.LANE_CTRL_APPLY_EQ n) then s.laneEqSlot n else s
    if s.laneHealthy n then s.laneNext { x with waiting := none } durable
    else
      let s := ((s.put F.UPD_FAULT_STAT_APPLY_STOP 1).applyEnd.raise Base.UPD 9).verifyCount 12
      s.finish 5 [0#32, 0#32, 0#32, BitVec.ofNat 32 (12 + 2 ^ 8 * n)]

/-- LANE_TABLE_APPLY (R365): the verification with the first lane, then each lane's second marker slot. -/
def execLaneTableApply (ue : Option (BitVec 29)) (durable : Bool) (s : State) : Host.Outcome State Fault Refusal :=
  match s.upd.lanes with
  | some x => .next (if s.cmdIs 0x20 then s.laneStep x durable else s)
  | none => .next (s.imageRun .lanes ue (State.laneApply durable))

/-- ADC_CAL_APPLY (R365): the 32 groups are written. -/
def State.calApply (durable : Bool) (s : State) (i : Image) : State :=
  let p := s.payload i
  let s := (List.range 32).foldl (fun (t : State) j =>
    t.calPut (j / 4) (j % 4) (BitVec.ofNat 32 (leAt p (8 * j) 4)) (BitVec.ofNat 32 (leAt p (8 * j + 4) 4))) s
  ((s.raise Base.UPD 8).advRollback 4 i.rollback durable).imageOk i

/-- ADC_CAL_APPLY (R365). -/
def execAdcCalApply (ue : Option (BitVec 29)) (durable : Bool) (s : State) : Host.Outcome State Fault Refusal :=
  .next (s.imageRun .cal ue (State.calApply durable))

/-! ### Fence parameters and ownership (R355, R364) -/

/-- A kind 5 apply: at once in CONFIG and CHECKED; in RUN and STOPPING the pairs become the pending set and a confirmation runs
(R364). DEDUCED, log 195. -/
def State.fenceApply (sv : Option Word) (durable : Bool) (s : State) (i : Image) : State :=
  let ps := fencePairs (s.payload i)
  let wr (s : State) : State := ps.foldl (fun (t : State) p =>
    if p.1 = A.SAFE_RESET then (t.setReg p.1 (p.2 &&& 1#32)).lockReset true true else t.fenceCommit .supervisor p.1 p.2) s
  if s.running then
    let s := wr s.pendingDiscard
    (s.withUpd { s.upd with byKind5 := true }).fconfStart (BitVec.ofNat 32 (setCrc (ps.filter (fun p => p.1 ≠ A.SAFE_RESET)))) sv true
  else
    let s := wr s
    if s.paramBad || ps.any (fun p => match pendBit p.1 with
        | some _ => false
        | none => p.1 ≠ A.SAFE_RESET && s.cmpBad ((p.1 - A.ADC_CMP 0) / 4)) then s.imageFail 12
    else (s.advRollback 5 i.rollback durable).imageOk i

/-- FENCE_PARAM_APPLY (R364). -/
def execFenceParamApply (ue : Option (BitVec 29)) (sv : Option Word) (durable : Bool) (s : State) : Host.Outcome State Fault Refusal :=
  if s.upd.fconf.any (fun f => f.byApply) then .next s else .next (s.imageRun .fence ue (State.fenceApply sv durable))

/-- A kind 6 record is applied: keys, OWNER_ID, POLICY and the ownership state (R355). DEDUCED, log 127. -/
def State.ownerApply (w : OwnerWrite) (s : State) (i : Image) : State :=
  if w = .none then s.tackFail.imageFail 12
  else
    let p := s.payload i
    let n := leAt p 8 4
    let keys := (List.range 4).map (fun j => if j < n then (p.drop (12 + 60 * j)).take 60 else [])
    let changed := keys ≠ s.tack.ownerKeys
    let s := (s.withTack { s.tack with ownerKeys := keys }).setReg A.SEC_OWNER_ID (BitVec.ofNat 32 (leAt p 0 4))
    let s := (s.setReg A.SEC_POLICY (BitVec.ofNat 32 (if n = 0 then 0xAA else leAt p 4 4))).put F.SEC_STAT_OWNER_STATE (b2n (n ≠ 0))
    let present := (List.range 4).foldl (fun b j => if hssKeyOk (keys.getD j []) then setBit b (4 + j) else b) 0x0F
    let s := s.put F.SEC_KEYS_SLOT present
    let s := s.raise Base.SEC 5
    let s := if changed then s.raise Base.SEC 9 else s
    (s.advRollback 6 i.rollback (decide (w = .both))).imageOk i

/-- OWNERSHIP_APPLY (R355, R358). -/
def execOwnershipApply (ue : Option (BitVec 29)) (w : OwnerWrite) (s : State) : Host.Outcome State Fault Refusal :=
  .next (s.imageRun .owner ue (State.ownerApply w))

/-! ### Attestation (R348–R350) -/

/-- The active value of a guarded word of SAFE or of ADC_CMPn (R350). -/
def State.activeWord (s : State) (a : Nat) : Word := (KMap.get (fun _ => none) s.safe.active a).getD (s.reg a)

/-- The bytes of register dwords. -/
def State.regBytes (s : State) (l : List Nat) : List Byte := l.flatMap (fun a => bytesLE 4 (s.reg a).toNat)

/-- Guarded words of SAFE, ascending. -/
def safeGuarded : List Nat :=
  ((List.range 48).map (fun i => 0x110100 + 4 * i)).filter (fun a => (pendBit a).isSome || a = A.SAFE_RESET)

/-- Bytes of a BAR0 memory. -/
def State.memBytes (s : State) (a n : Nat) : List Byte := (List.range n).map (fun i => s.byte (a + i))

/-- The 32 bytes of the running supervisor image's header hash; free bytes where no supervisor runs (R350, log 8). -/
def State.imageHash (s : State) : List Byte :=
  if s.on F.SYS_STAT_SVR_UP then sha256 (s.flashRead (0x10000000 * s.get F.SYS_STAT_BOOT_BANK) 128) else s.freeBytes 32

/-- The 256-byte statement signed with index `q` over the requester's data (R350). -/
def State.statement (s : State) (q : Nat) (data : List Byte) : List Byte :=
  bytesLE 4 0x5441594B ++ bytesLE 4 1 ++ s.regBytes [A.SYS_SERIAL, A.SYS_PART] ++ bytesLE 8 s.ctb ++ bytesLE 4 q ++
    s.regBytes [A.SEC_OWNER_ID, A.SEC_POLICY] ++
    bytesLE 4 (s.get F.SEC_STAT_OWNER_STATE + 2 ^ 4 * s.safeState + 2 ^ 8 * s.yardState) ++
    s.regBytes ((List.range 6).map A.SEC_ROLLBACK) ++ sha256 data ++ s.imageHash ++
    sha256 (s.memBytes (progBase .live) (8 * 16384) ++ s.memBytes (coefBase .live) (64 * coefRows)) ++
    sha256 (s.regBytes ((List.range 12).map A.ADC_CMP_ACT) ++ safeGuarded.flatMap (fun a => bytesLE 4 (s.activeWord a).toNat)) ++
    sha256 (s.regBytes ((List.range 50).flatMap (fun n => (List.range 4).map (A.LANE_EQ n)))) ++
    sha256 (s.regBytes ((List.range 32).flatMap (fun i => [A.ADC_CAL_OFFS i, A.ADC_CAL_GTRIM i])))

/-- ATTEST_SIGN's detail before any reservation, 0 where none holds (R349, R350, log 26). -/
def State.attestWhy (s : State) : Nat :=
  if s.erased then 3
  else if 2 ^ 24 ≤ s.get F.SEC_RESERVED then 2
  else if !s.on F.SEC_STAT_TREE_READY then 1
  else 0

/-- The next index lies in a block not yet reserved. -/
def State.needsBlock (s : State) : Bool := match s.tack.block with
  | some (b, n) => decide (64 * (b + 1) ≤ n)
  | none => true

/-- A block is reserved, durably before its first index is used; indices given up at resets count as skipped (R348). DEDUCED, log 125. -/
def State.reserve (s : State) : State :=
  if !s.needsBlock then s
  else
    let r := s.get F.SEC_RESERVED
    let k := s.tack.unused
    let s := (s.put F.SEC_RESERVED (r + 1)).withTack { s.tack with block := some (r, 64 * r), unused := 0 }
    if k = 0 then s else (s.cnt F.SEC_SKIPPED k).raise Base.SEC 3

/-- A statement is built and signed with the next index; the buffer receives it (R350). -/
def State.attest (s : State) (data : List Byte) : State :=
  let q := s.nextIndex
  let st := s.statement q data
  let sig := identitySign q st
  let b := match s.tack.block with | some x => x.1 | none => 0
  let s := if s.on F.SYS_STAT_SVR_UP then s else { s with freeIx := s.freeIx + 32 }
  let s := (s.withTack { s.tack with block := some (b, q + 1), att := st ++ sig }).put F.SEC_INDEX (q + 1)
  let s := (((s.put F.SEC_ATT_LEN 4728).cnt F.SEC_SIGNS).indexLow).treeMove
  s.finish 0 [BitVec.ofNat 32 q, 4728#32, 0#32, 0#32]

/-- ATTEST_SIGN (R348–R350); `durable` is the outcome of a reservation's write. -/
def execAttestSign (durable : Bool) (s : State) : Host.Outcome State Fault Refusal :=
  if !s.cmdIs 0x21 then .next s
  else if 1024 < s.cmdArg 0 then .next (s.finish 2 [])
  else
    match s.attestWhy with
    | 0 =>
      let data := match s.cmd with
        | some r => (r.data.flatMap (fun w => bytesLE 4 w.toNat)).take (s.cmdArg 0)
        | none => []
      if s.needsBlock && !durable then .next (s.tackFail.failDetail 4) else .next (s.reserve.attest data)
    | 1 => .next (((s.put F.SEC_FAULT_STAT_NO_TREE 1).raise Base.SEC 1).failDetail 1)
    | d => .next (s.failDetail d)

/-! ### TACK_OP (R359) -/

/-- Sub-operation `n` of the running TACK_OP. -/
def State.tackIs (s : State) (n : Nat) : Bool := s.cmdIs 0x50 && s.cmdArg 0 % 256 = n

/-- The running command was started by host software over PCIe. -/
def State.byHost (s : State) : Bool := match s.cmd with
  | some r => r.owner = .host
  | none => false

/-- READ_IDENTITY (R359). -/
def execReadIdentity (s : State) : Host.Outcome State Fault Refusal :=
  if s.tackIs 1 then
    let t := (List.range 15).foldl (fun (t : State) i => t.setReg (A.SYS_CMD_DATA i)
      (BitVec.ofNat 32 (ofBytesLE ((List.range 4).map (fun j => identityKey.getD (4 * i + j) 0))))) s
    .next (t.finish 0 [s.reg A.SYS_SERIAL])
  else .next s

/-- STATION_SET (R359). -/
def execStationSet (durable : Bool) (s : State) : Host.Outcome State Fault Refusal :=
  if !s.tackIs 2 then .next s
  else if 15 < s.cmdArg 1 then .next (s.finish 2 [])
  else if !s.byHost then .next (s.failDetail 1)
  else if !s.on F.SEC_CTRL_KEY_WR_EN then .next (s.failDetail 2)
  else if !durable then .next (s.tackFail.failDetail 3)
  else
    let n := s.cmdArg 1
    let key := match s.cmd with
      | some r => (r.data.take 8).flatMap (fun w => bytesLE 4 w.toNat)
      | none => []
    let t := (s.withTack { s.tack with stations := KMap.set (fun _ => []) s.tack.stations n key }).setBitOf F.SEC_KEYS_STATION n
    let t := (List.range 8).foldl (fun (t : State) i => t.setReg (A.SYS_CMD_DATA i) 0#32) t
    let t := { t with eth := { t.eth with lastSeq := KMap.set (fun _ => none) t.eth.lastSeq n (some 0) } }
    .next ((t.raise Base.SEC 9).finish 0 [])

/-- STATION_ERASE (R359). -/
def execStationErase (durable : Bool) (s : State) : Host.Outcome State Fault Refusal :=
  if !s.tackIs 3 then .next s
  else if 15 < s.cmdArg 1 then .next (s.finish 2 [])
  else if !s.byHost then .next (s.failDetail 1)
  else if !durable then .next (s.tackFail.failDetail 3)
  else
    let n := s.cmdArg 1
    let had := s.bitOf F.SEC_KEYS_STATION n
    let t := (s.withTack { s.tack with stations := KMap.set (fun _ => []) s.tack.stations n [] }).clrBitOf F.SEC_KEYS_STATION n
    .next ((if had then t.raise Base.SEC 9 else t).finish 0 [])

/-- INDEX_STATUS (R359). -/
def execIndexStatus (s : State) : Host.Outcome State Fault Refusal :=
  if s.tackIs 4 then
    .next (s.finish 0 [BitVec.ofNat 32 s.nextIndex, BitVec.ofNat 32 (s.get F.SEC_RESERVED), BitVec.ofNat 32 s.indicesLeft, 0#32])
  else .next s

/-- TACK_BAD_SUBOP (R359). -/
def execTackBadSubop (s : State) : Host.Outcome State Fault Refusal :=
  if s.cmdIs 0x50 && (s.cmdArg 0 % 256 = 0 || decide (4 < s.cmdArg 0 % 256)) then .next (s.finish 2 []) else .next s

/-! ### Trials and the boot of the supervisor (R361–R363, R386) -/

/-- A CONFIRM (R363): ignored while a restart window is open or no trial runs. -/
def State.confirm (s : State) (durable : Bool) : State :=
  if s.on F.SAFE_STAT_SV_WINDOW || !s.on F.UPD_STAT_TRIAL then s
  else
    let r := (s.image (0x10000000 * s.get F.SYS_STAT_BOOT_BANK)).rollback
    ((s.put F.UPD_STAT_TRIAL 0).advRollback 1 r durable).raise Base.UPD 2

/-- CONFIRM (R363). -/
def execConfirm (durable : Bool) (s : State) : Host.Outcome State Fault Refusal := .next (s.confirm durable)

/-- What the boot ROM's verification of bank `b` finds (R353, R361); a byte known to fail its read fails it. DEDUCED, log 124. -/
def State.bankDetail (s : State) (b : Nat) : Nat :=
  let i := s.image (0x10000000 * b)
  s.imageCheck i 1 (s.badByte i).isSome

/-- The boot ROM's reads of bank `b` report a failing byte (R328, R361). -/
def State.bankRead (s : State) (b : Nat) : State := s.flashAgain 1 (s.image (0x10000000 * b))

/-- The bank the boot ROM tries first: STAGED_BANK for a requested restart with STAGED set, else BOOT_BANK (R361). -/
def State.bootFirst (s : State) : Nat :=
  if s.upd.requested && s.on F.UPD_STAT_STAGED then s.get F.UPD_STAT_STAGED_BANK else s.get F.SYS_STAT_BOOT_BANK

/-- Neither bank verifies (R361). -/
def State.noBoot (s : State) : Bool := s.bankDetail s.bootFirst ≠ 0 && s.bankDetail (1 - s.bootFirst) ≠ 0

/-- The boot ROM boots: the staged bank begins a trial, the other bank is a fall-back (R361). DEDUCED, log 121. -/
def State.boot (s : State) : State :=
  let b := s.bootFirst
  let d := s.bankDetail b
  let staged := s.upd.requested && s.on F.UPD_STAT_STAGED
  let s := (s.bankRead b).verifyCount d
  if d = 0 then
    if staged then
      let s := (s.put F.UPD_STAT_PREV_BANK (s.get F.SYS_STAT_BOOT_BANK)).put F.SYS_STAT_BOOT_BANK b
      let s := (List.range 8).foldl (fun t v => t.put (F.UPD_VTAB_INFO_STAGED v) 0) s
      ((s.put F.UPD_STAT_STAGED 0).put F.UPD_STAT_TRIAL 1).raise Base.UPD 1
    else s
  else
    let s := (s.verifyCount 0).put F.SYS_STAT_BOOT_BANK (1 - b)
    (s.put F.UPD_FAULT_STAT_BOOT_FALLBACK 1).raise Base.UPD 4

/-- A supervisor start is in progress: the first after module reset, or a restart (R31, R360). DEDUCED, log 119. -/
def State.starting (s : State) : Bool := !s.rst.asserted && (s.on F.SYS_STAT_SVR_RESTARTING || s.upd.firstStart)

/-- A supervisor start ends: the port serves again (R30, R31). -/
def State.startOver (s : State) : State :=
  let s := (s.put F.SYS_STAT_SVR_RESTARTING 0).withUpd { s.upd with firstStart := false, requested := false, endAt := s.now }
  if s.portState = portUnavail then (s.setPort portIdle).raise Base.SYS 5 else s

/-- The supervisor applies the per-board lane and ADC tables (R105, R267, R352, R386 step 6). -/
def State.boardTables (s : State) : State :=
  let s := (List.range 50).foldl (fun (t : State) n => (List.range 4).foldl
    (fun (t : State) r => t.eqPut n r (BitVec.ofNat 32 (Config.boardWord (A.LANE_EQ n r)))) t) s
  (List.range 8).foldl (fun (t : State) k => (List.range 4).foldl
    (fun (t : State) g => t.calPut k g (BitVec.ofNat 32 (Config.boardWord (A.ADC_CAL_OFFS (4 * k + g))))
      (BitVec.ofNat 32 (Config.boardWord (A.ADC_CAL_GTRIM (4 * k + g))))) t) s

/-- SVR_RESTART_END (R31, R361, R386): the boot ROM has booted a bank and the supervisor runs. -/
def execSvrRestartEnd (trees : TreeCheck) (s : State) : Host.Outcome State Fault Refusal :=
  if !s.starting then .next s
  else
    let t := s.secStart trees
    if t.noBoot then .next s
    else
      let first := t.upd.unstarted
      let t := (t.boot.put F.SYS_STAT_SVR_UP 1).startOver.annRestart
      let t := (t.withUpd { t.upd with unstarted := false }).enforce
      .next (if first then (t.boardTables.domWritten .a false).domWritten .b false else t)

/-- BOOT_NO_BANK (R361, R386): neither bank verifies, and the supervisor stays down. DEDUCED, log 120. -/
def execBootNoBank (trees : TreeCheck) (s : State) : Host.Outcome State Fault Refusal :=
  if !s.starting then .next s
  else
    let t := s.secStart trees
    if t.noBoot then
      let b := t.bootFirst
      let t := (((t.bankRead b).verifyCount (t.bankDetail b)).bankRead (1 - b)).verifyCount (t.bankDetail (1 - b))
      .next (t.startOver.withUpd { t.startOver.upd with noBank := true })
    else .next s

end Sys2Proof.Machine
end

