-- ==== Sys2Proof/Machine/Bus.lean ====
section
/-! DEFINITION. Accesses to BAR0 (R9–R24): what an address reaches, what a read returns and does, what a write does field by field
(R12, R16, R18, R334), the guard sequencers (R19, R20), and what each block does when one of its registers is written. -/

namespace Sys2Proof.Machine

open Sys2Proof

/-! ### What an address reaches (R9–R11, R14) -/

/-- What an address reaches. -/
inductive Region where
  /-- a page of a block window that holds registers -/
  | regs
  | table
  | rams
  | window
  | unmapped
  deriving DecidableEq, Repr

/-- The region of a BAR0 address (R9, R10). -/
def regionOf (a : Nat) : Region :=
  if a < 0x800000 then
    match RegMap.block a with
    | some (b, _, _) => if b.pages.contains (a / 0x1000 % 4) then .regs else .unmapped
    | none => .unmapped
  else if a < 0x8C0000 then .table
  else if inRams .live a || inRams .shadow a then .rams
  else if 0xE00000 ≤ a ∧ a < 0xE01000 then .window
  else .unmapped

/-- The fields of the register at a canonical address; none where an index has no register (R10). -/
def fieldsAt (c : Nat) : List FieldSpec :=
  match RegMap.find c with
  | some r => r.fields
  | none => []

/-- Whether the register at a canonical address is guarded (R19). -/
def isGuarded (c : Nat) : Bool := (fieldsAt c).any (fun f => f.kind = .grd)

/-- The primary whose twin lies at a canonical address (R19). -/
def twinOf (c : Nat) : Option Nat := if 0x200 ≤ c % 0x1000 ∧ isGuarded (c - 0x200) then some (c - 0x200) else none

/-- The base of the block an address of a register window lies in. -/
def baseOf (a : Nat) : Nat := a / 0x10000 * 0x10000

/-- ACCESS of R329 for a write at an address of a register window. -/
def accCode (a : Nat) : Nat := if (twinOf (canon a)).isSome && aliasOf a = 0 then 5 else 1 + aliasOf a

/-- An unmapped access (R10, R17). DEDUCED, log 144. -/
def State.unmapped (s : State) (m : Master) (access a : Nat) : State :=
  (((s.put F.SYS_FAULT_STAT_UNMAPPED 1).raise Base.SYS 0).err .unmapped (masterCode m) access a)

/-! ### Reads (R13, R15, R22, R23) -/

/-- A register whose reading is computed from the state at the instant of the read. DEDUCED, log 100. DEDUCED, log 180. -/
def State.liveReg (s : State) (c : Nat) : Word :=
  match c / 0x10000 with
  | 0x00 => if s.portEnding then s.endingReg c else s.reg c
  | 0x01 => if c = A.HOST_NP then F.HOST_NP_INFLIGHT.write (s.reg c) s.host.np.length else s.reg c
  | 0x02 =>
    if c = A.EVT_VEC_ASSERT then BitVec.ofNat 32 ((List.range 32).foldl (fun n v => if s.asserted v then setBit n v else n) 0) else s.reg c
  | 0x04 =>
    if A.SEC_ATT_DATA 0 ≤ c ∧ c < A.SEC_ATT_DATA 256 then
      BitVec.ofNat 32 (ofBytesLE ((s.tack.att.drop (1024 * s.get F.SEC_ATT_CHUNK + (c - A.SEC_ATT_DATA 0))).take 4))
    else s.reg c
  | 0x07 =>
    if c = A.TIME_CTB 0 then BitVec.ofNat 32 s.ctb
    else if c = A.TIME_CTB 1 then BitVec.ofNat 32 (s.ctb / 2 ^ 32)
    else if A.TIME_TB 0 ≤ c ∧ c < A.TIME_TB 4 then BitVec.ofNat 32 (s.tb ((c - A.TIME_TB 0) / 4))
    else if c = F.TIME_STAT_ALIGN_PEND.reg then F.TIME_STAT_ALIGN_PEND.write (s.reg c) (b2n s.alignPend)
    else s.reg c
  | 0x08 =>
    if c = A.RTC_SEC then BitVec.ofNat 32 s.calSec
    else if c = A.RTC_SECHI then BitVec.ofNat 32 s.calHi
    else if A.RTC_LOG_DATA 0 ≤ c ∧ c < A.RTC_LOG_DATA 4 then s.logDword ((c - A.RTC_LOG_DATA 0) / 4)
    else if isBackupReg c then s.backupCopy c
    else s.reg c
  | 0x09 => if c = F.ETH_STAT_RRA_UP.reg then F.ETH_STAT_RRA_UP.write (s.reg c) (s.get F.SYS_STAT_SVR_UP) else s.reg c
  | 0x0C =>
    if c = F.ADC_STAT_SETTLED.reg then s.adcStat (s.reg c)
    else if A.ADC_CH_TRIG 0 ≤ c ∧ (c - A.ADC_CH_TRIG 0) % 32 = 0 ∧ c < A.ADC_CH_TRIG 8 then
      (F.ADC_CH_TRIG_START ((c - A.ADC_CH_TRIG 0) / 32)).write (s.reg c) (b2n (s.startBit ((c - A.ADC_CH_TRIG 0) / 32)))
    else s.reg c
  | 0x0E =>
    if c = F.AUX_STAT_FREEZE.reg then F.AUX_STAT_FREEZE.write (s.reg c) (b2n s.frozen)
    else if c = A.AUX_GRP_STAT 0 then s.grpStat 0 else if c = A.AUX_GRP_STAT 1 then s.grpStat 1 else s.reg c
  | 0x0F =>
    match hbOfAddr c with
    | some h => s.hbWord h
    | none => s.reg c
  | 0x10 =>
    match pwmOfAddr c with
    | some k =>
      if c = A.PWM_CH_CNT k then
        let p := (s.pwmCh k).count s.now
        (F.PWM_CH_CNT_DIR k).write (BitVec.ofNat 32 p.1) (b2n p.2)
      else s.reg c
    | none => s.reg c
  | 0x11 => if c = A.SAFE_PROOF then F.SAFE_PROOF_AGE_MIN.write (s.reg c) s.ageMin else s.reg c
  | 0x12 =>
    if c = F.YARD_STAT_ENABLED.reg then
      F.YARD_STAT_ARMS_EN.write (F.YARD_STAT_ENABLED.write (s.reg c) s.enabledList.length)
        ((List.range 6).foldl (fun n a => if s.armEn a then setBit n a else n) 0)
    else s.reg c
  | 0x15 =>
    if c = A.CME_DBG_DATA then BitVec.ofNat 32 s.dbgData
    else if c = A.CME_DBG_STAT then F.CME_DBG_STAT_PC.write (s.reg c) s.cme.u0.pc
    else s.reg c
  | k =>
    if 0x40 ≤ k ∧ c % 0x10000 = 0xC then (F.LANE_STAT_HEALTHY (k - 0x40)).write (s.reg c) (b2n (s.laneHealthy (k - 0x40)))
    else if 0x40 ≤ k ∧ c % 0x10000 = 0x38 then s.latNow (k - 0x40)
    else s.reg c

/-- What a register or a twin reads as (R10, R19). -/
def State.regValue (s : State) (c : Nat) : Word :=
  match twinOf c with
  | some p => ~~~ (s.reg p)
  | none => s.liveReg c

/-- The 32-bit result registers (R22). -/
def resRegs : List Nat := [A.UPD_FCONF_RES, A.YARD_CHECK, A.EDGE_CHECK]

/-- Whether a canonical address is a 32-bit result register. -/
def isRes32 (c : Nat) : Bool :=
  resRegs.contains c || (A.ADC_CH_RES 0 ≤ c && c < A.ADC_CH_RES 8 && (c - A.ADC_CH_RES 0) % 32 = 0) || (A.AUX_TEL 0 ≤ c && c < A.AUX_TEL 16)

/-- Whether a canonical address is the first dword of a 64-bit result register or result FIFO (R23). -/
def isPairLo (c : Nat) : Bool :=
  c = A.EVT_LOG_LO || timeFifos.contains c || c = A.CME_CHECK_LO || (rxTopOf c).isSome

/-- A read of the dword at canonical address `c` of a register window by a master, alone or with the dword that follows it. -/
def State.readReg (s : State) (m : Master) (c : Nat) (wide : Bool) : State :=
  if c = A.EVT_LOG_LO then s.logPop m wide
  else if timeFifos.contains c then s.timePop m c wide
  else if c = A.CME_CHECK_LO then s.resPairRead m c wide
  else
    match rxTopOf c with
    | some n => s.rxTopRead n m wide
    | none =>
      if 4 ≤ c ∧ isPairLo (c - 4) then s.highRead m c (s.ctlLive c)
      else if isRes32 c then s.resRead c
      else
        let s := if c = A.SYS_CMD_STAT && s.portState = portBusy then (s.put F.SYS_CMD_STAT_PROGRESS (s.free 8)).drew else s
        let t := { s with readData := [s.regValue c] }
        if c = A.RTC_LOG_DATA 3 then t.logAdvance else t

/-- A read of a dword of the ADC result window (R265). -/
def State.readWindow (s : State) (m : Master) (a : Nat) (wide : Bool) : State :=
  match popPort a with
  | some k => s.adcPop k m wide
  | none =>
    if 0xE00000 ≤ a ∧ a < 0xE00040 then s.highRead m a (s.ctlLive a)
    else if 0xE00100 ≤ a ∧ a < 0xE001C0 then (if a % 8 = 0 then (s.latestMark a).resPairRead m a wide else (s.latestMark (a - 4)).highRead m a ((s.latestMark (a - 4)).ctlLive a))
    else { s with readData := if wide then [0#32, 0#32] else [0#32] }

/-- A read of a dword of a RAM or of the stall table; a poisoned word returns its stored data (R171, R333). -/
def State.readMem (s : State) (m : Master) (rams : Bool) (a : Nat) : State :=
  let t := { s with readData := [BitVec.ofNat 32 (s.load a 4)] }
  let cls := if rams then 2 else 3
  match t.flt.poisoned.find? (fun p => p.1 = cls && a < p.2 + 8 && p.2 < a + 4) with
  | none => t
  | some p => if rams then (t.cmeFault F.CME_FAULT_STAT_RAM_UE).err .engineUe (masterCode m) 0 p.2 else t.err .tableUe (masterCode m) 0 p.2

/-- A read of one dword, or where `wide` of a 64-bit group. -/
def State.readOne (s : State) (m : Master) (a : Nat) (wide : Bool) : State :=
  match regionOf a with
  | .regs => s.readReg m (canon a) wide
  | .table => s.readMem m false a
  | .rams => s.readMem m true a
  | .window => s.readWindow m a wide
  | .unmapped => { s.unmapped m 0 a with readData := [0xFFFFFFFF#32] }

/-- Whether a dword starts a pair that one 64-bit read serves whole (R23). -/
def isPair (a : Nat) : Bool :=
  match regionOf a with
  | .regs => isPairLo (canon a)
  | .window => (popPort a).isSome || (0xE00100 ≤ a && a < 0xE001C0 && a % 8 = 0)
  | _ => false

/-- Successive dwords read in ascending order, their data after `done`. DESIGN CHOICE, log 134. -/
def State.readList (s : State) (m : Master) (a : Nat) : Nat → List Word → State
  | 0, done => { s with readData := done }
  | n + 1, done =>
    let t := s.readOne m a false
    t.readList m (a + 4) n (done ++ t.readData)

/-- A read of `len` dwords from a BAR0 address (R10, R13, R15, R23): a 64-bit read of a pair returns it whole, and an unmapped read is one
fault. -/
def State.busRead (s : State) (m : Master) (a len : Nat) : State :=
  let a := a / 4 * 4
  if !s.answers m then { s with readData := [] }
  else if len = 2 ∧ a % 8 = 0 ∧ isPair a then s.readOne m a true
  else if regionOf a = .unmapped then { s.unmapped m 0 a with readData := List.replicate len 0xFFFFFFFF#32 }
  else s.readList m a len []

/-! ### What a write does to the fields of a register (R12, R16, R18) -/

/-- A counter field's new value: `n` plus the increment, saturating. -/
def cntSum (f : FieldSpec) (n : Nat) (inc : Word) : Word :=
  BitVec.ofNat 32 (min (n + (inc.toNat >>> f.lo) % 2 ^ f.len) (2 ^ f.len - 1)) <<< f.lo

/-- What a write of `v` through alias page `al` leaves in a field of a register that held `old`: `locked` is CFG_LOCK, `ok` the W1C
bits whose clear is accepted, `hw` what the hardware does in the same cycle (R12, R16, R18, R334). WS bits are left to the block.
DEDUCED, log 136. DEDUCED, log 141. -/
def fieldWrite (locked : Bool) (al : Nat) (v old ok : Word) (hw : SameCycle) (f : FieldSpec) : Word :=
  let m := f.mask
  match f.kind with
  | .rw => if locked && f.lockable then hw.rwUpd.getD old &&& m else aliasWord al old v &&& m
  | .w1c => ((if al = 0 then old &&& ~~~ (v &&& ok) else old) ||| hw.w1cSet) &&& m
  | .cnt => cntSum f ((if al = 0 then v.toNat else old.toNat) >>> f.lo % 2 ^ f.len) hw.cntInc
  | .ws => old &&& ~~~ hw.wsDone &&& m
  | .lk => (if al = 2 then old else old ||| v) &&& m
  | _ => old &&& m

/-- The register a write leaves. -/
def fieldsWrite (fs : List FieldSpec) (locked : Bool) (al : Nat) (v old ok : Word) (hw : SameCycle) : Word :=
  fs.foldl (fun w f => w ||| fieldWrite locked al v old ok hw f) 0#32

/-- A field that a write cannot change while CFG_LOCK is 1: a register of such fields alone ignores the write (R16). -/
def wholeLocked (f : FieldSpec) : Bool := f.kind = .ro || (f.kind = .rw && f.lockable)

/-- The bits of the W1C fields of a register. -/
def w1cMask (fs : List FieldSpec) : Word := fs.foldl (fun w f => if f.kind = .w1c then w ||| f.mask else w) 0#32

/-- What the hardware alone does to a field (R18). -/
def fieldHw (old : Word) (hw : SameCycle) (f : FieldSpec) : Word :=
  match f.kind with
  | .rw => hw.rwUpd.getD old &&& f.mask
  | .w1c => (old ||| hw.w1cSet) &&& f.mask
  | .cnt => cntSum f (old.toNat >>> f.lo % 2 ^ f.len) hw.cntInc
  | .ws => old &&& ~~~ hw.wsDone &&& f.mask
  | _ => old &&& f.mask

/-- What follows from W1C bits that the hardware sets in a register: a bit of FAULT_STAT[3:0] or UNMAPPED raises ACCESS_FAULT (R17), a bit of
RAW is an occurrence of its event (R335, R336). -/
def State.hwRaised (s : State) (c : Nat) (w : Word) : State :=
  let set := (w &&& w1cMask (fieldsAt c)).toNat
  if c % 0x10000 = 0x1C then (if set % 16 ≠ 0 ∨ (c = F.SYS_FAULT_STAT_UNMAPPED.reg ∧ set.testBit F.SYS_FAULT_STAT_UNMAPPED.lo) then s.raise Base.SYS 0 else s)
  else if c % 0x10000 = 0x10 then (bitIndices 16 set).foldl (fun t i => if i < evCount (baseOf c) then t.raise (baseOf c) i else t) s
  else s

/-- The hardware's part of a cycle whose write does not reach the register. -/
def State.hwOnly (s : State) (c : Nat) (hw : SameCycle) : State :=
  let t := if isBackupReg c then s.backupNote c else s
  (t.setReg c ((fieldsAt c).foldl (fun w f => w ||| fieldHw (s.reg c) hw f) 0#32)).hwRaised c hw.w1cSet

/-- Whether a write addresses a lockable field while CFG_LOCK is 1 (R16). DEDUCED, log 49. -/
def lockedHit (fs : List FieldSpec) (locked : Bool) (al : Nat) (v : Word) : Bool :=
  locked && fs.any (fun f => f.kind = .rw && f.lockable && (al = 0 || v &&& f.mask ≠ 0#32))

/-! ### Refused clears (R334) -/

/-- Whether a clear of W1C bit `i` of the register at `c` is accepted. -/
def State.clearOk (s : State) (c i : Nat) : Bool :=
  let o := c % 0x10000
  if o = 0x10 then true
  else
    match c / 0x10000 with
    | 0x03 => fltClearOk s c i
    | 0x04 => o ≠ 0x1C || secClearOk s i
    | 0x06 => pairClearOk s c i
    | 0x07 => o ≠ 0x1C || timeClearOk s i
    | 0x08 => o ≠ 0x1C || rtcClearOk s i
    | 0x09 => o ≠ 0x1C || ethClearOk s i
    | 0x0A => o ≠ 0x1C || canClearOk s 0 i
    | 0x0B => o ≠ 0x1C || canClearOk s 1 i
    | 0x0C => if o = 0x1C then adcClearOk s i else if c = A.ADC_CMP_TRIPPED then trippedClearOk s i else true
    | 0x0D => if o = 0x1C then thermClearOk s i else if c = A.THERM_FAILED then failedClearOk s i else true
    | 0x0E => auxClearOk s c i
    | 0x0F => gdrvClearOk s c i
    | 0x10 => pwmClearOk s c i
    | 0x11 => o ≠ 0x1C || safeClearOk s i
    | k => !(0x40 ≤ k && o = 0x1C && i = 4) || s.laneClearOk (k - 0x40)

/-- The counter of refused clears of the block at base `b`, where the block has one; the CAN controllers count them in ACCESS_ERR
(R243). -/
def clrRefused (b : Nat) : Option Fld :=
  match b / 0x10000 with
  | 0x00 | 0x01 | 0x02 | 0x05 | 0x12 | 0x13 | 0x14 | 0x15 => none
  | 0x0A | 0x0B => some (F.accessErr b)
  | 0x07 | 0x11 => some ⟨b + 0x20, 24, 8⟩
  | _ => some ⟨b + 0x20, 16, 16⟩

/-- Refused clears counted. -/
def State.countRefused (s : State) (b n : Nat) : State :=
  match clrRefused b with
  | some f => if n = 0 then s else s.cnt f n
  | none => s

/-- What an accepted clear of `bits` of the register at `c` brings about. -/
def State.clearedBits (s : State) (c : Nat) (bits : Word) : State :=
  if bits = 0#32 ∨ c % 0x10000 = 0x10 then s
  else
    match c / 0x10000 with
    | 0x03 => fltCleared s c bits.toNat
    | 0x0D => if c = A.THERM_FAILED then (bitIndices 16 bits.toNat).foldl State.thermReadmit s else if c % 0x10000 = 0x1C then s.thermCleared else s
    | 0x0F => gdrvCleared s c bits.toNat
    | 0x10 => pwmCleared s c bits.toNat
    | k => if 0x40 ≤ k ∧ c % 0x10000 = 0x1C ∧ bits.toNat.testBit 4 then s.laneCleared (k - 0x40) else s

/-! ### What a block does after a write of one of its registers -/

/-- CAN registers after a write: starts, and the checks of CTRL (R242–R247). -/
def State.canWritten (s : State) (n c : Nat) (old ws : Word) : State :=
  let o := c % 0x10000
  if o = 8 then s.canCtrlWritten n old ws
  else if c = A.CAN_TT_CFG n then (if (F.CAN_TT_CFG_TT_EN n).read old ≠ 0 && !s.on (F.CAN_TT_CFG_TT_EN n) then s.ttEnd n else s)
  else if c = A.CAN_TX_CANCEL n 0 then s.txCancel n ws.toNat none
  else if c = A.CAN_TX_CANCEL n 1 then s.txCancel n (ws.toNat * 2 ^ 32) none
  else s

/-- LANE_CTRL after a write that left `new` (R40, R102, R104, R105, R107, R111): `en` says that the write addressed EN. DEDUCED, log
133. DEDUCED, log 142. -/
def State.laneCtrlWritten (s : State) (n : Nat) (old : Word) (en : Bool) (ws : Word) : State :=
  let f := F.LANE_CTRL_RATE_SEL n
  let want := s.on (F.LANE_CTRL_EN n)
  let rate := s.get f
  let s := s.put (F.LANE_CTRL_EN n) (b2n (old.toNat.testBit 0))
  let s :=
    if n < 48 && s.running && rate ≠ f.read old && decide (laneLimit s.halfUs (decide (rate = 1)) < (s.onLane n).length) then
      (s.put f (f.read old)).adaptRefused n
    else s
  let s :=
    if !en then s
    else if want then s.laneWake n
    else if old.toNat.testBit 0 then (if s.parkRefused n then s.refusePark n else s.lanePark n)
    else s
  let s := if ws.toNat.testBit 1 then s.laneAdapt n else s
  let s := if ws.toNat.testBit 2 then s.laneEqWrite n else s
  if ws.toNat.testBit 3 then s.laneLastClear n else s

/-- ADC registers after a write (R256, R257, R260, R262). -/
def State.adcWritten (s : State) (c : Nat) (old ws : Word) : State :=
  if c = 0xC0008 then s.adcCtrlWritten old
  else if 0xC1000 ≤ c ∧ c < 0xC1100 then
    let k := (c - 0xC1000) / 32
    if c = A.ADC_CH_CFG k then s.adcCfgWritten k old
    else if c = 0xC1004 + 32 * k then (if ws.toNat.testBit 31 then s.adcStart k else s).startCont k
    else s
  else s

/-- AUX_CTRL and the W1C bits of the groups and loops after a write (R281, R283, R285, R287). -/
def State.auxWritten (s : State) (c : Nat) (ws : Word) : State :=
  let v := ws.toNat
  if c = 0xE0008 then (if v.testBit 8 then s.peakClr else s)
  else
    let s := (List.range 2).foldl (fun (t : State) g =>
      if c = A.AUX_GRP_FAULT g then
        let t := t.readmit g (bits v 10 8) (bits v 13 11)
        if v.testBit 4 && t.on (F.AUX_GRP_FAULT_LATCH g) then t.groupUnlatch g else t
      else t) s
    (List.range 2).foldl (fun (t : State) x =>
      if c = A.AUX_LOOP_FAULT x && v.testBit 6 && t.on (F.AUX_LOOP_FAULT_LATCH x) then t.loopUnlatch x else t) s

/-- W1C bits that a block clears itself, by rules of its own (R281, R283, R285). -/
def ownBits (c : Nat) : Word :=
  if c = A.AUX_GRP_FAULT 0 ∨ c = A.AUX_GRP_FAULT 1 then 0x3F10#32
  else if c = A.AUX_LOOP_FAULT 0 ∨ c = A.AUX_LOOP_FAULT 1 then 0x40#32
  else 0#32

/-- YARD_CTRL: CHECK, START and STOP act in that order (R48). DESIGN CHOICE, log 203. -/
def State.yardStarts (s : State) (ws : Word) : State :=
  let s := if ws.toNat.testBit 0 then s.checkWrite else s
  let s := if ws.toNat.testBit 1 then s.startWrite else s
  if ws.toNat.testBit 2 then s.stopWrite else s

/-- CME registers after a write (R180, R184, R185): `halt` says that the write addressed HALT. DEDUCED, log 70. -/
def State.cmeWritten (s : State) (c : Nat) (halt : Bool) (ws : Word) : State :=
  if c = 0x150008 then (if ws.toNat.testBit 0 then s.progCheckWrite else s)
  else if c = A.CME_ENTRY then s.progWritten
  else if c = A.CME_PRESET then s.presetAsk (ws.toNat % 64)
  else if c = A.CME_DBG then
    let s := if s.on F.CME_DBG_HALT then s.haltNow else if halt then s.debugRelease else s
    if ws.toNat.testBit 1 then s.debugStep else s
  else s

/-- What a block does after a write of its register at `c`: `before` is the state in the cycle of the write, `v` the value written, `al` the
alias page. -/
def State.written (before s : State) (c al : Nat) (v : Word) : State :=
  let old := before.reg c
  let ws := if al = 0 then v else 0#32
  match c / 0x10000 with
  | 0x01 => hostPostWrite s
  | 0x02 => evtPostWrite before s c ws.toNat
  | 0x03 => if c = F.FLT_CTRL_CAP_CLR.reg && ws.toNat.testBit 0 then s.capClr else s
  | 0x05 =>
    if c = F.UPD_CTRL_CONFIRM.reg then
      let s := if ws.toNat.testBit 0 then s.confirm true else s
      if ws.toNat.testBit 1 then s.pendingDiscard else s
    else s
  | 0x07 =>
    if c = F.TIME_CTRL_SNAP.reg then timeCtrlWrite s ws.toNat
    else if c = F.TIME_DOMCFG_DOMAIN_A.reg then
      let numbers (f : Fld) : Bool := !s.on (F.cfgLock Base.TIME) && (decide (al = 0) || decide (f.read v ≠ 0))
      s.domcfgWritten (numbers F.TIME_DOMCFG_DOMAIN_A) (numbers F.TIME_DOMCFG_DOMAIN_B)
    else if A.TIME_CMP_CFG 0 ≤ c ∧ c < A.TIME_CMP_CFG 8 ∧ c % 16 ≤ 4 then
      s.cmpWritten ((c - A.TIME_CMP_CFG 0) / 16)
    else s
  | 0x09 => if c = F.ETH_CTRL_E12_EN.reg then s.ethCtrlWritten old else s
  | 0x0A => s.canWritten 0 c old ws
  | 0x0B => s.canWritten 1 c old ws
  | 0x0C => s.adcWritten c old ws
  | 0x0D => if c = F.THERM_CTRL_FORCE_LVL.reg then s.throttle else s
  | 0x0E => s.auxWritten c ws
  | 0x10 =>
    if c = F.PWM_CTRL_COMMIT.reg then s.put F.PWM_CTRL_COMMIT (s.get F.PWM_CTRL_COMMIT ||| ws.toNat % 65536) else (pwmPostWrite s c).pwmScan
  | 0x11 => if c = F.SAFE_CTRL_HALT_REQ.reg then s.safeCtrlWrite ws.toNat else if c = A.SAFE_SO_CMD then s.enforce else s
  | 0x12 => if c = F.YARD_CTRL_CHECK.reg then s.yardStarts ws else s
  | 0x13 => if c = F.EDGE_CTRL_COMMIT.reg && ws.toNat.testBit 0 then s.edgeCommit else s
  | 0x14 => if s.running then s else s.balSample
  | 0x15 => s.cmeWritten c (decide (al = 0) || v.toNat.testBit 0) ws
  | k =>
    if 0x40 ≤ k ∧ c % 0x10000 = 8 then s.laneCtrlWritten (k - 0x40) old (decide (al = 0) || v.toNat.testBit 0) ws else s

/-! ### Writes that a rule turns away or takes another way -/

/-- A yard description register (R51): YARD_ARMa or YARD_FSs. -/
def isDesc (c : Nat) : Bool := (A.YARD_ARM 0 ≤ c && c < A.YARD_ARM 6) || (A.YARD_FS 0 ≤ c && c < A.YARD_FS 16)

/-- A register of the command port that is refused while the port is not IDLE (R30). -/
def isPortReg (c : Nat) : Bool :=
  c = A.SYS_CMD || (A.SYS_CMD_ARG 0 ≤ c && c < A.SYS_CMD_ARG 8) || (A.SYS_CMD_DATA 0 ≤ c && c < A.SYS_CMD_DATA 256)

/-- A register of AUX that a freeze holds back (R286). -/
def isAuxHeld (c : Nat) : Bool := c = A.AUX_SYNC || c = A.AUX_PHASE || c = A.AUX_GRP_LIM 0 || c = A.AUX_GRP_LIM 1

/-- A write by master `m` that is turned away before it reaches the fields, or that a rule of its own serves whole. DEDUCED, log 140. -/
def State.diverted (s : State) (m : Master) (a c : Nat) (v : Word) : Option State :=
  match c / 0x10000 with
  | 0x00 =>
    if isPortReg c && (s.portState ≠ portIdle || s.portEnding) then some s.cmdRefuse
    else if c = A.SYS_CMD && aliasOf a = 0 then some (s.cmdWrite m v.toNat)
    else none
  | 0x0A | 0x0B =>
    let n := c / 0x10000 - 0x0A
    if 0x1000 ≤ c % 0x10000 && !s.queueOwner n m then some (s.notOwner n)
    else if isBitTiming n c && s.on (F.CAN_CTRL_EN n) then some (s.put (F.CAN_FAULT_STAT_CFG_DROP n) 1).noteDrop
    else if c = A.CAN_TX_PUSH n && aliasOf a = 0 then some (s.txPush n v)
    else none
  | 0x0C => if tableAddr c then some (s.tableWriteBy m a v) else none
  | 0x12 => if (isDesc c || c = F.YARD_WARMUP_W_UP.reg) && s.running then some s.descDrop else none
  | 0x15 => if c = A.CME_ENTRY && s.running then some s.ramDrop else none
  | k => if 0x40 ≤ k && tableAddr c then some (s.tableWriteBy m a v) else none

/-- The new dword of a register takes its place: through the synchroniser of the backup domain, or the hold of a freeze, where the register
has one (R225, R286). -/
def State.placeReg (s : State) (c : Nat) (new : Word) (hw : SameCycle) : State :=
  if isBackupReg c then (s.hwOnly c hw).backupPut c new else if isAuxHeld c then s.auxWrite c new else s.setReg c new

/-- A write of pending bits meets the deliveries of its fabric cycle: the bits they set stay set (R18, R336). -/
def State.pendFresh (s : State) (c : Nat) (hw : SameCycle) : SameCycle :=
  if s.evt.setAt ≠ s.cycleNo then hw
  else
    let bits := s.evt.setBits.foldl (fun (m : Nat) p => if p.1 = c then setBit m p.2 else m) 0
    { hw with w1cSet := hw.w1cSet ||| BitVec.ofNat 32 bits }

/-- Whether a register's word lies in the working memory of EDGE, BAL or a lane (R328). -/
def workBlock (a : Nat) : Bool := (decide (0x130000 ≤ a) && decide (a < 0x150000)) || (decide (0x400000 ≤ a) && decide (a < 0x720000))

/-- A full 32-bit write of `v` to the unguarded register at window address `a` (R10, R12, R16, R18, R334); of a table register it wins over
CAL_SWEEP's of the same cycle (R267). -/
def State.writeReg (s : State) (m : Master) (a : Nat) (v : Word) (hw0 : SameCycle) : State :=
  let c := canon a
  let hw := s.pendFresh c hw0
  let al := aliasOf a
  let wins := tableAddr c && !s.tableDrops m && !s.tableHolds m
  match (if wins then s else s.hwOnly c hw).diverted m a c v with
  | some t => t
  | none =>
    let fs := fieldsAt c
    let b := baseOf a
    let locked := s.on (F.cfgLock b)
    let old := if isAuxHeld c then s.heldImage c else s.reg c
    let hit := if al = 0 then v &&& old &&& w1cMask fs &&& ~~~ (ownBits c) else 0#32
    let okBits := (bitIndices 32 hit.toNat).filter (fun i => s.clearOk c i)
    let ok := BitVec.ofNat 32 (okBits.foldl (fun n i => setBit n i) 0)
    let refused := (bitIndices 32 hit.toNat).filter (fun i => !s.clearOk c i && !hw.w1cSet.toNat.testBit i)
    let t := (s.placeReg c (fieldsWrite fs locked al v old ok hw) hw).hwRaised c hw.w1cSet
    let t := t.countRefused b refused.length
    let t := if workBlock c then t.unpoison (c / 8 * 8) 8 else t
    let lk := lockedHit fs locked al v
    let t := if lk then t.accessFault b .lockedWr (masterCode m) (accCode a) a else t
    let t := if isDesc c && !lk then t.descAccepted else t
    let t := t.clearedBits c (ok &&& ~~~ hw.w1cSet)
    if lk && fs.all wholeLocked then t else State.written s t c al (v &&& ~~~ (hw.w1cSet &&& ownBits c))

/-! ### Guarded registers (R19, R20) -/

/-- A committed guarded register and what its block does with it. -/
def State.commit (s : State) (m : Master) (c : Nat) (v : Word) : State :=
  let w := v &&& definedMask c
  let s' := s.setReg c w
  if c = A.SYS_RESTART then (if v.toNat.testBit 0 then s.restartAsk else s)
  else if c = A.UPD_FCONF then s'.fconfStart v none false
  else if c = A.PAIR_CFG then s.pairCommit w
  else if c = A.RTC_CMD then s.backupPut c w
  else if c = A.YARD_CFG ∨ c = A.YARD_PERIOD then (if s.running then s.descDrop else s'.descAccepted)
  else if c = A.BAL_ARM_RESET then s'.armResetAsk (w.toNat)
  else if c = A.CME_DBG_CTRL then (if w.toNat.testBit 0 then s'.haltNow else s'.debugRelease)
  else if c = A.CME_ARM_RESTORE then s'.restoreAsk w.toNat
  else if 0xE1000 ≤ c ∧ c < 0xE3000 then s.auxCommit c w
  else if (pendBit c).isSome ∨ (A.ADC_CMP 0 ≤ c ∧ c < A.ADC_CMP 12) then s.fenceCommit m c v
  else if c = A.SAFE_RESET then (if v.toNat.testBit 0 then s.lockReset true true else s)
  else s'

/-- The guard sequencer of window `k`. -/
def State.guard (s : State) (k : Nat) : Guard := KMap.get (fun _ => {}) s.guards k

/-- A guard sequencer replaced. -/
def State.setGuard (s : State) (k : Nat) (g : Guard) : State := { s with guards := KMap.set (fun _ => {}) s.guards k g }

/-- A failed guard sequence: `p` is its primary (R20, R328). -/
def State.guardFail (s : State) (m access p : Nat) : State := s.accessFault (baseOf p) .guardFail m access p

/-- A write as it arrives at a register window: its address and its one or two dwords with their byte enables. -/
structure BusWrite where
  m : Master
  a : Nat
  words : List (Word × BitVec 4)
  deriving DecidableEq, Repr

/-- Whether a write of a register window is one that R15 accepts. DEDUCED, log 137. -/
def BusWrite.sizeOk (w : BusWrite) : Bool :=
  w.words.all (fun x => x.2 = 0xF#4) && (w.words.length = 1 || (w.words.length = 2 && w.a % 8 = 0))

/-- The canonical addresses a write touches. -/
def BusWrite.touches (w : BusWrite) : List Nat := (List.range w.words.length).map (fun i => canon (w.a + 4 * i))

/-- The value of the first dword. -/
def BusWrite.value (w : BusWrite) : Word := (w.words.getD 0 (0#32, 0#4)).1

/-- The hardware's part of the cycle of a write that reaches no register, in each register it addresses. -/
def State.hwBoth (s : State) (w : BusWrite) (hw : SameCycle) : State :=
  let t := s.hwOnly (canon w.a) hw
  if w.words.length = 2 then t.hwOnly (canon (w.a + 4)) hw.second else t

/-- A write in IDLE (R12, R15, R19, R20); one that TABLE_LOCK drops is one drop whatever its
size (R366), one that reaches two refused command-port registers two refusals (R30). DESIGN CHOICE, log 200. -/
def State.writeIdle (s : State) (w : BusWrite) (hw : SameCycle) : State :=
  let c := canon w.a
  let b := baseOf w.a
  let mc := masterCode w.m
  let grd := w.touches.any (fun x => isGuarded x || (twinOf x).isSome)
  if !w.sizeOk || (w.words.length = 2 && grd) then (s.hwBoth w hw).accessFault b .sizeErr mc (accCode w.a) w.a
  else if grd && aliasOf w.a ≠ 0 then s.accessFault b .aliasGrd mc (accCode w.a) w.a
  else
    match twinOf c with
    | some p => s.guardFail mc 5 p
    | none =>
      if isGuarded c then s.setGuard (w.a / 0x10000) { s.guard (w.a / 0x10000) with st := .armed w.m c w.value s.now }
      else
        let t := s.writeReg w.m w.a w.value hw
        match w.words with
        | [_, x] =>
          if tableAddr c && tableAddr (canon (w.a + 4)) && s.tableDrops w.m then t.hwOnly (canon (w.a + 4)) hw.second
          else t.writeReg w.m (w.a + 4) x.1 hw.second
        | _ => t

/-- Whether a write commits the sequence that holds `v` for the primary `p` (R20). -/
def BusWrite.commits (w : BusWrite) (p : Nat) (v : Word) : Bool :=
  w.sizeOk && w.words.length = 1 && aliasOf w.a = 0 && twinOf (canon w.a) = some p && w.value = ~~~ v

/-- A write judged by its block's guard sequencer, held writes left where they are (R20). DEDUCED, log 138. -/
def State.judgeWrite (s : State) (w : BusWrite) (hw : SameCycle) : State :=
  let k := w.a / 0x10000
  let g := s.guard k
  match g.st with
  | .idle => s.writeIdle w hw
  | .armed m p v _ =>
    let s := s.hwBoth w hw
    if busMaster w.m ≠ busMaster m then
      s.setGuard k { g with held := g.held ++ [⟨w.m, .bar0 (BitVec.ofNat 24 w.a), w.words⟩] }
    else
      let s := s.setGuard k { g with st := .idle }
      if w.commits p v then s.commit m p v else s.guardFail (masterCode w.m) (accCode w.a) p

/-- A held write as it arrived. -/
def heldWrite (w : WriteReq) : BusWrite :=
  match w.target with
  | .bar0 a => ⟨w.master, a.toNat, w.words⟩
  | .svPending _ => ⟨w.master, 0, w.words⟩

/-- Once a block has left ARMED, the writes it held back are judged in arrival order, one in each of the fabric cycles that follow (R20). -/
def State.releaseHeld (s : State) (k : Nat) : State :=
  let g := s.guard k
  match g.st with
  | .armed _ _ _ _ => s
  | .idle => g.held.foldl (fun t w => (t.advance cyc).judgeWrite (heldWrite w) {}) (s.setGuard k { g with held := [] })

/-- A block whose timer has reached 1,024 cycles has left ARMED: the sequence has failed and the writes held back have been judged
(R20). -/
def State.guardExpire (s : State) (k : Nat) : State :=
  match (s.guard k).st with
  | .armed m p _ t0 =>
    if t0 + 1024 * cyc ≤ s.now then ((s.setGuard k { s.guard k with st := .idle }).guardFail (masterCode m) 15 p).releaseHeld k else s
  | .idle => s

/-- A write to a register window. -/
def State.writeWindow (s : State) (w : BusWrite) (hw : SameCycle) : State :=
  ((s.guardExpire (w.a / 0x10000)).judgeWrite w hw).releaseHeld (w.a / 0x10000)

/-! ### Writes of any length (R10, R14, R15) -/

/-- Successive dwords of a write to register windows, in ascending address order, one fabric cycle each (R15); the hardware's part belongs to
the first. -/
def State.writeEach (s : State) (m : Master) (a : Nat) (hw : SameCycle) : List (Word × BitVec 4) → State
  | [] => s
  | x :: rest =>
    let t := if regionOf a = .regs then s.writeWindow ⟨m, a, [x]⟩ hw else s.unmapped m 1 a
    (if rest.isEmpty then t else t.advance cyc).writeEach m (a + 4) {} rest

/-- A write by master `m` from BAR0 address `a` (R10, R14, R15). -/
def State.busWrite (s : State) (m : Master) (a : Nat) (words : List (Word × BitVec 4)) (hw : SameCycle) : State :=
  let a := a / 4 * 4
  if !s.answers m then s
  else
  match regionOf a with
  | .table => s.tableWrite a hw (words.take ((0x8C0000 - a) / 4))
  | .rams => s.ramWrite a words
  | .window => s.windowWrite
  | .unmapped => (s.unmapped m (if a < 0x800000 then accCode a else 1) a).noteDrop
  | .regs => if words.length = 2 then s.writeWindow ⟨m, a, words⟩ hw else s.writeEach m a hw words

/-- A supervisor's W1C write to word `q` of its own pending set (R338). -/
def State.svPendingWrite (s : State) (q : Nat) (v : Word) (hw : SameCycle) : State :=
  let hw := s.pendFresh (A.EVT_SPEND q) hw
  s.setReg (A.EVT_SPEND q) ((s.reg (A.EVT_SPEND q) &&& ~~~ v) ||| hw.w1cSet)

/-- A write request (R12–R20, R338). DEDUCED, log 147. -/
def State.write (s : State) (w : WriteReq) (hw : SameCycle) : State :=
  match w.target with
  | .bar0 a => s.busWrite w.master a.toNat w.words hw
  | .svPending q =>
    match w.words with
    | (v, _) :: _ => if w.master = .host then s else s.svPendingWrite q.val v hw
    | [] => s

end Sys2Proof.Machine
end

