-- ==== Sys2Proof/Machine/Startup.lean ====
section
/-! DEFINITION. Power-up, resets, the service button, the front lights, the loss of the root clock and the tamper input (R226, R311,
R386–R394). -/

namespace Sys2Proof.Machine

open Sys2Proof

/-- The reset machinery replaced. -/
def State.withRst (s : State) (r : ResetSt) : State := { s with rst := r }

/-! ### Module reset (R362, R389, R390, R394) -/

/-- Register fields a module reset keeps: what FRAM, the tack store and the backup domain hold, and contacts that stay as they are
(R223, R226, R343, R348, R362, R405 of 09). -/
def keptFields : List Fld :=
  [F.SYS_STAT_BOOT_BANK, F.UPD_STAT_STAGED, F.UPD_STAT_STAGED_BANK, F.UPD_STAT_PREV_BANK, F.UPD_STAT_TRIAL,
   F.SEC_STAT_OWNER_STATE, F.SEC_STAT_IDENT_ERASED, F.SEC_POLICY, F.SEC_OWNER_ID, F.SEC_RESERVED, F.SEC_KEYS_STATION, F.SEC_KEYS_SLOT,
   F.RTC_STAT_VBAK, F.RTC_STAT_TAMPER_IN, F.RTC_STAT_BACKUP_OK, F.RTC_STAT_CAL_VALID, F.RTC_FAULT_STAT_TAMPER, F.RTC_LOG_IDX_HEAD,
   F.SAFE_IN_RST_CLOSED] ++ (List.range 6).map F.SEC_ROLLBACK

/-- The state module reset leaves: every block at its reset values, but for what FRAM, flash, the tack store and the backup domain
hold and for what lies outside the module. Indices left in the current block are given up (R348). DEDUCED, log 130. -/
def State.resetKeep (s : State) : State :=
  let lost := match s.tack.block with
    | some (b, next) => 64 * (b + 1) - next
    | none => 0
  let t : State := { pending := s.pending, now := s.now, out := s.out, freeIx := s.freeIx, flash := s.flash
                     rtc := { s.rtc with inflight := none }
                     eth := { lastSeq := s.eth.lastSeq }
                     host := { perstAt := s.host.perstAt }
                     cme := { healthOld := (s.cme.health ++ s.cme.healthOld).take 65536 }
                     aux := { busMv := s.aux.busMv }
                     tripIn := s.tripIn.map (fun p => (p.1, { p.2 with inBlank := false }))
                     safe := { closedA := s.safe.closedA, closedB := s.safe.closedB, rstAt := s.safe.rstAt }
                     tack := { ownerKeys := s.tack.ownerKeys, stations := s.tack.stations, current := s.tack.current
                               spare := s.tack.spare, level1 := s.tack.level1, tamperPend := s.tack.tamperPend
                               unused := s.tack.unused + lost }
                     rst := s.rst }
  let t := backupRegs.foldl (fun (t : State) a => t.setReg a (s.reg a)) t
  keptFields.foldl (fun (t : State) f => t.put f (s.get f)) t

/-- Module reset asserts (R389, R390). -/
def State.resetAssert (s : State) : State :=
  s.resetKeep.withRst { s.rst with asserted := true, preAt := none, preHalt := false, at0 := s.now }

/-- Form 1 of the pre-reset phase: the partner keeps the yard (R390). -/
def State.quietReset (s : State) : Bool := s.pairState = prLinked && s.on F.PAIR_CFG_WITHDRAW_EN && s.partnerServes

/-- A module reset is requested by the source of bit `cause` of SYS_RESET_CAUSE: the pre-reset phase begins, or the request merges
with the one in hand (R389, R390). DEDUCED, log 131. -/
def State.resetAsk (s : State) (cause : Nat) : State :=
  let s := s.withRst { s.rst with causes := setBit s.rst.causes cause }
  if s.rst.asserted || s.rst.preAt.isSome then s
  else
    let quiet := s.quietReset
    let s := s.withRst { s.rst with preAt := some s.now, preHalt := !quiet }
    (if quiet then s.withdrawNow else s).enforce

/-- MODULE_RESET (R390): the pre-reset phase of 3 µs ends. -/
def execModuleReset (s : State) : Host.Outcome State Fault Refusal :=
  match s.rst.preAt with
  | some t => .next (s.until (t + 3 * us)).resetAssert
  | none => .next s

/-- What the release of module reset finds and does: SLOT_ID[0] is the member number (R311, R317, R362, R368, R386, R391, R394). DEDUCED, log 128. -/
def State.resetRelease (s : State) (pairPresent : Bool) (slot : Nat) : State :=
  let r := s.rst
  let t := s.resetKeep
  let t := (((t.put F.SYS_SLOT_PAIR_PRESENT (b2n pairPresent)).put F.SYS_SLOT_SLOT_ID slot).put F.PAIR_STAT_MEMBER (slot % 2)).setReg
    A.SYS_RESET_CAUSE (BitVec.ofNat 32 (r.causes % 16))
  let t := t.withRst { button := if r.closed then .stuck none else .open, closed := r.closed, releasedAt := s.now }
  let t := if t.on F.SAFE_IN_RST_CLOSED then t.put F.SAFE_STAT_RST_IN 2 else t
  let t := if t.on F.UPD_STAT_TRIAL then t.trialFail.raise Base.UPD 3 else t
  let t := if t.rtc.tamperPend then (t.withRtc { t.rtc with tamperPend := false }).raise Base.RTC 1 else t
  let t := t.judgeBackup
  if r.fromOff && !t.on F.RTC_STAT_CAL_VALID then t.raise Base.RTC 3 else t

/-- MODULE_RESET_RELEASE (R386, R389): power is present, MRST_N is high, and after a press of the service button 2 ms have passed. -/
def execModuleResetRelease (pairPresent : Bool) (slot : BitVec 6) (s : State) : Host.Outcome State Fault Refusal :=
  if s.rst.asserted && !s.rst.off && !s.rst.mrstLow then
    let s := if s.rst.causes.testBit 2 then s.until (s.rst.at0 + 2 * ms) else s
    .next (s.resetRelease pairPresent slot.toNat)
  else .next s

/-- POWER_ON (R386, R389): a feed is back after the 12 V bus had fallen as low as `lowestMv`; power-on reset is held. -/
def execPowerOn (lowestMv : Nat) (s : State) : Host.Outcome State Fault Refusal :=
  if s.rst.off then
    let s := if s.rst.asserted then s else s.resetAssert
    let r := s.rst
    let s := s.setBus 54000
    .next (s.withRst { r with off := false, fromOff := true, causes := if lowestMv < 1000 then setBit r.causes 0 else r.causes })
  else .next s

/-- BUS_12V_LOW (R278, R389): the 12 V bus falls below 10.8 V. -/
def execBus12vLow (mv : Nat) (s : State) : Host.Outcome State Fault Refusal :=
  if mv < 10800 then
    let s := s.resetAsk 3
    .next (s.withRst { s.rst with off := true })
  else .next s

/-- RESET_INPUT_ASSERT (R389): MRST_N has been low for 10 µs. -/
def execResetInputAssert (s : State) : Host.Outcome State Fault Refusal :=
  if s.rst.mrstLow then .next s
  else
    let s := s.resetAsk 1
    .next (s.withRst { s.rst with mrstLow := true })

/-- RESET_INPUT_RELEASE (R389): MRST_N has been high for 10 µs. -/
def execResetInputRelease (s : State) : Host.Outcome State Fault Refusal := .next (s.withRst { s.rst with mrstLow := false })

/-! ### The service button (R391) -/

/-- The button replaced. -/
def State.setButton (s : State) (b : Button) (closed : Bool) : State := s.withRst { s.rst with button := b, closed := closed }

/-- SERVICE_BUTTON_CHANGE (R391): the button closes, or opens `afterMs` after it closed; in reset it is ignored. -/
def execServiceButtonChange (closed : Bool) (afterMs : Nat) (s : State) : Host.Outcome State Fault Refusal :=
  if s.rst.asserted then .next (s.setButton s.rst.button closed)
  else if closed then
    match s.rst.button with
    | .open => .next (s.setButton (.pressed s.now) true)
    | .stuck _ => .next (s.setButton (.stuck none) true)
    | .pressed _ => .next s
    | .held _ => .next s
  else
    match s.rst.button with
    | .open => .next s
    | .pressed t =>
      let s := (s.until (t + afterMs * ms)).setButton .open false
      .next (if t + 2 * sec ≤ s.now ∧ s.now < t + 10 * sec then s.resetAsk 2 else s)
    | .held t => .next ((s.until (t + afterMs * ms)).setButton .open false)
    | .stuck (some _) => .next s
    | .stuck none => .next (s.setButton (.stuck (some s.now)) false)

/-- The supervisor, where it runs, writes a record of type `typ` to the retained log (R227, R391). -/
def State.svRecord (s : State) (typ : Nat) : State := if s.on F.SYS_STAT_SVR_UP then s.rtcRecord typ else s

/-- SERVICE_BUTTON_HELD (R391). -/
def execServiceButtonHeld (s : State) : Host.Outcome State Fault Refusal :=
  match s.rst.button with
  | .pressed t => .next (((s.until (t + 10 * sec)).setButton (.held t) true).svRecord 0x81)
  | _ => .next s

/-- SERVICE_BUTTON_STUCK (R391). -/
def execServiceButtonStuck (s : State) : Host.Outcome State Fault Refusal :=
  match s.rst.button with
  | .held t => .next (((s.until (t + 60 * sec)).setButton (.stuck none) true).svRecord 0x82)
  | _ => .next s

/-- SERVICE_BUTTON_UNSTICK (R391). -/
def execServiceButtonUnstick (s : State) : Host.Outcome State Fault Refusal :=
  match s.rst.button with
  | .stuck (some t) => .next ((s.until (t + sec)).setButton .open false)
  | _ => .next s

/-! ### The root clock (R143, R311, R388) -/

/-- FABRIC_CLOCK_LOSS (R143, R311): the root PLL has lost lock; every time base stands still, the power section freezes and the fence
trips with cause CLOCK_LOSS. -/
def execFabricClockLoss (s : State) : Host.Outcome State Fault Refusal :=
  if s.time.stopped then .next s
  else
    let t := { s with time := { s.time with stopped := true } }
    .next ((t.trip ⟨1, 0x0E, 0, allOutputs⟩).enforce.pwmHaltUpdate)

/-- ROOT_PLL_RELOCK (R388): the endpoint is reset, the time bases resume, the CTB is FREE and ALIGNED clear; the groups
relock (R286), and the first telemetry windows are discarded (R287). -/
def execRootPllRelock (s : State) : Host.Outcome State Fault Refusal :=
  if !s.time.stopped then .next s
  else
    let s := { s with time := { s.time with stopped := false, relocks := s.time.relocks + 1, y := 0 }, aux := { s.aux with telDiscard := [true, true] } }
    let s := (((s.put F.TIME_STAT_CTB_STATE ctbFree).put F.TIME_STAT_SRC_ACT 3).put F.TIME_STAT_ALIGNED 0).setReg A.TIME_CTB_RATE 0 |>.pcieReset true
    .next (((s.relock 0).relock 1).enforce.pwmHaltUpdate)

/-! ### The tamper input (R226) -/

/-- The tamper input has become active with TAMPER_EN = 1 (R226, R344). -/
def State.tamperSignal (s : State) : State :=
  let s := s.put F.RTC_FAULT_STAT_TAMPER 1
  let s := (s.setReg A.RTC_TAMPER_TS (BitVec.ofNat 32 s.calSec)).setReg A.RTC_TAMPER_TSHI (BitVec.ofNat 32 s.calHi)
  let s := s.rtcRecord 1
  let s := if s.rst.off || s.rst.asserted then s.withRtc { s.rtc with tamperPend := true } else s.raise Base.RTC 1
  if s.rst.off then s.withTack { s.tack with tamperPend := true } else s.tamperAct

/-- The tamper input is active with TAMPER_EN = 1, while the backup domain runs (R226). -/
def State.tamperOn (s : State) : Bool := s.rtc.running && s.on F.RTC_CTRL_TAMPER_EN && s.on F.RTC_STAT_TAMPER_IN

/-- TAMPER_IN follows the contact by TAMPER_POL, 0: open is active, 1: closed is active; the active level signals where it did not stand in
`before` (R226). DEDUCED, log 179. -/
def State.tamperJudge (before s : State) : State :=
  if !s.rtc.running then s
  else
    let s := s.put F.RTC_STAT_TAMPER_IN (b2n (s.rtc.tamperOpen ≠ s.on F.RTC_CTRL_TAMPER_POL))
    if s.tamperOn && !before.tamperOn then s.tamperSignal else s

/-- The contact of the tamper input, in 3 consistent samples, stands at the level TAMPER_POL calls active, or at the other. -/
def State.tamperLevel (s : State) (active : Bool) : State := s.withRtc { s.rtc with tamperOpen := active ≠ s.on F.RTC_CTRL_TAMPER_POL }

/-- TAMPER_INPUT (R226): active in 3 consistent samples. -/
def execTamperInput (s : State) : Host.Outcome State Fault Refusal := .next (State.tamperJudge s (s.tamperLevel true))

/-- TAMPER_INPUT_RELEASE (R226): inactive in 3 consistent samples. -/
def execTamperInputRelease (s : State) : Host.Outcome State Fault Refusal := .next (State.tamperJudge s (s.tamperLevel false))

/-- BACKUP_WRITE_DONE (R225, R226): a write of RTC_CTRL may enable the tamper input while it is active, or change its active level. -/
def execBackupWriteDone (s : State) : Host.Outcome State Fault Refusal := .next (State.tamperJudge s s.backupDone)

/-- BACKUP_START (R223, R226): a stopped backup domain starts with the supercapacitor at 1.6 V or above. -/
def execBackupStart (mv : Nat) (s : State) : Host.Outcome State Fault Refusal :=
  .next (if !s.rtc.running && decide (1600 ≤ mv) then State.tamperJudge s (s.backupStart mv) else s)

/-! ### The front lights (R392) -/

/-- What a light shows. -/
inductive Light where
  | dark | green | greenFlashing | amber | amberFlashing | red | redFlashing | redFast
  deriving DecidableEq, Repr

/-- A feed is LOW or FULL (R276). -/
def State.feedUsed (s : State) (f : Fld) : Bool := s.get f = 1 || s.get f = 2

/-- PWR. -/
def State.lightPwr (s : State) : Light :=
  if s.rst.asserted || s.time.stopped then .redFlashing
  else if s.on F.AUX_STAT_HOLDUP then .amber
  else match s.feedUsed F.AUX_STAT_FEED2, s.feedUsed F.AUX_STAT_FEED3 with
    | true, true => .green
    | false, false => .dark
    | _, _ => .greenFlashing

/-- SAFE. DEDUCED, log 132. -/
def State.lightSafe (s : State) : Light :=
  if 2 ≤ s.get F.SAFE_STAT_RST_IN then .redFast
  else if s.safeState = safeTest then .redFlashing
  else if s.safeState = safeLockout then .red
  else if s.safeState = safeCstop then .amber
  else .green

/-- YARD. -/
def State.lightYard (s : State) : Light :=
  if s.on F.CME_STAT_DEGRADED || s.bal.arm.any (fun a => a.2.st = 3) then .amberFlashing
  else if s.yardState = yardStopping then .amber
  else if s.yardState = yardRun then (if s.on F.YARD_WARMUP_WU_LEFT then .greenFlashing else .green)
  else .dark

/-- PAIR. -/
def State.lightPair (s : State) : Light :=
  if s.on F.PAIR_FAULT_STAT_SPLIT || s.on F.PAIR_FAULT_STAT_CFG_BAD || s.on F.PAIR_STAT_WITHDRAWN then .red
  else if s.pairState = prSearching || s.pairState = prLost then .amber
  else if s.pairState = prLinked then (if s.on F.PAIR_STAT_LEAD then .green else .greenFlashing)
  else .dark

/-- SVC. -/
def State.lightSvc (s : State) : Light :=
  match s.rst.button with
  | .held _ => .amberFlashing
  | .stuck _ => .amberFlashing
  | _ => if s.on F.SYS_STAT_SVR_UP then .green else .amber

end Sys2Proof.Machine
end

