-- ==== Sys2Proof/Machine/Access.lean ====
section
/-! DEFINITION. The commands that are accesses: register and guard writes (R10–R20), reads of result registers (R22), the PCIe host port's
non-posted requests (R26), fabric errors (R328), the remote register access service (R237–R240), and CAL_SWEEP (R266). -/

namespace Sys2Proof.Machine

open Sys2Proof

/-! ### Writes -/

/-- REGISTER_WRITE (R12, R15, R16, R18, R19, R30, R51, R334): a write as the block judges it, and what the hardware does to the
register in the same cycle. DESIGN CHOICE, log 135. -/
def execRegisterWrite (w : WriteReq) (hw : SameCycle) (s : State) : Host.Outcome State Fault Refusal := .next (s.write w hw)

/-- The BAR0 address a write goes to. -/
def writeAddr (w : WriteReq) : Option Nat :=
  match w.target with
  | .bar0 a => some a.toNat
  | .svPending _ => none

/-- An access's address and length in dwords. -/
def accessAddr : Access → Option Nat
  | .read r => some r.addr.toNat
  | .write w => writeAddr w

/-- A read or a write takes place (R10, R13, R15). -/
def State.access (s : State) (a : Access) : State :=
  match a with
  | .read r => s.busRead r.master r.addr.toNat r.len
  | .write w => s.write w {}

/-- UNMAPPED_ACCESS (R10). -/
def execUnmappedAccess (a : Access) (s : State) : Host.Outcome State Fault Refusal :=
  match accessAddr a with
  | some x => .next (if regionOf x = .unmapped then s.access a else s)
  | none => .next s

/-- A register-window write whose first dword's canonical address has a property. -/
def writeTo (p : Nat → Bool) (w : WriteReq) : Bool :=
  match writeAddr w with
  | some a => regionOf a = .regs && p (canon a)
  | none => false

/-- LOCK_WRITE (R16). -/
def execLockWrite (w : WriteReq) (s : State) : Host.Outcome State Fault Refusal :=
  .next (if writeTo (fun c => c % 0x10000 = 0x24) w then s.write w {} else s)

/-- GUARDED_PRIMARY_WRITE (R19, R20). -/
def execGuardedPrimaryWrite (w : WriteReq) (s : State) : Host.Outcome State Fault Refusal :=
  .next (if writeTo isGuarded w then s.write w {} else s)

/-- GUARD_TWIN_WRITE (R19, R20). -/
def execGuardTwinWrite (w : WriteReq) (s : State) : Host.Outcome State Fault Refusal :=
  .next (if writeTo (fun c => (twinOf c).isSome) w then s.write w {} else s)

/-- GUARD_TIMEOUT (R20): the timer of an ARMED block reaches 1,024 cycles. DESIGN CHOICE, log 2. -/
def execGuardTimeout (blk : BitVec 8) (s : State) : Host.Outcome State Fault Refusal :=
  let k := blk.toNat
  match (s.guard k).st with
  | .armed _ _ _ t0 =>
    .next ((s.until (t0 + 1024 * cyc)).guardExpire k)
  | .idle => .next s

/-- PTP_ENABLE (R16, R214): TIME_DOMCFG is written with `v`. -/
def execPtpEnable (v : Word) (s : State) : Host.Outcome State Fault Refusal := .next (s.writeReg .host A.TIME_DOMCFG v {})

/-- E12_ENABLE (R16, R231): ETH_CTRL is written with `v`. -/
def execE12Enable (v : Word) (s : State) : Host.Outcome State Fault Refusal := .next (s.writeReg .host 0x90008 v {})

/-- CAN_ENABLE (R16, R242): CAN_CTRL is written with `v`. -/
def execCanEnable (n : Fin 2) (v : Word) (s : State) : Host.Outcome State Fault Refusal := .next (s.writeReg .host (canBase n.val + 8) v {})

/-- BACKUP_WRITE (R225). -/
def execBackupWrite (w : WriteReq) (s : State) : Host.Outcome State Fault Refusal :=
  .next (if writeTo isBackupReg w then s.write w {} else s)

/-! ### Reads -/

/-- Where the result that a read of BAR0 address `a` returns is kept: a result register, or a latest view of the ADC window. -/
def resultKey (a : Nat) : Option Nat :=
  let c := canon a
  if regionOf a = .window then (if 0xE00100 ≤ a ∧ a < 0xE001C0 then some (a / 8 * 8 + 4) else none)
  else if isRes32 c then some c
  else if c = A.CME_CHECK_LO ∨ c = A.CME_CHECK_HI then some A.CME_CHECK_HI
  else none

/-- RESULT_READ (R13, R15, R22, R23): a read of registers. `meets` is the VALUE of a result that completes in the same cycle: the read
returns the previous one with STALE = 1, and the new one is held with FRESH = 1 (R18). DESIGN CHOICE, log 143. -/
def execResultRead (r : ReadReq) (meets : Option Nat) (s : State) : Host.Outcome State Fault Refusal :=
  match meets, resultKey r.addr.toNat with
  | some v, some k => .next (((s.startRes k).busRead r.master r.addr.toNat r.len).complete k v)
  | _, _ => .next (s.busRead r.master r.addr.toNat r.len)

/-- RTC_LOG_READ (R227). -/
def execRtcLogRead (r : ReadReq) (s : State) : Host.Outcome State Fault Refusal :=
  let c := canon r.addr.toNat
  .next (if A.RTC_LOG_DATA 0 ≤ c ∧ c < A.RTC_LOG_DATA 4 then s.busRead r.master r.addr.toNat r.len else s)

/-! ### The PCIe host port (R26) -/

/-- A non-posted request is accepted: INFLIGHT and PEAK rise, and at 128 NP_LIMIT is counted and raised (R26). -/
def State.npAccept (s : State) (r : NpReq) : State :=
  let s := { s with host := { s.host with np := s.host.np ++ [r] } }
  let n := s.host.np.length
  let s := s.put F.HOST_NP_PEAK (max (s.get F.HOST_NP_PEAK) n)
  if n = 128 then (s.cnt F.HOST_NP_LIMIT_COUNT).raise Base.HOST 3 else s

/-- Whether a posted write of the host is held by some guard sequencer: a read does not pass it (R26). DEDUCED, log 129. -/
def State.hostWriteHeld (s : State) : Bool := s.guards.any (fun g => g.2.held.any (fun w => w.master = .host))

/-- What a configuration request returns: the identity (device 0x0009, class code 0x11_8000), the base of BAR0 with its type (64-bit, not
prefetchable), or the power state (R25). PRESUMED, log 163. -/
def State.cfgData (s : State) : CfgOp → List Word
  | .readIdentity =>
    [0x0009#16 ++ Config.pciVendor, 0x118000#24 ++ Config.pciRevision]
  | .readBar => [BitVec.ofNat 32 (s.host.bar0 + 4), BitVec.ofNat 32 (s.host.bar0 / 2 ^ 32)]
  | .readPower => [if s.host.d3hot then 3#32 else 0#32]
  | _ => []

/-- What a configuration request changes (R25): BAR0 decodes 16 MiB. -/
def State.cfgWrite (s : State) : CfgOp → State
  | .writeBar b => { s with host := { s.host with bar0 := b.toNat / 0x1000000 * 0x1000000 } }
  | .writePower hot => { s with host := { s.host with d3hot := hot } }
  | _ => s

/-- A non-posted request is served and its completion leaves (R25, R26); a configuration request meets Retry Status until the endpoint is
ready (R386). -/
def State.npServe (s : State) : NpReq → State
  | .read r => let t := s.busRead .host r.addr.toNat r.len; t.emit (.completion t.readData)
  | .config c => if s.host.cfgReady then (s.cfgWrite c).emit (.completion (s.cfgData c)) else s.emit .cfgRetry

/-- Whether the endpoint takes a non-posted request: in D3hot configuration requests only (R25). -/
def State.npTakes (s : State) : NpReq → Bool
  | .read _ => !s.host.d3hot
  | .config _ => true

/-- The oldest request is served and its completion leaves; a request the requester held back then enters (R26). -/
def State.npComplete (s : State) : State :=
  match s.host.np with
  | [] => s
  | r :: rest =>
    let t := { s with host := { s.host with np := rest } }.npServe r
    match t.host.stalled with
    | [] => t
    | q :: more => { t with host := { t.host with stalled := more } }.npAccept q

/-- HOST_NP_REQUEST (R26). DESIGN CHOICE, log 155. -/
def execHostNpRequest (op : NpOp) (s : State) : Host.Outcome State Fault Refusal :=
  match op with
  | .request r =>
    if !s.on F.HOST_LINK_LINK_UP || !s.npTakes r then .next s
    else if s.host.np.length < 128 then .next (s.npAccept r)
    else .next { s with host := { s.host with stalled := s.host.stalled ++ [r] } }
  | .complete => .next (if s.hostWriteHeld then s else s.npComplete)

/-! ### Fabric errors (R328) -/

/-- Master and ACCESS of an access for a capture record. -/
def accessMaster : Access → Nat × Nat
  | .read r => (masterCode r.master, 0)
  | .write w => (masterCode w.master, match writeAddr w with
    | some a => if regionOf a = .regs then accCode a else 1
    | none => 1)

/-- Dwords an access reads. -/
def accessReads : Access → Nat
  | .read r => r.len
  | .write _ => 0

/-- `n` free dwords. -/
def State.freeWords (s : State) (n : Nat) : List Word := (List.range n).map (fun i => BitVec.ofNat 32 (Config.free (s.freeIx + i)))

/-- FABRIC_TIMEOUT (R328): a target does not answer within 256 fabric cycles, so that a read returns all ones and a write is dropped; or a
parity error, whose read data and whose write's taking effect the spec leaves open. -/
def execFabricTimeout (kind : FabricErr) (a : Access) (s : State) : Host.Outcome State Fault Refusal :=
  let mc := accessMaster a
  let addr := (accessAddr a).getD 0
  match kind with
  | .timeout =>
    let s := (s.advance (256 * cyc)).err .fabricTimeout mc.1 mc.2 addr
    .next { s with readData := List.replicate (accessReads a) 0xFFFFFFFF#32 }
  | .parity =>
    let s := s.err .fabricParity mc.1 mc.2 addr
    match a with
    | .read r => .next { s with readData := s.freeWords r.len, freeIx := s.freeIx + r.len }
    | .write w => .next (if s.free 1 = 1 then s.drew.write w {} else s.drew)

/-! ### The remote register access service (R237–R240) -/

/-- A request or a reply of the service (R237). -/
structure RraHead where
  ok : Bool
  op : Nat
  seq : Nat
  station : Nat
  count : Nat
  addr : Nat
  data : List Byte
  deriving DecidableEq, Repr

/-- The octets of a request taken apart (R237): `ok` says that MAGIC, VER and the length agree. -/
def rraParse (o : List Byte) : RraHead :=
  let at' (i n : Nat) := ofBytesLE ((o.drop i).take n)
  let op := at' 3 1
  let count := if at' 10 1 = 0 then 256 else at' 10 1
  let n := if op = 2 ∨ op = 3 then 4 * count else 0
  { ok := at' 0 2 = 0x594B && at' 2 1 = 1 && 1 ≤ op && op ≤ 4 && o.length = 16 + n + 16 && !(op = 3 && count ≠ 1) && at' 12 4 % 4 = 0,
    op := op, seq := at' 4 4, station := at' 8 2, count := count, addr := at' 12 4, data := (o.drop 16).take n }

/-- The key of a station, where the tack store holds one. -/
def State.stationKey (s : State) (n : Nat) : Option (List Byte) :=
  let k := KMap.get (fun _ => []) s.tack.stations n
  if n < 16 ∧ k ≠ [] then some k else none

/-- The TAG of octets under a key (R237). -/
def rraTag (key o : List Byte) : List Byte := (hmacSha256 key o).take 16

/-- A reply with a result code and data (R237). -/
def rraReply (key o : List Byte) (result : Nat) (data : List Byte) : List Byte :=
  let body := o.take 11 ++ [BitVec.ofNat 8 result] ++ (o.drop 12).take 4 ++ data
  body ++ rraTag key body

/-- A reply leaves on the interface the request came in on. -/
def State.rraSend (s : State) (p : EthPort) (octets : List Byte) : State :=
  if s.ethAddr p = 0 then s
  else (s.emit (.rra (decide (p = .e3)) octets)).sendFrame (decide (p = .e3)) 5

/-- A request that is not executed is counted, whatever the cause (R240, log 68). -/
def State.rraRej (s : State) : State := s.cnt F.ETH_RRA_REJ

/-- A request whose TAG has been verified (R238, R239): format, SEQ, and its place in the queue. -/
def State.rraAccept (s : State) (p : EthPort) (o key : List Byte) : State :=
  let h := rraParse o
  let n := h.station
  if !h.ok then s.rraRej.rraSend p (rraReply key o 1 [])
  else
    let last := KMap.get (fun _ => none) s.eth.lastSeq n
    let newer := match last with
      | none => true
      | some l => decide (0 < sx 32 (h.seq + 2 ^ 32 - l))
    if newer then
      if 64 ≤ s.eth.queue.length then s.rraRej.cnt (rxDrop (portIx p))
      else s.withEth { s.eth with queue := s.eth.queue ++ [⟨p, o, s.now⟩], lastSeq := KMap.set (fun _ => none) s.eth.lastSeq n (some h.seq),
                                  replies := KMap.set (fun _ => []) s.eth.replies n [] }
    else if last = some h.seq then
      let held := KMap.get (fun _ => []) s.eth.replies n
      if held ≠ [] then s.rraRej.rraSend p held
      else if s.eth.queue.any (fun q => (rraParse q.octets).station = n) then s.rraRej
      else s.rraRej.rraSend p (rraReply key o 2 [])
    else ((s.rraRej.put F.ETH_FAULT_STAT_REPLAY_SEEN 1).raise Base.ETH 4).rraSend p (rraReply key o 2 [])

/-- RRA_REQUEST (R236–R238): a datagram reaches the service; on an interface whose address is 0.0.0.0 it is discarded. DEDUCED, log 145. -/
def execRraRequest (p : EthPort) (octets : List Byte) (s : State) : Host.Outcome State Fault Refusal :=
  if !s.portUp (portIx p) then .next s
  else if !s.on F.SYS_STAT_SVR_UP then .next (s.rraRej.cnt (rxDrop (portIx p)))
  else if s.ethAddr p = 0 then .next (s.cnt (rxDrop (portIx p)))
  else
    let body := octets.take (octets.length - 16)
    match s.stationKey (rraParse octets).station with
    | some key =>
      if octets.drop (octets.length - 16) = rraTag key body then .next (s.rraAccept p octets key)
      else .next (((s.put F.ETH_FAULT_STAT_AUTH 1).cnt F.ETH_RRA_REJ).raise Base.ETH 3)
    | none => .next (((s.put F.ETH_FAULT_STAT_AUTH 1).cnt F.ETH_RRA_REJ).raise Base.ETH 3)

/-- The dwords of WRITE and WRITE_GUARDED data. -/
def dwordsOf (d : List Byte) : List Word := (List.range (d.length / 4)).map (fun i => BitVec.ofNat 32 (ofBytesLE ((d.drop (4 * i)).take 4)))

/-- Little-endian octets of dwords. -/
def octetsOf (l : List Word) : List Byte := l.flatMap (fun w => bytesLE 4 w.toNat)

/-- A WRITE's accesses in ascending address, until one is refused or dropped (R239, R240): those made, and the state. -/
def State.rraWrites (s : State) (a : Nat) : List Word → List Word → State × List Word × Bool
  | [], done => (s, done, true)
  | v :: rest, done =>
    let t := { s with wrDrop := false }.busWrite .remote a [(v, 0xF#4)] {}
    if t.wrDrop then (t, done, false) else t.rraWrites (a + 4) rest (done ++ [v])

/-- The values written, and free values for the dwords not attempted (R240). DEDUCED, log 146. -/
def State.rraShown (s : State) (done : List Word) (n : Nat) : State × List Byte :=
  ({ s with freeIx := s.freeIx + (n - done.length) }, octetsOf (done ++ s.freeWords (n - done.length)))

/-- Whether dword `i` of a write request starts a command while remote starts are disabled (R239, R240). -/
def State.startDisabled (s : State) (h : RraHead) (i : Nat) : Bool :=
  let a := h.addr + 4 * i
  h.op = 2 && !s.on F.SYS_CTRL_REMOTE_CMD_EN && regionOf a = .regs && a < 0x10000 && canon a = A.SYS_CMD && aliasOf a = 0 &&
    ((dwordsOf h.data).getD i 0#32).toNat.testBit 31

/-- How many dwords of a refused 64-bit pair were written: the first alone, where it passes by itself (R239, R240). -/
def State.pairWritten (s : State) (h : RraHead) (ws : List Word) : Nat :=
  if regionOf h.addr = .regs && !({ s with wrDrop := false }.busWrite .remote h.addr [(ws.getD 0 0#32, 0xF#4)] {}).wrDrop then 1 else 0

/-- The accesses of a request: result code, DATA of the reply, and the state (R239, R240). -/
def State.rraRun (s : State) (p : EthPort) (h : RraHead) : State × Nat × List Byte :=
  let en := if p = .e3 then s.on F.ETH_CTRL_RRA_E3_EN else s.on F.ETH_CTRL_RRA_E12_EN
  let ws := dwordsOf h.data
  if !en then (s, 6, [])
  else if h.op = 4 then
    (s, 0, octetsOf [s.regValue F.SYS_STAT_SVR_UP.reg, s.regValue A.SYS_CMD_STAT, s.regValue (linkFld 0).reg, BitVec.ofNat 32 s.eth.queue.length])
  else if 0x1000000 < h.addr + 4 * h.count then (s, 3, [])
  else if h.op = 1 then
    let t := s.busRead .remote h.addr h.count
    (t, 0, octetsOf t.readData)
  else if h.op = 2 then
    let code := fun (i : Nat) => if s.startDisabled h i then 6 else 5
    if h.count = 2 ∧ h.addr % 8 = 0 then
      let t := { s with wrDrop := false }.busWrite .remote h.addr (ws.map (fun w => (w, 0xF#4))) {}
      let n := s.pairWritten h ws
      if t.wrDrop then (let r := t.rraShown (ws.take n) 2; (r.1, code n, r.2)) else (t, 0, octetsOf ws)
    else
      let r := s.rraWrites h.addr ws []
      if r.2.2 then (r.1, 0, octetsOf r.2.1)
      else (let x := r.1.rraShown r.2.1 h.count; (x.1, code r.2.1.length, x.2))
  else if regionOf h.addr ≠ .regs || !isGuarded (canon h.addr) then (s, 1, [])
  else
    let v := ws.getD 0 0#32
    let armed := match (s.guard (h.addr / 0x10000)).st with | .armed _ _ _ _ => true | .idle => false
    let t := { s with wrDrop := false }.busWrite .remote h.addr [(v, 0xF#4)] {}
    let t := t.busWrite .remote (h.addr + 0x200) [(~~~ v, 0xF#4)] {}
    if armed || aliasOf h.addr ≠ 0 then (let r := t.rraShown [] 1; (r.1, 4, r.2))
    else if t.wrDrop then (let r := t.rraShown [] 1; (r.1, 5, r.2))
    else (t, 0, octetsOf [v])

/-- Whether a request's accesses wait for a sequence the host has ARMED in a block they write (R20, R239). -/
def State.rraWaits (s : State) (h : RraHead) : Bool :=
  (h.op = 2 || h.op = 3) && (List.range h.count).any (fun i =>
    let a := h.addr + 4 * i
    regionOf a = .regs && (match (s.guard (a / 0x10000)).st with
      | .armed m _ _ _ => m = .host
      | .idle => false))

/-- RRA_EXECUTE (R239, R240): the oldest accepted request runs and its reply leaves. -/
def execRraExecute (s : State) : Host.Outcome State Fault Refusal :=
  match s.eth.queue with
  | [] => .next s
  | q :: rest =>
    let h := rraParse q.octets
    if !s.on F.SYS_STAT_SVR_UP || s.rraWaits h then .next s
    else
      let r := (s.withEth { s.eth with queue := rest }).rraRun q.port h
      let r := (r.1.cnt (if r.2.1 = 0 ∨ r.2.1 = 4 ∨ r.2.1 = 5 then F.ETH_RRA_OK else F.ETH_RRA_REJ), r.2)
      let key := (s.stationKey h.station).getD []
      let reply := rraReply key q.octets r.2.1 r.2.2
      .next ((r.1.withEth { r.1.eth with replies := KMap.set (fun _ => []) r.1.eth.replies h.station reply }).rraSend q.port reply)

/-! ### CAL_SWEEP (R266) -/

/-- CAL_SWEEP (R266): the running operation has measured converters its mask names, one turn or several, and ends with the last. -/
def execCalSweep (m : List CalMeas) (s : State) : Host.Outcome State Fault Refusal :=
  if s.cmdIs 0x40 then
    let mask := s.cmdArg 0 % 256
    if mask = 0 then .next (s.finish 2 [])
    else
      let t := s.calTake m s.calLeft
      if t.calLeft.isEmpty then
        .next (t.calOver.finish (if t.adc.calBad = 0 then 0 else 5) [BitVec.ofNat 32 t.adc.calOk, BitVec.ofNat 32 t.adc.calBad])
      else .next t
  else .next s

end Sys2Proof.Machine
end

