-- ==== Sys2Proof/Machine/Dispatch.lean ====
section
/-! DEFINITION. Dispatch: one arm per command. -/

namespace Sys2Proof.Machine

open Sys2Proof

def exec (i : Instr) (s : State) : Host.Outcome State Fault Refusal :=
  match i with
  | .registerWrite w hw => Sys2Proof.Machine.execRegisterWrite w hw s
  | .unmappedAccess a => Sys2Proof.Machine.execUnmappedAccess a s
  | .lockWrite w => Sys2Proof.Machine.execLockWrite w s
  | .guardedPrimaryWrite w => Sys2Proof.Machine.execGuardedPrimaryWrite w s
  | .guardTwinWrite w => Sys2Proof.Machine.execGuardTwinWrite w s
  | .guardTimeout blk => Sys2Proof.Machine.execGuardTimeout blk s
  | .resultRead r meets => Sys2Proof.Machine.execResultRead r meets s
  | .hostNpRequest op => Sys2Proof.Machine.execHostNpRequest op s
  | .pcieReset kind => Sys2Proof.Machine.execPcieReset kind s
  | .pcieLinkUp speed width sris mps => Sys2Proof.Machine.execPcieLinkUp speed width sris mps s
  | .aerError correctable => Sys2Proof.Machine.execAerError correctable s
  | .msixUnmask op => Sys2Proof.Machine.execMsixUnmask op s
  | .cmdNop => Sys2Proof.Machine.execCmdNop s
  | .cmdBadOpcode => Sys2Proof.Machine.execCmdBadOpcode s
  | .cmdComplete => Sys2Proof.Machine.execCmdComplete s
  | .cmdTimeout => Sys2Proof.Machine.execCmdTimeout s
  | .svrRestartRequest => Sys2Proof.Machine.execSvrRestartRequest s
  | .svrRestartBegin => Sys2Proof.Machine.execSvrRestartBegin s
  | .svrWatchdogRestart => Sys2Proof.Machine.execSvrWatchdogRestart s
  | .svrRestartEnd trees => Sys2Proof.Machine.execSvrRestartEnd trees s
  | .yardCheck => Sys2Proof.Machine.execYardCheck s
  | .yardCheckComplete => Sys2Proof.Machine.execYardCheckComplete s
  | .yardStart => Sys2Proof.Machine.execYardStart s
  | .yardStop => Sys2Proof.Machine.execYardStop s
  | .yardEnterRun => Sys2Proof.Machine.execYardEnterRun s
  | .yardEnterStopping => Sys2Proof.Machine.execYardEnterStopping s
  | .yardStopComplete => Sys2Proof.Machine.execYardStopComplete s
  | .stallRecordWrite w => Sys2Proof.Machine.execStallRecordWrite w s
  | .stallInsertRequest ix v => Sys2Proof.Machine.execStallInsertRequest ix v s
  | .stallRemoveRequest ix => Sys2Proof.Machine.execStallRemoveRequest ix s
  | .stallLastingClear ix => Sys2Proof.Machine.execStallLastingClear ix s
  | .periodBoundary => Sys2Proof.Machine.execPeriodBoundary s
  | .uplinkReceived n f => Sys2Proof.Machine.execUplinkReceived n f s
  | .uplinkCutoff n => Sys2Proof.Machine.execUplinkCutoff n s
  | .mgmtRequest n => Sys2Proof.Machine.execMgmtRequest n s
  | .mrspReceived n f => Sys2Proof.Machine.execMrspReceived n f s
  | .mgmtTimeout n path => Sys2Proof.Machine.execMgmtTimeout n path s
  | .insertReadyTimeout ix => Sys2Proof.Machine.execInsertReadyTimeout ix s
  | .prechargeTimeout ix => Sys2Proof.Machine.execPrechargeTimeout ix s
  | .removalComplete ix => Sys2Proof.Machine.execRemovalComplete ix s
  | .schedTransmit n k ref => Sys2Proof.Machine.execSchedTransmit n k ref s
  | .laneEnable n => Sys2Proof.Machine.execLaneEnable n s
  | .lanePark n => Sys2Proof.Machine.execLanePark n s
  | .lanePllLock n tx rx => Sys2Proof.Machine.execLanePllLock n tx rx s
  | .laneTrainComplete n m => Sys2Proof.Machine.execLaneTrainComplete n m s
  | .laneAdapt n => Sys2Proof.Machine.execLaneAdapt n s
  | .applyEq n => Sys2Proof.Machine.execApplyEq n s
  | .laneLastingClear n => Sys2Proof.Machine.execLaneLastingClear n s
  | .laneRetryTimeout n => Sys2Proof.Machine.execLaneRetryTimeout n s
  | .blockLockLoss n => Sys2Proof.Machine.execBlockLockLoss n s
  | .blockLockGain n => Sys2Proof.Machine.execBlockLockGain n s
  | .relockTimeout n => Sys2Proof.Machine.execRelockTimeout n s
  | .alignmentMarker n payload gap => Sys2Proof.Machine.execAlignmentMarker n payload gap s
  | .markerMissing n => Sys2Proof.Machine.execMarkerMissing n s
  | .markerIntervalEnd n => Sys2Proof.Machine.execMarkerIntervalEnd n s
  | .echoTimer n => Sys2Proof.Machine.execEchoTimer n s
  | .echoRspReceived n payload rt => Sys2Proof.Machine.execEchoRspReceived n payload rt s
  | .echoLost n => Sys2Proof.Machine.execEchoLost n s
  | .edgeCommit => Sys2Proof.Machine.execEdgeCommit s
  | .edgeCutoff => Sys2Proof.Machine.execEdgeCutoff s
  | .reloadEdge => Sys2Proof.Machine.execReloadEdge s
  | .balanceDelivery fail => Sys2Proof.Machine.execBalanceDelivery fail s
  | .commandDeadline ix => Sys2Proof.Machine.execCommandDeadline ix s
  | .scheduleCompute => Sys2Proof.Machine.execScheduleCompute s
  | .armResetRequest v => Sys2Proof.Machine.execArmResetRequest v s
  | .nop u => Sys2Proof.Machine.execNop u s
  | .endRun u => Sys2Proof.Machine.execEndRun u s
  | .wait u => Sys2Proof.Machine.execWait u s
  | .waitEvent u => Sys2Proof.Machine.execWaitEvent u s
  | .loop u => Sys2Proof.Machine.execLoop u s
  | .brf u => Sys2Proof.Machine.execBrf u s
  | .setx u => Sys2Proof.Machine.execSetx u s
  | .ldc u => Sys2Proof.Machine.execLdc u s
  | .lds u => Sys2Proof.Machine.execLds u s
  | .sts u => Sys2Proof.Machine.execSts u s
  | .gath u => Sys2Proof.Machine.execGath u s
  | .scat u => Sys2Proof.Machine.execScat u s
  | .mark u => Sys2Proof.Machine.execMark u s
  | .wra u => Sys2Proof.Machine.execWra u s
  | .mvm u => Sys2Proof.Machine.execMvm u s
  | .vmac u => Sys2Proof.Machine.execVmac u s
  | .vmacc u => Sys2Proof.Machine.execVmacc u s
  | .obs u => Sys2Proof.Machine.execObs u s
  | .accl u => Sys2Proof.Machine.execAccl u s
  | .wb u => Sys2Proof.Machine.execWb u s
  | .lim u => Sys2Proof.Machine.execLim u s
  | .sat u => Sys2Proof.Machine.execSat u s
  | .preset u => Sys2Proof.Machine.execPreset u s
  | .sel u => Sys2Proof.Machine.execSel u s
  | .vadd u => Sys2Proof.Machine.execVadd u s
  | .red u => Sys2Proof.Machine.execRed u s
  | .cmp u => Sys2Proof.Machine.execCmp u s
  | .illegalOpcode u => Sys2Proof.Machine.execIllegalOpcode u s
  | .cmeOverrun u => Sys2Proof.Machine.execCmeOverrun u s
  | .engineRamWrite w => Sys2Proof.Machine.execEngineRamWrite w s
  | .paddockRamWrite w => Sys2Proof.Machine.execPaddockRamWrite w s
  | .programCheck => Sys2Proof.Machine.execProgramCheck s
  | .programCheckComplete => Sys2Proof.Machine.execProgramCheckComplete s
  | .armRestoreRequest v => Sys2Proof.Machine.execArmRestoreRequest v s
  | .presetRequest v => Sys2Proof.Machine.execPresetRequest v s
  | .debugHalt => Sys2Proof.Machine.execDebugHalt s
  | .breakpointHit => Sys2Proof.Machine.execBreakpointHit s
  | .debugStep => Sys2Proof.Machine.execDebugStep s
  | .debugRelease => Sys2Proof.Machine.execDebugRelease s
  | .groomScrub mem a f => Sys2Proof.Machine.execGroomScrub mem a f s
  | .warmupEnd => Sys2Proof.Machine.execWarmupEnd s
  | .paddockLoad => Sys2Proof.Machine.execPaddockLoad s
  | .paddockCompareHandover => Sys2Proof.Machine.execPaddockCompareHandover s
  | .paddockReport => Sys2Proof.Machine.execPaddockReport s
  | .paddockEnd durable => Sys2Proof.Machine.execPaddockEnd durable s
  | .paddockRollback => Sys2Proof.Machine.execPaddockRollback s
  | .paddockCompareEnd => Sys2Proof.Machine.execPaddockCompareEnd s
  | .paddockHandover => Sys2Proof.Machine.execPaddockHandover s
  | .retainExpiry durable => Sys2Proof.Machine.execRetainExpiry durable s
  | .healthLog => Sys2Proof.Machine.execHealthLog s
  | .timeSnap => Sys2Proof.Machine.execTimeSnap s
  | .tbWrap n => Sys2Proof.Machine.execTbWrap n s
  | .align => Sys2Proof.Machine.execAlign s
  | .ctbAutoAlign => Sys2Proof.Machine.execCtbAutoAlign s
  | .ctbServoUpdate => Sys2Proof.Machine.execCtbServoUpdate s
  | .ptpEnable v => Sys2Proof.Machine.execPtpEnable v s
  | .ptpSyncRx m => Sys2Proof.Machine.execPtpSyncRx m s
  | .ptpAnnounceRx m => Sys2Proof.Machine.execPtpAnnounceRx m s
  | .pdelayTimer => Sys2Proof.Machine.execPdelayTimer s
  | .pdelayReqRx m => Sys2Proof.Machine.execPdelayReqRx m s
  | .pdelayRespRx m => Sys2Proof.Machine.execPdelayRespRx m s
  | .syncTimeout d => Sys2Proof.Machine.execSyncTimeout d s
  | .announceTimeout d => Sys2Proof.Machine.execAnnounceTimeout d s
  | .domainHoldoverExpiry d => Sys2Proof.Machine.execDomainHoldoverExpiry d s
  | .tcForward f => Sys2Proof.Machine.execTcForward f s
  | .timeFifoPop r => Sys2Proof.Machine.execTimeFifoPop r s
  | .compareFire n => Sys2Proof.Machine.execCompareFire n s
  | .syncInCapture ns => Sys2Proof.Machine.execSyncInCapture ns s
  | .calCorrection d => Sys2Proof.Machine.execCalCorrection d s
  | .calTrim measured => Sys2Proof.Machine.execCalTrim measured s
  | .calSet => Sys2Proof.Machine.execCalSet s
  | .backupWrite w => Sys2Proof.Machine.execBackupWrite w s
  | .backupWriteDone => Sys2Proof.Machine.execBackupWriteDone s
  | .tamperInput => Sys2Proof.Machine.execTamperInput s
  | .backupLow mv => Sys2Proof.Machine.execBackupLow mv s
  | .backupStop mv => Sys2Proof.Machine.execBackupStop mv s
  | .backupStart mv => Sys2Proof.Machine.execBackupStart mv s
  | .rtcAlarm => Sys2Proof.Machine.execRtcAlarm s
  | .rtcLogRead r => Sys2Proof.Machine.execRtcLogRead r s
  | .e12Enable v => Sys2Proof.Machine.execE12Enable v s
  | .ethFrameRx f => Sys2Proof.Machine.execEthFrameRx f s
  | .ethLinkChange p up fast => Sys2Proof.Machine.execEthLinkChange p up fast s
  | .sfpChange p present pins => Sys2Proof.Machine.execSfpChange p present pins s
  | .supervisionTimer => Sys2Proof.Machine.execSupervisionTimer s
  | .lanFaultTimeout mac => Sys2Proof.Machine.execLanFaultTimeout mac s
  | .nodeForgetExpiry mac => Sys2Proof.Machine.execNodeForgetExpiry mac s
  | .ringOpen => Sys2Proof.Machine.execRingOpen s
  | .rraRequest p octets => Sys2Proof.Machine.execRraRequest p octets s
  | .rraExecute => Sys2Proof.Machine.execRraExecute s
  | .canEnable n v => Sys2Proof.Machine.execCanEnable n v s
  | .txPush n m v => Sys2Proof.Machine.execTxPush n m v s
  | .txCancel n m v sof => Sys2Proof.Machine.execTxCancel n m v sof s
  | .canTxAck n sof => Sys2Proof.Machine.execCanTxAck n sof s
  | .canTxFail n sof why => Sys2Proof.Machine.execCanTxFail n sof why s
  | .collisionHoldExpiry n e => Sys2Proof.Machine.execCollisionHoldExpiry n e s
  | .canRxFrame n f => Sys2Proof.Machine.execCanRxFrame n f s
  | .rxTopPop r => Sys2Proof.Machine.execRxTopPop r s
  | .canRecover n => Sys2Proof.Machine.execCanRecover n s
  | .canRecoveryDone n => Sys2Proof.Machine.execCanRecoveryDone n s
  | .canBasicCycle n => Sys2Proof.Machine.execCanBasicCycle n s
  | .canTtMiss n e => Sys2Proof.Machine.execCanTtMiss n e s
  | .canMasterResume n => Sys2Proof.Machine.execCanMasterResume n s
  | .adcStart k => Sys2Proof.Machine.execAdcStart k s
  | .adcTrigger k => Sys2Proof.Machine.execAdcTrigger k s
  | .adcResult k raw => Sys2Proof.Machine.execAdcResult k raw s
  | .adcFifoPop r => Sys2Proof.Machine.execAdcFifoPop r s
  | .adcWindowWrite w => Sys2Proof.Machine.execAdcWindowWrite w s
  | .vrefxMeasure mv => Sys2Proof.Machine.execVrefxMeasure mv s
  | .calSweep m => Sys2Proof.Machine.execCalSweep m s
  | .comparatorTrip n high mv ns => Sys2Proof.Machine.execComparatorTrip n high mv ns s
  | .comparatorRelease n high mv ns => Sys2Proof.Machine.execComparatorRelease n high mv ns s
  | .tempMeasure t => Sys2Proof.Machine.execTempMeasure t s
  | .feedJudge feed dc v => Sys2Proof.Machine.execFeedJudge feed dc v s
  | .bus54vLow mv => Sys2Proof.Machine.execBus54vLow mv s
  | .bus12vLow mv => Sys2Proof.Machine.execBus12vLow mv s
  | .groupEnable g v => Sys2Proof.Machine.execGroupEnable g v s
  | .softStartComplete g holdTicks => Sys2Proof.Machine.execSoftStartComplete g holdTicks s
  | .softStartFail g why => Sys2Proof.Machine.execSoftStartFail g why s
  | .groupOutputFault g sense => Sys2Proof.Machine.execGroupOutputFault g sense s
  | .hiccupExpiry g => Sys2Proof.Machine.execHiccupExpiry g s
  | .groupLatchClear g => Sys2Proof.Machine.execGroupLatchClear g s
  | .syncLockChange g trips => Sys2Proof.Machine.execSyncLockChange g trips s
  | .phaseWindowEnd g w => Sys2Proof.Machine.execPhaseWindowEnd g w s
  | .phaseReadmit g openBits senseBits => Sys2Proof.Machine.execPhaseReadmit g openBits senseBits s
  | .loopEnable x v => Sys2Proof.Machine.execLoopEnable x v s
  | .loopControlUpdate x m => Sys2Proof.Machine.execLoopControlUpdate x m s
  | .loopRetry x => Sys2Proof.Machine.execLoopRetry x s
  | .loopLatchClear x => Sys2Proof.Machine.execLoopLatchClear x s
  | .telemetryWindow g samples => Sys2Proof.Machine.execTelemetryWindow g samples s
  | .peakClr => Sys2Proof.Machine.execPeakClr s
  | .gdrvXcmd h => Sys2Proof.Machine.execGdrvXcmd h s
  | .gdrvSenseTrip h high => Sys2Proof.Machine.execGdrvSenseTrip h high s
  | .gdrvBstUv h mv => Sys2Proof.Machine.execGdrvBstUv h mv s
  | .gdrvRefresh h slots mv wait => Sys2Proof.Machine.execGdrvRefresh h slots mv wait s
  | .gdrvLatchRelease h high e => Sys2Proof.Machine.execGdrvLatchRelease h high e s
  | .gdrvDisabledClear h bstMv => Sys2Proof.Machine.execGdrvDisabledClear h bstMv s
  | .pwmChannelEnable c en => Sys2Proof.Machine.execPwmChannelEnable c en s
  | .pwmCommit mask => Sys2Proof.Machine.execPwmCommit mask s
  | .pwmCutoff c => Sys2Proof.Machine.execPwmCutoff c s
  | .pwmReload c => Sys2Proof.Machine.execPwmReload c s
  | .pwmSync c src => Sys2Proof.Machine.execPwmSync c src s
  | .pwmTrip c => Sys2Proof.Machine.execPwmTrip c s
  | .pwmBlankEnd ix => Sys2Proof.Machine.execPwmBlankEnd ix s
  | .pwmTripClear c => Sys2Proof.Machine.execPwmTripClear c s
  | .safetyCycle good fenceBad => Sys2Proof.Machine.execSafetyCycle good fenceBad s
  | .safetyInputChange ix aClosed bClosed held10us => Sys2Proof.Machine.execSafetyInputChange ix aClosed bClosed held10us s
  | .siDiscrepancy ix => Sys2Proof.Machine.execSiDiscrepancy ix s
  | .feedbackChange m closed => Sys2Proof.Machine.execFeedbackChange m closed s
  | .fbMismatch m => Sys2Proof.Machine.execFbMismatch m s
  | .disagree f => Sys2Proof.Machine.execDisagree f s
  | .brokenLine l kind => Sys2Proof.Machine.execBrokenLine l kind s
  | .brokenLineHeal l => Sys2Proof.Machine.execBrokenLineHeal l s
  | .restartWindowLong => Sys2Proof.Machine.execRestartWindowLong s
  | .cstopComplete => Sys2Proof.Machine.execCstopComplete s
  | .lockoutLoopOff => Sys2Proof.Machine.execLockoutLoopOff s
  | .hostHaltRequest => Sys2Proof.Machine.execHostHaltRequest s
  | .hostCstopRequest => Sys2Proof.Machine.execHostCstopRequest s
  | .fabricClockLoss => Sys2Proof.Machine.execFabricClockLoss s
  | .rootPllRelock => Sys2Proof.Machine.execRootPllRelock s
  | .rstInChange closed svSaw afterMs => Sys2Proof.Machine.execRstInChange closed svSaw afterMs s
  | .resetHeld => Sys2Proof.Machine.execResetHeld s
  | .resetStuck => Sys2Proof.Machine.execResetStuck s
  | .lockoutReset svAgrees => Sys2Proof.Machine.execLockoutReset svAgrees s
  | .proofRun => Sys2Proof.Machine.execProofRun s
  | .proofTest t bad => Sys2Proof.Machine.execProofTest t bad s
  | .proofOverdue => Sys2Proof.Machine.execProofOverdue s
  | .powerUpTestsDone pass => Sys2Proof.Machine.execPowerUpTestsDone pass s
  | .fabricTimeout kind a => Sys2Proof.Machine.execFabricTimeout kind a s
  | .capClr => Sys2Proof.Machine.execCapClr s
  | .fabricProbe bad => Sys2Proof.Machine.execFabricProbe bad s
  | .eventDelivery => Sys2Proof.Machine.execEventDelivery s
  | .eoi v => Sys2Proof.Machine.execEoi v s
  | .msixHoldoffExpiry v => Sys2Proof.Machine.execMsixHoldoffExpiry v s
  | .evtSw v => Sys2Proof.Machine.execEvtSw v s
  | .evtLogPop r => Sys2Proof.Machine.execEvtLogPop r s
  | .flashErase ok => Sys2Proof.Machine.execFlashErase ok s
  | .flashProgram ok => Sys2Proof.Machine.execFlashProgram ok s
  | .imageVerify ue => Sys2Proof.Machine.execImageVerify ue s
  | .imageStage ue => Sys2Proof.Machine.execImageStage ue s
  | .laneTableApply ue durable => Sys2Proof.Machine.execLaneTableApply ue durable s
  | .adcCalApply ue durable => Sys2Proof.Machine.execAdcCalApply ue durable s
  | .fenceParamApply ue sv durable => Sys2Proof.Machine.execFenceParamApply ue sv durable s
  | .ownershipApply ue w => Sys2Proof.Machine.execOwnershipApply ue w s
  | .attestSign durable => Sys2Proof.Machine.execAttestSign durable s
  | .readIdentity => Sys2Proof.Machine.execReadIdentity s
  | .stationSet durable => Sys2Proof.Machine.execStationSet durable s
  | .stationErase durable => Sys2Proof.Machine.execStationErase durable s
  | .indexStatus => Sys2Proof.Machine.execIndexStatus s
  | .tackBadSubop => Sys2Proof.Machine.execTackBadSubop s
  | .treeGenerated => Sys2Proof.Machine.execTreeGenerated s
  | .confirm durable => Sys2Proof.Machine.execConfirm durable s
  | .trialTimeout => Sys2Proof.Machine.execTrialTimeout s
  | .fenceConfirmation c sv => Sys2Proof.Machine.execFenceConfirmation c sv s
  | .fenceConfirmationDone durable => Sys2Proof.Machine.execFenceConfirmationDone durable s
  | .fpendDiscard => Sys2Proof.Machine.execFpendDiscard s
  | .pairEnable v => Sys2Proof.Machine.execPairEnable v s
  | .forceLead => Sys2Proof.Machine.execForceLead s
  | .pstatRx p f => Sys2Proof.Machine.execPstatRx p f s
  | .poutRx p f => Sys2Proof.Machine.execPoutRx p f s
  | .pairLinkLoss => Sys2Proof.Machine.execPairLinkLoss s
  | .digestUpdate d => Sys2Proof.Machine.execDigestUpdate d s
  | .digestMismatch d => Sys2Proof.Machine.execDigestMismatch d s
  | .withdraw => Sys2Proof.Machine.execWithdraw s
  | .powerOn lowestMv => Sys2Proof.Machine.execPowerOn lowestMv s
  | .moduleResetRelease pairPresent slot => Sys2Proof.Machine.execModuleResetRelease pairPresent slot s
  | .resetInputAssert => Sys2Proof.Machine.execResetInputAssert s
  | .resetInputRelease => Sys2Proof.Machine.execResetInputRelease s
  | .serviceButtonChange closed afterMs => Sys2Proof.Machine.execServiceButtonChange closed afterMs s
  | .serviceButtonHeld => Sys2Proof.Machine.execServiceButtonHeld s
  | .serviceButtonStuck => Sys2Proof.Machine.execServiceButtonStuck s
  | .serviceButtonUnstick => Sys2Proof.Machine.execServiceButtonUnstick s
  | .moduleReset => Sys2Proof.Machine.execModuleReset s
  | .echoReceived p payload turn => Sys2Proof.Machine.execEchoReceived p payload turn s
  | .blockReceived n hdr payload => Sys2Proof.Machine.execBlockReceived n hdr payload s
  | .tamperInputRelease => Sys2Proof.Machine.execTamperInputRelease s
  | .svrDebugHalt => Sys2Proof.Machine.execSvrDebugHalt s
  | .svrDebugRelease => Sys2Proof.Machine.execSvrDebugRelease s
  | .bus54vReturn mv => Sys2Proof.Machine.execBus54vReturn mv s
  | .canBusError n e => Sys2Proof.Machine.execCanBusError n e s
  | .soOverload o => Sys2Proof.Machine.execSoOverload o s
  | .bootNoBank trees => Sys2Proof.Machine.execBootNoBank trees s
  | .adcSettled k => Sys2Proof.Machine.execAdcSettled k s
  | .pcieConfigReady => Sys2Proof.Machine.execPcieConfigReady s
  | .tripInputChange ix level widthNs => Sys2Proof.Machine.execTripInputChange ix level widthNs s

end Sys2Proof.Machine
end

