-- ==== Sys2Proof/Safety.lean ====
section
/-! DEFINITION. A safe run: the KY-9 has no instruction stream that can go wrong, so a step is safe when it answers a next state. -/

namespace Sys2Proof.Machine

/-- The next state of an outcome, where it is one. -/
def nextOf (o : Host.Outcome State Fault Refusal) : Option State :=
  match o with
  | .next s => some s
  | .fault _ => none
  | .refused _ => none

/-- A step answers a next state. -/
def Safe (s : State) : Prop := (nextOf (step s)).isSome = true

/-- `n` steps. -/
def run : Nat → State → Option State
  | 0, s => some s
  | n + 1, s => (nextOf (step s)).bind (run n)

/-- A part of State beside the queue. -/
inductive Part where
  | now | regs | mem | readData | wrDrop | out | freeIx | guards | results | fifos | fifoIn | spills | captures | cmd | cmdEnded | restartPend | host 
  | yard | links | linkLanes | conv | convNext | lanes | edge | bal | cme | time | rtc | eth | can | adc | therm | aux | hb
  | pwm | tripIn | safe | evt | flt | tack | flash | upd | pair | rst
  deriving DecidableEq, Repr

/-- The number of a part. -/
def Part.ix : Part → Nat
  | .now => 1
  | .regs => 2
  | .mem => 3
  | .readData => 4
  | .wrDrop => 5
  | .out => 6
  | .freeIx => 7
  | .guards => 8
  | .results => 9
  | .fifos => 10
  | .fifoIn => 11
  | .spills => 12
  | .captures => 13
  | .cmd => 14
  | .cmdEnded => 15
  | .restartPend => 16
  | .host => 17
  | .yard => 18
  | .links => 19
  | .linkLanes => 20
  | .conv => 21
  | .convNext => 22
  | .lanes => 23
  | .edge => 24
  | .bal => 25
  | .cme => 26
  | .time => 27
  | .rtc => 28
  | .eth => 29
  | .can => 30
  | .adc => 31
  | .therm => 32
  | .aux => 33
  | .hb => 34
  | .pwm => 35
  | .tripIn => 36
  | .safe => 37
  | .evt => 38
  | .flt => 39
  | .tack => 40
  | .flash => 41
  | .upd => 42
  | .pair => 43
  | .rst => 44

/-- A part is the same in two states. -/
def Part.same (p : Part) (s t : State) : Prop :=
  match p with
  | .now => t.now = s.now
  | .regs => t.regs = s.regs
  | .mem => t.mem = s.mem
  | .readData => t.readData = s.readData
  | .wrDrop => t.wrDrop = s.wrDrop
  | .out => t.out = s.out
  | .freeIx => t.freeIx = s.freeIx
  | .guards => t.guards = s.guards
  | .results => t.results = s.results
  | .fifos => t.fifos = s.fifos
  | .fifoIn => t.fifoIn = s.fifoIn
  | .spills => t.spills = s.spills
  | .captures => t.captures = s.captures
  | .cmd => t.cmd = s.cmd
  | .cmdEnded => t.cmdEnded = s.cmdEnded
  | .restartPend => t.restartPend = s.restartPend
  | .host => t.host = s.host
  | .yard => t.yard = s.yard
  | .links => t.links = s.links
  | .linkLanes => t.linkLanes = s.linkLanes
  | .conv => t.conv = s.conv
  | .convNext => t.convNext = s.convNext
  | .lanes => t.lanes = s.lanes
  | .edge => t.edge = s.edge
  | .bal => t.bal = s.bal
  | .cme => t.cme = s.cme
  | .time => t.time = s.time
  | .rtc => t.rtc = s.rtc
  | .eth => t.eth = s.eth
  | .can => t.can = s.can
  | .adc => t.adc = s.adc
  | .therm => t.therm = s.therm
  | .aux => t.aux = s.aux
  | .hb => t.hb = s.hb
  | .pwm => t.pwm = s.pwm
  | .tripIn => t.tripIn = s.tripIn
  | .safe => t.safe = s.safe
  | .evt => t.evt = s.evt
  | .flt => t.flt = s.flt
  | .tack => t.tack = s.tack
  | .flash => t.flash = s.flash
  | .upd => t.upd = s.upd
  | .pair => t.pair = s.pair
  | .rst => t.rst = s.rst

/-- The next word of unit `u` is instruction `d`, it may issue, nothing it reads is poisoned, and its cost fits before cycle Y − 4 (R163,
R164, R171, R173, R185). -/
def State.issuesWhole (s : State) (u : EngUnit) (d : EInstr) : Bool :=
  s.mayIssue u && decide (s.engNext u = d) && !(decide (u = .live) && s.atBreak) &&
    (s.poisonIn (progBase u + 8 * (s.eng u).pc) 8).isNone && ((s.engReads u d).findSome? (fun r => s.poisonIn r.1 r.2)).isNone &&
    decide ((s.eng u).cyc + (eCost d + (s.eng u).drain d) ≤ s.limY)

/-- The CTB stands at the start of the unit's next cycle (R163). -/
def State.atCycle (s : State) (u : EngUnit) : State := s.untilCtb (s.yard.tk + 10 * (s.eng u).cyc)

/-- The unit goes on after instruction `d`, at its cost (R173, R178). -/
def State.wentOn (s : State) (u : EngUnit) (d : EInstr) (c : Nat) : State := s.setEng u ((s.eng u).go d c)

end Sys2Proof.Machine
end

