-- ==== Sys2Proof/Machine/Footprint.lean ====
section
/-! DEFINITION. The footprint of every command: the parts of State it may change. The frame statements are stated with it. -/

namespace Sys2Proof.Machine

open Sys2Proof

/-- The parts of State that a command may change beside the queue; every other part is the same after it. -/
def touches (c : Instr) : List Part :=
  match c with
  | .registerWrite .. | .lockWrite .. | .guardedPrimaryWrite .. | .guardTwinWrite .. | .backupWrite ..
    => [.now, .regs, .mem, .wrDrop, .out, .freeIx, .guards, .results, .spills, .cmd, .restartPend, .yard, .links, .linkLanes, .lanes,
      .edge, .bal, .cme, .time, .rtc, .eth, .can, .adc, .therm, .aux, .hb, .pwm, .safe, .evt, .flt, .upd, .pair]
  | .unmappedAccess .. | .rraExecute
    => [.now, .regs, .mem, .readData, .wrDrop, .out, .freeIx, .guards, .results, .fifos, .fifoIn, .spills, .captures, .cmd, .restartPend,
      .yard, .links, .linkLanes, .lanes, .edge, .bal, .cme, .time, .rtc, .eth, .can, .adc, .therm, .aux, .hb, .pwm, .safe, .evt, .flt,
      .upd, .pair]
  | .guardTimeout ..
    => [.now, .regs, .mem, .wrDrop, .out, .freeIx, .guards, .results, .spills, .cmd, .restartPend, .yard, .lanes, .edge, .bal, .cme,
      .time, .rtc, .eth, .can, .adc, .therm, .aux, .hb, .pwm, .safe, .evt, .flt, .upd, .pair]
  | .resultRead .. | .rtcLogRead ..
    => [.regs, .readData, .freeIx, .results, .fifos, .fifoIn, .spills, .captures, .can, .adc, .evt, .flt]
  | .hostNpRequest .. => [.regs, .readData, .out, .freeIx, .results, .fifos, .fifoIn, .spills, .captures, .host, .can, .adc, .evt, .flt]
  | .pcieReset .. => [.regs, .host, .evt]
  | .pcieLinkUp .. | .aerError .. | .ethLinkChange .. | .confirm .. | .pairLinkLoss | .digestMismatch .. => [.regs, .evt]
  | .msixUnmask .. => [.regs, .out, .host, .evt]
  | .cmdNop => [.now, .regs, .freeIx, .cmd, .cmdEnded, .time, .rtc, .evt]
  | .cmdBadOpcode | .cmdComplete => [.regs, .freeIx, .cmd, .cmdEnded, .evt]
  | .cmdTimeout => [.now, .regs, .freeIx, .cmd, .cmdEnded, .cme, .time, .rtc, .adc, .evt, .upd]
  | .svrRestartRequest => [.regs, .restartPend, .evt]
  | .svrRestartBegin => [.now, .regs, .out, .freeIx, .restartPend, .lanes, .time, .rtc, .eth, .aux, .pwm, .safe, .evt, .upd]
  | .svrWatchdogRestart => [.regs, .out, .freeIx, .cmd, .cmdEnded, .lanes, .cme, .eth, .adc, .aux, .pwm, .safe, .evt, .upd]
  | .svrRestartEnd .. => [.regs, .out, .freeIx, .lanes, .time, .adc, .aux, .pwm, .safe, .evt, .flt, .tack, .upd]
  | .yardCheck => [.regs, .results, .yard]
  | .yardCheckComplete => [.regs, .results, .yard, .evt]
  | .yardStart => [.regs, .wrDrop, .yard, .evt]
  | .yardStop => [.regs, .yard]
  | .yardEnterRun => [.regs, .mem, .freeIx, .cmd, .yard, .links, .linkLanes, .conv, .convNext, .edge, .bal, .cme, .aux, .pwm, .evt]
  | .yardEnterStopping => [.regs, .cmd, .yard, .cme, .evt]
  | .yardStopComplete => [.regs, .mem, .out, .freeIx, .yard, .links, .lanes, .edge, .bal, .cme, .aux, .pwm, .safe, .evt, .upd, .pair]
  | .stallRecordWrite .. | .stallInsertRequest .. | .stallRemoveRequest ..
    => [.regs, .mem, .wrDrop, .out, .freeIx, .results, .yard, .links, .linkLanes, .lanes, .edge, .aux, .pwm, .safe, .evt, .pair]
  | .stallLastingClear .. => [.regs, .mem, .results, .links, .linkLanes, .evt]
  | .periodBoundary
    => [.now, .regs, .mem, .out, .freeIx, .cmd, .yard, .links, .linkLanes, .conv, .lanes, .edge, .bal, .cme, .time, .rtc, .aux, .pwm,
      .evt, .flt, .pair]
  | .uplinkReceived .. | .mrspReceived .. | .pstatRx .. | .poutRx .. | .blockReceived ..
    => [.regs, .mem, .freeIx, .results, .yard, .links, .linkLanes, .lanes, .evt, .flt, .pair]
  | .uplinkCutoff .. => [.now, .mem, .linkLanes, .time, .rtc]
  | .mgmtRequest .. => [.out, .linkLanes, .lanes]
  | .mgmtTimeout .. => [.now, .regs, .mem, .results, .yard, .links, .linkLanes, .time, .rtc, .evt]
  | .insertReadyTimeout .. => [.now, .regs, .mem, .results, .links, .time, .rtc, .evt]
  | .prechargeTimeout .. => [.now, .regs, .mem, .links, .time, .rtc, .evt]
  | .removalComplete .. => [.regs, .mem, .links, .evt]
  | .schedTransmit .. => [.mem, .out, .links, .lanes, .edge]
  | .laneEnable .. => [.regs, .wrDrop, .lanes]
  | .lanePark .. | .laneAdapt .. => [.regs, .wrDrop, .out, .freeIx, .yard, .lanes, .aux, .pwm, .safe, .evt, .pair]
  | .lanePllLock .. | .laneLastingClear .. => [.regs, .out, .lanes]
  | .laneTrainComplete .. => [.regs, .out, .lanes, .evt]
  | .applyEq .. | .blockLockGain .. => [.regs, .lanes, .evt]
  | .laneRetryTimeout .. | .relockTimeout .. => [.now, .regs, .out, .lanes, .time, .rtc]
  | .blockLockLoss .. | .markerIntervalEnd .. | .comparatorTrip .. | .comparatorRelease .. | .safetyInputChange .. | .hostHaltRequest
  | .hostCstopRequest | .lockoutReset .. | .proofTest .. | .powerUpTestsDone ..
    => [.regs, .out, .freeIx, .yard, .lanes, .aux, .pwm, .safe, .evt, .pair]
  | .alignmentMarker .. => [.regs, .lanes]
  | .markerMissing .. | .timeSnap | .peakClr | .pwmCommit .. | .digestUpdate .. => [.regs]
  | .echoTimer .. => [.now, .out, .lanes, .time, .rtc]
  | .echoRspReceived .. => [.regs, .mem, .freeIx, .results, .links, .linkLanes, .lanes, .evt]
  | .echoLost .. => [.now, .regs, .lanes, .time, .rtc, .evt]
  | .edgeCommit => [.regs, .results, .edge, .evt]
  | .edgeCutoff => [.now, .regs, .results, .convNext, .edge, .bal, .cme, .time, .rtc, .evt, .pair]
  | .reloadEdge => [.now, .regs, .mem, .results, .yard, .links, .linkLanes, .convNext, .edge, .bal, .cme, .time, .rtc, .evt, .pair]
  | .balanceDelivery .. => [.regs, .bal, .evt, .flt]
  | .commandDeadline .. => [.now, .regs, .freeIx, .links, .edge, .cme, .time, .rtc, .evt]
  | .scheduleCompute => [.regs, .freeIx, .links, .edge, .cme, .evt]
  | .armResetRequest .. => [.regs, .bal]
  | .nop .. | .endRun .. | .wait .. | .loop .. | .brf .. | .setx .. | .ldc .. | .lds .. | .sts .. | .gath .. | .scat .. | .mark ..
  | .wra .. | .mvm .. | .vmac .. | .vmacc .. | .obs .. | .accl .. | .wb .. | .lim .. | .sat .. | .preset .. | .sel .. | .vadd ..
  | .red .. | .cmp .. => [.now, .regs, .mem, .freeIx, .cmd, .edge, .cme, .time, .rtc, .aux, .pwm, .evt, .flt]
  | .waitEvent .. => [.now, .cme, .time, .rtc]
  | .illegalOpcode .. | .cmeOverrun .. => [.now, .regs, .cmd, .cme, .time, .rtc, .evt]
  | .engineRamWrite .. | .paddockRamWrite .. => [.regs, .mem, .wrDrop, .cme, .evt, .flt]
  | .programCheck => [.regs, .results, .cme]
  | .programCheckComplete => [.regs, .results, .yard, .cme, .evt]
  | .armRestoreRequest .. | .presetRequest .. | .warmupEnd => [.regs, .cme]
  | .debugHalt | .breakpointHit => [.regs, .freeIx, .cmd, .cme, .aux, .pwm, .evt]
  | .debugStep => [.regs, .mem, .cmd, .edge, .cme, .evt, .flt]
  | .debugRelease => [.regs, .freeIx, .cme, .aux, .pwm, .evt]
  | .groomScrub .. | .capClr => [.regs, .evt, .flt]
  | .paddockLoad => [.regs, .mem, .cmd, .yard, .cme, .evt, .flt, .upd]
  | .paddockCompareHandover => [.regs, .mem, .cmd, .cme, .flt]
  | .paddockReport | .indexStatus | .tackBadSubop => [.cmd]
  | .paddockEnd .. => [.regs, .cmd, .cme, .evt, .upd]
  | .paddockRollback => [.cmd, .cme]
  | .paddockCompareEnd => [.regs, .cmd, .yard, .cme]
  | .paddockHandover => [.regs, .mem, .freeIx, .cmd, .cme, .aux, .pwm, .evt, .flt, .upd]
  | .retainExpiry .. => [.regs, .cme, .evt, .upd]
  | .healthLog => [.freeIx, .cme]
  | .tbWrap .. | .syncTimeout .. | .announceTimeout .. | .domainHoldoverExpiry .. | .rtcAlarm | .ringOpen | .resetHeld | .resetStuck
  | .proofOverdue => [.now, .regs, .time, .rtc, .evt]
  | .align => [.regs, .wrDrop, .freeIx, .yard, .time, .evt, .pair]
  | .ctbAutoAlign => [.regs, .freeIx, .yard, .time, .evt, .pair]
  | .ctbServoUpdate => [.now, .regs, .freeIx, .time, .rtc, .evt]
  | .ptpEnable .. | .e12Enable .. | .canEnable ..
    => [.regs, .mem, .wrDrop, .out, .freeIx, .results, .spills, .cmd, .yard, .lanes, .edge, .bal, .cme, .time, .rtc, .eth, .can, .adc,
      .therm, .aux, .hb, .pwm, .safe, .evt, .flt, .upd, .pair]
  | .ptpSyncRx .. => [.regs, .time, .evt]
  | .ptpAnnounceRx .. => [.regs, .time, .rtc, .evt]
  | .pdelayTimer => [.now, .regs, .out, .results, .fifos, .fifoIn, .spills, .time, .rtc, .eth, .evt]
  | .pdelayReqRx .. => [.regs, .out, .results, .fifos, .fifoIn, .spills, .eth, .evt]
  | .pdelayRespRx .. => [.regs, .time]
  | .tcForward .. => [.regs, .out]
  | .timeFifoPop .. | .evtLogPop .. => [.regs, .readData, .results, .fifos, .fifoIn, .spills, .captures, .evt, .flt]
  | .compareFire .. | .msixHoldoffExpiry .. => [.now, .regs, .out, .time, .rtc, .evt]
  | .syncInCapture .. => [.regs, .results, .fifos, .fifoIn, .spills, .evt]
  | .calCorrection .. => [.now, .regs, .freeIx, .time, .rtc]
  | .calTrim .. | .loopRetry .. => [.now, .regs, .time, .rtc]
  | .calSet => [.regs, .wrDrop, .freeIx, .rtc]
  | .backupWriteDone | .tamperInput | .backupStart .. | .tamperInputRelease => [.regs, .freeIx, .rtc, .evt, .tack]
  | .backupLow .. | .backupStop .. => [.regs, .rtc, .evt]
  | .ethFrameRx .. | .rraRequest .. => [.regs, .out, .eth, .evt]
  | .sfpChange .. => [.regs, .eth, .evt]
  | .supervisionTimer => [.now, .regs, .out, .time, .rtc, .eth]
  | .lanFaultTimeout .. => [.now, .regs, .time, .rtc, .eth, .evt]
  | .nodeForgetExpiry .. => [.now, .time, .rtc, .eth]
  | .txPush .. => [.regs, .wrDrop, .can]
  | .txCancel .. => [.regs, .wrDrop, .can, .evt]
  | .canTxAck .. => [.regs, .out, .freeIx, .can, .evt]
  | .canTxFail .. | .canRecoveryDone .. | .canBusError .. => [.regs, .can, .evt]
  | .collisionHoldExpiry .. => [.now, .time, .rtc, .can]
  | .canRxFrame .. => [.regs, .freeIx, .results, .fifos, .fifoIn, .spills, .can, .evt]
  | .rxTopPop .. => [.regs, .readData, .results, .fifos, .fifoIn, .spills, .captures, .can, .evt, .flt]
  | .canRecover .. => [.regs, .can]
  | .canBasicCycle .. => [.now, .regs, .time, .rtc, .can]
  | .canTtMiss .. | .canMasterResume .. => [.now, .regs, .time, .rtc, .can, .evt]
  | .adcStart .. => [.regs, .results, .spills, .adc, .evt]
  | .adcTrigger .. => [.now, .regs, .results, .spills, .time, .rtc, .adc, .evt]
  | .adcResult .. => [.now, .regs, .results, .fifos, .fifoIn, .spills, .time, .rtc, .adc, .evt]
  | .adcFifoPop .. => [.regs, .readData, .results, .fifos, .fifoIn, .spills, .captures, .adc, .evt, .flt]
  | .adcWindowWrite .. => [.regs, .wrDrop]
  | .vrefxMeasure .. => [.now, .regs, .time, .rtc, .adc, .evt]
  | .calSweep .. => [.now, .regs, .cmd, .time, .rtc, .adc]
  | .tempMeasure .. => [.now, .regs, .out, .freeIx, .yard, .lanes, .time, .rtc, .therm, .aux, .pwm, .safe, .evt, .pair]
  | .feedJudge .. => [.regs, .freeIx, .rtc, .aux, .evt]
  | .bus54vLow .. | .phaseReadmit .. | .loopLatchClear .. => [.regs, .aux]
  | .bus12vLow .. | .resetInputAssert => [.regs, .out, .freeIx, .lanes, .aux, .pwm, .safe, .evt, .pair, .rst]
  | .groupEnable .. | .groupLatchClear .. | .loopEnable .. | .bus54vReturn .. => [.regs, .freeIx, .aux]
  | .softStartComplete .. | .softStartFail .. => [.now, .regs, .time, .rtc, .aux, .hb, .evt]
  | .groupOutputFault .. | .gdrvXcmd .. | .gdrvSenseTrip .. | .gdrvBstUv .. => [.regs, .aux, .hb, .evt]
  | .hiccupExpiry .. | .syncLockChange .. => [.now, .regs, .freeIx, .time, .rtc, .aux, .evt]
  | .phaseWindowEnd .. => [.regs, .aux, .evt]
  | .loopControlUpdate .. => [.now, .regs, .freeIx, .results, .time, .rtc, .aux, .evt]
  | .telemetryWindow .. => [.regs, .results, .aux]
  | .gdrvRefresh .. => [.now, .regs, .time, .rtc, .hb]
  | .gdrvLatchRelease .. | .gdrvDisabledClear .. => [.regs, .hb]
  | .pwmChannelEnable .. => [.regs, .out, .pwm]
  | .pwmCutoff .. => [.now, .regs, .time, .rtc, .pwm, .evt]
  | .pwmReload .. | .pwmSync .. => [.now, .regs, .out, .time, .rtc, .pwm, .evt]
  | .pwmTrip .. => [.regs, .pwm, .evt]
  | .pwmBlankEnd .. => [.now, .regs, .time, .rtc, .pwm, .tripIn, .evt]
  | .pwmTripClear .. => [.regs, .pwm]
  | .safetyCycle .. | .siDiscrepancy .. | .fbMismatch .. | .disagree .. | .restartWindowLong | .cstopComplete | .rstInChange ..
    => [.now, .regs, .out, .freeIx, .yard, .lanes, .time, .rtc, .aux, .pwm, .safe, .evt, .pair]
  | .feedbackChange .. | .proofRun => [.regs, .safe]
  | .brokenLine .. | .brokenLineHeal .. => [.regs, .out, .freeIx, .yard, .lanes, .aux, .pwm, .safe, .evt, .flt, .pair]
  | .lockoutLoopOff => [.now, .regs, .freeIx, .time, .rtc, .aux]
  | .fabricClockLoss => [.regs, .out, .freeIx, .yard, .lanes, .time, .aux, .pwm, .safe, .evt, .pair]
  | .rootPllRelock => [.regs, .out, .freeIx, .host, .lanes, .time, .aux, .pwm, .safe, .evt]
  | .fabricTimeout ..
    => [.now, .regs, .mem, .readData, .wrDrop, .out, .freeIx, .guards, .results, .spills, .cmd, .restartPend, .yard, .links, .linkLanes,
      .lanes, .edge, .bal, .cme, .time, .rtc, .eth, .can, .adc, .therm, .aux, .hb, .pwm, .safe, .evt, .flt, .upd, .pair]
  | .fabricProbe .. => [.flt]
  | .eventDelivery => [.now, .regs, .out, .results, .fifos, .fifoIn, .spills, .time, .rtc, .evt]
  | .eoi .. => [.regs, .out, .evt]
  | .evtSw .. => [.evt]
  | .flashErase .. | .flashProgram .. => [.regs, .freeIx, .cmd, .evt, .flash]
  | .imageVerify .. | .imageStage .. => [.regs, .cmd, .evt, .flt, .flash, .upd]
  | .laneTableApply .. => [.regs, .cmd, .lanes, .adc, .evt, .flt, .flash, .upd]
  | .adcCalApply .. => [.regs, .cmd, .adc, .evt, .flt, .flash, .upd]
  | .fenceParamApply ..
    => [.regs, .wrDrop, .out, .freeIx, .results, .cmd, .yard, .lanes, .aux, .pwm, .safe, .evt, .flt, .flash, .upd, .pair]
  | .ownershipApply .. => [.regs, .cmd, .evt, .flt, .tack, .flash, .upd]
  | .attestSign .. => [.regs, .freeIx, .cmd, .evt, .tack]
  | .readIdentity => [.regs, .cmd]
  | .stationSet .. => [.regs, .cmd, .eth, .evt, .tack]
  | .stationErase .. => [.regs, .cmd, .evt, .tack]
  | .treeGenerated => [.regs, .evt, .tack]
  | .trialTimeout => [.now, .regs, .out, .freeIx, .cmd, .cmdEnded, .lanes, .cme, .time, .rtc, .eth, .adc, .aux, .pwm, .safe, .evt, .upd]
  | .fenceConfirmation .. => [.regs, .results, .upd]
  | .fenceConfirmationDone .. => [.regs, .out, .freeIx, .results, .cmd, .yard, .lanes, .aux, .pwm, .safe, .evt, .upd, .pair]
  | .fpendDiscard => [.regs, .safe, .upd]
  | .pairEnable .. | .forceLead => [.regs, .evt, .pair]
  | .withdraw => [.now, .regs, .out, .lanes, .time, .rtc, .evt, .pair]
  | .powerOn ..
    => [.regs, .mem, .readData, .wrDrop, .guards, .results, .fifos, .fifoIn, .spills, .captures, .cmd, .cmdEnded, .restartPend, .host,
      .yard, .links, .linkLanes, .conv, .convNext, .lanes, .edge, .bal, .cme, .time, .rtc, .eth, .can, .adc, .therm, .aux, .hb, .pwm,
      .tripIn, .safe, .evt, .flt, .tack, .upd, .pair, .rst]
  | .moduleResetRelease .. | .moduleReset
    => [.now, .regs, .mem, .readData, .wrDrop, .guards, .results, .fifos, .fifoIn, .spills, .captures, .cmd, .cmdEnded, .restartPend,
      .host, .yard, .links, .linkLanes, .conv, .convNext, .lanes, .edge, .bal, .cme, .time, .rtc, .eth, .can, .adc, .therm, .aux, .hb,
      .pwm, .tripIn, .safe, .evt, .flt, .tack, .upd, .pair, .rst]
  | .resetInputRelease => [.rst]
  | .serviceButtonChange .. => [.now, .regs, .out, .freeIx, .lanes, .time, .rtc, .aux, .pwm, .safe, .evt, .pair, .rst]
  | .serviceButtonHeld | .serviceButtonStuck => [.now, .regs, .freeIx, .time, .rtc, .rst]
  | .serviceButtonUnstick => [.now, .time, .rtc, .rst]
  | .echoReceived .. => [.out, .lanes]
  | .svrDebugHalt | .svrDebugRelease => [.regs, .freeIx, .aux, .pwm, .evt]
  | .soOverload .. => [.now, .regs, .time, .rtc, .safe]
  | .bootNoBank .. => [.regs, .evt, .flt, .tack, .upd]
  | .adcSettled .. => [.now, .time, .rtc]
  | .pcieConfigReady => [.now, .host, .time, .rtc]
  | .tripInputChange .. => [.regs, .pwm, .tripIn, .evt]

end Sys2Proof.Machine
end

