-- ==== Sys2Proof/Certificates/Slice0/Obligations.lean ====
section
/-! DEFINITION. The statements for the provers. Each is `def Obligations.<Name> : Prop`; a clause whose conclusion is
`exec … s = .next …` says where its command completes and with what. -/

open Sys2Proof Sys2Proof.Machine

/-- Writes (R10, R12, R15, R16, R19, R20, R225, R389). A block's sequencer in IDLE with nothing held back is `s.guard k = {}`. Readings of the
model, not of the spec: that D3hot leaves the host unanswered (PRESUMED, log 163), that no master is answered in module reset (DEDUCED, log
128), that one request to unmapped addresses is reported once (DEDUCED, log 144). -/
def Obligations.WritesTakePlace : Prop :=
  (∀ (s : State) (m : Master) (a : BitVec 24) (v : Word) (hw : SameCycle), s.answers m = true → regionOf (a.toNat / 4 * 4) = .regs →
    isGuarded (canon (a.toNat / 4 * 4)) = false → twinOf (canon (a.toNat / 4 * 4)) = none → s.guard (a.toNat / 4 * 4 / 0x10000) = {} →
    exec (.registerWrite ⟨m, .bar0 a, [(v, 0xF#4)]⟩ hw) s =
      .next ((s.writeReg m (a.toNat / 4 * 4) v hw).releaseHeld (a.toNat / 4 * 4 / 0x10000))) ∧
  (∀ (s : State) (m : Master) (a : BitVec 24) (v : Word), s.answers m = true → a.toNat % 4 = 0 → regionOf a.toNat = .regs → canon a.toNat % 0x10000 = 0x24 →
    isGuarded (canon a.toNat) = false → s.guard (a.toNat / 0x10000) = {} →
    exec (.lockWrite ⟨m, .bar0 a, [(v, 0xF#4)]⟩) s = .next ((s.writeReg m a.toNat v {}).releaseHeld (a.toNat / 0x10000))) ∧
  (∀ (s : State) (m : Master) (a : BitVec 24) (v : Word), s.answers m = true → a.toNat % 4 = 0 → regionOf a.toNat = .regs → isBackupReg (canon a.toNat) = true →
    isGuarded (canon a.toNat) = false → twinOf (canon a.toNat) = none → s.guard (a.toNat / 0x10000) = {} →
    exec (.backupWrite ⟨m, .bar0 a, [(v, 0xF#4)]⟩) s = .next ((s.writeReg m a.toNat v {}).releaseHeld (a.toNat / 0x10000))) ∧
  (∀ (s : State) (m : Master) (a : BitVec 24) (v : Word), s.answers m = true → a.toNat % 4 = 0 → regionOf a.toNat = .regs → aliasOf a.toNat = 0 →
    isGuarded (canon a.toNat) = true → twinOf (canon a.toNat) = none → s.guard (a.toNat / 0x10000) = {} →
    exec (.guardedPrimaryWrite ⟨m, .bar0 a, [(v, 0xF#4)]⟩) s =
      .next (s.setGuard (a.toNat / 0x10000) { st := .armed m (canon a.toNat) v s.now })) ∧
  (∀ (s : State) (m m0 : Master) (a : BitVec 24) (p t0 : Nat) (v w : Word), s.answers m = true → a.toNat % 4 = 0 → regionOf a.toNat = .regs → aliasOf a.toNat = 0 →
    twinOf (canon a.toNat) = some p → s.guard (a.toNat / 0x10000) = { st := .armed m0 p v t0 } → s.now < t0 + 1024 * cyc → busMaster m = busMaster m0 →
    exec (.guardTwinWrite ⟨m, .bar0 a, [(w, 0xF#4)]⟩) s =
      .next ((if w = ~~~ v then ((s.hwOnly (canon a.toNat) {}).setGuard (a.toNat / 0x10000) {}).commit m0 p v
        else ((s.hwOnly (canon a.toNat) {}).setGuard (a.toNat / 0x10000) {}).guardFail (masterCode m) 5 p).releaseHeld (a.toNat / 0x10000))) ∧
  (∀ (s : State) (m : Master) (a : BitVec 24) (w : Word) (p : Nat), s.answers m = true → a.toNat % 4 = 0 → regionOf a.toNat = .regs → aliasOf a.toNat = 0 →
    twinOf (canon a.toNat) = some p → s.guard (a.toNat / 0x10000) = {} →
    exec (.guardTwinWrite ⟨m, .bar0 a, [(w, 0xF#4)]⟩) s = .next ((s.guardFail (masterCode m) 5 p).releaseHeld (a.toNat / 0x10000))) ∧
  (∀ (s : State) (m m0 : Master) (a : BitVec 24) (p t0 : Nat) (v : Word) (x : Word × BitVec 4) (hw : SameCycle), s.answers m = true → a.toNat % 4 = 0 →
    regionOf a.toNat = .regs → s.guard (a.toNat / 0x10000) = { st := .armed m0 p v t0 } → s.now < t0 + 1024 * cyc → busMaster m = busMaster m0 →
    BusWrite.commits ⟨m, a.toNat, [x]⟩ p v = false →
    exec (.registerWrite ⟨m, .bar0 a, [x]⟩ hw) s =
      .next ((((s.hwBoth ⟨m, a.toNat, [x]⟩ hw).setGuard (a.toNat / 0x10000) {}).guardFail (masterCode m) (accCode a.toNat) p).releaseHeld
        (a.toNat / 0x10000))) ∧
  (∀ (s : State) (m m0 : Master) (a : BitVec 24) (p t0 : Nat) (v : Word) (x : Word × BitVec 4) (hw : SameCycle), s.answers m = true → a.toNat % 4 = 0 →
    regionOf a.toNat = .regs → s.guard (a.toNat / 0x10000) = { st := .armed m0 p v t0 } → s.now < t0 + 1024 * cyc → busMaster m ≠ busMaster m0 →
    exec (.registerWrite ⟨m, .bar0 a, [x]⟩ hw) s =
      .next ((s.hwBoth ⟨m, a.toNat, [x]⟩ hw).setGuard (a.toNat / 0x10000) { st := .armed m0 p v t0, held := [⟨m, .bar0 a, [x]⟩] })) ∧
  (∀ (s : State) (m : Master) (a : BitVec 24) (v : Word) (hw : SameCycle), s.answers m = true → a.toNat % 4 = 0 → regionOf a.toNat = .regs →
    aliasOf a.toNat ≠ 0 → isGuarded (canon a.toNat) = true → s.guard (a.toNat / 0x10000) = {} →
    exec (.registerWrite ⟨m, .bar0 a, [(v, 0xF#4)]⟩ hw) s =
      .next ((s.accessFault (baseOf a.toNat) .aliasGrd (masterCode m) (accCode a.toNat) a.toNat).releaseHeld (a.toNat / 0x10000))) ∧
  (∀ (s : State) (m : Master) (a : BitVec 24) (x : Word × BitVec 4) (hw : SameCycle), s.answers m = true → a.toNat % 4 = 0 → regionOf a.toNat = .regs →
    x.2 ≠ 0xF#4 → s.guard (a.toNat / 0x10000) = {} →
    exec (.registerWrite ⟨m, .bar0 a, [x]⟩ hw) s =
      .next (((s.hwBoth ⟨m, a.toNat, [x]⟩ hw).accessFault (baseOf a.toNat) .sizeErr (masterCode m) (accCode a.toNat) a.toNat).releaseHeld
        (a.toNat / 0x10000))) ∧
  (∀ (s : State) (m : Master) (a : BitVec 24) (x y : Word × BitVec 4) (hw : SameCycle), s.answers m = true → a.toNat % 4 = 0 → regionOf a.toNat = .regs →
    (x.2 ≠ 0xF#4 ∨ y.2 ≠ 0xF#4 ∨ a.toNat % 8 ≠ 0 ∨ isGuarded (canon a.toNat) = true ∨ isGuarded (canon (a.toNat + 4)) = true ∨
      (twinOf (canon a.toNat)).isSome = true ∨ (twinOf (canon (a.toNat + 4))).isSome = true) → s.guard (a.toNat / 0x10000) = {} →
    exec (.registerWrite ⟨m, .bar0 a, [x, y]⟩ hw) s =
      .next (((s.hwBoth ⟨m, a.toNat, [x, y]⟩ hw).accessFault (baseOf a.toNat) .sizeErr (masterCode m) (accCode a.toNat) a.toNat).releaseHeld
        (a.toNat / 0x10000))) ∧
  (∀ (s : State) (b : BitVec 8) (m : Master) (p t0 : Nat) (v : Word) (held : List WriteReq), s.guard b.toNat = { st := .armed m p v t0, held := held } →
    exec (.guardTimeout b) s = .next ((((s.until (t0 + 1024 * cyc)).setGuard b.toNat { st := .idle, held := held }).guardFail
      (masterCode m) 15 p).releaseHeld b.toNat)) ∧
  (∀ (s : State) (m : Master) (a : BitVec 24) (l : List (Word × BitVec 4)), s.answers m = true → a.toNat % 4 = 0 → regionOf a.toNat = .unmapped →
    exec (.unmappedAccess (.write ⟨m, .bar0 a, l⟩)) s =
      .next (s.unmapped m (if a.toNat < 0x800000 then accCode a.toNat else 1) a.toNat).noteDrop) ∧
  (∀ (s : State) (w : WriteReq) (a : BitVec 24) (hw : SameCycle), w.target = .bar0 a → s.answers w.master = false → exec (.registerWrite w hw) s = .next s)

/-- Reads (R10, R13, R15, R22, R23, R26, R227, R242, R265, R339). Readings of the model, not of the spec: the retry status of a configuration
request (PRESUMED, log 163), one report for one request to unmapped addresses (DEDUCED, log 144), what becomes of a captured upper half
(DEDUCED, log 149), and which word of a FIFO holds an uncorrectable error (DESIGN CHOICE, log 210). -/
def Obligations.ReadsReturnData : Prop :=
  (∀ (s : State) (m : Master) (a : BitVec 24), s.answers m = true → a.toNat % 4 = 0 → regionOf a.toNat = .regs → isRes32 (canon a.toNat) = true →
    exec (.resultRead ⟨m, a, 1⟩ none) s = .next { s.unfresh (canon a.toNat) (s.res (canon a.toNat)).seq with
      readData := [ctlDword (s.res (canon a.toNat)).value (s.res (canon a.toNat)).seq (s.res (canon a.toNat)).fresh (s.res (canon a.toNat)).busy false] }) ∧
  (∀ (s : State) (m : Master) (a : BitVec 24) (v : Nat), s.answers m = true → a.toNat % 4 = 0 → regionOf a.toNat = .regs → isRes32 (canon a.toNat) = true →
    ∃ t, exec (.resultRead ⟨m, a, 1⟩ (some v)) s = .next t ∧
      t.readData = [ctlDword (s.res (canon a.toNat)).value (s.res (canon a.toNat)).seq (s.res (canon a.toNat)).fresh true false] ∧
      t.res (canon a.toNat) = ⟨v, ((s.res (canon a.toNat)).seq + 1) % 256, true, false⟩) ∧
  (∀ (s : State) (r : ReadReq) (v q : Nat) (rest : List (Nat × Nat)), s.answers r.master = true → canon r.addr.toNat = A.EVT_LOG_LO →
    s.fifo A.EVT_LOG_LO = (v, q) :: rest → s.fifoEmpty A.EVT_LOG_LO = false → s.spills = [] →
    exec (.evtLogPop r) s = .next (((((s.fifoUe r.master A.EVT_LOG_LO q).setFifo A.EVT_LOG_LO rest).setRes (A.EVT_LOG_LO + 4) ⟨v, q, true, false⟩).pairRead r.master A.EVT_LOG_LO
      (readWide r) (BitVec.ofNat 32 v) (ctlDword (v / 2 ^ 32) q true false false) q).put F.EVT_STAT_LOG_LEVEL rest.length)) ∧
  (∀ (s : State) (r : ReadReq), s.answers r.master = true → canon r.addr.toNat = A.EVT_LOG_LO → s.fifoEmpty A.EVT_LOG_LO = true → s.spills = [] →
    exec (.evtLogPop r) s = .next (((s.cnt F.EVT_LOG_DROP).pairRead r.master A.EVT_LOG_LO (readWide r) 0x8000#32
      (ctlDword 0 (s.res (A.EVT_LOG_LO + 4)).seq false false true) 256).put F.EVT_STAT_LOG_LEVEL (s.fifo A.EVT_LOG_LO).length)) ∧
  (∀ (s : State) (r : ReadReq) (c v q : Nat) (rest : List (Nat × Nat)), s.answers r.master = true → canon r.addr.toNat = c → timeFifos.contains c = true →
    s.fifo c = (v, q) :: rest → s.fifoEmpty c = false → s.spills = [] →
    exec (.timeFifoPop r) s = .next ((((s.fifoUe r.master c q).setFifo c rest).setRes (c + 4) ⟨v, q, true, false⟩).pairRead r.master c (readWide r) (BitVec.ofNat 32 v)
      (ctlDword (v / 2 ^ 32) q true false false) q)) ∧
  (∀ (s : State) (r : ReadReq) (n : Nat), s.answers r.master = true → rxTopOf (canon r.addr.toNat) = some n → s.queueOwner n r.master = true → s.spills = [] →
    exec (.rxTopPop r) s = .next (((s.rxWindow n).fifoPop r.master (A.CAN_RX_TOP_LO n) (readWide r) (F.CAN_RX_UNDER n)).rxLevel n)) ∧
  (∀ (s : State) (r : ReadReq) (k v q : Nat) (rest : List (Nat × Nat)), s.answers r.master = true → popPort r.addr.toNat = some k → s.pairedOdd k = false →
    (s.conv8 k).ts = [] → s.fifo (adcFifo k) = (v, q) :: rest → s.fifoEmpty (adcFifo k) = false → s.spills = [] →
    exec (.adcFifoPop r) s = .next (((((s.fifoUe r.master (adcFifo k) q).setFifo (adcFifo k) rest).setRes (adcFifo k + 4) ⟨v, q, true, false⟩).pairRead r.master (adcFifo k)
      (readWide r) (BitVec.ofNat 32 v) (ctlDword (v / 2 ^ 32) q true false false) q).adcRemark k)) ∧
  (∀ (s : State) (r : ReadReq) (k t : Nat) (rest : List Nat), s.answers r.master = true → popPort r.addr.toNat = some k → s.pairedOdd k = false →
    (s.conv8 k).ts = t :: rest → s.fifoEmpty (adcFifo k) = false → s.spills = [] →
    exec (.adcFifoPop r) s = .next (((((s.setConv8 k { s.conv8 k with ts := rest }).put (F.ADC_CH_TS_LO k) (t % 2 ^ 32)).put (F.ADC_CH_TS_HI k)
      (t / 2 ^ 32)).fifoPop r.master (adcFifo k) (readWide r) F.ADC_UNDERFLOW).adcRemark k)) ∧
  (∀ (s : State) (r : ReadReq) (c : Nat), s.answers r.master = true → canon r.addr.toNat = c → timeFifos.contains c = true → s.fifoEmpty c = true →
    s.spills = [] →
    exec (.timeFifoPop r) s = .next ((s.cnt F.TIME_PTP_DROP).pairRead r.master c (readWide r) 0x8000#32
      (ctlDword 0 (s.res (c + 4)).seq false false true) 256)) ∧
  (∀ (s : State) (r : ReadReq) (k : Nat), s.answers r.master = true → popPort r.addr.toNat = some k → s.pairedOdd k = false →
    s.fifoEmpty (adcFifo k) = true →
    exec (.adcFifoPop r) s = .next (((s.cnt F.ADC_UNDERFLOW).pairRead r.master (adcFifo k) (readWide r) 0x8000#32
      (ctlDword 0 (s.res (adcFifo k + 4)).seq false false true) 256).adcLevel k)) ∧
  (∀ (s : State) (r : ReadReq) (k : Nat), s.answers r.master = true → popPort r.addr.toNat = some k → s.pairedOdd k = true →
    exec (.adcFifoPop r) s = .next ((s.cnt F.ADC_UNDERFLOW).pairRead r.master (adcFifo k) (readWide r) 0x8000#32
      (ctlDword 0 (s.res (adcFifo k + 4)).seq false false true) 256)) ∧
  (∀ (s : State) (r : ReadReq) (n : Nat), s.answers r.master = true → rxTopOf (canon r.addr.toNat) = some n → s.queueOwner n r.master = false →
    exec (.rxTopPop r) s = .next (s.pairRead r.master (A.CAN_RX_TOP_LO n) (readWide r) 0x8000#32
      (ctlDword 0 (s.res (A.CAN_RX_TOP_LO n + 4)).seq false false true) 256)) ∧
  (∀ (s : State) (m : Master), s.answers m = true → exec (.rtcLogRead ⟨m, BitVec.ofNat 24 (A.RTC_LOG_DATA 3), 1⟩) s =
    .next { s with readData := [s.logDword 3] }.logAdvance) ∧
  (∀ (s : State) (m : Master) (a : BitVec 24) (n : Nat), s.answers m = true → a.toNat % 4 = 0 → regionOf a.toNat = .unmapped →
    exec (.unmappedAccess (.read ⟨m, a, n⟩)) s = .next { s.unmapped m 0 a.toNat with readData := List.replicate n 0xFFFFFFFF#32 }) ∧
  (∀ (s : State) (r : NpReq), s.on F.HOST_LINK_LINK_UP = true → s.npTakes r = true → s.host.np.length < 128 →
    exec (.hostNpRequest (.request r)) s = .next (s.npAccept r)) ∧
  (∀ (s : State) (r : NpReq), s.on F.HOST_LINK_LINK_UP = true → s.npTakes r = true → 128 ≤ s.host.np.length →
    exec (.hostNpRequest (.request r)) s = .next { s with host := { s.host with stalled := s.host.stalled ++ [r] } }) ∧
  (∀ (s : State) (r : ReadReq) (rest : List NpReq), s.hostWriteHeld = false → s.host.np = .read r :: rest → s.host.stalled = [] →
    s.rst.asserted = false →
    ∃ t, exec (.hostNpRequest .complete) s = .next t ∧
      t.out = .completion ({ s with host := { s.host with np := rest } }.busRead .host r.addr.toNat r.len).readData :: s.out ∧ t.host.np = rest) ∧
  (∀ (s : State) (c : CfgOp) (rest : List NpReq), s.hostWriteHeld = false → s.host.np = .config c :: rest → s.host.stalled = [] →
    exec (.hostNpRequest .complete) s = .next (
      let t : State := { s with host := { s.host with np := rest } }
      if s.host.cfgReady = true then (t.cfgWrite c).emit (.completion (t.cfgData c)) else t.emit .cfgRetry)) ∧
  (∀ (s : State) (m : Master) (a : BitVec 24) (l : List (Word × BitVec 4)), 0xE00000 ≤ a.toNat → a.toNat < 0xE01000 →
    exec (.adcWindowWrite ⟨m, .bar0 a, l⟩) s = .next (s.put F.ADC_FAULT_STAT_WIN_WR 1).noteDrop)

/-- The command port's and the supervisor's own events (R30–R32, R360, R361, R363). Readings of the model, not of the spec: the first start after
reset (DEDUCED, log 119), BOOT_NO_BANK as the end of a restart (DEDUCED, log 120), PROGRESS after an operation, in `cmdEnd` (DESIGN CHOICE, log
23). -/
def Obligations.CommandPortAndRestartsAct : Prop :=
  (∀ (s : State) (r : CmdRun), s.cmd = some r → r.opcode = 0 → r.outcome = none →
    exec .cmdNop s = .next ((s.until (r.start + cyc)).cmdEnd 0 [] 0)) ∧
  (∀ (s : State) (r : CmdRun), s.cmd = some r → r.opcode ∉ [0x00, 0x10, 0x11, 0x20, 0x21, 0x30, 0x31, 0x40, 0x50] →
    exec .cmdBadOpcode s = .next (s.cmdEnd 1 [] 0)) ∧
  (∀ (s : State) (r : CmdRun) (code : Nat) (res : List Word), s.cmd = some r → r.outcome = some (code, res) →
    exec .cmdComplete s = .next (s.cmdEnd code res 0)) ∧
  (∀ (s : State) (r : CmdRun) (d : Nat), s.cmd = some r → r.outcome = none →
    (r.opcode, d) ∈ [(0x00, us), (0x10, 600 * ms), (0x11, 5 * ms), (0x20, 500 * ms), (0x21, 1500 * ms), (0x30, 100 * ms), (0x31, 1000 * ms),
      (0x40, 3000 * ms), (0x50, 250 * ms)] →
    exec .cmdTimeout s = .next ((((s.until (r.start + d)).cmdStop r.opcode).cmdEnd 3
      (((s.until (r.start + d)).cmdStop r.opcode).stopRes4 r.opcode) 0).raise Base.SYS 3)) ∧
  (∀ (s t : State), t = { s.put F.SYS_RESTART 1 with restartPend := true } →
    exec .svrRestartRequest s = .next (if t.portState = 1 ∨ t.portEnding = true ∨ t.restartWhy = 0 then t else t.restartDiscard t.restartWhy)) ∧
  (∀ (s t : State), s.restartPend = true → s.portState = 0 → t = (if s.portEnding = true then s.until ((s.cycleNo + 1) * cyc) else s) → t.restartWhy = 0 →
    exec .svrRestartBegin s = .next (({ t.put F.SYS_RESTART 0 with restartPend := false }.cnt F.UPD_RESTARTS).restartStart true)) ∧
  (∀ (s t : State), s.restartPend = true → s.portState = 0 → t = (if s.portEnding = true then s.until ((s.cycleNo + 1) * cyc) else s) → t.restartWhy ≠ 0 →
    exec .svrRestartBegin s = .next (t.restartDiscard t.restartWhy)) ∧
  (∀ (s : State), s.cmd = none →
    exec .svrWatchdogRestart s = .next ((if s.on F.UPD_STAT_TRIAL then s.trialFail.raise Base.UPD 3 else s).restartStart false)) ∧
  (∀ (s t : State) (r : CmdRun), s.cmd = some r → t = (s.cmdStop r.opcode).cmdEnd 4 ((s.cmdStop r.opcode).stopRes4 r.opcode) 2 →
    exec .svrWatchdogRestart s = .next ((if t.on F.UPD_STAT_TRIAL then t.trialFail.raise Base.UPD 3 else t).restartStart false)) ∧
  (∀ (s : State), s.on F.UPD_STAT_TRIAL = true → s.on F.SYS_STAT_SVR_UP = true → s.cmd = none →
    exec .trialTimeout s = .next (((s.until (s.upd.endAt + max (s.get F.UPD_CFG) 1 * sec)).trialFail.raise Base.UPD 3).restartStart false)) ∧
  (∀ (s u v w : State) (x : TreeCheck), s.starting = true → u = s.secStart x → v = (u.boot.put F.SYS_STAT_SVR_UP 1).startOver.annRestart →
    w = (v.withUpd { v.upd with unstarted := false }).enforce →
    exec (.svrRestartEnd x) s = .next (if u.noBoot then s
      else if u.upd.unstarted then (w.boardTables.domWritten .a false).domWritten .b false else w)) ∧
  (∀ (s t u : State) (x : TreeCheck), s.starting = true → u = s.secStart x → u.noBoot = true →
    t = ((((u.bankRead u.bootFirst).verifyCount (u.bankDetail u.bootFirst)).bankRead (1 - u.bootFirst)).verifyCount
      (u.bankDetail (1 - u.bootFirst))).startOver →
    exec (.bootNoBank x) s = .next (t.withUpd { t.upd with noBank := true }))

/-- The endpoint and event delivery (R25, R28, R29, R336, R337, R340, R386). Readings of the model, not of the spec: a function-level reset does
not count, and the fundamental form is a pulse of PERST_N (DEDUCED, log 126); a message whose mask is removed waits for its vector's holdoff
(DEDUCED, log 197); messages leave in D3hot too (DESIGN CHOICE, log 171). -/
def Obligations.EndpointAndEventsAct : Prop :=
  (∀ (s u t : State), u = (if s.on F.HOST_LINK_LINK_UP then s.cnt F.HOST_LINK_DOWN_COUNT else s) → t = u.endpointReset.raise Base.HOST 0 →
    exec (.pcieReset .hot) s = .next t) ∧
  (∀ (s u t : State), u = (if s.on F.HOST_LINK_LINK_UP then s.cnt F.HOST_LINK_DOWN_COUNT else s) → t = u.endpointReset.raise Base.HOST 0 →
    exec (.pcieReset .linkDown) s = .next t) ∧
  (∀ (s u t : State), u = (if s.on F.HOST_LINK_LINK_UP then s.cnt F.HOST_LINK_DOWN_COUNT else s) → t = u.endpointReset.raise Base.HOST 0 →
    exec (.pcieReset .fundamental) s = .next { t with host := { t.host with perstAt := t.now, cfgReady := false } }) ∧
  (∀ (s : State), exec (.pcieReset .functionLevel) s = .next (s.endpointReset.raise Base.HOST 0)) ∧
  (∀ (s : State) (sp w : Nat) (sris : Bool) (mps : Fin 2), 1 ≤ sp → sp ≤ 3 → w ∈ [1, 2, 4] → s.rst.asserted = false →
    exec (.pcieLinkUp sp w sris mps) s = .next ((((((s.put F.HOST_LINK_SPEED sp).put F.HOST_LINK_WIDTH w).put F.HOST_LINK_LINK_UP 1).put
      F.HOST_LINK_SRIS (b2n sris)).put F.HOST_LINK_MPS mps.val).raise Base.HOST 0)) ∧
  (∀ (s : State), exec (.aerError true) s = .next ((s.cnt F.HOST_AER_COUNT).raise Base.HOST 1)) ∧
  (∀ (s : State), exec (.aerError false) s = .next (s.raise Base.HOST 2)) ∧
  (∀ (s t : State), s.host.cfgReady = false → s.rst.asserted = false → t = s.until (max s.rst.releasedAt s.host.perstAt + 100 * ms) →
    exec .pcieConfigReady s = .next { t with host := { t.host with cfgReady := true } }) ∧
  (∀ (s : State) (v : Fin 32), s.bitOf (F.HOST_MSIX_PBA (v.val / 32)) (v.val % 32) = true → s.host.funcMask = false →
    exec (.msixUnmask (.vector v false)) s = .next (((s.put (F.HOST_MSIX_VCTRL v.val) 0).clrBitOf (F.HOST_MSIX_PBA (v.val / 32))
      (v.val % 32)).msixDue v.val)) ∧
  (∀ (s : State) (m : Bool), exec (.msixUnmask (.function m)) s =
    .next ((List.range 32).foldl State.msixFlush { s with host := { s.host with funcMask := m } })) ∧
  (∀ (s : State) (o : Occ) (rest : List Occ), s.evt.pipe = o :: rest →
    exec .eventDelivery s = .next ((({ s with evt := { s.evt with pipe := rest } } : State).until (o.time + 4 * cyc)).deliver o)) ∧
  (∀ (s : State) (v : Word), exec (.eoi v) s =
    .next ((bitIndices 32 v.toNat).foldl (fun t i => if t.asserted i then t.msixDue i else t) s)) ∧
  (∀ (s t : State) (v : Fin 32), s.evt.due.contains v.val = true → t = s.until (s.holdoffEnd v.val) → t.asserted v.val = true →
    exec (.msixHoldoffExpiry v) s = .next (State.msixSend { t with evt := { t.evt with due := t.evt.due.filter (fun x => x ≠ v.val) } } v.val)) ∧
  (∀ (s : State) (v : BitVec 16), exec (.evtSw v) s =
    .next ((bitIndices 16 v.toNat).foldl (fun t b => t.pushOcc (240 + b) 0 (t.bitOf F.EVT_SW_ROUTE_HOST b) (t.bitOf F.EVT_SW_ROUTE_SV b)) s))

/-- The yard (R46, R48, R49, R51, R52, R137, R163, R198, R404). Readings of the model, not of the spec: the refusal of a pending START on a failed
or void check, and a check that ends in RUN (DESIGN CHOICE, log 164); the byte 0xFF of a passed check (DESIGN CHOICE, log 166); the boundary
after a time without a period (DESIGN CHOICE, log 170); the reload edge outside RUN and STOPPING (DEDUCED, log 84). -/
def Obligations.YardCommandsAct : Prop :=
  (∀ (s : State), s.running = false → exec .yardCheck s = .next { (s.put F.YARD_CTRL_CHECK 1).startRes A.YARD_CHECK with
    yard := { s.yard with checkRun := true, checkVoid := s.yard.checkVoid && s.yard.checkRun } }) ∧
  (∀ (s : State), s.running = true → exec .yardCheck s = .next (s.put F.YARD_CTRL_CHECK 0)) ∧
  (∀ (s t : State), s.yard.checkRun = true → s.running = false → s.yardCheck.1 = 0 → s.yard.checkVoid = false →
    t = ((({ s with yard := { s.yard with checkRun := false, checkVoid := false } } : State).complete A.YARD_CHECK s.yardCheck.2).raise Base.YARD 1).put
      F.YARD_CTRL_CHECK 0 →
    exec .yardCheckComplete s = .next (t.put F.YARD_STAT_STATE 1)) ∧
  (∀ (s t : State), s.yard.checkRun = true → s.running = false → s.yardCheck.1 ≠ 0 →
    t = (((({ s with yard := { s.yard with checkRun := false, checkVoid := false } } : State).complete A.YARD_CHECK
      (256 * s.yardCheck.1 + s.yardCheck.2)).raise Base.YARD 1).put F.YARD_FAULT_STAT_CHECK_FAIL 1).put F.YARD_CTRL_CHECK 0 →
    exec .yardCheckComplete s = .next (if t.yard.startPend.isSome then (t.put F.YARD_STAT_STATE 0).refuseStart else t.put F.YARD_STAT_STATE 0)) ∧
  (∀ (s t : State), s.yard.checkRun = true → s.running = false → s.yardCheck.1 = 0 → s.yard.checkVoid = true →
    t = ((({ s with yard := { s.yard with checkRun := false, checkVoid := false } } : State).complete A.YARD_CHECK s.yardCheck.2).raise Base.YARD 1).put
      F.YARD_CTRL_CHECK 0 →
    exec .yardCheckComplete s = .next (if t.yard.startPend.isSome then (t.put F.YARD_STAT_STATE 0).refuseStart else t.put F.YARD_STAT_STATE 0)) ∧
  (∀ (s : State), s.yard.checkRun = true → s.running = true →
    exec .yardCheckComplete s = .next ((({ s with yard := { s.yard with checkRun := false, checkVoid := false } } : State).reportCheck
      s.yardCheck.1 s.yardCheck.2).put F.YARD_CTRL_CHECK 0)) ∧
  (∀ (s : State), s.yardState = 1 → exec .yardStart s = .next { s.put F.YARD_CTRL_START 1 with
    yard := { s.yard with startPend := some (s.yard.startPend.getD s.yard.bnd) } }) ∧
  (∀ (s : State), s.yardState ≠ 1 → exec .yardStart s = .next (((({ s with yard := { s.yard with startPend := none } } : State).put
    F.YARD_CTRL_START 0).put F.YARD_FAULT_STAT_START_REFUSED 1).raise Base.YARD 3).noteDrop) ∧
  (∀ (s : State), s.yardState = 2 → exec .yardStop s = .next { s.put F.YARD_CTRL_STOP 1 with
    yard := { s.yard with stopPend := some (s.yard.stopPend.getD s.yard.bnd) } }) ∧
  (∀ (s : State), s.yardState = 1 → s.yard.startPend.isSome = true → exec .yardStop s =
    .next { (s.put F.YARD_CTRL_START 0).put F.YARD_CTRL_STOP 0 with yard := { s.yard with startPend := none } }) ∧
  (∀ (s : State), s.yardState ≠ 2 → (s.yardState ≠ 1 ∨ s.yard.startPend.isSome = false) → exec .yardStop s = .next (s.put F.YARD_CTRL_STOP 0)) ∧
  (∀ (s : State), s.yardState = 1 → s.dueAt s.yard.startPend = true → exec .yardEnterRun s = .next s.enterRun) ∧
  (∀ (s t : State), s.yardState = 2 → s.dueAt s.yard.stopPend = true →
    t = ((s.put F.YARD_STAT_STATE 3).put F.YARD_CTRL_STOP 0).raise Base.YARD 0 →
    exec .yardEnterStopping s = .next (State.padAbort { t with yard := { t.yard with stopPend := none, stopK := t.periodK } } 11)) ∧
  (∀ (s : State), s.yardState = 3 → s.stopDone = true → exec .yardStopComplete s = .next s.enterConfig) ∧
  (∀ (s u : State) (p : Nat), p = s.halfUs * 2500 → p ≠ 0 → s.time.stopped = false → u = s.endRuns.padBoundary →
    exec .periodBoundary s = .next ((({ u with cme := { u.cme with missed := if u.running then u.missesNow else none } } : State).enterPeriod
      ((s.yard.tk + s.perTicks + p - 1) / p * p)).periodStart
      ({ u with cme := { u.cme with missed := if u.running then u.missesNow else none } } : State).poutParts u.periodK)) ∧
  (∀ (s u : State), s.edge.edge = false → s.time.stopped = false → s.running = true → u = s.cutoffNow →
    exec .reloadEdge s = .next ((u.untilCtb (u.yard.tk + u.get F.EDGE_RELOAD)).commitEdge.reloadRun)) ∧
  (∀ (s t : State), s.edge.edge = false → s.time.stopped = false → s.running = false →
    t = (s.untilCtb (s.yard.tk + s.get F.EDGE_RELOAD)).linkEdge.pairReload →
    exec .reloadEdge s = .next ({ t with edge := { t.edge with edge := true } } : State).publishBudget)

/-- The stall link (R51, R52, R55, R56, R69–R71, R76, R77, R89–R91, R94, R95). Readings of the model, not of the spec: an insertion's check raises
YARD_CHECK_DONE (DESIGN CHOICE, log 167) and names 0xFF where it passes (DESIGN CHOICE, log 166); a record with no descriptor fails at once
with 0x09 (DEDUCED, log 42); which gap an MREQ uses (DESIGN CHOICE, log 39) and from where its 100 µs count (DEDUCED, log 201); the instant a
schedule leaves (DESIGN CHOICE, log 45). -/
def Obligations.StallCommandsAct : Prop :=
  (∀ (s t u : State) (m : Master) (a : BitVec 24) (w : Word) (hw : SameCycle) (i o v : Nat), i < 192 → o < 0x1000 → o % 4 = 0 →
    a.toNat = 0x800000 + 0x1000 * i + o → recWordKind o = 1 → o ≠ 0 → s.running = false →
    v = (s.rword i o &&& (0xFFFFFFFF - cfgMask o)) ||| (mergeBytes (s.rword i o) w 0xF#4 &&& cfgMask o) → t = s.setRec i o v →
    u = (if (o = offLink ∨ o = offPath) ∧ v ≠ s.rword i o then t.replaceNode i else t) →
    exec (.stallRecordWrite (⟨m, .bar0 a, [(w, 0xF#4)]⟩, hw)) s = .next ((if o = offLink then u.laneCommon else u).descAccepted)) ∧
  (∀ (s : State) (m : Master) (a : BitVec 24) (w : Word) (hw : SameCycle) (i o : Nat), i < 192 → o < 0x1000 → o % 4 = 0 → a.toNat = 0x800000 + 0x1000 * i + o →
    recWordKind o = 3 →
    exec (.stallRecordWrite (⟨m, .bar0 a, [(w, 0xF#4)]⟩, hw)) s = .next (s.setRec i o (min (mergeBytes (s.rword i o) w 0xF#4 +
      if isLinkCnt o then hw.cntInc.toNat else 0) (2 ^ 32 - 1)))) ∧
  (∀ (s : State) (m : Master) (a : BitVec 24) (w : Word) (hw : SameCycle) (i : Nat), i < 192 → a.toNat = 0x800000 + 0x1000 * i + 0x42C →
    exec (.stallRecordWrite (⟨m, .bar0 a, [(w, 0xF#4)]⟩, hw)) s = .next (if hw.w1cSet.toNat.testBit 8 = true then s.stallFault i 8
      else if w.toNat.testBit 8 = true then s.stallLastingWrite i else s)) ∧
  (∀ (s : State) (m : Master) (a : BitVec 24) (w : Word) (hw : SameCycle) (i o : Nat), i < 192 → o < 0x1000 → o % 4 = 0 → a.toNat = 0x800000 + 0x1000 * i + o →
    recWordKind o = 0 →
    exec (.stallRecordWrite (⟨m, .bar0 a, [(w, 0xF#4)]⟩, hw)) s = .next ((((s.put F.YARD_FAULT_STAT_DESC_DROP 1).cnt
      F.YARD_ERR_COUNT_DESC_DROP_COUNT).raise Base.YARD 2).noteDrop)) ∧
  (∀ (s u : State) (i : Fin 192) (v : Word), s.yardState = 2 → s.enabled i.val = false →
    u = s.setRec i.val 0 ((v.toNat &&& cfgMask 0) ||| 2 ^ 31) → (u.insertCheck i.val).1 ≠ 0 →
    exec (.stallInsertRequest i v) s = .next (((u.disable i.val).setLink i.val { u.link i.val with phase := .none }).reportCheck
      (u.insertCheck i.val).1 (u.insertCheck i.val).2).laneCommon) ∧
  (∀ (s u t : State) (i : Fin 192) (v : Word), s.yardState = 2 → s.enabled i.val = false →
    u = s.setRec i.val 0 ((v.toNat &&& cfgMask 0) ||| 2 ^ 31) → (u.insertCheck i.val).1 = 0 →
    t = (u.reportCheck 0 0xFF).setLink i.val { (u.reportCheck 0 0xFF).link i.val with removal := none, ready := none } →
    exec (.stallInsertRequest i v) s = .next (if t.lkState i.val = 1 then t.insertConfigure i.val
      else (t.setLink i.val { t.link i.val with phase := .describe }).enumAsk (t.laneOf i.val) (some i.val)).laneCommon) ∧
  (∀ (s : State) (i : Fin 192), s.yardState = 2 → s.enabled i.val = true → (s.rword i.val 0).testBit 31 = true →
    exec (.stallRemoveRequest i) s = .next (s.removeRequest i.val)) ∧
  (∀ (s : State) (i : Fin 192), s.lasting i.val = true → ((s.link i.val).run < 16 ∨ s.nstate i.val = 6 ∨ s.nstate i.val = 7) →
    exec (.stallLastingClear i) s = .next (s.cntRec i.val offClrRefused)) ∧
  (∀ (s u : State) (i : Fin 192), s.lasting i.val = true → 16 ≤ (s.link i.val).run → s.nstate i.val ≠ 6 → s.nstate i.val ≠ 7 →
    u = ((s.setRecF i.val offLkState 8 1 0).setLk i.val 1) →
    exec (.stallLastingClear i) s = .next (let t := u.setLink i.val { u.link i.val with faults := [], phase := .none }
      if t.yardState = 2 ∧ t.enabled i.val = true then
        (t.setLink i.val { t.link i.val with phase := .describe }).enumAsk (t.laneOf i.val) (some i.val)
      else t.enumAsk (t.laneOf i.val) (some i.val))) ∧
  (∀ (s v u : State) (n : Fin 48) (f : List (BitVec 64)) (i : Nat), s.laneState n.val ≠ 0 → f.length = 7 → blk f 0 % 256 = 0x27 → frameOk f = true →
    v = s.setRx n.val [] → v.uplinkRecord n.val (bits (blk f 0) 39 8) = some i →
    u = v.enumUplink n.val (bits (blk f 0) 39 8) (bits (blk f 1) 63 32) → bits (blk f 0) 55 40 = u.periodK % 2 ^ 16 →
    exec (.uplinkReceived n f) s = .next (if (u.ll n.val).cut = true ∨ u.yard.tk + u.ulCutoff n.val ≤ u.ctb then u.cntRec i offUlLate
      else if (u.link i).acc then u.cntRec i offUlDup else u.uplinkAccept i f)) ∧
  (∀ (s : State) (n : Fin 48), exec (.uplinkCutoff n) s = .next ((s.untilCtb (s.yard.tk + s.ulCutoff n.val)).lateUplinks n.val)) ∧
  (∀ (s : State) (n : Fin 48) (r : MReq), (s.ll n.val).mgmtNext = some r →
    s.laneSends n.val = true → s.mgmtGap n.val = true →
    exec (.mgmtRequest n) s = .next ((s.setLl n.val { s.ll n.val with
      queue := (s.ll n.val).queue.erase r, tag := ((s.ll n.val).tag + 1) % 256,
      out := (s.ll n.val).out ++ [⟨{ r with tries := r.tries + 1 }, (s.ll n.val).tag, (s.mreqEnd10 n.val + 9) / 10⟩] }).laneSend
        n.val (mreqFrame r.path (s.ll n.val).tag r.wr r.addr r.data))) ∧
  (∀ (s v : State) (n : Fin 48) (f : List (BitVec 64)) (o : MOut), s.laneState n.val ≠ 0 → f.length = 3 → blk f 0 % 256 = 0x72 → frameOk f = true →
    v = s.setRx n.val [] → (v.ll n.val).out.find? (fun o => o.req.path = bits (blk f 0) 39 8 && o.tag = bits (blk f 0) 47 40 && o.req.addr = bits (blk f 1) 47 32) = some o →
    exec (.mrspReceived n f) s = .next ((v.setLl n.val { v.ll n.val with out := (v.ll n.val).out.erase o }).answered n.val o.req
      (bits (blk f 0) 51 48) (bits (blk f 1) 31 0))) ∧
  (∀ (s u : State) (n : Fin 48) (p : Word) (o : MOut), (s.ll n.val).out.find? (fun o => o.req.path = p.toNat) = some o → o.req.tries < 3 →
    u = s.until (o.sent + 100 * us) →
    exec (.mgmtTimeout n p) s = .next ((u.setLl n.val { u.ll n.val with out := (u.ll n.val).out.erase o }).setLl n.val
      { (u.setLl n.val { u.ll n.val with out := (u.ll n.val).out.erase o }).ll n.val with
        queue := o.req :: ((u.setLl n.val { u.ll n.val with out := (u.ll n.val).out.erase o }).ll n.val).queue })) ∧
  (∀ (s : State) (i : Fin 192), (s.link i.val).phase = .configure → (s.link i.val).written = true →
    exec (.insertReadyTimeout i) s = .next ((s.until ((s.link i.val).at0 + sec)).insertFail i.val 15 i.val)) ∧
  (∀ (s : State) (i : Fin 192), (s.link i.val).phase = .precharge →
    exec (.prechargeTimeout i) s = .next ((s.until ((s.link i.val).at0 + 2 * s.prechgMs i.val * ms + sec)).stallFault i.val 9)) ∧
  (∀ (s : State) (i : Fin 192), (s.link i.val).removal = some 0 →
    exec (.removalComplete i) s = .next (((s.setLk i.val 0).setLink i.val { s.link i.val with removal := none, ready := none }).stallEvent i.val 11)) ∧
  (∀ (s : State) (n : Fin 48) (i : Fin 192) (x : Sched), s.nextReady n.val = some i.val → (s.link i.val).ready = some x →
    exec (.schedTransmit n i x.isRef) s = .next (s.sendSched n.val i.val x))

/-- Lane states (R101–R105, R107, R111). Readings of the model, not of the spec: ADAPT is refused before the lane's state is looked at (DEDUCED, log
32), and from RELOCK the present rate is measured first whatever RATE_SEL says (DEDUCED, log 33). -/
def Obligations.LaneStatesAct : Prop :=
  (∀ (s : State) (n : Fin 50), s.laneState n.val = 0 → s.rst.asserted = false → (48 ≤ n.val ∨ (s.on F.PAIR_STAT_WITHDRAWN = false ∧ s.joinBlocked = false)) →
    exec (.laneEnable n) s = .next ((s.put (F.LANE_CTRL_EN n.val) 1).goLane n.val 1)) ∧
  (∀ (s : State) (n : Fin 50), n.val < 48 → s.on (F.LANE_CTRL_EN n.val) = false → s.joinBlocked = true →
    exec (.laneEnable n) s = .next (s.put F.PAIR_FAULT_STAT_JOIN_BLOCK 1).noteDrop) ∧
  (∀ (s t : State) (n : Fin 50), s.laneState n.val ≠ 0 → (s.running = false ∨ s.onLane n.val = []) →
    t = (((((((((s.markersDue n.val).put (F.LANE_CTRL_EN n.val) 0).goLane n.val 0).put (F.LANE_STAT_DELAY_VALID n.val) 0).put (F.LANE_STAT_BLOCK_LOCK n.val) 0).put
      (F.LANE_STAT_MARKER_LOCK n.val) 0).put (F.LANE_STAT_HIBER n.val) 0).put (F.LANE_CTRL_ADAPT n.val) 0).put (F.LANE_CTRL_APPLY_EQ n.val) 0) →
    exec (.lanePark n) s = .next (t.setLane n.val { t.lane n.val with marker := none, invalid := 0, echoOut := [], rx := [] }).laneCommon) ∧
  (∀ (s : State) (n : Fin 50), s.on (F.LANE_CTRL_EN n.val) = true → s.running = true → s.onLane n.val ≠ [] →
    exec (.lanePark n) s = .next ((((s.put (F.LANE_FAULT_STAT_PARK_REFUSED n.val) 1).cnt (F.accessErr (Base.LANE n.val))).raise Base.SYS 0).noteDrop)) ∧
  (∀ (s t : State) (n : Fin 50) (tx rx : Nat), s.laneState n.val = 1 →
    t = ((s.goLane n.val 2).put (F.LANE_STAT_DELAY_VALID n.val) 0).put (F.LANE_STAT_RATE n.val)
      (if 48 ≤ n.val then 2 else if s.get (F.LANE_CTRL_RATE_SEL n.val) = 2 then 1 else 0) →
    exec (.lanePllLock n tx rx) s = .next (((((t.setLane n.val { t.lane n.val with
      txEl := tx, rxEl := rx, fromRelock := false, errCfg := t.reg (A.LANE_ERRCFG n.val) }).setLat n.val 0#32).useFirst n.val).startStream
      n.val).startMeas n.val)) ∧
  (∀ (s : State) (n : Fin 50) (m : TrainMeas), s.laneState n.val = 2 → exec (.laneTrainComplete n m) s = .next (s.trainDone n.val m)) ∧
  (∀ (s : State) (n : Fin 50), n.val < 48 → (s.put (F.LANE_CTRL_ADAPT n.val) 0).onLane n.val ≠ [] →
    ((s.put (F.LANE_CTRL_ADAPT n.val) 0).onLane n.val).all (fun i => (s.put (F.LANE_CTRL_ADAPT n.val) 0).lkState i = 3) = true →
    exec (.laneAdapt n) s = .next ((s.put (F.LANE_CTRL_ADAPT n.val) 0).adaptRefused n.val)) ∧
  (∀ (s t : State) (n : Fin 50), t = s.put (F.LANE_CTRL_ADAPT n.val) 0 → (48 ≤ n.val ∨ t.onLane n.val = []) → t.laneState n.val = 4 →
    exec (.laneAdapt n) s = .next (t.enterTrain n.val false).laneCommon) ∧
  (∀ (s t : State) (n : Fin 50), s.laneState n.val = 4 → t = (s.put (F.LANE_CTRL_APPLY_EQ n.val) 1).put (F.LANE_CTRL_APPLY_EQ n.val) 0 →
    t.laneState n.val = 4 → exec (.applyEq n) s = .next ((t.useRow n.val (t.get (F.LANE_STAT_ROW n.val))).raise (Base.LANE n.val) 12)) ∧
  (∀ (s : State) (n : Fin 50), s.on (F.LANE_FAULT_STAT_LASTING n.val) = true → s.on (F.LANE_STAT_BLOCK_LOCK n.val) = true →
    s.on (F.LANE_STAT_HIBER n.val) = false → exec (.laneLastingClear n) s = .next ((s.put (F.LANE_FAULT_STAT_LASTING n.val) 0).laneCleared n.val)) ∧
  (∀ (s : State) (n : Fin 50), s.on (F.LANE_FAULT_STAT_LASTING n.val) = true → s.on (F.LANE_STAT_BLOCK_LOCK n.val) = false →
    exec (.laneLastingClear n) s = .next (s.cnt (F.LANE_ERR_COUNT_LANE_CLR_REFUSED n.val))) ∧
  (∀ (s : State) (n : Fin 50), s.laneState n.val = 6 →
    exec (.laneRetryTimeout n) s = .next ((s.until ((s.lane n.val).at0 + sec)).enterTrain n.val false)) ∧
  (∀ (s t : State) (n : Fin 50), s.on (F.LANE_STAT_BLOCK_LOCK n.val) = true →
    t = (((s.put (F.LANE_STAT_BLOCK_LOCK n.val) 0).put (F.LANE_STAT_MARKER_LOCK n.val) 0).setLane n.val { s.lane n.val with marker := none, rx := [] }) →
    t.laneState n.val = 4 →
    exec (.blockLockLoss n) s = .next ((((((t.goLane n.val 5).cnt (F.LANE_LOCK_LOSS n.val)).raise (Base.LANE n.val) 1).put
      (F.LANE_CTRL_APPLY_EQ n.val) 0).laneFault n.val).laneCommon)) ∧
  (∀ (s t : State) (n : Fin 50), s.laneState n.val ≠ 0 → t = (s.put (F.LANE_STAT_BLOCK_LOCK n.val) 1).setLane n.val
      { s.lane n.val with lockAt := some ((s.lane n.val).lockAt.getD s.now) } → t.laneState n.val = 5 →
    s.now ≤ (s.lane n.val).at0 + 250 * us → exec (.blockLockGain n) s = .next ((t.goLane n.val 4).raise (Base.LANE n.val) 0)) ∧
  (∀ (s : State) (n : Fin 50), s.laneState n.val = 5 →
    exec (.relockTimeout n) s = .next ((s.until ((s.lane n.val).at0 + 250 * us)).enterTrain n.val true))

/-- Markers, echoes and loose blocks (R72, R99–R102, R108, R111, R114). Readings of the model, not of the spec: a marker wrong in its place and in its
count is one error (DEDUCED, log 34); blocks are received in every state but PARKED, and one with a bad header leaves a partial frame as it was (DESIGN
CHOICE, log 36). -/
def Obligations.MarkersAndEchoesAct : Prop :=
  (∀ (s : State) (n : Fin 50) (p : BitVec 64) (g : Nat), s.on (F.LANE_STAT_BLOCK_LOCK n.val) = true →
    2 < popcount 16 (bits p.toNat 63 48 ^^^ 0x4B2D) →
    exec (.alignmentMarker n p g) s = .next (((s.cnt (F.LANE_MARKER_ERR n.val)).cnt (F.LANE_FRAMING n.val)).put (F.LANE_STAT_MARKER_LOCK n.val) 0)) ∧
  (∀ (s t : State) (n : Fin 50) (p : BitVec 64) (g c : Nat), s.on (F.LANE_STAT_BLOCK_LOCK n.val) = true →
    popcount 16 (bits p.toNat 63 48 ^^^ 0x4B2D) ≤ 2 → (s.lane n.val).marker = some c →
    t = s.setLane n.val { s.lane n.val with marker := some (bits p.toNat 39 16) } →
    exec (.alignmentMarker n p g) s = .next ((if g ≠ 4096 ∨ bits p.toNat 39 16 ≠ (c + 1) % 2 ^ 24 then t.cnt (F.LANE_MARKER_ERR n.val) else t).put
      (F.LANE_STAT_MARKER_LOCK n.val) (if g = 4096 then 1 else 0))) ∧
  (∀ (s : State) (n : Fin 50) (p : BitVec 64) (g : Nat), s.on (F.LANE_STAT_BLOCK_LOCK n.val) = true →
    popcount 16 (bits p.toNat 63 48 ^^^ 0x4B2D) ≤ 2 → (s.lane n.val).marker = none →
    exec (.alignmentMarker n p g) s = .next (s.setLane n.val { s.lane n.val with marker := some (bits p.toNat 39 16) })) ∧
  (∀ (s : State) (n : Fin 50), s.on (F.LANE_STAT_BLOCK_LOCK n.val) = true → (s.lane n.val).marker.isSome = true →
    exec (.markerMissing n) s = .next ((s.cnt (F.LANE_MARKER_ERR n.val)).put (F.LANE_STAT_MARKER_LOCK n.val) 0)) ∧
  (∀ (s : State) (n : Fin 50), s.laneState n.val ≠ 0 → exec (.markerIntervalEnd n) s = .next ((s.markersDue n.val).intervalEnd n.val)) ∧
  (∀ (s t : State) (n : Fin 50), (s.laneState n.val = 3 ∨ s.laneState n.val = 4) → s.laneHalted n.val = false → t = s.until (s.echoDue n.val) →
    t.echoYields n.val = false →
    exec (.echoTimer n) s = .next (
      let q := (t.lane n.val).echoSeq
      let fin := t.txStart10 n.val 0 + t.blockB n.val
      let u := t.setLane n.val { t.lane n.val with
        echoAt := t.now, echoSeq := (q + 1) % 256, echoOut := (t.lane n.val).echoOut ++ [(q, fin / 10)], txFree10 := fin }
      u.emit (.block n.val (echoBlock (u.dlyLast n.val) q)))) ∧
  (∀ (s t : State) (n : Fin 50), (s.laneState n.val = 3 ∨ s.laneState n.val = 4) → s.laneHalted n.val = false → t = s.until (s.echoDue n.val) →
    t.echoYields n.val = true → exec (.echoTimer n) s = .next t) ∧
  (∀ (s t : State) (n : Fin 50) (p : BitVec 64) (rt at' : Nat), (s.laneState n.val = 3 ∨ s.laneState n.val = 4) →
    (s.lane n.val).echoOut.find? (fun e => e.1 = bits p.toNat 39 32) = some (bits p.toNat 39 32, at') → s.now ≤ at' + s.echoLimit n.val →
    t = (s.setLane n.val { s.lane n.val with rx := [], echoOut := (s.lane n.val).echoOut.filter (fun q => q.1 ≠ bits p.toNat 39 32) }).echoOk n.val rt
      (bits p.toNat 31 8) →
    exec (.echoRspReceived n p rt) s =
      .next (if s.laneState n.val = 3 ∧ t.laneState n.val = 4 ∧ n.val < 48 then t.enumLane n.val else t)) ∧
  (∀ (s t : State) (n : Fin 50) (e : Nat × Nat) (rest : List (Nat × Nat)), (s.lane n.val).echoOut = e :: rest → t = s.until (e.2 + s.echoLimit n.val) →
    exec (.echoLost n) s = .next (
      let u := (t.setLane n.val { t.lane n.val with echoOut := rest, lost := (t.lane n.val).lost + 1 }).cnt (F.LANE_ECHO_LOST n.val)
      if u.laneState n.val = 3 ∧ 8 ≤ (u.lane n.val).lost then u.laneFail n.val else u)) ∧
  (∀ (s : State) (p : Fin 2) (pl : BitVec 64) (turn : BitVec 24), s.on (F.LANE_STAT_BLOCK_LOCK (48 + p.val)) = true → s.laneState (48 + p.val) ≠ 7 →
    exec (.echoReceived p pl turn) s = .next ((s.setLane (48 + p.val) { s.lane (48 + p.val) with
      rx := [], txFree10 := s.txStart10 (48 + p.val) 0 + s.blockB (48 + p.val) }).emit (.block (48 + p.val) (echoRspBlock turn.toNat (bits pl.toNat 39 32))))) ∧
  (∀ (s : State) (n : Fin 50) (h : BitVec 2) (pl : BitVec 64), s.laneState n.val ≠ 0 → (h = 0#2 ∨ h = 3#2) →
    exec (.blockReceived n h pl) s =
      .next ((s.setLane n.val { s.lane n.val with invalid := (s.lane n.val).invalid + 1 }).cnt (F.LANE_SH_ERR n.val))) ∧
  (∀ (s : State) (n : Fin 50) (pl : BitVec 64), s.laneState n.val ≠ 0 → (s.lane n.val).rx = [] →
    exec (.blockReceived n 1#2 pl) s = .next (s.cnt (F.LANE_FRAMING n.val))) ∧
  (∀ (s : State) (n : Fin 50) (pl : BitVec 64), s.laneState n.val ≠ 0 → pl.toNat % 256 = 0x3C →
    exec (.blockReceived n 2#2 pl) s = .next ((s.setRx n.val []).cnt (F.LANE_IDLE_BITERR n.val) (popcount 56 (bits pl.toNat 63 8)))) ∧
  (∀ (s : State) (n : Fin 50) (pl : BitVec 64), s.laneState n.val ≠ 0 → pl.toNat % 256 ≠ 0x3C → dataBlocks n.val pl.toNat = 0 → pl.toNat % 256 ≠ 0x96 →
    knownType n.val (pl.toNat % 256) = false → exec (.blockReceived n 2#2 pl) s = .next ((s.setRx n.val []).cnt (F.LANE_FRAMING n.val))) ∧
  (∀ (s : State) (n : Fin 50) (pl : BitVec 64), s.laneState n.val ≠ 0 → pl.toNat % 256 ≠ 0x3C → pl.toNat % 256 ≠ 0x96 →
    knownType n.val (pl.toNat % 256) = true →
    exec (.blockReceived n 2#2 pl) s = .next (s.setRx n.val (if dataBlocks n.val pl.toNat = 0 then [] else [pl]))) ∧
  (∀ (s : State) (n : Fin 50) (pl c : BitVec 64) (l : List (BitVec 64)), s.laneState n.val ≠ 0 → (s.lane n.val).rx = c :: l →
    exec (.blockReceived n 1#2 pl) s = .next (if l.length + 1 = dataBlocks n.val c.toNat then (s.setRx n.val []).frameIn n.val (c :: l ++ [pl])
      else s.setRx n.val (c :: l ++ [pl]))) ∧
  (∀ (s : State) (n : Fin 50) (pl : BitVec 64), pl.toNat % 256 = 0x96 → exec (.blockReceived n 2#2 pl) s = .next s) ∧
  (∀ (s : State) (n : Fin 50) (h : BitVec 2) (pl : BitVec 64), s.laneState n.val = 0 → exec (.blockReceived n h pl) s = .next s)

/-- Edges and balancing (R117–R119, R137, R140, R146, R151, R154, R157, R162). Readings of the model, not of the spec: VALUE[7:0] of a good set is 0
(DESIGN CHOICE, log 206). -/
def Obligations.EdgeAndBalanceCommandsAct : Prop :=
  (∀ (s : State), s.running = true → exec .edgeCommit s = .next (s.put F.EDGE_CTRL_COMMIT 1)) ∧
  (∀ (s u : State), s.running = false → u = s.put F.EDGE_CTRL_COMMIT 0 → (u.commitCheck s.shadow false (s.halfUs * 2500)).1 = 0 →
    exec .edgeCommit s = .next (State.raise
      { (u.complete A.EDGE_CHECK (u.commitCheck s.shadow false (s.halfUs * 2500)).2).put F.EDGE_STAT_APPLYING 0 with
        edge := { u.edge with active := s.shadow, off := 0, copy := none } } Base.EDGE 0)) ∧
  (∀ (s u : State) (r : Nat × Nat), s.running = false → u = s.put F.EDGE_CTRL_COMMIT 0 → r = u.commitCheck s.shadow false (s.halfUs * 2500) → r.1 ≠ 0 →
    exec .edgeCommit s = .next (((State.put
      { (u.complete A.EDGE_CHECK (256 * r.1 + r.2)).put F.EDGE_STAT_APPLYING 0 with edge := { u.edge with copy := none } }
      F.EDGE_FAULT_STAT_CFG_REJECT 1).cnt F.EDGE_ERR_COUNT_CFG_REJECT_COUNT).raise Base.EDGE 1)) ∧
  (∀ (s : State), s.running = true → s.edge.cut = false → s.edge.edge = false → s.time.stopped = false →
    exec .edgeCutoff s = .next (s.untilCtb (s.yard.tk + (s.get F.EDGE_RELOAD - 4 * cyc))).cutoffSample) ∧
  (∀ (s t : State) (i : Fin 192), s.waits i.val = true → t = s.untilCtb (s.yard.tk + s.cd640 i.val / 640) →
    exec (.commandDeadline i) s = .next ((if (t.es i.val).kind = .active ∧ (t.bs i.val).byp = false ∧ t.isMarked i.val = false then
      ((t.put F.EDGE_FAULT_STAT_CMD_REUSE 1).cnt F.EDGE_CMD_REUSE 1).raise Base.EDGE 3 else t).compute i.val)) ∧
  (∀ (s : State) (i : Nat), s.nextStall = some i → exec .scheduleCompute s = .next (s.compute i)) ∧
  (∀ (s t u v w : State) (f : BitVec 6), s.bal.busy = true →
    t = ((List.range 6).filter s.armEn).foldl (fun t a => t.deliverArm a (f.toNat.testBit a)) { s with bal := { s.bal with busy := false, done := true } } →
    u = (stalls.filter (fun i => !t.inSort i)).foldl (fun t i => t.put (F.BAL_RES_RANK i) 0xFF) t →
    v = (((List.range 6).filter s.armEn).foldl (fun t a => t.publishArm a) (u.sortList.foldl (fun t i => t.publishStall i) u)).unpoison Base.BAL 0x10000 →
    w = (v.put F.BAL_DONE_DONE_LAST ((v.ctb - v.yard.tk) % 2 ^ 16)).put F.BAL_DONE_DONE_PEAK (max ((v.ctb - v.yard.tk) % 2 ^ 16) (v.get
      F.BAL_DONE_DONE_PEAK)) →
    exec (.balanceDelivery f) s = .next ((w.put F.BAL_STAT_RES_PERIOD (w.bal.k % 256)).put F.BAL_STAT_ARM_STATE w.armStates)) ∧
  (∀ (s : State) (v : BitVec 6), exec (.armResetRequest v) s =
    .next ((bitIndices 6 v.toNat).foldl (fun t a => t.setBa a { t.ba a with reset := true }) (s.put F.BAL_ARM_RESET v.toNat)))

/-- Data movement of the engine (R163, R169–R171, R173–R175, R186). Readings of the model, not of the spec: MOD values outside the table act as the
last case (DEDUCED, log 62); MARK and WRA with arm 6 or 7 do nothing (DEDUCED, log 63); ADDR_ERR and its count are common to both units (DEDUCED, log
65). -/
def Obligations.EngineMovesData : Prop :=
  (∀ (s t : State) (u : EngUnit) (d : EInstr), s.issuesWhole u d = true → d.op = 0x00 → t = s.atCycle u →
    exec (.nop u) s = .next (State.wentOn (t) u d 1)) ∧
  (∀ (s t : State) (u : EngUnit) (d : EInstr), s.issuesWhole u d = true → d.op = 0x05 → t = s.atCycle u →
    exec (.setx u) s = .next (State.wentOn (if d.vd % 8 = 0 then t else t.setEng u { t.eng u with x := KMap.set (fun _ => 0) (t.eng u).x (d.vd % 8) (if d.mod = 1 then ((t.eng u).ix (d.vd % 8) + d.addr) % 2 ^ 16 else d.addr) }) u d 1)) ∧
  (∀ (s t : State) (u : EngUnit) (d : EInstr), s.issuesWhole u d = true → d.op = 0x08 → t = s.atCycle u →
    exec (.ldc u) s = .next (State.wentOn ((t.setEng u ((t.eng u).setVec d.vd d.prm (t.crow u ((t.eng u).ea d)))).addrErr
      (decide (4096 ≤ (t.eng u).ea d))) u d 1)) ∧
  (∀ (s t : State) (u : EngUnit) (d : EInstr), s.issuesWhole u d = true → d.op = 0x09 → t = s.atCycle u →
    exec (.lds u) s = .next (State.wentOn ((t.setEng u ((t.eng u).setVec d.vd d.prm (t.srow u ((t.eng u).ea d)))).addrErr
      (decide (2048 ≤ (t.eng u).ea d))) u d 1)) ∧
  (∀ (s t : State) (u : EngUnit) (d : EInstr), s.issuesWhole u d = true → d.op = 0x0A → t = s.atCycle u →
    exec (.sts u) s = .next (State.wentOn ((t.writeRow u ((t.eng u).ea d) ((t.eng u).writes d.prm) ((t.eng u).vec d.va)).addrErr
      (decide (1984 ≤ (t.eng u).ea d))) u d 1)) ∧
  (∀ (s t : State) (u : EngUnit) (d : EInstr), s.issuesWhole u d = true → d.op = 0x0B → t = s.atCycle u →
    exec (.gath u) s = .next (State.wentOn (t.opGath u d) u d 2)) ∧
  (∀ (s t : State) (u : EngUnit) (d : EInstr), s.issuesWhole u d = true → d.op = 0x0C → t = s.atCycle u →
    exec (.scat u) s = .next (State.wentOn (((List.range 32).foldl (fun v i => if scatItem (d.num % 256) && (t.eng u).ea d + i < 192 && (t.eng u).writes d.prm i
      then v.scatLane u ((t.eng u).ea d + i) (d.num % 256) (laneI ((t.eng u).vec d.va) i) else v) t).addrErr (!scatItem (d.num % 256))) u d 2)) ∧
  (∀ (s t : State) (u : EngUnit) (d : EInstr), s.issuesWhole u d = true → d.op = 0x0D → t = s.atCycle u →
    exec (.mark u) s = .next (State.wentOn (if d.mod = 1 then (if 6 ≤ d.num % 8 then t else if u = .live then t.commitArmWords (d.num % 8) else t.shadowArm (d.num % 8))
      else (List.range 32).foldl (fun v i => if (t.eng u).ea d + i < 192 && (t.eng u).writes d.prm i then (if u = .live then v.commitStallSlots ((t.eng u).ea d + i)
          else v.shadowStall ((t.eng u).ea d + i)) else v) t) u d 1)) ∧
  (∀ (s t : State) (u : EngUnit) (d : EInstr), s.issuesWhole u d = true → d.op = 0x0E → t = s.atCycle u →
    exec (.wra u) s = .next (State.wentOn (if 6 ≤ d.num % 8 then t else if u = .live then { t with cme := { t.cme with pendA := KMap.set (fun _ => 0) t.cme.pendA (4 * (d.num % 8) + bits d.num 5 4) (tc 16 (laneI ((t.eng u).vec d.va) 0)) } }
      else { t with cme := { t.cme with pendA1 := KMap.set (fun _ => 0) t.cme.pendA1 (4 * (d.num % 8) + bits d.num 5 4) (tc 16 (laneI ((t.eng u).vec d.va) 0)) } }) u d 1))

/-- Arithmetic of the engine (R163, R166–R168, R173, R178). Readings of the model, not of the spec: MOD values outside the table act as the last case
(DEDUCED, log 62); SAT, ACC_OVF and ADDR_ERR are set by both units alike (DEDUCED, log 65). -/
def Obligations.EngineComputes : Prop :=
  (∀ (s t : State) (u : EngUnit) (d : EInstr), s.issuesWhole u d = true → d.op = 0x10 → t = s.atCycle u →
    exec (.mvm u) s = .next (State.wentOn (t.opMvm u d) u d (d.num + 3))) ∧
  (∀ (s t : State) (u : EngUnit) (d : EInstr), s.issuesWhole u d = true → d.op = 0x11 → t = s.atCycle u →
    exec (.vmac u) s = .next (State.wentOn ((t.setEng u ((t.eng u).macAt d.ac (macRow ((t.eng u).ac d.ac) ((t.eng u).vec d.va) ((t.eng u).vec d.vb)).1)).ovfFlag
      (macRow ((t.eng u).ac d.ac) ((t.eng u).vec d.va) ((t.eng u).vec d.vb)).2) u d 1)) ∧
  (∀ (s t : State) (u : EngUnit) (d : EInstr), s.issuesWhole u d = true → d.op = 0x12 → t = s.atCycle u →
    exec (.vmacc u) s = .next (State.wentOn (((t.setEng u ((t.eng u).macAt d.ac (macRow ((t.eng u).ac d.ac) (t.crow u ((t.eng u).ea d)) ((t.eng u).vec d.va)).1)).ovfFlag
      (macRow ((t.eng u).ac d.ac) (t.crow u ((t.eng u).ea d)) ((t.eng u).vec d.va)).2).addrErr (decide (4096 ≤ (t.eng u).ea d))) u d 1)) ∧
  (∀ (s t : State) (u : EngUnit) (d : EInstr), s.issuesWhole u d = true → d.op = 0x13 → t = s.atCycle u →
    exec (.obs u) s = .next (State.wentOn (t.opObs u d (fun _ => true) true) u d (eCost d))) ∧
  (∀ (s t : State) (u : EngUnit) (d : EInstr), s.issuesWhole u d = true → d.op = 0x14 → t = s.atCycle u →
    exec (.accl u) s = .next (State.wentOn (if d.mod = 1 then t.setEng u ((t.eng u).macAt d.ac (lanes32 (fun i => laneI ((t.eng u).vec d.va) i * 32768)))
      else t.setEng u ((t.eng u).setAcc d.ac zero32)) u d 1)) ∧
  (∀ (s t : State) (u : EngUnit) (d : EInstr), s.issuesWhole u d = true → d.op = 0x15 → t = s.atCycle u →
    exec (.wb u) s = .next (State.wentOn ((t.setEng u ((t.eng u).setVec d.vd d.prm (((t.eng u).ac d.ac).map (fun a => sat16 (divHalfEven (a * 2 ^ d.sh) 32768))))).satFlag
      ((List.range 32).any (fun i => (t.eng u).writes d.prm i && saturates (laneI (((t.eng u).ac d.ac).map (fun a =>
        divHalfEven (a * 2 ^ d.sh) 32768)) i)))) u d (eCost d + (s.eng u).drain d))) ∧
  (∀ (s t : State) (u : EngUnit) (d : EInstr), s.issuesWhole u d = true → d.op = 0x16 → t = s.atCycle u →
    exec (.lim u) s = .next (State.wentOn ((t.setEng u ((t.eng u).setVec d.vd d.prm (lanes32 (fun i => min (max (laneI ((t.eng u).vec d.va) i)
      (laneI (t.crow u ((t.eng u).ea d)) i)) (laneI (t.crow u ((t.eng u).ea d + 1)) i))))).addrErr (decide (coefRows ≤ (t.eng u).ea d + 1))) u d 2)) ∧
  (∀ (s t : State) (u : EngUnit) (d : EInstr), s.issuesWhole u d = true → d.op = 0x17 → t = s.atCycle u →
    exec (.sat u) s = .next (State.wentOn (t.opSat u d) u d (eCost d + (s.eng u).drain d))) ∧
  (∀ (s t : State) (u : EngUnit) (d : EInstr), s.issuesWhole u d = true → d.op = 0x18 → t = s.atCycle u →
    exec (.preset u) s = .next (State.wentOn (if d.mod = 1 ∧ ((t.eng u).latch % 64).testBit (d.num % 8) = false then t else
      ((t.writeRow u ((t.eng u).ea d) ((t.eng u).writes d.prm) ((lanes32 (fun i => laneI ((t.eng u).vec d.va) i -
        sat16 (laneI (((t.eng u).ac d.ac).map (fun a => wbRaw a d.sh)) i))).map sat16)).satFlag
        ((List.range 32).any (fun i => (t.eng u).writes d.prm i && (saturates (laneI (((t.eng u).ac d.ac).map (fun a => wbRaw a d.sh)) i) ||
          saturates (laneI (lanes32 (fun i => laneI ((t.eng u).vec d.va) i -
            sat16 (laneI (((t.eng u).ac d.ac).map (fun a => wbRaw a d.sh)) i))) i))))).addrErr (decide (hostRow ≤ (t.eng u).ea d))) u d (eCost d + (s.eng u).drain d))) ∧
  (∀ (s t : State) (u : EngUnit) (d : EInstr), s.issuesWhole u d = true → d.op = 0x19 → t = s.atCycle u →
    exec (.sel u) s = .next (State.wentOn (t.setEng u ((t.eng u).setVec d.vd d.prm (lanes32 (fun i => if (t.eng u).pr.testBit i then laneI ((t.eng u).vec d.va) i
      else laneI ((t.eng u).vec d.vb) i)))) u d 1)) ∧
  (∀ (s t : State) (u : EngUnit) (d : EInstr), s.issuesWhole u d = true → d.op = 0x1A → t = s.atCycle u →
    exec (.vadd u) s = .next (State.wentOn (t.opVadd u d) u d 1)) ∧
  (∀ (s t : State) (u : EngUnit) (d : EInstr), s.issuesWhole u d = true → d.op = 0x1B → t = s.atCycle u →
    exec (.red u) s = .next (State.wentOn (t.opRed u d) u d 6)) ∧
  (∀ (s t : State) (u : EngUnit) (d : EInstr), s.issuesWhole u d = true → d.op = 0x1C → t = s.atCycle u →
    exec (.cmp u) s = .next (State.wentOn (t.opCmp u d) u d 1))

/-- Control flow of the engine (R163, R164, R173, R176, R177, R182, R184). Readings of the model, not of the spec: END consumes the presets the run
latched and the shadow unit latches its own (DEDUCED, log 66); LOOP with NUM 0 runs its body once (DEDUCED, log 62); ILLEGAL is common to both units
(DEDUCED, log 65). -/
def Obligations.EngineFlow : Prop :=
  (∀ (s t v : State) (d : EInstr), s.issuesWhole .live d = true → d.op = 0x01 → t = s.atCycle .live →
    v = t.setEng .live { t.eng .live with run := .idle } →
    exec (.endRun .live) s = .next (
      let left := v.get F.CME_STAT_PRESET_PEND &&& (63 - ((t.eng .live).latch &&& (63 - v.cme.presetNew % 64)) % 64)
      let w := v.put F.CME_STAT_PRESET_PEND left
      let x := w.put F.CME_PRESET (w.get F.CME_PRESET &&& left)
      let e := ((t.eng .live).cyc + 1) % 2 ^ 16
      ((x.put F.CME_LASTRUN_END_CYCLE e).put F.CME_LASTRUN_END_PEAK (max e (x.get F.CME_LASTRUN_END_PEAK))).engState.runOver)) ∧
  (∀ (s t v : State) (d : EInstr), s.issuesWhole .shadow d = true → d.op = 0x01 → t = s.atCycle .shadow →
    v = t.setEng .shadow { t.eng .shadow with run := .idle } →
    exec (.endRun .shadow) s = .next { v with cme := { v.cme with preset1 := v.cme.preset1 &&& (63 - (t.eng .shadow).latch % 64) } }) ∧
  (∀ (s t : State) (u : EngUnit) (d : EInstr) (w : Nat), s.issuesWhole u d = true → d.op = 0x02 → t = s.atCycle u →
    t.waitEvent d.mod d.num = some w → w ≤ (t.eng u).cyc → exec (.wait u) s = .next (t.wentOn u d 1)) ∧
  (∀ (s t : State) (u : EngUnit) (d : EInstr), s.issuesWhole u d = true → d.op = 0x02 → t = s.atCycle u →
    (t.waitEvent d.mod d.num).all (fun w => decide ((t.eng u).cyc < w)) = true →
    exec (.wait u) s = .next (t.setEng u { t.eng u with run := .waiting d.mod d.num })) ∧
  (∀ (s : State) (u : EngUnit) (mod num w : Nat), (s.eng u).run = .waiting mod num → (u = .live → s.on F.CME_DBG_STAT_HALTED = false) →
    s.waitEvent mod num = some w →
    exec (.waitEvent u) s = .next ((s.untilCtb (s.yard.tk + 10 * max (s.eng u).cyc w)).setEng u { s.eng u with
      run := .running, pc := (nextWord (s.eng u).pc (s.eng u).loops).1, loops := (nextWord (s.eng u).pc (s.eng u).loops).2, cyc := max (s.eng u).cyc w + 1 })) ∧
  (∀ (s t : State) (u : EngUnit) (d : EInstr), s.issuesWhole u d = true → d.op = 0x03 → t = s.atCycle u →
    exec (.loop u) s = .next (t.setEng u { t.eng u with
      pc := (t.eng u).pc + 1, loops := ((t.eng u).pc + 1, d.addr, d.num) :: (t.eng u).loops, cyc := (t.eng u).cyc + 1 })) ∧
  (∀ (s t : State) (u : EngUnit) (d : EInstr), s.issuesWhole u d = true → d.op = 0x04 → t = s.atCycle u → (t.eng u).branch d = true →
    exec (.brf u) s = .next (t.setEng u { t.eng u with pc := d.addr, cyc := (t.eng u).cyc + 2 })) ∧
  (∀ (s t : State) (u : EngUnit) (d : EInstr), s.issuesWhole u d = true → d.op = 0x04 → t = s.atCycle u → (t.eng u).branch d = false →
    exec (.brf u) s = .next (t.setEng u { t.eng u with
      pc := (nextWord (t.eng u).pc (t.eng u).loops).1, loops := (nextWord (t.eng u).pc (t.eng u).loops).2, cyc := (t.eng u).cyc + 2 })) ∧
  (∀ (s : State) (u : EngUnit), s.running = true → (s.eng u).run = .running → s.on F.CME_DBG_STAT_HALTED = false →
    (s.eng u).cyc + 4 < s.cyclesY → (16384 ≤ (s.eng u).pc ∨ eOpcodes.contains (s.engNext u).op = false) →
    exec (.illegalOpcode u) s = .next ((((s.atCycle u).put F.CME_FAULT_STAT_ILLEGAL 1).raise Base.CME 6).overrun u)) ∧
  (∀ (s t : State), s.runs .live = true → t = s.untilCtb (s.yard.tk + 10 * (s.cyclesY - 4)) →
    exec (.cmeOverrun .live) s = .next (
      let v := (((t.setEng .live { t.eng .live with run := .idle, ranOver := true }).put F.CME_FAULT_STAT_OVERRUN 1).cnt F.CME_OVERRUN_COUNT).raise Base.CME 0
      ((v.put F.CME_LASTRUN_END_CYCLE 0xFFFF).put F.CME_LASTRUN_END_PEAK 0xFFFF).engState.runOver)) ∧
  (∀ (s t : State), s.runs .shadow = true → t = s.untilCtb (s.yard.tk + 10 * (s.cyclesY - 4)) →
    exec (.cmeOverrun .shadow) s = .next (t.setEng .shadow { t.eng .shadow with run := .idle, ranOver := true }))

/-- The engine's host commands (R170, R171, R180, R183–R185, R194, R197, R199, R333). Readings of the model, not of the spec: HALT with no run in
progress is held for the next run (DEDUCED, log 76); RAM_DROP counts once for the access (DEDUCED, log 77); an uncorrectable error met by the groom
leaves CME's own RAM_UE alone (DEDUCED, log 78); which word of a FIFO memory is poisoned (DESIGN CHOICE, log 210). -/
def Obligations.EngineHostCommandsAct : Prop :=
  (∀ (s : State) (m : Master) (a : BitVec 24) (v : Word) (be : BitVec 4), a.toNat % 4 = 0 → inRams .live a.toNat = true → be ≠ 0#4 →
    (s.running = false ∨ inHostRows a.toNat = true) →
    exec (.engineRamWrite ⟨m, .bar0 a, [(v, be)]⟩) s = .next (
      let t := s.putDword a.toNat v be
      let t := if inProg .live a.toNat then t.progWritten else t
      if inHostRows a.toNat = true ∧ s.session = true then t.putDword (a.toNat + 0x100000) v be else t)) ∧
  (∀ (s : State) (m : Master) (a : BitVec 24) (v : Word) (be : BitVec 4), a.toNat % 4 = 0 → inRams .live a.toNat = true → be ≠ 0#4 →
    s.running = true → inHostRows a.toNat = false →
    exec (.engineRamWrite ⟨m, .bar0 a, [(v, be)]⟩) s =
      .next ((((s.put F.CME_FAULT_STAT_RAM_DROP 1).raise Base.CME 6).cnt F.CME_RAM_DROP).noteDrop)) ∧
  (∀ (s : State) (m : Master) (a : BitVec 24) (v : Word) (be : BitVec 4), a.toNat % 4 = 0 → inRams .live a.toNat = false →
    inRams .shadow a.toNat = true → inProg .live a.toNat = false → inHostRows a.toNat = false → be ≠ 0#4 →
    exec (.paddockRamWrite ⟨m, .bar0 a, [(v, be)]⟩) s = .next (if s.session then
        (((s.put F.CME_FAULT_STAT_RAM_DROP 1).raise Base.CME 6).cnt F.CME_RAM_DROP).noteDrop
      else s.putDword a.toNat v be)) ∧
  (∀ (s t : State), t = (s.put F.CME_CTRL_CHECK 1).setRes A.CME_CHECK_HI { (s.put F.CME_CTRL_CHECK 1).res A.CME_CHECK_HI with busy := true } →
    exec .programCheck s = .next { t with cme := { t.cme with checkRun := true, checkDirty := false } }) ∧
  (∀ (s t : State) (r : Nat × Nat × Nat × Int), s.cme.checkRun = true → r = s.progCheck .live (s.get F.CME_ENTRY) →
    t = { s with cme := { s.cme with checkRun := false, checkDirty := false } } →
    exec .programCheckComplete s = .next (
      let u := ((t.complete A.CME_CHECK_HI (r.2.1 + 2 ^ 16 * r.2.2.1 + 2 ^ 32 * r.1)).put F.CME_CTRL_CHECK 0).put F.CME_STAT_PROG_OK
        (if r.1 = 0 ∧ s.cme.checkDirty = false then 1 else 0)
      (if r.1 = 0 then u else u.put F.CME_FAULT_STAT_PROG_BAD 1).raise Base.CME 5)) ∧
  (∀ (s t : State) (v : BitVec 6), t = s.put F.CME_ARM_RESTORE v.toNat →
    exec (.armRestoreRequest v) s = .next { t with cme := { t.cme with restore := t.cme.restore ||| v.toNat } }) ∧
  (∀ (s : State) (v : BitVec 6), exec (.presetRequest v) s =
    .next ((bitIndices 6 v.toNat).foldl (fun t a => (t.setBitOf F.CME_PRESET a).presetArm a) s)) ∧
  (∀ (s t : State), t = s.put F.CME_DBG_HALT 1 → exec .debugHalt s = .next
    (if t.on F.CME_DBG_CTRL && t.on F.CME_DBG_HALT && !t.on F.CME_DBG_STAT_HALTED && t.running && t.cme.u0.betweenOps then t.enterHalt false else t)) ∧
  (∀ (s : State), s.mayIssue .live = true → s.atBreak = true → exec .breakpointHit s = .next (s.enterHalt true)) ∧
  (∀ (s t : State), s.on F.CME_DBG_CTRL = true → s.on F.CME_DBG_STAT_HALTED = true → t = s.put F.CME_DBG_STEP 0 →
    exec .debugStep s = .next t.stepOne) ∧
  (∀ (s t v : State), t = s.put F.CME_DBG_HALT 0 → t.on F.CME_DBG_STAT_HALTED = true →
    v = (t.put F.CME_DBG_STAT_HALTED 0).put F.CME_DBG_STAT_AT_BRK 0 →
    exec .debugRelease s = .next (
      let i := fun (x : EngU) => if x.run = .parked then x else { x with run := .idle }
      let w : State := { v with cme := { v.cme with u0 := i v.cme.u0, u1 := i v.cme.u1 } }
      (((List.range 6).foldl (fun t a => t.presetArm a) w).raise Base.CME 7).engState.holdUpdate.updateFreeze.pwmHaltUpdate)) ∧
  (∀ (s : State) (m : ScrubMem) (a : BitVec 32), exec (.groomScrub m a .clean) s = .next s ∧
    exec (.groomScrub m a .single) s = .next ((if m = .engine then s.cnt F.CME_RAM_CE else s).err .ce 8 7 a.toNat) ∧
    exec (.groomScrub m a .uncorrectable) s =
      .next ((if m = .buffer then s.poisonFifo a.toNat else s.poison (scrubErr m).cls a.toNat).err (scrubErr m) 8 7 a.toNat)) ∧
  (∀ (s : State), s.on F.BAL_STAT_WARMUP = true → s.on F.YARD_WARMUP_WU_LEFT = false → exec .warmupEnd s =
    .next ((((List.range 6).filter s.armEn).foldl (fun t a => t.presetArm a) (s.put F.BAL_STAT_WARMUP 0)).relatch)) ∧
  (∀ (s : State), exec .healthLog s = .next (s.enabledList.foldl (fun t i => t.healthOne (s.ctb / (86400 * sec)) i) s))

/-- The paddock's commands (R186, R198, R200–R203, R205, R356). Readings of the model, not of the spec: the entry of a bench load is ARG2, and an open
session is judged before the arguments (DEDUCED, log 80); when a comparison may end (DEDUCED, log 79); with N = 0 the arguments are judged against the
period in progress (DEDUCED, log 176). -/
def Obligations.PaddockCommandsAct : Prop :=
  (∀ (s : State) (r : Nat × Nat × Nat × Int), s.cmdIs 0x30 = true → s.cme.pad.st = .none → s.cmdArg 0 % 4 = 0 →
    (s.get F.SEC_STAT_OWNER_STATE = 0 ∨ (s.reg A.SEC_POLICY).toNat.testBit 8 = false) → r = s.progCheck .shadow (s.cmdArg 2 % 2 ^ 14) →
    exec .paddockLoad s = .next (if r.1 ≠ 0 then s.finish 5 (s.loadReport (r.2.1 + 2 ^ 16 * r.2.2.1) r.1 r.2.2.2 9) else
      let t := s.copyRows 1984 2048
      let t := if (s.cmdArg 0).testBit 2 = true then t.copyRows 0 1984 else t
      let t := { t with cme := { t.cme with preset1 := 63, pad := { t.cme.pad with entry := s.cmdArg 2 % 2 ^ 14 } }
                        upd := { t.upd with session := none } }.setPad .shadow
      t.finish 0 (t.loadReport (r.2.1 + 2 ^ 16 * r.2.2.1) r.1 r.2.2.2 0))) ∧
  (∀ (s t : State) (i : Image), s.cmdIs 0x30 = true → s.cme.pad.st = .none → s.cmdArg 0 % 4 = 1 → s.programEntry (s.cmdArg 1) = true →
    i = s.image (s.cmdArg 1) → t = (s.flashAgain 9 i).imageToPaddock i →
    exec .paddockLoad s = .next (t.paddockStart (s.cmdArg 2 % 2 ^ 14) (some i.rollback))) ∧
  (∀ (s : State), s.padMode 0 = true → s.cme.pad.st = .shadow → s.yardState = yardRun → s.on F.CME_DBG_STAT_HALTED = false →
    exec .paddockCompareHandover s = .next (if s.padArgsOk then (s.withPad s.padArm).setPad .compare else s.finish 2 (s.padReport 0))) ∧
  (∀ (s t : State), s.padMode 0 = true → s.cme.pad.st = .shadow → s.yardState ≠ yardRun → s.yardState ≠ yardStopping → s.cmdArg 1 = 0 →
    s.on F.CME_DBG_STAT_HALTED = false → s.padArgsOk = true → t = ((s.withPad s.padArm).exchangeRoles.put F.CME_STAT_PROG_OK 1).retain →
    exec .paddockCompareHandover s = .next (t.finish 0 (t.padReport 0))) ∧
  (∀ (s : State), s.padMode 1 = true → exec .paddockReport s = .next (s.finish 0 (s.padReport 0))) ∧
  (∀ (s t : State) (d : Bool), s.padMode 2 = true → s.cme.pad.st ≠ .none → t = s.padEnd d →
    exec (.paddockEnd d) s = .next (t.finish 0 (t.padReport 0))) ∧
  (∀ (s : State), s.padMode 3 = true → s.cme.pad.st = .retain → s.yardState = yardRun →
    exec .paddockRollback s = .next (s.withPad { s.cme.pad with exchange := some (s.yard.bnd, true) })) ∧
  (∀ (s t : State), s.cme.pad.st = .compare → s.cme.pad.exchange.isNone = true →
    t = (if s.comparing && !s.atBoundary && s.periodCompared then s.padCompare else s) → t.cme.pad.n ≤ t.cme.pad.done →
    exec .paddockCompareEnd s = .next (if t.acceptance = 0 then
        t.withPad { t.cme.pad with exchange := some (if t.atBoundary = true then t.yard.bnd - 1 else t.yard.bnd, false) }
      else t.padAbort t.acceptance)) ∧
  (∀ (s t : State) (back : Bool), s.exchangeDue = some back →
    t = (if back = true then { s.exchangeRoles with upd := { s.exchangeRoles.upd with session := none } }.setPad .shadow else s.exchangeRoles.retain) →
    exec .paddockHandover s = .next ((t.withPad { t.cme.pad with awaitRun := true }).engStart)) ∧
  (∀ (s : State) (d : Bool), s.cme.pad.st = .retain → s.cme.pad.exchange.isNone = true →
    s.cme.pad.retainEnd ≤ s.yard.bnd → exec (.retainExpiry d) s = .next (s.padEnd d))

/-- The time commands (R207–R212, R220, R221). Readings of the model, not of the spec: TIME_ROLLCNT falls on a backward wrap (DEDUCED, log 87); the
grid of periods after an alignment (DEDUCED, log 98); the period number after an alignment (DESIGN CHOICE, log 170); an ABS target that has passed
fires when its base next reaches it (DEDUCED, log 99). -/
def Obligations.TimeBaseCommandsAct : Prop :=
  (∀ (s t : State) (n : Fin 4) (k : Nat), s.time.stopped = false → s.tbFull n.val / 2 ^ 32 = s.rolledOf n.val + k → 0 < k →
    t = ((s.put ⟨A.TIME_ROLLCNT, 8 * n.val, 8⟩ ((s.get ⟨A.TIME_ROLLCNT, 8 * n.val, 8⟩ + k) % 256)).setBitOf F.TIME_ROLL_FWD n.val).raise Base.TIME 0 →
    exec (.tbWrap n) s = .next (t.markRolled n.val)) ∧
  (∀ (s t : State) (n : Fin 4) (k : Nat), s.time.stopped = false → s.tbFull n.val / 2 ^ 32 + k = s.rolledOf n.val → 0 < k →
    t = ((s.put ⟨A.TIME_ROLLCNT, 8 * n.val, 8⟩ ((s.get ⟨A.TIME_ROLLCNT, 8 * n.val, 8⟩ + 256 - k % 256) % 256)).setBitOf F.TIME_ROLL_BACK n.val).raise Base.TIME 0 →
    exec (.tbWrap n) s = .next (t.markRolled n.val)) ∧
  (∀ (s t : State) (n : Fin 4), s.time.stopped = false → s.tbFull n.val / 2 ^ 32 = s.rolledOf n.val →
    t = s.advance (s.ticksToTb n.val ((s.rolledOf n.val + 1) * 2 ^ 32)) → exec (.tbWrap n) s = .next (t.wrapTb n.val)) ∧
  (∀ (s : State) (n : Fin 4) (u : Fin 8), s.time.stopped = true →
    exec (.tbWrap n) s = .next s ∧ exec .ctbServoUpdate s = .next s ∧ exec (.compareFire u) s = .next s) ∧
  (∀ (s : State), exec .timeSnap s = .next (
    let t := (List.range 4).foldl (fun (t : State) n => t.setReg (A.TIME_SNAP_TB n) (BitVec.ofNat 32 (s.tb n))) s
    let u := (t.setReg (A.TIME_SNAP_CTB 0) (BitVec.ofNat 32 t.ctb)).setReg (A.TIME_SNAP_CTB 1) (BitVec.ofNat 32 (t.ctb / 2 ^ 32))
    (u.setReg A.TIME_SNAP_ROLLCNT (u.reg A.TIME_ROLLCNT)).put F.TIME_CTRL_SNAP 0)) ∧
  (∀ (s t : State) (g : Int), s.alignOk = true →
    g = (s.srcTime (s.get F.TIME_CTRL_SEL) : Int) - (s.time.ctbF : Int) →
    t = ({ s with pair := { s.pair with ctbGap := s.pair.ctbGap + g / 2 ^ 34 } } : State).withTime { s.time with
      ctbF := s.srcTime (s.get F.TIME_CTRL_SEL), jumps := (s.now, g / 2 ^ 40) :: s.time.jumps.filter (fun x => decide (s.now ≤ x.1 + 20000)) } →
    exec .align s = .next (
      let u := if s.ctbState = ctbFree then (t.setRate (clampI (-t.rateMax) t.rateMax (t.srcRate (s.get F.TIME_CTRL_SEL)))).srcDrew (s.get F.TIME_CTRL_SEL) else t
      let u := (u.put F.TIME_STAT_CTB_STATE ctbTracking).put F.TIME_STAT_SRC_ACT (s.get F.TIME_CTRL_SEL)
      let u := ((u.put F.TIME_STAT_ALIGNED 1).put F.TIME_CTRL_ALIGN 0).markRolled 3
      let u := (List.range 8).foldl (fun (v : State) n => if v.get (F.TIME_CMP_CFG_TB n) = 3 then v.put (F.TIME_CMP_CFG_EN n) 0 else v) u
      let u := u.withTime { u.time with servoAt := u.now }
      let w : State := { u with yard := { u.yard with tk := if u.perTicks = 0 then u.yard.tk else u.ctb / u.perTicks * u.perTicks } }
      if s.ctbState = ctbFree then (w.raise Base.TIME 7).raise Base.TIME 3 else w.raise Base.TIME 7)) ∧
  (∀ (s : State), s.alignOk = false →
    exec .align s = .next (((s.put F.TIME_CTRL_ALIGN 0).put F.TIME_FAULT_STAT_ALIGN_REFUSED 1).cnt F.TIME_ERR_COUNT_ALIGN_REFUSED_COUNT).noteDrop) ∧
  (∀ (s : State), s.on F.TIME_CTRL_ALIGN_EN = true → s.ctbState = ctbFree → s.alignOk = true → exec .ctbAutoAlign s = .next s.align) ∧
  (∀ (s t u : State), s.time.stopped = false → s.ctbState ≠ ctbFree → t = s.until (s.time.servoAt + ms) → u = (t.withTime { t.time with servoAt := t.now }).noteQualified.ctbJudge →
    exec .ctbServoUpdate s = .next (if u.ctbState = ctbTracking then u.servo else u)) ∧
  (∀ (s t : State) (n : Fin 8), s.time.stopped = false → s.on (F.TIME_CMP_CFG_EN n.val) = true → s.time.cmpDue.testBit n.val = false → 0 < s.cmpWait n.val →
    t = s.advance (s.ticksToTb (s.get (F.TIME_CMP_CFG_TB n.val)) (s.tbFull (s.get (F.TIME_CMP_CFG_TB n.val)) + s.cmpWait n.val)) →
    exec (.compareFire n) s = .next (
      let o := t.get (F.TIME_CMP_CFG_OUT n.val)
      let u := (t.withTime { t.time with cmpDue := clearBit t.time.cmpDue n.val }).setBitOf F.TIME_CMP_FIRED n.val
      let u := if o.testBit 1 = true then u.emit (.syncOut n.val (u.getOr (F.TIME_CMP_CFG_PULSE_W n.val) 1)) else u
      let u := if 4 ≤ o then u.emit (.cmpOut n.val (o / 4 * 4)) else u
      let u := if o.testBit 0 = true then u.raise Base.TIME 1 else u
      if u.on (F.TIME_CMP_CFG_PERIODIC n.val) = true then
        let v := u.get (F.TIME_CMP_VAL n.val)
        let per := max (u.get (F.TIME_CMP_PER n.val)) 100
        let w := u.put (F.TIME_CMP_VAL n.val) ((v + per) % 2 ^ 32)
        if cmpPassed (w.on (F.TIME_CMP_CFG_MODE n.val)) (w.tb (t.get (F.TIME_CMP_CFG_TB n.val))) v per = true then w.withTime { w.time with cmpDue := setBit w.time.cmpDue n.val } else w
      else u.put (F.TIME_CMP_CFG_EN n.val) 0)) ∧
  (∀ (s t : State) (n : Fin 8), s.time.stopped = false → s.on (F.TIME_CMP_CFG_EN n.val) = true → s.time.cmpDue.testBit n.val = true →
    t = s.advance cyc → exec (.compareFire n) s = .next (t.cmpFire n.val)) ∧
  (∀ (s : State) (ns : Nat), 20 ≤ ns → (s.fifo A.TIME_CAP_LO).length < 16 →
    exec (.syncInCapture ns) s = .next ((s.storeFifo A.TIME_CAP_LO (s.ctb % 2 ^ 48)).raise Base.TIME 6)) ∧
  (∀ (s : State) (ns : Nat), 20 ≤ ns → 16 ≤ (s.fifo A.TIME_CAP_LO).length →
    exec (.syncInCapture ns) s = .next (((s.spill A.TIME_CAP_LO (s.ctb % 2 ^ 48) 0 [] [F.TIME_FAULT_STAT_TS_OVF] Base.TIME 5).put F.TIME_FAULT_STAT_TS_OVF 1).raise Base.TIME 5))

/-- Network time (R213–R219, R224). Readings of the model, not of the spec: every write of TIME_DOMCFG drops both masters (DEDUCED, log 86); announce
timers are judged in LOCKED with the supervisor up (DEDUCED, log 94); OFFS is rounded half to even (DEDUCED, log 96); what leaves counts TX_OK
(DEDUCED, log 97). -/
def Obligations.NetworkTimeCommandsAct : Prop :=
  (∀ (s : State) (v : Word), exec (.ptpEnable v) s = .next (s.writeReg .host A.TIME_DOMCFG v {})) ∧
  (∀ (s : State) (v : Word), s.on (F.cfgLock Base.TIME) = false → exec (.ptpEnable v) s = .next (
    let t := s.setReg A.TIME_DOMCFG (v &&& 0xFFFF0700#32)
    let t := if t.domClash = true then t.put F.TIME_FAULT_STAT_DOM_CLASH 1 else t
    (t.domWritten .a true).domWritten .b true)) ∧
  (∀ (s t : State) (d : Dom) (m : SyncMsg), m.port ≠ .e3 → -4 ≤ m.logInt → m.logInt ≤ 1 → s.portUp (portIx m.port) = true →
    s.domOf m.domain = some d → (s.dom d).master = some m.source →
    t = s.setDom d { s.dom d with lastSync := setAt (s.dom d).lastSync (portIx m.port) (some s.now), logSync := m.logInt } →
    exec (.ptpSyncRx m) s = .next (
      if (s.dom d).port ≠ portIx m.port + 1 ∧ t.domState d ≠ 4 then t
      else if (s.dom d).port ≠ portIx m.port + 1 ∧ t.syncRecent d ((s.dom d).port - 1) = true then
        (t.setDom d { t.dom d with inLock := 0, outLock := 0 }).goDom d 2 true
      else
        let u := t.setDom d { t.dom d with port := portIx m.port + 1 }
        let ns := clampI (-(2 ^ 31)) (2 ^ 31 - 1) (divHalfEven (u.syncOffset d m) (5 * unit40))
        (((u.cnt (syncCnt d)).setReg (if d = .a then A.TIME_DOMA_OFFS else A.TIME_DOMB_OFFS) (BitVec.ofInt 32 ns)).judgeOffset d
          (u.syncOffset d m)).updMpd)) ∧
  (∀ (s : State) (m : SyncMsg), m.port = .e3 → exec (.ptpSyncRx m) s = .next (s.cnt F.TIME_PTP_DROP)) ∧
  (∀ (s t : State) (d : Dom) (m : AnnMsg), m.port ≠ .e3 → -3 ≤ m.logInt → m.logInt ≤ 1 → s.portUp (portIx m.port) = true →
    s.on F.SYS_STAT_SVR_UP = true → s.domOf m.domain = some d →
    t = (s.setDom d { s.dom d with foreign := addForeign s.now (portIx m.port + 1) m (s.dom d).foreign }).bmca d →
    exec (.ptpAnnounceRx m) s = .next (if (t.dom d).master = some m.source then
      (((t.setDom d { t.dom d with lastAnn := t.now, logAnn := m.logInt }).masterPorts d).utcFrom d m).updMpd else t.updMpd)) ∧
  (∀ (s u v t : State), u = s.until (s.time.pdAt + sec) → v = u.withTime { u.time with pdAt := u.now } → v.portUp 0 = true →
    t = (v.withTime { v.time with pdSeq := setAt v.time.pdSeq 0 ((v.time.pdSeq.getD 0 0 + 1) % 2 ^ 16),
                                  pdSent := setAt v.time.pdSent 0 (some (v.egress 0, v.time.pdSeq.getD 0 0)) }).sendEvent .e1 2
                                    (v.time.pdSeq.getD 0 0) 0 0 →
    exec .pdelayTimer s = .next (t.pdelayReq .e2)) ∧
  (∀ (s : State) (m : PdReq), m.port ≠ .e3 → s.portUp (portIx m.port) = true →
    exec (.pdelayReqRx m) s = .next (let u := s.emit (.ptpOwn m.port 3 m.seq (s.portIdentity (portIx m.port)) m.source s.hsrTag
        (s.egress (portIx m.port)) (divHalfEven (((s.egress (portIx m.port) : Int) - s.ingress (portIx m.port) m.stamp) * 2 ^ 16) 5))
      ((if s.eth.mode = 1 then u.nextSeq else u).cnt (txOk (portIx m.port))).timeQueue (txtsAddr (portIx m.port))
      (s.egress (portIx m.port) / 5 % 2 ^ 32 + 2 ^ 32 * (m.seq % 2 ^ 16)))) ∧
  (∀ (s : State) (m : PdResp) (st : Nat), m.port ≠ .e3 → s.time.pdSent.getD (portIx m.port) none = some (st, m.seq) →
    exec (.pdelayRespRx m) s = .next (s.withTime { s.time with
      mpd := setAt s.time.mpd (portIx m.port) (divHalfEven ((s.ingress (portIx m.port) m.stamp - (st : Int)) * 16 - 5 * m.turn) 10).toNat
      pdSent := setAt s.time.pdSent (portIx m.port) none }).updMpd) ∧
  (∀ (s t : State) (d : Dom), (s.dom d).master.isSome = true → s.domState d ≠ 0 →
    t = s.until (((s.dom d).lastSync.getD ((s.dom d).port - 1) none).getD (s.dom d).selAt + 3 * intervalTicks (s.dom d).logSync) →
    exec (.syncTimeout d) s = .next (if t.syncRecent d (2 - (s.dom d).port) then (t.setDom d { t.dom d with port := 3 - (s.dom d).port }).updMpd
      else t.domHold d)) ∧
  (∀ (s t : State) (d : Dom), (s.dom d).master.isSome = true → s.on F.SYS_STAT_SVR_UP = true →
    t = s.until ((s.dom d).lastAnn + 3 * intervalTicks (s.dom d).logAnn) →
    exec (.announceTimeout d) s = .next (if t.domState d = 3 then
      ((t.setDom d { t.dom d with holdAt := t.now, inLock := 0, outLock := 0 }).put (domStateFld d) 4).raise Base.TIME 2 else t)) ∧
  (∀ (s t : State) (d : Dom), s.domState d = 4 → t = s.until ((s.dom d).holdAt + s.getOr F.TIME_LOCKCFG_HOLD_S 1 * sec) →
    exec (.domainHoldoverExpiry d) s =
      .next (((t.setDom d { t.dom d with master := none, steps := [none, none], lastSync := [none, none] }).put (domStateFld d) 1).raise Base.TIME 2)) ∧
  (∀ (s : State) (f : TcFrame) (o : EthPort), f.port ≠ .e3 → f.kind ≠ .delay → f.kind ≠ .pdelay → s.on F.TIME_DOMCFG_TC_EN = true →
    s.ringForwards = true → o = (if f.port = .e1 then EthPort.e2 else EthPort.e1) →
    exec (.tcForward f) s = .next (((s.emit (.ptp o (tcKindNo f.kind) (if f.kind = .sync then s.tcCorr f else f.corr) f.tag.toNat)).cnt
      (txOk (portIx o))).cnt F.TIME_TC_FWD))

/-- The calendar and the backup domain (R223–R226, R228). Readings of the model, not of the spec: the tamper input is judged by level and enable
(DEDUCED, log 179); the 1,000 s run from the last trim or from reset (DEDUCED, log 178); CAL_SET is the load together with its passage (DEDUCED, log
101). -/
def Obligations.CalendarCommandsAct : Prop :=
  (∀ (s t : State) (d : Dom), s.rtc.running = true → s.on F.RTC_CTRL_SYNC_EN = true → s.ctbState = ctbTracking → s.get F.TIME_STAT_SRC_ACT = domTb d →
    t = s.advance (s.ticksToTb (domTb d) (((s.dom d).ns / 1000000000 + 1) * 1000000000)) →
    exec (.calCorrection d) s = .next (if ((t.domSubs d : Int) - (t.calSubs : Int)).natAbs < 2 then t else
      if 32768 < ((t.domSubs d : Int) - (t.calSubs : Int)).natAbs then ((t.setCal (t.domSubs d)).cnt F.RTC_CORR).rtcRecord 6
      else (t.setCal (t.domSubs d)).cnt F.RTC_CORR)) ∧
  (∀ (s : State) (r : Int), s.rtc.running = true → s.on F.RTC_CTRL_TRIM_AUTO = true → s.ctbState = ctbTracking → s.get F.TIME_STAT_SRC_ACT < 2 →
    exec (.calTrim r) s = .next (let t := s.until (s.rtc.trimAt + 1000 * sec)
      ((t.withRtc { t.rtc with trimAt := t.now }).backupNote A.RTC_TRIM).put F.RTC_TRIM (tc 16 (sat16 r)))) ∧
  (∀ (s t : State), s.rtc.inflight = none →
    t = ((s.withRtc { s.rtc with inflight := some (A.RTC_CMD, 1#32) }).put F.RTC_STAT_WR_BUSY 1) →
    exec .calSet s = .next (let u := (t.withRtc { t.rtc with inflight := none }).put F.RTC_STAT_WR_BUSY 0
      ((u.setCal ((u.get F.RTC_SET + 2 ^ 32 * u.get F.RTC_SETHI_SECHI) * 32768 + u.get F.RTC_SETHI_SUB)).rtcRecord 5).setReg A.RTC_CMD 0)) ∧
  (∀ (s : State) (a : Nat) (v : Word), s.rtc.inflight = some (a, v) → a ≠ A.RTC_CMD →
    exec .backupWriteDone s = .next (State.tamperJudge s ((((s.withRtc { s.rtc with inflight := none }).put F.RTC_STAT_WR_BUSY 0).backupNote a).setReg a v))) ∧
  (∀ (s t : State) (mv : Nat),
    t = ((s.withRtc { s.rtc with vbakMv := some mv }).put F.RTC_STAT_VBAK (min (mv / 20) 255)).put F.RTC_STAT_BACKUP_OK (if 2000 ≤ mv then 1 else 0) →
    exec (.backupLow mv) s = .next (if mv < 2000 ∧ t.on F.RTC_FAULT_STAT_BACKUP_LOW = false then
      (t.put F.RTC_FAULT_STAT_BACKUP_LOW 1).raise Base.RTC 2 else t)) ∧
  (∀ (s : State) (mv : Nat), mv < 1600 →
    exec (.backupStop mv) s = .next ((s.vbak mv).withRtc { (s.vbak mv).rtc with running := false, inflight := none })) ∧
  (∀ (s t : State) (mv : Nat), s.rtc.running = false → 1600 ≤ mv →
    t = [0x80008, A.RTC_UTC, A.RTC_TRIM, A.RTC_ALARM, A.RTC_TAMPER_TS, A.RTC_TAMPER_TSHI].foldl (fun (t : State) a => t.setReg a (RegMap.resetWord a)) s →
    exec (.backupStart mv) s = .next (State.tamperJudge s (
      let u := (((t.put F.RTC_STAT_CAL_VALID 0).put F.RTC_FAULT_STAT_TAMPER 0).put F.RTC_LOG_IDX_HEAD 0).put F.RTC_STAT_WR_BUSY 0
      ((u.withRtc { running := true, tamperOpen := u.rtc.tamperOpen }).vbak mv).rtcRecord 2))) ∧
  (∀ (s t : State), s.rtc.running = true → s.on F.RTC_CTRL_ALARM_EN = true → t = s.advance (s.ticksToAlarm (s.get F.RTC_ALARM)) →
    exec .rtcAlarm s = .next (t.raise Base.RTC 0)) ∧
  (∀ (s t : State), s.rtc.running = true →
    t = (s.withRtc { s.rtc with tamperOpen := !s.on F.RTC_CTRL_TAMPER_POL }).put F.RTC_STAT_TAMPER_IN 1 →
    exec .tamperInput s = .next (if t.tamperOn = true ∧ s.tamperOn = false then
        let u := t.put F.RTC_FAULT_STAT_TAMPER 1
        let u := ((u.setReg A.RTC_TAMPER_TS (BitVec.ofNat 32 u.calSec)).setReg A.RTC_TAMPER_TSHI (BitVec.ofNat 32 u.calHi)).rtcRecord 1
        let u := if u.rst.off || u.rst.asserted then u.withRtc { u.rtc with tamperPend := true } else u.raise Base.RTC 1
        if u.rst.off then u.withTack { u.tack with tamperPend := true } else u.tamperAct
      else t)) ∧
  (∀ (s : State), s.rtc.running = true → exec .tamperInputRelease s = .next ((s.withRtc { s.rtc with tamperOpen := s.on F.RTC_CTRL_TAMPER_POL }).put F.RTC_STAT_TAMPER_IN 0))

/-- Power and resets (R143, R278, R287, R311, R386, R388–R391). Readings of the model, not of the spec: the 54 V bus stands up after POWER_ON
(DEDUCED, log 130); causes merge while a reset is asserted, and the button in reset (DEDUCED, log 131). -/
def Obligations.ResetCommandsAct : Prop :=
  (∀ (s t : State) (mv : Nat), mv < 10800 → t = s.resetAsk 3 → exec (.bus12vLow mv) s = .next (t.withRst { t.rst with off := true })) ∧
  (∀ (s t : State), s.rst.mrstLow = false → t = s.resetAsk 1 → exec .resetInputAssert s = .next (t.withRst { t.rst with mrstLow := true })) ∧
  (∀ (s : State), exec .resetInputRelease s = .next (s.withRst { s.rst with mrstLow := false })) ∧
  (∀ (s t : State) (at0 : Nat), s.rst.preAt = some at0 → t = s.until (at0 + 3 * us) →
    exec .moduleReset s = .next (t.resetKeep.withRst { t.rst with asserted := true, preAt := none, preHalt := false, at0 := t.now })) ∧
  (∀ (s t : State) (p : Bool) (n : BitVec 6), s.rst.asserted = true → s.rst.off = false → s.rst.mrstLow = false →
    t = (if s.rst.causes.testBit 2 = true then s.until (s.rst.at0 + 2 * ms) else s) →
    exec (.moduleResetRelease p n) s = .next (t.resetRelease p n.toNat)) ∧
  (∀ (s t : State) (mv : Nat), s.rst.off = true → t = (if s.rst.asserted = true then s else s.resetAssert) →
    exec (.powerOn mv) s = .next ((t.setBus 54000).withRst
      { t.rst with off := false, fromOff := true, causes := if mv < 1000 then setBit t.rst.causes 0 else t.rst.causes })) ∧
  (∀ (s : State) (c : Bool) (n : Nat), s.rst.asserted = true →
    exec (.serviceButtonChange c n) s = .next (s.withRst { s.rst with closed := c })) ∧
  (∀ (s : State) (n : Nat), s.rst.asserted = false → s.rst.button = .open →
    exec (.serviceButtonChange true n) s = .next (s.withRst { s.rst with button := .pressed s.now, closed := true })) ∧
  (∀ (s t : State) (n at0 : Nat), s.rst.asserted = false → s.rst.button = .pressed at0 → t = s.until (at0 + n * ms) →
    exec (.serviceButtonChange false n) s = .next (let u := t.withRst { t.rst with button := .open, closed := false }
      if at0 + 2 * sec ≤ u.now ∧ u.now < at0 + 10 * sec then u.resetAsk 2 else u)) ∧
  (∀ (s t : State) (at0 : Nat), s.rst.button = .pressed at0 → t = s.until (at0 + 10 * sec) →
    exec .serviceButtonHeld s = .next ((t.withRst { t.rst with button := .held at0, closed := true }).svRecord 0x81)) ∧
  (∀ (s t : State) (at0 : Nat), s.rst.button = .held at0 → t = s.until (at0 + 60 * sec) →
    exec .serviceButtonStuck s = .next ((t.withRst { t.rst with button := .stuck none, closed := true }).svRecord 0x82)) ∧
  (∀ (s t : State) (at0 : Nat), s.rst.button = .stuck (some at0) → t = s.until (at0 + sec) →
    exec .serviceButtonUnstick s = .next (t.withRst { t.rst with button := .open, closed := false })) ∧
  (∀ (s t : State), s.time.stopped = false → t = { s with time := { s.time with stopped := true } } →
    exec .fabricClockLoss s = .next ((t.trip ⟨1, 0x0E, 0, allOutputs⟩).enforce.pwmHaltUpdate)) ∧
  (∀ (s t : State), s.time.stopped = true →
    t = { s with time := { s.time with stopped := false, relocks := s.time.relocks + 1, y := 0 }, aux := { s.aux with telDiscard := [true, true] } } →
    exec .rootPllRelock s = .next (((((((t.put F.TIME_STAT_CTB_STATE 0).put F.TIME_STAT_SRC_ACT 3).put F.TIME_STAT_ALIGNED 0).setReg A.TIME_CTB_RATE 0).pcieReset
      true).relock 0).relock 1).enforce.pwmHaltUpdate)

/-- Ethernet and the remote service (R213, R229–R240, R254). Readings of the model, not of the spec: the order in which a remote request is judged
(DEDUCED, log 145); a LAN fault is raised once, and when the ring is judged open (DEDUCED, log 106). -/
def Obligations.EthernetCommandsAct : Prop :=
  (∀ (s : State) (v : Word), exec (.e12Enable v) s = .next (s.writeReg .host 0x90008 v {})) ∧
  (∀ (s t : State) (v : Word), s.on (F.cfgLock Base.ETH) = false → t = s.setReg 0x90008 (v &&& 0xF3F#32) →
    exec (.e12Enable v) s = .next (if (s.reg 0x90008).toNat.testBit 0 = false ∧ t.on F.ETH_CTRL_E12_EN = true then t.e12Up.darkPorts else t.darkPorts)) ∧
  (∀ (s : State) (p : EthPort) (fast : Bool), exec (.ethLinkChange p false fast) s = .next (s.setPortLink (portIx p) false fast)) ∧
  (∀ (s : State) (p : EthPort) (fast : Bool), s.portOn (portIx p) = true → s.on (sfpFld (portIx p)) = true →
    speedOk (if portIx p = 2 then s.get F.ETH_CTRL_E3_SPEED else s.eth.speed) fast = true →
    exec (.ethLinkChange p true fast) s = .next (s.setPortLink (portIx p) true fast)) ∧
  (∀ (s t : State) (p : EthPort) (present : Bool) (pins q : SfpPins), q = (if present = true then pins else noSfp) →
    (s.on (sfpFld (portIx p)) ≠ present ∨ s.eth.sfpBad.getD (portIx p) noSfp ≠ q) →
    t = (s.withEth { s.eth with sfpBad := setAt s.eth.sfpBad (portIx p) q }).put (sfpFld (portIx p)) (b2n present) →
    exec (.sfpChange p present pins) s = .next (
      let u := (if (q.txFault = true ∨ q.los = true) ∧ t.portOn (portIx p) = true then t.put F.ETH_FAULT_STAT_SFP_FAULT 1 else t).raise Base.ETH 5
      if present = false ∧ u.on (linkFld (portIx p)) = true then u.setPortLink (portIx p) false false else u)) ∧
  (∀ (s : State) (p : EthPort) (present : Bool) (pins : SfpPins), s.on (sfpFld (portIx p)) = present →
    s.eth.sfpBad.getD (portIx p) noSfp = (if present = true then pins else noSfp) → exec (.sfpChange p present pins) s = .next s) ∧
  (∀ (s : State) (f : EthFrame), s.portUp (portIx f.port) = true → (f.fcsOk = false ∨ f.octets < 64 ∨ 1522 < f.octets) →
    exec (.ethFrameRx f) s = .next (s.cnt (rxErr (portIx f.port)))) ∧
  (∀ (s : State) (f : EthFrame), s.portUp (portIx f.port) = true → f.fcsOk = true → 64 ≤ f.octets → f.octets ≤ 1522 →
    exec (.ethFrameRx f) s = .next (if f.kind = .pause then s.cnt (rxDrop (portIx f.port))
      else if f.kind = .ptp then (let u := if portIx f.port < 2 ∧ s.eth.mode = 0 then s.nodeHeard f.src (decide (portIx f.port = 0)) else s
        if f.dst = .other then u else if portIx f.port = 2 then u.cnt F.TIME_PTP_DROP else u.cnt (rxOk (portIx f.port)))
      else if portIx f.port < 2 ∧ s.eth.mode = 0 then s.prpRx f else if portIx f.port < 2 ∧ s.eth.mode = 1 then s.hsrRx f
      else if f.dst ≠ .other then (s.cnt (rxOk (portIx f.port))).upward (portIx f.port) f.kind else s)) ∧
  (∀ (s t : State), s.on F.ETH_CTRL_E12_EN = true → s.eth.mode ≠ 2 → t = s.until (s.eth.lifeAt + s.lifeTicks) →
    exec .supervisionTimer s = .next ((t.withEth { t.eth with lifeAt := t.now }).sendFrame false 4)) ∧
  (∀ (s t : State) (m : BitVec 48) (n : PrpNode) (a : Nat), s.eth.mode = 0 → s.eth.nodes.find? (fun n => n.mac = m.toNat) = some n → n.raised = false →
    n.a = some a → n.b = none → t = s.until (n.first + 3 * s.lifeTicks) → t.now ≤ n.last + 3 * s.lifeTicks →
    exec (.lanFaultTimeout m) s = .next ((t.withEth { t.eth with
      nodes := { n with raised := true } :: s.eth.nodes.filter (fun x => x.mac ≠ m.toNat) }).raise Base.ETH 1)) ∧
  (∀ (s t : State) (m : BitVec 48) (n : PrpNode), s.eth.nodes.find? (fun n => n.mac = m.toNat) = some n → t = s.until (n.last + s.forgetTicks) →
    exec (.nodeForgetExpiry m) s = .next (t.withEth { t.eth with nodes := s.eth.nodes.filter (fun x => x.mac ≠ m.toNat) })) ∧
  (∀ (s t : State), s.on F.ETH_STAT_RING_CLOSED = true →
    t = s.until (min ((s.eth.own.getD 0 none).getD 0) ((s.eth.own.getD 1 none).getD 0) + 2 * s.lifeTicks + 1) →
    exec .ringOpen s = .next ((t.put F.ETH_STAT_RING_CLOSED 0).raise Base.ETH 2)) ∧
  (∀ (s : State) (p : EthPort) (o : List Byte), s.portUp (portIx p) = true → s.on F.SYS_STAT_SVR_UP = false →
    exec (.rraRequest p o) s = .next ((s.cnt F.ETH_RRA_REJ).cnt (rxDrop (portIx p)))) ∧
  (∀ (s : State) (p : EthPort) (o : List Byte), s.portUp (portIx p) = true → s.on F.SYS_STAT_SVR_UP = true → (if p = .e3 then s.get F.ETH_IP3 else s.get F.ETH_IP12) = 0 →
    exec (.rraRequest p o) s = .next (s.cnt (rxDrop (portIx p)))) ∧
  (∀ (s : State) (p : EthPort) (o : List Byte), s.portUp (portIx p) = true → s.on F.SYS_STAT_SVR_UP = true → (if p = .e3 then s.get F.ETH_IP3 else s.get F.ETH_IP12) ≠ 0 →
    s.stationKey (rraParse o).station = none →
    exec (.rraRequest p o) s = .next (((s.put F.ETH_FAULT_STAT_AUTH 1).cnt F.ETH_RRA_REJ).raise Base.ETH 3)) ∧
  (∀ (s : State) (p : EthPort) (o key : List Byte), s.portUp (portIx p) = true → s.on F.SYS_STAT_SVR_UP = true →
    (if p = .e3 then s.get F.ETH_IP3 else s.get F.ETH_IP12) ≠ 0 → s.stationKey (rraParse o).station = some key →
    o.drop (o.length - 16) = rraTag key (o.take (o.length - 16)) → (rraParse o).ok = true →
    KMap.get (fun _ => none) s.eth.lastSeq (rraParse o).station = none → s.eth.queue.length < 64 →
    exec (.rraRequest p o) s = .next (s.withEth { s.eth with
      queue := s.eth.queue ++ [⟨p, o, s.now⟩]
      lastSeq := KMap.set (fun _ => none) s.eth.lastSeq (rraParse o).station (some (rraParse o).seq)
      replies := KMap.set (fun _ => []) s.eth.replies (rraParse o).station [] })) ∧
  (∀ (s : State) (p : EthPort) (o : List Byte), s.portUp (portIx p) = false → exec (.rraRequest p o) s = .next s) ∧
  (∀ (s : State) (q : RraReq) (rest : List RraReq) (r : State × Nat × List Byte), s.eth.queue = q :: rest →
    s.on F.SYS_STAT_SVR_UP = true → s.rraWaits (rraParse q.octets) = false →
    r = (s.withEth { s.eth with queue := rest }).rraRun q.port (rraParse q.octets) →
    exec .rraExecute s = .next (
      let t := r.1.cnt (if r.2.1 = 0 ∨ r.2.1 = 4 ∨ r.2.1 = 5 then F.ETH_RRA_OK else F.ETH_RRA_REJ)
      let reply := rraReply ((s.stationKey (rraParse q.octets).station).getD []) q.octets r.2.1 r.2.2
      (t.withEth { t.eth with replies := KMap.set (fun _ => []) t.eth.replies (rraParse q.octets).station reply }).rraSend q.port reply))

/-- The CAN controllers (R242–R248, R250–R252). Readings of the model, not of the spec: collisions and holds of the reference message (DEDUCED, log
184); cycle time runs from the start of frame of the reference message (DEDUCED, log 183); SYNCED sets with EN (DEDUCED, log 103); the steps of the
error counters (PRESUMED, log 102). -/
def Obligations.CanCommandsAct : Prop :=
  (∀ (s : State) (n : Fin 2) (v : Word), exec (.canEnable n v) s = .next (s.writeReg .host (canBase n.val + 8) v {})) ∧
  (∀ (s t : State) (n : Fin 2) (v : Word), s.on (F.cfgLock (canBase n.val)) = false → (s.reg (canBase n.val + 8)).toNat.testBit 0 = false →
    v.toNat.testBit 2 = false → t = s.setReg (canBase n.val + 8) ((v &&& 0xFB#32) ||| (s.reg (canBase n.val + 8) &&& 4#32)) → t.on (F.CAN_CTRL_EN n.val) = true →
    exec (.canEnable n v) s = .next (if t.canSettingsOk n.val then
        (let u := t.canLeft n.val
         (u.setCan n.val { u.canOf n.val with mode := bits (u.reg (canBase n.val + 8)).toNat 5 3 }).put (F.CAN_STAT_SYNCED n.val) 1)
      else ((t.put (F.CAN_CTRL_EN n.val) 0).put (F.CAN_FAULT_STAT_CFG_DROP n.val) 1).noteDrop)) ∧
  (∀ (s t : State) (n : Fin 2) (v : Word), s.on (F.cfgLock (canBase n.val)) = false → (s.reg (canBase n.val + 8)).toNat.testBit 0 = true →
    v.toNat.testBit 2 = false → t = s.setReg (canBase n.val + 8) ((v &&& 0xFB#32) ||| (s.reg (canBase n.val + 8) &&& 4#32)) → t.on (F.CAN_CTRL_EN n.val) = false →
    exec (.canEnable n v) s = .next ((((t.setCan n.val { t.canOf n.val with offAt := some t.ctb }).put
      (F.CAN_STAT_SYNCED n.val) 0).ttMaster n.val false).ttBacked n.val false)) ∧
  (∀ (s t : State) (n : Fin 2) (m : Master) (v : Word), s.queueOwner n.val m = true → v.toNat.testBit 31 = true →
    t = s.put (F.CAN_TX_PUSH_ENTRY n.val) (v.toNat % 64) →
    exec (.txPush n m v) s = .next (if t.txPend n.val (v.toNat % 64) then
        ((t.put (F.CAN_FAULT_STAT_PUSH_REF n.val) 1).cnt (F.CAN_ERR_COUNT_PUSH_REFUSED n.val)).noteDrop
      else ((t.setCan n.val ((t.canOf n.val).setEntry (v.toNat % 64) { words := t.staging n.val, pushed := t.ctb })).setTxPend n.val
        (v.toNat % 64) true).putPairBit (F.CAN_TX_DONE n.val) (v.toNat % 64) false)) ∧
  (∀ (s : State) (n : Fin 2) (m : Master) (v : Word), s.queueOwner n.val m = false →
    exec (.txPush n m v) s = .next (((s.put (F.CAN_FAULT_STAT_NOT_OWNER n.val) 1).cnt (F.accessErr (canBase n.val))).noteDrop)) ∧
  (∀ (s : State) (n : Fin 2) (m : Master) (v : BitVec 64), s.queueOwner n.val m = true →
    exec (.txCancel n m v none) s = .next ((bitIndices 64 v.toNat).foldl (fun t e => if t.txPend n.val e = true then
      (t.setTxPend n.val e false).setCan n.val ((t.canOf n.val).setEntry e {}) else t) s)) ∧
  (∀ (s : State) (n : Fin 2) (m : Master) (v : BitVec 64) (sof : Nat), s.queueOwner n.val m = true → s.canSending n.val sof = true →
    exec (.txCancel n m v (some sof)) s = .next ((bitIndices 64 v.toNat).foldl (fun t e => t.cancelOne n.val
      (if s.refOffered n.val sof = false then s.canOffer n.val sof else none) e) s)) ∧
  (∀ (s t u : State) (n : Fin 2) (sof k : Nat) (later : Option (Nat × Nat)), s.canSending n.val sof = true → s.refOffered n.val sof = true →
    later = (s.canOf n.val).refNext.filter (fun p => decide (sof < p.1)) → k = (later.map (fun p => p.2)).getD (s.get (F.CAN_TT_STAT_CYCLE n.val)) →
    t = s.canEmit n.val (s.get (F.CAN_TT_REF_REF_ID n.val) + 2 ^ 29 * s.get (F.CAN_TT_REF_REF_IDE n.val))
      (clampN 1 8 (s.get (F.CAN_REF_DATA_HI_REF_DLC n.val))) (s.refWords n.val k) →
    u = t.setCan n.val { t.canOf n.val with
      refDue := later.map (fun p => p.1), refNext := none, refColl := 0, cycleAt := some sof, winCount := k, missed := 0 } →
    exec (.canTxAck n sof) s = .next ((u.canErr n.val (u.tec n.val - 1) (u.recOf n.val)).canEnded n.val)) ∧
  (∀ (s t u : State) (n : Fin 2) (sof e : Nat), s.canSending n.val sof = true → s.refOffered n.val sof = false → s.canOffer n.val sof = some e →
    t = ((s.canEmit n.val ((s.canOf n.val).entry e).head (s.sentCtl n.val ((s.canOf n.val).entry e)) ((s.canOf n.val).entry e).sentData).tdcMeasure
      n.val (s.sentCtl n.val ((s.canOf n.val).entry e))).setTxPend n.val e false →
    u = ((((t.putPairBit (F.CAN_TX_DONE n.val) e true).setTxts n.val e sof).cnt (F.CAN_TX_OK n.val)).raise (canBase n.val) 0) →
    exec (.canTxAck n sof) s = .next (let v := u.setCan n.val ((u.canOf n.val).setEntry e { (s.canOf n.val).entry e with coll := 0 })
      (v.canErr n.val (v.tec n.val - 1) (v.recOf n.val)).canEnded n.val)) ∧
  (∀ (s : State) (n : Fin 2) (sof e : Nat), s.canSending n.val sof = true → s.refOffered n.val sof = false → s.canOffer n.val sof = some e →
    exec (.canTxFail n sof .arbitration) s = .next (((s.clearColl n.val e).cnt (F.CAN_ARB_LOST n.val)).canEnded n.val)) ∧
  (∀ (s t : State) (n : Fin 2) (sof e : Nat), s.canSending n.val sof = true → s.refOffered n.val sof = false → s.canOffer n.val sof = some e →
    t = (s.clearColl n.val e).cnt (F.CAN_BUS_ERR n.val) →
    exec (.canTxFail n sof .other) s = .next ((t.canErr n.val (s.tec n.val + 8) (s.recOf n.val)).canEnded n.val)) ∧
  (∀ (s : State) (n : Fin 2) (sof : Nat) (why : CanFail), s.canSending n.val sof = true → s.refOffered n.val sof = true →
    exec (.canTxFail n sof why) s = .next ((s.refFail n.val why).canEnded n.val)) ∧
  (∀ (s t : State) (n : Fin 2) (e : Fin 64) (x : CanEntry), x = (s.canOf n.val).entry e.val → x.held = true →
    t = s.until (x.heldAt + (1 + s.get F.SYS_SLOT_SLOT_ID) * 64 * s.nomBit n.val) →
    exec (.collisionHoldExpiry n e) s = .next (t.setCan n.val ((t.canOf n.val).setEntry e.val { x with held := false, heldTo := t.ctb }))) ∧
  (∀ (s : State) (n : Fin 2) (f : CanRx), s.on (F.CAN_CTRL_EN n.val) = true → s.busOff n.val = false → f.own = false →
    exec (.canRxFrame n f) s = .next (((s.recGood n.val).refRx n.val f).rxFilter n.val f)) ∧
  (∀ (s : State) (n : Fin 2), s.get (F.CAN_STAT_ERR_STATE n.val) = 2 → (s.put (F.CAN_CTRL_RECOVER n.val) 0).busOff n.val = true →
    exec (.canRecover n) s = .next (let t := s.put (F.CAN_CTRL_RECOVER n.val) 0
      t.setCan n.val { t.canOf n.val with recovering := true })) ∧
  (∀ (s : State) (n : Fin 2), s.busOff n.val = true → ((s.canOf n.val).recovering = true ∨ s.on (F.CAN_CTRL_AUTO_RECOV n.val) = true) →
    exec (.canRecoveryDone n) s = .next (((s.setCan n.val { s.canOf n.val with recovering := false }).put (F.CAN_STAT_SYNCED n.val) 1).canErr n.val 0 0)) ∧
  (∀ (s t : State) (n : Fin 2) (e : CanRxErr), s.on (F.CAN_CTRL_EN n.val) = true → s.busOff n.val = false → t = s.cnt (F.CAN_BUS_ERR n.val) →
    exec (.canBusError n e) s = .next (if (t.canOf n.val).mode.testBit 0 = true ∨ (t.canOf n.val).mode.testBit 1 = true then t
      else t.canErr n.val (t.tec n.val) (t.recOf n.val + (if e = .ordinary then 1 else 8)))) ∧
  (∀ (s t : State) (n : Fin 2), s.canSends n.val = true → s.on (F.CAN_TT_CFG_TT_EN n.val) = true → t = s.untilCtb (s.nextCycle n.val) →
    exec (.canBasicCycle n) s = .next (if t.on (F.CAN_STAT_BACKED n.val) then
        t.setCan n.val { t.canOf n.val with lastCycle := some (s.nextCycle n.val), quiet := (t.canOf n.val).quiet + 1 }
      else t.masterCycle n.val (s.nextCycle n.val))) ∧
  (∀ (s t : State) (n : Fin 2), s.canSends n.val = true → s.on (F.CAN_TT_CFG_TT_EN n.val) = true → s.on (F.CAN_STAT_BACKED n.val) = true →
    8 ≤ (s.canOf n.val).quiet → t = ((s.untilCtb (s.nextCycle n.val)).put (F.CAN_STAT_BACKED n.val) 0).put (F.CAN_TT_STAT_BACKED n.val) 0 →
    exec (.canMasterResume n) s = .next (((t.setCan n.val { t.canOf n.val with quiet := 0 }).masterCycle n.val (s.nextCycle n.val)).raise (canBase n.val) 7)) ∧
  (∀ (s t : State) (n : Fin 2) (e : Fin 64), s.on (F.CAN_CTRL_EN n.val) = true → s.on (F.CAN_TT_CFG_TT_EN n.val) = true → s.txPend n.val e.val = true →
    ((s.canOf n.val).entry e.val).tt = true → (s.canOf n.val).cycleAt.isSome = true →
    ((s.canOf n.val).entry e.val).inCycle (s.canOf n.val).winCount = true → (s.canOf n.val).missed.testBit e.val = false →
    t = (if (s.canOf n.val).refDue.isSome = true ∨ s.on (F.CAN_STAT_BACKED n.val) = true then s else s.untilCtb (s.nextCycle n.val)) →
    exec (.canTtMiss n e) s = .next ((((t.setCan n.val { s.canOf n.val with missed := setBit (s.canOf n.val).missed e.val }).cnt
      (F.CAN_TT_MISS n.val)).put (F.CAN_FAULT_STAT_TT_MISS_F n.val) 1).raise (canBase n.val) 6))

/-- Converters, comparators and temperature (R256–R274). Readings of the model, not of the spec: BURST 0 is 256, START with EN 0 is ignored, the edges
of period triggers and the order of results (DEDUCED, log 107). -/
def Obligations.MeasurementCommandsAct : Prop :=
  (∀ (s : State) (k : Fin 8), s.get (F.ADC_CH_TRIG_SRC k.val) ≠ 5 → s.bitOf F.ADC_CTRL_EN k.val = true → s.pairedOdd k.val = false →
    s.calBusy k.val = false → (s.conv8 k.val).run = none →
    exec (.adcStart k) s = .next (
      let b := s.get (F.ADC_CH_TRIG_BURST k.val)
      let n := if b = 0 then 256 else b
      let t := (s.setConv8 k.val { s.conv8 k.val with
        run := some ⟨0, n, 0, s.sampleFrom k.val (s.now + s.get (F.ADC_CH_TRIG_DLY k.val) * 10), s.now⟩
        bursts := ((s.conv8 k.val).bursts + 1) % 256 }).setBitOf F.ADC_STAT_BUSY k.val
      (t.startRes (A.ADC_CH_RES k.val)).put (F.ADC_CH_TRIG_START k.val) 0)) ∧
  (∀ (s t : State) (k : Fin 8), s.get (F.ADC_CH_TRIG_SRC k.val) ≠ 5 → s.bitOf F.ADC_CTRL_EN k.val = true → s.pairedOdd k.val = false →
    s.calBusy k.val = true → t = s.put (F.ADC_CH_TRIG_START k.val) 0 →
    exec (.adcStart k) s = .next (((t.put F.ADC_FAULT_STAT_TRIG_MISS 1).cnt F.ADC_TRIG_MISS_COUNT).raise Base.ADC 1)) ∧
  (∀ (s : State) (k : Fin 8), s.get (F.ADC_CH_TRIG_SRC k.val) = 5 → exec (.adcStart k) s = .next (s.put (F.ADC_CH_TRIG_START k.val) 0)) ∧
  (∀ (s : State) (k : Fin 8) (src : Nat), src = s.get (F.ADC_CH_TRIG_SRC k.val) → ((src = 2 ∧
      (s.get (F.TIME_CMP_CFG_OUT (s.get (F.ADC_CH_TRIG_SEL k.val) % 8))).testBit 2 = true) ∨
      (src = 3 ∧ (s.pwmCh (s.get (F.ADC_CH_TRIG_SEL k.val))).givesTrig = true) ∨ src = 4) → s.bitOf F.ADC_CTRL_EN k.val = true →
    s.pairedOdd k.val = false → s.calBusy k.val = false → (s.conv8 k.val).run = none →
    exec (.adcTrigger k) s = .next (s.startBurst k.val src s.now)) ∧
  (∀ (s : State) (k : Fin 8), s.get (F.ADC_CH_TRIG_SRC k.val) = 3 → (s.pwmCh (s.get (F.ADC_CH_TRIG_SEL k.val))).givesTrig = false →
    exec (.adcTrigger k) s = .next s) ∧
  (∀ (s t : State) (k : Fin 8), s.get (F.ADC_CH_TRIG_SRC k.val) = 1 → s.running = true → s.perTicks ≠ 0 → t = s.untilCtb (s.periodTrig k.val) →
    exec (.adcTrigger k) s = .next (t.adcTrig k.val 1)) ∧
  (∀ (s t : State) (k : Fin 8) (raw : List (BitVec 16)) (r : AdcRun) (o : AdcOld), (s.conv8 k.val).run = some r →
    (s.convTakes k.val = true ∨ (s.conv8 k.val).old ≠ []) →
    o = s.adcNow k.val → raw.length = o.d k.val → t = s.until (r.next + o.step * (o.d k.val - 1)) →
    exec (.adcResult k raw) s = .next (t.adcStore k.val r (raw.map (fun x => x.toInt)))) ∧
  (∀ (s t : State) (k : Fin 8), s.settled k.val = false → t = s.until (s.sampleFrom k.val (s.conv8 k.val).unsUntil) →
    exec (.adcSettled k) s = .next t ∧ t.settled k.val = true) ∧
  (∀ (s t u : State) (mv n : Nat), t = (s.until (s.adc.vrefAt + 10 * us)).put F.ADC_VREFX mv →
    u = t.put F.ADC_STAT_VREFX_OK (if t.vrefOut then 0 else 1) →
    n = (if u.on F.ADC_STAT_REF_ACT && u.vrefOut then u.adc.vrefBad + 1 else 0) →
    exec (.vrefxMeasure mv) s = .next (
      let v : State := { u with adc := { u.adc with vrefAt := u.now, vrefBad := n } }
      if 3 ≤ n then (((v.put F.ADC_FAULT_STAT_VREFX_BAD 1).put F.ADC_STAT_REF_ACT 0).refChange).raise Base.ADC 2 else v)) ∧
  (∀ (s : State) (m : List CalMeas), s.cmdIs 0x40 = true → s.cmdArg 0 % 256 = 0 → exec (.calSweep m) s = .next (s.finish 2 [])) ∧
  (∀ (s t : State) (m : List CalMeas), s.cmdIs 0x40 = true → s.cmdArg 0 % 256 ≠ 0 → t = s.calTake m s.calLeft →
    exec (.calSweep m) s = .next (if t.calLeft = [] then
        ({ t with adc := { t.adc with cal := [] } } : State).finish (if t.adc.calBad = 0 then 0 else 5) [BitVec.ofNat 32 t.adc.calOk, BitVec.ofNat 32 t.adc.calBad]
      else t)) ∧
  (∀ (s : State) (x : CalMeas), calOk x = true → s.tableLock = false →
    s.calOne x = { s.calWrite x with adc := { (s.calWrite x).adc with calOk := setBit (s.calWrite x).adc.calOk x.conv.val } }) ∧
  (∀ (s : State) (x : CalMeas), (calOk x = false ∨ s.tableLock = true) →
    s.calOne x = { s with adc := { s.adc with calBad := setBit s.adc.calBad x.conv.val } }) ∧
  (∀ (s t : State) (n : Fin 12) (high : Bool) (mv : Int) (ns : Nat), s.sideOn n.val high = true → s.bitOf (liveFld high) n.val = false →
    s.pastThr n.val high mv = true → cmpFilt (s.get (F.ADC_CMP_ACT_FILT n.val)) ≤ ns →
    t = ((((s.setBitOf (liveFld high) n.val).setBitOf (trippedFld high) n.val).put F.ADC_FAULT_STAT_CMP_TRIP 1).cnt F.ADC_CMP_TRIPS).raise Base.ADC 3 →
    exec (.comparatorTrip n high mv ns) s =
      .next { t with safe := { t.safe with capture := setBit t.safe.capture (if high then n.val else 16 + n.val) } }.fenceJudge) ∧
  (∀ (s : State) (n : Fin 12) (high : Bool) (mv : Int) (ns : Nat), s.bitOf (liveFld high) n.val = true → s.insideHyst n.val high mv = true →
    cmpFilt (s.get (F.ADC_CMP_ACT_FILT n.val)) ≤ ns →
    exec (.comparatorRelease n high mv ns) s = .next (s.clrBitOf (liveFld high) n.val).fenceJudge) ∧
  (∀ (s t : State) (l : List Int), t = s.until (s.therm.at0 + ms) →
    exec (.tempMeasure l) s = .next (
      let u := (t.withTherm { t.therm with at0 := t.now }).readSensors l
      let u := u.withTherm { u.therm with crit := (List.range 6).map (fun z => u.get (F.THERM_ZONE_CRIT z)) }
      let u := ((List.range 6).foldl State.judgeZone ((List.range 6).foldl State.checkZone u)).throttle
      let u := if u.get F.THERM_STAT_LEVEL = 0 then u else u.cnt F.THERM_THROTTLE_MS
      if u.therm.critRun.any (fun n => decide (3 ≤ n)) then u.thermCrit else u))

/-- The power section (R276–R287). Readings of the model, not of the spec: P_LIM in hold-up is a free value (DESIGN CHOICE, log 12); a step of VSET is
a free amount within its bound (DESIGN CHOICE, log 13); a mean is rounded down (DESIGN CHOICE, log 14); the charge pulses of a soft start (DESIGN
CHOICE, log 186); a new VOUT_MIN and VOUT_MAX hold VSET at once (DEDUCED, log 187); the sample the valley limit judges on (DESIGN CHOICE, log 188);
the trim of the on-time (DESIGN CHOICE, log 189). -/
def Obligations.PowerCommandsAct : Prop :=
  (∀ (s t : State) (i : Fin 2) (dc : Bool) (v : Nat), t = (s.put (F.AUX_FEED_V i.val) (min v 65535)).put (F.AUX_FEED_DC i.val) (if dc then 1 else 0) →
    exec (.feedJudge i dc v) s = .next (
      let new := feedBand dc v (s.get (feedFld i.val))
      let c := t.aux.feedCand.getD i.val (0, 0)
      let n := if c.1 = new then c.2 + 1 else 1
      if new = s.get (feedFld i.val) then { t with aux := { t.aux with feedCand := setAt t.aux.feedCand i.val (new, 0) } }
      else if 2 ≤ n then State.feedChange { t with aux := { t.aux with feedCand := setAt t.aux.feedCand i.val (new, 0) } } i.val new
      else { t with aux := { t.aux with feedCand := setAt t.aux.feedCand i.val (new, n) } })) ∧
  (∀ (s t : State) (mv : Nat), mv < 38000 → t = s.setBus mv →
    exec (.bus54vLow mv) s = .next ((List.range 2).foldl (fun u g => if u.get (F.AUX_GRP_STAT_STATE g) = 0 then u else u.groupOff g) t)) ∧
  (∀ (s t : State) (mv : Nat), 44000 ≤ mv → t = s.setBus mv →
    exec (.bus54vReturn mv) s = .next ((List.range 2).foldl
      (fun u g => if u.get (F.AUX_GRP_STAT_STATE g) = grpOff && u.on (F.AUX_GRP_CFG_EN g) then u.startSoft g else u) t)) ∧
  (∀ (s t : State) (g : Fin 2) (v : Word) (u : AuxUndo),
    u = (s.aux.undo.filter (fun w => decide (w.cycle = s.cycleNo))).getD
      ⟨s.cycleNo, s.aux.grpA, s.aux.grpB, s.aux.loopA, s.aux.loopB, auxRegs.map (fun r => (r, s.reg r)), []⟩ →
    t = { s with aux := { s.aux with undo := some { u with writes := u.writes ++ [(A.AUX_GRP_CFG g.val, v)] } } } →
    exec (.groupEnable g v) s = .next (
    if s.frozen = true ∧ v.toNat.testBit 31 = true then { s with aux := { s.aux with heldWrites := s.aux.heldWrites ++ [(A.AUX_GRP_CFG g.val, v)] } }
    else t.grpApply g.val v)) ∧
  (∀ (s t : State) (x : Fin 2) (v : Word) (u : AuxUndo),
    u = (s.aux.undo.filter (fun w => decide (w.cycle = s.cycleNo))).getD
      ⟨s.cycleNo, s.aux.grpA, s.aux.grpB, s.aux.loopA, s.aux.loopB, auxRegs.map (fun r => (r, s.reg r)), []⟩ →
    t = { s with aux := { s.aux with undo := some { u with writes := u.writes ++ [(A.AUX_LOOP_CFG x.val, v)] } } } →
    exec (.loopEnable x v) s = .next (
    if s.frozen = true ∧ v.toNat.testBit 31 = true then { s with aux := { s.aux with heldWrites := s.aux.heldWrites ++ [(A.AUX_LOOP_CFG x.val, v)] } }
    else t.loopApply x.val v)) ∧
  (∀ (s t : State) (g : Fin 2) (h : Nat), s.get (F.AUX_GRP_STAT_STATE g.val) = 1 → h < s.ssMs g.val * ms →
    t = (s.until ((s.grp g.val).ssAt + s.rampTicks g.val + h)).charged g.val →
    exec (.softStartComplete g h) s = .next (let u := t.put (F.AUX_GRP_STAT_STATE g.val) 2
      (((u.put (F.AUX_GRP_STAT_VSET g.val) (20 * t.voutMin g.val)).dropNote t g.val).loopJoin g.val).groupSenseCheck g.val)) ∧
  (∀ (s t : State) (g : Fin 2), s.get (F.AUX_GRP_STAT_STATE g.val) = 1 → t = s.until ((s.grp g.val).ssAt + s.ssMs g.val * ms) →
    exec (.softStartFail g .holds) s = .next ((t.put (F.AUX_GRP_FAULT_SS_SHORT g.val) 1).groupHiccup g.val)) ∧
  (∀ (s t : State) (g : Fin 2), s.get (F.AUX_GRP_STAT_STATE g.val) = 1 → t = s.until ((s.grp g.val).ssAt + 2 * ms) →
    exec (.softStartFail g .short) s = .next ((t.put (F.AUX_GRP_FAULT_SS_SHORT g.val) 1).groupHiccup g.val)) ∧
  (∀ (s t : State) (g : Fin 2) (j : Fin 3), s.get (F.AUX_GRP_STAT_STATE g.val) = 1 → (s.grp g.val).chg.testBit j.val = true →
    t = s.until ((s.grp g.val).chgAt + 100 * us) →
    exec (.softStartFail g (.bootstrap j)) s = .next ((t.put (F.AUX_GRP_FAULT_SS_SHORT g.val) 1).groupHiccup g.val)) ∧
  (∀ (s : State) (g : Fin 2) (j : Fin 3) (high : Bool), s.get (F.AUX_GRP_STAT_STATE g.val) = 1 →
    exec (.softStartFail g (.sense j high)) s = .next (s.senseTrip (3 * g.val + j.val) high)) ∧
  (∀ (s : State) (g : Fin 2), s.get (F.AUX_GRP_STAT_STATE g.val) = 2 →
    exec (.groupOutputFault g none) s = .next ((s.put (F.AUX_GRP_FAULT_HICCUP g.val) 1).groupHiccup g.val)) ∧
  (∀ (s : State) (g : Fin 2) (j : Fin 3) (high : Bool), s.get (F.AUX_GRP_STAT_STATE g.val) = 2 →
    exec (.groupOutputFault g (some (j, high))) s = .next (s.senseTrip (3 * g.val + j.val) high)) ∧
  (∀ (s t u : State) (g : Fin 2), s.get (F.AUX_GRP_STAT_STATE g.val) = 3 → t = s.until ((s.grp g.val).hicAt + s.hicMs g.val * ms) →
    u = t.setGrp g.val { t.grp g.val with
      hiccups := (t.grp g.val).hiccups.filter (fun x => decide (t.now ≤ x + t.getOr (F.AUX_GRP_LIM_HIC_W g.val) 1 * sec)) } →
    exec (.hiccupExpiry g) s = .next (if ((t.grp g.val).hiccups.filter
        (fun x => decide (t.now ≤ x + t.getOr (F.AUX_GRP_LIM_HIC_W g.val) 1 * sec))).length < u.hicN g.val
      then u.startSoft g.val else u.groupLatch g.val)) ∧
  (∀ (s t : State) (g : Fin 2), t = s.put (F.AUX_GRP_FAULT_LATCH g.val) 0 → t.get (F.AUX_GRP_STAT_STATE g.val) = 4 →
    exec (.groupLatchClear g) s = .next (let u := t.setGrp g.val { t.grp g.val with hiccups := [] }
      if u.on (F.AUX_GRP_CFG_EN g.val) then u.startSoft g.val else u.groupOff g.val)) ∧
  (∀ (s : State) (g : Fin 2) (l : List Nat), exec (.syncLockChange g l) s = .next (l.foldl (State.turnOn g.val) s)) ∧
  (∀ (s t : State) (g : Fin 2) (c j : Nat), s.time.stopped = false → t = (s.untilCtb c).refSettle g.val → t.phActive g.val ≠ 0 →
    t.dropout g.val = false → (t.grp g.val).ssAt ≤ t.now → j = nextPhase (t.phActive g.val) (t.grp g.val).turn → t.valley g.val j = true →
    exec (.syncLockChange g [c]) s =
      .next ((t.setGrp g.val { t.grp g.val with turn := j, withheld := true }).put (F.AUX_GRP_STAT_ILIM g.val) 1)) ∧
  (∀ (s t : State) (g : Fin 2) (c j : Nat), s.time.stopped = false → t = (s.untilCtb c).refSettle g.val → t.phActive g.val ≠ 0 →
    t.dropout g.val = false → (t.grp g.val).ssAt ≤ t.now → j = nextPhase (t.phActive g.val) (t.grp g.val).turn → t.valley g.val j = false →
    exec (.syncLockChange g [c]) s = .next (
      let u := if bitIndices j (t.phActive g.val) = [] then
        t.put (F.AUX_GRP_STAT_ILIM g.val) (if (t.grp g.val).withheld = true then 1 else 0) else t
      let v := u.startPulse g.val j
      if t.time.stopped = true then v else v.syncJudge g.val (t.targetErr g.val j))) ∧
  (∀ (s : State) (g : Fin 2) (w : PhaseWindow), s.get (F.AUX_GRP_STAT_STATE g.val) = 2 → w.runThroughout = true → 10800 ≤ w.iout →
    exec (.phaseWindowEnd g w) s = .next ((bitIndices 3 (s.phActive g.val)).foldl
      (State.judgePhase g.val (bitIndices 3 (s.phActive g.val)) w) s)) ∧
  (∀ (s t : State) (g : Fin 2) (o c : BitVec 3),
    t = (bitIndices 3 (o.toNat &&& s.get (F.AUX_GRP_FAULT_OPEN g.val))).foldl (State.readmitOpen g.val) s →
    exec (.phaseReadmit g o c) s =
      .next ((bitIndices 3 (c.toNat &&& t.get (F.AUX_GRP_FAULT_SENSE_LOST g.val))).foldl (State.readmitSense g.val) t)) ∧
  (∀ (s t u : State) (x : Fin 2) (m : LoopMeas), t = s.until ((s.loop x.val).updAt + 100 * us) → t.time.stopped = false →
    u = (((t.setLoop x.val { t.loop x.val with updAt := t.now }).put (F.AUX_LOOP_STAT_ILOOP x.val) (min m.iloop 65535)).complete
      (A.AUX_TEL (14 + x.val)) (min m.iloop 65535)).complete (A.AUX_TEL (4 + 3 * x.val)) (min m.pown 65535) →
    (t.setLoop x.val { t.loop x.val with updAt := t.now }).time.stopped = false →
    exec (.loopControlUpdate x m) s = .next (
      if u.get (F.AUX_LOOP_STAT_STATE x.val) = 2 ∧ u.get (F.AUX_GRP_STAT_STATE x.val) = 2 then
        let v := (u.stepVset x.val m).watchLoop x.val m
        if v.held (v.loop x.val).overSince ms = true then v.loopFault x.val true
        else if v.held (v.loop x.val).openSince (10 * ms) = true then v.loopFault x.val false else v
      else u)) ∧
  (∀ (s t : State) (x : Fin 2), s.get (F.AUX_LOOP_STAT_STATE x.val) = 3 → t = s.until ((s.loop x.val).retryAt + sec) →
    exec (.loopRetry x) s = .next ((t.put (F.AUX_LOOP_STAT_STATE x.val) 1).loopJoin x.val)) ∧
  (∀ (s t : State) (x : Fin 2), t = s.put (F.AUX_LOOP_FAULT_LATCH x.val) 0 → t.get (F.AUX_LOOP_STAT_STATE x.val) = 4 →
    exec (.loopLatchClear x) s = .next (if t.on (F.AUX_LOOP_CFG_EN x.val) then (t.put (F.AUX_LOOP_STAT_STATE x.val) 1).loopJoin x.val
      else (t.put (F.AUX_LOOP_STAT_STATE x.val) 0).groupMin x.val)) ∧
  (∀ (s t : State) (g : Fin 2) (l : List TelSample), l.length = 2 ^ min 10 (s.get F.AUX_CTRL_AVG_LOG2) → s.time.stopped = false →
    t = l.foldl (State.hold g.val) s →
    exec (.telemetryWindow g l) s = .next (if t.aux.telDiscard.getD g.val false = true then
        { t with aux := { t.aux with telDiscard := setAt t.aux.telDiscard g.val false } } else t.publishTel g.val l)) ∧
  (∀ (s : State), exec .peakClr s = .next ((List.range 2).foldl
    (fun t g => ((t.put (F.AUX_GRP_PEAK_VOUT_HI g) (min (t.grp g).vout 65535)).put (F.AUX_GRP_PEAK_IOUT_HI g)
      (min (t.grp g).iout 65535)).put (F.AUX_GRP_TROUGH g) (min (t.grp g).vout 65535)) s))

/-- Drivers and PWM (R286, R289–R299). Readings of the model, not of the spec: the phase of a channel's clock at EN (DESIGN CHOICE, log 30); when the
trigger pulse of a stretch is recorded (DESIGN CHOICE, log 160); from where a dead time counts (DEDUCED, log 191); the freeze stands at reset
(DEDUCED, log 192); a HALT_MODE written during the halt acts at once (DEDUCED, log 211). -/
def Obligations.DriverAndPwmCommandsAct : Prop :=
  (∀ (s : State) (h : Fin 10), s.hbDisabled h.val = false →
    exec (.gdrvXcmd h) s = .next ((((s.put F.GDRV_FAULT_STAT_XCMD 1).cnt F.GDRV_XCMD_COUNT).raise Base.GDRV 2).hbLatch h.val 3)) ∧
  (∀ (s : State) (h : Fin 10) (hi : Bool), s.hbDisabled h.val = false →
    exec (.gdrvSenseTrip h hi) s = .next (((((s.put F.GDRV_FAULT_STAT_SC 1).cnt F.GDRV_SC_COUNT).raise Base.GDRV 0).ownerSense h.val).hbLatch h.val
      (if hi then 0 else 1))) ∧
  (∀ (s t : State) (h : Fin 10) (mv : Nat), t = s.setHb h.val { s.hbs h.val with bstMv := mv } → t.hbDisabled h.val = false → mv < 8000 →
    exec (.gdrvBstUv h mv) s = .next ((((t.put F.GDRV_FAULT_STAT_BST_UV 1).cnt F.GDRV_BST_UV_COUNT).raise Base.GDRV 1).hbLatch h.val 2)) ∧
  (∀ (s u t : State) (h : Fin 10) (n mv wait : Nat), u = s.advance wait → t = u.setHb h.val { u.hbs h.val with bstMv := mv } →
    (t.gates h.val).1 = true → (t.refreshN ≤ n ∨ mv < 10000) →
    exec (.gdrvRefresh h n mv wait) s = .next ((t.cnt F.GDRV_REFRESH_COUNT).setHb h.val { t.hbs h.val with refreshAt := some t.now })) ∧
  (∀ (s t : State) (h : Fin 10) (hi : Bool) (e : GateEdge), s.hbDisabled h.val = false → s.driven h.val = true → t = s.hbRelease h.val e →
    exec (.gdrvLatchRelease h hi e) s = .next (if e.oneInput then t else t.setHb h.val (if hi then { t.hbs h.val with ignH := some t.now }
      else { t.hbs h.val with ignL := some t.now }))) ∧
  (∀ (s t : State) (h : Fin 10) (mv : Nat), t = s.setHb h.val { s.hbs h.val with bstMv := mv } → t.on (F.GDRV_HB_DISABLED h.val) = true →
    exec (.gdrvDisabledClear h mv) s = .next (if (t.hbs h.val).bstMv < 9000 then t.cnt F.GDRV_ERR_COUNT_CLR_REFUSED
      else ((t.put (F.GDRV_HB_DISABLED h.val) 0).setHb h.val { t.hbs h.val with liveFrom := t.now }).clrBitOf F.GDRV_STAT_DISABLED h.val)) ∧
  (∀ (s t : State) (c : Fin 16), t = s.put (F.PWM_CH_CFG_EN c.val) 1 → (t.reg (A.PWM_CH_CFG c.val)).toNat.testBit 31 = true →
    (t.pwmCh c.val).running = false → exec (.pwmChannelEnable c true) s = .next ((t.movePwm c.val { t.pwmCh c.val with
      running := true, at0 := t.now, base := 0, cfg := t.reg (A.PWM_CH_CFG c.val) }).pwmZero c.val)) ∧
  (∀ (s t : State) (c : Fin 16), t = s.put (F.PWM_CH_CFG_EN c.val) 0 → (t.reg (A.PWM_CH_CFG c.val)).toNat.testBit 31 = false →
    (t.pwmCh c.val).running = true → exec (.pwmChannelEnable c false) s = .next ((t.pwmPulse c.val ((t.pwmCh c.val).upto t.now)).movePwm c.val
      { t.pwmCh c.val with running := false, cfg := t.reg (A.PWM_CH_CFG c.val) })) ∧
  (∀ (s : State) (m : BitVec 16), exec (.pwmCommit m) s = .next (s.put F.PWM_CTRL_COMMIT (s.get F.PWM_CTRL_COMMIT ||| m.toNat))) ∧
  (∀ (s t : State) (c : Fin 16), (s.pwmCh c.val).running = true → (s.pwmCh c.val).haltMode ≠ 2 → t = s.until ((s.pwmCh c.val).nextCut s.now) →
    t.bitOf F.PWM_CTRL_COMMIT c.val = true →
    exec (.pwmCutoff c) s = .next (((t.setPwm c.val { s.pwmCh c.val with copy := some (t.pwmShadow c.val) }).clrBitOf F.PWM_CTRL_COMMIT c.val).raise
      Base.PWM 1)) ∧
  (∀ (s : State) (c : Fin 16), (s.pwmCh c.val).running = false → (s.pwmCh c.val).haltMode ≠ 2 → s.bitOf F.PWM_CTRL_COMMIT c.val = true →
    exec (.pwmCutoff c) s = .next (((s.setPwm c.val { s.pwmCh c.val with active := s.pwmShadow c.val }).clrBitOf F.PWM_CTRL_COMMIT c.val).raise
      Base.PWM 1)) ∧
  (∀ (s t : State) (c : Fin 16), (s.pwmCh c.val).running = true → t = (s.until ((s.pwmCh c.val).nextReload s.now)).pwmPulse c.val (s.pwmCh c.val).len →
    exec (.pwmReload c) s = .next (t.pwmEdge c.val)) ∧
  (∀ (s t : State) (c : Fin 16) (src : PwmSync), (s.pwmCh c.val).running = true → syncSelected src (s.pwmCh c.val) = true → t = (s.pwmPulse c.val ((s.pwmCh c.val).upto s.now)).advance
      (20 - (s.now - (s.pwmCh c.val).at0) % 20) →
    exec (.pwmSync c src) s = .next (if t.get (F.PWM_CH_PHASE c.val) = 0 then t.pwmEdge c.val
      else t.movePwm c.val { t.pwmCh c.val with at0 := t.now, base := t.get (F.PWM_CH_PHASE c.val) })) ∧
  (∀ (s : State) (c : Fin 16), s.pwmCause c.val = true → (s.pwmCh c.val).tripped = false → exec (.pwmTrip c) s = .next (
    let t := s.movePwm c.val { s.pwmCh c.val with tripped := true, clearing := false, tsOnAt := (s.pwmCh c.val).tsOn (s.pwmCh c.val) s.now }
    ((((t.put (F.PWM_CH_TRIP_TRIPPED c.val) 1).put (F.PWM_CH_TRIP_ACTIVE c.val) 1).setBitOf F.PWM_STAT_ACTIVE c.val).put
      F.PWM_FAULT_STAT_TRIP 1).cnt F.PWM_TRIPS |>.raise Base.PWM 0)) ∧
  (∀ (s t : State) (i : Fin 8) (w : Nat), s.blankEnd i.val = some w → t = s.until w →
    exec (.pwmBlankEnd i) s = .next (if (t.blankEnd i.val).isSome = true then t else (List.range 16).foldl State.pwmJudge (t.setTripIn i.val { t.tripInput i.val with inBlank := false }))) ∧
  (∀ (s t : State) (i : Fin 8) (lv a : Bool) (n : Nat), 4 * s.get (F.PWM_TRIPIN_TF i.val) ≤ n → a = decide (lv ≠ s.on (F.PWM_TRIPIN_POL i.val)) →
    a ≠ (s.tripInput i.val).active →
    t = (s.setTripIn i.val ⟨a, a && (s.blankEnd i.val).isSome⟩).putBitOf F.PWM_STAT_TRIP_IN i.val a →
    exec (.tripInputChange i lv n) s = .next (if a then (List.range 16).foldl State.pwmJudge t
      else if (s.tripInput i.val).inBlank && (s.blankEnd i.val).isSome then t.cnt F.PWM_TRIP_BLANKED else t)) ∧
  (∀ (s : State) (c : Fin 16), s.on (F.PWM_CH_TRIP_TRIPPED c.val) = true → exec (.pwmTripClear c) s = .next (
    if s.pwmMasked c.val then s.cnt F.PWM_ERR_COUNT_CLR_REFUSED
    else (s.setPwm c.val { s.pwmCh c.val with clearing := true }).put (F.PWM_CH_TRIP_TRIPPED c.val) 0)) ∧
  (∀ (s : State), exec .svrDebugHalt s = .next (State.updateFreeze { s with aux := { s.aux with svDebug := true } }).pwmHaltUpdate) ∧
  (∀ (s : State), exec .svrDebugRelease s = .next (State.updateFreeze { s with aux := { s.aux with svDebug := false } }).pwmHaltUpdate)

/-- The safety section's judgements (R302, R304–R310, R320, R327, R329, R396). Readings of the model, not of the spec: when the supervisor channel
evaluates its functions (DEDUCED, log 15); class B conditions act at their rising edge (DEDUCED, log 111); when SV_LASTING's cause is gone (DEDUCED,
log 112); what the challenge and the fence checks find is an operand (DESIGN CHOICE, log 114); joint causes carry CHANNEL 3 (DEDUCED, log 115); what a
broken line carries is an operand (DESIGN CHOICE, log 29); MASTER of its record (DEDUCED, log 153); its trip comes before the function it makes active
(DEDUCED, log 196). -/
def Obligations.SafetyJudgementsAct : Prop :=
  (∀ (s t : State) (good bad : Bool), t = s.until (s.safe.cycAt + 8 * us) →
    exec (.safetyCycle good bad) s =
      .next ((((t.withSafe { t.safe with cycAt := t.now }).challenge good).fenceView bad).svJudge).judgeB) ∧
  (∀ (s t : State) (i : Fin 8) (a b : Bool) (n : Nat), s.siFilt i.val ≤ n →
    t = s.withSafe { s.safe with closedA := putBit s.safe.closedA i.val a, closedB := putBit s.safe.closedB i.val b } →
    exec (.safetyInputChange i a b n) s = .next ((t.siNote i.val).updHealthy.fenceJudge)) ∧
  (∀ (s t : State) (i : Fin 8) (at0 : Nat), KMap.get (fun _ => none) s.safe.discAt i.val = some at0 → s.siType i.val ≠ 0 →
    s.safe.discLatch.testBit i.val = false → t = s.until (at0 + s.discMs i.val * ms) →
    exec (.siDiscrepancy i) s = .next (((((t.withSafe
      { t.safe with discLatch := setBit t.safe.discLatch i.val, discShown := clearBit t.safe.discShown i.val }).put F.SAFE_FAULT_STAT_SI_DISC 1).raise Base.SAFE 10).fenceJudge).trip ⟨3, 8, i.val, allOutputs⟩)) ∧
  (∀ (s t : State) (m : Fin 8) (c : Bool), t = s.putBitOf F.SAFE_IN_FB m.val c →
    exec (.feedbackChange m c) s = .next (if t.fbWrong m.val then t else
      t.withSafe { t.safe with fbMet := setBit t.safe.fbMet m.val, fbBad := clearBit t.safe.fbBad m.val })) ∧
  (∀ (s t : State) (m : Fin 8), s.fbWrong m.val = true → s.safe.fbBad.testBit m.val = false →
    t = (if s.safe.fbMet.testBit m.val then s else s.until (s.safe.outAt.getD (s.aget (F.SAFE_FB_SO m.val)) 0 + s.fbTime)) →
    exec (.fbMismatch m) s = .next ((((t.withSafe { t.safe with fbBad := setBit t.safe.fbBad m.val }).put F.SAFE_FAULT_STAT_FB_MISMATCH 1).raise
      Base.SAFE 9).trip ⟨3, 9, m.val, allOutputs⟩)) ∧
  (∀ (s t : State) (f : Fin 16) (at0 : Nat), KMap.get (fun _ => none) s.safe.diffAt f.val = some at0 → s.on F.SAFE_STAT_SV_WINDOW = false →
    s.safe.disagreed.testBit f.val = false →
    t = (s.withSafe { s.safe with disagreed := setBit s.safe.disagreed f.val }).until (max at0 s.safe.agreeFrom + s.agreeUs * us) →
    exec (.disagree f) s = .next ((((t.put F.SAFE_FAULT_STAT_DISAGREE 1).cnt F.SAFE_DISAGREE_COUNT).raise Base.SAFE 7).trip
      ⟨if t.bitOf F.SAFE_FN_LIVE_FENCE f.val then 1 else 2, 6, f.val, allOutputs⟩)) ∧
  (∀ (s t : State) (l : LineId) (k : LineKind), s.flt.broken.any (fun b => b.1 = l) = false →
    t = State.updBroken { s with flt := { s.flt with broken := s.flt.broken ++ [(l, k)] } } →
    exec (.brokenLine l k) s = .next ((((t.err .brokenLine (lineMaster k) 15
      (l.blk.val * 2 ^ 24 + l.inst.val * 2 ^ 16 + l.line.val)).put F.FLT_FAULT_STAT_BROKEN_LINE 1).raise Base.FLT 2).lineReact k)) ∧
  (∀ (s t : State) (l : LineId), t = { s with flt := { s.flt with broken := s.flt.broken.filter (fun b => b.1 ≠ l) } } →
    exec (.brokenLineHeal l) s = .next (t.put F.FLT_STAT_BROKEN_N (min t.flt.broken.length 255)).fenceJudge) ∧
  (∀ (s t : State), s.on F.SAFE_STAT_SV_WINDOW = true → t = s.until (s.safe.winAt + s.restartMax) →
    exec .restartWindowLong s = .next (t.cstop ⟨1, 0x0D, 0, 0⟩)) ∧
  (∀ (s t : State) (o : Fin 4), s.bitOf F.SAFE_OUT_ENERGISED o.val = true → t = s.advance (5 * ms) →
    exec (.soOverload o) s = .next (t.withSafe { t.safe with soOver := setBit t.safe.soOver o.val }).driveOutputs)

/-- Stops, resets and tests (R311, R312, R317–R319, R321, R322, R381, R386). Readings of the model, not of the spec: the first cause stays recorded
(DEDUCED, log 151); when a stop counts as one that yielded every stall (DEDUCED, log 162); what a cause kept in TEST does (DEDUCED, log 16); which
tests a sweep runs (DEDUCED, log 113); the lowest WHY is recorded (DEDUCED, log 47); a request in the cycle of a judged press is that press (DEDUCED,
log 193). -/
def Obligations.StopsResetsAndTestsAct : Prop :=
  (∀ (s t : State), s.safeState = safeCstop →
    t = (if s.allCoast then s else s.until (s.safe.cstopAt + (if s.aget F.SAFE_TIMES_CS_COAST_MS = 0 then 1 else s.aget F.SAFE_TIMES_CS_COAST_MS) * ms)) →
    exec .cstopComplete s = .next (
      let w := t.on F.PAIR_CFG_EN && t.on F.PAIR_CFG_WITHDRAW_EN && t.pair.csYielded
      let v := (if w then t.withdrawNow else t).nameOutputs allOutputs
      let u := ((v.cnt F.SAFE_TRIPS).raise Base.SAFE 0).enterLockout
      if w then { u with pair := { u.pair with withdrawAt := none } } else u)) ∧
  (∀ (s t : State), s.safeState = safeLockout → s.aget F.SAFE_TIMES_LOOP_OFF_S ≠ 0 → t = s.until (s.safe.lockAt + s.aget F.SAFE_TIMES_LOOP_OFF_S * sec) →
    exec .lockoutLoopOff s = .next ((List.range 2).foldl
      (fun (u : State) x => u.auxApply (A.AUX_LOOP_CFG x) (u.reg (A.AUX_LOOP_CFG x) &&& 0x7FFFFFFF#32)) t)) ∧
  (∀ (s : State), exec .hostHaltRequest s = .next ((s.put F.SAFE_CTRL_HALT_REQ 0).trip ⟨3, 2, 0, allOutputs⟩)) ∧
  (∀ (s : State), exec .hostCstopRequest s = .next ((s.put F.SAFE_CTRL_CSTOP_REQ 0).cstop ⟨3, 3, 0, 0⟩)) ∧
  (∀ (s t u : State) (sv : Bool), t = s.put F.SAFE_RESET 0 → t.safeState = safeLockout → t.safe.reqAt ≠ some (t.cycleNo, false) →
    u = t.withSafe { t.safe with reqAt := some (t.cycleNo, true) } →
    exec (.lockoutReset sv) s = .next (if t.resetWhy true sv = 0 then
        ((((u.withSafe { u.safe with named := 0, soOver := 0 }).setSafe safeNormal).enforce).raise Base.SAFE 3).withdrawEnd.laneCommon
      else (((u.put F.SAFE_REFUSE (t.resetWhy true sv)).put F.SAFE_FAULT_STAT_RESET_REFUSED 1).cnt F.SAFE_ERR_COUNT_RESET_REFUSED_COUNT).raise
        Base.SAFE 4)) ∧
  (∀ (s t : State) (sv : Bool), t = s.put F.SAFE_RESET 0 → t.safe.reqAt = some (t.cycleNo, false) → exec (.lockoutReset sv) s = .next t) ∧
  (∀ (s : State) (sv : Bool) (n : Nat), s.on F.SAFE_IN_RST_CLOSED = false →
    exec (.rstInChange true sv n) s = .next (((s.withSafe { s.safe with rstAt := s.now }).put F.SAFE_IN_RST_CLOSED 1).put F.SAFE_STAT_RST_IN 1)) ∧
  (∀ (s t : State) (sv : Bool) (n : Nat), s.on F.SAFE_IN_RST_CLOSED = true → t = s.until (s.safe.rstAt + n * ms) →
    exec (.rstInChange false sv n) s = .next (let u := (t.put F.SAFE_IN_RST_CLOSED 0).put F.SAFE_STAT_RST_IN 0
      if s.get F.SAFE_STAT_RST_IN = 1 ∧ 50 * ms ≤ t.now - t.safe.rstAt ∧ t.now - t.safe.rstAt < 5 * sec then u.lockReset false sv else u)) ∧
  (∀ (s t : State), s.get F.SAFE_STAT_RST_IN = 1 → t = s.until (s.safe.rstAt + 5 * sec) →
    exec .resetHeld s = .next (((t.put F.SAFE_STAT_RST_IN 2).put F.SAFE_FAULT_STAT_RESET_HELD 1).raise Base.SAFE 5)) ∧
  (∀ (s t : State), s.get F.SAFE_STAT_RST_IN = 2 → t = s.until (s.safe.rstAt + 60 * sec) →
    exec .resetStuck s = .next (((t.put F.SAFE_STAT_RST_IN 3).put F.SAFE_FAULT_STAT_RESET_STUCK 1).raise Base.SAFE 6)) ∧
  (∀ (s : State), exec .proofRun s =
    .next (((s.withSafe { s.safe with sweepLeft := 62 }).put F.SAFE_PROOF_RUNNING 1).put F.SAFE_CTRL_PROOF_RUN 0)) ∧
  (∀ (s t : State) (k : Fin 7) (bad : Option (Fin 4)) (x : SafeSt),
    (bad = none ∨ (k.val = 3 ∧ bad.all (fun o => !(s.aget F.SAFE_PROOF_CFG_PULSE_EN).testBit o.val) = true)) →
    x = { s.safe with proofPass := setAt s.safe.proofPass k.val s.now, proofFailed := clearBit s.safe.proofFailed (k.val + 1) } →
    t = s.withSafe { x with sweepLeft := clearBit (if x.sweepLeft = 0 then 62 else x.sweepLeft) (k.val + 1) } →
    exec (.proofTest k bad) s = .next (if 5 ≤ k.val then s.withSafe x
      else if t.safe.sweepLeft = 0 then (t.put F.SAFE_PROOF_RUNNING 0).cnt F.SAFE_PROOF_RUNS else t.put F.SAFE_PROOF_RUNNING 1)) ∧
  (∀ (s : State) (k : Fin 7) (o : Fin 4), (k.val ≠ 3 ∨ (s.aget F.SAFE_PROOF_CFG_PULSE_EN).testBit o.val = true) →
    exec (.proofTest k (some o)) s = .next (
      ((((s.withSafe { s.safe with proofFailed := setBit s.safe.proofFailed (k.val + 1) }).put F.SAFE_FAULT_STAT_PROOF_FAIL 1).put F.SAFE_PROOF_LAST_FAIL
        (k.val + 1)).raise Base.SAFE 12).trip ⟨3, 0x0A, 0, allOutputs⟩)) ∧
  (∀ (s t : State), s.on F.SAFE_FAULT_STAT_PROOF_OVERDUE = false → t = s.until (s.oldestPass + s.ptMax + 1) →
    exec .proofOverdue s = .next ((t.put F.SAFE_FAULT_STAT_PROOF_OVERDUE 1).raise Base.SAFE 13)) ∧
  (∀ (s t : State), s.safeState = safeTest → s.rst.asserted = false →
    t = (((s.put F.SAFE_STAT_SELFTEST_OK 0).put F.SAFE_STAT_FENCE_OK 0).put F.SAFE_STAT_SV_OK 0) →
    exec (.powerUpTestsDone false) s = .next (((t.withSafe { t.safe with testsFailed := true }).proofFail 7).testLock ⟨3, 0x10, 0, allOutputs⟩)) ∧
  (∀ (s t x u v : State), s.safeState = safeTest → s.rst.asserted = false →
    t = (s.put F.SAFE_STAT_SELFTEST_OK 1).put F.SAFE_STAT_FENCE_OK 1 →
    x = t.put F.SAFE_STAT_SV_OK (b2n s.svAlive) → u = x.withSafe { x.safe with testsFailed := false } →
    v = u.withSafe { u.safe with proofPass := [u.now, u.now, u.now, u.now, u.now, u.now, u.now] } →
    exec (.powerUpTestsDone true) s = .next (
      if v.aget F.SAFE_CFG_POWERUP_LOCK ≠ 0 then v.testLock ⟨3, 0x0F, 0, allOutputs⟩
      else v.lowestFn.elim (
          let y := (v.setSafe safeNormal).enforce.laneCommon
          (y.safe.testCause.filter y.causeStands).elim y y.trip)
        (fun f => v.testLock ⟨3, 1, f, v.aget (F.SAFE_FN_TRIP_SO f)⟩)))

/-- Flash and signed images (R352–R358, R364, R365). Free bytes after a failed check are the model's (log 8). -/
def Obligations.FlashAndImageCommandsAct : Prop :=
  (∀ (s t : State), s.cmdIs 0x10 = true → s.cmdArg 0 % 0x10000 = 0 → inFlash (s.cmdArg 0) 0x10000 = true →
    s.activeFlash (s.cmdArg 0) = false → t = (s.flashTouch (s.cmdArg 0) (s.cmdArg 0 + 0x10000)).flashErase (s.cmdArg 0) →
    exec (.flashErase true) s = .next (t.finish 0 [])) ∧
  (∀ (s t u : State), s.cmdIs 0x10 = true → s.cmdArg 0 % 0x10000 = 0 → inFlash (s.cmdArg 0) 0x10000 = true →
    s.activeFlash (s.cmdArg 0) = false → t = (s.flashTouch (s.cmdArg 0) (s.cmdArg 0 + 0x10000)).flashErase (s.cmdArg 0) →
    u = t.flashPut (s.cmdArg 0) (s.freeBytes 0x10000) →
    exec (.flashErase false) s = .next ({ u with freeIx := u.freeIx + 0x10000 }.failDetail 2)) ∧
  (∀ (s t : State) (r : CmdRun), s.cmdIs 0x11 = true → s.cmd = some r → s.cmdArg 0 % 8 = 0 → s.cmdArg 1 % 8 = 0 → 8 ≤ s.cmdArg 1 →
    s.cmdArg 1 ≤ 1024 → inFlash (s.cmdArg 0) (s.cmdArg 1) = true → s.activeFlash (s.cmdArg 0) = false →
    t = s.flashTouch (s.cmdArg 0) (s.cmdArg 0 + s.cmdArg 1) →
    exec (.flashProgram true) s =
      .next ((t.flashPut (s.cmdArg 0) ((r.data.flatMap (fun w => bytesLE 4 w.toNat)).take (s.cmdArg 1))).finish 0 [])) ∧
  (∀ (s t u : State), s.cmdIs 0x11 = true → s.cmdArg 0 % 8 = 0 → s.cmdArg 1 % 8 = 0 → 8 ≤ s.cmdArg 1 →
    s.cmdArg 1 ≤ 1024 → inFlash (s.cmdArg 0) (s.cmdArg 1) = true → s.activeFlash (s.cmdArg 0) = false →
    t = s.flashTouch (s.cmdArg 0) (s.cmdArg 0 + s.cmdArg 1) → u = t.flashPut (s.cmdArg 0) (s.freeBytes (s.cmdArg 1)) →
    exec (.flashProgram false) s = .next ({ u with freeIx := u.freeIx + s.cmdArg 1 }.failDetail 2)) ∧
  (∀ (s t : State) (ue : Option (BitVec 29)) (i : Image), s.cmdIs 0x20 = true → s.imgRow = .verify → s.cmdArg 0 % 0x10000 = 0 →
    inFlash (s.cmdArg 0) 0x10000 = true → i = s.image (s.cmdArg 0) → t = ue.elim (s.flashWell i.addr i.size) (fun x => s.flashUe 9 x.toNat) →
    exec (.imageVerify ue) s = .next (
      if t.imageCheck i (t.cmdArg 1 % 256) ue.isSome ≠ 0 then t.imageFail (t.imageCheck i (t.cmdArg 1 % 256) ue.isSome)
      else if t.actionCheck i ≠ 0 then t.imageFail (t.actionCheck i) else t.imageOk i)) ∧
  (∀ (s t : State) (ue : Option (BitVec 29)) (i : Image), s.cmdIs 0x20 = true → s.imgRow = .stage → s.cmdArg 0 % 0x10000 = 0 →
    inFlash (s.cmdArg 0) 0x10000 = true → i = s.image (s.cmdArg 0) → t = ue.elim (s.flashWell i.addr i.size) (fun x => s.flashUe 9 x.toNat) →
    exec (.imageStage ue) s = .next (
      if t.imageCheck i (t.cmdArg 1 % 256) ue.isSome ≠ 0 then t.imageFail (t.imageCheck i (t.cmdArg 1 % 256) ue.isSome)
      else if t.actionCheck i ≠ 0 then t.imageFail (t.actionCheck i) else t.stage i)) ∧
  (∀ (s t : State) (ue : Option (BitVec 29)) (durable : Bool) (i : Image), s.upd.lanes = none → s.cmdIs 0x20 = true → s.imgRow = .lanes →
    s.cmdArg 0 % 0x10000 = 0 → inFlash (s.cmdArg 0) 0x10000 = true → i = s.image (s.cmdArg 0) →
    t = ue.elim (s.flashWell i.addr i.size) (fun x => s.flashUe 9 x.toNat) →
    exec (.laneTableApply ue durable) s = .next (
      if t.imageCheck i (t.cmdArg 1 % 256) ue.isSome ≠ 0 then t.imageFail (t.imageCheck i (t.cmdArg 1 % 256) ue.isSome)
      else if t.actionCheck i ≠ 0 then t.imageFail (t.actionCheck i) else t.laneApply durable i)) ∧
  (∀ (s t : State) (ue : Option (BitVec 29)) (durable : Bool) (x : LaneApply) (n : Nat), s.upd.lanes = some x → s.cmdIs 0x20 = true →
    x.waiting = some n → t = (if s.on (F.LANE_CTRL_APPLY_EQ n) = true then s.laneEqSlot n else s) →
    exec (.laneTableApply ue durable) s = .next (
      if t.laneHealthy n then t.laneNext { x with waiting := none } durable
      else ((((t.put F.UPD_FAULT_STAT_APPLY_STOP 1).applyEnd.raise Base.UPD 9).verifyCount 12).finish 5
        [0#32, 0#32, 0#32, BitVec.ofNat 32 (12 + 2 ^ 8 * n)]))) ∧
  (∀ (s t : State) (ue : Option (BitVec 29)) (durable : Bool) (i : Image), s.cmdIs 0x20 = true → s.imgRow = .cal → s.cmdArg 0 % 0x10000 = 0 →
    inFlash (s.cmdArg 0) 0x10000 = true → i = s.image (s.cmdArg 0) → t = ue.elim (s.flashWell i.addr i.size) (fun x => s.flashUe 9 x.toNat) →
    exec (.adcCalApply ue durable) s = .next (
      if t.imageCheck i (t.cmdArg 1 % 256) ue.isSome ≠ 0 then t.imageFail (t.imageCheck i (t.cmdArg 1 % 256) ue.isSome)
      else if t.actionCheck i ≠ 0 then t.imageFail (t.actionCheck i) else t.calApply durable i)) ∧
  (∀ (s t : State) (ue : Option (BitVec 29)) (sv : Option Word) (durable : Bool) (i : Image), s.upd.fconf = none → s.cmdIs 0x20 = true →
    s.imgRow = .fence → s.cmdArg 0 % 0x10000 = 0 → inFlash (s.cmdArg 0) 0x10000 = true → i = s.image (s.cmdArg 0) →
    t = ue.elim (s.flashWell i.addr i.size) (fun x => s.flashUe 9 x.toNat) →
    exec (.fenceParamApply ue sv durable) s = .next (
      if t.imageCheck i (t.cmdArg 1 % 256) ue.isSome ≠ 0 then t.imageFail (t.imageCheck i (t.cmdArg 1 % 256) ue.isSome)
      else if t.actionCheck i ≠ 0 then t.imageFail (t.actionCheck i) else t.fenceApply sv durable i)) ∧
  (∀ (s t : State) (ue : Option (BitVec 29)) (w : OwnerWrite) (i : Image), s.cmdIs 0x20 = true → s.imgRow = .owner → s.cmdArg 0 % 0x10000 = 0 →
    inFlash (s.cmdArg 0) 0x10000 = true → i = s.image (s.cmdArg 0) → t = ue.elim (s.flashWell i.addr i.size) (fun x => s.flashUe 9 x.toNat) →
    exec (.ownershipApply ue w) s = .next (
      if t.imageCheck i (t.cmdArg 1 % 256) ue.isSome ≠ 0 then t.imageFail (t.imageCheck i (t.cmdArg 1 % 256) ue.isSome)
      else if t.actionCheck i ≠ 0 then t.imageFail (t.actionCheck i) else t.ownerApply w i))

/-- Attestation, tack-store operations, fence confirmations and trials (R346–R350, R359, R363, R364). The order of ATTEST_SIGN's details is DEDUCED
(log 26), what a discard returns is the model's (log 24). Readings of the model, not of the spec: the identity key and the signatures are functions in
Config (DESIGN CHOICE, log 20); the lowest code of a confirmation is reported (DEDUCED, log 122). -/
def Obligations.SecurityAndTrialCommandsAct : Prop :=
  (∀ (s : State) (r : CmdRun) (durable : Bool), s.cmdIs 0x21 = true → s.cmd = some r → s.cmdArg 0 ≤ 1024 → s.attestWhy = 0 →
    (s.needsBlock = true → durable = true) →
    exec (.attestSign durable) s = .next (s.reserve.attest ((r.data.flatMap (fun w => bytesLE 4 w.toNat)).take (s.cmdArg 0)))) ∧
  (∀ (s : State) (durable : Bool), s.cmdIs 0x21 = true → s.cmdArg 0 ≤ 1024 → s.attestWhy = 1 →
    exec (.attestSign durable) s = .next (((s.put F.SEC_FAULT_STAT_NO_TREE 1).raise Base.SEC 1).failDetail 1)) ∧
  (∀ (s : State) (durable : Bool) (d : Nat), s.cmdIs 0x21 = true → s.cmdArg 0 ≤ 1024 → s.attestWhy = d → 2 ≤ d →
    exec (.attestSign durable) s = .next (s.failDetail d)) ∧
  (∀ (s t : State), s.tackIs 1 = true → t = (List.range 15).foldl (fun (u : State) i => u.setReg (A.SYS_CMD_DATA i)
      (BitVec.ofNat 32 (ofBytesLE ((List.range 4).map (fun j => identityKey.getD (4 * i + j) 0))))) s →
    exec .readIdentity s = .next (t.finish 0 [s.reg A.SYS_SERIAL])) ∧
  (∀ (s t u v : State) (r : CmdRun), s.tackIs 2 = true → s.cmd = some r → s.cmdArg 1 ≤ 15 → s.byHost = true → s.on F.SEC_CTRL_KEY_WR_EN = true →
    t = (s.withTack { s.tack with stations := KMap.set (fun _ => []) s.tack.stations (s.cmdArg 1) ((r.data.take 8).flatMap (fun w => bytesLE 4 w.toNat)) }).setBitOf F.SEC_KEYS_STATION (s.cmdArg 1) →
    u = (List.range 8).foldl (fun (x : State) i => x.setReg (A.SYS_CMD_DATA i) 0#32) t →
    v = { u with eth := { u.eth with lastSeq := KMap.set (fun _ => none) u.eth.lastSeq (s.cmdArg 1) (some 0) } } →
    exec (.stationSet true) s = .next ((v.raise Base.SEC 9).finish 0 [])) ∧
  (∀ (s : State), s.tackIs 2 = true → s.cmdArg 1 ≤ 15 → s.byHost = true → s.on F.SEC_CTRL_KEY_WR_EN = true →
    exec (.stationSet false) s = .next (s.tackFail.failDetail 3)) ∧
  (∀ (s : State) (durable : Bool), s.tackIs 2 = true → s.cmdArg 1 ≤ 15 → s.byHost = true → s.on F.SEC_CTRL_KEY_WR_EN = false →
    exec (.stationSet durable) s = .next (s.failDetail 2)) ∧
  (∀ (s t : State), s.tackIs 3 = true → s.cmdArg 1 ≤ 15 → s.byHost = true →
    t = (s.withTack { s.tack with stations := KMap.set (fun _ => []) s.tack.stations (s.cmdArg 1) [] }).clrBitOf F.SEC_KEYS_STATION (s.cmdArg 1) →
    exec (.stationErase true) s = .next ((if s.bitOf F.SEC_KEYS_STATION (s.cmdArg 1) = true then t.raise Base.SEC 9 else t).finish 0 [])) ∧
  (∀ (s : State), s.tackIs 4 = true → exec .indexStatus s = .next
    (s.finish 0 [BitVec.ofNat 32 s.nextIndex, BitVec.ofNat 32 (s.get F.SEC_RESERVED), BitVec.ofNat 32 (2 ^ 30 - s.nextIndex), 0#32])) ∧
  (∀ (s : State), s.cmdIs 0x50 = true → (s.cmdArg 0 % 256 = 0 ∨ 4 < s.cmdArg 0 % 256) → exec .tackBadSubop s = .next (s.finish 2 [])) ∧
  (∀ (s t u : State) (n : Nat) (rest : List TreeJob), s.tack.jobs = .bottom n :: rest → t = s.withTack { s.tack with jobs := rest } →
    u = (if n = t.treeNeeded then t.treeCurrent n else t.withTack { t.tack with spare := some n }) →
    exec .treeGenerated s = .next ((u.treeBits.cnt F.SEC_TREES).raise Base.SEC 0)) ∧
  (∀ (s t : State) (n : Nat) (rest : List TreeJob), s.tack.jobs = .level1 n :: rest → t = s.withTack { s.tack with jobs := rest } →
    exec .treeGenerated s = .next (((t.withTack { t.tack with level1 := some n }).treeBits.cnt F.SEC_TREES).raise Base.SEC 0)) ∧
  (∀ (s : State) (durable : Bool), s.on F.SAFE_STAT_SV_WINDOW = false → s.on F.UPD_STAT_TRIAL = true → exec (.confirm durable) s = .next
    (((s.put F.UPD_STAT_TRIAL 0).advRollback 1 (s.image (0x10000000 * s.get F.SYS_STAT_BOOT_BANK)).rollback durable).raise Base.UPD 2)) ∧
  (∀ (s t u : State) (c : Word) (sv : Option Word) (x : FConf), t = s.setReg A.UPD_FCONF c → x.time = t.now → x.c = c → x.snap = t.pendingSet →
    x.crcF = setCrc t.pendingSet → x.crcS = sv.elim (setCrc t.pendingSet) (fun w => w.toNat) → x.byApply = false → x.changed = decide (s.upd.fenceAt = some s.cycleNo) →
    u = (((t.put F.UPD_CRC_FENCE x.crcF).put F.UPD_CRC_SV x.crcS).put F.UPD_STAT_FCONF_BUSY 1) →
    exec (.fenceConfirmation c sv) s = .next ((u.withUpd { u.upd with fconf := some x }).startRes A.UPD_FCONF_RES)) ∧
  (∀ (s t u : State) (f : FConf) (durable : Bool), s.upd.fconf = some f → f.byApply = false → s.fconfCode f = 0 →
    t = (s.complete A.UPD_FCONF_RES 0).put F.UPD_STAT_FCONF_BUSY 0 → u = t.withUpd { t.upd with fconf := none } →
    exec (.fenceConfirmationDone durable) s = .next ((u.pendingApply.cnt F.UPD_FCONF_OK).raise Base.UPD 6)) ∧
  (∀ (s : State), exec .fpendDiscard s = .next s.pendingDiscard)

/-- The module pair and the fault collector (R328–R332, R369–R372, R377, R381). What a parity error returns is free (the model's, log 8). Readings of
the model, not of the spec: when parts of POUT leave and are kept, and when PAIR_CFG acts (DEDUCED, log 194); errors of the fabric cycle of a CAP_CLR
belong to the new record (DEDUCED, log 118); what the probe finds is an operand (DESIGN CHOICE, log 117); the first cause of a stop stays recorded
(DEDUCED, log 151). -/
def Obligations.PairAndCollectorCommandsAct : Prop :=
  (∀ (s : State) (v : Word), exec (.pairEnable v) s = .next ((s.setReg A.PAIR_CFG v).pairCfgSet (s.on F.PAIR_CFG_EN))) ∧
  (∀ (s : State), exec .forceLead s = .next (s.put F.PAIR_CFG_FORCE_LEAD 1).mirrorCheck) ∧
  (∀ (s : State), s.on F.PAIR_CFG_EN = true → s.pairState = prDisabled → s.pairEnter.pairState = prSearching) ∧
  (∀ (s : State), s.on F.PAIR_CFG_EN = false → s.pairEnter.pairState = prDisabled) ∧
  (∀ (s : State), s.on F.PAIR_CFG_FORCE_LEAD = true → s.pairEnter.on F.PAIR_CFG_FORCE_LEAD = false ∧ s.pairEnter.lead = true) ∧
  (∀ (s v : State) (p : Fin 2) (f : List (BitVec 64)), s.laneState (48 + p.val) ≠ lnParked → f.length = 6 → blk f 0 % 256 = 0xA5 → frameOk f = true →
    v = s.setRx (48 + p.val) [] → v.on F.PAIR_CFG_EN = true → v.pair.lastSeq ≠ some (blk f 0 % 2 ^ 48) →
    exec (.pstatRx p f) s = .next ((v.withPair { v.pair with lastSeq := some (blk f 0 % 2 ^ 48) }).pstatTake (readPstat f (48 + p.val)))) ∧
  (∀ (s v : State) (p : Fin 2) (f : List (BitVec 64)), s.laneState (48 + p.val) ≠ lnParked → f.length = 6 → blk f 0 % 256 = 0xA5 → frameOk f = true →
    v = s.setRx (48 + p.val) [] → v.pair.lastSeq = some (blk f 0 % 2 ^ 48) → exec (.pstatRx p f) s = .next v) ∧
  (∀ (s v : State) (p : Fin 2) (f : List (BitVec 64)), s.laneState (48 + p.val) ≠ lnParked → f.length = 6 → blk f 0 % 256 = 0xA5 → frameOk f = false →
    v = s.setRx (48 + p.val) [] → exec (.pstatRx p f) s = .next (v.cnt (F.LANE_CRC_ERR (48 + p.val)))) ∧
  (∀ (s v : State) (p : Fin 2) (f : List (BitVec 64)) (nw j q : Nat) (words : List Nat), s.laneState (48 + p.val) ≠ lnParked → blk f 0 % 256 = 0xB4 →
    nw = bits (blk f 0) 55 48 → 1 ≤ nw → nw ≤ 128 → f.length = (nw + 3) / 4 + 2 → frameOk f = true →
    v = s.setRx (48 + p.val) [] → v.on F.PAIR_CFG_EN = true →
    j = bits (blk f 0) 39 8 → q = bits (blk f 0) 47 40 → v.pair.parts.any (fun x => x.period = j && x.part = q) = false →
    words = (List.range nw).map (fun i => bits (blk f (1 + i / 4)) (16 * (i % 4) + 15) (16 * (i % 4))) →
    exec (.poutRx p f) s = .next (v.withPair { v.pair with parts := ⟨j, q, words⟩ :: v.pair.parts.filter (fun x => v.recent x.period 9) })) ∧
  (∀ (s v : State) (p : Fin 2) (f : List (BitVec 64)) (nw j q : Nat), s.laneState (48 + p.val) ≠ lnParked → blk f 0 % 256 = 0xB4 →
    nw = bits (blk f 0) 55 48 → 1 ≤ nw → nw ≤ 128 → f.length = (nw + 3) / 4 + 2 → frameOk f = true →
    v = s.setRx (48 + p.val) [] → v.on F.PAIR_CFG_EN = true →
    j = bits (blk f 0) 39 8 → q = bits (blk f 0) 47 40 → v.pair.parts.any (fun x => x.period = j && x.part = q) = true →
    exec (.poutRx p f) s = .next v) ∧
  (∀ (s : State), s.pairState = prLinked → max (s.get F.PAIR_CFG_LOSS_PER) 4 ≤ s.pair.rxMiss →
    exec .pairLinkLoss s = .next (((s.put F.PAIR_FAULT_STAT_LOST 1).raise Base.PAIR 4).setPairState prLost)) ∧
  (∀ (s : State), exec (.digestUpdate 0) s = .next (s.setReg A.PAIR_DIG_YARD (BitVec.ofNat 32 s.digYard)) ∧
    exec (.digestUpdate 1) s = .next (s.setReg A.PAIR_DIG_PROG (BitVec.ofNat 32 s.digProg)) ∧
    exec (.digestUpdate 2) s = .next (s.setReg A.PAIR_DIG_SET (BitVec.ofNat 32 s.digSet))) ∧
  (∀ (s : State) (d : Fin 3), s.pairState = prLinked → 16 ≤ s.pair.digRun.getD d.val 0 → s.digDiffers d.val = true →
    exec (.digestMismatch d) s = .next ((s.setBitOf F.PAIR_FAULT_STAT_DIGEST_MISMATCH d.val).raise Base.PAIR 5)) ∧
  (∀ (s : State) (at0 : Nat), s.pair.withdrawAt = some at0 → exec .withdraw s = .next (s.until (at0 + 50 * us)).withdrawNow) ∧
  (∀ (s t : State) (r : ReadReq), t = (s.advance (256 * cyc)).err .fabricTimeout (masterCode r.master) 0 ((accessAddr (.read r)).getD 0) →
    exec (.fabricTimeout .timeout (.read r)) s = .next { t with readData := List.replicate r.len 0xFFFFFFFF#32 }) ∧
  (∀ (s t : State) (w : WriteReq), t = (s.advance (256 * cyc)).err .fabricTimeout (masterCode w.master) (accessMaster (.write w)).2 ((accessAddr (.write w)).getD 0) →
    exec (.fabricTimeout .timeout (.write w)) s = .next { t with readData := [] }) ∧
  (∀ (s t : State) (r : ReadReq), t = s.err .fabricParity (masterCode r.master) 0 ((accessAddr (.read r)).getD 0) →
    exec (.fabricTimeout .parity (.read r)) s = .next { t with readData := t.freeWords r.len, freeIx := t.freeIx + r.len }) ∧
  (∀ (s t : State) (w : WriteReq), t = s.err .fabricParity (masterCode w.master) (accessMaster (.write w)).2 ((accessAddr (.write w)).getD 0) →
    exec (.fabricTimeout .parity (.write w)) s = .next (if t.free 1 = 1 then t.drew.write w {} else t.drew)) ∧
  (∀ (s t : State), s.fltRecent = [] → s.flt.capAt ≠ some s.cycleNo → t = s.put F.FLT_MORE 0 →
    exec .capClr s = .next ((({ t with flt := { t.flt with probeBad := false, capAt := none } } : State).put
      F.FLT_STAT_CAP_VALID 0).put F.FLT_FIRST_INFO_VALID 0)) ∧
  (∀ (s : State), s.on F.FLT_STAT_CAP_VALID = true → s.flt.capAt = some s.cycleNo →
    exec .capClr s = .next (s.put F.FLT_MORE (s.fltRecent.length - 1))) ∧
  (∀ (s : State) (x : FltErr), s.flt.capAt ≠ some s.cycleNo → firstErr s.fltRecent = some x →
    exec .capClr s = .next (((s.put F.FLT_MORE (s.fltRecent.length - 1)).fltRecord x).raise Base.FLT 0)) ∧
  (∀ (s : State) (bad : Bool), s.on F.FLT_STAT_CAP_VALID = true → (s.get F.FLT_FIRST_INFO_CODE = 8 ∨ s.get F.FLT_FIRST_INFO_CODE = 9) →
    exec (.fabricProbe bad) s = .next { s with flt := { s.flt with probeBad := bad } })

/-- Commands are taken first in, first out (log 1). -/
def Obligations.StepRunsFrontCommand : Prop :=
  (∀ (c : Instr) (rest : List Instr) (s : State), step { s with pending := c :: rest } = exec c { s with pending := rest })

/-- An empty queue (DESIGN CHOICE, log 1). -/
def Obligations.IdleStepPassesOneCycle : Prop :=
  (∀ (s : State), s.pending = [] → ∃ t, step s = .next t ∧ t.now = s.now + 10 ∧ (∀ a, t.reg a = s.reg a) ∧ (∀ a, t.byte a = s.byte a))

/-- The reset state (R31, R48, R311, R371, R386). -/
def Obligations.ResetStateIsCanonicalAndIdle : Prop :=
  State.reset.pending = [] ∧ KMap.wf RegMap.resetWord State.reset.regs = true ∧ State.reset.mem = [] ∧
  State.reset.yardState = yardConfig ∧ State.reset.safeState = safeTest ∧ State.reset.on F.SYS_STAT_SVR_UP = false ∧
  State.reset.pairState = prDisabled

/-- The canonical form of both stores is an invariant of step. -/
def Obligations.EveryStepKeepsTheStoresCanonical : Prop :=
  (∀ (s t : State), KMap.wf RegMap.resetWord s.regs = true → KMap.wf memDefault s.mem = true → step s = .next t →
    KMap.wf RegMap.resetWord t.regs = true ∧ KMap.wf memDefault t.mem = true)

/-- The queue of waiting commands, the model's own (DESIGN CHOICE, log 1). -/
def Obligations.EveryStepTakesOnlyTheFront : Prop :=
  (∀ (s t : State), step s = .next t → t.pending = s.pending.tail)

/-- No command ends in a fault or a refusal. -/
def Obligations.EveryCommandAnswersANextState : Prop :=
  (∀ (c : Instr) (s : State), ∃ t, exec c s = .next t)

/-- The frame of every command, part by part. The footprints are those of `touches`. -/
def Obligations.CommandsTouchOnlyTheirParts : Prop :=
  (∀ (c : Instr) (s t : State) (p : Part), exec c s = .next t → p ∉ touches c → p.same s t) ∧
  (∀ (c : Instr) (s t : State), exec c s = .next t → Part.mem ∉ touches c → ∀ a, t.byte a = s.byte a) ∧
  (∀ (c : Instr) (s t : State), exec c s = .next t → Part.regs ∉ touches c → ∀ a, t.reg a = s.reg a)

/-- Alias writes (R12), and SYS_SCRATCH through its 16 addresses (R11). `aliasWord` is the value by page: 0 normal, 1 set, 2 clear, 3 toggle. -/
def Obligations.AliasWritesActOnRwFields : Prop :=
  (∀ (f : FieldSpec) (v old ok : Word), f.kind = .rw →
    fieldWrite false 1 v old ok {} f = (old ||| v) &&& f.mask ∧ fieldWrite false 2 v old ok {} f = (old &&& ~~~v) &&& f.mask ∧
      fieldWrite false 3 v old ok {} f = (old ^^^ v) &&& f.mask) ∧
  (∀ (f : FieldSpec) (al : Nat) (v old ok : Word), f.kind ≠ .rw → f.kind ≠ .lk → f.lo + f.len ≤ 32 → 1 ≤ al → al ≤ 3 →
    fieldWrite false al v old ok {} f = old &&& f.mask) ∧
  (∀ (s : State) (m : Master) (v : Word) (k al : Fin 4), s.guard 0 = {} → s.answers m = true →
    ∃ t, exec (.registerWrite ⟨m, .bar0 (BitVec.ofNat 24 (0x38 + 0x400 * k.val + 0x4000 * al.val)), [(v, 0xF#4)]⟩ {}) s = .next t ∧
      t.reg 0x38 = (if al.val = 0 then v else if al.val = 1 then s.reg 0x38 ||| v else if al.val = 2 then s.reg 0x38 &&& ~~~v
        else s.reg 0x38 ^^^ v) ∧
      (∀ a, a ≠ 0x38 → t.reg a = s.reg a) ∧ (∀ a, t.byte a = s.byte a))

/-- Alias reads (R13): whole states are equal, so every side effect is. -/
def Obligations.AliasReadsActAsNormalReads : Prop :=
  (∀ (s : State) (m : Master) (a al : Nat) (meets : Option Nat), al < 4 → a < 0x800000 → a / 0x4000 % 4 = 0 → a % 4 = 0 → regionOf a = .regs →
    exec (.resultRead ⟨m, BitVec.ofNat 24 (a + 0x4000 * al), 1⟩ meets) s = exec (.resultRead ⟨m, BitVec.ofNat 24 a, 1⟩ meets) s) ∧
  (∀ (s : State) (m : Master) (a al : Nat) (meets : Option Nat), al < 4 → a < 0x800000 → a / 0x4000 % 4 = 0 → a % 8 = 0 → regionOf a = .regs →
    isPairLo (canon a) = true →
    exec (.resultRead ⟨m, BitVec.ofNat 24 (a + 0x4000 * al), 2⟩ meets) s = exec (.resultRead ⟨m, BitVec.ofNat 24 a, 2⟩ meets) s)

/-- SEQ and the read before any result (R22). -/
def Obligations.ResultsCarryRisingSeq : Prop :=
  (∀ (s : State) (a v : Nat), ((s.complete a v).res a).seq = ((s.res a).seq + 1) % 256 ∧ ((s.complete a v).res a).value = v) ∧
  (∀ (s : State) (a b v : Nat), b ≠ a → (s.complete a v).res b = s.res b) ∧
  (∀ (a : Nat) (l : List Nat), ((l.foldl (fun (t : State) v => t.complete a v) State.reset).res a).seq = l.length % 256) ∧
  (∀ (s : State) (m : Master) (a : BitVec 24) (run : Bool), s.answers m = true → a.toNat % 4 = 0 → regionOf a.toNat = .regs → isRes32 (canon a.toNat) = true →
    s.res (canon a.toNat) = { busy := run } →
    ∃ t, exec (.resultRead ⟨m, a, 1⟩ none) s = .next t ∧ t.readData = [if run = true then 0x40000000#32 else 0x00000000#32])

/-- Access errors (R17). -/
def Obligations.AccessErrorsRaiseAccessFault : Prop :=
  (∀ (s : State) (b m acc a : Nat), b % 0x10000 = 0 →
    (s.accessFault b .guardFail m acc a).on ⟨b + 0x1C, 0, 1⟩ = true ∧ (s.accessFault b .aliasGrd m acc a).on ⟨b + 0x1C, 1, 1⟩ = true ∧
    (s.accessFault b .lockedWr m acc a).on ⟨b + 0x1C, 2, 1⟩ = true ∧ (s.accessFault b .sizeErr m acc a).on ⟨b + 0x1C, 3, 1⟩ = true) ∧
  (∀ (s : State) (b m acc a : Nat) (e : Err), e.cls = 0 → (s.accessFault b e m acc a).bitOf (F.evtRaw Base.SYS) 0 = true) ∧
  (∀ (s : State) (m : Master) (acc a : Nat), (s.unmapped m acc a).on F.SYS_FAULT_STAT_UNMAPPED = true ∧
    (s.unmapped m acc a).bitOf (F.evtRaw Base.SYS) 0 = true) ∧
  (∀ (s : State) (b i : Nat), b % 0x10000 = 0 → i < 4 → s.clearOk (b + 0x1C) i = true) ∧
  (∀ (s : State), s.clearOk F.SYS_FAULT_STAT_UNMAPPED.reg F.SYS_FAULT_STAT_UNMAPPED.lo = true)

/-- Software events (R340). -/
def Obligations.SoftwareEventsOccur : Prop :=
  (∀ (s : State) (b : Fin 16), exec (.evtSw (BitVec.ofNat 16 (2 ^ b.val))) s =
    .next { s with evt := { s.evt with pipe := Occ.insert ⟨240 + b.val, 0, s.bitOf F.EVT_SW_ROUTE_HOST b.val, s.bitOf F.EVT_SW_ROUTE_SV b.val, s.now, s.ctb⟩ s.evt.pipe } }) ∧
  (∀ (s : State) (v : BitVec 16), ∃ t, exec (.evtSw v) s = .next t ∧
    (∀ b : Fin 16, v.toNat.testBit b.val = true →
      (⟨240 + b.val, 0, s.bitOf F.EVT_SW_ROUTE_HOST b.val, s.bitOf F.EVT_SW_ROUTE_SV b.val, s.now, s.ctb⟩ : Occ) ∈ t.evt.pipe) ∧
    t.evt.pipe.length = s.evt.pipe.length + (bitIndices 16 v.toNat).length)

/-- CRC blocks (R62). -/
def Obligations.FramesCarryTheirCrc : Prop :=
  (∀ (body : List Nat) (hi : Nat), hi < 2 ^ 32 → frameOk (sealFrame body hi) = true) ∧
  (∀ (body : List (BitVec 64)) (last : BitVec 64), frameOk (body ++ [last]) = true ↔
    last.toNat % 2 ^ 32 = crc32c (body.flatMap blockBytes ++ bytesLE 4 (last.toNat / 2 ^ 32)))

/-- PSTAT sent and received (R369). -/
def Obligations.PstatRoundTrips : Prop :=
  (∀ (s : State) (dly n : Nat), s.yard.tk < 2 ^ 64 → dly < 2 ^ 24 → frameOk (s.pstatFrame dly) = true ∧ (s.pstatFrame dly).length = 6 ∧
    readPstat (s.pstatFrame dly) n =
      { period := s.periodK % 2 ^ 32, safe := s.safeState % 16, yard := s.yardState % 4, warmup := s.warmup, lead := s.lead,
        member := s.member, relinquish := s.on F.PAIR_CTRL_RELINQUISH, chOk := s.on F.SAFE_STAT_FENCE_OK && s.on F.SAFE_STAT_SV_OK,
        ctbOk := s.ctbOk, ctb := s.yard.tk, dly := dly, fit := s.get F.PAIR_STAT_FIT, followN := s.get F.PAIR_FOLLOW_SELF,
        sortN := s.sortList.length, serial := (s.reg A.SYS_SERIAL).toNat, digYard := (s.reg A.PAIR_DIG_YARD).toNat,
        digProg := (s.reg A.PAIR_DIG_PROG).toNat, digSet := (s.reg A.PAIR_DIG_SET).toNat, lane := n })

/-- Rollback counters (R356). -/
def Obligations.RollbackCountersOnlyRise : Prop :=
  (∀ (s : State) (k j r : Nat) (durable : Bool), 1 ≤ k → k ≤ 6 → 1 ≤ j → j ≤ 6 → r < 2 ^ 32 →
    s.rollbackOf j ≤ (s.advRollback k r durable).rollbackOf j) ∧
  (∀ (s : State) (k r : Nat), 1 ≤ k → k ≤ 6 → r < 2 ^ 32 → (s.advRollback k r true).rollbackOf k = max (s.rollbackOf k) r) ∧
  (∀ (s : State) (k j r : Nat) (durable : Bool), 1 ≤ k → k ≤ 6 → 1 ≤ j → j ≤ 6 → (j ≠ k ∨ durable = false) →
    (s.advRollback k r durable).rollbackOf j = s.rollbackOf j) ∧
  (∀ (s : State) (k r : Nat), s.rollbackOf k < r → (s.advRollback k r true).bitOf (F.evtRaw Base.SEC) 6 = true) ∧
  (∀ (s : State), s.on F.SAFE_STAT_SV_WINDOW = false → s.on F.UPD_STAT_TRIAL = true → ∃ t, exec (.confirm true) s = .next t ∧
    t.rollbackOf 1 = max (s.rollbackOf 1) (s.image (0x10000000 * s.get F.SYS_STAT_BOOT_BANK)).rollback)

/-- Indices (R348, R350). The premise on the block in use is kept by every reservation. -/
def Obligations.SignatureIndicesAreUsedOnce : Prop :=
  (∀ (s : State) (r : CmdRun) (b n : Nat), s.cmdIs 0x21 = true → s.cmd = some r → s.cmdArg 0 ≤ 1024 → s.attestWhy = 0 →
    s.tack.block = some (b, n) → 64 * b ≤ n → n ≤ 64 * (b + 1) → s.get F.SEC_RESERVED = b + 1 → b + 1 < 2 ^ 24 →
    ∃ t, exec (.attestSign true) s = .next t ∧ t.nextIndex = s.nextIndex + 1 ∧
      (∃ q, t.cmd = some q ∧ q.outcome = some (0, [BitVec.ofNat 32 s.nextIndex, 4728#32, 0#32, 0#32]))) ∧
  (∀ (s : State), s.needsBlock = true → s.get F.SEC_RESERVED + 1 < 2 ^ 25 →
    s.reserve.tack.block = some (s.get F.SEC_RESERVED, 64 * s.get F.SEC_RESERVED) ∧
    s.reserve.get F.SEC_RESERVED = s.get F.SEC_RESERVED + 1)

/-- Memories of BAR0 (R14): each address is one location. -/
def Obligations.MemoryReadsWhatWasStored : Prop :=
  (∀ (s : State) (a n v : Nat), (s.store a n v).load a n = v % 2 ^ (8 * n)) ∧
  (∀ (s : State) (a n v c : Nat), (c < a ∨ a + n ≤ c) → (s.store a n v).byte c = s.byte c) ∧
  (∀ (s : State) (a n v c : Nat), (s.store a n v).reg c = s.reg c)

/-- Exact clocks (R206, R209, R213, R225; the fractional exactness is the model's, log 9). -/
def Obligations.TimePassesAdditively : Prop :=
  (∀ (s : State) (m n : Nat), (s.advance m).advance n = s.advance (m + n)) ∧
  (∀ (s : State) (x y : Nat), s.now ≤ x → x ≤ y → (s.until x).until y = s.until y) ∧
  (∀ (s : State) (n a : Nat), (s.advance n).reg a = s.reg a ∧ (s.advance n).byte a = s.byte a)

/-- The register frames of sixteen commands. The footprints of `touches` say the same of every other part of State. -/
def Obligations.RegistersOutsideTheEffectKeepTheirValue : Prop :=
  (∀ (s t : State) (a : Nat), exec .forceLead s = .next t → a ∉ [A.PAIR_CFG, F.PAIR_FAULT_STAT_MIRROR_BAD.reg, Base.PAIR + 0x10] → t.reg a = s.reg a) ∧
  (∀ (s t : State) (a : Nat), exec .pairLinkLoss s = .next t → a ∉ [F.PAIR_FAULT_STAT_LOST.reg, F.PAIR_STAT_STATE.reg, Base.PAIR + 0x10] →
    t.reg a = s.reg a) ∧
  (∀ (s t : State) (d : Fin 3) (a : Nat), exec (.digestMismatch d) s = .next t → a ∉ [F.PAIR_FAULT_STAT_DIGEST_MISMATCH.reg, Base.PAIR + 0x10] →
    t.reg a = s.reg a) ∧
  (∀ (s t : State) (d : Fin 3) (a : Nat), exec (.digestUpdate d) s = .next t → a ∉ [A.PAIR_DIG_YARD + 4 * d.val] → t.reg a = s.reg a) ∧
  (∀ (s t : State) (a : Nat), exec .capClr s = .next t → a ∉ [F.FLT_STAT_CAP_VALID.reg, A.FLT_FIRST_INFO,
    A.FLT_FIRST_ADDR, A.FLT_FIRST_CTB 0, A.FLT_FIRST_CTB 1, A.FLT_MORE, Base.FLT + 0x10] → t.reg a = s.reg a) ∧
  (∀ (s t : State) (durable : Bool) (a : Nat), exec (.confirm durable) s = .next t →
    a ∉ [F.UPD_STAT_TRIAL.reg, A.SEC_ROLLBACK 0, F.SEC_FAULT_STAT_TACK_WR_FAIL.reg, Base.SEC + 0x10, Base.UPD + 0x10] → t.reg a = s.reg a) ∧
  (∀ (s t : State) (durable : Bool) (a : Nat), exec (.stationErase durable) s = .next t →
    a ∉ [F.SEC_KEYS_STATION.reg, F.SEC_FAULT_STAT_TACK_WR_FAIL.reg, Base.SEC + 0x10] → t.reg a = s.reg a) ∧
  (∀ (s t : State) (m : Int) (a : Nat), exec (.calTrim m) s = .next t → a ∉ [A.RTC_TRIM] → t.reg a = s.reg a) ∧
  (∀ (s t : State) (a : Nat), exec .tamperInputRelease s = .next t → a ∉ [F.RTC_STAT_TAMPER_IN.reg] → t.reg a = s.reg a) ∧
  (∀ (s t : State) (m : BitVec 16) (a : Nat), exec (.pwmCommit m) s = .next t → a ∉ [F.PWM_CTRL_COMMIT.reg] → t.reg a = s.reg a) ∧
  (∀ (s t : State) (sp w : Nat) (sris : Bool) (mps : Fin 2) (a : Nat), exec (.pcieLinkUp sp w sris mps) s = .next t →
    a ∉ [F.HOST_LINK_SPEED.reg, Base.HOST + 0x10] → t.reg a = s.reg a) ∧
  (∀ (s t : State) (c : Bool) (a : Nat), exec (.aerError c) s = .next t → a ∉ [F.HOST_AER_COUNT.reg, Base.HOST + 0x10] → t.reg a = s.reg a) ∧
  (∀ (s t : State) (m : Fin 8) (c : Bool) (a : Nat), exec (.feedbackChange m c) s = .next t → a ∉ [F.SAFE_IN_FB.reg] → t.reg a = s.reg a) ∧
  (∀ (s t : State) (v : BitVec 16) (a : Nat), exec (.evtSw v) s = .next t → t.reg a = s.reg a) ∧
  (∀ (s t : State) (bad : Bool) (a : Nat), exec (.fabricProbe bad) s = .next t → t.reg a = s.reg a) ∧
  (∀ (s t : State) (a : Nat), exec .indexStatus s = .next t → t.reg a = s.reg a)

/-- Reset requests (R318). Readings of the model, not of the spec: where several conditions refuse, the lowest WHY is recorded (DEDUCED, log 47); of a
request and a press in one fabric cycle the first in the queue is judged (DEDUCED, log 193). -/
def Obligations.LockoutResetIsJudgedByTheTable : Prop :=
  (∀ (s : State) (sv : Bool), s.safeState ≠ safeLockout → exec (.lockoutReset sv) s = .next (s.put F.SAFE_RESET 0)) ∧
  (∀ (s : State) (remote sv : Bool), s.resetWhy remote sv = 0 ↔ (s.classAActive = false ∧ s.reg 0x11001C &&& 0x6F80#32 = 0#32 ∧ s.running = false ∧
    s.get F.SAFE_STAT_RST_IN < 2 ∧ ¬(remote = true ∧ s.on F.SAFE_IN_RST_CLOSED = true) ∧ s.safe.testsFailed = false ∧ sv = true ∧
    (if remote = true then s.on F.SAFE_CFG_RST_REMOTE = true else s.on F.SAFE_CFG_RST_INPUT = true) ∧
    s.on F.THERM_FAULT_STAT_CRIT_LATCH = false ∧ s.on F.SAFE_STAT_SV_WINDOW = false)) ∧
  (∀ (s : State) (remote sv : Bool), s.resetWhy remote sv ≤ 9) ∧
  (∀ (s : State) (remote sv : Bool) (holds : List Bool), holds = [s.classAActive, decide (s.reg 0x11001C &&& 0x6F80#32 ≠ 0#32), s.running,
      decide (2 ≤ s.get F.SAFE_STAT_RST_IN) || (remote && s.on F.SAFE_IN_RST_CLOSED), s.safe.testsFailed, !sv,
      !(if remote = true then s.on F.SAFE_CFG_RST_REMOTE else s.on F.SAFE_CFG_RST_INPUT), s.on F.THERM_FAULT_STAT_CRIT_LATCH,
      s.on F.SAFE_STAT_SV_WINDOW] → s.resetWhy remote sv = (holds.findIdx? (fun b => b)).elim 0 (fun k => k + 1)) ∧
  (∀ (s : State) (sv : Bool), s.safeState = safeLockout → s.safe.reqAt = some (s.cycleNo, false) →
    exec (.lockoutReset sv) s = .next (s.put F.SAFE_RESET 0)) ∧
  (∀ (s t : State) (sv : Bool), s.safeState = safeLockout → t = s.put F.SAFE_RESET 0 → t.resetWhy true sv = 0 →
    s.safe.reqAt ≠ some (s.cycleNo, false) →
    exec (.lockoutReset sv) s = .next (t.withSafe { t.safe with reqAt := some (t.cycleNo, true) }).resetAccept) ∧
  (∀ (s t : State) (sv : Bool) (w : Nat), s.safeState = safeLockout → t = s.put F.SAFE_RESET 0 → t.resetWhy true sv = w → w ≠ 0 → s.safe.reqAt ≠ some (s.cycleNo, false) →
    ∃ u, exec (.lockoutReset sv) s = .next u ∧ u.get F.SAFE_REFUSE = w ∧ u.on F.SAFE_FAULT_STAT_RESET_REFUSED = true ∧
    u.get F.SAFE_ERR_COUNT_RESET_REFUSED_COUNT = min (s.get F.SAFE_ERR_COUNT_RESET_REFUSED_COUNT + 1)
      (2 ^ F.SAFE_ERR_COUNT_RESET_REFUSED_COUNT.len - 1) ∧ u.bitOf (F.evtRaw Base.SAFE) 4 = true ∧ u.safeState = safeLockout)

/-- Occurrences (R335). The registers' layout is that of the register map. -/
def Obligations.RawRecordsEveryOccurrence : Prop :=
  (∀ (s : State) (b k : Nat), k < 16 → (s.raise b k).bitOf (F.evtRaw b) k = true) ∧
  (∀ (s : State) (b k j : Nat), k < 16 → j < 16 → j ≠ k → (s.raise b k).bitOf (F.evtRaw b) j = s.bitOf (F.evtRaw b) j) ∧
  (∀ (s : State) (b k a : Nat), a ≠ b + 0x10 → (s.raise b k).reg a = s.reg a) ∧
  (∀ (s : State) (b k : Nat), s.bitOf (F.evtEn b) k = false → (s.raise b k).evt = s.evt) ∧
  (∀ (s : State) (b k : Nat), s.bitOf (F.evtEn b) k = true → (s.raise b k).evt.pipe = Occ.insert ⟨evBase b + k, evInst b,
    s.bitOf (F.evtRouteHost b) k, s.bitOf (F.evtRouteSv b) k, s.now, s.ctb⟩ s.evt.pipe)

/-- Lasting classes (R331). `fltN` and `fltW` are N and W of the class. -/
def Obligations.ErrorClassesBecomeLasting : Prop :=
  (∀ (s : State) (c : Nat), c < 8 → (s.fltCount c).get (F.FLT_COUNT c) = min (s.get (F.FLT_COUNT c) + 1) (2 ^ 32 - 1)) ∧
  (∀ (s : State) (c : Nat), c < 8 → s.bitOf F.FLT_LASTING c = false → s.fltN c = 1 → (s.fltCount c).bitOf F.FLT_LASTING c = true) ∧
  (∀ (s : State) (c : Nat) (ts : List Nat), c < 8 → s.bitOf F.FLT_LASTING c = false →
    ts = (s.now :: KMap.get (fun _ => []) s.flt.times c).take 255 →
    ((s.fltCount c).bitOf F.FLT_LASTING c = true ↔ (s.fltN c ≤ ts.length ∧ s.now ≤ ts.getD (s.fltN c - 1) 0 + s.fltW c * ms))) ∧
  (∀ (s t : State) (c : Nat) (ts : List Nat), c < 8 → s.bitOf F.FLT_LASTING c = false →
    ts = (s.now :: KMap.get (fun _ => []) s.flt.times c).take 255 →
    t = { s.cnt (F.FLT_COUNT c) with flt := { s.flt with times := KMap.set (fun _ => []) s.flt.times c ts } } →
    s.fltCount c = if s.fltN c ≤ ts.length ∧ s.now ≤ ts.getD (s.fltN c - 1) 0 + s.fltW c * ms then (t.setBitOf F.FLT_LASTING c).raise Base.FLT 1
      else t) ∧
  (∀ (s : State) (c : Nat), c < 8 → s.bitOf F.FLT_LASTING c = true → s.fltCount c = s.cnt (F.FLT_COUNT c))

/-- No row of the table has bits. -/
def Obligations.NoTableWordSpellsACommand : Prop :=
  (∀ (nbits w : Nat), decodeTableWord nbits w = none) ∧ (∀ (s : State) (nbits w : Nat), s.withFetchWord nbits w = s)
end

