-- ==== Sys2Proof/Laws/Field.lean ====
section
/-! SUPPORT. Laws of register fields: what reading a field of a dword gives after a field of it was written. -/

namespace Sys2Proof.Machine

/-- A field lies inside its 32-bit register. -/
def Fld.Ok (f : Fld) : Prop := f.lo + f.len ≤ 32

theorem Fld.testBit_read (f : Fld) (w : Word) (i : Nat) : (f.read w).testBit i = (decide (i < f.len) && w.getLsbD (f.lo + i)) := by
  simp [Fld.read, Nat.testBit_mod_two_pow, Nat.testBit_shiftRight, BitVec.getLsbD]

theorem Fld.getLsbD_mask (f : Fld) (j : Nat) :
    f.mask.getLsbD j = (decide (j < 32) && decide (f.lo ≤ j) && decide (j < f.lo + f.len)) := by
  simp only [Fld.mask, BitVec.getLsbD_shiftLeft, BitVec.getLsbD_ofNat, Nat.testBit_two_pow_sub_one]
  by_cases h1 : j < 32 <;> by_cases h2 : f.lo ≤ j <;> by_cases h3 : j < f.lo + f.len <;> simp [h1, h2, h3] <;> omega

theorem Fld.getLsbD_write (f : Fld) (w : Word) (v j : Nat) (hj : j < 32) :
    (f.write w v).getLsbD j = if f.lo ≤ j ∧ j < f.lo + f.len then v.testBit (j - f.lo) else w.getLsbD j := by
  simp only [Fld.write, BitVec.getLsbD_or, BitVec.getLsbD_and, BitVec.getLsbD_not, Fld.getLsbD_mask, BitVec.getLsbD_shiftLeft,
    BitVec.getLsbD_ofNat, Nat.testBit_mod_two_pow]
  by_cases h2 : f.lo ≤ j <;> by_cases h3 : j < f.lo + f.len <;> simp [hj, h2, h3]
  · have h4 : j - f.lo < f.len := by omega
    simp [h4, h2, show j - f.lo < 32 by omega]
  · have h4 : ¬ j - f.lo < f.len := by omega
    simp [h4]

/-- A field just written reads as the value written, cut to its length. -/
theorem Fld.read_write_self (f : Fld) (w : Word) (v : Nat) (h : f.lo + f.len ≤ 32) : f.read (f.write w v) = v % 2 ^ f.len := by
  apply Nat.eq_of_testBit_eq
  intro i
  rw [Fld.testBit_read, Nat.testBit_mod_two_pow]
  by_cases hi : i < f.len
  · rw [Fld.getLsbD_write _ _ _ _ (by omega)]
    simp [hi]
  · simp [hi]

/-- A field that shares no bit with the one written keeps its value. -/
theorem Fld.read_write_of_disjoint (f g : Fld) (w : Word) (v : Nat) (h : g.lo + g.len ≤ 32)
    (hd : g.lo + g.len ≤ f.lo ∨ f.lo + f.len ≤ g.lo) : g.read (f.write w v) = g.read w := by
  apply Nat.eq_of_testBit_eq
  intro i
  rw [Fld.testBit_read, Fld.testBit_read]
  by_cases hi : i < g.len
  · rw [Fld.getLsbD_write _ _ _ _ (by omega)]
    simp [hi]
    omega
  · simp [hi]

theorem Fld.read_lt (f : Fld) (w : Word) : f.read w < 2 ^ f.len := Nat.mod_lt _ (by positivity)

end Sys2Proof.Machine
end

