-- ==== Sys2Proof/Laws/State.lean ====
section
/-! SUPPORT. What each elementary update of State leaves alone, one lemma per field and update. -/

namespace Sys2Proof.Machine

variable (s : State)

@[simp] theorem State.setReg_pending (a : Nat) (w : Word) : (s.setReg a w).pending = s.pending := rfl
@[simp] theorem State.setReg_now (a : Nat) (w : Word) : (s.setReg a w).now = s.now := rfl
@[simp] theorem State.setReg_mem (a : Nat) (w : Word) : (s.setReg a w).mem = s.mem := rfl
@[simp] theorem State.setReg_readData (a : Nat) (w : Word) : (s.setReg a w).readData = s.readData := rfl
@[simp] theorem State.setReg_wrDrop (a : Nat) (w : Word) : (s.setReg a w).wrDrop = s.wrDrop := rfl
@[simp] theorem State.setReg_out (a : Nat) (w : Word) : (s.setReg a w).out = s.out := rfl
@[simp] theorem State.setReg_freeIx (a : Nat) (w : Word) : (s.setReg a w).freeIx = s.freeIx := rfl
@[simp] theorem State.setReg_guards (a : Nat) (w : Word) : (s.setReg a w).guards = s.guards := rfl
@[simp] theorem State.setReg_results (a : Nat) (w : Word) : (s.setReg a w).results = s.results := rfl
@[simp] theorem State.setReg_fifos (a : Nat) (w : Word) : (s.setReg a w).fifos = s.fifos := rfl
@[simp] theorem State.setReg_fifoIn (a : Nat) (w : Word) : (s.setReg a w).fifoIn = s.fifoIn := rfl
@[simp] theorem State.setReg_spills (a : Nat) (w : Word) : (s.setReg a w).spills = s.spills := rfl
@[simp] theorem State.setReg_captures (a : Nat) (w : Word) : (s.setReg a w).captures = s.captures := rfl
@[simp] theorem State.setReg_cmd (a : Nat) (w : Word) : (s.setReg a w).cmd = s.cmd := rfl
@[simp] theorem State.setReg_cmdEnded (a : Nat) (w : Word) : (s.setReg a w).cmdEnded = s.cmdEnded := rfl
@[simp] theorem State.setReg_restartPend (a : Nat) (w : Word) : (s.setReg a w).restartPend = s.restartPend := rfl
@[simp] theorem State.setReg_host (a : Nat) (w : Word) : (s.setReg a w).host = s.host := rfl
@[simp] theorem State.setReg_yard (a : Nat) (w : Word) : (s.setReg a w).yard = s.yard := rfl
@[simp] theorem State.setReg_links (a : Nat) (w : Word) : (s.setReg a w).links = s.links := rfl
@[simp] theorem State.setReg_linkLanes (a : Nat) (w : Word) : (s.setReg a w).linkLanes = s.linkLanes := rfl
@[simp] theorem State.setReg_conv (a : Nat) (w : Word) : (s.setReg a w).conv = s.conv := rfl
@[simp] theorem State.setReg_convNext (a : Nat) (w : Word) : (s.setReg a w).convNext = s.convNext := rfl
@[simp] theorem State.setReg_lanes (a : Nat) (w : Word) : (s.setReg a w).lanes = s.lanes := rfl
@[simp] theorem State.setReg_edge (a : Nat) (w : Word) : (s.setReg a w).edge = s.edge := rfl
@[simp] theorem State.setReg_bal (a : Nat) (w : Word) : (s.setReg a w).bal = s.bal := rfl
@[simp] theorem State.setReg_cme (a : Nat) (w : Word) : (s.setReg a w).cme = s.cme := rfl
@[simp] theorem State.setReg_time (a : Nat) (w : Word) : (s.setReg a w).time = s.time := rfl
@[simp] theorem State.setReg_rtc (a : Nat) (w : Word) : (s.setReg a w).rtc = s.rtc := rfl
@[simp] theorem State.setReg_eth (a : Nat) (w : Word) : (s.setReg a w).eth = s.eth := rfl
@[simp] theorem State.setReg_can (a : Nat) (w : Word) : (s.setReg a w).can = s.can := rfl
@[simp] theorem State.setReg_adc (a : Nat) (w : Word) : (s.setReg a w).adc = s.adc := rfl
@[simp] theorem State.setReg_therm (a : Nat) (w : Word) : (s.setReg a w).therm = s.therm := rfl
@[simp] theorem State.setReg_aux (a : Nat) (w : Word) : (s.setReg a w).aux = s.aux := rfl
@[simp] theorem State.setReg_hb (a : Nat) (w : Word) : (s.setReg a w).hb = s.hb := rfl
@[simp] theorem State.setReg_pwm (a : Nat) (w : Word) : (s.setReg a w).pwm = s.pwm := rfl
@[simp] theorem State.setReg_tripIn (a : Nat) (w : Word) : (s.setReg a w).tripIn = s.tripIn := rfl
@[simp] theorem State.setReg_safe (a : Nat) (w : Word) : (s.setReg a w).safe = s.safe := rfl
@[simp] theorem State.setReg_evt (a : Nat) (w : Word) : (s.setReg a w).evt = s.evt := rfl
@[simp] theorem State.setReg_flt (a : Nat) (w : Word) : (s.setReg a w).flt = s.flt := rfl
@[simp] theorem State.setReg_tack (a : Nat) (w : Word) : (s.setReg a w).tack = s.tack := rfl
@[simp] theorem State.setReg_flash (a : Nat) (w : Word) : (s.setReg a w).flash = s.flash := rfl
@[simp] theorem State.setReg_upd (a : Nat) (w : Word) : (s.setReg a w).upd = s.upd := rfl
@[simp] theorem State.setReg_pair (a : Nat) (w : Word) : (s.setReg a w).pair = s.pair := rfl
@[simp] theorem State.setReg_rst (a : Nat) (w : Word) : (s.setReg a w).rst = s.rst := rfl

@[simp] theorem State.put_pending (f : Fld) (v : Nat) : (s.put f v).pending = s.pending := rfl
@[simp] theorem State.put_now (f : Fld) (v : Nat) : (s.put f v).now = s.now := rfl
@[simp] theorem State.put_mem (f : Fld) (v : Nat) : (s.put f v).mem = s.mem := rfl
@[simp] theorem State.put_readData (f : Fld) (v : Nat) : (s.put f v).readData = s.readData := rfl
@[simp] theorem State.put_wrDrop (f : Fld) (v : Nat) : (s.put f v).wrDrop = s.wrDrop := rfl
@[simp] theorem State.put_out (f : Fld) (v : Nat) : (s.put f v).out = s.out := rfl
@[simp] theorem State.put_freeIx (f : Fld) (v : Nat) : (s.put f v).freeIx = s.freeIx := rfl
@[simp] theorem State.put_guards (f : Fld) (v : Nat) : (s.put f v).guards = s.guards := rfl
@[simp] theorem State.put_results (f : Fld) (v : Nat) : (s.put f v).results = s.results := rfl
@[simp] theorem State.put_fifos (f : Fld) (v : Nat) : (s.put f v).fifos = s.fifos := rfl
@[simp] theorem State.put_fifoIn (f : Fld) (v : Nat) : (s.put f v).fifoIn = s.fifoIn := rfl
@[simp] theorem State.put_spills (f : Fld) (v : Nat) : (s.put f v).spills = s.spills := rfl
@[simp] theorem State.put_captures (f : Fld) (v : Nat) : (s.put f v).captures = s.captures := rfl
@[simp] theorem State.put_cmd (f : Fld) (v : Nat) : (s.put f v).cmd = s.cmd := rfl
@[simp] theorem State.put_cmdEnded (f : Fld) (v : Nat) : (s.put f v).cmdEnded = s.cmdEnded := rfl
@[simp] theorem State.put_restartPend (f : Fld) (v : Nat) : (s.put f v).restartPend = s.restartPend := rfl
@[simp] theorem State.put_host (f : Fld) (v : Nat) : (s.put f v).host = s.host := rfl
@[simp] theorem State.put_yard (f : Fld) (v : Nat) : (s.put f v).yard = s.yard := rfl
@[simp] theorem State.put_links (f : Fld) (v : Nat) : (s.put f v).links = s.links := rfl
@[simp] theorem State.put_linkLanes (f : Fld) (v : Nat) : (s.put f v).linkLanes = s.linkLanes := rfl
@[simp] theorem State.put_conv (f : Fld) (v : Nat) : (s.put f v).conv = s.conv := rfl
@[simp] theorem State.put_convNext (f : Fld) (v : Nat) : (s.put f v).convNext = s.convNext := rfl
@[simp] theorem State.put_lanes (f : Fld) (v : Nat) : (s.put f v).lanes = s.lanes := rfl
@[simp] theorem State.put_edge (f : Fld) (v : Nat) : (s.put f v).edge = s.edge := rfl
@[simp] theorem State.put_bal (f : Fld) (v : Nat) : (s.put f v).bal = s.bal := rfl
@[simp] theorem State.put_cme (f : Fld) (v : Nat) : (s.put f v).cme = s.cme := rfl
@[simp] theorem State.put_time (f : Fld) (v : Nat) : (s.put f v).time = s.time := rfl
@[simp] theorem State.put_rtc (f : Fld) (v : Nat) : (s.put f v).rtc = s.rtc := rfl
@[simp] theorem State.put_eth (f : Fld) (v : Nat) : (s.put f v).eth = s.eth := rfl
@[simp] theorem State.put_can (f : Fld) (v : Nat) : (s.put f v).can = s.can := rfl
@[simp] theorem State.put_adc (f : Fld) (v : Nat) : (s.put f v).adc = s.adc := rfl
@[simp] theorem State.put_therm (f : Fld) (v : Nat) : (s.put f v).therm = s.therm := rfl
@[simp] theorem State.put_aux (f : Fld) (v : Nat) : (s.put f v).aux = s.aux := rfl
@[simp] theorem State.put_hb (f : Fld) (v : Nat) : (s.put f v).hb = s.hb := rfl
@[simp] theorem State.put_pwm (f : Fld) (v : Nat) : (s.put f v).pwm = s.pwm := rfl
@[simp] theorem State.put_tripIn (f : Fld) (v : Nat) : (s.put f v).tripIn = s.tripIn := rfl
@[simp] theorem State.put_safe (f : Fld) (v : Nat) : (s.put f v).safe = s.safe := rfl
@[simp] theorem State.put_evt (f : Fld) (v : Nat) : (s.put f v).evt = s.evt := rfl
@[simp] theorem State.put_flt (f : Fld) (v : Nat) : (s.put f v).flt = s.flt := rfl
@[simp] theorem State.put_tack (f : Fld) (v : Nat) : (s.put f v).tack = s.tack := rfl
@[simp] theorem State.put_flash (f : Fld) (v : Nat) : (s.put f v).flash = s.flash := rfl
@[simp] theorem State.put_upd (f : Fld) (v : Nat) : (s.put f v).upd = s.upd := rfl
@[simp] theorem State.put_pair (f : Fld) (v : Nat) : (s.put f v).pair = s.pair := rfl
@[simp] theorem State.put_rst (f : Fld) (v : Nat) : (s.put f v).rst = s.rst := rfl

@[simp] theorem State.cnt_pending (f : Fld) (n : Nat) : (s.cnt f n).pending = s.pending := rfl
@[simp] theorem State.cnt_now (f : Fld) (n : Nat) : (s.cnt f n).now = s.now := rfl
@[simp] theorem State.cnt_mem (f : Fld) (n : Nat) : (s.cnt f n).mem = s.mem := rfl
@[simp] theorem State.cnt_readData (f : Fld) (n : Nat) : (s.cnt f n).readData = s.readData := rfl
@[simp] theorem State.cnt_wrDrop (f : Fld) (n : Nat) : (s.cnt f n).wrDrop = s.wrDrop := rfl
@[simp] theorem State.cnt_out (f : Fld) (n : Nat) : (s.cnt f n).out = s.out := rfl
@[simp] theorem State.cnt_freeIx (f : Fld) (n : Nat) : (s.cnt f n).freeIx = s.freeIx := rfl
@[simp] theorem State.cnt_guards (f : Fld) (n : Nat) : (s.cnt f n).guards = s.guards := rfl
@[simp] theorem State.cnt_results (f : Fld) (n : Nat) : (s.cnt f n).results = s.results := rfl
@[simp] theorem State.cnt_fifos (f : Fld) (n : Nat) : (s.cnt f n).fifos = s.fifos := rfl
@[simp] theorem State.cnt_fifoIn (f : Fld) (n : Nat) : (s.cnt f n).fifoIn = s.fifoIn := rfl
@[simp] theorem State.cnt_spills (f : Fld) (n : Nat) : (s.cnt f n).spills = s.spills := rfl
@[simp] theorem State.cnt_captures (f : Fld) (n : Nat) : (s.cnt f n).captures = s.captures := rfl
@[simp] theorem State.cnt_cmd (f : Fld) (n : Nat) : (s.cnt f n).cmd = s.cmd := rfl
@[simp] theorem State.cnt_cmdEnded (f : Fld) (n : Nat) : (s.cnt f n).cmdEnded = s.cmdEnded := rfl
@[simp] theorem State.cnt_restartPend (f : Fld) (n : Nat) : (s.cnt f n).restartPend = s.restartPend := rfl
@[simp] theorem State.cnt_host (f : Fld) (n : Nat) : (s.cnt f n).host = s.host := rfl
@[simp] theorem State.cnt_yard (f : Fld) (n : Nat) : (s.cnt f n).yard = s.yard := rfl
@[simp] theorem State.cnt_links (f : Fld) (n : Nat) : (s.cnt f n).links = s.links := rfl
@[simp] theorem State.cnt_linkLanes (f : Fld) (n : Nat) : (s.cnt f n).linkLanes = s.linkLanes := rfl
@[simp] theorem State.cnt_conv (f : Fld) (n : Nat) : (s.cnt f n).conv = s.conv := rfl
@[simp] theorem State.cnt_convNext (f : Fld) (n : Nat) : (s.cnt f n).convNext = s.convNext := rfl
@[simp] theorem State.cnt_lanes (f : Fld) (n : Nat) : (s.cnt f n).lanes = s.lanes := rfl
@[simp] theorem State.cnt_edge (f : Fld) (n : Nat) : (s.cnt f n).edge = s.edge := rfl
@[simp] theorem State.cnt_bal (f : Fld) (n : Nat) : (s.cnt f n).bal = s.bal := rfl
@[simp] theorem State.cnt_cme (f : Fld) (n : Nat) : (s.cnt f n).cme = s.cme := rfl
@[simp] theorem State.cnt_time (f : Fld) (n : Nat) : (s.cnt f n).time = s.time := rfl
@[simp] theorem State.cnt_rtc (f : Fld) (n : Nat) : (s.cnt f n).rtc = s.rtc := rfl
@[simp] theorem State.cnt_eth (f : Fld) (n : Nat) : (s.cnt f n).eth = s.eth := rfl
@[simp] theorem State.cnt_can (f : Fld) (n : Nat) : (s.cnt f n).can = s.can := rfl
@[simp] theorem State.cnt_adc (f : Fld) (n : Nat) : (s.cnt f n).adc = s.adc := rfl
@[simp] theorem State.cnt_therm (f : Fld) (n : Nat) : (s.cnt f n).therm = s.therm := rfl
@[simp] theorem State.cnt_aux (f : Fld) (n : Nat) : (s.cnt f n).aux = s.aux := rfl
@[simp] theorem State.cnt_hb (f : Fld) (n : Nat) : (s.cnt f n).hb = s.hb := rfl
@[simp] theorem State.cnt_pwm (f : Fld) (n : Nat) : (s.cnt f n).pwm = s.pwm := rfl
@[simp] theorem State.cnt_tripIn (f : Fld) (n : Nat) : (s.cnt f n).tripIn = s.tripIn := rfl
@[simp] theorem State.cnt_safe (f : Fld) (n : Nat) : (s.cnt f n).safe = s.safe := rfl
@[simp] theorem State.cnt_evt (f : Fld) (n : Nat) : (s.cnt f n).evt = s.evt := rfl
@[simp] theorem State.cnt_flt (f : Fld) (n : Nat) : (s.cnt f n).flt = s.flt := rfl
@[simp] theorem State.cnt_tack (f : Fld) (n : Nat) : (s.cnt f n).tack = s.tack := rfl
@[simp] theorem State.cnt_flash (f : Fld) (n : Nat) : (s.cnt f n).flash = s.flash := rfl
@[simp] theorem State.cnt_upd (f : Fld) (n : Nat) : (s.cnt f n).upd = s.upd := rfl
@[simp] theorem State.cnt_pair (f : Fld) (n : Nat) : (s.cnt f n).pair = s.pair := rfl
@[simp] theorem State.cnt_rst (f : Fld) (n : Nat) : (s.cnt f n).rst = s.rst := rfl

@[simp] theorem State.setBitOf_pending (f : Fld) (i : Nat) : (s.setBitOf f i).pending = s.pending := rfl
@[simp] theorem State.setBitOf_now (f : Fld) (i : Nat) : (s.setBitOf f i).now = s.now := rfl
@[simp] theorem State.setBitOf_mem (f : Fld) (i : Nat) : (s.setBitOf f i).mem = s.mem := rfl
@[simp] theorem State.setBitOf_readData (f : Fld) (i : Nat) : (s.setBitOf f i).readData = s.readData := rfl
@[simp] theorem State.setBitOf_wrDrop (f : Fld) (i : Nat) : (s.setBitOf f i).wrDrop = s.wrDrop := rfl
@[simp] theorem State.setBitOf_out (f : Fld) (i : Nat) : (s.setBitOf f i).out = s.out := rfl
@[simp] theorem State.setBitOf_freeIx (f : Fld) (i : Nat) : (s.setBitOf f i).freeIx = s.freeIx := rfl
@[simp] theorem State.setBitOf_guards (f : Fld) (i : Nat) : (s.setBitOf f i).guards = s.guards := rfl
@[simp] theorem State.setBitOf_results (f : Fld) (i : Nat) : (s.setBitOf f i).results = s.results := rfl
@[simp] theorem State.setBitOf_fifos (f : Fld) (i : Nat) : (s.setBitOf f i).fifos = s.fifos := rfl
@[simp] theorem State.setBitOf_fifoIn (f : Fld) (i : Nat) : (s.setBitOf f i).fifoIn = s.fifoIn := rfl
@[simp] theorem State.setBitOf_spills (f : Fld) (i : Nat) : (s.setBitOf f i).spills = s.spills := rfl
@[simp] theorem State.setBitOf_captures (f : Fld) (i : Nat) : (s.setBitOf f i).captures = s.captures := rfl
@[simp] theorem State.setBitOf_cmd (f : Fld) (i : Nat) : (s.setBitOf f i).cmd = s.cmd := rfl
@[simp] theorem State.setBitOf_cmdEnded (f : Fld) (i : Nat) : (s.setBitOf f i).cmdEnded = s.cmdEnded := rfl
@[simp] theorem State.setBitOf_restartPend (f : Fld) (i : Nat) : (s.setBitOf f i).restartPend = s.restartPend := rfl
@[simp] theorem State.setBitOf_host (f : Fld) (i : Nat) : (s.setBitOf f i).host = s.host := rfl
@[simp] theorem State.setBitOf_yard (f : Fld) (i : Nat) : (s.setBitOf f i).yard = s.yard := rfl
@[simp] theorem State.setBitOf_links (f : Fld) (i : Nat) : (s.setBitOf f i).links = s.links := rfl
@[simp] theorem State.setBitOf_linkLanes (f : Fld) (i : Nat) : (s.setBitOf f i).linkLanes = s.linkLanes := rfl
@[simp] theorem State.setBitOf_conv (f : Fld) (i : Nat) : (s.setBitOf f i).conv = s.conv := rfl
@[simp] theorem State.setBitOf_convNext (f : Fld) (i : Nat) : (s.setBitOf f i).convNext = s.convNext := rfl
@[simp] theorem State.setBitOf_lanes (f : Fld) (i : Nat) : (s.setBitOf f i).lanes = s.lanes := rfl
@[simp] theorem State.setBitOf_edge (f : Fld) (i : Nat) : (s.setBitOf f i).edge = s.edge := rfl
@[simp] theorem State.setBitOf_bal (f : Fld) (i : Nat) : (s.setBitOf f i).bal = s.bal := rfl
@[simp] theorem State.setBitOf_cme (f : Fld) (i : Nat) : (s.setBitOf f i).cme = s.cme := rfl
@[simp] theorem State.setBitOf_time (f : Fld) (i : Nat) : (s.setBitOf f i).time = s.time := rfl
@[simp] theorem State.setBitOf_rtc (f : Fld) (i : Nat) : (s.setBitOf f i).rtc = s.rtc := rfl
@[simp] theorem State.setBitOf_eth (f : Fld) (i : Nat) : (s.setBitOf f i).eth = s.eth := rfl
@[simp] theorem State.setBitOf_can (f : Fld) (i : Nat) : (s.setBitOf f i).can = s.can := rfl
@[simp] theorem State.setBitOf_adc (f : Fld) (i : Nat) : (s.setBitOf f i).adc = s.adc := rfl
@[simp] theorem State.setBitOf_therm (f : Fld) (i : Nat) : (s.setBitOf f i).therm = s.therm := rfl
@[simp] theorem State.setBitOf_aux (f : Fld) (i : Nat) : (s.setBitOf f i).aux = s.aux := rfl
@[simp] theorem State.setBitOf_hb (f : Fld) (i : Nat) : (s.setBitOf f i).hb = s.hb := rfl
@[simp] theorem State.setBitOf_pwm (f : Fld) (i : Nat) : (s.setBitOf f i).pwm = s.pwm := rfl
@[simp] theorem State.setBitOf_tripIn (f : Fld) (i : Nat) : (s.setBitOf f i).tripIn = s.tripIn := rfl
@[simp] theorem State.setBitOf_safe (f : Fld) (i : Nat) : (s.setBitOf f i).safe = s.safe := rfl
@[simp] theorem State.setBitOf_evt (f : Fld) (i : Nat) : (s.setBitOf f i).evt = s.evt := rfl
@[simp] theorem State.setBitOf_flt (f : Fld) (i : Nat) : (s.setBitOf f i).flt = s.flt := rfl
@[simp] theorem State.setBitOf_tack (f : Fld) (i : Nat) : (s.setBitOf f i).tack = s.tack := rfl
@[simp] theorem State.setBitOf_flash (f : Fld) (i : Nat) : (s.setBitOf f i).flash = s.flash := rfl
@[simp] theorem State.setBitOf_upd (f : Fld) (i : Nat) : (s.setBitOf f i).upd = s.upd := rfl
@[simp] theorem State.setBitOf_pair (f : Fld) (i : Nat) : (s.setBitOf f i).pair = s.pair := rfl
@[simp] theorem State.setBitOf_rst (f : Fld) (i : Nat) : (s.setBitOf f i).rst = s.rst := rfl

@[simp] theorem State.clrBitOf_pending (f : Fld) (i : Nat) : (s.clrBitOf f i).pending = s.pending := rfl
@[simp] theorem State.clrBitOf_now (f : Fld) (i : Nat) : (s.clrBitOf f i).now = s.now := rfl
@[simp] theorem State.clrBitOf_mem (f : Fld) (i : Nat) : (s.clrBitOf f i).mem = s.mem := rfl
@[simp] theorem State.clrBitOf_readData (f : Fld) (i : Nat) : (s.clrBitOf f i).readData = s.readData := rfl
@[simp] theorem State.clrBitOf_wrDrop (f : Fld) (i : Nat) : (s.clrBitOf f i).wrDrop = s.wrDrop := rfl
@[simp] theorem State.clrBitOf_out (f : Fld) (i : Nat) : (s.clrBitOf f i).out = s.out := rfl
@[simp] theorem State.clrBitOf_freeIx (f : Fld) (i : Nat) : (s.clrBitOf f i).freeIx = s.freeIx := rfl
@[simp] theorem State.clrBitOf_guards (f : Fld) (i : Nat) : (s.clrBitOf f i).guards = s.guards := rfl
@[simp] theorem State.clrBitOf_results (f : Fld) (i : Nat) : (s.clrBitOf f i).results = s.results := rfl
@[simp] theorem State.clrBitOf_fifos (f : Fld) (i : Nat) : (s.clrBitOf f i).fifos = s.fifos := rfl
@[simp] theorem State.clrBitOf_fifoIn (f : Fld) (i : Nat) : (s.clrBitOf f i).fifoIn = s.fifoIn := rfl
@[simp] theorem State.clrBitOf_spills (f : Fld) (i : Nat) : (s.clrBitOf f i).spills = s.spills := rfl
@[simp] theorem State.clrBitOf_captures (f : Fld) (i : Nat) : (s.clrBitOf f i).captures = s.captures := rfl
@[simp] theorem State.clrBitOf_cmd (f : Fld) (i : Nat) : (s.clrBitOf f i).cmd = s.cmd := rfl
@[simp] theorem State.clrBitOf_cmdEnded (f : Fld) (i : Nat) : (s.clrBitOf f i).cmdEnded = s.cmdEnded := rfl
@[simp] theorem State.clrBitOf_restartPend (f : Fld) (i : Nat) : (s.clrBitOf f i).restartPend = s.restartPend := rfl
@[simp] theorem State.clrBitOf_host (f : Fld) (i : Nat) : (s.clrBitOf f i).host = s.host := rfl
@[simp] theorem State.clrBitOf_yard (f : Fld) (i : Nat) : (s.clrBitOf f i).yard = s.yard := rfl
@[simp] theorem State.clrBitOf_links (f : Fld) (i : Nat) : (s.clrBitOf f i).links = s.links := rfl
@[simp] theorem State.clrBitOf_linkLanes (f : Fld) (i : Nat) : (s.clrBitOf f i).linkLanes = s.linkLanes := rfl
@[simp] theorem State.clrBitOf_conv (f : Fld) (i : Nat) : (s.clrBitOf f i).conv = s.conv := rfl
@[simp] theorem State.clrBitOf_convNext (f : Fld) (i : Nat) : (s.clrBitOf f i).convNext = s.convNext := rfl
@[simp] theorem State.clrBitOf_lanes (f : Fld) (i : Nat) : (s.clrBitOf f i).lanes = s.lanes := rfl
@[simp] theorem State.clrBitOf_edge (f : Fld) (i : Nat) : (s.clrBitOf f i).edge = s.edge := rfl
@[simp] theorem State.clrBitOf_bal (f : Fld) (i : Nat) : (s.clrBitOf f i).bal = s.bal := rfl
@[simp] theorem State.clrBitOf_cme (f : Fld) (i : Nat) : (s.clrBitOf f i).cme = s.cme := rfl
@[simp] theorem State.clrBitOf_time (f : Fld) (i : Nat) : (s.clrBitOf f i).time = s.time := rfl
@[simp] theorem State.clrBitOf_rtc (f : Fld) (i : Nat) : (s.clrBitOf f i).rtc = s.rtc := rfl
@[simp] theorem State.clrBitOf_eth (f : Fld) (i : Nat) : (s.clrBitOf f i).eth = s.eth := rfl
@[simp] theorem State.clrBitOf_can (f : Fld) (i : Nat) : (s.clrBitOf f i).can = s.can := rfl
@[simp] theorem State.clrBitOf_adc (f : Fld) (i : Nat) : (s.clrBitOf f i).adc = s.adc := rfl
@[simp] theorem State.clrBitOf_therm (f : Fld) (i : Nat) : (s.clrBitOf f i).therm = s.therm := rfl
@[simp] theorem State.clrBitOf_aux (f : Fld) (i : Nat) : (s.clrBitOf f i).aux = s.aux := rfl
@[simp] theorem State.clrBitOf_hb (f : Fld) (i : Nat) : (s.clrBitOf f i).hb = s.hb := rfl
@[simp] theorem State.clrBitOf_pwm (f : Fld) (i : Nat) : (s.clrBitOf f i).pwm = s.pwm := rfl
@[simp] theorem State.clrBitOf_tripIn (f : Fld) (i : Nat) : (s.clrBitOf f i).tripIn = s.tripIn := rfl
@[simp] theorem State.clrBitOf_safe (f : Fld) (i : Nat) : (s.clrBitOf f i).safe = s.safe := rfl
@[simp] theorem State.clrBitOf_evt (f : Fld) (i : Nat) : (s.clrBitOf f i).evt = s.evt := rfl
@[simp] theorem State.clrBitOf_flt (f : Fld) (i : Nat) : (s.clrBitOf f i).flt = s.flt := rfl
@[simp] theorem State.clrBitOf_tack (f : Fld) (i : Nat) : (s.clrBitOf f i).tack = s.tack := rfl
@[simp] theorem State.clrBitOf_flash (f : Fld) (i : Nat) : (s.clrBitOf f i).flash = s.flash := rfl
@[simp] theorem State.clrBitOf_upd (f : Fld) (i : Nat) : (s.clrBitOf f i).upd = s.upd := rfl
@[simp] theorem State.clrBitOf_pair (f : Fld) (i : Nat) : (s.clrBitOf f i).pair = s.pair := rfl
@[simp] theorem State.clrBitOf_rst (f : Fld) (i : Nat) : (s.clrBitOf f i).rst = s.rst := rfl

@[simp] theorem State.putBitOf_pending (f : Fld) (i : Nat) (b : Bool) : (s.putBitOf f i b).pending = s.pending := by cases b <;> rfl
@[simp] theorem State.putBitOf_now (f : Fld) (i : Nat) (b : Bool) : (s.putBitOf f i b).now = s.now := by cases b <;> rfl
@[simp] theorem State.putBitOf_mem (f : Fld) (i : Nat) (b : Bool) : (s.putBitOf f i b).mem = s.mem := by cases b <;> rfl
@[simp] theorem State.putBitOf_readData (f : Fld) (i : Nat) (b : Bool) : (s.putBitOf f i b).readData = s.readData := by cases b <;> rfl
@[simp] theorem State.putBitOf_wrDrop (f : Fld) (i : Nat) (b : Bool) : (s.putBitOf f i b).wrDrop = s.wrDrop := by cases b <;> rfl
@[simp] theorem State.putBitOf_out (f : Fld) (i : Nat) (b : Bool) : (s.putBitOf f i b).out = s.out := by cases b <;> rfl
@[simp] theorem State.putBitOf_freeIx (f : Fld) (i : Nat) (b : Bool) : (s.putBitOf f i b).freeIx = s.freeIx := by cases b <;> rfl
@[simp] theorem State.putBitOf_guards (f : Fld) (i : Nat) (b : Bool) : (s.putBitOf f i b).guards = s.guards := by cases b <;> rfl
@[simp] theorem State.putBitOf_results (f : Fld) (i : Nat) (b : Bool) : (s.putBitOf f i b).results = s.results := by cases b <;> rfl
@[simp] theorem State.putBitOf_fifos (f : Fld) (i : Nat) (b : Bool) : (s.putBitOf f i b).fifos = s.fifos := by cases b <;> rfl
@[simp] theorem State.putBitOf_fifoIn (f : Fld) (i : Nat) (b : Bool) : (s.putBitOf f i b).fifoIn = s.fifoIn := by cases b <;> rfl
@[simp] theorem State.putBitOf_spills (f : Fld) (i : Nat) (b : Bool) : (s.putBitOf f i b).spills = s.spills := by cases b <;> rfl
@[simp] theorem State.putBitOf_captures (f : Fld) (i : Nat) (b : Bool) : (s.putBitOf f i b).captures = s.captures := by cases b <;> rfl
@[simp] theorem State.putBitOf_cmd (f : Fld) (i : Nat) (b : Bool) : (s.putBitOf f i b).cmd = s.cmd := by cases b <;> rfl
@[simp] theorem State.putBitOf_cmdEnded (f : Fld) (i : Nat) (b : Bool) : (s.putBitOf f i b).cmdEnded = s.cmdEnded := by cases b <;> rfl
@[simp] theorem State.putBitOf_restartPend (f : Fld) (i : Nat) (b : Bool) : (s.putBitOf f i b).restartPend = s.restartPend := by cases b <;> rfl
@[simp] theorem State.putBitOf_host (f : Fld) (i : Nat) (b : Bool) : (s.putBitOf f i b).host = s.host := by cases b <;> rfl
@[simp] theorem State.putBitOf_yard (f : Fld) (i : Nat) (b : Bool) : (s.putBitOf f i b).yard = s.yard := by cases b <;> rfl
@[simp] theorem State.putBitOf_links (f : Fld) (i : Nat) (b : Bool) : (s.putBitOf f i b).links = s.links := by cases b <;> rfl
@[simp] theorem State.putBitOf_linkLanes (f : Fld) (i : Nat) (b : Bool) : (s.putBitOf f i b).linkLanes = s.linkLanes := by cases b <;> rfl
@[simp] theorem State.putBitOf_conv (f : Fld) (i : Nat) (b : Bool) : (s.putBitOf f i b).conv = s.conv := by cases b <;> rfl
@[simp] theorem State.putBitOf_convNext (f : Fld) (i : Nat) (b : Bool) : (s.putBitOf f i b).convNext = s.convNext := by cases b <;> rfl
@[simp] theorem State.putBitOf_lanes (f : Fld) (i : Nat) (b : Bool) : (s.putBitOf f i b).lanes = s.lanes := by cases b <;> rfl
@[simp] theorem State.putBitOf_edge (f : Fld) (i : Nat) (b : Bool) : (s.putBitOf f i b).edge = s.edge := by cases b <;> rfl
@[simp] theorem State.putBitOf_bal (f : Fld) (i : Nat) (b : Bool) : (s.putBitOf f i b).bal = s.bal := by cases b <;> rfl
@[simp] theorem State.putBitOf_cme (f : Fld) (i : Nat) (b : Bool) : (s.putBitOf f i b).cme = s.cme := by cases b <;> rfl
@[simp] theorem State.putBitOf_time (f : Fld) (i : Nat) (b : Bool) : (s.putBitOf f i b).time = s.time := by cases b <;> rfl
@[simp] theorem State.putBitOf_rtc (f : Fld) (i : Nat) (b : Bool) : (s.putBitOf f i b).rtc = s.rtc := by cases b <;> rfl
@[simp] theorem State.putBitOf_eth (f : Fld) (i : Nat) (b : Bool) : (s.putBitOf f i b).eth = s.eth := by cases b <;> rfl
@[simp] theorem State.putBitOf_can (f : Fld) (i : Nat) (b : Bool) : (s.putBitOf f i b).can = s.can := by cases b <;> rfl
@[simp] theorem State.putBitOf_adc (f : Fld) (i : Nat) (b : Bool) : (s.putBitOf f i b).adc = s.adc := by cases b <;> rfl
@[simp] theorem State.putBitOf_therm (f : Fld) (i : Nat) (b : Bool) : (s.putBitOf f i b).therm = s.therm := by cases b <;> rfl
@[simp] theorem State.putBitOf_aux (f : Fld) (i : Nat) (b : Bool) : (s.putBitOf f i b).aux = s.aux := by cases b <;> rfl
@[simp] theorem State.putBitOf_hb (f : Fld) (i : Nat) (b : Bool) : (s.putBitOf f i b).hb = s.hb := by cases b <;> rfl
@[simp] theorem State.putBitOf_pwm (f : Fld) (i : Nat) (b : Bool) : (s.putBitOf f i b).pwm = s.pwm := by cases b <;> rfl
@[simp] theorem State.putBitOf_tripIn (f : Fld) (i : Nat) (b : Bool) : (s.putBitOf f i b).tripIn = s.tripIn := by cases b <;> rfl
@[simp] theorem State.putBitOf_safe (f : Fld) (i : Nat) (b : Bool) : (s.putBitOf f i b).safe = s.safe := by cases b <;> rfl
@[simp] theorem State.putBitOf_evt (f : Fld) (i : Nat) (b : Bool) : (s.putBitOf f i b).evt = s.evt := by cases b <;> rfl
@[simp] theorem State.putBitOf_flt (f : Fld) (i : Nat) (b : Bool) : (s.putBitOf f i b).flt = s.flt := by cases b <;> rfl
@[simp] theorem State.putBitOf_tack (f : Fld) (i : Nat) (b : Bool) : (s.putBitOf f i b).tack = s.tack := by cases b <;> rfl
@[simp] theorem State.putBitOf_flash (f : Fld) (i : Nat) (b : Bool) : (s.putBitOf f i b).flash = s.flash := by cases b <;> rfl
@[simp] theorem State.putBitOf_upd (f : Fld) (i : Nat) (b : Bool) : (s.putBitOf f i b).upd = s.upd := by cases b <;> rfl
@[simp] theorem State.putBitOf_pair (f : Fld) (i : Nat) (b : Bool) : (s.putBitOf f i b).pair = s.pair := by cases b <;> rfl
@[simp] theorem State.putBitOf_rst (f : Fld) (i : Nat) (b : Bool) : (s.putBitOf f i b).rst = s.rst := by cases b <;> rfl

@[simp] theorem State.emit_pending (o : Output) : (s.emit o).pending = s.pending := rfl
@[simp] theorem State.emit_now (o : Output) : (s.emit o).now = s.now := rfl
@[simp] theorem State.emit_regs (o : Output) : (s.emit o).regs = s.regs := rfl
@[simp] theorem State.emit_mem (o : Output) : (s.emit o).mem = s.mem := rfl
@[simp] theorem State.emit_readData (o : Output) : (s.emit o).readData = s.readData := rfl
@[simp] theorem State.emit_wrDrop (o : Output) : (s.emit o).wrDrop = s.wrDrop := rfl
@[simp] theorem State.emit_freeIx (o : Output) : (s.emit o).freeIx = s.freeIx := rfl
@[simp] theorem State.emit_guards (o : Output) : (s.emit o).guards = s.guards := rfl
@[simp] theorem State.emit_results (o : Output) : (s.emit o).results = s.results := rfl
@[simp] theorem State.emit_fifos (o : Output) : (s.emit o).fifos = s.fifos := rfl
@[simp] theorem State.emit_fifoIn (o : Output) : (s.emit o).fifoIn = s.fifoIn := rfl
@[simp] theorem State.emit_spills (o : Output) : (s.emit o).spills = s.spills := rfl
@[simp] theorem State.emit_captures (o : Output) : (s.emit o).captures = s.captures := rfl
@[simp] theorem State.emit_cmd (o : Output) : (s.emit o).cmd = s.cmd := rfl
@[simp] theorem State.emit_cmdEnded (o : Output) : (s.emit o).cmdEnded = s.cmdEnded := rfl
@[simp] theorem State.emit_restartPend (o : Output) : (s.emit o).restartPend = s.restartPend := rfl
@[simp] theorem State.emit_host (o : Output) : (s.emit o).host = s.host := rfl
@[simp] theorem State.emit_yard (o : Output) : (s.emit o).yard = s.yard := rfl
@[simp] theorem State.emit_links (o : Output) : (s.emit o).links = s.links := rfl
@[simp] theorem State.emit_linkLanes (o : Output) : (s.emit o).linkLanes = s.linkLanes := rfl
@[simp] theorem State.emit_conv (o : Output) : (s.emit o).conv = s.conv := rfl
@[simp] theorem State.emit_convNext (o : Output) : (s.emit o).convNext = s.convNext := rfl
@[simp] theorem State.emit_lanes (o : Output) : (s.emit o).lanes = s.lanes := rfl
@[simp] theorem State.emit_edge (o : Output) : (s.emit o).edge = s.edge := rfl
@[simp] theorem State.emit_bal (o : Output) : (s.emit o).bal = s.bal := rfl
@[simp] theorem State.emit_cme (o : Output) : (s.emit o).cme = s.cme := rfl
@[simp] theorem State.emit_time (o : Output) : (s.emit o).time = s.time := rfl
@[simp] theorem State.emit_rtc (o : Output) : (s.emit o).rtc = s.rtc := rfl
@[simp] theorem State.emit_eth (o : Output) : (s.emit o).eth = s.eth := rfl
@[simp] theorem State.emit_can (o : Output) : (s.emit o).can = s.can := rfl
@[simp] theorem State.emit_adc (o : Output) : (s.emit o).adc = s.adc := rfl
@[simp] theorem State.emit_therm (o : Output) : (s.emit o).therm = s.therm := rfl
@[simp] theorem State.emit_aux (o : Output) : (s.emit o).aux = s.aux := rfl
@[simp] theorem State.emit_hb (o : Output) : (s.emit o).hb = s.hb := rfl
@[simp] theorem State.emit_pwm (o : Output) : (s.emit o).pwm = s.pwm := rfl
@[simp] theorem State.emit_tripIn (o : Output) : (s.emit o).tripIn = s.tripIn := rfl
@[simp] theorem State.emit_safe (o : Output) : (s.emit o).safe = s.safe := rfl
@[simp] theorem State.emit_evt (o : Output) : (s.emit o).evt = s.evt := rfl
@[simp] theorem State.emit_flt (o : Output) : (s.emit o).flt = s.flt := rfl
@[simp] theorem State.emit_tack (o : Output) : (s.emit o).tack = s.tack := rfl
@[simp] theorem State.emit_flash (o : Output) : (s.emit o).flash = s.flash := rfl
@[simp] theorem State.emit_upd (o : Output) : (s.emit o).upd = s.upd := rfl
@[simp] theorem State.emit_pair (o : Output) : (s.emit o).pair = s.pair := rfl
@[simp] theorem State.emit_rst (o : Output) : (s.emit o).rst = s.rst := rfl

@[simp] theorem State.drew_pending : (s.drew).pending = s.pending := rfl
@[simp] theorem State.drew_now : (s.drew).now = s.now := rfl
@[simp] theorem State.drew_regs : (s.drew).regs = s.regs := rfl
@[simp] theorem State.drew_mem : (s.drew).mem = s.mem := rfl
@[simp] theorem State.drew_readData : (s.drew).readData = s.readData := rfl
@[simp] theorem State.drew_wrDrop : (s.drew).wrDrop = s.wrDrop := rfl
@[simp] theorem State.drew_out : (s.drew).out = s.out := rfl
@[simp] theorem State.drew_guards : (s.drew).guards = s.guards := rfl
@[simp] theorem State.drew_results : (s.drew).results = s.results := rfl
@[simp] theorem State.drew_fifos : (s.drew).fifos = s.fifos := rfl
@[simp] theorem State.drew_fifoIn : (s.drew).fifoIn = s.fifoIn := rfl
@[simp] theorem State.drew_spills : (s.drew).spills = s.spills := rfl
@[simp] theorem State.drew_captures : (s.drew).captures = s.captures := rfl
@[simp] theorem State.drew_cmd : (s.drew).cmd = s.cmd := rfl
@[simp] theorem State.drew_cmdEnded : (s.drew).cmdEnded = s.cmdEnded := rfl
@[simp] theorem State.drew_restartPend : (s.drew).restartPend = s.restartPend := rfl
@[simp] theorem State.drew_host : (s.drew).host = s.host := rfl
@[simp] theorem State.drew_yard : (s.drew).yard = s.yard := rfl
@[simp] theorem State.drew_links : (s.drew).links = s.links := rfl
@[simp] theorem State.drew_linkLanes : (s.drew).linkLanes = s.linkLanes := rfl
@[simp] theorem State.drew_conv : (s.drew).conv = s.conv := rfl
@[simp] theorem State.drew_convNext : (s.drew).convNext = s.convNext := rfl
@[simp] theorem State.drew_lanes : (s.drew).lanes = s.lanes := rfl
@[simp] theorem State.drew_edge : (s.drew).edge = s.edge := rfl
@[simp] theorem State.drew_bal : (s.drew).bal = s.bal := rfl
@[simp] theorem State.drew_cme : (s.drew).cme = s.cme := rfl
@[simp] theorem State.drew_time : (s.drew).time = s.time := rfl
@[simp] theorem State.drew_rtc : (s.drew).rtc = s.rtc := rfl
@[simp] theorem State.drew_eth : (s.drew).eth = s.eth := rfl
@[simp] theorem State.drew_can : (s.drew).can = s.can := rfl
@[simp] theorem State.drew_adc : (s.drew).adc = s.adc := rfl
@[simp] theorem State.drew_therm : (s.drew).therm = s.therm := rfl
@[simp] theorem State.drew_aux : (s.drew).aux = s.aux := rfl
@[simp] theorem State.drew_hb : (s.drew).hb = s.hb := rfl
@[simp] theorem State.drew_pwm : (s.drew).pwm = s.pwm := rfl
@[simp] theorem State.drew_tripIn : (s.drew).tripIn = s.tripIn := rfl
@[simp] theorem State.drew_safe : (s.drew).safe = s.safe := rfl
@[simp] theorem State.drew_evt : (s.drew).evt = s.evt := rfl
@[simp] theorem State.drew_flt : (s.drew).flt = s.flt := rfl
@[simp] theorem State.drew_tack : (s.drew).tack = s.tack := rfl
@[simp] theorem State.drew_flash : (s.drew).flash = s.flash := rfl
@[simp] theorem State.drew_upd : (s.drew).upd = s.upd := rfl
@[simp] theorem State.drew_pair : (s.drew).pair = s.pair := rfl
@[simp] theorem State.drew_rst : (s.drew).rst = s.rst := rfl

@[simp] theorem State.noteDrop_pending : (s.noteDrop).pending = s.pending := rfl
@[simp] theorem State.noteDrop_now : (s.noteDrop).now = s.now := rfl
@[simp] theorem State.noteDrop_regs : (s.noteDrop).regs = s.regs := rfl
@[simp] theorem State.noteDrop_mem : (s.noteDrop).mem = s.mem := rfl
@[simp] theorem State.noteDrop_readData : (s.noteDrop).readData = s.readData := rfl
@[simp] theorem State.noteDrop_out : (s.noteDrop).out = s.out := rfl
@[simp] theorem State.noteDrop_freeIx : (s.noteDrop).freeIx = s.freeIx := rfl
@[simp] theorem State.noteDrop_guards : (s.noteDrop).guards = s.guards := rfl
@[simp] theorem State.noteDrop_results : (s.noteDrop).results = s.results := rfl
@[simp] theorem State.noteDrop_fifos : (s.noteDrop).fifos = s.fifos := rfl
@[simp] theorem State.noteDrop_fifoIn : (s.noteDrop).fifoIn = s.fifoIn := rfl
@[simp] theorem State.noteDrop_spills : (s.noteDrop).spills = s.spills := rfl
@[simp] theorem State.noteDrop_captures : (s.noteDrop).captures = s.captures := rfl
@[simp] theorem State.noteDrop_cmd : (s.noteDrop).cmd = s.cmd := rfl
@[simp] theorem State.noteDrop_cmdEnded : (s.noteDrop).cmdEnded = s.cmdEnded := rfl
@[simp] theorem State.noteDrop_restartPend : (s.noteDrop).restartPend = s.restartPend := rfl
@[simp] theorem State.noteDrop_host : (s.noteDrop).host = s.host := rfl
@[simp] theorem State.noteDrop_yard : (s.noteDrop).yard = s.yard := rfl
@[simp] theorem State.noteDrop_links : (s.noteDrop).links = s.links := rfl
@[simp] theorem State.noteDrop_linkLanes : (s.noteDrop).linkLanes = s.linkLanes := rfl
@[simp] theorem State.noteDrop_conv : (s.noteDrop).conv = s.conv := rfl
@[simp] theorem State.noteDrop_convNext : (s.noteDrop).convNext = s.convNext := rfl
@[simp] theorem State.noteDrop_lanes : (s.noteDrop).lanes = s.lanes := rfl
@[simp] theorem State.noteDrop_edge : (s.noteDrop).edge = s.edge := rfl
@[simp] theorem State.noteDrop_bal : (s.noteDrop).bal = s.bal := rfl
@[simp] theorem State.noteDrop_cme : (s.noteDrop).cme = s.cme := rfl
@[simp] theorem State.noteDrop_time : (s.noteDrop).time = s.time := rfl
@[simp] theorem State.noteDrop_rtc : (s.noteDrop).rtc = s.rtc := rfl
@[simp] theorem State.noteDrop_eth : (s.noteDrop).eth = s.eth := rfl
@[simp] theorem State.noteDrop_can : (s.noteDrop).can = s.can := rfl
@[simp] theorem State.noteDrop_adc : (s.noteDrop).adc = s.adc := rfl
@[simp] theorem State.noteDrop_therm : (s.noteDrop).therm = s.therm := rfl
@[simp] theorem State.noteDrop_aux : (s.noteDrop).aux = s.aux := rfl
@[simp] theorem State.noteDrop_hb : (s.noteDrop).hb = s.hb := rfl
@[simp] theorem State.noteDrop_pwm : (s.noteDrop).pwm = s.pwm := rfl
@[simp] theorem State.noteDrop_tripIn : (s.noteDrop).tripIn = s.tripIn := rfl
@[simp] theorem State.noteDrop_safe : (s.noteDrop).safe = s.safe := rfl
@[simp] theorem State.noteDrop_evt : (s.noteDrop).evt = s.evt := rfl
@[simp] theorem State.noteDrop_flt : (s.noteDrop).flt = s.flt := rfl
@[simp] theorem State.noteDrop_tack : (s.noteDrop).tack = s.tack := rfl
@[simp] theorem State.noteDrop_flash : (s.noteDrop).flash = s.flash := rfl
@[simp] theorem State.noteDrop_upd : (s.noteDrop).upd = s.upd := rfl
@[simp] theorem State.noteDrop_pair : (s.noteDrop).pair = s.pair := rfl
@[simp] theorem State.noteDrop_rst : (s.noteDrop).rst = s.rst := rfl

@[simp] theorem State.setByte_pending (a : Nat) (b : Byte) : (s.setByte a b).pending = s.pending := rfl
@[simp] theorem State.setByte_now (a : Nat) (b : Byte) : (s.setByte a b).now = s.now := rfl
@[simp] theorem State.setByte_regs (a : Nat) (b : Byte) : (s.setByte a b).regs = s.regs := rfl
@[simp] theorem State.setByte_readData (a : Nat) (b : Byte) : (s.setByte a b).readData = s.readData := rfl
@[simp] theorem State.setByte_wrDrop (a : Nat) (b : Byte) : (s.setByte a b).wrDrop = s.wrDrop := rfl
@[simp] theorem State.setByte_out (a : Nat) (b : Byte) : (s.setByte a b).out = s.out := rfl
@[simp] theorem State.setByte_freeIx (a : Nat) (b : Byte) : (s.setByte a b).freeIx = s.freeIx := rfl
@[simp] theorem State.setByte_guards (a : Nat) (b : Byte) : (s.setByte a b).guards = s.guards := rfl
@[simp] theorem State.setByte_results (a : Nat) (b : Byte) : (s.setByte a b).results = s.results := rfl
@[simp] theorem State.setByte_fifos (a : Nat) (b : Byte) : (s.setByte a b).fifos = s.fifos := rfl
@[simp] theorem State.setByte_fifoIn (a : Nat) (b : Byte) : (s.setByte a b).fifoIn = s.fifoIn := rfl
@[simp] theorem State.setByte_spills (a : Nat) (b : Byte) : (s.setByte a b).spills = s.spills := rfl
@[simp] theorem State.setByte_captures (a : Nat) (b : Byte) : (s.setByte a b).captures = s.captures := rfl
@[simp] theorem State.setByte_cmd (a : Nat) (b : Byte) : (s.setByte a b).cmd = s.cmd := rfl
@[simp] theorem State.setByte_cmdEnded (a : Nat) (b : Byte) : (s.setByte a b).cmdEnded = s.cmdEnded := rfl
@[simp] theorem State.setByte_restartPend (a : Nat) (b : Byte) : (s.setByte a b).restartPend = s.restartPend := rfl
@[simp] theorem State.setByte_host (a : Nat) (b : Byte) : (s.setByte a b).host = s.host := rfl
@[simp] theorem State.setByte_yard (a : Nat) (b : Byte) : (s.setByte a b).yard = s.yard := rfl
@[simp] theorem State.setByte_links (a : Nat) (b : Byte) : (s.setByte a b).links = s.links := rfl
@[simp] theorem State.setByte_linkLanes (a : Nat) (b : Byte) : (s.setByte a b).linkLanes = s.linkLanes := rfl
@[simp] theorem State.setByte_conv (a : Nat) (b : Byte) : (s.setByte a b).conv = s.conv := rfl
@[simp] theorem State.setByte_convNext (a : Nat) (b : Byte) : (s.setByte a b).convNext = s.convNext := rfl
@[simp] theorem State.setByte_lanes (a : Nat) (b : Byte) : (s.setByte a b).lanes = s.lanes := rfl
@[simp] theorem State.setByte_edge (a : Nat) (b : Byte) : (s.setByte a b).edge = s.edge := rfl
@[simp] theorem State.setByte_bal (a : Nat) (b : Byte) : (s.setByte a b).bal = s.bal := rfl
@[simp] theorem State.setByte_cme (a : Nat) (b : Byte) : (s.setByte a b).cme = s.cme := rfl
@[simp] theorem State.setByte_time (a : Nat) (b : Byte) : (s.setByte a b).time = s.time := rfl
@[simp] theorem State.setByte_rtc (a : Nat) (b : Byte) : (s.setByte a b).rtc = s.rtc := rfl
@[simp] theorem State.setByte_eth (a : Nat) (b : Byte) : (s.setByte a b).eth = s.eth := rfl
@[simp] theorem State.setByte_can (a : Nat) (b : Byte) : (s.setByte a b).can = s.can := rfl
@[simp] theorem State.setByte_adc (a : Nat) (b : Byte) : (s.setByte a b).adc = s.adc := rfl
@[simp] theorem State.setByte_therm (a : Nat) (b : Byte) : (s.setByte a b).therm = s.therm := rfl
@[simp] theorem State.setByte_aux (a : Nat) (b : Byte) : (s.setByte a b).aux = s.aux := rfl
@[simp] theorem State.setByte_hb (a : Nat) (b : Byte) : (s.setByte a b).hb = s.hb := rfl
@[simp] theorem State.setByte_pwm (a : Nat) (b : Byte) : (s.setByte a b).pwm = s.pwm := rfl
@[simp] theorem State.setByte_tripIn (a : Nat) (b : Byte) : (s.setByte a b).tripIn = s.tripIn := rfl
@[simp] theorem State.setByte_safe (a : Nat) (b : Byte) : (s.setByte a b).safe = s.safe := rfl
@[simp] theorem State.setByte_evt (a : Nat) (b : Byte) : (s.setByte a b).evt = s.evt := rfl
@[simp] theorem State.setByte_flt (a : Nat) (b : Byte) : (s.setByte a b).flt = s.flt := rfl
@[simp] theorem State.setByte_tack (a : Nat) (b : Byte) : (s.setByte a b).tack = s.tack := rfl
@[simp] theorem State.setByte_flash (a : Nat) (b : Byte) : (s.setByte a b).flash = s.flash := rfl
@[simp] theorem State.setByte_upd (a : Nat) (b : Byte) : (s.setByte a b).upd = s.upd := rfl
@[simp] theorem State.setByte_pair (a : Nat) (b : Byte) : (s.setByte a b).pair = s.pair := rfl
@[simp] theorem State.setByte_rst (a : Nat) (b : Byte) : (s.setByte a b).rst = s.rst := rfl

@[simp] theorem State.setRes_pending (a : Nat) (r : Res) : (s.setRes a r).pending = s.pending := rfl
@[simp] theorem State.setRes_now (a : Nat) (r : Res) : (s.setRes a r).now = s.now := rfl
@[simp] theorem State.setRes_regs (a : Nat) (r : Res) : (s.setRes a r).regs = s.regs := rfl
@[simp] theorem State.setRes_mem (a : Nat) (r : Res) : (s.setRes a r).mem = s.mem := rfl
@[simp] theorem State.setRes_readData (a : Nat) (r : Res) : (s.setRes a r).readData = s.readData := rfl
@[simp] theorem State.setRes_wrDrop (a : Nat) (r : Res) : (s.setRes a r).wrDrop = s.wrDrop := rfl
@[simp] theorem State.setRes_out (a : Nat) (r : Res) : (s.setRes a r).out = s.out := rfl
@[simp] theorem State.setRes_freeIx (a : Nat) (r : Res) : (s.setRes a r).freeIx = s.freeIx := rfl
@[simp] theorem State.setRes_guards (a : Nat) (r : Res) : (s.setRes a r).guards = s.guards := rfl
@[simp] theorem State.setRes_fifos (a : Nat) (r : Res) : (s.setRes a r).fifos = s.fifos := rfl
@[simp] theorem State.setRes_fifoIn (a : Nat) (r : Res) : (s.setRes a r).fifoIn = s.fifoIn := rfl
@[simp] theorem State.setRes_spills (a : Nat) (r : Res) : (s.setRes a r).spills = s.spills := rfl
@[simp] theorem State.setRes_captures (a : Nat) (r : Res) : (s.setRes a r).captures = s.captures := rfl
@[simp] theorem State.setRes_cmd (a : Nat) (r : Res) : (s.setRes a r).cmd = s.cmd := rfl
@[simp] theorem State.setRes_cmdEnded (a : Nat) (r : Res) : (s.setRes a r).cmdEnded = s.cmdEnded := rfl
@[simp] theorem State.setRes_restartPend (a : Nat) (r : Res) : (s.setRes a r).restartPend = s.restartPend := rfl
@[simp] theorem State.setRes_host (a : Nat) (r : Res) : (s.setRes a r).host = s.host := rfl
@[simp] theorem State.setRes_yard (a : Nat) (r : Res) : (s.setRes a r).yard = s.yard := rfl
@[simp] theorem State.setRes_links (a : Nat) (r : Res) : (s.setRes a r).links = s.links := rfl
@[simp] theorem State.setRes_linkLanes (a : Nat) (r : Res) : (s.setRes a r).linkLanes = s.linkLanes := rfl
@[simp] theorem State.setRes_conv (a : Nat) (r : Res) : (s.setRes a r).conv = s.conv := rfl
@[simp] theorem State.setRes_convNext (a : Nat) (r : Res) : (s.setRes a r).convNext = s.convNext := rfl
@[simp] theorem State.setRes_lanes (a : Nat) (r : Res) : (s.setRes a r).lanes = s.lanes := rfl
@[simp] theorem State.setRes_edge (a : Nat) (r : Res) : (s.setRes a r).edge = s.edge := rfl
@[simp] theorem State.setRes_bal (a : Nat) (r : Res) : (s.setRes a r).bal = s.bal := rfl
@[simp] theorem State.setRes_cme (a : Nat) (r : Res) : (s.setRes a r).cme = s.cme := rfl
@[simp] theorem State.setRes_time (a : Nat) (r : Res) : (s.setRes a r).time = s.time := rfl
@[simp] theorem State.setRes_rtc (a : Nat) (r : Res) : (s.setRes a r).rtc = s.rtc := rfl
@[simp] theorem State.setRes_eth (a : Nat) (r : Res) : (s.setRes a r).eth = s.eth := rfl
@[simp] theorem State.setRes_can (a : Nat) (r : Res) : (s.setRes a r).can = s.can := rfl
@[simp] theorem State.setRes_adc (a : Nat) (r : Res) : (s.setRes a r).adc = s.adc := rfl
@[simp] theorem State.setRes_therm (a : Nat) (r : Res) : (s.setRes a r).therm = s.therm := rfl
@[simp] theorem State.setRes_aux (a : Nat) (r : Res) : (s.setRes a r).aux = s.aux := rfl
@[simp] theorem State.setRes_hb (a : Nat) (r : Res) : (s.setRes a r).hb = s.hb := rfl
@[simp] theorem State.setRes_pwm (a : Nat) (r : Res) : (s.setRes a r).pwm = s.pwm := rfl
@[simp] theorem State.setRes_tripIn (a : Nat) (r : Res) : (s.setRes a r).tripIn = s.tripIn := rfl
@[simp] theorem State.setRes_safe (a : Nat) (r : Res) : (s.setRes a r).safe = s.safe := rfl
@[simp] theorem State.setRes_evt (a : Nat) (r : Res) : (s.setRes a r).evt = s.evt := rfl
@[simp] theorem State.setRes_flt (a : Nat) (r : Res) : (s.setRes a r).flt = s.flt := rfl
@[simp] theorem State.setRes_tack (a : Nat) (r : Res) : (s.setRes a r).tack = s.tack := rfl
@[simp] theorem State.setRes_flash (a : Nat) (r : Res) : (s.setRes a r).flash = s.flash := rfl
@[simp] theorem State.setRes_upd (a : Nat) (r : Res) : (s.setRes a r).upd = s.upd := rfl
@[simp] theorem State.setRes_pair (a : Nat) (r : Res) : (s.setRes a r).pair = s.pair := rfl
@[simp] theorem State.setRes_rst (a : Nat) (r : Res) : (s.setRes a r).rst = s.rst := rfl

@[simp] theorem State.setFifo_pending (a : Nat) (l : List (Nat × Nat)) : (s.setFifo a l).pending = s.pending := rfl
@[simp] theorem State.setFifo_now (a : Nat) (l : List (Nat × Nat)) : (s.setFifo a l).now = s.now := rfl
@[simp] theorem State.setFifo_regs (a : Nat) (l : List (Nat × Nat)) : (s.setFifo a l).regs = s.regs := rfl
@[simp] theorem State.setFifo_mem (a : Nat) (l : List (Nat × Nat)) : (s.setFifo a l).mem = s.mem := rfl
@[simp] theorem State.setFifo_readData (a : Nat) (l : List (Nat × Nat)) : (s.setFifo a l).readData = s.readData := rfl
@[simp] theorem State.setFifo_wrDrop (a : Nat) (l : List (Nat × Nat)) : (s.setFifo a l).wrDrop = s.wrDrop := rfl
@[simp] theorem State.setFifo_out (a : Nat) (l : List (Nat × Nat)) : (s.setFifo a l).out = s.out := rfl
@[simp] theorem State.setFifo_freeIx (a : Nat) (l : List (Nat × Nat)) : (s.setFifo a l).freeIx = s.freeIx := rfl
@[simp] theorem State.setFifo_guards (a : Nat) (l : List (Nat × Nat)) : (s.setFifo a l).guards = s.guards := rfl
@[simp] theorem State.setFifo_results (a : Nat) (l : List (Nat × Nat)) : (s.setFifo a l).results = s.results := rfl
@[simp] theorem State.setFifo_fifoIn (a : Nat) (l : List (Nat × Nat)) : (s.setFifo a l).fifoIn = s.fifoIn := rfl
@[simp] theorem State.setFifo_spills (a : Nat) (l : List (Nat × Nat)) : (s.setFifo a l).spills = s.spills := rfl
@[simp] theorem State.setFifo_captures (a : Nat) (l : List (Nat × Nat)) : (s.setFifo a l).captures = s.captures := rfl
@[simp] theorem State.setFifo_cmd (a : Nat) (l : List (Nat × Nat)) : (s.setFifo a l).cmd = s.cmd := rfl
@[simp] theorem State.setFifo_cmdEnded (a : Nat) (l : List (Nat × Nat)) : (s.setFifo a l).cmdEnded = s.cmdEnded := rfl
@[simp] theorem State.setFifo_restartPend (a : Nat) (l : List (Nat × Nat)) : (s.setFifo a l).restartPend = s.restartPend := rfl
@[simp] theorem State.setFifo_host (a : Nat) (l : List (Nat × Nat)) : (s.setFifo a l).host = s.host := rfl
@[simp] theorem State.setFifo_yard (a : Nat) (l : List (Nat × Nat)) : (s.setFifo a l).yard = s.yard := rfl
@[simp] theorem State.setFifo_links (a : Nat) (l : List (Nat × Nat)) : (s.setFifo a l).links = s.links := rfl
@[simp] theorem State.setFifo_linkLanes (a : Nat) (l : List (Nat × Nat)) : (s.setFifo a l).linkLanes = s.linkLanes := rfl
@[simp] theorem State.setFifo_conv (a : Nat) (l : List (Nat × Nat)) : (s.setFifo a l).conv = s.conv := rfl
@[simp] theorem State.setFifo_convNext (a : Nat) (l : List (Nat × Nat)) : (s.setFifo a l).convNext = s.convNext := rfl
@[simp] theorem State.setFifo_lanes (a : Nat) (l : List (Nat × Nat)) : (s.setFifo a l).lanes = s.lanes := rfl
@[simp] theorem State.setFifo_edge (a : Nat) (l : List (Nat × Nat)) : (s.setFifo a l).edge = s.edge := rfl
@[simp] theorem State.setFifo_bal (a : Nat) (l : List (Nat × Nat)) : (s.setFifo a l).bal = s.bal := rfl
@[simp] theorem State.setFifo_cme (a : Nat) (l : List (Nat × Nat)) : (s.setFifo a l).cme = s.cme := rfl
@[simp] theorem State.setFifo_time (a : Nat) (l : List (Nat × Nat)) : (s.setFifo a l).time = s.time := rfl
@[simp] theorem State.setFifo_rtc (a : Nat) (l : List (Nat × Nat)) : (s.setFifo a l).rtc = s.rtc := rfl
@[simp] theorem State.setFifo_eth (a : Nat) (l : List (Nat × Nat)) : (s.setFifo a l).eth = s.eth := rfl
@[simp] theorem State.setFifo_can (a : Nat) (l : List (Nat × Nat)) : (s.setFifo a l).can = s.can := rfl
@[simp] theorem State.setFifo_adc (a : Nat) (l : List (Nat × Nat)) : (s.setFifo a l).adc = s.adc := rfl
@[simp] theorem State.setFifo_therm (a : Nat) (l : List (Nat × Nat)) : (s.setFifo a l).therm = s.therm := rfl
@[simp] theorem State.setFifo_aux (a : Nat) (l : List (Nat × Nat)) : (s.setFifo a l).aux = s.aux := rfl
@[simp] theorem State.setFifo_hb (a : Nat) (l : List (Nat × Nat)) : (s.setFifo a l).hb = s.hb := rfl
@[simp] theorem State.setFifo_pwm (a : Nat) (l : List (Nat × Nat)) : (s.setFifo a l).pwm = s.pwm := rfl
@[simp] theorem State.setFifo_tripIn (a : Nat) (l : List (Nat × Nat)) : (s.setFifo a l).tripIn = s.tripIn := rfl
@[simp] theorem State.setFifo_safe (a : Nat) (l : List (Nat × Nat)) : (s.setFifo a l).safe = s.safe := rfl
@[simp] theorem State.setFifo_evt (a : Nat) (l : List (Nat × Nat)) : (s.setFifo a l).evt = s.evt := rfl
@[simp] theorem State.setFifo_flt (a : Nat) (l : List (Nat × Nat)) : (s.setFifo a l).flt = s.flt := rfl
@[simp] theorem State.setFifo_tack (a : Nat) (l : List (Nat × Nat)) : (s.setFifo a l).tack = s.tack := rfl
@[simp] theorem State.setFifo_flash (a : Nat) (l : List (Nat × Nat)) : (s.setFifo a l).flash = s.flash := rfl
@[simp] theorem State.setFifo_upd (a : Nat) (l : List (Nat × Nat)) : (s.setFifo a l).upd = s.upd := rfl
@[simp] theorem State.setFifo_pair (a : Nat) (l : List (Nat × Nat)) : (s.setFifo a l).pair = s.pair := rfl
@[simp] theorem State.setFifo_rst (a : Nat) (l : List (Nat × Nat)) : (s.setFifo a l).rst = s.rst := rfl

@[simp] theorem State.complete_pending (a v : Nat) : (s.complete a v).pending = s.pending := rfl
@[simp] theorem State.complete_now (a v : Nat) : (s.complete a v).now = s.now := rfl
@[simp] theorem State.complete_regs (a v : Nat) : (s.complete a v).regs = s.regs := rfl
@[simp] theorem State.complete_mem (a v : Nat) : (s.complete a v).mem = s.mem := rfl
@[simp] theorem State.complete_readData (a v : Nat) : (s.complete a v).readData = s.readData := rfl
@[simp] theorem State.complete_wrDrop (a v : Nat) : (s.complete a v).wrDrop = s.wrDrop := rfl
@[simp] theorem State.complete_out (a v : Nat) : (s.complete a v).out = s.out := rfl
@[simp] theorem State.complete_freeIx (a v : Nat) : (s.complete a v).freeIx = s.freeIx := rfl
@[simp] theorem State.complete_guards (a v : Nat) : (s.complete a v).guards = s.guards := rfl
@[simp] theorem State.complete_fifos (a v : Nat) : (s.complete a v).fifos = s.fifos := rfl
@[simp] theorem State.complete_fifoIn (a v : Nat) : (s.complete a v).fifoIn = s.fifoIn := rfl
@[simp] theorem State.complete_spills (a v : Nat) : (s.complete a v).spills = s.spills := rfl
@[simp] theorem State.complete_captures (a v : Nat) : (s.complete a v).captures = s.captures := rfl
@[simp] theorem State.complete_cmd (a v : Nat) : (s.complete a v).cmd = s.cmd := rfl
@[simp] theorem State.complete_cmdEnded (a v : Nat) : (s.complete a v).cmdEnded = s.cmdEnded := rfl
@[simp] theorem State.complete_restartPend (a v : Nat) : (s.complete a v).restartPend = s.restartPend := rfl
@[simp] theorem State.complete_host (a v : Nat) : (s.complete a v).host = s.host := rfl
@[simp] theorem State.complete_yard (a v : Nat) : (s.complete a v).yard = s.yard := rfl
@[simp] theorem State.complete_links (a v : Nat) : (s.complete a v).links = s.links := rfl
@[simp] theorem State.complete_linkLanes (a v : Nat) : (s.complete a v).linkLanes = s.linkLanes := rfl
@[simp] theorem State.complete_conv (a v : Nat) : (s.complete a v).conv = s.conv := rfl
@[simp] theorem State.complete_convNext (a v : Nat) : (s.complete a v).convNext = s.convNext := rfl
@[simp] theorem State.complete_lanes (a v : Nat) : (s.complete a v).lanes = s.lanes := rfl
@[simp] theorem State.complete_edge (a v : Nat) : (s.complete a v).edge = s.edge := rfl
@[simp] theorem State.complete_bal (a v : Nat) : (s.complete a v).bal = s.bal := rfl
@[simp] theorem State.complete_cme (a v : Nat) : (s.complete a v).cme = s.cme := rfl
@[simp] theorem State.complete_time (a v : Nat) : (s.complete a v).time = s.time := rfl
@[simp] theorem State.complete_rtc (a v : Nat) : (s.complete a v).rtc = s.rtc := rfl
@[simp] theorem State.complete_eth (a v : Nat) : (s.complete a v).eth = s.eth := rfl
@[simp] theorem State.complete_can (a v : Nat) : (s.complete a v).can = s.can := rfl
@[simp] theorem State.complete_adc (a v : Nat) : (s.complete a v).adc = s.adc := rfl
@[simp] theorem State.complete_therm (a v : Nat) : (s.complete a v).therm = s.therm := rfl
@[simp] theorem State.complete_aux (a v : Nat) : (s.complete a v).aux = s.aux := rfl
@[simp] theorem State.complete_hb (a v : Nat) : (s.complete a v).hb = s.hb := rfl
@[simp] theorem State.complete_pwm (a v : Nat) : (s.complete a v).pwm = s.pwm := rfl
@[simp] theorem State.complete_tripIn (a v : Nat) : (s.complete a v).tripIn = s.tripIn := rfl
@[simp] theorem State.complete_safe (a v : Nat) : (s.complete a v).safe = s.safe := rfl
@[simp] theorem State.complete_evt (a v : Nat) : (s.complete a v).evt = s.evt := rfl
@[simp] theorem State.complete_flt (a v : Nat) : (s.complete a v).flt = s.flt := rfl
@[simp] theorem State.complete_tack (a v : Nat) : (s.complete a v).tack = s.tack := rfl
@[simp] theorem State.complete_flash (a v : Nat) : (s.complete a v).flash = s.flash := rfl
@[simp] theorem State.complete_upd (a v : Nat) : (s.complete a v).upd = s.upd := rfl
@[simp] theorem State.complete_pair (a v : Nat) : (s.complete a v).pair = s.pair := rfl
@[simp] theorem State.complete_rst (a v : Nat) : (s.complete a v).rst = s.rst := rfl

@[simp] theorem State.startRes_pending (a : Nat) : (s.startRes a).pending = s.pending := rfl
@[simp] theorem State.startRes_now (a : Nat) : (s.startRes a).now = s.now := rfl
@[simp] theorem State.startRes_regs (a : Nat) : (s.startRes a).regs = s.regs := rfl
@[simp] theorem State.startRes_mem (a : Nat) : (s.startRes a).mem = s.mem := rfl
@[simp] theorem State.startRes_readData (a : Nat) : (s.startRes a).readData = s.readData := rfl
@[simp] theorem State.startRes_wrDrop (a : Nat) : (s.startRes a).wrDrop = s.wrDrop := rfl
@[simp] theorem State.startRes_out (a : Nat) : (s.startRes a).out = s.out := rfl
@[simp] theorem State.startRes_freeIx (a : Nat) : (s.startRes a).freeIx = s.freeIx := rfl
@[simp] theorem State.startRes_guards (a : Nat) : (s.startRes a).guards = s.guards := rfl
@[simp] theorem State.startRes_fifos (a : Nat) : (s.startRes a).fifos = s.fifos := rfl
@[simp] theorem State.startRes_fifoIn (a : Nat) : (s.startRes a).fifoIn = s.fifoIn := rfl
@[simp] theorem State.startRes_spills (a : Nat) : (s.startRes a).spills = s.spills := rfl
@[simp] theorem State.startRes_captures (a : Nat) : (s.startRes a).captures = s.captures := rfl
@[simp] theorem State.startRes_cmd (a : Nat) : (s.startRes a).cmd = s.cmd := rfl
@[simp] theorem State.startRes_cmdEnded (a : Nat) : (s.startRes a).cmdEnded = s.cmdEnded := rfl
@[simp] theorem State.startRes_restartPend (a : Nat) : (s.startRes a).restartPend = s.restartPend := rfl
@[simp] theorem State.startRes_host (a : Nat) : (s.startRes a).host = s.host := rfl
@[simp] theorem State.startRes_yard (a : Nat) : (s.startRes a).yard = s.yard := rfl
@[simp] theorem State.startRes_links (a : Nat) : (s.startRes a).links = s.links := rfl
@[simp] theorem State.startRes_linkLanes (a : Nat) : (s.startRes a).linkLanes = s.linkLanes := rfl
@[simp] theorem State.startRes_conv (a : Nat) : (s.startRes a).conv = s.conv := rfl
@[simp] theorem State.startRes_convNext (a : Nat) : (s.startRes a).convNext = s.convNext := rfl
@[simp] theorem State.startRes_lanes (a : Nat) : (s.startRes a).lanes = s.lanes := rfl
@[simp] theorem State.startRes_edge (a : Nat) : (s.startRes a).edge = s.edge := rfl
@[simp] theorem State.startRes_bal (a : Nat) : (s.startRes a).bal = s.bal := rfl
@[simp] theorem State.startRes_cme (a : Nat) : (s.startRes a).cme = s.cme := rfl
@[simp] theorem State.startRes_time (a : Nat) : (s.startRes a).time = s.time := rfl
@[simp] theorem State.startRes_rtc (a : Nat) : (s.startRes a).rtc = s.rtc := rfl
@[simp] theorem State.startRes_eth (a : Nat) : (s.startRes a).eth = s.eth := rfl
@[simp] theorem State.startRes_can (a : Nat) : (s.startRes a).can = s.can := rfl
@[simp] theorem State.startRes_adc (a : Nat) : (s.startRes a).adc = s.adc := rfl
@[simp] theorem State.startRes_therm (a : Nat) : (s.startRes a).therm = s.therm := rfl
@[simp] theorem State.startRes_aux (a : Nat) : (s.startRes a).aux = s.aux := rfl
@[simp] theorem State.startRes_hb (a : Nat) : (s.startRes a).hb = s.hb := rfl
@[simp] theorem State.startRes_pwm (a : Nat) : (s.startRes a).pwm = s.pwm := rfl
@[simp] theorem State.startRes_tripIn (a : Nat) : (s.startRes a).tripIn = s.tripIn := rfl
@[simp] theorem State.startRes_safe (a : Nat) : (s.startRes a).safe = s.safe := rfl
@[simp] theorem State.startRes_evt (a : Nat) : (s.startRes a).evt = s.evt := rfl
@[simp] theorem State.startRes_flt (a : Nat) : (s.startRes a).flt = s.flt := rfl
@[simp] theorem State.startRes_tack (a : Nat) : (s.startRes a).tack = s.tack := rfl
@[simp] theorem State.startRes_flash (a : Nat) : (s.startRes a).flash = s.flash := rfl
@[simp] theorem State.startRes_upd (a : Nat) : (s.startRes a).upd = s.upd := rfl
@[simp] theorem State.startRes_pair (a : Nat) : (s.startRes a).pair = s.pair := rfl
@[simp] theorem State.startRes_rst (a : Nat) : (s.startRes a).rst = s.rst := rfl

@[simp] theorem State.stopRes_pending (a : Nat) : (s.stopRes a).pending = s.pending := rfl
@[simp] theorem State.stopRes_now (a : Nat) : (s.stopRes a).now = s.now := rfl
@[simp] theorem State.stopRes_regs (a : Nat) : (s.stopRes a).regs = s.regs := rfl
@[simp] theorem State.stopRes_mem (a : Nat) : (s.stopRes a).mem = s.mem := rfl
@[simp] theorem State.stopRes_readData (a : Nat) : (s.stopRes a).readData = s.readData := rfl
@[simp] theorem State.stopRes_wrDrop (a : Nat) : (s.stopRes a).wrDrop = s.wrDrop := rfl
@[simp] theorem State.stopRes_out (a : Nat) : (s.stopRes a).out = s.out := rfl
@[simp] theorem State.stopRes_freeIx (a : Nat) : (s.stopRes a).freeIx = s.freeIx := rfl
@[simp] theorem State.stopRes_guards (a : Nat) : (s.stopRes a).guards = s.guards := rfl
@[simp] theorem State.stopRes_fifos (a : Nat) : (s.stopRes a).fifos = s.fifos := rfl
@[simp] theorem State.stopRes_fifoIn (a : Nat) : (s.stopRes a).fifoIn = s.fifoIn := rfl
@[simp] theorem State.stopRes_spills (a : Nat) : (s.stopRes a).spills = s.spills := rfl
@[simp] theorem State.stopRes_captures (a : Nat) : (s.stopRes a).captures = s.captures := rfl
@[simp] theorem State.stopRes_cmd (a : Nat) : (s.stopRes a).cmd = s.cmd := rfl
@[simp] theorem State.stopRes_cmdEnded (a : Nat) : (s.stopRes a).cmdEnded = s.cmdEnded := rfl
@[simp] theorem State.stopRes_restartPend (a : Nat) : (s.stopRes a).restartPend = s.restartPend := rfl
@[simp] theorem State.stopRes_host (a : Nat) : (s.stopRes a).host = s.host := rfl
@[simp] theorem State.stopRes_yard (a : Nat) : (s.stopRes a).yard = s.yard := rfl
@[simp] theorem State.stopRes_links (a : Nat) : (s.stopRes a).links = s.links := rfl
@[simp] theorem State.stopRes_linkLanes (a : Nat) : (s.stopRes a).linkLanes = s.linkLanes := rfl
@[simp] theorem State.stopRes_conv (a : Nat) : (s.stopRes a).conv = s.conv := rfl
@[simp] theorem State.stopRes_convNext (a : Nat) : (s.stopRes a).convNext = s.convNext := rfl
@[simp] theorem State.stopRes_lanes (a : Nat) : (s.stopRes a).lanes = s.lanes := rfl
@[simp] theorem State.stopRes_edge (a : Nat) : (s.stopRes a).edge = s.edge := rfl
@[simp] theorem State.stopRes_bal (a : Nat) : (s.stopRes a).bal = s.bal := rfl
@[simp] theorem State.stopRes_cme (a : Nat) : (s.stopRes a).cme = s.cme := rfl
@[simp] theorem State.stopRes_time (a : Nat) : (s.stopRes a).time = s.time := rfl
@[simp] theorem State.stopRes_rtc (a : Nat) : (s.stopRes a).rtc = s.rtc := rfl
@[simp] theorem State.stopRes_eth (a : Nat) : (s.stopRes a).eth = s.eth := rfl
@[simp] theorem State.stopRes_can (a : Nat) : (s.stopRes a).can = s.can := rfl
@[simp] theorem State.stopRes_adc (a : Nat) : (s.stopRes a).adc = s.adc := rfl
@[simp] theorem State.stopRes_therm (a : Nat) : (s.stopRes a).therm = s.therm := rfl
@[simp] theorem State.stopRes_aux (a : Nat) : (s.stopRes a).aux = s.aux := rfl
@[simp] theorem State.stopRes_hb (a : Nat) : (s.stopRes a).hb = s.hb := rfl
@[simp] theorem State.stopRes_pwm (a : Nat) : (s.stopRes a).pwm = s.pwm := rfl
@[simp] theorem State.stopRes_tripIn (a : Nat) : (s.stopRes a).tripIn = s.tripIn := rfl
@[simp] theorem State.stopRes_safe (a : Nat) : (s.stopRes a).safe = s.safe := rfl
@[simp] theorem State.stopRes_evt (a : Nat) : (s.stopRes a).evt = s.evt := rfl
@[simp] theorem State.stopRes_flt (a : Nat) : (s.stopRes a).flt = s.flt := rfl
@[simp] theorem State.stopRes_tack (a : Nat) : (s.stopRes a).tack = s.tack := rfl
@[simp] theorem State.stopRes_flash (a : Nat) : (s.stopRes a).flash = s.flash := rfl
@[simp] theorem State.stopRes_upd (a : Nat) : (s.stopRes a).upd = s.upd := rfl
@[simp] theorem State.stopRes_pair (a : Nat) : (s.stopRes a).pair = s.pair := rfl
@[simp] theorem State.stopRes_rst (a : Nat) : (s.stopRes a).rst = s.rst := rfl

@[simp] theorem State.advance_pending (n : Nat) : (s.advance n).pending = s.pending := by cases s; rfl
@[simp] theorem State.advance_regs (n : Nat) : (s.advance n).regs = s.regs := by cases s; rfl
@[simp] theorem State.advance_mem (n : Nat) : (s.advance n).mem = s.mem := by cases s; rfl
@[simp] theorem State.advance_readData (n : Nat) : (s.advance n).readData = s.readData := by cases s; rfl
@[simp] theorem State.advance_wrDrop (n : Nat) : (s.advance n).wrDrop = s.wrDrop := by cases s; rfl
@[simp] theorem State.advance_out (n : Nat) : (s.advance n).out = s.out := by cases s; rfl
@[simp] theorem State.advance_freeIx (n : Nat) : (s.advance n).freeIx = s.freeIx := by cases s; rfl
@[simp] theorem State.advance_guards (n : Nat) : (s.advance n).guards = s.guards := by cases s; rfl
@[simp] theorem State.advance_results (n : Nat) : (s.advance n).results = s.results := by cases s; rfl
@[simp] theorem State.advance_fifos (n : Nat) : (s.advance n).fifos = s.fifos := by cases s; rfl
@[simp] theorem State.advance_fifoIn (n : Nat) : (s.advance n).fifoIn = s.fifoIn := by cases s; rfl
@[simp] theorem State.advance_spills (n : Nat) : (s.advance n).spills = s.spills := by cases s; rfl
@[simp] theorem State.advance_captures (n : Nat) : (s.advance n).captures = s.captures := by cases s; rfl
@[simp] theorem State.advance_cmd (n : Nat) : (s.advance n).cmd = s.cmd := by cases s; rfl
@[simp] theorem State.advance_cmdEnded (n : Nat) : (s.advance n).cmdEnded = s.cmdEnded := by cases s; rfl
@[simp] theorem State.advance_restartPend (n : Nat) : (s.advance n).restartPend = s.restartPend := by cases s; rfl
@[simp] theorem State.advance_host (n : Nat) : (s.advance n).host = s.host := by cases s; rfl
@[simp] theorem State.advance_yard (n : Nat) : (s.advance n).yard = s.yard := by cases s; rfl
@[simp] theorem State.advance_links (n : Nat) : (s.advance n).links = s.links := by cases s; rfl
@[simp] theorem State.advance_linkLanes (n : Nat) : (s.advance n).linkLanes = s.linkLanes := by cases s; rfl
@[simp] theorem State.advance_conv (n : Nat) : (s.advance n).conv = s.conv := by cases s; rfl
@[simp] theorem State.advance_convNext (n : Nat) : (s.advance n).convNext = s.convNext := by cases s; rfl
@[simp] theorem State.advance_lanes (n : Nat) : (s.advance n).lanes = s.lanes := by cases s; rfl
@[simp] theorem State.advance_edge (n : Nat) : (s.advance n).edge = s.edge := by cases s; rfl
@[simp] theorem State.advance_bal (n : Nat) : (s.advance n).bal = s.bal := by cases s; rfl
@[simp] theorem State.advance_cme (n : Nat) : (s.advance n).cme = s.cme := by cases s; rfl
@[simp] theorem State.advance_eth (n : Nat) : (s.advance n).eth = s.eth := by cases s; rfl
@[simp] theorem State.advance_can (n : Nat) : (s.advance n).can = s.can := by cases s; rfl
@[simp] theorem State.advance_adc (n : Nat) : (s.advance n).adc = s.adc := by cases s; rfl
@[simp] theorem State.advance_therm (n : Nat) : (s.advance n).therm = s.therm := by cases s; rfl
@[simp] theorem State.advance_aux (n : Nat) : (s.advance n).aux = s.aux := by cases s; rfl
@[simp] theorem State.advance_hb (n : Nat) : (s.advance n).hb = s.hb := by cases s; rfl
@[simp] theorem State.advance_pwm (n : Nat) : (s.advance n).pwm = s.pwm := by cases s; rfl
@[simp] theorem State.advance_tripIn (n : Nat) : (s.advance n).tripIn = s.tripIn := by cases s; rfl
@[simp] theorem State.advance_safe (n : Nat) : (s.advance n).safe = s.safe := by cases s; rfl
@[simp] theorem State.advance_evt (n : Nat) : (s.advance n).evt = s.evt := by cases s; rfl
@[simp] theorem State.advance_flt (n : Nat) : (s.advance n).flt = s.flt := by cases s; rfl
@[simp] theorem State.advance_tack (n : Nat) : (s.advance n).tack = s.tack := by cases s; rfl
@[simp] theorem State.advance_flash (n : Nat) : (s.advance n).flash = s.flash := by cases s; rfl
@[simp] theorem State.advance_upd (n : Nat) : (s.advance n).upd = s.upd := by cases s; rfl
@[simp] theorem State.advance_pair (n : Nat) : (s.advance n).pair = s.pair := by cases s; rfl
@[simp] theorem State.advance_rst (n : Nat) : (s.advance n).rst = s.rst := by cases s; rfl

@[simp] theorem State.until_pending (n : Nat) : (s.until n).pending = s.pending := by cases s; rfl
@[simp] theorem State.until_regs (n : Nat) : (s.until n).regs = s.regs := by cases s; rfl
@[simp] theorem State.until_mem (n : Nat) : (s.until n).mem = s.mem := by cases s; rfl
@[simp] theorem State.until_readData (n : Nat) : (s.until n).readData = s.readData := by cases s; rfl
@[simp] theorem State.until_wrDrop (n : Nat) : (s.until n).wrDrop = s.wrDrop := by cases s; rfl
@[simp] theorem State.until_out (n : Nat) : (s.until n).out = s.out := by cases s; rfl
@[simp] theorem State.until_freeIx (n : Nat) : (s.until n).freeIx = s.freeIx := by cases s; rfl
@[simp] theorem State.until_guards (n : Nat) : (s.until n).guards = s.guards := by cases s; rfl
@[simp] theorem State.until_results (n : Nat) : (s.until n).results = s.results := by cases s; rfl
@[simp] theorem State.until_fifos (n : Nat) : (s.until n).fifos = s.fifos := by cases s; rfl
@[simp] theorem State.until_fifoIn (n : Nat) : (s.until n).fifoIn = s.fifoIn := by cases s; rfl
@[simp] theorem State.until_spills (n : Nat) : (s.until n).spills = s.spills := by cases s; rfl
@[simp] theorem State.until_captures (n : Nat) : (s.until n).captures = s.captures := by cases s; rfl
@[simp] theorem State.until_cmd (n : Nat) : (s.until n).cmd = s.cmd := by cases s; rfl
@[simp] theorem State.until_cmdEnded (n : Nat) : (s.until n).cmdEnded = s.cmdEnded := by cases s; rfl
@[simp] theorem State.until_restartPend (n : Nat) : (s.until n).restartPend = s.restartPend := by cases s; rfl
@[simp] theorem State.until_host (n : Nat) : (s.until n).host = s.host := by cases s; rfl
@[simp] theorem State.until_yard (n : Nat) : (s.until n).yard = s.yard := by cases s; rfl
@[simp] theorem State.until_links (n : Nat) : (s.until n).links = s.links := by cases s; rfl
@[simp] theorem State.until_linkLanes (n : Nat) : (s.until n).linkLanes = s.linkLanes := by cases s; rfl
@[simp] theorem State.until_conv (n : Nat) : (s.until n).conv = s.conv := by cases s; rfl
@[simp] theorem State.until_convNext (n : Nat) : (s.until n).convNext = s.convNext := by cases s; rfl
@[simp] theorem State.until_lanes (n : Nat) : (s.until n).lanes = s.lanes := by cases s; rfl
@[simp] theorem State.until_edge (n : Nat) : (s.until n).edge = s.edge := by cases s; rfl
@[simp] theorem State.until_bal (n : Nat) : (s.until n).bal = s.bal := by cases s; rfl
@[simp] theorem State.until_cme (n : Nat) : (s.until n).cme = s.cme := by cases s; rfl
@[simp] theorem State.until_eth (n : Nat) : (s.until n).eth = s.eth := by cases s; rfl
@[simp] theorem State.until_can (n : Nat) : (s.until n).can = s.can := by cases s; rfl
@[simp] theorem State.until_adc (n : Nat) : (s.until n).adc = s.adc := by cases s; rfl
@[simp] theorem State.until_therm (n : Nat) : (s.until n).therm = s.therm := by cases s; rfl
@[simp] theorem State.until_aux (n : Nat) : (s.until n).aux = s.aux := by cases s; rfl
@[simp] theorem State.until_hb (n : Nat) : (s.until n).hb = s.hb := by cases s; rfl
@[simp] theorem State.until_pwm (n : Nat) : (s.until n).pwm = s.pwm := by cases s; rfl
@[simp] theorem State.until_tripIn (n : Nat) : (s.until n).tripIn = s.tripIn := by cases s; rfl
@[simp] theorem State.until_safe (n : Nat) : (s.until n).safe = s.safe := by cases s; rfl
@[simp] theorem State.until_evt (n : Nat) : (s.until n).evt = s.evt := by cases s; rfl
@[simp] theorem State.until_flt (n : Nat) : (s.until n).flt = s.flt := by cases s; rfl
@[simp] theorem State.until_tack (n : Nat) : (s.until n).tack = s.tack := by cases s; rfl
@[simp] theorem State.until_flash (n : Nat) : (s.until n).flash = s.flash := by cases s; rfl
@[simp] theorem State.until_upd (n : Nat) : (s.until n).upd = s.upd := by cases s; rfl
@[simp] theorem State.until_pair (n : Nat) : (s.until n).pair = s.pair := by cases s; rfl
@[simp] theorem State.until_rst (n : Nat) : (s.until n).rst = s.rst := by cases s; rfl

@[simp] theorem State.pushOcc_pending (e i : Nat) (h v : Bool) : (s.pushOcc e i h v).pending = s.pending := rfl
@[simp] theorem State.pushOcc_now (e i : Nat) (h v : Bool) : (s.pushOcc e i h v).now = s.now := rfl
@[simp] theorem State.pushOcc_regs (e i : Nat) (h v : Bool) : (s.pushOcc e i h v).regs = s.regs := rfl
@[simp] theorem State.pushOcc_mem (e i : Nat) (h v : Bool) : (s.pushOcc e i h v).mem = s.mem := rfl
@[simp] theorem State.pushOcc_readData (e i : Nat) (h v : Bool) : (s.pushOcc e i h v).readData = s.readData := rfl
@[simp] theorem State.pushOcc_wrDrop (e i : Nat) (h v : Bool) : (s.pushOcc e i h v).wrDrop = s.wrDrop := rfl
@[simp] theorem State.pushOcc_out (e i : Nat) (h v : Bool) : (s.pushOcc e i h v).out = s.out := rfl
@[simp] theorem State.pushOcc_freeIx (e i : Nat) (h v : Bool) : (s.pushOcc e i h v).freeIx = s.freeIx := rfl
@[simp] theorem State.pushOcc_guards (e i : Nat) (h v : Bool) : (s.pushOcc e i h v).guards = s.guards := rfl
@[simp] theorem State.pushOcc_results (e i : Nat) (h v : Bool) : (s.pushOcc e i h v).results = s.results := rfl
@[simp] theorem State.pushOcc_fifos (e i : Nat) (h v : Bool) : (s.pushOcc e i h v).fifos = s.fifos := rfl
@[simp] theorem State.pushOcc_fifoIn (e i : Nat) (h v : Bool) : (s.pushOcc e i h v).fifoIn = s.fifoIn := rfl
@[simp] theorem State.pushOcc_spills (e i : Nat) (h v : Bool) : (s.pushOcc e i h v).spills = s.spills := rfl
@[simp] theorem State.pushOcc_captures (e i : Nat) (h v : Bool) : (s.pushOcc e i h v).captures = s.captures := rfl
@[simp] theorem State.pushOcc_cmd (e i : Nat) (h v : Bool) : (s.pushOcc e i h v).cmd = s.cmd := rfl
@[simp] theorem State.pushOcc_cmdEnded (e i : Nat) (h v : Bool) : (s.pushOcc e i h v).cmdEnded = s.cmdEnded := rfl
@[simp] theorem State.pushOcc_restartPend (e i : Nat) (h v : Bool) : (s.pushOcc e i h v).restartPend = s.restartPend := rfl
@[simp] theorem State.pushOcc_host (e i : Nat) (h v : Bool) : (s.pushOcc e i h v).host = s.host := rfl
@[simp] theorem State.pushOcc_yard (e i : Nat) (h v : Bool) : (s.pushOcc e i h v).yard = s.yard := rfl
@[simp] theorem State.pushOcc_links (e i : Nat) (h v : Bool) : (s.pushOcc e i h v).links = s.links := rfl
@[simp] theorem State.pushOcc_linkLanes (e i : Nat) (h v : Bool) : (s.pushOcc e i h v).linkLanes = s.linkLanes := rfl
@[simp] theorem State.pushOcc_conv (e i : Nat) (h v : Bool) : (s.pushOcc e i h v).conv = s.conv := rfl
@[simp] theorem State.pushOcc_convNext (e i : Nat) (h v : Bool) : (s.pushOcc e i h v).convNext = s.convNext := rfl
@[simp] theorem State.pushOcc_lanes (e i : Nat) (h v : Bool) : (s.pushOcc e i h v).lanes = s.lanes := rfl
@[simp] theorem State.pushOcc_edge (e i : Nat) (h v : Bool) : (s.pushOcc e i h v).edge = s.edge := rfl
@[simp] theorem State.pushOcc_bal (e i : Nat) (h v : Bool) : (s.pushOcc e i h v).bal = s.bal := rfl
@[simp] theorem State.pushOcc_cme (e i : Nat) (h v : Bool) : (s.pushOcc e i h v).cme = s.cme := rfl
@[simp] theorem State.pushOcc_time (e i : Nat) (h v : Bool) : (s.pushOcc e i h v).time = s.time := rfl
@[simp] theorem State.pushOcc_rtc (e i : Nat) (h v : Bool) : (s.pushOcc e i h v).rtc = s.rtc := rfl
@[simp] theorem State.pushOcc_eth (e i : Nat) (h v : Bool) : (s.pushOcc e i h v).eth = s.eth := rfl
@[simp] theorem State.pushOcc_can (e i : Nat) (h v : Bool) : (s.pushOcc e i h v).can = s.can := rfl
@[simp] theorem State.pushOcc_adc (e i : Nat) (h v : Bool) : (s.pushOcc e i h v).adc = s.adc := rfl
@[simp] theorem State.pushOcc_therm (e i : Nat) (h v : Bool) : (s.pushOcc e i h v).therm = s.therm := rfl
@[simp] theorem State.pushOcc_aux (e i : Nat) (h v : Bool) : (s.pushOcc e i h v).aux = s.aux := rfl
@[simp] theorem State.pushOcc_hb (e i : Nat) (h v : Bool) : (s.pushOcc e i h v).hb = s.hb := rfl
@[simp] theorem State.pushOcc_pwm (e i : Nat) (h v : Bool) : (s.pushOcc e i h v).pwm = s.pwm := rfl
@[simp] theorem State.pushOcc_tripIn (e i : Nat) (h v : Bool) : (s.pushOcc e i h v).tripIn = s.tripIn := rfl
@[simp] theorem State.pushOcc_safe (e i : Nat) (h v : Bool) : (s.pushOcc e i h v).safe = s.safe := rfl
@[simp] theorem State.pushOcc_flt (e i : Nat) (h v : Bool) : (s.pushOcc e i h v).flt = s.flt := rfl
@[simp] theorem State.pushOcc_tack (e i : Nat) (h v : Bool) : (s.pushOcc e i h v).tack = s.tack := rfl
@[simp] theorem State.pushOcc_flash (e i : Nat) (h v : Bool) : (s.pushOcc e i h v).flash = s.flash := rfl
@[simp] theorem State.pushOcc_upd (e i : Nat) (h v : Bool) : (s.pushOcc e i h v).upd = s.upd := rfl
@[simp] theorem State.pushOcc_pair (e i : Nat) (h v : Bool) : (s.pushOcc e i h v).pair = s.pair := rfl
@[simp] theorem State.pushOcc_rst (e i : Nat) (h v : Bool) : (s.pushOcc e i h v).rst = s.rst := rfl

@[simp] theorem State.raise_pending (b k : Nat) : (s.raise b k).pending = s.pending := by unfold State.raise; dsimp only; split <;> rfl
@[simp] theorem State.raise_now (b k : Nat) : (s.raise b k).now = s.now := by unfold State.raise; dsimp only; split <;> rfl
@[simp] theorem State.raise_mem (b k : Nat) : (s.raise b k).mem = s.mem := by unfold State.raise; dsimp only; split <;> rfl
@[simp] theorem State.raise_readData (b k : Nat) : (s.raise b k).readData = s.readData := by unfold State.raise; dsimp only; split <;> rfl
@[simp] theorem State.raise_wrDrop (b k : Nat) : (s.raise b k).wrDrop = s.wrDrop := by unfold State.raise; dsimp only; split <;> rfl
@[simp] theorem State.raise_out (b k : Nat) : (s.raise b k).out = s.out := by unfold State.raise; dsimp only; split <;> rfl
@[simp] theorem State.raise_freeIx (b k : Nat) : (s.raise b k).freeIx = s.freeIx := by unfold State.raise; dsimp only; split <;> rfl
@[simp] theorem State.raise_guards (b k : Nat) : (s.raise b k).guards = s.guards := by unfold State.raise; dsimp only; split <;> rfl
@[simp] theorem State.raise_results (b k : Nat) : (s.raise b k).results = s.results := by unfold State.raise; dsimp only; split <;> rfl
@[simp] theorem State.raise_fifos (b k : Nat) : (s.raise b k).fifos = s.fifos := by unfold State.raise; dsimp only; split <;> rfl
@[simp] theorem State.raise_fifoIn (b k : Nat) : (s.raise b k).fifoIn = s.fifoIn := by unfold State.raise; dsimp only; split <;> rfl
@[simp] theorem State.raise_spills (b k : Nat) : (s.raise b k).spills = s.spills := by unfold State.raise; dsimp only; split <;> rfl
@[simp] theorem State.raise_captures (b k : Nat) : (s.raise b k).captures = s.captures := by unfold State.raise; dsimp only; split <;> rfl
@[simp] theorem State.raise_cmd (b k : Nat) : (s.raise b k).cmd = s.cmd := by unfold State.raise; dsimp only; split <;> rfl
@[simp] theorem State.raise_cmdEnded (b k : Nat) : (s.raise b k).cmdEnded = s.cmdEnded := by unfold State.raise; dsimp only; split <;> rfl
@[simp] theorem State.raise_restartPend (b k : Nat) : (s.raise b k).restartPend = s.restartPend := by unfold State.raise; dsimp only; split <;> rfl
@[simp] theorem State.raise_host (b k : Nat) : (s.raise b k).host = s.host := by unfold State.raise; dsimp only; split <;> rfl
@[simp] theorem State.raise_yard (b k : Nat) : (s.raise b k).yard = s.yard := by unfold State.raise; dsimp only; split <;> rfl
@[simp] theorem State.raise_links (b k : Nat) : (s.raise b k).links = s.links := by unfold State.raise; dsimp only; split <;> rfl
@[simp] theorem State.raise_linkLanes (b k : Nat) : (s.raise b k).linkLanes = s.linkLanes := by unfold State.raise; dsimp only; split <;> rfl
@[simp] theorem State.raise_conv (b k : Nat) : (s.raise b k).conv = s.conv := by unfold State.raise; dsimp only; split <;> rfl
@[simp] theorem State.raise_convNext (b k : Nat) : (s.raise b k).convNext = s.convNext := by unfold State.raise; dsimp only; split <;> rfl
@[simp] theorem State.raise_lanes (b k : Nat) : (s.raise b k).lanes = s.lanes := by unfold State.raise; dsimp only; split <;> rfl
@[simp] theorem State.raise_edge (b k : Nat) : (s.raise b k).edge = s.edge := by unfold State.raise; dsimp only; split <;> rfl
@[simp] theorem State.raise_bal (b k : Nat) : (s.raise b k).bal = s.bal := by unfold State.raise; dsimp only; split <;> rfl
@[simp] theorem State.raise_cme (b k : Nat) : (s.raise b k).cme = s.cme := by unfold State.raise; dsimp only; split <;> rfl
@[simp] theorem State.raise_time (b k : Nat) : (s.raise b k).time = s.time := by unfold State.raise; dsimp only; split <;> rfl
@[simp] theorem State.raise_rtc (b k : Nat) : (s.raise b k).rtc = s.rtc := by unfold State.raise; dsimp only; split <;> rfl
@[simp] theorem State.raise_eth (b k : Nat) : (s.raise b k).eth = s.eth := by unfold State.raise; dsimp only; split <;> rfl
@[simp] theorem State.raise_can (b k : Nat) : (s.raise b k).can = s.can := by unfold State.raise; dsimp only; split <;> rfl
@[simp] theorem State.raise_adc (b k : Nat) : (s.raise b k).adc = s.adc := by unfold State.raise; dsimp only; split <;> rfl
@[simp] theorem State.raise_therm (b k : Nat) : (s.raise b k).therm = s.therm := by unfold State.raise; dsimp only; split <;> rfl
@[simp] theorem State.raise_aux (b k : Nat) : (s.raise b k).aux = s.aux := by unfold State.raise; dsimp only; split <;> rfl
@[simp] theorem State.raise_hb (b k : Nat) : (s.raise b k).hb = s.hb := by unfold State.raise; dsimp only; split <;> rfl
@[simp] theorem State.raise_pwm (b k : Nat) : (s.raise b k).pwm = s.pwm := by unfold State.raise; dsimp only; split <;> rfl
@[simp] theorem State.raise_tripIn (b k : Nat) : (s.raise b k).tripIn = s.tripIn := by unfold State.raise; dsimp only; split <;> rfl
@[simp] theorem State.raise_safe (b k : Nat) : (s.raise b k).safe = s.safe := by unfold State.raise; dsimp only; split <;> rfl
@[simp] theorem State.raise_flt (b k : Nat) : (s.raise b k).flt = s.flt := by unfold State.raise; dsimp only; split <;> rfl
@[simp] theorem State.raise_tack (b k : Nat) : (s.raise b k).tack = s.tack := by unfold State.raise; dsimp only; split <;> rfl
@[simp] theorem State.raise_flash (b k : Nat) : (s.raise b k).flash = s.flash := by unfold State.raise; dsimp only; split <;> rfl
@[simp] theorem State.raise_upd (b k : Nat) : (s.raise b k).upd = s.upd := by unfold State.raise; dsimp only; split <;> rfl
@[simp] theorem State.raise_pair (b k : Nat) : (s.raise b k).pair = s.pair := by unfold State.raise; dsimp only; split <;> rfl
@[simp] theorem State.raise_rst (b k : Nat) : (s.raise b k).rst = s.rst := by unfold State.raise; dsimp only; split <;> rfl

end Sys2Proof.Machine
end

