-- ==== Sys2Proof/Laws/Store.lean ====
section
/-! SUPPORT. Laws of the sparse stores: what a read gives after a write, and that every write keeps the canonical form. -/

namespace Sys2Proof.Machine

variable {α : Type}

theorem KMap.get_erase_self (d : Nat → α) (m : KMap α) (k : Nat) : KMap.get d (KMap.erase m k) k = d k := by
  induction m with
  | nil => rfl
  | cons p t ih =>
    by_cases h : p.1 = k
    · simpa [KMap.erase, h] using ih
    · simpa [KMap.erase, KMap.get, h] using ih

theorem KMap.get_erase_of_ne (d : Nat → α) (m : KMap α) {k j : Nat} (h : j ≠ k) : KMap.get d (KMap.erase m k) j = KMap.get d m j := by
  induction m with
  | nil => rfl
  | cons p t ih =>
    by_cases hk : p.1 = k
    · have : p.1 ≠ j := fun e => h (e ▸ hk)
      simp [KMap.erase, KMap.get, hk, ih, Ne.symm h]
    · simp only [KMap.erase, if_neg hk, KMap.get, ih]

theorem KMap.get_insert_of_ne (d : Nat → α) (m : KMap α) {k j : Nat} (v : α) (h : j ≠ k) :
    KMap.get d (KMap.insert k v m) j = KMap.get d m j := by
  induction m with
  | nil => simp [KMap.insert, KMap.get, Ne.symm h]
  | cons p t ih =>
    by_cases hk : k < p.1
    · simp [KMap.insert, KMap.get, hk, Ne.symm h]
    · simp only [KMap.insert, if_neg hk, KMap.get, ih]

theorem KMap.get_insert_erase (d : Nat → α) (m : KMap α) (k : Nat) (v : α) :
    KMap.get d (KMap.insert k v (KMap.erase m k)) k = v := by
  induction m with
  | nil => simp [KMap.erase, KMap.insert, KMap.get]
  | cons p t ih =>
    by_cases hp : p.1 = k
    · simpa [KMap.erase, hp] using ih
    · by_cases hk : k < p.1
      · simp [KMap.erase, hp, KMap.insert, hk, KMap.get]
      · simpa [KMap.erase, hp, KMap.insert, hk, KMap.get] using ih

/-- A read of the key just written gives the value written. -/
@[simp] theorem KMap.get_set_self [DecidableEq α] (d : Nat → α) (m : KMap α) (k : Nat) (v : α) :
    KMap.get d (KMap.set d m k v) k = v := by
  unfold KMap.set
  by_cases h : v = d k
  · simp [h, KMap.get_erase_self]
  · simp [h, KMap.get_insert_erase]

/-- A write leaves every other key alone. -/
theorem KMap.get_set_of_ne [DecidableEq α] (d : Nat → α) (m : KMap α) {k j : Nat} (v : α) (h : j ≠ k) :
    KMap.get d (KMap.set d m k v) j = KMap.get d m j := by
  unfold KMap.set
  by_cases hv : v = d k
  · simp [hv, KMap.get_erase_of_ne d m h]
  · simp [hv, KMap.get_insert_of_ne d _ v h, KMap.get_erase_of_ne d m h]

/-- Read after write, both cases. -/
theorem KMap.get_set [DecidableEq α] (d : Nat → α) (m : KMap α) (k j : Nat) (v : α) :
    KMap.get d (KMap.set d m k v) j = if j = k then v else KMap.get d m j := by
  by_cases h : j = k
  · subst h; simp
  · simp [h, KMap.get_set_of_ne d m v h]

/-! ### The canonical form -/

variable [DecidableEq α]

theorem KMap.wfFrom_weaken (d : Nat → α) (m : KMap α) {lo hi : Nat} (h : lo ≤ hi) (w : KMap.wfFrom d (some hi) m = true) :
    KMap.wfFrom d (some lo) m = true := by
  cases m with
  | nil => rfl
  | cons p t =>
    simp only [KMap.wfFrom, Bool.and_eq_true, decide_eq_true_eq] at w ⊢
    exact ⟨⟨by omega, w.1.2⟩, w.2⟩

theorem KMap.wfFrom_none (d : Nat → α) (m : KMap α) (lo : Nat) (w : KMap.wfFrom d (some lo) m = true) : KMap.wfFrom d none m = true := by
  cases m with
  | nil => rfl
  | cons p t =>
    simp only [KMap.wfFrom, Bool.and_eq_true, decide_eq_true_eq] at w ⊢
    exact ⟨⟨trivial, w.1.2⟩, w.2⟩

theorem KMap.wfFrom_erase (d : Nat → α) (m : KMap α) (lo : Option Nat) (k : Nat) (w : KMap.wfFrom d lo m = true) :
    KMap.wfFrom d lo (KMap.erase m k) = true := by
  induction m generalizing lo with
  | nil => rfl
  | cons p t ih =>
    simp only [KMap.wfFrom, Bool.and_eq_true, decide_eq_true_eq] at w
    by_cases hp : p.1 = k
    · simp only [KMap.erase, hp, if_true]
      have := ih _ w.2
      cases lo with
      | none => exact KMap.wfFrom_none d _ _ this
      | some l => exact KMap.wfFrom_weaken d _ (by have := w.1.1; simp at this; omega) this
    · simp only [KMap.erase, hp, if_false, KMap.wfFrom, Bool.and_eq_true, decide_eq_true_eq]
      exact ⟨w.1, ih _ w.2⟩

theorem KMap.wfFrom_insert (d : Nat → α) (m : KMap α) (lo : Option Nat) (k : Nat) (v : α) (hv : v ≠ d k)
    (hl : ∀ l, lo = some l → l < k) (hk : ∀ p ∈ m, p.1 ≠ k) (w : KMap.wfFrom d lo m = true) :
    KMap.wfFrom d lo (KMap.insert k v m) = true := by
  induction m generalizing lo with
  | nil => cases lo <;> simp_all [KMap.insert, KMap.wfFrom]
  | cons p t ih =>
    simp only [KMap.wfFrom, Bool.and_eq_true, decide_eq_true_eq] at w
    by_cases hp : k < p.1
    · simp only [KMap.insert, hp, if_true, KMap.wfFrom, Bool.and_eq_true, decide_eq_true_eq]
      refine ⟨⟨?_, hv⟩, ⟨⟨trivial, w.1.2⟩, w.2⟩⟩
      cases lo with
      | none => rfl
      | some l => simpa using hl l rfl
    · simp only [KMap.insert, hp, if_false, KMap.wfFrom, Bool.and_eq_true, decide_eq_true_eq]
      refine ⟨w.1, ih _ ?_ (fun q hq => hk q (by simp [hq])) w.2⟩
      intro l hl'
      have : p.1 ≠ k := hk p (by simp)
      simp at hl'
      omega

omit [DecidableEq α] in
theorem KMap.not_mem_erase (m : KMap α) (k : Nat) : ∀ p ∈ KMap.erase m k, p.1 ≠ k := by
  induction m with
  | nil => simp [KMap.erase]
  | cons p t ih =>
    by_cases hp : p.1 = k
    · simpa [KMap.erase, hp] using ih
    · intro q hq
      simp only [KMap.erase, hp, if_false, List.mem_cons] at hq
      rcases hq with rfl | hq
      · exact hp
      · exact ih q hq

/-- A write keeps the canonical form. -/
theorem KMap.wf_set (d : Nat → α) (m : KMap α) (k : Nat) (v : α) (w : KMap.wf d m = true) : KMap.wf d (KMap.set d m k v) = true := by
  unfold KMap.wf KMap.set at *
  by_cases h : v = d k
  · simpa [h] using KMap.wfFrom_erase d m none k w
  · simpa [h] using KMap.wfFrom_insert d _ none k v h (by simp) (KMap.not_mem_erase m k) (KMap.wfFrom_erase d m none k w)

theorem KMap.wfFrom_iff (d : Nat → α) (m : KMap α) (lo : Option Nat) : KMap.wfFrom d lo m = true ↔
    (∀ p ∈ m, ∀ l, lo = some l → l < p.1) ∧ m.Pairwise (fun p q => p.1 < q.1) ∧ ∀ p ∈ m, p.2 ≠ d p.1 := by
  induction m generalizing lo with
  | nil => simp [KMap.wfFrom]
  | cons p t ih =>
    simp only [KMap.wfFrom, Bool.and_eq_true, decide_eq_true_eq, ih, List.pairwise_cons, List.mem_cons, forall_eq_or_imp]
    constructor
    · rintro ⟨⟨h1, h2⟩, h3, h4, h5⟩
      refine ⟨⟨?_, ?_⟩, ⟨fun q hq => h3 q hq _ rfl, h4⟩, h2, h5⟩
      · rintro l rfl
        simpa using h1
      · rintro q hq l rfl
        have : l < p.1 := by simpa using h1
        have := h3 q hq _ rfl
        omega
    · rintro ⟨⟨h1, -⟩, ⟨h3, h4⟩, h2, h5⟩
      refine ⟨⟨?_, h2⟩, fun q hq l hl => ?_, h4, h5⟩
      · cases lo with
        | none => rfl
        | some l => simpa using h1 l rfl
      · cases hl
        exact h3 q hq

/-- The canonical form: keys strictly rising, no entry equal to what its key reads as unlisted. -/
theorem KMap.wf_iff (d : Nat → α) (m : KMap α) :
    KMap.wf d m = true ↔ m.Pairwise (fun p q => p.1 < q.1) ∧ ∀ p ∈ m, p.2 ≠ d p.1 := by
  simp [KMap.wf, KMap.wfFrom_iff]

theorem KMap.erase_erase {α : Type} (m : KMap α) (k : Nat) : KMap.erase (KMap.erase m k) k = KMap.erase m k := by
  induction m with
  | nil => rfl
  | cons p t ih =>
    simp only [KMap.erase]
    split
    · exact ih
    · rename_i h
      simp only [KMap.erase, h, if_false, ih]

theorem KMap.erase_insert {α : Type} (m : KMap α) (k : Nat) (v : α) : KMap.erase (KMap.insert k v m) k = KMap.erase m k := by
  induction m with
  | nil => simp [KMap.erase, KMap.insert]
  | cons p t ih =>
    simp only [KMap.insert]
    split
    · simp only [KMap.erase, if_true]
    · simp only [KMap.erase, ih]

/-- A later write of a key takes the place of an earlier one. -/
theorem KMap.set_set {α : Type} [DecidableEq α] (d : Nat → α) (m : KMap α) (k : Nat) (v w : α) :
    KMap.set d (KMap.set d m k v) k w = KMap.set d m k w := by
  have e : KMap.erase (KMap.set d m k v) k = KMap.erase m k := by
    unfold KMap.set
    split
    · exact KMap.erase_erase m k
    · rw [KMap.erase_insert, KMap.erase_erase]
  show (if w = d k then _ else _) = (if w = d k then _ else _)
  rw [e]

end Sys2Proof.Machine
end

