-- ==== Sys2Proof/Laws/Ops.lean ====
section
/-! SUPPORT. Laws of the register operations: what a register, a field or a byte reads after each, and that each keeps the canonical form
of the stores. -/

namespace Sys2Proof.Machine

variable (s : State)

/-! ### Registers -/

theorem State.reg_setReg (a b : Nat) (w : Word) : (s.setReg a w).reg b = if b = a then w else s.reg b :=
  KMap.get_set _ _ _ _ _

@[simp] theorem State.reg_setReg_self (a : Nat) (w : Word) : (s.setReg a w).reg a = w := KMap.get_set_self _ _ _ _

theorem State.reg_setReg_of_ne {a b : Nat} (w : Word) (h : b ≠ a) : (s.setReg a w).reg b = s.reg b := KMap.get_set_of_ne _ _ _ h

@[simp] theorem State.reg_put_self (f : Fld) (v : Nat) : (s.put f v).reg f.reg = f.write (s.reg f.reg) v := State.reg_setReg_self _ _ _

theorem State.reg_put_of_ne {f : Fld} {a : Nat} (v : Nat) (h : a ≠ f.reg) : (s.put f v).reg a = s.reg a := State.reg_setReg_of_ne _ _ h

/-- A field just put reads as the value put, cut to its length. -/
theorem State.get_put_self (f : Fld) (v : Nat) (h : f.lo + f.len ≤ 32) : (s.put f v).get f = v % 2 ^ f.len := by
  simp [State.get, Fld.read_write_self _ _ _ h]

/-- A field of another register keeps its value. -/
theorem State.get_put_of_reg_ne {f g : Fld} (v : Nat) (h : g.reg ≠ f.reg) : (s.put f v).get g = s.get g := by
  simp [State.get, State.reg_put_of_ne _ _ h]

/-- A field of the same register that shares no bit keeps its value. -/
theorem State.get_put_of_disjoint {f g : Fld} (v : Nat) (h : g.lo + g.len ≤ 32)
    (hd : g.lo + g.len ≤ f.lo ∨ f.lo + f.len ≤ g.lo) : (s.put f v).get g = s.get g := by
  by_cases hr : g.reg = f.reg
  · unfold State.get
    rw [hr, State.reg_put_self, Fld.read_write_of_disjoint _ _ _ _ h hd]
  · exact State.get_put_of_reg_ne _ _ hr

theorem State.get_lt (f : Fld) : s.get f < 2 ^ f.len := Fld.read_lt _ _

theorem State.reg_cnt_of_ne {f : Fld} {a : Nat} (n : Nat) (h : a ≠ f.reg) : (s.cnt f n).reg a = s.reg a := State.reg_put_of_ne _ _ h

/-- A counter rises and saturates at its width. -/
theorem State.get_cnt_self (f : Fld) (n : Nat) (h : f.lo + f.len ≤ 32) :
    (s.cnt f n).get f = min (s.get f + n) (2 ^ f.len - 1) := by
  unfold State.cnt
  rw [State.get_put_self _ _ _ h, Nat.mod_eq_of_lt]
  have := Nat.two_pow_pos f.len
  omega

theorem State.get_cnt_of_reg_ne {f g : Fld} (n : Nat) (h : g.reg ≠ f.reg) : (s.cnt f n).get g = s.get g :=
  State.get_put_of_reg_ne _ _ h

theorem State.reg_setBitOf_of_ne {f : Fld} {a : Nat} (i : Nat) (h : a ≠ f.reg) : (s.setBitOf f i).reg a = s.reg a :=
  State.reg_put_of_ne _ _ h

theorem State.get_setBitOf_self (f : Fld) (i : Nat) (h : f.lo + f.len ≤ 32) (hi : i < f.len) :
    (s.setBitOf f i).get f = setBit (s.get f) i := by
  unfold State.setBitOf
  rw [State.get_put_self _ _ _ h, Nat.mod_eq_of_lt]
  have h1 := State.get_lt s f
  unfold Sys2Proof.Machine.setBit
  apply Nat.or_lt_two_pow h1
  rw [Nat.one_shiftLeft]
  exact Nat.pow_lt_pow_right (by omega) hi

/-- A bit just set reads 1. -/
theorem State.bitOf_setBitOf_self (f : Fld) (i : Nat) (h : f.lo + f.len ≤ 32) (hi : i < f.len) : (s.setBitOf f i).bitOf f i = true := by
  unfold State.bitOf
  rw [State.get_setBitOf_self _ _ _ h hi]
  simp [Sys2Proof.Machine.setBit, Nat.testBit_shiftLeft]

/-! ### Events -/

@[simp] theorem State.regs_pushOcc (e i : Nat) (h v : Bool) : (s.pushOcc e i h v).regs = s.regs := rfl

@[simp] theorem State.reg_pushOcc (e i : Nat) (h v : Bool) (a : Nat) : (s.pushOcc e i h v).reg a = s.reg a := rfl

theorem State.reg_raise (b k a : Nat) : (s.raise b k).reg a = (s.setBitOf (F.evtRaw b) k).reg a := by
  unfold State.raise
  dsimp only
  split <;> rfl

/-- An occurrence changes no register but its block's EVT_RAW. -/
theorem State.reg_raise_of_ne {b a : Nat} (k : Nat) (h : a ≠ b + 0x10) : (s.raise b k).reg a = s.reg a := by
  rw [State.reg_raise, State.reg_setBitOf_of_ne]
  exact h

theorem State.get_raise_of_ne {b : Nat} {g : Fld} (k : Nat) (h : g.reg ≠ b + 0x10) : (s.raise b k).get g = s.get g := by
  unfold State.get
  rw [State.reg_raise_of_ne _ _ h]

/-- An occurrence sets its bit of EVT_RAW. -/
theorem State.bitOf_raise (b k : Nat) (hk : k < 16) : (s.raise b k).bitOf (F.evtRaw b) k = true := by
  have : (s.raise b k).bitOf (F.evtRaw b) k = (s.setBitOf (F.evtRaw b) k).bitOf (F.evtRaw b) k := by
    simp only [State.bitOf, State.get, State.reg_raise]
  rw [this, State.bitOf_setBitOf_self _ _ _ (by simp [F.evtRaw]) (by simpa [F.evtRaw] using hk)]

/-! ### Reads that other updates do not touch -/

@[simp] theorem State.reg_emit (o : Output) (a : Nat) : (s.emit o).reg a = s.reg a := rfl
@[simp] theorem State.reg_drew (a : Nat) : s.drew.reg a = s.reg a := rfl
@[simp] theorem State.reg_noteDrop (a : Nat) : s.noteDrop.reg a = s.reg a := rfl
@[simp] theorem State.reg_setByte (b : Nat) (x : Byte) (a : Nat) : (s.setByte b x).reg a = s.reg a := rfl
@[simp] theorem State.reg_setRes (b : Nat) (r : Res) (a : Nat) : (s.setRes b r).reg a = s.reg a := rfl
@[simp] theorem State.reg_setFifo (b : Nat) (l : List (Nat × Nat)) (a : Nat) : (s.setFifo b l).reg a = s.reg a := rfl
@[simp] theorem State.reg_complete (b v a : Nat) : (s.complete b v).reg a = s.reg a := rfl
@[simp] theorem State.reg_advance (n a : Nat) : (s.advance n).reg a = s.reg a := by cases s; rfl

/-! ### Memory bytes -/

@[simp] theorem State.byte_setByte_self (a : Nat) (b : Byte) : (s.setByte a b).byte a = b := KMap.get_set_self _ _ _ _

theorem State.byte_setByte_of_ne {a c : Nat} (b : Byte) (h : c ≠ a) : (s.setByte a b).byte c = s.byte c := KMap.get_set_of_ne _ _ _ h

/-- Storing bytes leaves every byte outside them alone. -/
theorem State.byte_storeBytes (l : List Byte) (a c : Nat) (h : c < a ∨ a + l.length ≤ c) : (s.storeBytes a l).byte c = s.byte c := by
  induction l generalizing s a with
  | nil => rfl
  | cons b t ih =>
    simp only [List.length_cons] at h
    rw [State.storeBytes, ih _ _ (by omega), State.byte_setByte_of_ne _ _ (by omega)]

theorem bytesLE_length (n v : Nat) : (bytesLE n v).length = n := by
  induction n generalizing v with
  | zero => rfl
  | succ k ih => simp [bytesLE, ih]

/-- A store of `n` bytes leaves every byte outside them alone. -/
theorem State.byte_store (a n v c : Nat) (h : c < a ∨ a + n ≤ c) : (s.store a n v).byte c = s.byte c := by
  unfold State.store
  exact State.byte_storeBytes _ _ _ _ (by rwa [bytesLE_length])

/-- Reading byte `i` of a list of bytes just stored. -/
theorem State.byte_storeBytes_get (l : List Byte) (a i : Nat) (h : i < l.length) : (s.storeBytes a l).byte (a + i) = l[i] := by
  induction l generalizing s a i with
  | nil => simp at h
  | cons b t ih =>
    rw [State.storeBytes]
    cases i with
    | zero => rw [State.byte_storeBytes _ _ _ _ (by omega)]; simp
    | succ j =>
      rw [show a + (j + 1) = (a + 1) + j by omega, ih _ _ _ (by simpa using h)]
      simp

/-! ### Fields through other updates -/

theorem State.get_setReg_of_ne {a : Nat} {g : Fld} (w : Word) (h : g.reg ≠ a) : (s.setReg a w).get g = s.get g := by
  unfold State.get
  rw [State.reg_setReg_of_ne _ _ h]

theorem State.get_setReg_self {a : Nat} {g : Fld} (w : Word) (h : g.reg = a) : (s.setReg a w).get g = g.read w := by
  unfold State.get
  rw [h, State.reg_setReg_self]

@[simp] theorem State.get_emit (o : Output) (g : Fld) : (s.emit o).get g = s.get g := rfl
@[simp] theorem State.get_drew (g : Fld) : s.drew.get g = s.get g := rfl
@[simp] theorem State.get_noteDrop (g : Fld) : s.noteDrop.get g = s.get g := rfl
@[simp] theorem State.get_setByte (b : Nat) (x : Byte) (g : Fld) : (s.setByte b x).get g = s.get g := rfl
@[simp] theorem State.get_setRes (b : Nat) (r : Res) (g : Fld) : (s.setRes b r).get g = s.get g := rfl
@[simp] theorem State.get_setFifo (b : Nat) (l : List (Nat × Nat)) (g : Fld) : (s.setFifo b l).get g = s.get g := rfl
@[simp] theorem State.get_complete (b v : Nat) (g : Fld) : (s.complete b v).get g = s.get g := rfl
@[simp] theorem State.get_startRes (b : Nat) (g : Fld) : (s.startRes b).get g = s.get g := rfl
@[simp] theorem State.get_stopRes (b : Nat) (g : Fld) : (s.stopRes b).get g = s.get g := rfl
@[simp] theorem State.get_advance (n : Nat) (g : Fld) : (s.advance n).get g = s.get g := by cases s; rfl
@[simp] theorem State.get_until (n : Nat) (g : Fld) : (s.until n).get g = s.get g := by cases s; rfl
@[simp] theorem State.get_pushOcc (e i : Nat) (h v : Bool) (g : Fld) : (s.pushOcc e i h v).get g = s.get g := rfl
@[simp] theorem State.reg_until (n a : Nat) : (s.until n).reg a = s.reg a := by cases s; rfl

/-- Time only passes forward. -/
theorem State.until_now (n : Nat) : (s.until n).now = max s.now n := by
  simp only [State.until, State.advance]
  omega

/-! ### Reads of a state written out field by field, and of its stores -/

@[simp] theorem State.reg_mk {x0 x1 x4 x5 x6 x7 x8 x9 x10 x11 x12 x13 x14 x15 x16 x17 x18 x19 x20 x21 x22 x23 x24 x25 x26 x27 x28
    x29 x30 x31 x32 x33 x34 x35 x36 x37 x38 x39 x40 x41 x42 x43 x44} (r : KMap Word) (m : KMap Byte) (a : Nat) : (State.mk x0 x1 r
    m x4 x5 x6 x7 x8 x9 x10 x11 x12 x13 x14 x15 x16 x17 x18 x19 x20 x21 x22 x23 x24 x25 x26 x27 x28 x29 x30 x31 x32 x33 x34 x35
    x36 x37 x38 x39 x40 x41 x42 x43 x44).reg a = KMap.get RegMap.resetWord r a := rfl

@[simp] theorem State.byte_mk {x0 x1 x4 x5 x6 x7 x8 x9 x10 x11 x12 x13 x14 x15 x16 x17 x18 x19 x20 x21 x22 x23 x24 x25 x26 x27 x28
    x29 x30 x31 x32 x33 x34 x35 x36 x37 x38 x39 x40 x41 x42 x43 x44} (r : KMap Word) (m : KMap Byte) (a : Nat) : (State.mk x0 x1 r
    m x4 x5 x6 x7 x8 x9 x10 x11 x12 x13 x14 x15 x16 x17 x18 x19 x20 x21 x22 x23 x24 x25 x26 x27 x28 x29 x30 x31 x32 x33 x34 x35
    x36 x37 x38 x39 x40 x41 x42 x43 x44).byte a = KMap.get memDefault m a := rfl

@[simp] theorem State.get_mk {x0 x1 x4 x5 x6 x7 x8 x9 x10 x11 x12 x13 x14 x15 x16 x17 x18 x19 x20 x21 x22 x23 x24 x25 x26 x27 x28
    x29 x30 x31 x32 x33 x34 x35 x36 x37 x38 x39 x40 x41 x42 x43 x44} (r : KMap Word) (m : KMap Byte) (f : Fld) : (State.mk x0 x1 r
    m x4 x5 x6 x7 x8 x9 x10 x11 x12 x13 x14 x15 x16 x17 x18 x19 x20 x21 x22 x23 x24 x25 x26 x27 x28 x29 x30 x31 x32 x33 x34 x35
    x36 x37 x38 x39 x40 x41 x42 x43 x44).get f = f.read (KMap.get RegMap.resetWord r f.reg) := rfl

@[simp] theorem State.reg_fold (a : Nat) : KMap.get RegMap.resetWord s.regs a = s.reg a := rfl

@[simp] theorem State.byte_fold (a : Nat) : KMap.get memDefault s.mem a = s.byte a := rfl

@[simp] theorem State.get_fold (f : Fld) : f.read (s.reg f.reg) = s.get f := rfl

theorem State.reg_untilCtb (n a : Nat) : (s.untilCtb n).reg a = s.reg a := State.reg_advance s _ a

theorem State.get_untilCtb (n : Nat) (g : Fld) : (s.untilCtb n).get g = s.get g := by
  unfold State.get
  rw [State.reg_untilCtb]

end Sys2Proof.Machine
end

