-- ==== Sys2Proof/Laws/Keeps.lean ====
section
/-! SUPPORT. What an operation keeps: the queue, the canonical form of the stores, and every part of State it does not touch. The relation,
its laws, and the elementary updates. -/

namespace Sys2Proof.Machine

/-- The bits of `t` are among those of `m`. -/
def Sub (t m : Nat) : Prop := t ||| m = m

theorem Sub.of {a b m : Nat} (h : Sub b m) (g : a ||| b = b) : Sub a m := by
  unfold Sub at *
  calc a ||| m = a ||| (b ||| m) := by rw [h]
    _ = (a ||| b) ||| m := by rw [Nat.or_assoc]
    _ = m := by rw [g, h]

theorem Sub.bit {t m i : Nat} (h : Sub t m) (g : t.testBit i = true) : m.testBit i = true := by
  unfold Sub at h
  rw [← h, Nat.testBit_or, g, Bool.true_or]

/-- From `s` to `t` the queue is the same, stores in canonical form stay so, and every part outside `m` is the same. -/
structure Keeps (m : Nat) (s t : State) : Prop where
  pending : t.pending = s.pending
  regs : KMap.wf RegMap.resetWord s.regs = true → KMap.wf RegMap.resetWord t.regs = true
  mem : KMap.wf memDefault s.mem = true → KMap.wf memDefault t.mem = true
  parts : ∀ p : Part, m.testBit p.ix = false → p.same s t

/-- The same of an outcome, where it is a next state. -/
def KeepsO (m : Nat) (s : State) (o : Host.Outcome State Fault Refusal) : Prop := ∀ t, o = .next t → Keeps m s t

theorem Part.same_refl (p : Part) (s : State) : p.same s s := by cases p <;> rfl

theorem Part.same_trans {p : Part} {s t u : State} (h : p.same s t) (g : p.same t u) : p.same s u := by
  cases p <;> exact Eq.trans g h

theorem Keeps.refl (m : Nat) (s : State) : Keeps m s s := ⟨rfl, id, id, fun p _ => p.same_refl s⟩

theorem Keeps.trans {m : Nat} {s t u : State} (h : Keeps m s t) (g : Keeps m t u) : Keeps m s u :=
  ⟨g.pending.trans h.pending, fun w => g.regs (h.regs w), fun w => g.mem (h.mem w), fun p hp => Part.same_trans (h.parts p hp) (g.parts p hp)⟩

theorem KeepsO.next {m : Nat} {s t : State} (h : Keeps m s t) : KeepsO m s (.next t) := fun u e => by cases e; exact h

theorem Keeps.ite {m : Nat} {r s t : State} {c : Prop} [Decidable c] (h : Keeps m r s) (g : Keeps m r t) :
    Keeps m r (if c then s else t) := by
  split <;> assumption

theorem Keeps.foldl {α : Type} {m : Nat} {s t : State} {l : List α} {f : State → α → State} (h : Keeps m s t)
    (hf : ∀ u x, Keeps m s u → Keeps m s (f u x)) : Keeps m s (l.foldl f t) := by
  induction l generalizing t with
  | nil => exact h
  | cons x l ih => exact ih (hf _ _ h)

/-! Updates of fields, by the fields they replace. -/

theorem Keeps.upd_now_time_rtc {m : Nat} {s t : State} {x_now x_time x_rtc} (h : Keeps m s t)
    (hm : Sub 402653186 m := by exact hm.of (by decide)) : Keeps m s (State.mk t.pending x_now t.regs t.mem t.readData t.wrDrop
    t.out t.freeIx t.guards t.results t.fifos t.fifoIn t.spills t.captures t.cmd t.cmdEnded t.restartPend t.host t.yard t.links
    t.linkLanes t.conv t.convNext t.lanes t.edge t.bal t.cme x_time x_rtc t.eth t.can t.adc t.therm t.aux t.hb t.pwm t.tripIn
    t.safe t.evt t.flt t.tack t.flash t.upd t.pair t.rst) :=
  ⟨h.pending, h.regs, h.mem, fun p hp => by
    cases p <;> first | exact h.parts _ hp | exact absurd (hp.symm.trans (hm.bit (by decide))) (by decide)⟩

theorem Keeps.upd_regs {m : Nat} {s t : State} {x_regs} (h : Keeps m s t) (hregs : KMap.wf RegMap.resetWord t.regs = true →
    KMap.wf RegMap.resetWord x_regs = true) (hm : Sub 4 m := by exact hm.of (by decide)) : Keeps m s (State.mk t.pending t.now
    x_regs t.mem t.readData t.wrDrop t.out t.freeIx t.guards t.results t.fifos t.fifoIn t.spills t.captures t.cmd t.cmdEnded
    t.restartPend t.host t.yard t.links t.linkLanes t.conv t.convNext t.lanes t.edge t.bal t.cme t.time t.rtc t.eth t.can t.adc
    t.therm t.aux t.hb t.pwm t.tripIn t.safe t.evt t.flt t.tack t.flash t.upd t.pair t.rst) :=
  ⟨h.pending, fun w => hregs (h.regs w), h.mem, fun p hp => by
    cases p <;> first | exact h.parts _ hp | exact absurd (hp.symm.trans (hm.bit (by decide))) (by decide)⟩

theorem
    Keeps.upd_regs_mem_readData_wrDrop_guards_results_fifos_fifoIn_spills_captures_cmd_cmdEnded_restartPend_host_yard_links_linkLanes_conv_convNext_lanes_edge_bal_cme_time_rtc_eth_can_adc_therm_aux_hb_pwm_tripIn_safe_evt_flt_tack_upd_pair
    {m : Nat} {s t : State} {x_regs x_mem x_readData x_wrDrop x_guards x_results x_fifos x_fifoIn x_spills x_captures x_cmd
    x_cmdEnded x_restartPend x_host x_yard x_links x_linkLanes x_conv x_convNext x_lanes x_edge x_bal x_cme x_time x_rtc x_eth
    x_can x_adc x_therm x_aux x_hb x_pwm x_tripIn x_safe x_evt x_flt x_tack x_upd x_pair} (h : Keeps m s t) (hregs : KMap.wf
    RegMap.resetWord t.regs = true → KMap.wf RegMap.resetWord x_regs = true) (hmem : KMap.wf memDefault t.mem = true → KMap.wf
    memDefault x_mem = true) (hm : Sub 15393162788668 m := by exact hm.of (by decide)) : Keeps m s (State.mk t.pending t.now
    x_regs x_mem x_readData x_wrDrop t.out t.freeIx x_guards x_results x_fifos x_fifoIn x_spills x_captures x_cmd x_cmdEnded
    x_restartPend x_host x_yard x_links x_linkLanes x_conv x_convNext x_lanes x_edge x_bal x_cme x_time x_rtc x_eth x_can x_adc
    x_therm x_aux x_hb x_pwm x_tripIn x_safe x_evt x_flt x_tack t.flash x_upd x_pair t.rst) :=
  ⟨h.pending, fun w => hregs (h.regs w), fun w => hmem (h.mem w), fun p hp => by
    cases p <;> first | exact h.parts _ hp | exact absurd (hp.symm.trans (hm.bit (by decide))) (by decide)⟩

theorem Keeps.upd_mem {m : Nat} {s t : State} {x_mem} (h : Keeps m s t) (hmem : KMap.wf memDefault t.mem = true → KMap.wf
    memDefault x_mem = true) (hm : Sub 8 m := by exact hm.of (by decide)) : Keeps m s (State.mk t.pending t.now t.regs x_mem
    t.readData t.wrDrop t.out t.freeIx t.guards t.results t.fifos t.fifoIn t.spills t.captures t.cmd t.cmdEnded t.restartPend
    t.host t.yard t.links t.linkLanes t.conv t.convNext t.lanes t.edge t.bal t.cme t.time t.rtc t.eth t.can t.adc t.therm t.aux
    t.hb t.pwm t.tripIn t.safe t.evt t.flt t.tack t.flash t.upd t.pair t.rst) :=
  ⟨h.pending, h.regs, fun w => hmem (h.mem w), fun p hp => by
    cases p <;> first | exact h.parts _ hp | exact absurd (hp.symm.trans (hm.bit (by decide))) (by decide)⟩

theorem Keeps.upd_mem_flt {m : Nat} {s t : State} {x_mem x_flt} (h : Keeps m s t) (hmem : KMap.wf memDefault t.mem = true →
    KMap.wf memDefault x_mem = true) (hm : Sub 549755813896 m := by exact hm.of (by decide)) : Keeps m s (State.mk t.pending t.now
    t.regs x_mem t.readData t.wrDrop t.out t.freeIx t.guards t.results t.fifos t.fifoIn t.spills t.captures t.cmd t.cmdEnded
    t.restartPend t.host t.yard t.links t.linkLanes t.conv t.convNext t.lanes t.edge t.bal t.cme t.time t.rtc t.eth t.can t.adc
    t.therm t.aux t.hb t.pwm t.tripIn t.safe t.evt x_flt t.tack t.flash t.upd t.pair t.rst) :=
  ⟨h.pending, h.regs, fun w => hmem (h.mem w), fun p hp => by
    cases p <;> first | exact h.parts _ hp | exact absurd (hp.symm.trans (hm.bit (by decide))) (by decide)⟩

theorem Keeps.upd_readData {m : Nat} {s t : State} {x_readData} (h : Keeps m s t) (hm : Sub 16 m := by exact hm.of (by decide)) :
    Keeps m s (State.mk t.pending t.now t.regs t.mem x_readData t.wrDrop t.out t.freeIx t.guards t.results t.fifos t.fifoIn
    t.spills t.captures t.cmd t.cmdEnded t.restartPend t.host t.yard t.links t.linkLanes t.conv t.convNext t.lanes t.edge t.bal
    t.cme t.time t.rtc t.eth t.can t.adc t.therm t.aux t.hb t.pwm t.tripIn t.safe t.evt t.flt t.tack t.flash t.upd t.pair t.rst)
    :=
  ⟨h.pending, h.regs, h.mem, fun p hp => by
    cases p <;> first | exact h.parts _ hp | exact absurd (hp.symm.trans (hm.bit (by decide))) (by decide)⟩

theorem Keeps.upd_readData_freeIx {m : Nat} {s t : State} {x_readData x_freeIx} (h : Keeps m s t)
    (hm : Sub 144 m := by exact hm.of (by decide)) : Keeps m s (State.mk t.pending t.now t.regs t.mem x_readData t.wrDrop t.out
    x_freeIx t.guards t.results t.fifos t.fifoIn t.spills t.captures t.cmd t.cmdEnded t.restartPend t.host t.yard t.links
    t.linkLanes t.conv t.convNext t.lanes t.edge t.bal t.cme t.time t.rtc t.eth t.can t.adc t.therm t.aux t.hb t.pwm t.tripIn
    t.safe t.evt t.flt t.tack t.flash t.upd t.pair t.rst) :=
  ⟨h.pending, h.regs, h.mem, fun p hp => by
    cases p <;> first | exact h.parts _ hp | exact absurd (hp.symm.trans (hm.bit (by decide))) (by decide)⟩

theorem Keeps.upd_wrDrop {m : Nat} {s t : State} {x_wrDrop} (h : Keeps m s t) (hm : Sub 32 m := by exact hm.of (by decide)) :
    Keeps m s (State.mk t.pending t.now t.regs t.mem t.readData x_wrDrop t.out t.freeIx t.guards t.results t.fifos t.fifoIn
    t.spills t.captures t.cmd t.cmdEnded t.restartPend t.host t.yard t.links t.linkLanes t.conv t.convNext t.lanes t.edge t.bal
    t.cme t.time t.rtc t.eth t.can t.adc t.therm t.aux t.hb t.pwm t.tripIn t.safe t.evt t.flt t.tack t.flash t.upd t.pair t.rst)
    :=
  ⟨h.pending, h.regs, h.mem, fun p hp => by
    cases p <;> first | exact h.parts _ hp | exact absurd (hp.symm.trans (hm.bit (by decide))) (by decide)⟩

theorem Keeps.upd_out {m : Nat} {s t : State} {x_out} (h : Keeps m s t) (hm : Sub 64 m := by exact hm.of (by decide)) : Keeps m s
    (State.mk t.pending t.now t.regs t.mem t.readData t.wrDrop x_out t.freeIx t.guards t.results t.fifos t.fifoIn t.spills
    t.captures t.cmd t.cmdEnded t.restartPend t.host t.yard t.links t.linkLanes t.conv t.convNext t.lanes t.edge t.bal t.cme
    t.time t.rtc t.eth t.can t.adc t.therm t.aux t.hb t.pwm t.tripIn t.safe t.evt t.flt t.tack t.flash t.upd t.pair t.rst) :=
  ⟨h.pending, h.regs, h.mem, fun p hp => by
    cases p <;> first | exact h.parts _ hp | exact absurd (hp.symm.trans (hm.bit (by decide))) (by decide)⟩

theorem Keeps.upd_freeIx {m : Nat} {s t : State} {x_freeIx} (h : Keeps m s t) (hm : Sub 128 m := by exact hm.of (by decide)) :
    Keeps m s (State.mk t.pending t.now t.regs t.mem t.readData t.wrDrop t.out x_freeIx t.guards t.results t.fifos t.fifoIn
    t.spills t.captures t.cmd t.cmdEnded t.restartPend t.host t.yard t.links t.linkLanes t.conv t.convNext t.lanes t.edge t.bal
    t.cme t.time t.rtc t.eth t.can t.adc t.therm t.aux t.hb t.pwm t.tripIn t.safe t.evt t.flt t.tack t.flash t.upd t.pair t.rst)
    :=
  ⟨h.pending, h.regs, h.mem, fun p hp => by
    cases p <;> first | exact h.parts _ hp | exact absurd (hp.symm.trans (hm.bit (by decide))) (by decide)⟩

theorem Keeps.upd_freeIx_cme {m : Nat} {s t : State} {x_freeIx x_cme} (h : Keeps m s t)
    (hm : Sub 67108992 m := by exact hm.of (by decide)) : Keeps m s (State.mk t.pending t.now t.regs t.mem t.readData t.wrDrop
    t.out x_freeIx t.guards t.results t.fifos t.fifoIn t.spills t.captures t.cmd t.cmdEnded t.restartPend t.host t.yard t.links
    t.linkLanes t.conv t.convNext t.lanes t.edge t.bal x_cme t.time t.rtc t.eth t.can t.adc t.therm t.aux t.hb t.pwm t.tripIn
    t.safe t.evt t.flt t.tack t.flash t.upd t.pair t.rst) :=
  ⟨h.pending, h.regs, h.mem, fun p hp => by
    cases p <;> first | exact h.parts _ hp | exact absurd (hp.symm.trans (hm.bit (by decide))) (by decide)⟩

theorem Keeps.upd_freeIx_adc {m : Nat} {s t : State} {x_freeIx x_adc} (h : Keeps m s t)
    (hm : Sub 2147483776 m := by exact hm.of (by decide)) : Keeps m s (State.mk t.pending t.now t.regs t.mem t.readData t.wrDrop
    t.out x_freeIx t.guards t.results t.fifos t.fifoIn t.spills t.captures t.cmd t.cmdEnded t.restartPend t.host t.yard t.links
    t.linkLanes t.conv t.convNext t.lanes t.edge t.bal t.cme t.time t.rtc t.eth t.can x_adc t.therm t.aux t.hb t.pwm t.tripIn
    t.safe t.evt t.flt t.tack t.flash t.upd t.pair t.rst) :=
  ⟨h.pending, h.regs, h.mem, fun p hp => by
    cases p <;> first | exact h.parts _ hp | exact absurd (hp.symm.trans (hm.bit (by decide))) (by decide)⟩

theorem Keeps.upd_guards {m : Nat} {s t : State} {x_guards} (h : Keeps m s t) (hm : Sub 256 m := by exact hm.of (by decide)) :
    Keeps m s (State.mk t.pending t.now t.regs t.mem t.readData t.wrDrop t.out t.freeIx x_guards t.results t.fifos t.fifoIn
    t.spills t.captures t.cmd t.cmdEnded t.restartPend t.host t.yard t.links t.linkLanes t.conv t.convNext t.lanes t.edge t.bal
    t.cme t.time t.rtc t.eth t.can t.adc t.therm t.aux t.hb t.pwm t.tripIn t.safe t.evt t.flt t.tack t.flash t.upd t.pair t.rst)
    :=
  ⟨h.pending, h.regs, h.mem, fun p hp => by
    cases p <;> first | exact h.parts _ hp | exact absurd (hp.symm.trans (hm.bit (by decide))) (by decide)⟩

theorem Keeps.upd_results {m : Nat} {s t : State} {x_results} (h : Keeps m s t) (hm : Sub 512 m := by exact hm.of (by decide)) :
    Keeps m s (State.mk t.pending t.now t.regs t.mem t.readData t.wrDrop t.out t.freeIx t.guards x_results t.fifos t.fifoIn
    t.spills t.captures t.cmd t.cmdEnded t.restartPend t.host t.yard t.links t.linkLanes t.conv t.convNext t.lanes t.edge t.bal
    t.cme t.time t.rtc t.eth t.can t.adc t.therm t.aux t.hb t.pwm t.tripIn t.safe t.evt t.flt t.tack t.flash t.upd t.pair t.rst)
    :=
  ⟨h.pending, h.regs, h.mem, fun p hp => by
    cases p <;> first | exact h.parts _ hp | exact absurd (hp.symm.trans (hm.bit (by decide))) (by decide)⟩

theorem Keeps.upd_fifos {m : Nat} {s t : State} {x_fifos} (h : Keeps m s t) (hm : Sub 1024 m := by exact hm.of (by decide)) :
    Keeps m s (State.mk t.pending t.now t.regs t.mem t.readData t.wrDrop t.out t.freeIx t.guards t.results x_fifos t.fifoIn
    t.spills t.captures t.cmd t.cmdEnded t.restartPend t.host t.yard t.links t.linkLanes t.conv t.convNext t.lanes t.edge t.bal
    t.cme t.time t.rtc t.eth t.can t.adc t.therm t.aux t.hb t.pwm t.tripIn t.safe t.evt t.flt t.tack t.flash t.upd t.pair t.rst)
    :=
  ⟨h.pending, h.regs, h.mem, fun p hp => by
    cases p <;> first | exact h.parts _ hp | exact absurd (hp.symm.trans (hm.bit (by decide))) (by decide)⟩

theorem Keeps.upd_fifoIn {m : Nat} {s t : State} {x_fifoIn} (h : Keeps m s t) (hm : Sub 2048 m := by exact hm.of (by decide)) :
    Keeps m s (State.mk t.pending t.now t.regs t.mem t.readData t.wrDrop t.out t.freeIx t.guards t.results t.fifos x_fifoIn
    t.spills t.captures t.cmd t.cmdEnded t.restartPend t.host t.yard t.links t.linkLanes t.conv t.convNext t.lanes t.edge t.bal
    t.cme t.time t.rtc t.eth t.can t.adc t.therm t.aux t.hb t.pwm t.tripIn t.safe t.evt t.flt t.tack t.flash t.upd t.pair t.rst)
    :=
  ⟨h.pending, h.regs, h.mem, fun p hp => by
    cases p <;> first | exact h.parts _ hp | exact absurd (hp.symm.trans (hm.bit (by decide))) (by decide)⟩

theorem Keeps.upd_spills {m : Nat} {s t : State} {x_spills} (h : Keeps m s t) (hm : Sub 4096 m := by exact hm.of (by decide)) :
    Keeps m s (State.mk t.pending t.now t.regs t.mem t.readData t.wrDrop t.out t.freeIx t.guards t.results t.fifos t.fifoIn
    x_spills t.captures t.cmd t.cmdEnded t.restartPend t.host t.yard t.links t.linkLanes t.conv t.convNext t.lanes t.edge t.bal
    t.cme t.time t.rtc t.eth t.can t.adc t.therm t.aux t.hb t.pwm t.tripIn t.safe t.evt t.flt t.tack t.flash t.upd t.pair t.rst)
    :=
  ⟨h.pending, h.regs, h.mem, fun p hp => by
    cases p <;> first | exact h.parts _ hp | exact absurd (hp.symm.trans (hm.bit (by decide))) (by decide)⟩

theorem Keeps.upd_captures {m : Nat} {s t : State} {x_captures} (h : Keeps m s t) (hm : Sub 8192 m := by exact hm.of (by decide))
    : Keeps m s (State.mk t.pending t.now t.regs t.mem t.readData t.wrDrop t.out t.freeIx t.guards t.results t.fifos t.fifoIn
    t.spills x_captures t.cmd t.cmdEnded t.restartPend t.host t.yard t.links t.linkLanes t.conv t.convNext t.lanes t.edge t.bal
    t.cme t.time t.rtc t.eth t.can t.adc t.therm t.aux t.hb t.pwm t.tripIn t.safe t.evt t.flt t.tack t.flash t.upd t.pair t.rst)
    :=
  ⟨h.pending, h.regs, h.mem, fun p hp => by
    cases p <;> first | exact h.parts _ hp | exact absurd (hp.symm.trans (hm.bit (by decide))) (by decide)⟩

theorem Keeps.upd_cmd {m : Nat} {s t : State} {x_cmd} (h : Keeps m s t) (hm : Sub 16384 m := by exact hm.of (by decide)) : Keeps m
    s (State.mk t.pending t.now t.regs t.mem t.readData t.wrDrop t.out t.freeIx t.guards t.results t.fifos t.fifoIn t.spills
    t.captures x_cmd t.cmdEnded t.restartPend t.host t.yard t.links t.linkLanes t.conv t.convNext t.lanes t.edge t.bal t.cme
    t.time t.rtc t.eth t.can t.adc t.therm t.aux t.hb t.pwm t.tripIn t.safe t.evt t.flt t.tack t.flash t.upd t.pair t.rst) :=
  ⟨h.pending, h.regs, h.mem, fun p hp => by
    cases p <;> first | exact h.parts _ hp | exact absurd (hp.symm.trans (hm.bit (by decide))) (by decide)⟩

theorem Keeps.upd_cmd_cmdEnded {m : Nat} {s t : State} {x_cmd x_cmdEnded} (h : Keeps m s t)
    (hm : Sub 49152 m := by exact hm.of (by decide)) : Keeps m s (State.mk t.pending t.now t.regs t.mem t.readData t.wrDrop t.out
    t.freeIx t.guards t.results t.fifos t.fifoIn t.spills t.captures x_cmd x_cmdEnded t.restartPend t.host t.yard t.links
    t.linkLanes t.conv t.convNext t.lanes t.edge t.bal t.cme t.time t.rtc t.eth t.can t.adc t.therm t.aux t.hb t.pwm t.tripIn
    t.safe t.evt t.flt t.tack t.flash t.upd t.pair t.rst) :=
  ⟨h.pending, h.regs, h.mem, fun p hp => by
    cases p <;> first | exact h.parts _ hp | exact absurd (hp.symm.trans (hm.bit (by decide))) (by decide)⟩

theorem Keeps.upd_restartPend {m : Nat} {s t : State} {x_restartPend} (h : Keeps m s t)
    (hm : Sub 65536 m := by exact hm.of (by decide)) : Keeps m s (State.mk t.pending t.now t.regs t.mem t.readData t.wrDrop t.out
    t.freeIx t.guards t.results t.fifos t.fifoIn t.spills t.captures t.cmd t.cmdEnded x_restartPend t.host t.yard t.links
    t.linkLanes t.conv t.convNext t.lanes t.edge t.bal t.cme t.time t.rtc t.eth t.can t.adc t.therm t.aux t.hb t.pwm t.tripIn
    t.safe t.evt t.flt t.tack t.flash t.upd t.pair t.rst) :=
  ⟨h.pending, h.regs, h.mem, fun p hp => by
    cases p <;> first | exact h.parts _ hp | exact absurd (hp.symm.trans (hm.bit (by decide))) (by decide)⟩

theorem Keeps.upd_host {m : Nat} {s t : State} {x_host} (h : Keeps m s t) (hm : Sub 131072 m := by exact hm.of (by decide)) :
    Keeps m s (State.mk t.pending t.now t.regs t.mem t.readData t.wrDrop t.out t.freeIx t.guards t.results t.fifos t.fifoIn
    t.spills t.captures t.cmd t.cmdEnded t.restartPend x_host t.yard t.links t.linkLanes t.conv t.convNext t.lanes t.edge t.bal
    t.cme t.time t.rtc t.eth t.can t.adc t.therm t.aux t.hb t.pwm t.tripIn t.safe t.evt t.flt t.tack t.flash t.upd t.pair t.rst)
    :=
  ⟨h.pending, h.regs, h.mem, fun p hp => by
    cases p <;> first | exact h.parts _ hp | exact absurd (hp.symm.trans (hm.bit (by decide))) (by decide)⟩

theorem Keeps.upd_yard {m : Nat} {s t : State} {x_yard} (h : Keeps m s t) (hm : Sub 262144 m := by exact hm.of (by decide)) :
    Keeps m s (State.mk t.pending t.now t.regs t.mem t.readData t.wrDrop t.out t.freeIx t.guards t.results t.fifos t.fifoIn
    t.spills t.captures t.cmd t.cmdEnded t.restartPend t.host x_yard t.links t.linkLanes t.conv t.convNext t.lanes t.edge t.bal
    t.cme t.time t.rtc t.eth t.can t.adc t.therm t.aux t.hb t.pwm t.tripIn t.safe t.evt t.flt t.tack t.flash t.upd t.pair t.rst)
    :=
  ⟨h.pending, h.regs, h.mem, fun p hp => by
    cases p <;> first | exact h.parts _ hp | exact absurd (hp.symm.trans (hm.bit (by decide))) (by decide)⟩

theorem Keeps.upd_yard_conv_convNext {m : Nat} {s t : State} {x_yard x_conv x_convNext} (h : Keeps m s t)
    (hm : Sub 6553600 m := by exact hm.of (by decide)) : Keeps m s (State.mk t.pending t.now t.regs t.mem t.readData t.wrDrop
    t.out t.freeIx t.guards t.results t.fifos t.fifoIn t.spills t.captures t.cmd t.cmdEnded t.restartPend t.host x_yard t.links
    t.linkLanes x_conv x_convNext t.lanes t.edge t.bal t.cme t.time t.rtc t.eth t.can t.adc t.therm t.aux t.hb t.pwm t.tripIn
    t.safe t.evt t.flt t.tack t.flash t.upd t.pair t.rst) :=
  ⟨h.pending, h.regs, h.mem, fun p hp => by
    cases p <;> first | exact h.parts _ hp | exact absurd (hp.symm.trans (hm.bit (by decide))) (by decide)⟩

theorem Keeps.upd_links {m : Nat} {s t : State} {x_links} (h : Keeps m s t) (hm : Sub 524288 m := by exact hm.of (by decide)) :
    Keeps m s (State.mk t.pending t.now t.regs t.mem t.readData t.wrDrop t.out t.freeIx t.guards t.results t.fifos t.fifoIn
    t.spills t.captures t.cmd t.cmdEnded t.restartPend t.host t.yard x_links t.linkLanes t.conv t.convNext t.lanes t.edge t.bal
    t.cme t.time t.rtc t.eth t.can t.adc t.therm t.aux t.hb t.pwm t.tripIn t.safe t.evt t.flt t.tack t.flash t.upd t.pair t.rst)
    :=
  ⟨h.pending, h.regs, h.mem, fun p hp => by
    cases p <;> first | exact h.parts _ hp | exact absurd (hp.symm.trans (hm.bit (by decide))) (by decide)⟩

theorem Keeps.upd_linkLanes {m : Nat} {s t : State} {x_linkLanes} (h : Keeps m s t)
    (hm : Sub 1048576 m := by exact hm.of (by decide)) : Keeps m s (State.mk t.pending t.now t.regs t.mem t.readData t.wrDrop
    t.out t.freeIx t.guards t.results t.fifos t.fifoIn t.spills t.captures t.cmd t.cmdEnded t.restartPend t.host t.yard t.links
    x_linkLanes t.conv t.convNext t.lanes t.edge t.bal t.cme t.time t.rtc t.eth t.can t.adc t.therm t.aux t.hb t.pwm t.tripIn
    t.safe t.evt t.flt t.tack t.flash t.upd t.pair t.rst) :=
  ⟨h.pending, h.regs, h.mem, fun p hp => by
    cases p <;> first | exact h.parts _ hp | exact absurd (hp.symm.trans (hm.bit (by decide))) (by decide)⟩

theorem Keeps.upd_conv {m : Nat} {s t : State} {x_conv} (h : Keeps m s t) (hm : Sub 2097152 m := by exact hm.of (by decide)) :
    Keeps m s (State.mk t.pending t.now t.regs t.mem t.readData t.wrDrop t.out t.freeIx t.guards t.results t.fifos t.fifoIn
    t.spills t.captures t.cmd t.cmdEnded t.restartPend t.host t.yard t.links t.linkLanes x_conv t.convNext t.lanes t.edge t.bal
    t.cme t.time t.rtc t.eth t.can t.adc t.therm t.aux t.hb t.pwm t.tripIn t.safe t.evt t.flt t.tack t.flash t.upd t.pair t.rst)
    :=
  ⟨h.pending, h.regs, h.mem, fun p hp => by
    cases p <;> first | exact h.parts _ hp | exact absurd (hp.symm.trans (hm.bit (by decide))) (by decide)⟩

theorem Keeps.upd_convNext_edge_pair {m : Nat} {s t : State} {x_convNext x_edge x_pair} (h : Keeps m s t)
    (hm : Sub 8796113993728 m := by exact hm.of (by decide)) : Keeps m s (State.mk t.pending t.now t.regs t.mem t.readData
    t.wrDrop t.out t.freeIx t.guards t.results t.fifos t.fifoIn t.spills t.captures t.cmd t.cmdEnded t.restartPend t.host t.yard
    t.links t.linkLanes t.conv x_convNext t.lanes x_edge t.bal t.cme t.time t.rtc t.eth t.can t.adc t.therm t.aux t.hb t.pwm
    t.tripIn t.safe t.evt t.flt t.tack t.flash t.upd x_pair t.rst) :=
  ⟨h.pending, h.regs, h.mem, fun p hp => by
    cases p <;> first | exact h.parts _ hp | exact absurd (hp.symm.trans (hm.bit (by decide))) (by decide)⟩

theorem Keeps.upd_lanes {m : Nat} {s t : State} {x_lanes} (h : Keeps m s t) (hm : Sub 8388608 m := by exact hm.of (by decide)) :
    Keeps m s (State.mk t.pending t.now t.regs t.mem t.readData t.wrDrop t.out t.freeIx t.guards t.results t.fifos t.fifoIn
    t.spills t.captures t.cmd t.cmdEnded t.restartPend t.host t.yard t.links t.linkLanes t.conv t.convNext x_lanes t.edge t.bal
    t.cme t.time t.rtc t.eth t.can t.adc t.therm t.aux t.hb t.pwm t.tripIn t.safe t.evt t.flt t.tack t.flash t.upd t.pair t.rst)
    :=
  ⟨h.pending, h.regs, h.mem, fun p hp => by
    cases p <;> first | exact h.parts _ hp | exact absurd (hp.symm.trans (hm.bit (by decide))) (by decide)⟩

theorem Keeps.upd_edge {m : Nat} {s t : State} {x_edge} (h : Keeps m s t) (hm : Sub 16777216 m := by exact hm.of (by decide)) :
    Keeps m s (State.mk t.pending t.now t.regs t.mem t.readData t.wrDrop t.out t.freeIx t.guards t.results t.fifos t.fifoIn
    t.spills t.captures t.cmd t.cmdEnded t.restartPend t.host t.yard t.links t.linkLanes t.conv t.convNext t.lanes x_edge t.bal
    t.cme t.time t.rtc t.eth t.can t.adc t.therm t.aux t.hb t.pwm t.tripIn t.safe t.evt t.flt t.tack t.flash t.upd t.pair t.rst)
    :=
  ⟨h.pending, h.regs, h.mem, fun p hp => by
    cases p <;> first | exact h.parts _ hp | exact absurd (hp.symm.trans (hm.bit (by decide))) (by decide)⟩

theorem Keeps.upd_edge_bal {m : Nat} {s t : State} {x_edge x_bal} (h : Keeps m s t)
    (hm : Sub 50331648 m := by exact hm.of (by decide)) : Keeps m s (State.mk t.pending t.now t.regs t.mem t.readData t.wrDrop
    t.out t.freeIx t.guards t.results t.fifos t.fifoIn t.spills t.captures t.cmd t.cmdEnded t.restartPend t.host t.yard t.links
    t.linkLanes t.conv t.convNext t.lanes x_edge x_bal t.cme t.time t.rtc t.eth t.can t.adc t.therm t.aux t.hb t.pwm t.tripIn
    t.safe t.evt t.flt t.tack t.flash t.upd t.pair t.rst) :=
  ⟨h.pending, h.regs, h.mem, fun p hp => by
    cases p <;> first | exact h.parts _ hp | exact absurd (hp.symm.trans (hm.bit (by decide))) (by decide)⟩

theorem Keeps.upd_bal {m : Nat} {s t : State} {x_bal} (h : Keeps m s t) (hm : Sub 33554432 m := by exact hm.of (by decide)) :
    Keeps m s (State.mk t.pending t.now t.regs t.mem t.readData t.wrDrop t.out t.freeIx t.guards t.results t.fifos t.fifoIn
    t.spills t.captures t.cmd t.cmdEnded t.restartPend t.host t.yard t.links t.linkLanes t.conv t.convNext t.lanes t.edge x_bal
    t.cme t.time t.rtc t.eth t.can t.adc t.therm t.aux t.hb t.pwm t.tripIn t.safe t.evt t.flt t.tack t.flash t.upd t.pair t.rst)
    :=
  ⟨h.pending, h.regs, h.mem, fun p hp => by
    cases p <;> first | exact h.parts _ hp | exact absurd (hp.symm.trans (hm.bit (by decide))) (by decide)⟩

theorem Keeps.upd_cme {m : Nat} {s t : State} {x_cme} (h : Keeps m s t) (hm : Sub 67108864 m := by exact hm.of (by decide)) :
    Keeps m s (State.mk t.pending t.now t.regs t.mem t.readData t.wrDrop t.out t.freeIx t.guards t.results t.fifos t.fifoIn
    t.spills t.captures t.cmd t.cmdEnded t.restartPend t.host t.yard t.links t.linkLanes t.conv t.convNext t.lanes t.edge t.bal
    x_cme t.time t.rtc t.eth t.can t.adc t.therm t.aux t.hb t.pwm t.tripIn t.safe t.evt t.flt t.tack t.flash t.upd t.pair t.rst)
    :=
  ⟨h.pending, h.regs, h.mem, fun p hp => by
    cases p <;> first | exact h.parts _ hp | exact absurd (hp.symm.trans (hm.bit (by decide))) (by decide)⟩

theorem Keeps.upd_cme_upd {m : Nat} {s t : State} {x_cme x_upd} (h : Keeps m s t)
    (hm : Sub 4398113619968 m := by exact hm.of (by decide)) : Keeps m s (State.mk t.pending t.now t.regs t.mem t.readData
    t.wrDrop t.out t.freeIx t.guards t.results t.fifos t.fifoIn t.spills t.captures t.cmd t.cmdEnded t.restartPend t.host t.yard
    t.links t.linkLanes t.conv t.convNext t.lanes t.edge t.bal x_cme t.time t.rtc t.eth t.can t.adc t.therm t.aux t.hb t.pwm
    t.tripIn t.safe t.evt t.flt t.tack t.flash x_upd t.pair t.rst) :=
  ⟨h.pending, h.regs, h.mem, fun p hp => by
    cases p <;> first | exact h.parts _ hp | exact absurd (hp.symm.trans (hm.bit (by decide))) (by decide)⟩

theorem Keeps.upd_time {m : Nat} {s t : State} {x_time} (h : Keeps m s t) (hm : Sub 134217728 m := by exact hm.of (by decide)) :
    Keeps m s (State.mk t.pending t.now t.regs t.mem t.readData t.wrDrop t.out t.freeIx t.guards t.results t.fifos t.fifoIn
    t.spills t.captures t.cmd t.cmdEnded t.restartPend t.host t.yard t.links t.linkLanes t.conv t.convNext t.lanes t.edge t.bal
    t.cme x_time t.rtc t.eth t.can t.adc t.therm t.aux t.hb t.pwm t.tripIn t.safe t.evt t.flt t.tack t.flash t.upd t.pair t.rst)
    :=
  ⟨h.pending, h.regs, h.mem, fun p hp => by
    cases p <;> first | exact h.parts _ hp | exact absurd (hp.symm.trans (hm.bit (by decide))) (by decide)⟩

theorem Keeps.upd_time_aux {m : Nat} {s t : State} {x_time x_aux} (h : Keeps m s t)
    (hm : Sub 8724152320 m := by exact hm.of (by decide)) : Keeps m s (State.mk t.pending t.now t.regs t.mem t.readData t.wrDrop
    t.out t.freeIx t.guards t.results t.fifos t.fifoIn t.spills t.captures t.cmd t.cmdEnded t.restartPend t.host t.yard t.links
    t.linkLanes t.conv t.convNext t.lanes t.edge t.bal t.cme x_time t.rtc t.eth t.can t.adc t.therm x_aux t.hb t.pwm t.tripIn
    t.safe t.evt t.flt t.tack t.flash t.upd t.pair t.rst) :=
  ⟨h.pending, h.regs, h.mem, fun p hp => by
    cases p <;> first | exact h.parts _ hp | exact absurd (hp.symm.trans (hm.bit (by decide))) (by decide)⟩

theorem Keeps.upd_rtc {m : Nat} {s t : State} {x_rtc} (h : Keeps m s t) (hm : Sub 268435456 m := by exact hm.of (by decide)) :
    Keeps m s (State.mk t.pending t.now t.regs t.mem t.readData t.wrDrop t.out t.freeIx t.guards t.results t.fifos t.fifoIn
    t.spills t.captures t.cmd t.cmdEnded t.restartPend t.host t.yard t.links t.linkLanes t.conv t.convNext t.lanes t.edge t.bal
    t.cme t.time x_rtc t.eth t.can t.adc t.therm t.aux t.hb t.pwm t.tripIn t.safe t.evt t.flt t.tack t.flash t.upd t.pair t.rst)
    :=
  ⟨h.pending, h.regs, h.mem, fun p hp => by
    cases p <;> first | exact h.parts _ hp | exact absurd (hp.symm.trans (hm.bit (by decide))) (by decide)⟩

theorem Keeps.upd_eth {m : Nat} {s t : State} {x_eth} (h : Keeps m s t) (hm : Sub 536870912 m := by exact hm.of (by decide)) :
    Keeps m s (State.mk t.pending t.now t.regs t.mem t.readData t.wrDrop t.out t.freeIx t.guards t.results t.fifos t.fifoIn
    t.spills t.captures t.cmd t.cmdEnded t.restartPend t.host t.yard t.links t.linkLanes t.conv t.convNext t.lanes t.edge t.bal
    t.cme t.time t.rtc x_eth t.can t.adc t.therm t.aux t.hb t.pwm t.tripIn t.safe t.evt t.flt t.tack t.flash t.upd t.pair t.rst)
    :=
  ⟨h.pending, h.regs, h.mem, fun p hp => by
    cases p <;> first | exact h.parts _ hp | exact absurd (hp.symm.trans (hm.bit (by decide))) (by decide)⟩

theorem Keeps.upd_eth_upd {m : Nat} {s t : State} {x_eth x_upd} (h : Keeps m s t)
    (hm : Sub 4398583382016 m := by exact hm.of (by decide)) : Keeps m s (State.mk t.pending t.now t.regs t.mem t.readData
    t.wrDrop t.out t.freeIx t.guards t.results t.fifos t.fifoIn t.spills t.captures t.cmd t.cmdEnded t.restartPend t.host t.yard
    t.links t.linkLanes t.conv t.convNext t.lanes t.edge t.bal t.cme t.time t.rtc x_eth t.can t.adc t.therm t.aux t.hb t.pwm
    t.tripIn t.safe t.evt t.flt t.tack t.flash x_upd t.pair t.rst) :=
  ⟨h.pending, h.regs, h.mem, fun p hp => by
    cases p <;> first | exact h.parts _ hp | exact absurd (hp.symm.trans (hm.bit (by decide))) (by decide)⟩

theorem Keeps.upd_can {m : Nat} {s t : State} {x_can} (h : Keeps m s t) (hm : Sub 1073741824 m := by exact hm.of (by decide)) :
    Keeps m s (State.mk t.pending t.now t.regs t.mem t.readData t.wrDrop t.out t.freeIx t.guards t.results t.fifos t.fifoIn
    t.spills t.captures t.cmd t.cmdEnded t.restartPend t.host t.yard t.links t.linkLanes t.conv t.convNext t.lanes t.edge t.bal
    t.cme t.time t.rtc t.eth x_can t.adc t.therm t.aux t.hb t.pwm t.tripIn t.safe t.evt t.flt t.tack t.flash t.upd t.pair t.rst)
    :=
  ⟨h.pending, h.regs, h.mem, fun p hp => by
    cases p <;> first | exact h.parts _ hp | exact absurd (hp.symm.trans (hm.bit (by decide))) (by decide)⟩

theorem Keeps.upd_adc {m : Nat} {s t : State} {x_adc} (h : Keeps m s t) (hm : Sub 2147483648 m := by exact hm.of (by decide)) :
    Keeps m s (State.mk t.pending t.now t.regs t.mem t.readData t.wrDrop t.out t.freeIx t.guards t.results t.fifos t.fifoIn
    t.spills t.captures t.cmd t.cmdEnded t.restartPend t.host t.yard t.links t.linkLanes t.conv t.convNext t.lanes t.edge t.bal
    t.cme t.time t.rtc t.eth t.can x_adc t.therm t.aux t.hb t.pwm t.tripIn t.safe t.evt t.flt t.tack t.flash t.upd t.pair t.rst)
    :=
  ⟨h.pending, h.regs, h.mem, fun p hp => by
    cases p <;> first | exact h.parts _ hp | exact absurd (hp.symm.trans (hm.bit (by decide))) (by decide)⟩

theorem Keeps.upd_therm {m : Nat} {s t : State} {x_therm} (h : Keeps m s t) (hm : Sub 4294967296 m := by exact hm.of (by decide))
    : Keeps m s (State.mk t.pending t.now t.regs t.mem t.readData t.wrDrop t.out t.freeIx t.guards t.results t.fifos t.fifoIn
    t.spills t.captures t.cmd t.cmdEnded t.restartPend t.host t.yard t.links t.linkLanes t.conv t.convNext t.lanes t.edge t.bal
    t.cme t.time t.rtc t.eth t.can t.adc x_therm t.aux t.hb t.pwm t.tripIn t.safe t.evt t.flt t.tack t.flash t.upd t.pair t.rst)
    :=
  ⟨h.pending, h.regs, h.mem, fun p hp => by
    cases p <;> first | exact h.parts _ hp | exact absurd (hp.symm.trans (hm.bit (by decide))) (by decide)⟩

theorem Keeps.upd_aux {m : Nat} {s t : State} {x_aux} (h : Keeps m s t) (hm : Sub 8589934592 m := by exact hm.of (by decide)) :
    Keeps m s (State.mk t.pending t.now t.regs t.mem t.readData t.wrDrop t.out t.freeIx t.guards t.results t.fifos t.fifoIn
    t.spills t.captures t.cmd t.cmdEnded t.restartPend t.host t.yard t.links t.linkLanes t.conv t.convNext t.lanes t.edge t.bal
    t.cme t.time t.rtc t.eth t.can t.adc t.therm x_aux t.hb t.pwm t.tripIn t.safe t.evt t.flt t.tack t.flash t.upd t.pair t.rst)
    :=
  ⟨h.pending, h.regs, h.mem, fun p hp => by
    cases p <;> first | exact h.parts _ hp | exact absurd (hp.symm.trans (hm.bit (by decide))) (by decide)⟩

theorem Keeps.upd_hb {m : Nat} {s t : State} {x_hb} (h : Keeps m s t) (hm : Sub 17179869184 m := by exact hm.of (by decide)) :
    Keeps m s (State.mk t.pending t.now t.regs t.mem t.readData t.wrDrop t.out t.freeIx t.guards t.results t.fifos t.fifoIn
    t.spills t.captures t.cmd t.cmdEnded t.restartPend t.host t.yard t.links t.linkLanes t.conv t.convNext t.lanes t.edge t.bal
    t.cme t.time t.rtc t.eth t.can t.adc t.therm t.aux x_hb t.pwm t.tripIn t.safe t.evt t.flt t.tack t.flash t.upd t.pair t.rst)
    :=
  ⟨h.pending, h.regs, h.mem, fun p hp => by
    cases p <;> first | exact h.parts _ hp | exact absurd (hp.symm.trans (hm.bit (by decide))) (by decide)⟩

theorem Keeps.upd_pwm {m : Nat} {s t : State} {x_pwm} (h : Keeps m s t) (hm : Sub 34359738368 m := by exact hm.of (by decide)) :
    Keeps m s (State.mk t.pending t.now t.regs t.mem t.readData t.wrDrop t.out t.freeIx t.guards t.results t.fifos t.fifoIn
    t.spills t.captures t.cmd t.cmdEnded t.restartPend t.host t.yard t.links t.linkLanes t.conv t.convNext t.lanes t.edge t.bal
    t.cme t.time t.rtc t.eth t.can t.adc t.therm t.aux t.hb x_pwm t.tripIn t.safe t.evt t.flt t.tack t.flash t.upd t.pair t.rst)
    :=
  ⟨h.pending, h.regs, h.mem, fun p hp => by
    cases p <;> first | exact h.parts _ hp | exact absurd (hp.symm.trans (hm.bit (by decide))) (by decide)⟩

theorem Keeps.upd_tripIn {m : Nat} {s t : State} {x_tripIn} (h : Keeps m s t)
    (hm : Sub 68719476736 m := by exact hm.of (by decide)) : Keeps m s (State.mk t.pending t.now t.regs t.mem t.readData t.wrDrop
    t.out t.freeIx t.guards t.results t.fifos t.fifoIn t.spills t.captures t.cmd t.cmdEnded t.restartPend t.host t.yard t.links
    t.linkLanes t.conv t.convNext t.lanes t.edge t.bal t.cme t.time t.rtc t.eth t.can t.adc t.therm t.aux t.hb t.pwm x_tripIn
    t.safe t.evt t.flt t.tack t.flash t.upd t.pair t.rst) :=
  ⟨h.pending, h.regs, h.mem, fun p hp => by
    cases p <;> first | exact h.parts _ hp | exact absurd (hp.symm.trans (hm.bit (by decide))) (by decide)⟩

theorem Keeps.upd_safe {m : Nat} {s t : State} {x_safe} (h : Keeps m s t) (hm : Sub 137438953472 m := by exact hm.of (by decide))
    : Keeps m s (State.mk t.pending t.now t.regs t.mem t.readData t.wrDrop t.out t.freeIx t.guards t.results t.fifos t.fifoIn
    t.spills t.captures t.cmd t.cmdEnded t.restartPend t.host t.yard t.links t.linkLanes t.conv t.convNext t.lanes t.edge t.bal
    t.cme t.time t.rtc t.eth t.can t.adc t.therm t.aux t.hb t.pwm t.tripIn x_safe t.evt t.flt t.tack t.flash t.upd t.pair t.rst)
    :=
  ⟨h.pending, h.regs, h.mem, fun p hp => by
    cases p <;> first | exact h.parts _ hp | exact absurd (hp.symm.trans (hm.bit (by decide))) (by decide)⟩

theorem Keeps.upd_evt {m : Nat} {s t : State} {x_evt} (h : Keeps m s t) (hm : Sub 274877906944 m := by exact hm.of (by decide)) :
    Keeps m s (State.mk t.pending t.now t.regs t.mem t.readData t.wrDrop t.out t.freeIx t.guards t.results t.fifos t.fifoIn
    t.spills t.captures t.cmd t.cmdEnded t.restartPend t.host t.yard t.links t.linkLanes t.conv t.convNext t.lanes t.edge t.bal
    t.cme t.time t.rtc t.eth t.can t.adc t.therm t.aux t.hb t.pwm t.tripIn t.safe x_evt t.flt t.tack t.flash t.upd t.pair t.rst)
    :=
  ⟨h.pending, h.regs, h.mem, fun p hp => by
    cases p <;> first | exact h.parts _ hp | exact absurd (hp.symm.trans (hm.bit (by decide))) (by decide)⟩

theorem Keeps.upd_flt {m : Nat} {s t : State} {x_flt} (h : Keeps m s t) (hm : Sub 549755813888 m := by exact hm.of (by decide)) :
    Keeps m s (State.mk t.pending t.now t.regs t.mem t.readData t.wrDrop t.out t.freeIx t.guards t.results t.fifos t.fifoIn
    t.spills t.captures t.cmd t.cmdEnded t.restartPend t.host t.yard t.links t.linkLanes t.conv t.convNext t.lanes t.edge t.bal
    t.cme t.time t.rtc t.eth t.can t.adc t.therm t.aux t.hb t.pwm t.tripIn t.safe t.evt x_flt t.tack t.flash t.upd t.pair t.rst)
    :=
  ⟨h.pending, h.regs, h.mem, fun p hp => by
    cases p <;> first | exact h.parts _ hp | exact absurd (hp.symm.trans (hm.bit (by decide))) (by decide)⟩

theorem Keeps.upd_tack {m : Nat} {s t : State} {x_tack} (h : Keeps m s t) (hm : Sub 1099511627776 m := by exact hm.of (by decide))
    : Keeps m s (State.mk t.pending t.now t.regs t.mem t.readData t.wrDrop t.out t.freeIx t.guards t.results t.fifos t.fifoIn
    t.spills t.captures t.cmd t.cmdEnded t.restartPend t.host t.yard t.links t.linkLanes t.conv t.convNext t.lanes t.edge t.bal
    t.cme t.time t.rtc t.eth t.can t.adc t.therm t.aux t.hb t.pwm t.tripIn t.safe t.evt t.flt x_tack t.flash t.upd t.pair t.rst)
    :=
  ⟨h.pending, h.regs, h.mem, fun p hp => by
    cases p <;> first | exact h.parts _ hp | exact absurd (hp.symm.trans (hm.bit (by decide))) (by decide)⟩

theorem Keeps.upd_flash {m : Nat} {s t : State} {x_flash} (h : Keeps m s t)
    (hm : Sub 2199023255552 m := by exact hm.of (by decide)) : Keeps m s (State.mk t.pending t.now t.regs t.mem t.readData
    t.wrDrop t.out t.freeIx t.guards t.results t.fifos t.fifoIn t.spills t.captures t.cmd t.cmdEnded t.restartPend t.host t.yard
    t.links t.linkLanes t.conv t.convNext t.lanes t.edge t.bal t.cme t.time t.rtc t.eth t.can t.adc t.therm t.aux t.hb t.pwm
    t.tripIn t.safe t.evt t.flt t.tack x_flash t.upd t.pair t.rst) :=
  ⟨h.pending, h.regs, h.mem, fun p hp => by
    cases p <;> first | exact h.parts _ hp | exact absurd (hp.symm.trans (hm.bit (by decide))) (by decide)⟩

theorem Keeps.upd_upd {m : Nat} {s t : State} {x_upd} (h : Keeps m s t) (hm : Sub 4398046511104 m := by exact hm.of (by decide)) :
    Keeps m s (State.mk t.pending t.now t.regs t.mem t.readData t.wrDrop t.out t.freeIx t.guards t.results t.fifos t.fifoIn
    t.spills t.captures t.cmd t.cmdEnded t.restartPend t.host t.yard t.links t.linkLanes t.conv t.convNext t.lanes t.edge t.bal
    t.cme t.time t.rtc t.eth t.can t.adc t.therm t.aux t.hb t.pwm t.tripIn t.safe t.evt t.flt t.tack t.flash x_upd t.pair t.rst)
    :=
  ⟨h.pending, h.regs, h.mem, fun p hp => by
    cases p <;> first | exact h.parts _ hp | exact absurd (hp.symm.trans (hm.bit (by decide))) (by decide)⟩

theorem Keeps.upd_pair {m : Nat} {s t : State} {x_pair} (h : Keeps m s t) (hm : Sub 8796093022208 m := by exact hm.of (by decide))
    : Keeps m s (State.mk t.pending t.now t.regs t.mem t.readData t.wrDrop t.out t.freeIx t.guards t.results t.fifos t.fifoIn
    t.spills t.captures t.cmd t.cmdEnded t.restartPend t.host t.yard t.links t.linkLanes t.conv t.convNext t.lanes t.edge t.bal
    t.cme t.time t.rtc t.eth t.can t.adc t.therm t.aux t.hb t.pwm t.tripIn t.safe t.evt t.flt t.tack t.flash t.upd x_pair t.rst)
    :=
  ⟨h.pending, h.regs, h.mem, fun p hp => by
    cases p <;> first | exact h.parts _ hp | exact absurd (hp.symm.trans (hm.bit (by decide))) (by decide)⟩

theorem Keeps.upd_rst {m : Nat} {s t : State} {x_rst} (h : Keeps m s t) (hm : Sub 17592186044416 m := by exact hm.of (by decide))
    : Keeps m s (State.mk t.pending t.now t.regs t.mem t.readData t.wrDrop t.out t.freeIx t.guards t.results t.fifos t.fifoIn
    t.spills t.captures t.cmd t.cmdEnded t.restartPend t.host t.yard t.links t.linkLanes t.conv t.convNext t.lanes t.edge t.bal
    t.cme t.time t.rtc t.eth t.can t.adc t.therm t.aux t.hb t.pwm t.tripIn t.safe t.evt t.flt t.tack t.flash t.upd t.pair x_rst)
    :=
  ⟨h.pending, h.regs, h.mem, fun p hp => by
    cases p <;> first | exact h.parts _ hp | exact absurd (hp.symm.trans (hm.bit (by decide))) (by decide)⟩

theorem State.setReg_keeps {m : Nat} {r s : State} {a : Nat} {w : Word} (h : Keeps m r s) (hm : Sub 4 m := by exact hm.of (by decide)) :
    Keeps m r (s.setReg a w) := Keeps.upd_regs h (KMap.wf_set _ _ _ _) hm

theorem State.setByte_keeps {m : Nat} {r s : State} {a : Nat} {b : Byte} (h : Keeps m r s) (hm : Sub 8 m := by exact hm.of (by decide)) :
    Keeps m r (s.setByte a b) := Keeps.upd_mem h (KMap.wf_set _ _ _ _) hm

theorem State.storeBytes_keeps {m : Nat} {r s : State} {a : Nat} {l : List Byte} (h : Keeps m r s)
    (hm : Sub 8 m := by exact hm.of (by decide)) : Keeps m r (s.storeBytes a l) := by
  induction l generalizing s a with
  | nil => exact h
  | cons b t ih => exact ih (State.setByte_keeps h hm)

end Sys2Proof.Machine
end

