-- ==== Sys2Proof/Laws/KeepsOps.lean ====
section
/-! SUPPORT. The operations of Machine/Ops.lean leave the queue alone and keep the canonical form of the stores. -/

set_option linter.unusedTactic false
set_option linter.unreachableTactic false

namespace Sys2Proof.Machine

theorem State.put_keeps {k0 : Nat} {r0 : State} (s : State) (f : Fld) (v : Nat) (hr : Keeps k0 r0 s) (hm : Sub 4 k0 := by exact hm.of (by decide)) : Keeps k0 r0 (State.put s f v) := by
  unfold State.put
  repeat' first
    | with_reducible assumption
    | exact hm.of (by decide)
    | with_reducible apply State.setReg_keeps
    | with_reducible apply State.write_keeps

theorem State.setBitOf_keeps {k0 : Nat} {r0 : State} (s : State) (f : Fld) (i : Nat) (hr : Keeps k0 r0 s) (hm : Sub 4 k0 := by exact hm.of (by decide)) : Keeps k0 r0 (State.setBitOf s f i) := by
  unfold State.setBitOf
  repeat' first
    | with_reducible assumption
    | exact hm.of (by decide)
    | with_reducible apply State.put_keeps

theorem State.clrBitOf_keeps {k0 : Nat} {r0 : State} (s : State) (f : Fld) (i : Nat) (hr : Keeps k0 r0 s) (hm : Sub 4 k0 := by exact hm.of (by decide)) : Keeps k0 r0 (State.clrBitOf s f i) := by
  unfold State.clrBitOf
  repeat' first
    | with_reducible assumption
    | exact hm.of (by decide)
    | with_reducible apply State.put_keeps

theorem State.putBitOf_keeps {k0 : Nat} {r0 : State} (s : State) (f : Fld) (i : Nat) (b : Bool) (hr : Keeps k0 r0 s) (hm : Sub 4 k0 := by exact hm.of (by decide)) : Keeps k0 r0 (State.putBitOf s f i b) := by
  unfold State.putBitOf
  repeat' first
    | with_reducible assumption
    | exact hm.of (by decide)
    | with_reducible apply State.setBitOf_keeps
    | with_reducible apply State.clrBitOf_keeps
    | with_reducible apply Keeps.ite
    | split

theorem State.cnt_keeps {k0 : Nat} {r0 : State} (s : State) (f : Fld) (n : Nat) (hr : Keeps k0 r0 s) (hm : Sub 4 k0 := by exact hm.of (by decide)) : Keeps k0 r0 (State.cnt s f n) := by
  unfold State.cnt
  repeat' first
    | with_reducible assumption
    | exact hm.of (by decide)
    | with_reducible apply State.put_keeps

theorem State.emit_keeps {k0 : Nat} {r0 : State} (s : State) (o : Output) (hr : Keeps k0 r0 s) (hm : Sub 64 k0 := by exact hm.of (by decide)) : Keeps k0 r0 (State.emit s o) := by
  unfold State.emit
  repeat' first
    | with_reducible assumption
    | exact hm.of (by decide)
    | with_reducible apply Keeps.ite
    | split
    | with_reducible apply Keeps.upd_out

theorem State.drew_keeps {k0 : Nat} {r0 : State} (s : State) (hr : Keeps k0 r0 s) (hm : Sub 128 k0 := by exact hm.of (by decide)) : Keeps k0 r0 (State.drew s) := by
  unfold State.drew
  repeat' first
    | with_reducible assumption
    | exact hm.of (by decide)
    | with_reducible apply Keeps.upd_freeIx

theorem State.advance_keeps {k0 : Nat} {r0 : State} (s : State) (n : Nat) (hr : Keeps k0 r0 s) (hm : Sub 402653186 k0 := by exact hm.of (by decide)) : Keeps k0 r0 (State.advance s n) := by
  unfold State.advance
  repeat' first
    | with_reducible assumption
    | exact hm.of (by decide)
    | with_reducible apply Keeps.upd_now_time_rtc

theorem State.until_keeps {k0 : Nat} {r0 : State} (s : State) (t : Nat) (hr : Keeps k0 r0 s) (hm : Sub 402653186 k0 := by exact hm.of (by decide)) : Keeps k0 r0 (State.until s t) := by
  unfold State.until
  repeat' first
    | with_reducible assumption
    | exact hm.of (by decide)
    | with_reducible apply State.advance_keeps

theorem State.untilCtb_keeps {k0 : Nat} {r0 : State} (s : State) (t : Nat) (hr : Keeps k0 r0 s) (hm : Sub 402653186 k0 := by exact hm.of (by decide)) : Keeps k0 r0 (State.untilCtb s t) := by
  unfold State.untilCtb
  repeat' first
    | with_reducible assumption
    | exact hm.of (by decide)
    | with_reducible apply State.advance_keeps

theorem State.pushOcc_keeps {k0 : Nat} {r0 : State} (s : State) (e inst : Nat) (host sv : Bool) (hr : Keeps k0 r0 s) (hm : Sub 274877906944 k0 := by exact hm.of (by decide)) : Keeps k0 r0 (State.pushOcc s e inst host sv) := by
  unfold State.pushOcc
  repeat' first
    | with_reducible assumption
    | exact hm.of (by decide)
    | with_reducible apply Keeps.upd_evt

theorem State.raise_keeps {k0 : Nat} {r0 : State} (s : State) (b k : Nat) (hr : Keeps k0 r0 s) (hm : Sub 274877906948 k0 := by exact hm.of (by decide)) : Keeps k0 r0 (State.raise s b k) := by
  unfold State.raise
  repeat' first
    | with_reducible assumption
    | exact hm.of (by decide)
    | (extract_lets +onlyGivenNames y; have hy : Keeps k0 r0 y := ?_; clear_value y; rotate_left; subst y)
    | (extract_lets +onlyGivenNames y; have hy : Keeps k0 r0 y.1 := ?_; clear_value y; rotate_left; subst y)
    | (extract_lets +onlyGivenNames y; clear_value y)
    | (extract_lets +onlyGivenNames y; subst y)
    | with_reducible apply State.setBitOf_keeps
    | with_reducible apply State.pushOcc_keeps
    | with_reducible apply Keeps.ite
    | split

theorem State.msixSend_keeps {k0 : Nat} {r0 : State} (s : State) (v : Nat) (hr : Keeps k0 r0 s) (hm : Sub 274877907012 k0 := by exact hm.of (by decide)) : Keeps k0 r0 (State.msixSend s v) := by
  unfold State.msixSend
  repeat' first
    | with_reducible assumption
    | exact hm.of (by decide)
    | (extract_lets +onlyGivenNames y; have hy : Keeps k0 r0 y := ?_; clear_value y; rotate_left; subst y)
    | (extract_lets +onlyGivenNames y; have hy : Keeps k0 r0 y.1 := ?_; clear_value y; rotate_left; subst y)
    | (extract_lets +onlyGivenNames y; clear_value y)
    | (extract_lets +onlyGivenNames y; subst y)
    | with_reducible apply State.setBitOf_keeps
    | with_reducible apply State.emit_keeps
    | with_reducible apply Keeps.ite
    | split
    | with_reducible apply Keeps.upd_evt

theorem State.msixDue_keeps {k0 : Nat} {r0 : State} (s : State) (v : Nat) (hr : Keeps k0 r0 s) (hm : Sub 274877907012 k0 := by exact hm.of (by decide)) : Keeps k0 r0 (State.msixDue s v) := by
  unfold State.msixDue
  repeat' first
    | with_reducible assumption
    | exact hm.of (by decide)
    | with_reducible apply State.msixSend_keeps
    | with_reducible apply Keeps.ite
    | split
    | with_reducible apply Keeps.upd_evt

theorem State.msixEdges_keeps {k0 : Nat} {r0 : State} (before s : State) (hr : Keeps k0 r0 s) (hm : Sub 274877907012 k0 := by exact hm.of (by decide)) : Keeps k0 r0 (State.msixEdges before s) := by
  unfold State.msixEdges
  repeat' first
    | with_reducible assumption
    | exact hm.of (by decide)
    | with_reducible apply State.msixDue_keeps
    | with_reducible apply Keeps.ite
    | split
    | (with_reducible refine Keeps.foldl ?_ (fun u x h => ?_))

theorem State.fltCount_keeps {k0 : Nat} {r0 : State} (s : State) (c : Nat) (hr : Keeps k0 r0 s) (hm : Sub 824633720836 k0 := by exact hm.of (by decide)) : Keeps k0 r0 (State.fltCount s c) := by
  unfold State.fltCount
  repeat' first
    | with_reducible assumption
    | exact hm.of (by decide)
    | (extract_lets +onlyGivenNames y; have hy : Keeps k0 r0 y := ?_; clear_value y; rotate_left; subst y)
    | (extract_lets +onlyGivenNames y; have hy : Keeps k0 r0 y.1 := ?_; clear_value y; rotate_left; subst y)
    | (extract_lets +onlyGivenNames y; clear_value y)
    | (extract_lets +onlyGivenNames y; subst y)
    | with_reducible apply State.cnt_keeps
    | with_reducible apply State.setBitOf_keeps
    | with_reducible apply State.raise_keeps
    | with_reducible apply Keeps.ite
    | split
    | with_reducible apply Keeps.upd_flt

theorem State.fltRecord_keeps {k0 : Nat} {r0 : State} (s : State) (x : FltErr) (hr : Keeps k0 r0 s) (hm : Sub 549755813892 k0 := by exact hm.of (by decide)) : Keeps k0 r0 (State.fltRecord s x) := by
  unfold State.fltRecord
  repeat' first
    | with_reducible assumption
    | exact hm.of (by decide)
    | (extract_lets +onlyGivenNames y; have hy : Keeps k0 r0 y := ?_; clear_value y; rotate_left; subst y)
    | (extract_lets +onlyGivenNames y; have hy : Keeps k0 r0 y.1 := ?_; clear_value y; rotate_left; subst y)
    | (extract_lets +onlyGivenNames y; clear_value y)
    | (extract_lets +onlyGivenNames y; subst y)
    | with_reducible apply State.put_keeps
    | with_reducible apply State.setReg_keeps
    | with_reducible apply State.access_keeps
    | with_reducible apply Keeps.upd_flt

theorem State.fltCapture_keeps {k0 : Nat} {r0 : State} (s : State) (e : Err) (master access addr : Nat) (hr : Keeps k0 r0 s) (hm : Sub 824633720836 k0 := by exact hm.of (by decide)) : Keeps k0 r0 (State.fltCapture s e master access addr) := by
  unfold State.fltCapture
  repeat' first
    | with_reducible assumption
    | exact hm.of (by decide)
    | (extract_lets +onlyGivenNames y; have hy : Keeps k0 r0 y := ?_; clear_value y; rotate_left; subst y)
    | (extract_lets +onlyGivenNames y; have hy : Keeps k0 r0 y.1 := ?_; clear_value y; rotate_left; subst y)
    | (extract_lets +onlyGivenNames y; clear_value y)
    | (extract_lets +onlyGivenNames y; subst y)
    | with_reducible apply State.access_keeps
    | with_reducible apply State.fltRecord_keeps
    | with_reducible apply State.raise_keeps
    | with_reducible apply State.cnt_keeps
    | with_reducible apply Keeps.ite
    | split
    | with_reducible apply Keeps.upd_flt

theorem State.err_keeps {k0 : Nat} {r0 : State} (s : State) (e : Err) (master access addr : Nat) (hr : Keeps k0 r0 s) (hm : Sub 824633720836 k0 := by exact hm.of (by decide)) : Keeps k0 r0 (State.err s e master access addr) := by
  unfold State.err
  repeat' first
    | with_reducible assumption
    | exact hm.of (by decide)
    | (extract_lets +onlyGivenNames y; have hy : Keeps k0 r0 y := ?_; clear_value y; rotate_left; subst y)
    | (extract_lets +onlyGivenNames y; have hy : Keeps k0 r0 y.1 := ?_; clear_value y; rotate_left; subst y)
    | (extract_lets +onlyGivenNames y; clear_value y)
    | (extract_lets +onlyGivenNames y; subst y)
    | with_reducible apply State.fltCount_keeps
    | with_reducible apply State.cnt_keeps
    | with_reducible apply State.engineUe_keeps
    | with_reducible apply State.fltCapture_keeps
    | with_reducible apply State.access_keeps
    | with_reducible apply State.put_keeps
    | with_reducible apply State.raise_keeps
    | with_reducible apply Keeps.ite
    | split

theorem State.noteDrop_keeps {k0 : Nat} {r0 : State} (s : State) (hr : Keeps k0 r0 s) (hm : Sub 32 k0 := by exact hm.of (by decide)) : Keeps k0 r0 (State.noteDrop s) := by
  unfold State.noteDrop
  repeat' first
    | with_reducible assumption
    | exact hm.of (by decide)
    | with_reducible apply Keeps.upd_wrDrop

theorem State.accessFault_keeps {k0 : Nat} {r0 : State} (s : State) (b : Nat) (e : Err) (master access addr : Nat) (hr : Keeps k0 r0 s) (hm : Sub 824633720868 k0 := by exact hm.of (by decide)) : Keeps k0 r0 (State.accessFault s b e master access addr) := by
  unfold State.accessFault
  repeat' first
    | with_reducible assumption
    | exact hm.of (by decide)
    | (extract_lets +onlyGivenNames y; have hy : Keeps k0 r0 y := ?_; clear_value y; rotate_left; subst y)
    | (extract_lets +onlyGivenNames y; have hy : Keeps k0 r0 y.1 := ?_; clear_value y; rotate_left; subst y)
    | (extract_lets +onlyGivenNames y; clear_value y)
    | (extract_lets +onlyGivenNames y; subst y)
    | with_reducible apply State.guardFail_keeps
    | with_reducible apply State.put_keeps
    | with_reducible apply State.cnt_keeps
    | with_reducible apply State.raise_keeps
    | with_reducible apply State.err_keeps
    | with_reducible apply State.access_keeps
    | with_reducible apply State.noteDrop_keeps
    | with_reducible apply Keeps.ite
    | split

theorem State.setRes_keeps {k0 : Nat} {r0 : State} (s : State) (a : Nat) (r : Res) (hr : Keeps k0 r0 s) (hm : Sub 512 k0 := by exact hm.of (by decide)) : Keeps k0 r0 (State.setRes s a r) := by
  unfold State.setRes
  repeat' first
    | with_reducible assumption
    | exact hm.of (by decide)
    | with_reducible apply Keeps.upd_results

theorem State.startRes_keeps {k0 : Nat} {r0 : State} (s : State) (a : Nat) (hr : Keeps k0 r0 s) (hm : Sub 512 k0 := by exact hm.of (by decide)) : Keeps k0 r0 (State.startRes s a) := by
  unfold State.startRes
  repeat' first
    | with_reducible assumption
    | exact hm.of (by decide)
    | with_reducible apply State.setRes_keeps

theorem State.stopRes_keeps {k0 : Nat} {r0 : State} (s : State) (a : Nat) (hr : Keeps k0 r0 s) (hm : Sub 512 k0 := by exact hm.of (by decide)) : Keeps k0 r0 (State.stopRes s a) := by
  unfold State.stopRes
  repeat' first
    | with_reducible assumption
    | exact hm.of (by decide)
    | with_reducible apply State.setRes_keeps

theorem State.complete_keeps {k0 : Nat} {r0 : State} (s : State) (a v : Nat) (hr : Keeps k0 r0 s) (hm : Sub 512 k0 := by exact hm.of (by decide)) : Keeps k0 r0 (State.complete s a v) := by
  unfold State.complete
  repeat' first
    | with_reducible assumption
    | exact hm.of (by decide)
    | with_reducible apply State.setRes_keeps

theorem State.setFifo_keeps {k0 : Nat} {r0 : State} (s : State) (a : Nat) (l : List (Nat × Nat)) (hr : Keeps k0 r0 s) (hm : Sub 1024 k0 := by exact hm.of (by decide)) : Keeps k0 r0 (State.setFifo s a l) := by
  unfold State.setFifo
  repeat' first
    | with_reducible assumption
    | exact hm.of (by decide)
    | with_reducible apply Keeps.upd_fifos

theorem State.storeFifo_keeps {k0 : Nat} {r0 : State} (s : State) (a v : Nat) (hr : Keeps k0 r0 s) (hm : Sub 3584 k0 := by exact hm.of (by decide)) : Keeps k0 r0 (State.storeFifo s a v) := by
  unfold State.storeFifo
  repeat' first
    | with_reducible assumption
    | exact hm.of (by decide)
    | (extract_lets +onlyGivenNames y; have hy : Keeps k0 r0 y := ?_; clear_value y; rotate_left; subst y)
    | (extract_lets +onlyGivenNames y; have hy : Keeps k0 r0 y.1 := ?_; clear_value y; rotate_left; subst y)
    | (extract_lets +onlyGivenNames y; clear_value y)
    | (extract_lets +onlyGivenNames y; subst y)
    | with_reducible apply State.setFifo_keeps
    | with_reducible apply State.setRes_keeps
    | with_reducible apply Keeps.upd_fifoIn

theorem State.spill_keeps {k0 : Nat} {r0 : State} (s : State) (a v ts : Nat) (data : List Word) (fs : List Fld) (b k : Nat) (hr : Keeps k0 r0 s) (hm : Sub 4096 k0 := by exact hm.of (by decide)) : Keeps k0 r0 (State.spill s a v ts data fs b k) := by
  unfold State.spill
  repeat' first
    | with_reducible assumption
    | exact hm.of (by decide)
    | with_reducible apply Keeps.upd_spills

theorem State.unmark_keeps {k0 : Nat} {r0 : State} (s : State) (rest : List Spill) (m : Fld × Nat) (hr : Keeps k0 r0 s) (hm : Sub 4 k0 := by exact hm.of (by decide)) : Keeps k0 r0 (State.unmark s rest m) := by
  unfold State.unmark
  repeat' first
    | with_reducible assumption
    | exact hm.of (by decide)
    | with_reducible apply State.put_keeps
    | with_reducible apply Keeps.ite
    | split

theorem State.unspill_keeps {k0 : Nat} {r0 : State} (s : State) (a : Nat) (hr : Keeps k0 r0 s) (hm : Sub 274877911044 k0 := by exact hm.of (by decide)) {p : Spill} {t : State}
    (h : s.unspill a = some (p, t)) : Keeps k0 r0 t := by
  unfold State.unspill at h
  rw [Option.map_eq_some_iff] at h
  obtain ⟨q, -, h⟩ := h
  cases h
  exact Keeps.upd_evt (Keeps.foldl (Keeps.upd_spills hr) fun u x h => State.unmark_keeps _ _ _ h)

theorem State.rtcRecord_keeps {k0 : Nat} {r0 : State} (s : State) (typ : Nat) (hr : Keeps k0 r0 s) (hm : Sub 268435588 k0 := by exact hm.of (by decide)) : Keeps k0 r0 (State.rtcRecord s typ) := by
  unfold State.rtcRecord
  repeat' first
    | with_reducible assumption
    | exact hm.of (by decide)
    | (extract_lets +onlyGivenNames y; have hy : Keeps k0 r0 y := ?_; clear_value y; rotate_left; subst y)
    | (extract_lets +onlyGivenNames y; have hy : Keeps k0 r0 y.1 := ?_; clear_value y; rotate_left; subst y)
    | (extract_lets +onlyGivenNames y; clear_value y)
    | (extract_lets +onlyGivenNames y; subst y)
    | with_reducible apply State.drew_keeps
    | with_reducible apply State.written_keeps
    | with_reducible apply State.put_keeps
    | with_reducible apply Keeps.ite
    | split
    | with_reducible apply Keeps.upd_rtc

theorem State.store_keeps {k0 : Nat} {r0 : State} (s : State) (a n v : Nat) (hr : Keeps k0 r0 s) (hm : Sub 8 k0 := by exact hm.of (by decide)) : Keeps k0 r0 (State.store s a n v) := by
  unfold State.store
  repeat' first
    | with_reducible assumption
    | exact hm.of (by decide)
    | with_reducible apply State.storeBytes_keeps

end Sys2Proof.Machine
end

