-- ==== Sys2Proof/Laws/KeepsEvents.lean ====
section
/-! SUPPORT. The operations of Machine/Events.lean leave the queue alone and keep the canonical form of the stores. -/

set_option linter.unusedTactic false
set_option linter.unreachableTactic false

namespace Sys2Proof.Machine

theorem State.logStore_keeps {k0 : Nat} {r0 : State} (s : State) (v : Nat) (hr : Keeps k0 r0 s) (hm : Sub 274877914628 k0 := by exact hm.of (by decide)) : Keeps k0 r0 (State.logStore s v) := by
  unfold State.logStore
  repeat' first
    | with_reducible assumption
    | exact hm.of (by decide)
    | (extract_lets +onlyGivenNames y; have hy : Keeps k0 r0 y := ?_; clear_value y; rotate_left; subst y)
    | (extract_lets +onlyGivenNames y; have hy : Keeps k0 r0 y.1 := ?_; clear_value y; rotate_left; subst y)
    | (extract_lets +onlyGivenNames y; clear_value y)
    | (extract_lets +onlyGivenNames y; subst y)
    | with_reducible apply State.storeFifo_keeps
    | with_reducible apply State.put_keeps
    | with_reducible apply State.spill_keeps
    | with_reducible apply State.cnt_keeps
    | with_reducible apply State.raise_keeps
    | with_reducible apply Keeps.ite
    | split

theorem State.logOcc_keeps {k0 : Nat} {r0 : State} (s : State) (o : Occ) (hr : Keeps k0 r0 s) (hm : Sub 274877914628 k0 := by exact hm.of (by decide)) : Keeps k0 r0 (State.logOcc s o) := by
  unfold State.logOcc
  repeat' first
    | with_reducible assumption
    | exact hm.of (by decide)
    | with_reducible apply State.logStore_keeps
    | with_reducible apply Keeps.ite
    | split

theorem State.noteSet_keeps {k0 : Nat} {r0 : State} (s : State) (o : Occ) (hr : Keeps k0 r0 s) (hm : Sub 274877906944 k0 := by exact hm.of (by decide)) : Keeps k0 r0 (State.noteSet s o) := by
  unfold State.noteSet
  repeat' first
    | with_reducible assumption
    | exact hm.of (by decide)
    | (extract_lets +onlyGivenNames y; have hy : Keeps k0 r0 y := ?_; clear_value y; rotate_left; subst y)
    | (extract_lets +onlyGivenNames y; have hy : Keeps k0 r0 y.1 := ?_; clear_value y; rotate_left; subst y)
    | (extract_lets +onlyGivenNames y; clear_value y)
    | (extract_lets +onlyGivenNames y; subst y)
    | with_reducible apply Keeps.ite
    | split
    | with_reducible apply Keeps.upd_evt

theorem State.deliver_keeps {k0 : Nat} {r0 : State} (s0 : State) (o : Occ) (hr : Keeps k0 r0 s0) (hm : Sub 274877914692 k0 := by exact hm.of (by decide)) : Keeps k0 r0 (State.deliver s0 o) := by
  unfold State.deliver
  repeat' first
    | with_reducible assumption
    | exact hm.of (by decide)
    | (extract_lets +onlyGivenNames y; have hy : Keeps k0 r0 y := ?_; clear_value y; rotate_left; subst y)
    | (extract_lets +onlyGivenNames y; have hy : Keeps k0 r0 y.1 := ?_; clear_value y; rotate_left; subst y)
    | (extract_lets +onlyGivenNames y; clear_value y)
    | (extract_lets +onlyGivenNames y; subst y)
    | with_reducible apply State.noteSet_keeps
    | with_reducible apply State.setBitOf_keeps
    | with_reducible apply State.msixEdges_keeps
    | with_reducible apply State.logOcc_keeps
    | with_reducible apply Keeps.ite
    | split

theorem execEventDelivery_keeps {k0 : Nat} {r0 : State} (s : State) (hr : Keeps k0 r0 s) (hm : Sub 275280567878 k0 := by exact hm.of (by decide)) : KeepsO k0 r0 (execEventDelivery s) := by
  unfold execEventDelivery
  repeat' first
    | with_reducible assumption
    | exact hm.of (by decide)
    | with_reducible apply KeepsO.next
    | (extract_lets +onlyGivenNames y; have hy : Keeps k0 r0 y := ?_; clear_value y; rotate_left; subst y)
    | (extract_lets +onlyGivenNames y; have hy : Keeps k0 r0 y.1 := ?_; clear_value y; rotate_left; subst y)
    | (extract_lets +onlyGivenNames y; clear_value y)
    | (extract_lets +onlyGivenNames y; subst y)
    | with_reducible apply State.until_keeps
    | with_reducible apply State.deliver_keeps
    | with_reducible apply Keeps.ite
    | split
    | with_reducible apply Keeps.upd_evt

theorem State.eoiWrite_keeps {k0 : Nat} {r0 : State} (s : State) (v : Nat) (hr : Keeps k0 r0 s) (hm : Sub 274877907012 k0 := by exact hm.of (by decide)) : Keeps k0 r0 (State.eoiWrite s v) := by
  unfold State.eoiWrite
  repeat' first
    | with_reducible assumption
    | exact hm.of (by decide)
    | with_reducible apply State.msixDue_keeps
    | with_reducible apply Keeps.ite
    | split
    | (with_reducible refine Keeps.foldl ?_ (fun u x h => ?_))

theorem execEoi_keeps {k0 : Nat} {r0 : State} (v : Word) (s : State) (hr : Keeps k0 r0 s) (hm : Sub 274877907012 k0 := by exact hm.of (by decide)) : KeepsO k0 r0 (execEoi v s) := by
  unfold execEoi
  repeat' first
    | with_reducible assumption
    | exact hm.of (by decide)
    | with_reducible apply KeepsO.next
    | with_reducible apply State.eoiWrite_keeps

theorem execMsixHoldoffExpiry_keeps {k0 : Nat} {r0 : State} (v : Fin 32) (s : State) (hr : Keeps k0 r0 s) (hm : Sub 275280560198 k0 := by exact hm.of (by decide)) : KeepsO k0 r0 (execMsixHoldoffExpiry v s) := by
  unfold execMsixHoldoffExpiry
  repeat' first
    | with_reducible assumption
    | exact hm.of (by decide)
    | with_reducible apply KeepsO.next
    | (extract_lets +onlyGivenNames y; have hy : Keeps k0 r0 y := ?_; clear_value y; rotate_left; subst y)
    | (extract_lets +onlyGivenNames y; have hy : Keeps k0 r0 y.1 := ?_; clear_value y; rotate_left; subst y)
    | (extract_lets +onlyGivenNames y; clear_value y)
    | (extract_lets +onlyGivenNames y; subst y)
    | with_reducible apply State.until_keeps
    | with_reducible apply State.msixSend_keeps
    | with_reducible apply Keeps.ite
    | split
    | with_reducible apply Keeps.upd_evt

theorem State.swEvents_keeps {k0 : Nat} {r0 : State} (s : State) (v : Nat) (hr : Keeps k0 r0 s) (hm : Sub 274877906944 k0 := by exact hm.of (by decide)) : Keeps k0 r0 (State.swEvents s v) := by
  unfold State.swEvents
  repeat' first
    | with_reducible assumption
    | exact hm.of (by decide)
    | with_reducible apply State.pushOcc_keeps
    | (with_reducible refine Keeps.foldl ?_ (fun u x h => ?_))

theorem execEvtSw_keeps {k0 : Nat} {r0 : State} (v : BitVec 16) (s : State) (hr : Keeps k0 r0 s) (hm : Sub 274877906944 k0 := by exact hm.of (by decide)) : KeepsO k0 r0 (execEvtSw v s) := by
  unfold execEvtSw
  repeat' first
    | with_reducible assumption
    | exact hm.of (by decide)
    | with_reducible apply KeepsO.next
    | with_reducible apply State.swEvents_keeps

theorem State.msixFlush_keeps {k0 : Nat} {r0 : State} (s : State) (v : Nat) (hr : Keeps k0 r0 s) (hm : Sub 274877907012 k0 := by exact hm.of (by decide)) : Keeps k0 r0 (State.msixFlush s v) := by
  unfold State.msixFlush
  repeat' first
    | with_reducible assumption
    | exact hm.of (by decide)
    | with_reducible apply State.clrBitOf_keeps
    | with_reducible apply State.msixDue_keeps
    | with_reducible apply Keeps.ite
    | split

theorem State.msixFlushAll_keeps {k0 : Nat} {r0 : State} (s : State) (hr : Keeps k0 r0 s) (hm : Sub 274877907012 k0 := by exact hm.of (by decide)) : Keeps k0 r0 (State.msixFlushAll s) := by
  unfold State.msixFlushAll
  repeat' first
    | with_reducible assumption
    | exact hm.of (by decide)
    | with_reducible apply State.msixFlush_keeps
    | (with_reducible refine Keeps.foldl ?_ (fun u x h => ?_))

theorem execMsixUnmask_keeps {k0 : Nat} {r0 : State} (op : MsixMask) (s : State) (hr : Keeps k0 r0 s) (hm : Sub 274878038084 k0 := by exact hm.of (by decide)) : KeepsO k0 r0 (execMsixUnmask op s) := by
  unfold execMsixUnmask
  repeat' first
    | with_reducible assumption
    | exact hm.of (by decide)
    | with_reducible apply KeepsO.next
    | with_reducible apply State.put_keeps
    | with_reducible apply State.msixFlush_keeps
    | with_reducible apply State.msixFlushAll_keeps
    | with_reducible apply Keeps.ite
    | split
    | with_reducible apply Keeps.upd_host

theorem evtPostWrite_keeps {k0 : Nat} {r0 : State} (before s : State) (a : Nat) (v : Nat) (hr : Keeps k0 r0 s) (hm : Sub 274877907012 k0 := by exact hm.of (by decide)) : Keeps k0 r0 (evtPostWrite before s a v) := by
  unfold evtPostWrite
  repeat' first
    | with_reducible assumption
    | exact hm.of (by decide)
    | with_reducible apply State.put_keeps
    | with_reducible apply State.swEvents_keeps
    | with_reducible apply State.eoiWrite_keeps
    | with_reducible apply State.msixEdges_keeps
    | with_reducible apply Keeps.ite
    | split

theorem hostPostWrite_keeps {k0 : Nat} {r0 : State} (s : State) (hr : Keeps k0 r0 s) (hm : Sub 274877907012 k0 := by exact hm.of (by decide)) : Keeps k0 r0 (hostPostWrite s) := by
  unfold hostPostWrite
  repeat' first
    | with_reducible assumption
    | exact hm.of (by decide)
    | with_reducible apply State.msixFlushAll_keeps

end Sys2Proof.Machine
end

