-- ==== Sys2Proof/Laws/KeepsPower.lean ====
section
/-! SUPPORT. The operations of Machine/Power.lean leave the queue alone and keep the canonical form of the stores. -/

set_option linter.unusedTactic false
set_option linter.unreachableTactic false

namespace Sys2Proof.Machine

theorem State.setGrp_keeps {k0 : Nat} {r0 : State} (s : State) (g : Nat) (x : GrpSt) (hr : Keeps k0 r0 s) (hm : Sub 8589934592 k0 := by exact hm.of (by decide)) : Keeps k0 r0 (State.setGrp s g x) := by
  unfold State.setGrp
  repeat' first
    | with_reducible assumption
    | exact hm.of (by decide)
    | with_reducible apply Keeps.ite
    | split
    | with_reducible apply Keeps.upd_aux

theorem State.setLoop_keeps {k0 : Nat} {r0 : State} (s : State) (x : Nat) (l : LoopSt) (hr : Keeps k0 r0 s) (hm : Sub 8589934592 k0 := by exact hm.of (by decide)) : Keeps k0 r0 (State.setLoop s x l) := by
  unfold State.setLoop
  repeat' first
    | with_reducible assumption
    | exact hm.of (by decide)
    | with_reducible apply Keeps.ite
    | split
    | with_reducible apply Keeps.upd_aux

theorem State.setHb_keeps {k0 : Nat} {r0 : State} (s : State) (h : Nat) (x : HbSt) (hr : Keeps k0 r0 s) (hm : Sub 17179869184 k0 := by exact hm.of (by decide)) : Keeps k0 r0 (State.setHb s h x) := by
  unfold State.setHb
  repeat' first
    | with_reducible assumption
    | exact hm.of (by decide)
    | with_reducible apply Keeps.upd_hb

theorem State.refSettle_keeps {k0 : Nat} {r0 : State} (s : State) (g : Nat) (hr : Keeps k0 r0 s) (hm : Sub 8589934596 k0 := by exact hm.of (by decide)) : Keeps k0 r0 (State.refSettle s g) := by
  unfold State.refSettle
  repeat' first
    | with_reducible assumption
    | exact hm.of (by decide)
    | (extract_lets +onlyGivenNames y; have hy : Keeps k0 r0 y := ?_; clear_value y; rotate_left; subst y)
    | (extract_lets +onlyGivenNames y; have hy : Keeps k0 r0 y.1 := ?_; clear_value y; rotate_left; subst y)
    | (extract_lets +onlyGivenNames y; clear_value y)
    | (extract_lets +onlyGivenNames y; subst y)
    | with_reducible apply State.put_keeps
    | with_reducible apply State.setGrp_keeps
    | with_reducible apply Keeps.ite
    | split

theorem State.refAsk_keeps {k0 : Nat} {r0 : State} (s : State) (g : Nat) (hr : Keeps k0 r0 s) (hm : Sub 8589934596 k0 := by exact hm.of (by decide)) : Keeps k0 r0 (State.refAsk s g) := by
  unfold State.refAsk
  repeat' first
    | with_reducible assumption
    | exact hm.of (by decide)
    | (extract_lets +onlyGivenNames y; have hy : Keeps k0 r0 y := ?_; clear_value y; rotate_left; subst y)
    | (extract_lets +onlyGivenNames y; have hy : Keeps k0 r0 y.1 := ?_; clear_value y; rotate_left; subst y)
    | (extract_lets +onlyGivenNames y; clear_value y)
    | (extract_lets +onlyGivenNames y; subst y)
    | with_reducible apply State.refSettle_keeps
    | with_reducible apply State.setGrp_keeps
    | with_reducible apply Keeps.ite
    | split

theorem State.dropNote_keeps {k0 : Nat} {r0 : State} (s : State) (was : State) (g : Nat) (hr : Keeps k0 r0 s) (hm : Sub 8589934592 k0 := by exact hm.of (by decide)) : Keeps k0 r0 (State.dropNote s was g) := by
  unfold State.dropNote
  repeat' first
    | with_reducible assumption
    | exact hm.of (by decide)
    | with_reducible apply State.setGrp_keeps
    | with_reducible apply Keeps.ite
    | split

theorem State.setVset_keeps {k0 : Nat} {r0 : State} (s : State) (g v : Nat) (hr : Keeps k0 r0 s) (hm : Sub 8589934596 k0 := by exact hm.of (by decide)) : Keeps k0 r0 (State.setVset s g v) := by
  unfold State.setVset
  repeat' first
    | with_reducible assumption
    | exact hm.of (by decide)
    | with_reducible apply State.put_keeps
    | with_reducible apply State.dropNote_keeps

theorem State.loopJoin_keeps {k0 : Nat} {r0 : State} (s : State) (x : Nat) (hr : Keeps k0 r0 s) (hm : Sub 4 k0 := by exact hm.of (by decide)) : Keeps k0 r0 (State.loopJoin s x) := by
  unfold State.loopJoin
  repeat' first
    | with_reducible assumption
    | exact hm.of (by decide)
    | with_reducible apply State.put_keeps
    | with_reducible apply Keeps.ite
    | split

theorem State.unwatch_keeps {k0 : Nat} {r0 : State} (s : State) (x : Nat) (hr : Keeps k0 r0 s) (hm : Sub 8589934592 k0 := by exact hm.of (by decide)) : Keeps k0 r0 (State.unwatch s x) := by
  unfold State.unwatch
  repeat' first
    | with_reducible assumption
    | exact hm.of (by decide)
    | with_reducible apply State.setLoop_keeps

theorem State.loopDrop_keeps {k0 : Nat} {r0 : State} (s : State) (x : Nat) (hr : Keeps k0 r0 s) (hm : Sub 8589934596 k0 := by exact hm.of (by decide)) : Keeps k0 r0 (State.loopDrop s x) := by
  unfold State.loopDrop
  repeat' first
    | with_reducible assumption
    | exact hm.of (by decide)
    | with_reducible apply State.unwatch_keeps
    | with_reducible apply State.put_keeps
    | with_reducible apply Keeps.ite
    | split

theorem State.loopLatch_keeps {k0 : Nat} {r0 : State} (s : State) (x : Nat) (hr : Keeps k0 r0 s) (hm : Sub 283467841540 k0 := by exact hm.of (by decide)) : Keeps k0 r0 (State.loopLatch s x) := by
  unfold State.loopLatch
  repeat' first
    | with_reducible assumption
    | exact hm.of (by decide)
    | with_reducible apply State.unwatch_keeps
    | with_reducible apply State.put_keeps
    | with_reducible apply State.cnt_keeps
    | with_reducible apply State.raise_keeps
    | with_reducible apply Keeps.ite
    | split

theorem State.loopFault_keeps {k0 : Nat} {r0 : State} (s : State) (x : Nat) (tooHigh : Bool) (hr : Keeps k0 r0 s) (hm : Sub 283467841540 k0 := by exact hm.of (by decide)) : Keeps k0 r0 (State.loopFault s x tooHigh) := by
  unfold State.loopFault
  repeat' first
    | with_reducible assumption
    | exact hm.of (by decide)
    | (extract_lets +onlyGivenNames y; have hy : Keeps k0 r0 y := ?_; clear_value y; rotate_left; subst y)
    | (extract_lets +onlyGivenNames y; have hy : Keeps k0 r0 y.1 := ?_; clear_value y; rotate_left; subst y)
    | (extract_lets +onlyGivenNames y; clear_value y)
    | (extract_lets +onlyGivenNames y; subst y)
    | with_reducible apply State.put_keeps
    | with_reducible apply State.cnt_keeps
    | with_reducible apply State.raise_keeps
    | with_reducible apply State.setVset_keeps
    | with_reducible apply State.setLoop_keeps
    | with_reducible apply State.loopLatch_keeps
    | with_reducible apply Keeps.ite
    | split

theorem State.startSoft_keeps {k0 : Nat} {r0 : State} (s : State) (g : Nat) (hr : Keeps k0 r0 s) (hm : Sub 8589934724 k0 := by exact hm.of (by decide)) : Keeps k0 r0 (State.startSoft s g) := by
  unfold State.startSoft
  repeat' first
    | with_reducible assumption
    | exact hm.of (by decide)
    | (extract_lets +onlyGivenNames y; have hy : Keeps k0 r0 y := ?_; clear_value y; rotate_left; subst y)
    | (extract_lets +onlyGivenNames y; have hy : Keeps k0 r0 y.1 := ?_; clear_value y; rotate_left; subst y)
    | (extract_lets +onlyGivenNames y; clear_value y)
    | (extract_lets +onlyGivenNames y; subst y)
    | with_reducible apply State.drew_keeps
    | with_reducible apply State.setGrp_keeps
    | with_reducible apply State.put_keeps
    | with_reducible apply Keeps.ite
    | split

theorem State.phasesOff_keeps {k0 : Nat} {r0 : State} (s : State) (g : Nat) (hr : Keeps k0 r0 s) (hm : Sub 8589934596 k0 := by exact hm.of (by decide)) : Keeps k0 r0 (State.phasesOff s g) := by
  unfold State.phasesOff
  repeat' first
    | with_reducible assumption
    | exact hm.of (by decide)
    | (extract_lets +onlyGivenNames y; have hy : Keeps k0 r0 y := ?_; clear_value y; rotate_left; subst y)
    | (extract_lets +onlyGivenNames y; have hy : Keeps k0 r0 y.1 := ?_; clear_value y; rotate_left; subst y)
    | (extract_lets +onlyGivenNames y; clear_value y)
    | (extract_lets +onlyGivenNames y; subst y)
    | with_reducible apply State.put_keeps
    | with_reducible apply State.setGrp_keeps
    | with_reducible apply State.loopDrop_keeps

theorem State.groupOff_keeps {k0 : Nat} {r0 : State} (s : State) (g : Nat) (hr : Keeps k0 r0 s) (hm : Sub 8589934596 k0 := by exact hm.of (by decide)) : Keeps k0 r0 (State.groupOff s g) := by
  unfold State.groupOff
  repeat' first
    | with_reducible assumption
    | exact hm.of (by decide)
    | with_reducible apply State.phasesOff_keeps
    | with_reducible apply State.put_keeps

theorem State.groupLatch_keeps {k0 : Nat} {r0 : State} (s : State) (g : Nat) (hr : Keeps k0 r0 s) (hm : Sub 283467841540 k0 := by exact hm.of (by decide)) : Keeps k0 r0 (State.groupLatch s g) := by
  unfold State.groupLatch
  repeat' first
    | with_reducible assumption
    | exact hm.of (by decide)
    | (extract_lets +onlyGivenNames y; have hy : Keeps k0 r0 y := ?_; clear_value y; rotate_left; subst y)
    | (extract_lets +onlyGivenNames y; have hy : Keeps k0 r0 y.1 := ?_; clear_value y; rotate_left; subst y)
    | (extract_lets +onlyGivenNames y; clear_value y)
    | (extract_lets +onlyGivenNames y; subst y)
    | with_reducible apply State.phasesOff_keeps
    | with_reducible apply State.put_keeps
    | with_reducible apply State.raise_keeps
    | with_reducible apply State.loopLatch_keeps

theorem State.groupHiccup_keeps {k0 : Nat} {r0 : State} (s : State) (g : Nat) (hr : Keeps k0 r0 s) (hm : Sub 283467841540 k0 := by exact hm.of (by decide)) : Keeps k0 r0 (State.groupHiccup s g) := by
  unfold State.groupHiccup
  repeat' first
    | with_reducible assumption
    | exact hm.of (by decide)
    | (extract_lets +onlyGivenNames y; have hy : Keeps k0 r0 y := ?_; clear_value y; rotate_left; subst y)
    | (extract_lets +onlyGivenNames y; have hy : Keeps k0 r0 y.1 := ?_; clear_value y; rotate_left; subst y)
    | (extract_lets +onlyGivenNames y; clear_value y)
    | (extract_lets +onlyGivenNames y; subst y)
    | with_reducible apply State.phasesOff_keeps
    | with_reducible apply State.put_keeps
    | with_reducible apply State.cnt_keeps
    | with_reducible apply State.setGrp_keeps
    | with_reducible apply State.raise_keeps
    | with_reducible apply State.groupLatch_keeps
    | with_reducible apply Keeps.ite
    | split

theorem State.groupFault_keeps {k0 : Nat} {r0 : State} (s : State) (g : Nat) (hr : Keeps k0 r0 s) (hm : Sub 283467841540 k0 := by exact hm.of (by decide)) : Keeps k0 r0 (State.groupFault s g) := by
  unfold State.groupFault
  repeat' first
    | with_reducible assumption
    | exact hm.of (by decide)
    | with_reducible apply State.put_keeps
    | with_reducible apply State.groupHiccup_keeps
    | with_reducible apply Keeps.ite
    | split

theorem State.groupSenseCheck_keeps {k0 : Nat} {r0 : State} (s : State) (g : Nat) (hr : Keeps k0 r0 s) (hm : Sub 283467841540 k0 := by exact hm.of (by decide)) : Keeps k0 r0 (State.groupSenseCheck s g) := by
  unfold State.groupSenseCheck
  repeat' first
    | with_reducible assumption
    | exact hm.of (by decide)
    | (extract_lets +onlyGivenNames y; have hy : Keeps k0 r0 y := ?_; clear_value y; rotate_left; subst y)
    | (extract_lets +onlyGivenNames y; have hy : Keeps k0 r0 y.1 := ?_; clear_value y; rotate_left; subst y)
    | (extract_lets +onlyGivenNames y; clear_value y)
    | (extract_lets +onlyGivenNames y; subst y)
    | with_reducible apply State.groupLatch_keeps
    | with_reducible apply Keeps.ite
    | split

theorem State.declareOpen_keeps {k0 : Nat} {r0 : State} (s : State) (g j : Nat) (hr : Keeps k0 r0 s) (hm : Sub 283467841540 k0 := by exact hm.of (by decide)) : Keeps k0 r0 (State.declareOpen s g j) := by
  unfold State.declareOpen
  repeat' first
    | with_reducible assumption
    | exact hm.of (by decide)
    | (extract_lets +onlyGivenNames y; have hy : Keeps k0 r0 y := ?_; clear_value y; rotate_left; subst y)
    | (extract_lets +onlyGivenNames y; have hy : Keeps k0 r0 y.1 := ?_; clear_value y; rotate_left; subst y)
    | (extract_lets +onlyGivenNames y; clear_value y)
    | (extract_lets +onlyGivenNames y; subst y)
    | with_reducible apply State.refAsk_keeps
    | with_reducible apply State.setGrp_keeps
    | with_reducible apply State.clrBitOf_keeps
    | with_reducible apply State.setBitOf_keeps
    | with_reducible apply State.raise_keeps
    | with_reducible apply State.groupSenseCheck_keeps
    | with_reducible apply Keeps.ite
    | split

theorem State.declareSense_keeps {k0 : Nat} {r0 : State} (s : State) (g j : Nat) (hr : Keeps k0 r0 s) (hm : Sub 283467841540 k0 := by exact hm.of (by decide)) : Keeps k0 r0 (State.declareSense s g j) := by
  unfold State.declareSense
  repeat' first
    | with_reducible assumption
    | exact hm.of (by decide)
    | (extract_lets +onlyGivenNames y; have hy : Keeps k0 r0 y := ?_; clear_value y; rotate_left; subst y)
    | (extract_lets +onlyGivenNames y; have hy : Keeps k0 r0 y.1 := ?_; clear_value y; rotate_left; subst y)
    | (extract_lets +onlyGivenNames y; clear_value y)
    | (extract_lets +onlyGivenNames y; subst y)
    | with_reducible apply State.setGrp_keeps
    | with_reducible apply State.setBitOf_keeps
    | with_reducible apply State.raise_keeps
    | with_reducible apply State.groupSenseCheck_keeps
    | with_reducible apply Keeps.ite
    | split

theorem State.grpApply_keeps {k0 : Nat} {r0 : State} (s : State) (g : Nat) (v : Word) (hr : Keeps k0 r0 s) (hm : Sub 8589934724 k0 := by exact hm.of (by decide)) : Keeps k0 r0 (State.grpApply s g v) := by
  unfold State.grpApply
  repeat' first
    | with_reducible assumption
    | exact hm.of (by decide)
    | (extract_lets +onlyGivenNames y; have hy : Keeps k0 r0 y := ?_; clear_value y; rotate_left; subst y)
    | (extract_lets +onlyGivenNames y; have hy : Keeps k0 r0 y.1 := ?_; clear_value y; rotate_left; subst y)
    | (extract_lets +onlyGivenNames y; clear_value y)
    | (extract_lets +onlyGivenNames y; subst y)
    | with_reducible apply State.setReg_keeps
    | with_reducible apply State.startSoft_keeps
    | with_reducible apply State.setVset_keeps
    | with_reducible apply State.setGrp_keeps
    | with_reducible apply State.groupOff_keeps
    | with_reducible apply Keeps.ite
    | split

theorem State.groupMin_keeps {k0 : Nat} {r0 : State} (s : State) (x : Nat) (hr : Keeps k0 r0 s) (hm : Sub 8589934596 k0 := by exact hm.of (by decide)) : Keeps k0 r0 (State.groupMin s x) := by
  unfold State.groupMin
  repeat' first
    | with_reducible assumption
    | exact hm.of (by decide)
    | with_reducible apply State.setVset_keeps
    | with_reducible apply Keeps.ite
    | split

theorem State.loopApply_keeps {k0 : Nat} {r0 : State} (s : State) (x : Nat) (v : Word) (hr : Keeps k0 r0 s) (hm : Sub 8589934596 k0 := by exact hm.of (by decide)) : Keeps k0 r0 (State.loopApply s x v) := by
  unfold State.loopApply
  repeat' first
    | with_reducible assumption
    | exact hm.of (by decide)
    | (extract_lets +onlyGivenNames y; have hy : Keeps k0 r0 y := ?_; clear_value y; rotate_left; subst y)
    | (extract_lets +onlyGivenNames y; have hy : Keeps k0 r0 y.1 := ?_; clear_value y; rotate_left; subst y)
    | (extract_lets +onlyGivenNames y; clear_value y)
    | (extract_lets +onlyGivenNames y; subst y)
    | with_reducible apply State.setReg_keeps
    | with_reducible apply State.put_keeps
    | with_reducible apply State.loopJoin_keeps
    | with_reducible apply State.unwatch_keeps
    | with_reducible apply State.groupMin_keeps
    | with_reducible apply Keeps.ite
    | split

theorem State.relock_keeps {k0 : Nat} {r0 : State} (s : State) (g : Nat) (hr : Keeps k0 r0 s) (hm : Sub 8589934596 k0 := by exact hm.of (by decide)) : Keeps k0 r0 (State.relock s g) := by
  unfold State.relock
  repeat' first
    | with_reducible assumption
    | exact hm.of (by decide)
    | with_reducible apply State.setGrp_keeps
    | with_reducible apply State.put_keeps

theorem State.syncApply_keeps {k0 : Nat} {r0 : State} (s : State) (a : Nat) (v : Word) (hr : Keeps k0 r0 s) (hm : Sub 8589934596 k0 := by exact hm.of (by decide)) : Keeps k0 r0 (State.syncApply s a v) := by
  unfold State.syncApply
  repeat' first
    | with_reducible assumption
    | exact hm.of (by decide)
    | (extract_lets +onlyGivenNames y; have hy : Keeps k0 r0 y := ?_; clear_value y; rotate_left; subst y)
    | (extract_lets +onlyGivenNames y; have hy : Keeps k0 r0 y.1 := ?_; clear_value y; rotate_left; subst y)
    | (extract_lets +onlyGivenNames y; clear_value y)
    | (extract_lets +onlyGivenNames y; subst y)
    | with_reducible apply State.refAsk_keeps
    | with_reducible apply State.setReg_keeps
    | with_reducible apply State.setGrp_keeps

theorem State.auxApply_keeps {k0 : Nat} {r0 : State} (s : State) (a : Nat) (v : Word) (hr : Keeps k0 r0 s) (hm : Sub 8589934724 k0 := by exact hm.of (by decide)) : Keeps k0 r0 (State.auxApply s a v) := by
  unfold State.auxApply
  repeat' first
    | with_reducible assumption
    | exact hm.of (by decide)
    | with_reducible apply State.grpApply_keeps
    | with_reducible apply State.loopApply_keeps
    | with_reducible apply State.syncApply_keeps
    | with_reducible apply State.setReg_keeps
    | with_reducible apply Keeps.ite
    | split

theorem State.auxNow_keeps {k0 : Nat} {r0 : State} (s : State) (a : Nat) (v : Word) (hr : Keeps k0 r0 s) (hm : Sub 8589934724 k0 := by exact hm.of (by decide)) : Keeps k0 r0 (State.auxNow s a v) := by
  unfold State.auxNow
  repeat' first
    | with_reducible assumption
    | exact hm.of (by decide)
    | (extract_lets +onlyGivenNames y; have hy : Keeps k0 r0 y := ?_; clear_value y; rotate_left; subst y)
    | (extract_lets +onlyGivenNames y; have hy : Keeps k0 r0 y.1 := ?_; clear_value y; rotate_left; subst y)
    | (extract_lets +onlyGivenNames y; clear_value y)
    | (extract_lets +onlyGivenNames y; subst y)
    | with_reducible apply State.auxApply_keeps
    | with_reducible apply Keeps.ite
    | split
    | with_reducible apply Keeps.upd_aux

theorem State.auxTakeBack_keeps {k0 : Nat} {r0 : State} (s : State) (hr : Keeps k0 r0 s) (hm : Sub 8589934724 k0 := by exact hm.of (by decide)) : Keeps k0 r0 (State.auxTakeBack s) := by
  unfold State.auxTakeBack
  repeat' first
    | with_reducible assumption
    | exact hm.of (by decide)
    | (extract_lets +onlyGivenNames y; have hy : Keeps k0 r0 y := ?_; clear_value y; rotate_left; subst y)
    | (extract_lets +onlyGivenNames y; have hy : Keeps k0 r0 y.1 := ?_; clear_value y; rotate_left; subst y)
    | (extract_lets +onlyGivenNames y; clear_value y)
    | (extract_lets +onlyGivenNames y; subst y)
    | with_reducible apply State.setReg_keeps
    | with_reducible apply State.auxApply_keeps
    | with_reducible apply Keeps.ite
    | split
    | (with_reducible refine Keeps.foldl ?_ (fun u x h => ?_))
    | with_reducible apply Keeps.upd_aux

theorem State.auxCommit_keeps {k0 : Nat} {r0 : State} (s : State) (a : Nat) (v : Word) (hr : Keeps k0 r0 s) (hm : Sub 8589934724 k0 := by exact hm.of (by decide)) : Keeps k0 r0 (State.auxCommit s a v) := by
  unfold State.auxCommit
  repeat' first
    | with_reducible assumption
    | exact hm.of (by decide)
    | with_reducible apply State.auxNow_keeps
    | with_reducible apply Keeps.ite
    | split
    | with_reducible apply Keeps.upd_aux

theorem State.auxWrite_keeps {k0 : Nat} {r0 : State} (s : State) (a : Nat) (v : Word) (hr : Keeps k0 r0 s) (hm : Sub 8589934724 k0 := by exact hm.of (by decide)) : Keeps k0 r0 (State.auxWrite s a v) := by
  unfold State.auxWrite
  repeat' first
    | with_reducible assumption
    | exact hm.of (by decide)
    | with_reducible apply State.auxNow_keeps
    | with_reducible apply Keeps.ite
    | split
    | with_reducible apply Keeps.upd_aux

theorem State.applyHeld_keeps {k0 : Nat} {r0 : State} (s : State) (hr : Keeps k0 r0 s) (hm : Sub 8589934724 k0 := by exact hm.of (by decide)) : Keeps k0 r0 (State.applyHeld s) := by
  unfold State.applyHeld
  repeat' first
    | with_reducible assumption
    | exact hm.of (by decide)
    | with_reducible apply State.auxApply_keeps
    | (with_reducible refine Keeps.foldl ?_ (fun u x h => ?_))
    | with_reducible apply Keeps.upd_aux

theorem State.updateFreeze_keeps {k0 : Nat} {r0 : State} (s : State) (hr : Keeps k0 r0 s) (hm : Sub 283467841668 k0 := by exact hm.of (by decide)) : Keeps k0 r0 (State.updateFreeze s) := by
  unfold State.updateFreeze
  repeat' first
    | with_reducible assumption
    | exact hm.of (by decide)
    | with_reducible apply State.auxTakeBack_keeps
    | with_reducible apply State.put_keeps
    | with_reducible apply State.cnt_keeps
    | with_reducible apply State.raise_keeps
    | with_reducible apply State.applyHeld_keeps
    | with_reducible apply Keeps.ite
    | split

theorem State.judgePower_keeps {k0 : Nat} {r0 : State} (s : State) (hr : Keeps k0 r0 s) (hm : Sub 275146342532 k0 := by exact hm.of (by decide)) : Keeps k0 r0 (State.judgePower s) := by
  unfold State.judgePower
  repeat' first
    | with_reducible assumption
    | exact hm.of (by decide)
    | (extract_lets +onlyGivenNames y; have hy : Keeps k0 r0 y := ?_; clear_value y; rotate_left; subst y)
    | (extract_lets +onlyGivenNames y; have hy : Keeps k0 r0 y.1 := ?_; clear_value y; rotate_left; subst y)
    | (extract_lets +onlyGivenNames y; clear_value y)
    | (extract_lets +onlyGivenNames y; subst y)
    | with_reducible apply State.put_keeps
    | with_reducible apply State.rtcRecord_keeps
    | with_reducible apply State.raise_keeps
    | with_reducible apply State.drew_keeps
    | with_reducible apply Keeps.ite
    | split

theorem State.feedChange_keeps {k0 : Nat} {r0 : State} (s : State) (feed v : Nat) (hr : Keeps k0 r0 s) (hm : Sub 275146342532 k0 := by exact hm.of (by decide)) : Keeps k0 r0 (State.feedChange s feed v) := by
  unfold State.feedChange
  repeat' first
    | with_reducible assumption
    | exact hm.of (by decide)
    | (extract_lets +onlyGivenNames y; have hy : Keeps k0 r0 y := ?_; clear_value y; rotate_left; subst y)
    | (extract_lets +onlyGivenNames y; have hy : Keeps k0 r0 y.1 := ?_; clear_value y; rotate_left; subst y)
    | (extract_lets +onlyGivenNames y; clear_value y)
    | (extract_lets +onlyGivenNames y; subst y)
    | with_reducible apply State.put_keeps
    | with_reducible apply State.cnt_keeps
    | with_reducible apply State.raise_keeps
    | with_reducible apply State.judgePower_keeps
    | with_reducible apply Keeps.ite
    | split

theorem execFeedJudge_keeps {k0 : Nat} {r0 : State} (feed : Fin 2) (dc : Bool) (v : Nat) (s : State) (hr : Keeps k0 r0 s) (hm : Sub 283736277124 k0 := by exact hm.of (by decide)) : KeepsO k0 r0 (execFeedJudge feed dc v s) := by
  unfold execFeedJudge
  repeat' first
    | with_reducible assumption
    | exact hm.of (by decide)
    | with_reducible apply KeepsO.next
    | (extract_lets +onlyGivenNames y; have hy : Keeps k0 r0 y := ?_; clear_value y; rotate_left; subst y)
    | (extract_lets +onlyGivenNames y; have hy := fun a => y a; clear hy; subst y; beta_reduce)
    | (extract_lets +onlyGivenNames y; have hy : Keeps k0 r0 y.1 := ?_; clear_value y; rotate_left; subst y)
    | (extract_lets +onlyGivenNames y; clear_value y)
    | (extract_lets +onlyGivenNames y; subst y)
    | with_reducible apply State.put_keeps
    | with_reducible apply State.feedChange_keeps
    | with_reducible apply Keeps.ite
    | split
    | with_reducible apply Keeps.upd_aux

theorem State.setBus_keeps {k0 : Nat} {r0 : State} (s : State) (mv : Nat) (hr : Keeps k0 r0 s) (hm : Sub 8589934592 k0 := by exact hm.of (by decide)) : Keeps k0 r0 (State.setBus s mv) := by
  unfold State.setBus
  repeat' first
    | with_reducible assumption
    | exact hm.of (by decide)
    | (extract_lets +onlyGivenNames y; have hy : Keeps k0 r0 y := ?_; clear_value y; rotate_left; subst y)
    | (extract_lets +onlyGivenNames y; have hy : Keeps k0 r0 y.1 := ?_; clear_value y; rotate_left; subst y)
    | (extract_lets +onlyGivenNames y; clear_value y)
    | (extract_lets +onlyGivenNames y; subst y)
    | with_reducible apply State.dropNote_keeps
    | with_reducible apply Keeps.upd_aux

theorem execBus54vLow_keeps {k0 : Nat} {r0 : State} (mv : Nat) (s : State) (hr : Keeps k0 r0 s) (hm : Sub 8589934596 k0 := by exact hm.of (by decide)) : KeepsO k0 r0 (execBus54vLow mv s) := by
  unfold execBus54vLow
  repeat' first
    | with_reducible assumption
    | exact hm.of (by decide)
    | with_reducible apply KeepsO.next
    | (extract_lets +onlyGivenNames y; have hy : Keeps k0 r0 y := ?_; clear_value y; rotate_left; subst y)
    | (extract_lets +onlyGivenNames y; have hy : Keeps k0 r0 y.1 := ?_; clear_value y; rotate_left; subst y)
    | (extract_lets +onlyGivenNames y; clear_value y)
    | (extract_lets +onlyGivenNames y; subst y)
    | with_reducible apply State.setBus_keeps
    | with_reducible apply State.groupOff_keeps
    | with_reducible apply Keeps.ite
    | split
    | (with_reducible refine Keeps.foldl ?_ (fun u x h => ?_))

theorem execBus54vReturn_keeps {k0 : Nat} {r0 : State} (mv : Nat) (s : State) (hr : Keeps k0 r0 s) (hm : Sub 8589934724 k0 := by exact hm.of (by decide)) : KeepsO k0 r0 (execBus54vReturn mv s) := by
  unfold execBus54vReturn
  repeat' first
    | with_reducible assumption
    | exact hm.of (by decide)
    | with_reducible apply KeepsO.next
    | (extract_lets +onlyGivenNames y; have hy : Keeps k0 r0 y := ?_; clear_value y; rotate_left; subst y)
    | (extract_lets +onlyGivenNames y; have hy : Keeps k0 r0 y.1 := ?_; clear_value y; rotate_left; subst y)
    | (extract_lets +onlyGivenNames y; clear_value y)
    | (extract_lets +onlyGivenNames y; subst y)
    | with_reducible apply State.setBus_keeps
    | with_reducible apply State.startSoft_keeps
    | with_reducible apply Keeps.ite
    | split
    | (with_reducible refine Keeps.foldl ?_ (fun u x h => ?_))

theorem execGroupEnable_keeps {k0 : Nat} {r0 : State} (g : Fin 2) (v : Word) (s : State) (hr : Keeps k0 r0 s) (hm : Sub 8589934724 k0 := by exact hm.of (by decide)) : KeepsO k0 r0 (execGroupEnable g v s) := by
  unfold execGroupEnable
  repeat' first
    | with_reducible assumption
    | exact hm.of (by decide)
    | with_reducible apply KeepsO.next
    | with_reducible apply State.auxCommit_keeps

theorem State.charged_keeps {k0 : Nat} {r0 : State} (s : State) (g : Nat) (hr : Keeps k0 r0 s) (hm : Sub 17179869184 k0 := by exact hm.of (by decide)) : Keeps k0 r0 (State.charged s g) := by
  unfold State.charged
  repeat' first
    | with_reducible assumption
    | exact hm.of (by decide)
    | with_reducible apply State.setHb_keeps
    | (with_reducible refine Keeps.foldl ?_ (fun u x h => ?_))

theorem execSoftStartComplete_keeps {k0 : Nat} {r0 : State} (g : Fin 2) (holdTicks : Nat) (s : State) (hr : Keeps k0 r0 s) (hm : Sub 301050363910 k0 := by exact hm.of (by decide)) : KeepsO k0 r0 (execSoftStartComplete g holdTicks s) := by
  unfold execSoftStartComplete
  repeat' first
    | with_reducible assumption
    | exact hm.of (by decide)
    | with_reducible apply KeepsO.next
    | (extract_lets +onlyGivenNames y; have hy : Keeps k0 r0 y := ?_; clear_value y; rotate_left; subst y)
    | (extract_lets +onlyGivenNames y; have hy : Keeps k0 r0 y.1 := ?_; clear_value y; rotate_left; subst y)
    | (extract_lets +onlyGivenNames y; clear_value y)
    | (extract_lets +onlyGivenNames y; subst y)
    | with_reducible apply State.until_keeps
    | with_reducible apply State.charged_keeps
    | with_reducible apply State.put_keeps
    | with_reducible apply State.dropNote_keeps
    | with_reducible apply State.loopJoin_keeps
    | with_reducible apply State.groupSenseCheck_keeps
    | with_reducible apply Keeps.ite
    | split

theorem execHiccupExpiry_keeps {k0 : Nat} {r0 : State} (g : Fin 2) (s : State) (hr : Keeps k0 r0 s) (hm : Sub 283870494854 k0 := by exact hm.of (by decide)) : KeepsO k0 r0 (execHiccupExpiry g s) := by
  unfold execHiccupExpiry
  repeat' first
    | with_reducible assumption
    | exact hm.of (by decide)
    | with_reducible apply KeepsO.next
    | (extract_lets +onlyGivenNames y; have hy : Keeps k0 r0 y := ?_; clear_value y; rotate_left; subst y)
    | (extract_lets +onlyGivenNames y; have hy : Keeps k0 r0 y.1 := ?_; clear_value y; rotate_left; subst y)
    | (extract_lets +onlyGivenNames y; clear_value y)
    | (extract_lets +onlyGivenNames y; subst y)
    | with_reducible apply State.until_keeps
    | with_reducible apply State.setGrp_keeps
    | with_reducible apply State.startSoft_keeps
    | with_reducible apply State.groupLatch_keeps
    | with_reducible apply Keeps.ite
    | split

theorem State.groupUnlatch_keeps {k0 : Nat} {r0 : State} (s : State) (g : Nat) (hr : Keeps k0 r0 s) (hm : Sub 8589934724 k0 := by exact hm.of (by decide)) : Keeps k0 r0 (State.groupUnlatch s g) := by
  unfold State.groupUnlatch
  repeat' first
    | with_reducible assumption
    | exact hm.of (by decide)
    | (extract_lets +onlyGivenNames y; have hy : Keeps k0 r0 y := ?_; clear_value y; rotate_left; subst y)
    | (extract_lets +onlyGivenNames y; have hy : Keeps k0 r0 y.1 := ?_; clear_value y; rotate_left; subst y)
    | (extract_lets +onlyGivenNames y; clear_value y)
    | (extract_lets +onlyGivenNames y; subst y)
    | with_reducible apply State.put_keeps
    | with_reducible apply State.setGrp_keeps
    | with_reducible apply State.startSoft_keeps
    | with_reducible apply State.groupOff_keeps
    | with_reducible apply Keeps.ite
    | split

theorem execGroupLatchClear_keeps {k0 : Nat} {r0 : State} (g : Fin 2) (s : State) (hr : Keeps k0 r0 s) (hm : Sub 8589934724 k0 := by exact hm.of (by decide)) : KeepsO k0 r0 (execGroupLatchClear g s) := by
  unfold execGroupLatchClear
  repeat' first
    | with_reducible assumption
    | exact hm.of (by decide)
    | with_reducible apply KeepsO.next
    | with_reducible apply State.groupUnlatch_keeps

theorem State.startPulse_keeps {k0 : Nat} {r0 : State} (s : State) (g j : Nat) (hr : Keeps k0 r0 s) (hm : Sub 8589934720 k0 := by exact hm.of (by decide)) : Keeps k0 r0 (State.startPulse s g j) := by
  unfold State.startPulse
  repeat' first
    | with_reducible assumption
    | exact hm.of (by decide)
    | (extract_lets +onlyGivenNames y; have hy : Keeps k0 r0 y := ?_; clear_value y; rotate_left; subst y)
    | (extract_lets +onlyGivenNames y; have hy : Keeps k0 r0 y.1 := ?_; clear_value y; rotate_left; subst y)
    | (extract_lets +onlyGivenNames y; clear_value y)
    | (extract_lets +onlyGivenNames y; subst y)
    | with_reducible apply State.drew_keeps
    | with_reducible apply State.setGrp_keeps
    | with_reducible apply Keeps.ite
    | split

theorem State.syncJudge_keeps {k0 : Nat} {r0 : State} (s : State) (g err : Nat) (hr : Keeps k0 r0 s) (hm : Sub 283467841540 k0 := by exact hm.of (by decide)) : Keeps k0 r0 (State.syncJudge s g err) := by
  unfold State.syncJudge
  repeat' first
    | with_reducible assumption
    | exact hm.of (by decide)
    | (extract_lets +onlyGivenNames y; have hy : Keeps k0 r0 y := ?_; clear_value y; rotate_left; subst y)
    | (extract_lets +onlyGivenNames y; have hy : Keeps k0 r0 y.1 := ?_; clear_value y; rotate_left; subst y)
    | (extract_lets +onlyGivenNames y; clear_value y)
    | (extract_lets +onlyGivenNames y; subst y)
    | with_reducible apply State.err_keeps
    | with_reducible apply State.setGrp_keeps
    | with_reducible apply State.put_keeps
    | with_reducible apply State.raise_keeps
    | with_reducible apply Keeps.ite
    | split

theorem State.turnOn_keeps {k0 : Nat} {r0 : State} (g : Nat) (s : State) (c : Nat) (hr : Keeps k0 r0 s) (hm : Sub 283870494854 k0 := by exact hm.of (by decide)) : Keeps k0 r0 (State.turnOn g s c) := by
  unfold State.turnOn
  repeat' first
    | with_reducible assumption
    | exact hm.of (by decide)
    | (extract_lets +onlyGivenNames y; have hy : Keeps k0 r0 y := ?_; clear_value y; rotate_left; subst y)
    | (extract_lets +onlyGivenNames y; have hy : Keeps k0 r0 y.1 := ?_; clear_value y; rotate_left; subst y)
    | (extract_lets +onlyGivenNames y; clear_value y)
    | (extract_lets +onlyGivenNames y; subst y)
    | with_reducible apply State.untilCtb_keeps
    | with_reducible apply State.refSettle_keeps
    | with_reducible apply State.setGrp_keeps
    | with_reducible apply State.put_keeps
    | with_reducible apply State.startPulse_keeps
    | with_reducible apply State.syncJudge_keeps
    | with_reducible apply Keeps.ite
    | split

theorem execSyncLockChange_keeps {k0 : Nat} {r0 : State} (g : Fin 2) (trips : List Nat) (s : State) (hr : Keeps k0 r0 s) (hm : Sub 283870494854 k0 := by exact hm.of (by decide)) : KeepsO k0 r0 (execSyncLockChange g trips s) := by
  unfold execSyncLockChange
  repeat' first
    | with_reducible assumption
    | exact hm.of (by decide)
    | with_reducible apply KeepsO.next
    | with_reducible apply State.turnOn_keeps
    | (with_reducible refine Keeps.foldl ?_ (fun u x h => ?_))

theorem State.judgePhase_keeps {k0 : Nat} {r0 : State} (g : Nat) (active : List Nat) (w : PhaseWindow) (s : State) (j : Nat) (hr : Keeps k0 r0 s) (hm : Sub 283467841540 k0 := by exact hm.of (by decide)) : Keeps k0 r0 (State.judgePhase g active w s j) := by
  unfold State.judgePhase
  repeat' first
    | with_reducible assumption
    | exact hm.of (by decide)
    | (extract_lets +onlyGivenNames y; have hy : Keeps k0 r0 y := ?_; clear_value y; rotate_left; subst y)
    | (extract_lets +onlyGivenNames y; have hy : Keeps k0 r0 y.1 := ?_; clear_value y; rotate_left; subst y)
    | (extract_lets +onlyGivenNames y; clear_value y)
    | (extract_lets +onlyGivenNames y; subst y)
    | with_reducible apply State.setGrp_keeps
    | with_reducible apply State.declareOpen_keeps
    | with_reducible apply State.declareSense_keeps
    | with_reducible apply Keeps.ite
    | split

theorem execPhaseWindowEnd_keeps {k0 : Nat} {r0 : State} (g : Fin 2) (w : PhaseWindow) (s : State) (hr : Keeps k0 r0 s) (hm : Sub 283467841540 k0 := by exact hm.of (by decide)) : KeepsO k0 r0 (execPhaseWindowEnd g w s) := by
  unfold execPhaseWindowEnd
  repeat' first
    | with_reducible assumption
    | exact hm.of (by decide)
    | with_reducible apply KeepsO.next
    | (extract_lets +onlyGivenNames y; have hy : Keeps k0 r0 y := ?_; clear_value y; rotate_left; subst y)
    | (extract_lets +onlyGivenNames y; have hy : Keeps k0 r0 y.1 := ?_; clear_value y; rotate_left; subst y)
    | (extract_lets +onlyGivenNames y; clear_value y)
    | (extract_lets +onlyGivenNames y; subst y)
    | with_reducible apply State.judgePhase_keeps
    | with_reducible apply Keeps.ite
    | split
    | (with_reducible refine Keeps.foldl ?_ (fun u x h => ?_))

theorem State.readmitOpen_keeps {k0 : Nat} {r0 : State} (g : Nat) (s : State) (j : Nat) (hr : Keeps k0 r0 s) (hm : Sub 8589934596 k0 := by exact hm.of (by decide)) : Keeps k0 r0 (State.readmitOpen g s j) := by
  unfold State.readmitOpen
  repeat' first
    | with_reducible assumption
    | exact hm.of (by decide)
    | (extract_lets +onlyGivenNames y; have hy : Keeps k0 r0 y := ?_; clear_value y; rotate_left; subst y)
    | (extract_lets +onlyGivenNames y; have hy : Keeps k0 r0 y.1 := ?_; clear_value y; rotate_left; subst y)
    | (extract_lets +onlyGivenNames y; clear_value y)
    | (extract_lets +onlyGivenNames y; subst y)
    | with_reducible apply State.cnt_keeps
    | with_reducible apply State.setGrp_keeps
    | with_reducible apply State.clrBitOf_keeps
    | with_reducible apply State.refAsk_keeps
    | with_reducible apply Keeps.ite
    | split

theorem State.readmitSense_keeps {k0 : Nat} {r0 : State} (g : Nat) (s : State) (j : Nat) (hr : Keeps k0 r0 s) (hm : Sub 8589934596 k0 := by exact hm.of (by decide)) : Keeps k0 r0 (State.readmitSense g s j) := by
  unfold State.readmitSense
  repeat' first
    | with_reducible assumption
    | exact hm.of (by decide)
    | (extract_lets +onlyGivenNames y; have hy : Keeps k0 r0 y := ?_; clear_value y; rotate_left; subst y)
    | (extract_lets +onlyGivenNames y; have hy : Keeps k0 r0 y.1 := ?_; clear_value y; rotate_left; subst y)
    | (extract_lets +onlyGivenNames y; clear_value y)
    | (extract_lets +onlyGivenNames y; subst y)
    | with_reducible apply State.cnt_keeps
    | with_reducible apply State.setGrp_keeps
    | with_reducible apply State.clrBitOf_keeps
    | with_reducible apply State.refAsk_keeps
    | with_reducible apply Keeps.ite
    | split

theorem State.readmit_keeps {k0 : Nat} {r0 : State} (s : State) (g openBits senseBits : Nat) (hr : Keeps k0 r0 s) (hm : Sub 8589934596 k0 := by exact hm.of (by decide)) : Keeps k0 r0 (State.readmit s g openBits senseBits) := by
  unfold State.readmit
  repeat' first
    | with_reducible assumption
    | exact hm.of (by decide)
    | (extract_lets +onlyGivenNames y; have hy : Keeps k0 r0 y := ?_; clear_value y; rotate_left; subst y)
    | (extract_lets +onlyGivenNames y; have hy : Keeps k0 r0 y.1 := ?_; clear_value y; rotate_left; subst y)
    | (extract_lets +onlyGivenNames y; clear_value y)
    | (extract_lets +onlyGivenNames y; subst y)
    | with_reducible apply State.readmitOpen_keeps
    | with_reducible apply State.readmitSense_keeps
    | (with_reducible refine Keeps.foldl ?_ (fun u x h => ?_))

theorem execPhaseReadmit_keeps {k0 : Nat} {r0 : State} (g : Fin 2) (openBits senseBits : BitVec 3) (s : State) (hr : Keeps k0 r0 s) (hm : Sub 8589934596 k0 := by exact hm.of (by decide)) : KeepsO k0 r0 (execPhaseReadmit g openBits senseBits s) := by
  unfold execPhaseReadmit
  repeat' first
    | with_reducible assumption
    | exact hm.of (by decide)
    | with_reducible apply KeepsO.next
    | with_reducible apply State.readmit_keeps

theorem execLoopEnable_keeps {k0 : Nat} {r0 : State} (x : Fin 2) (v : Word) (s : State) (hr : Keeps k0 r0 s) (hm : Sub 8589934724 k0 := by exact hm.of (by decide)) : KeepsO k0 r0 (execLoopEnable x v s) := by
  unfold execLoopEnable
  repeat' first
    | with_reducible assumption
    | exact hm.of (by decide)
    | with_reducible apply KeepsO.next
    | with_reducible apply State.auxCommit_keeps

theorem State.stepVset_keeps {k0 : Nat} {r0 : State} (s : State) (x : Nat) (m : LoopMeas) (hr : Keeps k0 r0 s) (hm : Sub 8589934724 k0 := by exact hm.of (by decide)) : Keeps k0 r0 (State.stepVset s x m) := by
  unfold State.stepVset
  repeat' first
    | with_reducible assumption
    | exact hm.of (by decide)
    | (extract_lets +onlyGivenNames y; have hy : Keeps k0 r0 y := ?_; clear_value y; rotate_left; subst y)
    | (extract_lets +onlyGivenNames y; have hy : Keeps k0 r0 y.1 := ?_; clear_value y; rotate_left; subst y)
    | (extract_lets +onlyGivenNames y; clear_value y)
    | (extract_lets +onlyGivenNames y; subst y)
    | with_reducible apply State.drew_keeps
    | with_reducible apply State.setVset_keeps
    | with_reducible apply Keeps.ite
    | split

theorem State.watchLoop_keeps {k0 : Nat} {r0 : State} (s : State) (x : Nat) (m : LoopMeas) (hr : Keeps k0 r0 s) (hm : Sub 8589934592 k0 := by exact hm.of (by decide)) : Keeps k0 r0 (State.watchLoop s x m) := by
  unfold State.watchLoop
  repeat' first
    | with_reducible assumption
    | exact hm.of (by decide)
    | (extract_lets +onlyGivenNames y; have hy : Keeps k0 r0 y := ?_; clear_value y; rotate_left; subst y)
    | (extract_lets +onlyGivenNames y; have hy := fun a => y a; clear hy; subst y; beta_reduce)
    | (extract_lets +onlyGivenNames y; have hy : Keeps k0 r0 y.1 := ?_; clear_value y; rotate_left; subst y)
    | (extract_lets +onlyGivenNames y; clear_value y)
    | (extract_lets +onlyGivenNames y; subst y)
    | with_reducible apply State.setLoop_keeps
    | with_reducible apply Keeps.ite
    | split

theorem execLoopControlUpdate_keeps {k0 : Nat} {r0 : State} (x : Fin 2) (m : LoopMeas) (s : State) (hr : Keeps k0 r0 s) (hm : Sub 283870495366 k0 := by exact hm.of (by decide)) : KeepsO k0 r0 (execLoopControlUpdate x m s) := by
  unfold execLoopControlUpdate
  repeat' first
    | with_reducible assumption
    | exact hm.of (by decide)
    | with_reducible apply KeepsO.next
    | (extract_lets +onlyGivenNames y; have hy : Keeps k0 r0 y := ?_; clear_value y; rotate_left; subst y)
    | (extract_lets +onlyGivenNames y; have hy : Keeps k0 r0 y.1 := ?_; clear_value y; rotate_left; subst y)
    | (extract_lets +onlyGivenNames y; clear_value y)
    | (extract_lets +onlyGivenNames y; subst y)
    | with_reducible apply State.until_keeps
    | with_reducible apply State.setLoop_keeps
    | with_reducible apply State.put_keeps
    | with_reducible apply State.complete_keeps
    | with_reducible apply State.stepVset_keeps
    | with_reducible apply State.watchLoop_keeps
    | with_reducible apply State.loopFault_keeps
    | with_reducible apply Keeps.ite
    | split

theorem execLoopRetry_keeps {k0 : Nat} {r0 : State} (x : Fin 2) (s : State) (hr : Keeps k0 r0 s) (hm : Sub 402653190 k0 := by exact hm.of (by decide)) : KeepsO k0 r0 (execLoopRetry x s) := by
  unfold execLoopRetry
  repeat' first
    | with_reducible assumption
    | exact hm.of (by decide)
    | with_reducible apply KeepsO.next
    | (extract_lets +onlyGivenNames y; have hy : Keeps k0 r0 y := ?_; clear_value y; rotate_left; subst y)
    | (extract_lets +onlyGivenNames y; have hy : Keeps k0 r0 y.1 := ?_; clear_value y; rotate_left; subst y)
    | (extract_lets +onlyGivenNames y; clear_value y)
    | (extract_lets +onlyGivenNames y; subst y)
    | with_reducible apply State.until_keeps
    | with_reducible apply State.put_keeps
    | with_reducible apply State.loopJoin_keeps
    | with_reducible apply Keeps.ite
    | split

theorem State.loopUnlatch_keeps {k0 : Nat} {r0 : State} (s : State) (x : Nat) (hr : Keeps k0 r0 s) (hm : Sub 8589934596 k0 := by exact hm.of (by decide)) : Keeps k0 r0 (State.loopUnlatch s x) := by
  unfold State.loopUnlatch
  repeat' first
    | with_reducible assumption
    | exact hm.of (by decide)
    | (extract_lets +onlyGivenNames y; have hy : Keeps k0 r0 y := ?_; clear_value y; rotate_left; subst y)
    | (extract_lets +onlyGivenNames y; have hy : Keeps k0 r0 y.1 := ?_; clear_value y; rotate_left; subst y)
    | (extract_lets +onlyGivenNames y; clear_value y)
    | (extract_lets +onlyGivenNames y; subst y)
    | with_reducible apply State.put_keeps
    | with_reducible apply State.loopJoin_keeps
    | with_reducible apply State.groupMin_keeps
    | with_reducible apply Keeps.ite
    | split

theorem execLoopLatchClear_keeps {k0 : Nat} {r0 : State} (x : Fin 2) (s : State) (hr : Keeps k0 r0 s) (hm : Sub 8589934596 k0 := by exact hm.of (by decide)) : KeepsO k0 r0 (execLoopLatchClear x s) := by
  unfold execLoopLatchClear
  repeat' first
    | with_reducible assumption
    | exact hm.of (by decide)
    | with_reducible apply KeepsO.next
    | with_reducible apply State.loopUnlatch_keeps

theorem State.hold_keeps {k0 : Nat} {r0 : State} (g : Nat) (s : State) (t : TelSample) (hr : Keeps k0 r0 s) (hm : Sub 8589934596 k0 := by exact hm.of (by decide)) : Keeps k0 r0 (State.hold g s t) := by
  unfold State.hold
  repeat' first
    | with_reducible assumption
    | exact hm.of (by decide)
    | (extract_lets +onlyGivenNames y; have hy : Keeps k0 r0 y := ?_; clear_value y; rotate_left; subst y)
    | (extract_lets +onlyGivenNames y; have hy : Keeps k0 r0 y.1 := ?_; clear_value y; rotate_left; subst y)
    | (extract_lets +onlyGivenNames y; clear_value y)
    | (extract_lets +onlyGivenNames y; subst y)
    | with_reducible apply State.setGrp_keeps
    | with_reducible apply State.setBus_keeps
    | with_reducible apply State.put_keeps
    | with_reducible apply Keeps.ite
    | split

theorem State.publishTel_keeps {k0 : Nat} {r0 : State} (s : State) (g : Nat) (l : List TelSample) (hr : Keeps k0 r0 s) (hm : Sub 512 k0 := by exact hm.of (by decide)) : Keeps k0 r0 (State.publishTel s g l) := by
  unfold State.publishTel
  repeat' first
    | with_reducible assumption
    | exact hm.of (by decide)
    | (extract_lets +onlyGivenNames y; have hy : Keeps k0 r0 y := ?_; clear_value y; rotate_left; subst y)
    | (extract_lets +onlyGivenNames y; have hy := fun a => y a; clear hy; subst y; beta_reduce)
    | (extract_lets +onlyGivenNames y; have hy : Keeps k0 r0 y.1 := ?_; clear_value y; rotate_left; subst y)
    | (extract_lets +onlyGivenNames y; clear_value y)
    | (extract_lets +onlyGivenNames y; subst y)
    | with_reducible apply State.complete_keeps
    | with_reducible apply Keeps.ite
    | split

theorem execTelemetryWindow_keeps {k0 : Nat} {r0 : State} (g : Fin 2) (samples : List TelSample) (s : State) (hr : Keeps k0 r0 s) (hm : Sub 8589935108 k0 := by exact hm.of (by decide)) : KeepsO k0 r0 (execTelemetryWindow g samples s) := by
  unfold execTelemetryWindow
  repeat' first
    | with_reducible assumption
    | exact hm.of (by decide)
    | with_reducible apply KeepsO.next
    | (extract_lets +onlyGivenNames y; have hy : Keeps k0 r0 y := ?_; clear_value y; rotate_left; subst y)
    | (extract_lets +onlyGivenNames y; have hy : Keeps k0 r0 y.1 := ?_; clear_value y; rotate_left; subst y)
    | (extract_lets +onlyGivenNames y; clear_value y)
    | (extract_lets +onlyGivenNames y; subst y)
    | with_reducible apply State.hold_keeps
    | with_reducible apply State.publishTel_keeps
    | with_reducible apply Keeps.ite
    | split
    | (with_reducible refine Keeps.foldl ?_ (fun u x h => ?_))
    | with_reducible apply Keeps.upd_aux

theorem State.peakClr_keeps {k0 : Nat} {r0 : State} (s : State) (hr : Keeps k0 r0 s) (hm : Sub 4 k0 := by exact hm.of (by decide)) : Keeps k0 r0 (State.peakClr s) := by
  unfold State.peakClr
  repeat' first
    | with_reducible assumption
    | exact hm.of (by decide)
    | with_reducible apply State.put_keeps
    | (with_reducible refine Keeps.foldl ?_ (fun u x h => ?_))

theorem execPeakClr_keeps {k0 : Nat} {r0 : State} (s : State) (hr : Keeps k0 r0 s) (hm : Sub 4 k0 := by exact hm.of (by decide)) : KeepsO k0 r0 (execPeakClr s) := by
  unfold execPeakClr
  repeat' first
    | with_reducible assumption
    | exact hm.of (by decide)
    | with_reducible apply KeepsO.next
    | with_reducible apply State.peakClr_keeps

end Sys2Proof.Machine
end

