-- ==== Sys2Proof/Laws/KeepsGdrv.lean ====
section
/-! SUPPORT. The operations of Machine/Gdrv.lean leave the queue alone and keep the canonical form of the stores. -/

set_option linter.unusedTactic false
set_option linter.unreachableTactic false

namespace Sys2Proof.Machine

theorem State.ownerDisabled_keeps {k0 : Nat} {r0 : State} (s : State) (h : Nat) (hr : Keeps k0 r0 s) (hm : Sub 283467841540 k0 := by exact hm.of (by decide)) : Keeps k0 r0 (State.ownerDisabled s h) := by
  unfold State.ownerDisabled
  repeat' first
    | with_reducible assumption
    | exact hm.of (by decide)
    | with_reducible apply State.declareOpen_keeps
    | with_reducible apply State.loopLatch_keeps
    | with_reducible apply Keeps.ite
    | split

theorem State.hbLasting_keeps {k0 : Nat} {r0 : State} (s : State) (h : Nat) (hr : Keeps k0 r0 s) (hm : Sub 283467841540 k0 := by exact hm.of (by decide)) : Keeps k0 r0 (State.hbLasting s h) := by
  unfold State.hbLasting
  repeat' first
    | with_reducible assumption
    | exact hm.of (by decide)
    | (extract_lets +onlyGivenNames y; have hy : Keeps k0 r0 y := ?_; clear_value y; rotate_left; subst y)
    | (extract_lets +onlyGivenNames y; have hy : Keeps k0 r0 y.1 := ?_; clear_value y; rotate_left; subst y)
    | (extract_lets +onlyGivenNames y; clear_value y)
    | (extract_lets +onlyGivenNames y; subst y)
    | with_reducible apply State.put_keeps
    | with_reducible apply State.setBitOf_keeps
    | with_reducible apply State.raise_keeps
    | with_reducible apply State.ownerDisabled_keeps
    | with_reducible apply Keeps.ite
    | split

theorem State.hbLatch_keeps {k0 : Nat} {r0 : State} (s : State) (h k : Nat) (hr : Keeps k0 r0 s) (hm : Sub 300647710724 k0 := by exact hm.of (by decide)) : Keeps k0 r0 (State.hbLatch s h k) := by
  unfold State.hbLatch
  repeat' first
    | with_reducible assumption
    | exact hm.of (by decide)
    | (extract_lets +onlyGivenNames y; have hy : Keeps k0 r0 y := ?_; clear_value y; rotate_left; subst y)
    | (extract_lets +onlyGivenNames y; have hy : Keeps k0 r0 y.1 := ?_; clear_value y; rotate_left; subst y)
    | (extract_lets +onlyGivenNames y; clear_value y)
    | (extract_lets +onlyGivenNames y; subst y)
    | with_reducible apply State.setHb_keeps
    | with_reducible apply State.setBitOf_keeps
    | with_reducible apply State.put_keeps
    | with_reducible apply State.hbLasting_keeps

theorem execGdrvXcmd_keeps {k0 : Nat} {r0 : State} (h : Fin 10) (s : State) (hr : Keeps k0 r0 s) (hm : Sub 300647710724 k0 := by exact hm.of (by decide)) : KeepsO k0 r0 (execGdrvXcmd h s) := by
  unfold execGdrvXcmd
  repeat' first
    | with_reducible assumption
    | exact hm.of (by decide)
    | with_reducible apply KeepsO.next
    | with_reducible apply State.put_keeps
    | with_reducible apply State.cnt_keeps
    | with_reducible apply State.raise_keeps
    | with_reducible apply State.hbLatch_keeps
    | with_reducible apply Keeps.ite
    | split

theorem State.ownerSense_keeps {k0 : Nat} {r0 : State} (s : State) (h : Nat) (hr : Keeps k0 r0 s) (hm : Sub 283467841540 k0 := by exact hm.of (by decide)) : Keeps k0 r0 (State.ownerSense s h) := by
  unfold State.ownerSense
  repeat' first
    | with_reducible assumption
    | exact hm.of (by decide)
    | (extract_lets +onlyGivenNames y; have hy : Keeps k0 r0 y := ?_; clear_value y; rotate_left; subst y)
    | (extract_lets +onlyGivenNames y; have hy : Keeps k0 r0 y.1 := ?_; clear_value y; rotate_left; subst y)
    | (extract_lets +onlyGivenNames y; clear_value y)
    | (extract_lets +onlyGivenNames y; subst y)
    | with_reducible apply State.groupFault_keeps
    | with_reducible apply State.loopFault_keeps
    | with_reducible apply Keeps.ite
    | split

theorem State.senseTrip_keeps {k0 : Nat} {r0 : State} (s : State) (h : Nat) (high : Bool) (hr : Keeps k0 r0 s) (hm : Sub 300647710724 k0 := by exact hm.of (by decide)) : Keeps k0 r0 (State.senseTrip s h high) := by
  unfold State.senseTrip
  repeat' first
    | with_reducible assumption
    | exact hm.of (by decide)
    | (extract_lets +onlyGivenNames y; have hy : Keeps k0 r0 y := ?_; clear_value y; rotate_left; subst y)
    | (extract_lets +onlyGivenNames y; have hy : Keeps k0 r0 y.1 := ?_; clear_value y; rotate_left; subst y)
    | (extract_lets +onlyGivenNames y; clear_value y)
    | (extract_lets +onlyGivenNames y; subst y)
    | with_reducible apply State.put_keeps
    | with_reducible apply State.cnt_keeps
    | with_reducible apply State.raise_keeps
    | with_reducible apply State.ownerSense_keeps
    | with_reducible apply State.hbLatch_keeps
    | with_reducible apply Keeps.ite
    | split

theorem execGdrvSenseTrip_keeps {k0 : Nat} {r0 : State} (h : Fin 10) (high : Bool) (s : State) (hr : Keeps k0 r0 s) (hm : Sub 300647710724 k0 := by exact hm.of (by decide)) : KeepsO k0 r0 (execGdrvSenseTrip h high s) := by
  unfold execGdrvSenseTrip
  repeat' first
    | with_reducible assumption
    | exact hm.of (by decide)
    | with_reducible apply KeepsO.next
    | with_reducible apply State.senseTrip_keeps

theorem execSoftStartFail_keeps {k0 : Nat} {r0 : State} (g : Fin 2) (why : SoftStartFail) (s : State) (hr : Keeps k0 r0 s) (hm : Sub 301050363910 k0 := by exact hm.of (by decide)) : KeepsO k0 r0 (execSoftStartFail g why s) := by
  unfold execSoftStartFail
  repeat' first
    | with_reducible assumption
    | exact hm.of (by decide)
    | with_reducible apply KeepsO.next
    | (extract_lets +onlyGivenNames y; have hy : Keeps k0 r0 y := ?_; clear_value y; rotate_left; subst y)
    | (extract_lets +onlyGivenNames y; have hy : Keeps k0 r0 y.1 := ?_; clear_value y; rotate_left; subst y)
    | (extract_lets +onlyGivenNames y; clear_value y)
    | (extract_lets +onlyGivenNames y; subst y)
    | with_reducible apply State.until_keeps
    | with_reducible apply State.groupFault_keeps
    | with_reducible apply State.senseTrip_keeps
    | with_reducible apply Keeps.ite
    | split

theorem execGroupOutputFault_keeps {k0 : Nat} {r0 : State} (g : Fin 2) (sense : Option (Fin 3 × Bool)) (s : State) (hr : Keeps k0 r0 s) (hm : Sub 300647710724 k0 := by exact hm.of (by decide)) : KeepsO k0 r0 (execGroupOutputFault g sense s) := by
  unfold execGroupOutputFault
  repeat' first
    | with_reducible assumption
    | exact hm.of (by decide)
    | with_reducible apply KeepsO.next
    | (extract_lets +onlyGivenNames y; have hy : Keeps k0 r0 y := ?_; clear_value y; rotate_left; subst y)
    | (extract_lets +onlyGivenNames y; have hy : Keeps k0 r0 y.1 := ?_; clear_value y; rotate_left; subst y)
    | (extract_lets +onlyGivenNames y; clear_value y)
    | (extract_lets +onlyGivenNames y; subst y)
    | with_reducible apply State.groupFault_keeps
    | with_reducible apply State.senseTrip_keeps
    | with_reducible apply Keeps.ite
    | split

theorem execGdrvBstUv_keeps {k0 : Nat} {r0 : State} (h : Fin 10) (mv : Nat) (s : State) (hr : Keeps k0 r0 s) (hm : Sub 300647710724 k0 := by exact hm.of (by decide)) : KeepsO k0 r0 (execGdrvBstUv h mv s) := by
  unfold execGdrvBstUv
  repeat' first
    | with_reducible assumption
    | exact hm.of (by decide)
    | with_reducible apply KeepsO.next
    | (extract_lets +onlyGivenNames y; have hy : Keeps k0 r0 y := ?_; clear_value y; rotate_left; subst y)
    | (extract_lets +onlyGivenNames y; have hy : Keeps k0 r0 y.1 := ?_; clear_value y; rotate_left; subst y)
    | (extract_lets +onlyGivenNames y; clear_value y)
    | (extract_lets +onlyGivenNames y; subst y)
    | with_reducible apply State.setHb_keeps
    | with_reducible apply State.put_keeps
    | with_reducible apply State.cnt_keeps
    | with_reducible apply State.raise_keeps
    | with_reducible apply State.hbLatch_keeps
    | with_reducible apply Keeps.ite
    | split

theorem execGdrvRefresh_keeps {k0 : Nat} {r0 : State} (h : Fin 10) (slots mv wait : Nat) (s : State) (hr : Keeps k0 r0 s) (hm : Sub 17582522374 k0 := by exact hm.of (by decide)) : KeepsO k0 r0 (execGdrvRefresh h slots mv wait s) := by
  unfold execGdrvRefresh
  repeat' first
    | with_reducible assumption
    | exact hm.of (by decide)
    | with_reducible apply KeepsO.next
    | (extract_lets +onlyGivenNames y; have hy : Keeps k0 r0 y := ?_; clear_value y; rotate_left; subst y)
    | (extract_lets +onlyGivenNames y; have hy : Keeps k0 r0 y.1 := ?_; clear_value y; rotate_left; subst y)
    | (extract_lets +onlyGivenNames y; clear_value y)
    | (extract_lets +onlyGivenNames y; subst y)
    | with_reducible apply State.advance_keeps
    | with_reducible apply State.setHb_keeps
    | with_reducible apply State.cnt_keeps
    | with_reducible apply Keeps.ite
    | split

theorem State.hbRelease_keeps {k0 : Nat} {r0 : State} (s : State) (h : Nat) (e : GateEdge) (hr : Keeps k0 r0 s) (hm : Sub 17179869188 k0 := by exact hm.of (by decide)) : Keeps k0 r0 (State.hbRelease s h e) := by
  unfold State.hbRelease
  repeat' first
    | with_reducible assumption
    | exact hm.of (by decide)
    | (extract_lets +onlyGivenNames y; have hy : Keeps k0 r0 y := ?_; clear_value y; rotate_left; subst y)
    | (extract_lets +onlyGivenNames y; have hy : Keeps k0 r0 y.1 := ?_; clear_value y; rotate_left; subst y)
    | (extract_lets +onlyGivenNames y; clear_value y)
    | (extract_lets +onlyGivenNames y; subst y)
    | with_reducible apply State.setHb_keeps
    | with_reducible apply State.put_keeps
    | with_reducible apply State.clrBitOf_keeps
    | with_reducible apply Keeps.ite
    | split
    | (with_reducible refine Keeps.foldl ?_ (fun u x h => ?_))

theorem State.hbIgnore_keeps {k0 : Nat} {r0 : State} (s : State) (h : Nat) (high : Bool) (hr : Keeps k0 r0 s) (hm : Sub 17179869184 k0 := by exact hm.of (by decide)) : Keeps k0 r0 (State.hbIgnore s h high) := by
  unfold State.hbIgnore
  repeat' first
    | with_reducible assumption
    | exact hm.of (by decide)
    | (extract_lets +onlyGivenNames y; have hy : Keeps k0 r0 y := ?_; clear_value y; rotate_left; subst y)
    | (extract_lets +onlyGivenNames y; have hy : Keeps k0 r0 y.1 := ?_; clear_value y; rotate_left; subst y)
    | (extract_lets +onlyGivenNames y; clear_value y)
    | (extract_lets +onlyGivenNames y; subst y)
    | with_reducible apply State.setHb_keeps
    | with_reducible apply Keeps.ite
    | split

theorem execGdrvLatchRelease_keeps {k0 : Nat} {r0 : State} (h : Fin 10) (high : Bool) (e : GateEdge) (s : State) (hr : Keeps k0 r0 s) (hm : Sub 17179869188 k0 := by exact hm.of (by decide)) : KeepsO k0 r0 (execGdrvLatchRelease h high e s) := by
  unfold execGdrvLatchRelease
  repeat' first
    | with_reducible assumption
    | exact hm.of (by decide)
    | with_reducible apply KeepsO.next
    | (extract_lets +onlyGivenNames y; have hy : Keeps k0 r0 y := ?_; clear_value y; rotate_left; subst y)
    | (extract_lets +onlyGivenNames y; have hy : Keeps k0 r0 y.1 := ?_; clear_value y; rotate_left; subst y)
    | (extract_lets +onlyGivenNames y; clear_value y)
    | (extract_lets +onlyGivenNames y; subst y)
    | with_reducible apply State.hbRelease_keeps
    | with_reducible apply State.hbIgnore_keeps
    | with_reducible apply Keeps.ite
    | split

theorem State.hbRevive_keeps {k0 : Nat} {r0 : State} (s : State) (h : Nat) (hr : Keeps k0 r0 s) (hm : Sub 17179869188 k0 := by exact hm.of (by decide)) : Keeps k0 r0 (State.hbRevive s h) := by
  unfold State.hbRevive
  repeat' first
    | with_reducible assumption
    | exact hm.of (by decide)
    | with_reducible apply State.setHb_keeps
    | with_reducible apply State.clrBitOf_keeps

theorem State.hbEnable_keeps {k0 : Nat} {r0 : State} (s : State) (h : Nat) (hr : Keeps k0 r0 s) (hm : Sub 17179869188 k0 := by exact hm.of (by decide)) : Keeps k0 r0 (State.hbEnable s h) := by
  unfold State.hbEnable
  repeat' first
    | with_reducible assumption
    | exact hm.of (by decide)
    | with_reducible apply State.cnt_keeps
    | with_reducible apply State.put_keeps
    | with_reducible apply State.hbRevive_keeps
    | with_reducible apply Keeps.ite
    | split

theorem execGdrvDisabledClear_keeps {k0 : Nat} {r0 : State} (h : Fin 10) (bstMv : Nat) (s : State) (hr : Keeps k0 r0 s) (hm : Sub 17179869188 k0 := by exact hm.of (by decide)) : KeepsO k0 r0 (execGdrvDisabledClear h bstMv s) := by
  unfold execGdrvDisabledClear
  repeat' first
    | with_reducible assumption
    | exact hm.of (by decide)
    | with_reducible apply KeepsO.next
    | (extract_lets +onlyGivenNames y; have hy : Keeps k0 r0 y := ?_; clear_value y; rotate_left; subst y)
    | (extract_lets +onlyGivenNames y; have hy : Keeps k0 r0 y.1 := ?_; clear_value y; rotate_left; subst y)
    | (extract_lets +onlyGivenNames y; clear_value y)
    | (extract_lets +onlyGivenNames y; subst y)
    | with_reducible apply State.setHb_keeps
    | with_reducible apply State.hbEnable_keeps
    | with_reducible apply Keeps.ite
    | split

theorem gdrvCleared_keeps {k0 : Nat} {r0 : State} (s : State) (a : Nat) (bits : Nat) (hr : Keeps k0 r0 s) (hm : Sub 17179869188 k0 := by exact hm.of (by decide)) : Keeps k0 r0 (gdrvCleared s a bits) := by
  unfold gdrvCleared
  repeat' first
    | with_reducible assumption
    | exact hm.of (by decide)
    | with_reducible apply State.hbRevive_keeps
    | with_reducible apply Keeps.ite
    | split

end Sys2Proof.Machine
end

