-- ==== Sys2Proof/Laws/KeepsPwm.lean ====
section
/-! SUPPORT. The operations of Machine/Pwm.lean leave the queue alone and keep the canonical form of the stores. -/

set_option linter.unusedTactic false
set_option linter.unreachableTactic false

namespace Sys2Proof.Machine

theorem State.setPwm_keeps {k0 : Nat} {r0 : State} (s : State) (c : Nat) (x : PwmCh) (hr : Keeps k0 r0 s) (hm : Sub 34359738368 k0 := by exact hm.of (by decide)) : Keeps k0 r0 (State.setPwm s c x) := by
  unfold State.setPwm
  repeat' first
    | with_reducible assumption
    | exact hm.of (by decide)
    | with_reducible apply Keeps.upd_pwm

theorem State.setTripIn_keeps {k0 : Nat} {r0 : State} (s : State) (i : Nat) (x : TripIn) (hr : Keeps k0 r0 s) (hm : Sub 68719476736 k0 := by exact hm.of (by decide)) : Keeps k0 r0 (State.setTripIn s i x) := by
  unfold State.setTripIn
  repeat' first
    | with_reducible assumption
    | exact hm.of (by decide)
    | with_reducible apply Keeps.upd_tripIn

theorem State.movePwm_keeps {k0 : Nat} {r0 : State} (s : State) (c : Nat) (y : PwmCh) (hr : Keeps k0 r0 s) (hm : Sub 34359738368 k0 := by exact hm.of (by decide)) : Keeps k0 r0 (State.movePwm s c y) := by
  unfold State.movePwm
  repeat' first
    | with_reducible assumption
    | exact hm.of (by decide)
    | with_reducible apply State.setPwm_keeps

theorem State.pwmEnterTrip_keeps {k0 : Nat} {r0 : State} (s : State) (c : Nat) (hr : Keeps k0 r0 s) (hm : Sub 309237645316 k0 := by exact hm.of (by decide)) : Keeps k0 r0 (State.pwmEnterTrip s c) := by
  unfold State.pwmEnterTrip
  repeat' first
    | with_reducible assumption
    | exact hm.of (by decide)
    | (extract_lets +onlyGivenNames y; have hy : Keeps k0 r0 y := ?_; clear_value y; rotate_left; subst y)
    | (extract_lets +onlyGivenNames y; have hy : Keeps k0 r0 y.1 := ?_; clear_value y; rotate_left; subst y)
    | (extract_lets +onlyGivenNames y; clear_value y)
    | (extract_lets +onlyGivenNames y; subst y)
    | with_reducible apply State.setPwm_keeps
    | with_reducible apply State.movePwm_keeps
    | with_reducible apply State.put_keeps
    | with_reducible apply State.setBitOf_keeps
    | with_reducible apply State.cnt_keeps
    | with_reducible apply State.raise_keeps
    | with_reducible apply Keeps.ite
    | split

theorem State.pwmJudge_keeps {k0 : Nat} {r0 : State} (s : State) (c : Nat) (hr : Keeps k0 r0 s) (hm : Sub 309237645316 k0 := by exact hm.of (by decide)) : Keeps k0 r0 (State.pwmJudge s c) := by
  unfold State.pwmJudge
  repeat' first
    | with_reducible assumption
    | exact hm.of (by decide)
    | with_reducible apply State.pwmEnterTrip_keeps
    | with_reducible apply Keeps.ite
    | split

theorem State.pwmScan_keeps {k0 : Nat} {r0 : State} (s : State) (hr : Keeps k0 r0 s) (hm : Sub 309237645316 k0 := by exact hm.of (by decide)) : Keeps k0 r0 (State.pwmScan s) := by
  unfold State.pwmScan
  repeat' first
    | with_reducible assumption
    | exact hm.of (by decide)
    | with_reducible apply State.pwmJudge_keeps
    | (with_reducible refine Keeps.foldl ?_ (fun u x h => ?_))

theorem State.pwmLeaveTrip_keeps {k0 : Nat} {r0 : State} (s : State) (c : Nat) (hr : Keeps k0 r0 s) (hm : Sub 34359738372 k0 := by exact hm.of (by decide)) : Keeps k0 r0 (State.pwmLeaveTrip s c) := by
  unfold State.pwmLeaveTrip
  repeat' first
    | with_reducible assumption
    | exact hm.of (by decide)
    | with_reducible apply State.movePwm_keeps
    | with_reducible apply State.put_keeps
    | with_reducible apply State.clrBitOf_keeps

theorem execPwmTrip_keeps {k0 : Nat} {r0 : State} (c : Fin 16) (s : State) (hr : Keeps k0 r0 s) (hm : Sub 309237645316 k0 := by exact hm.of (by decide)) : KeepsO k0 r0 (execPwmTrip c s) := by
  unfold execPwmTrip
  repeat' first
    | with_reducible assumption
    | exact hm.of (by decide)
    | with_reducible apply KeepsO.next
    | with_reducible apply State.pwmJudge_keeps

theorem execPwmBlankEnd_keeps {k0 : Nat} {r0 : State} (i : Fin 8) (s : State) (hr : Keeps k0 r0 s) (hm : Sub 378359775238 k0 := by exact hm.of (by decide)) : KeepsO k0 r0 (execPwmBlankEnd i s) := by
  unfold execPwmBlankEnd
  repeat' first
    | with_reducible assumption
    | exact hm.of (by decide)
    | with_reducible apply KeepsO.next
    | (extract_lets +onlyGivenNames y; have hy : Keeps k0 r0 y := ?_; clear_value y; rotate_left; subst y)
    | (extract_lets +onlyGivenNames y; have hy : Keeps k0 r0 y.1 := ?_; clear_value y; rotate_left; subst y)
    | (extract_lets +onlyGivenNames y; clear_value y)
    | (extract_lets +onlyGivenNames y; subst y)
    | with_reducible apply State.until_keeps
    | with_reducible apply State.setTripIn_keeps
    | with_reducible apply State.pwmScan_keeps
    | with_reducible apply Keeps.ite
    | split

theorem execTripInputChange_keeps {k0 : Nat} {r0 : State} (i : Fin 8) (level : Bool) (widthNs : Nat) (s : State) (hr : Keeps k0 r0 s) (hm : Sub 377957122052 k0 := by exact hm.of (by decide)) : KeepsO k0 r0 (execTripInputChange i level widthNs s) := by
  unfold execTripInputChange
  repeat' first
    | with_reducible assumption
    | exact hm.of (by decide)
    | with_reducible apply KeepsO.next
    | (extract_lets +onlyGivenNames y; have hy : Keeps k0 r0 y := ?_; clear_value y; rotate_left; subst y)
    | (extract_lets +onlyGivenNames y; have hy : Keeps k0 r0 y.1 := ?_; clear_value y; rotate_left; subst y)
    | (extract_lets +onlyGivenNames y; clear_value y)
    | (extract_lets +onlyGivenNames y; subst y)
    | with_reducible apply State.setTripIn_keeps
    | with_reducible apply State.putBitOf_keeps
    | with_reducible apply State.pwmScan_keeps
    | with_reducible apply State.cnt_keeps
    | with_reducible apply Keeps.ite
    | split

theorem State.pwmClear_keeps {k0 : Nat} {r0 : State} (s : State) (c : Nat) (hr : Keeps k0 r0 s) (hm : Sub 34359738372 k0 := by exact hm.of (by decide)) : Keeps k0 r0 (State.pwmClear s c) := by
  unfold State.pwmClear
  repeat' first
    | with_reducible assumption
    | exact hm.of (by decide)
    | with_reducible apply State.cnt_keeps
    | with_reducible apply State.setPwm_keeps
    | with_reducible apply State.put_keeps
    | with_reducible apply Keeps.ite
    | split

theorem execPwmTripClear_keeps {k0 : Nat} {r0 : State} (c : Fin 16) (s : State) (hr : Keeps k0 r0 s) (hm : Sub 34359738372 k0 := by exact hm.of (by decide)) : KeepsO k0 r0 (execPwmTripClear c s) := by
  unfold execPwmTripClear
  repeat' first
    | with_reducible assumption
    | exact hm.of (by decide)
    | with_reducible apply KeepsO.next
    | with_reducible apply State.pwmClear_keeps
    | with_reducible apply Keeps.ite
    | split

theorem State.pwmPulse_keeps {k0 : Nat} {r0 : State} (s : State) (c upto : Nat) (hr : Keeps k0 r0 s) (hm : Sub 64 k0 := by exact hm.of (by decide)) : Keeps k0 r0 (State.pwmPulse s c upto) := by
  unfold State.pwmPulse
  repeat' first
    | with_reducible assumption
    | exact hm.of (by decide)
    | (extract_lets +onlyGivenNames y; have hy : Keeps k0 r0 y := ?_; clear_value y; rotate_left; subst y)
    | (extract_lets +onlyGivenNames y; have hy : Keeps k0 r0 y.1 := ?_; clear_value y; rotate_left; subst y)
    | (extract_lets +onlyGivenNames y; clear_value y)
    | (extract_lets +onlyGivenNames y; subst y)
    | with_reducible apply State.emit_keeps
    | with_reducible apply Keeps.ite
    | split

theorem State.pwmZero_keeps {k0 : Nat} {r0 : State} (s : State) (c : Nat) (hr : Keeps k0 r0 s) (hm : Sub 64 k0 := by exact hm.of (by decide)) : Keeps k0 r0 (State.pwmZero s c) := by
  unfold State.pwmZero
  repeat' first
    | with_reducible assumption
    | exact hm.of (by decide)
    | with_reducible apply State.emit_keeps
    | with_reducible apply Keeps.ite
    | split

theorem State.pwmStart_keeps {k0 : Nat} {r0 : State} (s : State) (c : Nat) (hr : Keeps k0 r0 s) (hm : Sub 34359738432 k0 := by exact hm.of (by decide)) : Keeps k0 r0 (State.pwmStart s c) := by
  unfold State.pwmStart
  repeat' first
    | with_reducible assumption
    | exact hm.of (by decide)
    | (extract_lets +onlyGivenNames y; have hy : Keeps k0 r0 y := ?_; clear_value y; rotate_left; subst y)
    | (extract_lets +onlyGivenNames y; have hy : Keeps k0 r0 y.1 := ?_; clear_value y; rotate_left; subst y)
    | (extract_lets +onlyGivenNames y; clear_value y)
    | (extract_lets +onlyGivenNames y; subst y)
    | with_reducible apply State.movePwm_keeps
    | with_reducible apply State.pwmZero_keeps
    | with_reducible apply State.pwmPulse_keeps
    | with_reducible apply State.setPwm_keeps
    | with_reducible apply Keeps.ite
    | split

theorem execPwmChannelEnable_keeps {k0 : Nat} {r0 : State} (c : Fin 16) (en : Bool) (s : State) (hr : Keeps k0 r0 s) (hm : Sub 34359738436 k0 := by exact hm.of (by decide)) : KeepsO k0 r0 (execPwmChannelEnable c en s) := by
  unfold execPwmChannelEnable
  repeat' first
    | with_reducible assumption
    | exact hm.of (by decide)
    | with_reducible apply KeepsO.next
    | with_reducible apply State.put_keeps
    | with_reducible apply State.pwmStart_keeps

theorem execPwmCommit_keeps {k0 : Nat} {r0 : State} (mask : BitVec 16) (s : State) (hr : Keeps k0 r0 s) (hm : Sub 4 k0 := by exact hm.of (by decide)) : KeepsO k0 r0 (execPwmCommit mask s) := by
  unfold execPwmCommit
  repeat' first
    | with_reducible assumption
    | exact hm.of (by decide)
    | with_reducible apply KeepsO.next
    | with_reducible apply State.put_keeps

theorem execPwmCutoff_keeps {k0 : Nat} {r0 : State} (c : Fin 16) (s : State) (hr : Keeps k0 r0 s) (hm : Sub 309640298502 k0 := by exact hm.of (by decide)) : KeepsO k0 r0 (execPwmCutoff c s) := by
  unfold execPwmCutoff
  repeat' first
    | with_reducible assumption
    | exact hm.of (by decide)
    | with_reducible apply KeepsO.next
    | (extract_lets +onlyGivenNames y; have hy : Keeps k0 r0 y := ?_; clear_value y; rotate_left; subst y)
    | (extract_lets +onlyGivenNames y; have hy : Keeps k0 r0 y.1 := ?_; clear_value y; rotate_left; subst y)
    | (extract_lets +onlyGivenNames y; clear_value y)
    | (extract_lets +onlyGivenNames y; subst y)
    | with_reducible apply State.until_keeps
    | with_reducible apply State.setPwm_keeps
    | with_reducible apply State.clrBitOf_keeps
    | with_reducible apply State.raise_keeps
    | with_reducible apply Keeps.ite
    | split

theorem State.pwmEdge_keeps {k0 : Nat} {r0 : State} (s : State) (c : Nat) (hr : Keeps k0 r0 s) (hm : Sub 309237645380 k0 := by exact hm.of (by decide)) : Keeps k0 r0 (State.pwmEdge s c) := by
  unfold State.pwmEdge
  repeat' first
    | with_reducible assumption
    | exact hm.of (by decide)
    | (extract_lets +onlyGivenNames y; have hy : Keeps k0 r0 y := ?_; clear_value y; rotate_left; subst y)
    | (extract_lets +onlyGivenNames y; have hy : Keeps k0 r0 y.1 := ?_; clear_value y; rotate_left; subst y)
    | (extract_lets +onlyGivenNames y; clear_value y)
    | (extract_lets +onlyGivenNames y; subst y)
    | with_reducible apply State.movePwm_keeps
    | with_reducible apply State.raise_keeps
    | with_reducible apply State.pwmLeaveTrip_keeps
    | with_reducible apply State.pwmZero_keeps
    | with_reducible apply Keeps.ite
    | split

theorem State.pwmLoad_keeps {k0 : Nat} {r0 : State} (s : State) (c : Nat) (hr : Keeps k0 r0 s) (hm : Sub 309237645380 k0 := by exact hm.of (by decide)) : Keeps k0 r0 (State.pwmLoad s c) := by
  unfold State.pwmLoad
  repeat' first
    | with_reducible assumption
    | exact hm.of (by decide)
    | (extract_lets +onlyGivenNames y; have hy : Keeps k0 r0 y := ?_; clear_value y; rotate_left; subst y)
    | (extract_lets +onlyGivenNames y; have hy : Keeps k0 r0 y.1 := ?_; clear_value y; rotate_left; subst y)
    | (extract_lets +onlyGivenNames y; clear_value y)
    | (extract_lets +onlyGivenNames y; subst y)
    | with_reducible apply State.pwmEdge_keeps
    | with_reducible apply State.movePwm_keeps
    | with_reducible apply Keeps.ite
    | split

theorem execPwmReload_keeps {k0 : Nat} {r0 : State} (c : Fin 16) (s : State) (hr : Keeps k0 r0 s) (hm : Sub 309640298566 k0 := by exact hm.of (by decide)) : KeepsO k0 r0 (execPwmReload c s) := by
  unfold execPwmReload
  repeat' first
    | with_reducible assumption
    | exact hm.of (by decide)
    | with_reducible apply KeepsO.next
    | (extract_lets +onlyGivenNames y; have hy : Keeps k0 r0 y := ?_; clear_value y; rotate_left; subst y)
    | (extract_lets +onlyGivenNames y; have hy : Keeps k0 r0 y.1 := ?_; clear_value y; rotate_left; subst y)
    | (extract_lets +onlyGivenNames y; clear_value y)
    | (extract_lets +onlyGivenNames y; subst y)
    | with_reducible apply State.until_keeps
    | with_reducible apply State.pwmPulse_keeps
    | with_reducible apply State.pwmEdge_keeps
    | with_reducible apply Keeps.ite
    | split

theorem execPwmSync_keeps {k0 : Nat} {r0 : State} (c : Fin 16) (src : PwmSync) (s : State) (hr : Keeps k0 r0 s) (hm : Sub 309640298566 k0 := by exact hm.of (by decide)) : KeepsO k0 r0 (execPwmSync c src s) := by
  unfold execPwmSync
  repeat' first
    | with_reducible assumption
    | exact hm.of (by decide)
    | with_reducible apply KeepsO.next
    | (extract_lets +onlyGivenNames y; have hy : Keeps k0 r0 y := ?_; clear_value y; rotate_left; subst y)
    | (extract_lets +onlyGivenNames y; have hy : Keeps k0 r0 y.1 := ?_; clear_value y; rotate_left; subst y)
    | (extract_lets +onlyGivenNames y; clear_value y)
    | (extract_lets +onlyGivenNames y; subst y)
    | with_reducible apply State.pwmPulse_keeps
    | with_reducible apply State.advance_keeps
    | with_reducible apply State.pwmLoad_keeps
    | with_reducible apply Keeps.ite
    | split

theorem State.pwmEnterHalt_keeps {k0 : Nat} {r0 : State} (s : State) (c : Nat) (hr : Keeps k0 r0 s) (hm : Sub 34359738368 k0 := by exact hm.of (by decide)) : Keeps k0 r0 (State.pwmEnterHalt s c) := by
  unfold State.pwmEnterHalt
  repeat' first
    | with_reducible assumption
    | exact hm.of (by decide)
    | with_reducible apply State.movePwm_keeps
    | with_reducible apply Keeps.ite
    | split

theorem State.pwmEndHalt_keeps {k0 : Nat} {r0 : State} (s : State) (c : Nat) (hr : Keeps k0 r0 s) (hm : Sub 34359738368 k0 := by exact hm.of (by decide)) : Keeps k0 r0 (State.pwmEndHalt s c) := by
  unfold State.pwmEndHalt
  repeat' first
    | with_reducible assumption
    | exact hm.of (by decide)
    | (extract_lets +onlyGivenNames y; have hy : Keeps k0 r0 y := ?_; clear_value y; rotate_left; subst y)
    | (extract_lets +onlyGivenNames y; have hy : Keeps k0 r0 y.1 := ?_; clear_value y; rotate_left; subst y)
    | (extract_lets +onlyGivenNames y; clear_value y)
    | (extract_lets +onlyGivenNames y; subst y)
    | with_reducible apply State.setPwm_keeps
    | with_reducible apply State.movePwm_keeps
    | with_reducible apply Keeps.ite
    | split

theorem State.pwmHaltUpdate_keeps {k0 : Nat} {r0 : State} (s : State) (hr : Keeps k0 r0 s) (hm : Sub 317827579908 k0 := by exact hm.of (by decide)) : Keeps k0 r0 (State.pwmHaltUpdate s) := by
  unfold State.pwmHaltUpdate
  repeat' first
    | with_reducible assumption
    | exact hm.of (by decide)
    | (extract_lets +onlyGivenNames y; have hy : Keeps k0 r0 y := ?_; clear_value y; rotate_left; subst y)
    | (extract_lets +onlyGivenNames y; have hy : Keeps k0 r0 y.1 := ?_; clear_value y; rotate_left; subst y)
    | (extract_lets +onlyGivenNames y; clear_value y)
    | (extract_lets +onlyGivenNames y; subst y)
    | with_reducible apply State.pwmEnterHalt_keeps
    | with_reducible apply State.raise_keeps
    | with_reducible apply State.pwmEndHalt_keeps
    | with_reducible apply Keeps.ite
    | split
    | (with_reducible refine Keeps.foldl ?_ (fun u x h => ?_))
    | with_reducible apply Keeps.upd_aux

theorem State.pwmHaltModes_keeps {k0 : Nat} {r0 : State} (s : State) (hr : Keeps k0 r0 s) (hm : Sub 309237645316 k0 := by exact hm.of (by decide)) : Keeps k0 r0 (State.pwmHaltModes s) := by
  unfold State.pwmHaltModes
  repeat' first
    | with_reducible assumption
    | exact hm.of (by decide)
    | (extract_lets +onlyGivenNames y; have hy : Keeps k0 r0 y := ?_; clear_value y; rotate_left; subst y)
    | (extract_lets +onlyGivenNames y; have hy : Keeps k0 r0 y.1 := ?_; clear_value y; rotate_left; subst y)
    | (extract_lets +onlyGivenNames y; clear_value y)
    | (extract_lets +onlyGivenNames y; subst y)
    | with_reducible apply State.pwmEnterHalt_keeps
    | with_reducible apply State.raise_keeps
    | with_reducible apply Keeps.ite
    | split
    | (with_reducible refine Keeps.foldl ?_ (fun u x h => ?_))

theorem execSvrDebugHalt_keeps {k0 : Nat} {r0 : State} (s : State) (hr : Keeps k0 r0 s) (hm : Sub 317827580036 k0 := by exact hm.of (by decide)) : KeepsO k0 r0 (execSvrDebugHalt s) := by
  unfold execSvrDebugHalt
  repeat' first
    | with_reducible assumption
    | exact hm.of (by decide)
    | with_reducible apply KeepsO.next
    | with_reducible apply State.updateFreeze_keeps
    | with_reducible apply State.pwmHaltUpdate_keeps
    | with_reducible apply Keeps.upd_aux

theorem execSvrDebugRelease_keeps {k0 : Nat} {r0 : State} (s : State) (hr : Keeps k0 r0 s) (hm : Sub 317827580036 k0 := by exact hm.of (by decide)) : KeepsO k0 r0 (execSvrDebugRelease s) := by
  unfold execSvrDebugRelease
  repeat' first
    | with_reducible assumption
    | exact hm.of (by decide)
    | with_reducible apply KeepsO.next
    | with_reducible apply State.updateFreeze_keeps
    | with_reducible apply State.pwmHaltUpdate_keeps
    | with_reducible apply Keeps.upd_aux

theorem pwmCleared_keeps {k0 : Nat} {r0 : State} (s : State) (a bits : Nat) (hr : Keeps k0 r0 s) (hm : Sub 34359738368 k0 := by exact hm.of (by decide)) : Keeps k0 r0 (pwmCleared s a bits) := by
  unfold pwmCleared
  repeat' first
    | with_reducible assumption
    | exact hm.of (by decide)
    | with_reducible apply State.setPwm_keeps
    | with_reducible apply Keeps.ite
    | split

theorem pwmPostWrite_keeps {k0 : Nat} {r0 : State} (s : State) (a : Nat) (hr : Keeps k0 r0 s) (hm : Sub 309237645380 k0 := by exact hm.of (by decide)) : Keeps k0 r0 (pwmPostWrite s a) := by
  unfold pwmPostWrite
  repeat' first
    | with_reducible assumption
    | exact hm.of (by decide)
    | with_reducible apply State.pwmHaltModes_keeps
    | with_reducible apply State.pwmStart_keeps
    | with_reducible apply Keeps.ite
    | split

end Sys2Proof.Machine
end

