-- ==== Sys2Proof/Laws/KeepsTransmit.lean ====
section
/-! SUPPORT. The operations of Machine/Transmit.lean leave the queue alone and keep the canonical form of the stores. -/

set_option linter.unusedTactic false
set_option linter.unreachableTactic false

namespace Sys2Proof.Machine

theorem State.setLane_keeps {k0 : Nat} {r0 : State} (s : State) (n : Nat) (x : LaneX) (hr : Keeps k0 r0 s) (hm : Sub 8388608 k0 := by exact hm.of (by decide)) : Keeps k0 r0 (State.setLane s n x) := by
  unfold State.setLane
  repeat' first
    | with_reducible assumption
    | exact hm.of (by decide)
    | with_reducible apply Keeps.upd_lanes

theorem State.sendAt_keeps {k0 : Nat} {r0 : State} (s : State) (n st : Nat) (f : List (BitVec 64)) (hr : Keeps k0 r0 s) (hm : Sub 8388672 k0 := by exact hm.of (by decide)) : Keeps k0 r0 (State.sendAt s n st f) := by
  unfold State.sendAt
  repeat' first
    | with_reducible assumption
    | exact hm.of (by decide)
    | with_reducible apply State.setLane_keeps
    | with_reducible apply State.emit_keeps

theorem State.laneSend_keeps {k0 : Nat} {r0 : State} (s : State) (n : Nat) (f : List (BitVec 64)) (hr : Keeps k0 r0 s) (hm : Sub 8388672 k0 := by exact hm.of (by decide)) : Keeps k0 r0 (State.laneSend s n f) := by
  unfold State.laneSend
  repeat' first
    | with_reducible assumption
    | exact hm.of (by decide)
    | with_reducible apply State.sendAt_keeps

theorem State.sendMarkers_keeps {k0 : Nat} {r0 : State} (s : State) (n : Nat) (hr : Keeps k0 r0 s) (hm : Sub 8388672 k0 := by exact hm.of (by decide)) : Keeps k0 r0 (State.sendMarkers s n) := by
  unfold State.sendMarkers
  repeat' first
    | with_reducible assumption
    | exact hm.of (by decide)
    | (extract_lets +onlyGivenNames y; have hy : Keeps k0 r0 y := ?_; clear_value y; rotate_left; subst y)
    | (extract_lets +onlyGivenNames y; have hy : Keeps k0 r0 y.1 := ?_; clear_value y; rotate_left; subst y)
    | (extract_lets +onlyGivenNames y; clear_value y)
    | (extract_lets +onlyGivenNames y; subst y)
    | with_reducible apply State.setLane_keeps
    | with_reducible apply State.emit_keeps
    | with_reducible apply Keeps.ite
    | split

theorem State.markersDue_keeps {k0 : Nat} {r0 : State} (s : State) (n : Nat) (hr : Keeps k0 r0 s) (hm : Sub 8388672 k0 := by exact hm.of (by decide)) : Keeps k0 r0 (State.markersDue s n) := by
  unfold State.markersDue
  repeat' first
    | with_reducible assumption
    | exact hm.of (by decide)
    | with_reducible apply State.sendMarkers_keeps
    | with_reducible apply Keeps.ite
    | split

theorem State.startStream_keeps {k0 : Nat} {r0 : State} (s : State) (n : Nat) (hr : Keeps k0 r0 s) (hm : Sub 8388672 k0 := by exact hm.of (by decide)) : Keeps k0 r0 (State.startStream s n) := by
  unfold State.startStream
  repeat' first
    | with_reducible assumption
    | exact hm.of (by decide)
    | with_reducible apply State.setLane_keeps
    | with_reducible apply State.emit_keeps

theorem State.restartMarkers_keeps {k0 : Nat} {r0 : State} (s : State) (n : Nat) (hr : Keeps k0 r0 s) (hm : Sub 8388672 k0 := by exact hm.of (by decide)) : Keeps k0 r0 (State.restartMarkers s n) := by
  unfold State.restartMarkers
  repeat' first
    | with_reducible assumption
    | exact hm.of (by decide)
    | (extract_lets +onlyGivenNames y; have hy : Keeps k0 r0 y := ?_; clear_value y; rotate_left; subst y)
    | (extract_lets +onlyGivenNames y; have hy : Keeps k0 r0 y.1 := ?_; clear_value y; rotate_left; subst y)
    | (extract_lets +onlyGivenNames y; clear_value y)
    | (extract_lets +onlyGivenNames y; subst y)
    | with_reducible apply State.markersDue_keeps
    | with_reducible apply State.setLane_keeps

theorem State.haltLane_keeps {k0 : Nat} {r0 : State} (s : State) (n : Nat) (hr : Keeps k0 r0 s) (hm : Sub 8388672 k0 := by exact hm.of (by decide)) : Keeps k0 r0 (State.haltLane s n) := by
  unfold State.haltLane
  repeat' first
    | with_reducible assumption
    | exact hm.of (by decide)
    | (extract_lets +onlyGivenNames y; have hy : Keeps k0 r0 y := ?_; clear_value y; rotate_left; subst y)
    | (extract_lets +onlyGivenNames y; have hy : Keeps k0 r0 y.1 := ?_; clear_value y; rotate_left; subst y)
    | (extract_lets +onlyGivenNames y; clear_value y)
    | (extract_lets +onlyGivenNames y; subst y)
    | with_reducible apply State.sendMarkers_keeps
    | with_reducible apply State.setLane_keeps
    | with_reducible apply State.emit_keeps
    | with_reducible apply Keeps.ite
    | split

theorem State.unhaltLane_keeps {k0 : Nat} {r0 : State} (s : State) (n : Nat) (hr : Keeps k0 r0 s) (hm : Sub 8388672 k0 := by exact hm.of (by decide)) : Keeps k0 r0 (State.unhaltLane s n) := by
  unfold State.unhaltLane
  repeat' first
    | with_reducible assumption
    | exact hm.of (by decide)
    | with_reducible apply State.setLane_keeps
    | with_reducible apply State.emit_keeps
    | with_reducible apply Keeps.ite
    | split

theorem State.haltEdge_keeps {k0 : Nat} {r0 : State} (was : Bool) (s : State) (hr : Keeps k0 r0 s) (hm : Sub 137447342144 k0 := by exact hm.of (by decide)) : Keeps k0 r0 (State.haltEdge was s) := by
  unfold State.haltEdge
  repeat' first
    | with_reducible assumption
    | exact hm.of (by decide)
    | with_reducible apply State.unhaltLane_keeps
    | with_reducible apply State.haltLane_keeps
    | with_reducible apply Keeps.ite
    | split
    | (with_reducible refine Keeps.foldl ?_ (fun u x h => ?_))
    | with_reducible apply Keeps.upd_safe

end Sys2Proof.Machine
end

