-- ==== Sys2Proof/Laws/KeepsTrip.lean ====
section
/-! SUPPORT. The operations of Machine/Trip.lean leave the queue alone and keep the canonical form of the stores. -/

set_option linter.unusedTactic false
set_option linter.unreachableTactic false

namespace Sys2Proof.Machine

theorem State.setSafe_keeps {k0 : Nat} {r0 : State} (s : State) (v : Nat) (hr : Keeps k0 r0 s) (hm : Sub 4 k0 := by exact hm.of (by decide)) : Keeps k0 r0 (State.setSafe s v) := by
  unfold State.setSafe
  repeat' first
    | with_reducible assumption
    | exact hm.of (by decide)
    | with_reducible apply State.put_keeps

theorem State.driveOutputs_keeps {k0 : Nat} {r0 : State} (s : State) (hr : Keeps k0 r0 s) (hm : Sub 137438953476 k0 := by exact hm.of (by decide)) : Keeps k0 r0 (State.driveOutputs s) := by
  unfold State.driveOutputs
  repeat' first
    | with_reducible assumption
    | exact hm.of (by decide)
    | (extract_lets +onlyGivenNames y; have hy : Keeps k0 r0 y := ?_; clear_value y; rotate_left; subst y)
    | (extract_lets +onlyGivenNames y; have hy := fun a => y a; clear hy; subst y; beta_reduce)
    | (extract_lets +onlyGivenNames y; have hy : Keeps k0 r0 y.1 := ?_; clear_value y; rotate_left; subst y)
    | (extract_lets +onlyGivenNames y; clear_value y)
    | (extract_lets +onlyGivenNames y; subst y)
    | with_reducible apply State.put_keeps
    | with_reducible apply Keeps.ite
    | split
    | (with_reducible refine Keeps.foldl ?_ (fun u x h => ?_))
    | with_reducible apply Keeps.upd_safe

theorem State.enforce_keeps {k0 : Nat} {r0 : State} (s : State) (hr : Keeps k0 r0 s) (hm : Sub 455274922180 k0 := by exact hm.of (by decide)) : Keeps k0 r0 (State.enforce s) := by
  unfold State.enforce
  repeat' first
    | with_reducible assumption
    | exact hm.of (by decide)
    | (extract_lets +onlyGivenNames y; have hy : Keeps k0 r0 y := ?_; clear_value y; rotate_left; subst y)
    | (extract_lets +onlyGivenNames y; have hy : Keeps k0 r0 y.1 := ?_; clear_value y; rotate_left; subst y)
    | (extract_lets +onlyGivenNames y; clear_value y)
    | (extract_lets +onlyGivenNames y; subst y)
    | with_reducible apply State.put_keeps
    | with_reducible apply State.haltEdge_keeps
    | with_reducible apply State.driveOutputs_keeps
    | with_reducible apply State.updateFreeze_keeps
    | with_reducible apply State.pwmScan_keeps
    | with_reducible apply Keeps.ite
    | split

theorem State.yardLockout_keeps {k0 : Nat} {r0 : State} (s : State) (hr : Keeps k0 r0 s) (hm : Sub 262144 k0 := by exact hm.of (by decide)) : Keeps k0 r0 (State.yardLockout s) := by
  unfold State.yardLockout
  repeat' first
    | with_reducible assumption
    | exact hm.of (by decide)
    | with_reducible apply Keeps.ite
    | split
    | with_reducible apply Keeps.upd_yard

theorem State.recordCause_keeps {k0 : Nat} {r0 : State} (s : State) (c : Cause) (hr : Keeps k0 r0 s) (hm : Sub 4 k0 := by exact hm.of (by decide)) : Keeps k0 r0 (State.recordCause s c) := by
  unfold State.recordCause
  repeat' first
    | with_reducible assumption
    | exact hm.of (by decide)
    | (extract_lets +onlyGivenNames y; have hy : Keeps k0 r0 y := ?_; clear_value y; rotate_left; subst y)
    | (extract_lets +onlyGivenNames y; have hy : Keeps k0 r0 y.1 := ?_; clear_value y; rotate_left; subst y)
    | (extract_lets +onlyGivenNames y; clear_value y)
    | (extract_lets +onlyGivenNames y; subst y)
    | with_reducible apply State.put_keeps

theorem State.withdrawArm_keeps {k0 : Nat} {r0 : State} (s : State) (hr : Keeps k0 r0 s) (hm : Sub 8796093022208 k0 := by exact hm.of (by decide)) : Keeps k0 r0 (State.withdrawArm s) := by
  unfold State.withdrawArm
  repeat' first
    | with_reducible assumption
    | exact hm.of (by decide)
    | with_reducible apply Keeps.ite
    | split
    | with_reducible apply Keeps.upd_pair

theorem State.enterLockout_keeps {k0 : Nat} {r0 : State} (s : State) (hr : Keeps k0 r0 s) (hm : Sub 9251368206532 k0 := by exact hm.of (by decide)) : Keeps k0 r0 (State.enterLockout s) := by
  unfold State.enterLockout
  repeat' first
    | with_reducible assumption
    | exact hm.of (by decide)
    | (extract_lets +onlyGivenNames y; have hy : Keeps k0 r0 y := ?_; clear_value y; rotate_left; subst y)
    | (extract_lets +onlyGivenNames y; have hy : Keeps k0 r0 y.1 := ?_; clear_value y; rotate_left; subst y)
    | (extract_lets +onlyGivenNames y; clear_value y)
    | (extract_lets +onlyGivenNames y; subst y)
    | with_reducible apply State.setSafe_keeps
    | with_reducible apply State.raise_keeps
    | with_reducible apply State.withdrawArm_keeps
    | with_reducible apply State.yardLockout_keeps
    | with_reducible apply State.enforce_keeps
    | with_reducible apply Keeps.upd_safe

theorem State.nameOutputs_keeps {k0 : Nat} {r0 : State} (s : State) (m : Nat) (hr : Keeps k0 r0 s) (hm : Sub 137438953472 k0 := by exact hm.of (by decide)) : Keeps k0 r0 (State.nameOutputs s m) := by
  unfold State.nameOutputs
  repeat' first
    | with_reducible assumption
    | exact hm.of (by decide)
    | with_reducible apply Keeps.upd_safe

theorem State.trip_keeps {k0 : Nat} {r0 : State} (s : State) (c : Cause) (hr : Keeps k0 r0 s) (hm : Sub 9251368206532 k0 := by exact hm.of (by decide)) : Keeps k0 r0 (State.trip s c) := by
  unfold State.trip
  repeat' first
    | with_reducible assumption
    | exact hm.of (by decide)
    | with_reducible apply State.nameOutputs_keeps
    | with_reducible apply State.enforce_keeps
    | with_reducible apply State.recordCause_keeps
    | with_reducible apply State.cnt_keeps
    | with_reducible apply State.raise_keeps
    | with_reducible apply State.enterLockout_keeps
    | with_reducible apply Keeps.ite
    | split
    | with_reducible apply Keeps.upd_safe

theorem State.cstop_keeps {k0 : Nat} {r0 : State} (s : State) (c : Cause) (hr : Keeps k0 r0 s) (hm : Sub 9251368206532 k0 := by exact hm.of (by decide)) : Keeps k0 r0 (State.cstop s c) := by
  unfold State.cstop
  repeat' first
    | with_reducible assumption
    | exact hm.of (by decide)
    | (extract_lets +onlyGivenNames y; have hy : Keeps k0 r0 y := ?_; clear_value y; rotate_left; subst y)
    | (extract_lets +onlyGivenNames y; have hy : Keeps k0 r0 y.1 := ?_; clear_value y; rotate_left; subst y)
    | (extract_lets +onlyGivenNames y; clear_value y)
    | (extract_lets +onlyGivenNames y; subst y)
    | with_reducible apply State.recordCause_keeps
    | with_reducible apply State.setSafe_keeps
    | with_reducible apply State.cnt_keeps
    | with_reducible apply State.raise_keeps
    | with_reducible apply State.yardLockout_keeps
    | with_reducible apply State.enforce_keeps
    | with_reducible apply Keeps.ite
    | split
    | with_reducible apply Keeps.upd_pair
    | with_reducible apply Keeps.upd_safe

theorem State.fnReact_keeps {k0 : Nat} {r0 : State} (chan : Nat) (s : State) (f : Nat) (hr : Keeps k0 r0 s) (hm : Sub 9251368206532 k0 := by exact hm.of (by decide)) : Keeps k0 r0 (State.fnReact chan s f) := by
  unfold State.fnReact
  repeat' first
    | with_reducible assumption
    | exact hm.of (by decide)
    | (extract_lets +onlyGivenNames y; have hy : Keeps k0 r0 y := ?_; clear_value y; rotate_left; subst y)
    | (extract_lets +onlyGivenNames y; have hy : Keeps k0 r0 y.1 := ?_; clear_value y; rotate_left; subst y)
    | (extract_lets +onlyGivenNames y; clear_value y)
    | (extract_lets +onlyGivenNames y; subst y)
    | with_reducible apply State.trip_keeps
    | with_reducible apply State.cstop_keeps
    | with_reducible apply Keeps.ite
    | split

theorem State.diffUpdate_keeps {k0 : Nat} {r0 : State} (s : State) (hr : Keeps k0 r0 s) (hm : Sub 137438953472 k0 := by exact hm.of (by decide)) : Keeps k0 r0 (State.diffUpdate s) := by
  unfold State.diffUpdate
  repeat' first
    | with_reducible assumption
    | exact hm.of (by decide)
    | (extract_lets +onlyGivenNames y; have hy : Keeps k0 r0 y := ?_; clear_value y; rotate_left; subst y)
    | (extract_lets +onlyGivenNames y; have hy : Keeps k0 r0 y.1 := ?_; clear_value y; rotate_left; subst y)
    | (extract_lets +onlyGivenNames y; clear_value y)
    | (extract_lets +onlyGivenNames y; subst y)
    | with_reducible apply Keeps.ite
    | split
    | (with_reducible refine Keeps.foldl ?_ (fun u x h => ?_))
    | with_reducible apply Keeps.upd_safe

theorem State.fenceJudge_keeps {k0 : Nat} {r0 : State} (s : State) (hr : Keeps k0 r0 s) (hm : Sub 9251368206532 k0 := by exact hm.of (by decide)) : Keeps k0 r0 (State.fenceJudge s) := by
  unfold State.fenceJudge
  repeat' first
    | with_reducible assumption
    | exact hm.of (by decide)
    | (extract_lets +onlyGivenNames y; have hy : Keeps k0 r0 y := ?_; clear_value y; rotate_left; subst y)
    | (extract_lets +onlyGivenNames y; have hy : Keeps k0 r0 y.1 := ?_; clear_value y; rotate_left; subst y)
    | (extract_lets +onlyGivenNames y; clear_value y)
    | (extract_lets +onlyGivenNames y; subst y)
    | with_reducible apply State.put_keeps
    | with_reducible apply State.diffUpdate_keeps
    | with_reducible apply State.fnReact_keeps
    | with_reducible apply Keeps.ite
    | split
    | (with_reducible refine Keeps.foldl ?_ (fun u x h => ?_))

theorem State.svJudge_keeps {k0 : Nat} {r0 : State} (s : State) (hr : Keeps k0 r0 s) (hm : Sub 9251368206532 k0 := by exact hm.of (by decide)) : Keeps k0 r0 (State.svJudge s) := by
  unfold State.svJudge
  repeat' first
    | with_reducible assumption
    | exact hm.of (by decide)
    | (extract_lets +onlyGivenNames y; have hy : Keeps k0 r0 y := ?_; clear_value y; rotate_left; subst y)
    | (extract_lets +onlyGivenNames y; have hy : Keeps k0 r0 y.1 := ?_; clear_value y; rotate_left; subst y)
    | (extract_lets +onlyGivenNames y; clear_value y)
    | (extract_lets +onlyGivenNames y; subst y)
    | with_reducible apply State.put_keeps
    | with_reducible apply State.diffUpdate_keeps
    | with_reducible apply State.fnReact_keeps
    | with_reducible apply Keeps.ite
    | split
    | (with_reducible refine Keeps.foldl ?_ (fun u x h => ?_))
    | with_reducible apply Keeps.upd_safe

end Sys2Proof.Machine
end

