-- ==== Sys2Proof/Laws/KeepsRecords.lean ====
section
/-! SUPPORT. The operations of Machine/Records.lean leave the queue alone and keep the canonical form of the stores. -/

set_option linter.unusedTactic false
set_option linter.unreachableTactic false

namespace Sys2Proof.Machine

theorem State.setRec_keeps {k0 : Nat} {r0 : State} (s : State) (i o v : Nat) (hr : Keeps k0 r0 s) (hm : Sub 8 k0 := by exact hm.of (by decide)) : Keeps k0 r0 (State.setRec s i o v) := by
  unfold State.setRec
  repeat' first
    | with_reducible assumption
    | exact hm.of (by decide)
    | with_reducible apply State.store_keeps

theorem State.cntRec_keeps {k0 : Nat} {r0 : State} (s : State) (i o : Nat) (hr : Keeps k0 r0 s) (hm : Sub 8 k0 := by exact hm.of (by decide)) : Keeps k0 r0 (State.cntRec s i o) := by
  unfold State.cntRec
  repeat' first
    | with_reducible assumption
    | exact hm.of (by decide)
    | with_reducible apply State.setRec_keeps

theorem State.setRecF_keeps {k0 : Nat} {r0 : State} (s : State) (i o lo len v : Nat) (hr : Keeps k0 r0 s) (hm : Sub 8 k0 := by exact hm.of (by decide)) : Keeps k0 r0 (State.setRecF s i o lo len v) := by
  unfold State.setRecF
  repeat' first
    | with_reducible assumption
    | exact hm.of (by decide)
    | with_reducible apply State.setRec_keeps
    | with_reducible apply State.write_keeps

theorem State.setLk_keeps {k0 : Nat} {r0 : State} (s : State) (i v : Nat) (hr : Keeps k0 r0 s) (hm : Sub 8 k0 := by exact hm.of (by decide)) : Keeps k0 r0 (State.setLk s i v) := by
  unfold State.setLk
  repeat' first
    | with_reducible assumption
    | exact hm.of (by decide)
    | with_reducible apply State.setRecF_keeps

theorem State.setInSort_keeps {k0 : Nat} {r0 : State} (s : State) (i : Nat) (b : Bool) (hr : Keeps k0 r0 s) (hm : Sub 4 k0 := by exact hm.of (by decide)) : Keeps k0 r0 (State.setInSort s i b) := by
  unfold State.setInSort
  repeat' first
    | with_reducible assumption
    | exact hm.of (by decide)
    | (extract_lets +onlyGivenNames y; have hy : Keeps k0 r0 y := ?_; clear_value y; rotate_left; subst y)
    | (extract_lets +onlyGivenNames y; have hy : Keeps k0 r0 y.1 := ?_; clear_value y; rotate_left; subst y)
    | (extract_lets +onlyGivenNames y; clear_value y)
    | (extract_lets +onlyGivenNames y; subst y)
    | with_reducible apply State.putBitOf_keeps
    | with_reducible apply State.put_keeps
    | (with_reducible refine Keeps.foldl ?_ (fun u x h => ?_))

end Sys2Proof.Machine
end

