-- ==== Sys2Proof/Laws/KeepsResult.lean ====
section
/-! SUPPORT. The operations of Machine/Result.lean leave the queue alone and keep the canonical form of the stores. -/

set_option linter.unusedTactic false
set_option linter.unreachableTactic false

namespace Sys2Proof.Machine

theorem State.dropCopy_keeps {k0 : Nat} {r0 : State} (s : State) (m : Master) (a : Nat) (hr : Keeps k0 r0 s) (hm : Sub 8192 k0 := by exact hm.of (by decide)) : Keeps k0 r0 (State.dropCopy s m a) := by
  unfold State.dropCopy
  repeat' first
    | with_reducible assumption
    | exact hm.of (by decide)
    | with_reducible apply Keeps.upd_captures

theorem State.captureCopy_keeps {k0 : Nat} {r0 : State} (s : State) (m : Master) (a : Nat) (w : Word) (seq : Nat) (hr : Keeps k0 r0 s) (hm : Sub 8192 k0 := by exact hm.of (by decide)) : Keeps k0 r0 (State.captureCopy s m a w seq) := by
  unfold State.captureCopy
  repeat' first
    | with_reducible assumption
    | exact hm.of (by decide)
    | (extract_lets +onlyGivenNames y; have hy : Keeps k0 r0 y := ?_; clear_value y; rotate_left; subst y)
    | (extract_lets +onlyGivenNames y; have hy : Keeps k0 r0 y.1 := ?_; clear_value y; rotate_left; subst y)
    | (extract_lets +onlyGivenNames y; clear_value y)
    | (extract_lets +onlyGivenNames y; subst y)
    | with_reducible apply State.dropCopy_keeps
    | with_reducible apply Keeps.upd_captures

theorem State.unfresh_keeps {k0 : Nat} {r0 : State} (s : State) (a seq : Nat) (hr : Keeps k0 r0 s) (hm : Sub 512 k0 := by exact hm.of (by decide)) : Keeps k0 r0 (State.unfresh s a seq) := by
  unfold State.unfresh
  repeat' first
    | with_reducible assumption
    | exact hm.of (by decide)
    | with_reducible apply State.setRes_keeps
    | with_reducible apply Keeps.ite
    | split

theorem State.pairRead_keeps {k0 : Nat} {r0 : State} (s : State) (m : Master) (a : Nat) (wide : Bool) (lo hi : Word) (seq : Nat) (hr : Keeps k0 r0 s) (hm : Sub 8720 k0 := by exact hm.of (by decide)) : Keeps k0 r0 (State.pairRead s m a wide lo hi seq) := by
  unfold State.pairRead
  repeat' first
    | with_reducible assumption
    | exact hm.of (by decide)
    | with_reducible apply State.unfresh_keeps
    | with_reducible apply State.captureCopy_keeps
    | with_reducible apply Keeps.ite
    | split
    | with_reducible apply Keeps.upd_readData

theorem State.highRead_keeps {k0 : Nat} {r0 : State} (s : State) (m : Master) (a : Nat) (hi : Word) (hr : Keeps k0 r0 s) (hm : Sub 8720 k0 := by exact hm.of (by decide)) : Keeps k0 r0 (State.highRead s m a hi) := by
  unfold State.highRead
  repeat' first
    | with_reducible assumption
    | exact hm.of (by decide)
    | with_reducible apply State.dropCopy_keeps
    | with_reducible apply State.unfresh_keeps
    | with_reducible apply Keeps.ite
    | split
    | with_reducible apply Keeps.upd_readData

theorem State.fifoUe_keeps {k0 : Nat} {r0 : State} (s : State) (m : Master) (a q : Nat) (hr : Keeps k0 r0 s) (hm : Sub 824633720836 k0 := by exact hm.of (by decide)) : Keeps k0 r0 (State.fifoUe s m a q) := by
  unfold State.fifoUe
  repeat' first
    | with_reducible assumption
    | exact hm.of (by decide)
    | (extract_lets +onlyGivenNames y; have hy : Keeps k0 r0 y := ?_; clear_value y; rotate_left; subst y)
    | (extract_lets +onlyGivenNames y; have hy := fun a => y a; clear hy; subst y; beta_reduce)
    | (extract_lets +onlyGivenNames y; have hy : Keeps k0 r0 y.1 := ?_; clear_value y; rotate_left; subst y)
    | (extract_lets +onlyGivenNames y; clear_value y)
    | (extract_lets +onlyGivenNames y; subst y)
    | with_reducible apply State.err_keeps
    | with_reducible apply Keeps.ite
    | split
    | with_reducible apply Keeps.upd_flt

theorem State.fifoPop_keeps {k0 : Nat} {r0 : State} (s : State) (m : Master) (a : Nat) (wide : Bool) (under : Fld) (hr : Keeps k0 r0 s) (hm : Sub 824633730580 k0 := by exact hm.of (by decide)) : Keeps k0 r0 (State.fifoPop s m a wide under) := by
  unfold State.fifoPop
  repeat' first
    | with_reducible assumption
    | exact hm.of (by decide)
    | (extract_lets +onlyGivenNames y; have hy : Keeps k0 r0 y := ?_; clear_value y; rotate_left; subst y)
    | (extract_lets +onlyGivenNames y; have hy : Keeps k0 r0 y.1 := ?_; clear_value y; rotate_left; subst y)
    | (extract_lets +onlyGivenNames y; clear_value y)
    | (extract_lets +onlyGivenNames y; subst y)
    | with_reducible apply State.fifoUe_keeps
    | with_reducible apply State.setFifo_keeps
    | with_reducible apply State.setRes_keeps
    | with_reducible apply State.pairRead_keeps
    | with_reducible apply State.cnt_keeps
    | with_reducible apply Keeps.ite
    | split

theorem State.afterPop_keeps {k0 : Nat} {r0 : State} (s : State) (a : Nat) (store : State → Spill → State) (hr : Keeps k0 r0 s) (hm : Sub 274877911044 k0 := by exact hm.of (by decide))
    (hs : ∀ t p, Keeps k0 r0 t → Keeps k0 r0 (store t p)) : Keeps k0 r0 (s.afterPop a store) := by
  unfold State.afterPop
  split
  · rename_i h
    exact hs _ _ (State.unspill_keeps _ _ hr (by exact hm.of (by decide)) h)
  · exact hr

theorem State.resPairRead_keeps {k0 : Nat} {r0 : State} (s : State) (m : Master) (a : Nat) (wide : Bool) (hr : Keeps k0 r0 s) (hm : Sub 8720 k0 := by exact hm.of (by decide)) : Keeps k0 r0 (State.resPairRead s m a wide) := by
  unfold State.resPairRead
  repeat' first
    | with_reducible assumption
    | exact hm.of (by decide)
    | with_reducible apply State.pairRead_keeps

theorem State.resRead_keeps {k0 : Nat} {r0 : State} (s : State) (a : Nat) (hr : Keeps k0 r0 s) (hm : Sub 528 k0 := by exact hm.of (by decide)) : Keeps k0 r0 (State.resRead s a) := by
  unfold State.resRead
  repeat' first
    | with_reducible assumption
    | exact hm.of (by decide)
    | with_reducible apply State.unfresh_keeps
    | with_reducible apply Keeps.upd_readData

end Sys2Proof.Machine
end

