-- ==== Sys2Proof/Laws/KeepsTime.lean ====
section
/-! SUPPORT. The operations of Machine/Time.lean leave the queue alone and keep the canonical form of the stores. -/

set_option linter.unusedTactic false
set_option linter.unreachableTactic false

namespace Sys2Proof.Machine

theorem State.withTime_keeps {k0 : Nat} {r0 : State} (s : State) (t : TimeSt) (hr : Keeps k0 r0 s) (hm : Sub 134217728 k0 := by exact hm.of (by decide)) : Keeps k0 r0 (State.withTime s t) := by
  unfold State.withTime
  repeat' first
    | with_reducible assumption
    | exact hm.of (by decide)
    | with_reducible apply Keeps.upd_time

theorem State.noteWrap_keeps {k0 : Nat} {r0 : State} (s : State) (n : Nat) (fwd : Bool) (k : Nat) (hr : Keeps k0 r0 s) (hm : Sub 274877906948 k0 := by exact hm.of (by decide)) : Keeps k0 r0 (State.noteWrap s n fwd k) := by
  unfold State.noteWrap
  repeat' first
    | with_reducible assumption
    | exact hm.of (by decide)
    | (extract_lets +onlyGivenNames y; have hy : Keeps k0 r0 y := ?_; clear_value y; rotate_left; subst y)
    | (extract_lets +onlyGivenNames y; have hy : Keeps k0 r0 y.1 := ?_; clear_value y; rotate_left; subst y)
    | (extract_lets +onlyGivenNames y; clear_value y)
    | (extract_lets +onlyGivenNames y; subst y)
    | with_reducible apply State.put_keeps
    | with_reducible apply State.setBitOf_keeps
    | with_reducible apply State.raise_keeps
    | with_reducible apply Keeps.ite
    | split

theorem State.markRolled_keeps {k0 : Nat} {r0 : State} (s : State) (n : Nat) (hr : Keeps k0 r0 s) (hm : Sub 134217728 k0 := by exact hm.of (by decide)) : Keeps k0 r0 (State.markRolled s n) := by
  unfold State.markRolled
  repeat' first
    | with_reducible assumption
    | exact hm.of (by decide)
    | with_reducible apply State.withTime_keeps

theorem State.wrapTb_keeps {k0 : Nat} {r0 : State} (s : State) (n : Nat) (hr : Keeps k0 r0 s) (hm : Sub 275012124676 k0 := by exact hm.of (by decide)) : Keeps k0 r0 (State.wrapTb s n) := by
  unfold State.wrapTb
  repeat' first
    | with_reducible assumption
    | exact hm.of (by decide)
    | (extract_lets +onlyGivenNames y; have hy : Keeps k0 r0 y := ?_; clear_value y; rotate_left; subst y)
    | (extract_lets +onlyGivenNames y; have hy : Keeps k0 r0 y.1 := ?_; clear_value y; rotate_left; subst y)
    | (extract_lets +onlyGivenNames y; clear_value y)
    | (extract_lets +onlyGivenNames y; subst y)
    | with_reducible apply State.noteWrap_keeps
    | with_reducible apply State.markRolled_keeps
    | with_reducible apply Keeps.ite
    | split

theorem execTbWrap_keeps {k0 : Nat} {r0 : State} (n : Fin 4) (s : State) (hr : Keeps k0 r0 s) (hm : Sub 275280560134 k0 := by exact hm.of (by decide)) : KeepsO k0 r0 (execTbWrap n s) := by
  unfold execTbWrap
  repeat' first
    | with_reducible assumption
    | exact hm.of (by decide)
    | with_reducible apply KeepsO.next
    | (extract_lets +onlyGivenNames y; have hy : Keeps k0 r0 y := ?_; clear_value y; rotate_left; subst y)
    | (extract_lets +onlyGivenNames y; have hy : Keeps k0 r0 y.1 := ?_; clear_value y; rotate_left; subst y)
    | (extract_lets +onlyGivenNames y; clear_value y)
    | (extract_lets +onlyGivenNames y; subst y)
    | with_reducible apply State.advance_keeps
    | with_reducible apply State.wrapTb_keeps
    | with_reducible apply Keeps.ite
    | split

theorem State.timeSnap_keeps {k0 : Nat} {r0 : State} (s : State) (hr : Keeps k0 r0 s) (hm : Sub 4 k0 := by exact hm.of (by decide)) : Keeps k0 r0 (State.timeSnap s) := by
  unfold State.timeSnap
  repeat' first
    | with_reducible assumption
    | exact hm.of (by decide)
    | (extract_lets +onlyGivenNames y; have hy : Keeps k0 r0 y := ?_; clear_value y; rotate_left; subst y)
    | (extract_lets +onlyGivenNames y; have hy : Keeps k0 r0 y.1 := ?_; clear_value y; rotate_left; subst y)
    | (extract_lets +onlyGivenNames y; clear_value y)
    | (extract_lets +onlyGivenNames y; subst y)
    | with_reducible apply State.setReg_keeps
    | with_reducible apply State.put_keeps
    | (with_reducible refine Keeps.foldl ?_ (fun u x h => ?_))

theorem execTimeSnap_keeps {k0 : Nat} {r0 : State} (s : State) (hr : Keeps k0 r0 s) (hm : Sub 4 k0 := by exact hm.of (by decide)) : KeepsO k0 r0 (execTimeSnap s) := by
  unfold execTimeSnap
  repeat' first
    | with_reducible assumption
    | exact hm.of (by decide)
    | with_reducible apply KeepsO.next
    | with_reducible apply State.timeSnap_keeps

theorem State.srcDrew_keeps {k0 : Nat} {r0 : State} (s : State) (sel : Nat) (hr : Keeps k0 r0 s) (hm : Sub 128 k0 := by exact hm.of (by decide)) : Keeps k0 r0 (State.srcDrew s sel) := by
  unfold State.srcDrew
  repeat' first
    | with_reducible assumption
    | exact hm.of (by decide)
    | with_reducible apply State.drew_keeps
    | with_reducible apply Keeps.ite
    | split

theorem State.setRate_keeps {k0 : Nat} {r0 : State} (s : State) (y : Int) (hr : Keeps k0 r0 s) (hm : Sub 134217732 k0 := by exact hm.of (by decide)) : Keeps k0 r0 (State.setRate s y) := by
  unfold State.setRate
  repeat' first
    | with_reducible assumption
    | exact hm.of (by decide)
    | with_reducible apply State.withTime_keeps
    | with_reducible apply State.setReg_keeps

theorem State.ctbLoad_keeps {k0 : Nat} {r0 : State} (s : State) (f : Nat) (hr : Keeps k0 r0 s) (hm : Sub 8796227239936 k0 := by exact hm.of (by decide)) : Keeps k0 r0 (State.ctbLoad s f) := by
  unfold State.ctbLoad
  repeat' first
    | with_reducible assumption
    | exact hm.of (by decide)
    | (extract_lets +onlyGivenNames y; have hy : Keeps k0 r0 y := ?_; clear_value y; rotate_left; subst y)
    | (extract_lets +onlyGivenNames y; have hy : Keeps k0 r0 y.1 := ?_; clear_value y; rotate_left; subst y)
    | (extract_lets +onlyGivenNames y; clear_value y)
    | (extract_lets +onlyGivenNames y; subst y)
    | with_reducible apply State.withTime_keeps
    | with_reducible apply Keeps.upd_pair

theorem State.align_keeps {k0 : Nat} {r0 : State} (s : State) (hr : Keeps k0 r0 s) (hm : Sub 9071105409156 k0 := by exact hm.of (by decide)) : Keeps k0 r0 (State.align s) := by
  unfold State.align
  repeat' first
    | with_reducible assumption
    | exact hm.of (by decide)
    | (extract_lets +onlyGivenNames y; have hy : Keeps k0 r0 y := ?_; clear_value y; rotate_left; subst y)
    | (extract_lets +onlyGivenNames y; have hy : Keeps k0 r0 y.1 := ?_; clear_value y; rotate_left; subst y)
    | (extract_lets +onlyGivenNames y; clear_value y)
    | (extract_lets +onlyGivenNames y; subst y)
    | with_reducible apply State.ctbLoad_keeps
    | with_reducible apply State.setRate_keeps
    | with_reducible apply State.srcDrew_keeps
    | with_reducible apply State.put_keeps
    | with_reducible apply State.markRolled_keeps
    | with_reducible apply State.withTime_keeps
    | with_reducible apply State.raise_keeps
    | with_reducible apply Keeps.ite
    | split
    | (with_reducible refine Keeps.foldl ?_ (fun u x h => ?_))
    | with_reducible apply Keeps.upd_yard

theorem State.alignWrite_keeps {k0 : Nat} {r0 : State} (s : State) (hr : Keeps k0 r0 s) (hm : Sub 9071105409188 k0 := by exact hm.of (by decide)) : Keeps k0 r0 (State.alignWrite s) := by
  unfold State.alignWrite
  repeat' first
    | with_reducible assumption
    | exact hm.of (by decide)
    | with_reducible apply State.align_keeps
    | with_reducible apply State.put_keeps
    | with_reducible apply State.cnt_keeps
    | with_reducible apply State.noteDrop_keeps
    | with_reducible apply Keeps.ite
    | split

theorem execAlign_keeps {k0 : Nat} {r0 : State} (s : State) (hr : Keeps k0 r0 s) (hm : Sub 9071105409188 k0 := by exact hm.of (by decide)) : KeepsO k0 r0 (execAlign s) := by
  unfold execAlign
  repeat' first
    | with_reducible assumption
    | exact hm.of (by decide)
    | with_reducible apply KeepsO.next
    | with_reducible apply State.alignWrite_keeps

theorem execCtbAutoAlign_keeps {k0 : Nat} {r0 : State} (s : State) (hr : Keeps k0 r0 s) (hm : Sub 9071105409156 k0 := by exact hm.of (by decide)) : KeepsO k0 r0 (execCtbAutoAlign s) := by
  unfold execCtbAutoAlign
  repeat' first
    | with_reducible assumption
    | exact hm.of (by decide)
    | with_reducible apply KeepsO.next
    | with_reducible apply State.align_keeps
    | with_reducible apply Keeps.ite
    | split

theorem State.noteQualified_keeps {k0 : Nat} {r0 : State} (s : State) (hr : Keeps k0 r0 s) (hm : Sub 134217728 k0 := by exact hm.of (by decide)) : Keeps k0 r0 (State.noteQualified s) := by
  unfold State.noteQualified
  repeat' first
    | with_reducible assumption
    | exact hm.of (by decide)
    | (extract_lets +onlyGivenNames y; have hy : Keeps k0 r0 y := ?_; clear_value y; rotate_left; subst y)
    | (extract_lets +onlyGivenNames y; have hy : Keeps k0 r0 y.1 := ?_; clear_value y; rotate_left; subst y)
    | (extract_lets +onlyGivenNames y; clear_value y)
    | (extract_lets +onlyGivenNames y; subst y)
    | with_reducible apply State.withTime_keeps
    | with_reducible apply Keeps.ite
    | split

theorem State.ctbSource_keeps {k0 : Nat} {r0 : State} (s : State) (st src : Nat) (hr : Keeps k0 r0 s) (hm : Sub 274877906948 k0 := by exact hm.of (by decide)) : Keeps k0 r0 (State.ctbSource s st src) := by
  unfold State.ctbSource
  repeat' first
    | with_reducible assumption
    | exact hm.of (by decide)
    | with_reducible apply State.put_keeps
    | with_reducible apply State.raise_keeps

theorem State.ctbHold_keeps {k0 : Nat} {r0 : State} (s : State) (hr : Keeps k0 r0 s) (hm : Sub 275012124676 k0 := by exact hm.of (by decide)) : Keeps k0 r0 (State.ctbHold s) := by
  unfold State.ctbHold
  repeat' first
    | with_reducible assumption
    | exact hm.of (by decide)
    | with_reducible apply State.setRate_keeps
    | with_reducible apply State.ctbSource_keeps

theorem State.ctbJudge_keeps {k0 : Nat} {r0 : State} (s : State) (hr : Keeps k0 r0 s) (hm : Sub 275012124676 k0 := by exact hm.of (by decide)) : Keeps k0 r0 (State.ctbJudge s) := by
  unfold State.ctbJudge
  repeat' first
    | with_reducible assumption
    | exact hm.of (by decide)
    | (extract_lets +onlyGivenNames y; have hy : Keeps k0 r0 y := ?_; clear_value y; rotate_left; subst y)
    | (extract_lets +onlyGivenNames y; have hy : Keeps k0 r0 y.1 := ?_; clear_value y; rotate_left; subst y)
    | (extract_lets +onlyGivenNames y; clear_value y)
    | (extract_lets +onlyGivenNames y; subst y)
    | with_reducible apply State.ctbHold_keeps
    | with_reducible apply State.ctbSource_keeps
    | with_reducible apply Keeps.ite
    | split

theorem State.servo_keeps {k0 : Nat} {r0 : State} (s : State) (hr : Keeps k0 r0 s) (hm : Sub 275012124804 k0 := by exact hm.of (by decide)) : Keeps k0 r0 (State.servo s) := by
  unfold State.servo
  repeat' first
    | with_reducible assumption
    | exact hm.of (by decide)
    | (extract_lets +onlyGivenNames y; have hy : Keeps k0 r0 y := ?_; clear_value y; rotate_left; subst y)
    | (extract_lets +onlyGivenNames y; have hy : Keeps k0 r0 y.1 := ?_; clear_value y; rotate_left; subst y)
    | (extract_lets +onlyGivenNames y; clear_value y)
    | (extract_lets +onlyGivenNames y; subst y)
    | with_reducible apply State.setReg_keeps
    | with_reducible apply State.srcDrew_keeps
    | with_reducible apply State.setRate_keeps
    | with_reducible apply State.withTime_keeps
    | with_reducible apply State.put_keeps
    | with_reducible apply State.raise_keeps
    | with_reducible apply Keeps.ite
    | split

theorem execCtbServoUpdate_keeps {k0 : Nat} {r0 : State} (s : State) (hr : Keeps k0 r0 s) (hm : Sub 275280560262 k0 := by exact hm.of (by decide)) : KeepsO k0 r0 (execCtbServoUpdate s) := by
  unfold execCtbServoUpdate
  repeat' first
    | with_reducible assumption
    | exact hm.of (by decide)
    | with_reducible apply KeepsO.next
    | (extract_lets +onlyGivenNames y; have hy : Keeps k0 r0 y := ?_; clear_value y; rotate_left; subst y)
    | (extract_lets +onlyGivenNames y; have hy : Keeps k0 r0 y.1 := ?_; clear_value y; rotate_left; subst y)
    | (extract_lets +onlyGivenNames y; clear_value y)
    | (extract_lets +onlyGivenNames y; subst y)
    | with_reducible apply State.until_keeps
    | with_reducible apply State.withTime_keeps
    | with_reducible apply State.noteQualified_keeps
    | with_reducible apply State.ctbJudge_keeps
    | with_reducible apply State.servo_keeps
    | with_reducible apply Keeps.ite
    | split

theorem State.stepCross_keeps {k0 : Nat} {r0 : State} (s : State) (n v0 d : Nat) (hr : Keeps k0 r0 s) (hm : Sub 134217728 k0 := by exact hm.of (by decide)) : Keeps k0 r0 (State.stepCross s n v0 d) := by
  unfold State.stepCross
  repeat' first
    | with_reducible assumption
    | exact hm.of (by decide)
    | (extract_lets +onlyGivenNames y; have hy : Keeps k0 r0 y := ?_; clear_value y; rotate_left; subst y)
    | (extract_lets +onlyGivenNames y; have hy : Keeps k0 r0 y.1 := ?_; clear_value y; rotate_left; subst y)
    | (extract_lets +onlyGivenNames y; clear_value y)
    | (extract_lets +onlyGivenNames y; subst y)
    | with_reducible apply State.withTime_keeps
    | with_reducible apply Keeps.ite
    | split
    | (with_reducible refine Keeps.foldl ?_ (fun u x h => ?_))

theorem State.cmpWritten_keeps {k0 : Nat} {r0 : State} (s : State) (u : Nat) (hr : Keeps k0 r0 s) (hm : Sub 134217728 k0 := by exact hm.of (by decide)) : Keeps k0 r0 (State.cmpWritten s u) := by
  unfold State.cmpWritten
  repeat' first
    | with_reducible assumption
    | exact hm.of (by decide)
    | with_reducible apply State.withTime_keeps

theorem State.cmpFire_keeps {k0 : Nat} {r0 : State} (s : State) (u : Nat) (hr : Keeps k0 r0 s) (hm : Sub 275012124740 k0 := by exact hm.of (by decide)) : Keeps k0 r0 (State.cmpFire s u) := by
  unfold State.cmpFire
  repeat' first
    | with_reducible assumption
    | exact hm.of (by decide)
    | (extract_lets +onlyGivenNames y; have hy : Keeps k0 r0 y := ?_; clear_value y; rotate_left; subst y)
    | (extract_lets +onlyGivenNames y; have hy : Keeps k0 r0 y.1 := ?_; clear_value y; rotate_left; subst y)
    | (extract_lets +onlyGivenNames y; clear_value y)
    | (extract_lets +onlyGivenNames y; subst y)
    | with_reducible apply State.withTime_keeps
    | with_reducible apply State.setBitOf_keeps
    | with_reducible apply State.emit_keeps
    | with_reducible apply State.raise_keeps
    | with_reducible apply State.put_keeps
    | with_reducible apply Keeps.ite
    | split

theorem execCompareFire_keeps {k0 : Nat} {r0 : State} (n : Fin 8) (s : State) (hr : Keeps k0 r0 s) (hm : Sub 275280560198 k0 := by exact hm.of (by decide)) : KeepsO k0 r0 (execCompareFire n s) := by
  unfold execCompareFire
  repeat' first
    | with_reducible assumption
    | exact hm.of (by decide)
    | with_reducible apply KeepsO.next
    | (extract_lets +onlyGivenNames y; have hy : Keeps k0 r0 y := ?_; clear_value y; rotate_left; subst y)
    | (extract_lets +onlyGivenNames y; have hy : Keeps k0 r0 y.1 := ?_; clear_value y; rotate_left; subst y)
    | (extract_lets +onlyGivenNames y; clear_value y)
    | (extract_lets +onlyGivenNames y; subst y)
    | with_reducible apply State.advance_keeps
    | with_reducible apply State.cmpFire_keeps
    | with_reducible apply Keeps.ite
    | split

theorem State.timeQueue_keeps {k0 : Nat} {r0 : State} (s : State) (a v : Nat) (hr : Keeps k0 r0 s) (hm : Sub 274877914628 k0 := by exact hm.of (by decide)) : Keeps k0 r0 (State.timeQueue s a v) := by
  unfold State.timeQueue
  repeat' first
    | with_reducible assumption
    | exact hm.of (by decide)
    | with_reducible apply State.storeFifo_keeps
    | with_reducible apply State.spill_keeps
    | with_reducible apply State.put_keeps
    | with_reducible apply State.raise_keeps
    | with_reducible apply Keeps.ite
    | split

theorem State.capStore_keeps {k0 : Nat} {r0 : State} (s : State) (v : Nat) (hr : Keeps k0 r0 s) (hm : Sub 274877914628 k0 := by exact hm.of (by decide)) : Keeps k0 r0 (State.capStore s v) := by
  unfold State.capStore
  repeat' first
    | with_reducible assumption
    | exact hm.of (by decide)
    | (extract_lets +onlyGivenNames y; have hy : Keeps k0 r0 y := ?_; clear_value y; rotate_left; subst y)
    | (extract_lets +onlyGivenNames y; have hy : Keeps k0 r0 y.1 := ?_; clear_value y; rotate_left; subst y)
    | (extract_lets +onlyGivenNames y; clear_value y)
    | (extract_lets +onlyGivenNames y; subst y)
    | with_reducible apply State.timeQueue_keeps
    | with_reducible apply State.raise_keeps
    | with_reducible apply Keeps.ite
    | split

theorem execSyncInCapture_keeps {k0 : Nat} {r0 : State} (ns : Nat) (s : State) (hr : Keeps k0 r0 s) (hm : Sub 274877914628 k0 := by exact hm.of (by decide)) : KeepsO k0 r0 (execSyncInCapture ns s) := by
  unfold execSyncInCapture
  repeat' first
    | with_reducible assumption
    | exact hm.of (by decide)
    | with_reducible apply KeepsO.next
    | with_reducible apply State.capStore_keeps
    | with_reducible apply Keeps.ite
    | split

theorem State.timePop_keeps {k0 : Nat} {r0 : State} (s : State) (m : Master) (a : Nat) (wide : Bool) (hr : Keeps k0 r0 s) (hm : Sub 824633736724 k0 := by exact hm.of (by decide)) : Keeps k0 r0 (State.timePop s m a wide) := by
  unfold State.timePop
  repeat' first
    | with_reducible assumption
    | exact hm.of (by decide)
    | with_reducible apply State.fifoPop_keeps
    | with_reducible apply State.afterPop_keeps
    | with_reducible apply State.capStore_keeps
    | with_reducible apply State.timeQueue_keeps
    | with_reducible apply Keeps.ite
    | split
    | intro t p ht

theorem execTimeFifoPop_keeps {k0 : Nat} {r0 : State} (r : ReadReq) (s : State) (hr : Keeps k0 r0 s) (hm : Sub 824633736724 k0 := by exact hm.of (by decide)) : KeepsO k0 r0 (execTimeFifoPop r s) := by
  unfold execTimeFifoPop
  repeat' first
    | with_reducible assumption
    | exact hm.of (by decide)
    | with_reducible apply KeepsO.next
    | with_reducible apply State.timePop_keeps
    | with_reducible apply Keeps.ite
    | split

theorem timeCtrlWrite_keeps {k0 : Nat} {r0 : State} (s : State) (v : Nat) (hr : Keeps k0 r0 s) (hm : Sub 9071105409188 k0 := by exact hm.of (by decide)) : Keeps k0 r0 (timeCtrlWrite s v) := by
  unfold timeCtrlWrite
  repeat' first
    | with_reducible assumption
    | exact hm.of (by decide)
    | (extract_lets +onlyGivenNames y; have hy : Keeps k0 r0 y := ?_; clear_value y; rotate_left; subst y)
    | (extract_lets +onlyGivenNames y; have hy : Keeps k0 r0 y.1 := ?_; clear_value y; rotate_left; subst y)
    | (extract_lets +onlyGivenNames y; clear_value y)
    | (extract_lets +onlyGivenNames y; subst y)
    | with_reducible apply State.timeSnap_keeps
    | with_reducible apply State.alignWrite_keeps
    | with_reducible apply Keeps.ite
    | split

end Sys2Proof.Machine
end

