-- ==== Sys2Proof/Laws/KeepsPtp.lean ====
section
/-! SUPPORT. The operations of Machine/Ptp.lean leave the queue alone and keep the canonical form of the stores. -/

set_option linter.unusedTactic false
set_option linter.unreachableTactic false

namespace Sys2Proof.Machine

theorem State.nextSeq_keeps {k0 : Nat} {r0 : State} (s : State) (hr : Keeps k0 r0 s) (hm : Sub 536870912 k0 := by exact hm.of (by decide)) : Keeps k0 r0 (State.nextSeq s) := by
  unfold State.nextSeq
  repeat' first
    | with_reducible assumption
    | exact hm.of (by decide)
    | with_reducible apply Keeps.upd_eth

theorem State.sendEvent_keeps {k0 : Nat} {r0 : State} (s : State) (port : EthPort) (kind seq requester : Nat) (corr : Int) (hr : Keeps k0 r0 s) (hm : Sub 275414785604 k0 := by exact hm.of (by decide)) : Keeps k0 r0 (State.sendEvent s port kind seq requester corr) := by
  unfold State.sendEvent
  repeat' first
    | with_reducible assumption
    | exact hm.of (by decide)
    | (extract_lets +onlyGivenNames y; have hy : Keeps k0 r0 y := ?_; clear_value y; rotate_left; subst y)
    | (extract_lets +onlyGivenNames y; have hy : Keeps k0 r0 y.1 := ?_; clear_value y; rotate_left; subst y)
    | (extract_lets +onlyGivenNames y; clear_value y)
    | (extract_lets +onlyGivenNames y; subst y)
    | with_reducible apply State.emit_keeps
    | with_reducible apply State.nextSeq_keeps
    | with_reducible apply State.cnt_keeps
    | with_reducible apply State.timeQueue_keeps
    | with_reducible apply Keeps.ite
    | split

theorem State.setDom_keeps {k0 : Nat} {r0 : State} (s : State) (d : Dom) (x : Domain) (hr : Keeps k0 r0 s) (hm : Sub 134217728 k0 := by exact hm.of (by decide)) : Keeps k0 r0 (State.setDom s d x) := by
  unfold State.setDom
  repeat' first
    | with_reducible assumption
    | exact hm.of (by decide)
    | with_reducible apply State.withTime_keeps

theorem State.goDom_keeps {k0 : Nat} {r0 : State} (s : State) (d : Dom) (st : Nat) (ev : Bool) (hr : Keeps k0 r0 s) (hm : Sub 274877906948 k0 := by exact hm.of (by decide)) : Keeps k0 r0 (State.goDom s d st ev) := by
  unfold State.goDom
  repeat' first
    | with_reducible assumption
    | exact hm.of (by decide)
    | (extract_lets +onlyGivenNames y; have hy : Keeps k0 r0 y := ?_; clear_value y; rotate_left; subst y)
    | (extract_lets +onlyGivenNames y; have hy : Keeps k0 r0 y.1 := ?_; clear_value y; rotate_left; subst y)
    | (extract_lets +onlyGivenNames y; clear_value y)
    | (extract_lets +onlyGivenNames y; subst y)
    | with_reducible apply State.put_keeps
    | with_reducible apply State.raise_keeps
    | with_reducible apply Keeps.ite
    | split

theorem State.dropMaster_keeps {k0 : Nat} {r0 : State} (s : State) (d : Dom) (hr : Keeps k0 r0 s) (hm : Sub 134217728 k0 := by exact hm.of (by decide)) : Keeps k0 r0 (State.dropMaster s d) := by
  unfold State.dropMaster
  repeat' first
    | with_reducible assumption
    | exact hm.of (by decide)
    | with_reducible apply State.setDom_keeps

theorem State.domWritten_keeps {k0 : Nat} {r0 : State} (s : State) (d : Dom) (number : Bool) (hr : Keeps k0 r0 s) (hm : Sub 275012124676 k0 := by exact hm.of (by decide)) : Keeps k0 r0 (State.domWritten s d number) := by
  unfold State.domWritten
  repeat' first
    | with_reducible assumption
    | exact hm.of (by decide)
    | (extract_lets +onlyGivenNames y; have hy : Keeps k0 r0 y := ?_; clear_value y; rotate_left; subst y)
    | (extract_lets +onlyGivenNames y; have hy : Keeps k0 r0 y.1 := ?_; clear_value y; rotate_left; subst y)
    | (extract_lets +onlyGivenNames y; clear_value y)
    | (extract_lets +onlyGivenNames y; subst y)
    | with_reducible apply State.dropMaster_keeps
    | with_reducible apply State.goDom_keeps
    | with_reducible apply Keeps.ite
    | split

theorem State.domcfgWritten_keeps {k0 : Nat} {r0 : State} (s : State) (a b : Bool) (hr : Keeps k0 r0 s) (hm : Sub 275012124676 k0 := by exact hm.of (by decide)) : Keeps k0 r0 (State.domcfgWritten s a b) := by
  unfold State.domcfgWritten
  repeat' first
    | with_reducible assumption
    | exact hm.of (by decide)
    | (extract_lets +onlyGivenNames y; have hy : Keeps k0 r0 y := ?_; clear_value y; rotate_left; subst y)
    | (extract_lets +onlyGivenNames y; have hy : Keeps k0 r0 y.1 := ?_; clear_value y; rotate_left; subst y)
    | (extract_lets +onlyGivenNames y; clear_value y)
    | (extract_lets +onlyGivenNames y; subst y)
    | with_reducible apply State.put_keeps
    | with_reducible apply State.domWritten_keeps
    | with_reducible apply Keeps.ite
    | split

theorem State.choosePort_keeps {k0 : Nat} {r0 : State} (s : State) (d : Dom) (hr : Keeps k0 r0 s) (hm : Sub 134217728 k0 := by exact hm.of (by decide)) : Keeps k0 r0 (State.choosePort s d) := by
  unfold State.choosePort
  repeat' first
    | with_reducible assumption
    | exact hm.of (by decide)
    | (extract_lets +onlyGivenNames y; have hy : Keeps k0 r0 y := ?_; clear_value y; rotate_left; subst y)
    | (extract_lets +onlyGivenNames y; have hy : Keeps k0 r0 y.1 := ?_; clear_value y; rotate_left; subst y)
    | (extract_lets +onlyGivenNames y; clear_value y)
    | (extract_lets +onlyGivenNames y; subst y)
    | with_reducible apply State.setDom_keeps
    | with_reducible apply Keeps.ite
    | split

theorem State.updMpd_keeps {k0 : Nat} {r0 : State} (s : State) (hr : Keeps k0 r0 s) (hm : Sub 4 k0 := by exact hm.of (by decide)) : Keeps k0 r0 (State.updMpd s) := by
  unfold State.updMpd
  repeat' first
    | with_reducible assumption
    | exact hm.of (by decide)
    | with_reducible apply State.setReg_keeps

theorem State.stepDomain_keeps {k0 : Nat} {r0 : State} (s : State) (d : Dom) (off : Int) (hr : Keeps k0 r0 s) (hm : Sub 275012124676 k0 := by exact hm.of (by decide)) : Keeps k0 r0 (State.stepDomain s d off) := by
  unfold State.stepDomain
  repeat' first
    | with_reducible assumption
    | exact hm.of (by decide)
    | (extract_lets +onlyGivenNames y; have hy : Keeps k0 r0 y := ?_; clear_value y; rotate_left; subst y)
    | (extract_lets +onlyGivenNames y; have hy : Keeps k0 r0 y.1 := ?_; clear_value y; rotate_left; subst y)
    | (extract_lets +onlyGivenNames y; clear_value y)
    | (extract_lets +onlyGivenNames y; subst y)
    | with_reducible apply State.setDom_keeps
    | with_reducible apply State.stepCross_keeps
    | with_reducible apply State.wrapTb_keeps
    | with_reducible apply Keeps.ite
    | split

theorem State.judgeOffset_keeps {k0 : Nat} {r0 : State} (s : State) (d : Dom) (off : Int) (hr : Keeps k0 r0 s) (hm : Sub 275012124676 k0 := by exact hm.of (by decide)) : Keeps k0 r0 (State.judgeOffset s d off) := by
  unfold State.judgeOffset
  repeat' first
    | with_reducible assumption
    | exact hm.of (by decide)
    | (extract_lets +onlyGivenNames y; have hy : Keeps k0 r0 y := ?_; clear_value y; rotate_left; subst y)
    | (extract_lets +onlyGivenNames y; have hy : Keeps k0 r0 y.1 := ?_; clear_value y; rotate_left; subst y)
    | (extract_lets +onlyGivenNames y; clear_value y)
    | (extract_lets +onlyGivenNames y; subst y)
    | with_reducible apply State.setDom_keeps
    | with_reducible apply State.stepDomain_keeps
    | with_reducible apply State.goDom_keeps
    | with_reducible apply Keeps.ite
    | split

theorem State.ptpDrop_keeps {k0 : Nat} {r0 : State} (s : State) (hr : Keeps k0 r0 s) (hm : Sub 4 k0 := by exact hm.of (by decide)) : Keeps k0 r0 (State.ptpDrop s) := by
  unfold State.ptpDrop
  repeat' first
    | with_reducible assumption
    | exact hm.of (by decide)
    | with_reducible apply State.cnt_keeps

theorem State.syncRx_keeps {k0 : Nat} {r0 : State} (s : State) (d : Dom) (m : SyncMsg) (hr : Keeps k0 r0 s) (hm : Sub 275012124676 k0 := by exact hm.of (by decide)) : Keeps k0 r0 (State.syncRx s d m) := by
  unfold State.syncRx
  repeat' first
    | with_reducible assumption
    | exact hm.of (by decide)
    | (extract_lets +onlyGivenNames y; have hy : Keeps k0 r0 y := ?_; clear_value y; rotate_left; subst y)
    | (extract_lets +onlyGivenNames y; have hy : Keeps k0 r0 y.1 := ?_; clear_value y; rotate_left; subst y)
    | (extract_lets +onlyGivenNames y; clear_value y)
    | (extract_lets +onlyGivenNames y; subst y)
    | with_reducible apply State.setDom_keeps
    | with_reducible apply State.goDom_keeps
    | with_reducible apply State.cnt_keeps
    | with_reducible apply State.setReg_keeps
    | with_reducible apply State.judgeOffset_keeps
    | with_reducible apply State.updMpd_keeps
    | with_reducible apply Keeps.ite
    | split

theorem execPtpSyncRx_keeps {k0 : Nat} {r0 : State} (m : SyncMsg) (s : State) (hr : Keeps k0 r0 s) (hm : Sub 275012124676 k0 := by exact hm.of (by decide)) : KeepsO k0 r0 (execPtpSyncRx m s) := by
  unfold execPtpSyncRx
  repeat' first
    | with_reducible assumption
    | exact hm.of (by decide)
    | with_reducible apply KeepsO.next
    | with_reducible apply State.ptpDrop_keeps
    | with_reducible apply State.syncRx_keeps
    | with_reducible apply Keeps.ite
    | split

theorem State.masterPorts_keeps {k0 : Nat} {r0 : State} (s : State) (d : Dom) (hr : Keeps k0 r0 s) (hm : Sub 134217728 k0 := by exact hm.of (by decide)) : Keeps k0 r0 (State.masterPorts s d) := by
  unfold State.masterPorts
  repeat' first
    | with_reducible assumption
    | exact hm.of (by decide)
    | (extract_lets +onlyGivenNames y; have hy : Keeps k0 r0 y := ?_; clear_value y; rotate_left; subst y)
    | (extract_lets +onlyGivenNames y; have hy : Keeps k0 r0 y.1 := ?_; clear_value y; rotate_left; subst y)
    | (extract_lets +onlyGivenNames y; clear_value y)
    | (extract_lets +onlyGivenNames y; subst y)
    | with_reducible apply State.setDom_keeps
    | with_reducible apply State.choosePort_keeps
    | with_reducible apply Keeps.ite
    | split

theorem State.bmca_keeps {k0 : Nat} {r0 : State} (s : State) (d : Dom) (hr : Keeps k0 r0 s) (hm : Sub 275012124676 k0 := by exact hm.of (by decide)) : Keeps k0 r0 (State.bmca s d) := by
  unfold State.bmca
  repeat' first
    | with_reducible assumption
    | exact hm.of (by decide)
    | (extract_lets +onlyGivenNames y; have hy : Keeps k0 r0 y := ?_; clear_value y; rotate_left; subst y)
    | (extract_lets +onlyGivenNames y; have hy : Keeps k0 r0 y.1 := ?_; clear_value y; rotate_left; subst y)
    | (extract_lets +onlyGivenNames y; clear_value y)
    | (extract_lets +onlyGivenNames y; subst y)
    | with_reducible apply State.setDom_keeps
    | with_reducible apply State.masterPorts_keeps
    | with_reducible apply State.goDom_keeps
    | with_reducible apply Keeps.ite
    | split

theorem State.backupNote_keeps {k0 : Nat} {r0 : State} (s : State) (a : Nat) (hr : Keeps k0 r0 s) (hm : Sub 268435456 k0 := by exact hm.of (by decide)) : Keeps k0 r0 (State.backupNote s a) := by
  unfold State.backupNote
  repeat' first
    | with_reducible assumption
    | exact hm.of (by decide)
    | (extract_lets +onlyGivenNames y; have hy : Keeps k0 r0 y := ?_; clear_value y; rotate_left; subst y)
    | (extract_lets +onlyGivenNames y; have hy : Keeps k0 r0 y.1 := ?_; clear_value y; rotate_left; subst y)
    | (extract_lets +onlyGivenNames y; clear_value y)
    | (extract_lets +onlyGivenNames y; subst y)
    | with_reducible apply Keeps.ite
    | split
    | with_reducible apply Keeps.upd_rtc

theorem State.utcFrom_keeps {k0 : Nat} {r0 : State} (s : State) (d : Dom) (m : AnnMsg) (hr : Keeps k0 r0 s) (hm : Sub 268435460 k0 := by exact hm.of (by decide)) : Keeps k0 r0 (State.utcFrom s d m) := by
  unfold State.utcFrom
  repeat' first
    | with_reducible assumption
    | exact hm.of (by decide)
    | with_reducible apply State.backupNote_keeps
    | with_reducible apply State.put_keeps
    | with_reducible apply Keeps.ite
    | split

theorem State.announceRx_keeps {k0 : Nat} {r0 : State} (s : State) (d : Dom) (m : AnnMsg) (hr : Keeps k0 r0 s) (hm : Sub 275280560132 k0 := by exact hm.of (by decide)) : Keeps k0 r0 (State.announceRx s d m) := by
  unfold State.announceRx
  repeat' first
    | with_reducible assumption
    | exact hm.of (by decide)
    | (extract_lets +onlyGivenNames y; have hy : Keeps k0 r0 y := ?_; clear_value y; rotate_left; subst y)
    | (extract_lets +onlyGivenNames y; have hy : Keeps k0 r0 y.1 := ?_; clear_value y; rotate_left; subst y)
    | (extract_lets +onlyGivenNames y; clear_value y)
    | (extract_lets +onlyGivenNames y; subst y)
    | with_reducible apply State.setDom_keeps
    | with_reducible apply State.bmca_keeps
    | with_reducible apply State.masterPorts_keeps
    | with_reducible apply State.utcFrom_keeps
    | with_reducible apply State.updMpd_keeps
    | with_reducible apply Keeps.ite
    | split

theorem execPtpAnnounceRx_keeps {k0 : Nat} {r0 : State} (m : AnnMsg) (s : State) (hr : Keeps k0 r0 s) (hm : Sub 275280560132 k0 := by exact hm.of (by decide)) : KeepsO k0 r0 (execPtpAnnounceRx m s) := by
  unfold execPtpAnnounceRx
  repeat' first
    | with_reducible assumption
    | exact hm.of (by decide)
    | with_reducible apply KeepsO.next
    | with_reducible apply State.ptpDrop_keeps
    | with_reducible apply State.announceRx_keeps
    | with_reducible apply Keeps.ite
    | split

theorem State.domHold_keeps {k0 : Nat} {r0 : State} (s : State) (d : Dom) (hr : Keeps k0 r0 s) (hm : Sub 275012124676 k0 := by exact hm.of (by decide)) : Keeps k0 r0 (State.domHold s d) := by
  unfold State.domHold
  repeat' first
    | with_reducible assumption
    | exact hm.of (by decide)
    | with_reducible apply State.setDom_keeps
    | with_reducible apply State.goDom_keeps
    | with_reducible apply Keeps.ite
    | split

theorem execSyncTimeout_keeps {k0 : Nat} {r0 : State} (d : Dom) (s : State) (hr : Keeps k0 r0 s) (hm : Sub 275280560134 k0 := by exact hm.of (by decide)) : KeepsO k0 r0 (execSyncTimeout d s) := by
  unfold execSyncTimeout
  repeat' first
    | with_reducible assumption
    | exact hm.of (by decide)
    | with_reducible apply KeepsO.next
    | (extract_lets +onlyGivenNames y; have hy : Keeps k0 r0 y := ?_; clear_value y; rotate_left; subst y)
    | (extract_lets +onlyGivenNames y; have hy : Keeps k0 r0 y.1 := ?_; clear_value y; rotate_left; subst y)
    | (extract_lets +onlyGivenNames y; clear_value y)
    | (extract_lets +onlyGivenNames y; subst y)
    | with_reducible apply State.until_keeps
    | with_reducible apply State.setDom_keeps
    | with_reducible apply State.updMpd_keeps
    | with_reducible apply State.domHold_keeps
    | with_reducible apply Keeps.ite
    | split

theorem execAnnounceTimeout_keeps {k0 : Nat} {r0 : State} (d : Dom) (s : State) (hr : Keeps k0 r0 s) (hm : Sub 275280560134 k0 := by exact hm.of (by decide)) : KeepsO k0 r0 (execAnnounceTimeout d s) := by
  unfold execAnnounceTimeout
  repeat' first
    | with_reducible assumption
    | exact hm.of (by decide)
    | with_reducible apply KeepsO.next
    | with_reducible apply State.until_keeps
    | with_reducible apply State.domHold_keeps
    | with_reducible apply Keeps.ite
    | split

theorem State.annRestart_keeps {k0 : Nat} {r0 : State} (s : State) (hr : Keeps k0 r0 s) (hm : Sub 134217728 k0 := by exact hm.of (by decide)) : Keeps k0 r0 (State.annRestart s) := by
  unfold State.annRestart
  repeat' first
    | with_reducible assumption
    | exact hm.of (by decide)
    | with_reducible apply State.setDom_keeps

theorem execDomainHoldoverExpiry_keeps {k0 : Nat} {r0 : State} (d : Dom) (s : State) (hr : Keeps k0 r0 s) (hm : Sub 275280560134 k0 := by exact hm.of (by decide)) : KeepsO k0 r0 (execDomainHoldoverExpiry d s) := by
  unfold execDomainHoldoverExpiry
  repeat' first
    | with_reducible assumption
    | exact hm.of (by decide)
    | with_reducible apply KeepsO.next
    | (extract_lets +onlyGivenNames y; have hy : Keeps k0 r0 y := ?_; clear_value y; rotate_left; subst y)
    | (extract_lets +onlyGivenNames y; have hy : Keeps k0 r0 y.1 := ?_; clear_value y; rotate_left; subst y)
    | (extract_lets +onlyGivenNames y; clear_value y)
    | (extract_lets +onlyGivenNames y; subst y)
    | with_reducible apply State.until_keeps
    | with_reducible apply State.setDom_keeps
    | with_reducible apply State.goDom_keeps
    | with_reducible apply Keeps.ite
    | split

theorem State.pdelayReq_keeps {k0 : Nat} {r0 : State} (s : State) (port : EthPort) (hr : Keeps k0 r0 s) (hm : Sub 275549003332 k0 := by exact hm.of (by decide)) : Keeps k0 r0 (State.pdelayReq s port) := by
  unfold State.pdelayReq
  repeat' first
    | with_reducible assumption
    | exact hm.of (by decide)
    | (extract_lets +onlyGivenNames y; have hy : Keeps k0 r0 y := ?_; clear_value y; rotate_left; subst y)
    | (extract_lets +onlyGivenNames y; have hy : Keeps k0 r0 y.1 := ?_; clear_value y; rotate_left; subst y)
    | (extract_lets +onlyGivenNames y; clear_value y)
    | (extract_lets +onlyGivenNames y; subst y)
    | with_reducible apply State.withTime_keeps
    | with_reducible apply State.sendEvent_keeps
    | with_reducible apply Keeps.ite
    | split

theorem execPdelayTimer_keeps {k0 : Nat} {r0 : State} (s : State) (hr : Keeps k0 r0 s) (hm : Sub 275817438790 k0 := by exact hm.of (by decide)) : KeepsO k0 r0 (execPdelayTimer s) := by
  unfold execPdelayTimer
  repeat' first
    | with_reducible assumption
    | exact hm.of (by decide)
    | with_reducible apply KeepsO.next
    | (extract_lets +onlyGivenNames y; have hy : Keeps k0 r0 y := ?_; clear_value y; rotate_left; subst y)
    | (extract_lets +onlyGivenNames y; have hy : Keeps k0 r0 y.1 := ?_; clear_value y; rotate_left; subst y)
    | (extract_lets +onlyGivenNames y; clear_value y)
    | (extract_lets +onlyGivenNames y; subst y)
    | with_reducible apply State.until_keeps
    | with_reducible apply State.withTime_keeps
    | with_reducible apply State.pdelayReq_keeps

theorem execPdelayReqRx_keeps {k0 : Nat} {r0 : State} (m : PdReq) (s : State) (hr : Keeps k0 r0 s) (hm : Sub 275414785604 k0 := by exact hm.of (by decide)) : KeepsO k0 r0 (execPdelayReqRx m s) := by
  unfold execPdelayReqRx
  repeat' first
    | with_reducible assumption
    | exact hm.of (by decide)
    | with_reducible apply KeepsO.next
    | with_reducible apply State.ptpDrop_keeps
    | with_reducible apply State.sendEvent_keeps
    | with_reducible apply Keeps.ite
    | split

theorem execPdelayRespRx_keeps {k0 : Nat} {r0 : State} (m : PdResp) (s : State) (hr : Keeps k0 r0 s) (hm : Sub 134217732 k0 := by exact hm.of (by decide)) : KeepsO k0 r0 (execPdelayRespRx m s) := by
  unfold execPdelayRespRx
  repeat' first
    | with_reducible assumption
    | exact hm.of (by decide)
    | with_reducible apply KeepsO.next
    | (extract_lets +onlyGivenNames y; have hy : Keeps k0 r0 y := ?_; clear_value y; rotate_left; subst y)
    | (extract_lets +onlyGivenNames y; have hy : Keeps k0 r0 y.1 := ?_; clear_value y; rotate_left; subst y)
    | (extract_lets +onlyGivenNames y; clear_value y)
    | (extract_lets +onlyGivenNames y; subst y)
    | with_reducible apply State.ptpDrop_keeps
    | with_reducible apply State.withTime_keeps
    | with_reducible apply State.updMpd_keeps
    | with_reducible apply Keeps.ite
    | split

theorem execTcForward_keeps {k0 : Nat} {r0 : State} (f : TcFrame) (s : State) (hr : Keeps k0 r0 s) (hm : Sub 68 k0 := by exact hm.of (by decide)) : KeepsO k0 r0 (execTcForward f s) := by
  unfold execTcForward
  repeat' first
    | with_reducible assumption
    | exact hm.of (by decide)
    | with_reducible apply KeepsO.next
    | (extract_lets +onlyGivenNames y; have hy : Keeps k0 r0 y := ?_; clear_value y; rotate_left; subst y)
    | (extract_lets +onlyGivenNames y; have hy : Keeps k0 r0 y.1 := ?_; clear_value y; rotate_left; subst y)
    | (extract_lets +onlyGivenNames y; clear_value y)
    | (extract_lets +onlyGivenNames y; subst y)
    | with_reducible apply State.ptpDrop_keeps
    | with_reducible apply State.emit_keeps
    | with_reducible apply State.cnt_keeps
    | with_reducible apply Keeps.ite
    | split

end Sys2Proof.Machine
end

