-- ==== Sys2Proof/Laws/KeepsRtc.lean ====
section
/-! SUPPORT. The operations of Machine/Rtc.lean leave the queue alone and keep the canonical form of the stores. -/

set_option linter.unusedTactic false
set_option linter.unreachableTactic false

namespace Sys2Proof.Machine

theorem State.withRtc_keeps {k0 : Nat} {r0 : State} (s : State) (r : RtcSt) (hr : Keeps k0 r0 s) (hm : Sub 268435456 k0 := by exact hm.of (by decide)) : Keeps k0 r0 (State.withRtc s r) := by
  unfold State.withRtc
  repeat' first
    | with_reducible assumption
    | exact hm.of (by decide)
    | with_reducible apply Keeps.upd_rtc

theorem State.setCal_keeps {k0 : Nat} {r0 : State} (s : State) (subs : Nat) (hr : Keeps k0 r0 s) (hm : Sub 268435460 k0 := by exact hm.of (by decide)) : Keeps k0 r0 (State.setCal s subs) := by
  unfold State.setCal
  repeat' first
    | with_reducible assumption
    | exact hm.of (by decide)
    | with_reducible apply State.withRtc_keeps
    | with_reducible apply State.put_keeps

theorem execCalCorrection_keeps {k0 : Nat} {r0 : State} (d : Dom) (s : State) (hr : Keeps k0 r0 s) (hm : Sub 402653318 k0 := by exact hm.of (by decide)) : KeepsO k0 r0 (execCalCorrection d s) := by
  unfold execCalCorrection
  repeat' first
    | with_reducible assumption
    | exact hm.of (by decide)
    | with_reducible apply KeepsO.next
    | (extract_lets +onlyGivenNames y; have hy : Keeps k0 r0 y := ?_; clear_value y; rotate_left; subst y)
    | (extract_lets +onlyGivenNames y; have hy : Keeps k0 r0 y.1 := ?_; clear_value y; rotate_left; subst y)
    | (extract_lets +onlyGivenNames y; clear_value y)
    | (extract_lets +onlyGivenNames y; subst y)
    | with_reducible apply State.advance_keeps
    | with_reducible apply State.setCal_keeps
    | with_reducible apply State.cnt_keeps
    | with_reducible apply State.rtcRecord_keeps
    | with_reducible apply Keeps.ite
    | split

theorem execCalTrim_keeps {k0 : Nat} {r0 : State} (measured : Int) (s : State) (hr : Keeps k0 r0 s) (hm : Sub 402653190 k0 := by exact hm.of (by decide)) : KeepsO k0 r0 (execCalTrim measured s) := by
  unfold execCalTrim
  repeat' first
    | with_reducible assumption
    | exact hm.of (by decide)
    | with_reducible apply KeepsO.next
    | (extract_lets +onlyGivenNames y; have hy : Keeps k0 r0 y := ?_; clear_value y; rotate_left; subst y)
    | (extract_lets +onlyGivenNames y; have hy : Keeps k0 r0 y.1 := ?_; clear_value y; rotate_left; subst y)
    | (extract_lets +onlyGivenNames y; clear_value y)
    | (extract_lets +onlyGivenNames y; subst y)
    | with_reducible apply State.until_keeps
    | with_reducible apply State.withRtc_keeps
    | with_reducible apply State.backupNote_keeps
    | with_reducible apply State.put_keeps
    | with_reducible apply Keeps.ite
    | split

theorem State.calSet_keeps {k0 : Nat} {r0 : State} (s : State) (hr : Keeps k0 r0 s) (hm : Sub 268435588 k0 := by exact hm.of (by decide)) : Keeps k0 r0 (State.calSet s) := by
  unfold State.calSet
  repeat' first
    | with_reducible assumption
    | exact hm.of (by decide)
    | (extract_lets +onlyGivenNames y; have hy : Keeps k0 r0 y := ?_; clear_value y; rotate_left; subst y)
    | (extract_lets +onlyGivenNames y; have hy : Keeps k0 r0 y.1 := ?_; clear_value y; rotate_left; subst y)
    | (extract_lets +onlyGivenNames y; clear_value y)
    | (extract_lets +onlyGivenNames y; subst y)
    | with_reducible apply State.setCal_keeps
    | with_reducible apply State.rtcRecord_keeps
    | with_reducible apply State.setReg_keeps

theorem State.wrRefused_keeps {k0 : Nat} {r0 : State} (s : State) (hr : Keeps k0 r0 s) (hm : Sub 36 k0 := by exact hm.of (by decide)) : Keeps k0 r0 (State.wrRefused s) := by
  unfold State.wrRefused
  repeat' first
    | with_reducible assumption
    | exact hm.of (by decide)
    | with_reducible apply State.put_keeps
    | with_reducible apply State.cnt_keeps
    | with_reducible apply State.noteDrop_keeps

theorem State.backupPut_keeps {k0 : Nat} {r0 : State} (s : State) (a : Nat) (v : Word) (hr : Keeps k0 r0 s) (hm : Sub 268435492 k0 := by exact hm.of (by decide)) : Keeps k0 r0 (State.backupPut s a v) := by
  unfold State.backupPut
  repeat' first
    | with_reducible assumption
    | exact hm.of (by decide)
    | with_reducible apply State.wrRefused_keeps
    | with_reducible apply State.withRtc_keeps
    | with_reducible apply State.put_keeps
    | with_reducible apply Keeps.ite
    | split

theorem State.backupDone_keeps {k0 : Nat} {r0 : State} (s : State) (hr : Keeps k0 r0 s) (hm : Sub 268435588 k0 := by exact hm.of (by decide)) : Keeps k0 r0 (State.backupDone s) := by
  unfold State.backupDone
  repeat' first
    | with_reducible assumption
    | exact hm.of (by decide)
    | (extract_lets +onlyGivenNames y; have hy : Keeps k0 r0 y := ?_; clear_value y; rotate_left; subst y)
    | (extract_lets +onlyGivenNames y; have hy : Keeps k0 r0 y.1 := ?_; clear_value y; rotate_left; subst y)
    | (extract_lets +onlyGivenNames y; clear_value y)
    | (extract_lets +onlyGivenNames y; subst y)
    | with_reducible apply State.withRtc_keeps
    | with_reducible apply State.put_keeps
    | with_reducible apply State.calSet_keeps
    | with_reducible apply State.backupNote_keeps
    | with_reducible apply State.setReg_keeps
    | with_reducible apply Keeps.ite
    | split

theorem execCalSet_keeps {k0 : Nat} {r0 : State} (s : State) (hr : Keeps k0 r0 s) (hm : Sub 268435620 k0 := by exact hm.of (by decide)) : KeepsO k0 r0 (execCalSet s) := by
  unfold execCalSet
  repeat' first
    | with_reducible assumption
    | exact hm.of (by decide)
    | with_reducible apply KeepsO.next
    | with_reducible apply State.wrRefused_keeps
    | with_reducible apply State.backupPut_keeps
    | with_reducible apply State.backupDone_keeps
    | with_reducible apply Keeps.ite
    | split

theorem State.judgeBackup_keeps {k0 : Nat} {r0 : State} (s : State) (hr : Keeps k0 r0 s) (hm : Sub 274877906948 k0 := by exact hm.of (by decide)) : Keeps k0 r0 (State.judgeBackup s) := by
  unfold State.judgeBackup
  repeat' first
    | with_reducible assumption
    | exact hm.of (by decide)
    | with_reducible apply State.put_keeps
    | with_reducible apply State.raise_keeps
    | with_reducible apply Keeps.ite
    | split

theorem State.vbak_keeps {k0 : Nat} {r0 : State} (s : State) (mv : Nat) (hr : Keeps k0 r0 s) (hm : Sub 275146342404 k0 := by exact hm.of (by decide)) : Keeps k0 r0 (State.vbak s mv) := by
  unfold State.vbak
  repeat' first
    | with_reducible assumption
    | exact hm.of (by decide)
    | with_reducible apply State.withRtc_keeps
    | with_reducible apply State.put_keeps
    | with_reducible apply State.judgeBackup_keeps

theorem execBackupLow_keeps {k0 : Nat} {r0 : State} (mv : Nat) (s : State) (hr : Keeps k0 r0 s) (hm : Sub 275146342404 k0 := by exact hm.of (by decide)) : KeepsO k0 r0 (execBackupLow mv s) := by
  unfold execBackupLow
  repeat' first
    | with_reducible assumption
    | exact hm.of (by decide)
    | with_reducible apply KeepsO.next
    | with_reducible apply State.vbak_keeps

theorem execBackupStop_keeps {k0 : Nat} {r0 : State} (mv : Nat) (s : State) (hr : Keeps k0 r0 s) (hm : Sub 275146342404 k0 := by exact hm.of (by decide)) : KeepsO k0 r0 (execBackupStop mv s) := by
  unfold execBackupStop
  repeat' first
    | with_reducible assumption
    | exact hm.of (by decide)
    | with_reducible apply KeepsO.next
    | with_reducible apply State.vbak_keeps
    | with_reducible apply State.withRtc_keeps
    | with_reducible apply Keeps.ite
    | split

theorem State.backupStart_keeps {k0 : Nat} {r0 : State} (s : State) (mv : Nat) (hr : Keeps k0 r0 s) (hm : Sub 275146342532 k0 := by exact hm.of (by decide)) : Keeps k0 r0 (State.backupStart s mv) := by
  unfold State.backupStart
  repeat' first
    | with_reducible assumption
    | exact hm.of (by decide)
    | (extract_lets +onlyGivenNames y; have hy : Keeps k0 r0 y := ?_; clear_value y; rotate_left; subst y)
    | (extract_lets +onlyGivenNames y; have hy : Keeps k0 r0 y.1 := ?_; clear_value y; rotate_left; subst y)
    | (extract_lets +onlyGivenNames y; clear_value y)
    | (extract_lets +onlyGivenNames y; subst y)
    | with_reducible apply State.setReg_keeps
    | with_reducible apply State.put_keeps
    | with_reducible apply State.withRtc_keeps
    | with_reducible apply State.vbak_keeps
    | with_reducible apply State.rtcRecord_keeps
    | (with_reducible refine Keeps.foldl ?_ (fun u x h => ?_))

theorem execRtcAlarm_keeps {k0 : Nat} {r0 : State} (s : State) (hr : Keeps k0 r0 s) (hm : Sub 275280560134 k0 := by exact hm.of (by decide)) : KeepsO k0 r0 (execRtcAlarm s) := by
  unfold execRtcAlarm
  repeat' first
    | with_reducible assumption
    | exact hm.of (by decide)
    | with_reducible apply KeepsO.next
    | with_reducible apply State.advance_keeps
    | with_reducible apply State.raise_keeps
    | with_reducible apply Keeps.ite
    | split

theorem State.logAdvance_keeps {k0 : Nat} {r0 : State} (s : State) (hr : Keeps k0 r0 s) (hm : Sub 4 k0 := by exact hm.of (by decide)) : Keeps k0 r0 (State.logAdvance s) := by
  unfold State.logAdvance
  repeat' first
    | with_reducible assumption
    | exact hm.of (by decide)
    | with_reducible apply State.put_keeps

end Sys2Proof.Machine
end

