-- ==== Sys2Proof/Laws/KeepsEth.lean ====
section
/-! SUPPORT. The operations of Machine/Eth.lean leave the queue alone and keep the canonical form of the stores. -/

set_option linter.unusedTactic false
set_option linter.unreachableTactic false

namespace Sys2Proof.Machine

theorem State.withEth_keeps {k0 : Nat} {r0 : State} (s : State) (e : EthSt) (hr : Keeps k0 r0 s) (hm : Sub 536870912 k0 := by exact hm.of (by decide)) : Keeps k0 r0 (State.withEth s e) := by
  unfold State.withEth
  repeat' first
    | with_reducible assumption
    | exact hm.of (by decide)
    | with_reducible apply Keeps.upd_eth

theorem State.sendOn_keeps {k0 : Nat} {r0 : State} (s : State) (p kind src : Nat) (rct : Option (Nat × Bool)) (tag : Option Nat) (hr : Keeps k0 r0 s) (hm : Sub 68 k0 := by exact hm.of (by decide)) : Keeps k0 r0 (State.sendOn s p kind src rct tag) := by
  unfold State.sendOn
  repeat' first
    | with_reducible assumption
    | exact hm.of (by decide)
    | with_reducible apply State.emit_keeps
    | with_reducible apply State.cnt_keeps
    | with_reducible apply Keeps.ite
    | split

theorem State.sendFrame_keeps {k0 : Nat} {r0 : State} (s : State) (e3 : Bool) (kind : Nat) (hr : Keeps k0 r0 s) (hm : Sub 536870980 k0 := by exact hm.of (by decide)) : Keeps k0 r0 (State.sendFrame s e3 kind) := by
  unfold State.sendFrame
  repeat' first
    | with_reducible assumption
    | exact hm.of (by decide)
    | (extract_lets +onlyGivenNames y; have hy : Keeps k0 r0 y := ?_; clear_value y; rotate_left; subst y)
    | (extract_lets +onlyGivenNames y; have hy : Keeps k0 r0 y.1 := ?_; clear_value y; rotate_left; subst y)
    | (extract_lets +onlyGivenNames y; clear_value y)
    | (extract_lets +onlyGivenNames y; subst y)
    | with_reducible apply State.sendOn_keeps
    | with_reducible apply State.nextSeq_keeps
    | with_reducible apply Keeps.ite
    | split

theorem State.nodeHeard_keeps {k0 : Nat} {r0 : State} (s : State) (mac : Nat) (lanA : Bool) (hr : Keeps k0 r0 s) (hm : Sub 536870912 k0 := by exact hm.of (by decide)) : Keeps k0 r0 (State.nodeHeard s mac lanA) := by
  unfold State.nodeHeard
  repeat' first
    | with_reducible assumption
    | exact hm.of (by decide)
    | (extract_lets +onlyGivenNames y; have hy : Keeps k0 r0 y := ?_; clear_value y; rotate_left; subst y)
    | (extract_lets +onlyGivenNames y; have hy : Keeps k0 r0 y.1 := ?_; clear_value y; rotate_left; subst y)
    | (extract_lets +onlyGivenNames y; clear_value y)
    | (extract_lets +onlyGivenNames y; subst y)
    | with_reducible apply State.withEth_keeps
    | with_reducible apply Keeps.ite
    | split

theorem State.ringJudge_keeps {k0 : Nat} {r0 : State} (s : State) (hr : Keeps k0 r0 s) (hm : Sub 274877906948 k0 := by exact hm.of (by decide)) : Keeps k0 r0 (State.ringJudge s) := by
  unfold State.ringJudge
  repeat' first
    | with_reducible assumption
    | exact hm.of (by decide)
    | (extract_lets +onlyGivenNames y; have hy : Keeps k0 r0 y := ?_; clear_value y; rotate_left; subst y)
    | (extract_lets +onlyGivenNames y; have hy := fun a => y a; clear hy; subst y; beta_reduce)
    | (extract_lets +onlyGivenNames y; have hy : Keeps k0 r0 y.1 := ?_; clear_value y; rotate_left; subst y)
    | (extract_lets +onlyGivenNames y; clear_value y)
    | (extract_lets +onlyGivenNames y; subst y)
    | with_reducible apply State.put_keeps
    | with_reducible apply State.raise_keeps
    | with_reducible apply Keeps.ite
    | split

theorem State.upward_keeps {k0 : Nat} {r0 : State} (s : State) (p : Nat) (k : EthKind) (hr : Keeps k0 r0 s) (hm : Sub 536870980 k0 := by exact hm.of (by decide)) : Keeps k0 r0 (State.upward s p k) := by
  unfold State.upward
  repeat' first
    | with_reducible assumption
    | exact hm.of (by decide)
    | (extract_lets +onlyGivenNames y; have hy : Keeps k0 r0 y := ?_; clear_value y; rotate_left; subst y)
    | (extract_lets +onlyGivenNames y; have hy : Keeps k0 r0 y.1 := ?_; clear_value y; rotate_left; subst y)
    | (extract_lets +onlyGivenNames y; clear_value y)
    | (extract_lets +onlyGivenNames y; subst y)
    | with_reducible apply State.cnt_keeps
    | with_reducible apply State.sendFrame_keeps
    | with_reducible apply Keeps.ite
    | split

theorem State.takeIn_keeps {k0 : Nat} {r0 : State} (s : State) (p : Nat) (k : EthKind) (hr : Keeps k0 r0 s) (hm : Sub 536870980 k0 := by exact hm.of (by decide)) : Keeps k0 r0 (State.takeIn s p k) := by
  unfold State.takeIn
  repeat' first
    | with_reducible assumption
    | exact hm.of (by decide)
    | with_reducible apply State.cnt_keeps
    | with_reducible apply State.upward_keeps

theorem State.prpRx_keeps {k0 : Nat} {r0 : State} (s : State) (f : EthFrame) (hr : Keeps k0 r0 s) (hm : Sub 536870980 k0 := by exact hm.of (by decide)) : Keeps k0 r0 (State.prpRx s f) := by
  unfold State.prpRx
  repeat' first
    | with_reducible assumption
    | exact hm.of (by decide)
    | (extract_lets +onlyGivenNames y; have hy : Keeps k0 r0 y := ?_; clear_value y; rotate_left; subst y)
    | (extract_lets +onlyGivenNames y; have hy : Keeps k0 r0 y.1 := ?_; clear_value y; rotate_left; subst y)
    | (extract_lets +onlyGivenNames y; clear_value y)
    | (extract_lets +onlyGivenNames y; subst y)
    | with_reducible apply State.nodeHeard_keeps
    | with_reducible apply State.takeIn_keeps
    | with_reducible apply State.cnt_keeps
    | with_reducible apply State.withEth_keeps
    | with_reducible apply Keeps.ite
    | split

theorem State.hsrRx_keeps {k0 : Nat} {r0 : State} (s : State) (f : EthFrame) (hr : Keeps k0 r0 s) (hm : Sub 275414777924 k0 := by exact hm.of (by decide)) : Keeps k0 r0 (State.hsrRx s f) := by
  unfold State.hsrRx
  repeat' first
    | with_reducible assumption
    | exact hm.of (by decide)
    | (extract_lets +onlyGivenNames y; have hy : Keeps k0 r0 y := ?_; clear_value y; rotate_left; subst y)
    | (extract_lets +onlyGivenNames y; have hy : Keeps k0 r0 y.1 := ?_; clear_value y; rotate_left; subst y)
    | (extract_lets +onlyGivenNames y; clear_value y)
    | (extract_lets +onlyGivenNames y; subst y)
    | with_reducible apply State.cnt_keeps
    | with_reducible apply State.withEth_keeps
    | with_reducible apply State.ringJudge_keeps
    | with_reducible apply State.takeIn_keeps
    | with_reducible apply State.sendOn_keeps
    | with_reducible apply Keeps.ite
    | split

theorem State.ptpFrame_keeps {k0 : Nat} {r0 : State} (s : State) (f : EthFrame) (hr : Keeps k0 r0 s) (hm : Sub 536870916 k0 := by exact hm.of (by decide)) : Keeps k0 r0 (State.ptpFrame s f) := by
  unfold State.ptpFrame
  repeat' first
    | with_reducible assumption
    | exact hm.of (by decide)
    | (extract_lets +onlyGivenNames y; have hy : Keeps k0 r0 y := ?_; clear_value y; rotate_left; subst y)
    | (extract_lets +onlyGivenNames y; have hy : Keeps k0 r0 y.1 := ?_; clear_value y; rotate_left; subst y)
    | (extract_lets +onlyGivenNames y; clear_value y)
    | (extract_lets +onlyGivenNames y; subst y)
    | with_reducible apply State.nodeHeard_keeps
    | with_reducible apply State.ptpDrop_keeps
    | with_reducible apply State.cnt_keeps
    | with_reducible apply Keeps.ite
    | split

theorem execEthFrameRx_keeps {k0 : Nat} {r0 : State} (f : EthFrame) (s : State) (hr : Keeps k0 r0 s) (hm : Sub 275414777924 k0 := by exact hm.of (by decide)) : KeepsO k0 r0 (execEthFrameRx f s) := by
  unfold execEthFrameRx
  repeat' first
    | with_reducible assumption
    | exact hm.of (by decide)
    | with_reducible apply KeepsO.next
    | (extract_lets +onlyGivenNames y; have hy : Keeps k0 r0 y := ?_; clear_value y; rotate_left; subst y)
    | (extract_lets +onlyGivenNames y; have hy : Keeps k0 r0 y.1 := ?_; clear_value y; rotate_left; subst y)
    | (extract_lets +onlyGivenNames y; clear_value y)
    | (extract_lets +onlyGivenNames y; subst y)
    | with_reducible apply State.cnt_keeps
    | with_reducible apply State.ptpFrame_keeps
    | with_reducible apply State.prpRx_keeps
    | with_reducible apply State.hsrRx_keeps
    | with_reducible apply State.takeIn_keeps
    | with_reducible apply Keeps.ite
    | split

theorem State.badMode_keeps {k0 : Nat} {r0 : State} (s : State) (hr : Keeps k0 r0 s) (hm : Sub 274877906948 k0 := by exact hm.of (by decide)) : Keeps k0 r0 (State.badMode s) := by
  unfold State.badMode
  repeat' first
    | with_reducible assumption
    | exact hm.of (by decide)
    | with_reducible apply State.put_keeps
    | with_reducible apply State.raise_keeps
    | with_reducible apply Keeps.ite
    | split

theorem State.openRing_keeps {k0 : Nat} {r0 : State} (s : State) (hr : Keeps k0 r0 s) (hm : Sub 274877906948 k0 := by exact hm.of (by decide)) : Keeps k0 r0 (State.openRing s) := by
  unfold State.openRing
  repeat' first
    | with_reducible assumption
    | exact hm.of (by decide)
    | with_reducible apply State.put_keeps
    | with_reducible apply State.raise_keeps
    | with_reducible apply Keeps.ite
    | split

theorem State.judgeSpeeds_keeps {k0 : Nat} {r0 : State} (s : State) (hr : Keeps k0 r0 s) (hm : Sub 274877906948 k0 := by exact hm.of (by decide)) : Keeps k0 r0 (State.judgeSpeeds s) := by
  unfold State.judgeSpeeds
  repeat' first
    | with_reducible assumption
    | exact hm.of (by decide)
    | with_reducible apply State.openRing_keeps
    | with_reducible apply State.badMode_keeps
    | with_reducible apply Keeps.ite
    | split

theorem State.setPortLink_keeps {k0 : Nat} {r0 : State} (s : State) (p : Nat) (up fast : Bool) (hr : Keeps k0 r0 s) (hm : Sub 274877906948 k0 := by exact hm.of (by decide)) : Keeps k0 r0 (State.setPortLink s p up fast) := by
  unfold State.setPortLink
  repeat' first
    | with_reducible assumption
    | exact hm.of (by decide)
    | (extract_lets +onlyGivenNames y; have hy : Keeps k0 r0 y := ?_; clear_value y; rotate_left; subst y)
    | (extract_lets +onlyGivenNames y; have hy : Keeps k0 r0 y.1 := ?_; clear_value y; rotate_left; subst y)
    | (extract_lets +onlyGivenNames y; clear_value y)
    | (extract_lets +onlyGivenNames y; subst y)
    | with_reducible apply State.put_keeps
    | with_reducible apply State.raise_keeps
    | with_reducible apply State.judgeSpeeds_keeps
    | with_reducible apply Keeps.ite
    | split

theorem State.darkPorts_keeps {k0 : Nat} {r0 : State} (s : State) (hr : Keeps k0 r0 s) (hm : Sub 274877906948 k0 := by exact hm.of (by decide)) : Keeps k0 r0 (State.darkPorts s) := by
  unfold State.darkPorts
  repeat' first
    | with_reducible assumption
    | exact hm.of (by decide)
    | with_reducible apply State.setPortLink_keeps
    | with_reducible apply Keeps.ite
    | split
    | (with_reducible refine Keeps.foldl ?_ (fun u x h => ?_))

theorem State.e12Up_keeps {k0 : Nat} {r0 : State} (s : State) (hr : Keeps k0 r0 s) (hm : Sub 275414777860 k0 := by exact hm.of (by decide)) : Keeps k0 r0 (State.e12Up s) := by
  unfold State.e12Up
  repeat' first
    | with_reducible assumption
    | exact hm.of (by decide)
    | (extract_lets +onlyGivenNames y; have hy : Keeps k0 r0 y := ?_; clear_value y; rotate_left; subst y)
    | (extract_lets +onlyGivenNames y; have hy : Keeps k0 r0 y.1 := ?_; clear_value y; rotate_left; subst y)
    | (extract_lets +onlyGivenNames y; clear_value y)
    | (extract_lets +onlyGivenNames y; subst y)
    | with_reducible apply State.openRing_keeps
    | with_reducible apply State.withEth_keeps
    | with_reducible apply State.badMode_keeps
    | with_reducible apply State.judgeSpeeds_keeps
    | with_reducible apply Keeps.ite
    | split

theorem State.ethCtrlWritten_keeps {k0 : Nat} {r0 : State} (s : State) (old : Word) (hr : Keeps k0 r0 s) (hm : Sub 275414777860 k0 := by exact hm.of (by decide)) : Keeps k0 r0 (State.ethCtrlWritten s old) := by
  unfold State.ethCtrlWritten
  repeat' first
    | with_reducible assumption
    | exact hm.of (by decide)
    | (extract_lets +onlyGivenNames y; have hy : Keeps k0 r0 y := ?_; clear_value y; rotate_left; subst y)
    | (extract_lets +onlyGivenNames y; have hy : Keeps k0 r0 y.1 := ?_; clear_value y; rotate_left; subst y)
    | (extract_lets +onlyGivenNames y; clear_value y)
    | (extract_lets +onlyGivenNames y; subst y)
    | with_reducible apply State.e12Up_keeps
    | with_reducible apply State.darkPorts_keeps
    | with_reducible apply Keeps.ite
    | split

theorem execEthLinkChange_keeps {k0 : Nat} {r0 : State} (p : EthPort) (up fast : Bool) (s : State) (hr : Keeps k0 r0 s) (hm : Sub 274877906948 k0 := by exact hm.of (by decide)) : KeepsO k0 r0 (execEthLinkChange p up fast s) := by
  unfold execEthLinkChange
  repeat' first
    | with_reducible assumption
    | exact hm.of (by decide)
    | with_reducible apply KeepsO.next
    | (extract_lets +onlyGivenNames y; have hy : Keeps k0 r0 y := ?_; clear_value y; rotate_left; subst y)
    | (extract_lets +onlyGivenNames y; have hy : Keeps k0 r0 y.1 := ?_; clear_value y; rotate_left; subst y)
    | (extract_lets +onlyGivenNames y; clear_value y)
    | (extract_lets +onlyGivenNames y; subst y)
    | with_reducible apply State.setPortLink_keeps
    | with_reducible apply Keeps.ite
    | split

theorem execSfpChange_keeps {k0 : Nat} {r0 : State} (p : EthPort) (present : Bool) (pins : SfpPins) (s : State) (hr : Keeps k0 r0 s) (hm : Sub 275414777860 k0 := by exact hm.of (by decide)) : KeepsO k0 r0 (execSfpChange p present pins s) := by
  unfold execSfpChange
  repeat' first
    | with_reducible assumption
    | exact hm.of (by decide)
    | with_reducible apply KeepsO.next
    | (extract_lets +onlyGivenNames y; have hy : Keeps k0 r0 y := ?_; clear_value y; rotate_left; subst y)
    | (extract_lets +onlyGivenNames y; have hy : Keeps k0 r0 y.1 := ?_; clear_value y; rotate_left; subst y)
    | (extract_lets +onlyGivenNames y; clear_value y)
    | (extract_lets +onlyGivenNames y; subst y)
    | with_reducible apply State.withEth_keeps
    | with_reducible apply State.put_keeps
    | with_reducible apply State.raise_keeps
    | with_reducible apply State.setPortLink_keeps
    | with_reducible apply Keeps.ite
    | split

theorem execSupervisionTimer_keeps {k0 : Nat} {r0 : State} (s : State) (hr : Keeps k0 r0 s) (hm : Sub 939524166 k0 := by exact hm.of (by decide)) : KeepsO k0 r0 (execSupervisionTimer s) := by
  unfold execSupervisionTimer
  repeat' first
    | with_reducible assumption
    | exact hm.of (by decide)
    | with_reducible apply KeepsO.next
    | (extract_lets +onlyGivenNames y; have hy : Keeps k0 r0 y := ?_; clear_value y; rotate_left; subst y)
    | (extract_lets +onlyGivenNames y; have hy : Keeps k0 r0 y.1 := ?_; clear_value y; rotate_left; subst y)
    | (extract_lets +onlyGivenNames y; clear_value y)
    | (extract_lets +onlyGivenNames y; subst y)
    | with_reducible apply State.until_keeps
    | with_reducible apply State.withEth_keeps
    | with_reducible apply State.sendFrame_keeps
    | with_reducible apply Keeps.ite
    | split

theorem execLanFaultTimeout_keeps {k0 : Nat} {r0 : State} (mac : BitVec 48) (s : State) (hr : Keeps k0 r0 s) (hm : Sub 275817431046 k0 := by exact hm.of (by decide)) : KeepsO k0 r0 (execLanFaultTimeout mac s) := by
  unfold execLanFaultTimeout
  repeat' first
    | with_reducible assumption
    | exact hm.of (by decide)
    | with_reducible apply KeepsO.next
    | (extract_lets +onlyGivenNames y; have hy : Keeps k0 r0 y := ?_; clear_value y; rotate_left; subst y)
    | (extract_lets +onlyGivenNames y; have hy : Keeps k0 r0 y.1 := ?_; clear_value y; rotate_left; subst y)
    | (extract_lets +onlyGivenNames y; clear_value y)
    | (extract_lets +onlyGivenNames y; subst y)
    | with_reducible apply State.until_keeps
    | with_reducible apply State.withEth_keeps
    | with_reducible apply State.raise_keeps
    | with_reducible apply Keeps.ite
    | split

theorem execNodeForgetExpiry_keeps {k0 : Nat} {r0 : State} (mac : BitVec 48) (s : State) (hr : Keeps k0 r0 s) (hm : Sub 939524098 k0 := by exact hm.of (by decide)) : KeepsO k0 r0 (execNodeForgetExpiry mac s) := by
  unfold execNodeForgetExpiry
  repeat' first
    | with_reducible assumption
    | exact hm.of (by decide)
    | with_reducible apply KeepsO.next
    | (extract_lets +onlyGivenNames y; have hy : Keeps k0 r0 y := ?_; clear_value y; rotate_left; subst y)
    | (extract_lets +onlyGivenNames y; have hy : Keeps k0 r0 y.1 := ?_; clear_value y; rotate_left; subst y)
    | (extract_lets +onlyGivenNames y; clear_value y)
    | (extract_lets +onlyGivenNames y; subst y)
    | with_reducible apply State.until_keeps
    | with_reducible apply State.withEth_keeps
    | with_reducible apply Keeps.ite
    | split

theorem execRingOpen_keeps {k0 : Nat} {r0 : State} (s : State) (hr : Keeps k0 r0 s) (hm : Sub 275280560134 k0 := by exact hm.of (by decide)) : KeepsO k0 r0 (execRingOpen s) := by
  unfold execRingOpen
  repeat' first
    | with_reducible assumption
    | exact hm.of (by decide)
    | with_reducible apply KeepsO.next
    | (extract_lets +onlyGivenNames y; have hy : Keeps k0 r0 y := ?_; clear_value y; rotate_left; subst y)
    | (extract_lets +onlyGivenNames y; have hy : Keeps k0 r0 y.1 := ?_; clear_value y; rotate_left; subst y)
    | (extract_lets +onlyGivenNames y; clear_value y)
    | (extract_lets +onlyGivenNames y; subst y)
    | with_reducible apply State.until_keeps
    | with_reducible apply State.openRing_keeps
    | with_reducible apply Keeps.ite
    | split

end Sys2Proof.Machine
end

