-- ==== Sys2Proof/Laws/KeepsCan.lean ====
section
/-! SUPPORT. The operations of Machine/Can.lean leave the queue alone and keep the canonical form of the stores. -/

set_option linter.unusedTactic false
set_option linter.unreachableTactic false

namespace Sys2Proof.Machine

theorem State.setCan_keeps {k0 : Nat} {r0 : State} (s : State) (n : Nat) (c : CanSt) (hr : Keeps k0 r0 s) (hm : Sub 1073741824 k0 := by exact hm.of (by decide)) : Keeps k0 r0 (State.setCan s n c) := by
  unfold State.setCan
  repeat' first
    | with_reducible assumption
    | exact hm.of (by decide)
    | with_reducible apply Keeps.upd_can

theorem State.canErr_keeps {k0 : Nat} {r0 : State} (s : State) (n tec rec : Nat) (hr : Keeps k0 r0 s) (hm : Sub 275951648772 k0 := by exact hm.of (by decide)) : Keeps k0 r0 (State.canErr s n tec rec) := by
  unfold State.canErr
  repeat' first
    | with_reducible assumption
    | exact hm.of (by decide)
    | (extract_lets +onlyGivenNames y; have hy : Keeps k0 r0 y := ?_; clear_value y; rotate_left; subst y)
    | (extract_lets +onlyGivenNames y; have hy : Keeps k0 r0 y.1 := ?_; clear_value y; rotate_left; subst y)
    | (extract_lets +onlyGivenNames y; clear_value y)
    | (extract_lets +onlyGivenNames y; subst y)
    | with_reducible apply State.put_keeps
    | with_reducible apply State.raise_keeps
    | with_reducible apply State.setCan_keeps
    | with_reducible apply Keeps.ite
    | split

theorem State.canRecover_keeps {k0 : Nat} {r0 : State} (s : State) (n : Nat) (hr : Keeps k0 r0 s) (hm : Sub 1073741828 k0 := by exact hm.of (by decide)) : Keeps k0 r0 (State.canRecover s n) := by
  unfold State.canRecover
  repeat' first
    | with_reducible assumption
    | exact hm.of (by decide)
    | (extract_lets +onlyGivenNames y; have hy : Keeps k0 r0 y := ?_; clear_value y; rotate_left; subst y)
    | (extract_lets +onlyGivenNames y; have hy : Keeps k0 r0 y.1 := ?_; clear_value y; rotate_left; subst y)
    | (extract_lets +onlyGivenNames y; clear_value y)
    | (extract_lets +onlyGivenNames y; subst y)
    | with_reducible apply State.put_keeps
    | with_reducible apply State.setCan_keeps
    | with_reducible apply Keeps.ite
    | split

theorem State.ttMaster_keeps {k0 : Nat} {r0 : State} (s : State) (n : Nat) (b : Bool) (hr : Keeps k0 r0 s) (hm : Sub 4 k0 := by exact hm.of (by decide)) : Keeps k0 r0 (State.ttMaster s n b) := by
  unfold State.ttMaster
  repeat' first
    | with_reducible assumption
    | exact hm.of (by decide)
    | with_reducible apply State.put_keeps

theorem State.ttBacked_keeps {k0 : Nat} {r0 : State} (s : State) (n : Nat) (b : Bool) (hr : Keeps k0 r0 s) (hm : Sub 4 k0 := by exact hm.of (by decide)) : Keeps k0 r0 (State.ttBacked s n b) := by
  unfold State.ttBacked
  repeat' first
    | with_reducible assumption
    | exact hm.of (by decide)
    | with_reducible apply State.put_keeps

theorem State.ttEnd_keeps {k0 : Nat} {r0 : State} (s : State) (n : Nat) (hr : Keeps k0 r0 s) (hm : Sub 1073741828 k0 := by exact hm.of (by decide)) : Keeps k0 r0 (State.ttEnd s n) := by
  unfold State.ttEnd
  repeat' first
    | with_reducible assumption
    | exact hm.of (by decide)
    | (extract_lets +onlyGivenNames y; have hy : Keeps k0 r0 y := ?_; clear_value y; rotate_left; subst y)
    | (extract_lets +onlyGivenNames y; have hy : Keeps k0 r0 y.1 := ?_; clear_value y; rotate_left; subst y)
    | (extract_lets +onlyGivenNames y; clear_value y)
    | (extract_lets +onlyGivenNames y; subst y)
    | with_reducible apply State.setCan_keeps
    | with_reducible apply State.ttMaster_keeps
    | with_reducible apply State.ttBacked_keeps

theorem State.canOff_keeps {k0 : Nat} {r0 : State} (s : State) (n : Nat) (hr : Keeps k0 r0 s) (hm : Sub 1073741828 k0 := by exact hm.of (by decide)) : Keeps k0 r0 (State.canOff s n) := by
  unfold State.canOff
  repeat' first
    | with_reducible assumption
    | exact hm.of (by decide)
    | (extract_lets +onlyGivenNames y; have hy : Keeps k0 r0 y := ?_; clear_value y; rotate_left; subst y)
    | (extract_lets +onlyGivenNames y; have hy : Keeps k0 r0 y.1 := ?_; clear_value y; rotate_left; subst y)
    | (extract_lets +onlyGivenNames y; clear_value y)
    | (extract_lets +onlyGivenNames y; subst y)
    | with_reducible apply State.setCan_keeps
    | with_reducible apply State.put_keeps
    | with_reducible apply State.ttMaster_keeps
    | with_reducible apply State.ttBacked_keeps

theorem State.canLeft_keeps {k0 : Nat} {r0 : State} (s : State) (n : Nat) (hr : Keeps k0 r0 s) (hm : Sub 1073741828 k0 := by exact hm.of (by decide)) : Keeps k0 r0 (State.canLeft s n) := by
  unfold State.canLeft
  repeat' first
    | with_reducible assumption
    | exact hm.of (by decide)
    | with_reducible apply State.ttEnd_keeps
    | with_reducible apply State.setCan_keeps

theorem State.canCtrlWritten_keeps {k0 : Nat} {r0 : State} (s : State) (n : Nat) (old v : Word) (hr : Keeps k0 r0 s) (hm : Sub 1073741860 k0 := by exact hm.of (by decide)) : Keeps k0 r0 (State.canCtrlWritten s n old v) := by
  unfold State.canCtrlWritten
  repeat' first
    | with_reducible assumption
    | exact hm.of (by decide)
    | (extract_lets +onlyGivenNames y; have hy : Keeps k0 r0 y := ?_; clear_value y; rotate_left; subst y)
    | (extract_lets +onlyGivenNames y; have hy : Keeps k0 r0 y.1 := ?_; clear_value y; rotate_left; subst y)
    | (extract_lets +onlyGivenNames y; clear_value y)
    | (extract_lets +onlyGivenNames y; subst y)
    | with_reducible apply State.canLeft_keeps
    | with_reducible apply State.setCan_keeps
    | with_reducible apply State.put_keeps
    | with_reducible apply State.noteDrop_keeps
    | with_reducible apply State.canOff_keeps
    | with_reducible apply State.canRecover_keeps
    | with_reducible apply Keeps.ite
    | split

theorem execCanRecover_keeps {k0 : Nat} {r0 : State} (n : Fin 2) (s : State) (hr : Keeps k0 r0 s) (hm : Sub 1073741828 k0 := by exact hm.of (by decide)) : KeepsO k0 r0 (execCanRecover n s) := by
  unfold execCanRecover
  repeat' first
    | with_reducible assumption
    | exact hm.of (by decide)
    | with_reducible apply KeepsO.next
    | with_reducible apply State.canRecover_keeps

theorem execCanRecoveryDone_keeps {k0 : Nat} {r0 : State} (n : Fin 2) (s : State) (hr : Keeps k0 r0 s) (hm : Sub 275951648772 k0 := by exact hm.of (by decide)) : KeepsO k0 r0 (execCanRecoveryDone n s) := by
  unfold execCanRecoveryDone
  repeat' first
    | with_reducible assumption
    | exact hm.of (by decide)
    | with_reducible apply KeepsO.next
    | (extract_lets +onlyGivenNames y; have hy : Keeps k0 r0 y := ?_; clear_value y; rotate_left; subst y)
    | (extract_lets +onlyGivenNames y; have hy : Keeps k0 r0 y.1 := ?_; clear_value y; rotate_left; subst y)
    | (extract_lets +onlyGivenNames y; clear_value y)
    | (extract_lets +onlyGivenNames y; subst y)
    | with_reducible apply State.setCan_keeps
    | with_reducible apply State.put_keeps
    | with_reducible apply State.canErr_keeps
    | with_reducible apply Keeps.ite
    | split

theorem execCanBusError_keeps {k0 : Nat} {r0 : State} (n : Fin 2) (e : CanRxErr) (s : State) (hr : Keeps k0 r0 s) (hm : Sub 275951648772 k0 := by exact hm.of (by decide)) : KeepsO k0 r0 (execCanBusError n e s) := by
  unfold execCanBusError
  repeat' first
    | with_reducible assumption
    | exact hm.of (by decide)
    | with_reducible apply KeepsO.next
    | (extract_lets +onlyGivenNames y; have hy : Keeps k0 r0 y := ?_; clear_value y; rotate_left; subst y)
    | (extract_lets +onlyGivenNames y; have hy : Keeps k0 r0 y.1 := ?_; clear_value y; rotate_left; subst y)
    | (extract_lets +onlyGivenNames y; clear_value y)
    | (extract_lets +onlyGivenNames y; subst y)
    | with_reducible apply State.cnt_keeps
    | with_reducible apply State.canErr_keeps
    | with_reducible apply Keeps.ite
    | split

theorem State.putPairBit_keeps {k0 : Nat} {r0 : State} (s : State) (f : Nat → Fld) (e : Nat) (b : Bool) (hr : Keeps k0 r0 s) (hm : Sub 4 k0 := by exact hm.of (by decide)) : Keeps k0 r0 (State.putPairBit s f e b) := by
  unfold State.putPairBit
  repeat' first
    | with_reducible assumption
    | exact hm.of (by decide)
    | with_reducible apply State.putBitOf_keeps

theorem State.setTxPend_keeps {k0 : Nat} {r0 : State} (s : State) (n e : Nat) (b : Bool) (hr : Keeps k0 r0 s) (hm : Sub 4 k0 := by exact hm.of (by decide)) : Keeps k0 r0 (State.setTxPend s n e b) := by
  unfold State.setTxPend
  repeat' first
    | with_reducible assumption
    | exact hm.of (by decide)
    | (extract_lets +onlyGivenNames y; have hy : Keeps k0 r0 y := ?_; clear_value y; rotate_left; subst y)
    | (extract_lets +onlyGivenNames y; have hy : Keeps k0 r0 y.1 := ?_; clear_value y; rotate_left; subst y)
    | (extract_lets +onlyGivenNames y; clear_value y)
    | (extract_lets +onlyGivenNames y; subst y)
    | with_reducible apply State.putPairBit_keeps
    | with_reducible apply State.put_keeps

theorem State.notOwner_keeps {k0 : Nat} {r0 : State} (s : State) (n : Nat) (hr : Keeps k0 r0 s) (hm : Sub 36 k0 := by exact hm.of (by decide)) : Keeps k0 r0 (State.notOwner s n) := by
  unfold State.notOwner
  repeat' first
    | with_reducible assumption
    | exact hm.of (by decide)
    | with_reducible apply State.put_keeps
    | with_reducible apply State.cnt_keeps
    | with_reducible apply State.noteDrop_keeps

theorem State.txPush_keeps {k0 : Nat} {r0 : State} (s : State) (n : Nat) (v : Word) (hr : Keeps k0 r0 s) (hm : Sub 1073741860 k0 := by exact hm.of (by decide)) : Keeps k0 r0 (State.txPush s n v) := by
  unfold State.txPush
  repeat' first
    | with_reducible assumption
    | exact hm.of (by decide)
    | (extract_lets +onlyGivenNames y; have hy : Keeps k0 r0 y := ?_; clear_value y; rotate_left; subst y)
    | (extract_lets +onlyGivenNames y; have hy : Keeps k0 r0 y.1 := ?_; clear_value y; rotate_left; subst y)
    | (extract_lets +onlyGivenNames y; clear_value y)
    | (extract_lets +onlyGivenNames y; subst y)
    | with_reducible apply State.put_keeps
    | with_reducible apply State.cnt_keeps
    | with_reducible apply State.noteDrop_keeps
    | with_reducible apply State.setCan_keeps
    | with_reducible apply State.setTxPend_keeps
    | with_reducible apply State.putPairBit_keeps
    | with_reducible apply Keeps.ite
    | split

theorem execTxPush_keeps {k0 : Nat} {r0 : State} (n : Fin 2) (m : Master) (v : Word) (s : State) (hr : Keeps k0 r0 s) (hm : Sub 1073741860 k0 := by exact hm.of (by decide)) : KeepsO k0 r0 (execTxPush n m v s) := by
  unfold execTxPush
  repeat' first
    | with_reducible assumption
    | exact hm.of (by decide)
    | with_reducible apply KeepsO.next
    | with_reducible apply State.txPush_keeps
    | with_reducible apply State.notOwner_keeps
    | with_reducible apply Keeps.ite
    | split

theorem State.canEnded_keeps {k0 : Nat} {r0 : State} (s : State) (n : Nat) (hr : Keeps k0 r0 s) (hm : Sub 1073741828 k0 := by exact hm.of (by decide)) : Keeps k0 r0 (State.canEnded s n) := by
  unfold State.canEnded
  repeat' first
    | with_reducible assumption
    | exact hm.of (by decide)
    | with_reducible apply State.canLeft_keeps
    | with_reducible apply Keeps.ite
    | split

theorem State.cancelOne_keeps {k0 : Nat} {r0 : State} (s : State) (n : Nat) (cur : Option Nat) (e : Nat) (hr : Keeps k0 r0 s) (hm : Sub 275951648772 k0 := by exact hm.of (by decide)) : Keeps k0 r0 (State.cancelOne s n cur e) := by
  unfold State.cancelOne
  repeat' first
    | with_reducible assumption
    | exact hm.of (by decide)
    | with_reducible apply State.put_keeps
    | with_reducible apply State.putPairBit_keeps
    | with_reducible apply State.raise_keeps
    | with_reducible apply State.setTxPend_keeps
    | with_reducible apply State.setCan_keeps
    | with_reducible apply Keeps.ite
    | split

theorem State.txCancel_keeps {k0 : Nat} {r0 : State} (s : State) (n v : Nat) (sof : Option Nat) (hr : Keeps k0 r0 s) (hm : Sub 275951648772 k0 := by exact hm.of (by decide)) : Keeps k0 r0 (State.txCancel s n v sof) := by
  unfold State.txCancel
  repeat' first
    | with_reducible assumption
    | exact hm.of (by decide)
    | (extract_lets +onlyGivenNames y; have hy : Keeps k0 r0 y := ?_; clear_value y; rotate_left; subst y)
    | (extract_lets +onlyGivenNames y; have hy : Keeps k0 r0 y.1 := ?_; clear_value y; rotate_left; subst y)
    | (extract_lets +onlyGivenNames y; clear_value y)
    | (extract_lets +onlyGivenNames y; subst y)
    | with_reducible apply State.cancelOne_keeps
    | with_reducible apply Keeps.ite
    | split
    | (with_reducible refine Keeps.foldl ?_ (fun u x h => ?_))

theorem execTxCancel_keeps {k0 : Nat} {r0 : State} (n : Fin 2) (m : Master) (v : BitVec 64) (sof : Option Nat) (s : State) (hr : Keeps k0 r0 s) (hm : Sub 275951648804 k0 := by exact hm.of (by decide)) : KeepsO k0 r0 (execTxCancel n m v sof s) := by
  unfold execTxCancel
  repeat' first
    | with_reducible assumption
    | exact hm.of (by decide)
    | with_reducible apply KeepsO.next
    | with_reducible apply State.txCancel_keeps
    | with_reducible apply State.notOwner_keeps
    | with_reducible apply Keeps.ite
    | split

theorem State.setTxts_keeps {k0 : Nat} {r0 : State} (s : State) (n e t : Nat) (hr : Keeps k0 r0 s) (hm : Sub 4 k0 := by exact hm.of (by decide)) : Keeps k0 r0 (State.setTxts s n e t) := by
  unfold State.setTxts
  repeat' first
    | with_reducible assumption
    | exact hm.of (by decide)
    | with_reducible apply State.setReg_keeps

theorem State.canEmit_keeps {k0 : Nat} {r0 : State} (s : State) (n head ctl : Nat) (data : List Word) (hr : Keeps k0 r0 s) (hm : Sub 64 k0 := by exact hm.of (by decide)) : Keeps k0 r0 (State.canEmit s n head ctl data) := by
  unfold State.canEmit
  repeat' first
    | with_reducible assumption
    | exact hm.of (by decide)
    | with_reducible apply State.emit_keeps
    | with_reducible apply Keeps.ite
    | split

theorem State.tdcMeasure_keeps {k0 : Nat} {r0 : State} (s : State) (n ctl : Nat) (hr : Keeps k0 r0 s) (hm : Sub 132 k0 := by exact hm.of (by decide)) : Keeps k0 r0 (State.tdcMeasure s n ctl) := by
  unfold State.tdcMeasure
  repeat' first
    | with_reducible assumption
    | exact hm.of (by decide)
    | with_reducible apply State.put_keeps
    | with_reducible apply State.drew_keeps
    | with_reducible apply Keeps.ite
    | split

theorem State.txAck_keeps {k0 : Nat} {r0 : State} (s : State) (n e sof : Nat) (hr : Keeps k0 r0 s) (hm : Sub 275951648964 k0 := by exact hm.of (by decide)) : Keeps k0 r0 (State.txAck s n e sof) := by
  unfold State.txAck
  repeat' first
    | with_reducible assumption
    | exact hm.of (by decide)
    | (extract_lets +onlyGivenNames y; have hy : Keeps k0 r0 y := ?_; clear_value y; rotate_left; subst y)
    | (extract_lets +onlyGivenNames y; have hy : Keeps k0 r0 y.1 := ?_; clear_value y; rotate_left; subst y)
    | (extract_lets +onlyGivenNames y; clear_value y)
    | (extract_lets +onlyGivenNames y; subst y)
    | with_reducible apply State.canEmit_keeps
    | with_reducible apply State.tdcMeasure_keeps
    | with_reducible apply State.setTxPend_keeps
    | with_reducible apply State.putPairBit_keeps
    | with_reducible apply State.setTxts_keeps
    | with_reducible apply State.cnt_keeps
    | with_reducible apply State.raise_keeps
    | with_reducible apply State.setCan_keeps
    | with_reducible apply State.canErr_keeps

theorem State.refAck_keeps {k0 : Nat} {r0 : State} (s : State) (n sof : Nat) (hr : Keeps k0 r0 s) (hm : Sub 275951648836 k0 := by exact hm.of (by decide)) : Keeps k0 r0 (State.refAck s n sof) := by
  unfold State.refAck
  repeat' first
    | with_reducible assumption
    | exact hm.of (by decide)
    | (extract_lets +onlyGivenNames y; have hy : Keeps k0 r0 y := ?_; clear_value y; rotate_left; subst y)
    | (extract_lets +onlyGivenNames y; have hy : Keeps k0 r0 y.1 := ?_; clear_value y; rotate_left; subst y)
    | (extract_lets +onlyGivenNames y; clear_value y)
    | (extract_lets +onlyGivenNames y; subst y)
    | with_reducible apply State.canEmit_keeps
    | with_reducible apply State.setCan_keeps
    | with_reducible apply State.canErr_keeps
    | with_reducible apply Keeps.ite
    | split

theorem execCanTxAck_keeps {k0 : Nat} {r0 : State} (n : Fin 2) (sof : Nat) (s : State) (hr : Keeps k0 r0 s) (hm : Sub 275951648964 k0 := by exact hm.of (by decide)) : KeepsO k0 r0 (execCanTxAck n sof s) := by
  unfold execCanTxAck
  repeat' first
    | with_reducible assumption
    | exact hm.of (by decide)
    | with_reducible apply KeepsO.next
    | with_reducible apply State.refAck_keeps
    | with_reducible apply State.canEnded_keeps
    | with_reducible apply State.txAck_keeps
    | with_reducible apply Keeps.ite
    | split

theorem State.collision_keeps {k0 : Nat} {r0 : State} (s : State) (n e : Nat) (hr : Keeps k0 r0 s) (hm : Sub 275951648772 k0 := by exact hm.of (by decide)) : Keeps k0 r0 (State.collision s n e) := by
  unfold State.collision
  repeat' first
    | with_reducible assumption
    | exact hm.of (by decide)
    | (extract_lets +onlyGivenNames y; have hy : Keeps k0 r0 y := ?_; clear_value y; rotate_left; subst y)
    | (extract_lets +onlyGivenNames y; have hy : Keeps k0 r0 y.1 := ?_; clear_value y; rotate_left; subst y)
    | (extract_lets +onlyGivenNames y; clear_value y)
    | (extract_lets +onlyGivenNames y; subst y)
    | with_reducible apply State.cnt_keeps
    | with_reducible apply State.setCan_keeps
    | with_reducible apply State.put_keeps
    | with_reducible apply State.raise_keeps
    | with_reducible apply Keeps.ite
    | split

theorem State.clearColl_keeps {k0 : Nat} {r0 : State} (s : State) (n e : Nat) (hr : Keeps k0 r0 s) (hm : Sub 1073741824 k0 := by exact hm.of (by decide)) : Keeps k0 r0 (State.clearColl s n e) := by
  unfold State.clearColl
  repeat' first
    | with_reducible assumption
    | exact hm.of (by decide)
    | with_reducible apply State.setCan_keeps

theorem State.txFail_keeps {k0 : Nat} {r0 : State} (s : State) (n e : Nat) (why : CanFail) (hr : Keeps k0 r0 s) (hm : Sub 275951648772 k0 := by exact hm.of (by decide)) : Keeps k0 r0 (State.txFail s n e why) := by
  unfold State.txFail
  repeat' first
    | with_reducible assumption
    | exact hm.of (by decide)
    | (extract_lets +onlyGivenNames y; have hy : Keeps k0 r0 y := ?_; clear_value y; rotate_left; subst y)
    | (extract_lets +onlyGivenNames y; have hy : Keeps k0 r0 y.1 := ?_; clear_value y; rotate_left; subst y)
    | (extract_lets +onlyGivenNames y; clear_value y)
    | (extract_lets +onlyGivenNames y; subst y)
    | with_reducible apply State.clearColl_keeps
    | with_reducible apply State.cnt_keeps
    | with_reducible apply State.collision_keeps
    | with_reducible apply State.canErr_keeps
    | with_reducible apply Keeps.ite
    | split

theorem State.refCollision_keeps {k0 : Nat} {r0 : State} (s : State) (n : Nat) (hr : Keeps k0 r0 s) (hm : Sub 275951648772 k0 := by exact hm.of (by decide)) : Keeps k0 r0 (State.refCollision s n) := by
  unfold State.refCollision
  repeat' first
    | with_reducible assumption
    | exact hm.of (by decide)
    | (extract_lets +onlyGivenNames y; have hy : Keeps k0 r0 y := ?_; clear_value y; rotate_left; subst y)
    | (extract_lets +onlyGivenNames y; have hy : Keeps k0 r0 y.1 := ?_; clear_value y; rotate_left; subst y)
    | (extract_lets +onlyGivenNames y; clear_value y)
    | (extract_lets +onlyGivenNames y; subst y)
    | with_reducible apply State.cnt_keeps
    | with_reducible apply State.setCan_keeps
    | with_reducible apply State.put_keeps
    | with_reducible apply State.raise_keeps
    | with_reducible apply Keeps.ite
    | split

theorem State.refFail_keeps {k0 : Nat} {r0 : State} (s : State) (n : Nat) (why : CanFail) (hr : Keeps k0 r0 s) (hm : Sub 275951648772 k0 := by exact hm.of (by decide)) : Keeps k0 r0 (State.refFail s n why) := by
  unfold State.refFail
  repeat' first
    | with_reducible assumption
    | exact hm.of (by decide)
    | (extract_lets +onlyGivenNames y; have hy : Keeps k0 r0 y := ?_; clear_value y; rotate_left; subst y)
    | (extract_lets +onlyGivenNames y; have hy : Keeps k0 r0 y.1 := ?_; clear_value y; rotate_left; subst y)
    | (extract_lets +onlyGivenNames y; clear_value y)
    | (extract_lets +onlyGivenNames y; subst y)
    | with_reducible apply State.setCan_keeps
    | with_reducible apply State.cnt_keeps
    | with_reducible apply State.refCollision_keeps
    | with_reducible apply State.canErr_keeps
    | with_reducible apply Keeps.ite
    | split

theorem execCanTxFail_keeps {k0 : Nat} {r0 : State} (n : Fin 2) (sof : Nat) (why : CanFail) (s : State) (hr : Keeps k0 r0 s) (hm : Sub 275951648772 k0 := by exact hm.of (by decide)) : KeepsO k0 r0 (execCanTxFail n sof why s) := by
  unfold execCanTxFail
  repeat' first
    | with_reducible assumption
    | exact hm.of (by decide)
    | with_reducible apply KeepsO.next
    | with_reducible apply State.refFail_keeps
    | with_reducible apply State.canEnded_keeps
    | with_reducible apply State.txFail_keeps
    | with_reducible apply Keeps.ite
    | split

theorem execCollisionHoldExpiry_keeps {k0 : Nat} {r0 : State} (n : Fin 2) (e : Fin 64) (s : State) (hr : Keeps k0 r0 s) (hm : Sub 1476395010 k0 := by exact hm.of (by decide)) : KeepsO k0 r0 (execCollisionHoldExpiry n e s) := by
  unfold execCollisionHoldExpiry
  repeat' first
    | with_reducible assumption
    | exact hm.of (by decide)
    | with_reducible apply KeepsO.next
    | (extract_lets +onlyGivenNames y; have hy : Keeps k0 r0 y := ?_; clear_value y; rotate_left; subst y)
    | (extract_lets +onlyGivenNames y; have hy : Keeps k0 r0 y.1 := ?_; clear_value y; rotate_left; subst y)
    | (extract_lets +onlyGivenNames y; clear_value y)
    | (extract_lets +onlyGivenNames y; subst y)
    | with_reducible apply State.until_keeps
    | with_reducible apply State.setCan_keeps
    | with_reducible apply Keeps.ite
    | split

theorem State.rxLevel_keeps {k0 : Nat} {r0 : State} (s : State) (n : Nat) (hr : Keeps k0 r0 s) (hm : Sub 4 k0 := by exact hm.of (by decide)) : Keeps k0 r0 (State.rxLevel s n) := by
  unfold State.rxLevel
  repeat' first
    | with_reducible assumption
    | exact hm.of (by decide)
    | (extract_lets +onlyGivenNames y; have hy : Keeps k0 r0 y := ?_; clear_value y; rotate_left; subst y)
    | (extract_lets +onlyGivenNames y; have hy : Keeps k0 r0 y.1 := ?_; clear_value y; rotate_left; subst y)
    | (extract_lets +onlyGivenNames y; clear_value y)
    | (extract_lets +onlyGivenNames y; subst y)
    | with_reducible apply State.put_keeps

theorem State.rxEnter_keeps {k0 : Nat} {r0 : State} (s : State) (n v ts : Nat) (data : List Word) (hr : Keeps k0 r0 s) (hm : Sub 275951656452 k0 := by exact hm.of (by decide)) : Keeps k0 r0 (State.rxEnter s n v ts data) := by
  unfold State.rxEnter
  repeat' first
    | with_reducible assumption
    | exact hm.of (by decide)
    | (extract_lets +onlyGivenNames y; have hy : Keeps k0 r0 y := ?_; clear_value y; rotate_left; subst y)
    | (extract_lets +onlyGivenNames y; have hy : Keeps k0 r0 y.1 := ?_; clear_value y; rotate_left; subst y)
    | (extract_lets +onlyGivenNames y; clear_value y)
    | (extract_lets +onlyGivenNames y; subst y)
    | with_reducible apply State.spill_keeps
    | with_reducible apply State.put_keeps
    | with_reducible apply State.cnt_keeps
    | with_reducible apply State.raise_keeps
    | with_reducible apply State.storeFifo_keeps
    | with_reducible apply State.setCan_keeps
    | with_reducible apply State.rxLevel_keeps
    | with_reducible apply Keeps.ite
    | split

theorem State.rxStore_keeps {k0 : Nat} {r0 : State} (s : State) (n : Nat) (x : CanRx) (flt : Nat) (hr : Keeps k0 r0 s) (hm : Sub 275951656452 k0 := by exact hm.of (by decide)) : Keeps k0 r0 (State.rxStore s n x flt) := by
  unfold State.rxStore
  repeat' first
    | with_reducible assumption
    | exact hm.of (by decide)
    | with_reducible apply State.rxEnter_keeps

theorem State.rxFilter_keeps {k0 : Nat} {r0 : State} (s : State) (n : Nat) (x : CanRx) (hr : Keeps k0 r0 s) (hm : Sub 275951656580 k0 := by exact hm.of (by decide)) : Keeps k0 r0 (State.rxFilter s n x) := by
  unfold State.rxFilter
  repeat' first
    | with_reducible assumption
    | exact hm.of (by decide)
    | with_reducible apply State.rxStore_keeps
    | with_reducible apply State.drew_keeps
    | with_reducible apply Keeps.ite
    | split

theorem State.recGood_keeps {k0 : Nat} {r0 : State} (s : State) (n : Nat) (hr : Keeps k0 r0 s) (hm : Sub 275951648900 k0 := by exact hm.of (by decide)) : Keeps k0 r0 (State.recGood s n) := by
  unfold State.recGood
  repeat' first
    | with_reducible assumption
    | exact hm.of (by decide)
    | (extract_lets +onlyGivenNames y; have hy : Keeps k0 r0 y := ?_; clear_value y; rotate_left; subst y)
    | (extract_lets +onlyGivenNames y; have hy : Keeps k0 r0 y.1 := ?_; clear_value y; rotate_left; subst y)
    | (extract_lets +onlyGivenNames y; clear_value y)
    | (extract_lets +onlyGivenNames y; subst y)
    | with_reducible apply State.canErr_keeps
    | with_reducible apply State.drew_keeps
    | with_reducible apply Keeps.ite
    | split

theorem State.refRx_keeps {k0 : Nat} {r0 : State} (s : State) (n : Nat) (x : CanRx) (hr : Keeps k0 r0 s) (hm : Sub 275951648772 k0 := by exact hm.of (by decide)) : Keeps k0 r0 (State.refRx s n x) := by
  unfold State.refRx
  repeat' first
    | with_reducible assumption
    | exact hm.of (by decide)
    | (extract_lets +onlyGivenNames y; have hy : Keeps k0 r0 y := ?_; clear_value y; rotate_left; subst y)
    | (extract_lets +onlyGivenNames y; have hy : Keeps k0 r0 y.1 := ?_; clear_value y; rotate_left; subst y)
    | (extract_lets +onlyGivenNames y; clear_value y)
    | (extract_lets +onlyGivenNames y; subst y)
    | with_reducible apply State.ttMaster_keeps
    | with_reducible apply State.ttBacked_keeps
    | with_reducible apply State.put_keeps
    | with_reducible apply State.setCan_keeps
    | with_reducible apply State.raise_keeps
    | with_reducible apply State.refCollision_keeps
    | with_reducible apply Keeps.ite
    | split

theorem execCanRxFrame_keeps {k0 : Nat} {r0 : State} (n : Fin 2) (f : CanRx) (s : State) (hr : Keeps k0 r0 s) (hm : Sub 275951656580 k0 := by exact hm.of (by decide)) : KeepsO k0 r0 (execCanRxFrame n f s) := by
  unfold execCanRxFrame
  repeat' first
    | with_reducible assumption
    | exact hm.of (by decide)
    | with_reducible apply KeepsO.next
    | with_reducible apply State.recGood_keeps
    | with_reducible apply State.refRx_keeps
    | with_reducible apply State.rxFilter_keeps
    | with_reducible apply Keeps.ite
    | split

theorem State.rxWindow_keeps {k0 : Nat} {r0 : State} (s : State) (n : Nat) (hr : Keeps k0 r0 s) (hm : Sub 1073741828 k0 := by exact hm.of (by decide)) : Keeps k0 r0 (State.rxWindow s n) := by
  unfold State.rxWindow
  repeat' first
    | with_reducible assumption
    | exact hm.of (by decide)
    | (extract_lets +onlyGivenNames y; have hy : Keeps k0 r0 y := ?_; clear_value y; rotate_left; subst y)
    | (extract_lets +onlyGivenNames y; have hy : Keeps k0 r0 y.1 := ?_; clear_value y; rotate_left; subst y)
    | (extract_lets +onlyGivenNames y; clear_value y)
    | (extract_lets +onlyGivenNames y; subst y)
    | with_reducible apply State.setCan_keeps
    | with_reducible apply State.setReg_keeps
    | with_reducible apply Keeps.ite
    | split
    | (with_reducible refine Keeps.foldl ?_ (fun u x h => ?_))

theorem State.rxTopRead_keeps {k0 : Nat} {r0 : State} (s : State) (n : Nat) (m : Master) (wide : Bool) (hr : Keeps k0 r0 s) (hm : Sub 825707478548 k0 := by exact hm.of (by decide)) : Keeps k0 r0 (State.rxTopRead s n m wide) := by
  unfold State.rxTopRead
  repeat' first
    | with_reducible assumption
    | exact hm.of (by decide)
    | (extract_lets +onlyGivenNames y; have hy : Keeps k0 r0 y := ?_; clear_value y; rotate_left; subst y)
    | (extract_lets +onlyGivenNames y; have hy : Keeps k0 r0 y.1 := ?_; clear_value y; rotate_left; subst y)
    | (extract_lets +onlyGivenNames y; clear_value y)
    | (extract_lets +onlyGivenNames y; subst y)
    | with_reducible apply State.rxWindow_keeps
    | with_reducible apply State.fifoPop_keeps
    | with_reducible apply State.afterPop_keeps
    | with_reducible apply State.rxEnter_keeps
    | with_reducible apply State.rxLevel_keeps
    | with_reducible apply State.pairRead_keeps
    | with_reducible apply Keeps.ite
    | split
    | intro t p ht

theorem execRxTopPop_keeps {k0 : Nat} {r0 : State} (r : ReadReq) (s : State) (hr : Keeps k0 r0 s) (hm : Sub 825707478548 k0 := by exact hm.of (by decide)) : KeepsO k0 r0 (execRxTopPop r s) := by
  unfold execRxTopPop
  repeat' first
    | with_reducible assumption
    | exact hm.of (by decide)
    | with_reducible apply KeepsO.next
    | with_reducible apply State.rxTopRead_keeps
    | with_reducible apply Keeps.ite
    | split

theorem State.masterCycle_keeps {k0 : Nat} {r0 : State} (s : State) (n t : Nat) (hr : Keeps k0 r0 s) (hm : Sub 1073741828 k0 := by exact hm.of (by decide)) : Keeps k0 r0 (State.masterCycle s n t) := by
  unfold State.masterCycle
  repeat' first
    | with_reducible assumption
    | exact hm.of (by decide)
    | (extract_lets +onlyGivenNames y; have hy : Keeps k0 r0 y := ?_; clear_value y; rotate_left; subst y)
    | (extract_lets +onlyGivenNames y; have hy : Keeps k0 r0 y.1 := ?_; clear_value y; rotate_left; subst y)
    | (extract_lets +onlyGivenNames y; clear_value y)
    | (extract_lets +onlyGivenNames y; subst y)
    | with_reducible apply State.ttMaster_keeps
    | with_reducible apply State.put_keeps
    | with_reducible apply State.setCan_keeps
    | with_reducible apply Keeps.ite
    | split

theorem execCanBasicCycle_keeps {k0 : Nat} {r0 : State} (n : Fin 2) (s : State) (hr : Keeps k0 r0 s) (hm : Sub 1476395014 k0 := by exact hm.of (by decide)) : KeepsO k0 r0 (execCanBasicCycle n s) := by
  unfold execCanBasicCycle
  repeat' first
    | with_reducible assumption
    | exact hm.of (by decide)
    | with_reducible apply KeepsO.next
    | (extract_lets +onlyGivenNames y; have hy : Keeps k0 r0 y := ?_; clear_value y; rotate_left; subst y)
    | (extract_lets +onlyGivenNames y; have hy : Keeps k0 r0 y.1 := ?_; clear_value y; rotate_left; subst y)
    | (extract_lets +onlyGivenNames y; clear_value y)
    | (extract_lets +onlyGivenNames y; subst y)
    | with_reducible apply State.untilCtb_keeps
    | with_reducible apply State.setCan_keeps
    | with_reducible apply State.masterCycle_keeps
    | with_reducible apply Keeps.ite
    | split

theorem execCanMasterResume_keeps {k0 : Nat} {r0 : State} (n : Fin 2) (s : State) (hr : Keeps k0 r0 s) (hm : Sub 276354301958 k0 := by exact hm.of (by decide)) : KeepsO k0 r0 (execCanMasterResume n s) := by
  unfold execCanMasterResume
  repeat' first
    | with_reducible assumption
    | exact hm.of (by decide)
    | with_reducible apply KeepsO.next
    | (extract_lets +onlyGivenNames y; have hy : Keeps k0 r0 y := ?_; clear_value y; rotate_left; subst y)
    | (extract_lets +onlyGivenNames y; have hy : Keeps k0 r0 y.1 := ?_; clear_value y; rotate_left; subst y)
    | (extract_lets +onlyGivenNames y; clear_value y)
    | (extract_lets +onlyGivenNames y; subst y)
    | with_reducible apply State.untilCtb_keeps
    | with_reducible apply State.ttBacked_keeps
    | with_reducible apply State.setCan_keeps
    | with_reducible apply State.masterCycle_keeps
    | with_reducible apply State.raise_keeps
    | with_reducible apply Keeps.ite
    | split

theorem execCanTtMiss_keeps {k0 : Nat} {r0 : State} (n : Fin 2) (e : Fin 64) (s : State) (hr : Keeps k0 r0 s) (hm : Sub 276354301958 k0 := by exact hm.of (by decide)) : KeepsO k0 r0 (execCanTtMiss n e s) := by
  unfold execCanTtMiss
  repeat' first
    | with_reducible assumption
    | exact hm.of (by decide)
    | with_reducible apply KeepsO.next
    | (extract_lets +onlyGivenNames y; have hy : Keeps k0 r0 y := ?_; clear_value y; rotate_left; subst y)
    | (extract_lets +onlyGivenNames y; have hy : Keeps k0 r0 y.1 := ?_; clear_value y; rotate_left; subst y)
    | (extract_lets +onlyGivenNames y; clear_value y)
    | (extract_lets +onlyGivenNames y; subst y)
    | with_reducible apply State.untilCtb_keeps
    | with_reducible apply State.setCan_keeps
    | with_reducible apply State.cnt_keeps
    | with_reducible apply State.put_keeps
    | with_reducible apply State.raise_keeps
    | with_reducible apply Keeps.ite
    | split

end Sys2Proof.Machine
end

