-- ==== Sys2Proof/Laws/KeepsAdc.lean ====
section
/-! SUPPORT. The operations of Machine/Adc.lean leave the queue alone and keep the canonical form of the stores. -/

set_option linter.unusedTactic false
set_option linter.unreachableTactic false

namespace Sys2Proof.Machine

theorem State.setConv8_keeps {k0 : Nat} {r0 : State} (s : State) (k : Nat) (c : AdcCh) (hr : Keeps k0 r0 s) (hm : Sub 2147483648 k0 := by exact hm.of (by decide)) : Keeps k0 r0 (State.setConv8 s k c) := by
  unfold State.setConv8
  repeat' first
    | with_reducible assumption
    | exact hm.of (by decide)
    | with_reducible apply Keeps.upd_adc

theorem State.startBurst_keeps {k0 : Nat} {r0 : State} (s : State) (k src t : Nat) (hr : Keeps k0 r0 s) (hm : Sub 2147484164 k0 := by exact hm.of (by decide)) : Keeps k0 r0 (State.startBurst s k src t) := by
  unfold State.startBurst
  repeat' first
    | with_reducible assumption
    | exact hm.of (by decide)
    | (extract_lets +onlyGivenNames y; have hy : Keeps k0 r0 y := ?_; clear_value y; rotate_left; subst y)
    | (extract_lets +onlyGivenNames y; have hy : Keeps k0 r0 y.1 := ?_; clear_value y; rotate_left; subst y)
    | (extract_lets +onlyGivenNames y; clear_value y)
    | (extract_lets +onlyGivenNames y; subst y)
    | with_reducible apply State.setConv8_keeps
    | with_reducible apply State.setBitOf_keeps
    | with_reducible apply State.startRes_keeps
    | with_reducible apply State.put_keeps
    | with_reducible apply Keeps.ite
    | split

theorem State.trigMiss_keeps {k0 : Nat} {r0 : State} (s : State) (hr : Keeps k0 r0 s) (hm : Sub 274877906948 k0 := by exact hm.of (by decide)) : Keeps k0 r0 (State.trigMiss s) := by
  unfold State.trigMiss
  repeat' first
    | with_reducible assumption
    | exact hm.of (by decide)
    | with_reducible apply State.put_keeps
    | with_reducible apply State.cnt_keeps
    | with_reducible apply State.raise_keeps

theorem State.adcTrig_keeps {k0 : Nat} {r0 : State} (s : State) (k src : Nat) (hr : Keeps k0 r0 s) (hm : Sub 277025395204 k0 := by exact hm.of (by decide)) : Keeps k0 r0 (State.adcTrig s k src) := by
  unfold State.adcTrig
  repeat' first
    | with_reducible assumption
    | exact hm.of (by decide)
    | (extract_lets +onlyGivenNames y; have hy : Keeps k0 r0 y := ?_; clear_value y; rotate_left; subst y)
    | (extract_lets +onlyGivenNames y; have hy : Keeps k0 r0 y.1 := ?_; clear_value y; rotate_left; subst y)
    | (extract_lets +onlyGivenNames y; clear_value y)
    | (extract_lets +onlyGivenNames y; subst y)
    | with_reducible apply State.put_keeps
    | with_reducible apply State.trigMiss_keeps
    | with_reducible apply State.startBurst_keeps
    | with_reducible apply State.setConv8_keeps
    | with_reducible apply State.spill_keeps
    | with_reducible apply Keeps.ite
    | split

theorem State.retrigger_keeps {k0 : Nat} {r0 : State} (s : State) (k : Nat) (hr : Keeps k0 r0 s) (hm : Sub 277025395204 k0 := by exact hm.of (by decide)) : Keeps k0 r0 (State.retrigger s k) := by
  unfold State.retrigger
  repeat' first
    | with_reducible assumption
    | exact hm.of (by decide)
    | (extract_lets +onlyGivenNames y; have hy : Keeps k0 r0 y := ?_; clear_value y; rotate_left; subst y)
    | (extract_lets +onlyGivenNames y; have hy : Keeps k0 r0 y.1 := ?_; clear_value y; rotate_left; subst y)
    | (extract_lets +onlyGivenNames y; clear_value y)
    | (extract_lets +onlyGivenNames y; subst y)
    | with_reducible apply State.startBurst_keeps
    | with_reducible apply State.adcTrig_keeps
    | with_reducible apply Keeps.ite
    | split
    | (refine State.unspill_keeps _ _ ?_ (by exact hm.of (by decide)) (by assumption))

theorem State.adcStart_keeps {k0 : Nat} {r0 : State} (s : State) (k : Nat) (hr : Keeps k0 r0 s) (hm : Sub 277025395204 k0 := by exact hm.of (by decide)) : Keeps k0 r0 (State.adcStart s k) := by
  unfold State.adcStart
  repeat' first
    | with_reducible assumption
    | exact hm.of (by decide)
    | with_reducible apply State.put_keeps
    | with_reducible apply State.adcTrig_keeps
    | with_reducible apply Keeps.ite
    | split

theorem execAdcStart_keeps {k0 : Nat} {r0 : State} (k : Fin 8) (s : State) (hr : Keeps k0 r0 s) (hm : Sub 277025395204 k0 := by exact hm.of (by decide)) : KeepsO k0 r0 (execAdcStart k s) := by
  unfold execAdcStart
  repeat' first
    | with_reducible assumption
    | exact hm.of (by decide)
    | with_reducible apply KeepsO.next
    | with_reducible apply State.adcStart_keeps

theorem execAdcTrigger_keeps {k0 : Nat} {r0 : State} (k : Fin 8) (s : State) (hr : Keeps k0 r0 s) (hm : Sub 277428048390 k0 := by exact hm.of (by decide)) : KeepsO k0 r0 (execAdcTrigger k s) := by
  unfold execAdcTrigger
  repeat' first
    | with_reducible assumption
    | exact hm.of (by decide)
    | with_reducible apply KeepsO.next
    | (extract_lets +onlyGivenNames y; have hy : Keeps k0 r0 y := ?_; clear_value y; rotate_left; subst y)
    | (extract_lets +onlyGivenNames y; have hy : Keeps k0 r0 y.1 := ?_; clear_value y; rotate_left; subst y)
    | (extract_lets +onlyGivenNames y; clear_value y)
    | (extract_lets +onlyGivenNames y; subst y)
    | with_reducible apply State.untilCtb_keeps
    | with_reducible apply State.adcTrig_keeps
    | with_reducible apply Keeps.ite
    | split

theorem State.startCont_keeps {k0 : Nat} {r0 : State} (s : State) (k : Nat) (hr : Keeps k0 r0 s) (hm : Sub 2147484164 k0 := by exact hm.of (by decide)) : Keeps k0 r0 (State.startCont s k) := by
  unfold State.startCont
  repeat' first
    | with_reducible assumption
    | exact hm.of (by decide)
    | with_reducible apply State.startBurst_keeps
    | with_reducible apply Keeps.ite
    | split

theorem State.dropRun_keeps {k0 : Nat} {r0 : State} (s : State) (k : Nat) (hr : Keeps k0 r0 s) (hm : Sub 2147484164 k0 := by exact hm.of (by decide)) : Keeps k0 r0 (State.dropRun s k) := by
  unfold State.dropRun
  repeat' first
    | with_reducible assumption
    | exact hm.of (by decide)
    | with_reducible apply State.setConv8_keeps
    | with_reducible apply State.clrBitOf_keeps
    | with_reducible apply State.stopRes_keeps

theorem State.adcLevel_keeps {k0 : Nat} {r0 : State} (s : State) (k : Nat) (hr : Keeps k0 r0 s) (hm : Sub 4 k0 := by exact hm.of (by decide)) : Keeps k0 r0 (State.adcLevel s k) := by
  unfold State.adcLevel
  repeat' first
    | with_reducible assumption
    | exact hm.of (by decide)
    | with_reducible apply State.put_keeps

theorem State.adcMark_keeps {k0 : Nat} {r0 : State} (s : State) (k : Nat) (hr : Keeps k0 r0 s) (hm : Sub 274877911044 k0 := by exact hm.of (by decide)) : Keeps k0 r0 (State.adcMark s k) := by
  unfold State.adcMark
  repeat' first
    | with_reducible assumption
    | exact hm.of (by decide)
    | with_reducible apply State.spill_keeps
    | with_reducible apply State.raise_keeps
    | with_reducible apply Keeps.ite
    | split

theorem State.adcRemark_keeps {k0 : Nat} {r0 : State} (s : State) (k : Nat) (hr : Keeps k0 r0 s) (hm : Sub 274877911044 k0 := by exact hm.of (by decide)) : Keeps k0 r0 (State.adcRemark s k) := by
  unfold State.adcRemark
  repeat' first
    | with_reducible assumption
    | exact hm.of (by decide)
    | (extract_lets +onlyGivenNames y; have hy : Keeps k0 r0 y := ?_; clear_value y; rotate_left; subst y)
    | (extract_lets +onlyGivenNames y; have hy : Keeps k0 r0 y.1 := ?_; clear_value y; rotate_left; subst y)
    | (extract_lets +onlyGivenNames y; clear_value y)
    | (extract_lets +onlyGivenNames y; subst y)
    | with_reducible apply State.adcLevel_keeps
    | with_reducible apply State.adcMark_keeps
    | with_reducible apply Keeps.ite
    | split
    | (refine State.unspill_keeps _ _ ?_ (by exact hm.of (by decide)) (by assumption))

theorem State.adcPush_keeps {k0 : Nat} {r0 : State} (s : State) (k v ts : Nat) (hr : Keeps k0 r0 s) (hm : Sub 277025398276 k0 := by exact hm.of (by decide)) : Keeps k0 r0 (State.adcPush s k v ts) := by
  unfold State.adcPush
  repeat' first
    | with_reducible assumption
    | exact hm.of (by decide)
    | (extract_lets +onlyGivenNames y; have hy : Keeps k0 r0 y := ?_; clear_value y; rotate_left; subst y)
    | (extract_lets +onlyGivenNames y; have hy : Keeps k0 r0 y.1 := ?_; clear_value y; rotate_left; subst y)
    | (extract_lets +onlyGivenNames y; clear_value y)
    | (extract_lets +onlyGivenNames y; subst y)
    | with_reducible apply State.spill_keeps
    | with_reducible apply State.put_keeps
    | with_reducible apply State.cnt_keeps
    | with_reducible apply State.raise_keeps
    | with_reducible apply State.storeFifo_keeps
    | with_reducible apply State.adcLevel_keeps
    | with_reducible apply State.setConv8_keeps
    | with_reducible apply State.adcMark_keeps
    | with_reducible apply Keeps.ite
    | split

theorem State.adcStore_keeps {k0 : Nat} {r0 : State} (s : State) (k : Nat) (r : AdcRun) (raw : List Int) (hr : Keeps k0 r0 s) (hm : Sub 277025398276 k0 := by exact hm.of (by decide)) : Keeps k0 r0 (State.adcStore s k r raw) := by
  unfold State.adcStore
  repeat' first
    | with_reducible assumption
    | exact hm.of (by decide)
    | (extract_lets +onlyGivenNames y; have hy : Keeps k0 r0 y := ?_; clear_value y; rotate_left; subst y)
    | (extract_lets +onlyGivenNames y; have hy : Keeps k0 r0 y.1 := ?_; clear_value y; rotate_left; subst y)
    | (extract_lets +onlyGivenNames y; clear_value y)
    | (extract_lets +onlyGivenNames y; subst y)
    | with_reducible apply State.adcPush_keeps
    | with_reducible apply State.complete_keeps
    | with_reducible apply State.setConv8_keeps
    | with_reducible apply State.startRes_keeps
    | with_reducible apply State.clrBitOf_keeps
    | with_reducible apply State.startBurst_keeps
    | with_reducible apply State.retrigger_keeps
    | with_reducible apply Keeps.ite
    | split

theorem execAdcResult_keeps {k0 : Nat} {r0 : State} (k : Fin 8) (raw : List (BitVec 16)) (s : State) (hr : Keeps k0 r0 s) (hm : Sub 277428051462 k0 := by exact hm.of (by decide)) : KeepsO k0 r0 (execAdcResult k raw s) := by
  unfold execAdcResult
  repeat' first
    | with_reducible assumption
    | exact hm.of (by decide)
    | with_reducible apply KeepsO.next
    | (extract_lets +onlyGivenNames y; have hy : Keeps k0 r0 y := ?_; clear_value y; rotate_left; subst y)
    | (extract_lets +onlyGivenNames y; have hy : Keeps k0 r0 y.1 := ?_; clear_value y; rotate_left; subst y)
    | (extract_lets +onlyGivenNames y; clear_value y)
    | (extract_lets +onlyGivenNames y; subst y)
    | with_reducible apply State.until_keeps
    | with_reducible apply State.adcStore_keeps
    | with_reducible apply Keeps.ite
    | split

theorem State.latestMark_keeps {k0 : Nat} {r0 : State} (s : State) (a : Nat) (hr : Keeps k0 r0 s) (hm : Sub 512 k0 := by exact hm.of (by decide)) : Keeps k0 r0 (State.latestMark s a) := by
  unfold State.latestMark
  repeat' first
    | with_reducible assumption
    | exact hm.of (by decide)
    | (extract_lets +onlyGivenNames y; have hy : Keeps k0 r0 y := ?_; clear_value y; rotate_left; subst y)
    | (extract_lets +onlyGivenNames y; have hy : Keeps k0 r0 y.1 := ?_; clear_value y; rotate_left; subst y)
    | (extract_lets +onlyGivenNames y; clear_value y)
    | (extract_lets +onlyGivenNames y; subst y)
    | with_reducible apply State.startRes_keeps
    | with_reducible apply State.stopRes_keeps
    | with_reducible apply Keeps.ite
    | split

theorem State.adcPop_keeps {k0 : Nat} {r0 : State} (s : State) (k : Nat) (m : Master) (wide : Bool) (hr : Keeps k0 r0 s) (hm : Sub 826781220372 k0 := by exact hm.of (by decide)) : Keeps k0 r0 (State.adcPop s k m wide) := by
  unfold State.adcPop
  repeat' first
    | with_reducible assumption
    | exact hm.of (by decide)
    | (extract_lets +onlyGivenNames y; have hy : Keeps k0 r0 y := ?_; clear_value y; rotate_left; subst y)
    | (extract_lets +onlyGivenNames y; have hy : Keeps k0 r0 y.1 := ?_; clear_value y; rotate_left; subst y)
    | (extract_lets +onlyGivenNames y; clear_value y)
    | (extract_lets +onlyGivenNames y; subst y)
    | with_reducible apply State.cnt_keeps
    | with_reducible apply State.pairRead_keeps
    | with_reducible apply State.setConv8_keeps
    | with_reducible apply State.put_keeps
    | with_reducible apply State.fifoPop_keeps
    | with_reducible apply State.adcRemark_keeps
    | with_reducible apply State.afterPop_keeps
    | with_reducible apply State.adcPush_keeps
    | with_reducible apply State.adcLevel_keeps
    | with_reducible apply Keeps.ite
    | split
    | intro t p ht

theorem execAdcFifoPop_keeps {k0 : Nat} {r0 : State} (r : ReadReq) (s : State) (hr : Keeps k0 r0 s) (hm : Sub 826781220372 k0 := by exact hm.of (by decide)) : KeepsO k0 r0 (execAdcFifoPop r s) := by
  unfold execAdcFifoPop
  repeat' first
    | with_reducible assumption
    | exact hm.of (by decide)
    | with_reducible apply KeepsO.next
    | with_reducible apply State.adcPop_keeps
    | with_reducible apply Keeps.ite
    | split

theorem State.windowWrite_keeps {k0 : Nat} {r0 : State} (s : State) (hr : Keeps k0 r0 s) (hm : Sub 36 k0 := by exact hm.of (by decide)) : Keeps k0 r0 (State.windowWrite s) := by
  unfold State.windowWrite
  repeat' first
    | with_reducible assumption
    | exact hm.of (by decide)
    | with_reducible apply State.put_keeps
    | with_reducible apply State.noteDrop_keeps

theorem execAdcWindowWrite_keeps {k0 : Nat} {r0 : State} (w : WriteReq) (s : State) (hr : Keeps k0 r0 s) (hm : Sub 36 k0 := by exact hm.of (by decide)) : KeepsO k0 r0 (execAdcWindowWrite w s) := by
  unfold execAdcWindowWrite
  repeat' first
    | with_reducible assumption
    | exact hm.of (by decide)
    | with_reducible apply KeepsO.next
    | with_reducible apply State.windowWrite_keeps
    | with_reducible apply Keeps.ite
    | split

theorem State.adcRestart_keeps {k0 : Nat} {r0 : State} (s : State) (k inv uns : Nat) (cfg : Word) (pair : Bool) (hr : Keeps k0 r0 s) (hm : Sub 2147483652 k0 := by exact hm.of (by decide)) : Keeps k0 r0 (State.adcRestart s k inv uns cfg pair) := by
  unfold State.adcRestart
  repeat' first
    | with_reducible assumption
    | exact hm.of (by decide)
    | (extract_lets +onlyGivenNames y; have hy : Keeps k0 r0 y := ?_; clear_value y; rotate_left; subst y)
    | (extract_lets +onlyGivenNames y; have hy : Keeps k0 r0 y.1 := ?_; clear_value y; rotate_left; subst y)
    | (extract_lets +onlyGivenNames y; clear_value y)
    | (extract_lets +onlyGivenNames y; subst y)
    | with_reducible apply State.setConv8_keeps
    | with_reducible apply State.cnt_keeps
    | with_reducible apply Keeps.ite
    | split

theorem State.pairOff_keeps {k0 : Nat} {r0 : State} (s : State) (k : Nat) (hr : Keeps k0 r0 s) (hm : Sub 2147484164 k0 := by exact hm.of (by decide)) : Keeps k0 r0 (State.pairOff s k) := by
  unfold State.pairOff
  repeat' first
    | with_reducible assumption
    | exact hm.of (by decide)
    | with_reducible apply State.dropRun_keeps
    | with_reducible apply State.setConv8_keeps
    | with_reducible apply Keeps.ite
    | split

theorem State.adcCfgWritten_keeps {k0 : Nat} {r0 : State} (s : State) (k : Nat) (old : Word) (hr : Keeps k0 r0 s) (hm : Sub 2147484164 k0 := by exact hm.of (by decide)) : Keeps k0 r0 (State.adcCfgWritten s k old) := by
  unfold State.adcCfgWritten
  repeat' first
    | with_reducible assumption
    | exact hm.of (by decide)
    | (extract_lets +onlyGivenNames y; have hy : Keeps k0 r0 y := ?_; clear_value y; rotate_left; subst y)
    | (extract_lets +onlyGivenNames y; have hy : Keeps k0 r0 y.1 := ?_; clear_value y; rotate_left; subst y)
    | (extract_lets +onlyGivenNames y; clear_value y)
    | (extract_lets +onlyGivenNames y; subst y)
    | with_reducible apply State.put_keeps
    | with_reducible apply State.adcRestart_keeps
    | with_reducible apply State.pairOff_keeps
    | with_reducible apply State.startCont_keeps
    | with_reducible apply Keeps.ite
    | split

theorem State.refChange_keeps {k0 : Nat} {r0 : State} (s : State) (hr : Keeps k0 r0 s) (hm : Sub 2147483652 k0 := by exact hm.of (by decide)) : Keeps k0 r0 (State.refChange s) := by
  unfold State.refChange
  repeat' first
    | with_reducible assumption
    | exact hm.of (by decide)
    | with_reducible apply State.adcRestart_keeps
    | (with_reducible refine Keeps.foldl ?_ (fun u x h => ?_))

theorem State.adcCtrlWritten_keeps {k0 : Nat} {r0 : State} (s : State) (old : Word) (hr : Keeps k0 r0 s) (hm : Sub 2147484196 k0 := by exact hm.of (by decide)) : Keeps k0 r0 (State.adcCtrlWritten s old) := by
  unfold State.adcCtrlWritten
  repeat' first
    | with_reducible assumption
    | exact hm.of (by decide)
    | (extract_lets +onlyGivenNames y; have hy : Keeps k0 r0 y := ?_; clear_value y; rotate_left; subst y)
    | (extract_lets +onlyGivenNames y; have hy : Keeps k0 r0 y.1 := ?_; clear_value y; rotate_left; subst y)
    | (extract_lets +onlyGivenNames y; clear_value y)
    | (extract_lets +onlyGivenNames y; subst y)
    | with_reducible apply State.put_keeps
    | with_reducible apply State.cnt_keeps
    | with_reducible apply State.noteDrop_keeps
    | with_reducible apply State.refChange_keeps
    | with_reducible apply State.dropRun_keeps
    | with_reducible apply State.startCont_keeps
    | with_reducible apply Keeps.ite
    | split
    | (with_reducible refine Keeps.foldl ?_ (fun u x h => ?_))
    | with_reducible apply Keeps.upd_adc

theorem execVrefxMeasure_keeps {k0 : Nat} {r0 : State} (mv : Nat) (s : State) (hr : Keeps k0 r0 s) (hm : Sub 277428043782 k0 := by exact hm.of (by decide)) : KeepsO k0 r0 (execVrefxMeasure mv s) := by
  unfold execVrefxMeasure
  repeat' first
    | with_reducible assumption
    | exact hm.of (by decide)
    | with_reducible apply KeepsO.next
    | (extract_lets +onlyGivenNames y; have hy : Keeps k0 r0 y := ?_; clear_value y; rotate_left; subst y)
    | (extract_lets +onlyGivenNames y; have hy : Keeps k0 r0 y.1 := ?_; clear_value y; rotate_left; subst y)
    | (extract_lets +onlyGivenNames y; clear_value y)
    | (extract_lets +onlyGivenNames y; subst y)
    | with_reducible apply State.until_keeps
    | with_reducible apply State.put_keeps
    | with_reducible apply State.refChange_keeps
    | with_reducible apply State.raise_keeps
    | with_reducible apply Keeps.ite
    | split
    | with_reducible apply Keeps.upd_adc

theorem execAdcSettled_keeps {k0 : Nat} {r0 : State} (k : Fin 8) (s : State) (hr : Keeps k0 r0 s) (hm : Sub 402653186 k0 := by exact hm.of (by decide)) : KeepsO k0 r0 (execAdcSettled k s) := by
  unfold execAdcSettled
  repeat' first
    | with_reducible assumption
    | exact hm.of (by decide)
    | with_reducible apply KeepsO.next
    | with_reducible apply State.until_keeps

theorem State.noteTrim_keeps {k0 : Nat} {r0 : State} (s : State) (k g : Nat) (offs gtrim : Nat) (hr : Keeps k0 r0 s) (hm : Sub 2147483648 k0 := by exact hm.of (by decide)) : Keeps k0 r0 (State.noteTrim s k g offs gtrim) := by
  unfold State.noteTrim
  repeat' first
    | with_reducible assumption
    | exact hm.of (by decide)
    | (extract_lets +onlyGivenNames y; have hy : Keeps k0 r0 y := ?_; clear_value y; rotate_left; subst y)
    | (extract_lets +onlyGivenNames y; have hy : Keeps k0 r0 y.1 := ?_; clear_value y; rotate_left; subst y)
    | (extract_lets +onlyGivenNames y; clear_value y)
    | (extract_lets +onlyGivenNames y; subst y)
    | with_reducible apply State.setConv8_keeps
    | with_reducible apply Keeps.ite
    | split

theorem State.calWrite_keeps {k0 : Nat} {r0 : State} (s : State) (m : CalMeas) (hr : Keeps k0 r0 s) (hm : Sub 2147483652 k0 := by exact hm.of (by decide)) : Keeps k0 r0 (State.calWrite s m) := by
  unfold State.calWrite
  repeat' first
    | with_reducible assumption
    | exact hm.of (by decide)
    | (extract_lets +onlyGivenNames y; have hy : Keeps k0 r0 y := ?_; clear_value y; rotate_left; subst y)
    | (extract_lets +onlyGivenNames y; have hy : Keeps k0 r0 y.1 := ?_; clear_value y; rotate_left; subst y)
    | (extract_lets +onlyGivenNames y; clear_value y)
    | (extract_lets +onlyGivenNames y; subst y)
    | with_reducible apply State.noteTrim_keeps
    | with_reducible apply State.put_keeps
    | (with_reducible refine Keeps.foldl ?_ (fun u x h => ?_))

theorem State.calBegin_keeps {k0 : Nat} {r0 : State} (s : State) (mask : Nat) (hr : Keeps k0 r0 s) (hm : Sub 2147483776 k0 := by exact hm.of (by decide)) : Keeps k0 r0 (State.calBegin s mask) := by
  unfold State.calBegin
  repeat' first
    | with_reducible assumption
    | exact hm.of (by decide)
    | (extract_lets +onlyGivenNames y; have hy : Keeps k0 r0 y := ?_; clear_value y; rotate_left; subst y)
    | (extract_lets +onlyGivenNames y; have hy : Keeps k0 r0 y.1 := ?_; clear_value y; rotate_left; subst y)
    | (extract_lets +onlyGivenNames y; clear_value y)
    | (extract_lets +onlyGivenNames y; subst y)
    | with_reducible apply Keeps.upd_freeIx_adc

theorem State.calOver_keeps {k0 : Nat} {r0 : State} (s : State) (hr : Keeps k0 r0 s) (hm : Sub 2147483648 k0 := by exact hm.of (by decide)) : Keeps k0 r0 (State.calOver s) := by
  unfold State.calOver
  repeat' first
    | with_reducible assumption
    | exact hm.of (by decide)
    | with_reducible apply Keeps.upd_adc

theorem State.calOne_keeps {k0 : Nat} {r0 : State} (s : State) (x : CalMeas) (hr : Keeps k0 r0 s) (hm : Sub 2147483652 k0 := by exact hm.of (by decide)) : Keeps k0 r0 (State.calOne s x) := by
  unfold State.calOne
  repeat' first
    | with_reducible assumption
    | exact hm.of (by decide)
    | (extract_lets +onlyGivenNames y; have hy : Keeps k0 r0 y := ?_; clear_value y; rotate_left; subst y)
    | (extract_lets +onlyGivenNames y; have hy : Keeps k0 r0 y.1 := ?_; clear_value y; rotate_left; subst y)
    | (extract_lets +onlyGivenNames y; clear_value y)
    | (extract_lets +onlyGivenNames y; subst y)
    | with_reducible apply State.calWrite_keeps
    | with_reducible apply Keeps.ite
    | split
    | with_reducible apply Keeps.upd_adc

theorem State.calTake_keeps {k0 : Nat} {r0 : State} (m : List CalMeas) (s : State) (l : List (Nat × Nat)) (hr : Keeps k0 r0 s)
    (hm : Sub 2550136838 k0 := by exact hm.of (by decide)) : Keeps k0 r0 (State.calTake m s l) := by
  induction l generalizing s with
  | nil => exact hr
  | cons x rest ih =>
    unfold State.calTake
    extract_lets +onlyGivenNames ms t
    have ht : Keeps k0 r0 t := Keeps.foldl (State.until_keeps _ _ hr) fun u x h => State.calOne_keeps _ _ h
    clear_value t
    exact Keeps.ite (ih _ (Keeps.upd_adc ht)) hr

theorem State.cmpTrip_keeps {k0 : Nat} {r0 : State} (s : State) (n : Nat) (high : Bool) (hr : Keeps k0 r0 s) (hm : Sub 9251368206532 k0 := by exact hm.of (by decide)) : Keeps k0 r0 (State.cmpTrip s n high) := by
  unfold State.cmpTrip
  repeat' first
    | with_reducible assumption
    | exact hm.of (by decide)
    | (extract_lets +onlyGivenNames y; have hy : Keeps k0 r0 y := ?_; clear_value y; rotate_left; subst y)
    | (extract_lets +onlyGivenNames y; have hy : Keeps k0 r0 y.1 := ?_; clear_value y; rotate_left; subst y)
    | (extract_lets +onlyGivenNames y; clear_value y)
    | (extract_lets +onlyGivenNames y; subst y)
    | with_reducible apply State.setBitOf_keeps
    | with_reducible apply State.put_keeps
    | with_reducible apply State.cnt_keeps
    | with_reducible apply State.raise_keeps
    | with_reducible apply State.fenceJudge_keeps
    | with_reducible apply Keeps.ite
    | split
    | with_reducible apply Keeps.upd_safe

theorem execComparatorTrip_keeps {k0 : Nat} {r0 : State} (n : Fin 12) (high : Bool) (mv : Int) (ns : Nat) (s : State) (hr : Keeps k0 r0 s) (hm : Sub 9251368206532 k0 := by exact hm.of (by decide)) : KeepsO k0 r0 (execComparatorTrip n high mv ns s) := by
  unfold execComparatorTrip
  repeat' first
    | with_reducible assumption
    | exact hm.of (by decide)
    | with_reducible apply KeepsO.next
    | with_reducible apply State.cmpTrip_keeps
    | with_reducible apply Keeps.ite
    | split

theorem execComparatorRelease_keeps {k0 : Nat} {r0 : State} (n : Fin 12) (high : Bool) (mv : Int) (ns : Nat) (s : State) (hr : Keeps k0 r0 s) (hm : Sub 9251368206532 k0 := by exact hm.of (by decide)) : KeepsO k0 r0 (execComparatorRelease n high mv ns s) := by
  unfold execComparatorRelease
  repeat' first
    | with_reducible assumption
    | exact hm.of (by decide)
    | with_reducible apply KeepsO.next
    | with_reducible apply State.clrBitOf_keeps
    | with_reducible apply State.fenceJudge_keeps
    | with_reducible apply Keeps.ite
    | split

theorem State.cmpApply_keeps {k0 : Nat} {r0 : State} (s : State) (n : Nat) (hr : Keeps k0 r0 s) (hm : Sub 9251368206532 k0 := by exact hm.of (by decide)) : Keeps k0 r0 (State.cmpApply s n) := by
  unfold State.cmpApply
  repeat' first
    | with_reducible assumption
    | exact hm.of (by decide)
    | (extract_lets +onlyGivenNames y; have hy : Keeps k0 r0 y := ?_; clear_value y; rotate_left; subst y)
    | (extract_lets +onlyGivenNames y; have hy : Keeps k0 r0 y.1 := ?_; clear_value y; rotate_left; subst y)
    | (extract_lets +onlyGivenNames y; clear_value y)
    | (extract_lets +onlyGivenNames y; subst y)
    | with_reducible apply State.clrBitOf_keeps
    | with_reducible apply State.put_keeps
    | with_reducible apply State.setReg_keeps
    | with_reducible apply State.raise_keeps
    | with_reducible apply State.fenceJudge_keeps
    | with_reducible apply Keeps.ite
    | split

theorem State.cmpCommitted_keeps {k0 : Nat} {r0 : State} (s : State) (n : Nat) (hr : Keeps k0 r0 s) (hm : Sub 9251368206532 k0 := by exact hm.of (by decide)) : Keeps k0 r0 (State.cmpCommitted s n) := by
  unfold State.cmpCommitted
  repeat' first
    | with_reducible assumption
    | exact hm.of (by decide)
    | with_reducible apply State.setBitOf_keeps
    | with_reducible apply State.cmpApply_keeps
    | with_reducible apply Keeps.ite
    | split

end Sys2Proof.Machine
end

