-- ==== Sys2Proof/Laws/KeepsTherm.lean ====
section
/-! SUPPORT. The operations of Machine/Therm.lean leave the queue alone and keep the canonical form of the stores. -/

set_option linter.unusedTactic false
set_option linter.unreachableTactic false

namespace Sys2Proof.Machine

theorem State.withTherm_keeps {k0 : Nat} {r0 : State} (s : State) (t : ThermSt) (hr : Keeps k0 r0 s) (hm : Sub 4294967296 k0 := by exact hm.of (by decide)) : Keeps k0 r0 (State.withTherm s t) := by
  unfold State.withTherm
  repeat' first
    | with_reducible assumption
    | exact hm.of (by decide)
    | with_reducible apply Keeps.upd_therm

theorem State.sensorFail_keeps {k0 : Nat} {r0 : State} (s : State) (n : Nat) (hr : Keeps k0 r0 s) (hm : Sub 274877906948 k0 := by exact hm.of (by decide)) : Keeps k0 r0 (State.sensorFail s n) := by
  unfold State.sensorFail
  repeat' first
    | with_reducible assumption
    | exact hm.of (by decide)
    | with_reducible apply State.setBitOf_keeps
    | with_reducible apply State.put_keeps
    | with_reducible apply State.raise_keeps
    | with_reducible apply Keeps.ite
    | split

theorem State.xchkFault_keeps {k0 : Nat} {r0 : State} (s : State) (k : Nat) (hr : Keeps k0 r0 s) (hm : Sub 279172874244 k0 := by exact hm.of (by decide)) : Keeps k0 r0 (State.xchkFault s k).1 := by
  unfold State.xchkFault
  repeat' first
    | with_reducible assumption
    | exact hm.of (by decide)
    | (extract_lets +onlyGivenNames y; have hy : Keeps k0 r0 y := ?_; clear_value y; rotate_left; subst y)
    | (extract_lets +onlyGivenNames y; have hy : Keeps k0 r0 y.1 := ?_; clear_value y; rotate_left; subst y)
    | (extract_lets +onlyGivenNames y; clear_value y)
    | (extract_lets +onlyGivenNames y; subst y)
    | with_reducible apply State.withTherm_keeps
    | with_reducible apply State.cnt_keeps
    | with_reducible apply State.put_keeps
    | with_reducible apply State.raise_keeps
    | fail_if_no_progress dsimp -zeta only

theorem State.checkZone_keeps {k0 : Nat} {r0 : State} (s : State) (z : Nat) (hr : Keeps k0 r0 s) (hm : Sub 279172874244 k0 := by exact hm.of (by decide)) : Keeps k0 r0 (State.checkZone s z) := by
  unfold State.checkZone
  repeat' first
    | with_reducible assumption
    | exact hm.of (by decide)
    | (extract_lets +onlyGivenNames y; have hy : Keeps k0 r0 y := ?_; clear_value y; rotate_left; subst y)
    | (extract_lets +onlyGivenNames y; have hy : Keeps k0 r0 y.1 := ?_; clear_value y; rotate_left; subst y)
    | (extract_lets +onlyGivenNames y; clear_value y)
    | (extract_lets +onlyGivenNames y; subst y)
    | with_reducible apply State.xchkFault_keeps
    | with_reducible apply State.sensorFail_keeps
    | with_reducible apply State.put_keeps
    | with_reducible apply State.setBitOf_keeps
    | with_reducible apply Keeps.ite
    | split
    | fail_if_no_progress dsimp -zeta only
    | (with_reducible refine Keeps.foldl ?_ (fun u x h => ?_))

theorem State.throttle_keeps {k0 : Nat} {r0 : State} (s : State) (hr : Keeps k0 r0 s) (hm : Sub 274877906948 k0 := by exact hm.of (by decide)) : Keeps k0 r0 (State.throttle s) := by
  unfold State.throttle
  repeat' first
    | with_reducible assumption
    | exact hm.of (by decide)
    | (extract_lets +onlyGivenNames y; have hy : Keeps k0 r0 y := ?_; clear_value y; rotate_left; subst y)
    | (extract_lets +onlyGivenNames y; have hy : Keeps k0 r0 y.1 := ?_; clear_value y; rotate_left; subst y)
    | (extract_lets +onlyGivenNames y; clear_value y)
    | (extract_lets +onlyGivenNames y; subst y)
    | with_reducible apply State.put_keeps
    | with_reducible apply State.raise_keeps
    | with_reducible apply Keeps.ite
    | split
    | (with_reducible refine Keeps.foldl ?_ (fun u x h => ?_))

theorem State.judgeZone_keeps {k0 : Nat} {r0 : State} (s : State) (z : Nat) (hr : Keeps k0 r0 s) (hm : Sub 279172874244 k0 := by exact hm.of (by decide)) : Keeps k0 r0 (State.judgeZone s z) := by
  unfold State.judgeZone
  repeat' first
    | with_reducible assumption
    | exact hm.of (by decide)
    | (extract_lets +onlyGivenNames y; have hy : Keeps k0 r0 y := ?_; clear_value y; rotate_left; subst y)
    | (extract_lets +onlyGivenNames y; have hy : Keeps k0 r0 y.1 := ?_; clear_value y; rotate_left; subst y)
    | (extract_lets +onlyGivenNames y; clear_value y)
    | (extract_lets +onlyGivenNames y; subst y)
    | with_reducible apply State.withTherm_keeps
    | with_reducible apply State.setBitOf_keeps
    | with_reducible apply State.raise_keeps
    | with_reducible apply State.put_keeps
    | with_reducible apply State.clrBitOf_keeps
    | with_reducible apply State.putBitOf_keeps
    | with_reducible apply Keeps.ite
    | split

theorem State.thermCrit_keeps {k0 : Nat} {r0 : State} (s : State) (hr : Keeps k0 r0 s) (hm : Sub 9251368206532 k0 := by exact hm.of (by decide)) : Keeps k0 r0 (State.thermCrit s) := by
  unfold State.thermCrit
  repeat' first
    | with_reducible assumption
    | exact hm.of (by decide)
    | (extract_lets +onlyGivenNames y; have hy : Keeps k0 r0 y := ?_; clear_value y; rotate_left; subst y)
    | (extract_lets +onlyGivenNames y; have hy : Keeps k0 r0 y.1 := ?_; clear_value y; rotate_left; subst y)
    | (extract_lets +onlyGivenNames y; clear_value y)
    | (extract_lets +onlyGivenNames y; subst y)
    | with_reducible apply State.put_keeps
    | with_reducible apply State.cnt_keeps
    | with_reducible apply State.raise_keeps
    | with_reducible apply State.cstop_keeps
    | with_reducible apply Keeps.ite
    | split

theorem State.readSensors_keeps {k0 : Nat} {r0 : State} (s : State) (t : List Int) (hr : Keeps k0 r0 s) (hm : Sub 274877906948 k0 := by exact hm.of (by decide)) : Keeps k0 r0 (State.readSensors s t) := by
  unfold State.readSensors
  repeat' first
    | with_reducible assumption
    | exact hm.of (by decide)
    | (extract_lets +onlyGivenNames y; have hy : Keeps k0 r0 y := ?_; clear_value y; rotate_left; subst y)
    | (extract_lets +onlyGivenNames y; have hy : Keeps k0 r0 y.1 := ?_; clear_value y; rotate_left; subst y)
    | (extract_lets +onlyGivenNames y; clear_value y)
    | (extract_lets +onlyGivenNames y; subst y)
    | with_reducible apply State.put_keeps
    | with_reducible apply State.sensorFail_keeps
    | with_reducible apply Keeps.ite
    | split
    | (with_reducible refine Keeps.foldl ?_ (fun u x h => ?_))

theorem State.measure_keeps {k0 : Nat} {r0 : State} (s : State) (t : List Int) (hr : Keeps k0 r0 s) (hm : Sub 9255663173828 k0 := by exact hm.of (by decide)) : Keeps k0 r0 (State.measure s t) := by
  unfold State.measure
  repeat' first
    | with_reducible assumption
    | exact hm.of (by decide)
    | (extract_lets +onlyGivenNames y; have hy : Keeps k0 r0 y := ?_; clear_value y; rotate_left; subst y)
    | (extract_lets +onlyGivenNames y; have hy : Keeps k0 r0 y.1 := ?_; clear_value y; rotate_left; subst y)
    | (extract_lets +onlyGivenNames y; clear_value y)
    | (extract_lets +onlyGivenNames y; subst y)
    | with_reducible apply State.readSensors_keeps
    | with_reducible apply State.withTherm_keeps
    | with_reducible apply State.checkZone_keeps
    | with_reducible apply State.judgeZone_keeps
    | with_reducible apply State.throttle_keeps
    | with_reducible apply State.cnt_keeps
    | with_reducible apply State.thermCrit_keeps
    | with_reducible apply Keeps.ite
    | split
    | (with_reducible refine Keeps.foldl ?_ (fun u x h => ?_))

theorem execTempMeasure_keeps {k0 : Nat} {r0 : State} (t : List Int) (s : State) (hr : Keeps k0 r0 s) (hm : Sub 9256065827014 k0 := by exact hm.of (by decide)) : KeepsO k0 r0 (execTempMeasure t s) := by
  unfold execTempMeasure
  repeat' first
    | with_reducible assumption
    | exact hm.of (by decide)
    | with_reducible apply KeepsO.next
    | (extract_lets +onlyGivenNames y; have hy : Keeps k0 r0 y := ?_; clear_value y; rotate_left; subst y)
    | (extract_lets +onlyGivenNames y; have hy : Keeps k0 r0 y.1 := ?_; clear_value y; rotate_left; subst y)
    | (extract_lets +onlyGivenNames y; clear_value y)
    | (extract_lets +onlyGivenNames y; subst y)
    | with_reducible apply State.until_keeps
    | with_reducible apply State.withTherm_keeps
    | with_reducible apply State.measure_keeps

theorem State.thermReadmit_keeps {k0 : Nat} {r0 : State} (s : State) (n : Nat) (hr : Keeps k0 r0 s) (hm : Sub 4294967300 k0 := by exact hm.of (by decide)) : Keeps k0 r0 (State.thermReadmit s n) := by
  unfold State.thermReadmit
  repeat' first
    | with_reducible assumption
    | exact hm.of (by decide)
    | with_reducible apply State.put_keeps
    | with_reducible apply State.withTherm_keeps

theorem State.thermCleared_keeps {k0 : Nat} {r0 : State} (s : State) (hr : Keeps k0 r0 s) (hm : Sub 4 k0 := by exact hm.of (by decide)) : Keeps k0 r0 (State.thermCleared s) := by
  unfold State.thermCleared
  repeat' first
    | with_reducible assumption
    | exact hm.of (by decide)
    | with_reducible apply State.put_keeps
    | with_reducible apply Keeps.ite
    | split

end Sys2Proof.Machine
end

