-- ==== Sys2Proof/Laws/KeepsYard.lean ====
section
/-! SUPPORT. The operations of Machine/Yard.lean leave the queue alone and keep the canonical form of the stores. -/

set_option linter.unusedTactic false
set_option linter.unreachableTactic false

namespace Sys2Proof.Machine

theorem State.reportCheck_keeps {k0 : Nat} {r0 : State} (s : State) (code name : Nat) (hr : Keeps k0 r0 s) (hm : Sub 274877907460 k0 := by exact hm.of (by decide)) : Keeps k0 r0 (State.reportCheck s code name) := by
  unfold State.reportCheck
  repeat' first
    | with_reducible assumption
    | exact hm.of (by decide)
    | (extract_lets +onlyGivenNames y; have hy : Keeps k0 r0 y := ?_; clear_value y; rotate_left; subst y)
    | (extract_lets +onlyGivenNames y; have hy : Keeps k0 r0 y.1 := ?_; clear_value y; rotate_left; subst y)
    | (extract_lets +onlyGivenNames y; clear_value y)
    | (extract_lets +onlyGivenNames y; subst y)
    | with_reducible apply State.complete_keeps
    | with_reducible apply State.raise_keeps
    | with_reducible apply State.put_keeps
    | with_reducible apply Keeps.ite
    | split

theorem State.setYard_keeps {k0 : Nat} {r0 : State} (s : State) (v : Nat) (hr : Keeps k0 r0 s) (hm : Sub 4 k0 := by exact hm.of (by decide)) : Keeps k0 r0 (State.setYard s v) := by
  unfold State.setYard
  repeat' first
    | with_reducible assumption
    | exact hm.of (by decide)
    | with_reducible apply State.put_keeps

theorem State.refuseStart_keeps {k0 : Nat} {r0 : State} (s : State) (hr : Keeps k0 r0 s) (hm : Sub 274878169092 k0 := by exact hm.of (by decide)) : Keeps k0 r0 (State.refuseStart s) := by
  unfold State.refuseStart
  repeat' first
    | with_reducible assumption
    | exact hm.of (by decide)
    | (extract_lets +onlyGivenNames y; have hy : Keeps k0 r0 y := ?_; clear_value y; rotate_left; subst y)
    | (extract_lets +onlyGivenNames y; have hy : Keeps k0 r0 y.1 := ?_; clear_value y; rotate_left; subst y)
    | (extract_lets +onlyGivenNames y; clear_value y)
    | (extract_lets +onlyGivenNames y; subst y)
    | with_reducible apply State.put_keeps
    | with_reducible apply State.raise_keeps
    | with_reducible apply Keeps.upd_yard

theorem State.descAccepted_keeps {k0 : Nat} {r0 : State} (s : State) (hr : Keeps k0 r0 s) (hm : Sub 274878169092 k0 := by exact hm.of (by decide)) : Keeps k0 r0 (State.descAccepted s) := by
  unfold State.descAccepted
  dsimp only
  split
  · split
    · exact State.refuseStart_keeps _ (State.setYard_keeps _ _ (Keeps.upd_yard hr))
    · exact State.setYard_keeps _ _ (Keeps.upd_yard hr)
  · exact Keeps.upd_yard hr

theorem State.descDrop_keeps {k0 : Nat} {r0 : State} (s : State) (hr : Keeps k0 r0 s) (hm : Sub 274877906980 k0 := by exact hm.of (by decide)) : Keeps k0 r0 (State.descDrop s) := by
  unfold State.descDrop
  repeat' first
    | with_reducible assumption
    | exact hm.of (by decide)
    | with_reducible apply State.put_keeps
    | with_reducible apply State.cnt_keeps
    | with_reducible apply State.raise_keeps
    | with_reducible apply State.noteDrop_keeps

theorem State.checkWrite_keeps {k0 : Nat} {r0 : State} (s : State) (hr : Keeps k0 r0 s) (hm : Sub 262660 k0 := by exact hm.of (by decide)) : Keeps k0 r0 (State.checkWrite s) := by
  unfold State.checkWrite
  repeat' first
    | with_reducible assumption
    | exact hm.of (by decide)
    | with_reducible apply State.put_keeps
    | with_reducible apply State.startRes_keeps
    | with_reducible apply Keeps.ite
    | split
    | with_reducible apply Keeps.upd_yard

theorem execYardCheck_keeps {k0 : Nat} {r0 : State} (s : State) (hr : Keeps k0 r0 s) (hm : Sub 262660 k0 := by exact hm.of (by decide)) : KeepsO k0 r0 (execYardCheck s) := by
  unfold execYardCheck
  repeat' first
    | with_reducible assumption
    | exact hm.of (by decide)
    | with_reducible apply KeepsO.next
    | with_reducible apply State.checkWrite_keeps

theorem execYardCheckComplete_keeps {k0 : Nat} {r0 : State} (s : State) (hr : Keeps k0 r0 s) (hm : Sub 274878169604 k0 := by exact hm.of (by decide)) : KeepsO k0 r0 (execYardCheckComplete s) := by
  unfold execYardCheckComplete
  repeat' first
    | with_reducible assumption
    | exact hm.of (by decide)
    | with_reducible apply KeepsO.next
    | (extract_lets +onlyGivenNames y; have hy : Keeps k0 r0 y := ?_; clear_value y; rotate_left; subst y)
    | (extract_lets +onlyGivenNames y; have hy : Keeps k0 r0 y.1 := ?_; clear_value y; rotate_left; subst y)
    | (extract_lets +onlyGivenNames y; clear_value y)
    | (extract_lets +onlyGivenNames y; subst y)
    | with_reducible apply State.reportCheck_keeps
    | with_reducible apply State.put_keeps
    | with_reducible apply State.setYard_keeps
    | with_reducible apply State.refuseStart_keeps
    | with_reducible apply Keeps.ite
    | split
    | with_reducible apply Keeps.upd_yard

theorem State.startWrite_keeps {k0 : Nat} {r0 : State} (s : State) (hr : Keeps k0 r0 s) (hm : Sub 274878169124 k0 := by exact hm.of (by decide)) : Keeps k0 r0 (State.startWrite s) := by
  unfold State.startWrite
  repeat' first
    | with_reducible assumption
    | exact hm.of (by decide)
    | with_reducible apply State.put_keeps
    | with_reducible apply State.refuseStart_keeps
    | with_reducible apply State.noteDrop_keeps
    | with_reducible apply Keeps.ite
    | split
    | with_reducible apply Keeps.upd_yard

theorem execYardStart_keeps {k0 : Nat} {r0 : State} (s : State) (hr : Keeps k0 r0 s) (hm : Sub 274878169124 k0 := by exact hm.of (by decide)) : KeepsO k0 r0 (execYardStart s) := by
  unfold execYardStart
  repeat' first
    | with_reducible assumption
    | exact hm.of (by decide)
    | with_reducible apply KeepsO.next
    | with_reducible apply State.startWrite_keeps

theorem State.stopWrite_keeps {k0 : Nat} {r0 : State} (s : State) (hr : Keeps k0 r0 s) (hm : Sub 262148 k0 := by exact hm.of (by decide)) : Keeps k0 r0 (State.stopWrite s) := by
  unfold State.stopWrite
  repeat' first
    | with_reducible assumption
    | exact hm.of (by decide)
    | with_reducible apply State.put_keeps
    | with_reducible apply Keeps.ite
    | split
    | with_reducible apply Keeps.upd_yard

theorem execYardStop_keeps {k0 : Nat} {r0 : State} (s : State) (hr : Keeps k0 r0 s) (hm : Sub 262148 k0 := by exact hm.of (by decide)) : KeepsO k0 r0 (execYardStop s) := by
  unfold execYardStop
  repeat' first
    | with_reducible assumption
    | exact hm.of (by decide)
    | with_reducible apply KeepsO.next
    | with_reducible apply State.stopWrite_keeps

theorem State.updLevels_keeps {k0 : Nat} {r0 : State} (s : State) (hr : Keeps k0 r0 s) (hm : Sub 4 k0 := by exact hm.of (by decide)) : Keeps k0 r0 (State.updLevels s) := by
  unfold State.updLevels
  repeat' first
    | with_reducible assumption
    | exact hm.of (by decide)
    | with_reducible apply State.put_keeps
    | (with_reducible refine Keeps.foldl ?_ (fun u x h => ?_))

theorem State.enterPeriod_keeps {k0 : Nat} {r0 : State} (s : State) (t : Nat) (hr : Keeps k0 r0 s) (hm : Sub 402915334 k0 := by exact hm.of (by decide)) : Keeps k0 r0 (State.enterPeriod s t) := by
  unfold State.enterPeriod
  repeat' first
    | with_reducible assumption
    | exact hm.of (by decide)
    | (extract_lets +onlyGivenNames y; have hy : Keeps k0 r0 y := ?_; clear_value y; rotate_left; subst y)
    | (extract_lets +onlyGivenNames y; have hy : Keeps k0 r0 y.1 := ?_; clear_value y; rotate_left; subst y)
    | (extract_lets +onlyGivenNames y; clear_value y)
    | (extract_lets +onlyGivenNames y; subst y)
    | with_reducible apply State.untilCtb_keeps
    | with_reducible apply State.put_keeps
    | with_reducible apply State.updLevels_keeps
    | with_reducible apply Keeps.upd_yard

end Sys2Proof.Machine
end

