-- ==== Sys2Proof/Laws/KeepsLanes.lean ====
section
/-! SUPPORT. The operations of Machine/Lanes.lean leave the queue alone and keep the canonical form of the stores. -/

set_option linter.unusedTactic false
set_option linter.unreachableTactic false

namespace Sys2Proof.Machine

theorem State.laneCommon_keeps {k0 : Nat} {r0 : State} (s : State) (hr : Keeps k0 r0 s) (hm : Sub 9251368206532 k0 := by exact hm.of (by decide)) : Keeps k0 r0 (State.laneCommon s) := by
  unfold State.laneCommon
  repeat' first
    | with_reducible assumption
    | exact hm.of (by decide)
    | (extract_lets +onlyGivenNames y; have hy : Keeps k0 r0 y := ?_; clear_value y; rotate_left; subst y)
    | (extract_lets +onlyGivenNames y; have hy : Keeps k0 r0 y.1 := ?_; clear_value y; rotate_left; subst y)
    | (extract_lets +onlyGivenNames y; clear_value y)
    | (extract_lets +onlyGivenNames y; subst y)
    | with_reducible apply State.trip_keeps
    | with_reducible apply Keeps.ite
    | split

theorem State.setLat_keeps {k0 : Nat} {r0 : State} (s : State) (n : Nat) (row : Word) (hr : Keeps k0 r0 s) (hm : Sub 4 k0 := by exact hm.of (by decide)) : Keeps k0 r0 (State.setLat s n row) := by
  unfold State.setLat
  repeat' first
    | with_reducible assumption
    | exact hm.of (by decide)
    | (extract_lets +onlyGivenNames y; have hy : Keeps k0 r0 y := ?_; clear_value y; rotate_left; subst y)
    | (extract_lets +onlyGivenNames y; have hy : Keeps k0 r0 y.1 := ?_; clear_value y; rotate_left; subst y)
    | (extract_lets +onlyGivenNames y; clear_value y)
    | (extract_lets +onlyGivenNames y; subst y)
    | with_reducible apply State.put_keeps

theorem State.useRow_keeps {k0 : Nat} {r0 : State} (s : State) (n r : Nat) (hr : Keeps k0 r0 s) (hm : Sub 8388612 k0 := by exact hm.of (by decide)) : Keeps k0 r0 (State.useRow s n r) := by
  unfold State.useRow
  repeat' first
    | with_reducible assumption
    | exact hm.of (by decide)
    | (extract_lets +onlyGivenNames y; have hy : Keeps k0 r0 y := ?_; clear_value y; rotate_left; subst y)
    | (extract_lets +onlyGivenNames y; have hy : Keeps k0 r0 y.1 := ?_; clear_value y; rotate_left; subst y)
    | (extract_lets +onlyGivenNames y; clear_value y)
    | (extract_lets +onlyGivenNames y; subst y)
    | with_reducible apply State.setLane_keeps
    | with_reducible apply State.put_keeps
    | with_reducible apply State.setLat_keeps

theorem State.useFirst_keeps {k0 : Nat} {r0 : State} (s : State) (n : Nat) (hr : Keeps k0 r0 s) (hm : Sub 8388612 k0 := by exact hm.of (by decide)) : Keeps k0 r0 (State.useFirst s n) := by
  unfold State.useFirst
  repeat' first
    | with_reducible assumption
    | exact hm.of (by decide)
    | with_reducible apply State.useRow_keeps
    | with_reducible apply Keeps.ite
    | split

theorem State.startMeas_keeps {k0 : Nat} {r0 : State} (s : State) (n : Nat) (hr : Keeps k0 r0 s) (hm : Sub 8388608 k0 := by exact hm.of (by decide)) : Keeps k0 r0 (State.startMeas s n) := by
  unfold State.startMeas
  repeat' first
    | with_reducible assumption
    | exact hm.of (by decide)
    | with_reducible apply State.setLane_keeps
    | with_reducible apply Keeps.ite
    | split

theorem State.goLane_keeps {k0 : Nat} {r0 : State} (s : State) (n st : Nat) (hr : Keeps k0 r0 s) (hm : Sub 8388612 k0 := by exact hm.of (by decide)) : Keeps k0 r0 (State.goLane s n st) := by
  unfold State.goLane
  repeat' first
    | with_reducible assumption
    | exact hm.of (by decide)
    | with_reducible apply State.put_keeps
    | with_reducible apply State.setLane_keeps

theorem State.enterTrain_keeps {k0 : Nat} {r0 : State} (s : State) (n : Nat) (fromRelock : Bool) (hr : Keeps k0 r0 s) (hm : Sub 8388676 k0 := by exact hm.of (by decide)) : Keeps k0 r0 (State.enterTrain s n fromRelock) := by
  unfold State.enterTrain
  repeat' first
    | with_reducible assumption
    | exact hm.of (by decide)
    | (extract_lets +onlyGivenNames y; have hy : Keeps k0 r0 y := ?_; clear_value y; rotate_left; subst y)
    | (extract_lets +onlyGivenNames y; have hy : Keeps k0 r0 y.1 := ?_; clear_value y; rotate_left; subst y)
    | (extract_lets +onlyGivenNames y; clear_value y)
    | (extract_lets +onlyGivenNames y; subst y)
    | with_reducible apply State.restartMarkers_keeps
    | with_reducible apply State.goLane_keeps
    | with_reducible apply State.cnt_keeps
    | with_reducible apply State.put_keeps
    | with_reducible apply State.setLane_keeps
    | with_reducible apply State.startStream_keeps
    | with_reducible apply State.startMeas_keeps
    | with_reducible apply Keeps.ite
    | split

theorem State.laneFault_keeps {k0 : Nat} {r0 : State} (s : State) (n : Nat) (hr : Keeps k0 r0 s) (hm : Sub 274886295556 k0 := by exact hm.of (by decide)) : Keeps k0 r0 (State.laneFault s n) := by
  unfold State.laneFault
  repeat' first
    | with_reducible assumption
    | exact hm.of (by decide)
    | (extract_lets +onlyGivenNames y; have hy : Keeps k0 r0 y := ?_; clear_value y; rotate_left; subst y)
    | (extract_lets +onlyGivenNames y; have hy : Keeps k0 r0 y.1 := ?_; clear_value y; rotate_left; subst y)
    | (extract_lets +onlyGivenNames y; clear_value y)
    | (extract_lets +onlyGivenNames y; subst y)
    | with_reducible apply State.setLane_keeps
    | with_reducible apply State.put_keeps
    | with_reducible apply State.goLane_keeps
    | with_reducible apply State.raise_keeps
    | with_reducible apply Keeps.ite
    | split

theorem State.laneFail_keeps {k0 : Nat} {r0 : State} (s : State) (n : Nat) (hr : Keeps k0 r0 s) (hm : Sub 274886295556 k0 := by exact hm.of (by decide)) : Keeps k0 r0 (State.laneFail s n) := by
  unfold State.laneFail
  repeat' first
    | with_reducible assumption
    | exact hm.of (by decide)
    | with_reducible apply State.goLane_keeps
    | with_reducible apply State.put_keeps
    | with_reducible apply State.raise_keeps
    | with_reducible apply State.laneFault_keeps

theorem State.laneWake_keeps {k0 : Nat} {r0 : State} (s : State) (n : Nat) (hr : Keeps k0 r0 s) (hm : Sub 8388644 k0 := by exact hm.of (by decide)) : Keeps k0 r0 (State.laneWake s n) := by
  unfold State.laneWake
  repeat' first
    | with_reducible assumption
    | exact hm.of (by decide)
    | with_reducible apply State.put_keeps
    | with_reducible apply State.noteDrop_keeps
    | with_reducible apply State.goLane_keeps
    | with_reducible apply Keeps.ite
    | split

theorem State.refusePark_keeps {k0 : Nat} {r0 : State} (s : State) (n : Nat) (hr : Keeps k0 r0 s) (hm : Sub 274877906980 k0 := by exact hm.of (by decide)) : Keeps k0 r0 (State.refusePark s n) := by
  unfold State.refusePark
  repeat' first
    | with_reducible assumption
    | exact hm.of (by decide)
    | with_reducible apply State.put_keeps
    | with_reducible apply State.cnt_keeps
    | with_reducible apply State.raise_keeps
    | with_reducible apply State.noteDrop_keeps

theorem State.laneToPark_keeps {k0 : Nat} {r0 : State} (s : State) (n : Nat) (hr : Keeps k0 r0 s) (hm : Sub 8388676 k0 := by exact hm.of (by decide)) : Keeps k0 r0 (State.laneToPark s n) := by
  unfold State.laneToPark
  repeat' first
    | with_reducible assumption
    | exact hm.of (by decide)
    | (extract_lets +onlyGivenNames y; have hy : Keeps k0 r0 y := ?_; clear_value y; rotate_left; subst y)
    | (extract_lets +onlyGivenNames y; have hy : Keeps k0 r0 y.1 := ?_; clear_value y; rotate_left; subst y)
    | (extract_lets +onlyGivenNames y; clear_value y)
    | (extract_lets +onlyGivenNames y; subst y)
    | with_reducible apply State.put_keeps
    | with_reducible apply State.markersDue_keeps
    | with_reducible apply State.goLane_keeps
    | with_reducible apply State.setLane_keeps
    | with_reducible apply State.marker_keeps
    | with_reducible apply Keeps.ite
    | split

theorem State.lanePark_keeps {k0 : Nat} {r0 : State} (s : State) (n : Nat) (hr : Keeps k0 r0 s) (hm : Sub 9251368206532 k0 := by exact hm.of (by decide)) : Keeps k0 r0 (State.lanePark s n) := by
  unfold State.lanePark
  repeat' first
    | with_reducible assumption
    | exact hm.of (by decide)
    | with_reducible apply State.put_keeps
    | with_reducible apply State.laneToPark_keeps
    | with_reducible apply State.laneCommon_keeps
    | with_reducible apply Keeps.ite
    | split

theorem execLaneEnable_keeps {k0 : Nat} {r0 : State} (n : Fin 50) (s : State) (hr : Keeps k0 r0 s) (hm : Sub 8388644 k0 := by exact hm.of (by decide)) : KeepsO k0 r0 (execLaneEnable n s) := by
  unfold execLaneEnable
  repeat' first
    | with_reducible assumption
    | exact hm.of (by decide)
    | with_reducible apply KeepsO.next
    | with_reducible apply State.laneWake_keeps

theorem execLanePark_keeps {k0 : Nat} {r0 : State} (n : Fin 50) (s : State) (hr : Keeps k0 r0 s) (hm : Sub 9251368206564 k0 := by exact hm.of (by decide)) : KeepsO k0 r0 (execLanePark n s) := by
  unfold execLanePark
  repeat' first
    | with_reducible assumption
    | exact hm.of (by decide)
    | with_reducible apply KeepsO.next
    | with_reducible apply State.refusePark_keeps
    | with_reducible apply State.lanePark_keeps
    | with_reducible apply Keeps.ite
    | split

theorem execLanePllLock_keeps {k0 : Nat} {r0 : State} (n : Fin 50) (tx rx : Nat) (s : State) (hr : Keeps k0 r0 s) (hm : Sub 8388676 k0 := by exact hm.of (by decide)) : KeepsO k0 r0 (execLanePllLock n tx rx s) := by
  unfold execLanePllLock
  repeat' first
    | with_reducible assumption
    | exact hm.of (by decide)
    | with_reducible apply KeepsO.next
    | (extract_lets +onlyGivenNames y; have hy : Keeps k0 r0 y := ?_; clear_value y; rotate_left; subst y)
    | (extract_lets +onlyGivenNames y; have hy : Keeps k0 r0 y.1 := ?_; clear_value y; rotate_left; subst y)
    | (extract_lets +onlyGivenNames y; clear_value y)
    | (extract_lets +onlyGivenNames y; subst y)
    | with_reducible apply State.goLane_keeps
    | with_reducible apply State.put_keeps
    | with_reducible apply State.setLane_keeps
    | with_reducible apply State.setLat_keeps
    | with_reducible apply State.useFirst_keeps
    | with_reducible apply State.startStream_keeps
    | with_reducible apply State.startMeas_keeps
    | with_reducible apply Keeps.ite
    | split

theorem State.enterDelay_keeps {k0 : Nat} {r0 : State} (s : State) (n : Nat) (hr : Keeps k0 r0 s) (hm : Sub 8388612 k0 := by exact hm.of (by decide)) : Keeps k0 r0 (State.enterDelay s n) := by
  unfold State.enterDelay
  repeat' first
    | with_reducible assumption
    | exact hm.of (by decide)
    | (extract_lets +onlyGivenNames y; have hy : Keeps k0 r0 y := ?_; clear_value y; rotate_left; subst y)
    | (extract_lets +onlyGivenNames y; have hy : Keeps k0 r0 y.1 := ?_; clear_value y; rotate_left; subst y)
    | (extract_lets +onlyGivenNames y; clear_value y)
    | (extract_lets +onlyGivenNames y; subst y)
    | with_reducible apply State.goLane_keeps
    | with_reducible apply State.setLane_keeps

theorem State.fallBack_keeps {k0 : Nat} {r0 : State} (s : State) (n : Nat) (hr : Keeps k0 r0 s) (hm : Sub 274886295620 k0 := by exact hm.of (by decide)) : Keeps k0 r0 (State.fallBack s n) := by
  unfold State.fallBack
  repeat' first
    | with_reducible assumption
    | exact hm.of (by decide)
    | with_reducible apply State.markersDue_keeps
    | with_reducible apply State.put_keeps
    | with_reducible apply State.useFirst_keeps
    | with_reducible apply State.startStream_keeps
    | with_reducible apply State.startMeas_keeps
    | with_reducible apply State.raise_keeps

theorem State.trainDone_keeps {k0 : Nat} {r0 : State} (s : State) (n : Nat) (m : TrainMeas) (hr : Keeps k0 r0 s) (hm : Sub 274886295620 k0 := by exact hm.of (by decide)) : Keeps k0 r0 (State.trainDone s n m) := by
  unfold State.trainDone
  repeat' first
    | with_reducible assumption
    | exact hm.of (by decide)
    | (extract_lets +onlyGivenNames y; have hy : Keeps k0 r0 y := ?_; clear_value y; rotate_left; subst y)
    | (extract_lets +onlyGivenNames y; have hy : Keeps k0 r0 y.1 := ?_; clear_value y; rotate_left; subst y)
    | (extract_lets +onlyGivenNames y; clear_value y)
    | (extract_lets +onlyGivenNames y; subst y)
    | with_reducible apply State.setLane_keeps
    | with_reducible apply State.put_keeps
    | with_reducible apply State.setLat_keeps
    | with_reducible apply State.useRow_keeps
    | with_reducible apply State.enterDelay_keeps
    | with_reducible apply State.fallBack_keeps
    | with_reducible apply State.laneFail_keeps
    | with_reducible apply Keeps.ite
    | split
    | (with_reducible refine Keeps.foldl ?_ (fun u x h => ?_))

theorem execLaneTrainComplete_keeps {k0 : Nat} {r0 : State} (n : Fin 50) (m : TrainMeas) (s : State) (hr : Keeps k0 r0 s) (hm : Sub 274886295620 k0 := by exact hm.of (by decide)) : KeepsO k0 r0 (execLaneTrainComplete n m s) := by
  unfold execLaneTrainComplete
  repeat' first
    | with_reducible assumption
    | exact hm.of (by decide)
    | with_reducible apply KeepsO.next
    | with_reducible apply State.trainDone_keeps
    | with_reducible apply Keeps.ite
    | split

theorem State.adaptRefused_keeps {k0 : Nat} {r0 : State} (s : State) (n : Nat) (hr : Keeps k0 r0 s) (hm : Sub 274877906980 k0 := by exact hm.of (by decide)) : Keeps k0 r0 (State.adaptRefused s n) := by
  unfold State.adaptRefused
  repeat' first
    | with_reducible assumption
    | exact hm.of (by decide)
    | with_reducible apply State.put_keeps
    | with_reducible apply State.cnt_keeps
    | with_reducible apply State.raise_keeps
    | with_reducible apply State.noteDrop_keeps

theorem State.laneAdapt_keeps {k0 : Nat} {r0 : State} (s : State) (n : Nat) (hr : Keeps k0 r0 s) (hm : Sub 9251368206564 k0 := by exact hm.of (by decide)) : Keeps k0 r0 (State.laneAdapt s n) := by
  unfold State.laneAdapt
  repeat' first
    | with_reducible assumption
    | exact hm.of (by decide)
    | (extract_lets +onlyGivenNames y; have hy : Keeps k0 r0 y := ?_; clear_value y; rotate_left; subst y)
    | (extract_lets +onlyGivenNames y; have hy : Keeps k0 r0 y.1 := ?_; clear_value y; rotate_left; subst y)
    | (extract_lets +onlyGivenNames y; clear_value y)
    | (extract_lets +onlyGivenNames y; subst y)
    | with_reducible apply State.put_keeps
    | with_reducible apply State.adaptRefused_keeps
    | with_reducible apply State.enterTrain_keeps
    | with_reducible apply State.laneCommon_keeps
    | with_reducible apply Keeps.ite
    | split

theorem execLaneAdapt_keeps {k0 : Nat} {r0 : State} (n : Fin 50) (s : State) (hr : Keeps k0 r0 s) (hm : Sub 9251368206564 k0 := by exact hm.of (by decide)) : KeepsO k0 r0 (execLaneAdapt n s) := by
  unfold execLaneAdapt
  repeat' first
    | with_reducible assumption
    | exact hm.of (by decide)
    | with_reducible apply KeepsO.next
    | with_reducible apply State.laneAdapt_keeps

theorem State.laneEqSlot_keeps {k0 : Nat} {r0 : State} (s : State) (n : Nat) (hr : Keeps k0 r0 s) (hm : Sub 274886295556 k0 := by exact hm.of (by decide)) : Keeps k0 r0 (State.laneEqSlot s n) := by
  unfold State.laneEqSlot
  repeat' first
    | with_reducible assumption
    | exact hm.of (by decide)
    | (extract_lets +onlyGivenNames y; have hy : Keeps k0 r0 y := ?_; clear_value y; rotate_left; subst y)
    | (extract_lets +onlyGivenNames y; have hy : Keeps k0 r0 y.1 := ?_; clear_value y; rotate_left; subst y)
    | (extract_lets +onlyGivenNames y; clear_value y)
    | (extract_lets +onlyGivenNames y; subst y)
    | with_reducible apply State.put_keeps
    | with_reducible apply State.useRow_keeps
    | with_reducible apply State.raise_keeps
    | with_reducible apply Keeps.ite
    | split

theorem State.laneEqWrite_keeps {k0 : Nat} {r0 : State} (s : State) (n : Nat) (hr : Keeps k0 r0 s) (hm : Sub 274886295556 k0 := by exact hm.of (by decide)) : Keeps k0 r0 (State.laneEqWrite s n) := by
  unfold State.laneEqWrite
  repeat' first
    | with_reducible assumption
    | exact hm.of (by decide)
    | with_reducible apply State.put_keeps
    | with_reducible apply State.laneEqSlot_keeps
    | with_reducible apply Keeps.ite
    | split

theorem execApplyEq_keeps {k0 : Nat} {r0 : State} (n : Fin 50) (s : State) (hr : Keeps k0 r0 s) (hm : Sub 274886295556 k0 := by exact hm.of (by decide)) : KeepsO k0 r0 (execApplyEq n s) := by
  unfold execApplyEq
  repeat' first
    | with_reducible assumption
    | exact hm.of (by decide)
    | with_reducible apply KeepsO.next
    | with_reducible apply State.laneEqWrite_keeps
    | with_reducible apply State.laneEqSlot_keeps

theorem State.laneRowWritten_keeps {k0 : Nat} {r0 : State} (s : State) (n r : Nat) (hr : Keeps k0 r0 s) (hm : Sub 4 k0 := by exact hm.of (by decide)) : Keeps k0 r0 (State.laneRowWritten s n r) := by
  unfold State.laneRowWritten
  repeat' first
    | with_reducible assumption
    | exact hm.of (by decide)
    | with_reducible apply State.put_keeps
    | with_reducible apply Keeps.ite
    | split

theorem State.laneCleared_keeps {k0 : Nat} {r0 : State} (s : State) (n : Nat) (hr : Keeps k0 r0 s) (hm : Sub 8388676 k0 := by exact hm.of (by decide)) : Keeps k0 r0 (State.laneCleared s n) := by
  unfold State.laneCleared
  repeat' first
    | with_reducible assumption
    | exact hm.of (by decide)
    | (extract_lets +onlyGivenNames y; have hy : Keeps k0 r0 y := ?_; clear_value y; rotate_left; subst y)
    | (extract_lets +onlyGivenNames y; have hy : Keeps k0 r0 y.1 := ?_; clear_value y; rotate_left; subst y)
    | (extract_lets +onlyGivenNames y; clear_value y)
    | (extract_lets +onlyGivenNames y; subst y)
    | with_reducible apply State.setLane_keeps
    | with_reducible apply State.enterTrain_keeps
    | with_reducible apply Keeps.ite
    | split

theorem State.laneLastClear_keeps {k0 : Nat} {r0 : State} (s : State) (n : Nat) (hr : Keeps k0 r0 s) (hm : Sub 8388676 k0 := by exact hm.of (by decide)) : Keeps k0 r0 (State.laneLastClear s n) := by
  unfold State.laneLastClear
  repeat' first
    | with_reducible assumption
    | exact hm.of (by decide)
    | with_reducible apply State.put_keeps
    | with_reducible apply State.laneCleared_keeps
    | with_reducible apply State.cnt_keeps
    | with_reducible apply Keeps.ite
    | split

theorem execLaneLastingClear_keeps {k0 : Nat} {r0 : State} (n : Fin 50) (s : State) (hr : Keeps k0 r0 s) (hm : Sub 8388676 k0 := by exact hm.of (by decide)) : KeepsO k0 r0 (execLaneLastingClear n s) := by
  unfold execLaneLastingClear
  repeat' first
    | with_reducible assumption
    | exact hm.of (by decide)
    | with_reducible apply KeepsO.next
    | with_reducible apply State.laneLastClear_keeps

theorem execLaneRetryTimeout_keeps {k0 : Nat} {r0 : State} (n : Fin 50) (s : State) (hr : Keeps k0 r0 s) (hm : Sub 411041862 k0 := by exact hm.of (by decide)) : KeepsO k0 r0 (execLaneRetryTimeout n s) := by
  unfold execLaneRetryTimeout
  repeat' first
    | with_reducible assumption
    | exact hm.of (by decide)
    | with_reducible apply KeepsO.next
    | with_reducible apply State.until_keeps
    | with_reducible apply State.enterTrain_keeps
    | with_reducible apply Keeps.ite
    | split

theorem execBlockLockLoss_keeps {k0 : Nat} {r0 : State} (n : Fin 50) (s : State) (hr : Keeps k0 r0 s) (hm : Sub 9251368206532 k0 := by exact hm.of (by decide)) : KeepsO k0 r0 (execBlockLockLoss n s) := by
  unfold execBlockLockLoss
  repeat' first
    | with_reducible assumption
    | exact hm.of (by decide)
    | with_reducible apply KeepsO.next
    | (extract_lets +onlyGivenNames y; have hy : Keeps k0 r0 y := ?_; clear_value y; rotate_left; subst y)
    | (extract_lets +onlyGivenNames y; have hy : Keeps k0 r0 y.1 := ?_; clear_value y; rotate_left; subst y)
    | (extract_lets +onlyGivenNames y; clear_value y)
    | (extract_lets +onlyGivenNames y; subst y)
    | with_reducible apply State.put_keeps
    | with_reducible apply State.setLane_keeps
    | with_reducible apply State.marker_keeps
    | with_reducible apply State.goLane_keeps
    | with_reducible apply State.cnt_keeps
    | with_reducible apply State.raise_keeps
    | with_reducible apply State.laneFault_keeps
    | with_reducible apply State.laneCommon_keeps
    | with_reducible apply Keeps.ite
    | split

theorem execBlockLockGain_keeps {k0 : Nat} {r0 : State} (n : Fin 50) (s : State) (hr : Keeps k0 r0 s) (hm : Sub 274886295556 k0 := by exact hm.of (by decide)) : KeepsO k0 r0 (execBlockLockGain n s) := by
  unfold execBlockLockGain
  repeat' first
    | with_reducible assumption
    | exact hm.of (by decide)
    | with_reducible apply KeepsO.next
    | (extract_lets +onlyGivenNames y; have hy : Keeps k0 r0 y := ?_; clear_value y; rotate_left; subst y)
    | (extract_lets +onlyGivenNames y; have hy : Keeps k0 r0 y.1 := ?_; clear_value y; rotate_left; subst y)
    | (extract_lets +onlyGivenNames y; clear_value y)
    | (extract_lets +onlyGivenNames y; subst y)
    | with_reducible apply State.put_keeps
    | with_reducible apply State.setLane_keeps
    | with_reducible apply State.goLane_keeps
    | with_reducible apply State.raise_keeps
    | with_reducible apply Keeps.ite
    | split

theorem execRelockTimeout_keeps {k0 : Nat} {r0 : State} (n : Fin 50) (s : State) (hr : Keeps k0 r0 s) (hm : Sub 411041862 k0 := by exact hm.of (by decide)) : KeepsO k0 r0 (execRelockTimeout n s) := by
  unfold execRelockTimeout
  repeat' first
    | with_reducible assumption
    | exact hm.of (by decide)
    | with_reducible apply KeepsO.next
    | (extract_lets +onlyGivenNames y; have hy : Keeps k0 r0 y := ?_; clear_value y; rotate_left; subst y)
    | (extract_lets +onlyGivenNames y; have hy : Keeps k0 r0 y.1 := ?_; clear_value y; rotate_left; subst y)
    | (extract_lets +onlyGivenNames y; clear_value y)
    | (extract_lets +onlyGivenNames y; subst y)
    | with_reducible apply State.until_keeps
    | with_reducible apply State.enterTrain_keeps
    | with_reducible apply Keeps.ite
    | split

theorem State.markerErr_keeps {k0 : Nat} {r0 : State} (s : State) (n : Nat) (hr : Keeps k0 r0 s) (hm : Sub 4 k0 := by exact hm.of (by decide)) : Keeps k0 r0 (State.markerErr s n) := by
  unfold State.markerErr
  repeat' first
    | with_reducible assumption
    | exact hm.of (by decide)
    | with_reducible apply State.cnt_keeps

theorem State.marker_keeps {k0 : Nat} {r0 : State} (s : State) (n : Nat) (payload : BitVec 64) (gap : Nat) (hr : Keeps k0 r0 s) (hm : Sub 8388612 k0 := by exact hm.of (by decide)) : Keeps k0 r0 (State.marker s n payload gap) := by
  unfold State.marker
  repeat' first
    | with_reducible assumption
    | exact hm.of (by decide)
    | (extract_lets +onlyGivenNames y; have hy : Keeps k0 r0 y := ?_; clear_value y; rotate_left; subst y)
    | (extract_lets +onlyGivenNames y; have hy : Keeps k0 r0 y.1 := ?_; clear_value y; rotate_left; subst y)
    | (extract_lets +onlyGivenNames y; clear_value y)
    | (extract_lets +onlyGivenNames y; subst y)
    | with_reducible apply State.markerErr_keeps
    | with_reducible apply State.cnt_keeps
    | with_reducible apply State.put_keeps
    | with_reducible apply State.setLane_keeps
    | with_reducible apply Keeps.ite
    | split

theorem execAlignmentMarker_keeps {k0 : Nat} {r0 : State} (n : Fin 50) (payload : BitVec 64) (gap : Nat) (s : State) (hr : Keeps k0 r0 s) (hm : Sub 8388612 k0 := by exact hm.of (by decide)) : KeepsO k0 r0 (execAlignmentMarker n payload gap s) := by
  unfold execAlignmentMarker
  repeat' first
    | with_reducible assumption
    | exact hm.of (by decide)
    | with_reducible apply KeepsO.next
    | with_reducible apply State.marker_keeps
    | with_reducible apply Keeps.ite
    | split

theorem execMarkerMissing_keeps {k0 : Nat} {r0 : State} (n : Fin 50) (s : State) (hr : Keeps k0 r0 s) (hm : Sub 4 k0 := by exact hm.of (by decide)) : KeepsO k0 r0 (execMarkerMissing n s) := by
  unfold execMarkerMissing
  repeat' first
    | with_reducible assumption
    | exact hm.of (by decide)
    | with_reducible apply KeepsO.next
    | with_reducible apply State.marker_keeps
    | with_reducible apply State.markerErr_keeps
    | with_reducible apply State.put_keeps
    | with_reducible apply Keeps.ite
    | split

theorem State.intervalEnd_keeps {k0 : Nat} {r0 : State} (s : State) (n : Nat) (hr : Keeps k0 r0 s) (hm : Sub 9251368206532 k0 := by exact hm.of (by decide)) : Keeps k0 r0 (State.intervalEnd s n) := by
  unfold State.intervalEnd
  repeat' first
    | with_reducible assumption
    | exact hm.of (by decide)
    | (extract_lets +onlyGivenNames y; have hy : Keeps k0 r0 y := ?_; clear_value y; rotate_left; subst y)
    | (extract_lets +onlyGivenNames y; have hy : Keeps k0 r0 y.1 := ?_; clear_value y; rotate_left; subst y)
    | (extract_lets +onlyGivenNames y; clear_value y)
    | (extract_lets +onlyGivenNames y; subst y)
    | with_reducible apply State.put_keeps
    | with_reducible apply State.cnt_keeps
    | with_reducible apply State.setLane_keeps
    | with_reducible apply State.raise_keeps
    | with_reducible apply State.laneFault_keeps
    | with_reducible apply State.laneCommon_keeps
    | with_reducible apply Keeps.ite
    | split

theorem execMarkerIntervalEnd_keeps {k0 : Nat} {r0 : State} (n : Fin 50) (s : State) (hr : Keeps k0 r0 s) (hm : Sub 9251368206532 k0 := by exact hm.of (by decide)) : KeepsO k0 r0 (execMarkerIntervalEnd n s) := by
  unfold execMarkerIntervalEnd
  repeat' first
    | with_reducible assumption
    | exact hm.of (by decide)
    | with_reducible apply KeepsO.next
    | with_reducible apply State.markersDue_keeps
    | with_reducible apply State.intervalEnd_keeps
    | with_reducible apply Keeps.ite
    | split

theorem State.laneMove_keeps {k0 : Nat} {r0 : State} (s : State) (n filt : Nat) (hr : Keeps k0 r0 s) (hm : Sub 274886295556 k0 := by exact hm.of (by decide)) : Keeps k0 r0 (State.laneMove s n filt) := by
  unfold State.laneMove
  repeat' first
    | with_reducible assumption
    | exact hm.of (by decide)
    | (extract_lets +onlyGivenNames y; have hy : Keeps k0 r0 y := ?_; clear_value y; rotate_left; subst y)
    | (extract_lets +onlyGivenNames y; have hy : Keeps k0 r0 y.1 := ?_; clear_value y; rotate_left; subst y)
    | (extract_lets +onlyGivenNames y; clear_value y)
    | (extract_lets +onlyGivenNames y; subst y)
    | with_reducible apply State.raise_keeps
    | with_reducible apply State.setLane_keeps
    | with_reducible apply State.put_keeps
    | with_reducible apply Keeps.ite
    | split

theorem State.echoOk_keeps {k0 : Nat} {r0 : State} (s : State) (n rt turn : Nat) (hr : Keeps k0 r0 s) (hm : Sub 274886295684 k0 := by exact hm.of (by decide)) : Keeps k0 r0 (State.echoOk s n rt turn) := by
  unfold State.echoOk
  repeat' first
    | with_reducible assumption
    | exact hm.of (by decide)
    | (extract_lets +onlyGivenNames y; have hy : Keeps k0 r0 y := ?_; clear_value y; rotate_left; subst y)
    | (extract_lets +onlyGivenNames y; have hy : Keeps k0 r0 y.1 := ?_; clear_value y; rotate_left; subst y)
    | (extract_lets +onlyGivenNames y; clear_value y)
    | (extract_lets +onlyGivenNames y; subst y)
    | with_reducible apply State.drew_keeps
    | with_reducible apply State.put_keeps
    | with_reducible apply State.setLane_keeps
    | with_reducible apply State.goLane_keeps
    | with_reducible apply State.raise_keeps
    | with_reducible apply State.laneMove_keeps
    | with_reducible apply Keeps.ite
    | split

theorem State.echoRsp_keeps {k0 : Nat} {r0 : State} (s : State) (n : Nat) (payload : BitVec 64) (rt : Nat) (hr : Keeps k0 r0 s) (hm : Sub 274886295684 k0 := by exact hm.of (by decide)) : Keeps k0 r0 (State.echoRsp s n payload rt) := by
  unfold State.echoRsp
  repeat' first
    | with_reducible assumption
    | exact hm.of (by decide)
    | (extract_lets +onlyGivenNames y; have hy : Keeps k0 r0 y := ?_; clear_value y; rotate_left; subst y)
    | (extract_lets +onlyGivenNames y; have hy : Keeps k0 r0 y.1 := ?_; clear_value y; rotate_left; subst y)
    | (extract_lets +onlyGivenNames y; clear_value y)
    | (extract_lets +onlyGivenNames y; subst y)
    | with_reducible apply State.setLane_keeps
    | with_reducible apply State.echoOk_keeps
    | with_reducible apply Keeps.ite
    | split

theorem execEchoLost_keeps {k0 : Nat} {r0 : State} (n : Fin 50) (s : State) (hr : Keeps k0 r0 s) (hm : Sub 275288948742 k0 := by exact hm.of (by decide)) : KeepsO k0 r0 (execEchoLost n s) := by
  unfold execEchoLost
  repeat' first
    | with_reducible assumption
    | exact hm.of (by decide)
    | with_reducible apply KeepsO.next
    | (extract_lets +onlyGivenNames y; have hy : Keeps k0 r0 y := ?_; clear_value y; rotate_left; subst y)
    | (extract_lets +onlyGivenNames y; have hy : Keeps k0 r0 y.1 := ?_; clear_value y; rotate_left; subst y)
    | (extract_lets +onlyGivenNames y; clear_value y)
    | (extract_lets +onlyGivenNames y; subst y)
    | with_reducible apply State.until_keeps
    | with_reducible apply State.setLane_keeps
    | with_reducible apply State.cnt_keeps
    | with_reducible apply State.laneFail_keeps
    | with_reducible apply Keeps.ite
    | split

theorem execEchoReceived_keeps {k0 : Nat} {r0 : State} (p : Fin 2) (payload : BitVec 64) (turn : BitVec 24) (s : State) (hr : Keeps k0 r0 s) (hm : Sub 8388672 k0 := by exact hm.of (by decide)) : KeepsO k0 r0 (execEchoReceived p payload turn s) := by
  unfold execEchoReceived
  repeat' first
    | with_reducible assumption
    | exact hm.of (by decide)
    | with_reducible apply KeepsO.next
    | (extract_lets +onlyGivenNames y; have hy : Keeps k0 r0 y := ?_; clear_value y; rotate_left; subst y)
    | (extract_lets +onlyGivenNames y; have hy : Keeps k0 r0 y.1 := ?_; clear_value y; rotate_left; subst y)
    | (extract_lets +onlyGivenNames y; clear_value y)
    | (extract_lets +onlyGivenNames y; subst y)
    | with_reducible apply State.setLane_keeps
    | with_reducible apply State.emit_keeps
    | with_reducible apply Keeps.ite
    | split

end Sys2Proof.Machine
end

