-- ==== Sys2Proof/Laws/KeepsLink.lean ====
section
/-! SUPPORT. The operations of Machine/Link.lean leave the queue alone and keep the canonical form of the stores. -/

set_option linter.unusedTactic false
set_option linter.unreachableTactic false

namespace Sys2Proof.Machine

theorem State.setLink_keeps {k0 : Nat} {r0 : State} (s : State) (i : Nat) (x : LinkS) (hr : Keeps k0 r0 s) (hm : Sub 524288 k0 := by exact hm.of (by decide)) : Keeps k0 r0 (State.setLink s i x) := by
  unfold State.setLink
  repeat' first
    | with_reducible assumption
    | exact hm.of (by decide)
    | with_reducible apply Keeps.upd_links

theorem State.setEs_keeps {k0 : Nat} {r0 : State} (s : State) (i : Nat) (x : EdgeS) (hr : Keeps k0 r0 s) (hm : Sub 16777216 k0 := by exact hm.of (by decide)) : Keeps k0 r0 (State.setEs s i x) := by
  unfold State.setEs
  repeat' first
    | with_reducible assumption
    | exact hm.of (by decide)
    | with_reducible apply Keeps.upd_edge

theorem State.setLl_keeps {k0 : Nat} {r0 : State} (s : State) (n : Nat) (x : LinkLane) (hr : Keeps k0 r0 s) (hm : Sub 1048576 k0 := by exact hm.of (by decide)) : Keeps k0 r0 (State.setLl s n x) := by
  unfold State.setLl
  repeat' first
    | with_reducible assumption
    | exact hm.of (by decide)
    | with_reducible apply Keeps.upd_linkLanes

theorem State.stallEvent_keeps {k0 : Nat} {r0 : State} (s : State) (i bit : Nat) (hr : Keeps k0 r0 s) (hm : Sub 274877906948 k0 := by exact hm.of (by decide)) : Keeps k0 r0 (State.stallEvent s i bit) := by
  unfold State.stallEvent
  repeat' first
    | with_reducible assumption
    | exact hm.of (by decide)
    | with_reducible apply State.put_keeps
    | with_reducible apply State.raise_keeps

theorem State.disable_keeps {k0 : Nat} {r0 : State} (s : State) (i : Nat) (hr : Keeps k0 r0 s) (hm : Sub 8 k0 := by exact hm.of (by decide)) : Keeps k0 r0 (State.disable s i) := by
  unfold State.disable
  repeat' first
    | with_reducible assumption
    | exact hm.of (by decide)
    | with_reducible apply State.setRecF_keeps

theorem State.setM_keeps {k0 : Nat} {r0 : State} (s : State) (i m : Nat) (v : Int) (hr : Keeps k0 r0 s) (hm : Sub 8 k0 := by exact hm.of (by decide)) : Keeps k0 r0 (State.setM s i m v) := by
  unfold State.setM
  repeat' first
    | with_reducible assumption
    | exact hm.of (by decide)
    | with_reducible apply State.setRecF_keeps

theorem State.storeSlot_keeps {k0 : Nat} {r0 : State} (s : State) (i m raw : Nat) (valid : Bool) (hr : Keeps k0 r0 s) (hm : Sub 8 k0 := by exact hm.of (by decide)) : Keeps k0 r0 (State.storeSlot s i m raw valid) := by
  unfold State.storeSlot
  repeat' first
    | with_reducible assumption
    | exact hm.of (by decide)
    | (extract_lets +onlyGivenNames y; have hy : Keeps k0 r0 y := ?_; clear_value y; rotate_left; subst y)
    | (extract_lets +onlyGivenNames y; have hy : Keeps k0 r0 y.1 := ?_; clear_value y; rotate_left; subst y)
    | (extract_lets +onlyGivenNames y; clear_value y)
    | (extract_lets +onlyGivenNames y; subst y)
    | with_reducible apply State.setRecF_keeps
    | with_reducible apply State.setM_keeps
    | with_reducible apply Keeps.ite
    | split

theorem State.unpoison_keeps {k0 : Nat} {r0 : State} (s : State) (lo n : Nat) (hr : Keeps k0 r0 s) (hm : Sub 549755813888 k0 := by exact hm.of (by decide)) : Keeps k0 r0 (State.unpoison s lo n) := by
  unfold State.unpoison
  repeat' first
    | with_reducible assumption
    | exact hm.of (by decide)
    | with_reducible apply Keeps.upd_flt

theorem State.storeUplink_keeps {k0 : Nat} {r0 : State} (s : State) (i : Nat) (f : List (BitVec 64)) (hr : Keeps k0 r0 s) (hm : Sub 549755813896 k0 := by exact hm.of (by decide)) : Keeps k0 r0 (State.storeUplink s i f) := by
  unfold State.storeUplink
  repeat' first
    | with_reducible assumption
    | exact hm.of (by decide)
    | (extract_lets +onlyGivenNames y; have hy : Keeps k0 r0 y := ?_; clear_value y; rotate_left; subst y)
    | (extract_lets +onlyGivenNames y; have hy : Keeps k0 r0 y.1 := ?_; clear_value y; rotate_left; subst y)
    | (extract_lets +onlyGivenNames y; clear_value y)
    | (extract_lets +onlyGivenNames y; subst y)
    | with_reducible apply State.storeSlot_keeps
    | with_reducible apply State.setRec_keeps
    | with_reducible apply State.setRecF_keeps
    | with_reducible apply State.unpoison_keeps
    | (with_reducible refine Keeps.foldl ?_ (fun u x h => ?_))

theorem State.insertStep_keeps {k0 : Nat} {r0 : State} (s : State) (i : Nat) (hr : Keeps k0 r0 s) (hm : Sub 524424 k0 := by exact hm.of (by decide)) : Keeps k0 r0 (State.insertStep s i) := by
  unfold State.insertStep
  repeat' first
    | with_reducible assumption
    | exact hm.of (by decide)
    | (extract_lets +onlyGivenNames y; have hy : Keeps k0 r0 y := ?_; clear_value y; rotate_left; subst y)
    | (extract_lets +onlyGivenNames y; have hy : Keeps k0 r0 y.1 := ?_; clear_value y; rotate_left; subst y)
    | (extract_lets +onlyGivenNames y; clear_value y)
    | (extract_lets +onlyGivenNames y; subst y)
    | with_reducible apply State.written_keeps
    | with_reducible apply State.setLk_keeps
    | with_reducible apply State.setLink_keeps
    | with_reducible apply State.drew_keeps
    | with_reducible apply Keeps.ite
    | split

theorem State.ask_keeps {k0 : Nat} {r0 : State} (s : State) (n : Nat) (r : MReq) (hr : Keeps k0 r0 s) (hm : Sub 1048576 k0 := by exact hm.of (by decide)) : Keeps k0 r0 (State.ask s n r) := by
  unfold State.ask
  repeat' first
    | with_reducible assumption
    | exact hm.of (by decide)
    | with_reducible apply State.setLl_keeps

theorem State.askConfig_keeps {k0 : Nat} {r0 : State} (s : State) (i : Nat) (hr : Keeps k0 r0 s) (hm : Sub 1572864 k0 := by exact hm.of (by decide)) : Keeps k0 r0 (State.askConfig s i) := by
  unfold State.askConfig
  repeat' first
    | with_reducible assumption
    | exact hm.of (by decide)
    | (extract_lets +onlyGivenNames y; have hy : Keeps k0 r0 y := ?_; clear_value y; rotate_left; subst y)
    | (extract_lets +onlyGivenNames y; have hy := fun a => y a; clear hy; subst y; beta_reduce)
    | (extract_lets +onlyGivenNames y; have hy : Keeps k0 r0 y.1 := ?_; clear_value y; rotate_left; subst y)
    | (extract_lets +onlyGivenNames y; clear_value y)
    | (extract_lets +onlyGivenNames y; subst y)
    | with_reducible apply State.hold_keeps
    | with_reducible apply State.ask_keeps
    | with_reducible apply State.setLink_keeps
    | with_reducible apply State.written_keeps
    | (with_reducible refine Keeps.foldl ?_ (fun u x h => ?_))

theorem State.askRelay_keeps {k0 : Nat} {r0 : State} (s : State) (n p : Nat) (hr : Keeps k0 r0 s) (hm : Sub 1048576 k0 := by exact hm.of (by decide)) : Keeps k0 r0 (State.askRelay s n p) := by
  unfold State.askRelay
  repeat' first
    | with_reducible assumption
    | exact hm.of (by decide)
    | with_reducible apply State.ask_keeps
    | (with_reducible refine Keeps.foldl ?_ (fun u x h => ?_))

theorem State.askRelays_keeps {k0 : Nat} {r0 : State} (s : State) (n : Nat) (hr : Keeps k0 r0 s) (hm : Sub 1048576 k0 := by exact hm.of (by decide)) : Keeps k0 r0 (State.askRelays s n) := by
  unfold State.askRelays
  repeat' first
    | with_reducible assumption
    | exact hm.of (by decide)
    | with_reducible apply State.askRelay_keeps
    | (with_reducible refine Keeps.foldl ?_ (fun u x h => ?_))

theorem State.insertFail_keeps {k0 : Nat} {r0 : State} (s : State) (i code name : Nat) (hr : Keeps k0 r0 s) (hm : Sub 274878431756 k0 := by exact hm.of (by decide)) : Keeps k0 r0 (State.insertFail s i code name) := by
  unfold State.insertFail
  repeat' first
    | with_reducible assumption
    | exact hm.of (by decide)
    | (extract_lets +onlyGivenNames y; have hy : Keeps k0 r0 y := ?_; clear_value y; rotate_left; subst y)
    | (extract_lets +onlyGivenNames y; have hy : Keeps k0 r0 y.1 := ?_; clear_value y; rotate_left; subst y)
    | (extract_lets +onlyGivenNames y; clear_value y)
    | (extract_lets +onlyGivenNames y; subst y)
    | with_reducible apply State.disable_keeps
    | with_reducible apply State.setLink_keeps
    | with_reducible apply State.reportCheck_keeps

theorem State.insertConfigure_keeps {k0 : Nat} {r0 : State} (s : State) (i : Nat) (hr : Keeps k0 r0 s) (hm : Sub 274879480332 k0 := by exact hm.of (by decide)) : Keeps k0 r0 (State.insertConfigure s i) := by
  unfold State.insertConfigure
  repeat' first
    | with_reducible assumption
    | exact hm.of (by decide)
    | (extract_lets +onlyGivenNames y; have hy : Keeps k0 r0 y := ?_; clear_value y; rotate_left; subst y)
    | (extract_lets +onlyGivenNames y; have hy : Keeps k0 r0 y.1 := ?_; clear_value y; rotate_left; subst y)
    | (extract_lets +onlyGivenNames y; clear_value y)
    | (extract_lets +onlyGivenNames y; subst y)
    | with_reducible apply State.insertFail_keeps
    | with_reducible apply State.askRelay_keeps
    | with_reducible apply State.setLink_keeps
    | with_reducible apply State.askConfig_keeps
    | with_reducible apply Keeps.ite
    | split
    | (with_reducible refine Keeps.foldl ?_ (fun u x h => ?_))

theorem State.enumStart_keeps {k0 : Nat} {r0 : State} (s : State) (n : Nat) (hr : Keeps k0 r0 s) (hm : Sub 1048576 k0 := by exact hm.of (by decide)) : Keeps k0 r0 (State.enumStart s n) := by
  unfold State.enumStart
  repeat' first
    | with_reducible assumption
    | exact hm.of (by decide)
    | (extract_lets +onlyGivenNames y; have hy : Keeps k0 r0 y := ?_; clear_value y; rotate_left; subst y)
    | (extract_lets +onlyGivenNames y; have hy : Keeps k0 r0 y.1 := ?_; clear_value y; rotate_left; subst y)
    | (extract_lets +onlyGivenNames y; clear_value y)
    | (extract_lets +onlyGivenNames y; subst y)
    | with_reducible apply State.setLl_keeps
    | with_reducible apply Keeps.ite
    | split

theorem State.enumNext_keeps {k0 : Nat} {r0 : State} (s : State) (n : Nat) (hr : Keeps k0 r0 s) (hm : Sub 1048576 k0 := by exact hm.of (by decide)) : Keeps k0 r0 (State.enumNext s n) := by
  unfold State.enumNext
  repeat' first
    | with_reducible assumption
    | exact hm.of (by decide)
    | with_reducible apply State.setLl_keeps
    | with_reducible apply Keeps.ite
    | split

theorem State.describe_keeps {k0 : Nat} {r0 : State} (s : State) (i : Nat) (desc : List Nat) (dly : Nat) (hr : Keeps k0 r0 s) (hm : Sub 8 k0 := by exact hm.of (by decide)) : Keeps k0 r0 (State.describe s i desc dly) := by
  unfold State.describe
  repeat' first
    | with_reducible assumption
    | exact hm.of (by decide)
    | with_reducible apply State.setRec_keeps
    | with_reducible apply State.setRecF_keeps
    | (with_reducible refine Keeps.foldl ?_ (fun u x h => ?_))

theorem State.undescribe_keeps {k0 : Nat} {r0 : State} (s : State) (i : Nat) (hr : Keeps k0 r0 s) (hm : Sub 8 k0 := by exact hm.of (by decide)) : Keeps k0 r0 (State.undescribe s i) := by
  unfold State.undescribe
  repeat' first
    | with_reducible assumption
    | exact hm.of (by decide)
    | with_reducible apply State.describe_keeps
    | with_reducible apply State.setLk_keeps
    | with_reducible apply Keeps.ite
    | split

theorem State.replaceNode_keeps {k0 : Nat} {r0 : State} (s : State) (i : Nat) (hr : Keeps k0 r0 s) (hm : Sub 8 k0 := by exact hm.of (by decide)) : Keeps k0 r0 (State.replaceNode s i) := by
  unfold State.replaceNode
  repeat' first
    | with_reducible assumption
    | exact hm.of (by decide)
    | (extract_lets +onlyGivenNames y; have hy : Keeps k0 r0 y := ?_; clear_value y; rotate_left; subst y)
    | (extract_lets +onlyGivenNames y; have hy : Keeps k0 r0 y.1 := ?_; clear_value y; rotate_left; subst y)
    | (extract_lets +onlyGivenNames y; clear_value y)
    | (extract_lets +onlyGivenNames y; subst y)
    | with_reducible apply State.describe_keeps
    | with_reducible apply State.setLk_keeps
    | with_reducible apply State.undescribe_keeps
    | with_reducible apply Keeps.ite
    | split

theorem State.enumEnd_keeps {k0 : Nat} {r0 : State} (s : State) (n : Nat) (j : EnumJob) (hr : Keeps k0 r0 s) (hm : Sub 274879480332 k0 := by exact hm.of (by decide)) : Keeps k0 r0 (State.enumEnd s n j) := by
  unfold State.enumEnd
  repeat' first
    | with_reducible assumption
    | exact hm.of (by decide)
    | (extract_lets +onlyGivenNames y; have hy : Keeps k0 r0 y := ?_; clear_value y; rotate_left; subst y)
    | (extract_lets +onlyGivenNames y; have hy := fun a => y a; clear hy; subst y; beta_reduce)
    | (extract_lets +onlyGivenNames y; have hy : Keeps k0 r0 y.1 := ?_; clear_value y; rotate_left; subst y)
    | (extract_lets +onlyGivenNames y; clear_value y)
    | (extract_lets +onlyGivenNames y; subst y)
    | with_reducible apply State.setLl_keeps
    | with_reducible apply State.undescribe_keeps
    | with_reducible apply State.describe_keeps
    | with_reducible apply State.insertConfigure_keeps
    | with_reducible apply State.insertFail_keeps
    | with_reducible apply Keeps.ite
    | split
    | (with_reducible refine Keeps.foldl ?_ (fun u x h => ?_))

theorem State.enumGo_keeps {k0 : Nat} {r0 : State} (s : State) (n : Nat) (hr : Keeps k0 r0 s) (hm : Sub 274879480332 k0 := by exact hm.of (by decide)) : Keeps k0 r0 (State.enumGo s n) := by
  unfold State.enumGo
  repeat' first
    | with_reducible assumption
    | exact hm.of (by decide)
    | (extract_lets +onlyGivenNames y; have hy : Keeps k0 r0 y := ?_; clear_value y; rotate_left; subst y)
    | (extract_lets +onlyGivenNames y; have hy : Keeps k0 r0 y.1 := ?_; clear_value y; rotate_left; subst y)
    | (extract_lets +onlyGivenNames y; clear_value y)
    | (extract_lets +onlyGivenNames y; subst y)
    | with_reducible apply State.enumStart_keeps
    | with_reducible apply State.enumEnd_keeps
    | with_reducible apply State.enumNext_keeps
    | with_reducible apply Keeps.ite
    | split

theorem State.enumAsk_keeps {k0 : Nat} {r0 : State} (s : State) (n : Nat) (w : Option Nat) (hr : Keeps k0 r0 s) (hm : Sub 274879480332 k0 := by exact hm.of (by decide)) : Keeps k0 r0 (State.enumAsk s n w) := by
  unfold State.enumAsk
  repeat' first
    | with_reducible assumption
    | exact hm.of (by decide)
    | (extract_lets +onlyGivenNames y; have hy : Keeps k0 r0 y := ?_; clear_value y; rotate_left; subst y)
    | (extract_lets +onlyGivenNames y; have hy : Keeps k0 r0 y.1 := ?_; clear_value y; rotate_left; subst y)
    | (extract_lets +onlyGivenNames y; clear_value y)
    | (extract_lets +onlyGivenNames y; subst y)
    | with_reducible apply State.setLl_keeps
    | with_reducible apply State.enumGo_keeps
    | with_reducible apply Keeps.ite
    | split

theorem State.enumLane_keeps {k0 : Nat} {r0 : State} (s : State) (n : Nat) (hr : Keeps k0 r0 s) (hm : Sub 274879480332 k0 := by exact hm.of (by decide)) : Keeps k0 r0 (State.enumLane s n) := by
  unfold State.enumLane
  repeat' first
    | with_reducible assumption
    | exact hm.of (by decide)
    | (extract_lets +onlyGivenNames y; have hy : Keeps k0 r0 y := ?_; clear_value y; rotate_left; subst y)
    | (extract_lets +onlyGivenNames y; have hy : Keeps k0 r0 y.1 := ?_; clear_value y; rotate_left; subst y)
    | (extract_lets +onlyGivenNames y; clear_value y)
    | (extract_lets +onlyGivenNames y; subst y)
    | with_reducible apply State.setLl_keeps
    | with_reducible apply State.enumAsk_keeps
    | with_reducible apply Keeps.ite
    | split

theorem State.enumRead_keeps {k0 : Nat} {r0 : State} (s : State) (n : Nat) (hr : Keeps k0 r0 s) (hm : Sub 1048576 k0 := by exact hm.of (by decide)) : Keeps k0 r0 (State.enumRead s n) := by
  unfold State.enumRead
  repeat' first
    | with_reducible assumption
    | exact hm.of (by decide)
    | (extract_lets +onlyGivenNames y; have hy : Keeps k0 r0 y := ?_; clear_value y; rotate_left; subst y)
    | (extract_lets +onlyGivenNames y; have hy : Keeps k0 r0 y.1 := ?_; clear_value y; rotate_left; subst y)
    | (extract_lets +onlyGivenNames y; clear_value y)
    | (extract_lets +onlyGivenNames y; subst y)
    | with_reducible apply State.setLl_keeps
    | with_reducible apply State.ask_keeps
    | with_reducible apply Keeps.ite
    | split

theorem State.enumUplink_keeps {k0 : Nat} {r0 : State} (s : State) (n path status : Nat) (hr : Keeps k0 r0 s) (hm : Sub 1048576 k0 := by exact hm.of (by decide)) : Keeps k0 r0 (State.enumUplink s n path status) := by
  unfold State.enumUplink
  repeat' first
    | with_reducible assumption
    | exact hm.of (by decide)
    | with_reducible apply State.enumRead_keeps
    | with_reducible apply Keeps.ite
    | split

theorem State.enumPeriod_keeps {k0 : Nat} {r0 : State} (s : State) (n : Nat) (hr : Keeps k0 r0 s) (hm : Sub 1048576 k0 := by exact hm.of (by decide)) : Keeps k0 r0 (State.enumPeriod s n) := by
  unfold State.enumPeriod
  repeat' first
    | with_reducible assumption
    | exact hm.of (by decide)
    | with_reducible apply State.enumRead_keeps
    | with_reducible apply State.setLl_keeps
    | with_reducible apply Keeps.ite
    | split

theorem State.foundNode_keeps {k0 : Nat} {r0 : State} (s : State) (n : Nat) (d : EnumNode) (desc : List Nat) (whole : Bool) (hr : Keeps k0 r0 s) (hm : Sub 262152 k0 := by exact hm.of (by decide)) : Keeps k0 r0 (State.foundNode s n d desc whole) := by
  unfold State.foundNode
  repeat' first
    | with_reducible assumption
    | exact hm.of (by decide)
    | (extract_lets +onlyGivenNames y; have hy : Keeps k0 r0 y := ?_; clear_value y; rotate_left; subst y)
    | (extract_lets +onlyGivenNames y; have hy : Keeps k0 r0 y.1 := ?_; clear_value y; rotate_left; subst y)
    | (extract_lets +onlyGivenNames y; clear_value y)
    | (extract_lets +onlyGivenNames y; subst y)
    | with_reducible apply State.describe_keeps
    | with_reducible apply State.setLk_keeps
    | with_reducible apply Keeps.ite
    | split
    | (with_reducible refine Keeps.foldl ?_ (fun u x h => ?_))
    | with_reducible apply Keeps.upd_yard

theorem State.nodeDone_keeps {k0 : Nat} {r0 : State} (s : State) (n : Nat) (j : EnumJob) (d : EnumNode) (portUp : Nat) (hr : Keeps k0 r0 s) (hm : Sub 274879742476 k0 := by exact hm.of (by decide)) : Keeps k0 r0 (State.nodeDone s n j d portUp) := by
  unfold State.nodeDone
  repeat' first
    | with_reducible assumption
    | exact hm.of (by decide)
    | (extract_lets +onlyGivenNames y; have hy : Keeps k0 r0 y := ?_; clear_value y; rotate_left; subst y)
    | (extract_lets +onlyGivenNames y; have hy : Keeps k0 r0 y.1 := ?_; clear_value y; rotate_left; subst y)
    | (extract_lets +onlyGivenNames y; clear_value y)
    | (extract_lets +onlyGivenNames y; subst y)
    | with_reducible apply State.foundNode_keeps
    | with_reducible apply State.setLl_keeps
    | with_reducible apply State.enumGo_keeps
    | with_reducible apply Keeps.ite
    | split

theorem State.nodeLost_keeps {k0 : Nat} {r0 : State} (s : State) (n : Nat) (hr : Keeps k0 r0 s) (hm : Sub 274879480332 k0 := by exact hm.of (by decide)) : Keeps k0 r0 (State.nodeLost s n) := by
  unfold State.nodeLost
  repeat' first
    | with_reducible assumption
    | exact hm.of (by decide)
    | with_reducible apply State.setLl_keeps
    | with_reducible apply State.enumGo_keeps
    | with_reducible apply Keeps.ite
    | split

theorem State.configEnd_keeps {k0 : Nat} {r0 : State} (s : State) (i : Nat) (hr : Keeps k0 r0 s) (hm : Sub 524288 k0 := by exact hm.of (by decide)) : Keeps k0 r0 (State.configEnd s i) := by
  unfold State.configEnd
  repeat' first
    | with_reducible assumption
    | exact hm.of (by decide)
    | (extract_lets +onlyGivenNames y; have hy : Keeps k0 r0 y := ?_; clear_value y; rotate_left; subst y)
    | (extract_lets +onlyGivenNames y; have hy : Keeps k0 r0 y.1 := ?_; clear_value y; rotate_left; subst y)
    | (extract_lets +onlyGivenNames y; clear_value y)
    | (extract_lets +onlyGivenNames y; subst y)
    | with_reducible apply State.setLink_keeps
    | with_reducible apply State.written_keeps
    | with_reducible apply Keeps.ite
    | split

theorem State.answered_keeps {k0 : Nat} {r0 : State} (s : State) (n : Nat) (r : MReq) (res d : Nat) (hr : Keeps k0 r0 s) (hm : Sub 274879742476 k0 := by exact hm.of (by decide)) : Keeps k0 r0 (State.answered s n r res d) := by
  unfold State.answered
  repeat' first
    | with_reducible assumption
    | exact hm.of (by decide)
    | (extract_lets +onlyGivenNames y; have hy : Keeps k0 r0 y := ?_; clear_value y; rotate_left; subst y)
    | (extract_lets +onlyGivenNames y; have hy : Keeps k0 r0 y.1 := ?_; clear_value y; rotate_left; subst y)
    | (extract_lets +onlyGivenNames y; clear_value y)
    | (extract_lets +onlyGivenNames y; subst y)
    | with_reducible apply State.configEnd_keeps
    | with_reducible apply State.nodeLost_keeps
    | with_reducible apply State.ask_keeps
    | with_reducible apply State.setLl_keeps
    | with_reducible apply State.nodeDone_keeps
    | with_reducible apply Keeps.ite
    | split
    | (with_reducible refine Keeps.foldl ?_ (fun u x h => ?_))

theorem execMgmtRequest_keeps {k0 : Nat} {r0 : State} (n : Fin 48) (s : State) (hr : Keeps k0 r0 s) (hm : Sub 9437248 k0 := by exact hm.of (by decide)) : KeepsO k0 r0 (execMgmtRequest n s) := by
  unfold execMgmtRequest
  repeat' first
    | with_reducible assumption
    | exact hm.of (by decide)
    | with_reducible apply KeepsO.next
    | (extract_lets +onlyGivenNames y; have hy : Keeps k0 r0 y := ?_; clear_value y; rotate_left; subst y)
    | (extract_lets +onlyGivenNames y; have hy : Keeps k0 r0 y.1 := ?_; clear_value y; rotate_left; subst y)
    | (extract_lets +onlyGivenNames y; clear_value y)
    | (extract_lets +onlyGivenNames y; subst y)
    | with_reducible apply State.setLl_keeps
    | with_reducible apply State.laneSend_keeps
    | with_reducible apply Keeps.ite
    | split

theorem execEchoTimer_keeps {k0 : Nat} {r0 : State} (n : Fin 50) (s : State) (hr : Keeps k0 r0 s) (hm : Sub 411041858 k0 := by exact hm.of (by decide)) : KeepsO k0 r0 (execEchoTimer n s) := by
  unfold execEchoTimer
  repeat' first
    | with_reducible assumption
    | exact hm.of (by decide)
    | with_reducible apply KeepsO.next
    | (extract_lets +onlyGivenNames y; have hy : Keeps k0 r0 y := ?_; clear_value y; rotate_left; subst y)
    | (extract_lets +onlyGivenNames y; have hy : Keeps k0 r0 y.1 := ?_; clear_value y; rotate_left; subst y)
    | (extract_lets +onlyGivenNames y; clear_value y)
    | (extract_lets +onlyGivenNames y; subst y)
    | with_reducible apply State.until_keeps
    | with_reducible apply State.setLane_keeps
    | with_reducible apply State.emit_keeps
    | with_reducible apply Keeps.ite
    | split

theorem State.mrspTake_keeps {k0 : Nat} {r0 : State} (s : State) (k : Nat) (f : List (BitVec 64)) (hr : Keeps k0 r0 s) (hm : Sub 274879742476 k0 := by exact hm.of (by decide)) : Keeps k0 r0 (State.mrspTake s k f) := by
  unfold State.mrspTake
  repeat' first
    | with_reducible assumption
    | exact hm.of (by decide)
    | (extract_lets +onlyGivenNames y; have hy : Keeps k0 r0 y := ?_; clear_value y; rotate_left; subst y)
    | (extract_lets +onlyGivenNames y; have hy : Keeps k0 r0 y.1 := ?_; clear_value y; rotate_left; subst y)
    | (extract_lets +onlyGivenNames y; clear_value y)
    | (extract_lets +onlyGivenNames y; subst y)
    | with_reducible apply State.cnt_keeps
    | with_reducible apply State.setLl_keeps
    | with_reducible apply State.answered_keeps
    | with_reducible apply Keeps.ite
    | split

theorem execMgmtTimeout_keeps {k0 : Nat} {r0 : State} (n : Fin 48) (path : Word) (s : State) (hr : Keeps k0 r0 s) (hm : Sub 275282395662 k0 := by exact hm.of (by decide)) : KeepsO k0 r0 (execMgmtTimeout n path s) := by
  unfold execMgmtTimeout
  repeat' first
    | with_reducible assumption
    | exact hm.of (by decide)
    | with_reducible apply KeepsO.next
    | (extract_lets +onlyGivenNames y; have hy : Keeps k0 r0 y := ?_; clear_value y; rotate_left; subst y)
    | (extract_lets +onlyGivenNames y; have hy : Keeps k0 r0 y.1 := ?_; clear_value y; rotate_left; subst y)
    | (extract_lets +onlyGivenNames y; clear_value y)
    | (extract_lets +onlyGivenNames y; subst y)
    | with_reducible apply State.until_keeps
    | with_reducible apply State.setLl_keeps
    | with_reducible apply State.cntRec_keeps
    | with_reducible apply State.answered_keeps
    | with_reducible apply Keeps.ite
    | split
    | (with_reducible refine Keeps.foldl ?_ (fun u x h => ?_))

theorem State.uplinkAccept_keeps {k0 : Nat} {r0 : State} (s : State) (i : Nat) (f : List (BitVec 64)) (hr : Keeps k0 r0 s) (hm : Sub 824634245260 k0 := by exact hm.of (by decide)) : Keeps k0 r0 (State.uplinkAccept s i f) := by
  unfold State.uplinkAccept
  repeat' first
    | with_reducible assumption
    | exact hm.of (by decide)
    | (extract_lets +onlyGivenNames y; have hy : Keeps k0 r0 y := ?_; clear_value y; rotate_left; subst y)
    | (extract_lets +onlyGivenNames y; have hy : Keeps k0 r0 y.1 := ?_; clear_value y; rotate_left; subst y)
    | (extract_lets +onlyGivenNames y; clear_value y)
    | (extract_lets +onlyGivenNames y; subst y)
    | with_reducible apply State.storeUplink_keeps
    | with_reducible apply State.cntRec_keeps
    | with_reducible apply State.setLink_keeps
    | with_reducible apply State.cnt_keeps
    | with_reducible apply State.raise_keeps
    | with_reducible apply State.insertStep_keeps
    | with_reducible apply Keeps.ite
    | split

theorem State.uplinkTake_keeps {k0 : Nat} {r0 : State} (s : State) (k : Nat) (f : List (BitVec 64)) (hr : Keeps k0 r0 s) (hm : Sub 824635293836 k0 := by exact hm.of (by decide)) : Keeps k0 r0 (State.uplinkTake s k f) := by
  unfold State.uplinkTake
  repeat' first
    | with_reducible assumption
    | exact hm.of (by decide)
    | (extract_lets +onlyGivenNames y; have hy : Keeps k0 r0 y := ?_; clear_value y; rotate_left; subst y)
    | (extract_lets +onlyGivenNames y; have hy : Keeps k0 r0 y.1 := ?_; clear_value y; rotate_left; subst y)
    | (extract_lets +onlyGivenNames y; clear_value y)
    | (extract_lets +onlyGivenNames y; subst y)
    | with_reducible apply State.cnt_keeps
    | with_reducible apply State.cntRec_keeps
    | with_reducible apply State.enumUplink_keeps
    | with_reducible apply State.uplinkAccept_keeps
    | with_reducible apply Keeps.ite
    | split

theorem State.lateUplinks_keeps {k0 : Nat} {r0 : State} (s : State) (n : Nat) (hr : Keeps k0 r0 s) (hm : Sub 1048584 k0 := by exact hm.of (by decide)) : Keeps k0 r0 (State.lateUplinks s n) := by
  unfold State.lateUplinks
  repeat' first
    | with_reducible assumption
    | exact hm.of (by decide)
    | (extract_lets +onlyGivenNames y; have hy : Keeps k0 r0 y := ?_; clear_value y; rotate_left; subst y)
    | (extract_lets +onlyGivenNames y; have hy : Keeps k0 r0 y.1 := ?_; clear_value y; rotate_left; subst y)
    | (extract_lets +onlyGivenNames y; clear_value y)
    | (extract_lets +onlyGivenNames y; subst y)
    | with_reducible apply State.setLl_keeps
    | with_reducible apply State.setRecF_keeps
    | with_reducible apply State.cntRec_keeps
    | with_reducible apply Keeps.ite
    | split
    | (with_reducible refine Keeps.foldl ?_ (fun u x h => ?_))

theorem execUplinkCutoff_keeps {k0 : Nat} {r0 : State} (n : Fin 48) (s : State) (hr : Keeps k0 r0 s) (hm : Sub 403701770 k0 := by exact hm.of (by decide)) : KeepsO k0 r0 (execUplinkCutoff n s) := by
  unfold execUplinkCutoff
  repeat' first
    | with_reducible assumption
    | exact hm.of (by decide)
    | with_reducible apply KeepsO.next
    | with_reducible apply State.untilCtb_keeps
    | with_reducible apply State.lateUplinks_keeps

theorem State.stallFault_keeps {k0 : Nat} {r0 : State} (s : State) (i bit : Nat) (hr : Keeps k0 r0 s) (hm : Sub 274878431244 k0 := by exact hm.of (by decide)) : Keeps k0 r0 (State.stallFault s i bit) := by
  unfold State.stallFault
  repeat' first
    | with_reducible assumption
    | exact hm.of (by decide)
    | (extract_lets +onlyGivenNames y; have hy : Keeps k0 r0 y := ?_; clear_value y; rotate_left; subst y)
    | (extract_lets +onlyGivenNames y; have hy : Keeps k0 r0 y.1 := ?_; clear_value y; rotate_left; subst y)
    | (extract_lets +onlyGivenNames y; clear_value y)
    | (extract_lets +onlyGivenNames y; subst y)
    | with_reducible apply State.setRecF_keeps
    | with_reducible apply State.setLk_keeps
    | with_reducible apply State.setLink_keeps
    | with_reducible apply State.stallEvent_keeps

theorem State.judgeLink_keeps {k0 : Nat} {r0 : State} (s : State) (i : Nat) (hr : Keeps k0 r0 s) (hm : Sub 274878431244 k0 := by exact hm.of (by decide)) : Keeps k0 r0 (State.judgeLink s i) := by
  unfold State.judgeLink
  repeat' first
    | with_reducible assumption
    | exact hm.of (by decide)
    | (extract_lets +onlyGivenNames y; have hy : Keeps k0 r0 y := ?_; clear_value y; rotate_left; subst y)
    | (extract_lets +onlyGivenNames y; have hy : Keeps k0 r0 y.1 := ?_; clear_value y; rotate_left; subst y)
    | (extract_lets +onlyGivenNames y; clear_value y)
    | (extract_lets +onlyGivenNames y; subst y)
    | with_reducible apply State.setLink_keeps
    | with_reducible apply State.stallFault_keeps
    | with_reducible apply Keeps.ite
    | split

theorem State.stallLastingWrite_keeps {k0 : Nat} {r0 : State} (s : State) (i : Nat) (hr : Keeps k0 r0 s) (hm : Sub 274879480332 k0 := by exact hm.of (by decide)) : Keeps k0 r0 (State.stallLastingWrite s i) := by
  unfold State.stallLastingWrite
  repeat' first
    | with_reducible assumption
    | exact hm.of (by decide)
    | (extract_lets +onlyGivenNames y; have hy : Keeps k0 r0 y := ?_; clear_value y; rotate_left; subst y)
    | (extract_lets +onlyGivenNames y; have hy : Keeps k0 r0 y.1 := ?_; clear_value y; rotate_left; subst y)
    | (extract_lets +onlyGivenNames y; clear_value y)
    | (extract_lets +onlyGivenNames y; subst y)
    | with_reducible apply State.cntRec_keeps
    | with_reducible apply State.setRecF_keeps
    | with_reducible apply State.setLk_keeps
    | with_reducible apply State.setLink_keeps
    | with_reducible apply State.describe_keeps
    | with_reducible apply State.enumAsk_keeps
    | with_reducible apply Keeps.ite
    | split

theorem execStallLastingClear_keeps {k0 : Nat} {r0 : State} (i : Fin 192) (s : State) (hr : Keeps k0 r0 s) (hm : Sub 274879480332 k0 := by exact hm.of (by decide)) : KeepsO k0 r0 (execStallLastingClear i s) := by
  unfold execStallLastingClear
  repeat' first
    | with_reducible assumption
    | exact hm.of (by decide)
    | with_reducible apply KeepsO.next
    | with_reducible apply State.stallLastingWrite_keeps

theorem State.insertRequest_keeps {k0 : Nat} {r0 : State} (s : State) (i : Nat) (w : Nat) (hr : Keeps k0 r0 s) (hm : Sub 274879480332 k0 := by exact hm.of (by decide)) : Keeps k0 r0 (State.insertRequest s i w) := by
  unfold State.insertRequest
  repeat' first
    | with_reducible assumption
    | exact hm.of (by decide)
    | (extract_lets +onlyGivenNames y; have hy : Keeps k0 r0 y := ?_; clear_value y; rotate_left; subst y)
    | (extract_lets +onlyGivenNames y; have hy : Keeps k0 r0 y.1 := ?_; clear_value y; rotate_left; subst y)
    | (extract_lets +onlyGivenNames y; clear_value y)
    | (extract_lets +onlyGivenNames y; subst y)
    | with_reducible apply State.setRec_keeps
    | with_reducible apply State.insertFail_keeps
    | with_reducible apply State.reportCheck_keeps
    | with_reducible apply State.setLink_keeps
    | with_reducible apply State.insertConfigure_keeps
    | with_reducible apply State.describe_keeps
    | with_reducible apply State.enumAsk_keeps
    | with_reducible apply Keeps.ite
    | split

theorem State.noteLeft_keeps {k0 : Nat} {r0 : State} (s : State) (i : Nat) (hr : Keeps k0 r0 s) (hm : Sub 16777216 k0 := by exact hm.of (by decide)) : Keeps k0 r0 (State.noteLeft s i) := by
  unfold State.noteLeft
  repeat' first
    | with_reducible assumption
    | exact hm.of (by decide)
    | with_reducible apply Keeps.upd_edge

theorem State.removeRequest_keeps {k0 : Nat} {r0 : State} (s : State) (i : Nat) (hr : Keeps k0 r0 s) (hm : Sub 17301512 k0 := by exact hm.of (by decide)) : Keeps k0 r0 (State.removeRequest s i) := by
  unfold State.removeRequest
  repeat' first
    | with_reducible assumption
    | exact hm.of (by decide)
    | (extract_lets +onlyGivenNames y; have hy : Keeps k0 r0 y := ?_; clear_value y; rotate_left; subst y)
    | (extract_lets +onlyGivenNames y; have hy : Keeps k0 r0 y.1 := ?_; clear_value y; rotate_left; subst y)
    | (extract_lets +onlyGivenNames y; clear_value y)
    | (extract_lets +onlyGivenNames y; subst y)
    | with_reducible apply State.disable_keeps
    | with_reducible apply State.noteLeft_keeps
    | with_reducible apply State.setEs_keeps
    | with_reducible apply State.setLk_keeps
    | with_reducible apply State.setLink_keeps
    | with_reducible apply Keeps.ite
    | split

theorem State.stallCfgWrite_keeps {k0 : Nat} {r0 : State} (s : State) (i : Nat) (w : Nat) (hr : Keeps k0 r0 s) (hm : Sub 9251386557164 k0 := by exact hm.of (by decide)) : Keeps k0 r0 (State.stallCfgWrite s i w) := by
  unfold State.stallCfgWrite
  repeat' first
    | with_reducible assumption
    | exact hm.of (by decide)
    | (extract_lets +onlyGivenNames y; have hy : Keeps k0 r0 y := ?_; clear_value y; rotate_left; subst y)
    | (extract_lets +onlyGivenNames y; have hy : Keeps k0 r0 y.1 := ?_; clear_value y; rotate_left; subst y)
    | (extract_lets +onlyGivenNames y; clear_value y)
    | (extract_lets +onlyGivenNames y; subst y)
    | with_reducible apply State.setRec_keeps
    | with_reducible apply State.descAccepted_keeps
    | with_reducible apply State.laneCommon_keeps
    | with_reducible apply State.removeRequest_keeps
    | with_reducible apply State.descDrop_keeps
    | with_reducible apply State.insertRequest_keeps
    | with_reducible apply Keeps.ite
    | split

theorem execStallInsertRequest_keeps {k0 : Nat} {r0 : State} (i : Fin 192) (v : Word) (s : State) (hr : Keeps k0 r0 s) (hm : Sub 9251386557164 k0 := by exact hm.of (by decide)) : KeepsO k0 r0 (execStallInsertRequest i v s) := by
  unfold execStallInsertRequest
  repeat' first
    | with_reducible assumption
    | exact hm.of (by decide)
    | with_reducible apply KeepsO.next
    | with_reducible apply State.stallCfgWrite_keeps

theorem execStallRemoveRequest_keeps {k0 : Nat} {r0 : State} (i : Fin 192) (s : State) (hr : Keeps k0 r0 s) (hm : Sub 9251386557164 k0 := by exact hm.of (by decide)) : KeepsO k0 r0 (execStallRemoveRequest i s) := by
  unfold execStallRemoveRequest
  repeat' first
    | with_reducible assumption
    | exact hm.of (by decide)
    | with_reducible apply KeepsO.next
    | with_reducible apply State.stallCfgWrite_keeps
    | with_reducible apply Keeps.ite
    | split

theorem execInsertReadyTimeout_keeps {k0 : Nat} {r0 : State} (i : Fin 192) (s : State) (hr : Keeps k0 r0 s) (hm : Sub 275281084942 k0 := by exact hm.of (by decide)) : KeepsO k0 r0 (execInsertReadyTimeout i s) := by
  unfold execInsertReadyTimeout
  repeat' first
    | with_reducible assumption
    | exact hm.of (by decide)
    | with_reducible apply KeepsO.next
    | (extract_lets +onlyGivenNames y; have hy : Keeps k0 r0 y := ?_; clear_value y; rotate_left; subst y)
    | (extract_lets +onlyGivenNames y; have hy : Keeps k0 r0 y.1 := ?_; clear_value y; rotate_left; subst y)
    | (extract_lets +onlyGivenNames y; clear_value y)
    | (extract_lets +onlyGivenNames y; subst y)
    | with_reducible apply State.written_keeps
    | with_reducible apply State.until_keeps
    | with_reducible apply State.insertFail_keeps
    | with_reducible apply Keeps.ite
    | split

theorem execPrechargeTimeout_keeps {k0 : Nat} {r0 : State} (i : Fin 192) (s : State) (hr : Keeps k0 r0 s) (hm : Sub 275281084430 k0 := by exact hm.of (by decide)) : KeepsO k0 r0 (execPrechargeTimeout i s) := by
  unfold execPrechargeTimeout
  repeat' first
    | with_reducible assumption
    | exact hm.of (by decide)
    | with_reducible apply KeepsO.next
    | (extract_lets +onlyGivenNames y; have hy : Keeps k0 r0 y := ?_; clear_value y; rotate_left; subst y)
    | (extract_lets +onlyGivenNames y; have hy : Keeps k0 r0 y.1 := ?_; clear_value y; rotate_left; subst y)
    | (extract_lets +onlyGivenNames y; clear_value y)
    | (extract_lets +onlyGivenNames y; subst y)
    | with_reducible apply State.until_keeps
    | with_reducible apply State.stallFault_keeps
    | with_reducible apply Keeps.ite
    | split

theorem execRemovalComplete_keeps {k0 : Nat} {r0 : State} (i : Fin 192) (s : State) (hr : Keeps k0 r0 s) (hm : Sub 274878431244 k0 := by exact hm.of (by decide)) : KeepsO k0 r0 (execRemovalComplete i s) := by
  unfold execRemovalComplete
  repeat' first
    | with_reducible assumption
    | exact hm.of (by decide)
    | with_reducible apply KeepsO.next
    | (extract_lets +onlyGivenNames y; have hy : Keeps k0 r0 y := ?_; clear_value y; rotate_left; subst y)
    | (extract_lets +onlyGivenNames y; have hy : Keeps k0 r0 y.1 := ?_; clear_value y; rotate_left; subst y)
    | (extract_lets +onlyGivenNames y; clear_value y)
    | (extract_lets +onlyGivenNames y; subst y)
    | with_reducible apply State.setLk_keeps
    | with_reducible apply State.setLink_keeps
    | with_reducible apply State.stallEvent_keeps
    | with_reducible apply Keeps.ite
    | split

theorem State.copyDown_keeps {k0 : Nat} {r0 : State} (s : State) (i : Nat) (x : Sched) (hr : Keeps k0 r0 s) (hm : Sub 8 k0 := by exact hm.of (by decide)) : Keeps k0 r0 (State.copyDown s i x) := by
  unfold State.copyDown
  repeat' first
    | with_reducible assumption
    | exact hm.of (by decide)
    | (extract_lets +onlyGivenNames y; have hy : Keeps k0 r0 y := ?_; clear_value y; rotate_left; subst y)
    | (extract_lets +onlyGivenNames y; have hy : Keeps k0 r0 y.1 := ?_; clear_value y; rotate_left; subst y)
    | (extract_lets +onlyGivenNames y; clear_value y)
    | (extract_lets +onlyGivenNames y; subst y)
    | with_reducible apply State.setRec_keeps
    | (with_reducible refine Keeps.foldl ?_ (fun u x h => ?_))

theorem State.edgeSent_keeps {k0 : Nat} {r0 : State} (s : State) (i : Nat) (byp : Bool) (hr : Keeps k0 r0 s) (hm : Sub 16777216 k0 := by exact hm.of (by decide)) : Keeps k0 r0 (State.edgeSent s i byp) := by
  unfold State.edgeSent
  repeat' first
    | with_reducible assumption
    | exact hm.of (by decide)
    | (extract_lets +onlyGivenNames y; have hy : Keeps k0 r0 y := ?_; clear_value y; rotate_left; subst y)
    | (extract_lets +onlyGivenNames y; have hy : Keeps k0 r0 y.1 := ?_; clear_value y; rotate_left; subst y)
    | (extract_lets +onlyGivenNames y; clear_value y)
    | (extract_lets +onlyGivenNames y; subst y)
    | with_reducible apply Keeps.upd_edge

theorem State.edgeSkipped_keeps {k0 : Nat} {r0 : State} (s : State) (i : Nat) (hr : Keeps k0 r0 s) (hm : Sub 16777216 k0 := by exact hm.of (by decide)) : Keeps k0 r0 (State.edgeSkipped s i) := by
  unfold State.edgeSkipped
  repeat' first
    | with_reducible assumption
    | exact hm.of (by decide)
    | (extract_lets +onlyGivenNames y; have hy : Keeps k0 r0 y := ?_; clear_value y; rotate_left; subst y)
    | (extract_lets +onlyGivenNames y; have hy : Keeps k0 r0 y.1 := ?_; clear_value y; rotate_left; subst y)
    | (extract_lets +onlyGivenNames y; clear_value y)
    | (extract_lets +onlyGivenNames y; subst y)
    | with_reducible apply Keeps.upd_edge

theorem State.skipSched_keeps {k0 : Nat} {r0 : State} (s : State) (i : Nat) (hr : Keeps k0 r0 s) (hm : Sub 16777224 k0 := by exact hm.of (by decide)) : Keeps k0 r0 (State.skipSched s i) := by
  unfold State.skipSched
  repeat' first
    | with_reducible assumption
    | exact hm.of (by decide)
    | with_reducible apply State.cntRec_keeps
    | with_reducible apply State.edgeSkipped_keeps

theorem State.sendSched_keeps {k0 : Nat} {r0 : State} (s : State) (n i : Nat) (x : Sched) (hr : Keeps k0 r0 s) (hm : Sub 25690184 k0 := by exact hm.of (by decide)) : Keeps k0 r0 (State.sendSched s n i x) := by
  unfold State.sendSched
  repeat' first
    | with_reducible assumption
    | exact hm.of (by decide)
    | (extract_lets +onlyGivenNames y; have hy : Keeps k0 r0 y := ?_; clear_value y; rotate_left; subst y)
    | (extract_lets +onlyGivenNames y; have hy : Keeps k0 r0 y.1 := ?_; clear_value y; rotate_left; subst y)
    | (extract_lets +onlyGivenNames y; clear_value y)
    | (extract_lets +onlyGivenNames y; subst y)
    | with_reducible apply State.setLink_keeps
    | with_reducible apply State.copyDown_keeps
    | with_reducible apply State.cntRec_keeps
    | with_reducible apply State.sendAt_keeps
    | with_reducible apply State.edgeSent_keeps
    | with_reducible apply State.skipSched_keeps
    | with_reducible apply Keeps.ite
    | split

theorem execSchedTransmit_keeps {k0 : Nat} {r0 : State} (n : Fin 48) (i : Fin 192) (ref : Bool) (s : State) (hr : Keeps k0 r0 s) (hm : Sub 25690184 k0 := by exact hm.of (by decide)) : KeepsO k0 r0 (execSchedTransmit n i ref s) := by
  unfold execSchedTransmit
  repeat' first
    | with_reducible assumption
    | exact hm.of (by decide)
    | with_reducible apply KeepsO.next
    | with_reducible apply State.sendSched_keeps
    | with_reducible apply Keeps.ite
    | split

theorem execEchoRspReceived_keeps {k0 : Nat} {r0 : State} (n : Fin 50) (payload : BitVec 64) (rt : Nat) (s : State) (hr : Keeps k0 r0 s) (hm : Sub 274887869068 k0 := by exact hm.of (by decide)) : KeepsO k0 r0 (execEchoRspReceived n payload rt s) := by
  unfold execEchoRspReceived
  repeat' first
    | with_reducible assumption
    | exact hm.of (by decide)
    | with_reducible apply KeepsO.next
    | (extract_lets +onlyGivenNames y; have hy : Keeps k0 r0 y := ?_; clear_value y; rotate_left; subst y)
    | (extract_lets +onlyGivenNames y; have hy : Keeps k0 r0 y.1 := ?_; clear_value y; rotate_left; subst y)
    | (extract_lets +onlyGivenNames y; clear_value y)
    | (extract_lets +onlyGivenNames y; subst y)
    | with_reducible apply State.setLane_keeps
    | with_reducible apply State.echoRsp_keeps
    | with_reducible apply State.enumLane_keeps
    | with_reducible apply Keeps.ite
    | split

theorem State.recordWrite_keeps {k0 : Nat} {r0 : State} (s : State) (i o : Nat) (w : Word) (be : BitVec 4) (hw : SameCycle) (hr : Keeps k0 r0 s) (hm : Sub 9251386557164 k0 := by exact hm.of (by decide)) : Keeps k0 r0 (State.recordWrite s i o w be hw) := by
  unfold State.recordWrite
  repeat' first
    | with_reducible assumption
    | exact hm.of (by decide)
    | (extract_lets +onlyGivenNames y; have hy : Keeps k0 r0 y := ?_; clear_value y; rotate_left; subst y)
    | (extract_lets +onlyGivenNames y; have hy : Keeps k0 r0 y.1 := ?_; clear_value y; rotate_left; subst y)
    | (extract_lets +onlyGivenNames y; clear_value y)
    | (extract_lets +onlyGivenNames y; subst y)
    | with_reducible apply State.disable_keeps
    | with_reducible apply State.setLink_keeps
    | with_reducible apply State.stallCfgWrite_keeps
    | with_reducible apply State.descDrop_keeps
    | with_reducible apply State.setRec_keeps
    | with_reducible apply State.replaceNode_keeps
    | with_reducible apply State.laneCommon_keeps
    | with_reducible apply State.descAccepted_keeps
    | with_reducible apply State.stallFault_keeps
    | with_reducible apply State.stallLastingWrite_keeps
    | with_reducible apply Keeps.ite
    | split

theorem State.tableWrite_keeps {k0 : Nat} {r0 : State} (s : State) (a : Nat) (hw : SameCycle) (l : List (Word × BitVec 4)) (hr : Keeps k0 r0 s) (hm : Sub 9251386557164 k0 := by exact hm.of (by decide)) : Keeps k0 r0 (s.tableWrite a hw l) := by
  induction l generalizing s a hw with
  | nil => exact hr
  | cons x t ih =>
    unfold State.tableWrite
    refine ih _ _ _ ?_
    split
    · exact hr
    · exact State.recordWrite_keeps _ _ _ _ _ _ hr

theorem execStallRecordWrite_keeps {k0 : Nat} {r0 : State} (w : WriteReq × SameCycle) (s : State) (hr : Keeps k0 r0 s) (hm : Sub 9251386557164 k0 := by exact hm.of (by decide)) : KeepsO k0 r0 (execStallRecordWrite w s) := by
  unfold execStallRecordWrite
  repeat' first
    | with_reducible assumption
    | exact hm.of (by decide)
    | with_reducible apply KeepsO.next
    | with_reducible apply State.tableWrite_keeps
    | with_reducible apply Keeps.ite
    | split

end Sys2Proof.Machine
end

