-- ==== Sys2Proof/Laws/KeepsBal.lean ====
section
/-! SUPPORT. The operations of Machine/Bal.lean leave the queue alone and keep the canonical form of the stores. -/

set_option linter.unusedTactic false
set_option linter.unreachableTactic false

namespace Sys2Proof.Machine

theorem State.setBs_keeps {k0 : Nat} {r0 : State} (s : State) (i : Nat) (x : BalS) (hr : Keeps k0 r0 s) (hm : Sub 33554432 k0 := by exact hm.of (by decide)) : Keeps k0 r0 (State.setBs s i x) := by
  unfold State.setBs
  repeat' first
    | with_reducible assumption
    | exact hm.of (by decide)
    | with_reducible apply Keeps.upd_bal

theorem State.setBa_keeps {k0 : Nat} {r0 : State} (s : State) (a : Nat) (x : BalA) (hr : Keeps k0 r0 s) (hm : Sub 33554432 k0 := by exact hm.of (by decide)) : Keeps k0 r0 (State.setBa s a x) := by
  unfold State.setBa
  repeat' first
    | with_reducible assumption
    | exact hm.of (by decide)
    | with_reducible apply Keeps.upd_bal

theorem State.balSample_keeps {k0 : Nat} {r0 : State} (s : State) (hr : Keeps k0 r0 s) (hm : Sub 33554432 k0 := by exact hm.of (by decide)) : Keeps k0 r0 (State.balSample s) := by
  unfold State.balSample
  repeat' first
    | with_reducible assumption
    | exact hm.of (by decide)
    | with_reducible apply Keeps.upd_bal

theorem State.latchOne_keeps {k0 : Nat} {r0 : State} (s : State) (i : Nat) (hr : Keeps k0 r0 s) (hm : Sub 274911985676 k0 := by exact hm.of (by decide)) : Keeps k0 r0 (State.latchOne s i) := by
  unfold State.latchOne
  repeat' first
    | with_reducible assumption
    | exact hm.of (by decide)
    | (extract_lets +onlyGivenNames y; have hy : Keeps k0 r0 y := ?_; clear_value y; rotate_left; subst y)
    | (extract_lets +onlyGivenNames y; have hy : Keeps k0 r0 y.1 := ?_; clear_value y; rotate_left; subst y)
    | (extract_lets +onlyGivenNames y; clear_value y)
    | (extract_lets +onlyGivenNames y; subst y)
    | with_reducible apply State.setInSort_keeps
    | with_reducible apply State.setBs_keeps
    | with_reducible apply State.setLk_keeps
    | with_reducible apply State.setLink_keeps
    | with_reducible apply State.stallEvent_keeps
    | with_reducible apply Keeps.ite
    | split

theorem State.balStall_keeps {k0 : Nat} {r0 : State} (s : State) (i : Nat) (joins first : Bool) (hr : Keeps k0 r0 s) (hm : Sub 274911461380 k0 := by exact hm.of (by decide)) : Keeps k0 r0 (State.balStall s i joins first) := by
  unfold State.balStall
  repeat' first
    | with_reducible assumption
    | exact hm.of (by decide)
    | (extract_lets +onlyGivenNames y; have hy : Keeps k0 r0 y := ?_; clear_value y; rotate_left; subst y)
    | (extract_lets +onlyGivenNames y; have hy : Keeps k0 r0 y.1 := ?_; clear_value y; rotate_left; subst y)
    | (extract_lets +onlyGivenNames y; clear_value y)
    | (extract_lets +onlyGivenNames y; subst y)
    | with_reducible apply State.cnt_keeps
    | with_reducible apply State.raise_keeps
    | with_reducible apply State.setBs_keeps
    | with_reducible apply Keeps.ite
    | split

theorem State.rejoinArm_keeps {k0 : Nat} {r0 : State} (s : State) (a : Nat) (hr : Keeps k0 r0 s) (hm : Sub 33554432 k0 := by exact hm.of (by decide)) : Keeps k0 r0 (State.rejoinArm s a) := by
  unfold State.rejoinArm
  repeat' first
    | with_reducible assumption
    | exact hm.of (by decide)
    | (extract_lets +onlyGivenNames y; have hy : Keeps k0 r0 y := ?_; clear_value y; rotate_left; subst y)
    | (extract_lets +onlyGivenNames y; have hy : Keeps k0 r0 y.1 := ?_; clear_value y; rotate_left; subst y)
    | (extract_lets +onlyGivenNames y; clear_value y)
    | (extract_lets +onlyGivenNames y; subst y)
    | with_reducible apply State.setBs_keeps
    | with_reducible apply Keeps.ite
    | split
    | (with_reducible refine Keeps.foldl ?_ (fun u x h => ?_))

theorem State.balArm_keeps {k0 : Nat} {r0 : State} (s : State) (a : Nat) (first : Bool) (hr : Keeps k0 r0 s) (hm : Sub 274911461380 k0 := by exact hm.of (by decide)) : Keeps k0 r0 (State.balArm s a first) := by
  unfold State.balArm
  repeat' first
    | with_reducible assumption
    | exact hm.of (by decide)
    | (extract_lets +onlyGivenNames y; have hy : Keeps k0 r0 y := ?_; clear_value y; rotate_left; subst y)
    | (extract_lets +onlyGivenNames y; have hy : Keeps k0 r0 y.1 := ?_; clear_value y; rotate_left; subst y)
    | (extract_lets +onlyGivenNames y; clear_value y)
    | (extract_lets +onlyGivenNames y; subst y)
    | with_reducible apply State.rejoinArm_keeps
    | with_reducible apply State.put_keeps
    | with_reducible apply State.raise_keeps
    | with_reducible apply State.setBa_keeps
    | with_reducible apply Keeps.ite
    | split
    | (with_reducible refine Keeps.foldl ?_ (fun u x h => ?_))

theorem State.setArm_keeps {k0 : Nat} {r0 : State} (s : State) (a v : Nat) (hr : Keeps k0 r0 s) (hm : Sub 274911461380 k0 := by exact hm.of (by decide)) : Keeps k0 r0 (State.setArm s a v) := by
  unfold State.setArm
  repeat' first
    | with_reducible assumption
    | exact hm.of (by decide)
    | (extract_lets +onlyGivenNames y; have hy : Keeps k0 r0 y := ?_; clear_value y; rotate_left; subst y)
    | (extract_lets +onlyGivenNames y; have hy : Keeps k0 r0 y.1 := ?_; clear_value y; rotate_left; subst y)
    | (extract_lets +onlyGivenNames y; clear_value y)
    | (extract_lets +onlyGivenNames y; subst y)
    | with_reducible apply State.setBa_keeps
    | with_reducible apply State.raise_keeps
    | with_reducible apply Keeps.ite
    | split

theorem State.presetArm_keeps {k0 : Nat} {r0 : State} (s : State) (a : Nat) (hr : Keeps k0 r0 s) (hm : Sub 67108868 k0 := by exact hm.of (by decide)) : Keeps k0 r0 (State.presetArm s a) := by
  unfold State.presetArm
  repeat' first
    | with_reducible assumption
    | exact hm.of (by decide)
    | with_reducible apply State.setBitOf_keeps
    | with_reducible apply Keeps.upd_cme

theorem State.judgeReset_keeps {k0 : Nat} {r0 : State} (s : State) (a : Nat) (hr : Keeps k0 r0 s) (hm : Sub 274978570244 k0 := by exact hm.of (by decide)) : Keeps k0 r0 (State.judgeReset s a) := by
  unfold State.judgeReset
  repeat' first
    | with_reducible assumption
    | exact hm.of (by decide)
    | (extract_lets +onlyGivenNames y; have hy : Keeps k0 r0 y := ?_; clear_value y; rotate_left; subst y)
    | (extract_lets +onlyGivenNames y; have hy : Keeps k0 r0 y.1 := ?_; clear_value y; rotate_left; subst y)
    | (extract_lets +onlyGivenNames y; clear_value y)
    | (extract_lets +onlyGivenNames y; subst y)
    | with_reducible apply State.put_keeps
    | with_reducible apply State.cnt_keeps
    | with_reducible apply State.raise_keeps
    | with_reducible apply State.setBa_keeps
    | with_reducible apply State.presetArm_keeps
    | with_reducible apply State.setArm_keeps
    | with_reducible apply Keeps.ite
    | split

theorem State.armStep_keeps {k0 : Nat} {r0 : State} (s : State) (a : Nat) (hr : Keeps k0 r0 s) (hm : Sub 274978570244 k0 := by exact hm.of (by decide)) : Keeps k0 r0 (State.armStep s a) := by
  unfold State.armStep
  repeat' first
    | with_reducible assumption
    | exact hm.of (by decide)
    | (extract_lets +onlyGivenNames y; have hy : Keeps k0 r0 y := ?_; clear_value y; rotate_left; subst y)
    | (extract_lets +onlyGivenNames y; have hy : Keeps k0 r0 y.1 := ?_; clear_value y; rotate_left; subst y)
    | (extract_lets +onlyGivenNames y; clear_value y)
    | (extract_lets +onlyGivenNames y; subst y)
    | with_reducible apply State.setBa_keeps
    | with_reducible apply State.judgeReset_keeps
    | with_reducible apply State.setArm_keeps
    | with_reducible apply Keeps.ite
    | split

theorem State.balReload_keeps {k0 : Nat} {r0 : State} (s : State) (hr : Keeps k0 r0 s) (hm : Sub 274979094540 k0 := by exact hm.of (by decide)) : Keeps k0 r0 (State.balReload s) := by
  unfold State.balReload
  repeat' first
    | with_reducible assumption
    | exact hm.of (by decide)
    | (extract_lets +onlyGivenNames y; have hy : Keeps k0 r0 y := ?_; clear_value y; rotate_left; subst y)
    | (extract_lets +onlyGivenNames y; have hy : Keeps k0 r0 y.1 := ?_; clear_value y; rotate_left; subst y)
    | (extract_lets +onlyGivenNames y; clear_value y)
    | (extract_lets +onlyGivenNames y; subst y)
    | with_reducible apply State.latchOne_keeps
    | with_reducible apply State.balStall_keeps
    | with_reducible apply State.setBa_keeps
    | with_reducible apply State.balArm_keeps
    | with_reducible apply State.armStep_keeps
    | with_reducible apply Keeps.ite
    | split
    | (with_reducible refine Keeps.foldl ?_ (fun u x h => ?_))
    | with_reducible apply Keeps.upd_bal

theorem State.deliverArm_keeps {k0 : Nat} {r0 : State} (s : State) (a : Nat) (failed : Bool) (hr : Keeps k0 r0 s) (hm : Sub 274911461380 k0 := by exact hm.of (by decide)) : Keeps k0 r0 (State.deliverArm s a failed) := by
  unfold State.deliverArm
  repeat' first
    | with_reducible assumption
    | exact hm.of (by decide)
    | (extract_lets +onlyGivenNames y; have hy : Keeps k0 r0 y := ?_; clear_value y; rotate_left; subst y)
    | (extract_lets +onlyGivenNames y; have hy : Keeps k0 r0 y.1 := ?_; clear_value y; rotate_left; subst y)
    | (extract_lets +onlyGivenNames y; clear_value y)
    | (extract_lets +onlyGivenNames y; subst y)
    | with_reducible apply State.put_keeps
    | with_reducible apply State.cnt_keeps
    | with_reducible apply State.raise_keeps
    | with_reducible apply State.setBa_keeps
    | with_reducible apply Keeps.ite
    | split

theorem State.publishStall_keeps {k0 : Nat} {r0 : State} (s : State) (i : Nat) (hr : Keeps k0 r0 s) (hm : Sub 4 k0 := by exact hm.of (by decide)) : Keeps k0 r0 (State.publishStall s i) := by
  unfold State.publishStall
  repeat' first
    | with_reducible assumption
    | exact hm.of (by decide)
    | (extract_lets +onlyGivenNames y; have hy : Keeps k0 r0 y := ?_; clear_value y; rotate_left; subst y)
    | (extract_lets +onlyGivenNames y; have hy : Keeps k0 r0 y.1 := ?_; clear_value y; rotate_left; subst y)
    | (extract_lets +onlyGivenNames y; clear_value y)
    | (extract_lets +onlyGivenNames y; subst y)
    | with_reducible apply State.cnt_keeps
    | with_reducible apply State.setReg_keeps
    | with_reducible apply Keeps.ite
    | split

theorem State.publishArm_keeps {k0 : Nat} {r0 : State} (s : State) (a : Nat) (hr : Keeps k0 r0 s) (hm : Sub 4 k0 := by exact hm.of (by decide)) : Keeps k0 r0 (State.publishArm s a) := by
  unfold State.publishArm
  repeat' first
    | with_reducible assumption
    | exact hm.of (by decide)
    | (extract_lets +onlyGivenNames y; have hy : Keeps k0 r0 y := ?_; clear_value y; rotate_left; subst y)
    | (extract_lets +onlyGivenNames y; have hy : Keeps k0 r0 y.1 := ?_; clear_value y; rotate_left; subst y)
    | (extract_lets +onlyGivenNames y; clear_value y)
    | (extract_lets +onlyGivenNames y; subst y)
    | with_reducible apply State.setReg_keeps

theorem execBalanceDelivery_keeps {k0 : Nat} {r0 : State} (fail : BitVec 6) (s : State) (hr : Keeps k0 r0 s) (hm : Sub 824667275268 k0 := by exact hm.of (by decide)) : KeepsO k0 r0 (execBalanceDelivery fail s) := by
  unfold execBalanceDelivery
  repeat' first
    | with_reducible assumption
    | exact hm.of (by decide)
    | with_reducible apply KeepsO.next
    | (extract_lets +onlyGivenNames y; have hy : Keeps k0 r0 y := ?_; clear_value y; rotate_left; subst y)
    | (extract_lets +onlyGivenNames y; have hy : Keeps k0 r0 y.1 := ?_; clear_value y; rotate_left; subst y)
    | (extract_lets +onlyGivenNames y; clear_value y)
    | (extract_lets +onlyGivenNames y; subst y)
    | with_reducible apply State.deliverArm_keeps
    | with_reducible apply State.put_keeps
    | with_reducible apply State.publishStall_keeps
    | with_reducible apply State.publishArm_keeps
    | with_reducible apply State.unpoison_keeps
    | with_reducible apply Keeps.ite
    | split
    | (with_reducible refine Keeps.foldl ?_ (fun u x h => ?_))
    | with_reducible apply Keeps.upd_bal

theorem State.armResetAsk_keeps {k0 : Nat} {r0 : State} (s : State) (v : Nat) (hr : Keeps k0 r0 s) (hm : Sub 33554432 k0 := by exact hm.of (by decide)) : Keeps k0 r0 (State.armResetAsk s v) := by
  unfold State.armResetAsk
  repeat' first
    | with_reducible assumption
    | exact hm.of (by decide)
    | with_reducible apply State.setBa_keeps
    | (with_reducible refine Keeps.foldl ?_ (fun u x h => ?_))

theorem execArmResetRequest_keeps {k0 : Nat} {r0 : State} (v : BitVec 6) (s : State) (hr : Keeps k0 r0 s) (hm : Sub 33554436 k0 := by exact hm.of (by decide)) : KeepsO k0 r0 (execArmResetRequest v s) := by
  unfold execArmResetRequest
  repeat' first
    | with_reducible assumption
    | exact hm.of (by decide)
    | with_reducible apply KeepsO.next
    | with_reducible apply State.put_keeps
    | with_reducible apply State.armResetAsk_keeps

end Sys2Proof.Machine
end

