-- ==== Sys2Proof/Laws/KeepsEdge.lean ====
section
/-! SUPPORT. The operations of Machine/Edge.lean leave the queue alone and keep the canonical form of the stores. -/

set_option linter.unusedTactic false
set_option linter.unreachableTactic false

namespace Sys2Proof.Machine

theorem State.setEa_keeps {k0 : Nat} {r0 : State} (s : State) (a : Nat) (x : EdgeA) (hr : Keeps k0 r0 s) (hm : Sub 16777216 k0 := by exact hm.of (by decide)) : Keeps k0 r0 (State.setEa s a x) := by
  unfold State.setEa
  repeat' first
    | with_reducible assumption
    | exact hm.of (by decide)
    | with_reducible apply Keeps.upd_edge

theorem State.concludeCommit_keeps {k0 : Nat} {r0 : State} (s : State) (m : KMap Word) (live : Bool) (p : Nat) (hr : Keeps k0 r0 s) (hm : Sub 274894684676 k0 := by exact hm.of (by decide)) : Keeps k0 r0 (State.concludeCommit s m live p) := by
  unfold State.concludeCommit
  repeat' first
    | with_reducible assumption
    | exact hm.of (by decide)
    | (extract_lets +onlyGivenNames y; have hy : Keeps k0 r0 y := ?_; clear_value y; rotate_left; subst y)
    | (extract_lets +onlyGivenNames y; have hy : Keeps k0 r0 y.1 := ?_; clear_value y; rotate_left; subst y)
    | (extract_lets +onlyGivenNames y; clear_value y)
    | (extract_lets +onlyGivenNames y; subst y)
    | with_reducible apply State.complete_keeps
    | with_reducible apply State.put_keeps
    | with_reducible apply State.raise_keeps
    | with_reducible apply State.cnt_keeps
    | with_reducible apply Keeps.ite
    | split
    | with_reducible apply Keeps.upd_edge

theorem State.edgeCommit_keeps {k0 : Nat} {r0 : State} (s : State) (hr : Keeps k0 r0 s) (hm : Sub 274894684676 k0 := by exact hm.of (by decide)) : Keeps k0 r0 (State.edgeCommit s) := by
  unfold State.edgeCommit
  repeat' first
    | with_reducible assumption
    | exact hm.of (by decide)
    | with_reducible apply State.put_keeps
    | with_reducible apply State.concludeCommit_keeps
    | with_reducible apply Keeps.ite
    | split

theorem execEdgeCommit_keeps {k0 : Nat} {r0 : State} (s : State) (hr : Keeps k0 r0 s) (hm : Sub 274894684676 k0 := by exact hm.of (by decide)) : KeepsO k0 r0 (execEdgeCommit s) := by
  unfold execEdgeCommit
  repeat' first
    | with_reducible assumption
    | exact hm.of (by decide)
    | with_reducible apply KeepsO.next
    | with_reducible apply State.edgeCommit_keeps

theorem State.holdUpdate_keeps {k0 : Nat} {r0 : State} (s : State) (hr : Keeps k0 r0 s) (hm : Sub 274945015812 k0 := by exact hm.of (by decide)) : Keeps k0 r0 (State.holdUpdate s) := by
  unfold State.holdUpdate
  repeat' first
    | with_reducible assumption
    | exact hm.of (by decide)
    | (extract_lets +onlyGivenNames y; have hy : Keeps k0 r0 y := ?_; clear_value y; rotate_left; subst y)
    | (extract_lets +onlyGivenNames y; have hy : Keeps k0 r0 y.1 := ?_; clear_value y; rotate_left; subst y)
    | (extract_lets +onlyGivenNames y; clear_value y)
    | (extract_lets +onlyGivenNames y; subst y)
    | with_reducible apply State.hold_keeps
    | with_reducible apply State.put_keeps
    | with_reducible apply State.raise_keeps
    | with_reducible apply State.presetArm_keeps
    | with_reducible apply Keeps.ite
    | split
    | (with_reducible refine Keeps.foldl ?_ (fun u x h => ?_))

theorem State.cutoffSample_keeps {k0 : Nat} {r0 : State} (s : State) (hr : Keeps k0 r0 s) (hm : Sub 9071092564484 k0 := by exact hm.of (by decide)) : Keeps k0 r0 (State.cutoffSample s) := by
  unfold State.cutoffSample
  repeat' first
    | with_reducible assumption
    | exact hm.of (by decide)
    | (extract_lets +onlyGivenNames y; have hy : Keeps k0 r0 y := ?_; clear_value y; rotate_left; subst y)
    | (extract_lets +onlyGivenNames y; have hy : Keeps k0 r0 y.1 := ?_; clear_value y; rotate_left; subst y)
    | (extract_lets +onlyGivenNames y; clear_value y)
    | (extract_lets +onlyGivenNames y; subst y)
    | with_reducible apply State.hold_keeps
    | with_reducible apply State.balSample_keeps
    | with_reducible apply State.holdUpdate_keeps
    | with_reducible apply State.startRes_keeps
    | with_reducible apply State.put_keeps
    | with_reducible apply Keeps.ite
    | split
    | with_reducible apply Keeps.upd_convNext_edge_pair
    | with_reducible apply Keeps.upd_edge

theorem execEdgeCutoff_keeps {k0 : Nat} {r0 : State} (s : State) (hr : Keeps k0 r0 s) (hm : Sub 9071495217670 k0 := by exact hm.of (by decide)) : KeepsO k0 r0 (execEdgeCutoff s) := by
  unfold execEdgeCutoff
  repeat' first
    | with_reducible assumption
    | exact hm.of (by decide)
    | with_reducible apply KeepsO.next
    | with_reducible apply State.untilCtb_keeps
    | with_reducible apply State.cutoffSample_keeps
    | with_reducible apply Keeps.ite
    | split

theorem State.edgeStartCheck_keeps {k0 : Nat} {r0 : State} (s : State) (hr : Keeps k0 r0 s) (hm : Sub 274894684164 k0 := by exact hm.of (by decide)) : Keeps k0 r0 (State.edgeStartCheck s) := by
  unfold State.edgeStartCheck
  repeat' first
    | with_reducible assumption
    | exact hm.of (by decide)
    | (extract_lets +onlyGivenNames y; have hy : Keeps k0 r0 y := ?_; clear_value y; rotate_left; subst y)
    | (extract_lets +onlyGivenNames y; have hy : Keeps k0 r0 y.1 := ?_; clear_value y; rotate_left; subst y)
    | (extract_lets +onlyGivenNames y; clear_value y)
    | (extract_lets +onlyGivenNames y; subst y)
    | with_reducible apply State.raise_keeps
    | with_reducible apply Keeps.ite
    | split
    | (with_reducible refine Keeps.foldl ?_ (fun u x h => ?_))
    | with_reducible apply Keeps.upd_edge

theorem State.fixKinds_keeps {k0 : Nat} {r0 : State} (s : State) (hr : Keeps k0 r0 s) (hm : Sub 16777220 k0 := by exact hm.of (by decide)) : Keeps k0 r0 (State.fixKinds s) := by
  unfold State.fixKinds
  repeat' first
    | with_reducible assumption
    | exact hm.of (by decide)
    | (extract_lets +onlyGivenNames y; have hy : Keeps k0 r0 y := ?_; clear_value y; rotate_left; subst y)
    | (extract_lets +onlyGivenNames y; have hy : Keeps k0 r0 y.1 := ?_; clear_value y; rotate_left; subst y)
    | (extract_lets +onlyGivenNames y; clear_value y)
    | (extract_lets +onlyGivenNames y; subst y)
    | with_reducible apply State.put_keeps
    | with_reducible apply State.setEa_keeps
    | with_reducible apply State.setEs_keeps
    | (with_reducible refine Keeps.foldl ?_ (fun u x h => ?_))
    | with_reducible apply Keeps.upd_edge

theorem State.markStall_keeps {k0 : Nat} {r0 : State} (s : State) (i : Nat) (hr : Keeps k0 r0 s) (hm : Sub 16777216 k0 := by exact hm.of (by decide)) : Keeps k0 r0 (State.markStall s i) := by
  unfold State.markStall
  repeat' first
    | with_reducible assumption
    | exact hm.of (by decide)
    | (extract_lets +onlyGivenNames y; have hy : Keeps k0 r0 y := ?_; clear_value y; rotate_left; subst y)
    | (extract_lets +onlyGivenNames y; have hy : Keeps k0 r0 y.1 := ?_; clear_value y; rotate_left; subst y)
    | (extract_lets +onlyGivenNames y; clear_value y)
    | (extract_lets +onlyGivenNames y; subst y)
    | with_reducible apply State.setEs_keeps
    | with_reducible apply Keeps.ite
    | split

theorem State.markArmAt_keeps {k0 : Nat} {r0 : State} (s : State) (a i : Nat) (hr : Keeps k0 r0 s) (hm : Sub 16777216 k0 := by exact hm.of (by decide)) : Keeps k0 r0 (State.markArmAt s a i) := by
  unfold State.markArmAt
  repeat' first
    | with_reducible assumption
    | exact hm.of (by decide)
    | (extract_lets +onlyGivenNames y; have hy : Keeps k0 r0 y := ?_; clear_value y; rotate_left; subst y)
    | (extract_lets +onlyGivenNames y; have hy : Keeps k0 r0 y.1 := ?_; clear_value y; rotate_left; subst y)
    | (extract_lets +onlyGivenNames y; clear_value y)
    | (extract_lets +onlyGivenNames y; subst y)
    | with_reducible apply State.setEs_keeps
    | with_reducible apply Keeps.ite
    | split

theorem State.markArm_keeps {k0 : Nat} {r0 : State} (s : State) (a : Nat) (hr : Keeps k0 r0 s) (hm : Sub 16777216 k0 := by exact hm.of (by decide)) : Keeps k0 r0 (State.markArm s a) := by
  unfold State.markArm
  repeat' first
    | with_reducible assumption
    | exact hm.of (by decide)
    | with_reducible apply State.markArmAt_keeps
    | (with_reducible refine Keeps.foldl ?_ (fun u x h => ?_))

theorem State.edgeBoundary_keeps {k0 : Nat} {r0 : State} (s : State) (hr : Keeps k0 r0 s) (hm : Sub 16777220 k0 := by exact hm.of (by decide)) : Keeps k0 r0 (State.edgeBoundary s) := by
  unfold State.edgeBoundary
  repeat' first
    | with_reducible assumption
    | exact hm.of (by decide)
    | (extract_lets +onlyGivenNames y; have hy : Keeps k0 r0 y := ?_; clear_value y; rotate_left; subst y)
    | (extract_lets +onlyGivenNames y; have hy : Keeps k0 r0 y.1 := ?_; clear_value y; rotate_left; subst y)
    | (extract_lets +onlyGivenNames y; clear_value y)
    | (extract_lets +onlyGivenNames y; subst y)
    | with_reducible apply State.setEa_keeps
    | with_reducible apply State.setEs_keeps
    | with_reducible apply State.put_keeps
    | with_reducible apply Keeps.ite
    | split
    | (with_reducible refine Keeps.foldl ?_ (fun u x h => ?_))
    | with_reducible apply Keeps.upd_edge

theorem State.note_keeps {k0 : Nat} {r0 : State} (s : State) (fault counter : Fld) (n bit : Nat) (hr : Keeps k0 r0 s) (hm : Sub 274877906948 k0 := by exact hm.of (by decide)) : Keeps k0 r0 (State.note s fault counter n bit) := by
  unfold State.note
  repeat' first
    | with_reducible assumption
    | exact hm.of (by decide)
    | with_reducible apply State.put_keeps
    | with_reducible apply State.cnt_keeps
    | with_reducible apply State.raise_keeps
    | with_reducible apply Keeps.ite
    | split

theorem State.planArm_keeps {k0 : Nat} {r0 : State} (s : State) (a : Nat) (r1 : Int) (hr : Keeps k0 r0 s) (hm : Sub 274894684164 k0 := by exact hm.of (by decide)) : Keeps k0 r0 (State.planArm s a r1) := by
  unfold State.planArm
  repeat' first
    | with_reducible assumption
    | exact hm.of (by decide)
    | (extract_lets +onlyGivenNames y; have hy : Keeps k0 r0 y := ?_; clear_value y; rotate_left; subst y)
    | (extract_lets +onlyGivenNames y; have hy : Keeps k0 r0 y.1 := ?_; clear_value y; rotate_left; subst y)
    | (extract_lets +onlyGivenNames y; clear_value y)
    | (extract_lets +onlyGivenNames y; subst y)
    | with_reducible apply State.setEa_keeps
    | with_reducible apply State.note_keeps
    | with_reducible apply Keeps.ite
    | split

theorem State.noteUsed_keeps {k0 : Nat} {r0 : State} (s : State) (i : Nat) (hr : Keeps k0 r0 s) (hm : Sub 67108864 k0 := by exact hm.of (by decide)) : Keeps k0 r0 (State.noteUsed s i) := by
  unfold State.noteUsed
  repeat' first
    | with_reducible assumption
    | exact hm.of (by decide)
    | (extract_lets +onlyGivenNames y; have hy : Keeps k0 r0 y := ?_; clear_value y; rotate_left; subst y)
    | (extract_lets +onlyGivenNames y; have hy : Keeps k0 r0 y.1 := ?_; clear_value y; rotate_left; subst y)
    | (extract_lets +onlyGivenNames y; clear_value y)
    | (extract_lets +onlyGivenNames y; subst y)
    | with_reducible apply Keeps.ite
    | split
    | (with_reducible refine Keeps.foldl ?_ (fun u x h => ?_))
    | with_reducible apply Keeps.upd_cme

theorem State.compute_keeps {k0 : Nat} {r0 : State} (s : State) (i : Nat) (hr : Keeps k0 r0 s) (hm : Sub 274962317444 k0 := by exact hm.of (by decide)) : Keeps k0 r0 (State.compute s i) := by
  unfold State.compute
  repeat' first
    | with_reducible assumption
    | exact hm.of (by decide)
    | (extract_lets +onlyGivenNames y; have hy : Keeps k0 r0 y := ?_; clear_value y; rotate_left; subst y)
    | (extract_lets +onlyGivenNames y; have hy := fun a => y a; clear hy; subst y; beta_reduce)
    | (extract_lets +onlyGivenNames y; have hy : Keeps k0 r0 y.1 := ?_; clear_value y; rotate_left; subst y)
    | (extract_lets +onlyGivenNames y; clear_value y)
    | (extract_lets +onlyGivenNames y; subst y)
    | with_reducible apply State.noteUsed_keeps
    | with_reducible apply State.setEs_keeps
    | with_reducible apply State.setLink_keeps
    | with_reducible apply State.planArm_keeps
    | with_reducible apply State.note_keeps
    | with_reducible apply State.drew_keeps
    | with_reducible apply Keeps.ite
    | split
    | with_reducible apply Keeps.upd_edge

theorem execScheduleCompute_keeps {k0 : Nat} {r0 : State} (s : State) (hr : Keeps k0 r0 s) (hm : Sub 274962317444 k0 := by exact hm.of (by decide)) : KeepsO k0 r0 (execScheduleCompute s) := by
  unfold execScheduleCompute
  repeat' first
    | with_reducible assumption
    | exact hm.of (by decide)
    | with_reducible apply KeepsO.next
    | with_reducible apply State.compute_keeps
    | with_reducible apply Keeps.ite
    | split

theorem execCommandDeadline_keeps {k0 : Nat} {r0 : State} (i : Fin 192) (s : State) (hr : Keeps k0 r0 s) (hm : Sub 275364970630 k0 := by exact hm.of (by decide)) : KeepsO k0 r0 (execCommandDeadline i s) := by
  unfold execCommandDeadline
  repeat' first
    | with_reducible assumption
    | exact hm.of (by decide)
    | with_reducible apply KeepsO.next
    | (extract_lets +onlyGivenNames y; have hy : Keeps k0 r0 y := ?_; clear_value y; rotate_left; subst y)
    | (extract_lets +onlyGivenNames y; have hy : Keeps k0 r0 y.1 := ?_; clear_value y; rotate_left; subst y)
    | (extract_lets +onlyGivenNames y; clear_value y)
    | (extract_lets +onlyGivenNames y; subst y)
    | with_reducible apply State.untilCtb_keeps
    | with_reducible apply State.note_keeps
    | with_reducible apply State.compute_keeps
    | with_reducible apply Keeps.ite
    | split

end Sys2Proof.Machine
end

