-- ==== Sys2Proof/Laws/KeepsCme.lean ====
section
/-! SUPPORT. The operations of Machine/Cme.lean leave the queue alone and keep the canonical form of the stores. -/

set_option linter.unusedTactic false
set_option linter.unreachableTactic false

namespace Sys2Proof.Machine

theorem State.setEng_keeps {k0 : Nat} {r0 : State} (s : State) (u : EngUnit) (x : EngU) (hr : Keeps k0 r0 s) (hm : Sub 67108864 k0 := by exact hm.of (by decide)) : Keeps k0 r0 (State.setEng s u x) := by
  unfold State.setEng
  repeat' first
    | with_reducible assumption
    | exact hm.of (by decide)
    | with_reducible apply Keeps.ite
    | split
    | with_reducible apply Keeps.upd_cme

theorem State.writeRow_keeps {k0 : Nat} {r0 : State} (s : State) (u : EngUnit) (r : Nat) (m : Nat → Bool) (vals : List Int) (hr : Keeps k0 r0 s) (hm : Sub 549755813896 k0 := by exact hm.of (by decide)) : Keeps k0 r0 (State.writeRow s u r m vals) := by
  unfold State.writeRow
  repeat' first
    | with_reducible assumption
    | exact hm.of (by decide)
    | (extract_lets +onlyGivenNames y; have hy : Keeps k0 r0 y := ?_; clear_value y; rotate_left; subst y)
    | (extract_lets +onlyGivenNames y; have hy : Keeps k0 r0 y.1 := ?_; clear_value y; rotate_left; subst y)
    | (extract_lets +onlyGivenNames y; clear_value y)
    | (extract_lets +onlyGivenNames y; subst y)
    | with_reducible apply State.store_keeps
    | with_reducible apply State.unpoison_keeps
    | with_reducible apply Keeps.ite
    | split
    | (with_reducible refine Keeps.foldl ?_ (fun u x h => ?_))

theorem State.cmeFault_keeps {k0 : Nat} {r0 : State} (s : State) (f : Fld) (hr : Keeps k0 r0 s) (hm : Sub 274877906948 k0 := by exact hm.of (by decide)) : Keeps k0 r0 (State.cmeFault s f) := by
  unfold State.cmeFault
  repeat' first
    | with_reducible assumption
    | exact hm.of (by decide)
    | with_reducible apply State.put_keeps
    | with_reducible apply State.raise_keeps

theorem State.addrErr_keeps {k0 : Nat} {r0 : State} (s : State) (b : Bool) (hr : Keeps k0 r0 s) (hm : Sub 274877906948 k0 := by exact hm.of (by decide)) : Keeps k0 r0 (State.addrErr s b) := by
  unfold State.addrErr
  repeat' first
    | with_reducible assumption
    | exact hm.of (by decide)
    | with_reducible apply State.cmeFault_keeps
    | with_reducible apply Keeps.ite
    | split

theorem State.satFlag_keeps {k0 : Nat} {r0 : State} (s : State) (b : Bool) (hr : Keeps k0 r0 s) (hm : Sub 4 k0 := by exact hm.of (by decide)) : Keeps k0 r0 (State.satFlag s b) := by
  unfold State.satFlag
  repeat' first
    | with_reducible assumption
    | exact hm.of (by decide)
    | with_reducible apply State.put_keeps
    | with_reducible apply State.cnt_keeps
    | with_reducible apply Keeps.ite
    | split

theorem State.ovfFlag_keeps {k0 : Nat} {r0 : State} (s : State) (b : Bool) (hr : Keeps k0 r0 s) (hm : Sub 4 k0 := by exact hm.of (by decide)) : Keeps k0 r0 (State.ovfFlag s b) := by
  unfold State.ovfFlag
  repeat' first
    | with_reducible assumption
    | exact hm.of (by decide)
    | with_reducible apply State.put_keeps
    | with_reducible apply Keeps.ite
    | split

theorem State.opLdc_keeps {k0 : Nat} {r0 : State} (s : State) (u : EngUnit) (d : EInstr) (hr : Keeps k0 r0 s) (hm : Sub 274945015812 k0 := by exact hm.of (by decide)) : Keeps k0 r0 (State.opLdc s u d) := by
  unfold State.opLdc
  repeat' first
    | with_reducible assumption
    | exact hm.of (by decide)
    | (extract_lets +onlyGivenNames y; have hy : Keeps k0 r0 y := ?_; clear_value y; rotate_left; subst y)
    | (extract_lets +onlyGivenNames y; have hy : Keeps k0 r0 y.1 := ?_; clear_value y; rotate_left; subst y)
    | (extract_lets +onlyGivenNames y; clear_value y)
    | (extract_lets +onlyGivenNames y; subst y)
    | with_reducible apply State.setEng_keeps
    | with_reducible apply State.addrErr_keeps

theorem State.opLds_keeps {k0 : Nat} {r0 : State} (s : State) (u : EngUnit) (d : EInstr) (hr : Keeps k0 r0 s) (hm : Sub 274945015812 k0 := by exact hm.of (by decide)) : Keeps k0 r0 (State.opLds s u d) := by
  unfold State.opLds
  repeat' first
    | with_reducible assumption
    | exact hm.of (by decide)
    | (extract_lets +onlyGivenNames y; have hy : Keeps k0 r0 y := ?_; clear_value y; rotate_left; subst y)
    | (extract_lets +onlyGivenNames y; have hy : Keeps k0 r0 y.1 := ?_; clear_value y; rotate_left; subst y)
    | (extract_lets +onlyGivenNames y; clear_value y)
    | (extract_lets +onlyGivenNames y; subst y)
    | with_reducible apply State.setEng_keeps
    | with_reducible apply State.addrErr_keeps

theorem State.opSts_keeps {k0 : Nat} {r0 : State} (s : State) (u : EngUnit) (d : EInstr) (hr : Keeps k0 r0 s) (hm : Sub 824633720844 k0 := by exact hm.of (by decide)) : Keeps k0 r0 (State.opSts s u d) := by
  unfold State.opSts
  repeat' first
    | with_reducible assumption
    | exact hm.of (by decide)
    | (extract_lets +onlyGivenNames y; have hy : Keeps k0 r0 y := ?_; clear_value y; rotate_left; subst y)
    | (extract_lets +onlyGivenNames y; have hy : Keeps k0 r0 y.1 := ?_; clear_value y; rotate_left; subst y)
    | (extract_lets +onlyGivenNames y; clear_value y)
    | (extract_lets +onlyGivenNames y; subst y)
    | with_reducible apply State.writeRow_keeps
    | with_reducible apply State.addrErr_keeps

theorem State.opGath_keeps {k0 : Nat} {r0 : State} (s : State) (u : EngUnit) (d : EInstr) (hr : Keeps k0 r0 s) (hm : Sub 274945015812 k0 := by exact hm.of (by decide)) : Keeps k0 r0 (State.opGath s u d) := by
  unfold State.opGath
  repeat' first
    | with_reducible assumption
    | exact hm.of (by decide)
    | (extract_lets +onlyGivenNames y; have hy : Keeps k0 r0 y := ?_; clear_value y; rotate_left; subst y)
    | (extract_lets +onlyGivenNames y; have hy : Keeps k0 r0 y.1 := ?_; clear_value y; rotate_left; subst y)
    | (extract_lets +onlyGivenNames y; clear_value y)
    | (extract_lets +onlyGivenNames y; subst y)
    | with_reducible apply State.setEng_keeps
    | with_reducible apply State.addrErr_keeps
    | with_reducible apply State.put_keeps
    | with_reducible apply Keeps.ite
    | split
    | (with_reducible refine Keeps.foldl ?_ (fun u x h => ?_))

theorem State.setPend_keeps {k0 : Nat} {r0 : State} (s : State) (u : EngUnit) (j v : Nat) (hr : Keeps k0 r0 s) (hm : Sub 67108864 k0 := by exact hm.of (by decide)) : Keeps k0 r0 (State.setPend s u j v) := by
  unfold State.setPend
  repeat' first
    | with_reducible assumption
    | exact hm.of (by decide)
    | with_reducible apply Keeps.ite
    | split
    | with_reducible apply Keeps.upd_cme

theorem State.scatLane_keeps {k0 : Nat} {r0 : State} (s : State) (u : EngUnit) (i n : Nat) (v : Int) (hr : Keeps k0 r0 s) (hm : Sub 549822922760 k0 := by exact hm.of (by decide)) : Keeps k0 r0 (State.scatLane s u i n v) := by
  unfold State.scatLane
  repeat' first
    | with_reducible assumption
    | exact hm.of (by decide)
    | with_reducible apply State.setPend_keeps
    | with_reducible apply State.store_keeps
    | with_reducible apply State.unpoison_keeps
    | with_reducible apply Keeps.ite
    | split

theorem State.opScat_keeps {k0 : Nat} {r0 : State} (s : State) (u : EngUnit) (d : EInstr) (hr : Keeps k0 r0 s) (hm : Sub 824700829708 k0 := by exact hm.of (by decide)) : Keeps k0 r0 (State.opScat s u d) := by
  unfold State.opScat
  repeat' first
    | with_reducible assumption
    | exact hm.of (by decide)
    | (extract_lets +onlyGivenNames y; have hy : Keeps k0 r0 y := ?_; clear_value y; rotate_left; subst y)
    | (extract_lets +onlyGivenNames y; have hy : Keeps k0 r0 y.1 := ?_; clear_value y; rotate_left; subst y)
    | (extract_lets +onlyGivenNames y; clear_value y)
    | (extract_lets +onlyGivenNames y; subst y)
    | with_reducible apply State.scatLane_keeps
    | with_reducible apply State.addrErr_keeps
    | with_reducible apply Keeps.ite
    | split
    | (with_reducible refine Keeps.foldl ?_ (fun u x h => ?_))

theorem State.commitStallSlots_keeps {k0 : Nat} {r0 : State} (s : State) (i : Nat) (hr : Keeps k0 r0 s) (hm : Sub 549772591112 k0 := by exact hm.of (by decide)) : Keeps k0 r0 (State.commitStallSlots s i) := by
  unfold State.commitStallSlots
  repeat' first
    | with_reducible assumption
    | exact hm.of (by decide)
    | (extract_lets +onlyGivenNames y; have hy : Keeps k0 r0 y := ?_; clear_value y; rotate_left; subst y)
    | (extract_lets +onlyGivenNames y; have hy : Keeps k0 r0 y.1 := ?_; clear_value y; rotate_left; subst y)
    | (extract_lets +onlyGivenNames y; clear_value y)
    | (extract_lets +onlyGivenNames y; subst y)
    | with_reducible apply State.store_keeps
    | with_reducible apply State.unpoison_keeps
    | with_reducible apply State.markStall_keeps
    | (with_reducible refine Keeps.foldl ?_ (fun u x h => ?_))

theorem State.commitArmWords_keeps {k0 : Nat} {r0 : State} (s : State) (a : Nat) (hr : Keeps k0 r0 s) (hm : Sub 83886084 k0 := by exact hm.of (by decide)) : Keeps k0 r0 (State.commitArmWords s a) := by
  unfold State.commitArmWords
  repeat' first
    | with_reducible assumption
    | exact hm.of (by decide)
    | (extract_lets +onlyGivenNames y; have hy : Keeps k0 r0 y := ?_; clear_value y; rotate_left; subst y)
    | (extract_lets +onlyGivenNames y; have hy : Keeps k0 r0 y.1 := ?_; clear_value y; rotate_left; subst y)
    | (extract_lets +onlyGivenNames y; clear_value y)
    | (extract_lets +onlyGivenNames y; subst y)
    | with_reducible apply State.setReg_keeps
    | with_reducible apply State.markArm_keeps
    | with_reducible apply Keeps.ite
    | split
    | (with_reducible refine Keeps.foldl ?_ (fun u x h => ?_))
    | with_reducible apply Keeps.upd_cme

theorem State.shadowStall_keeps {k0 : Nat} {r0 : State} (s : State) (i : Nat) (hr : Keeps k0 r0 s) (hm : Sub 67108864 k0 := by exact hm.of (by decide)) : Keeps k0 r0 (State.shadowStall s i) := by
  unfold State.shadowStall
  repeat' first
    | with_reducible assumption
    | exact hm.of (by decide)
    | (extract_lets +onlyGivenNames y; have hy : Keeps k0 r0 y := ?_; clear_value y; rotate_left; subst y)
    | (extract_lets +onlyGivenNames y; have hy : Keeps k0 r0 y.1 := ?_; clear_value y; rotate_left; subst y)
    | (extract_lets +onlyGivenNames y; clear_value y)
    | (extract_lets +onlyGivenNames y; subst y)
    | with_reducible apply Keeps.ite
    | split
    | (with_reducible refine Keeps.foldl ?_ (fun u x h => ?_))
    | with_reducible apply Keeps.upd_cme

theorem State.shadowArm_keeps {k0 : Nat} {r0 : State} (s : State) (a : Nat) (hr : Keeps k0 r0 s) (hm : Sub 67108864 k0 := by exact hm.of (by decide)) : Keeps k0 r0 (State.shadowArm s a) := by
  unfold State.shadowArm
  repeat' first
    | with_reducible assumption
    | exact hm.of (by decide)
    | (extract_lets +onlyGivenNames y; have hy : Keeps k0 r0 y := ?_; clear_value y; rotate_left; subst y)
    | (extract_lets +onlyGivenNames y; have hy : Keeps k0 r0 y.1 := ?_; clear_value y; rotate_left; subst y)
    | (extract_lets +onlyGivenNames y; clear_value y)
    | (extract_lets +onlyGivenNames y; subst y)
    | with_reducible apply Keeps.ite
    | split
    | (with_reducible refine Keeps.foldl ?_ (fun u x h => ?_))
    | with_reducible apply Keeps.upd_cme

theorem State.opMark_keeps {k0 : Nat} {r0 : State} (s : State) (u : EngUnit) (d : EInstr) (hr : Keeps k0 r0 s) (hm : Sub 549839699980 k0 := by exact hm.of (by decide)) : Keeps k0 r0 (State.opMark s u d) := by
  unfold State.opMark
  repeat' first
    | with_reducible assumption
    | exact hm.of (by decide)
    | (extract_lets +onlyGivenNames y; have hy : Keeps k0 r0 y := ?_; clear_value y; rotate_left; subst y)
    | (extract_lets +onlyGivenNames y; have hy : Keeps k0 r0 y.1 := ?_; clear_value y; rotate_left; subst y)
    | (extract_lets +onlyGivenNames y; clear_value y)
    | (extract_lets +onlyGivenNames y; subst y)
    | with_reducible apply State.commitArmWords_keeps
    | with_reducible apply State.shadowArm_keeps
    | with_reducible apply State.commitStallSlots_keeps
    | with_reducible apply State.shadowStall_keeps
    | with_reducible apply Keeps.ite
    | split
    | (with_reducible refine Keeps.foldl ?_ (fun u x h => ?_))

theorem State.opWra_keeps {k0 : Nat} {r0 : State} (s : State) (u : EngUnit) (d : EInstr) (hr : Keeps k0 r0 s) (hm : Sub 67108864 k0 := by exact hm.of (by decide)) : Keeps k0 r0 (State.opWra s u d) := by
  unfold State.opWra
  repeat' first
    | with_reducible assumption
    | exact hm.of (by decide)
    | (extract_lets +onlyGivenNames y; have hy : Keeps k0 r0 y := ?_; clear_value y; rotate_left; subst y)
    | (extract_lets +onlyGivenNames y; have hy : Keeps k0 r0 y.1 := ?_; clear_value y; rotate_left; subst y)
    | (extract_lets +onlyGivenNames y; clear_value y)
    | (extract_lets +onlyGivenNames y; subst y)
    | with_reducible apply Keeps.ite
    | split
    | with_reducible apply Keeps.upd_cme

theorem State.opSetx_keeps {k0 : Nat} {r0 : State} (s : State) (u : EngUnit) (d : EInstr) (hr : Keeps k0 r0 s) (hm : Sub 67108864 k0 := by exact hm.of (by decide)) : Keeps k0 r0 (State.opSetx s u d) := by
  unfold State.opSetx
  repeat' first
    | with_reducible assumption
    | exact hm.of (by decide)
    | (extract_lets +onlyGivenNames y; have hy : Keeps k0 r0 y := ?_; clear_value y; rotate_left; subst y)
    | (extract_lets +onlyGivenNames y; have hy : Keeps k0 r0 y.1 := ?_; clear_value y; rotate_left; subst y)
    | (extract_lets +onlyGivenNames y; clear_value y)
    | (extract_lets +onlyGivenNames y; subst y)
    | with_reducible apply State.setEng_keeps
    | with_reducible apply Keeps.ite
    | split

theorem State.opMvm_keeps {k0 : Nat} {r0 : State} (s : State) (u : EngUnit) (d : EInstr) (hr : Keeps k0 r0 s) (hm : Sub 274945015812 k0 := by exact hm.of (by decide)) : Keeps k0 r0 (State.opMvm s u d) := by
  unfold State.opMvm
  repeat' first
    | with_reducible assumption
    | exact hm.of (by decide)
    | (extract_lets +onlyGivenNames y; have hy : Keeps k0 r0 y := ?_; clear_value y; rotate_left; subst y)
    | (extract_lets +onlyGivenNames y; have hy : Keeps k0 r0 y.1 := ?_; clear_value y; rotate_left; subst y)
    | (extract_lets +onlyGivenNames y; clear_value y)
    | (extract_lets +onlyGivenNames y; subst y)
    | with_reducible apply State.setEng_keeps
    | with_reducible apply State.ovfFlag_keeps
    | with_reducible apply State.addrErr_keeps
    | (with_reducible refine Keeps.foldl ?_ (fun u x h => ?_))

theorem State.opVmac_keeps {k0 : Nat} {r0 : State} (s : State) (u : EngUnit) (d : EInstr) (hr : Keeps k0 r0 s) (hm : Sub 67108868 k0 := by exact hm.of (by decide)) : Keeps k0 r0 (State.opVmac s u d) := by
  unfold State.opVmac
  repeat' first
    | with_reducible assumption
    | exact hm.of (by decide)
    | (extract_lets +onlyGivenNames y; have hy : Keeps k0 r0 y := ?_; clear_value y; rotate_left; subst y)
    | (extract_lets +onlyGivenNames y; have hy : Keeps k0 r0 y.1 := ?_; clear_value y; rotate_left; subst y)
    | (extract_lets +onlyGivenNames y; clear_value y)
    | (extract_lets +onlyGivenNames y; subst y)
    | with_reducible apply State.setEng_keeps
    | with_reducible apply State.ovfFlag_keeps

theorem State.opVmacc_keeps {k0 : Nat} {r0 : State} (s : State) (u : EngUnit) (d : EInstr) (hr : Keeps k0 r0 s) (hm : Sub 274945015812 k0 := by exact hm.of (by decide)) : Keeps k0 r0 (State.opVmacc s u d) := by
  unfold State.opVmacc
  repeat' first
    | with_reducible assumption
    | exact hm.of (by decide)
    | (extract_lets +onlyGivenNames y; have hy : Keeps k0 r0 y := ?_; clear_value y; rotate_left; subst y)
    | (extract_lets +onlyGivenNames y; have hy : Keeps k0 r0 y.1 := ?_; clear_value y; rotate_left; subst y)
    | (extract_lets +onlyGivenNames y; clear_value y)
    | (extract_lets +onlyGivenNames y; subst y)
    | with_reducible apply State.setEng_keeps
    | with_reducible apply State.ovfFlag_keeps
    | with_reducible apply State.addrErr_keeps

theorem State.opAccl_keeps {k0 : Nat} {r0 : State} (s : State) (u : EngUnit) (d : EInstr) (hr : Keeps k0 r0 s) (hm : Sub 67108864 k0 := by exact hm.of (by decide)) : Keeps k0 r0 (State.opAccl s u d) := by
  unfold State.opAccl
  repeat' first
    | with_reducible assumption
    | exact hm.of (by decide)
    | (extract_lets +onlyGivenNames y; have hy : Keeps k0 r0 y := ?_; clear_value y; rotate_left; subst y)
    | (extract_lets +onlyGivenNames y; have hy : Keeps k0 r0 y.1 := ?_; clear_value y; rotate_left; subst y)
    | (extract_lets +onlyGivenNames y; clear_value y)
    | (extract_lets +onlyGivenNames y; subst y)
    | with_reducible apply State.setEng_keeps
    | with_reducible apply Keeps.ite
    | split

theorem State.opWb_keeps {k0 : Nat} {r0 : State} (s : State) (u : EngUnit) (d : EInstr) (hr : Keeps k0 r0 s) (hm : Sub 67108868 k0 := by exact hm.of (by decide)) : Keeps k0 r0 (State.opWb s u d) := by
  unfold State.opWb
  repeat' first
    | with_reducible assumption
    | exact hm.of (by decide)
    | (extract_lets +onlyGivenNames y; have hy : Keeps k0 r0 y := ?_; clear_value y; rotate_left; subst y)
    | (extract_lets +onlyGivenNames y; have hy : Keeps k0 r0 y.1 := ?_; clear_value y; rotate_left; subst y)
    | (extract_lets +onlyGivenNames y; clear_value y)
    | (extract_lets +onlyGivenNames y; subst y)
    | with_reducible apply State.setEng_keeps
    | with_reducible apply State.satFlag_keeps

theorem State.opLim_keeps {k0 : Nat} {r0 : State} (s : State) (u : EngUnit) (d : EInstr) (hr : Keeps k0 r0 s) (hm : Sub 274945015812 k0 := by exact hm.of (by decide)) : Keeps k0 r0 (State.opLim s u d) := by
  unfold State.opLim
  repeat' first
    | with_reducible assumption
    | exact hm.of (by decide)
    | (extract_lets +onlyGivenNames y; have hy : Keeps k0 r0 y := ?_; clear_value y; rotate_left; subst y)
    | (extract_lets +onlyGivenNames y; have hy : Keeps k0 r0 y.1 := ?_; clear_value y; rotate_left; subst y)
    | (extract_lets +onlyGivenNames y; clear_value y)
    | (extract_lets +onlyGivenNames y; subst y)
    | with_reducible apply State.setEng_keeps
    | with_reducible apply State.addrErr_keeps

theorem State.opSat_keeps {k0 : Nat} {r0 : State} (s : State) (u : EngUnit) (d : EInstr) (hr : Keeps k0 r0 s) (hm : Sub 274945015812 k0 := by exact hm.of (by decide)) : Keeps k0 r0 (State.opSat s u d) := by
  unfold State.opSat
  repeat' first
    | with_reducible assumption
    | exact hm.of (by decide)
    | (extract_lets +onlyGivenNames y; have hy : Keeps k0 r0 y := ?_; clear_value y; rotate_left; subst y)
    | (extract_lets +onlyGivenNames y; have hy : Keeps k0 r0 y.1 := ?_; clear_value y; rotate_left; subst y)
    | (extract_lets +onlyGivenNames y; clear_value y)
    | (extract_lets +onlyGivenNames y; subst y)
    | with_reducible apply State.setEng_keeps
    | with_reducible apply State.addrErr_keeps
    | with_reducible apply Keeps.ite
    | split
    | (with_reducible refine Keeps.foldl ?_ (fun u x h => ?_))

theorem State.opPreset_keeps {k0 : Nat} {r0 : State} (s : State) (u : EngUnit) (d : EInstr) (hr : Keeps k0 r0 s) (hm : Sub 824633720844 k0 := by exact hm.of (by decide)) : Keeps k0 r0 (State.opPreset s u d) := by
  unfold State.opPreset
  repeat' first
    | with_reducible assumption
    | exact hm.of (by decide)
    | (extract_lets +onlyGivenNames y; have hy : Keeps k0 r0 y := ?_; clear_value y; rotate_left; subst y)
    | (extract_lets +onlyGivenNames y; have hy : Keeps k0 r0 y.1 := ?_; clear_value y; rotate_left; subst y)
    | (extract_lets +onlyGivenNames y; clear_value y)
    | (extract_lets +onlyGivenNames y; subst y)
    | with_reducible apply State.writeRow_keeps
    | with_reducible apply State.satFlag_keeps
    | with_reducible apply State.addrErr_keeps
    | with_reducible apply Keeps.ite
    | split

theorem State.opSel_keeps {k0 : Nat} {r0 : State} (s : State) (u : EngUnit) (d : EInstr) (hr : Keeps k0 r0 s) (hm : Sub 67108864 k0 := by exact hm.of (by decide)) : Keeps k0 r0 (State.opSel s u d) := by
  unfold State.opSel
  repeat' first
    | with_reducible assumption
    | exact hm.of (by decide)
    | (extract_lets +onlyGivenNames y; have hy : Keeps k0 r0 y := ?_; clear_value y; rotate_left; subst y)
    | (extract_lets +onlyGivenNames y; have hy : Keeps k0 r0 y.1 := ?_; clear_value y; rotate_left; subst y)
    | (extract_lets +onlyGivenNames y; clear_value y)
    | (extract_lets +onlyGivenNames y; subst y)
    | with_reducible apply State.setEng_keeps
    | with_reducible apply Keeps.ite
    | split

theorem State.opVadd_keeps {k0 : Nat} {r0 : State} (s : State) (u : EngUnit) (d : EInstr) (hr : Keeps k0 r0 s) (hm : Sub 274945015812 k0 := by exact hm.of (by decide)) : Keeps k0 r0 (State.opVadd s u d) := by
  unfold State.opVadd
  repeat' first
    | with_reducible assumption
    | exact hm.of (by decide)
    | (extract_lets +onlyGivenNames y; have hy : Keeps k0 r0 y := ?_; clear_value y; rotate_left; subst y)
    | (extract_lets +onlyGivenNames y; have hy : Keeps k0 r0 y.1 := ?_; clear_value y; rotate_left; subst y)
    | (extract_lets +onlyGivenNames y; clear_value y)
    | (extract_lets +onlyGivenNames y; subst y)
    | with_reducible apply State.setEng_keeps
    | with_reducible apply State.satFlag_keeps
    | with_reducible apply State.addrErr_keeps
    | with_reducible apply Keeps.ite
    | split

theorem State.opRed_keeps {k0 : Nat} {r0 : State} (s : State) (u : EngUnit) (d : EInstr) (hr : Keeps k0 r0 s) (hm : Sub 67108868 k0 := by exact hm.of (by decide)) : Keeps k0 r0 (State.opRed s u d) := by
  unfold State.opRed
  repeat' first
    | with_reducible assumption
    | exact hm.of (by decide)
    | (extract_lets +onlyGivenNames y; have hy : Keeps k0 r0 y := ?_; clear_value y; rotate_left; subst y)
    | (extract_lets +onlyGivenNames y; have hy : Keeps k0 r0 y.1 := ?_; clear_value y; rotate_left; subst y)
    | (extract_lets +onlyGivenNames y; clear_value y)
    | (extract_lets +onlyGivenNames y; subst y)
    | with_reducible apply State.setEng_keeps
    | with_reducible apply State.satFlag_keeps
    | with_reducible apply Keeps.ite
    | split

theorem State.opCmp_keeps {k0 : Nat} {r0 : State} (s : State) (u : EngUnit) (d : EInstr) (hr : Keeps k0 r0 s) (hm : Sub 67108864 k0 := by exact hm.of (by decide)) : Keeps k0 r0 (State.opCmp s u d) := by
  unfold State.opCmp
  repeat' first
    | with_reducible assumption
    | exact hm.of (by decide)
    | (extract_lets +onlyGivenNames y; have hy : Keeps k0 r0 y := ?_; clear_value y; rotate_left; subst y)
    | (extract_lets +onlyGivenNames y; have hy : Keeps k0 r0 y.1 := ?_; clear_value y; rotate_left; subst y)
    | (extract_lets +onlyGivenNames y; clear_value y)
    | (extract_lets +onlyGivenNames y; subst y)
    | with_reducible apply State.setEng_keeps
    | with_reducible apply Keeps.ite
    | split
    | (with_reducible refine Keeps.foldl ?_ (fun u x h => ?_))

theorem State.opObs_keeps {k0 : Nat} {r0 : State} (s : State) (u : EngUnit) (d : EInstr) (made : Nat → Bool) (completes : Bool) (hr : Keeps k0 r0 s) (hm : Sub 824700829708 k0 := by exact hm.of (by decide)) : Keeps k0 r0 (State.opObs s u d made completes) := by
  unfold State.opObs
  repeat' first
    | with_reducible assumption
    | exact hm.of (by decide)
    | (extract_lets +onlyGivenNames y; have hy : Keeps k0 r0 y := ?_; clear_value y; rotate_left; subst y)
    | (extract_lets +onlyGivenNames y; have hy : Keeps k0 r0 y.1 := ?_; clear_value y; rotate_left; subst y)
    | (extract_lets +onlyGivenNames y; clear_value y)
    | (extract_lets +onlyGivenNames y; subst y)
    | with_reducible apply State.writeRow_keeps
    | with_reducible apply State.setEng_keeps
    | with_reducible apply State.satFlag_keeps
    | with_reducible apply State.addrErr_keeps
    | with_reducible apply Keeps.ite
    | split
    | (with_reducible refine Keeps.foldl ?_ (fun u x h => ?_))

theorem State.engOp_keeps {k0 : Nat} {r0 : State} (s : State) (u : EngUnit) (d : EInstr) (hr : Keeps k0 r0 s) (hm : Sub 824717606924 k0 := by exact hm.of (by decide)) : Keeps k0 r0 (State.engOp s u d) := by
  unfold State.engOp
  repeat' first
    | with_reducible assumption
    | exact hm.of (by decide)
    | with_reducible apply State.opSetx_keeps
    | with_reducible apply State.opLdc_keeps
    | with_reducible apply State.opLds_keeps
    | with_reducible apply State.opSts_keeps
    | with_reducible apply State.opGath_keeps
    | with_reducible apply State.opScat_keeps
    | with_reducible apply State.opMark_keeps
    | with_reducible apply State.opWra_keeps
    | with_reducible apply State.opMvm_keeps
    | with_reducible apply State.opVmac_keeps
    | with_reducible apply State.opVmacc_keeps
    | with_reducible apply State.opObs_keeps
    | with_reducible apply State.opAccl_keeps
    | with_reducible apply State.opWb_keeps
    | with_reducible apply State.opLim_keeps
    | with_reducible apply State.opSat_keeps
    | with_reducible apply State.opPreset_keeps
    | with_reducible apply State.opSel_keeps
    | with_reducible apply State.opVadd_keeps
    | with_reducible apply State.opRed_keeps
    | with_reducible apply State.opCmp_keeps
    | with_reducible apply Keeps.ite
    | split

theorem State.engState_keeps {k0 : Nat} {r0 : State} (s : State) (hr : Keeps k0 r0 s) (hm : Sub 4 k0 := by exact hm.of (by decide)) : Keeps k0 r0 (State.engState s) := by
  unfold State.engState
  repeat' first
    | with_reducible assumption
    | exact hm.of (by decide)
    | with_reducible apply State.put_keeps
    | with_reducible apply Keeps.ite
    | split

theorem State.finish_keeps {k0 : Nat} {r0 : State} (s : State) (code : Nat) (res : List Word) (hr : Keeps k0 r0 s) (hm : Sub 16384 k0 := by exact hm.of (by decide)) : Keeps k0 r0 (State.finish s code res) := by
  unfold State.finish
  repeat' first
    | with_reducible assumption
    | exact hm.of (by decide)
    | with_reducible apply Keeps.upd_cmd

theorem State.setPad_keeps {k0 : Nat} {r0 : State} (s : State) (st : PadState) (hr : Keeps k0 r0 s) (hm : Sub 67108868 k0 := by exact hm.of (by decide)) : Keeps k0 r0 (State.setPad s st) := by
  unfold State.setPad
  repeat' first
    | with_reducible assumption
    | exact hm.of (by decide)
    | with_reducible apply State.put_keeps
    | with_reducible apply Keeps.ite
    | split
    | with_reducible apply Keeps.upd_cme

theorem State.runOver_keeps {k0 : Nat} {r0 : State} (s : State) (hr : Keeps k0 r0 s) (hm : Sub 67125248 k0 := by exact hm.of (by decide)) : Keeps k0 r0 (State.runOver s) := by
  unfold State.runOver
  repeat' first
    | with_reducible assumption
    | exact hm.of (by decide)
    | (extract_lets +onlyGivenNames y; have hy : Keeps k0 r0 y := ?_; clear_value y; rotate_left; subst y)
    | (extract_lets +onlyGivenNames y; have hy : Keeps k0 r0 y.1 := ?_; clear_value y; rotate_left; subst y)
    | (extract_lets +onlyGivenNames y; clear_value y)
    | (extract_lets +onlyGivenNames y; subst y)
    | with_reducible apply State.finish_keeps
    | with_reducible apply Keeps.ite
    | split
    | with_reducible apply Keeps.upd_cme

theorem State.padAbort_keeps {k0 : Nat} {r0 : State} (s : State) (detail : Nat) (hr : Keeps k0 r0 s) (hm : Sub 67125252 k0 := by exact hm.of (by decide)) : Keeps k0 r0 (State.padAbort s detail) := by
  unfold State.padAbort
  repeat' first
    | with_reducible assumption
    | exact hm.of (by decide)
    | (extract_lets +onlyGivenNames y; have hy : Keeps k0 r0 y := ?_; clear_value y; rotate_left; subst y)
    | (extract_lets +onlyGivenNames y; have hy : Keeps k0 r0 y.1 := ?_; clear_value y; rotate_left; subst y)
    | (extract_lets +onlyGivenNames y; clear_value y)
    | (extract_lets +onlyGivenNames y; subst y)
    | with_reducible apply State.setPad_keeps
    | with_reducible apply State.finish_keeps
    | with_reducible apply Keeps.ite
    | split
    | with_reducible apply Keeps.upd_cme

theorem State.overrun_keeps {k0 : Nat} {r0 : State} (s : State) (u : EngUnit) (hr : Keeps k0 r0 s) (hm : Sub 274945032196 k0 := by exact hm.of (by decide)) : Keeps k0 r0 (State.overrun s u) := by
  unfold State.overrun
  repeat' first
    | with_reducible assumption
    | exact hm.of (by decide)
    | (extract_lets +onlyGivenNames y; have hy : Keeps k0 r0 y := ?_; clear_value y; rotate_left; subst y)
    | (extract_lets +onlyGivenNames y; have hy : Keeps k0 r0 y.1 := ?_; clear_value y; rotate_left; subst y)
    | (extract_lets +onlyGivenNames y; clear_value y)
    | (extract_lets +onlyGivenNames y; subst y)
    | with_reducible apply State.setEng_keeps
    | with_reducible apply State.put_keeps
    | with_reducible apply State.cnt_keeps
    | with_reducible apply State.raise_keeps
    | with_reducible apply State.engState_keeps
    | with_reducible apply State.runOver_keeps
    | with_reducible apply Keeps.ite
    | split

theorem State.endRun_keeps {k0 : Nat} {r0 : State} (s : State) (u : EngUnit) (hr : Keeps k0 r0 s) (hm : Sub 67125252 k0 := by exact hm.of (by decide)) : Keeps k0 r0 (State.endRun s u) := by
  unfold State.endRun
  repeat' first
    | with_reducible assumption
    | exact hm.of (by decide)
    | (extract_lets +onlyGivenNames y; have hy : Keeps k0 r0 y := ?_; clear_value y; rotate_left; subst y)
    | (extract_lets +onlyGivenNames y; have hy : Keeps k0 r0 y.1 := ?_; clear_value y; rotate_left; subst y)
    | (extract_lets +onlyGivenNames y; clear_value y)
    | (extract_lets +onlyGivenNames y; subst y)
    | with_reducible apply State.setEng_keeps
    | with_reducible apply State.put_keeps
    | with_reducible apply State.engState_keeps
    | with_reducible apply State.runOver_keeps
    | with_reducible apply Keeps.ite
    | split
    | with_reducible apply Keeps.upd_cme

theorem State.opWait_keeps {k0 : Nat} {r0 : State} (s : State) (u : EngUnit) (d : EInstr) (hr : Keeps k0 r0 s) (hm : Sub 67108864 k0 := by exact hm.of (by decide)) : Keeps k0 r0 (State.opWait s u d) := by
  unfold State.opWait
  repeat' first
    | with_reducible assumption
    | exact hm.of (by decide)
    | (extract_lets +onlyGivenNames y; have hy : Keeps k0 r0 y := ?_; clear_value y; rotate_left; subst y)
    | (extract_lets +onlyGivenNames y; have hy : Keeps k0 r0 y.1 := ?_; clear_value y; rotate_left; subst y)
    | (extract_lets +onlyGivenNames y; clear_value y)
    | (extract_lets +onlyGivenNames y; subst y)
    | with_reducible apply State.setEng_keeps
    | with_reducible apply Keeps.ite
    | split

theorem State.engineUe_keeps {k0 : Nat} {r0 : State} (s : State) (u : EngUnit) (access a : Nat) (hr : Keeps k0 r0 s) (hm : Sub 824700846084 k0 := by exact hm.of (by decide)) : Keeps k0 r0 (State.engineUe s u access a) := by
  unfold State.engineUe
  repeat' first
    | with_reducible assumption
    | exact hm.of (by decide)
    | (extract_lets +onlyGivenNames y; have hy : Keeps k0 r0 y := ?_; clear_value y; rotate_left; subst y)
    | (extract_lets +onlyGivenNames y; have hy : Keeps k0 r0 y.1 := ?_; clear_value y; rotate_left; subst y)
    | (extract_lets +onlyGivenNames y; clear_value y)
    | (extract_lets +onlyGivenNames y; subst y)
    | with_reducible apply State.cmeFault_keeps
    | with_reducible apply State.err_keeps
    | with_reducible apply State.access_keeps
    | with_reducible apply State.overrun_keeps
    | with_reducible apply Keeps.ite
    | split

theorem State.enterHalt_keeps {k0 : Nat} {r0 : State} (s : State) (brk : Bool) (hr : Keeps k0 r0 s) (hm : Sub 317894705284 k0 := by exact hm.of (by decide)) : Keeps k0 r0 (State.enterHalt s brk) := by
  unfold State.enterHalt
  repeat' first
    | with_reducible assumption
    | exact hm.of (by decide)
    | with_reducible apply State.put_keeps
    | with_reducible apply State.raise_keeps
    | with_reducible apply State.engState_keeps
    | with_reducible apply State.updateFreeze_keeps
    | with_reducible apply State.pwmHaltUpdate_keeps
    | with_reducible apply State.padAbort_keeps

theorem State.issueStuck_keeps {k0 : Nat} {r0 : State} (s : State) (u : EngUnit) (d : EInstr) (c : Nat) (hr : Keeps k0 r0 s) (hm : Sub 824700829708 k0 := by exact hm.of (by decide)) : Keeps k0 r0 (State.issueStuck s u d c) := by
  unfold State.issueStuck
  repeat' first
    | with_reducible assumption
    | exact hm.of (by decide)
    | (extract_lets +onlyGivenNames y; have hy : Keeps k0 r0 y := ?_; clear_value y; rotate_left; subst y)
    | (extract_lets +onlyGivenNames y; have hy : Keeps k0 r0 y.1 := ?_; clear_value y; rotate_left; subst y)
    | (extract_lets +onlyGivenNames y; clear_value y)
    | (extract_lets +onlyGivenNames y; subst y)
    | with_reducible apply State.opObs_keeps
    | with_reducible apply State.setEng_keeps
    | with_reducible apply Keeps.ite
    | split

theorem State.issueDone_keeps {k0 : Nat} {r0 : State} (s : State) (u : EngUnit) (d : EInstr) (c : Nat) (hr : Keeps k0 r0 s) (hm : Sub 824717606924 k0 := by exact hm.of (by decide)) : Keeps k0 r0 (State.issueDone s u d c) := by
  unfold State.issueDone
  repeat' first
    | with_reducible assumption
    | exact hm.of (by decide)
    | with_reducible apply State.engOp_keeps
    | with_reducible apply State.setEng_keeps

theorem State.issueAt_keeps {k0 : Nat} {r0 : State} (s : State) (u : EngUnit) (d : EInstr) (hr : Keeps k0 r0 s) (hm : Sub 824717623308 k0 := by exact hm.of (by decide)) : Keeps k0 r0 (State.issueAt s u d) := by
  unfold State.issueAt
  repeat' first
    | with_reducible assumption
    | exact hm.of (by decide)
    | with_reducible apply State.engineUe_keeps
    | with_reducible apply State.endRun_keeps
    | with_reducible apply State.opWait_keeps
    | with_reducible apply State.issueDone_keeps
    | with_reducible apply State.issueStuck_keeps
    | with_reducible apply Keeps.ite
    | split

theorem State.issue_keeps {k0 : Nat} {r0 : State} (s : State) (u : EngUnit) (op : Nat) (hr : Keeps k0 r0 s) (hm : Sub 868069949582 k0 := by exact hm.of (by decide)) : Keeps k0 r0 (State.issue s u op) := by
  unfold State.issue
  repeat' first
    | with_reducible assumption
    | exact hm.of (by decide)
    | with_reducible apply State.enterHalt_keeps
    | with_reducible apply State.untilCtb_keeps
    | with_reducible apply State.issueAt_keeps
    | with_reducible apply Keeps.ite
    | split

theorem execNop_keeps {k0 : Nat} {r0 : State} (u : EngUnit) (s : State) (hr : Keeps k0 r0 s) (hm : Sub 868069949582 k0 := by exact hm.of (by decide)) : KeepsO k0 r0 (execNop u s) := by
  unfold execNop
  repeat' first
    | with_reducible assumption
    | exact hm.of (by decide)
    | with_reducible apply KeepsO.next
    | with_reducible apply State.issue_keeps

theorem execEndRun_keeps {k0 : Nat} {r0 : State} (u : EngUnit) (s : State) (hr : Keeps k0 r0 s) (hm : Sub 868069949582 k0 := by exact hm.of (by decide)) : KeepsO k0 r0 (execEndRun u s) := by
  unfold execEndRun
  repeat' first
    | with_reducible assumption
    | exact hm.of (by decide)
    | with_reducible apply KeepsO.next
    | with_reducible apply State.issue_keeps

theorem execWait_keeps {k0 : Nat} {r0 : State} (u : EngUnit) (s : State) (hr : Keeps k0 r0 s) (hm : Sub 868069949582 k0 := by exact hm.of (by decide)) : KeepsO k0 r0 (execWait u s) := by
  unfold execWait
  repeat' first
    | with_reducible assumption
    | exact hm.of (by decide)
    | with_reducible apply KeepsO.next
    | with_reducible apply State.issue_keeps

theorem execLoop_keeps {k0 : Nat} {r0 : State} (u : EngUnit) (s : State) (hr : Keeps k0 r0 s) (hm : Sub 868069949582 k0 := by exact hm.of (by decide)) : KeepsO k0 r0 (execLoop u s) := by
  unfold execLoop
  repeat' first
    | with_reducible assumption
    | exact hm.of (by decide)
    | with_reducible apply KeepsO.next
    | with_reducible apply State.issue_keeps

theorem execBrf_keeps {k0 : Nat} {r0 : State} (u : EngUnit) (s : State) (hr : Keeps k0 r0 s) (hm : Sub 868069949582 k0 := by exact hm.of (by decide)) : KeepsO k0 r0 (execBrf u s) := by
  unfold execBrf
  repeat' first
    | with_reducible assumption
    | exact hm.of (by decide)
    | with_reducible apply KeepsO.next
    | with_reducible apply State.issue_keeps

theorem execSetx_keeps {k0 : Nat} {r0 : State} (u : EngUnit) (s : State) (hr : Keeps k0 r0 s) (hm : Sub 868069949582 k0 := by exact hm.of (by decide)) : KeepsO k0 r0 (execSetx u s) := by
  unfold execSetx
  repeat' first
    | with_reducible assumption
    | exact hm.of (by decide)
    | with_reducible apply KeepsO.next
    | with_reducible apply State.issue_keeps

theorem execLdc_keeps {k0 : Nat} {r0 : State} (u : EngUnit) (s : State) (hr : Keeps k0 r0 s) (hm : Sub 868069949582 k0 := by exact hm.of (by decide)) : KeepsO k0 r0 (execLdc u s) := by
  unfold execLdc
  repeat' first
    | with_reducible assumption
    | exact hm.of (by decide)
    | with_reducible apply KeepsO.next
    | with_reducible apply State.issue_keeps

theorem execLds_keeps {k0 : Nat} {r0 : State} (u : EngUnit) (s : State) (hr : Keeps k0 r0 s) (hm : Sub 868069949582 k0 := by exact hm.of (by decide)) : KeepsO k0 r0 (execLds u s) := by
  unfold execLds
  repeat' first
    | with_reducible assumption
    | exact hm.of (by decide)
    | with_reducible apply KeepsO.next
    | with_reducible apply State.issue_keeps

theorem execSts_keeps {k0 : Nat} {r0 : State} (u : EngUnit) (s : State) (hr : Keeps k0 r0 s) (hm : Sub 868069949582 k0 := by exact hm.of (by decide)) : KeepsO k0 r0 (execSts u s) := by
  unfold execSts
  repeat' first
    | with_reducible assumption
    | exact hm.of (by decide)
    | with_reducible apply KeepsO.next
    | with_reducible apply State.issue_keeps

theorem execGath_keeps {k0 : Nat} {r0 : State} (u : EngUnit) (s : State) (hr : Keeps k0 r0 s) (hm : Sub 868069949582 k0 := by exact hm.of (by decide)) : KeepsO k0 r0 (execGath u s) := by
  unfold execGath
  repeat' first
    | with_reducible assumption
    | exact hm.of (by decide)
    | with_reducible apply KeepsO.next
    | with_reducible apply State.issue_keeps

theorem execScat_keeps {k0 : Nat} {r0 : State} (u : EngUnit) (s : State) (hr : Keeps k0 r0 s) (hm : Sub 868069949582 k0 := by exact hm.of (by decide)) : KeepsO k0 r0 (execScat u s) := by
  unfold execScat
  repeat' first
    | with_reducible assumption
    | exact hm.of (by decide)
    | with_reducible apply KeepsO.next
    | with_reducible apply State.issue_keeps

theorem execMark_keeps {k0 : Nat} {r0 : State} (u : EngUnit) (s : State) (hr : Keeps k0 r0 s) (hm : Sub 868069949582 k0 := by exact hm.of (by decide)) : KeepsO k0 r0 (execMark u s) := by
  unfold execMark
  repeat' first
    | with_reducible assumption
    | exact hm.of (by decide)
    | with_reducible apply KeepsO.next
    | with_reducible apply State.issue_keeps

theorem execWra_keeps {k0 : Nat} {r0 : State} (u : EngUnit) (s : State) (hr : Keeps k0 r0 s) (hm : Sub 868069949582 k0 := by exact hm.of (by decide)) : KeepsO k0 r0 (execWra u s) := by
  unfold execWra
  repeat' first
    | with_reducible assumption
    | exact hm.of (by decide)
    | with_reducible apply KeepsO.next
    | with_reducible apply State.issue_keeps

theorem execMvm_keeps {k0 : Nat} {r0 : State} (u : EngUnit) (s : State) (hr : Keeps k0 r0 s) (hm : Sub 868069949582 k0 := by exact hm.of (by decide)) : KeepsO k0 r0 (execMvm u s) := by
  unfold execMvm
  repeat' first
    | with_reducible assumption
    | exact hm.of (by decide)
    | with_reducible apply KeepsO.next
    | with_reducible apply State.issue_keeps

theorem execVmac_keeps {k0 : Nat} {r0 : State} (u : EngUnit) (s : State) (hr : Keeps k0 r0 s) (hm : Sub 868069949582 k0 := by exact hm.of (by decide)) : KeepsO k0 r0 (execVmac u s) := by
  unfold execVmac
  repeat' first
    | with_reducible assumption
    | exact hm.of (by decide)
    | with_reducible apply KeepsO.next
    | with_reducible apply State.issue_keeps

theorem execVmacc_keeps {k0 : Nat} {r0 : State} (u : EngUnit) (s : State) (hr : Keeps k0 r0 s) (hm : Sub 868069949582 k0 := by exact hm.of (by decide)) : KeepsO k0 r0 (execVmacc u s) := by
  unfold execVmacc
  repeat' first
    | with_reducible assumption
    | exact hm.of (by decide)
    | with_reducible apply KeepsO.next
    | with_reducible apply State.issue_keeps

theorem execObs_keeps {k0 : Nat} {r0 : State} (u : EngUnit) (s : State) (hr : Keeps k0 r0 s) (hm : Sub 868069949582 k0 := by exact hm.of (by decide)) : KeepsO k0 r0 (execObs u s) := by
  unfold execObs
  repeat' first
    | with_reducible assumption
    | exact hm.of (by decide)
    | with_reducible apply KeepsO.next
    | with_reducible apply State.issue_keeps

theorem execAccl_keeps {k0 : Nat} {r0 : State} (u : EngUnit) (s : State) (hr : Keeps k0 r0 s) (hm : Sub 868069949582 k0 := by exact hm.of (by decide)) : KeepsO k0 r0 (execAccl u s) := by
  unfold execAccl
  repeat' first
    | with_reducible assumption
    | exact hm.of (by decide)
    | with_reducible apply KeepsO.next
    | with_reducible apply State.issue_keeps

theorem execWb_keeps {k0 : Nat} {r0 : State} (u : EngUnit) (s : State) (hr : Keeps k0 r0 s) (hm : Sub 868069949582 k0 := by exact hm.of (by decide)) : KeepsO k0 r0 (execWb u s) := by
  unfold execWb
  repeat' first
    | with_reducible assumption
    | exact hm.of (by decide)
    | with_reducible apply KeepsO.next
    | with_reducible apply State.issue_keeps

theorem execLim_keeps {k0 : Nat} {r0 : State} (u : EngUnit) (s : State) (hr : Keeps k0 r0 s) (hm : Sub 868069949582 k0 := by exact hm.of (by decide)) : KeepsO k0 r0 (execLim u s) := by
  unfold execLim
  repeat' first
    | with_reducible assumption
    | exact hm.of (by decide)
    | with_reducible apply KeepsO.next
    | with_reducible apply State.issue_keeps

theorem execSat_keeps {k0 : Nat} {r0 : State} (u : EngUnit) (s : State) (hr : Keeps k0 r0 s) (hm : Sub 868069949582 k0 := by exact hm.of (by decide)) : KeepsO k0 r0 (execSat u s) := by
  unfold execSat
  repeat' first
    | with_reducible assumption
    | exact hm.of (by decide)
    | with_reducible apply KeepsO.next
    | with_reducible apply State.issue_keeps

theorem execPreset_keeps {k0 : Nat} {r0 : State} (u : EngUnit) (s : State) (hr : Keeps k0 r0 s) (hm : Sub 868069949582 k0 := by exact hm.of (by decide)) : KeepsO k0 r0 (execPreset u s) := by
  unfold execPreset
  repeat' first
    | with_reducible assumption
    | exact hm.of (by decide)
    | with_reducible apply KeepsO.next
    | with_reducible apply State.issue_keeps

theorem execSel_keeps {k0 : Nat} {r0 : State} (u : EngUnit) (s : State) (hr : Keeps k0 r0 s) (hm : Sub 868069949582 k0 := by exact hm.of (by decide)) : KeepsO k0 r0 (execSel u s) := by
  unfold execSel
  repeat' first
    | with_reducible assumption
    | exact hm.of (by decide)
    | with_reducible apply KeepsO.next
    | with_reducible apply State.issue_keeps

theorem execVadd_keeps {k0 : Nat} {r0 : State} (u : EngUnit) (s : State) (hr : Keeps k0 r0 s) (hm : Sub 868069949582 k0 := by exact hm.of (by decide)) : KeepsO k0 r0 (execVadd u s) := by
  unfold execVadd
  repeat' first
    | with_reducible assumption
    | exact hm.of (by decide)
    | with_reducible apply KeepsO.next
    | with_reducible apply State.issue_keeps

theorem execRed_keeps {k0 : Nat} {r0 : State} (u : EngUnit) (s : State) (hr : Keeps k0 r0 s) (hm : Sub 868069949582 k0 := by exact hm.of (by decide)) : KeepsO k0 r0 (execRed u s) := by
  unfold execRed
  repeat' first
    | with_reducible assumption
    | exact hm.of (by decide)
    | with_reducible apply KeepsO.next
    | with_reducible apply State.issue_keeps

theorem execCmp_keeps {k0 : Nat} {r0 : State} (u : EngUnit) (s : State) (hr : Keeps k0 r0 s) (hm : Sub 868069949582 k0 := by exact hm.of (by decide)) : KeepsO k0 r0 (execCmp u s) := by
  unfold execCmp
  repeat' first
    | with_reducible assumption
    | exact hm.of (by decide)
    | with_reducible apply KeepsO.next
    | with_reducible apply State.issue_keeps

theorem execWaitEvent_keeps {k0 : Nat} {r0 : State} (u : EngUnit) (s : State) (hr : Keeps k0 r0 s) (hm : Sub 469762050 k0 := by exact hm.of (by decide)) : KeepsO k0 r0 (execWaitEvent u s) := by
  unfold execWaitEvent
  repeat' first
    | with_reducible assumption
    | exact hm.of (by decide)
    | with_reducible apply KeepsO.next
    | (extract_lets +onlyGivenNames y; have hy : Keeps k0 r0 y := ?_; clear_value y; rotate_left; subst y)
    | (extract_lets +onlyGivenNames y; have hy : Keeps k0 r0 y.1 := ?_; clear_value y; rotate_left; subst y)
    | (extract_lets +onlyGivenNames y; clear_value y)
    | (extract_lets +onlyGivenNames y; subst y)
    | with_reducible apply State.untilCtb_keeps
    | with_reducible apply State.setEng_keeps
    | with_reducible apply Keeps.ite
    | split

theorem execIllegalOpcode_keeps {k0 : Nat} {r0 : State} (u : EngUnit) (s : State) (hr : Keeps k0 r0 s) (hm : Sub 275347685382 k0 := by exact hm.of (by decide)) : KeepsO k0 r0 (execIllegalOpcode u s) := by
  unfold execIllegalOpcode
  repeat' first
    | with_reducible assumption
    | exact hm.of (by decide)
    | with_reducible apply KeepsO.next
    | (extract_lets +onlyGivenNames y; have hy : Keeps k0 r0 y := ?_; clear_value y; rotate_left; subst y)
    | (extract_lets +onlyGivenNames y; have hy : Keeps k0 r0 y.1 := ?_; clear_value y; rotate_left; subst y)
    | (extract_lets +onlyGivenNames y; clear_value y)
    | (extract_lets +onlyGivenNames y; subst y)
    | with_reducible apply State.untilCtb_keeps
    | with_reducible apply State.cmeFault_keeps
    | with_reducible apply State.overrun_keeps
    | with_reducible apply Keeps.ite
    | split

theorem execCmeOverrun_keeps {k0 : Nat} {r0 : State} (u : EngUnit) (s : State) (hr : Keeps k0 r0 s) (hm : Sub 275347685382 k0 := by exact hm.of (by decide)) : KeepsO k0 r0 (execCmeOverrun u s) := by
  unfold execCmeOverrun
  repeat' first
    | with_reducible assumption
    | exact hm.of (by decide)
    | with_reducible apply KeepsO.next
    | with_reducible apply State.untilCtb_keeps
    | with_reducible apply State.overrun_keeps
    | with_reducible apply Keeps.ite
    | split

end Sys2Proof.Machine
end

