-- ==== Sys2Proof/Laws/KeepsCmeCheck.lean ====
section
/-! SUPPORT. The operations of Machine/CmeCheck.lean leave the queue alone and keep the canonical form of the stores. -/

set_option linter.unusedTactic false
set_option linter.unreachableTactic false

namespace Sys2Proof.Machine

theorem State.forCheck_keeps {k0 : Nat} {r0 : State} (s : State) (hr : Keeps k0 r0 s) (hm : Sub 262144 k0 := by exact hm.of (by decide)) : Keeps k0 r0 (State.forCheck s) := by
  unfold State.forCheck
  repeat' first
    | with_reducible assumption
    | exact hm.of (by decide)
    | with_reducible apply Keeps.ite
    | split
    | with_reducible apply Keeps.upd_yard

theorem State.publishBudget_keeps {k0 : Nat} {r0 : State} (s : State) (hr : Keeps k0 r0 s) (hm : Sub 274878169092 k0 := by exact hm.of (by decide)) : Keeps k0 r0 (State.publishBudget s) := by
  unfold State.publishBudget
  repeat' first
    | with_reducible assumption
    | exact hm.of (by decide)
    | (extract_lets +onlyGivenNames y; have hy : Keeps k0 r0 y := ?_; clear_value y; rotate_left; subst y)
    | (extract_lets +onlyGivenNames y; have hy : Keeps k0 r0 y.1 := ?_; clear_value y; rotate_left; subst y)
    | (extract_lets +onlyGivenNames y; clear_value y)
    | (extract_lets +onlyGivenNames y; subst y)
    | with_reducible apply State.forCheck_keeps
    | with_reducible apply State.put_keeps
    | with_reducible apply State.cmeFault_keeps
    | with_reducible apply Keeps.ite
    | split

theorem State.progCheckWrite_keeps {k0 : Nat} {r0 : State} (s : State) (hr : Keeps k0 r0 s) (hm : Sub 67109380 k0 := by exact hm.of (by decide)) : Keeps k0 r0 (State.progCheckWrite s) := by
  unfold State.progCheckWrite
  repeat' first
    | with_reducible assumption
    | exact hm.of (by decide)
    | (extract_lets +onlyGivenNames y; have hy : Keeps k0 r0 y := ?_; clear_value y; rotate_left; subst y)
    | (extract_lets +onlyGivenNames y; have hy : Keeps k0 r0 y.1 := ?_; clear_value y; rotate_left; subst y)
    | (extract_lets +onlyGivenNames y; clear_value y)
    | (extract_lets +onlyGivenNames y; subst y)
    | with_reducible apply State.put_keeps
    | with_reducible apply State.startRes_keeps
    | with_reducible apply Keeps.upd_cme

theorem execProgramCheck_keeps {k0 : Nat} {r0 : State} (s : State) (hr : Keeps k0 r0 s) (hm : Sub 67109380 k0 := by exact hm.of (by decide)) : KeepsO k0 r0 (execProgramCheck s) := by
  unfold execProgramCheck
  repeat' first
    | with_reducible assumption
    | exact hm.of (by decide)
    | with_reducible apply KeepsO.next
    | with_reducible apply State.progCheckWrite_keeps

theorem execProgramCheckComplete_keeps {k0 : Nat} {r0 : State} (s : State) (hr : Keeps k0 r0 s) (hm : Sub 274945278468 k0 := by exact hm.of (by decide)) : KeepsO k0 r0 (execProgramCheckComplete s) := by
  unfold execProgramCheckComplete
  repeat' first
    | with_reducible assumption
    | exact hm.of (by decide)
    | with_reducible apply KeepsO.next
    | (extract_lets +onlyGivenNames y; have hy : Keeps k0 r0 y := ?_; clear_value y; rotate_left; subst y)
    | (extract_lets +onlyGivenNames y; have hy : Keeps k0 r0 y.1 := ?_; clear_value y; rotate_left; subst y)
    | (extract_lets +onlyGivenNames y; clear_value y)
    | (extract_lets +onlyGivenNames y; subst y)
    | with_reducible apply State.complete_keeps
    | with_reducible apply State.put_keeps
    | with_reducible apply State.raise_keeps
    | with_reducible apply Keeps.ite
    | split
    | with_reducible apply Keeps.upd_cme

end Sys2Proof.Machine
end

