-- ==== Sys2Proof/Laws/KeepsCmeCtl.lean ====
section
/-! SUPPORT. The operations of Machine/CmeCtl.lean leave the queue alone and keep the canonical form of the stores. -/

set_option linter.unusedTactic false
set_option linter.unreachableTactic false

namespace Sys2Proof.Machine

theorem State.engStart_keeps {k0 : Nat} {r0 : State} (s : State) (hr : Keeps k0 r0 s) (hm : Sub 317894705284 k0 := by exact hm.of (by decide)) : Keeps k0 r0 (State.engStart s) := by
  unfold State.engStart
  repeat' first
    | with_reducible assumption
    | exact hm.of (by decide)
    | (extract_lets +onlyGivenNames y; have hy : Keeps k0 r0 y := ?_; clear_value y; rotate_left; subst y)
    | (extract_lets +onlyGivenNames y; have hy : Keeps k0 r0 y.1 := ?_; clear_value y; rotate_left; subst y)
    | (extract_lets +onlyGivenNames y; clear_value y)
    | (extract_lets +onlyGivenNames y; subst y)
    | with_reducible apply State.freshRun_keeps
    | with_reducible apply State.engState_keeps
    | with_reducible apply State.enterHalt_keeps
    | with_reducible apply Keeps.ite
    | split
    | with_reducible apply Keeps.upd_cme

theorem State.engPark_keeps {k0 : Nat} {r0 : State} (s : State) (hr : Keeps k0 r0 s) (hm : Sub 67108868 k0 := by exact hm.of (by decide)) : Keeps k0 r0 (State.engPark s) := by
  unfold State.engPark
  repeat' first
    | with_reducible assumption
    | exact hm.of (by decide)
    | with_reducible apply State.engState_keeps
    | with_reducible apply Keeps.upd_cme

theorem State.judgeArmMiss_keeps {k0 : Nat} {r0 : State} (s : State) (a : Nat) (miss : Bool) (hr : Keeps k0 r0 s) (hm : Sub 274945015812 k0 := by exact hm.of (by decide)) : Keeps k0 r0 (State.judgeArmMiss s a miss) := by
  unfold State.judgeArmMiss
  repeat' first
    | with_reducible assumption
    | exact hm.of (by decide)
    | (extract_lets +onlyGivenNames y; have hy : Keeps k0 r0 y := ?_; clear_value y; rotate_left; subst y)
    | (extract_lets +onlyGivenNames y; have hy : Keeps k0 r0 y.1 := ?_; clear_value y; rotate_left; subst y)
    | (extract_lets +onlyGivenNames y; clear_value y)
    | (extract_lets +onlyGivenNames y; subst y)
    | with_reducible apply State.cnt_keeps
    | with_reducible apply State.raise_keeps
    | with_reducible apply State.setBitOf_keeps
    | with_reducible apply Keeps.ite
    | split
    | with_reducible apply Keeps.upd_cme

theorem State.judgeMisses_keeps {k0 : Nat} {r0 : State} (s : State) (hr : Keeps k0 r0 s) (hm : Sub 274945015812 k0 := by exact hm.of (by decide)) : Keeps k0 r0 (State.judgeMisses s) := by
  unfold State.judgeMisses
  repeat' first
    | with_reducible assumption
    | exact hm.of (by decide)
    | (extract_lets +onlyGivenNames y; have hy : Keeps k0 r0 y := ?_; clear_value y; rotate_left; subst y)
    | (extract_lets +onlyGivenNames y; have hy : Keeps k0 r0 y.1 := ?_; clear_value y; rotate_left; subst y)
    | (extract_lets +onlyGivenNames y; clear_value y)
    | (extract_lets +onlyGivenNames y; subst y)
    | with_reducible apply State.judgeArmMiss_keeps
    | with_reducible apply State.put_keeps
    | with_reducible apply Keeps.ite
    | split
    | (with_reducible refine Keeps.foldl ?_ (fun u x h => ?_))
    | with_reducible apply Keeps.upd_cme

theorem State.judgeRestore_keeps {k0 : Nat} {r0 : State} (s : State) (a : Nat) (hr : Keeps k0 r0 s) (hm : Sub 274945015812 k0 := by exact hm.of (by decide)) : Keeps k0 r0 (State.judgeRestore s a) := by
  unfold State.judgeRestore
  repeat' first
    | with_reducible assumption
    | exact hm.of (by decide)
    | with_reducible apply State.clrBitOf_keeps
    | with_reducible apply State.presetArm_keeps
    | with_reducible apply State.raise_keeps
    | with_reducible apply State.put_keeps
    | with_reducible apply State.cnt_keeps
    | with_reducible apply Keeps.ite
    | split

theorem State.judgeRestores_keeps {k0 : Nat} {r0 : State} (s : State) (hr : Keeps k0 r0 s) (hm : Sub 274945015812 k0 := by exact hm.of (by decide)) : Keeps k0 r0 (State.judgeRestores s) := by
  unfold State.judgeRestores
  repeat' first
    | with_reducible assumption
    | exact hm.of (by decide)
    | with_reducible apply State.judgeRestore_keeps
    | with_reducible apply Keeps.ite
    | split
    | (with_reducible refine Keeps.foldl ?_ (fun u x h => ?_))
    | with_reducible apply Keeps.upd_cme

theorem State.restoreAsk_keeps {k0 : Nat} {r0 : State} (s : State) (v : Nat) (hr : Keeps k0 r0 s) (hm : Sub 67108864 k0 := by exact hm.of (by decide)) : Keeps k0 r0 (State.restoreAsk s v) := by
  unfold State.restoreAsk
  repeat' first
    | with_reducible assumption
    | exact hm.of (by decide)
    | with_reducible apply Keeps.upd_cme

theorem execArmRestoreRequest_keeps {k0 : Nat} {r0 : State} (v : BitVec 6) (s : State) (hr : Keeps k0 r0 s) (hm : Sub 67108868 k0 := by exact hm.of (by decide)) : KeepsO k0 r0 (execArmRestoreRequest v s) := by
  unfold execArmRestoreRequest
  repeat' first
    | with_reducible assumption
    | exact hm.of (by decide)
    | with_reducible apply KeepsO.next
    | with_reducible apply State.put_keeps
    | with_reducible apply State.restoreAsk_keeps

theorem State.presetAsk_keeps {k0 : Nat} {r0 : State} (s : State) (v : Nat) (hr : Keeps k0 r0 s) (hm : Sub 67108868 k0 := by exact hm.of (by decide)) : Keeps k0 r0 (State.presetAsk s v) := by
  unfold State.presetAsk
  repeat' first
    | with_reducible assumption
    | exact hm.of (by decide)
    | with_reducible apply State.setBitOf_keeps
    | with_reducible apply State.presetArm_keeps
    | (with_reducible refine Keeps.foldl ?_ (fun u x h => ?_))

theorem execPresetRequest_keeps {k0 : Nat} {r0 : State} (v : BitVec 6) (s : State) (hr : Keeps k0 r0 s) (hm : Sub 67108868 k0 := by exact hm.of (by decide)) : KeepsO k0 r0 (execPresetRequest v s) := by
  unfold execPresetRequest
  repeat' first
    | with_reducible assumption
    | exact hm.of (by decide)
    | with_reducible apply KeepsO.next
    | with_reducible apply State.presetAsk_keeps

theorem State.putDword_keeps {k0 : Nat} {r0 : State} (s : State) (a : Nat) (w : Word) (be : BitVec 4) (hr : Keeps k0 r0 s) (hm : Sub 549755813896 k0 := by exact hm.of (by decide)) : Keeps k0 r0 (State.putDword s a w be) := by
  unfold State.putDword
  repeat' first
    | with_reducible assumption
    | exact hm.of (by decide)
    | with_reducible apply State.setByte_keeps
    | with_reducible apply State.unpoison_keeps
    | with_reducible apply Keeps.ite
    | split
    | (with_reducible refine Keeps.foldl ?_ (fun u x h => ?_))

theorem State.ramDrop_keeps {k0 : Nat} {r0 : State} (s : State) (hr : Keeps k0 r0 s) (hm : Sub 274877906980 k0 := by exact hm.of (by decide)) : Keeps k0 r0 (State.ramDrop s) := by
  unfold State.ramDrop
  repeat' first
    | with_reducible assumption
    | exact hm.of (by decide)
    | with_reducible apply State.cmeFault_keeps
    | with_reducible apply State.cnt_keeps
    | with_reducible apply State.noteDrop_keeps

theorem State.progWritten_keeps {k0 : Nat} {r0 : State} (s : State) (hr : Keeps k0 r0 s) (hm : Sub 67108868 k0 := by exact hm.of (by decide)) : Keeps k0 r0 (State.progWritten s) := by
  unfold State.progWritten
  repeat' first
    | with_reducible assumption
    | exact hm.of (by decide)
    | with_reducible apply State.put_keeps
    | with_reducible apply Keeps.upd_cme

theorem State.ramPut_keeps {k0 : Nat} {r0 : State} (s : State) (a : Nat) (w : Word) (be : BitVec 4) (hr : Keeps k0 r0 s) (hm : Sub 549822922764 k0 := by exact hm.of (by decide)) : Keeps k0 r0 (State.ramPut s a w be) := by
  unfold State.ramPut
  repeat' first
    | with_reducible assumption
    | exact hm.of (by decide)
    | (extract_lets +onlyGivenNames y; have hy : Keeps k0 r0 y := ?_; clear_value y; rotate_left; subst y)
    | (extract_lets +onlyGivenNames y; have hy : Keeps k0 r0 y.1 := ?_; clear_value y; rotate_left; subst y)
    | (extract_lets +onlyGivenNames y; clear_value y)
    | (extract_lets +onlyGivenNames y; subst y)
    | with_reducible apply State.putDword_keeps
    | with_reducible apply State.progWritten_keeps
    | with_reducible apply Keeps.ite
    | split

theorem State.ramWrite_keeps {k0 : Nat} {r0 : State} (s : State) (a : Nat) (l : List (Word × BitVec 4)) (hr : Keeps k0 r0 s) (hm : Sub 824700829740 k0 := by exact hm.of (by decide)) : Keeps k0 r0 (State.ramWrite s a l) := by
  unfold State.ramWrite
  repeat' first
    | with_reducible assumption
    | exact hm.of (by decide)
    | (extract_lets +onlyGivenNames y; have hy : Keeps k0 r0 y := ?_; clear_value y; rotate_left; subst y)
    | (extract_lets +onlyGivenNames y; have hy : Keeps k0 r0 y.1 := ?_; clear_value y; rotate_left; subst y)
    | (extract_lets +onlyGivenNames y; clear_value y)
    | (extract_lets +onlyGivenNames y; subst y)
    | with_reducible apply State.ramPut_keeps
    | with_reducible apply State.ramDrop_keeps
    | with_reducible apply Keeps.ite
    | split
    | (with_reducible refine Keeps.foldl ?_ (fun u x h => ?_))

theorem execEngineRamWrite_keeps {k0 : Nat} {r0 : State} (w : WriteReq) (s : State) (hr : Keeps k0 r0 s) (hm : Sub 824700829740 k0 := by exact hm.of (by decide)) : KeepsO k0 r0 (execEngineRamWrite w s) := by
  unfold execEngineRamWrite
  repeat' first
    | with_reducible assumption
    | exact hm.of (by decide)
    | with_reducible apply KeepsO.next
    | with_reducible apply State.ramWrite_keeps
    | with_reducible apply Keeps.ite
    | split

theorem execPaddockRamWrite_keeps {k0 : Nat} {r0 : State} (w : WriteReq) (s : State) (hr : Keeps k0 r0 s) (hm : Sub 824700829740 k0 := by exact hm.of (by decide)) : KeepsO k0 r0 (execPaddockRamWrite w s) := by
  unfold execPaddockRamWrite
  repeat' first
    | with_reducible assumption
    | exact hm.of (by decide)
    | with_reducible apply KeepsO.next
    | with_reducible apply State.ramWrite_keeps
    | with_reducible apply Keeps.ite
    | split

theorem State.haltNow_keeps {k0 : Nat} {r0 : State} (s : State) (hr : Keeps k0 r0 s) (hm : Sub 317894705284 k0 := by exact hm.of (by decide)) : Keeps k0 r0 (State.haltNow s) := by
  unfold State.haltNow
  repeat' first
    | with_reducible assumption
    | exact hm.of (by decide)
    | with_reducible apply State.enterHalt_keeps
    | with_reducible apply Keeps.ite
    | split

theorem execDebugHalt_keeps {k0 : Nat} {r0 : State} (s : State) (hr : Keeps k0 r0 s) (hm : Sub 317894705284 k0 := by exact hm.of (by decide)) : KeepsO k0 r0 (execDebugHalt s) := by
  unfold execDebugHalt
  repeat' first
    | with_reducible assumption
    | exact hm.of (by decide)
    | with_reducible apply KeepsO.next
    | with_reducible apply State.put_keeps
    | with_reducible apply State.haltNow_keeps

theorem execBreakpointHit_keeps {k0 : Nat} {r0 : State} (s : State) (hr : Keeps k0 r0 s) (hm : Sub 317894705284 k0 := by exact hm.of (by decide)) : KeepsO k0 r0 (execBreakpointHit s) := by
  unfold execBreakpointHit
  repeat' first
    | with_reducible assumption
    | exact hm.of (by decide)
    | with_reducible apply KeepsO.next
    | with_reducible apply State.enterHalt_keeps
    | with_reducible apply Keeps.ite
    | split

theorem State.debugRelease_keeps {k0 : Nat} {r0 : State} (s : State) (hr : Keeps k0 r0 s) (hm : Sub 317894688900 k0 := by exact hm.of (by decide)) : Keeps k0 r0 (State.debugRelease s) := by
  unfold State.debugRelease
  repeat' first
    | with_reducible assumption
    | exact hm.of (by decide)
    | (extract_lets +onlyGivenNames y; have hy : Keeps k0 r0 y := ?_; clear_value y; rotate_left; subst y)
    | (extract_lets +onlyGivenNames y; have hy := fun a => y a; clear hy; subst y; beta_reduce)
    | (extract_lets +onlyGivenNames y; have hy : Keeps k0 r0 y.1 := ?_; clear_value y; rotate_left; subst y)
    | (extract_lets +onlyGivenNames y; clear_value y)
    | (extract_lets +onlyGivenNames y; subst y)
    | with_reducible apply State.put_keeps
    | with_reducible apply State.presetArm_keeps
    | with_reducible apply State.raise_keeps
    | with_reducible apply State.engState_keeps
    | with_reducible apply State.holdUpdate_keeps
    | with_reducible apply State.updateFreeze_keeps
    | with_reducible apply State.pwmHaltUpdate_keeps
    | with_reducible apply Keeps.ite
    | split
    | (with_reducible refine Keeps.foldl ?_ (fun u x h => ?_))
    | with_reducible apply Keeps.upd_cme

theorem execDebugRelease_keeps {k0 : Nat} {r0 : State} (s : State) (hr : Keeps k0 r0 s) (hm : Sub 317894688900 k0 := by exact hm.of (by decide)) : KeepsO k0 r0 (execDebugRelease s) := by
  unfold execDebugRelease
  repeat' first
    | with_reducible assumption
    | exact hm.of (by decide)
    | with_reducible apply KeepsO.next
    | with_reducible apply State.put_keeps
    | with_reducible apply State.debugRelease_keeps

theorem State.stepOne_keeps {k0 : Nat} {r0 : State} (s : State) (hr : Keeps k0 r0 s) (hm : Sub 824717623308 k0 := by exact hm.of (by decide)) : Keeps k0 r0 (State.stepOne s) := by
  unfold State.stepOne
  repeat' first
    | with_reducible assumption
    | exact hm.of (by decide)
    | (extract_lets +onlyGivenNames y; have hy : Keeps k0 r0 y := ?_; clear_value y; rotate_left; subst y)
    | (extract_lets +onlyGivenNames y; have hy : Keeps k0 r0 y.1 := ?_; clear_value y; rotate_left; subst y)
    | (extract_lets +onlyGivenNames y; clear_value y)
    | (extract_lets +onlyGivenNames y; subst y)
    | with_reducible apply State.put_keeps
    | with_reducible apply State.cmeFault_keeps
    | with_reducible apply State.overrun_keeps
    | with_reducible apply State.engineUe_keeps
    | with_reducible apply State.endRun_keeps
    | with_reducible apply State.setEng_keeps
    | with_reducible apply State.engOp_keeps
    | with_reducible apply Keeps.ite
    | split

theorem State.debugStep_keeps {k0 : Nat} {r0 : State} (s : State) (hr : Keeps k0 r0 s) (hm : Sub 824717623308 k0 := by exact hm.of (by decide)) : Keeps k0 r0 (State.debugStep s) := by
  unfold State.debugStep
  repeat' first
    | with_reducible assumption
    | exact hm.of (by decide)
    | with_reducible apply State.put_keeps
    | with_reducible apply State.stepOne_keeps
    | with_reducible apply Keeps.ite
    | split

theorem execDebugStep_keeps {k0 : Nat} {r0 : State} (s : State) (hr : Keeps k0 r0 s) (hm : Sub 824717623308 k0 := by exact hm.of (by decide)) : KeepsO k0 r0 (execDebugStep s) := by
  unfold execDebugStep
  repeat' first
    | with_reducible assumption
    | exact hm.of (by decide)
    | with_reducible apply KeepsO.next
    | with_reducible apply State.debugStep_keeps

theorem State.poisonFifo_keeps {k0 : Nat} {r0 : State} (s : State) (a : Nat) (hr : Keeps k0 r0 s) (hm : Sub 549755813888 k0 := by exact hm.of (by decide)) : Keeps k0 r0 (State.poisonFifo s a) := by
  unfold State.poisonFifo
  repeat' first
    | with_reducible assumption
    | exact hm.of (by decide)
    | (extract_lets +onlyGivenNames y; have hy : Keeps k0 r0 y := ?_; clear_value y; rotate_left; subst y)
    | (extract_lets +onlyGivenNames y; have hy : Keeps k0 r0 y.1 := ?_; clear_value y; rotate_left; subst y)
    | (extract_lets +onlyGivenNames y; clear_value y)
    | (extract_lets +onlyGivenNames y; subst y)
    | with_reducible apply Keeps.ite
    | split
    | with_reducible apply Keeps.upd_flt

theorem State.poison_keeps {k0 : Nat} {r0 : State} (s : State) (c a0 : Nat) (hr : Keeps k0 r0 s) (hm : Sub 549755813888 k0 := by exact hm.of (by decide)) : Keeps k0 r0 (State.poison s c a0) := by
  unfold State.poison
  repeat' first
    | with_reducible assumption
    | exact hm.of (by decide)
    | (extract_lets +onlyGivenNames y; have hy : Keeps k0 r0 y := ?_; clear_value y; rotate_left; subst y)
    | (extract_lets +onlyGivenNames y; have hy : Keeps k0 r0 y.1 := ?_; clear_value y; rotate_left; subst y)
    | (extract_lets +onlyGivenNames y; clear_value y)
    | (extract_lets +onlyGivenNames y; subst y)
    | with_reducible apply Keeps.ite
    | split
    | with_reducible apply Keeps.upd_flt

theorem execGroomScrub_keeps {k0 : Nat} {r0 : State} (mem : ScrubMem) (a : BitVec 32) (f : ScrubFind) (s : State) (hr : Keeps k0 r0 s) (hm : Sub 824633720836 k0 := by exact hm.of (by decide)) : KeepsO k0 r0 (execGroomScrub mem a f s) := by
  unfold execGroomScrub
  repeat' first
    | with_reducible assumption
    | exact hm.of (by decide)
    | with_reducible apply KeepsO.next
    | (extract_lets +onlyGivenNames y; have hy : Keeps k0 r0 y := ?_; clear_value y; rotate_left; subst y)
    | (extract_lets +onlyGivenNames y; have hy : Keeps k0 r0 y.1 := ?_; clear_value y; rotate_left; subst y)
    | (extract_lets +onlyGivenNames y; clear_value y)
    | (extract_lets +onlyGivenNames y; subst y)
    | with_reducible apply State.cnt_keeps
    | with_reducible apply State.err_keeps
    | with_reducible apply State.poisonFifo_keeps
    | with_reducible apply State.poison_keeps
    | with_reducible apply Keeps.ite
    | split

theorem State.relatch_keeps {k0 : Nat} {r0 : State} (s : State) (hr : Keeps k0 r0 s) (hm : Sub 67108864 k0 := by exact hm.of (by decide)) : Keeps k0 r0 (State.relatch s) := by
  unfold State.relatch
  repeat' first
    | with_reducible assumption
    | exact hm.of (by decide)
    | with_reducible apply Keeps.ite
    | split
    | with_reducible apply Keeps.upd_cme

theorem State.warmupEnd_keeps {k0 : Nat} {r0 : State} (s : State) (hr : Keeps k0 r0 s) (hm : Sub 67108868 k0 := by exact hm.of (by decide)) : Keeps k0 r0 (State.warmupEnd s) := by
  unfold State.warmupEnd
  repeat' first
    | with_reducible assumption
    | exact hm.of (by decide)
    | with_reducible apply State.presetArm_keeps
    | with_reducible apply State.put_keeps
    | with_reducible apply State.relatch_keeps
    | (with_reducible refine Keeps.foldl ?_ (fun u x h => ?_))

theorem execWarmupEnd_keeps {k0 : Nat} {r0 : State} (s : State) (hr : Keeps k0 r0 s) (hm : Sub 67108868 k0 := by exact hm.of (by decide)) : KeepsO k0 r0 (execWarmupEnd s) := by
  unfold execWarmupEnd
  repeat' first
    | with_reducible assumption
    | exact hm.of (by decide)
    | with_reducible apply KeepsO.next
    | with_reducible apply State.warmupEnd_keeps
    | with_reducible apply Keeps.ite
    | split

theorem State.healthOne_keeps {k0 : Nat} {r0 : State} (s : State) (day i : Nat) (hr : Keeps k0 r0 s) (hm : Sub 67108992 k0 := by exact hm.of (by decide)) : Keeps k0 r0 (State.healthOne s day i) := by
  unfold State.healthOne
  repeat' first
    | with_reducible assumption
    | exact hm.of (by decide)
    | (extract_lets +onlyGivenNames y; have hy : Keeps k0 r0 y := ?_; clear_value y; rotate_left; subst y)
    | (extract_lets +onlyGivenNames y; have hy : Keeps k0 r0 y.1 := ?_; clear_value y; rotate_left; subst y)
    | (extract_lets +onlyGivenNames y; clear_value y)
    | (extract_lets +onlyGivenNames y; subst y)
    | with_reducible apply Keeps.upd_freeIx_cme

theorem execHealthLog_keeps {k0 : Nat} {r0 : State} (s : State) (hr : Keeps k0 r0 s) (hm : Sub 67108992 k0 := by exact hm.of (by decide)) : KeepsO k0 r0 (execHealthLog s) := by
  unfold execHealthLog
  repeat' first
    | with_reducible assumption
    | exact hm.of (by decide)
    | with_reducible apply KeepsO.next
    | (extract_lets +onlyGivenNames y; have hy : Keeps k0 r0 y := ?_; clear_value y; rotate_left; subst y)
    | (extract_lets +onlyGivenNames y; have hy : Keeps k0 r0 y.1 := ?_; clear_value y; rotate_left; subst y)
    | (extract_lets +onlyGivenNames y; clear_value y)
    | (extract_lets +onlyGivenNames y; subst y)
    | with_reducible apply State.healthOne_keeps
    | (with_reducible refine Keeps.foldl ?_ (fun u x h => ?_))

end Sys2Proof.Machine
end

