-- ==== Sys2Proof/Laws/KeepsTack.lean ====
section
/-! SUPPORT. The operations of Machine/Tack.lean leave the queue alone and keep the canonical form of the stores. -/

set_option linter.unusedTactic false
set_option linter.unreachableTactic false

namespace Sys2Proof.Machine

theorem State.withTack_keeps {k0 : Nat} {r0 : State} (s : State) (x : SecSt) (hr : Keeps k0 r0 s) (hm : Sub 1099511627776 k0 := by exact hm.of (by decide)) : Keeps k0 r0 (State.withTack s x) := by
  unfold State.withTack
  repeat' first
    | with_reducible assumption
    | exact hm.of (by decide)
    | with_reducible apply Keeps.upd_tack

theorem State.tackFail_keeps {k0 : Nat} {r0 : State} (s : State) (hr : Keeps k0 r0 s) (hm : Sub 274877906948 k0 := by exact hm.of (by decide)) : Keeps k0 r0 (State.tackFail s) := by
  unfold State.tackFail
  repeat' first
    | with_reducible assumption
    | exact hm.of (by decide)
    | with_reducible apply State.put_keeps
    | with_reducible apply State.raise_keeps

theorem State.advRollback_keeps {k0 : Nat} {r0 : State} (s : State) (k r : Nat) (durable : Bool) (hr : Keeps k0 r0 s) (hm : Sub 274877906948 k0 := by exact hm.of (by decide)) : Keeps k0 r0 (State.advRollback s k r durable) := by
  unfold State.advRollback
  repeat' first
    | with_reducible assumption
    | exact hm.of (by decide)
    | with_reducible apply State.put_keeps
    | with_reducible apply State.raise_keeps
    | with_reducible apply State.tackFail_keeps
    | with_reducible apply Keeps.ite
    | split

theorem State.treeBits_keeps {k0 : Nat} {r0 : State} (s : State) (hr : Keeps k0 r0 s) (hm : Sub 4 k0 := by exact hm.of (by decide)) : Keeps k0 r0 (State.treeBits s) := by
  unfold State.treeBits
  repeat' first
    | with_reducible assumption
    | exact hm.of (by decide)
    | (extract_lets +onlyGivenNames y; have hy : Keeps k0 r0 y := ?_; clear_value y; rotate_left; subst y)
    | (extract_lets +onlyGivenNames y; have hy : Keeps k0 r0 y.1 := ?_; clear_value y; rotate_left; subst y)
    | (extract_lets +onlyGivenNames y; clear_value y)
    | (extract_lets +onlyGivenNames y; subst y)
    | with_reducible apply State.put_keeps

theorem State.treeCurrent_keeps {k0 : Nat} {r0 : State} (s : State) (c : Nat) (hr : Keeps k0 r0 s) (hm : Sub 1099511627776 k0 := by exact hm.of (by decide)) : Keeps k0 r0 (State.treeCurrent s c) := by
  unfold State.treeCurrent
  repeat' first
    | with_reducible assumption
    | exact hm.of (by decide)
    | (extract_lets +onlyGivenNames y; have hy : Keeps k0 r0 y := ?_; clear_value y; rotate_left; subst y)
    | (extract_lets +onlyGivenNames y; have hy : Keeps k0 r0 y.1 := ?_; clear_value y; rotate_left; subst y)
    | (extract_lets +onlyGivenNames y; clear_value y)
    | (extract_lets +onlyGivenNames y; subst y)
    | with_reducible apply State.withTack_keeps
    | with_reducible apply Keeps.ite
    | split

theorem State.treeMove_keeps {k0 : Nat} {r0 : State} (s : State) (hr : Keeps k0 r0 s) (hm : Sub 1099511627780 k0 := by exact hm.of (by decide)) : Keeps k0 r0 (State.treeMove s) := by
  unfold State.treeMove
  repeat' first
    | with_reducible assumption
    | exact hm.of (by decide)
    | (extract_lets +onlyGivenNames y; have hy : Keeps k0 r0 y := ?_; clear_value y; rotate_left; subst y)
    | (extract_lets +onlyGivenNames y; have hy : Keeps k0 r0 y.1 := ?_; clear_value y; rotate_left; subst y)
    | (extract_lets +onlyGivenNames y; clear_value y)
    | (extract_lets +onlyGivenNames y; subst y)
    | with_reducible apply State.treeCurrent_keeps
    | with_reducible apply State.treeBits_keeps
    | with_reducible apply Keeps.ite
    | split

theorem State.treeDone_keeps {k0 : Nat} {r0 : State} (s : State) (hr : Keeps k0 r0 s) (hm : Sub 1374389534724 k0 := by exact hm.of (by decide)) : Keeps k0 r0 (State.treeDone s) := by
  unfold State.treeDone
  repeat' first
    | with_reducible assumption
    | exact hm.of (by decide)
    | (extract_lets +onlyGivenNames y; have hy : Keeps k0 r0 y := ?_; clear_value y; rotate_left; subst y)
    | (extract_lets +onlyGivenNames y; have hy : Keeps k0 r0 y.1 := ?_; clear_value y; rotate_left; subst y)
    | (extract_lets +onlyGivenNames y; clear_value y)
    | (extract_lets +onlyGivenNames y; subst y)
    | with_reducible apply State.withTack_keeps
    | with_reducible apply State.treeCurrent_keeps
    | with_reducible apply State.treeBits_keeps
    | with_reducible apply State.cnt_keeps
    | with_reducible apply State.raise_keeps
    | with_reducible apply Keeps.ite
    | split

theorem execTreeGenerated_keeps {k0 : Nat} {r0 : State} (s : State) (hr : Keeps k0 r0 s) (hm : Sub 1374389534724 k0 := by exact hm.of (by decide)) : KeepsO k0 r0 (execTreeGenerated s) := by
  unfold execTreeGenerated
  repeat' first
    | with_reducible assumption
    | exact hm.of (by decide)
    | with_reducible apply KeepsO.next
    | with_reducible apply State.treeDone_keeps

theorem State.indexLow_keeps {k0 : Nat} {r0 : State} (s : State) (hr : Keeps k0 r0 s) (hm : Sub 274877906948 k0 := by exact hm.of (by decide)) : Keeps k0 r0 (State.indexLow s) := by
  unfold State.indexLow
  repeat' first
    | with_reducible assumption
    | exact hm.of (by decide)
    | with_reducible apply State.put_keeps
    | with_reducible apply State.raise_keeps
    | with_reducible apply Keeps.ite
    | split

theorem State.stationsErase_keeps {k0 : Nat} {r0 : State} (s : State) (hr : Keeps k0 r0 s) (hm : Sub 1374389534724 k0 := by exact hm.of (by decide)) : Keeps k0 r0 (State.stationsErase s) := by
  unfold State.stationsErase
  repeat' first
    | with_reducible assumption
    | exact hm.of (by decide)
    | (extract_lets +onlyGivenNames y; have hy : Keeps k0 r0 y := ?_; clear_value y; rotate_left; subst y)
    | (extract_lets +onlyGivenNames y; have hy : Keeps k0 r0 y.1 := ?_; clear_value y; rotate_left; subst y)
    | (extract_lets +onlyGivenNames y; clear_value y)
    | (extract_lets +onlyGivenNames y; subst y)
    | with_reducible apply State.withTack_keeps
    | with_reducible apply State.put_keeps
    | with_reducible apply State.raise_keeps
    | with_reducible apply Keeps.ite
    | split

theorem State.tamperAct_keeps {k0 : Nat} {r0 : State} (s : State) (hr : Keeps k0 r0 s) (hm : Sub 1374389534724 k0 := by exact hm.of (by decide)) : Keeps k0 r0 (State.tamperAct s) := by
  unfold State.tamperAct
  repeat' first
    | with_reducible assumption
    | exact hm.of (by decide)
    | (extract_lets +onlyGivenNames y; have hy : Keeps k0 r0 y := ?_; clear_value y; rotate_left; subst y)
    | (extract_lets +onlyGivenNames y; have hy : Keeps k0 r0 y.1 := ?_; clear_value y; rotate_left; subst y)
    | (extract_lets +onlyGivenNames y; clear_value y)
    | (extract_lets +onlyGivenNames y; subst y)
    | with_reducible apply State.stationsErase_keeps
    | with_reducible apply State.put_keeps
    | with_reducible apply State.withTack_keeps
    | with_reducible apply State.treeBits_keeps
    | with_reducible apply State.raise_keeps
    | with_reducible apply Keeps.ite
    | split

theorem State.secStart_keeps {k0 : Nat} {r0 : State} (s : State) (chk : TreeCheck) (hr : Keeps k0 r0 s) (hm : Sub 1374389534724 k0 := by exact hm.of (by decide)) : Keeps k0 r0 (State.secStart s chk) := by
  unfold State.secStart
  repeat' first
    | with_reducible assumption
    | exact hm.of (by decide)
    | (extract_lets +onlyGivenNames y; have hy : Keeps k0 r0 y := ?_; clear_value y; rotate_left; subst y)
    | (extract_lets +onlyGivenNames y; have hy := fun a => y a; clear hy; subst y; beta_reduce)
    | (extract_lets +onlyGivenNames y; have hy : Keeps k0 r0 y.1 := ?_; clear_value y; rotate_left; subst y)
    | (extract_lets +onlyGivenNames y; clear_value y)
    | (extract_lets +onlyGivenNames y; subst y)
    | with_reducible apply State.withTack_keeps
    | with_reducible apply State.put_keeps
    | with_reducible apply State.tamperAct_keeps
    | with_reducible apply State.indexLow_keeps
    | with_reducible apply State.treeBits_keeps
    | with_reducible apply Keeps.ite
    | split

end Sys2Proof.Machine
end

