-- ==== Sys2Proof/Laws/KeepsPaddock.lean ====
section
/-! SUPPORT. The operations of Machine/Paddock.lean leave the queue alone and keep the canonical form of the stores. -/

set_option linter.unusedTactic false
set_option linter.unreachableTactic false

namespace Sys2Proof.Machine

theorem State.withPad_keeps {k0 : Nat} {r0 : State} (s : State) (p : Pad) (hr : Keeps k0 r0 s) (hm : Sub 67108864 k0 := by exact hm.of (by decide)) : Keeps k0 r0 (State.withPad s p) := by
  unfold State.withPad
  repeat' first
    | with_reducible assumption
    | exact hm.of (by decide)
    | with_reducible apply Keeps.upd_cme

theorem State.padFail_keeps {k0 : Nat} {r0 : State} (s : State) (detail : Nat) (hr : Keeps k0 r0 s) (hm : Sub 16384 k0 := by exact hm.of (by decide)) : Keeps k0 r0 (State.padFail s detail) := by
  unfold State.padFail
  repeat' first
    | with_reducible assumption
    | exact hm.of (by decide)
    | with_reducible apply State.finish_keeps

theorem State.padBadArg_keeps {k0 : Nat} {r0 : State} (s : State) (hr : Keeps k0 r0 s) (hm : Sub 16384 k0 := by exact hm.of (by decide)) : Keeps k0 r0 (State.padBadArg s) := by
  unfold State.padBadArg
  repeat' first
    | with_reducible assumption
    | exact hm.of (by decide)
    | with_reducible apply State.finish_keeps

theorem State.padCompare_keeps {k0 : Nat} {r0 : State} (s : State) (hr : Keeps k0 r0 s) (hm : Sub 67108864 k0 := by exact hm.of (by decide)) : Keeps k0 r0 (State.padCompare s) := by
  unfold State.padCompare
  repeat' first
    | with_reducible assumption
    | exact hm.of (by decide)
    | (extract_lets +onlyGivenNames y; have hy : Keeps k0 r0 y := ?_; clear_value y; rotate_left; subst y)
    | (extract_lets +onlyGivenNames y; have hy : Keeps k0 r0 y.1 := ?_; clear_value y; rotate_left; subst y)
    | (extract_lets +onlyGivenNames y; clear_value y)
    | (extract_lets +onlyGivenNames y; subst y)
    | with_reducible apply State.withPad_keeps
    | (with_reducible refine Keeps.foldl ?_ (fun u x h => ?_))

theorem State.padBoundary_keeps {k0 : Nat} {r0 : State} (s : State) (hr : Keeps k0 r0 s) (hm : Sub 67108864 k0 := by exact hm.of (by decide)) : Keeps k0 r0 (State.padBoundary s) := by
  unfold State.padBoundary
  repeat' first
    | with_reducible assumption
    | exact hm.of (by decide)
    | (extract_lets +onlyGivenNames y; have hy : Keeps k0 r0 y := ?_; clear_value y; rotate_left; subst y)
    | (extract_lets +onlyGivenNames y; have hy : Keeps k0 r0 y.1 := ?_; clear_value y; rotate_left; subst y)
    | (extract_lets +onlyGivenNames y; clear_value y)
    | (extract_lets +onlyGivenNames y; subst y)
    | with_reducible apply State.padCompare_keeps
    | with_reducible apply State.withPad_keeps
    | with_reducible apply Keeps.ite
    | split
    | (with_reducible refine Keeps.foldl ?_ (fun u x h => ?_))
    | with_reducible apply Keeps.upd_cme

theorem swapMem_wf (m : KMap Byte) (w : KMap.wf memDefault m = true) : KMap.wf memDefault (swapMem m) = true := by
  rw [KMap.wf_iff] at w ⊢
  obtain ⟨hp, hd⟩ := w
  have z : ∀ a, 0xC00000 ≤ a → memDefault a = 0#8 := by
    intro a ha
    unfold memDefault
    rw [if_neg (by omega)]
  unfold swapMem
  refine ⟨?_, ?_⟩
  · simp only [List.pairwise_append, List.pairwise_map, List.mem_append, List.mem_map, List.mem_filter]
    refine ⟨⟨⟨hp.filter _, (hp.filter _).imp_of_mem ?_, ?_⟩, (hp.filter _).imp ?_, ?_⟩, hp.filter _, ?_⟩
    · intro a b ha hb h
      simp [paddockOff] at ha hb ⊢
      omega
    · rintro a ⟨-, ha⟩ b ⟨c, ⟨-, hc⟩, rfl⟩
      simp [paddockOff] at ha hc ⊢
      omega
    · intro a b h
      simpa using h
    · rintro a (⟨-, ha⟩ | ⟨e, ⟨-, he⟩, rfl⟩) b ⟨c, ⟨-, hc⟩, rfl⟩
      · simp [paddockOff] at ha hc ⊢
        omega
      · simp [paddockOff] at he hc ⊢
        omega
    · rintro a ((⟨-, ha⟩ | ⟨e, ⟨-, he⟩, rfl⟩) | ⟨e, ⟨-, he⟩, rfl⟩) b ⟨-, hb⟩
      · simp at ha hb
        omega
      · simp [paddockOff] at he hb ⊢
        omega
      · simp [paddockOff] at he hb ⊢
        omega
  · simp only [List.mem_append, List.mem_map, List.mem_filter]
    rintro p (((⟨h, -⟩ | ⟨q, ⟨h, hq⟩, rfl⟩) | ⟨q, ⟨h, hq⟩, rfl⟩) | ⟨h, -⟩)
    · exact hd p h
    · simp [paddockOff] at hq ⊢
      have := hd q h
      rw [z _ (by omega)] at this
      rwa [z _ (by omega)]
    · simp [paddockOff] at hq ⊢
      have := hd q h
      rw [z _ (by omega)] at this
      rwa [z _ (by omega)]
    · exact hd p h

theorem State.exchangeRoles_keeps {k0 : Nat} {r0 : State} (s : State) (hr : Keeps k0 r0 s) (hm : Sub 549822922764 k0 := by exact hm.of (by decide)) : Keeps k0 r0 (State.exchangeRoles s) := by
  unfold State.exchangeRoles
  extract_lets +onlyGivenNames old
  clear_value old
  extract_lets +onlyGivenNames p a b c
  have ha : Keeps k0 r0 a := Keeps.upd_mem_flt hr (swapMem_wf _)
  clear_value a
  have hb : Keeps k0 r0 b := State.put_keeps _ _ _ (State.put_keeps _ _ _ ha)
  clear_value b
  have hc : Keeps k0 r0 c := Keeps.foldl hb fun u x h => State.presetArm_keeps _ _ h
  clear_value c
  exact Keeps.upd_cme hc

theorem State.retain_keeps {k0 : Nat} {r0 : State} (s : State) (hr : Keeps k0 r0 s) (hm : Sub 67108868 k0 := by exact hm.of (by decide)) : Keeps k0 r0 (State.retain s) := by
  unfold State.retain
  repeat' first
    | with_reducible assumption
    | exact hm.of (by decide)
    | with_reducible apply State.withPad_keeps
    | with_reducible apply State.setPad_keeps

theorem State.padEnd_keeps {k0 : Nat} {r0 : State} (s : State) (durable : Bool) (hr : Keeps k0 r0 s) (hm : Sub 4672991526916 k0 := by exact hm.of (by decide)) : Keeps k0 r0 (State.padEnd s durable) := by
  unfold State.padEnd
  repeat' first
    | with_reducible assumption
    | exact hm.of (by decide)
    | (extract_lets +onlyGivenNames y; have hy : Keeps k0 r0 y := ?_; clear_value y; rotate_left; subst y)
    | (extract_lets +onlyGivenNames y; have hy : Keeps k0 r0 y.1 := ?_; clear_value y; rotate_left; subst y)
    | (extract_lets +onlyGivenNames y; clear_value y)
    | (extract_lets +onlyGivenNames y; subst y)
    | with_reducible apply State.retain_keeps
    | with_reducible apply State.advRollback_keeps
    | with_reducible apply State.setPad_keeps
    | with_reducible apply Keeps.ite
    | split
    | with_reducible apply Keeps.upd_cme
    | with_reducible apply Keeps.upd_upd

theorem execPaddockCompareHandover_keeps {k0 : Nat} {r0 : State} (s : State) (hr : Keeps k0 r0 s) (hm : Sub 549822939148 k0 := by exact hm.of (by decide)) : KeepsO k0 r0 (execPaddockCompareHandover s) := by
  unfold execPaddockCompareHandover
  repeat' first
    | with_reducible assumption
    | exact hm.of (by decide)
    | with_reducible apply KeepsO.next
    | (extract_lets +onlyGivenNames y; have hy : Keeps k0 r0 y := ?_; clear_value y; rotate_left; subst y)
    | (extract_lets +onlyGivenNames y; have hy : Keeps k0 r0 y.1 := ?_; clear_value y; rotate_left; subst y)
    | (extract_lets +onlyGivenNames y; clear_value y)
    | (extract_lets +onlyGivenNames y; subst y)
    | with_reducible apply State.padFail_keeps
    | with_reducible apply State.withPad_keeps
    | with_reducible apply State.setPad_keeps
    | with_reducible apply State.padBadArg_keeps
    | with_reducible apply State.exchangeRoles_keeps
    | with_reducible apply State.put_keeps
    | with_reducible apply State.retain_keeps
    | with_reducible apply State.finish_keeps
    | with_reducible apply Keeps.ite
    | split

theorem execPaddockReport_keeps {k0 : Nat} {r0 : State} (s : State) (hr : Keeps k0 r0 s) (hm : Sub 16384 k0 := by exact hm.of (by decide)) : KeepsO k0 r0 (execPaddockReport s) := by
  unfold execPaddockReport
  repeat' first
    | with_reducible assumption
    | exact hm.of (by decide)
    | with_reducible apply KeepsO.next
    | with_reducible apply State.finish_keeps
    | with_reducible apply Keeps.ite
    | split

theorem execPaddockEnd_keeps {k0 : Nat} {r0 : State} (durable : Bool) (s : State) (hr : Keeps k0 r0 s) (hm : Sub 4672991543300 k0 := by exact hm.of (by decide)) : KeepsO k0 r0 (execPaddockEnd durable s) := by
  unfold execPaddockEnd
  repeat' first
    | with_reducible assumption
    | exact hm.of (by decide)
    | with_reducible apply KeepsO.next
    | (extract_lets +onlyGivenNames y; have hy : Keeps k0 r0 y := ?_; clear_value y; rotate_left; subst y)
    | (extract_lets +onlyGivenNames y; have hy : Keeps k0 r0 y.1 := ?_; clear_value y; rotate_left; subst y)
    | (extract_lets +onlyGivenNames y; clear_value y)
    | (extract_lets +onlyGivenNames y; subst y)
    | with_reducible apply State.padFail_keeps
    | with_reducible apply State.padEnd_keeps
    | with_reducible apply State.finish_keeps
    | with_reducible apply Keeps.ite
    | split

theorem execPaddockRollback_keeps {k0 : Nat} {r0 : State} (s : State) (hr : Keeps k0 r0 s) (hm : Sub 67125248 k0 := by exact hm.of (by decide)) : KeepsO k0 r0 (execPaddockRollback s) := by
  unfold execPaddockRollback
  repeat' first
    | with_reducible assumption
    | exact hm.of (by decide)
    | with_reducible apply KeepsO.next
    | with_reducible apply State.retain_keeps
    | with_reducible apply State.padFail_keeps
    | with_reducible apply State.withPad_keeps
    | with_reducible apply Keeps.ite
    | split

theorem execPaddockCompareEnd_keeps {k0 : Nat} {r0 : State} (s : State) (hr : Keeps k0 r0 s) (hm : Sub 67387396 k0 := by exact hm.of (by decide)) : KeepsO k0 r0 (execPaddockCompareEnd s) := by
  unfold execPaddockCompareEnd
  repeat' first
    | with_reducible assumption
    | exact hm.of (by decide)
    | with_reducible apply KeepsO.next
    | (extract_lets +onlyGivenNames y; have hy : Keeps k0 r0 y := ?_; clear_value y; rotate_left; subst y)
    | (extract_lets +onlyGivenNames y; have hy : Keeps k0 r0 y.1 := ?_; clear_value y; rotate_left; subst y)
    | (extract_lets +onlyGivenNames y; clear_value y)
    | (extract_lets +onlyGivenNames y; subst y)
    | with_reducible apply State.padCompare_keeps
    | with_reducible apply State.withPad_keeps
    | with_reducible apply State.padAbort_keeps
    | with_reducible apply Keeps.ite
    | split

theorem execPaddockHandover_keeps {k0 : Nat} {r0 : State} (s : State) (hr : Keeps k0 r0 s) (hm : Sub 5265697030284 k0 := by exact hm.of (by decide)) : KeepsO k0 r0 (execPaddockHandover s) := by
  unfold execPaddockHandover
  repeat' first
    | with_reducible assumption
    | exact hm.of (by decide)
    | with_reducible apply KeepsO.next
    | (extract_lets +onlyGivenNames y; have hy : Keeps k0 r0 y := ?_; clear_value y; rotate_left; subst y)
    | (extract_lets +onlyGivenNames y; have hy : Keeps k0 r0 y.1 := ?_; clear_value y; rotate_left; subst y)
    | (extract_lets +onlyGivenNames y; clear_value y)
    | (extract_lets +onlyGivenNames y; subst y)
    | with_reducible apply State.exchangeRoles_keeps
    | with_reducible apply State.setPad_keeps
    | with_reducible apply State.retain_keeps
    | with_reducible apply State.withPad_keeps
    | with_reducible apply State.engStart_keeps
    | with_reducible apply Keeps.ite
    | split
    | with_reducible apply Keeps.upd_upd

theorem execRetainExpiry_keeps {k0 : Nat} {r0 : State} (durable : Bool) (s : State) (hr : Keeps k0 r0 s) (hm : Sub 4672991526916 k0 := by exact hm.of (by decide)) : KeepsO k0 r0 (execRetainExpiry durable s) := by
  unfold execRetainExpiry
  repeat' first
    | with_reducible assumption
    | exact hm.of (by decide)
    | with_reducible apply KeepsO.next
    | with_reducible apply State.retain_keeps
    | with_reducible apply State.padEnd_keeps
    | with_reducible apply Keeps.ite
    | split

end Sys2Proof.Machine
end

