-- ==== Sys2Proof/Laws/KeepsPair.lean ====
section
/-! SUPPORT. The operations of Machine/Pair.lean leave the queue alone and keep the canonical form of the stores. -/

set_option linter.unusedTactic false
set_option linter.unreachableTactic false

namespace Sys2Proof.Machine

theorem State.withPair_keeps {k0 : Nat} {r0 : State} (s : State) (p : PairSt) (hr : Keeps k0 r0 s) (hm : Sub 8796093022208 k0 := by exact hm.of (by decide)) : Keeps k0 r0 (State.withPair s p) := by
  unfold State.withPair
  repeat' first
    | with_reducible assumption
    | exact hm.of (by decide)
    | with_reducible apply Keeps.upd_pair

theorem State.setPairState_keeps {k0 : Nat} {r0 : State} (s : State) (v : Nat) (hr : Keeps k0 r0 s) (hm : Sub 274877906948 k0 := by exact hm.of (by decide)) : Keeps k0 r0 (State.setPairState s v) := by
  unfold State.setPairState
  repeat' first
    | with_reducible assumption
    | exact hm.of (by decide)
    | with_reducible apply State.put_keeps
    | with_reducible apply State.raise_keeps
    | with_reducible apply Keeps.ite
    | split

theorem State.setLead_keeps {k0 : Nat} {r0 : State} (s : State) (b : Bool) (hr : Keeps k0 r0 s) (hm : Sub 274877906948 k0 := by exact hm.of (by decide)) : Keeps k0 r0 (State.setLead s b) := by
  unfold State.setLead
  repeat' first
    | with_reducible assumption
    | exact hm.of (by decide)
    | with_reducible apply State.put_keeps
    | with_reducible apply State.raise_keeps
    | with_reducible apply Keeps.ite
    | split

theorem State.pairEmit_keeps {k0 : Nat} {r0 : State} (s : State) (f : List (BitVec 64)) (hr : Keeps k0 r0 s) (hm : Sub 8388672 k0 := by exact hm.of (by decide)) : Keeps k0 r0 (State.pairEmit s f) := by
  unfold State.pairEmit
  repeat' first
    | with_reducible assumption
    | exact hm.of (by decide)
    | with_reducible apply State.laneSend_keeps
    | with_reducible apply Keeps.ite
    | split
    | (with_reducible refine Keeps.foldl ?_ (fun u x h => ?_))

theorem State.pstatSend_keeps {k0 : Nat} {r0 : State} (s : State) (hr : Keeps k0 r0 s) (hm : Sub 8388672 k0 := by exact hm.of (by decide)) : Keeps k0 r0 (State.pstatSend s) := by
  unfold State.pstatSend
  repeat' first
    | with_reducible assumption
    | exact hm.of (by decide)
    | with_reducible apply State.laneSend_keeps
    | with_reducible apply Keeps.ite
    | split
    | (with_reducible refine Keeps.foldl ?_ (fun u x h => ?_))

theorem State.pairSend_keeps {k0 : Nat} {r0 : State} (s : State) (pout : List (Nat × List Nat)) (ended : Nat) (hr : Keeps k0 r0 s) (hm : Sub 8796101410880 k0 := by exact hm.of (by decide)) : Keeps k0 r0 (State.pairSend s pout ended) := by
  unfold State.pairSend
  repeat' first
    | with_reducible assumption
    | exact hm.of (by decide)
    | (extract_lets +onlyGivenNames y; have hy : Keeps k0 r0 y := ?_; clear_value y; rotate_left; subst y)
    | (extract_lets +onlyGivenNames y; have hy : Keeps k0 r0 y.1 := ?_; clear_value y; rotate_left; subst y)
    | (extract_lets +onlyGivenNames y; clear_value y)
    | (extract_lets +onlyGivenNames y; subst y)
    | with_reducible apply State.pstatSend_keeps
    | with_reducible apply State.withPair_keeps
    | with_reducible apply State.pairEmit_keeps
    | with_reducible apply Keeps.ite
    | split
    | (with_reducible refine Keeps.foldl ?_ (fun u x h => ?_))

theorem State.ctbDiff_keeps {k0 : Nat} {r0 : State} (s : State) (p : PStat) (hr : Keeps k0 r0 s) (hm : Sub 9070970929156 k0 := by exact hm.of (by decide)) : Keeps k0 r0 (State.ctbDiff s p) := by
  unfold State.ctbDiff
  repeat' first
    | with_reducible assumption
    | exact hm.of (by decide)
    | (extract_lets +onlyGivenNames y; have hy : Keeps k0 r0 y := ?_; clear_value y; rotate_left; subst y)
    | (extract_lets +onlyGivenNames y; have hy : Keeps k0 r0 y.1 := ?_; clear_value y; rotate_left; subst y)
    | (extract_lets +onlyGivenNames y; clear_value y)
    | (extract_lets +onlyGivenNames y; subst y)
    | with_reducible apply State.withPair_keeps
    | with_reducible apply State.setReg_keeps
    | with_reducible apply State.put_keeps
    | with_reducible apply State.raise_keeps
    | with_reducible apply Keeps.ite
    | split

theorem State.pstatTake_keeps {k0 : Nat} {r0 : State} (s : State) (p : PStat) (hr : Keeps k0 r0 s) (hm : Sub 9070970929156 k0 := by exact hm.of (by decide)) : Keeps k0 r0 (State.pstatTake s p) := by
  unfold State.pstatTake
  repeat' first
    | with_reducible assumption
    | exact hm.of (by decide)
    | (extract_lets +onlyGivenNames y; have hy : Keeps k0 r0 y := ?_; clear_value y; rotate_left; subst y)
    | (extract_lets +onlyGivenNames y; have hy : Keeps k0 r0 y.1 := ?_; clear_value y; rotate_left; subst y)
    | (extract_lets +onlyGivenNames y; clear_value y)
    | (extract_lets +onlyGivenNames y; subst y)
    | with_reducible apply State.withPair_keeps
    | with_reducible apply State.put_keeps
    | with_reducible apply State.raise_keeps
    | with_reducible apply State.cnt_keeps
    | with_reducible apply State.setReg_keeps
    | with_reducible apply State.ctbDiff_keeps
    | with_reducible apply Keeps.ite
    | split

theorem State.pstatIn_keeps {k0 : Nat} {r0 : State} (s : State) (n : Nat) (f : List (BitVec 64)) (hr : Keeps k0 r0 s) (hm : Sub 9070970929156 k0 := by exact hm.of (by decide)) : Keeps k0 r0 (State.pstatIn s n f) := by
  unfold State.pstatIn
  repeat' first
    | with_reducible assumption
    | exact hm.of (by decide)
    | with_reducible apply State.cnt_keeps
    | with_reducible apply State.withPair_keeps
    | with_reducible apply State.pstatTake_keeps
    | with_reducible apply Keeps.ite
    | split

theorem State.poutIn_keeps {k0 : Nat} {r0 : State} (s : State) (n : Nat) (f : List (BitVec 64)) (hr : Keeps k0 r0 s) (hm : Sub 8796093022212 k0 := by exact hm.of (by decide)) : Keeps k0 r0 (State.poutIn s n f) := by
  unfold State.poutIn
  repeat' first
    | with_reducible assumption
    | exact hm.of (by decide)
    | (extract_lets +onlyGivenNames y; have hy : Keeps k0 r0 y := ?_; clear_value y; rotate_left; subst y)
    | (extract_lets +onlyGivenNames y; have hy : Keeps k0 r0 y.1 := ?_; clear_value y; rotate_left; subst y)
    | (extract_lets +onlyGivenNames y; clear_value y)
    | (extract_lets +onlyGivenNames y; subst y)
    | with_reducible apply State.cnt_keeps
    | with_reducible apply State.withPair_keeps
    | with_reducible apply Keeps.ite
    | split

theorem State.splitMark_keeps {k0 : Nat} {r0 : State} (s : State) (partnerLead : Bool) (hr : Keeps k0 r0 s) (hm : Sub 274877906948 k0 := by exact hm.of (by decide)) : Keeps k0 r0 (State.splitMark s partnerLead) := by
  unfold State.splitMark
  repeat' first
    | with_reducible assumption
    | exact hm.of (by decide)
    | with_reducible apply State.put_keeps
    | with_reducible apply State.raise_keeps
    | with_reducible apply Keeps.ite
    | split

theorem State.enterLinked_keeps {k0 : Nat} {r0 : State} (s : State) (p : PStat) (hr : Keeps k0 r0 s) (hm : Sub 9070970929156 k0 := by exact hm.of (by decide)) : Keeps k0 r0 (State.enterLinked s p) := by
  unfold State.enterLinked
  repeat' first
    | with_reducible assumption
    | exact hm.of (by decide)
    | (extract_lets +onlyGivenNames y; have hy : Keeps k0 r0 y := ?_; clear_value y; rotate_left; subst y)
    | (extract_lets +onlyGivenNames y; have hy : Keeps k0 r0 y.1 := ?_; clear_value y; rotate_left; subst y)
    | (extract_lets +onlyGivenNames y; clear_value y)
    | (extract_lets +onlyGivenNames y; subst y)
    | with_reducible apply State.setPairState_keeps
    | with_reducible apply State.withPair_keeps
    | with_reducible apply State.splitMark_keeps
    | with_reducible apply State.setLead_keeps

theorem State.majority_keeps {k0 : Nat} {r0 : State} (s : State) (hr : Keeps k0 r0 s) (hm : Sub 274877906948 k0 := by exact hm.of (by decide)) : Keeps k0 r0 (State.majority s) := by
  unfold State.majority
  repeat' first
    | with_reducible assumption
    | exact hm.of (by decide)
    | with_reducible apply State.setLead_keeps
    | with_reducible apply Keeps.ite
    | split

theorem State.pairStep_keeps {k0 : Nat} {r0 : State} (s : State) (hr : Keeps k0 r0 s) (hm : Sub 9070970929156 k0 := by exact hm.of (by decide)) : Keeps k0 r0 (State.pairStep s) := by
  unfold State.pairStep
  repeat' first
    | with_reducible assumption
    | exact hm.of (by decide)
    | with_reducible apply State.enterLinked_keeps
    | with_reducible apply State.majority_keeps
    | with_reducible apply State.setLead_keeps
    | with_reducible apply State.splitMark_keeps
    | with_reducible apply Keeps.ite
    | split

theorem execPairLinkLoss_keeps {k0 : Nat} {r0 : State} (s : State) (hr : Keeps k0 r0 s) (hm : Sub 274877906948 k0 := by exact hm.of (by decide)) : KeepsO k0 r0 (execPairLinkLoss s) := by
  unfold execPairLinkLoss
  repeat' first
    | with_reducible assumption
    | exact hm.of (by decide)
    | with_reducible apply KeepsO.next
    | with_reducible apply State.put_keeps
    | with_reducible apply State.raise_keeps
    | with_reducible apply State.setPairState_keeps
    | with_reducible apply Keeps.ite
    | split

theorem State.mirrorCheck_keeps {k0 : Nat} {r0 : State} (s : State) (hr : Keeps k0 r0 s) (hm : Sub 274877906948 k0 := by exact hm.of (by decide)) : Keeps k0 r0 (State.mirrorCheck s) := by
  unfold State.mirrorCheck
  repeat' first
    | with_reducible assumption
    | exact hm.of (by decide)
    | with_reducible apply State.put_keeps
    | with_reducible apply State.raise_keeps
    | with_reducible apply Keeps.ite
    | split

theorem State.pairEnter_keeps {k0 : Nat} {r0 : State} (s : State) (hr : Keeps k0 r0 s) (hm : Sub 274877906948 k0 := by exact hm.of (by decide)) : Keeps k0 r0 (State.pairEnter s) := by
  unfold State.pairEnter
  repeat' first
    | with_reducible assumption
    | exact hm.of (by decide)
    | (extract_lets +onlyGivenNames y; have hy : Keeps k0 r0 y := ?_; clear_value y; rotate_left; subst y)
    | (extract_lets +onlyGivenNames y; have hy : Keeps k0 r0 y.1 := ?_; clear_value y; rotate_left; subst y)
    | (extract_lets +onlyGivenNames y; clear_value y)
    | (extract_lets +onlyGivenNames y; subst y)
    | with_reducible apply State.setPairState_keeps
    | with_reducible apply State.setLead_keeps
    | with_reducible apply State.put_keeps
    | with_reducible apply Keeps.ite
    | split

theorem State.pairCfgSet_keeps {k0 : Nat} {r0 : State} (s : State) (was : Bool) (hr : Keeps k0 r0 s) (hm : Sub 9070970929156 k0 := by exact hm.of (by decide)) : Keeps k0 r0 (State.pairCfgSet s was) := by
  unfold State.pairCfgSet
  repeat' first
    | with_reducible assumption
    | exact hm.of (by decide)
    | with_reducible apply State.withPair_keeps
    | with_reducible apply State.mirrorCheck_keeps
    | with_reducible apply Keeps.ite
    | split

theorem State.pairCommit_keeps {k0 : Nat} {r0 : State} (s : State) (v : Word) (hr : Keeps k0 r0 s) (hm : Sub 9070970929156 k0 := by exact hm.of (by decide)) : Keeps k0 r0 (State.pairCommit s v) := by
  unfold State.pairCommit
  repeat' first
    | with_reducible assumption
    | exact hm.of (by decide)
    | with_reducible apply State.setReg_keeps
    | with_reducible apply State.pairCfgSet_keeps

theorem execPairEnable_keeps {k0 : Nat} {r0 : State} (v : Word) (s : State) (hr : Keeps k0 r0 s) (hm : Sub 9070970929156 k0 := by exact hm.of (by decide)) : KeepsO k0 r0 (execPairEnable v s) := by
  unfold execPairEnable
  repeat' first
    | with_reducible assumption
    | exact hm.of (by decide)
    | with_reducible apply KeepsO.next
    | with_reducible apply State.pairCommit_keeps

theorem execForceLead_keeps {k0 : Nat} {r0 : State} (s : State) (hr : Keeps k0 r0 s) (hm : Sub 9070970929156 k0 := by exact hm.of (by decide)) : KeepsO k0 r0 (execForceLead s) := by
  unfold execForceLead
  repeat' first
    | with_reducible assumption
    | exact hm.of (by decide)
    | with_reducible apply KeepsO.next
    | with_reducible apply State.put_keeps
    | with_reducible apply State.pairCfgSet_keeps

theorem execDigestUpdate_keeps {k0 : Nat} {r0 : State} (d : Fin 3) (s : State) (hr : Keeps k0 r0 s) (hm : Sub 4 k0 := by exact hm.of (by decide)) : KeepsO k0 r0 (execDigestUpdate d s) := by
  unfold execDigestUpdate
  repeat' first
    | with_reducible assumption
    | exact hm.of (by decide)
    | with_reducible apply KeepsO.next
    | (extract_lets +onlyGivenNames y; have hy : Keeps k0 r0 y := ?_; clear_value y; rotate_left; subst y)
    | (extract_lets +onlyGivenNames y; have hy : Keeps k0 r0 y.1 := ?_; clear_value y; rotate_left; subst y)
    | (extract_lets +onlyGivenNames y; clear_value y)
    | (extract_lets +onlyGivenNames y; subst y)
    | with_reducible apply State.setReg_keeps
    | with_reducible apply Keeps.ite
    | split

theorem execDigestMismatch_keeps {k0 : Nat} {r0 : State} (d : Fin 3) (s : State) (hr : Keeps k0 r0 s) (hm : Sub 274877906948 k0 := by exact hm.of (by decide)) : KeepsO k0 r0 (execDigestMismatch d s) := by
  unfold execDigestMismatch
  repeat' first
    | with_reducible assumption
    | exact hm.of (by decide)
    | with_reducible apply KeepsO.next
    | with_reducible apply State.setBitOf_keeps
    | with_reducible apply State.raise_keeps
    | with_reducible apply Keeps.ite
    | split

theorem State.pairCount_keeps {k0 : Nat} {r0 : State} (s : State) (hr : Keeps k0 r0 s) (hm : Sub 8796093022212 k0 := by exact hm.of (by decide)) : Keeps k0 r0 (State.pairCount s) := by
  unfold State.pairCount
  repeat' first
    | with_reducible assumption
    | exact hm.of (by decide)
    | (extract_lets +onlyGivenNames y; have hy : Keeps k0 r0 y := ?_; clear_value y; rotate_left; subst y)
    | (extract_lets +onlyGivenNames y; have hy : Keeps k0 r0 y.1 := ?_; clear_value y; rotate_left; subst y)
    | (extract_lets +onlyGivenNames y; clear_value y)
    | (extract_lets +onlyGivenNames y; subst y)
    | with_reducible apply State.cnt_keeps
    | with_reducible apply State.withPair_keeps
    | with_reducible apply Keeps.ite
    | split

theorem State.followCounts_keeps {k0 : Nat} {r0 : State} (s : State) (hr : Keeps k0 r0 s) (hm : Sub 4 k0 := by exact hm.of (by decide)) : Keeps k0 r0 (State.followCounts s) := by
  unfold State.followCounts
  repeat' first
    | with_reducible assumption
    | exact hm.of (by decide)
    | with_reducible apply State.put_keeps

theorem State.takeovers_keeps {k0 : Nat} {r0 : State} (s : State) (hr : Keeps k0 r0 s) (hm : Sub 9071038038020 k0 := by exact hm.of (by decide)) : Keeps k0 r0 (State.takeovers s) := by
  unfold State.takeovers
  repeat' first
    | with_reducible assumption
    | exact hm.of (by decide)
    | (extract_lets +onlyGivenNames y; have hy : Keeps k0 r0 y := ?_; clear_value y; rotate_left; subst y)
    | (extract_lets +onlyGivenNames y; have hy : Keeps k0 r0 y.1 := ?_; clear_value y; rotate_left; subst y)
    | (extract_lets +onlyGivenNames y; clear_value y)
    | (extract_lets +onlyGivenNames y; subst y)
    | with_reducible apply State.withPair_keeps
    | with_reducible apply State.presetArm_keeps
    | with_reducible apply State.cnt_keeps
    | with_reducible apply State.raise_keeps
    | with_reducible apply Keeps.ite
    | split
    | (with_reducible refine Keeps.foldl ?_ (fun u x h => ?_))

theorem State.claimYield_keeps {k0 : Nat} {r0 : State} (s : State) (hr : Keeps k0 r0 s) (hm : Sub 9070970929156 k0 := by exact hm.of (by decide)) : Keeps k0 r0 (State.claimYield s) := by
  unfold State.claimYield
  repeat' first
    | with_reducible assumption
    | exact hm.of (by decide)
    | (extract_lets +onlyGivenNames y; have hy : Keeps k0 r0 y := ?_; clear_value y; rotate_left; subst y)
    | (extract_lets +onlyGivenNames y; have hy := fun a => y a; clear hy; subst y; beta_reduce)
    | (extract_lets +onlyGivenNames y; have hy : Keeps k0 r0 y.1 := ?_; clear_value y; rotate_left; subst y)
    | (extract_lets +onlyGivenNames y; clear_value y)
    | (extract_lets +onlyGivenNames y; subst y)
    | with_reducible apply State.withPair_keeps
    | with_reducible apply State.setReg_keeps
    | with_reducible apply State.cnt_keeps
    | with_reducible apply State.raise_keeps
    | with_reducible apply Keeps.ite
    | split
    | (with_reducible refine Keeps.foldl ?_ (fun u x h => ?_))

theorem State.pairReload_keeps {k0 : Nat} {r0 : State} (s : State) (hr : Keeps k0 r0 s) (hm : Sub 9071038038020 k0 := by exact hm.of (by decide)) : Keeps k0 r0 (State.pairReload s) := by
  unfold State.pairReload
  repeat' first
    | with_reducible assumption
    | exact hm.of (by decide)
    | (extract_lets +onlyGivenNames y; have hy : Keeps k0 r0 y := ?_; clear_value y; rotate_left; subst y)
    | (extract_lets +onlyGivenNames y; have hy : Keeps k0 r0 y.1 := ?_; clear_value y; rotate_left; subst y)
    | (extract_lets +onlyGivenNames y; clear_value y)
    | (extract_lets +onlyGivenNames y; subst y)
    | with_reducible apply State.pairCount_keeps
    | with_reducible apply State.followCounts_keeps
    | with_reducible apply State.pairStep_keeps
    | with_reducible apply State.pairEnter_keeps
    | with_reducible apply State.mirrorCheck_keeps
    | with_reducible apply State.put_keeps
    | with_reducible apply State.takeovers_keeps
    | with_reducible apply State.claimYield_keeps
    | with_reducible apply Keeps.ite
    | split

theorem State.loadArm_keeps {k0 : Nat} {r0 : State} (s : State) (a : Nat) (words slots : List Nat) (hr : Keeps k0 r0 s) (hm : Sub 549822922764 k0 := by exact hm.of (by decide)) : Keeps k0 r0 (State.loadArm s a words slots) := by
  unfold State.loadArm
  repeat' first
    | with_reducible assumption
    | exact hm.of (by decide)
    | (extract_lets +onlyGivenNames y; have hy : Keeps k0 r0 y := ?_; clear_value y; rotate_left; subst y)
    | (extract_lets +onlyGivenNames y; have hy : Keeps k0 r0 y.1 := ?_; clear_value y; rotate_left; subst y)
    | (extract_lets +onlyGivenNames y; clear_value y)
    | (extract_lets +onlyGivenNames y; subst y)
    | with_reducible apply State.setReg_keeps
    | with_reducible apply State.store_keeps
    | with_reducible apply State.unpoison_keeps
    | with_reducible apply State.presetArm_keeps
    | (with_reducible refine Keeps.foldl ?_ (fun u x h => ?_))

theorem State.track_keeps {k0 : Nat} {r0 : State} (s : State) (hr : Keeps k0 r0 s) (hm : Sub 824700829708 k0 := by exact hm.of (by decide)) : Keeps k0 r0 (State.track s) := by
  unfold State.track
  repeat' first
    | with_reducible assumption
    | exact hm.of (by decide)
    | (extract_lets +onlyGivenNames y; have hy : Keeps k0 r0 y := ?_; clear_value y; rotate_left; subst y)
    | (extract_lets +onlyGivenNames y; have hy : Keeps k0 r0 y.1 := ?_; clear_value y; rotate_left; subst y)
    | (extract_lets +onlyGivenNames y; clear_value y)
    | (extract_lets +onlyGivenNames y; subst y)
    | with_reducible apply State.put_keeps
    | with_reducible apply State.raise_keeps
    | with_reducible apply State.loadArm_keeps
    | with_reducible apply Keeps.ite
    | split
    | (with_reducible refine Keeps.foldl ?_ (fun u x h => ?_))

theorem State.laneDark_keeps {k0 : Nat} {r0 : State} (s : State) (n : Nat) (hr : Keeps k0 r0 s) (hm : Sub 8388676 k0 := by exact hm.of (by decide)) : Keeps k0 r0 (State.laneDark s n) := by
  unfold State.laneDark
  repeat' first
    | with_reducible assumption
    | exact hm.of (by decide)
    | (extract_lets +onlyGivenNames y; have hy : Keeps k0 r0 y := ?_; clear_value y; rotate_left; subst y)
    | (extract_lets +onlyGivenNames y; have hy : Keeps k0 r0 y.1 := ?_; clear_value y; rotate_left; subst y)
    | (extract_lets +onlyGivenNames y; clear_value y)
    | (extract_lets +onlyGivenNames y; subst y)
    | with_reducible apply State.laneToPark_keeps
    | with_reducible apply State.put_keeps

theorem State.withdrawNow_keeps {k0 : Nat} {r0 : State} (s : State) (hr : Keeps k0 r0 s) (hm : Sub 9070979317828 k0 := by exact hm.of (by decide)) : Keeps k0 r0 (State.withdrawNow s) := by
  unfold State.withdrawNow
  repeat' first
    | with_reducible assumption
    | exact hm.of (by decide)
    | (extract_lets +onlyGivenNames y; have hy : Keeps k0 r0 y := ?_; clear_value y; rotate_left; subst y)
    | (extract_lets +onlyGivenNames y; have hy : Keeps k0 r0 y.1 := ?_; clear_value y; rotate_left; subst y)
    | (extract_lets +onlyGivenNames y; clear_value y)
    | (extract_lets +onlyGivenNames y; subst y)
    | with_reducible apply State.withPair_keeps
    | with_reducible apply State.laneDark_keeps
    | with_reducible apply State.put_keeps
    | with_reducible apply State.raise_keeps
    | (with_reducible refine Keeps.foldl ?_ (fun u x h => ?_))

theorem State.withdrawEnd_keeps {k0 : Nat} {r0 : State} (s : State) (hr : Keeps k0 r0 s) (hm : Sub 8796101410820 k0 := by exact hm.of (by decide)) : Keeps k0 r0 (State.withdrawEnd s) := by
  unfold State.withdrawEnd
  repeat' first
    | with_reducible assumption
    | exact hm.of (by decide)
    | (extract_lets +onlyGivenNames y; have hy : Keeps k0 r0 y := ?_; clear_value y; rotate_left; subst y)
    | (extract_lets +onlyGivenNames y; have hy : Keeps k0 r0 y.1 := ?_; clear_value y; rotate_left; subst y)
    | (extract_lets +onlyGivenNames y; clear_value y)
    | (extract_lets +onlyGivenNames y; subst y)
    | with_reducible apply State.withPair_keeps
    | with_reducible apply State.goLane_keeps
    | with_reducible apply State.put_keeps
    | with_reducible apply Keeps.ite
    | split
    | (with_reducible refine Keeps.foldl ?_ (fun u x h => ?_))

theorem execWithdraw_keeps {k0 : Nat} {r0 : State} (s : State) (hr : Keeps k0 r0 s) (hm : Sub 9071381971014 k0 := by exact hm.of (by decide)) : KeepsO k0 r0 (execWithdraw s) := by
  unfold execWithdraw
  repeat' first
    | with_reducible assumption
    | exact hm.of (by decide)
    | with_reducible apply KeepsO.next
    | with_reducible apply State.until_keeps
    | with_reducible apply State.withdrawNow_keeps
    | with_reducible apply Keeps.ite
    | split

end Sys2Proof.Machine
end

