-- ==== Sys2Proof/Laws/KeepsReceive.lean ====
section
/-! SUPPORT. The operations of Machine/Receive.lean leave the queue alone and keep the canonical form of the stores. -/

set_option linter.unusedTactic false
set_option linter.unreachableTactic false

namespace Sys2Proof.Machine

theorem State.frameIn_keeps {k0 : Nat} {r0 : State} (s : State) (n : Nat) (f : List (BitVec 64)) (hr : Keeps k0 r0 s) (hm : Sub 9620728578700 k0 := by exact hm.of (by decide)) : Keeps k0 r0 (State.frameIn s n f) := by
  unfold State.frameIn
  repeat' first
    | with_reducible assumption
    | exact hm.of (by decide)
    | (extract_lets +onlyGivenNames y; have hy : Keeps k0 r0 y := ?_; clear_value y; rotate_left; subst y)
    | (extract_lets +onlyGivenNames y; have hy : Keeps k0 r0 y.1 := ?_; clear_value y; rotate_left; subst y)
    | (extract_lets +onlyGivenNames y; clear_value y)
    | (extract_lets +onlyGivenNames y; subst y)
    | with_reducible apply State.uplinkTake_keeps
    | with_reducible apply State.mrspTake_keeps
    | with_reducible apply State.pstatIn_keeps
    | with_reducible apply State.poutIn_keeps
    | with_reducible apply State.cnt_keeps
    | with_reducible apply Keeps.ite
    | split

theorem State.setRx_keeps {k0 : Nat} {r0 : State} (s : State) (n : Nat) (l : List (BitVec 64)) (hr : Keeps k0 r0 s) (hm : Sub 8388608 k0 := by exact hm.of (by decide)) : Keeps k0 r0 (State.setRx s n l) := by
  unfold State.setRx
  repeat' first
    | with_reducible assumption
    | exact hm.of (by decide)
    | with_reducible apply State.setLane_keeps

theorem State.rxControl_keeps {k0 : Nat} {r0 : State} (s : State) (n : Nat) (c : BitVec 64) (hr : Keeps k0 r0 s) (hm : Sub 8388612 k0 := by exact hm.of (by decide)) : Keeps k0 r0 (State.rxControl s n c) := by
  unfold State.rxControl
  repeat' first
    | with_reducible assumption
    | exact hm.of (by decide)
    | (extract_lets +onlyGivenNames y; have hy : Keeps k0 r0 y := ?_; clear_value y; rotate_left; subst y)
    | (extract_lets +onlyGivenNames y; have hy : Keeps k0 r0 y.1 := ?_; clear_value y; rotate_left; subst y)
    | (extract_lets +onlyGivenNames y; clear_value y)
    | (extract_lets +onlyGivenNames y; subst y)
    | with_reducible apply State.setRx_keeps
    | with_reducible apply State.cnt_keeps
    | with_reducible apply Keeps.ite
    | split

theorem State.rxData_keeps {k0 : Nat} {r0 : State} (s : State) (n : Nat) (d : BitVec 64) (hr : Keeps k0 r0 s) (hm : Sub 9620736967308 k0 := by exact hm.of (by decide)) : Keeps k0 r0 (State.rxData s n d) := by
  unfold State.rxData
  repeat' first
    | with_reducible assumption
    | exact hm.of (by decide)
    | with_reducible apply State.cnt_keeps
    | with_reducible apply State.setRx_keeps
    | with_reducible apply State.frameIn_keeps
    | with_reducible apply Keeps.ite
    | split

theorem State.rxBlocks_keeps {k0 : Nat} {r0 : State} (s : State) (n : Nat) (l : List (BitVec 64)) (hr : Keeps k0 r0 s) (hm : Sub 9620736967308 k0 := by exact hm.of (by decide)) : Keeps k0 r0 (s.rxBlocks n l) := by
  cases l with
  | nil => exact hr
  | cons c l => exact Keeps.foldl (State.rxControl_keeps _ _ _ hr) fun u x h => State.rxData_keeps _ _ _ h

theorem execBlockReceived_keeps {k0 : Nat} {r0 : State} (n : Fin 50) (hdr : BitVec 2) (payload : BitVec 64) (s : State) (hr : Keeps k0 r0 s) (hm : Sub 9620736967308 k0 := by exact hm.of (by decide)) : KeepsO k0 r0 (execBlockReceived n hdr payload s) := by
  unfold execBlockReceived
  repeat' first
    | with_reducible assumption
    | exact hm.of (by decide)
    | with_reducible apply KeepsO.next
    | (extract_lets +onlyGivenNames y; have hy : Keeps k0 r0 y := ?_; clear_value y; rotate_left; subst y)
    | (extract_lets +onlyGivenNames y; have hy : Keeps k0 r0 y.1 := ?_; clear_value y; rotate_left; subst y)
    | (extract_lets +onlyGivenNames y; clear_value y)
    | (extract_lets +onlyGivenNames y; subst y)
    | with_reducible apply State.rxControl_keeps
    | with_reducible apply State.rxData_keeps
    | with_reducible apply State.setLane_keeps
    | with_reducible apply State.cnt_keeps
    | with_reducible apply Keeps.ite
    | split

theorem execUplinkReceived_keeps {k0 : Nat} {r0 : State} (n : Fin 48) (f : List (BitVec 64)) (s : State) (hr : Keeps k0 r0 s) (hm : Sub 9620736967308 k0 := by exact hm.of (by decide)) : KeepsO k0 r0 (execUplinkReceived n f s) := by
  unfold execUplinkReceived
  repeat' first
    | with_reducible assumption
    | exact hm.of (by decide)
    | with_reducible apply KeepsO.next
    | with_reducible apply State.rxBlocks_keeps
    | with_reducible apply Keeps.ite
    | split

theorem execMrspReceived_keeps {k0 : Nat} {r0 : State} (n : Fin 48) (f : List (BitVec 64)) (s : State) (hr : Keeps k0 r0 s) (hm : Sub 9620736967308 k0 := by exact hm.of (by decide)) : KeepsO k0 r0 (execMrspReceived n f s) := by
  unfold execMrspReceived
  repeat' first
    | with_reducible assumption
    | exact hm.of (by decide)
    | with_reducible apply KeepsO.next
    | with_reducible apply State.rxBlocks_keeps
    | with_reducible apply Keeps.ite
    | split

theorem execPstatRx_keeps {k0 : Nat} {r0 : State} (p : Fin 2) (f : List (BitVec 64)) (s : State) (hr : Keeps k0 r0 s) (hm : Sub 9620736967308 k0 := by exact hm.of (by decide)) : KeepsO k0 r0 (execPstatRx p f s) := by
  unfold execPstatRx
  repeat' first
    | with_reducible assumption
    | exact hm.of (by decide)
    | with_reducible apply KeepsO.next
    | with_reducible apply State.rxBlocks_keeps
    | with_reducible apply Keeps.ite
    | split

theorem execPoutRx_keeps {k0 : Nat} {r0 : State} (p : Fin 2) (f : List (BitVec 64)) (s : State) (hr : Keeps k0 r0 s) (hm : Sub 9620736967308 k0 := by exact hm.of (by decide)) : KeepsO k0 r0 (execPoutRx p f s) := by
  unfold execPoutRx
  repeat' first
    | with_reducible assumption
    | exact hm.of (by decide)
    | with_reducible apply KeepsO.next
    | with_reducible apply State.rxBlocks_keeps
    | with_reducible apply Keeps.ite
    | split

end Sys2Proof.Machine
end

