-- ==== Sys2Proof/Laws/KeepsPeriod.lean ====
section
/-! SUPPORT. The operations of Machine/Period.lean leave the queue alone and keep the canonical form of the stores. -/

set_option linter.unusedTactic false
set_option linter.unreachableTactic false

namespace Sys2Proof.Machine

theorem State.endRuns_keeps {k0 : Nat} {r0 : State} (s : State) (hr : Keeps k0 r0 s) (hm : Sub 275347685382 k0 := by exact hm.of (by decide)) : Keeps k0 r0 (State.endRuns s) := by
  unfold State.endRuns
  repeat' first
    | with_reducible assumption
    | exact hm.of (by decide)
    | (extract_lets +onlyGivenNames y; have hy : Keeps k0 r0 y := ?_; clear_value y; rotate_left; subst y)
    | (extract_lets +onlyGivenNames y; have hy : Keeps k0 r0 y.1 := ?_; clear_value y; rotate_left; subst y)
    | (extract_lets +onlyGivenNames y; clear_value y)
    | (extract_lets +onlyGivenNames y; subst y)
    | with_reducible apply State.untilCtb_keeps
    | with_reducible apply State.overrun_keeps
    | with_reducible apply Keeps.ite
    | split

theorem State.sendTimeOn_keeps {k0 : Nat} {r0 : State} (s : State) (n : Nat) (hr : Keeps k0 r0 s) (hm : Sub 8388672 k0 := by exact hm.of (by decide)) : Keeps k0 r0 (State.sendTimeOn s n) := by
  unfold State.sendTimeOn
  repeat' first
    | with_reducible assumption
    | exact hm.of (by decide)
    | (extract_lets +onlyGivenNames y; have hy : Keeps k0 r0 y := ?_; clear_value y; rotate_left; subst y)
    | (extract_lets +onlyGivenNames y; have hy : Keeps k0 r0 y.1 := ?_; clear_value y; rotate_left; subst y)
    | (extract_lets +onlyGivenNames y; clear_value y)
    | (extract_lets +onlyGivenNames y; subst y)
    | with_reducible apply State.sendAt_keeps
    | with_reducible apply Keeps.ite
    | split

theorem State.sendTime_keeps {k0 : Nat} {r0 : State} (s : State) (hr : Keeps k0 r0 s) (hm : Sub 8388672 k0 := by exact hm.of (by decide)) : Keeps k0 r0 (State.sendTime s) := by
  unfold State.sendTime
  repeat' first
    | with_reducible assumption
    | exact hm.of (by decide)
    | with_reducible apply State.sendTimeOn_keeps
    | (with_reducible refine Keeps.foldl ?_ (fun u x h => ?_))

theorem State.dropUnsent_keeps {k0 : Nat} {r0 : State} (s : State) (i : Nat) (hr : Keeps k0 r0 s) (hm : Sub 17301512 k0 := by exact hm.of (by decide)) : Keeps k0 r0 (State.dropUnsent s i) := by
  unfold State.dropUnsent
  repeat' first
    | with_reducible assumption
    | exact hm.of (by decide)
    | with_reducible apply State.setLink_keeps
    | with_reducible apply State.skipSched_keeps
    | with_reducible apply State.cntRec_keeps
    | with_reducible apply Keeps.ite
    | split

theorem State.linkPeriod_keeps {k0 : Nat} {r0 : State} (s : State) (i : Nat) (hr : Keeps k0 r0 s) (hm : Sub 17301512 k0 := by exact hm.of (by decide)) : Keeps k0 r0 (State.linkPeriod s i) := by
  unfold State.linkPeriod
  repeat' first
    | with_reducible assumption
    | exact hm.of (by decide)
    | (extract_lets +onlyGivenNames y; have hy : Keeps k0 r0 y := ?_; clear_value y; rotate_left; subst y)
    | (extract_lets +onlyGivenNames y; have hy : Keeps k0 r0 y.1 := ?_; clear_value y; rotate_left; subst y)
    | (extract_lets +onlyGivenNames y; clear_value y)
    | (extract_lets +onlyGivenNames y; subst y)
    | with_reducible apply State.dropUnsent_keeps
    | with_reducible apply State.setLink_keeps

theorem State.lanePeriod_keeps {k0 : Nat} {r0 : State} (s : State) (n : Nat) (hr : Keeps k0 r0 s) (hm : Sub 1048576 k0 := by exact hm.of (by decide)) : Keeps k0 r0 (State.lanePeriod s n) := by
  unfold State.lanePeriod
  repeat' first
    | with_reducible assumption
    | exact hm.of (by decide)
    | with_reducible apply State.setLl_keeps
    | with_reducible apply State.enumPeriod_keeps

theorem State.poisonPeriod_keeps {k0 : Nat} {r0 : State} (s : State) (hr : Keeps k0 r0 s) (hm : Sub 824633720836 k0 := by exact hm.of (by decide)) : Keeps k0 r0 (State.poisonPeriod s) := by
  unfold State.poisonPeriod
  repeat' first
    | with_reducible assumption
    | exact hm.of (by decide)
    | with_reducible apply State.err_keeps
    | with_reducible apply Keeps.ite
    | split
    | (with_reducible refine Keeps.foldl ?_ (fun u x h => ?_))

theorem State.periodStart_keeps {k0 : Nat} {r0 : State} (s : State) (pout : List (Nat × List Nat)) (ended : Nat) (hr : Keeps k0 r0 s) (hm : Sub 9663805931724 k0 := by exact hm.of (by decide)) : Keeps k0 r0 (State.periodStart s pout ended) := by
  unfold State.periodStart
  repeat' first
    | with_reducible assumption
    | exact hm.of (by decide)
    | (extract_lets +onlyGivenNames y; have hy : Keeps k0 r0 y := ?_; clear_value y; rotate_left; subst y)
    | (extract_lets +onlyGivenNames y; have hy : Keeps k0 r0 y.1 := ?_; clear_value y; rotate_left; subst y)
    | (extract_lets +onlyGivenNames y; clear_value y)
    | (extract_lets +onlyGivenNames y; subst y)
    | with_reducible apply State.linkPeriod_keeps
    | with_reducible apply State.sendTime_keeps
    | with_reducible apply State.lanePeriod_keeps
    | with_reducible apply State.put_keeps
    | with_reducible apply State.edgeBoundary_keeps
    | with_reducible apply State.pairSend_keeps
    | with_reducible apply State.track_keeps
    | with_reducible apply State.poisonPeriod_keeps
    | with_reducible apply State.engStart_keeps
    | with_reducible apply Keeps.ite
    | split
    | (with_reducible refine Keeps.foldl ?_ (fun u x h => ?_))
    | with_reducible apply Keeps.upd_bal
    | with_reducible apply Keeps.upd_conv

theorem execPeriodBoundary_keeps {k0 : Nat} {r0 : State} (s : State) (hr : Keeps k0 r0 s) (hm : Sub 9664208847054 k0 := by exact hm.of (by decide)) : KeepsO k0 r0 (execPeriodBoundary s) := by
  unfold execPeriodBoundary
  repeat' first
    | with_reducible assumption
    | exact hm.of (by decide)
    | with_reducible apply KeepsO.next
    | (extract_lets +onlyGivenNames y; have hy : Keeps k0 r0 y := ?_; clear_value y; rotate_left; subst y)
    | (extract_lets +onlyGivenNames y; have hy : Keeps k0 r0 y.1 := ?_; clear_value y; rotate_left; subst y)
    | (extract_lets +onlyGivenNames y; clear_value y)
    | (extract_lets +onlyGivenNames y; subst y)
    | with_reducible apply State.endRuns_keeps
    | with_reducible apply State.padBoundary_keeps
    | with_reducible apply State.enterPeriod_keeps
    | with_reducible apply State.periodStart_keeps
    | with_reducible apply Keeps.ite
    | split
    | with_reducible apply Keeps.upd_cme

theorem State.cutoffNow_keeps {k0 : Nat} {r0 : State} (s : State) (hr : Keeps k0 r0 s) (hm : Sub 9071495217670 k0 := by exact hm.of (by decide)) : Keeps k0 r0 (State.cutoffNow s) := by
  unfold State.cutoffNow
  repeat' first
    | with_reducible assumption
    | exact hm.of (by decide)
    | with_reducible apply State.untilCtb_keeps
    | with_reducible apply State.cutoffSample_keeps
    | with_reducible apply Keeps.ite
    | split

theorem State.commitEdge_keeps {k0 : Nat} {r0 : State} (s : State) (hr : Keeps k0 r0 s) (hm : Sub 274894684676 k0 := by exact hm.of (by decide)) : Keeps k0 r0 (State.commitEdge s) := by
  unfold State.commitEdge
  repeat' first
    | with_reducible assumption
    | exact hm.of (by decide)
    | with_reducible apply State.concludeCommit_keeps
    | with_reducible apply Keeps.ite
    | split

theorem State.linkEdge_keeps {k0 : Nat} {r0 : State} (s : State) (hr : Keeps k0 r0 s) (hm : Sub 274879479820 k0 := by exact hm.of (by decide)) : Keeps k0 r0 (State.linkEdge s) := by
  unfold State.linkEdge
  repeat' first
    | with_reducible assumption
    | exact hm.of (by decide)
    | (extract_lets +onlyGivenNames y; have hy : Keeps k0 r0 y := ?_; clear_value y; rotate_left; subst y)
    | (extract_lets +onlyGivenNames y; have hy : Keeps k0 r0 y.1 := ?_; clear_value y; rotate_left; subst y)
    | (extract_lets +onlyGivenNames y; clear_value y)
    | (extract_lets +onlyGivenNames y; subst y)
    | with_reducible apply State.lateUplinks_keeps
    | with_reducible apply State.judgeLink_keeps
    | (with_reducible refine Keeps.foldl ?_ (fun u x h => ?_))

theorem State.reloadRun_keeps {k0 : Nat} {r0 : State} (s : State) (hr : Keeps k0 r0 s) (hm : Sub 9071090204684 k0 := by exact hm.of (by decide)) : Keeps k0 r0 (State.reloadRun s) := by
  unfold State.reloadRun
  repeat' first
    | with_reducible assumption
    | exact hm.of (by decide)
    | with_reducible apply State.linkEdge_keeps
    | with_reducible apply State.balReload_keeps
    | with_reducible apply State.judgeMisses_keeps
    | with_reducible apply State.judgeRestores_keeps
    | with_reducible apply State.pairReload_keeps
    | with_reducible apply State.fixKinds_keeps
    | with_reducible apply State.publishBudget_keeps

theorem execReloadEdge_keeps {k0 : Nat} {r0 : State} (s : State) (hr : Keeps k0 r0 s) (hm : Sub 9071497052686 k0 := by exact hm.of (by decide)) : KeepsO k0 r0 (execReloadEdge s) := by
  unfold execReloadEdge
  repeat' first
    | with_reducible assumption
    | exact hm.of (by decide)
    | with_reducible apply KeepsO.next
    | (extract_lets +onlyGivenNames y; have hy : Keeps k0 r0 y := ?_; clear_value y; rotate_left; subst y)
    | (extract_lets +onlyGivenNames y; have hy : Keeps k0 r0 y.1 := ?_; clear_value y; rotate_left; subst y)
    | (extract_lets +onlyGivenNames y; clear_value y)
    | (extract_lets +onlyGivenNames y; subst y)
    | with_reducible apply State.cutoffNow_keeps
    | with_reducible apply State.untilCtb_keeps
    | with_reducible apply State.commitEdge_keeps
    | with_reducible apply State.reloadRun_keeps
    | with_reducible apply State.linkEdge_keeps
    | with_reducible apply State.pairReload_keeps
    | with_reducible apply State.publishBudget_keeps
    | with_reducible apply Keeps.ite
    | split
    | with_reducible apply Keeps.upd_edge

theorem State.startLinks_keeps {k0 : Nat} {r0 : State} (s : State) (hr : Keeps k0 r0 s) (hm : Sub 1572872 k0 := by exact hm.of (by decide)) : Keeps k0 r0 (State.startLinks s) := by
  unfold State.startLinks
  repeat' first
    | with_reducible assumption
    | exact hm.of (by decide)
    | (extract_lets +onlyGivenNames y; have hy : Keeps k0 r0 y := ?_; clear_value y; rotate_left; subst y)
    | (extract_lets +onlyGivenNames y; have hy : Keeps k0 r0 y.1 := ?_; clear_value y; rotate_left; subst y)
    | (extract_lets +onlyGivenNames y; clear_value y)
    | (extract_lets +onlyGivenNames y; subst y)
    | with_reducible apply State.setLk_keeps
    | with_reducible apply State.askConfig_keeps
    | with_reducible apply State.askRelays_keeps
    | with_reducible apply Keeps.ite
    | split
    | (with_reducible refine Keeps.foldl ?_ (fun u x h => ?_))

theorem State.freshRun_keeps {k0 : Nat} {r0 : State} (s : State) (hr : Keeps k0 r0 s) (hm : Sub 50331648 k0 := by exact hm.of (by decide)) : Keeps k0 r0 (State.freshRun s) := by
  unfold State.freshRun
  repeat' first
    | with_reducible assumption
    | exact hm.of (by decide)
    | with_reducible apply Keeps.upd_edge_bal

theorem State.enterRun_keeps {k0 : Nat} {r0 : State} (s : State) (hr : Keeps k0 r0 s) (hm : Sub 317953163404 k0 := by exact hm.of (by decide)) : Keeps k0 r0 (State.enterRun s) := by
  unfold State.enterRun
  repeat' first
    | with_reducible assumption
    | exact hm.of (by decide)
    | (extract_lets +onlyGivenNames y; have hy : Keeps k0 r0 y := ?_; clear_value y; rotate_left; subst y)
    | (extract_lets +onlyGivenNames y; have hy : Keeps k0 r0 y.1 := ?_; clear_value y; rotate_left; subst y)
    | (extract_lets +onlyGivenNames y; clear_value y)
    | (extract_lets +onlyGivenNames y; subst y)
    | with_reducible apply State.setYard_keeps
    | with_reducible apply State.put_keeps
    | with_reducible apply State.raise_keeps
    | with_reducible apply State.startLinks_keeps
    | with_reducible apply State.freshRun_keeps
    | with_reducible apply State.setBa_keeps
    | with_reducible apply State.setEa_keeps
    | with_reducible apply State.setEs_keeps
    | with_reducible apply State.edgeStartCheck_keeps
    | with_reducible apply State.engStart_keeps
    | (with_reducible refine Keeps.foldl ?_ (fun u x h => ?_))
    | with_reducible apply Keeps.upd_cme
    | with_reducible apply Keeps.upd_yard_conv_convNext

theorem execYardEnterRun_keeps {k0 : Nat} {r0 : State} (s : State) (hr : Keeps k0 r0 s) (hm : Sub 317953163404 k0 := by exact hm.of (by decide)) : KeepsO k0 r0 (execYardEnterRun s) := by
  unfold execYardEnterRun
  repeat' first
    | with_reducible assumption
    | exact hm.of (by decide)
    | with_reducible apply KeepsO.next
    | with_reducible apply State.enterRun_keeps
    | with_reducible apply Keeps.ite
    | split

theorem State.enterStopping_keeps {k0 : Nat} {r0 : State} (s : State) (hr : Keeps k0 r0 s) (hm : Sub 274945294340 k0 := by exact hm.of (by decide)) : Keeps k0 r0 (State.enterStopping s) := by
  unfold State.enterStopping
  repeat' first
    | with_reducible assumption
    | exact hm.of (by decide)
    | (extract_lets +onlyGivenNames y; have hy : Keeps k0 r0 y := ?_; clear_value y; rotate_left; subst y)
    | (extract_lets +onlyGivenNames y; have hy : Keeps k0 r0 y.1 := ?_; clear_value y; rotate_left; subst y)
    | (extract_lets +onlyGivenNames y; clear_value y)
    | (extract_lets +onlyGivenNames y; subst y)
    | with_reducible apply State.setYard_keeps
    | with_reducible apply State.put_keeps
    | with_reducible apply State.raise_keeps
    | with_reducible apply State.padAbort_keeps
    | with_reducible apply Keeps.upd_yard

theorem execYardEnterStopping_keeps {k0 : Nat} {r0 : State} (s : State) (hr : Keeps k0 r0 s) (hm : Sub 274945294340 k0 := by exact hm.of (by decide)) : KeepsO k0 r0 (execYardEnterStopping s) := by
  unfold execYardEnterStopping
  repeat' first
    | with_reducible assumption
    | exact hm.of (by decide)
    | with_reducible apply KeepsO.next
    | with_reducible apply State.enterStopping_keeps
    | with_reducible apply Keeps.ite
    | split

theorem State.stopLink_keeps {k0 : Nat} {r0 : State} (s : State) (i : Nat) (hr : Keeps k0 r0 s) (hm : Sub 274895208460 k0 := by exact hm.of (by decide)) : Keeps k0 r0 (State.stopLink s i) := by
  unfold State.stopLink
  repeat' first
    | with_reducible assumption
    | exact hm.of (by decide)
    | (extract_lets +onlyGivenNames y; have hy : Keeps k0 r0 y := ?_; clear_value y; rotate_left; subst y)
    | (extract_lets +onlyGivenNames y; have hy : Keeps k0 r0 y.1 := ?_; clear_value y; rotate_left; subst y)
    | (extract_lets +onlyGivenNames y; clear_value y)
    | (extract_lets +onlyGivenNames y; subst y)
    | with_reducible apply State.setLk_keeps
    | with_reducible apply State.stallEvent_keeps
    | with_reducible apply State.setLink_keeps
    | with_reducible apply State.setEs_keeps
    | with_reducible apply Keeps.ite
    | split

end Sys2Proof.Machine
end

