-- ==== Sys2Proof/Laws/KeepsSafe.lean ====
section
/-! SUPPORT. The operations of Machine/Safe.lean leave the queue alone and keep the canonical form of the stores. -/

set_option linter.unusedTactic false
set_option linter.unreachableTactic false

namespace Sys2Proof.Machine

theorem State.withSafe_keeps {k0 : Nat} {r0 : State} (s : State) (x : SafeSt) (hr : Keeps k0 r0 s) (hm : Sub 137438953472 k0 := by exact hm.of (by decide)) : Keeps k0 r0 (State.withSafe s x) := by
  unfold State.withSafe
  repeat' first
    | with_reducible assumption
    | exact hm.of (by decide)
    | with_reducible apply Keeps.upd_safe

theorem State.openWindow_keeps {k0 : Nat} {r0 : State} (s : State) (hr : Keeps k0 r0 s) (hm : Sub 455274922180 k0 := by exact hm.of (by decide)) : Keeps k0 r0 (State.openWindow s) := by
  unfold State.openWindow
  repeat' first
    | with_reducible assumption
    | exact hm.of (by decide)
    | (extract_lets +onlyGivenNames y; have hy : Keeps k0 r0 y := ?_; clear_value y; rotate_left; subst y)
    | (extract_lets +onlyGivenNames y; have hy : Keeps k0 r0 y.1 := ?_; clear_value y; rotate_left; subst y)
    | (extract_lets +onlyGivenNames y; clear_value y)
    | (extract_lets +onlyGivenNames y; subst y)
    | with_reducible apply State.put_keeps
    | with_reducible apply State.cnt_keeps
    | with_reducible apply State.raise_keeps
    | with_reducible apply State.withSafe_keeps
    | with_reducible apply State.enforce_keeps
    | with_reducible apply Keeps.ite
    | split

theorem State.svLoss_keeps {k0 : Nat} {r0 : State} (s : State) (hr : Keeps k0 r0 s) (hm : Sub 9251368206532 k0 := by exact hm.of (by decide)) : Keeps k0 r0 (State.svLoss s) := by
  unfold State.svLoss
  repeat' first
    | with_reducible assumption
    | exact hm.of (by decide)
    | (extract_lets +onlyGivenNames y; have hy : Keeps k0 r0 y := ?_; clear_value y; rotate_left; subst y)
    | (extract_lets +onlyGivenNames y; have hy : Keeps k0 r0 y.1 := ?_; clear_value y; rotate_left; subst y)
    | (extract_lets +onlyGivenNames y; clear_value y)
    | (extract_lets +onlyGivenNames y; subst y)
    | with_reducible apply State.withSafe_keeps
    | with_reducible apply State.openWindow_keeps
    | with_reducible apply State.put_keeps
    | with_reducible apply State.trip_keeps
    | with_reducible apply Keeps.ite
    | split

theorem State.closeWindow_keeps {k0 : Nat} {r0 : State} (s : State) (hr : Keeps k0 r0 s) (hm : Sub 455274922180 k0 := by exact hm.of (by decide)) : Keeps k0 r0 (State.closeWindow s) := by
  unfold State.closeWindow
  repeat' first
    | with_reducible assumption
    | exact hm.of (by decide)
    | (extract_lets +onlyGivenNames y; have hy : Keeps k0 r0 y := ?_; clear_value y; rotate_left; subst y)
    | (extract_lets +onlyGivenNames y; have hy : Keeps k0 r0 y.1 := ?_; clear_value y; rotate_left; subst y)
    | (extract_lets +onlyGivenNames y; clear_value y)
    | (extract_lets +onlyGivenNames y; subst y)
    | with_reducible apply State.put_keeps
    | with_reducible apply State.raise_keeps
    | with_reducible apply State.withSafe_keeps
    | with_reducible apply State.enforce_keeps

theorem State.challenge_keeps {k0 : Nat} {r0 : State} (s : State) (good : Bool) (hr : Keeps k0 r0 s) (hm : Sub 9251368206532 k0 := by exact hm.of (by decide)) : Keeps k0 r0 (State.challenge s good) := by
  unfold State.challenge
  repeat' first
    | with_reducible assumption
    | exact hm.of (by decide)
    | (extract_lets +onlyGivenNames y; have hy : Keeps k0 r0 y := ?_; clear_value y; rotate_left; subst y)
    | (extract_lets +onlyGivenNames y; have hy : Keeps k0 r0 y.1 := ?_; clear_value y; rotate_left; subst y)
    | (extract_lets +onlyGivenNames y; clear_value y)
    | (extract_lets +onlyGivenNames y; subst y)
    | with_reducible apply State.withSafe_keeps
    | with_reducible apply State.closeWindow_keeps
    | with_reducible apply State.put_keeps
    | with_reducible apply State.svLoss_keeps
    | with_reducible apply Keeps.ite
    | split

theorem execRestartWindowLong_keeps {k0 : Nat} {r0 : State} (s : State) (hr : Keeps k0 r0 s) (hm : Sub 9251770859718 k0 := by exact hm.of (by decide)) : KeepsO k0 r0 (execRestartWindowLong s) := by
  unfold execRestartWindowLong
  repeat' first
    | with_reducible assumption
    | exact hm.of (by decide)
    | with_reducible apply KeepsO.next
    | with_reducible apply State.until_keeps
    | with_reducible apply State.cstop_keeps
    | with_reducible apply Keeps.ite
    | split

theorem State.classBAct_keeps {k0 : Nat} {r0 : State} (s : State) (c : Nat) (hr : Keeps k0 r0 s) (hm : Sub 9251368206532 k0 := by exact hm.of (by decide)) : Keeps k0 r0 (State.classBAct s c) := by
  unfold State.classBAct
  repeat' first
    | with_reducible assumption
    | exact hm.of (by decide)
    | (extract_lets +onlyGivenNames y; have hy : Keeps k0 r0 y := ?_; clear_value y; rotate_left; subst y)
    | (extract_lets +onlyGivenNames y; have hy : Keeps k0 r0 y.1 := ?_; clear_value y; rotate_left; subst y)
    | (extract_lets +onlyGivenNames y; clear_value y)
    | (extract_lets +onlyGivenNames y; subst y)
    | with_reducible apply State.raise_keeps
    | with_reducible apply State.cstop_keeps
    | with_reducible apply State.trip_keeps
    | with_reducible apply Keeps.ite
    | split

theorem State.judgeB_keeps {k0 : Nat} {r0 : State} (s : State) (hr : Keeps k0 r0 s) (hm : Sub 9251368206532 k0 := by exact hm.of (by decide)) : Keeps k0 r0 (State.judgeB s) := by
  unfold State.judgeB
  repeat' first
    | with_reducible assumption
    | exact hm.of (by decide)
    | (extract_lets +onlyGivenNames y; have hy : Keeps k0 r0 y := ?_; clear_value y; rotate_left; subst y)
    | (extract_lets +onlyGivenNames y; have hy : Keeps k0 r0 y.1 := ?_; clear_value y; rotate_left; subst y)
    | (extract_lets +onlyGivenNames y; clear_value y)
    | (extract_lets +onlyGivenNames y; subst y)
    | with_reducible apply State.put_keeps
    | with_reducible apply State.classBAct_keeps
    | with_reducible apply Keeps.ite
    | split
    | (with_reducible refine Keeps.foldl ?_ (fun u x h => ?_))

theorem State.fenceFail_keeps {k0 : Nat} {r0 : State} (s : State) (hr : Keeps k0 r0 s) (hm : Sub 9251368206532 k0 := by exact hm.of (by decide)) : Keeps k0 r0 (State.fenceFail s) := by
  unfold State.fenceFail
  repeat' first
    | with_reducible assumption
    | exact hm.of (by decide)
    | (extract_lets +onlyGivenNames y; have hy : Keeps k0 r0 y := ?_; clear_value y; rotate_left; subst y)
    | (extract_lets +onlyGivenNames y; have hy : Keeps k0 r0 y.1 := ?_; clear_value y; rotate_left; subst y)
    | (extract_lets +onlyGivenNames y; clear_value y)
    | (extract_lets +onlyGivenNames y; subst y)
    | with_reducible apply State.withSafe_keeps
    | with_reducible apply State.put_keeps
    | with_reducible apply State.trip_keeps

theorem State.fenceView_keeps {k0 : Nat} {r0 : State} (s : State) (bad : Bool) (hr : Keeps k0 r0 s) (hm : Sub 9251368206532 k0 := by exact hm.of (by decide)) : Keeps k0 r0 (State.fenceView s bad) := by
  unfold State.fenceView
  repeat' first
    | with_reducible assumption
    | exact hm.of (by decide)
    | with_reducible apply State.fenceFail_keeps
    | with_reducible apply State.withSafe_keeps
    | with_reducible apply State.put_keeps
    | with_reducible apply State.fenceJudge_keeps
    | with_reducible apply State.enforce_keeps
    | with_reducible apply Keeps.ite
    | split

theorem execSafetyCycle_keeps {k0 : Nat} {r0 : State} (good fenceBad : Bool) (s : State) (hr : Keeps k0 r0 s) (hm : Sub 9251770859718 k0 := by exact hm.of (by decide)) : KeepsO k0 r0 (execSafetyCycle good fenceBad s) := by
  unfold execSafetyCycle
  repeat' first
    | with_reducible assumption
    | exact hm.of (by decide)
    | with_reducible apply KeepsO.next
    | (extract_lets +onlyGivenNames y; have hy : Keeps k0 r0 y := ?_; clear_value y; rotate_left; subst y)
    | (extract_lets +onlyGivenNames y; have hy : Keeps k0 r0 y.1 := ?_; clear_value y; rotate_left; subst y)
    | (extract_lets +onlyGivenNames y; clear_value y)
    | (extract_lets +onlyGivenNames y; subst y)
    | with_reducible apply State.until_keeps
    | with_reducible apply State.withSafe_keeps
    | with_reducible apply State.challenge_keeps
    | with_reducible apply State.fenceView_keeps
    | with_reducible apply State.svJudge_keeps
    | with_reducible apply State.judgeB_keeps

theorem State.updHealthy_keeps {k0 : Nat} {r0 : State} (s : State) (hr : Keeps k0 r0 s) (hm : Sub 4 k0 := by exact hm.of (by decide)) : Keeps k0 r0 (State.updHealthy s) := by
  unfold State.updHealthy
  repeat' first
    | with_reducible assumption
    | exact hm.of (by decide)
    | (extract_lets +onlyGivenNames y; have hy : Keeps k0 r0 y := ?_; clear_value y; rotate_left; subst y)
    | (extract_lets +onlyGivenNames y; have hy := fun a => y a; clear hy; subst y; beta_reduce)
    | (extract_lets +onlyGivenNames y; have hy : Keeps k0 r0 y.1 := ?_; clear_value y; rotate_left; subst y)
    | (extract_lets +onlyGivenNames y; clear_value y)
    | (extract_lets +onlyGivenNames y; subst y)
    | with_reducible apply State.put_keeps
    | with_reducible apply Keeps.ite
    | split
    | (with_reducible refine Keeps.foldl ?_ (fun u x h => ?_))

theorem State.siNote_keeps {k0 : Nat} {r0 : State} (s : State) (i : Nat) (hr : Keeps k0 r0 s) (hm : Sub 137438953472 k0 := by exact hm.of (by decide)) : Keeps k0 r0 (State.siNote s i) := by
  unfold State.siNote
  repeat' first
    | with_reducible assumption
    | exact hm.of (by decide)
    | (extract_lets +onlyGivenNames y; have hy : Keeps k0 r0 y := ?_; clear_value y; rotate_left; subst y)
    | (extract_lets +onlyGivenNames y; have hy : Keeps k0 r0 y.1 := ?_; clear_value y; rotate_left; subst y)
    | (extract_lets +onlyGivenNames y; clear_value y)
    | (extract_lets +onlyGivenNames y; subst y)
    | with_reducible apply State.withSafe_keeps
    | with_reducible apply Keeps.ite
    | split

theorem execSafetyInputChange_keeps {k0 : Nat} {r0 : State} (i : Fin 8) (aClosed bClosed : Bool) (held10us : Nat) (s : State) (hr : Keeps k0 r0 s) (hm : Sub 9251368206532 k0 := by exact hm.of (by decide)) : KeepsO k0 r0 (execSafetyInputChange i aClosed bClosed held10us s) := by
  unfold execSafetyInputChange
  repeat' first
    | with_reducible assumption
    | exact hm.of (by decide)
    | with_reducible apply KeepsO.next
    | (extract_lets +onlyGivenNames y; have hy : Keeps k0 r0 y := ?_; clear_value y; rotate_left; subst y)
    | (extract_lets +onlyGivenNames y; have hy : Keeps k0 r0 y.1 := ?_; clear_value y; rotate_left; subst y)
    | (extract_lets +onlyGivenNames y; clear_value y)
    | (extract_lets +onlyGivenNames y; subst y)
    | with_reducible apply State.withSafe_keeps
    | with_reducible apply State.siNote_keeps
    | with_reducible apply State.updHealthy_keeps
    | with_reducible apply State.fenceJudge_keeps
    | with_reducible apply Keeps.ite
    | split

theorem execSiDiscrepancy_keeps {k0 : Nat} {r0 : State} (i : Fin 8) (s : State) (hr : Keeps k0 r0 s) (hm : Sub 9251770859718 k0 := by exact hm.of (by decide)) : KeepsO k0 r0 (execSiDiscrepancy i s) := by
  unfold execSiDiscrepancy
  repeat' first
    | with_reducible assumption
    | exact hm.of (by decide)
    | with_reducible apply KeepsO.next
    | (extract_lets +onlyGivenNames y; have hy : Keeps k0 r0 y := ?_; clear_value y; rotate_left; subst y)
    | (extract_lets +onlyGivenNames y; have hy : Keeps k0 r0 y.1 := ?_; clear_value y; rotate_left; subst y)
    | (extract_lets +onlyGivenNames y; clear_value y)
    | (extract_lets +onlyGivenNames y; subst y)
    | with_reducible apply State.until_keeps
    | with_reducible apply State.withSafe_keeps
    | with_reducible apply State.put_keeps
    | with_reducible apply State.raise_keeps
    | with_reducible apply State.fenceJudge_keeps
    | with_reducible apply State.trip_keeps
    | with_reducible apply Keeps.ite
    | split

theorem execFeedbackChange_keeps {k0 : Nat} {r0 : State} (m : Fin 8) (closed : Bool) (s : State) (hr : Keeps k0 r0 s) (hm : Sub 137438953476 k0 := by exact hm.of (by decide)) : KeepsO k0 r0 (execFeedbackChange m closed s) := by
  unfold execFeedbackChange
  repeat' first
    | with_reducible assumption
    | exact hm.of (by decide)
    | with_reducible apply KeepsO.next
    | (extract_lets +onlyGivenNames y; have hy : Keeps k0 r0 y := ?_; clear_value y; rotate_left; subst y)
    | (extract_lets +onlyGivenNames y; have hy : Keeps k0 r0 y.1 := ?_; clear_value y; rotate_left; subst y)
    | (extract_lets +onlyGivenNames y; clear_value y)
    | (extract_lets +onlyGivenNames y; subst y)
    | with_reducible apply State.putBitOf_keeps
    | with_reducible apply State.withSafe_keeps
    | with_reducible apply Keeps.ite
    | split

theorem execFbMismatch_keeps {k0 : Nat} {r0 : State} (m : Fin 8) (s : State) (hr : Keeps k0 r0 s) (hm : Sub 9251770859718 k0 := by exact hm.of (by decide)) : KeepsO k0 r0 (execFbMismatch m s) := by
  unfold execFbMismatch
  repeat' first
    | with_reducible assumption
    | exact hm.of (by decide)
    | with_reducible apply KeepsO.next
    | (extract_lets +onlyGivenNames y; have hy : Keeps k0 r0 y := ?_; clear_value y; rotate_left; subst y)
    | (extract_lets +onlyGivenNames y; have hy : Keeps k0 r0 y.1 := ?_; clear_value y; rotate_left; subst y)
    | (extract_lets +onlyGivenNames y; clear_value y)
    | (extract_lets +onlyGivenNames y; subst y)
    | with_reducible apply State.until_keeps
    | with_reducible apply State.withSafe_keeps
    | with_reducible apply State.put_keeps
    | with_reducible apply State.raise_keeps
    | with_reducible apply State.trip_keeps
    | with_reducible apply Keeps.ite
    | split

theorem execDisagree_keeps {k0 : Nat} {r0 : State} (f : Fin 16) (s : State) (hr : Keeps k0 r0 s) (hm : Sub 9251770859718 k0 := by exact hm.of (by decide)) : KeepsO k0 r0 (execDisagree f s) := by
  unfold execDisagree
  repeat' first
    | with_reducible assumption
    | exact hm.of (by decide)
    | with_reducible apply KeepsO.next
    | (extract_lets +onlyGivenNames y; have hy : Keeps k0 r0 y := ?_; clear_value y; rotate_left; subst y)
    | (extract_lets +onlyGivenNames y; have hy : Keeps k0 r0 y.1 := ?_; clear_value y; rotate_left; subst y)
    | (extract_lets +onlyGivenNames y; clear_value y)
    | (extract_lets +onlyGivenNames y; subst y)
    | with_reducible apply State.withSafe_keeps
    | with_reducible apply State.until_keeps
    | with_reducible apply State.put_keeps
    | with_reducible apply State.cnt_keeps
    | with_reducible apply State.raise_keeps
    | with_reducible apply State.trip_keeps
    | with_reducible apply Keeps.ite
    | split

theorem State.updBroken_keeps {k0 : Nat} {r0 : State} (s : State) (hr : Keeps k0 r0 s) (hm : Sub 4 k0 := by exact hm.of (by decide)) : Keeps k0 r0 (State.updBroken s) := by
  unfold State.updBroken
  repeat' first
    | with_reducible assumption
    | exact hm.of (by decide)
    | with_reducible apply State.put_keeps

theorem State.lineReact_keeps {k0 : Nat} {r0 : State} (s : State) (k : LineKind) (hr : Keeps k0 r0 s) (hm : Sub 9251368206532 k0 := by exact hm.of (by decide)) : Keeps k0 r0 (State.lineReact s k) := by
  unfold State.lineReact
  repeat' first
    | with_reducible assumption
    | exact hm.of (by decide)
    | (extract_lets +onlyGivenNames y; have hy : Keeps k0 r0 y := ?_; clear_value y; rotate_left; subst y)
    | (extract_lets +onlyGivenNames y; have hy : Keeps k0 r0 y.1 := ?_; clear_value y; rotate_left; subst y)
    | (extract_lets +onlyGivenNames y; clear_value y)
    | (extract_lets +onlyGivenNames y; subst y)
    | with_reducible apply State.put_keeps
    | with_reducible apply State.raise_keeps
    | with_reducible apply State.trip_keeps
    | with_reducible apply State.fenceJudge_keeps
    | with_reducible apply State.svJudge_keeps
    | with_reducible apply State.judgeB_keeps
    | with_reducible apply State.thermCrit_keeps
    | with_reducible apply State.cstop_keeps
    | with_reducible apply Keeps.ite
    | split

theorem execBrokenLine_keeps {k0 : Nat} {r0 : State} (l : LineId) (kind : LineKind) (s : State) (hr : Keeps k0 r0 s) (hm : Sub 9801124020420 k0 := by exact hm.of (by decide)) : KeepsO k0 r0 (execBrokenLine l kind s) := by
  unfold execBrokenLine
  repeat' first
    | with_reducible assumption
    | exact hm.of (by decide)
    | with_reducible apply KeepsO.next
    | (extract_lets +onlyGivenNames y; have hy : Keeps k0 r0 y := ?_; clear_value y; rotate_left; subst y)
    | (extract_lets +onlyGivenNames y; have hy : Keeps k0 r0 y.1 := ?_; clear_value y; rotate_left; subst y)
    | (extract_lets +onlyGivenNames y; clear_value y)
    | (extract_lets +onlyGivenNames y; subst y)
    | with_reducible apply State.updBroken_keeps
    | with_reducible apply State.err_keeps
    | with_reducible apply State.put_keeps
    | with_reducible apply State.raise_keeps
    | with_reducible apply State.lineReact_keeps
    | with_reducible apply Keeps.ite
    | split
    | with_reducible apply Keeps.upd_flt

theorem execBrokenLineHeal_keeps {k0 : Nat} {r0 : State} (l : LineId) (s : State) (hr : Keeps k0 r0 s) (hm : Sub 9801124020420 k0 := by exact hm.of (by decide)) : KeepsO k0 r0 (execBrokenLineHeal l s) := by
  unfold execBrokenLineHeal
  repeat' first
    | with_reducible assumption
    | exact hm.of (by decide)
    | with_reducible apply KeepsO.next
    | with_reducible apply State.updBroken_keeps
    | with_reducible apply State.fenceJudge_keeps
    | with_reducible apply Keeps.upd_flt

theorem State.cstopEnd_keeps {k0 : Nat} {r0 : State} (s : State) (hr : Keeps k0 r0 s) (hm : Sub 9251368206532 k0 := by exact hm.of (by decide)) : Keeps k0 r0 (State.cstopEnd s) := by
  unfold State.cstopEnd
  repeat' first
    | with_reducible assumption
    | exact hm.of (by decide)
    | with_reducible apply State.nameOutputs_keeps
    | with_reducible apply State.cnt_keeps
    | with_reducible apply State.raise_keeps
    | with_reducible apply State.enterLockout_keeps

theorem State.cstopFinish_keeps {k0 : Nat} {r0 : State} (s : State) (hr : Keeps k0 r0 s) (hm : Sub 9251368206532 k0 := by exact hm.of (by decide)) : Keeps k0 r0 (State.cstopFinish s) := by
  unfold State.cstopFinish
  repeat' first
    | with_reducible assumption
    | exact hm.of (by decide)
    | (extract_lets +onlyGivenNames y; have hy : Keeps k0 r0 y := ?_; clear_value y; rotate_left; subst y)
    | (extract_lets +onlyGivenNames y; have hy : Keeps k0 r0 y.1 := ?_; clear_value y; rotate_left; subst y)
    | (extract_lets +onlyGivenNames y; clear_value y)
    | (extract_lets +onlyGivenNames y; subst y)
    | with_reducible apply State.withdrawNow_keeps
    | with_reducible apply State.cstopEnd_keeps
    | with_reducible apply Keeps.ite
    | split
    | with_reducible apply Keeps.upd_pair

theorem execCstopComplete_keeps {k0 : Nat} {r0 : State} (s : State) (hr : Keeps k0 r0 s) (hm : Sub 9251770859718 k0 := by exact hm.of (by decide)) : KeepsO k0 r0 (execCstopComplete s) := by
  unfold execCstopComplete
  repeat' first
    | with_reducible assumption
    | exact hm.of (by decide)
    | with_reducible apply KeepsO.next
    | (extract_lets +onlyGivenNames y; have hy : Keeps k0 r0 y := ?_; clear_value y; rotate_left; subst y)
    | (extract_lets +onlyGivenNames y; have hy : Keeps k0 r0 y.1 := ?_; clear_value y; rotate_left; subst y)
    | (extract_lets +onlyGivenNames y; clear_value y)
    | (extract_lets +onlyGivenNames y; subst y)
    | with_reducible apply State.until_keeps
    | with_reducible apply State.cstopFinish_keeps
    | with_reducible apply Keeps.ite
    | split

theorem execLockoutLoopOff_keeps {k0 : Nat} {r0 : State} (s : State) (hr : Keeps k0 r0 s) (hm : Sub 8992587910 k0 := by exact hm.of (by decide)) : KeepsO k0 r0 (execLockoutLoopOff s) := by
  unfold execLockoutLoopOff
  repeat' first
    | with_reducible assumption
    | exact hm.of (by decide)
    | with_reducible apply KeepsO.next
    | (extract_lets +onlyGivenNames y; have hy : Keeps k0 r0 y := ?_; clear_value y; rotate_left; subst y)
    | (extract_lets +onlyGivenNames y; have hy : Keeps k0 r0 y.1 := ?_; clear_value y; rotate_left; subst y)
    | (extract_lets +onlyGivenNames y; clear_value y)
    | (extract_lets +onlyGivenNames y; subst y)
    | with_reducible apply State.until_keeps
    | with_reducible apply State.auxApply_keeps
    | with_reducible apply Keeps.ite
    | split
    | (with_reducible refine Keeps.foldl ?_ (fun u x h => ?_))

theorem State.hostHalt_keeps {k0 : Nat} {r0 : State} (s : State) (hr : Keeps k0 r0 s) (hm : Sub 9251368206532 k0 := by exact hm.of (by decide)) : Keeps k0 r0 (State.hostHalt s) := by
  unfold State.hostHalt
  repeat' first
    | with_reducible assumption
    | exact hm.of (by decide)
    | with_reducible apply State.put_keeps
    | with_reducible apply State.trip_keeps

theorem execHostHaltRequest_keeps {k0 : Nat} {r0 : State} (s : State) (hr : Keeps k0 r0 s) (hm : Sub 9251368206532 k0 := by exact hm.of (by decide)) : KeepsO k0 r0 (execHostHaltRequest s) := by
  unfold execHostHaltRequest
  repeat' first
    | with_reducible assumption
    | exact hm.of (by decide)
    | with_reducible apply KeepsO.next
    | with_reducible apply State.hostHalt_keeps

theorem State.hostCstop_keeps {k0 : Nat} {r0 : State} (s : State) (hr : Keeps k0 r0 s) (hm : Sub 9251368206532 k0 := by exact hm.of (by decide)) : Keeps k0 r0 (State.hostCstop s) := by
  unfold State.hostCstop
  repeat' first
    | with_reducible assumption
    | exact hm.of (by decide)
    | with_reducible apply State.put_keeps
    | with_reducible apply State.cstop_keeps

theorem execHostCstopRequest_keeps {k0 : Nat} {r0 : State} (s : State) (hr : Keeps k0 r0 s) (hm : Sub 9251368206532 k0 := by exact hm.of (by decide)) : KeepsO k0 r0 (execHostCstopRequest s) := by
  unfold execHostCstopRequest
  repeat' first
    | with_reducible assumption
    | exact hm.of (by decide)
    | with_reducible apply KeepsO.next
    | with_reducible apply State.hostCstop_keeps

theorem execSoOverload_keeps {k0 : Nat} {r0 : State} (o : Fin 4) (s : State) (hr : Keeps k0 r0 s) (hm : Sub 137841606662 k0 := by exact hm.of (by decide)) : KeepsO k0 r0 (execSoOverload o s) := by
  unfold execSoOverload
  repeat' first
    | with_reducible assumption
    | exact hm.of (by decide)
    | with_reducible apply KeepsO.next
    | (extract_lets +onlyGivenNames y; have hy : Keeps k0 r0 y := ?_; clear_value y; rotate_left; subst y)
    | (extract_lets +onlyGivenNames y; have hy : Keeps k0 r0 y.1 := ?_; clear_value y; rotate_left; subst y)
    | (extract_lets +onlyGivenNames y; clear_value y)
    | (extract_lets +onlyGivenNames y; subst y)
    | with_reducible apply State.advance_keeps
    | with_reducible apply State.withSafe_keeps
    | with_reducible apply State.driveOutputs_keeps
    | with_reducible apply Keeps.ite
    | split

theorem State.resetAccept_keeps {k0 : Nat} {r0 : State} (s : State) (hr : Keeps k0 r0 s) (hm : Sub 9251368206532 k0 := by exact hm.of (by decide)) : Keeps k0 r0 (State.resetAccept s) := by
  unfold State.resetAccept
  repeat' first
    | with_reducible assumption
    | exact hm.of (by decide)
    | (extract_lets +onlyGivenNames y; have hy : Keeps k0 r0 y := ?_; clear_value y; rotate_left; subst y)
    | (extract_lets +onlyGivenNames y; have hy : Keeps k0 r0 y.1 := ?_; clear_value y; rotate_left; subst y)
    | (extract_lets +onlyGivenNames y; clear_value y)
    | (extract_lets +onlyGivenNames y; subst y)
    | with_reducible apply State.withSafe_keeps
    | with_reducible apply State.setSafe_keeps
    | with_reducible apply State.enforce_keeps
    | with_reducible apply State.raise_keeps
    | with_reducible apply State.withdrawEnd_keeps
    | with_reducible apply State.laneCommon_keeps

theorem State.resetRefuse_keeps {k0 : Nat} {r0 : State} (s : State) (why : Nat) (hr : Keeps k0 r0 s) (hm : Sub 274877906948 k0 := by exact hm.of (by decide)) : Keeps k0 r0 (State.resetRefuse s why) := by
  unfold State.resetRefuse
  repeat' first
    | with_reducible assumption
    | exact hm.of (by decide)
    | with_reducible apply State.put_keeps
    | with_reducible apply State.cnt_keeps
    | with_reducible apply State.raise_keeps

theorem State.lockReset_keeps {k0 : Nat} {r0 : State} (s : State) (remote svAgrees : Bool) (hr : Keeps k0 r0 s) (hm : Sub 9251368206532 k0 := by exact hm.of (by decide)) : Keeps k0 r0 (State.lockReset s remote svAgrees) := by
  unfold State.lockReset
  repeat' first
    | with_reducible assumption
    | exact hm.of (by decide)
    | (extract_lets +onlyGivenNames y; have hy : Keeps k0 r0 y := ?_; clear_value y; rotate_left; subst y)
    | (extract_lets +onlyGivenNames y; have hy : Keeps k0 r0 y.1 := ?_; clear_value y; rotate_left; subst y)
    | (extract_lets +onlyGivenNames y; clear_value y)
    | (extract_lets +onlyGivenNames y; subst y)
    | with_reducible apply State.put_keeps
    | with_reducible apply State.withSafe_keeps
    | with_reducible apply State.resetAccept_keeps
    | with_reducible apply State.resetRefuse_keeps
    | with_reducible apply Keeps.ite
    | split

theorem execLockoutReset_keeps {k0 : Nat} {r0 : State} (svAgrees : Bool) (s : State) (hr : Keeps k0 r0 s) (hm : Sub 9251368206532 k0 := by exact hm.of (by decide)) : KeepsO k0 r0 (execLockoutReset svAgrees s) := by
  unfold execLockoutReset
  repeat' first
    | with_reducible assumption
    | exact hm.of (by decide)
    | with_reducible apply KeepsO.next
    | with_reducible apply State.lockReset_keeps

theorem execRstInChange_keeps {k0 : Nat} {r0 : State} (closed svSaw : Bool) (afterMs : Nat) (s : State) (hr : Keeps k0 r0 s) (hm : Sub 9251770859718 k0 := by exact hm.of (by decide)) : KeepsO k0 r0 (execRstInChange closed svSaw afterMs s) := by
  unfold execRstInChange
  repeat' first
    | with_reducible assumption
    | exact hm.of (by decide)
    | with_reducible apply KeepsO.next
    | (extract_lets +onlyGivenNames y; have hy : Keeps k0 r0 y := ?_; clear_value y; rotate_left; subst y)
    | (extract_lets +onlyGivenNames y; have hy : Keeps k0 r0 y.1 := ?_; clear_value y; rotate_left; subst y)
    | (extract_lets +onlyGivenNames y; clear_value y)
    | (extract_lets +onlyGivenNames y; subst y)
    | with_reducible apply State.withSafe_keeps
    | with_reducible apply State.put_keeps
    | with_reducible apply State.until_keeps
    | with_reducible apply State.lockReset_keeps
    | with_reducible apply Keeps.ite
    | split

theorem execResetHeld_keeps {k0 : Nat} {r0 : State} (s : State) (hr : Keeps k0 r0 s) (hm : Sub 275280560134 k0 := by exact hm.of (by decide)) : KeepsO k0 r0 (execResetHeld s) := by
  unfold execResetHeld
  repeat' first
    | with_reducible assumption
    | exact hm.of (by decide)
    | with_reducible apply KeepsO.next
    | (extract_lets +onlyGivenNames y; have hy : Keeps k0 r0 y := ?_; clear_value y; rotate_left; subst y)
    | (extract_lets +onlyGivenNames y; have hy : Keeps k0 r0 y.1 := ?_; clear_value y; rotate_left; subst y)
    | (extract_lets +onlyGivenNames y; clear_value y)
    | (extract_lets +onlyGivenNames y; subst y)
    | with_reducible apply State.until_keeps
    | with_reducible apply State.put_keeps
    | with_reducible apply State.raise_keeps
    | with_reducible apply Keeps.ite
    | split

theorem execResetStuck_keeps {k0 : Nat} {r0 : State} (s : State) (hr : Keeps k0 r0 s) (hm : Sub 275280560134 k0 := by exact hm.of (by decide)) : KeepsO k0 r0 (execResetStuck s) := by
  unfold execResetStuck
  repeat' first
    | with_reducible assumption
    | exact hm.of (by decide)
    | with_reducible apply KeepsO.next
    | (extract_lets +onlyGivenNames y; have hy : Keeps k0 r0 y := ?_; clear_value y; rotate_left; subst y)
    | (extract_lets +onlyGivenNames y; have hy : Keeps k0 r0 y.1 := ?_; clear_value y; rotate_left; subst y)
    | (extract_lets +onlyGivenNames y; clear_value y)
    | (extract_lets +onlyGivenNames y; subst y)
    | with_reducible apply State.until_keeps
    | with_reducible apply State.put_keeps
    | with_reducible apply State.raise_keeps
    | with_reducible apply Keeps.ite
    | split

theorem State.proofRun_keeps {k0 : Nat} {r0 : State} (s : State) (hr : Keeps k0 r0 s) (hm : Sub 137438953476 k0 := by exact hm.of (by decide)) : Keeps k0 r0 (State.proofRun s) := by
  unfold State.proofRun
  repeat' first
    | with_reducible assumption
    | exact hm.of (by decide)
    | with_reducible apply State.withSafe_keeps
    | with_reducible apply State.put_keeps

theorem execProofRun_keeps {k0 : Nat} {r0 : State} (s : State) (hr : Keeps k0 r0 s) (hm : Sub 137438953476 k0 := by exact hm.of (by decide)) : KeepsO k0 r0 (execProofRun s) := by
  unfold execProofRun
  repeat' first
    | with_reducible assumption
    | exact hm.of (by decide)
    | with_reducible apply KeepsO.next
    | with_reducible apply State.proofRun_keeps

theorem State.proofPass_keeps {k0 : Nat} {r0 : State} (s : State) (t : Nat) (hr : Keeps k0 r0 s) (hm : Sub 137438953476 k0 := by exact hm.of (by decide)) : Keeps k0 r0 (State.proofPass s t) := by
  unfold State.proofPass
  repeat' first
    | with_reducible assumption
    | exact hm.of (by decide)
    | (extract_lets +onlyGivenNames y; have hy : Keeps k0 r0 y := ?_; clear_value y; rotate_left; subst y)
    | (extract_lets +onlyGivenNames y; have hy : Keeps k0 r0 y.1 := ?_; clear_value y; rotate_left; subst y)
    | (extract_lets +onlyGivenNames y; clear_value y)
    | (extract_lets +onlyGivenNames y; subst y)
    | with_reducible apply State.withSafe_keeps
    | with_reducible apply State.put_keeps
    | with_reducible apply State.cnt_keeps
    | with_reducible apply Keeps.ite
    | split

theorem State.proofFail_keeps {k0 : Nat} {r0 : State} (s : State) (t : Nat) (hr : Keeps k0 r0 s) (hm : Sub 412316860420 k0 := by exact hm.of (by decide)) : Keeps k0 r0 (State.proofFail s t) := by
  unfold State.proofFail
  repeat' first
    | with_reducible assumption
    | exact hm.of (by decide)
    | (extract_lets +onlyGivenNames y; have hy : Keeps k0 r0 y := ?_; clear_value y; rotate_left; subst y)
    | (extract_lets +onlyGivenNames y; have hy : Keeps k0 r0 y.1 := ?_; clear_value y; rotate_left; subst y)
    | (extract_lets +onlyGivenNames y; clear_value y)
    | (extract_lets +onlyGivenNames y; subst y)
    | with_reducible apply State.withSafe_keeps
    | with_reducible apply State.put_keeps
    | with_reducible apply State.raise_keeps

theorem execProofTest_keeps {k0 : Nat} {r0 : State} (t : Fin 7) (bad : Option (Fin 4)) (s : State) (hr : Keeps k0 r0 s) (hm : Sub 9251368206532 k0 := by exact hm.of (by decide)) : KeepsO k0 r0 (execProofTest t bad s) := by
  unfold execProofTest
  repeat' first
    | with_reducible assumption
    | exact hm.of (by decide)
    | with_reducible apply KeepsO.next
    | with_reducible apply State.proofPass_keeps
    | with_reducible apply State.proofFail_keeps
    | with_reducible apply State.trip_keeps
    | with_reducible apply Keeps.ite
    | split

theorem execProofOverdue_keeps {k0 : Nat} {r0 : State} (s : State) (hr : Keeps k0 r0 s) (hm : Sub 275280560134 k0 := by exact hm.of (by decide)) : KeepsO k0 r0 (execProofOverdue s) := by
  unfold execProofOverdue
  repeat' first
    | with_reducible assumption
    | exact hm.of (by decide)
    | with_reducible apply KeepsO.next
    | with_reducible apply State.until_keeps
    | with_reducible apply State.put_keeps
    | with_reducible apply State.raise_keeps
    | with_reducible apply Keeps.ite
    | split

theorem State.testLock_keeps {k0 : Nat} {r0 : State} (s : State) (c : Cause) (hr : Keeps k0 r0 s) (hm : Sub 9251368206532 k0 := by exact hm.of (by decide)) : Keeps k0 r0 (State.testLock s c) := by
  unfold State.testLock
  repeat' first
    | with_reducible assumption
    | exact hm.of (by decide)
    | with_reducible apply State.nameOutputs_keeps
    | with_reducible apply State.recordCause_keeps
    | with_reducible apply State.enterLockout_keeps

theorem State.testsDone_keeps {k0 : Nat} {r0 : State} (s : State) (pass : Bool) (hr : Keeps k0 r0 s) (hm : Sub 9251368206532 k0 := by exact hm.of (by decide)) : Keeps k0 r0 (State.testsDone s pass) := by
  unfold State.testsDone
  repeat' first
    | with_reducible assumption
    | exact hm.of (by decide)
    | (extract_lets +onlyGivenNames y; have hy : Keeps k0 r0 y := ?_; clear_value y; rotate_left; subst y)
    | (extract_lets +onlyGivenNames y; have hy : Keeps k0 r0 y.1 := ?_; clear_value y; rotate_left; subst y)
    | (extract_lets +onlyGivenNames y; clear_value y)
    | (extract_lets +onlyGivenNames y; subst y)
    | with_reducible apply State.put_keeps
    | with_reducible apply State.withSafe_keeps
    | with_reducible apply State.proofFail_keeps
    | with_reducible apply State.testLock_keeps
    | with_reducible apply State.proofPass_keeps
    | with_reducible apply State.setSafe_keeps
    | with_reducible apply State.enforce_keeps
    | with_reducible apply State.laneCommon_keeps
    | with_reducible apply State.trip_keeps
    | with_reducible apply Keeps.ite
    | split

theorem execPowerUpTestsDone_keeps {k0 : Nat} {r0 : State} (pass : Bool) (s : State) (hr : Keeps k0 r0 s) (hm : Sub 9251368206532 k0 := by exact hm.of (by decide)) : KeepsO k0 r0 (execPowerUpTestsDone pass s) := by
  unfold execPowerUpTestsDone
  repeat' first
    | with_reducible assumption
    | exact hm.of (by decide)
    | with_reducible apply KeepsO.next
    | with_reducible apply State.testsDone_keeps
    | with_reducible apply Keeps.ite
    | split

theorem State.paramApply_keeps {k0 : Nat} {r0 : State} (s : State) (a : Nat) (hr : Keeps k0 r0 s) (hm : Sub 412316860420 k0 := by exact hm.of (by decide)) : Keeps k0 r0 (State.paramApply s a) := by
  unfold State.paramApply
  repeat' first
    | with_reducible assumption
    | exact hm.of (by decide)
    | (extract_lets +onlyGivenNames y; have hy : Keeps k0 r0 y := ?_; clear_value y; rotate_left; subst y)
    | (extract_lets +onlyGivenNames y; have hy : Keeps k0 r0 y.1 := ?_; clear_value y; rotate_left; subst y)
    | (extract_lets +onlyGivenNames y; clear_value y)
    | (extract_lets +onlyGivenNames y; subst y)
    | with_reducible apply State.withSafe_keeps
    | with_reducible apply State.clrBitOf_keeps
    | with_reducible apply State.raise_keeps
    | with_reducible apply Keeps.ite
    | split

theorem State.paramsApplied_keeps {k0 : Nat} {r0 : State} (s : State) (hr : Keeps k0 r0 s) (hm : Sub 9251368206532 k0 := by exact hm.of (by decide)) : Keeps k0 r0 (State.paramsApplied s) := by
  unfold State.paramsApplied
  repeat' first
    | with_reducible assumption
    | exact hm.of (by decide)
    | with_reducible apply State.siNote_keeps
    | with_reducible apply State.updHealthy_keeps
    | with_reducible apply State.fenceJudge_keeps
    | with_reducible apply State.driveOutputs_keeps
    | with_reducible apply State.laneCommon_keeps
    | (with_reducible refine Keeps.foldl ?_ (fun u x h => ?_))

theorem State.paramsNow_keeps {k0 : Nat} {r0 : State} (s : State) (hr : Keeps k0 r0 s) (hm : Sub 9251368206532 k0 := by exact hm.of (by decide)) : Keeps k0 r0 (State.paramsNow s) := by
  unfold State.paramsNow
  repeat' first
    | with_reducible assumption
    | exact hm.of (by decide)
    | (extract_lets +onlyGivenNames y; have hy : Keeps k0 r0 y := ?_; clear_value y; rotate_left; subst y)
    | (extract_lets +onlyGivenNames y; have hy : Keeps k0 r0 y.1 := ?_; clear_value y; rotate_left; subst y)
    | (extract_lets +onlyGivenNames y; clear_value y)
    | (extract_lets +onlyGivenNames y; subst y)
    | with_reducible apply State.paramApply_keeps
    | with_reducible apply State.paramsApplied_keeps
    | with_reducible apply Keeps.ite
    | split
    | (with_reducible refine Keeps.foldl ?_ (fun u x h => ?_))

theorem State.paramCommitted_keeps {k0 : Nat} {r0 : State} (s : State) (a : Nat) (old : Word) (hr : Keeps k0 r0 s) (hm : Sub 9251368206532 k0 := by exact hm.of (by decide)) : Keeps k0 r0 (State.paramCommitted s a old) := by
  unfold State.paramCommitted
  repeat' first
    | with_reducible assumption
    | exact hm.of (by decide)
    | (extract_lets +onlyGivenNames y; have hy : Keeps k0 r0 y := ?_; clear_value y; rotate_left; subst y)
    | (extract_lets +onlyGivenNames y; have hy : Keeps k0 r0 y.1 := ?_; clear_value y; rotate_left; subst y)
    | (extract_lets +onlyGivenNames y; clear_value y)
    | (extract_lets +onlyGivenNames y; subst y)
    | with_reducible apply State.withSafe_keeps
    | with_reducible apply State.setBitOf_keeps
    | with_reducible apply State.put_keeps
    | with_reducible apply State.paramsNow_keeps
    | with_reducible apply Keeps.ite
    | split

theorem State.safeCtrlWrite_keeps {k0 : Nat} {r0 : State} (s : State) (v : Nat) (hr : Keeps k0 r0 s) (hm : Sub 9251368206532 k0 := by exact hm.of (by decide)) : Keeps k0 r0 (State.safeCtrlWrite s v) := by
  unfold State.safeCtrlWrite
  repeat' first
    | with_reducible assumption
    | exact hm.of (by decide)
    | (extract_lets +onlyGivenNames y; have hy : Keeps k0 r0 y := ?_; clear_value y; rotate_left; subst y)
    | (extract_lets +onlyGivenNames y; have hy : Keeps k0 r0 y.1 := ?_; clear_value y; rotate_left; subst y)
    | (extract_lets +onlyGivenNames y; clear_value y)
    | (extract_lets +onlyGivenNames y; subst y)
    | with_reducible apply State.hostHalt_keeps
    | with_reducible apply State.hostCstop_keeps
    | with_reducible apply State.proofRun_keeps
    | with_reducible apply Keeps.ite
    | split

theorem State.pendingInConfig_keeps {k0 : Nat} {r0 : State} (s : State) (hr : Keeps k0 r0 s) (hm : Sub 13649414717636 k0 := by exact hm.of (by decide)) : Keeps k0 r0 (State.pendingInConfig s) := by
  unfold State.pendingInConfig
  repeat' first
    | with_reducible assumption
    | exact hm.of (by decide)
    | (extract_lets +onlyGivenNames y; have hy : Keeps k0 r0 y := ?_; clear_value y; rotate_left; subst y)
    | (extract_lets +onlyGivenNames y; have hy : Keeps k0 r0 y.1 := ?_; clear_value y; rotate_left; subst y)
    | (extract_lets +onlyGivenNames y; clear_value y)
    | (extract_lets +onlyGivenNames y; subst y)
    | with_reducible apply State.cmpApply_keeps
    | with_reducible apply State.put_keeps
    | with_reducible apply State.paramsNow_keeps
    | with_reducible apply Keeps.ite
    | split
    | (with_reducible refine Keeps.foldl ?_ (fun u x h => ?_))
    | with_reducible apply Keeps.upd_upd

theorem State.enterConfig_keeps {k0 : Nat} {r0 : State} (s : State) (hr : Keeps k0 r0 s) (hm : Sub 13649532682444 k0 := by exact hm.of (by decide)) : Keeps k0 r0 (State.enterConfig s) := by
  unfold State.enterConfig
  repeat' first
    | with_reducible assumption
    | exact hm.of (by decide)
    | (extract_lets +onlyGivenNames y; have hy : Keeps k0 r0 y := ?_; clear_value y; rotate_left; subst y)
    | (extract_lets +onlyGivenNames y; have hy : Keeps k0 r0 y.1 := ?_; clear_value y; rotate_left; subst y)
    | (extract_lets +onlyGivenNames y; clear_value y)
    | (extract_lets +onlyGivenNames y; subst y)
    | with_reducible apply State.setYard_keeps
    | with_reducible apply State.raise_keeps
    | with_reducible apply State.put_keeps
    | with_reducible apply State.stopLink_keeps
    | with_reducible apply State.setInSort_keeps
    | with_reducible apply State.engPark_keeps
    | with_reducible apply State.pendingInConfig_keeps
    | (with_reducible refine Keeps.foldl ?_ (fun u x h => ?_))
    | with_reducible apply Keeps.upd_bal

theorem execYardStopComplete_keeps {k0 : Nat} {r0 : State} (s : State) (hr : Keeps k0 r0 s) (hm : Sub 13649532682444 k0 := by exact hm.of (by decide)) : KeepsO k0 r0 (execYardStopComplete s) := by
  unfold execYardStopComplete
  repeat' first
    | with_reducible assumption
    | exact hm.of (by decide)
    | with_reducible apply KeepsO.next
    | with_reducible apply State.enterConfig_keeps
    | with_reducible apply Keeps.ite
    | split

end Sys2Proof.Machine
end

