-- ==== Sys2Proof/Laws/KeepsFlt.lean ====
section
/-! SUPPORT. The operations of Machine/Flt.lean leave the queue alone and keep the canonical form of the stores. -/

set_option linter.unusedTactic false
set_option linter.unreachableTactic false

namespace Sys2Proof.Machine

theorem State.capClr_keeps {k0 : Nat} {r0 : State} (s : State) (hr : Keeps k0 r0 s) (hm : Sub 824633720836 k0 := by exact hm.of (by decide)) : Keeps k0 r0 (State.capClr s) := by
  unfold State.capClr
  repeat' first
    | with_reducible assumption
    | exact hm.of (by decide)
    | (extract_lets +onlyGivenNames y; have hy : Keeps k0 r0 y := ?_; clear_value y; rotate_left; subst y)
    | (extract_lets +onlyGivenNames y; have hy : Keeps k0 r0 y.1 := ?_; clear_value y; rotate_left; subst y)
    | (extract_lets +onlyGivenNames y; clear_value y)
    | (extract_lets +onlyGivenNames y; subst y)
    | with_reducible apply State.put_keeps
    | with_reducible apply State.fltRecord_keeps
    | with_reducible apply State.raise_keeps
    | with_reducible apply Keeps.ite
    | split
    | with_reducible apply Keeps.upd_flt

theorem execCapClr_keeps {k0 : Nat} {r0 : State} (s : State) (hr : Keeps k0 r0 s) (hm : Sub 824633720836 k0 := by exact hm.of (by decide)) : KeepsO k0 r0 (execCapClr s) := by
  unfold execCapClr
  repeat' first
    | with_reducible assumption
    | exact hm.of (by decide)
    | with_reducible apply KeepsO.next
    | with_reducible apply State.capClr_keeps

theorem execFabricProbe_keeps {k0 : Nat} {r0 : State} (bad : Bool) (s : State) (hr : Keeps k0 r0 s) (hm : Sub 549755813888 k0 := by exact hm.of (by decide)) : KeepsO k0 r0 (execFabricProbe bad s) := by
  unfold execFabricProbe
  repeat' first
    | with_reducible assumption
    | exact hm.of (by decide)
    | with_reducible apply KeepsO.next
    | with_reducible apply Keeps.ite
    | split
    | with_reducible apply Keeps.upd_flt

theorem fltCleared_keeps {k0 : Nat} {r0 : State} (s : State) (a cleared : Nat) (hr : Keeps k0 r0 s) (hm : Sub 549755813888 k0 := by exact hm.of (by decide)) : Keeps k0 r0 (fltCleared s a cleared) := by
  unfold fltCleared
  repeat' first
    | with_reducible assumption
    | exact hm.of (by decide)
    | with_reducible apply Keeps.ite
    | split
    | (with_reducible refine Keeps.foldl ?_ (fun u x h => ?_))
    | with_reducible apply Keeps.upd_flt

theorem State.logPop_keeps {k0 : Nat} {r0 : State} (s : State) (m : Master) (wide : Bool) (hr : Keeps k0 r0 s) (hm : Sub 824633736724 k0 := by exact hm.of (by decide)) : Keeps k0 r0 (State.logPop s m wide) := by
  unfold State.logPop
  repeat' first
    | with_reducible assumption
    | exact hm.of (by decide)
    | (extract_lets +onlyGivenNames y; have hy : Keeps k0 r0 y := ?_; clear_value y; rotate_left; subst y)
    | (extract_lets +onlyGivenNames y; have hy : Keeps k0 r0 y.1 := ?_; clear_value y; rotate_left; subst y)
    | (extract_lets +onlyGivenNames y; clear_value y)
    | (extract_lets +onlyGivenNames y; subst y)
    | with_reducible apply State.fifoPop_keeps
    | with_reducible apply State.afterPop_keeps
    | with_reducible apply State.logStore_keeps
    | with_reducible apply State.put_keeps
    | intro t p ht

theorem execEvtLogPop_keeps {k0 : Nat} {r0 : State} (r : ReadReq) (s : State) (hr : Keeps k0 r0 s) (hm : Sub 824633736724 k0 := by exact hm.of (by decide)) : KeepsO k0 r0 (execEvtLogPop r s) := by
  unfold execEvtLogPop
  repeat' first
    | with_reducible assumption
    | exact hm.of (by decide)
    | with_reducible apply KeepsO.next
    | with_reducible apply State.logPop_keeps
    | with_reducible apply Keeps.ite
    | split

end Sys2Proof.Machine
end

