-- ==== Sys2Proof/Laws/KeepsPort.lean ====
section
/-! SUPPORT. The operations of Machine/Port.lean leave the queue alone and keep the canonical form of the stores. -/

set_option linter.unusedTactic false
set_option linter.unreachableTactic false

namespace Sys2Proof.Machine

theorem State.setPort_keeps {k0 : Nat} {r0 : State} (s : State) (v : Nat) (hr : Keeps k0 r0 s) (hm : Sub 4 k0 := by exact hm.of (by decide)) : Keeps k0 r0 (State.setPort s v) := by
  unfold State.setPort
  repeat' first
    | with_reducible assumption
    | exact hm.of (by decide)
    | with_reducible apply State.put_keeps

theorem State.cmdRefuse_keeps {k0 : Nat} {r0 : State} (s : State) (hr : Keeps k0 r0 s) (hm : Sub 274877906980 k0 := by exact hm.of (by decide)) : Keeps k0 r0 (State.cmdRefuse s) := by
  unfold State.cmdRefuse
  repeat' first
    | with_reducible assumption
    | exact hm.of (by decide)
    | with_reducible apply State.put_keeps
    | with_reducible apply State.cnt_keeps
    | with_reducible apply State.raise_keeps
    | with_reducible apply State.noteDrop_keeps

theorem State.cmdWrite_keeps {k0 : Nat} {r0 : State} (s : State) (m : Master) (w : Nat) (hr : Keeps k0 r0 s) (hm : Sub 277025407140 k0 := by exact hm.of (by decide)) : Keeps k0 r0 (State.cmdWrite s m w) := by
  unfold State.cmdWrite
  repeat' first
    | with_reducible assumption
    | exact hm.of (by decide)
    | (extract_lets +onlyGivenNames y; have hy : Keeps k0 r0 y := ?_; clear_value y; rotate_left; subst y)
    | (extract_lets +onlyGivenNames y; have hy : Keeps k0 r0 y.1 := ?_; clear_value y; rotate_left; subst y)
    | (extract_lets +onlyGivenNames y; clear_value y)
    | (extract_lets +onlyGivenNames y; subst y)
    | with_reducible apply State.put_keeps
    | with_reducible apply State.cmdRefuse_keeps
    | with_reducible apply State.setPort_keeps
    | with_reducible apply State.calBegin_keeps
    | with_reducible apply Keeps.ite
    | split
    | with_reducible apply Keeps.upd_cmd

theorem State.cmdEnd_keeps {k0 : Nat} {r0 : State} (s : State) (code : Nat) (res : List Word) (next : Nat) (hr : Keeps k0 r0 s) (hm : Sub 274877956228 k0 := by exact hm.of (by decide)) : Keeps k0 r0 (State.cmdEnd s code res next) := by
  unfold State.cmdEnd
  repeat' first
    | with_reducible assumption
    | exact hm.of (by decide)
    | (extract_lets +onlyGivenNames y; have hy : Keeps k0 r0 y := ?_; clear_value y; rotate_left; subst y)
    | (extract_lets +onlyGivenNames y; have hy : Keeps k0 r0 y.1 := ?_; clear_value y; rotate_left; subst y)
    | (extract_lets +onlyGivenNames y; clear_value y)
    | (extract_lets +onlyGivenNames y; subst y)
    | with_reducible apply State.put_keeps
    | with_reducible apply State.setReg_keeps
    | with_reducible apply State.drew_keeps
    | with_reducible apply State.setPort_keeps
    | with_reducible apply State.raise_keeps
    | (with_reducible refine Keeps.foldl ?_ (fun u x h => ?_))
    | with_reducible apply Keeps.upd_cmd_cmdEnded

theorem State.withUpd_keeps {k0 : Nat} {r0 : State} (s : State) (x : UpdSt) (hr : Keeps k0 r0 s) (hm : Sub 4398046511104 k0 := by exact hm.of (by decide)) : Keeps k0 r0 (State.withUpd s x) := by
  unfold State.withUpd
  repeat' first
    | with_reducible assumption
    | exact hm.of (by decide)
    | with_reducible apply Keeps.upd_upd

theorem State.tableApply_keeps {k0 : Nat} {r0 : State} (s : State) (a : Nat) (v : Word) (hr : Keeps k0 r0 s) (hm : Sub 2147483652 k0 := by exact hm.of (by decide)) : Keeps k0 r0 (State.tableApply s a v) := by
  unfold State.tableApply
  repeat' first
    | with_reducible assumption
    | exact hm.of (by decide)
    | (extract_lets +onlyGivenNames y; have hy : Keeps k0 r0 y := ?_; clear_value y; rotate_left; subst y)
    | (extract_lets +onlyGivenNames y; have hy : Keeps k0 r0 y.1 := ?_; clear_value y; rotate_left; subst y)
    | (extract_lets +onlyGivenNames y; clear_value y)
    | (extract_lets +onlyGivenNames y; subst y)
    | with_reducible apply State.setReg_keeps
    | with_reducible apply State.laneRowWritten_keeps
    | with_reducible apply State.noteTrim_keeps
    | with_reducible apply Keeps.ite
    | split

theorem State.applyEnd_keeps {k0 : Nat} {r0 : State} (s : State) (hr : Keeps k0 r0 s) (hm : Sub 4400193994756 k0 := by exact hm.of (by decide)) : Keeps k0 r0 (State.applyEnd s) := by
  unfold State.applyEnd
  repeat' first
    | with_reducible assumption
    | exact hm.of (by decide)
    | (extract_lets +onlyGivenNames y; have hy : Keeps k0 r0 y := ?_; clear_value y; rotate_left; subst y)
    | (extract_lets +onlyGivenNames y; have hy : Keeps k0 r0 y.1 := ?_; clear_value y; rotate_left; subst y)
    | (extract_lets +onlyGivenNames y; clear_value y)
    | (extract_lets +onlyGivenNames y; subst y)
    | with_reducible apply State.put_keeps
    | with_reducible apply State.withUpd_keeps
    | with_reducible apply State.tableApply_keeps
    | (with_reducible refine Keeps.foldl ?_ (fun u x h => ?_))

theorem State.cmdStop_keeps {k0 : Nat} {r0 : State} (s : State) (op : Nat) (hr : Keeps k0 r0 s) (hm : Sub 4400261103620 k0 := by exact hm.of (by decide)) : Keeps k0 r0 (State.cmdStop s op) := by
  unfold State.cmdStop
  repeat' first
    | with_reducible assumption
    | exact hm.of (by decide)
    | (extract_lets +onlyGivenNames y; have hy : Keeps k0 r0 y := ?_; clear_value y; rotate_left; subst y)
    | (extract_lets +onlyGivenNames y; have hy : Keeps k0 r0 y.1 := ?_; clear_value y; rotate_left; subst y)
    | (extract_lets +onlyGivenNames y; clear_value y)
    | (extract_lets +onlyGivenNames y; subst y)
    | with_reducible apply State.withPad_keeps
    | with_reducible apply State.setPad_keeps
    | with_reducible apply State.calOver_keeps
    | with_reducible apply State.applyEnd_keeps
    | with_reducible apply State.withUpd_keeps
    | with_reducible apply Keeps.ite
    | split

theorem execCmdNop_keeps {k0 : Nat} {r0 : State} (s : State) (hr : Keeps k0 r0 s) (hm : Sub 275280609414 k0 := by exact hm.of (by decide)) : KeepsO k0 r0 (execCmdNop s) := by
  unfold execCmdNop
  repeat' first
    | with_reducible assumption
    | exact hm.of (by decide)
    | with_reducible apply KeepsO.next
    | with_reducible apply State.until_keeps
    | with_reducible apply State.cmdEnd_keeps
    | with_reducible apply Keeps.ite
    | split

theorem execCmdBadOpcode_keeps {k0 : Nat} {r0 : State} (s : State) (hr : Keeps k0 r0 s) (hm : Sub 274877956228 k0 := by exact hm.of (by decide)) : KeepsO k0 r0 (execCmdBadOpcode s) := by
  unfold execCmdBadOpcode
  repeat' first
    | with_reducible assumption
    | exact hm.of (by decide)
    | with_reducible apply KeepsO.next
    | with_reducible apply State.cmdEnd_keeps
    | with_reducible apply Keeps.ite
    | split

theorem execCmdComplete_keeps {k0 : Nat} {r0 : State} (s : State) (hr : Keeps k0 r0 s) (hm : Sub 274877956228 k0 := by exact hm.of (by decide)) : KeepsO k0 r0 (execCmdComplete s) := by
  unfold execCmdComplete
  repeat' first
    | with_reducible assumption
    | exact hm.of (by decide)
    | with_reducible apply KeepsO.next
    | with_reducible apply State.cmdEnd_keeps
    | with_reducible apply Keeps.ite
    | split

theorem execCmdTimeout_keeps {k0 : Nat} {r0 : State} (s : State) (hr : Keeps k0 r0 s) (hm : Sub 4675541713030 k0 := by exact hm.of (by decide)) : KeepsO k0 r0 (execCmdTimeout s) := by
  unfold execCmdTimeout
  repeat' first
    | with_reducible assumption
    | exact hm.of (by decide)
    | with_reducible apply KeepsO.next
    | (extract_lets +onlyGivenNames y; have hy : Keeps k0 r0 y := ?_; clear_value y; rotate_left; subst y)
    | (extract_lets +onlyGivenNames y; have hy : Keeps k0 r0 y.1 := ?_; clear_value y; rotate_left; subst y)
    | (extract_lets +onlyGivenNames y; clear_value y)
    | (extract_lets +onlyGivenNames y; subst y)
    | with_reducible apply State.until_keeps
    | with_reducible apply State.cmdStop_keeps
    | with_reducible apply State.cmdEnd_keeps
    | with_reducible apply State.raise_keeps
    | with_reducible apply Keeps.ite
    | split

theorem State.restartDiscard_keeps {k0 : Nat} {r0 : State} (s : State) (why : Nat) (hr : Keeps k0 r0 s) (hm : Sub 274877972484 k0 := by exact hm.of (by decide)) : Keeps k0 r0 (State.restartDiscard s why) := by
  unfold State.restartDiscard
  repeat' first
    | with_reducible assumption
    | exact hm.of (by decide)
    | (extract_lets +onlyGivenNames y; have hy : Keeps k0 r0 y := ?_; clear_value y; rotate_left; subst y)
    | (extract_lets +onlyGivenNames y; have hy : Keeps k0 r0 y.1 := ?_; clear_value y; rotate_left; subst y)
    | (extract_lets +onlyGivenNames y; clear_value y)
    | (extract_lets +onlyGivenNames y; subst y)
    | with_reducible apply State.put_keeps
    | with_reducible apply State.raise_keeps
    | with_reducible apply Keeps.upd_restartPend

theorem State.restartStart_keeps {k0 : Nat} {r0 : State} (s : State) (requested : Bool) (hr : Keeps k0 r0 s) (hm : Sub 4853858304196 k0 := by exact hm.of (by decide)) : Keeps k0 r0 (State.restartStart s requested) := by
  unfold State.restartStart
  repeat' first
    | with_reducible assumption
    | exact hm.of (by decide)
    | (extract_lets +onlyGivenNames y; have hy : Keeps k0 r0 y := ?_; clear_value y; rotate_left; subst y)
    | (extract_lets +onlyGivenNames y; have hy : Keeps k0 r0 y.1 := ?_; clear_value y; rotate_left; subst y)
    | (extract_lets +onlyGivenNames y; clear_value y)
    | (extract_lets +onlyGivenNames y; subst y)
    | with_reducible apply State.put_keeps
    | with_reducible apply State.setPort_keeps
    | with_reducible apply State.raise_keeps
    | with_reducible apply State.openWindow_keeps
    | with_reducible apply Keeps.upd_eth_upd

theorem State.trialFail_keeps {k0 : Nat} {r0 : State} (s : State) (hr : Keeps k0 r0 s) (hm : Sub 4 k0 := by exact hm.of (by decide)) : Keeps k0 r0 (State.trialFail s) := by
  unfold State.trialFail
  repeat' first
    | with_reducible assumption
    | exact hm.of (by decide)
    | with_reducible apply State.put_keeps
    | with_reducible apply State.cnt_keeps

theorem State.restartAsk_keeps {k0 : Nat} {r0 : State} (s : State) (hr : Keeps k0 r0 s) (hm : Sub 274877972484 k0 := by exact hm.of (by decide)) : Keeps k0 r0 (State.restartAsk s) := by
  unfold State.restartAsk
  repeat' first
    | with_reducible assumption
    | exact hm.of (by decide)
    | (extract_lets +onlyGivenNames y; have hy : Keeps k0 r0 y := ?_; clear_value y; rotate_left; subst y)
    | (extract_lets +onlyGivenNames y; have hy : Keeps k0 r0 y.1 := ?_; clear_value y; rotate_left; subst y)
    | (extract_lets +onlyGivenNames y; clear_value y)
    | (extract_lets +onlyGivenNames y; subst y)
    | with_reducible apply State.put_keeps
    | with_reducible apply State.restartDiscard_keeps
    | with_reducible apply Keeps.ite
    | split
    | with_reducible apply Keeps.upd_restartPend

theorem execSvrRestartRequest_keeps {k0 : Nat} {r0 : State} (s : State) (hr : Keeps k0 r0 s) (hm : Sub 274877972484 k0 := by exact hm.of (by decide)) : KeepsO k0 r0 (execSvrRestartRequest s) := by
  unfold execSvrRestartRequest
  repeat' first
    | with_reducible assumption
    | exact hm.of (by decide)
    | with_reducible apply KeepsO.next
    | with_reducible apply State.restartAsk_keeps

theorem execSvrRestartBegin_keeps {k0 : Nat} {r0 : State} (s : State) (hr : Keeps k0 r0 s) (hm : Sub 4854261022918 k0 := by exact hm.of (by decide)) : KeepsO k0 r0 (execSvrRestartBegin s) := by
  unfold execSvrRestartBegin
  repeat' first
    | with_reducible assumption
    | exact hm.of (by decide)
    | with_reducible apply KeepsO.next
    | (extract_lets +onlyGivenNames y; have hy : Keeps k0 r0 y := ?_; clear_value y; rotate_left; subst y)
    | (extract_lets +onlyGivenNames y; have hy : Keeps k0 r0 y.1 := ?_; clear_value y; rotate_left; subst y)
    | (extract_lets +onlyGivenNames y; clear_value y)
    | (extract_lets +onlyGivenNames y; subst y)
    | with_reducible apply State.until_keeps
    | with_reducible apply State.put_keeps
    | with_reducible apply State.cnt_keeps
    | with_reducible apply State.restartStart_keeps
    | with_reducible apply State.restartDiscard_keeps
    | with_reducible apply Keeps.ite
    | split
    | with_reducible apply Keeps.upd_restartPend

theorem State.restartNow_keeps {k0 : Nat} {r0 : State} (s : State) (hr : Keeps k0 r0 s) (hm : Sub 4856072945860 k0 := by exact hm.of (by decide)) : Keeps k0 r0 (State.restartNow s) := by
  unfold State.restartNow
  repeat' first
    | with_reducible assumption
    | exact hm.of (by decide)
    | (extract_lets +onlyGivenNames y; have hy : Keeps k0 r0 y := ?_; clear_value y; rotate_left; subst y)
    | (extract_lets +onlyGivenNames y; have hy : Keeps k0 r0 y.1 := ?_; clear_value y; rotate_left; subst y)
    | (extract_lets +onlyGivenNames y; clear_value y)
    | (extract_lets +onlyGivenNames y; subst y)
    | with_reducible apply State.cmdStop_keeps
    | with_reducible apply State.cmdEnd_keeps
    | with_reducible apply State.trialFail_keeps
    | with_reducible apply State.raise_keeps
    | with_reducible apply State.restartStart_keeps
    | with_reducible apply Keeps.ite
    | split

theorem execSvrWatchdogRestart_keeps {k0 : Nat} {r0 : State} (s : State) (hr : Keeps k0 r0 s) (hm : Sub 4856072945860 k0 := by exact hm.of (by decide)) : KeepsO k0 r0 (execSvrWatchdogRestart s) := by
  unfold execSvrWatchdogRestart
  repeat' first
    | with_reducible assumption
    | exact hm.of (by decide)
    | with_reducible apply KeepsO.next
    | with_reducible apply State.restartNow_keeps

theorem execTrialTimeout_keeps {k0 : Nat} {r0 : State} (s : State) (hr : Keeps k0 r0 s) (hm : Sub 4856475599046 k0 := by exact hm.of (by decide)) : KeepsO k0 r0 (execTrialTimeout s) := by
  unfold execTrialTimeout
  repeat' first
    | with_reducible assumption
    | exact hm.of (by decide)
    | with_reducible apply KeepsO.next
    | with_reducible apply State.until_keeps
    | with_reducible apply State.restartNow_keeps
    | with_reducible apply Keeps.ite
    | split

theorem State.endpointReset_keeps {k0 : Nat} {r0 : State} (s : State) (hr : Keeps k0 r0 s) (hm : Sub 131076 k0 := by exact hm.of (by decide)) : Keeps k0 r0 (State.endpointReset s) := by
  unfold State.endpointReset
  repeat' first
    | with_reducible assumption
    | exact hm.of (by decide)
    | (extract_lets +onlyGivenNames y; have hy : Keeps k0 r0 y := ?_; clear_value y; rotate_left; subst y)
    | (extract_lets +onlyGivenNames y; have hy := fun a => y a; clear hy; subst y; beta_reduce)
    | (extract_lets +onlyGivenNames y; have hy : Keeps k0 r0 y.1 := ?_; clear_value y; rotate_left; subst y)
    | (extract_lets +onlyGivenNames y; clear_value y)
    | (extract_lets +onlyGivenNames y; subst y)
    | with_reducible apply State.setReg_keeps
    | (with_reducible refine Keeps.foldl ?_ (fun u x h => ?_))
    | with_reducible apply Keeps.upd_host

theorem State.pcieReset_keeps {k0 : Nat} {r0 : State} (s : State) (countLoss : Bool) (hr : Keeps k0 r0 s) (hm : Sub 274878038020 k0 := by exact hm.of (by decide)) : Keeps k0 r0 (State.pcieReset s countLoss) := by
  unfold State.pcieReset
  repeat' first
    | with_reducible assumption
    | exact hm.of (by decide)
    | (extract_lets +onlyGivenNames y; have hy : Keeps k0 r0 y := ?_; clear_value y; rotate_left; subst y)
    | (extract_lets +onlyGivenNames y; have hy : Keeps k0 r0 y.1 := ?_; clear_value y; rotate_left; subst y)
    | (extract_lets +onlyGivenNames y; clear_value y)
    | (extract_lets +onlyGivenNames y; subst y)
    | with_reducible apply State.cnt_keeps
    | with_reducible apply State.endpointReset_keeps
    | with_reducible apply State.raise_keeps
    | with_reducible apply Keeps.ite
    | split

theorem execPcieReset_keeps {k0 : Nat} {r0 : State} (kind : PcieLoss) (s : State) (hr : Keeps k0 r0 s) (hm : Sub 274878038020 k0 := by exact hm.of (by decide)) : KeepsO k0 r0 (execPcieReset kind s) := by
  unfold execPcieReset
  repeat' first
    | with_reducible assumption
    | exact hm.of (by decide)
    | with_reducible apply KeepsO.next
    | (extract_lets +onlyGivenNames y; have hy : Keeps k0 r0 y := ?_; clear_value y; rotate_left; subst y)
    | (extract_lets +onlyGivenNames y; have hy : Keeps k0 r0 y.1 := ?_; clear_value y; rotate_left; subst y)
    | (extract_lets +onlyGivenNames y; clear_value y)
    | (extract_lets +onlyGivenNames y; subst y)
    | with_reducible apply State.pcieReset_keeps
    | with_reducible apply Keeps.ite
    | split
    | with_reducible apply Keeps.upd_host

theorem execPcieLinkUp_keeps {k0 : Nat} {r0 : State} (speed width : Nat) (sris : Bool) (mps : Fin 2) (s : State) (hr : Keeps k0 r0 s) (hm : Sub 274877906948 k0 := by exact hm.of (by decide)) : KeepsO k0 r0 (execPcieLinkUp speed width sris mps s) := by
  unfold execPcieLinkUp
  repeat' first
    | with_reducible assumption
    | exact hm.of (by decide)
    | with_reducible apply KeepsO.next
    | (extract_lets +onlyGivenNames y; have hy : Keeps k0 r0 y := ?_; clear_value y; rotate_left; subst y)
    | (extract_lets +onlyGivenNames y; have hy : Keeps k0 r0 y.1 := ?_; clear_value y; rotate_left; subst y)
    | (extract_lets +onlyGivenNames y; clear_value y)
    | (extract_lets +onlyGivenNames y; subst y)
    | with_reducible apply State.put_keeps
    | with_reducible apply State.raise_keeps
    | with_reducible apply Keeps.ite
    | split

theorem execAerError_keeps {k0 : Nat} {r0 : State} (correctable : Bool) (s : State) (hr : Keeps k0 r0 s) (hm : Sub 274877906948 k0 := by exact hm.of (by decide)) : KeepsO k0 r0 (execAerError correctable s) := by
  unfold execAerError
  repeat' first
    | with_reducible assumption
    | exact hm.of (by decide)
    | with_reducible apply KeepsO.next
    | with_reducible apply State.cnt_keeps
    | with_reducible apply State.raise_keeps
    | with_reducible apply Keeps.ite
    | split

theorem execPcieConfigReady_keeps {k0 : Nat} {r0 : State} (s : State) (hr : Keeps k0 r0 s) (hm : Sub 402784258 k0 := by exact hm.of (by decide)) : KeepsO k0 r0 (execPcieConfigReady s) := by
  unfold execPcieConfigReady
  repeat' first
    | with_reducible assumption
    | exact hm.of (by decide)
    | with_reducible apply KeepsO.next
    | (extract_lets +onlyGivenNames y; have hy : Keeps k0 r0 y := ?_; clear_value y; rotate_left; subst y)
    | (extract_lets +onlyGivenNames y; have hy : Keeps k0 r0 y.1 := ?_; clear_value y; rotate_left; subst y)
    | (extract_lets +onlyGivenNames y; clear_value y)
    | (extract_lets +onlyGivenNames y; subst y)
    | with_reducible apply State.until_keeps
    | with_reducible apply Keeps.ite
    | split
    | with_reducible apply Keeps.upd_host

end Sys2Proof.Machine
end

