-- ==== Sys2Proof/Laws/KeepsImage.lean ====
section
/-! SUPPORT. The operations of Machine/Image.lean leave the queue alone and keep the canonical form of the stores. -/

set_option linter.unusedTactic false
set_option linter.unreachableTactic false

namespace Sys2Proof.Machine

theorem State.flashPut_keeps {k0 : Nat} {r0 : State} (s : State) (a : Nat) (l : List Byte) (hr : Keeps k0 r0 s) (hm : Sub 2199023255552 k0 := by exact hm.of (by decide)) : Keeps k0 r0 (State.flashPut s a l) := by
  unfold State.flashPut
  repeat' first
    | with_reducible assumption
    | exact hm.of (by decide)
    | (extract_lets +onlyGivenNames y; have hy : Keeps k0 r0 y := ?_; clear_value y; rotate_left; subst y)
    | (extract_lets +onlyGivenNames y; have hy : Keeps k0 r0 y.1 := ?_; clear_value y; rotate_left; subst y)
    | (extract_lets +onlyGivenNames y; clear_value y)
    | (extract_lets +onlyGivenNames y; subst y)
    | (with_reducible refine Keeps.foldl ?_ (fun u x h => ?_))
    | with_reducible apply Keeps.upd_flash

theorem State.flashErase_keeps {k0 : Nat} {r0 : State} (s : State) (a : Nat) (hr : Keeps k0 r0 s) (hm : Sub 2199023255552 k0 := by exact hm.of (by decide)) : Keeps k0 r0 (State.flashErase s a) := by
  unfold State.flashErase
  repeat' first
    | with_reducible assumption
    | exact hm.of (by decide)
    | with_reducible apply Keeps.upd_flash

theorem State.verifyCount_keeps {k0 : Nat} {r0 : State} (s : State) (detail : Nat) (hr : Keeps k0 r0 s) (hm : Sub 274877906948 k0 := by exact hm.of (by decide)) : Keeps k0 r0 (State.verifyCount s detail) := by
  unfold State.verifyCount
  repeat' first
    | with_reducible assumption
    | exact hm.of (by decide)
    | with_reducible apply State.cnt_keeps
    | with_reducible apply State.raise_keeps
    | with_reducible apply Keeps.ite
    | split

theorem State.flashWell_keeps {k0 : Nat} {r0 : State} (s : State) (lo n : Nat) (hr : Keeps k0 r0 s) (hm : Sub 2199023255552 k0 := by exact hm.of (by decide)) : Keeps k0 r0 (State.flashWell s lo n) := by
  unfold State.flashWell
  repeat' first
    | with_reducible assumption
    | exact hm.of (by decide)
    | with_reducible apply Keeps.upd_flash

theorem State.flashUe_keeps {k0 : Nat} {r0 : State} (s : State) (m a : Nat) (hr : Keeps k0 r0 s) (hm : Sub 3023656976388 k0 := by exact hm.of (by decide)) : Keeps k0 r0 (State.flashUe s m a) := by
  unfold State.flashUe
  repeat' first
    | with_reducible assumption
    | exact hm.of (by decide)
    | (extract_lets +onlyGivenNames y; have hy : Keeps k0 r0 y := ?_; clear_value y; rotate_left; subst y)
    | (extract_lets +onlyGivenNames y; have hy : Keeps k0 r0 y.1 := ?_; clear_value y; rotate_left; subst y)
    | (extract_lets +onlyGivenNames y; clear_value y)
    | (extract_lets +onlyGivenNames y; subst y)
    | with_reducible apply State.err_keeps
    | with_reducible apply Keeps.ite
    | split
    | with_reducible apply Keeps.upd_flash

theorem State.flashAgain_keeps {k0 : Nat} {r0 : State} (s : State) (m : Nat) (i : Image) (hr : Keeps k0 r0 s) (hm : Sub 824633720836 k0 := by exact hm.of (by decide)) : Keeps k0 r0 (State.flashAgain s m i) := by
  unfold State.flashAgain
  repeat' first
    | with_reducible assumption
    | exact hm.of (by decide)
    | with_reducible apply State.err_keeps
    | with_reducible apply Keeps.ite
    | split

theorem State.entryInvalid_keeps {k0 : Nat} {r0 : State} (s : State) (v : Nat) (hr : Keeps k0 r0 s) (hm : Sub 274877906948 k0 := by exact hm.of (by decide)) : Keeps k0 r0 (State.entryInvalid s v) := by
  unfold State.entryInvalid
  repeat' first
    | with_reducible assumption
    | exact hm.of (by decide)
    | (extract_lets +onlyGivenNames y; have hy : Keeps k0 r0 y := ?_; clear_value y; rotate_left; subst y)
    | (extract_lets +onlyGivenNames y; have hy : Keeps k0 r0 y.1 := ?_; clear_value y; rotate_left; subst y)
    | (extract_lets +onlyGivenNames y; clear_value y)
    | (extract_lets +onlyGivenNames y; subst y)
    | with_reducible apply State.put_keeps
    | with_reducible apply State.raise_keeps
    | with_reducible apply Keeps.ite
    | split

theorem State.flashTouch_keeps {k0 : Nat} {r0 : State} (s : State) (lo hi : Nat) (hr : Keeps k0 r0 s) (hm : Sub 2473901162500 k0 := by exact hm.of (by decide)) : Keeps k0 r0 (State.flashTouch s lo hi) := by
  unfold State.flashTouch
  repeat' first
    | with_reducible assumption
    | exact hm.of (by decide)
    | with_reducible apply State.entryInvalid_keeps
    | with_reducible apply State.flashWell_keeps
    | (with_reducible refine Keeps.foldl ?_ (fun u x h => ?_))

theorem State.entryPut_keeps {k0 : Nat} {r0 : State} (s : State) (i : Image) (hr : Keeps k0 r0 s) (hm : Sub 4398046511108 k0 := by exact hm.of (by decide)) : Keeps k0 r0 (State.entryPut s i).1 := by
  unfold State.entryPut
  repeat' first
    | with_reducible assumption
    | exact hm.of (by decide)
    | (extract_lets +onlyGivenNames y; have hy : Keeps k0 r0 y := ?_; clear_value y; rotate_left; subst y)
    | (extract_lets +onlyGivenNames y; have hy : Keeps k0 r0 y.1 := ?_; clear_value y; rotate_left; subst y)
    | (extract_lets +onlyGivenNames y; clear_value y)
    | (extract_lets +onlyGivenNames y; subst y)
    | with_reducible apply State.setReg_keeps
    | with_reducible apply State.put_keeps
    | fail_if_no_progress dsimp -zeta only
    | with_reducible apply Keeps.upd_upd

theorem State.failDetail_keeps {k0 : Nat} {r0 : State} (s : State) (d : Nat) (hr : Keeps k0 r0 s) (hm : Sub 16384 k0 := by exact hm.of (by decide)) : Keeps k0 r0 (State.failDetail s d) := by
  unfold State.failDetail
  repeat' first
    | with_reducible assumption
    | exact hm.of (by decide)
    | with_reducible apply State.finish_keeps

theorem execFlashErase_keeps {k0 : Nat} {r0 : State} (ok : Bool) (s : State) (hr : Keeps k0 r0 s) (hm : Sub 2473901179012 k0 := by exact hm.of (by decide)) : KeepsO k0 r0 (execFlashErase ok s) := by
  unfold execFlashErase
  repeat' first
    | with_reducible assumption
    | exact hm.of (by decide)
    | with_reducible apply KeepsO.next
    | (extract_lets +onlyGivenNames y; have hy : Keeps k0 r0 y := ?_; clear_value y; rotate_left; subst y)
    | (extract_lets +onlyGivenNames y; have hy : Keeps k0 r0 y.1 := ?_; clear_value y; rotate_left; subst y)
    | (extract_lets +onlyGivenNames y; clear_value y)
    | (extract_lets +onlyGivenNames y; subst y)
    | with_reducible apply State.finish_keeps
    | with_reducible apply State.failDetail_keeps
    | with_reducible apply State.flashTouch_keeps
    | with_reducible apply State.flashErase_keeps
    | with_reducible apply State.flashPut_keeps
    | with_reducible apply Keeps.ite
    | split
    | with_reducible apply Keeps.upd_freeIx

theorem execFlashProgram_keeps {k0 : Nat} {r0 : State} (ok : Bool) (s : State) (hr : Keeps k0 r0 s) (hm : Sub 2473901179012 k0 := by exact hm.of (by decide)) : KeepsO k0 r0 (execFlashProgram ok s) := by
  unfold execFlashProgram
  repeat' first
    | with_reducible assumption
    | exact hm.of (by decide)
    | with_reducible apply KeepsO.next
    | (extract_lets +onlyGivenNames y; have hy : Keeps k0 r0 y := ?_; clear_value y; rotate_left; subst y)
    | (extract_lets +onlyGivenNames y; have hy : Keeps k0 r0 y.1 := ?_; clear_value y; rotate_left; subst y)
    | (extract_lets +onlyGivenNames y; clear_value y)
    | (extract_lets +onlyGivenNames y; subst y)
    | with_reducible apply State.finish_keeps
    | with_reducible apply State.failDetail_keeps
    | with_reducible apply State.flashTouch_keeps
    | with_reducible apply State.flashPut_keeps
    | with_reducible apply Keeps.ite
    | split
    | with_reducible apply Keeps.upd_freeIx

theorem State.putMem_keeps {k0 : Nat} {r0 : State} (s : State) (a : Nat) (l : List Byte) (hr : Keeps k0 r0 s) (hm : Sub 549755813896 k0 := by exact hm.of (by decide)) : Keeps k0 r0 (State.putMem s a l) := by
  unfold State.putMem
  repeat' first
    | with_reducible assumption
    | exact hm.of (by decide)
    | with_reducible apply State.storeBytes_keeps
    | with_reducible apply State.unpoison_keeps

theorem State.imageToPaddock_keeps {k0 : Nat} {r0 : State} (s : State) (i : Image) (hr : Keeps k0 r0 s) (hm : Sub 549755813896 k0 := by exact hm.of (by decide)) : Keeps k0 r0 (State.imageToPaddock s i) := by
  unfold State.imageToPaddock
  repeat' first
    | with_reducible assumption
    | exact hm.of (by decide)
    | (extract_lets +onlyGivenNames y; have hy : Keeps k0 r0 y := ?_; clear_value y; rotate_left; subst y)
    | (extract_lets +onlyGivenNames y; have hy : Keeps k0 r0 y.1 := ?_; clear_value y; rotate_left; subst y)
    | (extract_lets +onlyGivenNames y; clear_value y)
    | (extract_lets +onlyGivenNames y; subst y)
    | with_reducible apply State.putMem_keeps

theorem State.copyRows_keeps {k0 : Nat} {r0 : State} (s : State) (lo hi : Nat) (hr : Keeps k0 r0 s) (hm : Sub 549755813896 k0 := by exact hm.of (by decide)) : Keeps k0 r0 (State.copyRows s lo hi) := by
  unfold State.copyRows
  repeat' first
    | with_reducible assumption
    | exact hm.of (by decide)
    | with_reducible apply State.putMem_keeps

theorem State.paddockStart_keeps {k0 : Nat} {r0 : State} (s : State) (entry : Nat) (rollback : Option Nat) (hr : Keeps k0 r0 s) (hm : Sub 4947869712396 k0 := by exact hm.of (by decide)) : Keeps k0 r0 (State.paddockStart s entry rollback) := by
  unfold State.paddockStart
  repeat' first
    | with_reducible assumption
    | exact hm.of (by decide)
    | (extract_lets +onlyGivenNames y; have hy : Keeps k0 r0 y := ?_; clear_value y; rotate_left; subst y)
    | (extract_lets +onlyGivenNames y; have hy : Keeps k0 r0 y.1 := ?_; clear_value y; rotate_left; subst y)
    | (extract_lets +onlyGivenNames y; clear_value y)
    | (extract_lets +onlyGivenNames y; subst y)
    | with_reducible apply State.finish_keeps
    | with_reducible apply State.copyRows_keeps
    | with_reducible apply State.setPad_keeps
    | with_reducible apply Keeps.ite
    | split
    | with_reducible apply Keeps.upd_cme_upd

theorem execPaddockLoad_keeps {k0 : Nat} {r0 : State} (s : State) (hr : Keeps k0 r0 s) (hm : Sub 5222747619340 k0 := by exact hm.of (by decide)) : KeepsO k0 r0 (execPaddockLoad s) := by
  unfold execPaddockLoad
  repeat' first
    | with_reducible assumption
    | exact hm.of (by decide)
    | with_reducible apply KeepsO.next
    | (extract_lets +onlyGivenNames y; have hy : Keeps k0 r0 y := ?_; clear_value y; rotate_left; subst y)
    | (extract_lets +onlyGivenNames y; have hy : Keeps k0 r0 y.1 := ?_; clear_value y; rotate_left; subst y)
    | (extract_lets +onlyGivenNames y; clear_value y)
    | (extract_lets +onlyGivenNames y; subst y)
    | with_reducible apply State.finish_keeps
    | with_reducible apply State.paddockStart_keeps
    | with_reducible apply State.flashAgain_keeps
    | with_reducible apply State.imageToPaddock_keeps
    | with_reducible apply Keeps.ite
    | split

end Sys2Proof.Machine
end

