-- ==== Sys2Proof/Laws/KeepsUpdate.lean ====
section
/-! SUPPORT. The operations of Machine/Update.lean leave the queue alone and keep the canonical form of the stores. -/

set_option linter.unusedTactic false
set_option linter.unreachableTactic false

namespace Sys2Proof.Machine

theorem State.eqPut_keeps {k0 : Nat} {r0 : State} (s : State) (n r : Nat) (w : Word) (hr : Keeps k0 r0 s) (hm : Sub 4 k0 := by exact hm.of (by decide)) : Keeps k0 r0 (State.eqPut s n r w) := by
  unfold State.eqPut
  repeat' first
    | with_reducible assumption
    | exact hm.of (by decide)
    | with_reducible apply State.setReg_keeps
    | with_reducible apply State.laneRowWritten_keeps

theorem State.calPut_keeps {k0 : Nat} {r0 : State} (s : State) (k g : Nat) (offs gtrim : Word) (hr : Keeps k0 r0 s) (hm : Sub 2147483652 k0 := by exact hm.of (by decide)) : Keeps k0 r0 (State.calPut s k g offs gtrim) := by
  unfold State.calPut
  repeat' first
    | with_reducible assumption
    | exact hm.of (by decide)
    | (extract_lets +onlyGivenNames y; have hy : Keeps k0 r0 y := ?_; clear_value y; rotate_left; subst y)
    | (extract_lets +onlyGivenNames y; have hy : Keeps k0 r0 y.1 := ?_; clear_value y; rotate_left; subst y)
    | (extract_lets +onlyGivenNames y; clear_value y)
    | (extract_lets +onlyGivenNames y; subst y)
    | with_reducible apply State.noteTrim_keeps
    | with_reducible apply State.put_keeps

theorem State.tableWriteBy_keeps {k0 : Nat} {r0 : State} (s : State) (m : Master) (a : Nat) (v : Word) (hr : Keeps k0 r0 s) (hm : Sub 4675071901732 k0 := by exact hm.of (by decide)) : Keeps k0 r0 (State.tableWriteBy s m a v) := by
  unfold State.tableWriteBy
  repeat' first
    | with_reducible assumption
    | exact hm.of (by decide)
    | with_reducible apply State.put_keeps
    | with_reducible apply State.cnt_keeps
    | with_reducible apply State.raise_keeps
    | with_reducible apply State.noteDrop_keeps
    | with_reducible apply State.withUpd_keeps
    | with_reducible apply State.tableApply_keeps
    | with_reducible apply Keeps.ite
    | split

theorem State.fconfStart_keeps {k0 : Nat} {r0 : State} (s : State) (c : Word) (sv : Option Word) (byApply : Bool) (hr : Keeps k0 r0 s) (hm : Sub 4398046511620 k0 := by exact hm.of (by decide)) : Keeps k0 r0 (State.fconfStart s c sv byApply) := by
  unfold State.fconfStart
  repeat' first
    | with_reducible assumption
    | exact hm.of (by decide)
    | (extract_lets +onlyGivenNames y; have hy : Keeps k0 r0 y := ?_; clear_value y; rotate_left; subst y)
    | (extract_lets +onlyGivenNames y; have hy : Keeps k0 r0 y.1 := ?_; clear_value y; rotate_left; subst y)
    | (extract_lets +onlyGivenNames y; clear_value y)
    | (extract_lets +onlyGivenNames y; subst y)
    | with_reducible apply State.put_keeps
    | with_reducible apply State.withUpd_keeps
    | with_reducible apply State.startRes_keeps
    | with_reducible apply Keeps.ite
    | split

theorem execFenceConfirmation_keeps {k0 : Nat} {r0 : State} (c : Word) (sv : Option Word) (s : State) (hr : Keeps k0 r0 s) (hm : Sub 4398046511620 k0 := by exact hm.of (by decide)) : KeepsO k0 r0 (execFenceConfirmation c sv s) := by
  unfold execFenceConfirmation
  repeat' first
    | with_reducible assumption
    | exact hm.of (by decide)
    | with_reducible apply KeepsO.next
    | with_reducible apply State.setReg_keeps
    | with_reducible apply State.fconfStart_keeps

theorem State.pendingDiscard_keeps {k0 : Nat} {r0 : State} (s : State) (hr : Keeps k0 r0 s) (hm : Sub 4535485464580 k0 := by exact hm.of (by decide)) : Keeps k0 r0 (State.pendingDiscard s) := by
  unfold State.pendingDiscard
  repeat' first
    | with_reducible assumption
    | exact hm.of (by decide)
    | (extract_lets +onlyGivenNames y; have hy : Keeps k0 r0 y := ?_; clear_value y; rotate_left; subst y)
    | (extract_lets +onlyGivenNames y; have hy : Keeps k0 r0 y.1 := ?_; clear_value y; rotate_left; subst y)
    | (extract_lets +onlyGivenNames y; clear_value y)
    | (extract_lets +onlyGivenNames y; subst y)
    | with_reducible apply State.clrBitOf_keeps
    | with_reducible apply State.setReg_keeps
    | with_reducible apply State.withSafe_keeps
    | with_reducible apply State.withUpd_keeps
    | with_reducible apply Keeps.ite
    | split
    | (with_reducible refine Keeps.foldl ?_ (fun u x h => ?_))

theorem State.pendingApply_keeps {k0 : Nat} {r0 : State} (s : State) (hr : Keeps k0 r0 s) (hm : Sub 13649414717636 k0 := by exact hm.of (by decide)) : Keeps k0 r0 (State.pendingApply s) := by
  unfold State.pendingApply
  repeat' first
    | with_reducible assumption
    | exact hm.of (by decide)
    | (extract_lets +onlyGivenNames y; have hy : Keeps k0 r0 y := ?_; clear_value y; rotate_left; subst y)
    | (extract_lets +onlyGivenNames y; have hy : Keeps k0 r0 y.1 := ?_; clear_value y; rotate_left; subst y)
    | (extract_lets +onlyGivenNames y; clear_value y)
    | (extract_lets +onlyGivenNames y; subst y)
    | with_reducible apply State.cmpApply_keeps
    | with_reducible apply State.paramApply_keeps
    | with_reducible apply State.paramsApplied_keeps
    | with_reducible apply State.withUpd_keeps
    | (with_reducible refine Keeps.foldl ?_ (fun u x h => ?_))

theorem State.imageOk_keeps {k0 : Nat} {r0 : State} (s : State) (i : Image) (hr : Keeps k0 r0 s) (hm : Sub 4672924434436 k0 := by exact hm.of (by decide)) : Keeps k0 r0 (State.imageOk s i) := by
  unfold State.imageOk
  repeat' first
    | with_reducible assumption
    | exact hm.of (by decide)
    | (extract_lets +onlyGivenNames y; have hy : Keeps k0 r0 y := ?_; clear_value y; rotate_left; subst y)
    | (extract_lets +onlyGivenNames y; have hy : Keeps k0 r0 y.1 := ?_; clear_value y; rotate_left; subst y)
    | (extract_lets +onlyGivenNames y; clear_value y)
    | (extract_lets +onlyGivenNames y; subst y)
    | with_reducible apply State.verifyCount_keeps
    | with_reducible apply State.entryPut_keeps
    | with_reducible apply State.finish_keeps
    | fail_if_no_progress dsimp -zeta only

theorem State.imageFail_keeps {k0 : Nat} {r0 : State} (s : State) (d : Nat) (hr : Keeps k0 r0 s) (hm : Sub 274877923332 k0 := by exact hm.of (by decide)) : Keeps k0 r0 (State.imageFail s d) := by
  unfold State.imageFail
  repeat' first
    | with_reducible assumption
    | exact hm.of (by decide)
    | with_reducible apply State.verifyCount_keeps
    | with_reducible apply State.failDetail_keeps

theorem State.fconfJudge_keeps {k0 : Nat} {r0 : State} (s : State) (f : FConf) (code : Nat) (durable : Bool) (hr : Keeps k0 r0 s) (hm : Sub 13649414734532 k0 := by exact hm.of (by decide)) : Keeps k0 r0 (State.fconfJudge s f code durable) := by
  unfold State.fconfJudge
  repeat' first
    | with_reducible assumption
    | exact hm.of (by decide)
    | (extract_lets +onlyGivenNames y; have hy : Keeps k0 r0 y := ?_; clear_value y; rotate_left; subst y)
    | (extract_lets +onlyGivenNames y; have hy : Keeps k0 r0 y.1 := ?_; clear_value y; rotate_left; subst y)
    | (extract_lets +onlyGivenNames y; clear_value y)
    | (extract_lets +onlyGivenNames y; subst y)
    | with_reducible apply State.complete_keeps
    | with_reducible apply State.put_keeps
    | with_reducible apply State.withUpd_keeps
    | with_reducible apply State.pendingApply_keeps
    | with_reducible apply State.cnt_keeps
    | with_reducible apply State.raise_keeps
    | with_reducible apply State.pendingDiscard_keeps
    | with_reducible apply State.advRollback_keeps
    | with_reducible apply State.imageOk_keeps
    | with_reducible apply State.imageFail_keeps
    | with_reducible apply Keeps.ite
    | split

theorem execFenceConfirmationDone_keeps {k0 : Nat} {r0 : State} (durable : Bool) (s : State) (hr : Keeps k0 r0 s) (hm : Sub 13649414734532 k0 := by exact hm.of (by decide)) : KeepsO k0 r0 (execFenceConfirmationDone durable s) := by
  unfold execFenceConfirmationDone
  repeat' first
    | with_reducible assumption
    | exact hm.of (by decide)
    | with_reducible apply KeepsO.next
    | with_reducible apply State.fconfJudge_keeps
    | with_reducible apply Keeps.ite
    | split

theorem execFpendDiscard_keeps {k0 : Nat} {r0 : State} (s : State) (hr : Keeps k0 r0 s) (hm : Sub 4535485464580 k0 := by exact hm.of (by decide)) : KeepsO k0 r0 (execFpendDiscard s) := by
  unfold execFpendDiscard
  repeat' first
    | with_reducible assumption
    | exact hm.of (by decide)
    | with_reducible apply KeepsO.next
    | with_reducible apply State.pendingDiscard_keeps

theorem State.fenceCommit_keeps {k0 : Nat} {r0 : State} (s : State) (m : Master) (a : Nat) (v : Word) (hr : Keeps k0 r0 s) (hm : Sub 13649414717668 k0 := by exact hm.of (by decide)) : Keeps k0 r0 (State.fenceCommit s m a v) := by
  unfold State.fenceCommit
  repeat' first
    | with_reducible assumption
    | exact hm.of (by decide)
    | (extract_lets +onlyGivenNames y; have hy : Keeps k0 r0 y := ?_; clear_value y; rotate_left; subst y)
    | (extract_lets +onlyGivenNames y; have hy : Keeps k0 r0 y.1 := ?_; clear_value y; rotate_left; subst y)
    | (extract_lets +onlyGivenNames y; clear_value y)
    | (extract_lets +onlyGivenNames y; subst y)
    | with_reducible apply State.put_keeps
    | with_reducible apply State.noteDrop_keeps
    | with_reducible apply State.setReg_keeps
    | with_reducible apply State.withUpd_keeps
    | with_reducible apply State.paramCommitted_keeps
    | with_reducible apply State.cmpCommitted_keeps
    | with_reducible apply Keeps.ite
    | split

theorem State.imageRun_keeps {k0 : Nat} {r0 : State} (s : State) (row : ImgRow) (ue : Option (BitVec 29)) (act : State → Image → State) (hr : Keeps k0 r0 s) (hm : Sub 3023656992772 k0 := by exact hm.of (by decide))
    (ha : ∀ t i, Keeps k0 r0 t → Keeps k0 r0 (act t i)) : Keeps k0 r0 (State.imageRun s row ue act) := by
  unfold State.imageRun
  extract_lets +onlyGivenNames a
  with_reducible refine Keeps.ite hr ?_
  with_reducible refine Keeps.ite (State.finish_keeps _ _ _ hr) ?_
  extract_lets +onlyGivenNames i t d e
  have ht : Keeps k0 r0 t := by
    subst t
    cases ue with
    | none => exact State.flashWell_keeps _ _ _ hr
    | some x => exact State.flashUe_keeps _ _ _ hr
  clear_value t d e
  with_reducible refine Keeps.ite (ha _ _ ht) (State.imageFail_keeps _ _ ht)

theorem execImageVerify_keeps {k0 : Nat} {r0 : State} (ue : Option (BitVec 29)) (s : State) (hr : Keeps k0 r0 s) (hm : Sub 7421703503876 k0 := by exact hm.of (by decide)) : KeepsO k0 r0 (execImageVerify ue s) := by
  unfold execImageVerify
  repeat' first
    | with_reducible assumption
    | exact hm.of (by decide)
    | with_reducible apply KeepsO.next
    | with_reducible apply State.imageRun_keeps
    | with_reducible apply State.imageOk_keeps
    | intro t i ht

theorem State.stage_keeps {k0 : Nat} {r0 : State} (s : State) (i : Image) (hr : Keeps k0 r0 s) (hm : Sub 4672924434436 k0 := by exact hm.of (by decide)) : Keeps k0 r0 (State.stage s i) := by
  unfold State.stage
  repeat' first
    | with_reducible assumption
    | exact hm.of (by decide)
    | (extract_lets +onlyGivenNames y; have hy : Keeps k0 r0 y := ?_; clear_value y; rotate_left; subst y)
    | (extract_lets +onlyGivenNames y; have hy : Keeps k0 r0 y.1 := ?_; clear_value y; rotate_left; subst y)
    | (extract_lets +onlyGivenNames y; clear_value y)
    | (extract_lets +onlyGivenNames y; subst y)
    | with_reducible apply State.put_keeps
    | with_reducible apply State.imageOk_keeps
    | with_reducible apply State.raise_keeps
    | (with_reducible refine Keeps.foldl ?_ (fun u x h => ?_))

theorem execImageStage_keeps {k0 : Nat} {r0 : State} (ue : Option (BitVec 29)) (s : State) (hr : Keeps k0 r0 s) (hm : Sub 7421703503876 k0 := by exact hm.of (by decide)) : KeepsO k0 r0 (execImageStage ue s) := by
  unfold execImageStage
  repeat' first
    | with_reducible assumption
    | exact hm.of (by decide)
    | with_reducible apply KeepsO.next
    | with_reducible apply State.imageRun_keeps
    | with_reducible apply State.stage_keeps
    | intro t i ht

theorem State.laneNext_keeps {k0 : Nat} {r0 : State} (s : State) (x : LaneApply) (durable : Bool) (hr : Keeps k0 r0 s) (hm : Sub 4675080306692 k0 := by exact hm.of (by decide)) : Keeps k0 r0 (State.laneNext s x durable) := by
  unfold State.laneNext
  repeat' first
    | with_reducible assumption
    | exact hm.of (by decide)
    | (extract_lets +onlyGivenNames y; have hy : Keeps k0 r0 y := ?_; clear_value y; rotate_left; subst y)
    | (extract_lets +onlyGivenNames y; have hy : Keeps k0 r0 y.1 := ?_; clear_value y; rotate_left; subst y)
    | (extract_lets +onlyGivenNames y; clear_value y)
    | (extract_lets +onlyGivenNames y; subst y)
    | with_reducible apply State.applyEnd_keeps
    | with_reducible apply State.raise_keeps
    | with_reducible apply State.advRollback_keeps
    | with_reducible apply State.imageOk_keeps
    | with_reducible apply State.laneEqWrite_keeps
    | with_reducible apply State.withUpd_keeps
    | with_reducible apply Keeps.ite
    | split

theorem State.laneApply_keeps {k0 : Nat} {r0 : State} (durable : Bool) (s : State) (i : Image) (hr : Keeps k0 r0 s) (hm : Sub 4675080306692 k0 := by exact hm.of (by decide)) : Keeps k0 r0 (State.laneApply durable s i) := by
  unfold State.laneApply
  repeat' first
    | with_reducible assumption
    | exact hm.of (by decide)
    | (extract_lets +onlyGivenNames y; have hy : Keeps k0 r0 y := ?_; clear_value y; rotate_left; subst y)
    | (extract_lets +onlyGivenNames y; have hy : Keeps k0 r0 y.1 := ?_; clear_value y; rotate_left; subst y)
    | (extract_lets +onlyGivenNames y; clear_value y)
    | (extract_lets +onlyGivenNames y; subst y)
    | with_reducible apply State.eqPut_keeps
    | with_reducible apply State.put_keeps
    | with_reducible apply State.laneNext_keeps
    | (with_reducible refine Keeps.foldl ?_ (fun u x h => ?_))

theorem State.laneStep_keeps {k0 : Nat} {r0 : State} (s : State) (x : LaneApply) (durable : Bool) (hr : Keeps k0 r0 s) (hm : Sub 4675080306692 k0 := by exact hm.of (by decide)) : Keeps k0 r0 (State.laneStep s x durable) := by
  unfold State.laneStep
  repeat' first
    | with_reducible assumption
    | exact hm.of (by decide)
    | (extract_lets +onlyGivenNames y; have hy : Keeps k0 r0 y := ?_; clear_value y; rotate_left; subst y)
    | (extract_lets +onlyGivenNames y; have hy : Keeps k0 r0 y.1 := ?_; clear_value y; rotate_left; subst y)
    | (extract_lets +onlyGivenNames y; clear_value y)
    | (extract_lets +onlyGivenNames y; subst y)
    | with_reducible apply State.laneEqSlot_keeps
    | with_reducible apply State.laneNext_keeps
    | with_reducible apply State.put_keeps
    | with_reducible apply State.applyEnd_keeps
    | with_reducible apply State.raise_keeps
    | with_reducible apply State.verifyCount_keeps
    | with_reducible apply State.finish_keeps
    | with_reducible apply Keeps.ite
    | split

theorem execLaneTableApply_keeps {k0 : Nat} {r0 : State} (ue : Option (BitVec 29)) (durable : Bool) (s : State) (hr : Keeps k0 r0 s) (hm : Sub 7423859376132 k0 := by exact hm.of (by decide)) : KeepsO k0 r0 (execLaneTableApply ue durable s) := by
  unfold execLaneTableApply
  repeat' first
    | with_reducible assumption
    | exact hm.of (by decide)
    | with_reducible apply KeepsO.next
    | with_reducible apply State.laneStep_keeps
    | with_reducible apply State.imageRun_keeps
    | with_reducible apply State.laneApply_keeps
    | with_reducible apply Keeps.ite
    | split
    | intro t i ht

theorem State.calApply_keeps {k0 : Nat} {r0 : State} (durable : Bool) (s : State) (i : Image) (hr : Keeps k0 r0 s) (hm : Sub 4675071918084 k0 := by exact hm.of (by decide)) : Keeps k0 r0 (State.calApply durable s i) := by
  unfold State.calApply
  repeat' first
    | with_reducible assumption
    | exact hm.of (by decide)
    | (extract_lets +onlyGivenNames y; have hy : Keeps k0 r0 y := ?_; clear_value y; rotate_left; subst y)
    | (extract_lets +onlyGivenNames y; have hy : Keeps k0 r0 y.1 := ?_; clear_value y; rotate_left; subst y)
    | (extract_lets +onlyGivenNames y; clear_value y)
    | (extract_lets +onlyGivenNames y; subst y)
    | with_reducible apply State.calPut_keeps
    | with_reducible apply State.raise_keeps
    | with_reducible apply State.advRollback_keeps
    | with_reducible apply State.imageOk_keeps
    | (with_reducible refine Keeps.foldl ?_ (fun u x h => ?_))

theorem execAdcCalApply_keeps {k0 : Nat} {r0 : State} (ue : Option (BitVec 29)) (durable : Bool) (s : State) (hr : Keeps k0 r0 s) (hm : Sub 7423850987524 k0 := by exact hm.of (by decide)) : KeepsO k0 r0 (execAdcCalApply ue durable s) := by
  unfold execAdcCalApply
  repeat' first
    | with_reducible assumption
    | exact hm.of (by decide)
    | with_reducible apply KeepsO.next
    | with_reducible apply State.imageRun_keeps
    | with_reducible apply State.calApply_keeps
    | intro t i ht

theorem State.fenceApply_keeps {k0 : Nat} {r0 : State} (sv : Option Word) (durable : Bool) (s : State) (i : Image) (hr : Keeps k0 r0 s) (hm : Sub 13649414734564 k0 := by exact hm.of (by decide)) : Keeps k0 r0 (State.fenceApply sv durable s i) := by
  unfold State.fenceApply
  repeat' first
    | with_reducible assumption
    | exact hm.of (by decide)
    | (extract_lets +onlyGivenNames y; have hy : Keeps k0 r0 y := ?_; clear_value y; rotate_left; subst y)
    | (extract_lets +onlyGivenNames y; have hy := fun a => y a; clear hy; subst y; beta_reduce)
    | (extract_lets +onlyGivenNames y; have hy : Keeps k0 r0 y.1 := ?_; clear_value y; rotate_left; subst y)
    | (extract_lets +onlyGivenNames y; clear_value y)
    | (extract_lets +onlyGivenNames y; subst y)
    | with_reducible apply State.setReg_keeps
    | with_reducible apply State.lockReset_keeps
    | with_reducible apply State.fenceCommit_keeps
    | with_reducible apply State.pendingDiscard_keeps
    | with_reducible apply State.withUpd_keeps
    | with_reducible apply State.fconfStart_keeps
    | with_reducible apply State.imageFail_keeps
    | with_reducible apply State.advRollback_keeps
    | with_reducible apply State.imageOk_keeps
    | with_reducible apply Keeps.ite
    | split
    | (with_reducible refine Keeps.foldl ?_ (fun u x h => ?_))

theorem execFenceParamApply_keeps {k0 : Nat} {r0 : State} (ue : Option (BitVec 29)) (sv : Option Word) (durable : Bool) (s : State) (hr : Keeps k0 r0 s) (hm : Sub 16398193804004 k0 := by exact hm.of (by decide)) : KeepsO k0 r0 (execFenceParamApply ue sv durable s) := by
  unfold execFenceParamApply
  repeat' first
    | with_reducible assumption
    | exact hm.of (by decide)
    | with_reducible apply KeepsO.next
    | with_reducible apply State.imageRun_keeps
    | with_reducible apply State.fenceApply_keeps
    | with_reducible apply Keeps.ite
    | split
    | intro t i ht

theorem State.ownerApply_keeps {k0 : Nat} {r0 : State} (w : OwnerWrite) (s : State) (i : Image) (hr : Keeps k0 r0 s) (hm : Sub 5772436062212 k0 := by exact hm.of (by decide)) : Keeps k0 r0 (State.ownerApply w s i) := by
  unfold State.ownerApply
  repeat' first
    | with_reducible assumption
    | exact hm.of (by decide)
    | (extract_lets +onlyGivenNames y; have hy : Keeps k0 r0 y := ?_; clear_value y; rotate_left; subst y)
    | (extract_lets +onlyGivenNames y; have hy : Keeps k0 r0 y.1 := ?_; clear_value y; rotate_left; subst y)
    | (extract_lets +onlyGivenNames y; clear_value y)
    | (extract_lets +onlyGivenNames y; subst y)
    | with_reducible apply State.tackFail_keeps
    | with_reducible apply State.imageFail_keeps
    | with_reducible apply State.withTack_keeps
    | with_reducible apply State.setReg_keeps
    | with_reducible apply State.put_keeps
    | with_reducible apply State.raise_keeps
    | with_reducible apply State.advRollback_keeps
    | with_reducible apply State.imageOk_keeps
    | with_reducible apply Keeps.ite
    | split
    | (with_reducible refine Keeps.foldl ?_ (fun u x h => ?_))

theorem execOwnershipApply_keeps {k0 : Nat} {r0 : State} (ue : Option (BitVec 29)) (w : OwnerWrite) (s : State) (hr : Keeps k0 r0 s) (hm : Sub 8521215131652 k0 := by exact hm.of (by decide)) : KeepsO k0 r0 (execOwnershipApply ue w s) := by
  unfold execOwnershipApply
  repeat' first
    | with_reducible assumption
    | exact hm.of (by decide)
    | with_reducible apply KeepsO.next
    | with_reducible apply State.imageRun_keeps
    | with_reducible apply State.ownerApply_keeps
    | intro t i ht

theorem State.reserve_keeps {k0 : Nat} {r0 : State} (s : State) (hr : Keeps k0 r0 s) (hm : Sub 1374389534724 k0 := by exact hm.of (by decide)) : Keeps k0 r0 (State.reserve s) := by
  unfold State.reserve
  repeat' first
    | with_reducible assumption
    | exact hm.of (by decide)
    | (extract_lets +onlyGivenNames y; have hy : Keeps k0 r0 y := ?_; clear_value y; rotate_left; subst y)
    | (extract_lets +onlyGivenNames y; have hy : Keeps k0 r0 y.1 := ?_; clear_value y; rotate_left; subst y)
    | (extract_lets +onlyGivenNames y; clear_value y)
    | (extract_lets +onlyGivenNames y; subst y)
    | with_reducible apply State.put_keeps
    | with_reducible apply State.withTack_keeps
    | with_reducible apply State.cnt_keeps
    | with_reducible apply State.raise_keeps
    | with_reducible apply Keeps.ite
    | split

theorem State.attest_keeps {k0 : Nat} {r0 : State} (s : State) (data : List Byte) (hr : Keeps k0 r0 s) (hm : Sub 1374389551236 k0 := by exact hm.of (by decide)) : Keeps k0 r0 (State.attest s data) := by
  unfold State.attest
  repeat' first
    | with_reducible assumption
    | exact hm.of (by decide)
    | (extract_lets +onlyGivenNames y; have hy : Keeps k0 r0 y := ?_; clear_value y; rotate_left; subst y)
    | (extract_lets +onlyGivenNames y; have hy : Keeps k0 r0 y.1 := ?_; clear_value y; rotate_left; subst y)
    | (extract_lets +onlyGivenNames y; clear_value y)
    | (extract_lets +onlyGivenNames y; subst y)
    | with_reducible apply State.withTack_keeps
    | with_reducible apply State.put_keeps
    | with_reducible apply State.cnt_keeps
    | with_reducible apply State.indexLow_keeps
    | with_reducible apply State.treeMove_keeps
    | with_reducible apply State.finish_keeps
    | with_reducible apply Keeps.ite
    | split
    | with_reducible apply Keeps.upd_freeIx

theorem execAttestSign_keeps {k0 : Nat} {r0 : State} (durable : Bool) (s : State) (hr : Keeps k0 r0 s) (hm : Sub 1374389551236 k0 := by exact hm.of (by decide)) : KeepsO k0 r0 (execAttestSign durable s) := by
  unfold execAttestSign
  repeat' first
    | with_reducible assumption
    | exact hm.of (by decide)
    | with_reducible apply KeepsO.next
    | (extract_lets +onlyGivenNames y; have hy : Keeps k0 r0 y := ?_; clear_value y; rotate_left; subst y)
    | (extract_lets +onlyGivenNames y; have hy : Keeps k0 r0 y.1 := ?_; clear_value y; rotate_left; subst y)
    | (extract_lets +onlyGivenNames y; clear_value y)
    | (extract_lets +onlyGivenNames y; subst y)
    | with_reducible apply State.finish_keeps
    | with_reducible apply State.tackFail_keeps
    | with_reducible apply State.failDetail_keeps
    | with_reducible apply State.reserve_keeps
    | with_reducible apply State.attest_keeps
    | with_reducible apply State.put_keeps
    | with_reducible apply State.raise_keeps
    | with_reducible apply Keeps.ite
    | split

theorem execReadIdentity_keeps {k0 : Nat} {r0 : State} (s : State) (hr : Keeps k0 r0 s) (hm : Sub 16388 k0 := by exact hm.of (by decide)) : KeepsO k0 r0 (execReadIdentity s) := by
  unfold execReadIdentity
  repeat' first
    | with_reducible assumption
    | exact hm.of (by decide)
    | with_reducible apply KeepsO.next
    | (extract_lets +onlyGivenNames y; have hy : Keeps k0 r0 y := ?_; clear_value y; rotate_left; subst y)
    | (extract_lets +onlyGivenNames y; have hy : Keeps k0 r0 y.1 := ?_; clear_value y; rotate_left; subst y)
    | (extract_lets +onlyGivenNames y; clear_value y)
    | (extract_lets +onlyGivenNames y; subst y)
    | with_reducible apply State.setReg_keeps
    | with_reducible apply State.finish_keeps
    | with_reducible apply Keeps.ite
    | split
    | (with_reducible refine Keeps.foldl ?_ (fun u x h => ?_))

theorem execStationSet_keeps {k0 : Nat} {r0 : State} (durable : Bool) (s : State) (hr : Keeps k0 r0 s) (hm : Sub 1374926422020 k0 := by exact hm.of (by decide)) : KeepsO k0 r0 (execStationSet durable s) := by
  unfold execStationSet
  repeat' first
    | with_reducible assumption
    | exact hm.of (by decide)
    | with_reducible apply KeepsO.next
    | (extract_lets +onlyGivenNames y; have hy : Keeps k0 r0 y := ?_; clear_value y; rotate_left; subst y)
    | (extract_lets +onlyGivenNames y; have hy : Keeps k0 r0 y.1 := ?_; clear_value y; rotate_left; subst y)
    | (extract_lets +onlyGivenNames y; clear_value y)
    | (extract_lets +onlyGivenNames y; subst y)
    | with_reducible apply State.finish_keeps
    | with_reducible apply State.failDetail_keeps
    | with_reducible apply State.tackFail_keeps
    | with_reducible apply State.withTack_keeps
    | with_reducible apply State.setBitOf_keeps
    | with_reducible apply State.setReg_keeps
    | with_reducible apply State.raise_keeps
    | with_reducible apply Keeps.ite
    | split
    | (with_reducible refine Keeps.foldl ?_ (fun u x h => ?_))
    | with_reducible apply Keeps.upd_eth

theorem execStationErase_keeps {k0 : Nat} {r0 : State} (durable : Bool) (s : State) (hr : Keeps k0 r0 s) (hm : Sub 1374389551108 k0 := by exact hm.of (by decide)) : KeepsO k0 r0 (execStationErase durable s) := by
  unfold execStationErase
  repeat' first
    | with_reducible assumption
    | exact hm.of (by decide)
    | with_reducible apply KeepsO.next
    | (extract_lets +onlyGivenNames y; have hy : Keeps k0 r0 y := ?_; clear_value y; rotate_left; subst y)
    | (extract_lets +onlyGivenNames y; have hy : Keeps k0 r0 y.1 := ?_; clear_value y; rotate_left; subst y)
    | (extract_lets +onlyGivenNames y; clear_value y)
    | (extract_lets +onlyGivenNames y; subst y)
    | with_reducible apply State.finish_keeps
    | with_reducible apply State.failDetail_keeps
    | with_reducible apply State.tackFail_keeps
    | with_reducible apply State.withTack_keeps
    | with_reducible apply State.clrBitOf_keeps
    | with_reducible apply State.raise_keeps
    | with_reducible apply Keeps.ite
    | split

theorem execIndexStatus_keeps {k0 : Nat} {r0 : State} (s : State) (hr : Keeps k0 r0 s) (hm : Sub 16384 k0 := by exact hm.of (by decide)) : KeepsO k0 r0 (execIndexStatus s) := by
  unfold execIndexStatus
  repeat' first
    | with_reducible assumption
    | exact hm.of (by decide)
    | with_reducible apply KeepsO.next
    | with_reducible apply State.finish_keeps
    | with_reducible apply Keeps.ite
    | split

theorem execTackBadSubop_keeps {k0 : Nat} {r0 : State} (s : State) (hr : Keeps k0 r0 s) (hm : Sub 16384 k0 := by exact hm.of (by decide)) : KeepsO k0 r0 (execTackBadSubop s) := by
  unfold execTackBadSubop
  repeat' first
    | with_reducible assumption
    | exact hm.of (by decide)
    | with_reducible apply KeepsO.next
    | with_reducible apply State.finish_keeps
    | with_reducible apply Keeps.ite
    | split

theorem State.confirm_keeps {k0 : Nat} {r0 : State} (s : State) (durable : Bool) (hr : Keeps k0 r0 s) (hm : Sub 274877906948 k0 := by exact hm.of (by decide)) : Keeps k0 r0 (State.confirm s durable) := by
  unfold State.confirm
  repeat' first
    | with_reducible assumption
    | exact hm.of (by decide)
    | (extract_lets +onlyGivenNames y; have hy : Keeps k0 r0 y := ?_; clear_value y; rotate_left; subst y)
    | (extract_lets +onlyGivenNames y; have hy : Keeps k0 r0 y.1 := ?_; clear_value y; rotate_left; subst y)
    | (extract_lets +onlyGivenNames y; clear_value y)
    | (extract_lets +onlyGivenNames y; subst y)
    | with_reducible apply State.put_keeps
    | with_reducible apply State.advRollback_keeps
    | with_reducible apply State.raise_keeps
    | with_reducible apply Keeps.ite
    | split

theorem execConfirm_keeps {k0 : Nat} {r0 : State} (durable : Bool) (s : State) (hr : Keeps k0 r0 s) (hm : Sub 274877906948 k0 := by exact hm.of (by decide)) : KeepsO k0 r0 (execConfirm durable s) := by
  unfold execConfirm
  repeat' first
    | with_reducible assumption
    | exact hm.of (by decide)
    | with_reducible apply KeepsO.next
    | with_reducible apply State.confirm_keeps

theorem State.bankRead_keeps {k0 : Nat} {r0 : State} (s : State) (b : Nat) (hr : Keeps k0 r0 s) (hm : Sub 824633720836 k0 := by exact hm.of (by decide)) : Keeps k0 r0 (State.bankRead s b) := by
  unfold State.bankRead
  repeat' first
    | with_reducible assumption
    | exact hm.of (by decide)
    | with_reducible apply State.flashAgain_keeps

theorem State.boot_keeps {k0 : Nat} {r0 : State} (s : State) (hr : Keeps k0 r0 s) (hm : Sub 824633720836 k0 := by exact hm.of (by decide)) : Keeps k0 r0 (State.boot s) := by
  unfold State.boot
  repeat' first
    | with_reducible assumption
    | exact hm.of (by decide)
    | (extract_lets +onlyGivenNames y; have hy : Keeps k0 r0 y := ?_; clear_value y; rotate_left; subst y)
    | (extract_lets +onlyGivenNames y; have hy : Keeps k0 r0 y.1 := ?_; clear_value y; rotate_left; subst y)
    | (extract_lets +onlyGivenNames y; clear_value y)
    | (extract_lets +onlyGivenNames y; subst y)
    | with_reducible apply State.bankRead_keeps
    | with_reducible apply State.verifyCount_keeps
    | with_reducible apply State.put_keeps
    | with_reducible apply State.raise_keeps
    | with_reducible apply Keeps.ite
    | split
    | (with_reducible refine Keeps.foldl ?_ (fun u x h => ?_))

theorem State.startOver_keeps {k0 : Nat} {r0 : State} (s : State) (hr : Keeps k0 r0 s) (hm : Sub 4672924418052 k0 := by exact hm.of (by decide)) : Keeps k0 r0 (State.startOver s) := by
  unfold State.startOver
  repeat' first
    | with_reducible assumption
    | exact hm.of (by decide)
    | (extract_lets +onlyGivenNames y; have hy : Keeps k0 r0 y := ?_; clear_value y; rotate_left; subst y)
    | (extract_lets +onlyGivenNames y; have hy : Keeps k0 r0 y.1 := ?_; clear_value y; rotate_left; subst y)
    | (extract_lets +onlyGivenNames y; clear_value y)
    | (extract_lets +onlyGivenNames y; subst y)
    | with_reducible apply State.put_keeps
    | with_reducible apply State.withUpd_keeps
    | with_reducible apply State.setPort_keeps
    | with_reducible apply State.raise_keeps
    | with_reducible apply Keeps.ite
    | split

theorem State.boardTables_keeps {k0 : Nat} {r0 : State} (s : State) (hr : Keeps k0 r0 s) (hm : Sub 2147483652 k0 := by exact hm.of (by decide)) : Keeps k0 r0 (State.boardTables s) := by
  unfold State.boardTables
  repeat' first
    | with_reducible assumption
    | exact hm.of (by decide)
    | (extract_lets +onlyGivenNames y; have hy : Keeps k0 r0 y := ?_; clear_value y; rotate_left; subst y)
    | (extract_lets +onlyGivenNames y; have hy : Keeps k0 r0 y.1 := ?_; clear_value y; rotate_left; subst y)
    | (extract_lets +onlyGivenNames y; clear_value y)
    | (extract_lets +onlyGivenNames y; subst y)
    | with_reducible apply State.eqPut_keeps
    | with_reducible apply State.calPut_keeps
    | (with_reducible refine Keeps.foldl ?_ (fun u x h => ?_))

theorem execSvrRestartEnd_keeps {k0 : Nat} {r0 : State} (trees : TreeCheck) (s : State) (hr : Keeps k0 r0 s) (hm : Sub 6504870576324 k0 := by exact hm.of (by decide)) : KeepsO k0 r0 (execSvrRestartEnd trees s) := by
  unfold execSvrRestartEnd
  repeat' first
    | with_reducible assumption
    | exact hm.of (by decide)
    | with_reducible apply KeepsO.next
    | (extract_lets +onlyGivenNames y; have hy : Keeps k0 r0 y := ?_; clear_value y; rotate_left; subst y)
    | (extract_lets +onlyGivenNames y; have hy : Keeps k0 r0 y.1 := ?_; clear_value y; rotate_left; subst y)
    | (extract_lets +onlyGivenNames y; clear_value y)
    | (extract_lets +onlyGivenNames y; subst y)
    | with_reducible apply State.secStart_keeps
    | with_reducible apply State.boot_keeps
    | with_reducible apply State.put_keeps
    | with_reducible apply State.startOver_keeps
    | with_reducible apply State.annRestart_keeps
    | with_reducible apply State.withUpd_keeps
    | with_reducible apply State.enforce_keeps
    | with_reducible apply State.boardTables_keeps
    | with_reducible apply State.domWritten_keeps
    | with_reducible apply Keeps.ite
    | split

theorem execBootNoBank_keeps {k0 : Nat} {r0 : State} (trees : TreeCheck) (s : State) (hr : Keeps k0 r0 s) (hm : Sub 6322191859716 k0 := by exact hm.of (by decide)) : KeepsO k0 r0 (execBootNoBank trees s) := by
  unfold execBootNoBank
  repeat' first
    | with_reducible assumption
    | exact hm.of (by decide)
    | with_reducible apply KeepsO.next
    | (extract_lets +onlyGivenNames y; have hy : Keeps k0 r0 y := ?_; clear_value y; rotate_left; subst y)
    | (extract_lets +onlyGivenNames y; have hy : Keeps k0 r0 y.1 := ?_; clear_value y; rotate_left; subst y)
    | (extract_lets +onlyGivenNames y; clear_value y)
    | (extract_lets +onlyGivenNames y; subst y)
    | with_reducible apply State.secStart_keeps
    | with_reducible apply State.bankRead_keeps
    | with_reducible apply State.verifyCount_keeps
    | with_reducible apply State.startOver_keeps
    | with_reducible apply State.withUpd_keeps
    | with_reducible apply Keeps.ite
    | split

end Sys2Proof.Machine
end

