-- ==== Sys2Proof/Laws/KeepsStartup.lean ====
section
/-! SUPPORT. The operations of Machine/Startup.lean leave the queue alone and keep the canonical form of the stores. -/

set_option linter.unusedTactic false
set_option linter.unreachableTactic false

namespace Sys2Proof.Machine

theorem State.withRst_keeps {k0 : Nat} {r0 : State} (s : State) (r : ResetSt) (hr : Keeps k0 r0 s) (hm : Sub 17592186044416 k0 := by exact hm.of (by decide)) : Keeps k0 r0 (State.withRst s r) := by
  unfold State.withRst
  repeat' first
    | with_reducible assumption
    | exact hm.of (by decide)
    | with_reducible apply Keeps.upd_rst

theorem State.resetKeep_keeps {k0 : Nat} {r0 : State} (s : State) (hr : Keeps k0 r0 s) (hm : Sub 15393162788668 k0 := by exact hm.of (by decide)) : Keeps k0 r0 (State.resetKeep s) := by
  unfold State.resetKeep
  refine Keeps.foldl (Keeps.foldl ?_ fun u x h => State.setReg_keeps h) fun u x h => State.put_keeps _ _ _ h
  exact Keeps.upd_regs_mem_readData_wrDrop_guards_results_fifos_fifoIn_spills_captures_cmd_cmdEnded_restartPend_host_yard_links_linkLanes_conv_convNext_lanes_edge_bal_cme_time_rtc_eth_can_adc_therm_aux_hb_pwm_tripIn_safe_evt_flt_tack_upd_pair hr (fun _ => rfl) (fun _ => rfl)

theorem State.resetAssert_keeps {k0 : Nat} {r0 : State} (s : State) (hr : Keeps k0 r0 s) (hm : Sub 32985348833084 k0 := by exact hm.of (by decide)) : Keeps k0 r0 (State.resetAssert s) := by
  unfold State.resetAssert
  repeat' first
    | with_reducible assumption
    | exact hm.of (by decide)
    | with_reducible apply State.resetKeep_keeps
    | with_reducible apply State.withRst_keeps

theorem State.resetAsk_keeps {k0 : Nat} {r0 : State} (s : State) (cause : Nat) (hr : Keeps k0 r0 s) (hm : Sub 26843553988804 k0 := by exact hm.of (by decide)) : Keeps k0 r0 (State.resetAsk s cause) := by
  unfold State.resetAsk
  repeat' first
    | with_reducible assumption
    | exact hm.of (by decide)
    | (extract_lets +onlyGivenNames y; have hy : Keeps k0 r0 y := ?_; clear_value y; rotate_left; subst y)
    | (extract_lets +onlyGivenNames y; have hy : Keeps k0 r0 y.1 := ?_; clear_value y; rotate_left; subst y)
    | (extract_lets +onlyGivenNames y; clear_value y)
    | (extract_lets +onlyGivenNames y; subst y)
    | with_reducible apply State.withRst_keeps
    | with_reducible apply State.withdrawNow_keeps
    | with_reducible apply State.enforce_keeps
    | with_reducible apply Keeps.ite
    | split

theorem execModuleReset_keeps {k0 : Nat} {r0 : State} (s : State) (hr : Keeps k0 r0 s) (hm : Sub 32985348833086 k0 := by exact hm.of (by decide)) : KeepsO k0 r0 (execModuleReset s) := by
  unfold execModuleReset
  repeat' first
    | with_reducible assumption
    | exact hm.of (by decide)
    | with_reducible apply KeepsO.next
    | with_reducible apply State.until_keeps
    | with_reducible apply State.resetAssert_keeps
    | with_reducible apply Keeps.ite
    | split

theorem State.resetRelease_keeps {k0 : Nat} {r0 : State} (s : State) (pairPresent : Bool) (slot : Nat) (hr : Keeps k0 r0 s) (hm : Sub 32985348833084 k0 := by exact hm.of (by decide)) : Keeps k0 r0 (State.resetRelease s pairPresent slot) := by
  unfold State.resetRelease
  repeat' first
    | with_reducible assumption
    | exact hm.of (by decide)
    | (extract_lets +onlyGivenNames y; have hy : Keeps k0 r0 y := ?_; clear_value y; rotate_left; subst y)
    | (extract_lets +onlyGivenNames y; have hy : Keeps k0 r0 y.1 := ?_; clear_value y; rotate_left; subst y)
    | (extract_lets +onlyGivenNames y; clear_value y)
    | (extract_lets +onlyGivenNames y; subst y)
    | with_reducible apply State.resetKeep_keeps
    | with_reducible apply State.put_keeps
    | with_reducible apply State.setReg_keeps
    | with_reducible apply State.withRst_keeps
    | with_reducible apply State.trialFail_keeps
    | with_reducible apply State.raise_keeps
    | with_reducible apply State.withRtc_keeps
    | with_reducible apply State.judgeBackup_keeps
    | with_reducible apply Keeps.ite
    | split

theorem execModuleResetRelease_keeps {k0 : Nat} {r0 : State} (pairPresent : Bool) (slot : BitVec 6) (s : State) (hr : Keeps k0 r0 s) (hm : Sub 32985348833086 k0 := by exact hm.of (by decide)) : KeepsO k0 r0 (execModuleResetRelease pairPresent slot s) := by
  unfold execModuleResetRelease
  repeat' first
    | with_reducible assumption
    | exact hm.of (by decide)
    | with_reducible apply KeepsO.next
    | (extract_lets +onlyGivenNames y; have hy : Keeps k0 r0 y := ?_; clear_value y; rotate_left; subst y)
    | (extract_lets +onlyGivenNames y; have hy : Keeps k0 r0 y.1 := ?_; clear_value y; rotate_left; subst y)
    | (extract_lets +onlyGivenNames y; clear_value y)
    | (extract_lets +onlyGivenNames y; subst y)
    | with_reducible apply State.until_keeps
    | with_reducible apply State.resetRelease_keeps
    | with_reducible apply Keeps.ite
    | split

theorem execPowerOn_keeps {k0 : Nat} {r0 : State} (lowestMv : Nat) (s : State) (hr : Keeps k0 r0 s) (hm : Sub 32985348833084 k0 := by exact hm.of (by decide)) : KeepsO k0 r0 (execPowerOn lowestMv s) := by
  unfold execPowerOn
  repeat' first
    | with_reducible assumption
    | exact hm.of (by decide)
    | with_reducible apply KeepsO.next
    | (extract_lets +onlyGivenNames y; have hy : Keeps k0 r0 y := ?_; clear_value y; rotate_left; subst y)
    | (extract_lets +onlyGivenNames y; have hy : Keeps k0 r0 y.1 := ?_; clear_value y; rotate_left; subst y)
    | (extract_lets +onlyGivenNames y; clear_value y)
    | (extract_lets +onlyGivenNames y; subst y)
    | with_reducible apply State.resetAssert_keeps
    | with_reducible apply State.setBus_keeps
    | with_reducible apply State.withRst_keeps
    | with_reducible apply Keeps.ite
    | split

theorem execBus12vLow_keeps {k0 : Nat} {r0 : State} (mv : Nat) (s : State) (hr : Keeps k0 r0 s) (hm : Sub 26843553988804 k0 := by exact hm.of (by decide)) : KeepsO k0 r0 (execBus12vLow mv s) := by
  unfold execBus12vLow
  repeat' first
    | with_reducible assumption
    | exact hm.of (by decide)
    | with_reducible apply KeepsO.next
    | (extract_lets +onlyGivenNames y; have hy : Keeps k0 r0 y := ?_; clear_value y; rotate_left; subst y)
    | (extract_lets +onlyGivenNames y; have hy : Keeps k0 r0 y.1 := ?_; clear_value y; rotate_left; subst y)
    | (extract_lets +onlyGivenNames y; clear_value y)
    | (extract_lets +onlyGivenNames y; subst y)
    | with_reducible apply State.resetAsk_keeps
    | with_reducible apply State.withRst_keeps
    | with_reducible apply Keeps.ite
    | split

theorem execResetInputAssert_keeps {k0 : Nat} {r0 : State} (s : State) (hr : Keeps k0 r0 s) (hm : Sub 26843553988804 k0 := by exact hm.of (by decide)) : KeepsO k0 r0 (execResetInputAssert s) := by
  unfold execResetInputAssert
  repeat' first
    | with_reducible assumption
    | exact hm.of (by decide)
    | with_reducible apply KeepsO.next
    | (extract_lets +onlyGivenNames y; have hy : Keeps k0 r0 y := ?_; clear_value y; rotate_left; subst y)
    | (extract_lets +onlyGivenNames y; have hy : Keeps k0 r0 y.1 := ?_; clear_value y; rotate_left; subst y)
    | (extract_lets +onlyGivenNames y; clear_value y)
    | (extract_lets +onlyGivenNames y; subst y)
    | with_reducible apply State.resetAsk_keeps
    | with_reducible apply State.withRst_keeps
    | with_reducible apply Keeps.ite
    | split

theorem execResetInputRelease_keeps {k0 : Nat} {r0 : State} (s : State) (hr : Keeps k0 r0 s) (hm : Sub 17592186044416 k0 := by exact hm.of (by decide)) : KeepsO k0 r0 (execResetInputRelease s) := by
  unfold execResetInputRelease
  repeat' first
    | with_reducible assumption
    | exact hm.of (by decide)
    | with_reducible apply KeepsO.next
    | with_reducible apply State.withRst_keeps

theorem State.setButton_keeps {k0 : Nat} {r0 : State} (s : State) (b : Button) (closed : Bool) (hr : Keeps k0 r0 s) (hm : Sub 17592186044416 k0 := by exact hm.of (by decide)) : Keeps k0 r0 (State.setButton s b closed) := by
  unfold State.setButton
  repeat' first
    | with_reducible assumption
    | exact hm.of (by decide)
    | with_reducible apply State.withRst_keeps

theorem execServiceButtonChange_keeps {k0 : Nat} {r0 : State} (closed : Bool) (afterMs : Nat) (s : State) (hr : Keeps k0 r0 s) (hm : Sub 26843956641990 k0 := by exact hm.of (by decide)) : KeepsO k0 r0 (execServiceButtonChange closed afterMs s) := by
  unfold execServiceButtonChange
  repeat' first
    | with_reducible assumption
    | exact hm.of (by decide)
    | with_reducible apply KeepsO.next
    | (extract_lets +onlyGivenNames y; have hy : Keeps k0 r0 y := ?_; clear_value y; rotate_left; subst y)
    | (extract_lets +onlyGivenNames y; have hy : Keeps k0 r0 y.1 := ?_; clear_value y; rotate_left; subst y)
    | (extract_lets +onlyGivenNames y; clear_value y)
    | (extract_lets +onlyGivenNames y; subst y)
    | with_reducible apply State.setButton_keeps
    | with_reducible apply State.until_keeps
    | with_reducible apply State.resetAsk_keeps
    | with_reducible apply Keeps.ite
    | split

theorem State.svRecord_keeps {k0 : Nat} {r0 : State} (s : State) (typ : Nat) (hr : Keeps k0 r0 s) (hm : Sub 268435588 k0 := by exact hm.of (by decide)) : Keeps k0 r0 (State.svRecord s typ) := by
  unfold State.svRecord
  repeat' first
    | with_reducible assumption
    | exact hm.of (by decide)
    | with_reducible apply State.rtcRecord_keeps
    | with_reducible apply Keeps.ite
    | split

theorem execServiceButtonHeld_keeps {k0 : Nat} {r0 : State} (s : State) (hr : Keeps k0 r0 s) (hm : Sub 17592588697734 k0 := by exact hm.of (by decide)) : KeepsO k0 r0 (execServiceButtonHeld s) := by
  unfold execServiceButtonHeld
  repeat' first
    | with_reducible assumption
    | exact hm.of (by decide)
    | with_reducible apply KeepsO.next
    | with_reducible apply State.until_keeps
    | with_reducible apply State.setButton_keeps
    | with_reducible apply State.svRecord_keeps
    | with_reducible apply Keeps.ite
    | split

theorem execServiceButtonStuck_keeps {k0 : Nat} {r0 : State} (s : State) (hr : Keeps k0 r0 s) (hm : Sub 17592588697734 k0 := by exact hm.of (by decide)) : KeepsO k0 r0 (execServiceButtonStuck s) := by
  unfold execServiceButtonStuck
  repeat' first
    | with_reducible assumption
    | exact hm.of (by decide)
    | with_reducible apply KeepsO.next
    | with_reducible apply State.until_keeps
    | with_reducible apply State.setButton_keeps
    | with_reducible apply State.svRecord_keeps
    | with_reducible apply Keeps.ite
    | split

theorem execServiceButtonUnstick_keeps {k0 : Nat} {r0 : State} (s : State) (hr : Keeps k0 r0 s) (hm : Sub 17592588697602 k0 := by exact hm.of (by decide)) : KeepsO k0 r0 (execServiceButtonUnstick s) := by
  unfold execServiceButtonUnstick
  repeat' first
    | with_reducible assumption
    | exact hm.of (by decide)
    | with_reducible apply KeepsO.next
    | with_reducible apply State.until_keeps
    | with_reducible apply State.setButton_keeps
    | with_reducible apply Keeps.ite
    | split

theorem execFabricClockLoss_keeps {k0 : Nat} {r0 : State} (s : State) (hr : Keeps k0 r0 s) (hm : Sub 9251502424260 k0 := by exact hm.of (by decide)) : KeepsO k0 r0 (execFabricClockLoss s) := by
  unfold execFabricClockLoss
  repeat' first
    | with_reducible assumption
    | exact hm.of (by decide)
    | with_reducible apply KeepsO.next
    | (extract_lets +onlyGivenNames y; have hy : Keeps k0 r0 y := ?_; clear_value y; rotate_left; subst y)
    | (extract_lets +onlyGivenNames y; have hy : Keeps k0 r0 y.1 := ?_; clear_value y; rotate_left; subst y)
    | (extract_lets +onlyGivenNames y; clear_value y)
    | (extract_lets +onlyGivenNames y; subst y)
    | with_reducible apply State.trip_keeps
    | with_reducible apply State.enforce_keeps
    | with_reducible apply State.pwmHaltUpdate_keeps
    | with_reducible apply Keeps.ite
    | split
    | with_reducible apply Keeps.upd_time

theorem execRootPllRelock_keeps {k0 : Nat} {r0 : State} (s : State) (hr : Keeps k0 r0 s) (hm : Sub 455409270980 k0 := by exact hm.of (by decide)) : KeepsO k0 r0 (execRootPllRelock s) := by
  unfold execRootPllRelock
  repeat' first
    | with_reducible assumption
    | exact hm.of (by decide)
    | with_reducible apply KeepsO.next
    | (extract_lets +onlyGivenNames y; have hy : Keeps k0 r0 y := ?_; clear_value y; rotate_left; subst y)
    | (extract_lets +onlyGivenNames y; have hy : Keeps k0 r0 y.1 := ?_; clear_value y; rotate_left; subst y)
    | (extract_lets +onlyGivenNames y; clear_value y)
    | (extract_lets +onlyGivenNames y; subst y)
    | with_reducible apply State.put_keeps
    | with_reducible apply State.setReg_keeps
    | with_reducible apply State.pcieReset_keeps
    | with_reducible apply State.relock_keeps
    | with_reducible apply State.enforce_keeps
    | with_reducible apply State.pwmHaltUpdate_keeps
    | with_reducible apply Keeps.ite
    | split
    | with_reducible apply Keeps.upd_time_aux

theorem State.tamperSignal_keeps {k0 : Nat} {r0 : State} (s : State) (hr : Keeps k0 r0 s) (hm : Sub 1374657970308 k0 := by exact hm.of (by decide)) : Keeps k0 r0 (State.tamperSignal s) := by
  unfold State.tamperSignal
  repeat' first
    | with_reducible assumption
    | exact hm.of (by decide)
    | (extract_lets +onlyGivenNames y; have hy : Keeps k0 r0 y := ?_; clear_value y; rotate_left; subst y)
    | (extract_lets +onlyGivenNames y; have hy : Keeps k0 r0 y.1 := ?_; clear_value y; rotate_left; subst y)
    | (extract_lets +onlyGivenNames y; clear_value y)
    | (extract_lets +onlyGivenNames y; subst y)
    | with_reducible apply State.put_keeps
    | with_reducible apply State.setReg_keeps
    | with_reducible apply State.rtcRecord_keeps
    | with_reducible apply State.withRtc_keeps
    | with_reducible apply State.raise_keeps
    | with_reducible apply State.withTack_keeps
    | with_reducible apply State.tamperAct_keeps
    | with_reducible apply Keeps.ite
    | split

theorem State.tamperJudge_keeps {k0 : Nat} {r0 : State} (before s : State) (hr : Keeps k0 r0 s) (hm : Sub 1374657970308 k0 := by exact hm.of (by decide)) : Keeps k0 r0 (State.tamperJudge before s) := by
  unfold State.tamperJudge
  repeat' first
    | with_reducible assumption
    | exact hm.of (by decide)
    | (extract_lets +onlyGivenNames y; have hy : Keeps k0 r0 y := ?_; clear_value y; rotate_left; subst y)
    | (extract_lets +onlyGivenNames y; have hy : Keeps k0 r0 y.1 := ?_; clear_value y; rotate_left; subst y)
    | (extract_lets +onlyGivenNames y; clear_value y)
    | (extract_lets +onlyGivenNames y; subst y)
    | with_reducible apply State.put_keeps
    | with_reducible apply State.tamperSignal_keeps
    | with_reducible apply Keeps.ite
    | split

theorem State.tamperLevel_keeps {k0 : Nat} {r0 : State} (s : State) (active : Bool) (hr : Keeps k0 r0 s) (hm : Sub 268435456 k0 := by exact hm.of (by decide)) : Keeps k0 r0 (State.tamperLevel s active) := by
  unfold State.tamperLevel
  repeat' first
    | with_reducible assumption
    | exact hm.of (by decide)
    | with_reducible apply State.withRtc_keeps

theorem execTamperInput_keeps {k0 : Nat} {r0 : State} (s : State) (hr : Keeps k0 r0 s) (hm : Sub 1374657970308 k0 := by exact hm.of (by decide)) : KeepsO k0 r0 (execTamperInput s) := by
  unfold execTamperInput
  repeat' first
    | with_reducible assumption
    | exact hm.of (by decide)
    | with_reducible apply KeepsO.next
    | with_reducible apply State.tamperJudge_keeps
    | with_reducible apply State.tamperLevel_keeps

theorem execTamperInputRelease_keeps {k0 : Nat} {r0 : State} (s : State) (hr : Keeps k0 r0 s) (hm : Sub 1374657970308 k0 := by exact hm.of (by decide)) : KeepsO k0 r0 (execTamperInputRelease s) := by
  unfold execTamperInputRelease
  repeat' first
    | with_reducible assumption
    | exact hm.of (by decide)
    | with_reducible apply KeepsO.next
    | with_reducible apply State.tamperJudge_keeps
    | with_reducible apply State.tamperLevel_keeps

theorem execBackupWriteDone_keeps {k0 : Nat} {r0 : State} (s : State) (hr : Keeps k0 r0 s) (hm : Sub 1374657970308 k0 := by exact hm.of (by decide)) : KeepsO k0 r0 (execBackupWriteDone s) := by
  unfold execBackupWriteDone
  repeat' first
    | with_reducible assumption
    | exact hm.of (by decide)
    | with_reducible apply KeepsO.next
    | with_reducible apply State.tamperJudge_keeps
    | with_reducible apply State.backupDone_keeps

theorem execBackupStart_keeps {k0 : Nat} {r0 : State} (mv : Nat) (s : State) (hr : Keeps k0 r0 s) (hm : Sub 1374657970308 k0 := by exact hm.of (by decide)) : KeepsO k0 r0 (execBackupStart mv s) := by
  unfold execBackupStart
  repeat' first
    | with_reducible assumption
    | exact hm.of (by decide)
    | with_reducible apply KeepsO.next
    | with_reducible apply State.tamperJudge_keeps
    | with_reducible apply State.backupStart_keeps
    | with_reducible apply Keeps.ite
    | split

end Sys2Proof.Machine
end

