-- ==== Sys2Proof/Laws/KeepsBus.lean ====
section
/-! SUPPORT. The operations of Machine/Bus.lean leave the queue alone and keep the canonical form of the stores. -/

set_option linter.unusedTactic false
set_option linter.unreachableTactic false

namespace Sys2Proof.Machine

theorem State.unmapped_keeps {k0 : Nat} {r0 : State} (s : State) (m : Master) (access a : Nat) (hr : Keeps k0 r0 s) (hm : Sub 824633720836 k0 := by exact hm.of (by decide)) : Keeps k0 r0 (State.unmapped s m access a) := by
  unfold State.unmapped
  repeat' first
    | with_reducible assumption
    | exact hm.of (by decide)
    | with_reducible apply State.put_keeps
    | with_reducible apply State.raise_keeps
    | with_reducible apply State.err_keeps
    | with_reducible apply State.access_keeps

theorem State.readReg_keeps {k0 : Nat} {r0 : State} (s : State) (m : Master) (c : Nat) (wide : Bool) (hr : Keeps k0 r0 s) (hm : Sub 825707478676 k0 := by exact hm.of (by decide)) : Keeps k0 r0 (State.readReg s m c wide) := by
  unfold State.readReg
  repeat' first
    | with_reducible assumption
    | exact hm.of (by decide)
    | (extract_lets +onlyGivenNames y; have hy : Keeps k0 r0 y := ?_; clear_value y; rotate_left; subst y)
    | (extract_lets +onlyGivenNames y; have hy : Keeps k0 r0 y.1 := ?_; clear_value y; rotate_left; subst y)
    | (extract_lets +onlyGivenNames y; clear_value y)
    | (extract_lets +onlyGivenNames y; subst y)
    | with_reducible apply State.logPop_keeps
    | with_reducible apply State.timePop_keeps
    | with_reducible apply State.resPairRead_keeps
    | with_reducible apply State.rxTopRead_keeps
    | with_reducible apply State.highRead_keeps
    | with_reducible apply State.resRead_keeps
    | with_reducible apply State.put_keeps
    | with_reducible apply State.drew_keeps
    | with_reducible apply State.logAdvance_keeps
    | with_reducible apply Keeps.ite
    | split
    | with_reducible apply Keeps.upd_readData

theorem State.readWindow_keeps {k0 : Nat} {r0 : State} (s : State) (m : Master) (a : Nat) (wide : Bool) (hr : Keeps k0 r0 s) (hm : Sub 826781220372 k0 := by exact hm.of (by decide)) : Keeps k0 r0 (State.readWindow s m a wide) := by
  unfold State.readWindow
  repeat' first
    | with_reducible assumption
    | exact hm.of (by decide)
    | with_reducible apply State.adcPop_keeps
    | with_reducible apply State.highRead_keeps
    | with_reducible apply State.latestMark_keeps
    | with_reducible apply State.resPairRead_keeps
    | with_reducible apply Keeps.ite
    | split
    | with_reducible apply Keeps.upd_readData

theorem State.readMem_keeps {k0 : Nat} {r0 : State} (s : State) (m : Master) (rams : Bool) (a : Nat) (hr : Keeps k0 r0 s) (hm : Sub 824633720852 k0 := by exact hm.of (by decide)) : Keeps k0 r0 (State.readMem s m rams a) := by
  unfold State.readMem
  repeat' first
    | with_reducible assumption
    | exact hm.of (by decide)
    | (extract_lets +onlyGivenNames y; have hy : Keeps k0 r0 y := ?_; clear_value y; rotate_left; subst y)
    | (extract_lets +onlyGivenNames y; have hy : Keeps k0 r0 y.1 := ?_; clear_value y; rotate_left; subst y)
    | (extract_lets +onlyGivenNames y; clear_value y)
    | (extract_lets +onlyGivenNames y; subst y)
    | with_reducible apply State.cmeFault_keeps
    | with_reducible apply State.err_keeps
    | with_reducible apply State.engineUe_keeps
    | with_reducible apply Keeps.ite
    | split
    | with_reducible apply Keeps.upd_readData

theorem State.readOne_keeps {k0 : Nat} {r0 : State} (s : State) (m : Master) (a : Nat) (wide : Bool) (hr : Keeps k0 r0 s) (hm : Sub 827854962324 k0 := by exact hm.of (by decide)) : Keeps k0 r0 (State.readOne s m a wide) := by
  unfold State.readOne
  repeat' first
    | with_reducible assumption
    | exact hm.of (by decide)
    | with_reducible apply State.readReg_keeps
    | with_reducible apply State.readMem_keeps
    | with_reducible apply State.readWindow_keeps
    | with_reducible apply State.unmapped_keeps
    | with_reducible apply Keeps.ite
    | split
    | with_reducible apply Keeps.upd_readData

theorem State.readList_keeps {k0 : Nat} {r0 : State} (s : State) (m : Master) (a : Nat) (n : Nat) (done : List Word) (hr : Keeps k0 r0 s) (hm : Sub 827854962324 k0 := by exact hm.of (by decide)) :
    Keeps k0 r0 (s.readList m a n done) := by
  induction n generalizing s a done with
  | zero => exact Keeps.upd_readData hr
  | succ n ih => exact ih _ _ _ (State.readOne_keeps _ _ _ _ hr)

theorem State.busRead_keeps {k0 : Nat} {r0 : State} (s : State) (m : Master) (a len : Nat) (hr : Keeps k0 r0 s) (hm : Sub 827854962324 k0 := by exact hm.of (by decide)) : Keeps k0 r0 (State.busRead s m a len) := by
  unfold State.busRead
  repeat' first
    | with_reducible assumption
    | exact hm.of (by decide)
    | (extract_lets +onlyGivenNames y; have hy : Keeps k0 r0 y := ?_; clear_value y; rotate_left; subst y)
    | (extract_lets +onlyGivenNames y; have hy : Keeps k0 r0 y.1 := ?_; clear_value y; rotate_left; subst y)
    | (extract_lets +onlyGivenNames y; clear_value y)
    | (extract_lets +onlyGivenNames y; subst y)
    | with_reducible apply State.readOne_keeps
    | with_reducible apply State.unmapped_keeps
    | with_reducible apply State.readList_keeps
    | with_reducible apply Keeps.ite
    | split
    | with_reducible apply Keeps.upd_readData

theorem State.hwRaised_keeps {k0 : Nat} {r0 : State} (s : State) (c : Nat) (w : Word) (hr : Keeps k0 r0 s) (hm : Sub 274877906948 k0 := by exact hm.of (by decide)) : Keeps k0 r0 (State.hwRaised s c w) := by
  unfold State.hwRaised
  repeat' first
    | with_reducible assumption
    | exact hm.of (by decide)
    | (extract_lets +onlyGivenNames y; have hy : Keeps k0 r0 y := ?_; clear_value y; rotate_left; subst y)
    | (extract_lets +onlyGivenNames y; have hy : Keeps k0 r0 y.1 := ?_; clear_value y; rotate_left; subst y)
    | (extract_lets +onlyGivenNames y; clear_value y)
    | (extract_lets +onlyGivenNames y; subst y)
    | with_reducible apply State.raise_keeps
    | with_reducible apply Keeps.ite
    | split
    | (with_reducible refine Keeps.foldl ?_ (fun u x h => ?_))

theorem State.hwOnly_keeps {k0 : Nat} {r0 : State} (s : State) (c : Nat) (hw : SameCycle) (hr : Keeps k0 r0 s) (hm : Sub 275146342404 k0 := by exact hm.of (by decide)) : Keeps k0 r0 (State.hwOnly s c hw) := by
  unfold State.hwOnly
  repeat' first
    | with_reducible assumption
    | exact hm.of (by decide)
    | (extract_lets +onlyGivenNames y; have hy : Keeps k0 r0 y := ?_; clear_value y; rotate_left; subst y)
    | (extract_lets +onlyGivenNames y; have hy : Keeps k0 r0 y.1 := ?_; clear_value y; rotate_left; subst y)
    | (extract_lets +onlyGivenNames y; clear_value y)
    | (extract_lets +onlyGivenNames y; subst y)
    | with_reducible apply State.backupNote_keeps
    | with_reducible apply State.setReg_keeps
    | with_reducible apply State.hwRaised_keeps
    | with_reducible apply Keeps.ite
    | split
    | (with_reducible refine Keeps.foldl ?_ (fun u x h => ?_))

theorem State.countRefused_keeps {k0 : Nat} {r0 : State} (s : State) (b n : Nat) (hr : Keeps k0 r0 s) (hm : Sub 4 k0 := by exact hm.of (by decide)) : Keeps k0 r0 (State.countRefused s b n) := by
  unfold State.countRefused
  repeat' first
    | with_reducible assumption
    | exact hm.of (by decide)
    | with_reducible apply State.cnt_keeps
    | with_reducible apply Keeps.ite
    | split

theorem State.clearedBits_keeps {k0 : Nat} {r0 : State} (s : State) (c : Nat) (bits : Word) (hr : Keeps k0 r0 s) (hm : Sub 605598777412 k0 := by exact hm.of (by decide)) : Keeps k0 r0 (State.clearedBits s c bits) := by
  unfold State.clearedBits
  repeat' first
    | with_reducible assumption
    | exact hm.of (by decide)
    | with_reducible apply fltCleared_keeps
    | with_reducible apply State.thermReadmit_keeps
    | with_reducible apply State.thermCleared_keeps
    | with_reducible apply gdrvCleared_keeps
    | with_reducible apply pwmCleared_keeps
    | with_reducible apply State.laneCleared_keeps
    | with_reducible apply Keeps.ite
    | split
    | (with_reducible refine Keeps.foldl ?_ (fun u x h => ?_))

theorem State.canWritten_keeps {k0 : Nat} {r0 : State} (s : State) (n c : Nat) (old ws : Word) (hr : Keeps k0 r0 s) (hm : Sub 275951648804 k0 := by exact hm.of (by decide)) : Keeps k0 r0 (State.canWritten s n c old ws) := by
  unfold State.canWritten
  repeat' first
    | with_reducible assumption
    | exact hm.of (by decide)
    | (extract_lets +onlyGivenNames y; have hy : Keeps k0 r0 y := ?_; clear_value y; rotate_left; subst y)
    | (extract_lets +onlyGivenNames y; have hy : Keeps k0 r0 y.1 := ?_; clear_value y; rotate_left; subst y)
    | (extract_lets +onlyGivenNames y; clear_value y)
    | (extract_lets +onlyGivenNames y; subst y)
    | with_reducible apply State.canCtrlWritten_keeps
    | with_reducible apply State.ttEnd_keeps
    | with_reducible apply State.txCancel_keeps
    | with_reducible apply Keeps.ite
    | split

theorem State.laneCtrlWritten_keeps {k0 : Nat} {r0 : State} (s : State) (n : Nat) (old : Word) (en : Bool) (ws : Word) (hr : Keeps k0 r0 s) (hm : Sub 9251368206564 k0 := by exact hm.of (by decide)) : Keeps k0 r0 (State.laneCtrlWritten s n old en ws) := by
  unfold State.laneCtrlWritten
  repeat' first
    | with_reducible assumption
    | exact hm.of (by decide)
    | (extract_lets +onlyGivenNames y; have hy : Keeps k0 r0 y := ?_; clear_value y; rotate_left; subst y)
    | (extract_lets +onlyGivenNames y; have hy : Keeps k0 r0 y.1 := ?_; clear_value y; rotate_left; subst y)
    | (extract_lets +onlyGivenNames y; clear_value y)
    | (extract_lets +onlyGivenNames y; subst y)
    | with_reducible apply State.put_keeps
    | with_reducible apply State.adaptRefused_keeps
    | with_reducible apply State.laneWake_keeps
    | with_reducible apply State.refusePark_keeps
    | with_reducible apply State.lanePark_keeps
    | with_reducible apply State.laneAdapt_keeps
    | with_reducible apply State.laneEqWrite_keeps
    | with_reducible apply State.laneLastClear_keeps
    | with_reducible apply Keeps.ite
    | split

theorem State.adcWritten_keeps {k0 : Nat} {r0 : State} (s : State) (c : Nat) (old ws : Word) (hr : Keeps k0 r0 s) (hm : Sub 277025395236 k0 := by exact hm.of (by decide)) : Keeps k0 r0 (State.adcWritten s c old ws) := by
  unfold State.adcWritten
  repeat' first
    | with_reducible assumption
    | exact hm.of (by decide)
    | (extract_lets +onlyGivenNames y; have hy : Keeps k0 r0 y := ?_; clear_value y; rotate_left; subst y)
    | (extract_lets +onlyGivenNames y; have hy : Keeps k0 r0 y.1 := ?_; clear_value y; rotate_left; subst y)
    | (extract_lets +onlyGivenNames y; clear_value y)
    | (extract_lets +onlyGivenNames y; subst y)
    | with_reducible apply State.adcCtrlWritten_keeps
    | with_reducible apply State.adcCfgWritten_keeps
    | with_reducible apply State.adcStart_keeps
    | with_reducible apply State.startCont_keeps
    | with_reducible apply Keeps.ite
    | split

theorem State.auxWritten_keeps {k0 : Nat} {r0 : State} (s : State) (c : Nat) (ws : Word) (hr : Keeps k0 r0 s) (hm : Sub 8589934724 k0 := by exact hm.of (by decide)) : Keeps k0 r0 (State.auxWritten s c ws) := by
  unfold State.auxWritten
  repeat' first
    | with_reducible assumption
    | exact hm.of (by decide)
    | (extract_lets +onlyGivenNames y; have hy : Keeps k0 r0 y := ?_; clear_value y; rotate_left; subst y)
    | (extract_lets +onlyGivenNames y; have hy : Keeps k0 r0 y.1 := ?_; clear_value y; rotate_left; subst y)
    | (extract_lets +onlyGivenNames y; clear_value y)
    | (extract_lets +onlyGivenNames y; subst y)
    | with_reducible apply State.peakClr_keeps
    | with_reducible apply State.readmit_keeps
    | with_reducible apply State.groupUnlatch_keeps
    | with_reducible apply State.loopUnlatch_keeps
    | with_reducible apply Keeps.ite
    | split
    | (with_reducible refine Keeps.foldl ?_ (fun u x h => ?_))

theorem State.yardStarts_keeps {k0 : Nat} {r0 : State} (s : State) (ws : Word) (hr : Keeps k0 r0 s) (hm : Sub 274878169636 k0 := by exact hm.of (by decide)) : Keeps k0 r0 (State.yardStarts s ws) := by
  unfold State.yardStarts
  repeat' first
    | with_reducible assumption
    | exact hm.of (by decide)
    | (extract_lets +onlyGivenNames y; have hy : Keeps k0 r0 y := ?_; clear_value y; rotate_left; subst y)
    | (extract_lets +onlyGivenNames y; have hy : Keeps k0 r0 y.1 := ?_; clear_value y; rotate_left; subst y)
    | (extract_lets +onlyGivenNames y; clear_value y)
    | (extract_lets +onlyGivenNames y; subst y)
    | with_reducible apply State.checkWrite_keeps
    | with_reducible apply State.startWrite_keeps
    | with_reducible apply State.stopWrite_keeps
    | with_reducible apply Keeps.ite
    | split

theorem State.cmeWritten_keeps {k0 : Nat} {r0 : State} (s : State) (c : Nat) (halt : Bool) (ws : Word) (hr : Keeps k0 r0 s) (hm : Sub 867667296908 k0 := by exact hm.of (by decide)) : Keeps k0 r0 (State.cmeWritten s c halt ws) := by
  unfold State.cmeWritten
  repeat' first
    | with_reducible assumption
    | exact hm.of (by decide)
    | (extract_lets +onlyGivenNames y; have hy : Keeps k0 r0 y := ?_; clear_value y; rotate_left; subst y)
    | (extract_lets +onlyGivenNames y; have hy : Keeps k0 r0 y.1 := ?_; clear_value y; rotate_left; subst y)
    | (extract_lets +onlyGivenNames y; clear_value y)
    | (extract_lets +onlyGivenNames y; subst y)
    | with_reducible apply State.progCheckWrite_keeps
    | with_reducible apply State.progWritten_keeps
    | with_reducible apply State.presetAsk_keeps
    | with_reducible apply State.haltNow_keeps
    | with_reducible apply State.debugRelease_keeps
    | with_reducible apply State.debugStep_keeps
    | with_reducible apply Keeps.ite
    | split

theorem State.written_keeps {k0 : Nat} {r0 : State} (before s : State) (c al : Nat) (v : Word) (hr : Keeps k0 r0 s) (hm : Sub 14203180307180 k0 := by exact hm.of (by decide)) : Keeps k0 r0 (State.written before s c al v) := by
  unfold State.written
  repeat' first
    | with_reducible assumption
    | exact hm.of (by decide)
    | (extract_lets +onlyGivenNames y; have hy : Keeps k0 r0 y := ?_; clear_value y; rotate_left; subst y)
    | (extract_lets +onlyGivenNames y; have hy := fun a => y a; clear hy; subst y; beta_reduce)
    | (extract_lets +onlyGivenNames y; have hy : Keeps k0 r0 y.1 := ?_; clear_value y; rotate_left; subst y)
    | (extract_lets +onlyGivenNames y; clear_value y)
    | (extract_lets +onlyGivenNames y; subst y)
    | with_reducible apply hostPostWrite_keeps
    | with_reducible apply evtPostWrite_keeps
    | with_reducible apply State.capClr_keeps
    | with_reducible apply State.confirm_keeps
    | with_reducible apply State.pendingDiscard_keeps
    | with_reducible apply timeCtrlWrite_keeps
    | with_reducible apply State.domcfgWritten_keeps
    | with_reducible apply State.cmpWritten_keeps
    | with_reducible apply State.ethCtrlWritten_keeps
    | with_reducible apply State.canWritten_keeps
    | with_reducible apply State.adcWritten_keeps
    | with_reducible apply State.throttle_keeps
    | with_reducible apply State.auxWritten_keeps
    | with_reducible apply State.put_keeps
    | with_reducible apply pwmPostWrite_keeps
    | with_reducible apply State.pwmScan_keeps
    | with_reducible apply State.safeCtrlWrite_keeps
    | with_reducible apply State.enforce_keeps
    | with_reducible apply State.yardStarts_keeps
    | with_reducible apply State.edgeCommit_keeps
    | with_reducible apply State.balSample_keeps
    | with_reducible apply State.cmeWritten_keeps
    | with_reducible apply State.laneCtrlWritten_keeps
    | with_reducible apply Keeps.ite
    | split

/-- Keeps of a state that may be absent. -/
def KeepsOpt (k : Nat) (r : State) (o : Option State) : Prop := ∀ t, o = some t → Keeps k r t

theorem KeepsOpt.none {k : Nat} {r : State} : KeepsOpt k r none := fun _ h => by contradiction

theorem KeepsOpt.some {k : Nat} {r s : State} (h : Keeps k r s) : KeepsOpt k r (some s) := fun t e => by cases e; exact h

theorem KeepsOpt.ite {k : Nat} {r : State} {s t : Option State} {c : Prop} [Decidable c] (h : KeepsOpt k r s) (g : KeepsOpt k r t) :
    KeepsOpt k r (if c then s else t) := by
  split <;> assumption

theorem State.diverted_keeps {k0 : Nat} {r0 : State} (s : State) (m : Master) (a c : Nat) (v : Word) (hr : Keeps k0 r0 s) (hm : Sub 4676145660068 k0 := by exact hm.of (by decide)) :
    KeepsOpt k0 r0 (s.diverted m a c v) := by
  unfold State.diverted
  repeat' first
    | with_reducible exact hr
    | exact hm.of (by decide)
    | with_reducible exact KeepsOpt.none
    | with_reducible apply KeepsOpt.ite
    | with_reducible apply KeepsOpt.some
    | with_reducible apply State.cmdRefuse_keeps
    | with_reducible apply State.cmdWrite_keeps
    | with_reducible apply State.notOwner_keeps
    | with_reducible apply State.noteDrop_keeps
    | with_reducible apply State.put_keeps
    | with_reducible apply State.txPush_keeps
    | with_reducible apply State.tableWriteBy_keeps
    | with_reducible apply State.descDrop_keeps
    | with_reducible apply State.ramDrop_keeps
    | (extract_lets +onlyGivenNames n; clear_value n)
    | split

theorem State.placeReg_keeps {k0 : Nat} {r0 : State} (s : State) (c : Nat) (new : Word) (hw : SameCycle) (hr : Keeps k0 r0 s) (hm : Sub 283736277156 k0 := by exact hm.of (by decide)) : Keeps k0 r0 (State.placeReg s c new hw) := by
  unfold State.placeReg
  repeat' first
    | with_reducible assumption
    | exact hm.of (by decide)
    | with_reducible apply State.hwOnly_keeps
    | with_reducible apply State.backupPut_keeps
    | with_reducible apply State.auxWrite_keeps
    | with_reducible apply State.setReg_keeps
    | with_reducible apply Keeps.ite
    | split

theorem State.writeReg_keeps {k0 : Nat} {r0 : State} (s : State) (m : Master) (a : Nat) (v : Word) (hw : SameCycle) (hr : Keeps k0 r0 s) (hm : Sub 14224923579116 k0 := by exact hm.of (by decide)) :
    Keeps k0 r0 (State.writeReg s m a v hw) := by
  unfold State.writeReg
  extract_lets +onlyGivenNames c h al wins
  clear_value h
  split
  · rename_i t e
    exact State.diverted_keeps _ _ _ _ _ (Keeps.ite hr (State.hwOnly_keeps _ _ _ hr)) (by exact hm.of (by decide)) _ e
  · extract_lets +onlyGivenNames fs b locked old hit okBits ok refused t1 t0 t2 lk t3 t4 t5
    have h1 : Keeps k0 r0 t1 := State.hwRaised_keeps _ _ _ (State.placeReg_keeps _ _ _ _ hr)
    clear_value t1
    have h0 : Keeps k0 r0 t0 := State.countRefused_keeps _ _ _ h1
    clear_value t0
    have h2 : Keeps k0 r0 t2 := Keeps.ite (State.unpoison_keeps _ _ _ h0) h0
    clear_value t2
    have h3 : Keeps k0 r0 t3 := Keeps.ite (State.accessFault_keeps _ _ _ _ _ _ h2) h2
    clear_value t3
    have h4 : Keeps k0 r0 t4 := Keeps.ite (State.descAccepted_keeps _ h3) h3
    clear_value t4
    have h5 : Keeps k0 r0 t5 := State.clearedBits_keeps _ _ _ h4
    clear_value t5
    exact Keeps.ite h5 (State.written_keeps _ _ _ _ _ h5)

theorem State.commit_keeps {k0 : Nat} {r0 : State} (s : State) (m : Master) (c : Nat) (v : Word) (hr : Keeps k0 r0 s) (hm : Sub 13649783898852 k0 := by exact hm.of (by decide)) : Keeps k0 r0 (State.commit s m c v) := by
  unfold State.commit
  repeat' first
    | with_reducible assumption
    | exact hm.of (by decide)
    | (extract_lets +onlyGivenNames y; have hy : Keeps k0 r0 y := ?_; clear_value y; rotate_left; subst y)
    | (extract_lets +onlyGivenNames y; have hy : Keeps k0 r0 y.1 := ?_; clear_value y; rotate_left; subst y)
    | (extract_lets +onlyGivenNames y; clear_value y)
    | (extract_lets +onlyGivenNames y; subst y)
    | with_reducible apply State.setReg_keeps
    | with_reducible apply State.restartAsk_keeps
    | with_reducible apply State.fconfStart_keeps
    | with_reducible apply State.pairCommit_keeps
    | with_reducible apply State.backupPut_keeps
    | with_reducible apply State.descDrop_keeps
    | with_reducible apply State.descAccepted_keeps
    | with_reducible apply State.armResetAsk_keeps
    | with_reducible apply State.haltNow_keeps
    | with_reducible apply State.debugRelease_keeps
    | with_reducible apply State.restoreAsk_keeps
    | with_reducible apply State.auxCommit_keeps
    | with_reducible apply State.fenceCommit_keeps
    | with_reducible apply State.lockReset_keeps
    | with_reducible apply Keeps.ite
    | split

theorem State.setGuard_keeps {k0 : Nat} {r0 : State} (s : State) (k : Nat) (g : Guard) (hr : Keeps k0 r0 s) (hm : Sub 256 k0 := by exact hm.of (by decide)) : Keeps k0 r0 (State.setGuard s k g) := by
  unfold State.setGuard
  repeat' first
    | with_reducible assumption
    | exact hm.of (by decide)
    | with_reducible apply Keeps.upd_guards

theorem State.guardFail_keeps {k0 : Nat} {r0 : State} (s : State) (m access p : Nat) (hr : Keeps k0 r0 s) (hm : Sub 824633720868 k0 := by exact hm.of (by decide)) : Keeps k0 r0 (State.guardFail s m access p) := by
  unfold State.guardFail
  repeat' first
    | with_reducible assumption
    | exact hm.of (by decide)
    | with_reducible apply State.accessFault_keeps
    | with_reducible apply State.access_keeps

theorem State.hwBoth_keeps {k0 : Nat} {r0 : State} (s : State) (w : BusWrite) (hw : SameCycle) (hr : Keeps k0 r0 s) (hm : Sub 275146342404 k0 := by exact hm.of (by decide)) : Keeps k0 r0 (State.hwBoth s w hw) := by
  unfold State.hwBoth
  repeat' first
    | with_reducible assumption
    | exact hm.of (by decide)
    | (extract_lets +onlyGivenNames y; have hy : Keeps k0 r0 y := ?_; clear_value y; rotate_left; subst y)
    | (extract_lets +onlyGivenNames y; have hy : Keeps k0 r0 y.1 := ?_; clear_value y; rotate_left; subst y)
    | (extract_lets +onlyGivenNames y; clear_value y)
    | (extract_lets +onlyGivenNames y; subst y)
    | with_reducible apply State.hwOnly_keeps
    | with_reducible apply Keeps.ite
    | split

theorem State.writeIdle_keeps {k0 : Nat} {r0 : State} (s : State) (w : BusWrite) (hw : SameCycle) (hr : Keeps k0 r0 s) (hm : Sub 14224923579372 k0 := by exact hm.of (by decide)) : Keeps k0 r0 (State.writeIdle s w hw) := by
  unfold State.writeIdle
  repeat' first
    | with_reducible assumption
    | exact hm.of (by decide)
    | (extract_lets +onlyGivenNames y; have hy : Keeps k0 r0 y := ?_; clear_value y; rotate_left; subst y)
    | (extract_lets +onlyGivenNames y; have hy : Keeps k0 r0 y.1 := ?_; clear_value y; rotate_left; subst y)
    | (extract_lets +onlyGivenNames y; clear_value y)
    | (extract_lets +onlyGivenNames y; subst y)
    | with_reducible apply State.hwBoth_keeps
    | with_reducible apply State.accessFault_keeps
    | with_reducible apply State.guardFail_keeps
    | with_reducible apply State.setGuard_keeps
    | with_reducible apply State.writeReg_keeps
    | with_reducible apply State.hwOnly_keeps
    | with_reducible apply Keeps.ite
    | split

theorem State.judgeWrite_keeps {k0 : Nat} {r0 : State} (s : State) (w : BusWrite) (hw : SameCycle) (hr : Keeps k0 r0 s) (hm : Sub 14224923644908 k0 := by exact hm.of (by decide)) : Keeps k0 r0 (State.judgeWrite s w hw) := by
  unfold State.judgeWrite
  repeat' first
    | with_reducible assumption
    | exact hm.of (by decide)
    | (extract_lets +onlyGivenNames y; have hy : Keeps k0 r0 y := ?_; clear_value y; rotate_left; subst y)
    | (extract_lets +onlyGivenNames y; have hy : Keeps k0 r0 y.1 := ?_; clear_value y; rotate_left; subst y)
    | (extract_lets +onlyGivenNames y; clear_value y)
    | (extract_lets +onlyGivenNames y; subst y)
    | with_reducible apply State.writeIdle_keeps
    | with_reducible apply State.hwBoth_keeps
    | with_reducible apply State.setGuard_keeps
    | with_reducible apply State.commit_keeps
    | with_reducible apply State.guardFail_keeps
    | with_reducible apply Keeps.ite
    | split

theorem State.releaseHeld_keeps {k0 : Nat} {r0 : State} (s : State) (k : Nat) (hr : Keeps k0 r0 s) (hm : Sub 14224923644910 k0 := by exact hm.of (by decide)) : Keeps k0 r0 (State.releaseHeld s k) := by
  unfold State.releaseHeld
  repeat' first
    | with_reducible assumption
    | exact hm.of (by decide)
    | (extract_lets +onlyGivenNames y; have hy : Keeps k0 r0 y := ?_; clear_value y; rotate_left; subst y)
    | (extract_lets +onlyGivenNames y; have hy : Keeps k0 r0 y.1 := ?_; clear_value y; rotate_left; subst y)
    | (extract_lets +onlyGivenNames y; clear_value y)
    | (extract_lets +onlyGivenNames y; subst y)
    | with_reducible apply State.advance_keeps
    | with_reducible apply State.judgeWrite_keeps
    | with_reducible apply State.setGuard_keeps
    | with_reducible apply Keeps.ite
    | split
    | (with_reducible refine Keeps.foldl ?_ (fun u x h => ?_))

theorem State.guardExpire_keeps {k0 : Nat} {r0 : State} (s : State) (k : Nat) (hr : Keeps k0 r0 s) (hm : Sub 14224923644910 k0 := by exact hm.of (by decide)) : Keeps k0 r0 (State.guardExpire s k) := by
  unfold State.guardExpire
  repeat' first
    | with_reducible assumption
    | exact hm.of (by decide)
    | with_reducible apply State.setGuard_keeps
    | with_reducible apply State.guardFail_keeps
    | with_reducible apply State.releaseHeld_keeps
    | with_reducible apply Keeps.ite
    | split

theorem State.writeWindow_keeps {k0 : Nat} {r0 : State} (s : State) (w : BusWrite) (hw : SameCycle) (hr : Keeps k0 r0 s) (hm : Sub 14224923644910 k0 := by exact hm.of (by decide)) : Keeps k0 r0 (State.writeWindow s w hw) := by
  unfold State.writeWindow
  repeat' first
    | with_reducible assumption
    | exact hm.of (by decide)
    | with_reducible apply State.guardExpire_keeps
    | with_reducible apply State.judgeWrite_keeps
    | with_reducible apply State.releaseHeld_keeps

theorem State.writeEach_keeps {k0 : Nat} {r0 : State} (s : State) (m : Master) (a : Nat) (hw : SameCycle) (l : List (Word × BitVec 4))
    (hr : Keeps k0 r0 s) (hm : Sub 14224923644910 k0 := by exact hm.of (by decide)) : Keeps k0 r0 (s.writeEach m a hw l) := by
  induction l generalizing s a hw with
  | nil => exact hr
  | cons x t ih =>
    unfold State.writeEach
    extract_lets +onlyGivenNames y
    have hy : Keeps k0 r0 y := Keeps.ite (State.writeWindow_keeps _ _ _ hr) (State.unmapped_keeps _ _ _ _ hr)
    clear_value y
    exact ih _ _ _ (Keeps.ite hy (State.advance_keeps _ _ hy))

theorem State.busWrite_keeps {k0 : Nat} {r0 : State} (s : State) (m : Master) (a : Nat) (words : List (Word × BitVec 4)) (hw : SameCycle) (hr : Keeps k0 r0 s) (hm : Sub 14224925217774 k0 := by exact hm.of (by decide)) : Keeps k0 r0 (State.busWrite s m a words hw) := by
  unfold State.busWrite
  repeat' first
    | with_reducible assumption
    | exact hm.of (by decide)
    | (extract_lets +onlyGivenNames y; have hy : Keeps k0 r0 y := ?_; clear_value y; rotate_left; subst y)
    | (extract_lets +onlyGivenNames y; have hy : Keeps k0 r0 y.1 := ?_; clear_value y; rotate_left; subst y)
    | (extract_lets +onlyGivenNames y; clear_value y)
    | (extract_lets +onlyGivenNames y; subst y)
    | with_reducible apply State.tableWrite_keeps
    | with_reducible apply State.ramWrite_keeps
    | with_reducible apply State.windowWrite_keeps
    | with_reducible apply State.unmapped_keeps
    | with_reducible apply State.noteDrop_keeps
    | with_reducible apply State.writeWindow_keeps
    | with_reducible apply State.writeEach_keeps
    | with_reducible apply Keeps.ite
    | split

theorem State.svPendingWrite_keeps {k0 : Nat} {r0 : State} (s : State) (q : Nat) (v : Word) (hw : SameCycle) (hr : Keeps k0 r0 s) (hm : Sub 4 k0 := by exact hm.of (by decide)) : Keeps k0 r0 (State.svPendingWrite s q v hw) := by
  unfold State.svPendingWrite
  repeat' first
    | with_reducible assumption
    | exact hm.of (by decide)
    | (extract_lets +onlyGivenNames y; have hy : Keeps k0 r0 y := ?_; clear_value y; rotate_left; subst y)
    | (extract_lets +onlyGivenNames y; have hy : Keeps k0 r0 y.1 := ?_; clear_value y; rotate_left; subst y)
    | (extract_lets +onlyGivenNames y; clear_value y)
    | (extract_lets +onlyGivenNames y; subst y)
    | with_reducible apply State.setReg_keeps

theorem State.write_keeps {k0 : Nat} {r0 : State} (s : State) (w : WriteReq) (hw : SameCycle) (hr : Keeps k0 r0 s) (hm : Sub 14224925217774 k0 := by exact hm.of (by decide)) : Keeps k0 r0 (State.write s w hw) := by
  unfold State.write
  repeat' first
    | with_reducible assumption
    | exact hm.of (by decide)
    | with_reducible apply State.busWrite_keeps
    | with_reducible apply State.svPendingWrite_keeps
    | with_reducible apply Keeps.ite
    | split

end Sys2Proof.Machine
end

