-- ==== Sys2Proof/Laws/KeepsAccess.lean ====
section
/-! SUPPORT. The operations of Machine/Access.lean leave the queue alone and keep the canonical form of the stores. -/

set_option linter.unusedTactic false
set_option linter.unreachableTactic false

namespace Sys2Proof.Machine

theorem execRegisterWrite_keeps {k0 : Nat} {r0 : State} (w : WriteReq) (hw : SameCycle) (s : State) (hr : Keeps k0 r0 s) (hm : Sub 14224925217774 k0 := by exact hm.of (by decide)) : KeepsO k0 r0 (execRegisterWrite w hw s) := by
  unfold execRegisterWrite
  repeat' first
    | with_reducible assumption
    | exact hm.of (by decide)
    | with_reducible apply KeepsO.next
    | with_reducible apply State.write_keeps

theorem State.access_keeps {k0 : Nat} {r0 : State} (s : State) (a : Access) (hr : Keeps k0 r0 s) (hm : Sub 14224925229054 k0 := by exact hm.of (by decide)) : Keeps k0 r0 (State.access s a) := by
  unfold State.access
  repeat' first
    | with_reducible assumption
    | exact hm.of (by decide)
    | with_reducible apply State.busRead_keeps
    | with_reducible apply State.write_keeps
    | with_reducible apply Keeps.ite
    | split

theorem execUnmappedAccess_keeps {k0 : Nat} {r0 : State} (a : Access) (s : State) (hr : Keeps k0 r0 s) (hm : Sub 14224925229054 k0 := by exact hm.of (by decide)) : KeepsO k0 r0 (execUnmappedAccess a s) := by
  unfold execUnmappedAccess
  repeat' first
    | with_reducible assumption
    | exact hm.of (by decide)
    | with_reducible apply KeepsO.next
    | with_reducible apply State.unmapped_keeps
    | with_reducible apply State.access_keeps
    | with_reducible apply Keeps.ite
    | split

theorem execLockWrite_keeps {k0 : Nat} {r0 : State} (w : WriteReq) (s : State) (hr : Keeps k0 r0 s) (hm : Sub 14224925217774 k0 := by exact hm.of (by decide)) : KeepsO k0 r0 (execLockWrite w s) := by
  unfold execLockWrite
  repeat' first
    | with_reducible assumption
    | exact hm.of (by decide)
    | with_reducible apply KeepsO.next
    | with_reducible apply State.write_keeps
    | with_reducible apply Keeps.ite
    | split

theorem execGuardedPrimaryWrite_keeps {k0 : Nat} {r0 : State} (w : WriteReq) (s : State) (hr : Keeps k0 r0 s) (hm : Sub 14224925217774 k0 := by exact hm.of (by decide)) : KeepsO k0 r0 (execGuardedPrimaryWrite w s) := by
  unfold execGuardedPrimaryWrite
  repeat' first
    | with_reducible assumption
    | exact hm.of (by decide)
    | with_reducible apply KeepsO.next
    | with_reducible apply State.write_keeps
    | with_reducible apply Keeps.ite
    | split

theorem execGuardTwinWrite_keeps {k0 : Nat} {r0 : State} (w : WriteReq) (s : State) (hr : Keeps k0 r0 s) (hm : Sub 14224925217774 k0 := by exact hm.of (by decide)) : KeepsO k0 r0 (execGuardTwinWrite w s) := by
  unfold execGuardTwinWrite
  repeat' first
    | with_reducible assumption
    | exact hm.of (by decide)
    | with_reducible apply KeepsO.next
    | with_reducible apply State.write_keeps
    | with_reducible apply Keeps.ite
    | split

theorem execGuardTimeout_keeps {k0 : Nat} {r0 : State} (blk : BitVec 8) (s : State) (hr : Keeps k0 r0 s) (hm : Sub 14224923644910 k0 := by exact hm.of (by decide)) : KeepsO k0 r0 (execGuardTimeout blk s) := by
  unfold execGuardTimeout
  repeat' first
    | with_reducible assumption
    | exact hm.of (by decide)
    | with_reducible apply KeepsO.next
    | (extract_lets +onlyGivenNames y; have hy : Keeps k0 r0 y := ?_; clear_value y; rotate_left; subst y)
    | (extract_lets +onlyGivenNames y; have hy : Keeps k0 r0 y.1 := ?_; clear_value y; rotate_left; subst y)
    | (extract_lets +onlyGivenNames y; clear_value y)
    | (extract_lets +onlyGivenNames y; subst y)
    | with_reducible apply State.until_keeps
    | with_reducible apply State.guardExpire_keeps
    | with_reducible apply Keeps.ite
    | split

theorem execPtpEnable_keeps {k0 : Nat} {r0 : State} (v : Word) (s : State) (hr : Keeps k0 r0 s) (hm : Sub 14224923579116 k0 := by exact hm.of (by decide)) : KeepsO k0 r0 (execPtpEnable v s) := by
  unfold execPtpEnable
  repeat' first
    | with_reducible assumption
    | exact hm.of (by decide)
    | with_reducible apply KeepsO.next
    | with_reducible apply State.writeReg_keeps

theorem execE12Enable_keeps {k0 : Nat} {r0 : State} (v : Word) (s : State) (hr : Keeps k0 r0 s) (hm : Sub 14224923579116 k0 := by exact hm.of (by decide)) : KeepsO k0 r0 (execE12Enable v s) := by
  unfold execE12Enable
  repeat' first
    | with_reducible assumption
    | exact hm.of (by decide)
    | with_reducible apply KeepsO.next
    | with_reducible apply State.writeReg_keeps

theorem execCanEnable_keeps {k0 : Nat} {r0 : State} (n : Fin 2) (v : Word) (s : State) (hr : Keeps k0 r0 s) (hm : Sub 14224923579116 k0 := by exact hm.of (by decide)) : KeepsO k0 r0 (execCanEnable n v s) := by
  unfold execCanEnable
  repeat' first
    | with_reducible assumption
    | exact hm.of (by decide)
    | with_reducible apply KeepsO.next
    | with_reducible apply State.writeReg_keeps

theorem execBackupWrite_keeps {k0 : Nat} {r0 : State} (w : WriteReq) (s : State) (hr : Keeps k0 r0 s) (hm : Sub 14224925217774 k0 := by exact hm.of (by decide)) : KeepsO k0 r0 (execBackupWrite w s) := by
  unfold execBackupWrite
  repeat' first
    | with_reducible assumption
    | exact hm.of (by decide)
    | with_reducible apply KeepsO.next
    | with_reducible apply State.write_keeps
    | with_reducible apply Keeps.ite
    | split

theorem execResultRead_keeps {k0 : Nat} {r0 : State} (r : ReadReq) (meets : Option Nat) (s : State) (hr : Keeps k0 r0 s) (hm : Sub 827854962324 k0 := by exact hm.of (by decide)) : KeepsO k0 r0 (execResultRead r meets s) := by
  unfold execResultRead
  repeat' first
    | with_reducible assumption
    | exact hm.of (by decide)
    | with_reducible apply KeepsO.next
    | with_reducible apply State.startRes_keeps
    | with_reducible apply State.busRead_keeps
    | with_reducible apply State.complete_keeps
    | with_reducible apply Keeps.ite
    | split

theorem execRtcLogRead_keeps {k0 : Nat} {r0 : State} (r : ReadReq) (s : State) (hr : Keeps k0 r0 s) (hm : Sub 827854962324 k0 := by exact hm.of (by decide)) : KeepsO k0 r0 (execRtcLogRead r s) := by
  unfold execRtcLogRead
  repeat' first
    | with_reducible assumption
    | exact hm.of (by decide)
    | with_reducible apply KeepsO.next
    | (extract_lets +onlyGivenNames y; have hy : Keeps k0 r0 y := ?_; clear_value y; rotate_left; subst y)
    | (extract_lets +onlyGivenNames y; have hy : Keeps k0 r0 y.1 := ?_; clear_value y; rotate_left; subst y)
    | (extract_lets +onlyGivenNames y; clear_value y)
    | (extract_lets +onlyGivenNames y; subst y)
    | with_reducible apply State.busRead_keeps
    | with_reducible apply Keeps.ite
    | split

theorem State.npAccept_keeps {k0 : Nat} {r0 : State} (s : State) (r : NpReq) (hr : Keeps k0 r0 s) (hm : Sub 274878038020 k0 := by exact hm.of (by decide)) : Keeps k0 r0 (State.npAccept s r) := by
  unfold State.npAccept
  repeat' first
    | with_reducible assumption
    | exact hm.of (by decide)
    | (extract_lets +onlyGivenNames y; have hy : Keeps k0 r0 y := ?_; clear_value y; rotate_left; subst y)
    | (extract_lets +onlyGivenNames y; have hy : Keeps k0 r0 y.1 := ?_; clear_value y; rotate_left; subst y)
    | (extract_lets +onlyGivenNames y; clear_value y)
    | (extract_lets +onlyGivenNames y; subst y)
    | with_reducible apply State.put_keeps
    | with_reducible apply State.cnt_keeps
    | with_reducible apply State.raise_keeps
    | with_reducible apply Keeps.ite
    | split
    | with_reducible apply Keeps.upd_host

theorem State.cfgWrite_keeps {k0 : Nat} {r0 : State} (s : State) (c : CfgOp) (hr : Keeps k0 r0 s) (hm : Sub 131072 k0 := by exact hm.of (by decide)) : Keeps k0 r0 (s.cfgWrite c) := by
  unfold State.cfgWrite
  split <;> first | exact Keeps.upd_host hr | exact hr

theorem State.npServe_keeps {k0 : Nat} {r0 : State} (s : State) (r : NpReq) (hr : Keeps k0 r0 s) (hm : Sub 827855093460 k0 := by exact hm.of (by decide)) : Keeps k0 r0 (s.npServe r) := by
  cases r with
  | read r => exact State.emit_keeps _ _ (State.busRead_keeps _ _ _ _ hr)
  | config c =>
    unfold State.npServe
    exact Keeps.ite (State.emit_keeps _ _ (State.cfgWrite_keeps _ _ hr)) (State.emit_keeps _ _ hr)

theorem State.npComplete_keeps {k0 : Nat} {r0 : State} (s : State) (hr : Keeps k0 r0 s) (hm : Sub 827855093460 k0 := by exact hm.of (by decide)) : Keeps k0 r0 (State.npComplete s) := by
  unfold State.npComplete
  repeat' first
    | with_reducible assumption
    | exact hm.of (by decide)
    | (extract_lets +onlyGivenNames y; have hy : Keeps k0 r0 y := ?_; clear_value y; rotate_left; subst y)
    | (extract_lets +onlyGivenNames y; have hy : Keeps k0 r0 y.1 := ?_; clear_value y; rotate_left; subst y)
    | (extract_lets +onlyGivenNames y; clear_value y)
    | (extract_lets +onlyGivenNames y; subst y)
    | with_reducible apply State.npServe_keeps
    | with_reducible apply State.npAccept_keeps
    | with_reducible apply Keeps.ite
    | split
    | with_reducible apply Keeps.upd_host

theorem execHostNpRequest_keeps {k0 : Nat} {r0 : State} (op : NpOp) (s : State) (hr : Keeps k0 r0 s) (hm : Sub 827855093460 k0 := by exact hm.of (by decide)) : KeepsO k0 r0 (execHostNpRequest op s) := by
  unfold execHostNpRequest
  repeat' first
    | with_reducible assumption
    | exact hm.of (by decide)
    | with_reducible apply KeepsO.next
    | with_reducible apply State.npAccept_keeps
    | with_reducible apply State.complete_keeps
    | with_reducible apply State.npComplete_keeps
    | with_reducible apply Keeps.ite
    | split
    | with_reducible apply Keeps.upd_host

theorem execFabricTimeout_keeps {k0 : Nat} {r0 : State} (kind : FabricErr) (a : Access) (s : State) (hr : Keeps k0 r0 s) (hm : Sub 14224925217790 k0 := by exact hm.of (by decide)) : KeepsO k0 r0 (execFabricTimeout kind a s) := by
  unfold execFabricTimeout
  repeat' first
    | with_reducible assumption
    | exact hm.of (by decide)
    | with_reducible apply KeepsO.next
    | (extract_lets +onlyGivenNames y; have hy : Keeps k0 r0 y := ?_; clear_value y; rotate_left; subst y)
    | (extract_lets +onlyGivenNames y; have hy : Keeps k0 r0 y.1 := ?_; clear_value y; rotate_left; subst y)
    | (extract_lets +onlyGivenNames y; clear_value y)
    | (extract_lets +onlyGivenNames y; subst y)
    | with_reducible apply State.advance_keeps
    | with_reducible apply State.err_keeps
    | with_reducible apply State.write_keeps
    | with_reducible apply State.drew_keeps
    | with_reducible apply Keeps.ite
    | split
    | with_reducible apply Keeps.upd_readData
    | with_reducible apply Keeps.upd_readData_freeIx

theorem State.rraSend_keeps {k0 : Nat} {r0 : State} (s : State) (p : EthPort) (octets : List Byte) (hr : Keeps k0 r0 s) (hm : Sub 536870980 k0 := by exact hm.of (by decide)) : Keeps k0 r0 (State.rraSend s p octets) := by
  unfold State.rraSend
  repeat' first
    | with_reducible assumption
    | exact hm.of (by decide)
    | with_reducible apply State.emit_keeps
    | with_reducible apply State.sendFrame_keeps
    | with_reducible apply Keeps.ite
    | split

theorem State.rraRej_keeps {k0 : Nat} {r0 : State} (s : State) (hr : Keeps k0 r0 s) (hm : Sub 4 k0 := by exact hm.of (by decide)) : Keeps k0 r0 (State.rraRej s) := by
  unfold State.rraRej
  repeat' first
    | with_reducible assumption
    | exact hm.of (by decide)
    | with_reducible apply State.cnt_keeps

theorem State.rraAccept_keeps {k0 : Nat} {r0 : State} (s : State) (p : EthPort) (o key : List Byte) (hr : Keeps k0 r0 s) (hm : Sub 275414777924 k0 := by exact hm.of (by decide)) : Keeps k0 r0 (State.rraAccept s p o key) := by
  unfold State.rraAccept
  repeat' first
    | with_reducible assumption
    | exact hm.of (by decide)
    | (extract_lets +onlyGivenNames y; have hy : Keeps k0 r0 y := ?_; clear_value y; rotate_left; subst y)
    | (extract_lets +onlyGivenNames y; have hy : Keeps k0 r0 y.1 := ?_; clear_value y; rotate_left; subst y)
    | (extract_lets +onlyGivenNames y; clear_value y)
    | (extract_lets +onlyGivenNames y; subst y)
    | with_reducible apply State.rraRej_keeps
    | with_reducible apply State.rraSend_keeps
    | with_reducible apply State.cnt_keeps
    | with_reducible apply State.withEth_keeps
    | with_reducible apply State.put_keeps
    | with_reducible apply State.raise_keeps
    | with_reducible apply Keeps.ite
    | split

theorem execRraRequest_keeps {k0 : Nat} {r0 : State} (p : EthPort) (octets : List Byte) (s : State) (hr : Keeps k0 r0 s) (hm : Sub 275414777924 k0 := by exact hm.of (by decide)) : KeepsO k0 r0 (execRraRequest p octets s) := by
  unfold execRraRequest
  repeat' first
    | with_reducible assumption
    | exact hm.of (by decide)
    | with_reducible apply KeepsO.next
    | (extract_lets +onlyGivenNames y; have hy : Keeps k0 r0 y := ?_; clear_value y; rotate_left; subst y)
    | (extract_lets +onlyGivenNames y; have hy : Keeps k0 r0 y.1 := ?_; clear_value y; rotate_left; subst y)
    | (extract_lets +onlyGivenNames y; clear_value y)
    | (extract_lets +onlyGivenNames y; subst y)
    | with_reducible apply State.rraRej_keeps
    | with_reducible apply State.cnt_keeps
    | with_reducible apply State.rraAccept_keeps
    | with_reducible apply State.put_keeps
    | with_reducible apply State.raise_keeps
    | with_reducible apply Keeps.ite
    | split

theorem State.rraWrites_keeps {k0 : Nat} {r0 : State} (s : State) (a : Nat) (l done : List Word) (hr : Keeps k0 r0 s) (hm : Sub 14224925217774 k0 := by exact hm.of (by decide)) :
    Keeps k0 r0 (s.rraWrites a l done).1 := by
  induction l generalizing s a done with
  | nil => exact hr
  | cons v t ih =>
    unfold State.rraWrites
    extract_lets +onlyGivenNames y
    have hy : Keeps k0 r0 y := State.busWrite_keeps _ _ _ _ _ (Keeps.upd_wrDrop hr)
    clear_value y
    split
    · exact hy
    · exact ih _ _ _ hy

theorem State.rraShown_keeps {k0 : Nat} {r0 : State} (s : State) (done : List Word) (n : Nat) (hr : Keeps k0 r0 s) (hm : Sub 128 k0 := by exact hm.of (by decide)) : Keeps k0 r0 (State.rraShown s done n).1 := by
  unfold State.rraShown
  repeat' first
    | with_reducible assumption
    | exact hm.of (by decide)
    | fail_if_no_progress dsimp -zeta only
    | with_reducible apply Keeps.upd_freeIx

theorem State.rraRun_keeps {k0 : Nat} {r0 : State} (s : State) (p : EthPort) (h : RraHead) (hr : Keeps k0 r0 s) (hm : Sub 14224925229054 k0 := by exact hm.of (by decide)) : Keeps k0 r0 (State.rraRun s p h).1 := by
  unfold State.rraRun
  repeat' first
    | with_reducible assumption
    | exact hm.of (by decide)
    | (extract_lets +onlyGivenNames y; have hy : Keeps k0 r0 y := ?_; clear_value y; rotate_left; subst y)
    | (extract_lets +onlyGivenNames y; have hy := fun a => y a; clear hy; subst y; beta_reduce)
    | (extract_lets +onlyGivenNames y; have hy : Keeps k0 r0 y.1 := ?_; clear_value y; rotate_left; subst y)
    | (extract_lets +onlyGivenNames y; clear_value y)
    | (extract_lets +onlyGivenNames y; subst y)
    | with_reducible apply State.busRead_keeps
    | with_reducible apply State.busWrite_keeps
    | with_reducible apply State.rraShown_keeps
    | with_reducible apply State.rraWrites_keeps
    | with_reducible apply Keeps.ite
    | split
    | fail_if_no_progress dsimp -zeta only
    | with_reducible apply Keeps.upd_wrDrop

theorem execRraExecute_keeps {k0 : Nat} {r0 : State} (s : State) (hr : Keeps k0 r0 s) (hm : Sub 14224925229054 k0 := by exact hm.of (by decide)) : KeepsO k0 r0 (execRraExecute s) := by
  unfold execRraExecute
  repeat' first
    | with_reducible assumption
    | exact hm.of (by decide)
    | with_reducible apply KeepsO.next
    | (extract_lets +onlyGivenNames y; have hy : Keeps k0 r0 y := ?_; clear_value y; rotate_left; subst y)
    | (extract_lets +onlyGivenNames y; have hy : Keeps k0 r0 y.1 := ?_; clear_value y; rotate_left; subst y)
    | (extract_lets +onlyGivenNames y; clear_value y)
    | (extract_lets +onlyGivenNames y; subst y)
    | with_reducible apply State.withEth_keeps
    | with_reducible apply State.rraRun_keeps
    | with_reducible apply State.cnt_keeps
    | with_reducible apply State.rraSend_keeps
    | with_reducible apply Keeps.ite
    | split
    | fail_if_no_progress dsimp -zeta only

theorem execCalSweep_keeps {k0 : Nat} {r0 : State} (m : List CalMeas) (s : State) (hr : Keeps k0 r0 s) (hm : Sub 2550153222 k0 := by exact hm.of (by decide)) : KeepsO k0 r0 (execCalSweep m s) := by
  unfold execCalSweep
  repeat' first
    | with_reducible assumption
    | exact hm.of (by decide)
    | with_reducible apply KeepsO.next
    | (extract_lets +onlyGivenNames y; have hy : Keeps k0 r0 y := ?_; clear_value y; rotate_left; subst y)
    | (extract_lets +onlyGivenNames y; have hy : Keeps k0 r0 y.1 := ?_; clear_value y; rotate_left; subst y)
    | (extract_lets +onlyGivenNames y; clear_value y)
    | (extract_lets +onlyGivenNames y; subst y)
    | with_reducible apply State.finish_keeps
    | with_reducible apply State.calTake_keeps
    | with_reducible apply State.calOver_keeps
    | with_reducible apply Keeps.ite
    | split

end Sys2Proof.Machine
end

