-- ==== Sys2Proof/Laws/Receive.lean ====
section
/-! SUPPORT. What a whole frame does at a receiver: its blocks, received one behind the other, are the frame taken at once. -/

namespace Sys2Proof.Machine

theorem State.rx_setRx (s : State) (n : Nat) (l : List (BitVec 64)) : ((s.setRx n l).lane n).rx = l := by
  simp only [State.setRx, State.setLane, State.lane, KMap.get_set_self]

theorem State.setRx_setRx (s : State) (n : Nat) (l k : List (BitVec 64)) : (s.setRx n l).setRx n k = s.setRx n k := by
  simp only [State.setRx, State.setLane, State.lane, KMap.get_set_self, KMap.set_set]

/-- Data blocks that do not complete the frame in progress are appended to it; the one that does hands it on. -/
theorem State.rxData_fold (s : State) (n : Nat) (c : BitVec 64) (l ds : List (BitVec 64)) (h0 : ds ≠ [])
    (h : l.length + ds.length = dataBlocks n c.toNat) :
    ds.foldl (fun (t : State) d => t.rxData n d) (s.setRx n (c :: l)) = (s.setRx n []).frameIn n (c :: l ++ ds) := by
  induction ds generalizing l with
  | nil => exact absurd rfl h0
  | cons d ds ih =>
    rw [List.foldl_cons]
    have e : (s.setRx n (c :: l)).rxData n d = if l.length + 1 = dataBlocks n c.toNat then (s.setRx n []).frameIn n (c :: l ++ [d])
        else s.setRx n (c :: (l ++ [d])) := by
      simp only [State.rxData, State.rx_setRx, State.setRx_setRx, List.cons_append]
    rw [e]
    rw [List.length_cons] at h
    cases ds with
    | nil => rw [if_pos (by simpa using h)]; rfl
    | cons x y =>
      rw [if_neg (by rw [List.length_cons] at h; omega), ih (l ++ [d]) (by simp) (by rw [List.length_append, List.length_singleton]; omega)]
      simp

/-- The blocks of one whole frame, whose control block names how many data blocks follow it, are that frame received. -/
theorem State.rxBlocks_frame (s : State) (n : Nat) (c : BitVec 64) (ds : List (BitVec 64)) (h0 : ds ≠ []) (h : ds.length = dataBlocks n c.toNat)
    (h1 : knownType n (c.toNat % 256) = true) (h2 : c.toNat % 256 ≠ 0x96) (h3 : c.toNat % 256 ≠ 0x3C) :
    s.rxBlocks n (c :: ds) = (s.setRx n []).frameIn n (c :: ds) := by
  have hd : dataBlocks n c.toNat ≠ 0 := by rw [← h]; exact fun e => h0 (List.length_eq_zero_iff.mp e)
  have e : s.rxControl n c = s.setRx n [c] := by
    simp only [State.rxControl, h2, h3, hd, h1, if_false, if_true]
  rw [State.rxBlocks, e, State.rxData_fold s n c [] ds h0 (by simpa using h)]
  rfl

end Sys2Proof.Machine
end

