-- ==== Sys2Proof/Laws/Shared.lean ====
section
/-! SUPPORT. Lemmas on the shared operations that several statements need: single writes and result reads, the engine's issue, image
verification, alias pages, results, the collector, occurrences, checksums, rollback counters, memory and time. -/

namespace Sys2Proof.Machine

open Sys2Proof

theorem State.guardExpire_idle (s : State) (k : Nat) (h : s.guard k = {}) : s.guardExpire k = s := by
  unfold State.guardExpire
  rw [h]

theorem State.writeWindow_single (s : State) (m : Master) (a : Nat) (v : Word) (hw : SameCycle) (h1 : isGuarded (canon a) = false) (h2 : twinOf (canon a) = none)
   (h3 : s.guard (a/0x10000) = {}) : s.writeWindow ⟨m, a, [(v, 0xF#4)]⟩ hw = (s.writeReg m a v hw).releaseHeld (a/0x10000) := by
  simp [State.writeWindow, State.guardExpire_idle s _ h3, State.judgeWrite, h3, State.writeIdle, BusWrite.sizeOk, BusWrite.touches, h1, h2, BusWrite.value]

theorem div4_mul4 {a : Nat} (h : a % 4 = 0) : a / 4 * 4 = a := by omega

theorem State.guard_setGuard (s : State) (k : Nat) (g : Guard) : (s.setGuard k g).guard k = g := by
  simp [State.guard, State.setGuard, KMap.get_set_self]

theorem isRes32_cases {c : Nat} (h : isRes32 c = true) (h4 : c % 4 = 0) : c ∈ resRegs ++ (List.range 8).map A.ADC_CH_RES ++ (List.range 16).map A.AUX_TEL := by
  simp only [isRes32, Bool.or_eq_true, Bool.and_eq_true, decide_eq_true_eq] at h
  rcases h with (h | h) | h
  · simp only [List.mem_append]; left; left; exact List.contains_iff_mem.mp h
  · simp only [List.mem_append]; left; right
    obtain ⟨⟨h1, h2⟩, h3⟩ := h
    simp only [List.mem_map, List.mem_range]
    refine ⟨(c - A.ADC_CH_RES 0) / 32, ?_, ?_⟩ <;> simp only [A.ADC_CH_RES] at * <;> omega
  · simp only [List.mem_append]; right
    obtain ⟨h1, h2⟩ := h
    simp only [List.mem_map, List.mem_range]
    refine ⟨(c - A.AUX_TEL 0) / 4, ?_, ?_⟩ <;> simp only [A.AUX_TEL] at * <;> omega

theorem State.readReg_result (s : State) (m : Master) {c : Nat} (hc : c ∈ resRegs ++ (List.range 8).map A.ADC_CH_RES ++ (List.range 16).map A.AUX_TEL) :
    s.readReg m c false = s.resRead c := by
  simp only [resRegs, List.range, List.range.loop, List.map, List.mem_append, List.mem_cons, List.not_mem_nil, or_false] at hc
  rcases hc with ((rfl|rfl|rfl)|(rfl|rfl|rfl|rfl|rfl|rfl|rfl|rfl))|(rfl|rfl|rfl|rfl|rfl|rfl|rfl|rfl|rfl|rfl|rfl|rfl|rfl|rfl|rfl|rfl) <;> rfl

theorem canon_mod4 (a : Nat) : canon a % 4 = 0 := by unfold canon; omega

theorem State.busRead_result (s : State) (m : Master) {a : Nat} (h0 : a % 4 = 0) (h1 : regionOf a = .regs) (h2 : isRes32 (canon a) = true)
    (h3 : s.answers m = true) : s.busRead m a 1 = s.resRead (canon a) := by
  unfold State.busRead
  simp only [div4_mul4 h0, h1, h3]
  rw [if_neg (by simp), if_neg (by simp), if_neg (by simp)]
  simp only [State.readList, State.readOne, h1, State.readReg_result s m (isRes32_cases h2 (canon_mod4 a))]
  rfl

theorem State.fifo_setFifo (s : State) (k : Nat) l : (s.setFifo k l).fifo k = l := by
  simp [State.fifo, State.setFifo, KMap.get_set_self]

theorem State.fifo_pairRead (s : State) m a w lo hi q k : (s.pairRead m a w lo hi q).fifo k = s.fifo k := by
  simp only [State.pairRead, State.unfresh]; split
  · split <;> rfl
  · rfl

theorem State.flt_of_advance (s : State) (n : Nat) : (s.advance n).flt = s.flt := by cases s; rfl

theorem State.flt_of_untilCtb (s : State) (n : Nat) : (s.untilCtb n).flt = s.flt := State.flt_of_advance s _

theorem State.mem_of_advance (s : State) (n : Nat) : (s.advance n).mem = s.mem := by cases s; rfl

theorem State.mem_of_untilCtb (s : State) (n : Nat) : (s.untilCtb n).mem = s.mem := State.mem_of_advance s _

theorem State.cme_of_advance (s : State) (n : Nat) : (s.advance n).cme = s.cme := by cases s; rfl

theorem State.cme_of_untilCtb (s : State) (n : Nat) : (s.untilCtb n).cme = s.cme := State.cme_of_advance s _

theorem State.yard_of_advance (s : State) (n : Nat) : (s.advance n).yard = s.yard := by cases s; rfl

theorem State.yard_of_untilCtb (s : State) (n : Nat) : (s.untilCtb n).yard = s.yard := State.yard_of_advance s _

theorem State.limY_untilCtb (s : State) (n : Nat) : (s.untilCtb n).limY = s.limY := by
  have h := State.yard_of_untilCtb s n
  generalize s.untilCtb n = t at *
  simp only [State.limY, State.cyclesY, State.perTicks, h]

theorem State.eng_congr (a b : State) (u : EngUnit) (h : a.cme = b.cme) : a.eng u = b.eng u := by
  cases u
  · unfold State.eng; simp only [h]
  · unfold State.eng; simp only [h]

theorem State.eng_untilCtb (s : State) (n : Nat) (u : EngUnit) : (s.untilCtb n).eng u = s.eng u := State.eng_congr _ _ u (State.cme_of_untilCtb s n)

theorem State.engReads_congr (a b : State) (u : EngUnit) (d : EInstr) (h : a.eng u = b.eng u) : a.engReads u d = b.engReads u d := by
  delta State.engReads
  rw [h]

theorem State.engReads_untilCtb (s : State) (n : Nat) (u : EngUnit) (d : EInstr) : (s.untilCtb n).engReads u d = s.engReads u d :=
  State.engReads_congr _ _ u d (State.eng_untilCtb s n u)

theorem State.poisonIn_untilCtb (s : State) (n a k : Nat) : (s.untilCtb n).poisonIn a k = s.poisonIn a k := by
  have h := State.flt_of_untilCtb s n
  generalize s.untilCtb n = t at *
  simp only [State.poisonIn, h]

theorem State.drain_untilCtb (s : State) (n : Nat) (u : EngUnit) (d : EInstr) : ((s.untilCtb n).eng u).drain d = (s.eng u).drain d := by
  rw [State.eng_untilCtb]

theorem State.issueAt_whole (s : State) (u : EngUnit) (d : EInstr) (h1 : d.op ≠ 1) (h2 : d.op ≠ 2)
    (h4 : s.poisonIn (progBase u + 8 * (s.eng u).pc) 8 = none) (h5 : (s.engReads u d).findSome? (fun r => s.poisonIn r.1 r.2) = none)
    (h6 : (s.eng u).cyc + (eCost d + (s.eng u).drain d) ≤ s.limY) : s.issueAt u d = (s.engOp u d).wentOn u d (eCost d + (s.eng u).drain d) := by
  simp only [State.issueAt, h4, h5, h1, h2, if_false, h6, if_true, State.issueDone, State.wentOn]

theorem State.issue_whole (s : State) (u : EngUnit) (d : EInstr) (h : s.issuesWhole u d = true) (h1 : d.op ≠ 1) (h2 : d.op ≠ 2) :
    s.issue u d.op = ((s.atCycle u).engOp u d).wentOn u d (eCost d + (s.eng u).drain d) := by
  simp only [State.issuesWhole, Bool.and_eq_true, decide_eq_true_eq, Bool.not_eq_true', Option.isNone_iff_eq_none] at h
  obtain ⟨⟨⟨⟨⟨g1, g2⟩, g3⟩, g4⟩, g5⟩, g6⟩ := h
  unfold State.issue
  rw [g2, if_neg (by rw [g1]; simp), if_neg (by rw [g3]; simp), State.issueAt_whole _ _ _ h1 h2, State.drain_untilCtb, State.atCycle]
  · rw [State.poisonIn_untilCtb, State.eng_untilCtb]; exact g4
  · rw [State.engReads_untilCtb]; simp only [State.poisonIn_untilCtb]; exact g5
  · rw [State.limY_untilCtb, State.eng_untilCtb]; exact g6

theorem EngSt.drain0 (x : EngU) (d : EInstr) (h : d.op ∉ [0x15, 0x17, 0x18]) : x.drain d = 0 := by
  unfold EngU.drain
  rw [if_neg]
  simpa using h

theorem State.issueAt_wait (s : State) (u : EngUnit) (d : EInstr)
    (h4 : s.poisonIn (progBase u + 8 * (s.eng u).pc) 8 = none) (h5 : (s.engReads u d).findSome? (fun r => s.poisonIn r.1 r.2) = none) :
    s.issueAt u d = if d.op = 1 then s.endRun u else if d.op = 2 then s.opWait u d else if (s.eng u).cyc + (eCost d + (s.eng u).drain d) ≤ s.limY then s.issueDone u d (eCost d + (s.eng u).drain d) else s.issueStuck u d (eCost d + (s.eng u).drain d) := by
  simp only [State.issueAt, h4, h5]

theorem State.issue_pre (s : State) (u : EngUnit) (d : EInstr) (h : s.issuesWhole u d = true) :
    s.issue u d.op = let s := s.atCycle u; if d.op = 1 then s.endRun u else if d.op = 2 then s.opWait u d else if (s.eng u).cyc + (eCost d + (s.eng u).drain d) ≤ s.limY then s.issueDone u d (eCost d + (s.eng u).drain d) else s.issueStuck u d (eCost d + (s.eng u).drain d) := by
  simp only [State.issuesWhole, Bool.and_eq_true, decide_eq_true_eq, Bool.not_eq_true', Option.isNone_iff_eq_none] at h
  obtain ⟨⟨⟨⟨⟨g1, g2⟩, g3⟩, g4⟩, g5⟩, g6⟩ := h
  unfold State.issue
  rw [g2, if_neg (by rw [g1]; simp), if_neg (by rw [g3]; simp), State.issueAt_wait, State.atCycle]
  · rw [State.poisonIn_untilCtb, State.eng_untilCtb]; exact g4
  · rw [State.engReads_untilCtb]; simp only [State.poisonIn_untilCtb]; exact g5

theorem State.imageRun_eq (s t : State) (row : ImgRow) (ue : Option (BitVec 29)) (i : Image) (act : State → Image → State)
    (h1 : s.cmdIs 0x20 = true) (h2 : s.imgRow = row) (h3 : s.cmdArg 0 % 0x10000 = 0) (h4 : inFlash (s.cmdArg 0) 0x10000 = true)
    (h5 : i = s.image (s.cmdArg 0)) (h6 : t = ue.elim (s.flashWell i.addr i.size) (fun x => s.flashUe 9 x.toNat)) :
    s.imageRun row ue act =
      if t.imageCheck i (t.cmdArg 1 % 256) ue.isSome ≠ 0 then t.imageFail (t.imageCheck i (t.cmdArg 1 % 256) ue.isSome)
      else if t.actionCheck i ≠ 0 then t.imageFail (t.actionCheck i) else act t i := by
  subst h5
  unfold State.imageRun
  simp only [h1, h2, h3, h4, Bool.not_true, ne_eq, not_true_eq_false, decide_false, Bool.or_self, Bool.false_eq_true, if_false]
  cases ue <;>
    (simp only [Option.elim] at h6; subst h6; simp only []
     split_ifs <;> simp_all)

theorem cntSum_zero (old : Word) (f : FieldSpec) (h : f.lo + f.len ≤ 32) :
    cntSum f (old.toNat >>> f.lo % 2 ^ f.len) 0#32 = old &&& f.mask := by
  unfold cntSum FieldSpec.mask
  have hl : old.toNat >>> f.lo % 2 ^ f.len < 2 ^ f.len := Nat.mod_lt _ (by positivity)
  have : min (old.toNat >>> f.lo % 2 ^ f.len + (BitVec.toNat 0#32 >>> f.lo) % 2 ^ f.len) (2 ^ f.len - 1) = old.toNat >>> f.lo % 2 ^ f.len := by
    simp; omega
  rw [this]
  apply BitVec.eq_of_getLsbD_eq
  intro i hi
  simp only [BitVec.getLsbD_shiftLeft, BitVec.getLsbD_and, BitVec.getLsbD_ofNat, Nat.testBit_mod_two_pow, Nat.testBit_shiftRight, Nat.testBit_two_pow_sub_one]
  by_cases h1 : i < f.lo
  · simp [h1]
  · have h2 : f.lo + (i - f.lo) = i := by omega
    have h3 : i - f.lo < 32 := by omega
    simp [h1, h2, h3, hi, BitVec.getLsbD, Bool.and_comm]

theorem canon_alias {a al : Nat} (h1 : al < 4) (h3 : a / 0x4000 % 4 = 0) : canon (a + 0x4000 * al) = canon a := by
  unfold canon; omega

theorem RegMap.block_alias {a al : Nat} (h1 : al < 4) (h3 : a / 0x4000 % 4 = 0) :
    (RegMap.block (a + 0x4000 * al)).map (fun x => x.1) = (RegMap.block a).map (fun x => x.1) := by
  have hb : ∀ b ∈ RegMap.blocks, b.base % 0x10000 = 0 := by decide
  unfold RegMap.block
  rw [Option.map_map, Option.map_map]
  have : RegMap.blocks.find? (fun b => b.base ≤ a + 0x4000 * al && a + 0x4000 * al < b.base + b.count * 0x10000) =
      RegMap.blocks.find? (fun b => b.base ≤ a && a < b.base + b.count * 0x10000) := by
    apply List.find?_congr
    intro b hbm
    have := hb b hbm
    rw [Bool.eq_iff_iff]
    simp only [Bool.and_eq_true, decide_eq_true_eq]
    omega
  rw [this]
  rfl

theorem regionOf_alias {a al : Nat} (h1 : al < 4) (h2 : a < 0x800000) (h3 : a / 0x4000 % 4 = 0) (h : regionOf a = .regs) : regionOf (a + 0x4000 * al) = .regs := by
  have e2 : (a + 0x4000 * al) / 0x1000 % 4 = a / 0x1000 % 4 := by omega
  have e3 : a + 0x4000 * al < 0x800000 := by omega
  have e4 := RegMap.block_alias h1 h3
  unfold regionOf at h ⊢
  rw [if_pos h2] at h
  rw [if_pos e3, e2]
  revert e4 h
  cases RegMap.block a with
  | none => simp
  | some x =>
    cases hh : RegMap.block (a + 0x4000 * al) with
    | none => simp
    | some y => obtain ⟨y1, y2, y3⟩ := y; obtain ⟨x1, x2, x3⟩ := x; simp; intro h e; subst e; exact h

theorem State.res_complete (s : State) (a v : Nat) : (s.complete a v).res a = ⟨v, ((s.res a).seq + 1) % 256, true, false⟩ := by
  simp [State.complete, State.res, State.setRes, KMap.get_set_self]

theorem State.reg_fltCount_zero (s : State) {c : Nat} (g : ∀ x, x / 0x10000 = 3 → x ≠ 0x3001C → c ≠ x) : (s.fltCount 0).reg c = s.reg c := by
  unfold State.fltCount
  dsimp only
  split
  · simp (disch := exact g _ (by decide) (by decide)) only [State.reg_raise_of_ne, State.reg_setBitOf_of_ne, State.reg_cnt_of_ne, State.reg_put_of_ne, State.reg_setReg_of_ne, State.reg_mk, State.reg_fold]
  · split <;> simp (disch := exact g _ (by decide) (by decide)) only [State.reg_raise_of_ne, State.reg_setBitOf_of_ne, State.reg_cnt_of_ne, State.reg_put_of_ne, State.reg_setReg_of_ne, State.reg_mk, State.reg_fold]

theorem State.reg_fltRecord (s : State) (x : FltErr) {c : Nat} (g : ∀ x, x / 0x10000 = 3 → x ≠ 0x3001C → c ≠ x) : (s.fltRecord x).reg c = s.reg c := by
  unfold State.fltRecord
  simp (disch := exact g _ (by decide) (by decide)) only [State.reg_put_of_ne, State.reg_setReg_of_ne, State.reg_mk, State.reg_fold]

theorem State.reg_fltCapture (s : State) (e : Err) (m acc a : Nat) {c : Nat} (g : ∀ x, x / 0x10000 = 3 → x ≠ 0x3001C → c ≠ x) : (s.fltCapture e m acc a).reg c = s.reg c := by
  unfold State.fltCapture
  dsimp only
  split
  · simp (disch := exact g _ (by decide) (by decide)) only [State.reg_raise_of_ne, State.reg_fltRecord _ _ g, State.reg_mk, State.reg_fold]
  · split <;> simp (disch := exact g _ (by decide) (by decide)) only [State.reg_fltRecord _ _ g, State.reg_cnt_of_ne, State.reg_mk, State.reg_fold]

theorem State.reg_err (s : State) (e : Err) (he : e.cls = 0) (m acc a : Nat) {c : Nat} (g : ∀ x, x / 0x10000 = 3 → x ≠ 0x3001C → c ≠ x) : (s.err e m acc a).reg c = s.reg c := by
  cases e <;> first | (exact absurd he (by decide)) | (unfold State.err; rw [he]; simp only []; rw [State.reg_fltCapture _ _ _ _ _ g, State.reg_fltCount_zero _ g])

theorem State.on_of_reg {s t : State} {f : Fld} (h : s.reg f.reg = t.reg f.reg) (g : t.on f = true) : s.on f = true := by
  simp only [State.on, State.get, h] at *; exact g

theorem Occ.mem_insert (o x : Occ) (l : List Occ) : x ∈ Occ.insert o l ↔ x = o ∨ x ∈ l := by
  induction l with
  | nil => simp [Occ.insert]
  | cons y t ih => unfold Occ.insert; split <;> simp [ih]; tauto

theorem Occ.length_insert (o : Occ) (l : List Occ) : (Occ.insert o l).length = l.length + 1 := by
  induction l with
  | nil => rfl
  | cons y t ih => unfold Occ.insert; split <;> simp [ih]

theorem crcSteps_lt (poly : Nat) (hp : poly < 2 ^ 32) : ∀ n c, c < 2 ^ 32 → crcSteps poly n c < 2 ^ 32 := by
  intro n
  induction n with
  | zero => intro c h; exact h
  | succ n ih =>
    intro c h
    unfold crcSteps
    apply ih
    split
    · exact Nat.xor_lt_two_pow (by omega) hp
    · omega

theorem crcBytes_lt (poly : Nat) (hp : poly < 2 ^ 32) : ∀ (l : List Byte) c, c < 2 ^ 32 → crcBytes poly l c < 2 ^ 32 := by
  intro l
  induction l with
  | nil => intro c h; exact h
  | cons b t ih =>
    intro c h
    unfold crcBytes
    exact ih _ (crcSteps_lt poly hp 8 _ (Nat.xor_lt_two_pow h (by have := b.isLt; omega)))

theorem crc32c_lt (l : List Byte) : crc32c l < 2 ^ 32 :=
  Nat.xor_lt_two_pow (crcBytes_lt _ (by decide) l _ (by decide)) (by decide)

theorem ofBytesLE_lt (l : List Byte) : ofBytesLE l < 256 ^ l.length := by
  induction l with
  | nil => simp [ofBytesLE]
  | cons b t ih => have := b.isLt; simp only [ofBytesLE, List.length_cons, pow_succ]; omega

theorem leAt_lt_pow (l : List Byte) (o n : Nat) : leAt l o n < 256 ^ n :=
  lt_of_lt_of_le (ofBytesLE_lt _) (Nat.pow_le_pow_right (by omega) (by simp))

theorem SEC_ROLLBACK_reg_ne {k j : Nat} (h : j ≠ k) (hk : 1 ≤ k) (hj : 1 ≤ j) : (F.SEC_ROLLBACK (j - 1)).reg ≠ (F.SEC_ROLLBACK (k - 1)).reg := by
  simp only [F.SEC_ROLLBACK]; omega

theorem SEC_ROLLBACK_reg_ne_evt {j : Nat} (hj : j ≤ 6) (x : Nat) (hx : x = Base.SEC + 0x10 ∨ x = F.SEC_FAULT_STAT_TACK_WR_FAIL.reg) : (F.SEC_ROLLBACK (j - 1)).reg ≠ x := by
  simp only [F.SEC_ROLLBACK, Base.SEC, F.SEC_FAULT_STAT_TACK_WR_FAIL] at *; omega

theorem State.rollbackOf_tackFail (s : State) {j : Nat} (hj : j ≤ 6) : s.tackFail.rollbackOf j = s.rollbackOf j := by
  unfold State.tackFail State.rollbackOf
  rw [State.get_raise_of_ne _ _ (SEC_ROLLBACK_reg_ne_evt hj _ (.inl rfl)), State.get_put_of_reg_ne _ _ (SEC_ROLLBACK_reg_ne_evt hj _ (.inr rfl))]

theorem State.rollbackOf_put_raise (s : State) {k j r : Nat} (hk : 1 ≤ k) (hj : 1 ≤ j) (hj6 : j ≤ 6) (hr : r < 2 ^ 32) :
    ((s.put (F.SEC_ROLLBACK (k - 1)) r).raise Base.SEC 6).rollbackOf j = if j = k then r else s.rollbackOf j := by
  unfold State.rollbackOf
  rw [State.get_raise_of_ne _ _ (SEC_ROLLBACK_reg_ne_evt hj6 _ (.inl rfl))]
  split
  · rename_i h; subst h
    rw [State.get_put_self _ _ _ (by simp [F.SEC_ROLLBACK])]
    simp only [F.SEC_ROLLBACK]; omega
  · rename_i h
    rw [State.get_put_of_reg_ne _ _ (SEC_ROLLBACK_reg_ne h hk hj)]

theorem State.reg_storeBytes (l : List Byte) : ∀ (s : State) (a c : Nat), (s.storeBytes a l).reg c = s.reg c := by
  induction l with
  | nil => intro s a c; rfl
  | cons b t ih => intro s a c; unfold State.storeBytes; rw [ih, State.reg_setByte]

theorem State.map_byte_store (s : State) (a n v : Nat) : (List.range n).map (fun i => (s.store a n v).byte (a + i)) = bytesLE n v := by
  apply List.ext_getElem
  · simp [bytesLE_length]
  · intro i h1 h2
    simp only [List.getElem_map, List.getElem_range]
    exact State.byte_storeBytes_get _ _ _ _ (by simpa [bytesLE_length] using h1)

theorem ofBytesLE_bytesLE (n : Nat) : ∀ v, ofBytesLE (bytesLE n v) = v % 2 ^ (8 * n) := by
  induction n with
  | zero => intro v; simp [bytesLE, ofBytesLE, Nat.mod_one]
  | succ n ih =>
    intro v
    simp only [bytesLE, ofBytesLE, ih, BitVec.toNat_ofNat]
    rw [show 8 * (n + 1) = 8 + 8 * n from by omega, pow_add, Nat.mod_mul]; norm_num

theorem scaled_add (m n : Nat) (r : Int) : scaled (m + n) r = scaled m r + scaled n r := by
  unfold scaled
  rcases le_or_gt 0 ((unit40 : Int) + r) with h | h
  · rw [← Int.toNat_add (mul_nonneg (by positivity) h) (mul_nonneg (by positivity) h), ← add_mul]; push_cast; rfl
  · have g : ∀ k : Nat, ((k : Int) * ((unit40 : Int) + r)).toNat = 0 := fun k => Int.toNat_of_nonpos (mul_nonpos_of_nonneg_of_nonpos (by positivity) h.le)
    simp only [g]

theorem calendar_add (m n : Nat) (r : Int) : (((m + n : Nat) : Int) * 32768 * (100000000 + r)).toNat = ((m : Int) * 32768 * (100000000 + r)).toNat + ((n : Int) * 32768 * (100000000 + r)).toNat := by
  rcases le_or_gt 0 (100000000 + r) with h | h
  · rw [← Int.toNat_add (mul_nonneg (by positivity) h) (mul_nonneg (by positivity) h), ← add_mul, ← add_mul]; push_cast; rfl
  · have g : ∀ k : Nat, ((k : Int) * 32768 * (100000000 + r)).toNat = 0 := fun k => Int.toNat_of_nonpos (mul_nonpos_of_nonneg_of_nonpos (by positivity) h.le)
    simp only [g]

theorem b2n_lt (b : Bool) : b2n b < 2 := by cases b <;> decide

/-- A full write of a register of plain RW fields whose block is not locked: every field takes its written bits, and the register's own rule
follows (R13, R16, R18). -/
theorem State.writeReg_rw (s : State) (m : Master) (c : Nat) (v : Word) (fs : List FieldSpec) (h0 : canon c = c) (h1 : aliasOf c = 0)
    (h2 : ∀ t : State, t.diverted m c c v = none) (h3 : fieldsAt c = fs) (h4 : w1cMask fs = 0#32) (h5 : isAuxHeld c = false)
    (h6 : isBackupReg c = false) (h7 : isDesc c = false) (h8 : c % 0x10000 ≠ 0x1C) (h9 : c % 0x10000 ≠ 0x10)
    (h10 : s.on (F.cfgLock (baseOf c)) = false) (h11 : workBlock c = false) (h12 : ownBits c = 0#32)
    (h13 : ∀ w, fieldsWrite fs false 0 v (s.reg c) 0#32 { w1cSet := w } = fieldsWrite fs false 0 v (s.reg c) 0#32 {}) :
    s.writeReg m c v {} = State.written s (s.setReg c (fieldsWrite fs false 0 v (s.reg c) 0#32 {})) c 0 v := by
  have hit (w : Word) (k : Word) : v &&& w &&& 0#32 &&& ~~~ k = 0#32 := by simp
  have hh (t : State) (w : Word) : t.hwRaised c w = t := by simp [State.hwRaised, h8, h9]
  have hk (t : State) : t.countRefused (baseOf c) 0 = t := by unfold State.countRefused; split <;> rfl
  have hc (t : State) : t.clearedBits c 0#32 = t := by simp [State.clearedBits]
  have hb : bitIndices 32 (0#32).toNat = [] := by decide
  have e1 : v &&& ~~~ (0#32) = v := BitVec.and_allOnes
  unfold State.writeReg
  simp only [h0, h1, h2, h3, h4, h5, h10, h11, h12, Bool.false_eq_true, if_false, if_true, State.placeReg, h6, hh, h7, lockedHit, Bool.false_and, hit]
  simp only [hb, List.filter_nil, List.length_nil, List.foldl_nil, hk, BitVec.zero_and, hc]
  have e2 : s.pendFresh c {} = { w1cSet := (s.pendFresh c {}).w1cSet } := by unfold State.pendFresh; split <;> rfl
  rw [BitVec.and_zero, e1, e2, h13]

end Sys2Proof.Machine
end

