-- ==== Sys2Proof/WellFormed.lean ====
section
/-! DEFINITION. Which commands are well formed: operands inside the ranges the hardware gives them. A table operand that a type already
bounds (a stall, a lane, a port, an address of BAR0) needs no check here. The types of Instr are wide where the hardware's own field is
not a power of two or a list of fixed length. `exec` is total and does not ask for `wf`. -/

namespace Sys2Proof

/-- A write: 1 to 64 dwords (256 bytes, the larger payload size of R15 and PCIE_STAT), inside BAR0; one whole word for the supervisor's
pending set (R338). -/
def WriteReq.ok (w : WriteReq) : Bool :=
  match w.target with
  | .bar0 a => 1 ≤ w.words.length && w.words.length ≤ 64 && a.toNat / 4 + w.words.length ≤ 0x400000
  | .svPending _ => w.master ≠ .host && w.words.length = 1 && w.words.all (fun x => x.2 = 0xF#4)

/-- A read: 1 to 1,024 dwords (the 4 KiB of a PCI Express read request), inside BAR0 (R15, R26). -/
def ReadReq.ok (r : ReadReq) : Bool := 1 ≤ r.len && r.len ≤ 1024 && r.addr.toNat / 4 + r.len ≤ 0x400000

/-- An access is well formed where its read or write is. -/
def Access.ok (a : Access) : Bool :=
  match a with
  | .read r => r.ok
  | .write w => w.ok

/-- Non-posted requests come from the PCIe host (R26). -/
def NpOp.ok (o : NpOp) : Bool :=
  match o with
  | .request (.read r) => r.ok && r.master = .host
  | .request (.config _) => true
  | .complete => true

/-- An eight-bit field. -/
def wfByte (n : Nat) : Bool := n < 256

/-- A 64-bit field: a clockIdentity or a stamp of TB2. -/
def wf64 (n : Nat) : Bool := n < 18446744073709551616

/-- A logMessageInterval: a signed octet of IEEE 1588. -/
def wfLog (i : Int) : Bool := -128 ≤ i && i ≤ 127

/-- A correctionField or a turnaround: 64 bits, signed. -/
def wfInt64 (i : Int) : Bool := -9223372036854775808 ≤ i && i ≤ 9223372036854775807

/-- A Sync: the widths of the fields of IEEE 1588 (R213). -/
def SyncMsg.ok (m : SyncMsg) : Bool :=
  wfByte m.domain && wf64 m.source && wfInt64 m.corr && wfLog m.logInt && wf64 m.stamp

/-- An Announce: the widths of the fields of IEEE 1588 (R213). -/
def AnnMsg.ok (m : AnnMsg) : Bool :=
  wfByte m.domain && wf64 m.source && wfByte m.p1 && wfByte m.cls && wfByte m.acc && m.var < 65536 && wfByte m.p2 &&
    wf64 m.gm && m.steps < 65536 && wfLog m.logInt && -32768 ≤ m.utcOffset && m.utcOffset ≤ 32767

/-- A Pdelay_Req: the widths of its fields. -/
def PdReq.ok (m : PdReq) : Bool := m.seq < 65536 && wf64 m.source && wf64 m.stamp

/-- A Pdelay_Resp: the widths of its fields. -/
def PdResp.ok (m : PdResp) : Bool := m.seq < 65536 && wfInt64 m.turn && wf64 m.stamp

/-- A PTP frame at the transparent clock: the widths of its fields. -/
def TcFrame.ok (f : TcFrame) : Bool := wfByte f.domain && wfInt64 f.corr && wf64 f.stamp

/-- Training measures at most the four rows of a rate (R103). -/
def TrainMeas.ok (m : TrainMeas) : Bool := m.rows.length ≤ 4

/-- An Ethernet frame: MAC addresses of 48 bits, 16-bit sequence numbers, octets within what a length field can say (R229, R232, R233);
a frame outside the lengths of R229 is well formed, and is discarded. -/
def EthFrame.ok (f : EthFrame) : Bool :=
  f.octets < 65536 && f.src < 281474976710656 && f.rct.all (fun x => x.1 < 65536) && f.tag.all (fun x => x < 65536) &&
    (match f.kind with | .udp p => p < 65536 | _ => true)

/-- A CAN frame: an 11-bit identifier where it has the base format, at most 64 octets, RTR only in classical frames (ISO 11898-1). -/
def CanRx.ok (f : CanRx) : Bool :=
  (f.ide || f.id.toNat < 2048) && f.data.length ≤ 16 && !(f.fdf && f.rtr)

/-- A window of a group has one entry for each of its three phases (R282). -/
def PhaseWindow.ok (w : PhaseWindow) : Bool := w.d.length = 3 && w.sigma.length = 3 && w.change.length = 3

/-- A sweep derives OFFS and GTRIM at each of the four gains (R266). -/
def CalMeas.ok (m : CalMeas) : Bool := m.trims.length = 4

/-- A PCIe link of the endpoint: speeds 1 to 3, widths 1, 2 and 4 (PCIE_STAT, chapter 01). -/
def wfLink (speed width : Nat) : Bool := 1 ≤ speed && speed ≤ 3 && (width = 1 || width = 2 || width = 4)

/-- A frame of a lane: its control block and its data blocks (R59), at most the 34 blocks of a POUT frame of 128 words (R369). -/
def wfFrame (f : List (BitVec 64)) : Bool := 2 ≤ f.length && f.length ≤ 34

/-- The octets of a request fit a UDP datagram. -/
def wfOctets (l : List Byte) : Bool := l.length ≤ 65507

/-- A filtered result is formed from 2^FILT conversions, FILT 0 to 6 (R259). -/
def wfRaw (l : List (BitVec 16)) : Bool := 1 ≤ l.length && l.length ≤ 64

/-- The 16 temperature sensors are measured together. -/
def wfTemps (l : List Int) : Bool := l.length = 16

/-- Which commands are well formed. -/
def wf (c : Instr) : Bool :=
  match c with
  | .registerWrite w _ => w.ok
  | .unmappedAccess a => a.ok
  | .lockWrite w => w.ok
  | .guardedPrimaryWrite w => w.ok
  | .guardTwinWrite w => w.ok
  | .resultRead r _ => r.ok
  | .hostNpRequest op => op.ok
  | .pcieLinkUp speed width _ _ => wfLink speed width
  | .stallRecordWrite w => w.1.ok
  | .uplinkReceived _ f => wfFrame f
  | .mrspReceived _ f => wfFrame f
  | .laneTrainComplete _ m => m.ok
  | .engineRamWrite w => w.ok
  | .paddockRamWrite w => w.ok
  | .ptpSyncRx m => m.ok
  | .ptpAnnounceRx m => m.ok
  | .pdelayReqRx m => m.ok
  | .pdelayRespRx m => m.ok
  | .tcForward f => f.ok
  | .timeFifoPop r => r.ok
  | .backupWrite w => w.ok
  | .rtcLogRead r => r.ok
  | .ethFrameRx f => f.ok
  | .rraRequest _ octets => wfOctets octets
  | .canRxFrame _ f => f.ok
  | .rxTopPop r => r.ok
  | .adcResult _ raw => wfRaw raw
  | .adcFifoPop r => r.ok
  | .adcWindowWrite w => w.ok
  | .calSweep m => m.all CalMeas.ok
  | .tempMeasure t => wfTemps t
  | .syncLockChange _ trips => !trips.isEmpty
  | .phaseWindowEnd _ w => w.ok
  | .telemetryWindow _ samples => !samples.isEmpty
  | .fabricTimeout _ a => a.ok
  | .evtLogPop r => r.ok
  | .pstatRx _ f => wfFrame f
  | .poutRx _ f => wfFrame f
  | .guardTimeout .. | .pcieReset .. | .aerError .. | .msixUnmask .. | .cmdNop | .cmdBadOpcode | .cmdComplete | .cmdTimeout
  | .svrRestartRequest | .svrRestartBegin | .svrWatchdogRestart | .svrRestartEnd .. | .yardCheck | .yardCheckComplete | .yardStart
  | .yardStop | .yardEnterRun | .yardEnterStopping | .yardStopComplete | .stallInsertRequest .. | .stallRemoveRequest ..
  | .stallLastingClear .. | .periodBoundary | .uplinkCutoff .. | .mgmtRequest .. | .mgmtTimeout .. | .insertReadyTimeout ..
  | .prechargeTimeout .. | .removalComplete .. | .schedTransmit .. | .laneEnable .. | .lanePark .. | .lanePllLock .. | .laneAdapt ..
  | .applyEq .. | .laneLastingClear .. | .laneRetryTimeout .. | .blockLockLoss .. | .blockLockGain .. | .relockTimeout ..
  | .alignmentMarker .. | .markerMissing .. | .markerIntervalEnd .. | .echoTimer .. | .echoRspReceived .. | .echoLost .. | .edgeCommit
  | .edgeCutoff | .reloadEdge | .balanceDelivery .. | .commandDeadline .. | .scheduleCompute | .armResetRequest .. | .nop ..
  | .endRun .. | .wait .. | .waitEvent .. | .loop .. | .brf .. | .setx .. | .ldc .. | .lds .. | .sts .. | .gath .. | .scat .. | .mark ..
  | .wra .. | .mvm .. | .vmac .. | .vmacc .. | .obs .. | .accl .. | .wb .. | .lim .. | .sat .. | .preset .. | .sel .. | .vadd ..
  | .red .. | .cmp .. | .illegalOpcode .. | .cmeOverrun .. | .programCheck | .programCheckComplete | .armRestoreRequest ..
  | .presetRequest .. | .debugHalt | .breakpointHit | .debugStep | .debugRelease | .groomScrub .. | .warmupEnd | .paddockLoad
  | .paddockCompareHandover | .paddockReport | .paddockEnd .. | .paddockRollback | .paddockCompareEnd | .paddockHandover
  | .retainExpiry .. | .healthLog | .timeSnap | .tbWrap .. | .align | .ctbAutoAlign | .ctbServoUpdate | .ptpEnable .. | .pdelayTimer
  | .syncTimeout .. | .announceTimeout .. | .domainHoldoverExpiry .. | .compareFire .. | .syncInCapture .. | .calCorrection ..
  | .calTrim .. | .calSet | .backupWriteDone | .tamperInput | .backupLow .. | .backupStop .. | .backupStart .. | .rtcAlarm
  | .e12Enable .. | .ethLinkChange .. | .sfpChange .. | .supervisionTimer | .lanFaultTimeout .. | .nodeForgetExpiry .. | .ringOpen
  | .rraExecute | .canEnable .. | .txPush .. | .txCancel .. | .canTxAck .. | .canTxFail .. | .collisionHoldExpiry .. | .canRecover ..
  | .canRecoveryDone .. | .canBasicCycle .. | .canTtMiss .. | .canMasterResume .. | .adcStart .. | .adcTrigger .. | .vrefxMeasure ..
  | .comparatorTrip .. | .comparatorRelease .. | .feedJudge .. | .bus54vLow .. | .bus12vLow .. | .groupEnable .. | .softStartComplete ..
  | .softStartFail .. | .groupOutputFault .. | .hiccupExpiry .. | .groupLatchClear .. | .phaseReadmit .. | .loopEnable ..
  | .loopControlUpdate .. | .loopRetry .. | .loopLatchClear .. | .peakClr | .gdrvXcmd .. | .gdrvSenseTrip .. | .gdrvBstUv ..
  | .gdrvRefresh .. | .gdrvLatchRelease .. | .gdrvDisabledClear .. | .pwmChannelEnable .. | .pwmCommit .. | .pwmCutoff ..
  | .pwmReload .. | .pwmSync .. | .pwmTrip .. | .pwmBlankEnd .. | .pwmTripClear .. | .safetyCycle .. | .safetyInputChange ..
  | .siDiscrepancy .. | .feedbackChange .. | .fbMismatch .. | .disagree .. | .brokenLine .. | .brokenLineHeal .. | .restartWindowLong
  | .cstopComplete | .lockoutLoopOff | .hostHaltRequest | .hostCstopRequest | .fabricClockLoss | .rootPllRelock | .rstInChange ..
  | .resetHeld | .resetStuck | .lockoutReset .. | .proofRun | .proofTest .. | .proofOverdue | .powerUpTestsDone .. | .capClr
  | .fabricProbe .. | .eventDelivery | .eoi .. | .msixHoldoffExpiry .. | .evtSw .. | .flashErase .. | .flashProgram .. | .imageVerify ..
  | .imageStage .. | .laneTableApply .. | .adcCalApply .. | .fenceParamApply .. | .ownershipApply .. | .attestSign .. | .readIdentity
  | .stationSet .. | .stationErase .. | .indexStatus | .tackBadSubop | .treeGenerated | .confirm .. | .trialTimeout
  | .fenceConfirmation .. | .fenceConfirmationDone .. | .fpendDiscard | .pairEnable .. | .forceLead | .pairLinkLoss | .digestUpdate ..
  | .digestMismatch .. | .withdraw | .powerOn .. | .moduleResetRelease .. | .resetInputAssert | .resetInputRelease
  | .serviceButtonChange .. | .serviceButtonHeld | .serviceButtonStuck | .serviceButtonUnstick | .moduleReset | .echoReceived ..
  | .blockReceived .. | .tamperInputRelease | .svrDebugHalt | .svrDebugRelease | .bus54vReturn .. | .canBusError .. | .soOverload ..
  | .bootNoBank .. | .adcSettled .. | .pcieConfigReady | .tripInputChange .. => true

end Sys2Proof
end

