-- ==== Sys2Proof/Tests/Slice0.lean ====
section
/-! SUPPORT. The model's own tests: ill-formed commands that `wf` refuses, small steps on worked examples of the spec, and for every
statement with hypotheses a concrete state that meets them. -/

set_option Elab.async false

open Sys2Proof Sys2Proof.Machine

/-- A helper of the tests: the state at reset with register fields put. -/
def withFields (l : List (Fld × Nat)) : State := l.foldl (fun s x => s.put x.1 x.2) State.reset

/-- A helper of the tests: both units run, the next word of the live unit being the word of opcode `op` with every other field 0. -/
def engAt (op : Nat) : State :=
  State.store { withFields [(F.YARD_STAT_STATE, 2)] with
    yard := { State.reset.yard with half := 20 }
    cme := { State.reset.cme with u0 := { State.reset.cme.u0 with run := .running, cyc := 8 }
                                  u1 := { State.reset.cme.u1 with run := .running, cyc := 8 } } } 0xC00000 8 (op * 2 ^ 56)


/-- A helper of the tests: flash bank 1 holds an image header that names kind `k`. -/
def flashKind (k : Nat) : State :=
  { State.reset with flash := { State.reset.flash with bytes := [(0x10000006, BitVec.ofNat 8 k)] } }

/-- A helper of the tests: a confirmation of no alarm, whose snapshot holds one comparator word. -/
def confReady : State :=
  { withFields [(F.SAFE_STAT_STATE, safeNormal)] with upd := { State.reset.upd with
    fconf := some ⟨0, BitVec.ofNat 32 (setCrc [(0xC2000, 0)]), [(0xC2000, 0)], setCrc [(0xC2000, 0)], setCrc [(0xC2000, 0)], false, false⟩ } }

/-! ### Ill-formed commands -/

/-- A helper of the tests: a host write of one word to address `a`. -/
def hostWrite (a : BitVec 24) (v : Word) : WriteReq := ⟨.host, .bar0 a, [(v, 0xF#4)]⟩

theorem test_wf_write : wf (.registerWrite (hostWrite 0x24 1) {}) = true := by decide
theorem test_wf_no_words : wf (.registerWrite ⟨.host, .bar0 0x24, []⟩ {}) = false := by decide
theorem test_wf_past_bar0 : wf (.engineRamWrite ⟨.host, .bar0 0xFFFFFC, [(1, 0xF#4), (2, 0xF#4)]⟩) = false := by decide
theorem test_wf_pending_from_host : wf (.registerWrite ⟨.host, .svPending 0, [(1, 0xF#4)]⟩ {}) = false := by decide
theorem test_wf_read_none : wf (.evtLogPop ⟨.host, 0, 0⟩) = false := by decide
theorem test_wf_read_long : wf (.unmappedAccess (.read ⟨.host, 0, 1025⟩)) = false := by decide
theorem test_wf_np_master : wf (.hostNpRequest (.request (.read ⟨.supervisor, 0, 1⟩))) = false := by decide
theorem test_wf_link_speed : wf (.pcieLinkUp 4 4 false 0) = false := by decide
theorem test_wf_link_width : wf (.pcieLinkUp 3 3 false 0) = false := by decide
theorem test_wf_frame_short : wf (.uplinkReceived 0 [0#64]) = false := by decide
theorem test_wf_train_rows : wf (.laneTrainComplete 0 ⟨0, 0, List.replicate 5 (0, 0, true)⟩) = false := by decide
theorem test_wf_sync_domain : wf (.ptpSyncRx ⟨.e1, 256, 0, 0, 0, 0, 0⟩) = false := by decide
theorem test_wf_announce_steps : wf (.ptpAnnounceRx ⟨.e1, 0, 0, 0, 0, 0, 0, 0, 0, 65536, 0, 0, false, false, false⟩) = false := by decide
theorem test_wf_pdelay_req : wf (.pdelayReqRx ⟨.e1, 65536, 0, 0⟩) = false := by decide
theorem test_wf_pdelay_resp : wf (.pdelayRespRx ⟨.e1, 65536, 0, 0⟩) = false := by decide
theorem test_wf_tc_domain : wf (.tcForward ⟨.e1, .sync, 256, 0, 0, 0⟩) = false := by decide
theorem test_wf_eth_source : wf (.ethFrameRx ⟨.e1, 64, true, 281474976710656, .own, .arp, none, none⟩) = false := by decide
theorem test_wf_can_id : wf (.canRxFrame 0 ⟨0x800, false, false, false, false, false, 0, [], 0, false⟩) = false := by decide
theorem test_wf_adc_raw : wf (.adcResult 0 []) = false := by decide
theorem test_wf_cal_gains : wf (.calSweep [⟨0, []⟩]) = false := by decide
theorem test_wf_temps : wf (.tempMeasure []) = false := by decide
theorem test_wf_turn_ons : wf (.syncLockChange 0 []) = false := by decide
theorem test_wf_phases : wf (.phaseWindowEnd 0 ⟨true, 0, [1, 2], [1, 2, 3], [1, 2, 3]⟩) = false := by decide
theorem test_wf_samples : wf (.telemetryWindow 0 []) = false := by decide
theorem test_wf_octets (l : List Byte) (h : 65507 < l.length) : wf (.rraRequest .e3 l) = false := by
  simp only [wf, wfOctets, decide_eq_false_iff_not]; omega

/-! ### Worked examples of the spec -/

/-- What a command leaves, seen through `f`. -/
def after {α : Type} (c : Instr) (s : State) (f : State → α) : Option α := (nextOf (exec c s)).map f

/-- Chapter 01, after R11: a write to 0x000_0C24 reaches SYS_LOCK. -/
theorem test_partial_decoding : after (.lockWrite (hostWrite 0xC24 1)) State.reset (fun t => t.reg 0x24) = some 1#32 := by decide +kernel

/-- Chapter 01, after R20, cycle 0: the primary's write is held and the sequencer armed. -/
theorem test_guard_arms : after (.guardedPrimaryWrite (hostWrite 0x100 1)) State.reset (fun t => (t.guard 0).st) =
    some (.armed .host 0x100 1#32 0) := by decide +kernel

/-- Chapter 01, after R20, cycles 40 to 213: the held-back write is applied after the commit. -/
theorem test_guard_releases : after (.guardTwinWrite (hostWrite 0x300 0xFFFFFFFE))
    { State.reset with guards := [(0, { st := .armed .host 0x100 1#32 0, held := [⟨.supervisor, .bar0 A.SYS_SCRATCH, [(0x1234#32, 0xF#4)]⟩] })] }
    (fun t => (t.reg A.SYS_SCRATCH, (t.guard 0).st)) = some (0x1234#32, .idle) := by decide +kernel

/-- Chapter 14, the worked example: the write to the set alias of EDGE_GUARD is captured with code 4, master 0, access 2. -/
theorem test_first_error : after (.registerWrite (hostWrite 0x134120 1) {}) State.reset
    (fun t => (t.reg A.FLT_FIRST_ADDR, t.reg A.FLT_FIRST_INFO, t.get (F.accessErr Base.EDGE))) =
    some (0x00134120#32, 0x80040200#32, 1) := by decide +kernel

/-- Chapter 02, after R43: a count of 20,000 through the conversion word 0x000F_A7C6 is 26,215. -/
theorem test_conversion : convert 0x000FA7C6#32 20000 = (26215, false) := by decide +kernel

/-- Chapter 03, after R65: the two entries of leg L0. -/
theorem test_edge_entries : edgeEntry 6048 0 0 = 0x017A0000 ∧ edgeEntry 6173 0 1 = 0x0181D080 := by decide +kernel

/-- Chapter 07, after R172: the fields of the word 0x1003_0080_0200_0010. -/
theorem test_mvm_word : eDecode 0x1003008002000010 =
    { op := 0x10, vd := 0, va := 3, vb := 0, ac := 0, xi := 1, sh := 0, prm := false, mod := 0, addr := 0x200, num := 16 } := by decide +kernel

/-- Chapter 07, after R167: the fields of the WB word 0x1550_0010_0000_0000. -/
theorem test_wb_word : ((eDecode 0x1550001000000000).vd, (eDecode 0x1550001000000000).ac, (eDecode 0x1550001000000000).sh) = (5, 0, 2) := by
  decide +kernel

/-- Chapter 07, after R167: writeback of 20,480 × 9,830 at SH 2, its saturation, and rounding half to even. -/
theorem test_writeback : wb (20480 * 9830) 2 = 0x5FFF ∧ wb (20480 * 0x4000) 2 = 0x7FFF ∧ wb (3 * 0x4000) 0 = 2 ∧ wb 0x4000 0 = 0 := by
  decide +kernel

/-- Chapter 10, after R242: NBT 0x264E_1301 gives 2 µs and DBT 0x0412_0401 gives 500 ns. -/
theorem test_can_bit_times :
    (((State.reset.setReg (A.CAN_NBT 0) 0x264E1301#32).setReg (A.CAN_DBT 0) 0x04120401#32).nomBit 0,
     ((State.reset.setReg (A.CAN_NBT 0) 0x264E1301#32).setReg (A.CAN_DBT 0) 0x04120401#32).dataBit 0) = (2 * us, 500 * 5) := by decide +kernel

/-- Chapter 10, after R251: BASE 1 with REP_LOG2 1 is offered in cycles 1 and 3. -/
theorem test_can_matrix : (List.range 4).filter ({ words := [0#32, 0#32, BitVec.ofNat 32 (2 ^ 31 + 1 * 2 ^ 28 + 1 * 2 ^ 22 + 250)] } : CanEntry).inCycle
    = [1, 3] := by decide +kernel

/-- R258: the bottom code clips and is OFFS-corrected; half values round to even. -/
theorem test_adc_correction : corrected (-32768) (0, 0x4000) = (-32768, true) ∧ corrected 3 (0, 0x2000) = (2, false) := by decide +kernel

/-- The check value of CRC-32C (R62): the octets of "123456789". -/
theorem test_crc32c : crc32c ((List.range 9).map (fun i => BitVec.ofNat 8 (0x31 + i))) = 0xE3069283 := by decide +kernel

/-- FIPS 180-4: SHA-256 of "abc". -/
theorem test_sha256 : ofBytesBE ((sha256 [0x61#8, 0x62#8, 0x63#8]).take 8) = 0xBA7816BF8F01CFEA := by decide +kernel

/-- R2, R311: after reset the safety section is in TEST, and the queue of commands is empty. -/
theorem test_reset_state : (State.reset.safeState, State.reset.pending) = (safeTest, []) := by decide +kernel

/-- The hypotheses of each clause of `Obligations.WritesTakePlace` are met together. -/
theorem test_wit_WritesTakePlace :
    (∃ (s : State) (m : Master) (a : BitVec 24), s.answers m = true ∧ regionOf (a.toNat / 4 * 4) = .regs ∧ isGuarded (canon (a.toNat / 4 * 4)) = false ∧ twinOf (canon (a.toNat / 4 * 4)) = none ∧ s.guard (a.toNat / 4 * 4 / 0x10000) = {}) ∧
    (∃ (s : State) (m : Master) (a : BitVec 24), s.answers m = true ∧ a.toNat % 4 = 0 ∧ regionOf a.toNat = .regs ∧ canon a.toNat % 0x10000 = 0x24 ∧ isGuarded (canon a.toNat) = false ∧ s.guard (a.toNat / 0x10000) = {}) ∧
    (∃ (s : State) (m : Master) (a : BitVec 24), s.answers m = true ∧ a.toNat % 4 = 0 ∧ regionOf a.toNat = .regs ∧ isBackupReg (canon a.toNat) = true ∧ isGuarded (canon a.toNat) = false ∧ twinOf (canon a.toNat) = none ∧ s.guard (a.toNat / 0x10000) = {}) ∧
    (∃ (s : State) (m : Master) (a : BitVec 24), s.answers m = true ∧ a.toNat % 4 = 0 ∧ regionOf a.toNat = .regs ∧ aliasOf a.toNat = 0 ∧ isGuarded (canon a.toNat) = true ∧ twinOf (canon a.toNat) = none ∧ s.guard (a.toNat / 0x10000) = {}) ∧
    (∃ (s : State) (m : Master) (m0 : Master) (a : BitVec 24) (p : Nat) (t0 : Nat) (v : Word), s.answers m = true ∧ a.toNat % 4 = 0 ∧ regionOf a.toNat = .regs ∧ aliasOf a.toNat = 0 ∧ twinOf (canon a.toNat) = some p ∧ s.guard (a.toNat / 0x10000) = { st := .armed m0 p v t0 } ∧ s.now < t0 + 1024 * cyc ∧ busMaster m = busMaster m0) ∧
    (∃ (s : State) (m : Master) (a : BitVec 24) (p : Nat), s.answers m = true ∧ a.toNat % 4 = 0 ∧ regionOf a.toNat = .regs ∧ aliasOf a.toNat = 0 ∧ twinOf (canon a.toNat) = some p ∧ s.guard (a.toNat / 0x10000) = {}) ∧
    (∃ (s : State) (m : Master) (m0 : Master) (a : BitVec 24) (p : Nat) (t0 : Nat) (v : Word) (x : Word × BitVec 4), s.answers m = true ∧ a.toNat % 4 = 0 ∧ regionOf a.toNat = .regs ∧ s.guard (a.toNat / 0x10000) = { st := .armed m0 p v t0 } ∧ s.now < t0 + 1024 * cyc ∧ busMaster m = busMaster m0 ∧ BusWrite.commits ⟨m, a.toNat, [x]⟩ p v = false) ∧
    (∃ (s : State) (m : Master) (m0 : Master) (a : BitVec 24) (p : Nat) (t0 : Nat) (v : Word), s.answers m = true ∧ a.toNat % 4 = 0 ∧ regionOf a.toNat = .regs ∧ s.guard (a.toNat / 0x10000) = { st := .armed m0 p v t0 } ∧ s.now < t0 + 1024 * cyc ∧ busMaster m ≠ busMaster m0) ∧
    (∃ (s : State) (m : Master) (a : BitVec 24), s.answers m = true ∧ a.toNat % 4 = 0 ∧ regionOf a.toNat = .regs ∧ aliasOf a.toNat ≠ 0 ∧ isGuarded (canon a.toNat) = true ∧ s.guard (a.toNat / 0x10000) = {}) ∧
    (∃ (s : State) (m : Master) (a : BitVec 24) (x : Word × BitVec 4), s.answers m = true ∧ a.toNat % 4 = 0 ∧ regionOf a.toNat = .regs ∧ x.2 ≠ 0xF#4 ∧ s.guard (a.toNat / 0x10000) = {}) ∧
    (∃ (s : State) (m : Master) (a : BitVec 24) (x : Word × BitVec 4) (y : Word × BitVec 4), s.answers m = true ∧ a.toNat % 4 = 0 ∧ regionOf a.toNat = .regs ∧ (x.2 ≠ 0xF#4 ∨ y.2 ≠ 0xF#4 ∨ a.toNat % 8 ≠ 0 ∨ isGuarded (canon a.toNat) = true ∨ isGuarded (canon (a.toNat + 4)) = true ∨ (twinOf (canon a.toNat)).isSome = true ∨ (twinOf (canon (a.toNat + 4))).isSome = true) ∧ s.guard (a.toNat / 0x10000) = {}) ∧
    (∃ (s : State) (b : BitVec 8) (m : Master) (p : Nat) (t0 : Nat) (v : Word) (held : List WriteReq), s.guard b.toNat = { st := .armed m p v t0, held := held }) ∧
    (∃ (s : State) (m : Master) (a : BitVec 24), s.answers m = true ∧ a.toNat % 4 = 0 ∧ regionOf a.toNat = .unmapped) ∧
    (∃ (s : State) (w : WriteReq) (a : BitVec 24), w.target = .bar0 a ∧ s.answers w.master = false) :=
  ⟨⟨State.reset, .host, 0x004038#24, by decide +kernel, by decide +kernel, by decide +kernel, by decide +kernel, by decide +kernel⟩,
   ⟨State.reset, .host, 0x000024#24, by decide +kernel, by decide +kernel, by decide +kernel, by decide +kernel, by decide +kernel, by decide +kernel⟩,
   ⟨State.reset, .host, 0x08003C#24, by decide +kernel, by decide +kernel, by decide +kernel, by decide +kernel, by decide +kernel, by decide +kernel, by decide +kernel⟩,
   ⟨State.reset, .host, 0x000100#24, by decide +kernel, by decide +kernel, by decide +kernel, by decide +kernel, by decide +kernel, by decide +kernel, by decide +kernel⟩,
   ⟨State.reset.setGuard 0 { st := .armed .remote 0x100 1#32 0 }, .supervisor, .remote, 0x000300#24, 0x100, 0, 1#32, by decide +kernel, by decide +kernel, by decide +kernel, by decide +kernel, by decide +kernel, by decide +kernel, by decide +kernel, by decide +kernel⟩,
   ⟨State.reset, .host, 0x000300#24, 0x100, by decide +kernel, by decide +kernel, by decide +kernel, by decide +kernel, by decide +kernel, by decide +kernel⟩,
   ⟨State.reset.setGuard 0 { st := .armed .remote 0x100 1#32 0 }, .supervisor, .remote, 0x000300#24, 0x100, 0, 1#32, (1#32, 0xF#4), by decide +kernel, by decide +kernel, by decide +kernel, by decide +kernel, by decide +kernel, by decide +kernel, by decide +kernel⟩,
   ⟨State.reset.setGuard 0 { st := .armed .remote 0x100 1#32 0 }, .host, .remote, 0x000300#24, 0x100, 0, 1#32, by decide +kernel, by decide +kernel, by decide +kernel, by decide +kernel, by decide +kernel, by decide +kernel⟩,
   ⟨State.reset, .host, 0x004100#24, by decide +kernel, by decide +kernel, by decide +kernel, by decide +kernel, by decide +kernel, by decide +kernel⟩,
   ⟨State.reset, .host, 0x004038#24, (1#32, 0x3#4), by decide +kernel, by decide +kernel, by decide +kernel, by decide +kernel, by decide +kernel⟩,
   ⟨State.reset, .host, 0x000038#24, (1#32, 0x3#4), (1#32, 0xF#4), by decide +kernel, by decide +kernel, by decide +kernel, by decide +kernel, by decide +kernel⟩,
   ⟨State.reset.setGuard 7 { st := .armed .host 0x70100 1#32 0 }, 7#8, .host, 0x70100, 0, 1#32, [], by decide +kernel⟩,
   ⟨State.reset, .host, 0x3F0000#24, by decide +kernel, by decide +kernel, by decide +kernel⟩,
   ⟨{ State.reset with host := { State.reset.host with d3hot := true } }, ⟨.host, .bar0 0x004038#24, [(1#32, 0xF#4)]⟩, 0x004038#24, by decide +kernel, by decide +kernel⟩⟩

/-- The hypotheses of each clause of `Obligations.ReadsReturnData` are met together. -/
theorem test_wit_ReadsReturnData :
    (∃ (s : State) (m : Master) (a : BitVec 24), s.answers m = true ∧ a.toNat % 4 = 0 ∧ regionOf a.toNat = .regs ∧ isRes32 (canon a.toNat) = true) ∧
    (∃ (s : State) (m : Master) (a : BitVec 24), s.answers m = true ∧ a.toNat % 4 = 0 ∧ regionOf a.toNat = .regs ∧ isRes32 (canon a.toNat) = true) ∧
    (∃ (s : State) (r : ReadReq) (v : Nat) (q : Nat) (rest : List (Nat × Nat)), s.answers r.master = true ∧ canon r.addr.toNat = A.EVT_LOG_LO ∧ s.fifo A.EVT_LOG_LO = (v, q) :: rest ∧ s.fifoEmpty A.EVT_LOG_LO = false ∧ s.spills = []) ∧
    (∃ (s : State) (r : ReadReq), s.answers r.master = true ∧ canon r.addr.toNat = A.EVT_LOG_LO ∧ s.fifoEmpty A.EVT_LOG_LO = true ∧ s.spills = []) ∧
    (∃ (s : State) (r : ReadReq) (c : Nat) (v : Nat) (q : Nat) (rest : List (Nat × Nat)), s.answers r.master = true ∧ canon r.addr.toNat = c ∧ timeFifos.contains c = true ∧ s.fifo c = (v, q) :: rest ∧ s.fifoEmpty c = false ∧ s.spills = []) ∧
    (∃ (s : State) (r : ReadReq) (n : Nat), s.answers r.master = true ∧ rxTopOf (canon r.addr.toNat) = some n ∧ s.queueOwner n r.master = true ∧ s.spills = []) ∧
    (∃ (s : State) (r : ReadReq) (k : Nat) (v : Nat) (q : Nat) (rest : List (Nat × Nat)), s.answers r.master = true ∧ popPort r.addr.toNat = some k ∧ s.pairedOdd k = false ∧ (s.conv8 k).ts = [] ∧ s.fifo (adcFifo k) = (v, q) :: rest ∧ s.fifoEmpty (adcFifo k) = false ∧ s.spills = []) ∧
    (∃ (s : State) (r : ReadReq) (k : Nat) (t : Nat) (rest : List Nat), s.answers r.master = true ∧ popPort r.addr.toNat = some k ∧ s.pairedOdd k = false ∧ (s.conv8 k).ts = t :: rest ∧ s.fifoEmpty (adcFifo k) = false ∧ s.spills = []) ∧
    (∃ (s : State) (r : ReadReq) (c : Nat), s.answers r.master = true ∧ canon r.addr.toNat = c ∧ timeFifos.contains c = true ∧ s.fifoEmpty c = true ∧ s.spills = []) ∧
    (∃ (s : State) (r : ReadReq) (k : Nat), s.answers r.master = true ∧ popPort r.addr.toNat = some k ∧ s.pairedOdd k = false ∧ s.fifoEmpty (adcFifo k) = true) ∧
    (∃ (s : State) (r : ReadReq) (k : Nat), s.answers r.master = true ∧ popPort r.addr.toNat = some k ∧ s.pairedOdd k = true) ∧
    (∃ (s : State) (r : ReadReq) (n : Nat), s.answers r.master = true ∧ rxTopOf (canon r.addr.toNat) = some n ∧ s.queueOwner n r.master = false) ∧
    (∃ (s : State) (m : Master), s.answers m = true) ∧
    (∃ (s : State) (m : Master) (a : BitVec 24), s.answers m = true ∧ a.toNat % 4 = 0 ∧ regionOf a.toNat = .unmapped) ∧
    (∃ (s : State) (r : NpReq), s.on F.HOST_LINK_LINK_UP = true ∧ s.npTakes r = true ∧ s.host.np.length < 128) ∧
    (∃ (s : State) (r : NpReq), s.on F.HOST_LINK_LINK_UP = true ∧ s.npTakes r = true ∧ 128 ≤ s.host.np.length) ∧
    (∃ (s : State) (r : ReadReq) (rest : List NpReq), s.hostWriteHeld = false ∧ s.host.np = .read r :: rest ∧ s.host.stalled = [] ∧ s.rst.asserted = false) ∧
    (∃ (s : State) (c : CfgOp) (rest : List NpReq), s.hostWriteHeld = false ∧ s.host.np = .config c :: rest ∧ s.host.stalled = []) ∧
    (∃ (a : BitVec 24), 0xE00000 ≤ a.toNat ∧ a.toNat < 0xE01000) :=
  ⟨⟨State.reset, .host, 0x120050#24, by decide +kernel, by decide +kernel, by decide +kernel, by decide +kernel⟩,
   ⟨State.reset, .host, 0x120050#24, by decide +kernel, by decide +kernel, by decide +kernel, by decide +kernel⟩,
   ⟨State.reset.setFifo A.EVT_LOG_LO [(5, 1)], ⟨.host, BitVec.ofNat 24 A.EVT_LOG_LO, 2⟩, 5, 1, [], by decide +kernel, by decide +kernel, by decide +kernel, by decide +kernel, by decide +kernel⟩,
   ⟨State.reset, ⟨.host, BitVec.ofNat 24 A.EVT_LOG_LO, 2⟩, by decide +kernel, by decide +kernel, by decide +kernel, by decide +kernel⟩,
   ⟨State.reset.setFifo A.TIME_CAP_LO [(5, 1)], ⟨.host, BitVec.ofNat 24 A.TIME_CAP_LO, 2⟩, A.TIME_CAP_LO, 5, 1, [], by decide +kernel, by decide +kernel, by decide +kernel, by decide +kernel, by decide +kernel, by decide +kernel⟩,
   ⟨State.reset, ⟨.host, BitVec.ofNat 24 (A.CAN_RX_TOP_LO 1), 2⟩, 1, by decide +kernel, by decide +kernel, by decide +kernel, by decide +kernel⟩,
   ⟨State.reset.setFifo (adcFifo 1) [(5, 1)], ⟨.host, 0xE00008#24, 2⟩, 1, 5, 1, [], by decide +kernel, by decide +kernel, by decide +kernel, by decide +kernel, by decide +kernel, by decide +kernel, by decide +kernel⟩,
   ⟨(State.reset.setFifo (adcFifo 1) [(5, 1)]).setConv8 1 { State.reset.conv8 1 with ts := [7] }, ⟨.host, 0xE00008#24, 2⟩, 1, 7, [], by decide +kernel, by decide +kernel, by decide +kernel, by decide +kernel, by decide +kernel, by decide +kernel⟩,
   ⟨State.reset, ⟨.host, BitVec.ofNat 24 A.TIME_CAP_LO, 2⟩, A.TIME_CAP_LO, by decide +kernel, by decide +kernel, by decide +kernel, by decide +kernel, by decide +kernel⟩,
   ⟨State.reset, ⟨.host, 0xE00008#24, 2⟩, 1, by decide +kernel, by decide +kernel, by decide +kernel, by decide +kernel⟩,
   ⟨State.reset.put (F.ADC_CH_CFG_PAIR 0) 1, ⟨.host, 0xE00008#24, 2⟩, 1, by decide +kernel, by decide +kernel, by decide +kernel⟩,
   ⟨State.reset, ⟨.remote, BitVec.ofNat 24 (A.CAN_RX_TOP_LO 1), 2⟩, 1, by decide +kernel, by decide +kernel, by decide +kernel⟩,
   ⟨State.reset, .host, by decide +kernel⟩,
   ⟨State.reset, .host, 0x3F0000#24, by decide +kernel, by decide +kernel, by decide +kernel⟩,
   ⟨withFields [(F.HOST_LINK_LINK_UP, 1)], .read ⟨.host, 0#24, 1⟩, by decide +kernel, by decide +kernel, by decide +kernel⟩,
   ⟨{ withFields [(F.HOST_LINK_LINK_UP, 1)] with host := { State.reset.host with np := List.replicate 128 (.read ⟨.host, 0#24, 1⟩) } }, .read ⟨.host, 0#24, 1⟩, by decide +kernel, by decide +kernel, by decide +kernel⟩,
   ⟨{ State.reset with host := { State.reset.host with np := [.read ⟨.host, 0#24, 1⟩] } }, ⟨.host, 0#24, 1⟩, [], by decide +kernel, by decide +kernel, by decide +kernel, by decide +kernel⟩,
   ⟨{ State.reset with host := { State.reset.host with np := [.config (.writePower true)] } }, .writePower true, [], by decide +kernel, by decide +kernel, by decide +kernel⟩,
   ⟨0xE00010#24, by decide +kernel, by decide +kernel⟩⟩

/-- The hypotheses of each clause of `Obligations.CommandPortAndRestartsAct` are met together. -/
theorem test_wit_CommandPortAndRestartsAct :
    (∃ (s : State) (r : CmdRun), s.cmd = some r ∧ r.opcode = 0 ∧ r.outcome = none) ∧
    (∃ (s : State) (r : CmdRun), s.cmd = some r ∧ r.opcode ∉ [0x00, 0x10, 0x11, 0x20, 0x21, 0x30, 0x31, 0x40, 0x50]) ∧
    (∃ (s : State) (r : CmdRun) (code : Nat) (res : List Word), s.cmd = some r ∧ r.outcome = some (code, res)) ∧
    (∃ (s : State) (r : CmdRun) (d : Nat), s.cmd = some r ∧ r.outcome = none ∧ (r.opcode, d) ∈ [(0x00, us), (0x10, 600 * ms), (0x11, 5 * ms), (0x20, 500 * ms), (0x21, 1500 * ms), (0x30, 100 * ms), (0x31, 1000 * ms), (0x40, 3000 * ms), (0x50, 250 * ms)]) ∧
    (∃ (s : State) (t : State), t = { s.put F.SYS_RESTART 1 with restartPend := true }) ∧
    (∃ (s : State) (t : State), s.restartPend = true ∧ s.portState = 0 ∧ t = (if s.portEnding = true then s.until ((s.cycleNo + 1) * cyc) else s) ∧ t.restartWhy = 0) ∧
    (∃ (s : State) (t : State), s.restartPend = true ∧ s.portState = 0 ∧ t = (if s.portEnding = true then s.until ((s.cycleNo + 1) * cyc) else s) ∧ t.restartWhy ≠ 0) ∧
    (∃ (s : State), s.cmd = none) ∧
    (∃ (s : State) (t : State) (r : CmdRun), s.cmd = some r ∧ t = (s.cmdStop r.opcode).cmdEnd 4 ((s.cmdStop r.opcode).stopRes4 r.opcode) 2) ∧
    (∃ (s : State), s.on F.UPD_STAT_TRIAL = true ∧ s.on F.SYS_STAT_SVR_UP = true ∧ s.cmd = none) ∧
    (∃ (s : State) (u : State) (v : State) (w : State) (x : TreeCheck), s.starting = true ∧ u = s.secStart x ∧ v = (u.boot.put F.SYS_STAT_SVR_UP 1).startOver.annRestart ∧ w = (v.withUpd { v.upd with unstarted := false }).enforce) ∧
    (∃ (s : State) (t : State) (u : State) (x : TreeCheck), s.starting = true ∧ u = s.secStart x ∧ u.noBoot = true ∧ t = ((((u.bankRead u.bootFirst).verifyCount (u.bankDetail u.bootFirst)).bankRead (1 - u.bootFirst)).verifyCount (u.bankDetail (1 - u.bootFirst))).startOver) :=
  ⟨⟨{ State.reset with cmd := some { opcode := 0, owner := .host, args := [], data := [], start := 0 } }, { opcode := 0, owner := .host, args := [], data := [], start := 0 }, by decide +kernel, by decide +kernel, by decide +kernel⟩,
   ⟨{ State.reset with cmd := some { opcode := 9, owner := .host, args := [], data := [], start := 0 } }, { opcode := 9, owner := .host, args := [], data := [], start := 0 }, by decide +kernel, by decide +kernel⟩,
   ⟨{ State.reset with cmd := some { opcode := 0x10, owner := .host, args := [], data := [], start := 0, outcome := some (0, []) } }, { opcode := 0x10, owner := .host, args := [], data := [], start := 0, outcome := some (0, []) }, 0, [], by decide +kernel, by decide +kernel⟩,
   ⟨{ State.reset with cmd := some { opcode := 0x31, owner := .host, args := [], data := [], start := 0 } }, { opcode := 0x31, owner := .host, args := [], data := [], start := 0 }, 1000 * ms, by decide +kernel, by decide +kernel, by decide +kernel⟩,
   ⟨State.reset, _, rfl⟩,
   ⟨{ withFields [(F.SAFE_STAT_STATE, 1)] with restartPend := true, upd := { State.reset.upd with firstStart := false } }, _, by decide +kernel, by decide +kernel, rfl, by decide +kernel⟩,
   ⟨{ State.reset with restartPend := true }, _, by decide +kernel, by decide +kernel, rfl, by decide +kernel⟩,
   ⟨State.reset, by decide +kernel⟩,
   ⟨{ State.reset with cmd := some { opcode := 0x31, owner := .host, args := [], data := [], start := 0 } }, _, { opcode := 0x31, owner := .host, args := [], data := [], start := 0 }, by decide +kernel, rfl⟩,
   ⟨withFields [(F.UPD_STAT_TRIAL, 1), (F.SYS_STAT_SVR_UP, 1)], by decide +kernel, by decide +kernel, by decide +kernel⟩,
   ⟨State.reset, _, _, _, ⟨true, true, true⟩, by decide +kernel, rfl, rfl, rfl⟩,
   ⟨{ State.reset with flash := { erased := [(0, true), (4096, true)] } }, _, _, ⟨true, true, true⟩, by decide +kernel, rfl, by decide +kernel, rfl⟩⟩

/-- The hypotheses of each clause of `Obligations.EndpointAndEventsAct` are met together. -/
theorem test_wit_EndpointAndEventsAct :
    (∃ (s : State) (u : State) (t : State), u = (if s.on F.HOST_LINK_LINK_UP then s.cnt F.HOST_LINK_DOWN_COUNT else s) ∧ t = u.endpointReset.raise Base.HOST 0) ∧
    (∃ (s : State) (u : State) (t : State), u = (if s.on F.HOST_LINK_LINK_UP then s.cnt F.HOST_LINK_DOWN_COUNT else s) ∧ t = u.endpointReset.raise Base.HOST 0) ∧
    (∃ (s : State) (u : State) (t : State), u = (if s.on F.HOST_LINK_LINK_UP then s.cnt F.HOST_LINK_DOWN_COUNT else s) ∧ t = u.endpointReset.raise Base.HOST 0) ∧
    (∃ (s : State) (sp : Nat) (w : Nat), 1 ≤ sp ∧ sp ≤ 3 ∧ w ∈ [1, 2, 4] ∧ s.rst.asserted = false) ∧
    (∃ (s : State) (t : State), s.host.cfgReady = false ∧ s.rst.asserted = false ∧ t = s.until (max s.rst.releasedAt s.host.perstAt + 100 * ms)) ∧
    (∃ (s : State) (v : Fin 32), s.bitOf (F.HOST_MSIX_PBA (v.val / 32)) (v.val % 32) = true ∧ s.host.funcMask = false) ∧
    (∃ (s : State) (o : Occ) (rest : List Occ), s.evt.pipe = o :: rest) ∧
    (∃ (s : State) (t : State) (v : Fin 32), s.evt.due.contains v.val = true ∧ t = s.until (s.holdoffEnd v.val) ∧ t.asserted v.val = true) :=
  ⟨⟨State.reset, _, _, rfl, rfl⟩,
   ⟨State.reset, _, _, rfl, rfl⟩,
   ⟨State.reset, _, _, rfl, rfl⟩,
   ⟨State.reset, 3, 4, by decide +kernel, by decide +kernel, by decide +kernel, by decide +kernel⟩,
   ⟨{ State.reset with host := { State.reset.host with cfgReady := false }, rst := { State.reset.rst with asserted := false } }, _, by decide +kernel, by decide +kernel, rfl⟩,
   ⟨(State.reset.setReg (A.HOST_MSIX_PBA 0) 0x80#32), 7, by decide +kernel, by decide +kernel⟩,
   ⟨{ State.reset with evt := { State.reset.evt with pipe := [⟨3, 0, true, false, 0, 0⟩] } }, ⟨3, 0, true, false, 0, 0⟩, [], by decide +kernel⟩,
   ⟨{ State.reset.setReg (A.EVT_HPEND 0) 1#32 with evt := { State.reset.evt with due := [0] } }, _, 0, by decide +kernel, rfl, by decide +kernel⟩⟩

/-- The hypotheses of each clause of `Obligations.YardCommandsAct` are met together. -/
theorem test_wit_YardCommandsAct :
    (∃ (s : State), s.running = false) ∧
    (∃ (s : State), s.running = true) ∧
    (∃ (s : State) (t : State), s.yard.checkRun = true ∧ s.running = false ∧ s.yardCheck.1 = 0 ∧ s.yard.checkVoid = false ∧ t = ((({ s with yard := { s.yard with checkRun := false, checkVoid := false } } : State).complete A.YARD_CHECK s.yardCheck.2).raise Base.YARD 1).put F.YARD_CTRL_CHECK 0) ∧
    (∃ (s : State) (t : State), s.yard.checkRun = true ∧ s.running = false ∧ s.yardCheck.1 ≠ 0 ∧ t = (((({ s with yard := { s.yard with checkRun := false, checkVoid := false } } : State).complete A.YARD_CHECK (256 * s.yardCheck.1 + s.yardCheck.2)).raise Base.YARD 1).put F.YARD_FAULT_STAT_CHECK_FAIL 1).put F.YARD_CTRL_CHECK 0) ∧
    (∃ (s : State) (t : State), s.yard.checkRun = true ∧ s.running = false ∧ s.yardCheck.1 = 0 ∧ s.yard.checkVoid = true ∧ t = ((({ s with yard := { s.yard with checkRun := false, checkVoid := false } } : State).complete A.YARD_CHECK s.yardCheck.2).raise Base.YARD 1).put F.YARD_CTRL_CHECK 0) ∧
    (∃ (s : State), s.yard.checkRun = true ∧ s.running = true) ∧
    (∃ (s : State), s.yardState = 1) ∧
    (∃ (s : State), s.yardState ≠ 1) ∧
    (∃ (s : State), s.yardState = 2) ∧
    (∃ (s : State), s.yardState = 1 ∧ s.yard.startPend.isSome = true) ∧
    (∃ (s : State), s.yardState ≠ 2 ∧ (s.yardState ≠ 1 ∨ s.yard.startPend.isSome = false)) ∧
    (∃ (s : State), s.yardState = 1 ∧ s.dueAt s.yard.startPend = true) ∧
    (∃ (s : State) (t : State), s.yardState = 2 ∧ s.dueAt s.yard.stopPend = true ∧ t = ((s.put F.YARD_STAT_STATE 3).put F.YARD_CTRL_STOP 0).raise Base.YARD 0) ∧
    (∃ (s : State), s.yardState = 3 ∧ s.stopDone = true) ∧
    (∃ (s : State) (u : State) (p : Nat), p = s.halfUs * 2500 ∧ p ≠ 0 ∧ s.time.stopped = false ∧ u = s.endRuns.padBoundary) ∧
    (∃ (s : State) (u : State), s.edge.edge = false ∧ s.time.stopped = false ∧ s.running = true ∧ u = s.cutoffNow) ∧
    (∃ (s : State) (t : State), s.edge.edge = false ∧ s.time.stopped = false ∧ s.running = false ∧ t = (s.untilCtb (s.yard.tk + s.get F.EDGE_RELOAD)).linkEdge.pairReload) :=
  ⟨⟨State.reset, by decide +kernel⟩,
   ⟨withFields [(F.YARD_STAT_STATE, 2)], by decide +kernel⟩,
   ⟨{ withFields [(F.YARD_PERIOD, 20), (F.YARD_CFG_TOPOLOGY, 2), (F.YARD_CFG_CONNECTION, 0), (F.YARD_ARM_EN 0, 1)] with yard := { State.reset.yard with checkRun := true } }, _, by decide +kernel, by decide +kernel, by decide +kernel, by decide +kernel, rfl⟩,
   ⟨{ State.reset with yard := { State.reset.yard with checkRun := true } }, _, by decide +kernel, by decide +kernel, by decide +kernel, rfl⟩,
   ⟨{ withFields [(F.YARD_PERIOD, 20), (F.YARD_CFG_TOPOLOGY, 2), (F.YARD_CFG_CONNECTION, 0), (F.YARD_ARM_EN 0, 1)] with yard := { State.reset.yard with checkRun := true, checkVoid := true } }, _, by decide +kernel, by decide +kernel, by decide +kernel, by decide +kernel, rfl⟩,
   ⟨{ withFields [(F.YARD_STAT_STATE, 2)] with yard := { State.reset.yard with checkRun := true } }, by decide +kernel, by decide +kernel⟩,
   ⟨withFields [(F.YARD_STAT_STATE, 1)], by decide +kernel⟩,
   ⟨State.reset, by decide +kernel⟩,
   ⟨withFields [(F.YARD_STAT_STATE, 2)], by decide +kernel⟩,
   ⟨{ withFields [(F.YARD_STAT_STATE, 1)] with yard := { State.reset.yard with startPend := some 0 } }, by decide +kernel, by decide +kernel⟩,
   ⟨State.reset, by decide +kernel, by decide +kernel⟩,
   ⟨{ withFields [(F.YARD_STAT_STATE, 1)] with yard := { State.reset.yard with startPend := some 0, bnd := 1 } }, by decide +kernel, by decide +kernel⟩,
   ⟨{ withFields [(F.YARD_STAT_STATE, 2)] with yard := { State.reset.yard with stopPend := some 0, bnd := 1 } }, _, by decide +kernel, by decide +kernel, rfl⟩,
   ⟨withFields [(F.YARD_STAT_STATE, 3)], by decide +kernel, by decide +kernel⟩,
   ⟨withFields [(F.YARD_PERIOD, 20)], _, _, rfl, by decide +kernel, by decide +kernel, rfl⟩,
   ⟨withFields [(F.YARD_STAT_STATE, 2)], _, by decide +kernel, by decide +kernel, by decide +kernel, rfl⟩,
   ⟨State.reset, _, by decide +kernel, by decide +kernel, by decide +kernel, rfl⟩⟩

/-- The hypotheses of each clause of `Obligations.StallCommandsAct` are met together. -/
theorem test_wit_StallCommandsAct :
    (∃ (s : State) (t : State) (u : State) (a : BitVec 24) (w : Word) (i : Nat) (o : Nat) (v : Nat), i < 192 ∧ o < 0x1000 ∧ o % 4 = 0 ∧ a.toNat = 0x800000 + 0x1000 * i + o ∧ recWordKind o = 1 ∧ o ≠ 0 ∧ s.running = false ∧ v = (s.rword i o &&& (0xFFFFFFFF - cfgMask o)) ||| (mergeBytes (s.rword i o) w 0xF#4 &&& cfgMask o) ∧ t = s.setRec i o v ∧ u = (if (o = offLink ∨ o = offPath) ∧ v ≠ s.rword i o then t.replaceNode i else t)) ∧
    (∃ (a : BitVec 24) (i : Nat) (o : Nat), i < 192 ∧ o < 0x1000 ∧ o % 4 = 0 ∧ a.toNat = 0x800000 + 0x1000 * i + o ∧ recWordKind o = 3) ∧
    (∃ (a : BitVec 24) (i : Nat), i < 192 ∧ a.toNat = 0x800000 + 0x1000 * i + 0x42C) ∧
    (∃ (a : BitVec 24) (i : Nat) (o : Nat), i < 192 ∧ o < 0x1000 ∧ o % 4 = 0 ∧ a.toNat = 0x800000 + 0x1000 * i + o ∧ recWordKind o = 0) ∧
    (∃ (s : State) (u : State) (i : Fin 192) (v : Word), s.yardState = 2 ∧ s.enabled i.val = false ∧ u = s.setRec i.val 0 ((v.toNat &&& cfgMask 0) ||| 2 ^ 31) ∧ (u.insertCheck i.val).1 ≠ 0) ∧
    (∃ (s : State) (u : State) (t : State) (i : Fin 192) (v : Word), s.yardState = 2 ∧ s.enabled i.val = false ∧ u = s.setRec i.val 0 ((v.toNat &&& cfgMask 0) ||| 2 ^ 31) ∧ (u.insertCheck i.val).1 = 0 ∧ t = (u.reportCheck 0 0xFF).setLink i.val { (u.reportCheck 0 0xFF).link i.val with removal := none, ready := none }) ∧
    (∃ (s : State) (i : Fin 192), s.yardState = 2 ∧ s.enabled i.val = true ∧ (s.rword i.val 0).testBit 31 = true) ∧
    (∃ (s : State) (i : Fin 192), s.lasting i.val = true ∧ ((s.link i.val).run < 16 ∨ s.nstate i.val = 6 ∨ s.nstate i.val = 7)) ∧
    (∃ (s : State) (u : State) (i : Fin 192), s.lasting i.val = true ∧ 16 ≤ (s.link i.val).run ∧ s.nstate i.val ≠ 6 ∧ s.nstate i.val ≠ 7 ∧ u = ((s.setRecF i.val offLkState 8 1 0).setLk i.val 1)) ∧
    (∃ (s : State) (v : State) (u : State) (n : Fin 48) (f : List (BitVec 64)) (i : Nat), s.laneState n.val ≠ 0 ∧ f.length = 7 ∧ blk f 0 % 256 = 0x27 ∧ frameOk f = true ∧ v = s.setRx n.val [] ∧ v.uplinkRecord n.val (bits (blk f 0) 39 8) = some i ∧ u = v.enumUplink n.val (bits (blk f 0) 39 8) (bits (blk f 1) 63 32) ∧ bits (blk f 0) 55 40 = u.periodK % 2 ^ 16) ∧
    (∃ (s : State) (n : Fin 48) (r : MReq), (s.ll n.val).mgmtNext = some r ∧ s.laneSends n.val = true ∧ s.mgmtGap n.val = true) ∧
    (∃ (s : State) (v : State) (n : Fin 48) (f : List (BitVec 64)) (o : MOut), s.laneState n.val ≠ 0 ∧ f.length = 3 ∧ blk f 0 % 256 = 0x72 ∧ frameOk f = true ∧ v = s.setRx n.val [] ∧ (v.ll n.val).out.find? (fun o => o.req.path = bits (blk f 0) 39 8 && o.tag = bits (blk f 0) 47 40 && o.req.addr = bits (blk f 1) 47 32) = some o) ∧
    (∃ (s : State) (u : State) (n : Fin 48) (p : Word) (o : MOut), (s.ll n.val).out.find? (fun o => o.req.path = p.toNat) = some o ∧ o.req.tries < 3 ∧ u = s.until (o.sent + 100 * us)) ∧
    (∃ (s : State) (i : Fin 192), (s.link i.val).phase = .configure ∧ (s.link i.val).written = true) ∧
    (∃ (s : State) (i : Fin 192), (s.link i.val).phase = .precharge) ∧
    (∃ (s : State) (i : Fin 192), (s.link i.val).removal = some 0) ∧
    (∃ (s : State) (n : Fin 48) (i : Fin 192) (x : Sched), s.nextReady n.val = some i.val ∧ (s.link i.val).ready = some x) :=
  ⟨⟨State.reset, _, _, 0x80100C#24, 5#32, 1, 0x00C, _, by decide +kernel, by decide +kernel, by decide +kernel, by decide +kernel, by decide +kernel, by decide +kernel, by decide +kernel, rfl, rfl, rfl⟩,
   ⟨0x801400#24, 1, 0x400, by decide +kernel, by decide +kernel, by decide +kernel, by decide +kernel, by decide +kernel⟩,
   ⟨0x80142C#24, 1, by decide +kernel, by decide +kernel⟩,
   ⟨0x801040#24, 1, 0x040, by decide +kernel, by decide +kernel, by decide +kernel, by decide +kernel, by decide +kernel⟩,
   ⟨withFields [(F.YARD_STAT_STATE, 2)], _, 3, 0#32, by decide +kernel, by decide +kernel, rfl, by decide +kernel⟩,
   ⟨((withFields [(F.YARD_STAT_STATE, 2), (F.YARD_PERIOD, 20), (F.YARD_CFG_TOPOLOGY, 2), (F.YARD_ARM_EN 0, 1), (F.LANE_CTRL_EN 0, 1)]).setRec 3 0x040 1).setRec 3 0x044 0x04000000, _, _, 3, 0x90000100#32, by decide +kernel, by decide +kernel, rfl, by decide +kernel, rfl⟩,
   ⟨(withFields [(F.YARD_STAT_STATE, 2)]).setRec 3 0 0x80000000, 3, by decide +kernel, by decide +kernel, by decide +kernel⟩,
   ⟨State.reset.setRec 3 offLkState 0x100, 3, by decide +kernel, by decide +kernel⟩,
   ⟨(State.reset.setRec 3 offLkState 0x100).setLink 3 { run := 16 }, _, 3, by decide +kernel, by decide +kernel, by decide +kernel, by decide +kernel, rfl⟩,
   ⟨(withFields [(F.LANE_STAT_STATE 0, 4)]).setRec 3 0 0x80000000, _, _, 0, sealFrame [0x27, 0, 0, 0, 0, 0] 0, 3, by decide +kernel, by decide +kernel, by decide +kernel, by decide +kernel, rfl, by decide +kernel, rfl, by decide +kernel⟩,
   ⟨(withFields [(F.YARD_PERIOD, 0), (F.LANE_STAT_STATE 0, 4), (F.SAFE_STAT_HALT_FENCE, 0), (F.SAFE_STAT_HALT_SV, 0)]).setLl 0 { queue := [⟨0, true, 0, 0, .relay, 0⟩] }, 0, ⟨0, true, 0, 0, .relay, 0⟩, by decide +kernel, by decide +kernel, by decide +kernel⟩,
   ⟨(withFields [(F.LANE_STAT_STATE 0, 4)]).setLl 0 { out := [⟨⟨0, true, 0, 0, .relay, 1⟩, 0, 0⟩] }, _, 0, sealFrame [0x72, 0] 0, ⟨⟨0, true, 0, 0, .relay, 1⟩, 0, 0⟩, by decide +kernel, by decide +kernel, by decide +kernel, by decide +kernel, rfl, by decide +kernel⟩,
   ⟨(withFields [(F.LANE_STAT_STATE 0, 4)]).setLl 0 { out := [⟨⟨0, true, 0, 0, .relay, 1⟩, 0, 0⟩] }, _, 0, 0#32, ⟨⟨0, true, 0, 0, .relay, 1⟩, 0, 0⟩, by decide +kernel, by decide +kernel, rfl⟩,
   ⟨State.reset.setLink 3 { phase := .configure, written := true }, 3, by decide +kernel, by decide +kernel⟩,
   ⟨State.reset.setLink 3 { phase := .precharge }, 3, by decide +kernel⟩,
   ⟨State.reset.setLink 3 { removal := some 0 }, 3, by decide +kernel⟩,
   ⟨State.reset.setLink 3 { ready := some { period := 1 } }, 0, 3, { period := 1 }, by decide +kernel, by decide +kernel⟩⟩

/-- The hypotheses of each clause of `Obligations.LaneStatesAct` are met together. -/
theorem test_wit_LaneStatesAct :
    (∃ (s : State) (n : Fin 50), s.laneState n.val = 0 ∧ s.rst.asserted = false ∧ (48 ≤ n.val ∨ (s.on F.PAIR_STAT_WITHDRAWN = false ∧ s.joinBlocked = false))) ∧
    (∃ (s : State) (n : Fin 50), n.val < 48 ∧ s.on (F.LANE_CTRL_EN n.val) = false ∧ s.joinBlocked = true) ∧
    (∃ (s : State) (t : State) (n : Fin 50), s.laneState n.val ≠ 0 ∧ (s.running = false ∨ s.onLane n.val = []) ∧ t = (((((((((s.markersDue n.val).put (F.LANE_CTRL_EN n.val) 0).goLane n.val 0).put (F.LANE_STAT_DELAY_VALID n.val) 0).put (F.LANE_STAT_BLOCK_LOCK n.val) 0).put (F.LANE_STAT_MARKER_LOCK n.val) 0).put (F.LANE_STAT_HIBER n.val) 0).put (F.LANE_CTRL_ADAPT n.val) 0).put (F.LANE_CTRL_APPLY_EQ n.val) 0)) ∧
    (∃ (s : State) (n : Fin 50), s.on (F.LANE_CTRL_EN n.val) = true ∧ s.running = true ∧ s.onLane n.val ≠ []) ∧
    (∃ (s : State) (t : State) (n : Fin 50), s.laneState n.val = 1 ∧ t = ((s.goLane n.val 2).put (F.LANE_STAT_DELAY_VALID n.val) 0).put (F.LANE_STAT_RATE n.val) (if 48 ≤ n.val then 2 else if s.get (F.LANE_CTRL_RATE_SEL n.val) = 2 then 1 else 0)) ∧
    (∃ (s : State) (n : Fin 50), s.laneState n.val = 2) ∧
    (∃ (s : State) (n : Fin 50), n.val < 48 ∧ (s.put (F.LANE_CTRL_ADAPT n.val) 0).onLane n.val ≠ [] ∧ ((s.put (F.LANE_CTRL_ADAPT n.val) 0).onLane n.val).all (fun i => (s.put (F.LANE_CTRL_ADAPT n.val) 0).lkState i = 3) = true) ∧
    (∃ (s : State) (t : State) (n : Fin 50), t = s.put (F.LANE_CTRL_ADAPT n.val) 0 ∧ (48 ≤ n.val ∨ t.onLane n.val = []) ∧ t.laneState n.val = 4) ∧
    (∃ (s : State) (t : State) (n : Fin 50), s.laneState n.val = 4 ∧ t = (s.put (F.LANE_CTRL_APPLY_EQ n.val) 1).put (F.LANE_CTRL_APPLY_EQ n.val) 0 ∧ t.laneState n.val = 4) ∧
    (∃ (s : State) (n : Fin 50), s.on (F.LANE_FAULT_STAT_LASTING n.val) = true ∧ s.on (F.LANE_STAT_BLOCK_LOCK n.val) = true ∧ s.on (F.LANE_STAT_HIBER n.val) = false) ∧
    (∃ (s : State) (n : Fin 50), s.on (F.LANE_FAULT_STAT_LASTING n.val) = true ∧ s.on (F.LANE_STAT_BLOCK_LOCK n.val) = false) ∧
    (∃ (s : State) (n : Fin 50), s.laneState n.val = 6) ∧
    (∃ (s : State) (t : State) (n : Fin 50), s.on (F.LANE_STAT_BLOCK_LOCK n.val) = true ∧ t = (((s.put (F.LANE_STAT_BLOCK_LOCK n.val) 0).put (F.LANE_STAT_MARKER_LOCK n.val) 0).setLane n.val { s.lane n.val with marker := none, rx := [] }) ∧ t.laneState n.val = 4) ∧
    (∃ (s : State) (t : State) (n : Fin 50), s.laneState n.val ≠ 0 ∧ t = (s.put (F.LANE_STAT_BLOCK_LOCK n.val) 1).setLane n.val { s.lane n.val with lockAt := some ((s.lane n.val).lockAt.getD s.now) } ∧ t.laneState n.val = 5 ∧ s.now ≤ (s.lane n.val).at0 + 250 * us) ∧
    (∃ (s : State) (n : Fin 50), s.laneState n.val = 5) :=
  ⟨⟨State.reset, 49, by decide +kernel, by decide +kernel, by decide +kernel⟩,
   ⟨withFields [(F.PAIR_CFG_EN, 1)], 3, by decide +kernel, by decide +kernel, by decide +kernel⟩,
   ⟨withFields [(F.LANE_STAT_STATE 3 , 4)], _, 3, by decide +kernel, by decide +kernel, rfl⟩,
   ⟨(withFields [(F.YARD_STAT_STATE, 2), (F.LANE_CTRL_EN 0, 1)]).setRec 3 0 0x80000000, 0, by decide +kernel, by decide +kernel, by decide +kernel⟩,
   ⟨withFields [(F.LANE_STAT_STATE 3 , 1)], _, 3, by decide +kernel, rfl⟩,
   ⟨withFields [(F.LANE_STAT_STATE 3 , 2)], 3, by decide +kernel⟩,
   ⟨(State.reset.setRec 3 0 0x80000000).setLk 3 3, 0, by decide +kernel, by decide +kernel, by decide +kernel⟩,
   ⟨withFields [(F.LANE_STAT_STATE 3 , 4)], _, 3, rfl, by decide +kernel, by decide +kernel⟩,
   ⟨withFields [(F.LANE_STAT_STATE 3 , 4)], _, 3, by decide +kernel, rfl, by decide +kernel⟩,
   ⟨withFields [(F.LANE_FAULT_STAT_LASTING 3 , 1), (F.LANE_STAT_BLOCK_LOCK 3, 1)], 3, by decide +kernel, by decide +kernel, by decide +kernel⟩,
   ⟨withFields [(F.LANE_FAULT_STAT_LASTING 3 , 1)], 3, by decide +kernel, by decide +kernel⟩,
   ⟨withFields [(F.LANE_STAT_STATE 3 , 6)], 3, by decide +kernel⟩,
   ⟨withFields [(F.LANE_STAT_STATE 3 , 4), (F.LANE_STAT_BLOCK_LOCK 3, 1)], _, 3, by decide +kernel, rfl, by decide +kernel⟩,
   ⟨withFields [(F.LANE_STAT_STATE 3 , 5)], _, 3, by decide +kernel, rfl, by decide +kernel, by decide +kernel⟩,
   ⟨withFields [(F.LANE_STAT_STATE 3 , 5)], 3, by decide +kernel⟩⟩

/-- The hypotheses of each clause of `Obligations.MarkersAndEchoesAct` are met together. -/
theorem test_wit_MarkersAndEchoesAct :
    (∃ (s : State) (n : Fin 50) (p : BitVec 64), s.on (F.LANE_STAT_BLOCK_LOCK n.val) = true ∧ 2 < popcount 16 (bits p.toNat 63 48 ^^^ 0x4B2D)) ∧
    (∃ (s : State) (t : State) (n : Fin 50) (p : BitVec 64) (c : Nat), s.on (F.LANE_STAT_BLOCK_LOCK n.val) = true ∧ popcount 16 (bits p.toNat 63 48 ^^^ 0x4B2D) ≤ 2 ∧ (s.lane n.val).marker = some c ∧ t = s.setLane n.val { s.lane n.val with marker := some (bits p.toNat 39 16) }) ∧
    (∃ (s : State) (n : Fin 50) (p : BitVec 64), s.on (F.LANE_STAT_BLOCK_LOCK n.val) = true ∧ popcount 16 (bits p.toNat 63 48 ^^^ 0x4B2D) ≤ 2 ∧ (s.lane n.val).marker = none) ∧
    (∃ (s : State) (n : Fin 50), s.on (F.LANE_STAT_BLOCK_LOCK n.val) = true ∧ (s.lane n.val).marker.isSome = true) ∧
    (∃ (s : State) (n : Fin 50), s.laneState n.val ≠ 0) ∧
    (∃ (s : State) (t : State) (n : Fin 50), (s.laneState n.val = 3 ∨ s.laneState n.val = 4) ∧ s.laneHalted n.val = false ∧ t = s.until (s.echoDue n.val) ∧ t.echoYields n.val = false) ∧
    (∃ (s : State) (t : State) (n : Fin 50), (s.laneState n.val = 3 ∨ s.laneState n.val = 4) ∧ s.laneHalted n.val = false ∧ t = s.until (s.echoDue n.val) ∧ t.echoYields n.val = true) ∧
    (∃ (s : State) (t : State) (n : Fin 50) (p : BitVec 64) (rt : Nat) (at' : Nat), (s.laneState n.val = 3 ∨ s.laneState n.val = 4) ∧ (s.lane n.val).echoOut.find? (fun e => e.1 = bits p.toNat 39 32) = some (bits p.toNat 39 32, at') ∧ s.now ≤ at' + s.echoLimit n.val ∧ t = (s.setLane n.val { s.lane n.val with rx := [], echoOut := (s.lane n.val).echoOut.filter (fun q => q.1 ≠ bits p.toNat 39 32) }).echoOk n.val rt (bits p.toNat 31 8)) ∧
    (∃ (s : State) (t : State) (n : Fin 50) (e : Nat × Nat) (rest : List (Nat × Nat)), (s.lane n.val).echoOut = e :: rest ∧ t = s.until (e.2 + s.echoLimit n.val)) ∧
    (∃ (s : State) (p : Fin 2), s.on (F.LANE_STAT_BLOCK_LOCK (48 + p.val)) = true ∧ s.laneState (48 + p.val) ≠ 7) ∧
    (∃ (s : State) (n : Fin 50) (h : BitVec 2), s.laneState n.val ≠ 0 ∧ (h = 0#2 ∨ h = 3#2)) ∧
    (∃ (s : State) (n : Fin 50), s.laneState n.val ≠ 0 ∧ (s.lane n.val).rx = []) ∧
    (∃ (s : State) (n : Fin 50) (pl : BitVec 64), s.laneState n.val ≠ 0 ∧ pl.toNat % 256 = 0x3C) ∧
    (∃ (s : State) (n : Fin 50) (pl : BitVec 64), s.laneState n.val ≠ 0 ∧ pl.toNat % 256 ≠ 0x3C ∧ dataBlocks n.val pl.toNat = 0 ∧ pl.toNat % 256 ≠ 0x96 ∧ knownType n.val (pl.toNat % 256) = false) ∧
    (∃ (s : State) (n : Fin 50) (pl : BitVec 64), s.laneState n.val ≠ 0 ∧ pl.toNat % 256 ≠ 0x3C ∧ pl.toNat % 256 ≠ 0x96 ∧ knownType n.val (pl.toNat % 256) = true) ∧
    (∃ (s : State) (n : Fin 50) (c : BitVec 64) (l : List (BitVec 64)), s.laneState n.val ≠ 0 ∧ (s.lane n.val).rx = c :: l) ∧
    (∃ (pl : BitVec 64), pl.toNat % 256 = 0x96) ∧
    (∃ (s : State) (n : Fin 50), s.laneState n.val = 0) :=
  ⟨⟨withFields [(F.LANE_STAT_BLOCK_LOCK 3, 1)], 3, 0#64, by decide +kernel, by decide +kernel⟩,
   ⟨(withFields [(F.LANE_STAT_BLOCK_LOCK 3, 1)]).setLane 3 { marker := some 0 }, _, 3, 0x4B2D000000010000#64, 0, by decide +kernel, by decide +kernel, by decide +kernel, rfl⟩,
   ⟨withFields [(F.LANE_STAT_BLOCK_LOCK 3, 1)], 3, 0x4B2D000000010000#64, by decide +kernel, by decide +kernel, by decide +kernel⟩,
   ⟨(withFields [(F.LANE_STAT_BLOCK_LOCK 3, 1)]).setLane 3 { marker := some 0 }, 3, by decide +kernel, by decide +kernel⟩,
   ⟨withFields [(F.LANE_STAT_STATE 3, 4)], 3, by decide +kernel⟩,
   ⟨withFields [(F.LANE_STAT_STATE 49, 3), (F.YARD_PERIOD, 0)], _, 49, by decide +kernel, by decide +kernel, rfl, by decide +kernel⟩,
   ⟨(withFields [(F.LANE_STAT_STATE 0, 3), (F.YARD_PERIOD, 0), (F.SAFE_STAT_HALT_FENCE, 0), (F.SAFE_STAT_HALT_SV, 0)]).setLink 0 { ready := some { period := 1 } }, _, 0, by decide +kernel, by decide +kernel, rfl, by decide +kernel⟩,
   ⟨(withFields [(F.LANE_STAT_STATE 3, 3)]).setLane 3 { echoOut := [(0, 0)] }, _, 3, 0#64, 100, 0, by decide +kernel, by decide +kernel, by decide +kernel, rfl⟩,
   ⟨State.reset.setLane 3 { echoOut := [(0, 0)] }, _, 3, (0, 0), [], by decide +kernel, rfl⟩,
   ⟨withFields [(F.LANE_STAT_BLOCK_LOCK 48, 1)], 0, by decide +kernel, by decide +kernel⟩,
   ⟨withFields [(F.LANE_STAT_STATE 3, 4)], 3, 0#2, by decide +kernel, by decide +kernel⟩,
   ⟨withFields [(F.LANE_STAT_STATE 3, 4)], 3, by decide +kernel, by decide +kernel⟩,
   ⟨withFields [(F.LANE_STAT_STATE 3, 4)], 3, 0x3C#64, by decide +kernel, by decide +kernel⟩,
   ⟨withFields [(F.LANE_STAT_STATE 3, 4)], 3, 0#64, by decide +kernel, by decide +kernel, by decide +kernel, by decide +kernel, by decide +kernel⟩,
   ⟨withFields [(F.LANE_STAT_STATE 3, 4)], 3, 0x27#64, by decide +kernel, by decide +kernel, by decide +kernel, by decide +kernel⟩,
   ⟨(withFields [(F.LANE_STAT_STATE 3, 4)]).setLane 3 { rx := [0x72#64] }, 3, 0x72#64, [], by decide +kernel, by decide +kernel⟩,
   ⟨0x96#64, by decide +kernel⟩,
   ⟨State.reset, 3, by decide +kernel⟩⟩

/-- The hypotheses of each clause of `Obligations.EdgeAndBalanceCommandsAct` are met together. -/
theorem test_wit_EdgeAndBalanceCommandsAct :
    (∃ (s : State), s.running = true) ∧
    (∃ (s : State) (u : State), s.running = false ∧ u = s.put F.EDGE_CTRL_COMMIT 0 ∧ (u.commitCheck s.shadow false (s.halfUs * 2500)).1 = 0) ∧
    (∃ (s : State) (u : State) (r : Nat × Nat), s.running = false ∧ u = s.put F.EDGE_CTRL_COMMIT 0 ∧ r = u.commitCheck s.shadow false (s.halfUs * 2500) ∧ r.1 ≠ 0) ∧
    (∃ (s : State), s.running = true ∧ s.edge.cut = false ∧ s.edge.edge = false ∧ s.time.stopped = false) ∧
    (∃ (s : State) (t : State) (i : Fin 192), s.waits i.val = true ∧ t = s.untilCtb (s.yard.tk + s.cd640 i.val / 640)) ∧
    (∃ (s : State) (i : Nat), s.nextStall = some i) ∧
    (∃ (s : State) (t : State) (u : State) (v : State) (w : State) (f : BitVec 6), s.bal.busy = true ∧ t = ((List.range 6).filter s.armEn).foldl (fun t a => t.deliverArm a (f.toNat.testBit a)) { s with bal := { s.bal with busy := false, done := true } } ∧ u = (stalls.filter (fun i => !t.inSort i)).foldl (fun t i => t.put (F.BAL_RES_RANK i) 0xFF) t ∧ v = (((List.range 6).filter s.armEn).foldl (fun t a => t.publishArm a) (u.sortList.foldl (fun t i => t.publishStall i) u)).unpoison Base.BAL 0x10000 ∧ w = (v.put F.BAL_DONE_DONE_LAST ((v.ctb - v.yard.tk) % 2 ^ 16)).put F.BAL_DONE_DONE_PEAK (max ((v.ctb - v.yard.tk) % 2 ^ 16) (v.get F.BAL_DONE_DONE_PEAK))) :=
  ⟨⟨withFields [(F.YARD_STAT_STATE, 2)], by decide +kernel⟩,
   ⟨State.reset, _, by decide +kernel, rfl, by decide +kernel⟩,
   ⟨withFields [(F.EDGE_ARM_MODE_MV_MODE 0, 3)], _, _, by decide +kernel, rfl, rfl, by decide +kernel⟩,
   ⟨withFields [(F.YARD_STAT_STATE, 2)], by decide +kernel, by decide +kernel, by decide +kernel, by decide +kernel⟩,
   ⟨State.setEs { State.reset with edge := { State.reset.edge with edge := true } } 3 { kind := .closed }, _, 3, by decide +kernel, rfl⟩,
   ⟨State.setEs { State.reset with edge := { State.reset.edge with edge := true } } 3 { kind := .closed }, 3, by decide +kernel⟩,
   ⟨{ State.reset with bal := { State.reset.bal with busy := true } }, _, _, _, _, 0#6, by decide +kernel, rfl, rfl, rfl, rfl⟩⟩

/-- The hypotheses of each clause of `Obligations.EngineMovesData` are met together. -/
theorem test_wit_EngineMovesData :
    (∃ (s : State) (t : State) (u : EngUnit) (d : EInstr), s.issuesWhole u d = true ∧ d.op = 0x00 ∧ t = s.atCycle u) ∧
    (∃ (s : State) (t : State) (u : EngUnit) (d : EInstr), s.issuesWhole u d = true ∧ d.op = 0x05 ∧ t = s.atCycle u) ∧
    (∃ (s : State) (t : State) (u : EngUnit) (d : EInstr), s.issuesWhole u d = true ∧ d.op = 0x08 ∧ t = s.atCycle u) ∧
    (∃ (s : State) (t : State) (u : EngUnit) (d : EInstr), s.issuesWhole u d = true ∧ d.op = 0x09 ∧ t = s.atCycle u) ∧
    (∃ (s : State) (t : State) (u : EngUnit) (d : EInstr), s.issuesWhole u d = true ∧ d.op = 0x0A ∧ t = s.atCycle u) ∧
    (∃ (s : State) (t : State) (u : EngUnit) (d : EInstr), s.issuesWhole u d = true ∧ d.op = 0x0B ∧ t = s.atCycle u) ∧
    (∃ (s : State) (t : State) (u : EngUnit) (d : EInstr), s.issuesWhole u d = true ∧ d.op = 0x0C ∧ t = s.atCycle u) ∧
    (∃ (s : State) (t : State) (u : EngUnit) (d : EInstr), s.issuesWhole u d = true ∧ d.op = 0x0D ∧ t = s.atCycle u) ∧
    (∃ (s : State) (t : State) (u : EngUnit) (d : EInstr), s.issuesWhole u d = true ∧ d.op = 0x0E ∧ t = s.atCycle u) :=
  ⟨⟨engAt 0x00, _, .live, eDecode (0x00 * 2 ^ 56), by decide +kernel, by decide +kernel, rfl⟩,
   ⟨engAt 0x05, _, .live, eDecode (0x05 * 2 ^ 56), by decide +kernel, by decide +kernel, rfl⟩,
   ⟨engAt 0x08, _, .live, eDecode (0x08 * 2 ^ 56), by decide +kernel, by decide +kernel, rfl⟩,
   ⟨engAt 0x09, _, .live, eDecode (0x09 * 2 ^ 56), by decide +kernel, by decide +kernel, rfl⟩,
   ⟨engAt 0x0A, _, .live, eDecode (0x0A * 2 ^ 56), by decide +kernel, by decide +kernel, rfl⟩,
   ⟨engAt 0x0B, _, .live, eDecode (0x0B * 2 ^ 56), by decide +kernel, by decide +kernel, rfl⟩,
   ⟨engAt 0x0C, _, .live, eDecode (0x0C * 2 ^ 56), by decide +kernel, by decide +kernel, rfl⟩,
   ⟨engAt 0x0D, _, .live, eDecode (0x0D * 2 ^ 56), by decide +kernel, by decide +kernel, rfl⟩,
   ⟨engAt 0x0E, _, .live, eDecode (0x0E * 2 ^ 56), by decide +kernel, by decide +kernel, rfl⟩⟩

/-- The hypotheses of each clause of `Obligations.EngineComputes` are met together. -/
theorem test_wit_EngineComputes :
    (∃ (s : State) (t : State) (u : EngUnit) (d : EInstr), s.issuesWhole u d = true ∧ d.op = 0x10 ∧ t = s.atCycle u) ∧
    (∃ (s : State) (t : State) (u : EngUnit) (d : EInstr), s.issuesWhole u d = true ∧ d.op = 0x11 ∧ t = s.atCycle u) ∧
    (∃ (s : State) (t : State) (u : EngUnit) (d : EInstr), s.issuesWhole u d = true ∧ d.op = 0x12 ∧ t = s.atCycle u) ∧
    (∃ (s : State) (t : State) (u : EngUnit) (d : EInstr), s.issuesWhole u d = true ∧ d.op = 0x13 ∧ t = s.atCycle u) ∧
    (∃ (s : State) (t : State) (u : EngUnit) (d : EInstr), s.issuesWhole u d = true ∧ d.op = 0x14 ∧ t = s.atCycle u) ∧
    (∃ (s : State) (t : State) (u : EngUnit) (d : EInstr), s.issuesWhole u d = true ∧ d.op = 0x15 ∧ t = s.atCycle u) ∧
    (∃ (s : State) (t : State) (u : EngUnit) (d : EInstr), s.issuesWhole u d = true ∧ d.op = 0x16 ∧ t = s.atCycle u) ∧
    (∃ (s : State) (t : State) (u : EngUnit) (d : EInstr), s.issuesWhole u d = true ∧ d.op = 0x17 ∧ t = s.atCycle u) ∧
    (∃ (s : State) (t : State) (u : EngUnit) (d : EInstr), s.issuesWhole u d = true ∧ d.op = 0x18 ∧ t = s.atCycle u) ∧
    (∃ (s : State) (t : State) (u : EngUnit) (d : EInstr), s.issuesWhole u d = true ∧ d.op = 0x19 ∧ t = s.atCycle u) ∧
    (∃ (s : State) (t : State) (u : EngUnit) (d : EInstr), s.issuesWhole u d = true ∧ d.op = 0x1A ∧ t = s.atCycle u) ∧
    (∃ (s : State) (t : State) (u : EngUnit) (d : EInstr), s.issuesWhole u d = true ∧ d.op = 0x1B ∧ t = s.atCycle u) ∧
    (∃ (s : State) (t : State) (u : EngUnit) (d : EInstr), s.issuesWhole u d = true ∧ d.op = 0x1C ∧ t = s.atCycle u) :=
  ⟨⟨engAt 0x10, _, .live, eDecode (0x10 * 2 ^ 56), by decide +kernel, by decide +kernel, rfl⟩,
   ⟨engAt 0x11, _, .live, eDecode (0x11 * 2 ^ 56), by decide +kernel, by decide +kernel, rfl⟩,
   ⟨engAt 0x12, _, .live, eDecode (0x12 * 2 ^ 56), by decide +kernel, by decide +kernel, rfl⟩,
   ⟨engAt 0x13, _, .live, eDecode (0x13 * 2 ^ 56), by decide +kernel, by decide +kernel, rfl⟩,
   ⟨engAt 0x14, _, .live, eDecode (0x14 * 2 ^ 56), by decide +kernel, by decide +kernel, rfl⟩,
   ⟨engAt 0x15, _, .live, eDecode (0x15 * 2 ^ 56), by decide +kernel, by decide +kernel, rfl⟩,
   ⟨engAt 0x16, _, .live, eDecode (0x16 * 2 ^ 56), by decide +kernel, by decide +kernel, rfl⟩,
   ⟨engAt 0x17, _, .live, eDecode (0x17 * 2 ^ 56), by decide +kernel, by decide +kernel, rfl⟩,
   ⟨engAt 0x18, _, .live, eDecode (0x18 * 2 ^ 56), by decide +kernel, by decide +kernel, rfl⟩,
   ⟨engAt 0x19, _, .live, eDecode (0x19 * 2 ^ 56), by decide +kernel, by decide +kernel, rfl⟩,
   ⟨engAt 0x1A, _, .live, eDecode (0x1A * 2 ^ 56), by decide +kernel, by decide +kernel, rfl⟩,
   ⟨engAt 0x1B, _, .live, eDecode (0x1B * 2 ^ 56), by decide +kernel, by decide +kernel, rfl⟩,
   ⟨engAt 0x1C, _, .live, eDecode (0x1C * 2 ^ 56), by decide +kernel, by decide +kernel, rfl⟩⟩

/-- The hypotheses of each clause of `Obligations.EngineFlow` are met together. -/
theorem test_wit_EngineFlow :
    (∃ (s : State) (t : State) (v : State) (d : EInstr), s.issuesWhole .live d = true ∧ d.op = 0x01 ∧ t = s.atCycle .live ∧ v = t.setEng .live { t.eng .live with run := .idle }) ∧
    (∃ (s : State) (t : State) (v : State) (d : EInstr), s.issuesWhole .shadow d = true ∧ d.op = 0x01 ∧ t = s.atCycle .shadow ∧ v = t.setEng .shadow { t.eng .shadow with run := .idle }) ∧
    (∃ (s : State) (t : State) (u : EngUnit) (d : EInstr) (w : Nat), s.issuesWhole u d = true ∧ d.op = 0x02 ∧ t = s.atCycle u ∧ t.waitEvent d.mod d.num = some w ∧ w ≤ (t.eng u).cyc) ∧
    (∃ (s : State) (t : State) (u : EngUnit) (d : EInstr), s.issuesWhole u d = true ∧ d.op = 0x02 ∧ t = s.atCycle u ∧ (t.waitEvent d.mod d.num).all (fun w => decide ((t.eng u).cyc < w)) = true) ∧
    (∃ (s : State) (u : EngUnit) (mod : Nat) (num : Nat) (w : Nat), (s.eng u).run = .waiting mod num ∧ (u = .live → s.on F.CME_DBG_STAT_HALTED = false) ∧ s.waitEvent mod num = some w) ∧
    (∃ (s : State) (t : State) (u : EngUnit) (d : EInstr), s.issuesWhole u d = true ∧ d.op = 0x03 ∧ t = s.atCycle u) ∧
    (∃ (s : State) (t : State) (u : EngUnit) (d : EInstr), s.issuesWhole u d = true ∧ d.op = 0x04 ∧ t = s.atCycle u ∧ (t.eng u).branch d = true) ∧
    (∃ (s : State) (t : State) (u : EngUnit) (d : EInstr), s.issuesWhole u d = true ∧ d.op = 0x04 ∧ t = s.atCycle u ∧ (t.eng u).branch d = false) ∧
    (∃ (s : State) (u : EngUnit), s.running = true ∧ (s.eng u).run = .running ∧ s.on F.CME_DBG_STAT_HALTED = false ∧ (s.eng u).cyc + 4 < s.cyclesY ∧ (16384 ≤ (s.eng u).pc ∨ eOpcodes.contains (s.engNext u).op = false)) ∧
    (∃ (s : State) (t : State), s.runs .live = true ∧ t = s.untilCtb (s.yard.tk + 10 * (s.cyclesY - 4))) ∧
    (∃ (s : State) (t : State), s.runs .shadow = true ∧ t = s.untilCtb (s.yard.tk + 10 * (s.cyclesY - 4))) :=
  ⟨⟨engAt 0x01, _, _, eDecode (0x01 * 2 ^ 56), by decide +kernel, by decide +kernel, rfl, rfl⟩,
   ⟨State.store (engAt 0) 0xD00000 8 (0x01 * 2 ^ 56), _, _, eDecode (0x01 * 2 ^ 56), by decide +kernel, by decide +kernel, rfl, rfl⟩,
   ⟨State.store (engAt 0) 0xC00000 8 (0x02 * 2 ^ 56 + 2 * 2 ^ 32), _, .live, eDecode (0x02 * 2 ^ 56 + 2 * 2 ^ 32), 0, by decide +kernel, by decide +kernel, rfl, by decide +kernel, by decide +kernel⟩,
   ⟨engAt 0x02, _, .live, eDecode (0x02 * 2 ^ 56), by decide +kernel, by decide +kernel, rfl, by decide +kernel⟩,
   ⟨(engAt 0x02).setEng .live { (engAt 0x02).eng .live with run := .waiting 2 9 }, .live, 2, 9, 9, by decide +kernel, by decide +kernel, by decide +kernel⟩,
   ⟨engAt 0x03, _, .live, eDecode (0x03 * 2 ^ 56), by decide +kernel, by decide +kernel, rfl⟩,
   ⟨engAt 0x04, _, .live, eDecode (0x04 * 2 ^ 56), by decide +kernel, by decide +kernel, rfl, by decide +kernel⟩,
   ⟨State.store (engAt 0) 0xC00000 8 (0x04 * 2 ^ 56 + 2 ^ 32), _, .live, eDecode (0x04 * 2 ^ 56 + 2 ^ 32), by decide +kernel, by decide +kernel, rfl, by decide +kernel⟩,
   ⟨engAt 0xFF, .live, by decide +kernel, by decide +kernel, by decide +kernel, by decide +kernel, by decide +kernel⟩,
   ⟨engAt 0, _, by decide +kernel, rfl⟩,
   ⟨engAt 0, _, by decide +kernel, rfl⟩⟩

/-- The hypotheses of each clause of `Obligations.EngineHostCommandsAct` are met together. -/
theorem test_wit_EngineHostCommandsAct :
    (∃ (s : State) (a : BitVec 24) (be : BitVec 4), a.toNat % 4 = 0 ∧ inRams .live a.toNat = true ∧ be ≠ 0#4 ∧ (s.running = false ∨ inHostRows a.toNat = true)) ∧
    (∃ (s : State) (a : BitVec 24) (be : BitVec 4), a.toNat % 4 = 0 ∧ inRams .live a.toNat = true ∧ be ≠ 0#4 ∧ s.running = true ∧ inHostRows a.toNat = false) ∧
    (∃ (a : BitVec 24) (be : BitVec 4), a.toNat % 4 = 0 ∧ inRams .live a.toNat = false ∧ inRams .shadow a.toNat = true ∧ inProg .live a.toNat = false ∧ inHostRows a.toNat = false ∧ be ≠ 0#4) ∧
    (∃ (s : State) (t : State), t = (s.put F.CME_CTRL_CHECK 1).setRes A.CME_CHECK_HI { (s.put F.CME_CTRL_CHECK 1).res A.CME_CHECK_HI with busy := true }) ∧
    (∃ (s : State) (t : State) (r : Nat × Nat × Nat × Int), s.cme.checkRun = true ∧ r = s.progCheck .live (s.get F.CME_ENTRY) ∧ t = { s with cme := { s.cme with checkRun := false, checkDirty := false } }) ∧
    (∃ (s : State) (t : State) (v : BitVec 6), t = s.put F.CME_ARM_RESTORE v.toNat) ∧
    (∃ (s : State) (t : State), t = s.put F.CME_DBG_HALT 1) ∧
    (∃ (s : State), s.mayIssue .live = true ∧ s.atBreak = true) ∧
    (∃ (s : State) (t : State), s.on F.CME_DBG_CTRL = true ∧ s.on F.CME_DBG_STAT_HALTED = true ∧ t = s.put F.CME_DBG_STEP 0) ∧
    (∃ (s : State) (t : State) (v : State), t = s.put F.CME_DBG_HALT 0 ∧ t.on F.CME_DBG_STAT_HALTED = true ∧ v = (t.put F.CME_DBG_STAT_HALTED 0).put F.CME_DBG_STAT_AT_BRK 0) ∧
    (∃ (s : State), s.on F.BAL_STAT_WARMUP = true ∧ s.on F.YARD_WARMUP_WU_LEFT = false) :=
  ⟨⟨State.reset, 0xC00000#24, 15#4, by decide +kernel, by decide +kernel, by decide +kernel, by decide +kernel⟩,
   ⟨withFields [(F.YARD_STAT_STATE, 2)], 0xC00000#24, 15#4, by decide +kernel, by decide +kernel, by decide +kernel, by decide +kernel, by decide +kernel⟩,
   ⟨0xD00000#24, 15#4, by decide +kernel, by decide +kernel, by decide +kernel, by decide +kernel, by decide +kernel, by decide +kernel⟩,
   ⟨State.reset, _, rfl⟩,
   ⟨{ State.reset with cme := { State.reset.cme with checkRun := true } }, _, _, by decide +kernel, rfl, rfl⟩,
   ⟨State.reset, _, 5#6, rfl⟩,
   ⟨State.reset, _, rfl⟩,
   ⟨State.put (State.put (engAt 0) F.CME_DBG_CTRL 1) F.CME_DBG_BRK_EN 1, by decide +kernel, by decide +kernel⟩,
   ⟨withFields [(F.CME_DBG_CTRL, 1), (F.CME_DBG_STAT_HALTED, 1)], _, by decide +kernel, by decide +kernel, rfl⟩,
   ⟨withFields [(F.CME_DBG_CTRL, 1), (F.CME_DBG_STAT_HALTED, 1)], _, _, rfl, by decide +kernel, rfl⟩,
   ⟨withFields [(F.BAL_STAT_WARMUP, 1)], by decide +kernel, by decide +kernel⟩⟩

/-- The hypotheses of each clause of `Obligations.PaddockCommandsAct` are met together. -/
theorem test_wit_PaddockCommandsAct :
    (∃ (s : State) (r : Nat × Nat × Nat × Int), s.cmdIs 0x30 = true ∧ s.cme.pad.st = .none ∧ s.cmdArg 0 % 4 = 0 ∧ (s.get F.SEC_STAT_OWNER_STATE = 0 ∨ (s.reg A.SEC_POLICY).toNat.testBit 8 = false) ∧ r = s.progCheck .shadow (s.cmdArg 2 % 2 ^ 14)) ∧
    (∃ (s : State) (t : State) (i : Image), s.cmdIs 0x30 = true ∧ s.cme.pad.st = .none ∧ s.cmdArg 0 % 4 = 1 ∧ s.programEntry (s.cmdArg 1) = true ∧ i = s.image (s.cmdArg 1) ∧ t = (s.flashAgain 9 i).imageToPaddock i) ∧
    (∃ (s : State), s.padMode 0 = true ∧ s.cme.pad.st = .shadow ∧ s.yardState = yardRun ∧ s.on F.CME_DBG_STAT_HALTED = false) ∧
    (∃ (s : State) (t : State), s.padMode 0 = true ∧ s.cme.pad.st = .shadow ∧ s.yardState ≠ yardRun ∧ s.yardState ≠ yardStopping ∧ s.cmdArg 1 = 0 ∧ s.on F.CME_DBG_STAT_HALTED = false ∧ s.padArgsOk = true ∧ t = ((s.withPad s.padArm).exchangeRoles.put F.CME_STAT_PROG_OK 1).retain) ∧
    (∃ (s : State), s.padMode 1 = true) ∧
    (∃ (s : State) (t : State) (d : Bool), s.padMode 2 = true ∧ s.cme.pad.st ≠ .none ∧ t = s.padEnd d) ∧
    (∃ (s : State), s.padMode 3 = true ∧ s.cme.pad.st = .retain ∧ s.yardState = yardRun) ∧
    (∃ (s : State) (t : State), s.cme.pad.st = .compare ∧ s.cme.pad.exchange.isNone = true ∧ t = (if s.comparing && !s.atBoundary && s.periodCompared then s.padCompare else s) ∧ t.cme.pad.n ≤ t.cme.pad.done) ∧
    (∃ (s : State) (t : State) (back : Bool), s.exchangeDue = some back ∧ t = (if back = true then { s.exchangeRoles with upd := { s.exchangeRoles.upd with session := none } }.setPad .shadow else s.exchangeRoles.retain)) ∧
    (∃ (s : State), s.cme.pad.st = .retain ∧ s.cme.pad.exchange.isNone = true ∧ s.cme.pad.retainEnd ≤ s.yard.bnd) :=
  ⟨⟨{ State.reset with cmd := some ⟨0x30, .host, [4#32], [], 0, none⟩ }, _, by decide +kernel, by decide +kernel, by decide +kernel, by decide +kernel, rfl⟩,
   ⟨{ withFields [(F.UPD_VTAB_INFO_VALID 0, 1), (F.UPD_VTAB_INFO_KIND 0, 2)] with cmd := some ⟨0x30, .host, [1#32], [], 0, none⟩ }, _, _, by decide +kernel, by decide +kernel, by decide +kernel, by decide +kernel, rfl, rfl⟩,
   ⟨({ withFields [(F.YARD_STAT_STATE, 2)] with cmd := some ⟨0x31, .host, [0#32, 16#32], [], 0, none⟩ }).setPad .shadow, by decide +kernel, by decide +kernel, by decide +kernel, by decide +kernel⟩,
   ⟨({ State.reset with cmd := some ⟨0x31, .host, [], [], 0, none⟩ }).setPad .shadow, _, by decide +kernel, by decide +kernel, by decide +kernel, by decide +kernel, by decide +kernel, by decide +kernel, by decide +kernel, rfl⟩,
   ⟨{ State.reset with cmd := some ⟨0x31, .host, [1#32], [], 0, none⟩ }, by decide +kernel⟩,
   ⟨({ State.reset with cmd := some ⟨0x31, .host, [2#32], [], 0, none⟩ }).setPad .shadow, _, true, by decide +kernel, by decide +kernel, rfl⟩,
   ⟨({ withFields [(F.YARD_STAT_STATE, 2)] with cmd := some ⟨0x31, .host, [3#32], [], 0, none⟩ }).setPad .retain, by decide +kernel, by decide +kernel, by decide +kernel⟩,
   ⟨State.reset.setPad .compare, _, by decide +kernel, by decide +kernel, rfl, by decide +kernel⟩,
   ⟨{ State.withPad (withFields [(F.YARD_STAT_STATE, 2)]) { State.reset.cme.pad with exchange := some (0, true) } with yard := { State.reset.yard with bnd := 1 } }, _, true, by decide +kernel, rfl⟩,
   ⟨State.reset.setPad .retain, by decide +kernel, by decide +kernel, by decide +kernel⟩⟩

/-- The hypotheses of each clause of `Obligations.TimeBaseCommandsAct` are met together. -/
theorem test_wit_TimeBaseCommandsAct :
    (∃ (s : State) (t : State) (n : Fin 4) (k : Nat), s.time.stopped = false ∧ s.tbFull n.val / 2 ^ 32 = s.rolledOf n.val + k ∧ 0 < k ∧ t = ((s.put ⟨A.TIME_ROLLCNT, 8 * n.val, 8⟩ ((s.get ⟨A.TIME_ROLLCNT, 8 * n.val, 8⟩ + k) % 256)).setBitOf F.TIME_ROLL_FWD n.val).raise Base.TIME 0) ∧
    (∃ (s : State) (t : State) (n : Fin 4) (k : Nat), s.time.stopped = false ∧ s.tbFull n.val / 2 ^ 32 + k = s.rolledOf n.val ∧ 0 < k ∧ t = ((s.put ⟨A.TIME_ROLLCNT, 8 * n.val, 8⟩ ((s.get ⟨A.TIME_ROLLCNT, 8 * n.val, 8⟩ + 256 - k % 256) % 256)).setBitOf F.TIME_ROLL_BACK n.val).raise Base.TIME 0) ∧
    (∃ (s : State) (t : State) (n : Fin 4), s.time.stopped = false ∧ s.tbFull n.val / 2 ^ 32 = s.rolledOf n.val ∧ t = s.advance (s.ticksToTb n.val ((s.rolledOf n.val + 1) * 2 ^ 32))) ∧
    (∃ (s : State), s.time.stopped = true) ∧
    (∃ (s : State) (t : State) (g : Int), s.alignOk = true ∧ g = (s.srcTime (s.get F.TIME_CTRL_SEL) : Int) - (s.time.ctbF : Int) ∧ t = ({ s with pair := { s.pair with ctbGap := s.pair.ctbGap + g / 2 ^ 34 } } : State).withTime { s.time with ctbF := s.srcTime (s.get F.TIME_CTRL_SEL), jumps := (s.now, g / 2 ^ 40) :: s.time.jumps.filter (fun x => decide (s.now ≤ x.1 + 20000)) }) ∧
    (∃ (s : State), s.alignOk = false) ∧
    (∃ (s : State), s.on F.TIME_CTRL_ALIGN_EN = true ∧ s.ctbState = ctbFree ∧ s.alignOk = true) ∧
    (∃ (s : State) (t : State) (u : State), s.time.stopped = false ∧ s.ctbState ≠ ctbFree ∧ t = s.until (s.time.servoAt + ms) ∧ u = (t.withTime { t.time with servoAt := t.now }).noteQualified.ctbJudge) ∧
    (∃ (s : State) (t : State) (n : Fin 8), s.time.stopped = false ∧ s.on (F.TIME_CMP_CFG_EN n.val) = true ∧ s.time.cmpDue.testBit n.val = false ∧ 0 < s.cmpWait n.val ∧ t = s.advance (s.ticksToTb (s.get (F.TIME_CMP_CFG_TB n.val)) (s.tbFull (s.get (F.TIME_CMP_CFG_TB n.val)) + s.cmpWait n.val))) ∧
    (∃ (s : State) (t : State) (n : Fin 8), s.time.stopped = false ∧ s.on (F.TIME_CMP_CFG_EN n.val) = true ∧ s.time.cmpDue.testBit n.val = true ∧ t = s.advance cyc) ∧
    (∃ (s : State) (ns : Nat), 20 ≤ ns ∧ (s.fifo A.TIME_CAP_LO).length < 16) ∧
    (∃ (s : State) (ns : Nat), 20 ≤ ns ∧ 16 ≤ (s.fifo A.TIME_CAP_LO).length) :=
  ⟨⟨State.withTime State.reset { State.reset.time with tb2 := 5 * 2 ^ 32 }, _, 2, 1, by decide +kernel, by decide +kernel, by decide +kernel, rfl⟩,
   ⟨State.withTime State.reset { State.reset.time with rolled := [(2, 1)] }, _, 2, 1, by decide +kernel, by decide +kernel, by decide +kernel, rfl⟩,
   ⟨State.reset, _, 3, by decide +kernel, by decide +kernel, rfl⟩,
   ⟨{ State.reset with time := { State.reset.time with stopped := true } }, by decide +kernel⟩,
   ⟨withFields [(F.TIME_STAT_DOMA_STATE, 3)], _, _, by decide +kernel, rfl, rfl⟩,
   ⟨State.reset, by decide +kernel⟩,
   ⟨withFields [(F.TIME_STAT_DOMA_STATE, 3), (F.TIME_CTRL_ALIGN_EN, 1)], by decide +kernel, by decide +kernel, by decide +kernel⟩,
   ⟨withFields [(F.TIME_STAT_CTB_STATE, 1)], _, _, by decide +kernel, by decide +kernel, rfl, rfl⟩,
   ⟨withFields [(F.TIME_CMP_CFG_EN 2, 1), (F.TIME_CMP_VAL 2, 7)], _, 2, by decide +kernel, by decide +kernel, by decide +kernel, by decide +kernel, rfl⟩,
   ⟨State.withTime (withFields [(F.TIME_CMP_CFG_EN 2, 1)]) { State.reset.time with cmpDue := 4 }, _, 2, by decide +kernel, by decide +kernel, by decide +kernel, rfl⟩,
   ⟨State.reset, 20, by decide +kernel, by decide +kernel⟩,
   ⟨{ State.reset with fifos := KMap.set (fun _ => []) [] A.TIME_CAP_LO (List.replicate 16 0) }, 20, by decide +kernel, by decide +kernel⟩⟩

/-- The hypotheses of each clause of `Obligations.NetworkTimeCommandsAct` are met together. -/
theorem test_wit_NetworkTimeCommandsAct :
    (∃ (s : State), s.on (F.cfgLock Base.TIME) = false) ∧
    (∃ (s : State) (t : State) (d : Dom) (m : SyncMsg), m.port ≠ .e3 ∧ -4 ≤ m.logInt ∧ m.logInt ≤ 1 ∧ s.portUp (portIx m.port) = true ∧ s.domOf m.domain = some d ∧ (s.dom d).master = some m.source ∧ t = s.setDom d { s.dom d with lastSync := setAt (s.dom d).lastSync (portIx m.port) (some s.now), logSync := m.logInt }) ∧
    (∃ (m : SyncMsg), m.port = .e3) ∧
    (∃ (s : State) (t : State) (d : Dom) (m : AnnMsg), m.port ≠ .e3 ∧ -3 ≤ m.logInt ∧ m.logInt ≤ 1 ∧ s.portUp (portIx m.port) = true ∧ s.on F.SYS_STAT_SVR_UP = true ∧ s.domOf m.domain = some d ∧ t = (s.setDom d { s.dom d with foreign := addForeign s.now (portIx m.port + 1) m (s.dom d).foreign }).bmca d) ∧
    (∃ (s : State) (u : State) (v : State) (t : State), u = s.until (s.time.pdAt + sec) ∧ v = u.withTime { u.time with pdAt := u.now } ∧ v.portUp 0 = true ∧ t = (v.withTime { v.time with pdSeq := setAt v.time.pdSeq 0 ((v.time.pdSeq.getD 0 0 + 1) % 2 ^ 16), pdSent := setAt v.time.pdSent 0 (some (v.egress 0, v.time.pdSeq.getD 0 0)) }).sendEvent .e1 2 (v.time.pdSeq.getD 0 0) 0 0) ∧
    (∃ (s : State) (m : PdReq), m.port ≠ .e3 ∧ s.portUp (portIx m.port) = true) ∧
    (∃ (s : State) (m : PdResp) (st : Nat), m.port ≠ .e3 ∧ s.time.pdSent.getD (portIx m.port) none = some (st, m.seq)) ∧
    (∃ (s : State) (t : State) (d : Dom), (s.dom d).master.isSome = true ∧ s.domState d ≠ 0 ∧ t = s.until (((s.dom d).lastSync.getD ((s.dom d).port - 1) none).getD (s.dom d).selAt + 3 * intervalTicks (s.dom d).logSync)) ∧
    (∃ (s : State) (t : State) (d : Dom), (s.dom d).master.isSome = true ∧ s.on F.SYS_STAT_SVR_UP = true ∧ t = s.until ((s.dom d).lastAnn + 3 * intervalTicks (s.dom d).logAnn)) ∧
    (∃ (s : State) (t : State) (d : Dom), s.domState d = 4 ∧ t = s.until ((s.dom d).holdAt + s.getOr F.TIME_LOCKCFG_HOLD_S 1 * sec)) ∧
    (∃ (s : State) (f : TcFrame) (o : EthPort), f.port ≠ .e3 ∧ f.kind ≠ .delay ∧ f.kind ≠ .pdelay ∧ s.on F.TIME_DOMCFG_TC_EN = true ∧ s.ringForwards = true ∧ o = (if f.port = .e1 then EthPort.e2 else EthPort.e1)) :=
  ⟨⟨State.reset, by decide +kernel⟩,
   ⟨State.setDom (withFields [(F.ETH_CTRL_E12_EN, 1), (linkFld 0, 1), (F.TIME_STAT_DOMA_STATE, 2)]) .a { State.reset.time.domA with master := some 7 }, _, .a, ⟨.e1, 0, 7, 0, 0, 0, 0⟩, by decide +kernel, by decide +kernel, by decide +kernel, by decide +kernel, by decide +kernel, by decide +kernel, rfl⟩,
   ⟨⟨.e3, 0, 7, 0, 0, 0, 0⟩, by decide +kernel⟩,
   ⟨withFields [(F.ETH_CTRL_E12_EN, 1), (linkFld 0, 1), (F.TIME_STAT_DOMA_STATE, 1), (F.SYS_STAT_SVR_UP, 1)], _, .a, ⟨.e1, 0, 7, 0, 0, 0, 0, 0, 0, 0, 0, 0, true, false, false⟩, by decide +kernel, by decide +kernel, by decide +kernel, by decide +kernel, by decide +kernel, by decide +kernel, rfl⟩,
   ⟨withFields [(F.ETH_CTRL_E12_EN, 1), (linkFld 0, 1)], _, _, _, rfl, rfl, by decide +kernel, rfl⟩,
   ⟨withFields [(F.ETH_CTRL_E12_EN, 1), (linkFld 0, 1)], ⟨.e1, 1, 2, 3⟩, by decide +kernel, by decide +kernel⟩,
   ⟨State.withTime State.reset { State.reset.time with pdSent := [some (0, 3), none] }, ⟨.e1, 3, 0, 0⟩, 0, by decide +kernel, by decide +kernel⟩,
   ⟨State.setDom (withFields [(F.TIME_STAT_DOMA_STATE, 3)]) .a { State.reset.time.domA with lastSync := [some 0, none], port := 1, master := some 7 }, _, .a, by decide +kernel, by decide +kernel, rfl⟩,
   ⟨State.setDom (withFields [(F.SYS_STAT_SVR_UP, 1)]) .a { State.reset.time.domA with master := some 7 }, _, .a, by decide +kernel, by decide +kernel, rfl⟩,
   ⟨withFields [(F.TIME_STAT_DOMA_STATE, 4)], _, .a, by decide +kernel, rfl⟩,
   ⟨{ withFields [(F.TIME_DOMCFG_TC_EN, 1), (F.ETH_CTRL_E12_EN, 1), (linkFld 0, 1), (linkFld 1, 1)] with eth := { State.reset.eth with mode := 1 } }, ⟨.e1, .sync, 0, 0, 0, 0#16⟩, _, by decide +kernel, by decide +kernel, by decide +kernel, by decide +kernel, by decide +kernel, rfl⟩⟩

/-- The hypotheses of each clause of `Obligations.CalendarCommandsAct` are met together. -/
theorem test_wit_CalendarCommandsAct :
    (∃ (s : State) (t : State) (d : Dom), s.rtc.running = true ∧ s.on F.RTC_CTRL_SYNC_EN = true ∧ s.ctbState = ctbTracking ∧ s.get F.TIME_STAT_SRC_ACT = domTb d ∧ t = s.advance (s.ticksToTb (domTb d) (((s.dom d).ns / 1000000000 + 1) * 1000000000))) ∧
    (∃ (s : State), s.rtc.running = true ∧ s.on F.RTC_CTRL_TRIM_AUTO = true ∧ s.ctbState = ctbTracking ∧ s.get F.TIME_STAT_SRC_ACT < 2) ∧
    (∃ (s : State) (t : State), s.rtc.inflight = none ∧ t = ((s.withRtc { s.rtc with inflight := some (A.RTC_CMD, 1#32) }).put F.RTC_STAT_WR_BUSY 1)) ∧
    (∃ (s : State) (a : Nat) (v : Word), s.rtc.inflight = some (a, v) ∧ a ≠ A.RTC_CMD) ∧
    (∃ (s : State) (t : State) (mv : Nat), t = ((s.withRtc { s.rtc with vbakMv := some mv }).put F.RTC_STAT_VBAK (min (mv / 20) 255)).put F.RTC_STAT_BACKUP_OK (if 2000 ≤ mv then 1 else 0)) ∧
    (∃ (mv : Nat), mv < 1600) ∧
    (∃ (s : State) (t : State) (mv : Nat), s.rtc.running = false ∧ 1600 ≤ mv ∧ t = [0x80008, A.RTC_UTC, A.RTC_TRIM, A.RTC_ALARM, A.RTC_TAMPER_TS, A.RTC_TAMPER_TSHI].foldl (fun (t : State) a => t.setReg a (RegMap.resetWord a)) s) ∧
    (∃ (s : State) (t : State), s.rtc.running = true ∧ s.on F.RTC_CTRL_ALARM_EN = true ∧ t = s.advance (s.ticksToAlarm (s.get F.RTC_ALARM))) ∧
    (∃ (s : State) (t : State), s.rtc.running = true ∧ t = (s.withRtc { s.rtc with tamperOpen := !s.on F.RTC_CTRL_TAMPER_POL }).put F.RTC_STAT_TAMPER_IN 1) ∧
    (∃ (s : State), s.rtc.running = true) :=
  ⟨⟨{ withFields [(F.RTC_CTRL_SYNC_EN, 1), (F.TIME_STAT_CTB_STATE, 1), (F.TIME_STAT_SRC_ACT, 0)] with rtc := { State.reset.rtc with running := true } }, _, .a, by decide +kernel, by decide +kernel, by decide +kernel, by decide +kernel, rfl⟩,
   ⟨{ withFields [(F.RTC_CTRL_TRIM_AUTO, 1), (F.TIME_STAT_CTB_STATE, 1), (F.TIME_STAT_SRC_ACT, 0)] with rtc := { State.reset.rtc with running := true } }, by decide +kernel, by decide +kernel, by decide +kernel, by decide +kernel⟩,
   ⟨State.reset, _, by decide +kernel, rfl⟩,
   ⟨State.withRtc State.reset { State.reset.rtc with inflight := some (A.RTC_ALARM, 5#32) }, A.RTC_ALARM, 5#32, by decide +kernel, by decide +kernel⟩,
   ⟨State.reset, _, 1900, rfl⟩,
   ⟨1500, by decide +kernel⟩,
   ⟨State.withRtc State.reset { State.reset.rtc with running := false }, _, 1600, by decide +kernel, by decide +kernel, rfl⟩,
   ⟨{ withFields [(F.RTC_CTRL_ALARM_EN, 1)] with rtc := { State.reset.rtc with running := true } }, _, by decide +kernel, by decide +kernel, rfl⟩,
   ⟨State.withRtc State.reset { State.reset.rtc with running := true }, _, by decide +kernel, rfl⟩,
   ⟨State.withRtc State.reset { State.reset.rtc with running := true }, by decide +kernel⟩⟩

/-- The hypotheses of each clause of `Obligations.ResetCommandsAct` are met together. -/
theorem test_wit_ResetCommandsAct :
    (∃ (s : State) (t : State) (mv : Nat), mv < 10800 ∧ t = s.resetAsk 3) ∧
    (∃ (s : State) (t : State), s.rst.mrstLow = false ∧ t = s.resetAsk 1) ∧
    (∃ (s : State) (t : State) (at0 : Nat), s.rst.preAt = some at0 ∧ t = s.until (at0 + 3 * us)) ∧
    (∃ (s : State) (t : State), s.rst.asserted = true ∧ s.rst.off = false ∧ s.rst.mrstLow = false ∧ t = (if s.rst.causes.testBit 2 = true then s.until (s.rst.at0 + 2 * ms) else s)) ∧
    (∃ (s : State) (t : State), s.rst.off = true ∧ t = (if s.rst.asserted = true then s else s.resetAssert)) ∧
    (∃ (s : State), s.rst.asserted = true) ∧
    (∃ (s : State), s.rst.asserted = false ∧ s.rst.button = .open) ∧
    (∃ (s : State) (t : State) (n : Nat) (at0 : Nat), s.rst.asserted = false ∧ s.rst.button = .pressed at0 ∧ t = s.until (at0 + n * ms)) ∧
    (∃ (s : State) (t : State) (at0 : Nat), s.rst.button = .pressed at0 ∧ t = s.until (at0 + 10 * sec)) ∧
    (∃ (s : State) (t : State) (at0 : Nat), s.rst.button = .held at0 ∧ t = s.until (at0 + 60 * sec)) ∧
    (∃ (s : State) (t : State) (at0 : Nat), s.rst.button = .stuck (some at0) ∧ t = s.until (at0 + sec)) ∧
    (∃ (s : State) (t : State), s.time.stopped = false ∧ t = { s with time := { s.time with stopped := true } }) ∧
    (∃ (s : State) (t : State), s.time.stopped = true ∧ t = { s with time := { s.time with stopped := false, relocks := s.time.relocks + 1, y := 0 }, aux := { s.aux with telDiscard := [true, true] } }) :=
  ⟨⟨State.reset, _, 10799, by decide +kernel, rfl⟩,
   ⟨State.reset, _, by decide +kernel, rfl⟩,
   ⟨State.withRst State.reset { State.reset.rst with preAt := some 0 }, _, 0, by decide +kernel, rfl⟩,
   ⟨State.withRst State.reset { State.reset.rst with asserted := true }, _, by decide +kernel, by decide +kernel, by decide +kernel, rfl⟩,
   ⟨State.withRst State.reset { State.reset.rst with off := true }, _, by decide +kernel, rfl⟩,
   ⟨State.withRst State.reset { State.reset.rst with asserted := true }, by decide +kernel⟩,
   ⟨State.withRst State.reset { State.reset.rst with button := .open }, by decide +kernel, by decide +kernel⟩,
   ⟨State.withRst State.reset { State.reset.rst with button := .pressed 0 }, _, 3000, 0, by decide +kernel, by decide +kernel, rfl⟩,
   ⟨State.withRst State.reset { State.reset.rst with button := .pressed 0 }, _, 0, by decide +kernel, rfl⟩,
   ⟨State.withRst State.reset { State.reset.rst with button := .held 0 }, _, 0, by decide +kernel, rfl⟩,
   ⟨State.withRst State.reset { State.reset.rst with button := .stuck (some 0) }, _, 0, by decide +kernel, rfl⟩,
   ⟨State.reset, _, by decide +kernel, rfl⟩,
   ⟨{ State.reset with time := { State.reset.time with stopped := true } }, _, by decide +kernel, rfl⟩⟩

/-- The hypotheses of each clause of `Obligations.EthernetCommandsAct` are met together. -/
theorem test_wit_EthernetCommandsAct :
    (∃ (s : State) (t : State) (v : Word), s.on (F.cfgLock Base.ETH) = false ∧ t = s.setReg 0x90008 (v &&& 0xF3F#32)) ∧
    (∃ (s : State) (p : EthPort) (fast : Bool), s.portOn (portIx p) = true ∧ s.on (sfpFld (portIx p)) = true ∧ speedOk (if portIx p = 2 then s.get F.ETH_CTRL_E3_SPEED else s.eth.speed) fast = true) ∧
    (∃ (s : State) (t : State) (p : EthPort) (present : Bool) (pins : SfpPins) (q : SfpPins), q = (if present = true then pins else noSfp) ∧ (s.on (sfpFld (portIx p)) ≠ present ∨ s.eth.sfpBad.getD (portIx p) noSfp ≠ q) ∧ t = (s.withEth { s.eth with sfpBad := setAt s.eth.sfpBad (portIx p) q }).put (sfpFld (portIx p)) (b2n present)) ∧
    (∃ (s : State) (p : EthPort) (present : Bool) (pins : SfpPins), s.on (sfpFld (portIx p)) = present ∧ s.eth.sfpBad.getD (portIx p) noSfp = (if present = true then pins else noSfp)) ∧
    (∃ (s : State) (f : EthFrame), s.portUp (portIx f.port) = true ∧ (f.fcsOk = false ∨ f.octets < 64 ∨ 1522 < f.octets)) ∧
    (∃ (s : State) (f : EthFrame), s.portUp (portIx f.port) = true ∧ f.fcsOk = true ∧ 64 ≤ f.octets ∧ f.octets ≤ 1522) ∧
    (∃ (s : State) (t : State), s.on F.ETH_CTRL_E12_EN = true ∧ s.eth.mode ≠ 2 ∧ t = s.until (s.eth.lifeAt + s.lifeTicks)) ∧
    (∃ (s : State) (t : State) (m : BitVec 48) (n : PrpNode) (a : Nat), s.eth.mode = 0 ∧ s.eth.nodes.find? (fun n => n.mac = m.toNat) = some n ∧ n.raised = false ∧ n.a = some a ∧ n.b = none ∧ t = s.until (n.first + 3 * s.lifeTicks) ∧ t.now ≤ n.last + 3 * s.lifeTicks) ∧
    (∃ (s : State) (t : State) (m : BitVec 48) (n : PrpNode), s.eth.nodes.find? (fun n => n.mac = m.toNat) = some n ∧ t = s.until (n.last + s.forgetTicks)) ∧
    (∃ (s : State) (t : State), s.on F.ETH_STAT_RING_CLOSED = true ∧ t = s.until (min ((s.eth.own.getD 0 none).getD 0) ((s.eth.own.getD 1 none).getD 0) + 2 * s.lifeTicks + 1)) ∧
    (∃ (s : State) (p : EthPort), s.portUp (portIx p) = true ∧ s.on F.SYS_STAT_SVR_UP = false) ∧
    (∃ (s : State) (p : EthPort), s.portUp (portIx p) = true ∧ s.on F.SYS_STAT_SVR_UP = true ∧ (if p = .e3 then s.get F.ETH_IP3 else s.get F.ETH_IP12) = 0) ∧
    (∃ (s : State) (p : EthPort) (o : List Byte), s.portUp (portIx p) = true ∧ s.on F.SYS_STAT_SVR_UP = true ∧ (if p = .e3 then s.get F.ETH_IP3 else s.get F.ETH_IP12) ≠ 0 ∧ s.stationKey (rraParse o).station = none) ∧
    (∃ (s : State) (p : EthPort) (o : List Byte) (key : List Byte), s.portUp (portIx p) = true ∧ s.on F.SYS_STAT_SVR_UP = true ∧ (if p = .e3 then s.get F.ETH_IP3 else s.get F.ETH_IP12) ≠ 0 ∧ s.stationKey (rraParse o).station = some key ∧ o.drop (o.length - 16) = rraTag key (o.take (o.length - 16)) ∧ (rraParse o).ok = true ∧ KMap.get (fun _ => none) s.eth.lastSeq (rraParse o).station = none ∧ s.eth.queue.length < 64) ∧
    (∃ (s : State) (p : EthPort), s.portUp (portIx p) = false) ∧
    (∃ (s : State) (q : RraReq) (rest : List RraReq) (r : State × Nat × List Byte), s.eth.queue = q :: rest ∧ s.on F.SYS_STAT_SVR_UP = true ∧ s.rraWaits (rraParse q.octets) = false ∧ r = (s.withEth { s.eth with queue := rest }).rraRun q.port (rraParse q.octets)) :=
  ⟨⟨State.reset, _, 1#32, by decide +kernel, rfl⟩,
   ⟨withFields [(F.ETH_CTRL_E12_EN, 1), (sfpFld 0, 1)], .e1, true, by decide +kernel, by decide +kernel, by decide +kernel⟩,
   ⟨State.reset, _, .e1, true, ⟨true, false⟩, ⟨true, false⟩, by decide +kernel, by decide +kernel, rfl⟩,
   ⟨withFields [(sfpFld 0, 1)], .e1, true, noSfp, by decide +kernel, by decide +kernel⟩,
   ⟨withFields [(F.ETH_CTRL_E12_EN, 1), (linkFld 0, 1)], ⟨.e1, 63, true, 5, .own, .arp, none, none⟩, by decide +kernel, by decide +kernel⟩,
   ⟨withFields [(F.ETH_CTRL_E12_EN, 1), (linkFld 0, 1)], ⟨.e1, 64, true, 5, .own, .arp, none, none⟩, by decide +kernel, by decide +kernel, by decide +kernel, by decide +kernel⟩,
   ⟨{ withFields [(F.ETH_CTRL_E12_EN, 1)] with eth := { State.reset.eth with mode := 0 } }, _, by decide +kernel, by decide +kernel, rfl⟩,
   ⟨State.withEth State.reset { State.reset.eth with mode := 0, nodes := [⟨9, 0, some 5, none, false⟩] }, _, 9#48, ⟨9, 0, some 5, none, false⟩, 5, by decide +kernel, by decide +kernel, by decide +kernel, by decide +kernel, by decide +kernel, rfl, by decide +kernel⟩,
   ⟨State.withEth State.reset { State.reset.eth with nodes := [⟨9, 0, some 5, none, false⟩] }, _, 9#48, ⟨9, 0, some 5, none, false⟩, by decide +kernel, rfl⟩,
   ⟨withFields [(F.ETH_STAT_RING_CLOSED, 1)], _, by decide +kernel, rfl⟩,
   ⟨withFields [(F.ETH_CTRL_E12_EN, 1), (linkFld 0, 1)], .e1, by decide +kernel, by decide +kernel⟩,
   ⟨withFields [(F.ETH_CTRL_E12_EN, 1), (linkFld 0, 1), (F.SYS_STAT_SVR_UP, 1)], .e1, by decide +kernel, by decide +kernel, by decide +kernel⟩,
   ⟨withFields [(F.ETH_CTRL_E12_EN, 1), (linkFld 0, 1), (F.SYS_STAT_SVR_UP, 1), (F.ETH_IP12, 1)], .e1, [], by decide +kernel, by decide +kernel, by decide +kernel, by decide +kernel⟩,
   ⟨{ withFields [(F.ETH_CTRL_E12_EN, 1), (linkFld 0, 1), (F.SYS_STAT_SVR_UP, 1), (F.ETH_IP12, 1)] with tack := { State.reset.tack with stations := [(0, [1#8])] } }, .e1, [0x4B#8, 0x59#8, 0x01#8, 0x04#8, 0x01#8, 0x00#8, 0x00#8, 0x00#8, 0x00#8, 0x00#8, 0x01#8, 0x00#8, 0x00#8, 0x00#8, 0x00#8, 0x00#8, 0x11#8, 0x7F#8, 0x67#8, 0xF5#8, 0x77#8, 0x9F#8, 0x46#8, 0x98#8, 0xE2#8, 0x36#8, 0x3C#8, 0x9F#8, 0x05#8, 0x84#8, 0x7E#8, 0xF1#8], [1#8], by decide +kernel, by decide +kernel, by decide +kernel, by decide +kernel, by decide +kernel, by decide +kernel, by decide +kernel, by decide +kernel⟩,
   ⟨State.reset, .e1, by decide +kernel⟩,
   ⟨{ withFields [(F.SYS_STAT_SVR_UP, 1)] with eth := { State.reset.eth with queue := [⟨.e1, [], 0⟩] } }, ⟨.e1, [], 0⟩, [], _, by decide +kernel, by decide +kernel, by decide +kernel, rfl⟩⟩

/-- The hypotheses of each clause of `Obligations.CanCommandsAct` are met together. -/
theorem test_wit_CanCommandsAct :
    (∃ (s : State) (t : State) (n : Fin 2) (v : Word), s.on (F.cfgLock (canBase n.val)) = false ∧ (s.reg (canBase n.val + 8)).toNat.testBit 0 = false ∧ v.toNat.testBit 2 = false ∧ t = s.setReg (canBase n.val + 8) ((v &&& 0xFB#32) ||| (s.reg (canBase n.val + 8) &&& 4#32)) ∧ t.on (F.CAN_CTRL_EN n.val) = true) ∧
    (∃ (s : State) (t : State) (n : Fin 2) (v : Word), s.on (F.cfgLock (canBase n.val)) = false ∧ (s.reg (canBase n.val + 8)).toNat.testBit 0 = true ∧ v.toNat.testBit 2 = false ∧ t = s.setReg (canBase n.val + 8) ((v &&& 0xFB#32) ||| (s.reg (canBase n.val + 8) &&& 4#32)) ∧ t.on (F.CAN_CTRL_EN n.val) = false) ∧
    (∃ (s : State) (t : State) (n : Fin 2) (m : Master) (v : Word), s.queueOwner n.val m = true ∧ v.toNat.testBit 31 = true ∧ t = s.put (F.CAN_TX_PUSH_ENTRY n.val) (v.toNat % 64)) ∧
    (∃ (s : State) (n : Fin 2) (m : Master), s.queueOwner n.val m = false) ∧
    (∃ (s : State) (n : Fin 2) (m : Master), s.queueOwner n.val m = true) ∧
    (∃ (s : State) (n : Fin 2) (m : Master) (sof : Nat), s.queueOwner n.val m = true ∧ s.canSending n.val sof = true) ∧
    (∃ (s : State) (t : State) (u : State) (n : Fin 2) (sof : Nat) (k : Nat) (later : Option (Nat × Nat)), s.canSending n.val sof = true ∧ s.refOffered n.val sof = true ∧ later = (s.canOf n.val).refNext.filter (fun p => decide (sof < p.1)) ∧ k = (later.map (fun p => p.2)).getD (s.get (F.CAN_TT_STAT_CYCLE n.val)) ∧ t = s.canEmit n.val (s.get (F.CAN_TT_REF_REF_ID n.val) + 2 ^ 29 * s.get (F.CAN_TT_REF_REF_IDE n.val)) (clampN 1 8 (s.get (F.CAN_REF_DATA_HI_REF_DLC n.val))) (s.refWords n.val k) ∧ u = t.setCan n.val { t.canOf n.val with refDue := later.map (fun p => p.1), refNext := none, refColl := 0, cycleAt := some sof, winCount := k, missed := 0 }) ∧
    (∃ (s : State) (t : State) (u : State) (n : Fin 2) (sof : Nat) (e : Nat), s.canSending n.val sof = true ∧ s.refOffered n.val sof = false ∧ s.canOffer n.val sof = some e ∧ t = ((s.canEmit n.val ((s.canOf n.val).entry e).head (s.sentCtl n.val ((s.canOf n.val).entry e)) ((s.canOf n.val).entry e).sentData).tdcMeasure n.val (s.sentCtl n.val ((s.canOf n.val).entry e))).setTxPend n.val e false ∧ u = ((((t.putPairBit (F.CAN_TX_DONE n.val) e true).setTxts n.val e sof).cnt (F.CAN_TX_OK n.val)).raise (canBase n.val) 0)) ∧
    (∃ (s : State) (n : Fin 2) (sof : Nat) (e : Nat), s.canSending n.val sof = true ∧ s.refOffered n.val sof = false ∧ s.canOffer n.val sof = some e) ∧
    (∃ (s : State) (t : State) (n : Fin 2) (sof : Nat) (e : Nat), s.canSending n.val sof = true ∧ s.refOffered n.val sof = false ∧ s.canOffer n.val sof = some e ∧ t = (s.clearColl n.val e).cnt (F.CAN_BUS_ERR n.val)) ∧
    (∃ (s : State) (n : Fin 2) (sof : Nat), s.canSending n.val sof = true ∧ s.refOffered n.val sof = true) ∧
    (∃ (s : State) (t : State) (n : Fin 2) (e : Fin 64) (x : CanEntry), x = (s.canOf n.val).entry e.val ∧ x.held = true ∧ t = s.until (x.heldAt + (1 + s.get F.SYS_SLOT_SLOT_ID) * 64 * s.nomBit n.val)) ∧
    (∃ (s : State) (n : Fin 2) (f : CanRx), s.on (F.CAN_CTRL_EN n.val) = true ∧ s.busOff n.val = false ∧ f.own = false) ∧
    (∃ (s : State) (n : Fin 2), s.get (F.CAN_STAT_ERR_STATE n.val) = 2 ∧ (s.put (F.CAN_CTRL_RECOVER n.val) 0).busOff n.val = true) ∧
    (∃ (s : State) (n : Fin 2), s.busOff n.val = true ∧ ((s.canOf n.val).recovering = true ∨ s.on (F.CAN_CTRL_AUTO_RECOV n.val) = true)) ∧
    (∃ (s : State) (t : State) (n : Fin 2), s.on (F.CAN_CTRL_EN n.val) = true ∧ s.busOff n.val = false ∧ t = s.cnt (F.CAN_BUS_ERR n.val)) ∧
    (∃ (s : State) (t : State) (n : Fin 2), s.canSends n.val = true ∧ s.on (F.CAN_TT_CFG_TT_EN n.val) = true ∧ t = s.untilCtb (s.nextCycle n.val)) ∧
    (∃ (s : State) (t : State) (n : Fin 2), s.canSends n.val = true ∧ s.on (F.CAN_TT_CFG_TT_EN n.val) = true ∧ s.on (F.CAN_STAT_BACKED n.val) = true ∧ 8 ≤ (s.canOf n.val).quiet ∧ t = ((s.untilCtb (s.nextCycle n.val)).put (F.CAN_STAT_BACKED n.val) 0).put (F.CAN_TT_STAT_BACKED n.val) 0) ∧
    (∃ (s : State) (t : State) (n : Fin 2) (e : Fin 64), s.on (F.CAN_CTRL_EN n.val) = true ∧ s.on (F.CAN_TT_CFG_TT_EN n.val) = true ∧ s.txPend n.val e.val = true ∧ ((s.canOf n.val).entry e.val).tt = true ∧ (s.canOf n.val).cycleAt.isSome = true ∧ ((s.canOf n.val).entry e.val).inCycle (s.canOf n.val).winCount = true ∧ (s.canOf n.val).missed.testBit e.val = false ∧ t = (if (s.canOf n.val).refDue.isSome = true ∨ s.on (F.CAN_STAT_BACKED n.val) = true then s else s.untilCtb (s.nextCycle n.val))) :=
  ⟨⟨State.reset, _, 1, 1#32, by decide +kernel, by decide +kernel, by decide +kernel, rfl, by decide +kernel⟩,
   ⟨withFields [(F.CAN_CTRL_EN 1, 1)], _, 1, 0#32, by decide +kernel, by decide +kernel, by decide +kernel, rfl, by decide +kernel⟩,
   ⟨State.reset, _, 1, .host, 0x80000005#32, by decide +kernel, by decide +kernel, rfl⟩,
   ⟨State.reset, 1, .supervisor, by decide +kernel⟩,
   ⟨State.reset, 1, .host, by decide +kernel⟩,
   ⟨withFields [(F.CAN_CTRL_EN 1, 1)], 1, .host, 9, by decide +kernel, by decide +kernel⟩,
   ⟨State.setCan (withFields [(F.CAN_CTRL_EN 1, 1)]) 1 { refDue := some 0 }, _, _, 1, 9, _, _, by decide +kernel, by decide +kernel, rfl, rfl, rfl, rfl⟩,
   ⟨withFields [(F.CAN_CTRL_EN 1, 1), (F.CAN_TX_PEND 1 0, 32)], _, _, 1, 9, 5, by decide +kernel, by decide +kernel, by decide +kernel, rfl, rfl⟩,
   ⟨withFields [(F.CAN_CTRL_EN 1, 1), (F.CAN_TX_PEND 1 0, 32)], 1, 9, 5, by decide +kernel, by decide +kernel, by decide +kernel⟩,
   ⟨withFields [(F.CAN_CTRL_EN 1, 1), (F.CAN_TX_PEND 1 0, 32)], _, 1, 9, 5, by decide +kernel, by decide +kernel, by decide +kernel, rfl⟩,
   ⟨State.setCan (withFields [(F.CAN_CTRL_EN 1, 1)]) 1 { refDue := some 0 }, 1, 9, by decide +kernel, by decide +kernel⟩,
   ⟨State.setCan State.reset 1 (CanSt.setEntry {} 7 { held := true }), _, 1, 7, _, rfl, by decide +kernel, rfl⟩,
   ⟨withFields [(F.CAN_CTRL_EN 1, 1)], 1, ⟨5#29, false, false, false, false, false, 0#4, [], 0, false⟩, by decide +kernel, by decide +kernel, by decide +kernel⟩,
   ⟨withFields [(F.CAN_STAT_ERR_STATE 1, 2)], 1, by decide +kernel, by decide +kernel⟩,
   ⟨State.setCan (withFields [(F.CAN_STAT_ERR_STATE 1, 2)]) 1 { recovering := true }, 1, by decide +kernel, by decide +kernel⟩,
   ⟨withFields [(F.CAN_CTRL_EN 1, 1)], _, 1, by decide +kernel, by decide +kernel, rfl⟩,
   ⟨withFields [(F.CAN_CTRL_EN 1, 1), (F.CAN_TT_CFG_TT_EN 1, 1)], _, 1, by decide +kernel, by decide +kernel, rfl⟩,
   ⟨State.setCan (withFields [(F.CAN_CTRL_EN 1, 1), (F.CAN_TT_CFG_TT_EN 1, 1), (F.CAN_STAT_BACKED 1, 1)]) 1 { quiet := 8 }, _, 1, by decide +kernel, by decide +kernel, by decide +kernel, by decide +kernel, rfl⟩,
   ⟨State.setCan (withFields [(F.CAN_CTRL_EN 1, 1), (F.CAN_TT_CFG_TT_EN 1, 1), (F.CAN_TX_PEND 1 0, 32)]) 1 (CanSt.setEntry { cycleAt := some 0 } 5 { words := [0#32, 0#32, 0x80000000#32] }), _, 1, 5, by decide +kernel, by decide +kernel, by decide +kernel, by decide +kernel, by decide +kernel, by decide +kernel, by decide +kernel, rfl⟩⟩

/-- The hypotheses of each clause of `Obligations.MeasurementCommandsAct` are met together. -/
theorem test_wit_MeasurementCommandsAct :
    (∃ (s : State) (k : Fin 8), s.get (F.ADC_CH_TRIG_SRC k.val) ≠ 5 ∧ s.bitOf F.ADC_CTRL_EN k.val = true ∧ s.pairedOdd k.val = false ∧ s.calBusy k.val = false ∧ (s.conv8 k.val).run = none) ∧
    (∃ (s : State) (t : State) (k : Fin 8), s.get (F.ADC_CH_TRIG_SRC k.val) ≠ 5 ∧ s.bitOf F.ADC_CTRL_EN k.val = true ∧ s.pairedOdd k.val = false ∧ s.calBusy k.val = true ∧ t = s.put (F.ADC_CH_TRIG_START k.val) 0) ∧
    (∃ (s : State) (k : Fin 8), s.get (F.ADC_CH_TRIG_SRC k.val) = 5) ∧
    (∃ (s : State) (k : Fin 8) (src : Nat), src = s.get (F.ADC_CH_TRIG_SRC k.val) ∧ ((src = 2 ∧ (s.get (F.TIME_CMP_CFG_OUT (s.get (F.ADC_CH_TRIG_SEL k.val) % 8))).testBit 2 = true) ∨ (src = 3 ∧ (s.pwmCh (s.get (F.ADC_CH_TRIG_SEL k.val))).givesTrig = true) ∨ src = 4) ∧ s.bitOf F.ADC_CTRL_EN k.val = true ∧ s.pairedOdd k.val = false ∧ s.calBusy k.val = false ∧ (s.conv8 k.val).run = none) ∧
    (∃ (s : State) (k : Fin 8), s.get (F.ADC_CH_TRIG_SRC k.val) = 3 ∧ (s.pwmCh (s.get (F.ADC_CH_TRIG_SEL k.val))).givesTrig = false) ∧
    (∃ (s : State) (t : State) (k : Fin 8), s.get (F.ADC_CH_TRIG_SRC k.val) = 1 ∧ s.running = true ∧ s.perTicks ≠ 0 ∧ t = s.untilCtb (s.periodTrig k.val)) ∧
    (∃ (s : State) (t : State) (k : Fin 8) (raw : List (BitVec 16)) (r : AdcRun) (o : AdcOld), (s.conv8 k.val).run = some r ∧ (s.convTakes k.val = true ∨ (s.conv8 k.val).old ≠ []) ∧ o = s.adcNow k.val ∧ raw.length = o.d k.val ∧ t = s.until (r.next + o.step * (o.d k.val - 1))) ∧
    (∃ (s : State) (t : State) (k : Fin 8), s.settled k.val = false ∧ t = s.until (s.sampleFrom k.val (s.conv8 k.val).unsUntil)) ∧
    (∃ (s : State) (t : State) (u : State) (mv : Nat) (n : Nat), t = (s.until (s.adc.vrefAt + 10 * us)).put F.ADC_VREFX mv ∧ u = t.put F.ADC_STAT_VREFX_OK (if t.vrefOut then 0 else 1) ∧ n = (if u.on F.ADC_STAT_REF_ACT && u.vrefOut then u.adc.vrefBad + 1 else 0)) ∧
    (∃ (s : State), s.cmdIs 0x40 = true ∧ s.cmdArg 0 % 256 = 0) ∧
    (∃ (s : State) (t : State) (m : List CalMeas), s.cmdIs 0x40 = true ∧ s.cmdArg 0 % 256 ≠ 0 ∧ t = s.calTake m s.calLeft) ∧
    (∃ (s : State) (x : CalMeas), calOk x = true ∧ s.tableLock = false) ∧
    (∃ (s : State) (x : CalMeas), (calOk x = false ∨ s.tableLock = true)) ∧
    (∃ (s : State) (t : State) (n : Fin 12) (high : Bool) (mv : Int) (ns : Nat), s.sideOn n.val high = true ∧ s.bitOf (liveFld high) n.val = false ∧ s.pastThr n.val high mv = true ∧ cmpFilt (s.get (F.ADC_CMP_ACT_FILT n.val)) ≤ ns ∧ t = ((((s.setBitOf (liveFld high) n.val).setBitOf (trippedFld high) n.val).put F.ADC_FAULT_STAT_CMP_TRIP 1).cnt F.ADC_CMP_TRIPS).raise Base.ADC 3) ∧
    (∃ (s : State) (n : Fin 12) (high : Bool) (mv : Int) (ns : Nat), s.bitOf (liveFld high) n.val = true ∧ s.insideHyst n.val high mv = true ∧ cmpFilt (s.get (F.ADC_CMP_ACT_FILT n.val)) ≤ ns) ∧
    (∃ (s : State) (t : State), t = s.until (s.therm.at0 + ms)) :=
  ⟨⟨withFields [(F.ADC_CTRL_EN, 4)], 2, by decide +kernel, by decide +kernel, by decide +kernel, by decide +kernel, by decide +kernel⟩,
   ⟨{ withFields [(F.ADC_CTRL_EN, 4)] with adc := { State.reset.adc with cal := [(2, 0)], calEnd := 10 }, cmd := some ⟨0x40, .host, [4#32], [], 0, none⟩ }, _, 2, by decide +kernel, by decide +kernel, by decide +kernel, by decide +kernel, rfl⟩,
   ⟨withFields [(F.ADC_CH_TRIG_SRC 2, 5)], 2, by decide +kernel⟩,
   ⟨withFields [(F.ADC_CTRL_EN, 4), (F.ADC_CH_TRIG_SRC 2, 4)], 2, 4, rfl, by decide +kernel, by decide +kernel, by decide +kernel, by decide +kernel, by decide +kernel⟩,
   ⟨withFields [(F.ADC_CH_TRIG_SRC 2, 3)], 2, by decide +kernel, by decide +kernel⟩,
   ⟨{ withFields [(F.YARD_STAT_STATE, 2), (F.ADC_CH_TRIG_SRC 2, 1)] with yard := { State.reset.yard with half := 20 } }, _, 2, by decide +kernel, by decide +kernel, by decide +kernel, rfl⟩,
   ⟨State.setConv8 (withFields [(F.ADC_CTRL_EN, 4)]) 2 { run := some ⟨0, 1, 0, 0, 0⟩ }, _, 2, [5#16], ⟨0, 1, 0, 0, 0⟩, _, by decide +kernel, by decide +kernel, rfl, by decide +kernel, rfl⟩,
   ⟨State.setConv8 State.reset 2 { unsFrom := 0, unsUntil := 5 }, _, 2, by decide +kernel, rfl⟩,
   ⟨State.reset, _, _, 2900, _, rfl, rfl, rfl⟩,
   ⟨{ State.reset with cmd := some ⟨0x40, .host, [0#32], [], 0, none⟩ }, by decide +kernel, by decide +kernel⟩,
   ⟨{ State.reset with cmd := some ⟨0x40, .host, [1#32], [], 0, none⟩ }, _, [], by decide +kernel, by decide +kernel, rfl⟩,
   ⟨State.reset, ⟨2, [(0, 0x4000), (0, 0x4000), (0, 0x4000), (0, 0x4000)]⟩, by decide +kernel, by decide +kernel⟩,
   ⟨State.reset, ⟨2, []⟩, by decide +kernel⟩,
   ⟨withFields [(F.ADC_CMP_ACT_EN_HI 3, 1)], _, 3, true, 20000, 1000, by decide +kernel, by decide +kernel, by decide +kernel, by decide +kernel, rfl⟩,
   ⟨withFields [(F.ADC_CMP_LIVE_HI, 8), (F.ADC_CMP_ACT_EN_HI 3, 1), (F.ADC_CMP_ACT_HIGH 3, 700)], 3, true, 0, 1000, by decide +kernel, by decide +kernel, by decide +kernel⟩,
   ⟨State.reset, _, rfl⟩⟩

/-- The hypotheses of each clause of `Obligations.PowerCommandsAct` are met together. -/
theorem test_wit_PowerCommandsAct :
    (∃ (s : State) (t : State) (i : Fin 2) (dc : Bool) (v : Nat), t = (s.put (F.AUX_FEED_V i.val) (min v 65535)).put (F.AUX_FEED_DC i.val) (if dc then 1 else 0)) ∧
    (∃ (s : State) (t : State) (mv : Nat), mv < 38000 ∧ t = s.setBus mv) ∧
    (∃ (s : State) (t : State) (mv : Nat), 44000 ≤ mv ∧ t = s.setBus mv) ∧
    (∃ (s : State) (t : State) (g : Fin 2) (v : Word) (u : AuxUndo), u = (s.aux.undo.filter (fun w => decide (w.cycle = s.cycleNo))).getD ⟨s.cycleNo, s.aux.grpA, s.aux.grpB, s.aux.loopA, s.aux.loopB, auxRegs.map (fun r => (r, s.reg r)), []⟩ ∧ t = { s with aux := { s.aux with undo := some { u with writes := u.writes ++ [(A.AUX_GRP_CFG g.val, v)] } } }) ∧
    (∃ (s : State) (t : State) (x : Fin 2) (v : Word) (u : AuxUndo), u = (s.aux.undo.filter (fun w => decide (w.cycle = s.cycleNo))).getD ⟨s.cycleNo, s.aux.grpA, s.aux.grpB, s.aux.loopA, s.aux.loopB, auxRegs.map (fun r => (r, s.reg r)), []⟩ ∧ t = { s with aux := { s.aux with undo := some { u with writes := u.writes ++ [(A.AUX_LOOP_CFG x.val, v)] } } }) ∧
    (∃ (s : State) (t : State) (g : Fin 2) (h : Nat), s.get (F.AUX_GRP_STAT_STATE g.val) = 1 ∧ h < s.ssMs g.val * ms ∧ t = (s.until ((s.grp g.val).ssAt + s.rampTicks g.val + h)).charged g.val) ∧
    (∃ (s : State) (t : State) (g : Fin 2), s.get (F.AUX_GRP_STAT_STATE g.val) = 1 ∧ t = s.until ((s.grp g.val).ssAt + s.ssMs g.val * ms)) ∧
    (∃ (s : State) (t : State) (g : Fin 2), s.get (F.AUX_GRP_STAT_STATE g.val) = 1 ∧ t = s.until ((s.grp g.val).ssAt + 2 * ms)) ∧
    (∃ (s : State) (t : State) (g : Fin 2) (j : Fin 3), s.get (F.AUX_GRP_STAT_STATE g.val) = 1 ∧ (s.grp g.val).chg.testBit j.val = true ∧ t = s.until ((s.grp g.val).chgAt + 100 * us)) ∧
    (∃ (s : State) (g : Fin 2), s.get (F.AUX_GRP_STAT_STATE g.val) = 1) ∧
    (∃ (s : State) (g : Fin 2), s.get (F.AUX_GRP_STAT_STATE g.val) = 2) ∧
    (∃ (s : State) (g : Fin 2), s.get (F.AUX_GRP_STAT_STATE g.val) = 2) ∧
    (∃ (s : State) (t : State) (u : State) (g : Fin 2), s.get (F.AUX_GRP_STAT_STATE g.val) = 3 ∧ t = s.until ((s.grp g.val).hicAt + s.hicMs g.val * ms) ∧ u = t.setGrp g.val { t.grp g.val with hiccups := (t.grp g.val).hiccups.filter (fun x => decide (t.now ≤ x + t.getOr (F.AUX_GRP_LIM_HIC_W g.val) 1 * sec)) }) ∧
    (∃ (s : State) (t : State) (g : Fin 2), t = s.put (F.AUX_GRP_FAULT_LATCH g.val) 0 ∧ t.get (F.AUX_GRP_STAT_STATE g.val) = 4) ∧
    (∃ (s : State) (t : State) (g : Fin 2) (c : Nat) (j : Nat), s.time.stopped = false ∧ t = (s.untilCtb c).refSettle g.val ∧ t.phActive g.val ≠ 0 ∧ t.dropout g.val = false ∧ (t.grp g.val).ssAt ≤ t.now ∧ j = nextPhase (t.phActive g.val) (t.grp g.val).turn ∧ t.valley g.val j = true) ∧
    (∃ (s : State) (t : State) (g : Fin 2) (c : Nat) (j : Nat), s.time.stopped = false ∧ t = (s.untilCtb c).refSettle g.val ∧ t.phActive g.val ≠ 0 ∧ t.dropout g.val = false ∧ (t.grp g.val).ssAt ≤ t.now ∧ j = nextPhase (t.phActive g.val) (t.grp g.val).turn ∧ t.valley g.val j = false) ∧
    (∃ (s : State) (g : Fin 2) (w : PhaseWindow), s.get (F.AUX_GRP_STAT_STATE g.val) = 2 ∧ w.runThroughout = true ∧ 10800 ≤ w.iout) ∧
    (∃ (s : State) (t : State) (g : Fin 2) (o : BitVec 3), t = (bitIndices 3 (o.toNat &&& s.get (F.AUX_GRP_FAULT_OPEN g.val))).foldl (State.readmitOpen g.val) s) ∧
    (∃ (s : State) (t : State) (u : State) (x : Fin 2) (m : LoopMeas), t = s.until ((s.loop x.val).updAt + 100 * us) ∧ t.time.stopped = false ∧ u = (((t.setLoop x.val { t.loop x.val with updAt := t.now }).put (F.AUX_LOOP_STAT_ILOOP x.val) (min m.iloop 65535)).complete (A.AUX_TEL (14 + x.val)) (min m.iloop 65535)).complete (A.AUX_TEL (4 + 3 * x.val)) (min m.pown 65535) ∧ (t.setLoop x.val { t.loop x.val with updAt := t.now }).time.stopped = false) ∧
    (∃ (s : State) (t : State) (x : Fin 2), s.get (F.AUX_LOOP_STAT_STATE x.val) = 3 ∧ t = s.until ((s.loop x.val).retryAt + sec)) ∧
    (∃ (s : State) (t : State) (x : Fin 2), t = s.put (F.AUX_LOOP_FAULT_LATCH x.val) 0 ∧ t.get (F.AUX_LOOP_STAT_STATE x.val) = 4) ∧
    (∃ (s : State) (t : State) (g : Fin 2) (l : List TelSample), l.length = 2 ^ min 10 (s.get F.AUX_CTRL_AVG_LOG2) ∧ s.time.stopped = false ∧ t = l.foldl (State.hold g.val) s) :=
  ⟨⟨State.reset, _, 1, true, 3000, rfl⟩,
   ⟨State.reset, _, 37999, by decide +kernel, rfl⟩,
   ⟨State.reset, _, 44000, by decide +kernel, rfl⟩,
   ⟨State.reset, _, 1, 5#32, _, rfl, rfl⟩,
   ⟨State.reset, _, 1, 5#32, _, rfl, rfl⟩,
   ⟨withFields [(F.AUX_GRP_STAT_STATE 1, 1)], _, 1, 5, by decide +kernel, by decide +kernel, rfl⟩,
   ⟨withFields [(F.AUX_GRP_STAT_STATE 1, 1)], _, 1, by decide +kernel, rfl⟩,
   ⟨withFields [(F.AUX_GRP_STAT_STATE 1, 1)], _, 1, by decide +kernel, rfl⟩,
   ⟨(withFields [(F.AUX_GRP_STAT_STATE 1, 1)]).setGrp 1 { chg := 4 }, _, 1, 2, by decide +kernel, by decide +kernel, rfl⟩,
   ⟨withFields [(F.AUX_GRP_STAT_STATE 1, 1)], 1, by decide +kernel⟩,
   ⟨withFields [(F.AUX_GRP_STAT_STATE 1, 2)], 1, by decide +kernel⟩,
   ⟨withFields [(F.AUX_GRP_STAT_STATE 1, 2)], 1, by decide +kernel⟩,
   ⟨withFields [(F.AUX_GRP_STAT_STATE 1, 3)], _, _, 1, by decide +kernel, rfl, rfl⟩,
   ⟨withFields [(F.AUX_GRP_STAT_STATE 1, 4)], _, 1, rfl, by decide +kernel⟩,
   ⟨(withFields [(F.AUX_GRP_STAT_PH_ACTIVE 1, 7)]).setGrp 1 { ph := [2000, 2000, 2000] }, _, 1, 5, _, by decide +kernel, rfl, by decide +kernel, by decide +kernel, by decide +kernel, rfl, by decide +kernel⟩,
   ⟨withFields [(F.AUX_GRP_STAT_PH_ACTIVE 1, 7)], _, 1, 5, _, by decide +kernel, rfl, by decide +kernel, by decide +kernel, by decide +kernel, rfl, by decide +kernel⟩,
   ⟨withFields [(F.AUX_GRP_STAT_STATE 1, 2)], 1, ⟨true, 10800, [], [], []⟩, by decide +kernel, by decide +kernel, by decide +kernel⟩,
   ⟨State.reset, _, 1, 7#3, rfl⟩,
   ⟨State.reset, _, _, 1, ⟨5, 6, 7⟩, rfl, by decide +kernel, rfl, by decide +kernel⟩,
   ⟨withFields [(F.AUX_LOOP_STAT_STATE 1, 3)], _, 1, by decide +kernel, rfl⟩,
   ⟨withFields [(F.AUX_LOOP_STAT_STATE 1, 4)], _, 1, rfl, by decide +kernel⟩,
   ⟨State.reset, _, 1, List.replicate (2 ^ min 10 (State.reset.get F.AUX_CTRL_AVG_LOG2)) ⟨0, 0, 0, 0, 0, 0, 0⟩, by decide +kernel, by decide +kernel, rfl⟩⟩

/-- The hypotheses of each clause of `Obligations.DriverAndPwmCommandsAct` are met together. -/
theorem test_wit_DriverAndPwmCommandsAct :
    (∃ (s : State) (h : Fin 10), s.hbDisabled h.val = false) ∧
    (∃ (s : State) (h : Fin 10), s.hbDisabled h.val = false) ∧
    (∃ (s : State) (t : State) (h : Fin 10) (mv : Nat), t = s.setHb h.val { s.hbs h.val with bstMv := mv } ∧ t.hbDisabled h.val = false ∧ mv < 8000) ∧
    (∃ (s : State) (u : State) (t : State) (h : Fin 10) (n : Nat) (mv : Nat) (wait : Nat), u = s.advance wait ∧ t = u.setHb h.val { u.hbs h.val with bstMv := mv } ∧ (t.gates h.val).1 = true ∧ (t.refreshN ≤ n ∨ mv < 10000)) ∧
    (∃ (s : State) (t : State) (h : Fin 10) (e : GateEdge), s.hbDisabled h.val = false ∧ s.driven h.val = true ∧ t = s.hbRelease h.val e) ∧
    (∃ (s : State) (t : State) (h : Fin 10) (mv : Nat), t = s.setHb h.val { s.hbs h.val with bstMv := mv } ∧ t.on (F.GDRV_HB_DISABLED h.val) = true) ∧
    (∃ (s : State) (t : State) (c : Fin 16), t = s.put (F.PWM_CH_CFG_EN c.val) 1 ∧ (t.reg (A.PWM_CH_CFG c.val)).toNat.testBit 31 = true ∧ (t.pwmCh c.val).running = false) ∧
    (∃ (s : State) (t : State) (c : Fin 16), t = s.put (F.PWM_CH_CFG_EN c.val) 0 ∧ (t.reg (A.PWM_CH_CFG c.val)).toNat.testBit 31 = false ∧ (t.pwmCh c.val).running = true) ∧
    (∃ (s : State) (t : State) (c : Fin 16), (s.pwmCh c.val).running = true ∧ (s.pwmCh c.val).haltMode ≠ 2 ∧ t = s.until ((s.pwmCh c.val).nextCut s.now) ∧ t.bitOf F.PWM_CTRL_COMMIT c.val = true) ∧
    (∃ (s : State) (c : Fin 16), (s.pwmCh c.val).running = false ∧ (s.pwmCh c.val).haltMode ≠ 2 ∧ s.bitOf F.PWM_CTRL_COMMIT c.val = true) ∧
    (∃ (s : State) (t : State) (c : Fin 16), (s.pwmCh c.val).running = true ∧ t = (s.until ((s.pwmCh c.val).nextReload s.now)).pwmPulse c.val (s.pwmCh c.val).len) ∧
    (∃ (s : State) (t : State) (c : Fin 16) (src : PwmSync), (s.pwmCh c.val).running = true ∧ syncSelected src (s.pwmCh c.val) = true ∧ t = (s.pwmPulse c.val ((s.pwmCh c.val).upto s.now)).advance (20 - (s.now - (s.pwmCh c.val).at0) % 20)) ∧
    (∃ (s : State) (c : Fin 16), s.pwmCause c.val = true ∧ (s.pwmCh c.val).tripped = false) ∧
    (∃ (s : State) (t : State) (i : Fin 8) (w : Nat), s.blankEnd i.val = some w ∧ t = s.until w) ∧
    (∃ (s : State) (t : State) (i : Fin 8) (lv : Bool) (a : Bool) (n : Nat), 4 * s.get (F.PWM_TRIPIN_TF i.val) ≤ n ∧ a = decide (lv ≠ s.on (F.PWM_TRIPIN_POL i.val)) ∧ a ≠ (s.tripInput i.val).active ∧ t = (s.setTripIn i.val ⟨a, a && (s.blankEnd i.val).isSome⟩).putBitOf F.PWM_STAT_TRIP_IN i.val a) ∧
    (∃ (s : State) (c : Fin 16), s.on (F.PWM_CH_TRIP_TRIPPED c.val) = true) :=
  ⟨⟨State.reset, 3, by decide +kernel⟩,
   ⟨State.reset, 3, by decide +kernel⟩,
   ⟨State.reset, _, 3, 7999, rfl, by decide +kernel, by decide +kernel⟩,
   ⟨withFields [(F.AUX_GRP_STAT_STATE 1, 2), (F.AUX_GRP_STAT_PH_ACTIVE 1, 7), (F.AUX_GRP_STAT_VSET 1, 5100)], _, _, 3, 64, 12000, 7, rfl, rfl, by decide +kernel, by decide +kernel⟩,
   ⟨withFields [(F.AUX_GRP_STAT_PH_ACTIVE 1, 7)], _, 3, ⟨true, 12000, true⟩, by decide +kernel, by decide +kernel, rfl⟩,
   ⟨withFields [(F.GDRV_HB_DISABLED 3, 1)], _, 3, 9000, rfl, by decide +kernel⟩,
   ⟨State.reset, _, 3, rfl, by decide +kernel, by decide +kernel⟩,
   ⟨State.setPwm State.reset 3 { running := true }, _, 3, rfl, by decide +kernel, by decide +kernel⟩,
   ⟨State.setPwm (withFields [(F.PWM_CTRL_COMMIT, 8)]) 3 { running := true, active := ⟨100, 0, 0, 0, 0⟩ }, _, 3, by decide +kernel, by decide +kernel, rfl, by decide +kernel⟩,
   ⟨withFields [(F.PWM_CTRL_COMMIT, 8)], 3, by decide +kernel, by decide +kernel, by decide +kernel⟩,
   ⟨State.setPwm State.reset 3 { running := true, active := ⟨100, 0, 0, 0, 0⟩ }, _, 3, by decide +kernel, rfl⟩,
   ⟨State.setPwm State.reset 3 { running := true, cfg := 0x10#32 }, _, 3, .compare, by decide +kernel, by decide +kernel, rfl⟩,
   ⟨State.setPwm (withFields [(F.SAFE_STAT_HALT_FENCE, 1)]) 3 { cfg := 0x1000000#32 }, 3, by decide +kernel, by decide +kernel⟩,
   ⟨State.setPwm (withFields [(F.PWM_TRIPIN_BLANK_EDGE 1, 2), (F.PWM_TRIPIN_BLANK_CH 1, 3), (F.PWM_TRIPIN_BLANK_W 1, 50)]) 3 { running := true, active := ⟨100, 0, 0, 50, 0⟩, eOff := some 0 }, _, 1, 1000, by decide +kernel, rfl⟩,
   ⟨State.reset, _, 1, true, true, 1000, by decide +kernel, rfl, by decide +kernel, rfl⟩,
   ⟨withFields [(F.PWM_CH_TRIP_TRIPPED 3, 1)], 3, by decide +kernel⟩⟩

/-- The hypotheses of each clause of `Obligations.SafetyJudgementsAct` are met together. -/
theorem test_wit_SafetyJudgementsAct :
    (∃ (s : State) (t : State), t = s.until (s.safe.cycAt + 8 * us)) ∧
    (∃ (s : State) (t : State) (i : Fin 8) (a : Bool) (b : Bool) (n : Nat), s.siFilt i.val ≤ n ∧ t = s.withSafe { s.safe with closedA := putBit s.safe.closedA i.val a, closedB := putBit s.safe.closedB i.val b }) ∧
    (∃ (s : State) (t : State) (i : Fin 8) (at0 : Nat), KMap.get (fun _ => none) s.safe.discAt i.val = some at0 ∧ s.siType i.val ≠ 0 ∧ s.safe.discLatch.testBit i.val = false ∧ t = s.until (at0 + s.discMs i.val * ms)) ∧
    (∃ (s : State) (t : State) (m : Fin 8) (c : Bool), t = s.putBitOf F.SAFE_IN_FB m.val c) ∧
    (∃ (s : State) (t : State) (m : Fin 8), s.fbWrong m.val = true ∧ s.safe.fbBad.testBit m.val = false ∧ t = (if s.safe.fbMet.testBit m.val then s else s.until (s.safe.outAt.getD (s.aget (F.SAFE_FB_SO m.val)) 0 + s.fbTime))) ∧
    (∃ (s : State) (t : State) (f : Fin 16) (at0 : Nat), KMap.get (fun _ => none) s.safe.diffAt f.val = some at0 ∧ s.on F.SAFE_STAT_SV_WINDOW = false ∧ s.safe.disagreed.testBit f.val = false ∧ t = (s.withSafe { s.safe with disagreed := setBit s.safe.disagreed f.val }).until (max at0 s.safe.agreeFrom + s.agreeUs * us)) ∧
    (∃ (s : State) (t : State) (l : LineId) (k : LineKind), s.flt.broken.any (fun b => b.1 = l) = false ∧ t = State.updBroken { s with flt := { s.flt with broken := s.flt.broken ++ [(l, k)] } }) ∧
    (∃ (s : State) (t : State) (l : LineId), t = { s with flt := { s.flt with broken := s.flt.broken.filter (fun b => b.1 ≠ l) } }) ∧
    (∃ (s : State) (t : State), s.on F.SAFE_STAT_SV_WINDOW = true ∧ t = s.until (s.safe.winAt + s.restartMax)) ∧
    (∃ (s : State) (t : State) (o : Fin 4), s.bitOf F.SAFE_OUT_ENERGISED o.val = true ∧ t = s.advance (5 * ms)) :=
  ⟨⟨State.reset, _, rfl⟩,
   ⟨State.reset, _, 2, true, true, 100, by decide +kernel, rfl⟩,
   ⟨{ withFields [(F.SAFE_SI_TYPE 2, 1)] with safe := { State.reset.safe with discAt := [(2, some 0)] } }, _, 2, 0, by decide +kernel, by decide +kernel, by decide +kernel, rfl⟩,
   ⟨State.reset, _, 2, true, rfl⟩,
   ⟨withFields [(F.SAFE_FB_EN 2, 1), (F.SAFE_FB_SO 2, 1), (F.SAFE_SO 1, 2), (F.SAFE_OUT_ENERGISED, 2)], _, 2, by decide +kernel, by decide +kernel, rfl⟩,
   ⟨{ State.reset with safe := { State.reset.safe with diffAt := [(5, some 0)] } }, _, 5, 0, by decide +kernel, by decide +kernel, by decide +kernel, rfl⟩,
   ⟨State.reset, _, ⟨1, 1, 1⟩, .other, by decide +kernel, rfl⟩,
   ⟨State.reset, _, ⟨1, 1, 1⟩, rfl⟩,
   ⟨withFields [(F.SAFE_STAT_SV_WINDOW, 1)], _, by decide +kernel, rfl⟩,
   ⟨withFields [(F.SAFE_OUT_ENERGISED, 2)], _, 1, by decide +kernel, rfl⟩⟩

/-- The hypotheses of each clause of `Obligations.StopsResetsAndTestsAct` are met together. -/
theorem test_wit_StopsResetsAndTestsAct :
    (∃ (s : State) (t : State), s.safeState = safeCstop ∧ t = (if s.allCoast then s else s.until (s.safe.cstopAt + (if s.aget F.SAFE_TIMES_CS_COAST_MS = 0 then 1 else s.aget F.SAFE_TIMES_CS_COAST_MS) * ms))) ∧
    (∃ (s : State) (t : State), s.safeState = safeLockout ∧ s.aget F.SAFE_TIMES_LOOP_OFF_S ≠ 0 ∧ t = s.until (s.safe.lockAt + s.aget F.SAFE_TIMES_LOOP_OFF_S * sec)) ∧
    (∃ (s : State) (t : State) (u : State), t = s.put F.SAFE_RESET 0 ∧ t.safeState = safeLockout ∧ t.safe.reqAt ≠ some (t.cycleNo, false) ∧ u = t.withSafe { t.safe with reqAt := some (t.cycleNo, true) }) ∧
    (∃ (s : State) (t : State), t = s.put F.SAFE_RESET 0 ∧ t.safe.reqAt = some (t.cycleNo, false)) ∧
    (∃ (s : State), s.on F.SAFE_IN_RST_CLOSED = false) ∧
    (∃ (s : State) (t : State) (n : Nat), s.on F.SAFE_IN_RST_CLOSED = true ∧ t = s.until (s.safe.rstAt + n * ms)) ∧
    (∃ (s : State) (t : State), s.get F.SAFE_STAT_RST_IN = 1 ∧ t = s.until (s.safe.rstAt + 5 * sec)) ∧
    (∃ (s : State) (t : State), s.get F.SAFE_STAT_RST_IN = 2 ∧ t = s.until (s.safe.rstAt + 60 * sec)) ∧
    (∃ (s : State) (t : State) (k : Fin 7) (bad : Option (Fin 4)) (x : SafeSt), (bad = none ∨ (k.val = 3 ∧ bad.all (fun o => !(s.aget F.SAFE_PROOF_CFG_PULSE_EN).testBit o.val) = true)) ∧ x = { s.safe with proofPass := setAt s.safe.proofPass k.val s.now, proofFailed := clearBit s.safe.proofFailed (k.val + 1) } ∧ t = s.withSafe { x with sweepLeft := clearBit (if x.sweepLeft = 0 then 62 else x.sweepLeft) (k.val + 1) }) ∧
    (∃ (s : State) (k : Fin 7) (o : Fin 4), (k.val ≠ 3 ∨ (s.aget F.SAFE_PROOF_CFG_PULSE_EN).testBit o.val = true)) ∧
    (∃ (s : State) (t : State), s.on F.SAFE_FAULT_STAT_PROOF_OVERDUE = false ∧ t = s.until (s.oldestPass + s.ptMax + 1)) ∧
    (∃ (s : State) (t : State), s.safeState = safeTest ∧ s.rst.asserted = false ∧ t = (((s.put F.SAFE_STAT_SELFTEST_OK 0).put F.SAFE_STAT_FENCE_OK 0).put F.SAFE_STAT_SV_OK 0)) ∧
    (∃ (s : State) (t : State) (x : State) (u : State) (v : State), s.safeState = safeTest ∧ s.rst.asserted = false ∧ t = (s.put F.SAFE_STAT_SELFTEST_OK 1).put F.SAFE_STAT_FENCE_OK 1 ∧ x = t.put F.SAFE_STAT_SV_OK (b2n s.svAlive) ∧ u = x.withSafe { x.safe with testsFailed := false } ∧ v = u.withSafe { u.safe with proofPass := [u.now, u.now, u.now, u.now, u.now, u.now, u.now] }) :=
  ⟨⟨withFields [(F.SAFE_STAT_STATE, safeCstop)], _, by decide +kernel, rfl⟩,
   ⟨withFields [(F.SAFE_STAT_STATE, safeLockout), (F.SAFE_TIMES_LOOP_OFF_S, 5)], _, by decide +kernel, by decide +kernel, rfl⟩,
   ⟨withFields [(F.SAFE_STAT_STATE, safeLockout)], _, _, rfl, by decide +kernel, by decide +kernel, rfl⟩,
   ⟨State.withSafe State.reset { State.reset.safe with reqAt := some (0, false) }, _, rfl, by decide +kernel⟩,
   ⟨State.reset, by decide +kernel⟩,
   ⟨withFields [(F.SAFE_IN_RST_CLOSED, 1)], _, 100, by decide +kernel, rfl⟩,
   ⟨withFields [(F.SAFE_STAT_RST_IN, 1)], _, by decide +kernel, rfl⟩,
   ⟨withFields [(F.SAFE_STAT_RST_IN, 2)], _, by decide +kernel, rfl⟩,
   ⟨State.reset, _, 3, none, _, by decide +kernel, rfl, rfl⟩,
   ⟨State.reset, 2, 1, by decide +kernel⟩,
   ⟨State.reset, _, by decide +kernel, rfl⟩,
   ⟨State.reset, _, by decide +kernel, by decide +kernel, rfl⟩,
   ⟨State.reset, _, _, _, _, by decide +kernel, by decide +kernel, rfl, rfl, rfl, rfl⟩⟩

/-- The hypotheses of each clause of `Obligations.FlashAndImageCommandsAct` are met together. -/
theorem test_wit_FlashAndImageCommandsAct :
    (∃ (s : State) (t : State), s.cmdIs 0x10 = true ∧ s.cmdArg 0 % 0x10000 = 0 ∧ inFlash (s.cmdArg 0) 0x10000 = true ∧ s.activeFlash (s.cmdArg 0) = false ∧ t = (s.flashTouch (s.cmdArg 0) (s.cmdArg 0 + 0x10000)).flashErase (s.cmdArg 0)) ∧
    (∃ (s : State) (t : State) (u : State), s.cmdIs 0x10 = true ∧ s.cmdArg 0 % 0x10000 = 0 ∧ inFlash (s.cmdArg 0) 0x10000 = true ∧ s.activeFlash (s.cmdArg 0) = false ∧ t = (s.flashTouch (s.cmdArg 0) (s.cmdArg 0 + 0x10000)).flashErase (s.cmdArg 0) ∧ u = t.flashPut (s.cmdArg 0) (s.freeBytes 0x10000)) ∧
    (∃ (s : State) (t : State) (r : CmdRun), s.cmdIs 0x11 = true ∧ s.cmd = some r ∧ s.cmdArg 0 % 8 = 0 ∧ s.cmdArg 1 % 8 = 0 ∧ 8 ≤ s.cmdArg 1 ∧ s.cmdArg 1 ≤ 1024 ∧ inFlash (s.cmdArg 0) (s.cmdArg 1) = true ∧ s.activeFlash (s.cmdArg 0) = false ∧ t = s.flashTouch (s.cmdArg 0) (s.cmdArg 0 + s.cmdArg 1)) ∧
    (∃ (s : State) (t : State) (u : State), s.cmdIs 0x11 = true ∧ s.cmdArg 0 % 8 = 0 ∧ s.cmdArg 1 % 8 = 0 ∧ 8 ≤ s.cmdArg 1 ∧ s.cmdArg 1 ≤ 1024 ∧ inFlash (s.cmdArg 0) (s.cmdArg 1) = true ∧ s.activeFlash (s.cmdArg 0) = false ∧ t = s.flashTouch (s.cmdArg 0) (s.cmdArg 0 + s.cmdArg 1) ∧ u = t.flashPut (s.cmdArg 0) (s.freeBytes (s.cmdArg 1))) ∧
    (∃ (s : State) (t : State) (ue : Option (BitVec 29)) (i : Image), s.cmdIs 0x20 = true ∧ s.imgRow = .verify ∧ s.cmdArg 0 % 0x10000 = 0 ∧ inFlash (s.cmdArg 0) 0x10000 = true ∧ i = s.image (s.cmdArg 0) ∧ t = ue.elim (s.flashWell i.addr i.size) (fun x => s.flashUe 9 x.toNat)) ∧
    (∃ (s : State) (t : State) (ue : Option (BitVec 29)) (i : Image), s.cmdIs 0x20 = true ∧ s.imgRow = .stage ∧ s.cmdArg 0 % 0x10000 = 0 ∧ inFlash (s.cmdArg 0) 0x10000 = true ∧ i = s.image (s.cmdArg 0) ∧ t = ue.elim (s.flashWell i.addr i.size) (fun x => s.flashUe 9 x.toNat)) ∧
    (∃ (s : State) (t : State) (ue : Option (BitVec 29)) (i : Image), s.upd.lanes = none ∧ s.cmdIs 0x20 = true ∧ s.imgRow = .lanes ∧ s.cmdArg 0 % 0x10000 = 0 ∧ inFlash (s.cmdArg 0) 0x10000 = true ∧ i = s.image (s.cmdArg 0) ∧ t = ue.elim (s.flashWell i.addr i.size) (fun x => s.flashUe 9 x.toNat)) ∧
    (∃ (s : State) (t : State) (x : LaneApply) (n : Nat), s.upd.lanes = some x ∧ s.cmdIs 0x20 = true ∧ x.waiting = some n ∧ t = (if s.on (F.LANE_CTRL_APPLY_EQ n) = true then s.laneEqSlot n else s)) ∧
    (∃ (s : State) (t : State) (ue : Option (BitVec 29)) (i : Image), s.cmdIs 0x20 = true ∧ s.imgRow = .cal ∧ s.cmdArg 0 % 0x10000 = 0 ∧ inFlash (s.cmdArg 0) 0x10000 = true ∧ i = s.image (s.cmdArg 0) ∧ t = ue.elim (s.flashWell i.addr i.size) (fun x => s.flashUe 9 x.toNat)) ∧
    (∃ (s : State) (t : State) (ue : Option (BitVec 29)) (i : Image), s.upd.fconf = none ∧ s.cmdIs 0x20 = true ∧ s.imgRow = .fence ∧ s.cmdArg 0 % 0x10000 = 0 ∧ inFlash (s.cmdArg 0) 0x10000 = true ∧ i = s.image (s.cmdArg 0) ∧ t = ue.elim (s.flashWell i.addr i.size) (fun x => s.flashUe 9 x.toNat)) ∧
    (∃ (s : State) (t : State) (ue : Option (BitVec 29)) (i : Image), s.cmdIs 0x20 = true ∧ s.imgRow = .owner ∧ s.cmdArg 0 % 0x10000 = 0 ∧ inFlash (s.cmdArg 0) 0x10000 = true ∧ i = s.image (s.cmdArg 0) ∧ t = ue.elim (s.flashWell i.addr i.size) (fun x => s.flashUe 9 x.toNat)) :=
  ⟨⟨{ State.reset with cmd := some ⟨0x10, .host, [0x10000000#32], [], 0, none⟩ }, _, by decide +kernel, by decide +kernel, by decide +kernel, by decide +kernel, rfl⟩,
   ⟨{ State.reset with cmd := some ⟨0x10, .host, [0x10000000#32], [], 0, none⟩ }, _, _, by decide +kernel, by decide +kernel, by decide +kernel, by decide +kernel, rfl, rfl⟩,
   ⟨{ State.reset with cmd := some ⟨0x11, .host, [0x10000000#32, 8#32], [1#32, 2#32], 0, none⟩ }, _, ⟨0x11, .host, [0x10000000#32, 8#32], [1#32, 2#32], 0, none⟩, by decide +kernel, by decide +kernel, by decide +kernel, by decide +kernel, by decide +kernel, by decide +kernel, by decide +kernel, by decide +kernel, rfl⟩,
   ⟨{ State.reset with cmd := some ⟨0x11, .host, [0x10000000#32, 8#32], [1#32, 2#32], 0, none⟩ }, _, _, by decide +kernel, by decide +kernel, by decide +kernel, by decide +kernel, by decide +kernel, by decide +kernel, by decide +kernel, rfl, rfl⟩,
   ⟨{ State.reset with cmd := some ⟨0x20, .host, [0x10000000#32], [], 0, none⟩ }, _, none, _, by decide +kernel, by decide +kernel, by decide +kernel, by decide +kernel, rfl, rfl⟩,
   ⟨{ State.reset with cmd := some ⟨0x20, .host, [0x10000000#32, 0x100#32], [], 0, none⟩ }, _, some 8, _, by decide +kernel, by decide +kernel, by decide +kernel, by decide +kernel, rfl, rfl⟩,
   ⟨{ flashKind 3 with cmd := some ⟨0x20, .host, [0x10000000#32, 0x200#32], [], 0, none⟩ }, _, none, _, by decide +kernel, by decide +kernel, by decide +kernel, by decide +kernel, by decide +kernel, rfl, rfl⟩,
   ⟨{ State.reset with cmd := some ⟨0x20, .host, [0x10000000#32, 0x200#32], [], 0, none⟩, upd := { State.reset.upd with lanes := some ⟨[], some 5, 0x10000000⟩ } }, _, ⟨[], some 5, 0x10000000⟩, 5, by decide +kernel, by decide +kernel, by decide +kernel, rfl⟩,
   ⟨{ flashKind 4 with cmd := some ⟨0x20, .host, [0x10000000#32, 0x200#32], [], 0, none⟩ }, _, none, _, by decide +kernel, by decide +kernel, by decide +kernel, by decide +kernel, rfl, rfl⟩,
   ⟨{ flashKind 5 with cmd := some ⟨0x20, .host, [0x10000000#32, 0x200#32], [], 0, none⟩ }, _, none, _, by decide +kernel, by decide +kernel, by decide +kernel, by decide +kernel, by decide +kernel, rfl, rfl⟩,
   ⟨{ flashKind 6 with cmd := some ⟨0x20, .host, [0x10000000#32, 0x200#32], [], 0, none⟩ }, _, none, _, by decide +kernel, by decide +kernel, by decide +kernel, by decide +kernel, rfl, rfl⟩⟩

/-- The hypotheses of each clause of `Obligations.SecurityAndTrialCommandsAct` are met together. -/
theorem test_wit_SecurityAndTrialCommandsAct :
    (∃ (s : State) (r : CmdRun) (durable : Bool), s.cmdIs 0x21 = true ∧ s.cmd = some r ∧ s.cmdArg 0 ≤ 1024 ∧ s.attestWhy = 0 ∧ (s.needsBlock = true → durable = true)) ∧
    (∃ (s : State), s.cmdIs 0x21 = true ∧ s.cmdArg 0 ≤ 1024 ∧ s.attestWhy = 1) ∧
    (∃ (s : State) (d : Nat), s.cmdIs 0x21 = true ∧ s.cmdArg 0 ≤ 1024 ∧ s.attestWhy = d ∧ 2 ≤ d) ∧
    (∃ (s : State) (t : State), s.tackIs 1 = true ∧ t = (List.range 15).foldl (fun (u : State) i => u.setReg (A.SYS_CMD_DATA i) (BitVec.ofNat 32 (ofBytesLE ((List.range 4).map (fun j => identityKey.getD (4 * i + j) 0))))) s) ∧
    (∃ (s : State) (t : State) (u : State) (v : State) (r : CmdRun), s.tackIs 2 = true ∧ s.cmd = some r ∧ s.cmdArg 1 ≤ 15 ∧ s.byHost = true ∧ s.on F.SEC_CTRL_KEY_WR_EN = true ∧ t = (s.withTack { s.tack with stations := KMap.set (fun _ => []) s.tack.stations (s.cmdArg 1) ((r.data.take 8).flatMap (fun w => bytesLE 4 w.toNat)) }).setBitOf F.SEC_KEYS_STATION (s.cmdArg 1) ∧ u = (List.range 8).foldl (fun (x : State) i => x.setReg (A.SYS_CMD_DATA i) 0#32) t ∧ v = { u with eth := { u.eth with lastSeq := KMap.set (fun _ => none) u.eth.lastSeq (s.cmdArg 1) (some 0) } }) ∧
    (∃ (s : State), s.tackIs 2 = true ∧ s.cmdArg 1 ≤ 15 ∧ s.byHost = true ∧ s.on F.SEC_CTRL_KEY_WR_EN = true) ∧
    (∃ (s : State), s.tackIs 2 = true ∧ s.cmdArg 1 ≤ 15 ∧ s.byHost = true ∧ s.on F.SEC_CTRL_KEY_WR_EN = false) ∧
    (∃ (s : State) (t : State), s.tackIs 3 = true ∧ s.cmdArg 1 ≤ 15 ∧ s.byHost = true ∧ t = (s.withTack { s.tack with stations := KMap.set (fun _ => []) s.tack.stations (s.cmdArg 1) [] }).clrBitOf F.SEC_KEYS_STATION (s.cmdArg 1)) ∧
    (∃ (s : State), s.tackIs 4 = true) ∧
    (∃ (s : State), s.cmdIs 0x50 = true ∧ (s.cmdArg 0 % 256 = 0 ∨ 4 < s.cmdArg 0 % 256)) ∧
    (∃ (s : State) (t : State) (u : State) (n : Nat) (rest : List TreeJob), s.tack.jobs = .bottom n :: rest ∧ t = s.withTack { s.tack with jobs := rest } ∧ u = (if n = t.treeNeeded then t.treeCurrent n else t.withTack { t.tack with spare := some n })) ∧
    (∃ (s : State) (t : State) (n : Nat) (rest : List TreeJob), s.tack.jobs = .level1 n :: rest ∧ t = s.withTack { s.tack with jobs := rest }) ∧
    (∃ (s : State), s.on F.SAFE_STAT_SV_WINDOW = false ∧ s.on F.UPD_STAT_TRIAL = true) ∧
    (∃ (s : State) (t : State) (u : State) (c : Word) (sv : Option Word) (x : FConf), t = s.setReg A.UPD_FCONF c ∧ x.time = t.now ∧ x.c = c ∧ x.snap = t.pendingSet ∧ x.crcF = setCrc t.pendingSet ∧ x.crcS = sv.elim (setCrc t.pendingSet) (fun w => w.toNat) ∧ x.byApply = false ∧ x.changed = decide (s.upd.fenceAt = some s.cycleNo) ∧ u = (((t.put F.UPD_CRC_FENCE x.crcF).put F.UPD_CRC_SV x.crcS).put F.UPD_STAT_FCONF_BUSY 1)) ∧
    (∃ (s : State) (t : State) (u : State) (f : FConf), s.upd.fconf = some f ∧ f.byApply = false ∧ s.fconfCode f = 0 ∧ t = (s.complete A.UPD_FCONF_RES 0).put F.UPD_STAT_FCONF_BUSY 0 ∧ u = t.withUpd { t.upd with fconf := none }) :=
  ⟨⟨{ withFields [(F.SEC_STAT_TREE_READY, 1)] with cmd := some ⟨0x21, .host, [4#32], [7#32], 0, none⟩ }, ⟨0x21, .host, [4#32], [7#32], 0, none⟩, true, by decide +kernel, by decide +kernel, by decide +kernel, by decide +kernel, by decide +kernel⟩,
   ⟨{ withFields [(F.SEC_STAT_TREE_READY, 0)] with cmd := some ⟨0x21, .host, [4#32], [7#32], 0, none⟩ }, by decide +kernel, by decide +kernel, by decide +kernel⟩,
   ⟨{ withFields [(F.SEC_STAT_IDENT_ERASED, 1)] with cmd := some ⟨0x21, .host, [4#32], [7#32], 0, none⟩ }, 3, by decide +kernel, by decide +kernel, by decide +kernel, by decide +kernel⟩,
   ⟨{ State.reset with cmd := some ⟨0x50, .host, [1#32], [], 0, none⟩ }, _, by decide +kernel, rfl⟩,
   ⟨{ withFields [(F.SEC_CTRL_KEY_WR_EN, 1)] with cmd := some ⟨0x50, .host, [2#32, 15#32], [7#32], 0, none⟩ }, _, _, _, ⟨0x50, .host, [2#32, 15#32], [7#32], 0, none⟩, by decide +kernel, by decide +kernel, by decide +kernel, by decide +kernel, by decide +kernel, rfl, rfl, rfl⟩,
   ⟨{ withFields [(F.SEC_CTRL_KEY_WR_EN, 1)] with cmd := some ⟨0x50, .host, [2#32, 15#32], [7#32], 0, none⟩ }, by decide +kernel, by decide +kernel, by decide +kernel, by decide +kernel⟩,
   ⟨{ withFields [(F.SEC_CTRL_KEY_WR_EN, 0)] with cmd := some ⟨0x50, .host, [2#32, 15#32], [7#32], 0, none⟩ }, by decide +kernel, by decide +kernel, by decide +kernel, by decide +kernel⟩,
   ⟨{ State.reset with cmd := some ⟨0x50, .host, [3#32, 15#32], [], 0, none⟩ }, _, by decide +kernel, by decide +kernel, by decide +kernel, rfl⟩,
   ⟨{ State.reset with cmd := some ⟨0x50, .host, [4#32], [], 0, none⟩ }, by decide +kernel⟩,
   ⟨{ State.reset with cmd := some ⟨0x50, .host, [5#32], [], 0, none⟩ }, by decide +kernel, by decide +kernel⟩,
   ⟨{ State.reset with tack := { State.reset.tack with jobs := [.bottom 0] } }, _, _, 0, [], by decide +kernel, rfl, rfl⟩,
   ⟨{ State.reset with tack := { State.reset.tack with jobs := [.level1 0] } }, _, 0, [], by decide +kernel, rfl⟩,
   ⟨withFields [(F.UPD_STAT_TRIAL, 1)], by decide +kernel, by decide +kernel⟩,
   ⟨State.reset, _, _, 5, none, ⟨0, 5, [], setCrc [], setCrc [], false, false⟩, rfl, by decide +kernel, by decide +kernel, by decide +kernel, by decide +kernel, by decide +kernel, by decide +kernel, by decide +kernel, rfl⟩,
   ⟨confReady, _, _, confReady.upd.fconf.getD ⟨0, 0, [], 0, 0, false, false⟩, by decide +kernel, by decide +kernel, by decide +kernel, rfl, rfl⟩⟩

/-- The hypotheses of each clause of `Obligations.PairAndCollectorCommandsAct` are met together. -/
theorem test_wit_PairAndCollectorCommandsAct :
    (∃ (s : State), s.on F.PAIR_CFG_EN = true ∧ s.pairState = prDisabled) ∧
    (∃ (s : State), s.on F.PAIR_CFG_EN = false) ∧
    (∃ (s : State), s.on F.PAIR_CFG_FORCE_LEAD = true) ∧
    (∃ (s : State) (v : State) (p : Fin 2) (f : List (BitVec 64)), s.laneState (48 + p.val) ≠ lnParked ∧ f.length = 6 ∧ blk f 0 % 256 = 0xA5 ∧ frameOk f = true ∧ v = s.setRx (48 + p.val) [] ∧ v.on F.PAIR_CFG_EN = true ∧ v.pair.lastSeq ≠ some (blk f 0 % 2 ^ 48)) ∧
    (∃ (s : State) (v : State) (p : Fin 2) (f : List (BitVec 64)), s.laneState (48 + p.val) ≠ lnParked ∧ f.length = 6 ∧ blk f 0 % 256 = 0xA5 ∧ frameOk f = true ∧ v = s.setRx (48 + p.val) [] ∧ v.pair.lastSeq = some (blk f 0 % 2 ^ 48)) ∧
    (∃ (s : State) (v : State) (p : Fin 2) (f : List (BitVec 64)), s.laneState (48 + p.val) ≠ lnParked ∧ f.length = 6 ∧ blk f 0 % 256 = 0xA5 ∧ frameOk f = false ∧ v = s.setRx (48 + p.val) []) ∧
    (∃ (s : State) (v : State) (p : Fin 2) (f : List (BitVec 64)) (nw : Nat) (j : Nat) (q : Nat) (words : List Nat), s.laneState (48 + p.val) ≠ lnParked ∧ blk f 0 % 256 = 0xB4 ∧ nw = bits (blk f 0) 55 48 ∧ 1 ≤ nw ∧ nw ≤ 128 ∧ f.length = (nw + 3) / 4 + 2 ∧ frameOk f = true ∧ v = s.setRx (48 + p.val) [] ∧ v.on F.PAIR_CFG_EN = true ∧ j = bits (blk f 0) 39 8 ∧ q = bits (blk f 0) 47 40 ∧ v.pair.parts.any (fun x => x.period = j && x.part = q) = false ∧ words = (List.range nw).map (fun i => bits (blk f (1 + i / 4)) (16 * (i % 4) + 15) (16 * (i % 4)))) ∧
    (∃ (s : State) (v : State) (p : Fin 2) (f : List (BitVec 64)) (nw : Nat) (j : Nat) (q : Nat), s.laneState (48 + p.val) ≠ lnParked ∧ blk f 0 % 256 = 0xB4 ∧ nw = bits (blk f 0) 55 48 ∧ 1 ≤ nw ∧ nw ≤ 128 ∧ f.length = (nw + 3) / 4 + 2 ∧ frameOk f = true ∧ v = s.setRx (48 + p.val) [] ∧ v.on F.PAIR_CFG_EN = true ∧ j = bits (blk f 0) 39 8 ∧ q = bits (blk f 0) 47 40 ∧ v.pair.parts.any (fun x => x.period = j && x.part = q) = true) ∧
    (∃ (s : State), s.pairState = prLinked ∧ max (s.get F.PAIR_CFG_LOSS_PER) 4 ≤ s.pair.rxMiss) ∧
    (∃ (s : State) (d : Fin 3), s.pairState = prLinked ∧ 16 ≤ s.pair.digRun.getD d.val 0 ∧ s.digDiffers d.val = true) ∧
    (∃ (s : State) (at0 : Nat), s.pair.withdrawAt = some at0) ∧
    (∃ (s : State) (t : State) (r : ReadReq), t = (s.advance (256 * cyc)).err .fabricTimeout (masterCode r.master) 0 ((accessAddr (.read r)).getD 0)) ∧
    (∃ (s : State) (t : State) (w : WriteReq), t = (s.advance (256 * cyc)).err .fabricTimeout (masterCode w.master) (accessMaster (.write w)).2 ((accessAddr (.write w)).getD 0)) ∧
    (∃ (s : State) (t : State) (r : ReadReq), t = s.err .fabricParity (masterCode r.master) 0 ((accessAddr (.read r)).getD 0)) ∧
    (∃ (s : State) (t : State) (w : WriteReq), t = s.err .fabricParity (masterCode w.master) (accessMaster (.write w)).2 ((accessAddr (.write w)).getD 0)) ∧
    (∃ (s : State) (t : State), s.fltRecent = [] ∧ s.flt.capAt ≠ some s.cycleNo ∧ t = s.put F.FLT_MORE 0) ∧
    (∃ (s : State), s.on F.FLT_STAT_CAP_VALID = true ∧ s.flt.capAt = some s.cycleNo) ∧
    (∃ (s : State) (x : FltErr), s.flt.capAt ≠ some s.cycleNo ∧ firstErr s.fltRecent = some x) ∧
    (∃ (s : State), s.on F.FLT_STAT_CAP_VALID = true ∧ (s.get F.FLT_FIRST_INFO_CODE = 8 ∨ s.get F.FLT_FIRST_INFO_CODE = 9)) :=
  ⟨⟨withFields [(F.PAIR_CFG_EN, 1)], by decide +kernel, by decide +kernel⟩,
   ⟨withFields [(F.PAIR_STAT_STATE, 2)], by decide +kernel⟩,
   ⟨withFields [(F.PAIR_CFG_FORCE_LEAD, 1)], by decide +kernel⟩,
   ⟨withFields [(F.LANE_STAT_STATE 48, lnUp), (F.PAIR_CFG_EN, 1)], _, 0, sealFrame [0xA5, 0, 0, 0, 0] 0, by decide +kernel, by decide +kernel, by decide +kernel, by decide +kernel, rfl, by decide +kernel, by decide +kernel⟩,
   ⟨State.withPair (withFields [(F.LANE_STAT_STATE 48, lnUp), (F.PAIR_CFG_EN, 1)]) { State.reset.pair with lastSeq := some 0xA5 }, _, 0, sealFrame [0xA5, 0, 0, 0, 0] 0, by decide +kernel, by decide +kernel, by decide +kernel, by decide +kernel, rfl, by decide +kernel⟩,
   ⟨withFields [(F.LANE_STAT_STATE 49, lnUp)], _, 1, [0xA5, 0, 0, 0, 0, 1], by decide +kernel, by decide +kernel, by decide +kernel, by decide +kernel, rfl⟩,
   ⟨withFields [(F.LANE_STAT_STATE 48, lnUp), (F.PAIR_CFG_EN, 1)], _, 0, poutFrame 3 0 [7], 1, 3, 0, _, by decide +kernel, by decide +kernel, by decide +kernel, by decide +kernel, by decide +kernel, by decide +kernel, by decide +kernel, rfl, by decide +kernel, by decide +kernel, by decide +kernel, by decide +kernel, rfl⟩,
   ⟨State.withPair (withFields [(F.LANE_STAT_STATE 48, lnUp), (F.PAIR_CFG_EN, 1)]) { State.reset.pair with parts := [⟨3, 0, [7]⟩] }, _, 0, poutFrame 3 0 [7], 1, 3, 0, by decide +kernel, by decide +kernel, by decide +kernel, by decide +kernel, by decide +kernel, by decide +kernel, by decide +kernel, rfl, by decide +kernel, by decide +kernel, by decide +kernel, by decide +kernel⟩,
   ⟨State.withPair (withFields [(F.PAIR_STAT_STATE, prLinked)]) { State.reset.pair with rxMiss := 16 }, by decide +kernel, by decide +kernel⟩,
   ⟨State.withPair (withFields [(F.PAIR_STAT_STATE, prLinked), (F.PAIR_DIG_PROG, 5)]) { State.reset.pair with digRun := [0, 16, 0] }, 1, by decide +kernel, by decide +kernel, by decide +kernel⟩,
   ⟨State.withPair State.reset { State.reset.pair with withdrawAt := some 5 }, 5, by decide +kernel⟩,
   ⟨State.reset, _, ⟨.host, 0, 1⟩, rfl⟩,
   ⟨State.reset, _, ⟨.host, .bar0 0, [(1#32, 15)]⟩, rfl⟩,
   ⟨State.reset, _, ⟨.host, 0, 1⟩, rfl⟩,
   ⟨State.reset, _, ⟨.host, .bar0 0, [(1#32, 15)]⟩, rfl⟩,
   ⟨State.reset, _, by decide +kernel, by decide +kernel, rfl⟩,
   ⟨({ withFields [(F.FLT_STAT_CAP_VALID, 1)] with flt := { State.reset.flt with capAt := some 0 } } : State), by decide +kernel, by decide +kernel⟩,
   ⟨({ State.reset with flt := { State.reset.flt with recent := (0, [⟨1, 0, 0, 0, 0⟩]) } } : State), ⟨1, 0, 0, 0, 0⟩, by decide +kernel, by decide +kernel⟩,
   ⟨withFields [(F.FLT_STAT_CAP_VALID, 1), (F.FLT_FIRST_INFO_CODE, 8)], by decide +kernel, by decide +kernel⟩⟩

/-- The hypotheses of each clause of `Obligations.IdleStepPassesOneCycle` are met together. -/
theorem test_wit_IdleStepPassesOneCycle :
    (∃ (s : State), s.pending = []) :=
  ⟨State.reset, by decide +kernel⟩

/-- The hypotheses of each clause of `Obligations.EveryStepKeepsTheStoresCanonical` are met together. -/
theorem test_wit_EveryStepKeepsTheStoresCanonical :
    (∃ (s : State) (t : State), KMap.wf RegMap.resetWord s.regs = true ∧ KMap.wf memDefault s.mem = true ∧ step s = .next t) :=
  ⟨State.reset, _, by decide +kernel, by decide +kernel, rfl⟩

/-- The hypotheses of each clause of `Obligations.EveryStepTakesOnlyTheFront` are met together. -/
theorem test_wit_EveryStepTakesOnlyTheFront :
    (∃ (s : State) (t : State), step s = .next t) :=
  ⟨State.reset, _, rfl⟩

/-- The hypotheses of each clause of `Obligations.CommandsTouchOnlyTheirParts` are met together. -/
theorem test_wit_CommandsTouchOnlyTheirParts :
    (∃ (c : Instr) (s : State) (t : State) (p : Part), exec c s = .next t ∧ p ∉ touches c) ∧
    (∃ (c : Instr) (s : State) (t : State), exec c s = .next t ∧ Part.mem ∉ touches c) ∧
    (∃ (c : Instr) (s : State) (t : State), exec c s = .next t ∧ Part.regs ∉ touches c) :=
  ⟨⟨.forceLead, State.reset, _, .mem, rfl, by decide +kernel⟩,
   ⟨.forceLead, State.reset, _, rfl, by decide +kernel⟩,
   ⟨.indexStatus, State.reset, _, rfl, by decide +kernel⟩⟩

/-- The hypotheses of each clause of `Obligations.AliasWritesActOnRwFields` are met together. -/
theorem test_wit_AliasWritesActOnRwFields :
    (∃ (f : FieldSpec), f.kind = .rw) ∧
    (∃ (f : FieldSpec) (al : Nat), f.kind ≠ .rw ∧ f.kind ≠ .lk ∧ f.lo + f.len ≤ 32 ∧ 1 ≤ al ∧ al ≤ 3) ∧
    (∃ (s : State) (m : Master), s.guard 0 = {} ∧ s.answers m = true) :=
  ⟨⟨⟨.rw, 0, 1, false, 0⟩, by decide +kernel⟩,
   ⟨⟨.cnt, 16, 8, false, 0⟩, 3, by decide +kernel, by decide +kernel, by decide +kernel, by decide +kernel, by decide +kernel⟩,
   ⟨State.reset, .host, by decide +kernel, by decide +kernel⟩⟩

/-- The hypotheses of each clause of `Obligations.AliasReadsActAsNormalReads` are met together. -/
theorem test_wit_AliasReadsActAsNormalReads :
    (∃ (a : Nat) (al : Nat), al < 4 ∧ a < 0x800000 ∧ a / 0x4000 % 4 = 0 ∧ a % 4 = 0 ∧ regionOf a = .regs) ∧
    (∃ (a : Nat) (al : Nat), al < 4 ∧ a < 0x800000 ∧ a / 0x4000 % 4 = 0 ∧ a % 8 = 0 ∧ regionOf a = .regs ∧ isPairLo (canon a) = true) :=
  ⟨⟨0x38, 2, by decide +kernel, by decide +kernel, by decide +kernel, by decide +kernel, by decide +kernel⟩,
   ⟨A.CME_CHECK_LO, 1, by decide +kernel, by decide +kernel, by decide +kernel, by decide +kernel, by decide +kernel, by decide +kernel⟩⟩

/-- The hypotheses of each clause of `Obligations.ResultsCarryRisingSeq` are met together. -/
theorem test_wit_ResultsCarryRisingSeq :
    (∃ (a : Nat) (b : Nat), b ≠ a) ∧
    (∃ (s : State) (m : Master) (a : BitVec 24) (run : Bool), s.answers m = true ∧ a.toNat % 4 = 0 ∧ regionOf a.toNat = .regs ∧ isRes32 (canon a.toNat) = true ∧ s.res (canon a.toNat) = { busy := run }) :=
  ⟨⟨4, 8, by decide +kernel⟩,
   ⟨State.reset, .host, 0x120050#24, false, by decide +kernel, by decide +kernel, by decide +kernel, by decide +kernel, by decide +kernel⟩⟩

/-- The hypotheses of each clause of `Obligations.AccessErrorsRaiseAccessFault` are met together. -/
theorem test_wit_AccessErrorsRaiseAccessFault :
    (∃ (b : Nat), b % 0x10000 = 0) ∧
    (∃ (e : Err), e.cls = 0) ∧
    (∃ (b : Nat) (i : Nat), b % 0x10000 = 0 ∧ i < 4) :=
  ⟨⟨0, by decide +kernel⟩,
   ⟨.guardFail, by decide +kernel⟩,
   ⟨0, 3, by decide +kernel, by decide +kernel⟩⟩

/-- The hypotheses of each clause of `Obligations.FramesCarryTheirCrc` are met together. -/
theorem test_wit_FramesCarryTheirCrc :
    (∃ (hi : Nat), hi < 2 ^ 32) :=
  ⟨3, by decide +kernel⟩

/-- The hypotheses of each clause of `Obligations.PstatRoundTrips` are met together. -/
theorem test_wit_PstatRoundTrips :
    (∃ (s : State) (dly : Nat), s.yard.tk < 2 ^ 64 ∧ dly < 2 ^ 24) :=
  ⟨State.reset, 5, by decide +kernel, by decide +kernel⟩

/-- The hypotheses of each clause of `Obligations.RollbackCountersOnlyRise` are met together. -/
theorem test_wit_RollbackCountersOnlyRise :
    (∃ (k : Nat) (j : Nat) (r : Nat), 1 ≤ k ∧ k ≤ 6 ∧ 1 ≤ j ∧ j ≤ 6 ∧ r < 2 ^ 32) ∧
    (∃ (k : Nat) (r : Nat), 1 ≤ k ∧ k ≤ 6 ∧ r < 2 ^ 32) ∧
    (∃ (k : Nat) (j : Nat) (durable : Bool), 1 ≤ k ∧ k ≤ 6 ∧ 1 ≤ j ∧ j ≤ 6 ∧ (j ≠ k ∨ durable = false)) ∧
    (∃ (s : State) (k : Nat) (r : Nat), s.rollbackOf k < r) ∧
    (∃ (s : State), s.on F.SAFE_STAT_SV_WINDOW = false ∧ s.on F.UPD_STAT_TRIAL = true) :=
  ⟨⟨1, 2, 5, by decide +kernel, by decide +kernel, by decide +kernel, by decide +kernel, by decide +kernel⟩,
   ⟨1, 5, by decide +kernel, by decide +kernel, by decide +kernel⟩,
   ⟨1, 2, true, by decide +kernel, by decide +kernel, by decide +kernel, by decide +kernel, by decide +kernel⟩,
   ⟨State.reset, 1, 5, by decide +kernel⟩,
   ⟨withFields [(F.UPD_STAT_TRIAL, 1)], by decide +kernel, by decide +kernel⟩⟩

/-- The hypotheses of each clause of `Obligations.SignatureIndicesAreUsedOnce` are met together. -/
theorem test_wit_SignatureIndicesAreUsedOnce :
    (∃ (s : State) (r : CmdRun) (b : Nat) (n : Nat), s.cmdIs 0x21 = true ∧ s.cmd = some r ∧ s.cmdArg 0 ≤ 1024 ∧ s.attestWhy = 0 ∧ s.tack.block = some (b, n) ∧ 64 * b ≤ n ∧ n ≤ 64 * (b + 1) ∧ s.get F.SEC_RESERVED = b + 1 ∧ b + 1 < 2 ^ 24) ∧
    (∃ (s : State), s.needsBlock = true ∧ s.get F.SEC_RESERVED + 1 < 2 ^ 25) :=
  ⟨⟨{ withFields [(F.SEC_STAT_TREE_READY, 1), (F.SEC_RESERVED, 1)] with cmd := some ⟨0x21, .host, [4#32], [7#32], 0, none⟩, tack := { State.reset.tack with block := some (0, 64) } }, ⟨0x21, .host, [4#32], [7#32], 0, none⟩, 0, 64, by decide +kernel, by decide +kernel, by decide +kernel, by decide +kernel, by decide +kernel, by decide +kernel, by decide +kernel, by decide +kernel, by decide +kernel⟩,
   ⟨State.reset, by decide +kernel, by decide +kernel⟩⟩

/-- The hypotheses of each clause of `Obligations.MemoryReadsWhatWasStored` are met together. -/
theorem test_wit_MemoryReadsWhatWasStored :
    (∃ (a : Nat) (n : Nat) (c : Nat), (c < a ∨ a + n ≤ c)) :=
  ⟨0x800000, 4, 0x800004, by decide +kernel⟩

/-- The hypotheses of each clause of `Obligations.TimePassesAdditively` are met together. -/
theorem test_wit_TimePassesAdditively :
    (∃ (s : State) (x : Nat) (y : Nat), s.now ≤ x ∧ x ≤ y) :=
  ⟨State.reset, 5, 7, by decide +kernel, by decide +kernel⟩

/-- The hypotheses of each clause of `Obligations.RegistersOutsideTheEffectKeepTheirValue` are met together. -/
theorem test_wit_RegistersOutsideTheEffectKeepTheirValue :
    (∃ (s : State) (t : State) (a : Nat), exec .forceLead s = .next t ∧ a ∉ [A.PAIR_CFG, F.PAIR_FAULT_STAT_MIRROR_BAD.reg, Base.PAIR + 0x10]) ∧
    (∃ (s : State) (t : State) (a : Nat), exec .pairLinkLoss s = .next t ∧ a ∉ [F.PAIR_FAULT_STAT_LOST.reg, F.PAIR_STAT_STATE.reg, Base.PAIR + 0x10]) ∧
    (∃ (s : State) (t : State) (d : Fin 3) (a : Nat), exec (.digestMismatch d) s = .next t ∧ a ∉ [F.PAIR_FAULT_STAT_DIGEST_MISMATCH.reg, Base.PAIR + 0x10]) ∧
    (∃ (s : State) (t : State) (d : Fin 3) (a : Nat), exec (.digestUpdate d) s = .next t ∧ a ∉ [A.PAIR_DIG_YARD + 4 * d.val]) ∧
    (∃ (s : State) (t : State) (a : Nat), exec .capClr s = .next t ∧ a ∉ [F.FLT_STAT_CAP_VALID.reg, A.FLT_FIRST_INFO, A.FLT_FIRST_ADDR, A.FLT_FIRST_CTB 0, A.FLT_FIRST_CTB 1, A.FLT_MORE, Base.FLT + 0x10]) ∧
    (∃ (s : State) (t : State) (durable : Bool) (a : Nat), exec (.confirm durable) s = .next t ∧ a ∉ [F.UPD_STAT_TRIAL.reg, A.SEC_ROLLBACK 0, F.SEC_FAULT_STAT_TACK_WR_FAIL.reg, Base.SEC + 0x10, Base.UPD + 0x10]) ∧
    (∃ (s : State) (t : State) (durable : Bool) (a : Nat), exec (.stationErase durable) s = .next t ∧ a ∉ [F.SEC_KEYS_STATION.reg, F.SEC_FAULT_STAT_TACK_WR_FAIL.reg, Base.SEC + 0x10]) ∧
    (∃ (s : State) (t : State) (m : Int) (a : Nat), exec (.calTrim m) s = .next t ∧ a ∉ [A.RTC_TRIM]) ∧
    (∃ (s : State) (t : State) (a : Nat), exec .tamperInputRelease s = .next t ∧ a ∉ [F.RTC_STAT_TAMPER_IN.reg]) ∧
    (∃ (s : State) (t : State) (m : BitVec 16) (a : Nat), exec (.pwmCommit m) s = .next t ∧ a ∉ [F.PWM_CTRL_COMMIT.reg]) ∧
    (∃ (s : State) (t : State) (sp : Nat) (w : Nat) (sris : Bool) (mps : Fin 2) (a : Nat), exec (.pcieLinkUp sp w sris mps) s = .next t ∧ a ∉ [F.HOST_LINK_SPEED.reg, Base.HOST + 0x10]) ∧
    (∃ (s : State) (t : State) (c : Bool) (a : Nat), exec (.aerError c) s = .next t ∧ a ∉ [F.HOST_AER_COUNT.reg, Base.HOST + 0x10]) ∧
    (∃ (s : State) (t : State) (m : Fin 8) (c : Bool) (a : Nat), exec (.feedbackChange m c) s = .next t ∧ a ∉ [F.SAFE_IN_FB.reg]) ∧
    (∃ (s : State) (t : State) (v : BitVec 16), exec (.evtSw v) s = .next t) ∧
    (∃ (s : State) (t : State) (bad : Bool), exec (.fabricProbe bad) s = .next t) ∧
    (∃ (s : State) (t : State), exec .indexStatus s = .next t) :=
  ⟨⟨State.reset, _, 0, rfl, by decide +kernel⟩,
   ⟨State.reset, _, 0, rfl, by decide +kernel⟩,
   ⟨State.reset, _, 1, 0, rfl, by decide +kernel⟩,
   ⟨State.reset, _, 2, 0, rfl, by decide +kernel⟩,
   ⟨State.reset, _, 0, rfl, by decide +kernel⟩,
   ⟨State.reset, _, true, 0, rfl, by decide +kernel⟩,
   ⟨State.reset, _, true, 0, rfl, by decide +kernel⟩,
   ⟨State.reset, _, 5, 0, rfl, by decide +kernel⟩,
   ⟨State.reset, _, 0, rfl, by decide +kernel⟩,
   ⟨State.reset, _, 5, 0, rfl, by decide +kernel⟩,
   ⟨State.reset, _, 1, 1, true, 0, 0, rfl, by decide +kernel⟩,
   ⟨State.reset, _, false, 0, rfl, by decide +kernel⟩,
   ⟨State.reset, _, 1, false, 0, rfl, by decide +kernel⟩,
   ⟨State.reset, _, 0, rfl⟩,
   ⟨State.reset, _, true, rfl⟩,
   ⟨State.reset, _, rfl⟩⟩

/-- The hypotheses of each clause of `Obligations.LockoutResetIsJudgedByTheTable` are met together. -/
theorem test_wit_LockoutResetIsJudgedByTheTable :
    (∃ (s : State), s.safeState ≠ safeLockout) ∧
    (∃ (s : State) (remote : Bool) (sv : Bool) (holds : List Bool), holds = [s.classAActive, decide (s.reg 0x11001C &&& 0x6F80#32 ≠ 0#32), s.running, decide (2 ≤ s.get F.SAFE_STAT_RST_IN) || (remote && s.on F.SAFE_IN_RST_CLOSED), s.safe.testsFailed, !sv, !(if remote = true then s.on F.SAFE_CFG_RST_REMOTE else s.on F.SAFE_CFG_RST_INPUT), s.on F.THERM_FAULT_STAT_CRIT_LATCH, s.on F.SAFE_STAT_SV_WINDOW]) ∧
    (∃ (s : State), s.safeState = safeLockout ∧ s.safe.reqAt = some (s.cycleNo, false)) ∧
    (∃ (s : State) (t : State) (sv : Bool), s.safeState = safeLockout ∧ t = s.put F.SAFE_RESET 0 ∧ t.resetWhy true sv = 0 ∧ s.safe.reqAt ≠ some (s.cycleNo, false)) ∧
    (∃ (s : State) (t : State) (sv : Bool) (w : Nat), s.safeState = safeLockout ∧ t = s.put F.SAFE_RESET 0 ∧ t.resetWhy true sv = w ∧ w ≠ 0 ∧ s.safe.reqAt ≠ some (s.cycleNo, false)) :=
  ⟨⟨State.reset, by decide +kernel⟩,
   ⟨State.reset, true, false, _, rfl⟩,
   ⟨State.withSafe (withFields [(F.SAFE_STAT_STATE, safeLockout)]) { State.reset.safe with reqAt := some (0, false) }, by decide +kernel, by decide +kernel⟩,
   ⟨withFields [(F.SAFE_STAT_STATE, safeLockout), (F.SAFE_CFG_RST_REMOTE, 1)], _, true, by decide +kernel, rfl, by decide +kernel, by decide +kernel⟩,
   ⟨withFields [(F.SAFE_STAT_STATE, safeLockout), (F.SAFE_CFG_RST_REMOTE, 1)], _, false, 6, by decide +kernel, rfl, by decide +kernel, by decide +kernel, by decide +kernel⟩⟩

/-- The hypotheses of each clause of `Obligations.RawRecordsEveryOccurrence` are met together. -/
theorem test_wit_RawRecordsEveryOccurrence :
    (∃ (k : Nat), k < 16) ∧
    (∃ (k : Nat) (j : Nat), k < 16 ∧ j < 16 ∧ j ≠ k) ∧
    (∃ (b : Nat) (a : Nat), a ≠ b + 0x10) ∧
    (∃ (s : State) (b : Nat) (k : Nat), s.bitOf (F.evtEn b) k = false) ∧
    (∃ (s : State) (b : Nat) (k : Nat), s.bitOf (F.evtEn b) k = true) :=
  ⟨⟨3, by decide +kernel⟩,
   ⟨3, 4, by decide +kernel, by decide +kernel, by decide +kernel⟩,
   ⟨0, 0, by decide +kernel⟩,
   ⟨State.reset, 0, 3, by decide +kernel⟩,
   ⟨withFields [(F.evtEn 0, 8)], 0, 3, by decide +kernel⟩⟩

/-- The hypotheses of each clause of `Obligations.ErrorClassesBecomeLasting` are met together. -/
theorem test_wit_ErrorClassesBecomeLasting :
    (∃ (c : Nat), c < 8) ∧
    (∃ (s : State) (c : Nat), c < 8 ∧ s.bitOf F.FLT_LASTING c = false ∧ s.fltN c = 1) ∧
    (∃ (s : State) (c : Nat) (ts : List Nat), c < 8 ∧ s.bitOf F.FLT_LASTING c = false ∧ ts = (s.now :: KMap.get (fun _ => []) s.flt.times c).take 255) ∧
    (∃ (s : State) (t : State) (c : Nat) (ts : List Nat), c < 8 ∧ s.bitOf F.FLT_LASTING c = false ∧ ts = (s.now :: KMap.get (fun _ => []) s.flt.times c).take 255 ∧ t = { s.cnt (F.FLT_COUNT c) with flt := { s.flt with times := KMap.set (fun _ => []) s.flt.times c ts } }) ∧
    (∃ (s : State) (c : Nat), c < 8 ∧ s.bitOf F.FLT_LASTING c = true) :=
  ⟨⟨2, by decide +kernel⟩,
   ⟨withFields [(⟨A.FLT_CLASS0 + 8, 24, 8⟩, 1)], 2, by decide +kernel, by decide +kernel, by decide +kernel⟩,
   ⟨State.reset, 2, _, by decide +kernel, by decide +kernel, rfl⟩,
   ⟨State.reset, _, 2, _, by decide +kernel, by decide +kernel, rfl, rfl⟩,
   ⟨withFields [(F.FLT_LASTING, 4)], 2, by decide +kernel, by decide +kernel⟩⟩
end

section
/-! PROOFS. What every command keeps, from the laws of its operation: the queue, stores in canonical form, and the parts of State outside
its footprint. -/

namespace Sys2Proof.Machine

/-- A list of parts as the set of bits that `Keeps` takes. -/
def Part.mask : List Part → Nat
  | [] => 0
  | p :: l => 1 <<< p.ix ||| Part.mask l

theorem Part.ix_injective : Function.Injective Part.ix :=
  Function.LeftInverse.injective (g := fun n => Part.ofNat (n - 1)) fun p => by cases p <;> rfl

theorem Part.testBit_mask (l : List Part) (p : Part) : (Part.mask l).testBit p.ix = decide (p ∈ l) := by
  induction l with
  | nil => simp [Part.mask]
  | cons q l ih =>
    have hq : p = q ↔ q.ix = p.ix := ⟨fun e => e ▸ rfl, fun e => Part.ix_injective e.symm⟩
    simp [Part.mask, ih, Nat.one_shiftLeft, Nat.testBit_two_pow, hq]

/-- Every command keeps what `Keeps` says, with its footprint for the parts it may change: one law per command. -/
theorem exec_keeps {k0 : Nat} {r0 : State} (c : Instr) (s : State) (hr : Keeps k0 r0 s) (hm : Sub (Part.mask (touches c)) k0) :
    KeepsO k0 r0 (exec c s) := by
  cases c with dsimp only [touches] at hm
  | registerWrite => exact execRegisterWrite_keeps _ _ _ hr
  | unmappedAccess => exact execUnmappedAccess_keeps _ _ hr
  | lockWrite => exact execLockWrite_keeps _ _ hr
  | guardedPrimaryWrite => exact execGuardedPrimaryWrite_keeps _ _ hr
  | guardTwinWrite => exact execGuardTwinWrite_keeps _ _ hr
  | guardTimeout => exact execGuardTimeout_keeps _ _ hr
  | resultRead => exact execResultRead_keeps _ _ _ hr
  | hostNpRequest => exact execHostNpRequest_keeps _ _ hr
  | pcieReset => exact execPcieReset_keeps _ _ hr
  | pcieLinkUp => exact execPcieLinkUp_keeps _ _ _ _ _ hr
  | aerError => exact execAerError_keeps _ _ hr
  | msixUnmask => exact execMsixUnmask_keeps _ _ hr
  | cmdNop => exact execCmdNop_keeps _ hr
  | cmdBadOpcode => exact execCmdBadOpcode_keeps _ hr
  | cmdComplete => exact execCmdComplete_keeps _ hr
  | cmdTimeout => exact execCmdTimeout_keeps _ hr
  | svrRestartRequest => exact execSvrRestartRequest_keeps _ hr
  | svrRestartBegin => exact execSvrRestartBegin_keeps _ hr
  | svrWatchdogRestart => exact execSvrWatchdogRestart_keeps _ hr
  | svrRestartEnd => exact execSvrRestartEnd_keeps _ _ hr
  | yardCheck => exact execYardCheck_keeps _ hr
  | yardCheckComplete => exact execYardCheckComplete_keeps _ hr
  | yardStart => exact execYardStart_keeps _ hr
  | yardStop => exact execYardStop_keeps _ hr
  | yardEnterRun => exact execYardEnterRun_keeps _ hr
  | yardEnterStopping => exact execYardEnterStopping_keeps _ hr
  | yardStopComplete => exact execYardStopComplete_keeps _ hr
  | stallRecordWrite => exact execStallRecordWrite_keeps _ _ hr
  | stallInsertRequest => exact execStallInsertRequest_keeps _ _ _ hr
  | stallRemoveRequest => exact execStallRemoveRequest_keeps _ _ hr
  | stallLastingClear => exact execStallLastingClear_keeps _ _ hr
  | periodBoundary => exact execPeriodBoundary_keeps _ hr
  | uplinkReceived => exact execUplinkReceived_keeps _ _ _ hr
  | uplinkCutoff => exact execUplinkCutoff_keeps _ _ hr
  | mgmtRequest => exact execMgmtRequest_keeps _ _ hr
  | mrspReceived => exact execMrspReceived_keeps _ _ _ hr
  | mgmtTimeout => exact execMgmtTimeout_keeps _ _ _ hr
  | insertReadyTimeout => exact execInsertReadyTimeout_keeps _ _ hr
  | prechargeTimeout => exact execPrechargeTimeout_keeps _ _ hr
  | removalComplete => exact execRemovalComplete_keeps _ _ hr
  | schedTransmit => exact execSchedTransmit_keeps _ _ _ _ hr
  | laneEnable => exact execLaneEnable_keeps _ _ hr
  | lanePark => exact execLanePark_keeps _ _ hr
  | lanePllLock => exact execLanePllLock_keeps _ _ _ _ hr
  | laneTrainComplete => exact execLaneTrainComplete_keeps _ _ _ hr
  | laneAdapt => exact execLaneAdapt_keeps _ _ hr
  | applyEq => exact execApplyEq_keeps _ _ hr
  | laneLastingClear => exact execLaneLastingClear_keeps _ _ hr
  | laneRetryTimeout => exact execLaneRetryTimeout_keeps _ _ hr
  | blockLockLoss => exact execBlockLockLoss_keeps _ _ hr
  | blockLockGain => exact execBlockLockGain_keeps _ _ hr
  | relockTimeout => exact execRelockTimeout_keeps _ _ hr
  | alignmentMarker => exact execAlignmentMarker_keeps _ _ _ _ hr
  | markerMissing => exact execMarkerMissing_keeps _ _ hr
  | markerIntervalEnd => exact execMarkerIntervalEnd_keeps _ _ hr
  | echoTimer => exact execEchoTimer_keeps _ _ hr
  | echoRspReceived => exact execEchoRspReceived_keeps _ _ _ _ hr
  | echoLost => exact execEchoLost_keeps _ _ hr
  | edgeCommit => exact execEdgeCommit_keeps _ hr
  | edgeCutoff => exact execEdgeCutoff_keeps _ hr
  | reloadEdge => exact execReloadEdge_keeps _ hr
  | balanceDelivery => exact execBalanceDelivery_keeps _ _ hr
  | commandDeadline => exact execCommandDeadline_keeps _ _ hr
  | scheduleCompute => exact execScheduleCompute_keeps _ hr
  | armResetRequest => exact execArmResetRequest_keeps _ _ hr
  | nop => exact execNop_keeps _ _ hr
  | endRun => exact execEndRun_keeps _ _ hr
  | wait => exact execWait_keeps _ _ hr
  | waitEvent => exact execWaitEvent_keeps _ _ hr
  | loop => exact execLoop_keeps _ _ hr
  | brf => exact execBrf_keeps _ _ hr
  | setx => exact execSetx_keeps _ _ hr
  | ldc => exact execLdc_keeps _ _ hr
  | lds => exact execLds_keeps _ _ hr
  | sts => exact execSts_keeps _ _ hr
  | gath => exact execGath_keeps _ _ hr
  | scat => exact execScat_keeps _ _ hr
  | mark => exact execMark_keeps _ _ hr
  | wra => exact execWra_keeps _ _ hr
  | mvm => exact execMvm_keeps _ _ hr
  | vmac => exact execVmac_keeps _ _ hr
  | vmacc => exact execVmacc_keeps _ _ hr
  | obs => exact execObs_keeps _ _ hr
  | accl => exact execAccl_keeps _ _ hr
  | wb => exact execWb_keeps _ _ hr
  | lim => exact execLim_keeps _ _ hr
  | sat => exact execSat_keeps _ _ hr
  | preset => exact execPreset_keeps _ _ hr
  | sel => exact execSel_keeps _ _ hr
  | vadd => exact execVadd_keeps _ _ hr
  | red => exact execRed_keeps _ _ hr
  | cmp => exact execCmp_keeps _ _ hr
  | illegalOpcode => exact execIllegalOpcode_keeps _ _ hr
  | cmeOverrun => exact execCmeOverrun_keeps _ _ hr
  | engineRamWrite => exact execEngineRamWrite_keeps _ _ hr
  | paddockRamWrite => exact execPaddockRamWrite_keeps _ _ hr
  | programCheck => exact execProgramCheck_keeps _ hr
  | programCheckComplete => exact execProgramCheckComplete_keeps _ hr
  | armRestoreRequest => exact execArmRestoreRequest_keeps _ _ hr
  | presetRequest => exact execPresetRequest_keeps _ _ hr
  | debugHalt => exact execDebugHalt_keeps _ hr
  | breakpointHit => exact execBreakpointHit_keeps _ hr
  | debugStep => exact execDebugStep_keeps _ hr
  | debugRelease => exact execDebugRelease_keeps _ hr
  | groomScrub => exact execGroomScrub_keeps _ _ _ _ hr
  | warmupEnd => exact execWarmupEnd_keeps _ hr
  | paddockLoad => exact execPaddockLoad_keeps _ hr
  | paddockCompareHandover => exact execPaddockCompareHandover_keeps _ hr
  | paddockReport => exact execPaddockReport_keeps _ hr
  | paddockEnd => exact execPaddockEnd_keeps _ _ hr
  | paddockRollback => exact execPaddockRollback_keeps _ hr
  | paddockCompareEnd => exact execPaddockCompareEnd_keeps _ hr
  | paddockHandover => exact execPaddockHandover_keeps _ hr
  | retainExpiry => exact execRetainExpiry_keeps _ _ hr
  | healthLog => exact execHealthLog_keeps _ hr
  | timeSnap => exact execTimeSnap_keeps _ hr
  | tbWrap => exact execTbWrap_keeps _ _ hr
  | align => exact execAlign_keeps _ hr
  | ctbAutoAlign => exact execCtbAutoAlign_keeps _ hr
  | ctbServoUpdate => exact execCtbServoUpdate_keeps _ hr
  | ptpEnable => exact execPtpEnable_keeps _ _ hr
  | ptpSyncRx => exact execPtpSyncRx_keeps _ _ hr
  | ptpAnnounceRx => exact execPtpAnnounceRx_keeps _ _ hr
  | pdelayTimer => exact execPdelayTimer_keeps _ hr
  | pdelayReqRx => exact execPdelayReqRx_keeps _ _ hr
  | pdelayRespRx => exact execPdelayRespRx_keeps _ _ hr
  | syncTimeout => exact execSyncTimeout_keeps _ _ hr
  | announceTimeout => exact execAnnounceTimeout_keeps _ _ hr
  | domainHoldoverExpiry => exact execDomainHoldoverExpiry_keeps _ _ hr
  | tcForward => exact execTcForward_keeps _ _ hr
  | timeFifoPop => exact execTimeFifoPop_keeps _ _ hr
  | compareFire => exact execCompareFire_keeps _ _ hr
  | syncInCapture => exact execSyncInCapture_keeps _ _ hr
  | calCorrection => exact execCalCorrection_keeps _ _ hr
  | calTrim => exact execCalTrim_keeps _ _ hr
  | calSet => exact execCalSet_keeps _ hr
  | backupWrite => exact execBackupWrite_keeps _ _ hr
  | backupWriteDone => exact execBackupWriteDone_keeps _ hr
  | tamperInput => exact execTamperInput_keeps _ hr
  | backupLow => exact execBackupLow_keeps _ _ hr
  | backupStop => exact execBackupStop_keeps _ _ hr
  | backupStart => exact execBackupStart_keeps _ _ hr
  | rtcAlarm => exact execRtcAlarm_keeps _ hr
  | rtcLogRead => exact execRtcLogRead_keeps _ _ hr
  | e12Enable => exact execE12Enable_keeps _ _ hr
  | ethFrameRx => exact execEthFrameRx_keeps _ _ hr
  | ethLinkChange => exact execEthLinkChange_keeps _ _ _ _ hr
  | sfpChange => exact execSfpChange_keeps _ _ _ _ hr
  | supervisionTimer => exact execSupervisionTimer_keeps _ hr
  | lanFaultTimeout => exact execLanFaultTimeout_keeps _ _ hr
  | nodeForgetExpiry => exact execNodeForgetExpiry_keeps _ _ hr
  | ringOpen => exact execRingOpen_keeps _ hr
  | rraRequest => exact execRraRequest_keeps _ _ _ hr
  | rraExecute => exact execRraExecute_keeps _ hr
  | canEnable => exact execCanEnable_keeps _ _ _ hr
  | txPush => exact execTxPush_keeps _ _ _ _ hr
  | txCancel => exact execTxCancel_keeps _ _ _ _ _ hr
  | canTxAck => exact execCanTxAck_keeps _ _ _ hr
  | canTxFail => exact execCanTxFail_keeps _ _ _ _ hr
  | collisionHoldExpiry => exact execCollisionHoldExpiry_keeps _ _ _ hr
  | canRxFrame => exact execCanRxFrame_keeps _ _ _ hr
  | rxTopPop => exact execRxTopPop_keeps _ _ hr
  | canRecover => exact execCanRecover_keeps _ _ hr
  | canRecoveryDone => exact execCanRecoveryDone_keeps _ _ hr
  | canBasicCycle => exact execCanBasicCycle_keeps _ _ hr
  | canTtMiss => exact execCanTtMiss_keeps _ _ _ hr
  | canMasterResume => exact execCanMasterResume_keeps _ _ hr
  | adcStart => exact execAdcStart_keeps _ _ hr
  | adcTrigger => exact execAdcTrigger_keeps _ _ hr
  | adcResult => exact execAdcResult_keeps _ _ _ hr
  | adcFifoPop => exact execAdcFifoPop_keeps _ _ hr
  | adcWindowWrite => exact execAdcWindowWrite_keeps _ _ hr
  | vrefxMeasure => exact execVrefxMeasure_keeps _ _ hr
  | calSweep => exact execCalSweep_keeps _ _ hr
  | comparatorTrip => exact execComparatorTrip_keeps _ _ _ _ _ hr
  | comparatorRelease => exact execComparatorRelease_keeps _ _ _ _ _ hr
  | tempMeasure => exact execTempMeasure_keeps _ _ hr
  | feedJudge => exact execFeedJudge_keeps _ _ _ _ hr
  | bus54vLow => exact execBus54vLow_keeps _ _ hr
  | bus12vLow => exact execBus12vLow_keeps _ _ hr
  | groupEnable => exact execGroupEnable_keeps _ _ _ hr
  | softStartComplete => exact execSoftStartComplete_keeps _ _ _ hr
  | softStartFail => exact execSoftStartFail_keeps _ _ _ hr
  | groupOutputFault => exact execGroupOutputFault_keeps _ _ _ hr
  | hiccupExpiry => exact execHiccupExpiry_keeps _ _ hr
  | groupLatchClear => exact execGroupLatchClear_keeps _ _ hr
  | syncLockChange => exact execSyncLockChange_keeps _ _ _ hr
  | phaseWindowEnd => exact execPhaseWindowEnd_keeps _ _ _ hr
  | phaseReadmit => exact execPhaseReadmit_keeps _ _ _ _ hr
  | loopEnable => exact execLoopEnable_keeps _ _ _ hr
  | loopControlUpdate => exact execLoopControlUpdate_keeps _ _ _ hr
  | loopRetry => exact execLoopRetry_keeps _ _ hr
  | loopLatchClear => exact execLoopLatchClear_keeps _ _ hr
  | telemetryWindow => exact execTelemetryWindow_keeps _ _ _ hr
  | peakClr => exact execPeakClr_keeps _ hr
  | gdrvXcmd => exact execGdrvXcmd_keeps _ _ hr
  | gdrvSenseTrip => exact execGdrvSenseTrip_keeps _ _ _ hr
  | gdrvBstUv => exact execGdrvBstUv_keeps _ _ _ hr
  | gdrvRefresh => exact execGdrvRefresh_keeps _ _ _ _ _ hr
  | gdrvLatchRelease => exact execGdrvLatchRelease_keeps _ _ _ _ hr
  | gdrvDisabledClear => exact execGdrvDisabledClear_keeps _ _ _ hr
  | pwmChannelEnable => exact execPwmChannelEnable_keeps _ _ _ hr
  | pwmCommit => exact execPwmCommit_keeps _ _ hr
  | pwmCutoff => exact execPwmCutoff_keeps _ _ hr
  | pwmReload => exact execPwmReload_keeps _ _ hr
  | pwmSync => exact execPwmSync_keeps _ _ _ hr
  | pwmTrip => exact execPwmTrip_keeps _ _ hr
  | pwmBlankEnd => exact execPwmBlankEnd_keeps _ _ hr
  | pwmTripClear => exact execPwmTripClear_keeps _ _ hr
  | safetyCycle => exact execSafetyCycle_keeps _ _ _ hr
  | safetyInputChange => exact execSafetyInputChange_keeps _ _ _ _ _ hr
  | siDiscrepancy => exact execSiDiscrepancy_keeps _ _ hr
  | feedbackChange => exact execFeedbackChange_keeps _ _ _ hr
  | fbMismatch => exact execFbMismatch_keeps _ _ hr
  | disagree => exact execDisagree_keeps _ _ hr
  | brokenLine => exact execBrokenLine_keeps _ _ _ hr
  | brokenLineHeal => exact execBrokenLineHeal_keeps _ _ hr
  | restartWindowLong => exact execRestartWindowLong_keeps _ hr
  | cstopComplete => exact execCstopComplete_keeps _ hr
  | lockoutLoopOff => exact execLockoutLoopOff_keeps _ hr
  | hostHaltRequest => exact execHostHaltRequest_keeps _ hr
  | hostCstopRequest => exact execHostCstopRequest_keeps _ hr
  | fabricClockLoss => exact execFabricClockLoss_keeps _ hr
  | rootPllRelock => exact execRootPllRelock_keeps _ hr
  | rstInChange => exact execRstInChange_keeps _ _ _ _ hr
  | resetHeld => exact execResetHeld_keeps _ hr
  | resetStuck => exact execResetStuck_keeps _ hr
  | lockoutReset => exact execLockoutReset_keeps _ _ hr
  | proofRun => exact execProofRun_keeps _ hr
  | proofTest => exact execProofTest_keeps _ _ _ hr
  | proofOverdue => exact execProofOverdue_keeps _ hr
  | powerUpTestsDone => exact execPowerUpTestsDone_keeps _ _ hr
  | fabricTimeout => exact execFabricTimeout_keeps _ _ _ hr
  | capClr => exact execCapClr_keeps _ hr
  | fabricProbe => exact execFabricProbe_keeps _ _ hr
  | eventDelivery => exact execEventDelivery_keeps _ hr
  | eoi => exact execEoi_keeps _ _ hr
  | msixHoldoffExpiry => exact execMsixHoldoffExpiry_keeps _ _ hr
  | evtSw => exact execEvtSw_keeps _ _ hr
  | evtLogPop => exact execEvtLogPop_keeps _ _ hr
  | flashErase => exact execFlashErase_keeps _ _ hr
  | flashProgram => exact execFlashProgram_keeps _ _ hr
  | imageVerify => exact execImageVerify_keeps _ _ hr
  | imageStage => exact execImageStage_keeps _ _ hr
  | laneTableApply => exact execLaneTableApply_keeps _ _ _ hr
  | adcCalApply => exact execAdcCalApply_keeps _ _ _ hr
  | fenceParamApply => exact execFenceParamApply_keeps _ _ _ _ hr
  | ownershipApply => exact execOwnershipApply_keeps _ _ _ hr
  | attestSign => exact execAttestSign_keeps _ _ hr
  | readIdentity => exact execReadIdentity_keeps _ hr
  | stationSet => exact execStationSet_keeps _ _ hr
  | stationErase => exact execStationErase_keeps _ _ hr
  | indexStatus => exact execIndexStatus_keeps _ hr
  | tackBadSubop => exact execTackBadSubop_keeps _ hr
  | treeGenerated => exact execTreeGenerated_keeps _ hr
  | confirm => exact execConfirm_keeps _ _ hr
  | trialTimeout => exact execTrialTimeout_keeps _ hr
  | fenceConfirmation => exact execFenceConfirmation_keeps _ _ _ hr
  | fenceConfirmationDone => exact execFenceConfirmationDone_keeps _ _ hr
  | fpendDiscard => exact execFpendDiscard_keeps _ hr
  | pairEnable => exact execPairEnable_keeps _ _ hr
  | forceLead => exact execForceLead_keeps _ hr
  | pstatRx => exact execPstatRx_keeps _ _ _ hr
  | poutRx => exact execPoutRx_keeps _ _ _ hr
  | pairLinkLoss => exact execPairLinkLoss_keeps _ hr
  | digestUpdate => exact execDigestUpdate_keeps _ _ hr
  | digestMismatch => exact execDigestMismatch_keeps _ _ hr
  | withdraw => exact execWithdraw_keeps _ hr
  | powerOn => exact execPowerOn_keeps _ _ hr
  | moduleResetRelease => exact execModuleResetRelease_keeps _ _ _ hr
  | resetInputAssert => exact execResetInputAssert_keeps _ hr
  | resetInputRelease => exact execResetInputRelease_keeps _ hr
  | serviceButtonChange => exact execServiceButtonChange_keeps _ _ _ hr
  | serviceButtonHeld => exact execServiceButtonHeld_keeps _ hr
  | serviceButtonStuck => exact execServiceButtonStuck_keeps _ hr
  | serviceButtonUnstick => exact execServiceButtonUnstick_keeps _ hr
  | moduleReset => exact execModuleReset_keeps _ hr
  | echoReceived => exact execEchoReceived_keeps _ _ _ _ hr
  | blockReceived => exact execBlockReceived_keeps _ _ _ _ hr
  | tamperInputRelease => exact execTamperInputRelease_keeps _ hr
  | svrDebugHalt => exact execSvrDebugHalt_keeps _ hr
  | svrDebugRelease => exact execSvrDebugRelease_keeps _ hr
  | bus54vReturn => exact execBus54vReturn_keeps _ _ hr
  | canBusError => exact execCanBusError_keeps _ _ _ hr
  | soOverload => exact execSoOverload_keeps _ _ hr
  | bootNoBank => exact execBootNoBank_keeps _ _ hr
  | adcSettled => exact execAdcSettled_keeps _ _ hr
  | pcieConfigReady => exact execPcieConfigReady_keeps _ hr
  | tripInputChange => exact execTripInputChange_keeps _ _ _ _ hr

/-- A command that answers a next state keeps the queue, the canonical form of the stores and every part outside its footprint. -/
theorem keeps_of_exec {c : Instr} {s t : State} (h : exec c s = .next t) : Keeps (Part.mask (touches c)) s t :=
  exec_keeps c s (Keeps.refl _ _) (Nat.or_self _) t h

theorem same_of_exec {c : Instr} {s t : State} {p : Part} (h : exec c s = .next t) (hp : p ∉ touches c) : p.same s t :=
  (keeps_of_exec h).parts p (by simpa [Part.testBit_mask] using hp)

/-- Settles O32: an idle step moves the clocks alone, and every command keeps the canonical form by its own law. -/
theorem everyStepKeepsTheStoresCanonical : Obligations.EveryStepKeepsTheStoresCanonical := by
  intro s t hregs hmem h
  unfold step at h
  split at h
  case h_1 =>
    cases h
    have hk := State.advance_keeps s cyc (Keeps.refl _ s) (Nat.or_self _)
    exact ⟨hk.regs hregs, hk.mem hmem⟩
  case h_2 c rest _ =>
    have hk := keeps_of_exec h
    exact ⟨hk.regs hregs, hk.mem hmem⟩

/-- Settles O35: a part outside the footprint is the same, so every byte and every register read from it is. -/
theorem commandsTouchOnlyTheirParts : Obligations.CommandsTouchOnlyTheirParts := by
  refine ⟨fun c s t p h hp => same_of_exec h hp, fun c s t h hp a => ?_, fun c s t h hp a => ?_⟩
  · have hmem : t.mem = s.mem := same_of_exec h hp
    simp only [State.byte, hmem]
  · have hregs : t.regs = s.regs := same_of_exec h hp
    simp only [State.reg, hregs]

end Sys2Proof.Machine
end

section
/-! PROOFS. Reads through every page of a register (R13), results and their SEQ (R22), access errors (R17), the bytes of memory (R14) and
the reset state. -/

namespace Sys2Proof.Machine

/-! ### Reads of one register -/

theorem State.busRead_regs_one (s : State) (m : Master) {a : Nat} (h4 : a % 4 = 0) (hr : regionOf a = .regs) :
    s.busRead m a 1 = if s.answers m = true then s.readReg m (canon a) false else { s with readData := [] } := by
  simp only [State.busRead, div4_mul4 h4, hr, State.readList, State.readOne, List.nil_append]
  cases s.answers m <;> simp

theorem State.busRead_regs_pair (s : State) (m : Master) {a : Nat} (h8 : a % 8 = 0) (hr : regionOf a = .regs) (hp : isPairLo (canon a) = true) :
    s.busRead m a 2 = if s.answers m = true then s.readReg m (canon a) true else { s with readData := [] } := by
  simp only [State.busRead, div4_mul4 (show a % 4 = 0 by omega), hr, State.readOne, isPair, h8, hp]
  cases s.answers m <;> simp

theorem resultKey_of_canon_eq {a b : Nat} (ha : regionOf a = .regs) (hb : regionOf b = .regs) (h : canon a = canon b) :
    resultKey a = resultKey b := by
  simp [resultKey, ha, hb, h]

/-- A read command goes by what its address names: two addresses of one register, read alike, answer one outcome. -/
theorem execResultRead_of_canon_eq (m : Master) {a b n : Nat} (meets : Option Nat) (s : State) (ha : a < 0x1000000) (hb : b < 0x1000000)
    (hra : regionOf a = .regs) (hrb : regionOf b = .regs) (hc : canon a = canon b) (h : ∀ t : State, t.busRead m a n = t.busRead m b n) :
    execResultRead ⟨m, BitVec.ofNat 24 a, n⟩ meets s = execResultRead ⟨m, BitVec.ofNat 24 b, n⟩ meets s := by
  have ea : (BitVec.ofNat 24 a).toNat = a := by rw [BitVec.toNat_ofNat]; omega
  have eb : (BitVec.ofNat 24 b).toNat = b := by rw [BitVec.toNat_ofNat]; omega
  simp only [execResultRead, ea, eb, resultKey_of_canon_eq hra hrb hc, h]

/-- Settles O37: the two addresses name one register, and a read of a register goes by its canonical address alone. -/
theorem aliasReadsActAsNormalReads : Obligations.AliasReadsActAsNormalReads := by
  constructor
  · intro s m a al meets hal ha hpage h4 hr
    have hr' := regionOf_alias hal ha hpage hr
    have hc := canon_alias hal hpage
    exact execResultRead_of_canon_eq m meets s (by omega) (by omega) hr' hr hc fun t => by
      rw [t.busRead_regs_one m (by omega) hr', t.busRead_regs_one m h4 hr, hc]
  · intro s m a al meets hal ha hpage h8 hr hp
    have hr' := regionOf_alias hal ha hpage hr
    have hc := canon_alias hal hpage
    exact execResultRead_of_canon_eq m meets s (by omega) (by omega) hr' hr hc fun t => by
      rw [t.busRead_regs_pair m (by omega) hr' (by rwa [hc]), t.busRead_regs_pair m h8 hr hp, hc]

/-! ### Results -/

theorem State.res_complete_of_ne (s : State) {a b : Nat} (v : Nat) (h : b ≠ a) : (s.complete a v).res b = s.res b :=
  KMap.get_set_of_ne _ _ _ h

/-- Each completed result raises SEQ by one, modulo 256. -/
theorem State.seq_foldl_complete (a : Nat) (l : List Nat) (s : State) (n : Nat) (h : (s.res a).seq = n % 256) :
    ((l.foldl (fun (t : State) v => t.complete a v) s).res a).seq = (n + l.length) % 256 := by
  induction l generalizing s n with
  | nil => simpa using h
  | cons v l ih =>
    rw [List.foldl_cons, ih (s.complete a v) (n + 1) (by rw [State.res_complete]; simp only [h]; omega), List.length_cons]
    omega

/-- Settles O38, by induction on the list of results. -/
theorem resultsCarryRisingSeq : Obligations.ResultsCarryRisingSeq := by
  refine ⟨fun s a v => ?_, fun s a b v h => s.res_complete_of_ne v h, fun a l => ?_, fun s m a run hm h4 hr hres hbusy => ?_⟩
  · rw [State.res_complete]
    exact ⟨rfl, rfl⟩
  · simpa using State.seq_foldl_complete a l State.reset 0 rfl
  · refine ⟨_, rfl, ?_⟩
    rw [State.busRead_result s m h4 hr hres hm, State.resRead, hbusy]
    cases run <;> rfl

/-! ### Access errors -/

/-- The bit of FAULT_STAT that an access error sets. -/
def Err.faultBit : Err → Nat
  | .aliasGrd => 1
  | .lockedWr => 2
  | .sizeErr => 3
  | _ => 0

theorem State.accessFault_eq (s : State) (b : Nat) (e : Err) (m acc a : Nat) :
    s.accessFault b e m acc a =
      ((((s.put ⟨b + 0x1C, e.faultBit, 1⟩ 1).cnt (F.accessErr b)).raise Base.SYS 0).err e m acc a).noteDrop := by
  cases e <;> rfl

theorem State.on_put_one (s : State) (r i : Nat) (h : i < 32) : (s.put ⟨r, i, 1⟩ 1).on ⟨r, i, 1⟩ = true := by
  simp [State.on, State.get_put_self s ⟨r, i, 1⟩ 1 h]

theorem State.bitOf_of_reg {s t : State} {f : Fld} {i : Nat} (h : s.reg f.reg = t.reg f.reg) (g : t.bitOf f i = true) :
    s.bitOf f i = true := by
  simp only [State.bitOf, State.get, h] at *
  exact g

/-- An access error sets its bit of the block's FAULT_STAT: what follows it changes other registers. -/
theorem State.on_accessFault (s : State) {b : Nat} (e : Err) (m acc a : Nat) (hb : b % 0x10000 = 0) (he : e.cls = 0) :
    (s.accessFault b e m acc a).on ⟨b + 0x1C, e.faultBit, 1⟩ = true := by
  have hi : e.faultBit < 32 := by cases e <;> decide
  refine State.on_of_reg ?_ (s.on_put_one (b + 0x1C) e.faultBit hi)
  rw [State.accessFault_eq, State.reg_noteDrop, State.reg_err _ _ he _ _ _ (by dsimp only; omega),
    State.reg_raise_of_ne _ _ (by simp only [Base.SYS]; omega), State.reg_cnt_of_ne _ _ (by simp only [F.accessErr]; omega)]

/-- The collector leaves the events of SYS alone. -/
theorem State.bitOf_err_raise (s : State) (e : Err) (m acc a : Nat) (he : e.cls = 0) :
    ((s.raise Base.SYS 0).err e m acc a).bitOf (F.evtRaw Base.SYS) 0 = true :=
  State.bitOf_of_reg (State.reg_err _ _ he _ _ _ (by simp only [F.evtRaw, Base.SYS]; omega)) (State.bitOf_raise _ _ _ (by decide))

theorem State.on_unmapped (s : State) (m : Master) (acc a : Nat) : (s.unmapped m acc a).on F.SYS_FAULT_STAT_UNMAPPED = true := by
  refine State.on_of_reg ?_ (s.on_put_one 0x1C 16 (by decide))
  rw [State.unmapped, State.reg_err _ _ rfl _ _ _ (by simp only [F.SYS_FAULT_STAT_UNMAPPED]; omega), State.reg_raise_of_ne _ _ (by decide)]
  rfl

/-- No block refuses a clear of bits 3 to 0 of its FAULT_STAT (R17). -/
theorem State.clearOk_access (s : State) {b i : Nat} (hb : b % 0x10000 = 0) (hi : i < 4) : s.clearOk (b + 0x1C) i = true := by
  obtain ⟨k, rfl⟩ : ∃ k, b = 0x10000 * k := ⟨b / 0x10000, by omega⟩
  have hk : (0x10000 * k + 0x1C) / 0x10000 = k := by omega
  have ho : (0x10000 * k + 0x1C) % 0x10000 = 0x1C := by omega
  unfold State.clearOk
  simp only [hk, ho]
  rw [if_neg (by decide)]
  split
  case h_15 => simp [show i ≠ 4 by omega]
  all_goals interval_cases i <;> rfl

/-- Settles O39: the bit, the event of SYS and the clear, each by its lemma. -/
theorem accessErrorsRaiseAccessFault : Obligations.AccessErrorsRaiseAccessFault := by
  refine ⟨fun s b m acc a hb => ⟨?_, ?_, ?_, ?_⟩, fun s b m acc a e he => ?_, fun s m acc a => ⟨s.on_unmapped m acc a, ?_⟩,
    fun s b i hb hi => s.clearOk_access hb hi, fun s => rfl⟩
  · exact s.on_accessFault .guardFail m acc a hb rfl
  · exact s.on_accessFault .aliasGrd m acc a hb rfl
  · exact s.on_accessFault .lockedWr m acc a hb rfl
  · exact s.on_accessFault .sizeErr m acc a hb rfl
  · rw [State.accessFault_eq]
    exact State.bitOf_err_raise _ e m acc a he
  · exact State.bitOf_err_raise _ .unmapped _ acc a rfl

/-! ### Memory and the reset state -/

/-- Settles O45: a load puts the bytes of the store together again, and a store changes its own bytes alone. -/
theorem memoryReadsWhatWasStored : Obligations.MemoryReadsWhatWasStored := by
  refine ⟨fun s a n v => ?_, fun s a n v c h => s.byte_store a n v c h, fun s a n v c => s.reg_storeBytes _ a c⟩
  rw [State.load, State.map_byte_store, ofBytesLE_bytesLE]

/-- Settles O31, by evaluating the reset state. -/
theorem resetStateIsCanonicalAndIdle : Obligations.ResetStateIsCanonicalAndIdle := by
  refine ⟨rfl, rfl, rfl, ?_, ?_, ?_, ?_⟩ <;> decide +kernel

end Sys2Proof.Machine
end

section
/-! PROOFS. Writes to register windows (R10, R12, R15, R16, R19, R20). -/

namespace Sys2Proof.Machine

/-! ### What a write reaches -/

/-- A write of one dword to a register page is one write of the window. -/
theorem State.write_regs_one (s : State) (m : Master) (a : BitVec 24) (x : Word × BitVec 4) (hw : SameCycle) (ha : s.answers m = true)
    (hr : regionOf (a.toNat / 4 * 4) = .regs) :
    s.write ⟨m, .bar0 a, [x]⟩ hw = s.writeWindow ⟨m, a.toNat / 4 * 4, [x]⟩ hw := by
  simp [State.write, State.busWrite, State.writeEach, ha, hr]

/-- The same where the address is that of the dword. -/
theorem State.write_regs_aligned (s : State) (m : Master) {a : BitVec 24} (x : Word × BitVec 4) (hw : SameCycle) (ha : s.answers m = true)
    (h4 : a.toNat % 4 = 0) (hr : regionOf a.toNat = .regs) : s.write ⟨m, .bar0 a, [x]⟩ hw = s.writeWindow ⟨m, a.toNat, [x]⟩ hw := by
  rw [State.write_regs_one s m a x hw ha (by rwa [div4_mul4 h4]), div4_mul4 h4]

/-- A write of two dwords to a register page is one write of the window. -/
theorem State.write_regs_two (s : State) (m : Master) {a : BitVec 24} (x y : Word × BitVec 4) (hw : SameCycle) (ha : s.answers m = true)
    (h4 : a.toNat % 4 = 0) (hr : regionOf a.toNat = .regs) :
    s.write ⟨m, .bar0 a, [x, y]⟩ hw = s.writeWindow ⟨m, a.toNat, [x, y]⟩ hw := by
  simp [State.write, State.busWrite, ha, hr, div4_mul4 h4]

/-- A write to addresses without a register is dropped (R10). -/
theorem State.write_unmapped (s : State) (m : Master) {a : BitVec 24} (l : List (Word × BitVec 4)) (hw : SameCycle) (ha : s.answers m = true)
    (h4 : a.toNat % 4 = 0) (hr : regionOf a.toNat = .unmapped) :
    s.write ⟨m, .bar0 a, l⟩ hw = (s.unmapped m (if a.toNat < 0x800000 then accCode a.toNat else 1) a.toNat).noteDrop := by
  simp [State.write, State.busWrite, ha, hr, div4_mul4 h4]

/-- A master that is not answered reaches nothing (R25). -/
theorem State.write_unanswered (s : State) (w : WriteReq) {a : BitVec 24} (hw : SameCycle) (hb : w.target = .bar0 a)
    (ha : s.answers w.master = false) : s.write w hw = s := by
  simp [State.write, State.busWrite, hb, ha]

/-- A write in IDLE is judged there, and then what was held back is released. -/
theorem State.writeWindow_idle (s : State) (w : BusWrite) (hw : SameCycle) (hg : s.guard (w.a / 0x10000) = {}) :
    s.writeWindow w hw = (s.writeIdle w hw).releaseHeld (w.a / 0x10000) := by
  simp [State.writeWindow, State.guardExpire_idle s _ hg, State.judgeWrite, hg]

/-- A write while a sequence is ARMED and its time has not passed (R20). -/
theorem State.writeWindow_armed (s : State) (w : BusWrite) (hw : SameCycle) {m0 : Master} {p t0 : Nat} {v : Word}
    (hg : s.guard (w.a / 0x10000) = { st := .armed m0 p v t0 }) (ht : s.now < t0 + 1024 * cyc) :
    s.writeWindow w hw =
      (if busMaster w.m ≠ busMaster m0 then
        (s.hwBoth w hw).setGuard (w.a / 0x10000) { st := .armed m0 p v t0, held := [⟨w.m, .bar0 (BitVec.ofNat 24 w.a), w.words⟩] }
      else if w.commits p v then ((s.hwBoth w hw).setGuard (w.a / 0x10000) {}).commit m0 p v
      else ((s.hwBoth w hw).setGuard (w.a / 0x10000) {}).guardFail (masterCode w.m) (accCode w.a) p).releaseHeld (w.a / 0x10000) := by
  have he : s.guardExpire (w.a / 0x10000) = s := by
    unfold State.guardExpire
    simp only [hg, if_neg (show ¬ t0 + 1024 * cyc ≤ s.now by omega)]
  simp only [State.writeWindow, he, State.judgeWrite, hg, List.nil_append]

theorem State.hwBoth_one (s : State) (m : Master) (a : Nat) (x : Word × BitVec 4) (hw : SameCycle) :
    s.hwBoth ⟨m, a, [x]⟩ hw = s.hwOnly (canon a) hw := rfl

theorem State.releaseHeld_armed (s : State) (k : Nat) (m : Master) (p t0 : Nat) (v : Word) (l : List WriteReq) :
    (s.setGuard k { st := .armed m p v t0, held := l }).releaseHeld k = s.setGuard k { st := .armed m p v t0, held := l } := by
  unfold State.releaseHeld
  rw [State.guard_setGuard]

theorem State.guard_until (s : State) (n k : Nat) : (s.until n).guard k = s.guard k := rfl

/-- A sequence that has stood ARMED for 1,024 cycles fails, and what was held back is released. -/
theorem State.guardExpire_expired (s : State) {k : Nat} {m : Master} {p t0 : Nat} {v : Word} {held : List WriteReq}
    (hg : s.guard k = { st := .armed m p v t0, held := held }) (ht : t0 + 1024 * cyc ≤ s.now) :
    s.guardExpire k = ((s.setGuard k { st := .idle, held := held }).guardFail (masterCode m) 15 p).releaseHeld k := by
  simp only [State.guardExpire, hg, if_pos ht]

/-! ### A write in IDLE (R15, R19) -/

/-- R15 refuses the size or the byte enables, or two dwords touch a guarded register. -/
theorem State.writeIdle_sizeErr (s : State) (w : BusWrite) (hw : SameCycle)
    (h : w.sizeOk = false ∨ w.words.length = 2 ∧ w.touches.any (fun x => isGuarded x || (twinOf x).isSome) = true) :
    s.writeIdle w hw = (s.hwBoth w hw).accessFault (baseOf w.a) .sizeErr (masterCode w.m) (accCode w.a) w.a := by
  unfold State.writeIdle
  rw [if_pos]
  simpa using h

theorem BusWrite.sizeOk_full (m : Master) (a : Nat) (v : Word) : BusWrite.sizeOk ⟨m, a, [(v, 0xF#4)]⟩ = true := rfl

theorem BusWrite.touches_one (m : Master) (a : Nat) (x : Word × BitVec 4) : BusWrite.touches ⟨m, a, [x]⟩ = [canon a] := rfl

theorem BusWrite.touches_two (m : Master) (a : Nat) (x y : Word × BitVec 4) : BusWrite.touches ⟨m, a, [x, y]⟩ = [canon a, canon (a + 4)] := rfl

/-- A guarded register takes no write through another page than its normal one. -/
theorem State.writeIdle_alias (s : State) (m : Master) (a : Nat) (v : Word) (hw : SameCycle) (hg : isGuarded (canon a) = true)
    (hal : aliasOf a ≠ 0) :
    s.writeIdle ⟨m, a, [(v, 0xF#4)]⟩ hw = s.accessFault (baseOf a) .aliasGrd (masterCode m) (accCode a) a := by
  simp [State.writeIdle, BusWrite.sizeOk_full, BusWrite.touches_one, hg, hal]

/-- A twin is not written in IDLE. -/
theorem State.writeIdle_twin (s : State) (m : Master) (a p : Nat) (v : Word) (hw : SameCycle) (hp : twinOf (canon a) = some p)
    (hal : aliasOf a = 0) : s.writeIdle ⟨m, a, [(v, 0xF#4)]⟩ hw = s.guardFail (masterCode m) 5 p := by
  simp [State.writeIdle, BusWrite.sizeOk_full, BusWrite.touches_one, hp, hal]

/-- A guarded primary is held, and the sequencer armed. -/
theorem State.writeIdle_primary (s : State) (m : Master) (a : Nat) (v : Word) (hw : SameCycle) (hg : isGuarded (canon a) = true)
    (hp : twinOf (canon a) = none) (hal : aliasOf a = 0) :
    s.writeIdle ⟨m, a, [(v, 0xF#4)]⟩ hw =
      s.setGuard (a / 0x10000) { s.guard (a / 0x10000) with st := .armed m (canon a) v s.now } := by
  simp [State.writeIdle, BusWrite.sizeOk_full, BusWrite.touches_one, hg, hp, hal, BusWrite.value]

/-! ### The commands -/

theorem exec_registerWrite (w : WriteReq) (hw : SameCycle) (s : State) : exec (.registerWrite w hw) s = .next (s.write w hw) := rfl

/-- The commands named after a kind of register write a register of that kind as REGISTER_WRITE does. -/
theorem writeTo_bar0 {p : Nat → Bool} {m : Master} {a : BitVec 24} {l : List (Word × BitVec 4)} (hr : regionOf a.toNat = .regs)
    (hp : p (canon a.toNat) = true) : writeTo p ⟨m, .bar0 a, l⟩ = true := by
  simp [writeTo, writeAddr, hr, hp]

theorem exec_lockWrite {w : WriteReq} (s : State) (h : writeTo (fun c => c % 0x10000 = 0x24) w = true) :
    exec (.lockWrite w) s = .next (s.write w {}) :=
  congrArg Host.Outcome.next (if_pos h)

theorem exec_backupWrite {w : WriteReq} (s : State) (h : writeTo isBackupReg w = true) :
    exec (.backupWrite w) s = .next (s.write w {}) :=
  congrArg Host.Outcome.next (if_pos h)

theorem exec_guardedPrimaryWrite {w : WriteReq} (s : State) (h : writeTo isGuarded w = true) :
    exec (.guardedPrimaryWrite w) s = .next (s.write w {}) :=
  congrArg Host.Outcome.next (if_pos h)

theorem exec_guardTwinWrite {w : WriteReq} (s : State) (h : writeTo (fun c => (twinOf c).isSome) w = true) :
    exec (.guardTwinWrite w) s = .next (s.write w {}) :=
  congrArg Host.Outcome.next (if_pos h)

theorem exec_unmappedAccess_write (s : State) (m : Master) {a : BitVec 24} (l : List (Word × BitVec 4)) (hr : regionOf a.toNat = .unmapped) :
    exec (.unmappedAccess (.write ⟨m, .bar0 a, l⟩)) s = .next (s.write ⟨m, .bar0 a, l⟩ {}) :=
  congrArg Host.Outcome.next (if_pos hr)

theorem exec_guardTimeout (s : State) {b : BitVec 8} {m : Master} {p t0 : Nat} {v : Word} {held : List WriteReq}
    (hg : s.guard b.toNat = { st := .armed m p v t0, held := held }) :
    exec (.guardTimeout b) s = .next ((s.until (t0 + 1024 * cyc)).guardExpire b.toNat) := by
  show execGuardTimeout b s = _
  simp only [execGuardTimeout, hg]

/-- A full write of one dword to an unguarded register in IDLE. -/
theorem State.write_unguarded (s : State) (m : Master) (a : BitVec 24) (v : Word) (hw : SameCycle) (ha : s.answers m = true)
    (hr : regionOf (a.toNat / 4 * 4) = .regs) (h1 : isGuarded (canon (a.toNat / 4 * 4)) = false) (h2 : twinOf (canon (a.toNat / 4 * 4)) = none)
    (hg : s.guard (a.toNat / 4 * 4 / 0x10000) = {}) :
    s.write ⟨m, .bar0 a, [(v, 0xF#4)]⟩ hw = (s.writeReg m (a.toNat / 4 * 4) v hw).releaseHeld (a.toNat / 4 * 4 / 0x10000) := by
  rw [State.write_regs_one s m a _ hw ha hr, State.writeWindow_single s m _ v hw h1 h2 hg]

/-- CFG_LOCK is no twin: twins lie from offset 0x200 of a page on. -/
theorem twinOf_of_lock {c : Nat} (h : c % 0x10000 = 0x24) : twinOf c = none := by
  unfold twinOf
  rw [if_neg]
  rintro ⟨h1, -⟩
  omega

/-- Settles O1: a write is judged by its window, and the window by what its sequencer stands at. -/
theorem writesTakePlace : Obligations.WritesTakePlace := by
  unfold Obligations.WritesTakePlace
  refine ⟨?unguarded, ?lock, ?backup, ?primary, ?twin, ?twinIdle, ?armedSame, ?armedOther, ?otherPage, ?enables, ?twoDwords, ?timeout,
    ?unmapped, ?unanswered⟩
  case unguarded =>
    intro s m a v hw ha hr h1 h2 hg
    rw [exec_registerWrite, State.write_unguarded s m a v hw ha hr h1 h2 hg]
  case lock =>
    intro s m a v ha h4 hr hc h1 hg
    rw [← div4_mul4 h4] at hr h1 hg
    rw [exec_lockWrite s (writeTo_bar0 (div4_mul4 h4 ▸ hr) (by simpa using hc)),
      State.write_unguarded s m a v {} ha hr h1 (twinOf_of_lock (by rwa [div4_mul4 h4])) hg, div4_mul4 h4]
  case backup =>
    intro s m a v ha h4 hr hc h1 h2 hg
    rw [← div4_mul4 h4] at hr h1 h2 hg
    rw [exec_backupWrite s (writeTo_bar0 (div4_mul4 h4 ▸ hr) hc), State.write_unguarded s m a v {} ha hr h1 h2 hg, div4_mul4 h4]
  case primary =>
    intro s m a v ha h4 hr hal h1 h2 hg
    rw [exec_guardedPrimaryWrite s (writeTo_bar0 hr h1), State.write_regs_aligned s m _ {} ha h4 hr,
      State.writeWindow_idle s _ {} hg, State.writeIdle_primary s m _ v {} h1 h2 hal, hg, State.releaseHeld_armed]
  case twin =>
    intro s m m0 a p t0 v w ha h4 hr hal hp hg ht hm
    have hc : BusWrite.commits ⟨m, a.toNat, [(w, 0xF#4)]⟩ p v = decide (w = ~~~ v) := by
      simp [BusWrite.commits, BusWrite.sizeOk_full, hal, hp, BusWrite.value]
    have hacc : accCode a.toNat = 5 := by simp [accCode, hp, hal]
    rw [exec_guardTwinWrite s (writeTo_bar0 hr (by simp [hp])), State.write_regs_aligned s m _ {} ha h4 hr,
      State.writeWindow_armed s _ {} hg ht, if_neg (by simpa using hm), hc, State.hwBoth_one, hacc]
    simp only [decide_eq_true_eq]
  case twinIdle =>
    intro s m a w p ha h4 hr hal hp hg
    rw [exec_guardTwinWrite s (writeTo_bar0 hr (by simp [hp])), State.write_regs_aligned s m _ {} ha h4 hr,
      State.writeWindow_idle s _ {} hg, State.writeIdle_twin s m _ p w {} hp hal]
  case armedSame =>
    intro s m m0 a p t0 v x hw ha h4 hr hg ht hm hc
    rw [exec_registerWrite, State.write_regs_aligned s m _ hw ha h4 hr,
      State.writeWindow_armed s _ hw hg ht, if_neg (by simpa using hm), hc, if_neg (by decide)]
  case armedOther =>
    intro s m m0 a p t0 v x hw ha h4 hr hg ht hm
    rw [exec_registerWrite, State.write_regs_aligned s m _ hw ha h4 hr,
      State.writeWindow_armed s _ hw hg ht, if_pos hm, State.releaseHeld_armed, BitVec.ofNat_toNat, BitVec.setWidth_eq]
  case otherPage =>
    intro s m a v hw ha h4 hr hal h1 hg
    rw [exec_registerWrite, State.write_regs_aligned s m _ hw ha h4 hr, State.writeWindow_idle s _ hw hg,
      State.writeIdle_alias s m _ v hw h1 hal]
  case enables =>
    intro s m a x hw ha h4 hr hx hg
    rw [exec_registerWrite, State.write_regs_aligned s m _ hw ha h4 hr, State.writeWindow_idle s _ hw hg,
      State.writeIdle_sizeErr s _ hw (.inl (by simp [BusWrite.sizeOk, hx]))]
  case twoDwords =>
    intro s m a x y hw ha h4 hr h hg
    rw [exec_registerWrite, State.write_regs_two s m x y hw ha h4 hr, State.writeWindow_idle s _ hw hg,
      State.writeIdle_sizeErr s _ hw]
    rw [BusWrite.touches_two]
    simp only [BusWrite.sizeOk, List.all_cons, List.any_cons, List.all_nil, List.any_nil, List.length_cons, List.length_nil]
    grind
  case timeout =>
    intro s b m p t0 v held hg
    rw [exec_guardTimeout s hg, State.guardExpire_expired _ (by rw [State.guard_until]; exact hg) (by rw [State.until_now]; omega)]
  case unmapped =>
    intro s m a l ha h4 hr
    rw [exec_unmappedAccess_write s m l hr, State.write_unmapped s m l {} ha h4 hr]
  case unanswered =>
    intro s w a hw hb ha
    rw [exec_registerWrite, State.write_unanswered s w hw hb ha]

end Sys2Proof.Machine
end

section
/-! PROOFS. Set, clear and toggle writes (R12), and SYS_SCRATCH through its sixteen addresses (R11). -/

namespace Sys2Proof.Machine

/-- A field that is neither RW nor LOCK keeps its value where a write comes through another page than the normal one. -/
theorem fieldWrite_keeps (f : FieldSpec) (al : Nat) (v old ok : Word) (hrw : f.kind ≠ .rw) (hlk : f.kind ≠ .lk) (hf : f.lo + f.len ≤ 32)
    (hal : al ≠ 0) : fieldWrite false al v old ok {} f = old &&& f.mask := by
  unfold fieldWrite
  cases hk : f.kind with
  | rw => exact absurd hk hrw
  | lk => exact absurd hk hlk
  | w1c => simp [hal]
  | cnt => simpa [hal] using cntSum_zero old f hf
  | ws => exact congrArg (· &&& f.mask) BitVec.and_allOnes
  | ro | grd | res => rfl

/-! ### SYS_SCRATCH -/

/-- The sixteen addresses of SYS_SCRATCH: four pages, four copies in each. -/
def scratchAddr (k al : Fin 4) : Nat := 0x38 + 0x400 * k.val + 0x4000 * al.val

theorem toNat_scratchAddr (k al : Fin 4) : (BitVec.ofNat 24 (scratchAddr k al)).toNat = scratchAddr k al := by
  rw [BitVec.toNat_ofNat]
  unfold scratchAddr
  omega

theorem canon_scratchAddr (k al : Fin 4) : canon (scratchAddr k al) = 0x38 := by
  unfold canon scratchAddr
  omega

theorem aliasOf_scratchAddr (k al : Fin 4) : aliasOf (scratchAddr k al) = al.val := by
  unfold aliasOf scratchAddr
  omega

theorem regionOf_scratchAddr : ∀ k al : Fin 4, regionOf (scratchAddr k al) = .regs := by decide +kernel

theorem fieldsAt_scratch : fieldsAt 0x38 = [⟨.rw, 0, 32, false, 0⟩] := rfl

theorem State.diverted_scratch (s : State) (m : Master) (a : Nat) (v : Word) : s.diverted m a 0x38 v = none := rfl

theorem fieldsWrite_scratch (locked : Bool) (al : Nat) (v old ok : Word) (hw : SameCycle) :
    fieldsWrite [⟨.rw, 0, 32, false, 0⟩] locked al v old ok hw = aliasWord al old v := by
  have hm : FieldSpec.mask ⟨.rw, 0, 32, false, 0⟩ = BitVec.allOnes 32 := by decide
  simp only [fieldsWrite, fieldWrite, hm, List.foldl_cons, List.foldl_nil, Bool.and_false, Bool.false_eq_true, if_false, BitVec.and_allOnes,
    BitVec.zero_or]

/-- A write of SYS_SCRATCH, which no lock, no hold and no hardware touches, changes that register alone. -/
theorem State.writeReg_scratch (s : State) (m : Master) {a : Nat} (v : Word) (hc : canon a = 0x38) :
    s.writeReg m a v {} = s.setReg 0x38 (aliasWord (aliasOf a) (s.reg 0x38) v) := by
  have hw1c : w1cMask [⟨.rw, 0, 32, false, 0⟩] = 0#32 := rfl
  have hheld : isAuxHeld 0x38 = false := rfl
  have hplace (t : State) (w : Word) (hw : SameCycle) : t.placeReg 0x38 w hw = t.setReg 0x38 w := rfl
  have hraised (t : State) (w : Word) : t.hwRaised 0x38 w = t := rfl
  have hrefused (t : State) (b : Nat) : t.countRefused b 0 = t := by unfold State.countRefused; split <;> rfl
  have hcleared (t : State) : t.clearedBits 0x38 0#32 = t := by simp [State.clearedBits]
  have hwritten (t u : State) (al : Nat) (w : Word) : State.written t u 0x38 al w = u := rfl
  have hwork : workBlock 0x38 = false := rfl
  have hdesc : isDesc 0x38 = false := rfl
  have hnone : bitIndices 32 (0#32).toNat = [] := rfl
  unfold State.writeReg
  simp only [hc, State.diverted_scratch, fieldsAt_scratch, hw1c, hheld, BitVec.and_zero, BitVec.zero_and, ite_self, hnone, List.filter_nil,
    List.length_nil, List.foldl_nil, fieldsWrite_scratch, hplace, hraised, hrefused, hwork, hdesc, lockedHit, List.any_cons, List.any_nil,
    hcleared, hwritten]
  simp

theorem State.releaseHeld_idle (s : State) {k : Nat} (hg : s.guard k = {}) : s.releaseHeld k = s.setGuard k {} := by
  unfold State.releaseHeld
  simp only [hg, List.foldl_nil]

/-- Settles O36: a field's case of `fieldWrite` by its access code, and SYS_SCRATCH by the one write that reaches it. -/
theorem aliasWritesActOnRwFields : Obligations.AliasWritesActOnRwFields := by
  refine ⟨fun f v old ok hk => ?_, fun f al v old ok hrw hlk hf h1 h3 => fieldWrite_keeps f al v old ok hrw hlk hf (by omega),
    fun s m v k al hg ha => ?_⟩
  · simp [fieldWrite, hk, aliasWord]
  · have haddr := toNat_scratchAddr k al
    have hcanon := canon_scratchAddr k al
    have hwin : scratchAddr k al / 0x10000 = 0 := by unfold scratchAddr; omega
    have halign : scratchAddr k al / 4 * 4 = scratchAddr k al := div4_mul4 (by unfold scratchAddr; omega)
    have hexec : exec (.registerWrite ⟨m, .bar0 (BitVec.ofNat 24 (scratchAddr k al)), [(v, 0xF#4)]⟩ {}) s =
        .next ((s.setReg 0x38 (aliasWord al.val (s.reg 0x38) v)).setGuard 0 {}) := by
      rw [exec_registerWrite, State.write_unguarded s m _ v {} ha (by rw [haddr, halign]; exact regionOf_scratchAddr k al)
        (by rw [haddr, halign, hcanon]; rfl) (by rw [haddr, halign, hcanon]; rfl) (by rw [haddr, halign, hwin]; exact hg)]
      rw [haddr, halign, hwin, State.writeReg_scratch s m v hcanon, aliasOf_scratchAddr, State.releaseHeld_idle _ (by exact hg)]
    refine ⟨_, hexec, ?_, fun a h => State.reg_setReg_of_ne _ _ h, fun a => rfl⟩
    refine (State.reg_setReg_self _ _ _).trans ?_
    fin_cases al <;> rfl

end Sys2Proof.Machine
end

section
/-! PROOFS. The command port (R30, R32), supervisor restarts (R31, R360, R361, R363), the endpoint (R25, R28, R29, R386) and the delivery of
events (R336, R337, R340). -/

namespace Sys2Proof.Machine

/-! ### The command port -/

/-- The opcodes of R32. -/
def cmdOpcodes : List Nat := [0x00, 0x10, 0x11, 0x20, 0x21, 0x30, 0x31, 0x40, 0x50]

theorem cmdLimit_of_notMem {op : Nat} (h : op ∉ cmdOpcodes) : cmdLimit op = none := by
  unfold cmdLimit
  split
  case h_10 => rfl
  all_goals exact absurd (by decide) h

/-- The busy-time limits of R32. -/
def cmdLimits : List (Nat × Nat) :=
  [(0x00, us), (0x10, 600 * ms), (0x11, 5 * ms), (0x20, 500 * ms), (0x21, 1500 * ms), (0x30, 100 * ms), (0x31, 1000 * ms), (0x40, 3000 * ms),
    (0x50, 250 * ms)]

theorem cmdLimit_of_mem {op d : Nat} (h : (op, d) ∈ cmdLimits) : cmdLimit op = some d := by
  have hall : ∀ x ∈ cmdLimits, cmdLimit x.1 = some x.2 := by decide
  exact hall _ h

theorem exec_cmdNop {s : State} {r : CmdRun} (hr : s.cmd = some r) (h0 : r.opcode = 0) (ho : r.outcome = none) :
    exec .cmdNop s = .next ((s.until (r.start + cyc)).cmdEnd 0 [] 0) := by
  show execCmdNop s = _
  simp [execCmdNop, hr, h0, ho, portIdle]

theorem exec_cmdBadOpcode {s : State} {r : CmdRun} (hr : s.cmd = some r) (h : cmdLimit r.opcode = none) :
    exec .cmdBadOpcode s = .next (s.cmdEnd 1 [] 0) := by
  show execCmdBadOpcode s = _
  simp [execCmdBadOpcode, hr, h, portIdle]

theorem exec_cmdComplete {s : State} {r : CmdRun} {code : Nat} {res : List Word} (hr : s.cmd = some r) (ho : r.outcome = some (code, res)) :
    exec .cmdComplete s = .next (s.cmdEnd code res 0) := by
  show execCmdComplete s = _
  simp [execCmdComplete, hr, ho, portIdle]

theorem exec_cmdTimeout {s : State} {r : CmdRun} {d : Nat} (hr : s.cmd = some r) (ho : r.outcome = none) (hd : cmdLimit r.opcode = some d) :
    exec .cmdTimeout s = .next ((((s.until (r.start + d)).cmdStop r.opcode).cmdEnd 3
      (((s.until (r.start + d)).cmdStop r.opcode).stopRes4 r.opcode) 0).raise Base.SYS 3) := by
  show execCmdTimeout s = _
  simp [execCmdTimeout, hr, ho, hd, portIdle]

/-! ### Supervisor restarts -/

/-- An unrequested restart with the port idle ends a trial. -/
theorem State.restartNow_idle {s : State} (h : s.cmd = none) :
    s.restartNow = (if s.on F.UPD_STAT_TRIAL then s.trialFail.raise Base.UPD 3 else s).restartStart false := by
  simp only [State.restartNow, h]

/-- An unrequested restart stops the running operation first. -/
theorem State.restartNow_running {s t : State} {r : CmdRun} (h : s.cmd = some r)
    (ht : t = (s.cmdStop r.opcode).cmdEnd 4 ((s.cmdStop r.opcode).stopRes4 r.opcode) 2) :
    s.restartNow = (if t.on F.UPD_STAT_TRIAL then t.trialFail.raise Base.UPD 3 else t).restartStart false := by
  subst ht
  simp only [State.restartNow, h, portUnavail]

theorem exec_svrRestartBegin {s t : State} (hp : s.restartPend = true) (h0 : s.portState = 0)
    (ht : t = if s.portEnding = true then s.until ((s.cycleNo + 1) * cyc) else s) :
    exec .svrRestartBegin s =
      if t.restartWhy = 0 then .next (({ t.put F.SYS_RESTART 0 with restartPend := false }.cnt F.UPD_RESTARTS).restartStart true)
      else .next (t.restartDiscard t.restartWhy) := by
  subst ht
  show execSvrRestartBegin s = _
  simp [execSvrRestartBegin, hp, h0, portIdle]

theorem exec_svrWatchdogRestart (s : State) : exec .svrWatchdogRestart s = .next s.restartNow := rfl

theorem exec_trialTimeout {s : State} (h1 : s.on F.UPD_STAT_TRIAL = true) (h2 : s.on F.SYS_STAT_SVR_UP = true) :
    exec .trialTimeout s = .next (s.until (s.upd.endAt + max (s.get F.UPD_CFG) 1 * sec)).restartNow := by
  show execTrialTimeout s = _
  simp [execTrialTimeout, h1, h2, State.confirmS]

theorem exec_svrRestartEnd {s u : State} (x : TreeCheck) (hs : s.starting = true) (hu : u = s.secStart x) :
    exec (.svrRestartEnd x) s = .next (if u.noBoot then s
      else
        let v := (u.boot.put F.SYS_STAT_SVR_UP 1).startOver.annRestart
        let w := (v.withUpd { v.upd with unstarted := false }).enforce
        if u.upd.unstarted then (w.boardTables.domWritten .a false).domWritten .b false else w) := by
  subst hu
  show execSvrRestartEnd x s = _
  unfold execSvrRestartEnd
  rw [if_neg (by simp [hs])]
  dsimp only
  split <;> rfl

theorem exec_bootNoBank {s u : State} (x : TreeCheck) (hs : s.starting = true) (hu : u = s.secStart x) (hn : u.noBoot = true) :
    exec (.bootNoBank x) s = .next (
      let t := ((((u.bankRead u.bootFirst).verifyCount (u.bankDetail u.bootFirst)).bankRead (1 - u.bootFirst)).verifyCount
        (u.bankDetail (1 - u.bootFirst))).startOver
      t.withUpd { t.upd with noBank := true }) := by
  subst hu
  show execBootNoBank x s = _
  unfold execBootNoBank
  rw [if_neg (by simp [hs])]
  dsimp only
  rw [if_pos hn]

/-- Settles O3: each command of the port and of the restarts by its own equation. -/
theorem commandPortAndRestartsAct : Obligations.CommandPortAndRestartsAct := by
  unfold Obligations.CommandPortAndRestartsAct
  refine ⟨fun s r hr h0 ho => exec_cmdNop hr h0 ho, fun s r hr h => exec_cmdBadOpcode hr (cmdLimit_of_notMem h),
    fun s r code res hr ho => exec_cmdComplete hr ho, fun s r d hr ho hd => exec_cmdTimeout hr ho (cmdLimit_of_mem hd),
    ?request, ?begins, ?discarded, ?watchdogIdle, ?watchdogRunning, ?trial, ?restartEnd, ?noBank⟩
  case request =>
    intro s t ht
    subst ht
    show Host.Outcome.next (State.restartAsk s) = _
    simp only [State.restartAsk, portBusy, Bool.or_eq_true, decide_eq_true_eq, or_assoc]
  case begins =>
    intro s t hp h0 ht hw
    rw [exec_svrRestartBegin hp h0 ht, if_pos hw]
  case discarded =>
    intro s t hp h0 ht hw
    rw [exec_svrRestartBegin hp h0 ht, if_neg hw]
  case watchdogIdle =>
    intro s hc
    rw [exec_svrWatchdogRestart, State.restartNow_idle hc]
  case watchdogRunning =>
    intro s t r hr ht
    rw [exec_svrWatchdogRestart, State.restartNow_running hr ht]
  case trial =>
    intro s h1 h2 hc
    have h1' (n : Nat) : (s.until n).on F.UPD_STAT_TRIAL = true := by rw [State.on, State.get_until]; exact h1
    rw [exec_trialTimeout h1 h2, State.restartNow_idle (by rwa [State.until_cmd]), if_pos (h1' _)]
  case restartEnd =>
    intro s u v w x hs hu hv hw
    subst hv hw
    exact exec_svrRestartEnd x hs hu
  case noBank =>
    intro s t u x hs hu hn ht
    subst ht
    exact exec_bootNoBank x hs hu hn

/-! ### The endpoint and the delivery of events -/

theorem State.pcieReset_counted {s u : State} (hu : u = if s.on F.HOST_LINK_LINK_UP then s.cnt F.HOST_LINK_DOWN_COUNT else s) :
    s.pcieReset true = u.endpointReset.raise Base.HOST 0 := by
  subst hu
  simp only [State.pcieReset, Bool.true_and]

theorem State.pcieReset_uncounted (s : State) : s.pcieReset false = s.endpointReset.raise Base.HOST 0 := by
  simp only [State.pcieReset, Bool.false_and, Bool.false_eq_true, if_false]

theorem linkWidth_ne_zero {w : Nat} (h : w ∈ [1, 2, 4]) : linkWidth w ≠ 0 := by
  simp only [List.mem_cons, List.not_mem_nil, or_false] at h
  rw [linkWidth, if_pos h]
  omega

/-- A vector whose mask goes sends its pending message, unless the function is masked. -/
theorem State.msixFlush_pending {s : State} {v : Nat} (h1 : s.bitOf (F.HOST_MSIX_PBA (v / 32)) (v % 32) = true)
    (h2 : s.host.funcMask = false) (h3 : s.on (F.HOST_MSIX_VCTRL v) = false) :
    s.msixFlush v = (s.clrBitOf (F.HOST_MSIX_PBA (v / 32)) (v % 32)).msixDue v := by
  simp [State.msixFlush, h1, h2, h3]

theorem State.on_put_zero (s : State) {f : Fld} (h : f.lo + f.len ≤ 32) : (s.put f 0).on f = false := by
  simp [State.on, State.get_put_self _ _ _ h]

/-- Settles O4: each command of the endpoint and of the events by its own definition, where the clause's conditions choose its branch. -/
theorem endpointAndEventsAct : Obligations.EndpointAndEventsAct := by
  unfold Obligations.EndpointAndEventsAct
  refine ⟨?hot, ?linkDown, ?fundamental, ?functionLevel, ?linkUp, fun s => rfl, fun s => rfl, ?ready, ?unmaskVector, ?unmaskFunction, ?delivery,
    fun s v => rfl, ?holdoff, fun s v => rfl⟩
  case hot =>
    intro s u t hu ht
    rw [ht, ← State.pcieReset_counted hu]
    rfl
  case linkDown =>
    intro s u t hu ht
    rw [ht, ← State.pcieReset_counted hu]
    rfl
  case fundamental =>
    intro s u t hu ht
    rw [ht, ← State.pcieReset_counted hu]
    rfl
  case functionLevel =>
    intro s
    rw [← State.pcieReset_uncounted]
    rfl
  case linkUp =>
    intro s sp w sris mps h1 h3 hw hr
    show execPcieLinkUp sp w sris mps s = _
    rw [execPcieLinkUp, if_pos ⟨h1, h3, linkWidth_ne_zero hw, by simp [hr]⟩]
  case ready =>
    intro s t hc hr ht
    subst ht
    show execPcieConfigReady s = _
    rw [execPcieConfigReady, if_neg (by simp [hc, hr])]
  case unmaskVector =>
    intro s v hp hf
    have hv : v.val / 32 = 0 := by omega
    have hpba : (s.put (F.HOST_MSIX_VCTRL v.val) 0).bitOf (F.HOST_MSIX_PBA (v.val / 32)) (v.val % 32) = true := by
      rw [State.bitOf, State.get_put_of_reg_ne _ _ (by simp only [F.HOST_MSIX_PBA, F.HOST_MSIX_VCTRL, hv]; omega)]
      exact hp
    show Host.Outcome.next (State.msixFlush _ _) = _
    rw [b2n, if_neg (by decide), State.msixFlush_pending hpba hf (State.on_put_zero s (by simp [F.HOST_MSIX_VCTRL]))]
  case unmaskFunction =>
    intro s m
    rfl
  case delivery =>
    intro s o rest hp
    show execEventDelivery s = _
    simp only [execEventDelivery, hp]
  case holdoff =>
    intro s t v hd ht ha
    subst ht
    show execMsixHoldoffExpiry v s = _
    rw [execMsixHoldoffExpiry, if_pos hd]
    exact congrArg Host.Outcome.next (if_pos ha)

end Sys2Proof.Machine
end

section
/-! PROOFS. The yard: its check, START and STOP (R48, R49, R404), its states at boundaries (R48, R198), the boundary (R46, R163) and the reload
edge (R137). -/

namespace Sys2Proof.Machine

/-! ### The yard state through other updates -/

theorem State.running_of_yardState {s t : State} (h : t.yardState = s.yardState) : t.running = s.running := by
  rw [State.running, State.running, h]

/-- A field outside YARD_STAT leaves the yard state alone. -/
theorem State.yardState_put (s : State) {f : Fld} (v : Nat) (h : F.YARD_STAT_STATE.reg ≠ f.reg) : (s.put f v).yardState = s.yardState :=
  State.get_put_of_reg_ne s v h

/-- An occurrence changes EVT_RAW of its block, which is not YARD_STAT. -/
theorem State.yardState_raise (s : State) {b : Nat} (k : Nat) (h : F.YARD_STAT_STATE.reg ≠ b + 0x10) : (s.raise b k).yardState = s.yardState :=
  State.get_raise_of_ne s k h

/-! ### The check (R48, R49, R404) -/

/-- A check that found nothing is reported with code 0 and no fault bit. -/
theorem State.reportCheck_zero (s : State) (name : Nat) :
    s.reportCheck 0 name = (s.complete A.YARD_CHECK name).raise Base.YARD 1 := by
  simp only [State.reportCheck, Nat.mul_zero, Nat.zero_add, if_true]

/-- A check that found something is reported with its code and CHECK_FAIL. -/
theorem State.reportCheck_of_ne_zero (s : State) {code : Nat} (name : Nat) (h : code ≠ 0) :
    s.reportCheck code name = ((s.complete A.YARD_CHECK (256 * code + name)).raise Base.YARD 1).put F.YARD_FAULT_STAT_CHECK_FAIL 1 :=
  if_neg h

/-- A report leaves the yard state alone. -/
theorem State.yardState_reportCheck (s : State) (code name : Nat) : (s.reportCheck code name).yardState = s.yardState := by
  have hraised (v : Nat) : ((s.complete A.YARD_CHECK v).raise Base.YARD 1).yardState = s.yardState :=
    State.yardState_raise (s.complete A.YARD_CHECK v) 1 (by decide)
  by_cases h : code = 0
  · rw [h, State.reportCheck_zero, hraised]
  · rw [State.reportCheck_of_ne_zero s name h, State.yardState_put _ 1 (by decide), hraised]

/-- The running check has ended and CHECK is clear; the yard state is not judged yet. -/
def State.checkEnded (s : State) : State :=
  (({ s with yard := { s.yard with checkRun := false, checkVoid := false } } : State).reportCheck s.yardCheck.1 s.yardCheck.2).put F.YARD_CTRL_CHECK 0

theorem State.running_checkEnded (s : State) : s.checkEnded.running = s.running :=
  State.running_of_yardState ((State.yardState_put _ 0 (by decide)).trans (State.yardState_reportCheck _ _ _))

/-- The yard falls to CONFIG, where a pending START is refused. -/
def State.fallToConfig (s : State) : State :=
  if s.yard.startPend.isSome then (s.put F.YARD_STAT_STATE 0).refuseStart else s.put F.YARD_STAT_STATE 0

theorem exec_yardCheckComplete {s : State} (hr : s.yard.checkRun = true) :
    exec .yardCheckComplete s = .next (
      if s.running then s.checkEnded
      else if s.yardCheck.1 = 0 && !s.yard.checkVoid then s.checkEnded.put F.YARD_STAT_STATE 1
      else s.checkEnded.fallToConfig) := by
  show execYardCheckComplete s = _
  rw [← State.running_checkEnded, execYardCheckComplete, if_pos hr]
  dsimp only
  rw [← State.checkEnded]
  by_cases hrun : s.checkEnded.running = true
  · rw [if_pos hrun, if_pos hrun]
  · rw [if_neg hrun, if_neg hrun]
    by_cases hok : (s.yardCheck.1 = 0 && !s.yard.checkVoid) = true
    · rw [if_pos hok, if_pos hok]
      rfl
    · rw [if_neg hok, if_neg hok]
      rfl

/-! ### START and STOP (R48) -/

theorem State.startWrite_checked {s : State} (h : s.yardState = 1) :
    s.startWrite = { s.put F.YARD_CTRL_START 1 with yard := { s.yard with startPend := some (s.yard.startPend.getD s.yard.bnd) } } :=
  if_pos h

theorem State.startWrite_refused {s : State} (h : s.yardState ≠ 1) : s.startWrite = s.refuseStart.noteDrop := if_neg h

theorem State.stopWrite_run {s : State} (h : s.yardState = 2) :
    s.stopWrite = { s.put F.YARD_CTRL_STOP 1 with yard := { s.yard with stopPend := some (s.yard.stopPend.getD s.yard.bnd) } } :=
  if_pos h

theorem State.stopWrite_withdraws {s : State} (h : s.yardState = 1) (hp : s.yard.startPend.isSome = true) :
    s.stopWrite = { (s.put F.YARD_CTRL_START 0).put F.YARD_CTRL_STOP 0 with yard := { s.yard with startPend := none } } := by
  rw [State.stopWrite, if_neg (by simp [h]), if_pos (by simp [h, hp])]

theorem State.stopWrite_clears {s : State} (h : s.yardState ≠ 2) (hp : s.yardState ≠ 1 ∨ s.yard.startPend.isSome = false) :
    s.stopWrite = s.put F.YARD_CTRL_STOP 0 := by
  have hno : ¬ (s.yardState = yardChecked && s.yard.startPend.isSome) = true := by
    rcases hp with h1 | h1 <;> simp [h1]
  rw [State.stopWrite, if_neg h, if_neg hno]

/-! ### The yard states at boundaries (R48) -/

theorem exec_yardEnterRun {s : State} (h : s.yardState = 1) (hd : s.dueAt s.yard.startPend = true) :
    exec .yardEnterRun s = .next s.enterRun :=
  congrArg Host.Outcome.next (if_pos (by simp [h, hd]))

theorem exec_yardEnterStopping {s : State} (h : s.yardState = 2) (hd : s.dueAt s.yard.stopPend = true) :
    exec .yardEnterStopping s = .next s.enterStopping :=
  congrArg Host.Outcome.next (if_pos (by simp [h, hd]))

theorem exec_yardStopComplete {s : State} (h : s.yardState = 3) (hd : s.stopDone = true) :
    exec .yardStopComplete s = .next s.enterConfig :=
  congrArg Host.Outcome.next (if_pos (by simp [h, hd]))

/-! ### The boundary and the reload edge (R46, R137) -/

/-- With a period set and the clock running, the next boundary is the first multiple of the period at or after the end of the one in progress. -/
theorem State.nextBoundary_of_period {s : State} {p : Nat} (hp : p = s.halfUs * 2500) (h0 : p ≠ 0) (hs : s.time.stopped = false) :
    s.nextBoundary = some ((s.yard.tk + s.perTicks + p - 1) / p * p) := by
  subst hp
  exact if_neg (by simp only [h0, hs, decide_false, Bool.or_false, Bool.false_eq_true, not_false_eq_true])

theorem exec_periodBoundary {s : State} {b : Nat} (hb : s.nextBoundary = some b) :
    exec .periodBoundary s = .next (
      let u := s.endRuns.padBoundary
      let v : State := { u with cme := { u.cme with missed := if u.running then u.missesNow else none } }
      (v.enterPeriod b).periodStart v.poutParts v.periodK) := by
  show execPeriodBoundary s = _
  rw [execPeriodBoundary, hb]

/-- The reload edge of a period comes once, and only while the clock runs. -/
theorem exec_reloadEdge {s : State} (he : s.edge.edge = false) (hs : s.time.stopped = false) :
    exec .reloadEdge s = .next (
      if s.running then (s.cutoffNow.untilCtb (s.cutoffNow.yard.tk + s.cutoffNow.get F.EDGE_RELOAD)).commitEdge.reloadRun
      else
        let t := (s.untilCtb (s.yard.tk + s.get F.EDGE_RELOAD)).linkEdge.pairReload
        ({ t with edge := { t.edge with edge := true } } : State).publishBudget) := by
  show execReloadEdge s = _
  rw [execReloadEdge, if_neg (by simp [he, hs])]
  dsimp only
  split <;> rfl

/-- Settles O5: each command of the yard by its own equation, where the clause's conditions choose its branch. -/
theorem yardCommandsAct : Obligations.YardCommandsAct := by
  unfold Obligations.YardCommandsAct
  refine ⟨?check, ?checkRunning, ?passed, ?failed, ?void, ?reportOnly, ?start, ?startRefused, ?stop, ?stopWithdraws, ?stopClears,
    fun s h hd => exec_yardEnterRun h hd, ?stopping, fun s h hd => exec_yardStopComplete h hd, ?boundary, ?reloadRun, ?reloadIdle⟩
  case check =>
    intro s hr
    exact congrArg Host.Outcome.next (if_neg (by simp [hr]))
  case checkRunning =>
    intro s hr
    exact congrArg Host.Outcome.next (if_pos hr)
  case passed =>
    intro s t hc hr h0 hv ht
    rw [ht, exec_yardCheckComplete hc, if_neg (by simp [hr]), if_pos (by simp [h0, hv]), State.checkEnded, h0, State.reportCheck_zero]
  case failed =>
    intro s t hc hr h0 ht
    rw [ht, exec_yardCheckComplete hc, if_neg (by simp [hr]), if_neg (by simp [h0]), State.checkEnded, State.fallToConfig,
      State.reportCheck_of_ne_zero _ _ h0]
  case void =>
    intro s t hc hr h0 hv ht
    rw [ht, exec_yardCheckComplete hc, if_neg (by simp [hr]), if_neg (by simp [hv]), State.checkEnded, h0, State.fallToConfig,
      State.reportCheck_zero]
  case reportOnly =>
    intro s hc hr
    rw [exec_yardCheckComplete hc, if_pos hr, State.checkEnded]
  case start =>
    intro s h
    exact congrArg Host.Outcome.next (State.startWrite_checked h)
  case startRefused =>
    intro s h
    exact congrArg Host.Outcome.next (State.startWrite_refused h)
  case stop =>
    intro s h
    exact congrArg Host.Outcome.next (State.stopWrite_run h)
  case stopWithdraws =>
    intro s h hp
    exact congrArg Host.Outcome.next (State.stopWrite_withdraws h hp)
  case stopClears =>
    intro s h hp
    exact congrArg Host.Outcome.next (State.stopWrite_clears h hp)
  case stopping =>
    intro s t h hd ht
    rw [ht, exec_yardEnterStopping h hd, State.enterStopping]
    rfl
  case boundary =>
    intro s u p hp h0 hs hu
    rw [hu, exec_periodBoundary (State.nextBoundary_of_period hp h0 hs)]
    rfl
  case reloadRun =>
    intro s u he hs hr hu
    rw [hu, exec_reloadEdge he hs, if_pos hr]
  case reloadIdle =>
    intro s t he hs hr ht
    rw [ht, exec_reloadEdge he hs, if_neg (by simp [hr])]

end Sys2Proof.Machine
end

section
/-! PROOFS. The CRC block of a frame (R62). -/

namespace Sys2Proof.Machine

/-- A received frame is judged by its last block: the CRC over the earlier blocks and the upper half stands in the lower half. -/
theorem frameOk_append_singleton (body : List (BitVec 64)) (last : BitVec 64) :
    frameOk (body ++ [last]) = true ↔ last.toNat % 2 ^ 32 = frameCrc body (last.toNat / 2 ^ 32) := by
  rw [frameOk, List.reverse_append, List.reverse_singleton, List.singleton_append]
  dsimp only
  rw [List.reverse_reverse, decide_eq_true_eq, eq_comm]

theorem frameCrc_lt (body : List (BitVec 64)) (hi : Nat) : frameCrc body hi < 2 ^ 32 := crc32c_lt _

/-- A CRC and an upper half of 32 bits each fit a block side by side. -/
theorem toNat_crcBlock (body : List (BitVec 64)) {hi : Nat} (h : hi < 2 ^ 32) :
    (BitVec.ofNat 64 (frameCrc body hi + 2 ^ 32 * hi)).toNat = frameCrc body hi + 2 ^ 32 * hi := by
  have hcrc := frameCrc_lt body hi
  rw [BitVec.toNat_ofNat]
  omega

/-- Settles O41: the two halves of the CRC block are read back from the block `sealFrame` builds. -/
theorem framesCarryTheirCrc : Obligations.FramesCarryTheirCrc := by
  refine ⟨fun body hi h => ?_, frameOk_append_singleton⟩
  have hcrc := frameCrc_lt (body.map (BitVec.ofNat 64)) hi
  rw [sealFrame, frameOk_append_singleton, toNat_crcBlock _ h, Nat.add_mul_mod_self_left, Nat.mod_eq_of_lt hcrc,
    Nat.add_mul_div_left _ _ (by decide), Nat.div_eq_of_lt hcrc, Nat.zero_add]

end Sys2Proof.Machine
end

section
/-! PROOFS. Alignment markers (R99–R101), echoes (R72, R108, R114) and the blocks a lane receives (R57–R59, R111). -/

namespace Sys2Proof.Machine

/-! ### A lane's hidden state through updates -/

@[simp] theorem State.lane_setLane_self (s : State) (n : Nat) (x : LaneX) : (s.setLane n x).lane n = x := KMap.get_set_self _ _ _ _

@[simp] theorem State.setLane_setLane (s : State) (n : Nat) (x y : LaneX) : (s.setLane n x).setLane n y = s.setLane n y :=
  congrArg (fun m => ({ s with lanes := m } : State)) (KMap.set_set _ _ _ _ _)

@[simp] theorem State.laneState_setLane (s : State) (n k : Nat) (x : LaneX) : (s.setLane n x).laneState k = s.laneState k := rfl

/-! ### Markers -/

theorem exec_alignmentMarker {s : State} {n : Fin 50} (h : s.on (F.LANE_STAT_BLOCK_LOCK n.val) = true) (p : BitVec 64) (g : Nat) :
    exec (.alignmentMarker n p g) s = .next (s.marker n.val p g) :=
  congrArg Host.Outcome.next (if_pos h)

/-- More than two wrong bits in the pattern: the block is no marker. -/
theorem State.marker_badPattern (s : State) (n : Nat) {p : BitVec 64} (g : Nat) (h : 2 < popcount 16 (bits p.toNat 63 48 ^^^ 0x4B2D)) :
    s.marker n p g = ((s.cnt (F.LANE_MARKER_ERR n)).cnt (F.LANE_FRAMING n)).put (F.LANE_STAT_MARKER_LOCK n) 0 := by
  rw [State.marker, if_pos h, State.markerErr]

/-- The first marker since block lock is kept and judged against nothing. -/
theorem State.marker_first {s : State} {n : Nat} {p : BitVec 64} (g : Nat) (h : popcount 16 (bits p.toNat 63 48 ^^^ 0x4B2D) ≤ 2)
    (hm : (s.lane n).marker = none) :
    s.marker n p g = s.setLane n { s.lane n with marker := some (bits p.toNat 39 16) } := by
  rw [State.marker, if_neg (by omega)]
  simp only [hm]

/-- A later marker is judged by its place and by its count, and gives or takes MARKER_LOCK by its place. -/
theorem State.marker_later {s : State} {n : Nat} {p : BitVec 64} {c : Nat} (g : Nat)
    (h : popcount 16 (bits p.toNat 63 48 ^^^ 0x4B2D) ≤ 2) (hm : (s.lane n).marker = some c) :
    s.marker n p g =
      let t := s.setLane n { s.lane n with marker := some (bits p.toNat 39 16) }
      (if g ≠ 4096 ∨ bits p.toNat 39 16 ≠ (c + 1) % 2 ^ 24 then t.cnt (F.LANE_MARKER_ERR n) else t).put
        (F.LANE_STAT_MARKER_LOCK n) (if g = 4096 then 1 else 0) := by
  rw [State.marker, if_neg (by omega)]
  simp only [hm, State.markerErr, b2n, Bool.or_eq_true, decide_eq_true_eq, Bool.not_eq_true', decide_eq_false_iff_not, not_not]

theorem exec_markerMissing {s : State} {n : Fin 50} (h : s.on (F.LANE_STAT_BLOCK_LOCK n.val) = true)
    (hm : (s.lane n.val).marker.isSome = true) :
    exec (.markerMissing n) s = .next ((s.cnt (F.LANE_MARKER_ERR n.val)).put (F.LANE_STAT_MARKER_LOCK n.val) 0) :=
  congrArg Host.Outcome.next (if_pos (by simp [h, hm]))

theorem exec_markerIntervalEnd {s : State} {n : Fin 50} (h : s.laneState n.val ≠ 0) :
    exec (.markerIntervalEnd n) s = .next ((s.markersDue n.val).intervalEnd n.val) :=
  congrArg Host.Outcome.next (if_neg h)

/-! ### Echoes -/

/-- The ECHO of lane `n` leaves now. -/
def State.sendEcho (s : State) (n : Nat) : State :=
  let q := (s.lane n).echoSeq
  let fin := s.txStart10 n 0 + s.blockB n
  let u := s.setLane n { s.lane n with
    echoAt := s.now, echoSeq := (q + 1) % 256, echoOut := (s.lane n).echoOut ++ [(q, fin / 10)], txFree10 := fin }
  u.emit (.block n (echoBlock (u.dlyLast n) q))

/-- In DELAY and UP, and not halted, the timer runs to the echo's instant, where the echo leaves unless it yields. -/
theorem exec_echoTimer {s : State} {n : Fin 50} (h : s.laneState n.val = 3 ∨ s.laneState n.val = 4) (hh : s.laneHalted n.val = false) :
    exec (.echoTimer n) s = .next (
      let t := s.until (s.echoDue n.val)
      if t.echoYields n.val then t else t.sendEcho n.val) := by
  show execEchoTimer n s = _
  rw [execEchoTimer]
  dsimp only
  rw [if_pos (by simpa [hh] using h), apply_ite Host.Outcome.next]
  rfl

/-- An answer in time is taken from the list and used. -/
theorem State.echoRsp_inTime {s : State} {n : Nat} {p : BitVec 64} {e : Nat × Nat} (rt : Nat)
    (hf : (s.lane n).echoOut.find? (fun e => e.1 = bits p.toNat 39 32) = some e) (ht : s.now ≤ e.2 + s.echoLimit n)
    (h : s.laneState n = 3 ∨ s.laneState n = 4) :
    s.echoRsp n p rt =
      (s.setLane n { s.lane n with echoOut := (s.lane n).echoOut.filter (fun q => q.1 ≠ bits p.toNat 39 32) }).echoOk n rt
        (bits p.toNat 31 8) := by
  simp only [State.echoRsp, hf]
  exact if_pos (by simpa [ht] using h)

theorem exec_echoRspReceived (s : State) (n : Fin 50) (p : BitVec 64) (rt : Nat) :
    exec (.echoRspReceived n p rt) s = .next (
      let t := (s.setLane n.val { s.lane n.val with rx := [] }).echoRsp n.val p rt
      if s.laneState n.val = 3 ∧ t.laneState n.val = 4 ∧ n.val < 48 then t.enumLane n.val else t) := by
  show execEchoRspReceived n p rt s = _
  simp only [execEchoRspReceived, Bool.and_eq_true, decide_eq_true_eq, and_assoc]

/-- The oldest unanswered echo is lost at its limit; the eighth lost in a row in DELAY fails the lane. -/
theorem exec_echoLost {s : State} {n : Fin 50} {e : Nat × Nat} {rest : List (Nat × Nat)} (h : (s.lane n.val).echoOut = e :: rest) :
    exec (.echoLost n) s = .next (
      let t := s.until (e.2 + s.echoLimit n.val)
      let u := (t.setLane n.val { t.lane n.val with echoOut := rest, lost := (t.lane n.val).lost + 1 }).cnt (F.LANE_ECHO_LOST n.val)
      if u.laneState n.val = 3 ∧ 8 ≤ (u.lane n.val).lost then u.laneFail n.val else u) := by
  show execEchoLost n s = _
  simp only [execEchoLost, h, Bool.and_eq_true, decide_eq_true_eq]

theorem exec_echoReceived {s : State} {p : Fin 2} (h : s.on (F.LANE_STAT_BLOCK_LOCK (48 + p.val)) = true)
    (hs : s.laneState (48 + p.val) ≠ 7) (pl : BitVec 64) (turn : BitVec 24) :
    exec (.echoReceived p pl turn) s = .next ((s.setLane (48 + p.val) { s.lane (48 + p.val) with
      rx := [], txFree10 := s.txStart10 (48 + p.val) 0 + s.blockB (48 + p.val) }).emit (.block (48 + p.val)
        (echoRspBlock turn.toNat (bits pl.toNat 39 32)))) :=
  congrArg Host.Outcome.next (if_pos (by simp [h, hs]))

/-! ### Blocks -/

theorem exec_blockReceived_parked {s : State} {n : Fin 50} (h : s.laneState n.val = 0) (hdr : BitVec 2) (pl : BitVec 64) :
    exec (.blockReceived n hdr pl) s = .next s :=
  congrArg Host.Outcome.next (if_pos h)

theorem exec_blockReceived_control {s : State} {n : Fin 50} (h : s.laneState n.val ≠ 0) (pl : BitVec 64) :
    exec (.blockReceived n 2#2 pl) s = .next (s.rxControl n.val pl) :=
  congrArg Host.Outcome.next (if_neg h)

theorem exec_blockReceived_data {s : State} {n : Fin 50} (h : s.laneState n.val ≠ 0) (pl : BitVec 64) :
    exec (.blockReceived n 1#2 pl) s = .next (s.rxData n.val pl) :=
  congrArg Host.Outcome.next (if_neg h)

theorem exec_blockReceived_badHeader {s : State} {n : Fin 50} {hdr : BitVec 2} (h : s.laneState n.val ≠ 0) (hh : hdr = 0#2 ∨ hdr = 3#2)
    (pl : BitVec 64) :
    exec (.blockReceived n hdr pl) s =
      .next ((s.setLane n.val { s.lane n.val with invalid := (s.lane n.val).invalid + 1 }).cnt (F.LANE_SH_ERR n.val)) := by
  rcases hh with rfl | rfl <;> exact congrArg Host.Outcome.next (if_neg h)

/-- A block of the marker type stands between the blocks of a frame. -/
theorem State.rxControl_marker (s : State) (n : Nat) {c : BitVec 64} (h : c.toNat % 256 = 0x96) : s.rxControl n c = s := if_pos h

/-- Any other control block discards a partial frame, and begins one where data blocks follow it. -/
theorem State.rxControl_of_ne_marker (s : State) (n : Nat) {c : BitVec 64} (h : c.toNat % 256 ≠ 0x96) :
    s.rxControl n c =
      let t := s.setRx n (if dataBlocks n c.toNat = 0 then [] else [c])
      if c.toNat % 256 = 0x3C then t.cnt (F.LANE_IDLE_BITERR n) (popcount 56 (bits c.toNat 63 8))
      else if knownType n (c.toNat % 256) then t else t.cnt (F.LANE_FRAMING n) :=
  if_neg h

/-- No data block follows IDLE. -/
theorem dataBlocks_idle (n : Nat) {c : Nat} (h : c % 256 = 0x3C) : dataBlocks n c = 0 := by
  unfold dataBlocks
  rw [h]
  rfl

theorem State.rxData_outside {s : State} {n : Nat} (h : (s.lane n).rx = []) (d : BitVec 64) : s.rxData n d = s.cnt (F.LANE_FRAMING n) := by
  simp only [State.rxData, h]

theorem State.rxData_inside {s : State} {n : Nat} {c : BitVec 64} {l : List (BitVec 64)} (h : (s.lane n).rx = c :: l) (d : BitVec 64) :
    s.rxData n d = if l.length + 1 = dataBlocks n c.toNat then (s.setRx n []).frameIn n (c :: l ++ [d]) else s.setRx n (c :: l ++ [d]) := by
  simp only [State.rxData, h]

/-- Settles O8: each command by its own equation, where the clause's conditions choose its branch. -/
theorem markersAndEchoesAct : Obligations.MarkersAndEchoesAct := by
  unfold Obligations.MarkersAndEchoesAct
  refine ⟨?badPattern, ?later, ?first, fun s n h hm => exec_markerMissing h hm, fun s n h => exec_markerIntervalEnd h, ?echoLeaves, ?echoYields,
    ?answer, ?lost, fun s p pl turn h hs => exec_echoReceived h hs pl turn, fun s n hdr pl h hh => exec_blockReceived_badHeader h hh pl, ?outside,
    ?idle, ?unknown, ?known, ?inside, ?markerBlock, fun s n hdr pl h => exec_blockReceived_parked h hdr pl⟩
  case badPattern =>
    intro s n p g h hp
    rw [exec_alignmentMarker h, State.marker_badPattern s n.val g hp]
  case later =>
    intro s t n p g c h hp hm ht
    rw [ht, exec_alignmentMarker h, State.marker_later g hp hm]
  case first =>
    intro s n p g h hp hm
    rw [exec_alignmentMarker h, State.marker_first g hp hm]
  case echoLeaves =>
    intro s t n h hh ht hy
    rw [exec_echoTimer h hh, ← ht]
    exact congrArg Host.Outcome.next (if_neg (by simp [hy]))
  case echoYields =>
    intro s t n h hh ht hy
    rw [exec_echoTimer h hh, ← ht]
    exact congrArg Host.Outcome.next (if_pos hy)
  case answer =>
    intro s t n p rt at' h hf hin ht
    have hfind : ((s.setLane n.val { s.lane n.val with rx := [] }).lane n.val).echoOut.find? (fun e => e.1 = bits p.toNat 39 32) =
        some (bits p.toNat 39 32, at') := by
      rw [State.lane_setLane_self]
      exact hf
    have hrsp : (s.setLane n.val { s.lane n.val with rx := [] }).echoRsp n.val p rt = t := by
      rw [State.echoRsp_inTime rt hfind hin h, State.lane_setLane_self, State.setLane_setLane, ht]
    rw [exec_echoRspReceived, hrsp]
  case lost =>
    intro s t n e rest he ht
    rw [ht, exec_echoLost he]
  case outside =>
    intro s n pl h hr
    rw [exec_blockReceived_data h, State.rxData_outside hr]
  case idle =>
    intro s n pl h ht
    rw [exec_blockReceived_control h, State.rxControl_of_ne_marker s n.val (by omega), dataBlocks_idle n.val ht]
    exact congrArg Host.Outcome.next (if_pos ht)
  case unknown =>
    intro s n pl h hi hd hm hk
    rw [exec_blockReceived_control h, State.rxControl_of_ne_marker s n.val hm, hd]
    simp only [hi, hk, if_true, if_false, Bool.false_eq_true]
  case known =>
    intro s n pl h hi hm hk
    rw [exec_blockReceived_control h, State.rxControl_of_ne_marker s n.val hm]
    simp only [hi, hk, if_true, if_false]
  case inside =>
    intro s n pl c l h hr
    rw [exec_blockReceived_data h, State.rxData_inside hr]
  case markerBlock =>
    intro s n pl hm
    by_cases h : s.laneState n.val = 0
    · exact exec_blockReceived_parked h _ _
    · rw [exec_blockReceived_control h, State.rxControl_marker s n.val hm]

end Sys2Proof.Machine
end

section
/-! PROOFS. Lane states (R101–R105, R107, R111): EN, PLL lock, training, ADAPT, APPLY_EQ, the clear of LASTING, retries and block lock. -/

namespace Sys2Proof.Machine

/-! ### EN (R102, R107, R379) -/

/-- Outside reset a PARKED lane wakes, except a stall lane that is withdrawn or that a joining module keeps parked. -/
theorem State.laneWake_parked {s : State} {n : Nat} (h : s.laneState n = 0) (hr : s.rst.asserted = false)
    (hj : 48 ≤ n ∨ (s.on F.PAIR_STAT_WITHDRAWN = false ∧ s.joinBlocked = false)) :
    s.laneWake n = (s.put (F.LANE_CTRL_EN n) 1).goLane n 1 := by
  rcases hj with hn | ⟨hw, hb⟩
  · rw [State.laneWake, if_neg (by simp [hn]), if_pos (by simp [h, hr, hn])]
  · rw [State.laneWake, if_neg (by simp [hb]), if_pos (by simp [h, hr, hw])]

theorem State.laneWake_joinBlocked {s : State} {n : Nat} (hn : n < 48) (he : s.on (F.LANE_CTRL_EN n) = false) (hb : s.joinBlocked = true) :
    s.laneWake n = (s.put F.PAIR_FAULT_STAT_JOIN_BLOCK 1).noteDrop :=
  if_pos (by simp [hn, he, hb])

/-- Only RUN and STOPPING with an enabled record on the lane refuse to park it. -/
theorem State.parkRefused_iff (s : State) (n : Nat) : s.parkRefused n = true ↔ s.running = true ∧ s.onLane n ≠ [] := by
  simp [State.parkRefused]

theorem exec_lanePark_refused {s : State} {n : Fin 50} (he : s.on (F.LANE_CTRL_EN n.val) = true) (hp : s.parkRefused n.val = true) :
    exec (.lanePark n) s = .next (s.refusePark n.val) :=
  congrArg Host.Outcome.next (if_pos (by simp [he, hp]))

theorem exec_lanePark_accepted {s : State} {n : Fin 50} (h : s.laneState n.val ≠ 0) (hp : ¬ s.parkRefused n.val = true) :
    exec (.lanePark n) s = .next (s.laneToPark n.val).laneCommon :=
  congrArg Host.Outcome.next ((if_neg (by simp [hp])).trans (if_neg h))

/-! ### WAKE and TRAIN (R98, R102, R103) -/

/-- A change of STATE leaves every field outside LANE_STAT alone. -/
theorem State.get_goLane_of_reg_ne (s : State) (n st : Nat) {f : Fld} (h : f.reg ≠ (F.LANE_STAT_STATE n).reg) :
    (s.goLane n st).get f = s.get f :=
  State.get_put_of_reg_ne s st h

theorem LANE_CTRL_RATE_SEL_reg_ne_LANE_STAT (n : Nat) : (F.LANE_CTRL_RATE_SEL n).reg ≠ (F.LANE_STAT_STATE n).reg := by
  simp only [F.LANE_CTRL_RATE_SEL, F.LANE_STAT_STATE]
  omega

/-- The rate of the first measurement is chosen by RATE_SEL as it stands in WAKE. -/
theorem exec_lanePllLock {s : State} {n : Fin 50} (h : s.laneState n.val = 1) (tx rx : Nat) :
    exec (.lanePllLock n tx rx) s = .next (
      let t := ((s.goLane n.val 2).put (F.LANE_STAT_DELAY_VALID n.val) 0).put (F.LANE_STAT_RATE n.val)
        (if 48 ≤ n.val then 2 else if s.get (F.LANE_CTRL_RATE_SEL n.val) = 2 then 1 else 0)
      ((((t.setLane n.val { t.lane n.val with txEl := tx, rxEl := rx, fromRelock := false, errCfg := t.reg (A.LANE_ERRCFG n.val) }).setLat
        n.val 0#32).useFirst n.val).startStream n.val).startMeas n.val) := by
  have hsel : ((s.goLane n.val 2).put (F.LANE_STAT_DELAY_VALID n.val) 0).get (F.LANE_CTRL_RATE_SEL n.val) =
      s.get (F.LANE_CTRL_RATE_SEL n.val) := by
    have hreg := LANE_CTRL_RATE_SEL_reg_ne_LANE_STAT n.val
    rw [State.get_put_of_reg_ne (f := F.LANE_STAT_DELAY_VALID n.val) _ _ hreg, State.get_goLane_of_reg_ne _ _ _ hreg]
  rw [← hsel]
  exact if_pos h

theorem exec_laneTrainComplete {s : State} {n : Fin 50} (h : s.laneState n.val = 2) (m : TrainMeas) :
    exec (.laneTrainComplete n m) s = .next (s.trainDone n.val m) :=
  congrArg Host.Outcome.next (if_pos h)

theorem exec_laneRetryTimeout {s : State} {n : Fin 50} (h : s.laneState n.val = 6) :
    exec (.laneRetryTimeout n) s = .next ((s.until ((s.lane n.val).at0 + sec)).enterTrain n.val false) :=
  congrArg Host.Outcome.next (if_pos h)

/-! ### ADAPT and APPLY_EQ (R104, R105) -/

/-- One enabled record in PRECHARGE or ACTIVE is enough to refuse ADAPT on a stall lane, whatever the lane's state. -/
theorem exec_laneAdapt_refused {s t : State} {n : Fin 50} {i : Nat} (ht : t = s.put (F.LANE_CTRL_ADAPT n.val) 0) (hn : n.val < 48)
    (hi : i ∈ t.onLane n.val) (hk : t.lkState i = 2 ∨ t.lkState i = 3) :
    exec (.laneAdapt n) s = .next (t.adaptRefused n.val) := by
  subst ht
  exact congrArg Host.Outcome.next (if_pos (by
    simp only [hn, decide_true, Bool.true_and, List.any_eq_true, Bool.or_eq_true, decide_eq_true_eq]
    exact ⟨i, hi, hk.symm⟩))

theorem exec_laneAdapt_up {s t : State} {n : Fin 50} (ht : t = s.put (F.LANE_CTRL_ADAPT n.val) 0) (hn : 48 ≤ n.val ∨ t.onLane n.val = [])
    (h : t.laneState n.val = 4) : exec (.laneAdapt n) s = .next (t.enterTrain n.val false).laneCommon := by
  subst ht
  refine congrArg Host.Outcome.next ((if_neg ?_).trans (if_pos h))
  rcases hn with h48 | hnil
  · simp [h48]
  · simp [hnil]

/-- In UP the written APPLY_EQ stands until the marker slot, where it clears and the stored settings of the row in use take effect. -/
theorem exec_applyEq_up {s t : State} {n : Fin 50} (h : s.laneState n.val = 4)
    (ht : t = (s.put (F.LANE_CTRL_APPLY_EQ n.val) 1).put (F.LANE_CTRL_APPLY_EQ n.val) 0) (hu : t.laneState n.val = 4) :
    exec (.applyEq n) s = .next ((t.useRow n.val (t.get (F.LANE_STAT_ROW n.val))).raise (Base.LANE n.val) 12) := by
  have hheld : s.laneEqWrite n.val = s.put (F.LANE_CTRL_APPLY_EQ n.val) 1 := if_pos h
  show execApplyEq n s = _
  subst ht
  rw [execApplyEq, hheld]
  exact congrArg Host.Outcome.next (if_pos hu)

/-! ### Lasting faults (R111) -/

theorem State.laneClearOk_iff (s : State) (n : Nat) :
    s.laneClearOk n = true ↔ s.on (F.LANE_STAT_BLOCK_LOCK n) = true ∧ s.on (F.LANE_STAT_HIBER n) = false := by
  simp [State.laneClearOk]

theorem exec_laneLastingClear {s : State} {n : Fin 50} (h : s.on (F.LANE_FAULT_STAT_LASTING n.val) = true) :
    exec (.laneLastingClear n) s = .next (
      if s.laneClearOk n.val then (s.put (F.LANE_FAULT_STAT_LASTING n.val) 0).laneCleared n.val
      else s.cnt (F.LANE_ERR_COUNT_LANE_CLR_REFUSED n.val)) :=
  congrArg Host.Outcome.next (if_neg (by simp [h]))

/-! ### Block lock (R101, R102) -/

theorem exec_blockLockLoss_up {s t : State} {n : Fin 50} (hl : s.on (F.LANE_STAT_BLOCK_LOCK n.val) = true)
    (ht : t = ((s.put (F.LANE_STAT_BLOCK_LOCK n.val) 0).put (F.LANE_STAT_MARKER_LOCK n.val) 0).setLane n.val
      { s.lane n.val with marker := none, rx := [] }) (h : t.laneState n.val = 4) :
    exec (.blockLockLoss n) s = .next ((((((t.goLane n.val 5).cnt (F.LANE_LOCK_LOSS n.val)).raise (Base.LANE n.val) 1).put
      (F.LANE_CTRL_APPLY_EQ n.val) 0).laneFault n.val).laneCommon) := by
  have hlost : (s.on (F.LANE_STAT_BLOCK_LOCK n.val) && t.laneState n.val = 4) = true := by simp [hl, h]
  subst ht
  exact if_pos hlost

/-- Block lock regained within 250 µs of the entry to RELOCK: the lane is UP again. -/
theorem exec_blockLockGain_relock {s t : State} {n : Fin 50} (hp : s.laneState n.val ≠ 0)
    (ht : t = (s.put (F.LANE_STAT_BLOCK_LOCK n.val) 1).setLane n.val
      { s.lane n.val with lockAt := some ((s.lane n.val).lockAt.getD s.now) })
    (h : t.laneState n.val = 5) (hin : s.now ≤ (s.lane n.val).at0 + 250 * us) :
    exec (.blockLockGain n) s = .next ((t.goLane n.val 4).raise (Base.LANE n.val) 0) := by
  have hat : (t.lane n.val).at0 = (s.lane n.val).at0 := by rw [ht, State.lane_setLane_self]
  have hnow : t.now = s.now := by rw [ht]; rfl
  have hback : (t.laneState n.val = 5 && decide (t.now ≤ (t.lane n.val).at0 + relockTicks)) = true := by
    rw [hat, hnow]
    simpa [h] using hin
  subst ht
  exact (if_neg hp).trans (congrArg Host.Outcome.next (if_pos hback))

theorem exec_relockTimeout {s : State} {n : Fin 50} (h : s.laneState n.val = 5) :
    exec (.relockTimeout n) s = .next ((s.until ((s.lane n.val).at0 + 250 * us)).enterTrain n.val true) :=
  congrArg Host.Outcome.next (if_pos h)

/-- Settles O7: each command by its own equation, where the clause's conditions choose its branch. -/
theorem laneStatesAct : Obligations.LaneStatesAct := by
  unfold Obligations.LaneStatesAct
  refine ⟨?wake, ?joinBlocked, ?park, ?parkRefused, ?pllLock, fun s n m h => exec_laneTrainComplete h m, ?adaptRefused,
    fun s t n ht hn h => exec_laneAdapt_up ht hn h, fun s t n h ht hu => exec_applyEq_up h ht hu, ?lastingCleared, ?lastingKept,
    fun s n h => exec_laneRetryTimeout h, fun s t n hl ht h => exec_blockLockLoss_up hl ht h,
    fun s t n hp ht h hin => exec_blockLockGain_relock hp ht h hin, fun s n h => exec_relockTimeout h⟩
  case wake =>
    intro s n h hr hj
    exact congrArg Host.Outcome.next (State.laneWake_parked h hr hj)
  case joinBlocked =>
    intro s n hn he hb
    exact congrArg Host.Outcome.next (State.laneWake_joinBlocked hn he hb)
  case park =>
    intro s t n h hq ht
    have hp : ¬ s.parkRefused n.val = true := by
      rw [State.parkRefused_iff]
      rcases hq with hrun | hnil
      · simp [hrun]
      · simp [hnil]
    rw [ht, exec_lanePark_accepted h hp, State.laneToPark, if_neg h]
  case parkRefused =>
    intro s n he hr hl
    exact exec_lanePark_refused he ((State.parkRefused_iff s n.val).2 ⟨hr, hl⟩)
  case pllLock =>
    intro s t n tx rx h ht
    rw [ht, exec_lanePllLock h]
  case adaptRefused =>
    intro s n hn hne hall
    obtain ⟨i, hi⟩ := List.exists_mem_of_ne_nil _ hne
    exact exec_laneAdapt_refused rfl hn hi (.inr (of_decide_eq_true (List.all_eq_true.1 hall i hi)))
  case lastingCleared =>
    intro s n h hl hh
    rw [exec_laneLastingClear h, if_pos ((State.laneClearOk_iff s n.val).2 ⟨hl, hh⟩)]
  case lastingKept =>
    intro s n h hl
    rw [exec_laneLastingClear h, if_neg (by simp [State.laneClearOk_iff, hl])]

end Sys2Proof.Machine
end

section
/-! PROOFS. Edges and balancing: COMMIT and its check (R137, R140), the cut-off (R137), the command deadline and the schedules (R117–R119), the
balancing delivery (R146, R151, R154, R162) and arm resets (R157). -/

namespace Sys2Proof.Machine

/-! ### COMMIT (R137, R140) -/

/-- The check's report replaces no EDGE setting, so a good set is published as its name alone and becomes the active set. -/
theorem State.concludeCommit_good {s : State} {m : KMap Word} {live : Bool} {p : Nat} (h : (s.commitCheck m live p).1 = 0) :
    s.concludeCommit m live p = State.raise
      { (s.complete A.EDGE_CHECK (s.commitCheck m live p).2).put F.EDGE_STAT_APPLYING 0 with
        edge := { s.edge with active := m, off := 0, copy := none } } Base.EDGE 0 := by
  rw [State.concludeCommit, h, Nat.mul_zero, Nat.zero_add]
  exact if_pos rfl

/-- A bad set is published with its code, counted and discarded; the active set stays. -/
theorem State.concludeCommit_bad {s : State} {m : KMap Word} {live : Bool} {p : Nat} {r : Nat × Nat} (hr : r = s.commitCheck m live p)
    (h : r.1 ≠ 0) :
    s.concludeCommit m live p = ((State.put
      { (s.complete A.EDGE_CHECK (256 * r.1 + r.2)).put F.EDGE_STAT_APPLYING 0 with edge := { s.edge with copy := none } }
      F.EDGE_FAULT_STAT_CFG_REJECT 1).cnt F.EDGE_ERR_COUNT_CFG_REJECT_COUNT).raise Base.EDGE 1 := by
  subst hr
  exact if_neg h

/-- In RUN and STOPPING the written COMMIT waits for the cut-off. -/
theorem exec_edgeCommit_running {s : State} (h : s.running = true) : exec .edgeCommit s = .next (s.put F.EDGE_CTRL_COMMIT 1) :=
  congrArg Host.Outcome.next (if_pos h)

/-- Outside them the shadow is checked at once. -/
theorem exec_edgeCommit_idle {s : State} (h : s.running = false) :
    exec .edgeCommit s = .next ((s.put F.EDGE_CTRL_COMMIT 0).concludeCommit s.shadow false (s.halfUs * 2500)) :=
  congrArg Host.Outcome.next (if_neg (by simp [h]))

/-! ### The cut-off and the schedules (R117–R119, R137) -/

theorem exec_edgeCutoff {s : State} (hr : s.running = true) (hc : s.edge.cut = false) (he : s.edge.edge = false)
    (hs : s.time.stopped = false) :
    exec .edgeCutoff s = .next (s.untilCtb (s.yard.tk + (s.get F.EDGE_RELOAD - 4 * cyc))).cutoffSample :=
  if_pos (by simp [hr, hc, he, hs])

/-- A single occurrence is always noted. -/
theorem State.note_one (s : State) (fault counter : Fld) (bit : Nat) :
    s.note fault counter 1 bit = ((s.put fault 1).cnt counter 1).raise Base.EDGE bit :=
  if_neg Nat.one_ne_zero

/-- At its deadline a stall is computed on the command it has; an active stall outside bypass that received none runs again on the old one. -/
theorem exec_commandDeadline {s t : State} {i : Fin 192} (h : s.waits i.val = true)
    (ht : t = s.untilCtb (s.yard.tk + s.cd640 i.val / 640)) :
    exec (.commandDeadline i) s = .next (
      (if (t.es i.val).kind = .active ∧ (t.bs i.val).byp = false ∧ t.isMarked i.val = false then
        ((t.put F.EDGE_FAULT_STAT_CMD_REUSE 1).cnt F.EDGE_CMD_REUSE 1).raise Base.EDGE 3 else t).compute i.val) := by
  subst ht
  show execCommandDeadline i s = _
  rw [execCommandDeadline, if_neg (by simp [h])]
  simp only [State.note_one, Bool.and_eq_true, decide_eq_true_eq, Bool.not_eq_true', and_assoc]

theorem exec_scheduleCompute {s : State} {i : Nat} (h : s.nextStall = some i) : exec .scheduleCompute s = .next (s.compute i) := by
  show execScheduleCompute s = _
  rw [execScheduleCompute, h]

/-! ### Balancing (R146, R151, R154, R157, R162) -/

/-- A delivery where the sorters are at work: `t` after the arms' orders, `u` after the ranks of the stalls outside the sort, `v` after the published
results, `w` after the time of the delivery in its period. -/
theorem exec_balanceDelivery {s t u v w : State} {f : BitVec 6} (hb : s.bal.busy = true)
    (ht : t = ((List.range 6).filter s.armEn).foldl (fun t a => t.deliverArm a (f.toNat.testBit a))
      { s with bal := { s.bal with busy := false, done := true } })
    (hu : u = (stalls.filter (fun i => !t.inSort i)).foldl (fun t i => t.put (F.BAL_RES_RANK i) 0xFF) t)
    (hv : v = (((List.range 6).filter s.armEn).foldl (fun t a => t.publishArm a)
      (u.sortList.foldl (fun t i => t.publishStall i) u)).unpoison Base.BAL 0x10000)
    (hw : w = (v.put F.BAL_DONE_DONE_LAST ((v.ctb - v.yard.tk) % 2 ^ 16)).put F.BAL_DONE_DONE_PEAK
      (max ((v.ctb - v.yard.tk) % 2 ^ 16) (v.get F.BAL_DONE_DONE_PEAK))) :
    exec (.balanceDelivery f) s = .next ((w.put F.BAL_STAT_RES_PERIOD (w.bal.k % 256)).put F.BAL_STAT_ARM_STATE w.armStates) := by
  subst hw hv hu ht
  exact if_neg (by simp [hb])

/-- Settles O9: each command by its own equation, and a COMMIT outside RUN and STOPPING by what its check finds. -/
theorem edgeAndBalanceCommandsAct : Obligations.EdgeAndBalanceCommandsAct := by
  unfold Obligations.EdgeAndBalanceCommandsAct
  refine ⟨fun s h => exec_edgeCommit_running h, ?good, ?bad, fun s hr hc he hs => exec_edgeCutoff hr hc he hs,
    fun s t i h ht => exec_commandDeadline h ht, fun s i h => exec_scheduleCompute h,
    fun s t u v w f hb ht hu hv hw => exec_balanceDelivery hb ht hu hv hw, fun s v => rfl⟩
  case good =>
    intro s u hr hu h
    rw [exec_edgeCommit_idle hr, ← hu, State.concludeCommit_good h]
  case bad =>
    intro s u r hr hu hc h
    rw [exec_edgeCommit_idle hr, ← hu, State.concludeCommit_bad hc h]

end Sys2Proof.Machine
end

section
/-! PROOFS. Power and resets: the requests of a module reset, its pre-reset phase, its release and the return of power (R389, R390), the service
button (R391), and the loss and the return of the root clock (R143, R388). -/

namespace Sys2Proof.Machine

/-! ### The module reset (R389, R390) -/

theorem exec_bus12vLow {s : State} {mv : Nat} (h : mv < 10800) :
    exec (.bus12vLow mv) s = .next ((s.resetAsk 3).withRst { (s.resetAsk 3).rst with off := true }) :=
  if_pos h

/-- MRST_N requests a reset when it goes low, not while it stays low. -/
theorem exec_resetInputAssert {s : State} (h : s.rst.mrstLow = false) :
    exec .resetInputAssert s = .next ((s.resetAsk 1).withRst { (s.resetAsk 1).rst with mrstLow := true }) :=
  if_neg (by simp [h])

/-- The reset asserts at the end of the pre-reset phase. -/
theorem exec_moduleReset {s : State} {at0 : Nat} (h : s.rst.preAt = some at0) :
    exec .moduleReset s = .next (s.until (at0 + 3 * us)).resetAssert := by
  show execModuleReset s = _
  rw [execModuleReset, h]

/-- A reset is released with power and MRST_N high, after a press of the button (cause 2) not before 2 ms. -/
theorem exec_moduleResetRelease {s t : State} (ha : s.rst.asserted = true) (ho : s.rst.off = false) (hm : s.rst.mrstLow = false)
    (ht : t = if s.rst.causes.testBit 2 = true then s.until (s.rst.at0 + 2 * ms) else s) (p : Bool) (n : BitVec 6) :
    exec (.moduleResetRelease p n) s = .next (t.resetRelease p n.toNat) := by
  subst ht
  exact if_pos (by simp [ha, ho, hm])

/-- Power comes back only from off, and holds the reset. -/
theorem exec_powerOn {s t : State} (h : s.rst.off = true) (ht : t = if s.rst.asserted = true then s else s.resetAssert) (mv : Nat) :
    exec (.powerOn mv) s = .next ((t.setBus 54000).withRst
      { t.rst with off := false, fromOff := true, causes := if mv < 1000 then setBit t.rst.causes 0 else t.rst.causes }) := by
  subst ht
  exact if_pos h

/-! ### The service button (R391) -/

/-- In reset only the contact is kept. -/
theorem exec_serviceButtonChange_inReset {s : State} (h : s.rst.asserted = true) (c : Bool) (n : Nat) :
    exec (.serviceButtonChange c n) s = .next (s.setButton s.rst.button c) :=
  if_pos h

theorem exec_serviceButtonChange_closes {s : State} (h : s.rst.asserted = false) (hb : s.rst.button = .open) (n : Nat) :
    exec (.serviceButtonChange true n) s = .next (s.setButton (.pressed s.now) true) := by
  show execServiceButtonChange true n s = _
  rw [execServiceButtonChange, if_neg (by simp [h]), if_pos rfl, hb]

/-- The end of a press requests a reset where the press took at least 2 s and less than 10 s. -/
theorem exec_serviceButtonChange_opens {s : State} {at0 : Nat} (h : s.rst.asserted = false) (hb : s.rst.button = .pressed at0) (n : Nat) :
    exec (.serviceButtonChange false n) s = .next (
      let u := (s.until (at0 + n * ms)).setButton .open false
      if at0 + 2 * sec ≤ u.now ∧ u.now < at0 + 10 * sec then u.resetAsk 2 else u) := by
  show execServiceButtonChange false n s = _
  rw [execServiceButtonChange, if_neg (by simp [h]), if_neg (by simp), hb]

theorem exec_serviceButtonHeld {s : State} {at0 : Nat} (h : s.rst.button = .pressed at0) :
    exec .serviceButtonHeld s = .next (((s.until (at0 + 10 * sec)).setButton (.held at0) true).svRecord 0x81) := by
  show execServiceButtonHeld s = _
  rw [execServiceButtonHeld, h]

theorem exec_serviceButtonStuck {s : State} {at0 : Nat} (h : s.rst.button = .held at0) :
    exec .serviceButtonStuck s = .next (((s.until (at0 + 60 * sec)).setButton (.stuck none) true).svRecord 0x82) := by
  show execServiceButtonStuck s = _
  rw [execServiceButtonStuck, h]

theorem exec_serviceButtonUnstick {s : State} {at0 : Nat} (h : s.rst.button = .stuck (some at0)) :
    exec .serviceButtonUnstick s = .next ((s.until (at0 + sec)).setButton .open false) := by
  show execServiceButtonUnstick s = _
  rw [execServiceButtonUnstick, h]

/-! ### The root clock (R143, R388) -/

theorem exec_fabricClockLoss {s t : State} (h : s.time.stopped = false) (ht : t = { s with time := { s.time with stopped := true } }) :
    exec .fabricClockLoss s = .next ((t.trip ⟨1, 0x0E, 0, allOutputs⟩).enforce.pwmHaltUpdate) := by
  subst ht
  exact if_neg (by simp [h])

theorem exec_rootPllRelock {s t : State} (h : s.time.stopped = true)
    (ht : t = { s with
      time := { s.time with stopped := false, relocks := s.time.relocks + 1, y := 0 }
      aux := { s.aux with telDiscard := [true, true] } }) :
    exec .rootPllRelock s = .next (
      let u := (((t.put F.TIME_STAT_CTB_STATE 0).put F.TIME_STAT_SRC_ACT 3).put F.TIME_STAT_ALIGNED 0).setReg A.TIME_CTB_RATE 0
      (((u.pcieReset true).relock 0).relock 1).enforce.pwmHaltUpdate) := by
  subst ht
  exact if_neg (by simp [h])

/-- Settles O18: each command by its own equation, where the clause's conditions choose its branch. -/
theorem resetCommandsAct : Obligations.ResetCommandsAct := by
  unfold Obligations.ResetCommandsAct
  refine ⟨?busLow, ?inputLow, fun s => rfl, ?preResetEnds, fun s t p n ha ho hm ht => exec_moduleResetRelease ha ho hm ht p n,
    fun s t mv h ht => exec_powerOn h ht mv, fun s c n h => exec_serviceButtonChange_inReset h c n,
    fun s n h hb => exec_serviceButtonChange_closes h hb n, ?buttonOpens, ?held, ?stuck, ?unstick, fun s t h ht => exec_fabricClockLoss h ht,
    fun s t h ht => exec_rootPllRelock h ht⟩
  case busLow =>
    intro s t mv h ht
    rw [ht, exec_bus12vLow h]
  case inputLow =>
    intro s t h ht
    rw [ht, exec_resetInputAssert h]
  case preResetEnds =>
    intro s t at0 h ht
    rw [ht, exec_moduleReset h, State.resetAssert]
  case buttonOpens =>
    intro s t n at0 h hb ht
    rw [ht, exec_serviceButtonChange_opens h hb]
    rfl
  case held =>
    intro s t at0 h ht
    rw [ht, exec_serviceButtonHeld h, State.setButton]
  case stuck =>
    intro s t at0 h ht
    rw [ht, exec_serviceButtonStuck h, State.setButton]
  case unstick =>
    intro s t at0 h ht
    rw [ht, exec_serviceButtonUnstick h, State.setButton]

end Sys2Proof.Machine
end

section
/-! PROOFS. The engine's instructions: the issue and the cost of a whole instruction, and the effect of each opcode (R163–R175, R178); END, WAIT, LOOP
and BRF (R164, R173, R176, R177, R184); an unknown opcode and a run that passes its end (R164, R182). -/

namespace Sys2Proof.Machine

variable {s t w : State} {u : EngUnit} {d : EInstr}

/-! ### Costs (R173) -/

theorem eCost_of_single {op : Nat} (hop : d.op = op) (h : op ∉ [0x04, 0x0B, 0x0C, 0x10, 0x13, 0x16, 0x18, 0x1B]) : eCost d = 1 := by
  subst hop
  simp only [List.mem_cons, List.not_mem_nil, or_false, not_or] at h
  simp [eCost, h]

theorem eCost_of_double {op : Nat} (hop : d.op = op) (h : op ∈ [0x04, 0x0B, 0x0C, 0x16, 0x18]) : eCost d = 2 := by
  subst hop
  simp only [List.mem_cons, List.not_mem_nil, or_false] at h
  rcases h with h | h | h | h | h <;> simp [eCost, h]

theorem eCost_mvm (h : d.op = 0x10) : eCost d = d.num + 3 := if_pos h

theorem eCost_red (h : d.op = 0x1B) : eCost d = 6 := by
  simp [eCost, h]

/-! ### A whole instruction (R163, R178) -/

/-- An instruction other than END and WAIT acts at the start of its cycle, and the unit goes on at its cost. -/
theorem exec_whole {c : Instr} {op : Nat} (hx : exec c s = .next (s.issue u op)) (h : s.issuesWhole u d = true) (hop : d.op = op)
    (ht : t = s.atCycle u) (hf : op ∉ [0x01, 0x02]) (hw : t.engOp u d = w) :
    exec c s = .next (w.wentOn u d (eCost d + (s.eng u).drain d)) := by
  subst hop ht hw
  simp only [List.mem_cons, List.not_mem_nil, or_false, not_or] at hf
  rw [hx, s.issue_whole u d h hf.1 hf.2]

/-- Only WB, SAT and PRESET wait for their accumulator: every other instruction takes its cost alone. -/
theorem exec_undrained {c : Instr} {op n : Nat} (hx : exec c s = .next (s.issue u op)) (h : s.issuesWhole u d = true) (hop : d.op = op)
    (ht : t = s.atCycle u) (hf : op ∉ [0x01, 0x02, 0x15, 0x17, 0x18]) (hn : eCost d = n) (hw : t.engOp u d = w) :
    exec c s = .next (w.wentOn u d n) := by
  have hd : d.op ∉ [0x15, 0x17, 0x18] := fun hm => hf (List.mem_append_right [0x01, 0x02] (hop ▸ hm))
  rw [exec_whole hx h hop ht (fun hm => hf (List.mem_append_left [0x15, 0x17, 0x18] hm)) hw, EngSt.drain0 _ _ hd, hn, Nat.add_zero]

theorem exec_single {c : Instr} {op : Nat} (hx : exec c s = .next (s.issue u op)) (h : s.issuesWhole u d = true) (hop : d.op = op)
    (ht : t = s.atCycle u) (hf : op ∉ [0x01, 0x02, 0x15, 0x17, 0x18]) (hc : op ∉ [0x04, 0x0B, 0x0C, 0x10, 0x13, 0x16, 0x18, 0x1B])
    (hw : t.engOp u d = w) : exec c s = .next (w.wentOn u d 1) :=
  exec_undrained hx h hop ht hf (eCost_of_single hop hc) hw

theorem exec_double {c : Instr} {op : Nat} (hx : exec c s = .next (s.issue u op)) (h : s.issuesWhole u d = true) (hop : d.op = op)
    (ht : t = s.atCycle u) (hf : op ∉ [0x01, 0x02, 0x15, 0x17, 0x18]) (hc : op ∈ [0x04, 0x0B, 0x0C, 0x16, 0x18]) (hw : t.engOp u d = w) :
    exec c s = .next (w.wentOn u d 2) :=
  exec_undrained hx h hop ht hf (eCost_of_double hop hc) hw

/-! ### The effect of each opcode (R173) -/

theorem State.engOp_setx (h : d.op = 0x05) : s.engOp u d = s.opSetx u d := by simp only [State.engOp, h]
theorem State.engOp_ldc (h : d.op = 0x08) : s.engOp u d = s.opLdc u d := by simp only [State.engOp, h]
theorem State.engOp_lds (h : d.op = 0x09) : s.engOp u d = s.opLds u d := by simp only [State.engOp, h]
theorem State.engOp_sts (h : d.op = 0x0A) : s.engOp u d = s.opSts u d := by simp only [State.engOp, h]
theorem State.engOp_gath (h : d.op = 0x0B) : s.engOp u d = s.opGath u d := by simp only [State.engOp, h]
theorem State.engOp_scat (h : d.op = 0x0C) : s.engOp u d = s.opScat u d := by simp only [State.engOp, h]
theorem State.engOp_mark (h : d.op = 0x0D) : s.engOp u d = s.opMark u d := by simp only [State.engOp, h]
theorem State.engOp_wra (h : d.op = 0x0E) : s.engOp u d = s.opWra u d := by simp only [State.engOp, h]
theorem State.engOp_mvm (h : d.op = 0x10) : s.engOp u d = s.opMvm u d := by simp only [State.engOp, h]
theorem State.engOp_vmac (h : d.op = 0x11) : s.engOp u d = s.opVmac u d := by simp only [State.engOp, h]
theorem State.engOp_vmacc (h : d.op = 0x12) : s.engOp u d = s.opVmacc u d := by simp only [State.engOp, h]
theorem State.engOp_obs (h : d.op = 0x13) : s.engOp u d = s.opObs u d (fun _ => true) true := by simp only [State.engOp, h]
theorem State.engOp_accl (h : d.op = 0x14) : s.engOp u d = s.opAccl u d := by simp only [State.engOp, h]
theorem State.engOp_wb (h : d.op = 0x15) : s.engOp u d = s.opWb u d := by simp only [State.engOp, h]
theorem State.engOp_lim (h : d.op = 0x16) : s.engOp u d = s.opLim u d := by simp only [State.engOp, h]
theorem State.engOp_sat (h : d.op = 0x17) : s.engOp u d = s.opSat u d := by simp only [State.engOp, h]
theorem State.engOp_preset (h : d.op = 0x18) : s.engOp u d = s.opPreset u d := by simp only [State.engOp, h]
theorem State.engOp_sel (h : d.op = 0x19) : s.engOp u d = s.opSel u d := by simp only [State.engOp, h]
theorem State.engOp_vadd (h : d.op = 0x1A) : s.engOp u d = s.opVadd u d := by simp only [State.engOp, h]
theorem State.engOp_red (h : d.op = 0x1B) : s.engOp u d = s.opRed u d := by simp only [State.engOp, h]
theorem State.engOp_cmp (h : d.op = 0x1C) : s.engOp u d = s.opCmp u d := by simp only [State.engOp, h]

/-- NOP, LOOP and BRF move only the unit's flow. -/
theorem State.engOp_flow (h : d.op ∈ [0x00, 0x03, 0x04]) : s.engOp u d = s := by
  simp only [List.mem_cons, List.not_mem_nil, or_false] at h
  rcases h with h | h | h <;> simp only [State.engOp, h]

/-- Settles O10: each instruction by the issue of a whole one, at its cost and with the effect of its opcode. -/
theorem engineMovesData : Obligations.EngineMovesData := by
  unfold Obligations.EngineMovesData
  refine ⟨fun s t u d h hop ht => exec_single rfl h hop ht (by decide) (by decide) (State.engOp_flow (by simp [hop])),
    fun s t u d h hop ht => exec_single rfl h hop ht (by decide) (by decide) (State.engOp_setx hop),
    fun s t u d h hop ht => exec_single rfl h hop ht (by decide) (by decide) (State.engOp_ldc hop),
    fun s t u d h hop ht => exec_single rfl h hop ht (by decide) (by decide) (State.engOp_lds hop),
    fun s t u d h hop ht => exec_single rfl h hop ht (by decide) (by decide) (State.engOp_sts hop),
    fun s t u d h hop ht => exec_double rfl h hop ht (by decide) (by decide) (State.engOp_gath hop),
    fun s t u d h hop ht => exec_double rfl h hop ht (by decide) (by decide) (State.engOp_scat hop),
    ?mark, ?wra⟩
  case mark =>
    intro s t u d h hop ht
    refine exec_single rfl h hop ht (by decide) (by decide) ((State.engOp_mark hop).trans ?_)
    cases u with
    | live => simp only [State.opMark, if_true]
    | shadow => simp only [State.opMark, reduceCtorEq, if_false]
  case wra =>
    intro s t u d h hop ht
    refine exec_single rfl h hop ht (by decide) (by decide) ((State.engOp_wra hop).trans ?_)
    cases u with
    | live => simp only [State.opWra, if_true]
    | shadow => simp only [State.opWra, reduceCtorEq, if_false]

/-- PRESET with MOD 1 acts where the run latched its arm (R184). -/
theorem preset_skips_iff (x : EngU) (d : EInstr) :
    (d.mod = 1 && !(x.latch % 64).testBit (d.num % 8)) = true ↔ d.mod = 1 ∧ (x.latch % 64).testBit (d.num % 8) = false := by
  simp

/-- Settles O11: each instruction by the issue of a whole one, at its cost and with the effect of its opcode. -/
theorem engineComputes : Obligations.EngineComputes := by
  unfold Obligations.EngineComputes
  refine ⟨fun s t u d h hop ht => exec_undrained rfl h hop ht (by decide) (eCost_mvm hop) (State.engOp_mvm hop),
    fun s t u d h hop ht => exec_single rfl h hop ht (by decide) (by decide) (State.engOp_vmac hop),
    fun s t u d h hop ht => exec_single rfl h hop ht (by decide) (by decide) (State.engOp_vmacc hop),
    fun s t u d h hop ht => exec_undrained rfl h hop ht (by decide) rfl (State.engOp_obs hop),
    fun s t u d h hop ht => exec_single rfl h hop ht (by decide) (by decide) (State.engOp_accl hop),
    ?wb,
    fun s t u d h hop ht => exec_double rfl h hop ht (by decide) (by decide) (State.engOp_lim hop),
    fun s t u d h hop ht => exec_whole rfl h hop ht (by decide) (State.engOp_sat hop), ?preset,
    fun s t u d h hop ht => exec_single rfl h hop ht (by decide) (by decide) (State.engOp_sel hop),
    fun s t u d h hop ht => exec_single rfl h hop ht (by decide) (by decide) (State.engOp_vadd hop),
    fun s t u d h hop ht => exec_undrained rfl h hop ht (by decide) (eCost_red hop) (State.engOp_red hop),
    fun s t u d h hop ht => exec_single rfl h hop ht (by decide) (by decide) (State.engOp_cmp hop)⟩
  case wb =>
    intro s t u d h hop ht
    refine exec_whole rfl h hop ht (by decide) ((State.engOp_wb hop).trans ?_)
    rw [State.opWb, List.map_map]
    rfl
  case preset =>
    intro s t u d h hop ht
    refine exec_whole rfl h hop ht (by decide) ((State.engOp_preset hop).trans ?_)
    exact if_congr (preset_skips_iff (t.eng u) d) rfl rfl

/-! ### END and WAIT (R164, R176, R184) -/

theorem exec_endRun (h : s.issuesWhole u d = true) (hop : d.op = 0x01) (ht : t = s.atCycle u) :
    exec (.endRun u) s = .next (t.endRun u) := by
  subst ht
  have hi := s.issue_pre u d h
  rw [hop] at hi
  exact congrArg Host.Outcome.next hi

theorem exec_wait (h : s.issuesWhole u d = true) (hop : d.op = 0x02) (ht : t = s.atCycle u) :
    exec (.wait u) s = .next (t.opWait u d) := by
  subst ht
  have hi := s.issue_pre u d h
  rw [hop] at hi
  exact congrArg Host.Outcome.next hi

/-- A WAIT whose event lies at or before its cycle goes on. -/
theorem State.opWait_of_le {c : Nat} (he : t.waitEvent d.mod d.num = some c) (hc : c ≤ (t.eng u).cyc) : t.opWait u d = t.wentOn u d 1 := by
  simp only [State.opWait, he, if_pos hc, State.wentOn]

/-- A WAIT whose event is not yet known, or lies ahead, holds issue. -/
theorem State.opWait_ahead (h : (t.waitEvent d.mod d.num).all (fun c => decide ((t.eng u).cyc < c)) = true) :
    t.opWait u d = t.setEng u { t.eng u with run := .waiting d.mod d.num } := by
  unfold State.opWait
  cases he : t.waitEvent d.mod d.num with
  | none => rfl
  | some c =>
    have hc : (t.eng u).cyc < c := by simpa [he] using h
    exact if_neg (Nat.not_le.2 hc)

/-- A live unit in debug halt does not see its event. -/
theorem exec_waitEvent {mod num c : Nat} (hr : (s.eng u).run = .waiting mod num) (hh : u = .live → s.on F.CME_DBG_STAT_HALTED = false)
    (he : s.waitEvent mod num = some c) :
    exec (.waitEvent u) s = .next ((s.untilCtb (s.yard.tk + 10 * max (s.eng u).cyc c)).setEng u { s.eng u with
      run := .running, pc := (nextWord (s.eng u).pc (s.eng u).loops).1, loops := (nextWord (s.eng u).pc (s.eng u).loops).2
      cyc := max (s.eng u).cyc c + 1 }) := by
  have hn : ¬ (u = .live && s.on F.CME_DBG_STAT_HALTED) = true := by
    intro hb
    obtain ⟨hu, hd⟩ : u = .live ∧ s.on F.CME_DBG_STAT_HALTED = true := by simpa using hb
    simp [hh hu] at hd
  show execWaitEvent u s = _
  simp only [execWaitEvent, hr, if_neg hn, he]

/-! ### LOOP and BRF (R173, R177) -/

theorem EngU.go_loop (x : EngU) (h : d.op = 0x03) (c : Nat) :
    x.go d c = { x with pc := x.pc + 1, loops := (x.pc + 1, d.addr, d.num) :: x.loops, cyc := x.cyc + c } := by
  simp only [EngU.go, h]

theorem EngU.go_brf_taken {x : EngU} (h : d.op = 0x04) (hb : x.branch d = true) (c : Nat) :
    x.go d c = { x with pc := d.addr, cyc := x.cyc + c } := by
  simp only [EngU.go, h, hb, if_true]

theorem EngU.go_brf_passed {x : EngU} (h : d.op = 0x04) (hb : x.branch d = false) (c : Nat) :
    x.go d c = { x with pc := (nextWord x.pc x.loops).1, loops := (nextWord x.pc x.loops).2, cyc := x.cyc + c } := by
  simp only [EngU.go, h, hb, Bool.false_eq_true, if_false]

theorem exec_loop (h : s.issuesWhole u d = true) (hop : d.op = 0x03) (ht : t = s.atCycle u) : exec (.loop u) s = .next (t.wentOn u d 1) :=
  exec_single rfl h hop ht (by decide) (by decide) (State.engOp_flow (by simp [hop]))

theorem exec_brf (h : s.issuesWhole u d = true) (hop : d.op = 0x04) (ht : t = s.atCycle u) : exec (.brf u) s = .next (t.wentOn u d 2) :=
  exec_double rfl h hop ht (by decide) (by decide) (State.engOp_flow (by simp [hop]))

/-! ### Runs that end by themselves (R164, R182) -/

theorem exec_illegalOpcode (hr : s.running = true) (hu : (s.eng u).run = .running) (hh : s.on F.CME_DBG_STAT_HALTED = false)
    (hc : (s.eng u).cyc + 4 < s.cyclesY) (hb : 16384 ≤ (s.eng u).pc ∨ eOpcodes.contains (s.engNext u).op = false) :
    exec (.illegalOpcode u) s = .next ((((s.atCycle u).put F.CME_FAULT_STAT_ILLEGAL 1).raise Base.CME 6).overrun u) := by
  have hbad : (decide (16384 ≤ (s.eng u).pc) || !eOpcodes.contains (eDecode (s.progWord u (s.eng u).pc)).op) = true := by
    rw [Bool.or_eq_true, decide_eq_true_eq, Bool.not_eq_true']
    exact hb
  refine congrArg Host.Outcome.next (if_pos ?_)
  rw [hbad, hr, hu, hh, decide_eq_true hc]
  rfl

theorem exec_cmeOverrun (h : s.runs u = true) (ht : t = s.untilCtb (s.yard.tk + 10 * (s.cyclesY - 4))) :
    exec (.cmeOverrun u) s = .next (t.overrun u) := by
  subst ht
  exact congrArg Host.Outcome.next (if_pos h)

/-- Settles O12: each command by its own equation, which END and an overrun read off for each unit. -/
theorem engineFlow : Obligations.EngineFlow := by
  unfold Obligations.EngineFlow
  refine ⟨?endLive, ?endShadow, ?goesOn, ?waits, fun s u mod num c hr hh he => exec_waitEvent hr hh he, ?loop, ?taken, ?passed,
    fun s u hr hu hh hc hb => exec_illegalOpcode hr hu hh hc hb, fun s t h ht => exec_cmeOverrun h ht,
    fun s t h ht => exec_cmeOverrun h ht⟩
  case endLive =>
    intro s t v d h hop ht hv
    subst hv
    exact exec_endRun h hop ht
  case endShadow =>
    intro s t v d h hop ht hv
    subst hv
    exact exec_endRun h hop ht
  case goesOn =>
    intro s t u d c h hop ht he hc
    rw [exec_wait h hop ht, State.opWait_of_le he hc]
  case waits =>
    intro s t u d h hop ht hw
    rw [exec_wait h hop ht, State.opWait_ahead hw]
  case loop =>
    intro s t u d h hop ht
    rw [exec_loop h hop ht, State.wentOn, EngU.go_loop _ hop]
  case taken =>
    intro s t u d h hop ht hb
    rw [exec_brf h hop ht, State.wentOn, EngU.go_brf_taken hop hb]
  case passed =>
    intro s t u d h hop ht hb
    rw [exec_brf h hop ht, State.wentOn, EngU.go_brf_passed hop hb]

end Sys2Proof.Machine
end

section
/-! PROOFS. The paddock: the load of a program (R198, R200), the modes of PADDOCK_COMMIT (R198, R202, R205), the end of a comparison (R201–R203), the
exchange at its boundary (R203) and the end of RETAIN (R198, R356). -/

namespace Sys2Proof.Machine

variable {s t : State}

/-! ### PADDOCK_LOAD (R198, R200) -/

/-- A bench load is barred only where the module is owned and its policy bars it. -/
theorem exec_paddockLoad_bench (h : s.cmdIs 0x30 = true) (hn : s.cme.pad.st = .none) (h0 : s.cmdArg 0 % 4 = 0)
    (hp : s.get F.SEC_STAT_OWNER_STATE = 0 ∨ (s.reg A.SEC_POLICY).toNat.testBit 8 = false) :
    exec .paddockLoad s = .next (s.paddockStart (s.cmdArg 2 % 2 ^ 14) none) := by
  have hb : ¬ (decide (s.get F.SEC_STAT_OWNER_STATE ≠ 0) && (s.reg A.SEC_POLICY).toNat.testBit 8) = true := by
    rcases hp with ho | hp
    · simp [ho]
    · simp [hp]
  show execPaddockLoad s = _
  rw [execPaddockLoad, if_neg (by simp [h]), if_neg (by simp [hn]), if_pos h0, if_neg hb]

theorem exec_paddockLoad_image {i : Image} (h : s.cmdIs 0x30 = true) (hn : s.cme.pad.st = .none) (h1 : s.cmdArg 0 % 4 = 1)
    (hv : s.programEntry (s.cmdArg 1) = true) (hi : i = s.image (s.cmdArg 1)) (ht : t = (s.flashAgain 9 i).imageToPaddock i) :
    exec .paddockLoad s = .next (t.paddockStart (s.cmdArg 2 % 2 ^ 14) (some i.rollback)) := by
  subst ht hi
  show execPaddockLoad s = _
  rw [execPaddockLoad, if_neg (by simp [h]), if_neg (by simp [hn]), if_neg (by simp [h1]), if_pos (by simp [h1, hv])]

/-! ### The modes of PADDOCK_COMMIT (R198, R202) -/

/-- In RUN, MODE 0 starts the comparison where its arguments are accepted. -/
theorem exec_paddockCompareHandover_run (hm : s.padMode 0 = true) (hs : s.cme.pad.st = .shadow) (hy : s.yardState = yardRun)
    (hh : s.on F.CME_DBG_STAT_HALTED = false) :
    exec .paddockCompareHandover s = .next (if s.padArgsOk then (s.withPad s.padArm).setPad .compare else s.finish 2 (s.padReport 0)) := by
  show execPaddockCompareHandover s = _
  rw [execPaddockCompareHandover, if_neg (by simp [hm]), if_neg (by simp [hs]), if_neg (by simp [hs]),
    if_neg (by simp [hy]), if_neg (by simp [hh]), if_pos hy, State.padBadArg]

/-- Outside RUN and STOPPING, MODE 0 with N = 0 exchanges the roles at once. -/
theorem exec_paddockCompareHandover_idle (hm : s.padMode 0 = true) (hs : s.cme.pad.st = .shadow) (hr : s.yardState ≠ yardRun)
    (hp : s.yardState ≠ yardStopping) (hn : s.cmdArg 1 = 0) (hh : s.on F.CME_DBG_STAT_HALTED = false) (ha : s.padArgsOk = true)
    (ht : t = ((s.withPad s.padArm).exchangeRoles.put F.CME_STAT_PROG_OK 1).retain) :
    exec .paddockCompareHandover s = .next (t.finish 0 (t.padReport 0)) := by
  subst ht
  show execPaddockCompareHandover s = _
  rw [execPaddockCompareHandover, if_neg (by simp [hm]), if_neg (by simp [hs]), if_neg (by simp [hs]),
    if_neg (by simp [hp, hn]), if_neg (by simp [hh]), if_neg hr, if_neg (by simp [ha])]

theorem exec_paddockReport (h : s.padMode 1 = true) : exec .paddockReport s = .next (s.finish 0 (s.padReport 0)) :=
  congrArg Host.Outcome.next (if_pos h)

theorem exec_paddockEnd {d : Bool} (h : s.padMode 2 = true) (hs : s.cme.pad.st ≠ .none) (ht : t = s.padEnd d) :
    exec (.paddockEnd d) s = .next (t.finish 0 (t.padReport 0)) := by
  subst ht
  show execPaddockEnd d s = _
  rw [execPaddockEnd, if_neg (by simp [h]), if_neg hs]

theorem exec_paddockRollback (h : s.padMode 3 = true) (hs : s.cme.pad.st = .retain) (hy : s.yardState = yardRun) :
    exec .paddockRollback s = .next (s.withPad { s.cme.pad with exchange := some (s.yard.bnd, true) }) := by
  show execPaddockRollback s = _
  rw [execPaddockRollback, if_neg (by simp [h]), if_neg (by simp [hs]), if_neg (by simp [hy])]

/-! ### The comparison's end, the exchange and the end of RETAIN (R198, R201–R203) -/

/-- Once N periods are compared, acceptance is judged: an exchange waits for its boundary, or the first condition not met aborts. -/
theorem exec_paddockCompareEnd (hs : s.cme.pad.st = .compare) (hx : s.cme.pad.exchange.isNone = true)
    (ht : t = (if s.comparing && !s.atBoundary && s.periodCompared then s.padCompare else s)) (hn : t.cme.pad.n ≤ t.cme.pad.done) :
    exec .paddockCompareEnd s = .next (if t.acceptance = 0 then
        t.withPad { t.cme.pad with exchange := some (if t.atBoundary = true then t.yard.bnd - 1 else t.yard.bnd, false) }
      else t.padAbort t.acceptance) := by
  have hi : ¬ (decide (s.cme.pad.st ≠ .compare) || s.cme.pad.exchange.isSome) = true := by
    simp [hs, Option.isNone_iff_eq_none.1 hx]
  show execPaddockCompareEnd s = _
  rw [execPaddockCompareEnd, if_neg hi, ← ht]
  dsimp only
  rw [if_neg (Nat.not_lt.2 hn)]
  cases t.acceptance with
  | zero => rfl
  | succ k => rfl

/-- An exchange that is due takes place before the runs of its period start: back to SHADOW, or into RETAIN. -/
theorem exec_paddockHandover {back : Bool} (h : s.exchangeDue = some back)
    (ht : t = (if back = true then { s.exchangeRoles with upd := { s.exchangeRoles.upd with session := none } }.setPad .shadow
      else s.exchangeRoles.retain)) :
    exec .paddockHandover s = .next ((t.withPad { t.cme.pad with awaitRun := true }).engStart) := by
  subst ht
  show execPaddockHandover s = _
  rw [execPaddockHandover, h]

theorem exec_retainExpiry {d : Bool} (hs : s.cme.pad.st = .retain) (hx : s.cme.pad.exchange.isNone = true)
    (he : s.cme.pad.retainEnd ≤ s.yard.bnd) : exec (.retainExpiry d) s = .next (s.padEnd d) :=
  congrArg Host.Outcome.next (if_pos (by simp [hs, hx, he]))

/-- Settles O14: each command by its own equation; the check of a loaded program decides whether its session opens. -/
theorem paddockCommandsAct : Obligations.PaddockCommandsAct := by
  unfold Obligations.PaddockCommandsAct
  refine ⟨?bench, fun s t i h hn h1 hv hi ht => exec_paddockLoad_image h hn h1 hv hi ht,
    fun s hm hs hy hh => exec_paddockCompareHandover_run hm hs hy hh,
    fun s t hm hs hr hp hn hh ha ht => exec_paddockCompareHandover_idle hm hs hr hp hn hh ha ht, fun s h => exec_paddockReport h,
    fun s t d h hs ht => exec_paddockEnd h hs ht, fun s h hs hy => exec_paddockRollback h hs hy,
    fun s t hs hx ht hn => exec_paddockCompareEnd hs hx ht hn, fun s t back h ht => exec_paddockHandover h ht,
    fun s d hs hx he => exec_retainExpiry hs hx he⟩
  case bench =>
    intro s r h hn h0 hp hr
    subst hr
    rw [exec_paddockLoad_bench h hn h0 hp, State.paddockStart]

end Sys2Proof.Machine
end

section
/-! PROOFS. Time: the passage of root ticks over every clock of the module (R206, R209, R213, R225). -/

namespace Sys2Proof.Machine

theorem Domain.tick_tick (x : Domain) (m n : Nat) : (x.tick m).tick n = x.tick (m + n) := by
  simp only [Domain.tick, scaled_add, Nat.add_assoc]

/-- A stopped root clock moves no time base; a running one moves each by its own rate. -/
theorem TimeSt.tick_tick (x : TimeSt) (m n : Nat) : (x.tick m).tick n = x.tick (m + n) := by
  cases h : x.stopped with
  | true => simp only [TimeSt.tick, h, if_true]
  | false => simp only [TimeSt.tick, h, Bool.false_eq_true, if_false, scaled_add, Domain.tick_tick, Nat.add_assoc]

theorem RtcSt.tick_tick (x : RtcSt) (m n : Nat) (trim : Int) : (x.tick m trim).tick n trim = x.tick (m + n) trim := by
  cases h : x.running with
  | true => simp only [RtcSt.tick, h, if_true, calendar_add, Nat.add_assoc]
  | false => simp only [RtcSt.tick, h, Bool.false_eq_true, if_false]

/-- The trim of the calendar is read from a register, which time alone does not change. -/
theorem State.advance_advance (s : State) (m n : Nat) : (s.advance m).advance n = s.advance (m + n) := by
  have htrim : (s.advance m).getS F.RTC_TRIM = s.getS F.RTC_TRIM := rfl
  show ({ s with now := s.now + m + n, time := (s.time.tick m).tick n,
                 rtc := (s.rtc.tick m (s.getS F.RTC_TRIM)).tick n ((s.advance m).getS F.RTC_TRIM) } : State) = _
  rw [htrim, TimeSt.tick_tick, RtcSt.tick_tick, Nat.add_assoc, State.advance]

theorem State.until_until (s : State) {x y : Nat} (hx : s.now ≤ x) (hxy : x ≤ y) : (s.until x).until y = s.until y := by
  have hn : x - s.now + (y - (s.now + (x - s.now))) = y - s.now := by omega
  show (s.advance (x - s.now)).advance (y - (s.now + (x - s.now))) = s.advance (y - s.now)
  rw [State.advance_advance, hn]

theorem State.byte_advance (s : State) (n a : Nat) : (s.advance n).byte a = s.byte a := rfl

/-- Settles O46: each clock's passage is additive, so the state's is; waiting is the passage up to an instant. -/
theorem timePassesAdditively : Obligations.TimePassesAdditively := by
  unfold Obligations.TimePassesAdditively
  exact ⟨State.advance_advance, fun s _ _ hx hxy => s.until_until hx hxy, fun s n a => ⟨s.reg_advance n a, s.byte_advance n a⟩⟩

end Sys2Proof.Machine
end

section
/-! PROOFS. The time bases: wraps and snapshots (R207, R208), alignment (R210, R212), the servo (R211), compare units (R220) and captures
(R221). -/

namespace Sys2Proof.Machine

variable {s t : State}

/-! ### Wraps and snapshots (R207, R208) -/

theorem State.wrapTb_forward {n k : Nat} (h : s.tbFull n / 2 ^ 32 = s.rolledOf n + k) (hk : 0 < k) :
    s.wrapTb n = (s.noteWrap n true k).markRolled n := by
  rw [State.wrapTb, h, if_pos (Nat.lt_add_of_pos_right hk), Nat.add_sub_cancel_left]

theorem State.wrapTb_backward {n k : Nat} (h : s.tbFull n / 2 ^ 32 + k = s.rolledOf n) (hk : 0 < k) :
    s.wrapTb n = (s.noteWrap n false k).markRolled n := by
  rw [State.wrapTb, ← h, if_neg (Nat.not_lt.2 (Nat.le_add_right _ k)), if_pos (Nat.lt_add_of_pos_right hk), Nat.add_sub_cancel_left]

/-- A wrap that waits is recorded at once. -/
theorem exec_tbWrap_waiting {n : Fin 4} (hs : s.time.stopped = false) (h : s.tbFull n.val / 2 ^ 32 ≠ s.rolledOf n.val) :
    exec (.tbWrap n) s = .next (s.wrapTb n.val) := by
  show execTbWrap n s = _
  rw [execTbWrap, if_neg (by simp [hs]), if_neg h]

/-- Where none waits, time passes to the next forward wrap. -/
theorem exec_tbWrap_ahead {n : Fin 4} (hs : s.time.stopped = false) (h : s.tbFull n.val / 2 ^ 32 = s.rolledOf n.val) :
    exec (.tbWrap n) s = .next ((s.advance (s.ticksToTb n.val ((s.rolledOf n.val + 1) * 2 ^ 32))).wrapTb n.val) := by
  show execTbWrap n s = _
  rw [execTbWrap, if_neg (by simp [hs]), if_pos h]

theorem exec_tbWrap_stopped (n : Fin 4) (hs : s.time.stopped = true) : exec (.tbWrap n) s = .next s :=
  if_pos hs

/-! ### Alignment (R210, R212) -/

theorem exec_align_accepted (h : s.alignOk = true) : exec .align s = .next s.align :=
  congrArg Host.Outcome.next (if_pos h)

theorem exec_align_refused (h : s.alignOk = false) :
    exec .align s =
      .next (((s.put F.TIME_CTRL_ALIGN 0).put F.TIME_FAULT_STAT_ALIGN_REFUSED 1).cnt F.TIME_ERR_COUNT_ALIGN_REFUSED_COUNT).noteDrop :=
  congrArg Host.Outcome.next (if_neg (by simp [h]))

theorem exec_ctbAutoAlign (he : s.on F.TIME_CTRL_ALIGN_EN = true) (hf : s.ctbState = ctbFree) (ha : s.alignOk = true) :
    exec .ctbAutoAlign s = .next s.align :=
  if_pos (by simp [he, hf, ha])

/-! ### The servo (R211, R212) -/

theorem exec_ctbServoUpdate (hs : s.time.stopped = false) (hf : s.ctbState ≠ ctbFree) (ht : t = s.until (s.time.servoAt + ms)) :
    exec .ctbServoUpdate s = .next (
      let u := (t.withTime { t.time with servoAt := t.now }).noteQualified.ctbJudge
      if u.ctbState = ctbTracking then u.servo else u) := by
  subst ht
  exact if_neg (by simp [hs, hf])

theorem exec_ctbServoUpdate_stopped (hs : s.time.stopped = true) : exec .ctbServoUpdate s = .next s :=
  if_pos (by simp [hs])

/-! ### Compare units and captures (R220, R221) -/

/-- An armed unit fires where its time base reaches its target. -/
theorem exec_compareFire_reached {n : Fin 8} (hs : s.time.stopped = false) (he : s.on (F.TIME_CMP_CFG_EN n.val) = true)
    (hd : s.time.cmpDue.testBit n.val = false) (hw : 0 < s.cmpWait n.val)
    (ht : t = s.advance (s.ticksToTb (s.get (F.TIME_CMP_CFG_TB n.val)) (s.tbFull (s.get (F.TIME_CMP_CFG_TB n.val)) + s.cmpWait n.val))) :
    exec (.compareFire n) s = .next (t.cmpFire n.val) := by
  subst ht
  show execCompareFire n s = _
  rw [execCompareFire, if_neg (by simp [hs, he])]
  dsimp only
  rw [if_neg (by simp [hd]), if_neg (Nat.pos_iff_ne_zero.1 hw)]

/-- A unit whose target has been passed fires in the next cycle. -/
theorem exec_compareFire_due {n : Fin 8} (hs : s.time.stopped = false) (he : s.on (F.TIME_CMP_CFG_EN n.val) = true)
    (hd : s.time.cmpDue.testBit n.val = true) (ht : t = s.advance cyc) : exec (.compareFire n) s = .next (t.cmpFire n.val) := by
  subst ht
  show execCompareFire n s = _
  rw [execCompareFire, if_neg (by simp [hs, he])]
  dsimp only
  rw [if_pos hd]

theorem exec_compareFire_stopped (n : Fin 8) (hs : s.time.stopped = true) : exec (.compareFire n) s = .next s :=
  if_pos (by simp [hs])

theorem exec_syncInCapture {ns : Nat} (h : 20 ≤ ns) : exec (.syncInCapture ns) s = .next (s.capStore (s.ctb % 2 ^ 48)) :=
  if_neg (Nat.not_lt.2 h)

/-- An edge for which TIME_CAP has room is stored with its event. -/
theorem State.capStore_room (v : Nat) (h : (s.fifo A.TIME_CAP_LO).length < 16) :
    s.capStore v = (s.storeFifo A.TIME_CAP_LO v).raise Base.TIME 6 := by
  simp only [State.capStore, State.timeQueue, if_pos h, decide_eq_true_eq, if_neg (Nat.not_le.2 h)]

/-- An edge that finds TIME_CAP full is dropped with TS_OVF. -/
theorem State.capStore_full (v : Nat) (h : 16 ≤ (s.fifo A.TIME_CAP_LO).length) :
    s.capStore v =
      ((s.spill A.TIME_CAP_LO v 0 [] [F.TIME_FAULT_STAT_TS_OVF] Base.TIME 5).put F.TIME_FAULT_STAT_TS_OVF 1).raise Base.TIME 5 := by
  simp only [State.capStore, State.timeQueue, if_neg (Nat.not_lt.2 h), decide_eq_true_eq, if_pos h]

/-- Settles O15: each command by its own equation, where the clause's conditions choose its branch. -/
theorem timeBaseCommandsAct : Obligations.TimeBaseCommandsAct := by
  unfold Obligations.TimeBaseCommandsAct
  refine ⟨?forward, ?backward, ?ahead, ?stopped, fun s => rfl, ?aligns, fun s h => exec_align_refused h,
    fun s he hf ha => exec_ctbAutoAlign he hf ha, ?servo, ?reached, fun s t n hs he hd ht => exec_compareFire_due hs he hd ht,
    ?captured, ?dropped⟩
  case forward =>
    intro s t n k hs h hk ht
    rw [ht, exec_tbWrap_waiting hs (by omega), State.wrapTb_forward h hk]
    rfl
  case backward =>
    intro s t n k hs h hk ht
    rw [ht, exec_tbWrap_waiting hs (by omega), State.wrapTb_backward h hk]
    rfl
  case ahead =>
    intro s t n hs h ht
    rw [ht, exec_tbWrap_ahead hs h]
  case stopped =>
    intro s n u hs
    exact ⟨exec_tbWrap_stopped n hs, exec_ctbServoUpdate_stopped hs, exec_compareFire_stopped u hs⟩
  case aligns =>
    intro s t g h hg ht
    subst hg ht
    rw [exec_align_accepted h]
    rfl
  case servo =>
    intro s t u hs hf ht hu
    rw [hu, exec_ctbServoUpdate hs hf ht]
  case reached =>
    intro s t n hs he hd hw ht
    rw [exec_compareFire_reached hs he hd hw ht]
    rfl
  case captured =>
    intro s ns h hroom
    rw [exec_syncInCapture h, State.capStore_room _ hroom]
  case dropped =>
    intro s ns h hfull
    rw [exec_syncInCapture h, State.capStore_full _ hfull]

end Sys2Proof.Machine
end

section
/-! PROOFS. Network time: the write that enables the domains (R214), Sync (R213–R216), Announce (R213, R219), path delay (R213, R218), the timeouts
(R214, R215) and the transparent clock (R217). -/

namespace Sys2Proof.Machine

variable {s t : State}

/-! ### A register of RW fields (R12, R16) -/

theorem foldl_fieldWrite_rw (v old ok : Word) (hw : SameCycle) :
    ∀ (fs : List FieldSpec) (w : Word), (∀ f ∈ fs, f.kind = .rw) →
      fs.foldl (fun x f => x ||| fieldWrite false 0 v old ok hw f) (v &&& w) = v &&& fs.foldl (fun x f => x ||| f.mask) w := by
  intro fs
  induction fs with
  | nil => exact fun _ _ => rfl
  | cons f fs ih =>
    intro w h
    obtain ⟨hf, hfs⟩ := List.forall_mem_cons.1 h
    have hv : fieldWrite false 0 v old ok hw f = v &&& f.mask := by
      simp only [fieldWrite, hf, Bool.false_and, Bool.false_eq_true, if_false, aliasWord]
    rw [List.foldl_cons, List.foldl_cons, hv, ← BitVec.and_or_distrib_left, ih _ hfs]

/-- Without CFG_LOCK a write of RW fields leaves the written bits of its fields. -/
theorem fieldsWrite_rw {fs : List FieldSpec} (h : ∀ f ∈ fs, f.kind = .rw) (v old ok : Word) (hw : SameCycle) :
    fieldsWrite fs false 0 v old ok hw = v &&& fs.foldl (fun x f => x ||| f.mask) 0#32 := by
  rw [← foldl_fieldWrite_rw v old ok hw fs 0#32 h, BitVec.and_zero, fieldsWrite]

/-! ### Enabling the domains (R214) -/

theorem fieldsAt_domcfg_rw : ∀ f ∈ fieldsAt A.TIME_DOMCFG, f.kind = .rw := by decide

/-- A written TIME_DOMCFG brings both numbers, unless CFG_LOCK keeps them. -/
theorem State.written_domcfg (before : State) (v : Word) (hl : t.on (F.cfgLock Base.TIME) = false) :
    State.written before t A.TIME_DOMCFG 0 v = t.domcfgWritten true true := by
  show t.domcfgWritten (!t.on (F.cfgLock Base.TIME) && _) (!t.on (F.cfgLock Base.TIME) && _) = _
  rw [hl]
  rfl

/-- Outside CFG_LOCK a write of TIME_DOMCFG takes effect and writes both numbers. -/
theorem State.writeReg_domcfg (v : Word) (hl : s.on (F.cfgLock Base.TIME) = false) :
    s.writeReg .host A.TIME_DOMCFG v {} = (s.setReg A.TIME_DOMCFG (v &&& 0xFFFF0700#32)).domcfgWritten true true := by
  have hlt (w : Word) : (s.setReg A.TIME_DOMCFG w).on (F.cfgLock Base.TIME) = false := by
    rw [State.on, State.get, State.reg_setReg_of_ne _ _ (by decide)]
    exact hl
  rw [State.writeReg_rw s .host A.TIME_DOMCFG v _ rfl rfl (fun _ => rfl) rfl (by decide) rfl rfl rfl (by decide) (by decide) hl rfl rfl
    (fun _ => by rw [fieldsWrite_rw fieldsAt_domcfg_rw, fieldsWrite_rw fieldsAt_domcfg_rw]), fieldsWrite_rw fieldsAt_domcfg_rw,
    State.written_domcfg _ _ (hlt _)]
  rfl

/-! ### Sync (R213–R216) -/

theorem exec_ptpSyncRx_e3 {m : SyncMsg} (h : m.port = .e3) : exec (.ptpSyncRx m) s = .next (s.cnt F.TIME_PTP_DROP) :=
  if_pos (by simp [h])

theorem exec_ptpSyncRx {m : SyncMsg} {d : Dom} (hp : m.port ≠ .e3) (hl : -4 ≤ m.logInt) (hh : m.logInt ≤ 1)
    (hu : s.portUp (portIx m.port) = true) (hd : s.domOf m.domain = some d) (hm : (s.dom d).master = some m.source) :
    exec (.ptpSyncRx m) s = .next (s.syncRx d m) := by
  show execPtpSyncRx m s = _
  rw [execPtpSyncRx, if_neg (by simp [hp, hl, hh]), if_neg (by simp [hu]), hd]
  exact congrArg Host.Outcome.next (if_pos hm)

/-- A Sync on the other port only notes its time, unless the domain is in HOLDOVER, which it resumes from. -/
theorem State.syncRx_eq {d : Dom} {m : SyncMsg}
    (ht : t = s.setDom d { s.dom d with lastSync := setAt (s.dom d).lastSync (portIx m.port) (some s.now), logSync := m.logInt }) :
    s.syncRx d m =
      if (s.dom d).port ≠ portIx m.port + 1 ∧ t.domState d ≠ 4 then t
      else if (s.dom d).port ≠ portIx m.port + 1 ∧ t.syncRecent d ((s.dom d).port - 1) = true then
        (t.setDom d { t.dom d with inLock := 0, outLock := 0 }).goDom d 2 true
      else
        let u := t.setDom d { t.dom d with port := portIx m.port + 1 }
        let ns := clampI (-(2 ^ 31)) (2 ^ 31 - 1) (divHalfEven (u.syncOffset d m) (5 * unit40))
        (((u.cnt (syncCnt d)).setReg (if d = .a then A.TIME_DOMA_OFFS else A.TIME_DOMB_OFFS) (BitVec.ofInt 32 ns)).judgeOffset d
          (u.syncOffset d m)).updMpd := by
  subst ht
  unfold State.syncRx
  dsimp only
  by_cases hp : (s.dom d).port = portIx m.port + 1
  · simp only [hp, ne_eq, not_true_eq_false, decide_false, Bool.and_false, Bool.false_and, Bool.false_eq_true, if_false, false_and]
    cases d <;> rfl
  · simp only [hp, ne_eq, not_false_eq_true, decide_true, Bool.and_true, Bool.true_and, true_and, Bool.not_eq_true', decide_eq_false_iff_not,
      Bool.and_eq_true, decide_eq_true_eq]
    refine if_ctx_congr Iff.rfl (fun _ => rfl) fun hd => if_ctx_congr (and_iff_right (not_not.1 hd)) (fun _ => rfl) fun _ => ?_
    cases d <;> rfl

/-! ### Announce (R213, R219) -/

theorem exec_ptpAnnounceRx {m : AnnMsg} {d : Dom} (hp : m.port ≠ .e3) (hl : -3 ≤ m.logInt) (hh : m.logInt ≤ 1)
    (hu : s.portUp (portIx m.port) = true) (hs : s.on F.SYS_STAT_SVR_UP = true) (hd : s.domOf m.domain = some d) :
    exec (.ptpAnnounceRx m) s = .next (s.announceRx d m) := by
  show execPtpAnnounceRx m s = _
  rw [execPtpAnnounceRx, if_neg (by simp [hp, hl, hh]), if_neg (by simp [hu, hs]), hd]

/-! ### Path delay (R213, R218) -/

/-- A Pdelay_Req leaves on a port that is up, under the next sequence number of its port. -/
theorem State.pdelayReq_up {port : EthPort} (h : s.portUp (portIx port) = true) :
    s.pdelayReq port =
      (s.withTime { s.time with
        pdSeq := setAt s.time.pdSeq (portIx port) ((s.time.pdSeq.getD (portIx port) 0 + 1) % 2 ^ 16)
        pdSent := setAt s.time.pdSent (portIx port) (some (s.egress (portIx port), s.time.pdSeq.getD (portIx port) 0)) }).sendEvent
          port 2 (s.time.pdSeq.getD (portIx port) 0) 0 0 :=
  if_neg (by simp [h])

theorem exec_pdelayReqRx {m : PdReq} (hp : m.port ≠ .e3) (hu : s.portUp (portIx m.port) = true) :
    exec (.pdelayReqRx m) s = .next (s.sendEvent m.port 3 m.seq m.source (s.turnaround (portIx m.port) m.stamp)) := by
  show execPdelayReqRx m s = _
  rw [execPdelayReqRx, if_neg hp, if_neg (by simp [hu])]

/-- Only the answer to the outstanding request gives the link delay. -/
theorem exec_pdelayRespRx {m : PdResp} {st : Nat} (hp : m.port ≠ .e3) (h : s.time.pdSent.getD (portIx m.port) none = some (st, m.seq)) :
    exec (.pdelayRespRx m) s = .next (s.withTime { s.time with
      mpd := setAt s.time.mpd (portIx m.port) (divHalfEven ((s.ingress (portIx m.port) m.stamp - (st : Int)) * 16 - 5 * m.turn) 10).toNat
      pdSent := setAt s.time.pdSent (portIx m.port) none }).updMpd := by
  show execPdelayRespRx m s = _
  rw [execPdelayRespRx, if_neg hp, h]
  exact if_neg (by simp)

/-! ### Timeouts (R214, R215) -/

theorem exec_syncTimeout {d : Dom} (hm : (s.dom d).master.isSome = true) (hd : s.domState d ≠ 0)
    (ht : t = s.until (((s.dom d).lastSync.getD ((s.dom d).port - 1) none).getD (s.dom d).selAt + 3 * intervalTicks (s.dom d).logSync)) :
    exec (.syncTimeout d) s = .next (if t.syncRecent d (2 - (s.dom d).port) then (t.setDom d { t.dom d with port := 3 - (s.dom d).port }).updMpd
      else t.domHold d) := by
  subst ht
  show execSyncTimeout d s = _
  rw [execSyncTimeout, if_neg (by simp [Option.isSome_iff_ne_none.1 hm, hd])]
  dsimp only
  split_ifs <;> rfl

theorem exec_announceTimeout {d : Dom} (hm : (s.dom d).master.isSome = true) (hs : s.on F.SYS_STAT_SVR_UP = true)
    (ht : t = s.until ((s.dom d).lastAnn + 3 * intervalTicks (s.dom d).logAnn)) :
    exec (.announceTimeout d) s = .next (t.domHold d) := by
  subst ht
  exact if_neg (by simp [Option.isSome_iff_ne_none.1 hm, hs])

theorem exec_domainHoldoverExpiry {d : Dom} (hd : s.domState d = 4)
    (ht : t = s.until ((s.dom d).holdAt + s.getOr F.TIME_LOCKCFG_HOLD_S 1 * sec)) :
    exec (.domainHoldoverExpiry d) s =
      .next ((t.setDom d { t.dom d with master := none, steps := [none, none], lastSync := [none, none] }).goDom d 1 true) := by
  subst ht
  exact if_pos hd

/-! ### The transparent clock (R217) -/

theorem exec_tcForward {f : TcFrame} (hp : f.port ≠ .e3) (hk : f.kind ≠ .delay) (hk2 : f.kind ≠ .pdelay)
    (hc : s.on F.TIME_DOMCFG_TC_EN = true) (hr : s.ringForwards = true) :
    exec (.tcForward f) s = .next (
      let out : EthPort := if f.port = .e1 then .e2 else .e1
      ((s.emit (.ptp out (tcKindNo f.kind) (if f.kind = .sync then s.tcCorr f else f.corr) f.tag.toNat)).cnt (txOk (portIx out))).cnt
        F.TIME_TC_FWD) := by
  show execTcForward f s = _
  rw [execTcForward, if_neg (by simp [hp, hk]), if_neg (by simp [hc, hr, hk2])]

/-- Settles O16: each command by its own equation, where the clause's conditions choose its branch. -/
theorem networkTimeCommandsAct : Obligations.NetworkTimeCommandsAct := by
  unfold Obligations.NetworkTimeCommandsAct
  refine ⟨fun s v => rfl, ?enable, ?sync, fun s m h => exec_ptpSyncRx_e3 h, ?announce, ?request, ?answer,
    fun s m st hp h => exec_pdelayRespRx hp h, fun s t d hm hd ht => exec_syncTimeout hm hd ht, ?announceLost, ?holdoverEnds, ?forward⟩
  case enable =>
    intro s v hl
    exact congrArg Host.Outcome.next (State.writeReg_domcfg v hl)
  case sync =>
    intro s t d m hp hl hh hu hd hm ht
    rw [exec_ptpSyncRx hp hl hh hu hd hm, State.syncRx_eq ht]
  case announce =>
    intro s t d m hp hl hh hu hs hd ht
    subst ht
    rw [exec_ptpAnnounceRx hp hl hh hu hs hd, State.announceRx]
  case request =>
    intro s u v t hu hv h ht
    subst hu hv ht
    exact congrArg (fun w : State => Host.Outcome.next (w.pdelayReq .e2)) (State.pdelayReq_up h)
  case answer =>
    intro s m hp hu
    rw [exec_pdelayReqRx hp hu]
    rfl
  case announceLost =>
    intro s t d hm hs ht
    rw [exec_announceTimeout hm hs ht]
    rfl
  case holdoverEnds =>
    intro s t d hd ht
    rw [exec_domainHoldoverExpiry hd ht]
    rfl
  case forward =>
    intro s f o hp hk hk2 hc hr ho
    rw [ho, exec_tcForward hp hk hk2 hc hr]

end Sys2Proof.Machine
end

section
/-! PROOFS. The calendar and the backup domain: correction and trim (R224), the synchroniser (R225), the supercapacitor (R223), the alarm (R228) and
the tamper input (R226). -/

namespace Sys2Proof.Machine

variable {s t : State}

/-! ### The calendar (R224, R228) -/

theorem exec_calCorrection {d : Dom} (hr : s.rtc.running = true) (he : s.on F.RTC_CTRL_SYNC_EN = true) (hc : s.ctbState = ctbTracking)
    (ha : s.get F.TIME_STAT_SRC_ACT = domTb d)
    (ht : t = s.advance (s.ticksToTb (domTb d) (((s.dom d).ns / 1000000000 + 1) * 1000000000))) :
    exec (.calCorrection d) s = .next (if ((t.domSubs d : Int) - (t.calSubs : Int)).natAbs < 2 then t else
      if 32768 < ((t.domSubs d : Int) - (t.calSubs : Int)).natAbs then ((t.setCal (t.domSubs d)).cnt F.RTC_CORR).rtcRecord 6
      else (t.setCal (t.domSubs d)).cnt F.RTC_CORR) := by
  subst ht
  show execCalCorrection d s = _
  rw [execCalCorrection, if_pos (by simp [hr, he, hc, ha])]
  exact (apply_ite Host.Outcome.next _ _ _).symm

theorem exec_calTrim {r : Int} (hr : s.rtc.running = true) (ha : s.on F.RTC_CTRL_TRIM_AUTO = true) (hc : s.ctbState = ctbTracking)
    (hs : s.get F.TIME_STAT_SRC_ACT < 2) :
    exec (.calTrim r) s = .next (let t := s.until (s.rtc.trimAt + 1000 * sec)
      ((t.withRtc { t.rtc with trimAt := t.now }).backupNote A.RTC_TRIM).put F.RTC_TRIM (tc 16 (sat16 r))) :=
  if_pos (by simp [hr, ha, hc, hs])

theorem exec_rtcAlarm (hr : s.rtc.running = true) (he : s.on F.RTC_CTRL_ALARM_EN = true)
    (ht : t = s.advance (s.ticksToAlarm (s.get F.RTC_ALARM))) : exec .rtcAlarm s = .next (t.raise Base.RTC 0) := by
  subst ht
  exact if_pos (by simp [hr, he])

/-! ### The synchroniser (R225) -/

/-- A write enters the synchroniser where none is in flight. -/
theorem State.backupPut_free (h : s.rtc.inflight = none) (a : Nat) (v : Word) :
    s.backupPut a v = (s.withRtc { s.rtc with inflight := some (a, v) }).put F.RTC_STAT_WR_BUSY 1 :=
  if_neg (by simp [h])

/-- A register's write in flight ends in the register. -/
theorem State.backupDone_reg {a : Nat} {v : Word} (h : s.rtc.inflight = some (a, v)) (ha : a ≠ A.RTC_CMD) :
    s.backupDone = (((s.withRtc { s.rtc with inflight := none }).put F.RTC_STAT_WR_BUSY 0).backupNote a).setReg a v := by
  rw [State.backupDone, h]
  exact if_neg ha

/-- A write of RTC_CMD.SET in flight ends by loading the calendar. -/
theorem State.backupDone_set (h : s.rtc.inflight = some (A.RTC_CMD, 1#32)) :
    s.backupDone = ((s.withRtc { s.rtc with inflight := none }).put F.RTC_STAT_WR_BUSY 0).calSet := by
  rw [State.backupDone, h]
  rfl

theorem exec_calSet (h : s.rtc.inflight = none) (ht : t = (s.withRtc { s.rtc with inflight := some (A.RTC_CMD, 1#32) }).put F.RTC_STAT_WR_BUSY 1) :
    exec .calSet s = .next ((t.withRtc { t.rtc with inflight := none }).put F.RTC_STAT_WR_BUSY 0).calSet := by
  have hput : s.backupPut A.RTC_CMD 1#32 = t := ht ▸ State.backupPut_free h _ _
  have hin : t.rtc.inflight = some (A.RTC_CMD, 1#32) := by rw [ht]; rfl
  rw [← State.backupDone_set hin, ← hput]
  exact congrArg Host.Outcome.next (if_neg (by simp [h]))

/-! ### The supercapacitor (R223) -/

/-- Below 2.0 V BACKUP_LOW is set and raised once. -/
theorem State.judgeBackup_measured {mv : Nat} (h : s.rtc.vbakMv = some mv) :
    s.judgeBackup = if mv < 2000 ∧ s.on F.RTC_FAULT_STAT_BACKUP_LOW = false then (s.put F.RTC_FAULT_STAT_BACKUP_LOW 1).raise Base.RTC 2 else s := by
  have hw : s.backupWeak = decide (mv < 2000) := by rw [State.backupWeak, h]
  rw [State.judgeBackup, hw]
  exact if_congr (by simp) rfl rfl

theorem State.vbak_eq {mv : Nat} (ht : t = ((s.withRtc { s.rtc with vbakMv := some mv }).put F.RTC_STAT_VBAK (min (mv / 20) 255)).put
      F.RTC_STAT_BACKUP_OK (if 2000 ≤ mv then 1 else 0)) :
    s.vbak mv = if mv < 2000 ∧ t.on F.RTC_FAULT_STAT_BACKUP_LOW = false then (t.put F.RTC_FAULT_STAT_BACKUP_LOW 1).raise Base.RTC 2 else t := by
  have hok : b2n (decide (2000 ≤ mv)) = if 2000 ≤ mv then 1 else 0 := if_congr (by simp) rfl rfl
  have hmv : t.rtc.vbakMv = some mv := by rw [ht]; rfl
  rw [State.vbak, hok, ← ht, State.judgeBackup_measured hmv]

theorem exec_backupStop {mv : Nat} (h : mv < 1600) :
    exec (.backupStop mv) s = .next ((s.vbak mv).withRtc { (s.vbak mv).rtc with running := false, inflight := none }) :=
  congrArg Host.Outcome.next (if_pos h)

theorem exec_backupStart {mv : Nat} (hr : s.rtc.running = false) (h : 1600 ≤ mv) :
    exec (.backupStart mv) s = .next (State.tamperJudge s (s.backupStart mv)) :=
  congrArg Host.Outcome.next (if_pos (by simp [hr, h]))

/-! ### The tamper input (R226) -/

/-- In a running backup domain TAMPER_IN takes the level, and an enabled active level that did not stand before signals. -/
theorem State.tamperJudge_running {before : State} (h : s.rtc.running = true)
    (ht : t = s.put F.RTC_STAT_TAMPER_IN (b2n (s.rtc.tamperOpen ≠ s.on F.RTC_CTRL_TAMPER_POL))) :
    State.tamperJudge before s = if t.tamperOn = true ∧ before.tamperOn = false then t.tamperSignal else t := by
  subst ht
  rw [State.tamperJudge, if_neg (by simp [h])]
  exact if_congr (by simp) rfl rfl

/-- The input at its active level sets TAMPER_IN, whichever level TAMPER_POL calls active. -/
theorem State.tamperLevel_active :
    (s.tamperLevel true).put F.RTC_STAT_TAMPER_IN (b2n ((s.tamperLevel true).rtc.tamperOpen ≠ (s.tamperLevel true).on F.RTC_CTRL_TAMPER_POL)) =
      (s.withRtc { s.rtc with tamperOpen := !s.on F.RTC_CTRL_TAMPER_POL }).put F.RTC_STAT_TAMPER_IN 1 := by
  have hpol : (s.tamperLevel true).on F.RTC_CTRL_TAMPER_POL = s.on F.RTC_CTRL_TAMPER_POL := rfl
  rw [hpol, State.tamperLevel]
  cases s.on F.RTC_CTRL_TAMPER_POL <;> rfl

/-- The input at its other level clears TAMPER_IN. -/
theorem State.tamperLevel_inactive :
    (s.tamperLevel false).put F.RTC_STAT_TAMPER_IN (b2n ((s.tamperLevel false).rtc.tamperOpen ≠ (s.tamperLevel false).on F.RTC_CTRL_TAMPER_POL)) =
      (s.withRtc { s.rtc with tamperOpen := s.on F.RTC_CTRL_TAMPER_POL }).put F.RTC_STAT_TAMPER_IN 0 := by
  have hpol : (s.tamperLevel false).on F.RTC_CTRL_TAMPER_POL = s.on F.RTC_CTRL_TAMPER_POL := rfl
  rw [hpol, State.tamperLevel]
  cases s.on F.RTC_CTRL_TAMPER_POL <;> rfl

theorem State.tamperOn_of_tamperIn_clear (s : State) : (s.put F.RTC_STAT_TAMPER_IN 0).tamperOn = false := by
  rw [State.tamperOn, State.on_put_zero s (by decide), Bool.and_false]

theorem exec_tamperInput (hr : s.rtc.running = true)
    (ht : t = (s.withRtc { s.rtc with tamperOpen := !s.on F.RTC_CTRL_TAMPER_POL }).put F.RTC_STAT_TAMPER_IN 1) :
    exec .tamperInput s = .next (if t.tamperOn = true ∧ s.tamperOn = false then t.tamperSignal else t) :=
  congrArg Host.Outcome.next (State.tamperJudge_running hr (ht.trans State.tamperLevel_active.symm))

theorem exec_tamperInputRelease (hr : s.rtc.running = true) :
    exec .tamperInputRelease s =
      .next ((s.withRtc { s.rtc with tamperOpen := s.on F.RTC_CTRL_TAMPER_POL }).put F.RTC_STAT_TAMPER_IN 0) := by
  have hj : State.tamperJudge s (s.tamperLevel false) = _ := State.tamperJudge_running hr State.tamperLevel_inactive.symm
  rw [State.tamperOn_of_tamperIn_clear, if_neg (by simp)] at hj
  exact congrArg Host.Outcome.next hj

/-- Settles O17: each command by its own equation, where the clause's conditions choose its branch. -/
theorem calendarCommandsAct : Obligations.CalendarCommandsAct := by
  unfold Obligations.CalendarCommandsAct
  refine ⟨fun s t d hr he hc ha ht => exec_calCorrection hr he hc ha ht, fun s r hr ha hc hs => exec_calTrim hr ha hc hs, ?calSet, ?writeDone,
    fun s t mv ht => congrArg Host.Outcome.next (State.vbak_eq ht), fun s mv h => exec_backupStop h, ?start,
    fun s t hr he ht => exec_rtcAlarm hr he ht, ?tamper, fun s hr => exec_tamperInputRelease hr⟩
  case calSet =>
    intro s t h ht
    rw [exec_calSet h ht]
    rfl
  case writeDone =>
    intro s a v h ha
    exact congrArg (fun u => Host.Outcome.next (State.tamperJudge s u)) (State.backupDone_reg h ha)
  case start =>
    intro s t mv hr h ht
    rw [ht, exec_backupStart hr h]
    rfl
  case tamper =>
    intro s t hr ht
    rw [exec_tamperInput hr ht]
    rfl

end Sys2Proof.Machine
end

section
/-! PROOFS. Ethernet: the write that enables the ports (R231), links and SFPs (R254), received frames (R229, R232–R234), redundancy (R232, R233) and
the remote register access service (R236–R240). -/

namespace Sys2Proof.Machine

variable {s t : State}

/-! ### Enabling the ports (R231) -/

theorem fieldsAt_ethCtrl_rw : ∀ f ∈ fieldsAt 0x90008, f.kind = .rw := by decide

/-- Outside CFG_LOCK a write of ETH_CTRL takes effect. -/
theorem State.writeReg_ethCtrl (v : Word) (hl : s.on (F.cfgLock Base.ETH) = false) :
    s.writeReg .host 0x90008 v {} = (s.setReg 0x90008 (v &&& 0xF3F#32)).ethCtrlWritten (s.reg 0x90008) := by
  rw [State.writeReg_rw s .host 0x90008 v _ rfl rfl (fun _ => rfl) rfl (by decide) rfl rfl rfl (by decide) (by decide) hl rfl rfl
    (fun _ => by rw [fieldsWrite_rw fieldsAt_ethCtrl_rw, fieldsWrite_rw fieldsAt_ethCtrl_rw]), fieldsWrite_rw fieldsAt_ethCtrl_rw]
  rfl

/-- E12_EN from 0 to 1 brings E1 and E2 up; every write takes the ports that are no longer enabled dark. -/
theorem State.ethCtrlWritten_eq (old : Word) :
    t.ethCtrlWritten old = if old.toNat.testBit 0 = false ∧ t.on F.ETH_CTRL_E12_EN = true then t.e12Up.darkPorts else t.darkPorts := by
  unfold State.ethCtrlWritten
  rw [apply_ite State.darkPorts]
  exact if_congr (by simp) rfl rfl

/-! ### Links and SFPs (R254) -/

theorem exec_ethLinkChange_down (p : EthPort) (fast : Bool) :
    exec (.ethLinkChange p false fast) s = .next (s.setPortLink (portIx p) false fast) :=
  rfl

/-- A link comes up on an enabled port that holds an SFP and may run at its speed. -/
theorem exec_ethLinkChange_up {p : EthPort} {fast : Bool} (ho : s.portOn (portIx p) = true) (hp : s.on (sfpFld (portIx p)) = true)
    (hs : speedOk (if portIx p = 2 then s.get F.ETH_CTRL_E3_SPEED else s.eth.speed) fast = true) :
    exec (.ethLinkChange p true fast) s = .next (s.setPortLink (portIx p) true fast) := by
  show execEthLinkChange p true fast s = _
  rw [execEthLinkChange, if_neg (by rw [ho, hp, hs]; decide)]

theorem exec_sfpChange_same {p : EthPort} {present : Bool} {pins : SfpPins} (hp : s.on (sfpFld (portIx p)) = present)
    (hq : s.eth.sfpBad.getD (portIx p) noSfp = if present = true then pins else noSfp) : exec (.sfpChange p present pins) s = .next s :=
  if_pos (by rw [hp, hq, decide_eq_true rfl, decide_eq_true rfl, Bool.and_self])

theorem exec_sfpChange {p : EthPort} {present : Bool} {pins q : SfpPins} (hq : q = if present = true then pins else noSfp)
    (hc : s.on (sfpFld (portIx p)) ≠ present ∨ s.eth.sfpBad.getD (portIx p) noSfp ≠ q)
    (ht : t = (s.withEth { s.eth with sfpBad := setAt s.eth.sfpBad (portIx p) q }).put (sfpFld (portIx p)) (b2n present)) :
    exec (.sfpChange p present pins) s = .next (
      let u := (if (q.txFault = true ∨ q.los = true) ∧ t.portOn (portIx p) = true then t.put F.ETH_FAULT_STAT_SFP_FAULT 1 else t).raise Base.ETH 5
      if present = false ∧ u.on (linkFld (portIx p)) = true then u.setPortLink (portIx p) false false else u) := by
  have hchanged : ¬ (decide (s.on (sfpFld (portIx p)) = present) && decide (s.eth.sfpBad.getD (portIx p) noSfp = q)) = true := by
    rw [Bool.and_eq_true, decide_eq_true_eq, decide_eq_true_eq]
    tauto
  show execSfpChange p present pins s = _
  rw [execSfpChange]
  dsimp only
  rw [← hq, if_neg hchanged, ← ht]
  simp only [Bool.and_eq_true, Bool.or_eq_true, Bool.not_eq_true']

/-! ### Received frames (R213, R229, R232–R234) -/

theorem exec_ethFrameRx_bad {f : EthFrame} (hu : s.portUp (portIx f.port) = true) (hb : f.fcsOk = false ∨ f.octets < 64 ∨ 1522 < f.octets) :
    exec (.ethFrameRx f) s = .next (s.cnt (rxErr (portIx f.port))) := by
  show execEthFrameRx f s = _
  rw [execEthFrameRx, if_neg (by simp [hu]), if_pos (by simpa [or_assoc] using hb)]

/-- A whole frame goes by its kind, then by the redundancy mode of E1 and E2. -/
theorem exec_ethFrameRx {f : EthFrame} (hu : s.portUp (portIx f.port) = true) (hf : f.fcsOk = true) (hl : 64 ≤ f.octets) (hh : f.octets ≤ 1522) :
    exec (.ethFrameRx f) s = .next (if f.kind = .pause then s.cnt (rxDrop (portIx f.port))
      else if f.kind = .ptp then s.ptpFrame f
      else if portIx f.port < 2 ∧ s.eth.mode = 0 then s.prpRx f else if portIx f.port < 2 ∧ s.eth.mode = 1 then s.hsrRx f
      else if f.dst ≠ .other then s.takeIn (portIx f.port) f.kind else s) := by
  show execEthFrameRx f s = _
  rw [execEthFrameRx, if_neg (by simp [hu]), if_neg (by simp [hf, hl, hh])]
  simp only [apply_ite Host.Outcome.next, Bool.and_eq_true, decide_eq_true_eq, forUs]

/-- A PTP frame addressed to the module is counted: as discarded on E3, as received on E1 and E2. -/
theorem State.ptpFrame_eq (f : EthFrame) :
    s.ptpFrame f = (let u := if portIx f.port < 2 ∧ s.eth.mode = 0 then s.nodeHeard f.src (decide (portIx f.port = 0)) else s
      if f.dst = .other then u else if portIx f.port = 2 then u.cnt F.TIME_PTP_DROP else u.cnt (rxOk (portIx f.port))) := by
  simp only [State.ptpFrame, State.ptpDrop, forUs, Bool.and_eq_true, decide_eq_true_eq, Bool.not_eq_true', decide_eq_false_iff_not, ne_eq, not_not]

/-! ### Redundancy (R232, R233) -/

theorem exec_supervisionTimer (he : s.on F.ETH_CTRL_E12_EN = true) (hm : s.eth.mode ≠ 2) (ht : t = s.until (s.eth.lifeAt + s.lifeTicks)) :
    exec .supervisionTimer s = .next ((t.withEth { t.eth with lifeAt := t.now }).sendFrame false 4) := by
  subst ht
  exact if_pos (by simp [he, hm])

/-- A node heard on LAN A alone, still heard at the end of the interval, raises the fault. -/
theorem exec_lanFaultTimeout_silentB {m : BitVec 48} {n : PrpNode} (hm : s.eth.mode = 0)
    (hf : s.eth.nodes.find? (fun n => n.mac = m.toNat) = some n) (hr : n.raised = false) (ha : n.a.isSome = true) (hb : n.b = none)
    (ht : t = s.until (n.first + 3 * s.lifeTicks)) (hl : t.now ≤ n.last + 3 * s.lifeTicks) :
    exec (.lanFaultTimeout m) s = .next ((t.withEth { t.eth with
      nodes := { n with raised := true } :: s.eth.nodes.filter (fun x => x.mac ≠ m.toNat) }).raise Base.ETH 1) := by
  subst ht
  show execLanFaultTimeout m s = _
  simp only [execLanFaultTimeout, hf, Option.isNone_eq_false_iff.2 ha, hb, Option.isNone_none, Option.isSome_none, Bool.false_eq_true, if_false, if_true]
  rw [if_neg (by simp [hm, hr, hl])]

theorem exec_nodeForgetExpiry {m : BitVec 48} {n : PrpNode} (hf : s.eth.nodes.find? (fun n => n.mac = m.toNat) = some n)
    (ht : t = s.until (n.last + s.forgetTicks)) :
    exec (.nodeForgetExpiry m) s = .next (t.withEth { t.eth with nodes := s.eth.nodes.filter (fun x => x.mac ≠ m.toNat) }) := by
  subst ht
  show execNodeForgetExpiry m s = _
  rw [execNodeForgetExpiry, hf]

theorem State.openRing_closed (h : s.on F.ETH_STAT_RING_CLOSED = true) : s.openRing = (s.put F.ETH_STAT_RING_CLOSED 0).raise Base.ETH 2 :=
  if_pos h

theorem exec_ringOpen (h : s.on F.ETH_STAT_RING_CLOSED = true)
    (ht : t = s.until (min ((s.eth.own.getD 0 none).getD 0) ((s.eth.own.getD 1 none).getD 0) + 2 * s.lifeTicks + 1)) :
    exec .ringOpen s = .next ((t.put F.ETH_STAT_RING_CLOSED 0).raise Base.ETH 2) := by
  have hc : t.on F.ETH_STAT_RING_CLOSED = true := by
    rw [ht, State.on, State.get_until]
    exact h
  rw [← State.openRing_closed hc, ht]
  exact if_pos h

/-! ### The remote register access service (R236–R240) -/

theorem exec_rraRequest_down {p : EthPort} (h : s.portUp (portIx p) = false) (o : List Byte) : exec (.rraRequest p o) s = .next s :=
  if_pos (by simp [h])

/-- While the supervisor is down a request is dropped. -/
theorem exec_rraRequest_unserved {p : EthPort} (hu : s.portUp (portIx p) = true) (hs : s.on F.SYS_STAT_SVR_UP = false) (o : List Byte) :
    exec (.rraRequest p o) s = .next ((s.cnt F.ETH_RRA_REJ).cnt (rxDrop (portIx p))) := by
  show execRraRequest p o s = _
  rw [execRraRequest, if_neg (by simp [hu]), if_pos (by simp [hs]), State.rraRej]

/-- An interface without an address serves no request. -/
theorem exec_rraRequest_noAddress {p : EthPort} (hu : s.portUp (portIx p) = true) (hs : s.on F.SYS_STAT_SVR_UP = true)
    (ha : s.ethAddr p = 0) (o : List Byte) : exec (.rraRequest p o) s = .next (s.cnt (rxDrop (portIx p))) := by
  show execRraRequest p o s = _
  rw [execRraRequest, if_neg (by simp [hu]), if_neg (by simp [hs]), if_pos ha]

theorem exec_rraRequest_unknownStation {p : EthPort} {o : List Byte} (hu : s.portUp (portIx p) = true) (hs : s.on F.SYS_STAT_SVR_UP = true)
    (ha : s.ethAddr p ≠ 0) (hk : s.stationKey (rraParse o).station = none) :
    exec (.rraRequest p o) s = .next (((s.put F.ETH_FAULT_STAT_AUTH 1).cnt F.ETH_RRA_REJ).raise Base.ETH 3) := by
  show execRraRequest p o s = _
  rw [execRraRequest, if_neg (by simp [hu]), if_neg (by simp [hs]), if_neg ha]
  simp only [hk]

/-- A request under a known station's TAG is judged by its form and its SEQ. -/
theorem exec_rraRequest_verified {p : EthPort} {o key : List Byte} (hu : s.portUp (portIx p) = true) (hs : s.on F.SYS_STAT_SVR_UP = true)
    (ha : s.ethAddr p ≠ 0) (hk : s.stationKey (rraParse o).station = some key)
    (htag : o.drop (o.length - 16) = rraTag key (o.take (o.length - 16))) :
    exec (.rraRequest p o) s = .next (s.rraAccept p o key) := by
  show execRraRequest p o s = _
  rw [execRraRequest, if_neg (by simp [hu]), if_neg (by simp [hs]), if_neg ha]
  simp only [hk, if_pos htag]

/-- A station's first request enters the queue where it has room, and its SEQ is kept. -/
theorem State.rraAccept_first {o key : List Byte} (p : EthPort) (hok : (rraParse o).ok = true)
    (hl : KMap.get (fun _ => none) s.eth.lastSeq (rraParse o).station = none) (hq : s.eth.queue.length < 64) :
    s.rraAccept p o key = s.withEth { s.eth with
      queue := s.eth.queue ++ [⟨p, o, s.now⟩]
      lastSeq := KMap.set (fun _ => none) s.eth.lastSeq (rraParse o).station (some (rraParse o).seq)
      replies := KMap.set (fun _ => []) s.eth.replies (rraParse o).station [] } := by
  simp only [State.rraAccept, hok, Bool.not_true, Bool.false_eq_true, if_false, hl, if_true, if_neg (Nat.not_le.2 hq)]

/-- The oldest request that need not wait runs, is counted and answered, and its reply is kept. -/
theorem exec_rraExecute {q : RraReq} {rest : List RraReq} {r : State × Nat × List Byte} (hq : s.eth.queue = q :: rest)
    (hs : s.on F.SYS_STAT_SVR_UP = true) (hw : s.rraWaits (rraParse q.octets) = false)
    (hr : r = (s.withEth { s.eth with queue := rest }).rraRun q.port (rraParse q.octets)) :
    exec .rraExecute s = .next (
      let t := r.1.cnt (if r.2.1 = 0 ∨ r.2.1 = 4 ∨ r.2.1 = 5 then F.ETH_RRA_OK else F.ETH_RRA_REJ)
      let reply := rraReply ((s.stationKey (rraParse q.octets).station).getD []) q.octets r.2.1 r.2.2
      (t.withEth { t.eth with replies := KMap.set (fun _ => []) t.eth.replies (rraParse q.octets).station reply }).rraSend q.port reply) := by
  subst hr
  show execRraExecute s = _
  rw [execRraExecute, hq]
  exact if_neg (by simp [hs, hw])

/-- Settles O19: each command by its own equation, where the clause's conditions choose its branch. -/
theorem ethernetCommandsAct : Obligations.EthernetCommandsAct := by
  unfold Obligations.EthernetCommandsAct
  refine ⟨fun s v => rfl, ?enable, fun s p fast => exec_ethLinkChange_down p fast, fun s p fast ho hp hs => exec_ethLinkChange_up ho hp hs,
    fun s t p present pins q hq hc ht => exec_sfpChange hq hc ht, fun s p present pins hp hq => exec_sfpChange_same hp hq,
    fun s f hu hb => exec_ethFrameRx_bad hu hb, ?frame, fun s t he hm ht => exec_supervisionTimer he hm ht, ?lanFault,
    fun s t m n hf ht => exec_nodeForgetExpiry hf ht, fun s t h ht => exec_ringOpen h ht, fun s p o hu hs => exec_rraRequest_unserved hu hs o,
    fun s p o hu hs ha => exec_rraRequest_noAddress hu hs ha o, fun s p o hu hs ha hk => exec_rraRequest_unknownStation hu hs ha hk, ?queued,
    fun s p o h => exec_rraRequest_down h o, fun s q rest r hq hs hw hr => exec_rraExecute hq hs hw hr⟩
  case enable =>
    intro s t v hl ht
    subst ht
    exact congrArg Host.Outcome.next ((State.writeReg_ethCtrl v hl).trans (State.ethCtrlWritten_eq _))
  case frame =>
    intro s f hu hf hl hh
    rw [exec_ethFrameRx hu hf hl hh, State.ptpFrame_eq, State.takeIn]
  case lanFault =>
    intro s t m n a hm hf hr ha hb ht hl
    exact exec_lanFaultTimeout_silentB hm hf hr (Option.isSome_iff_exists.2 ⟨a, ha⟩) hb ht hl
  case queued =>
    intro s p o key hu hs ha hk htag hok hl hq
    rw [exec_rraRequest_verified hu hs ha hk htag, State.rraAccept_first p hok hl hq]

end Sys2Proof.Machine
end

section
/-! PROOFS. The CAN controllers: the write that enables one (R242), error states (R243), the transmit queue (R244–R248), reception (R250, R252) and
the time master (R251, R252). -/

namespace Sys2Proof.Machine

variable {s t : State} {n : Fin 2}

/-! ### A register of RW and WS fields (R12) -/

theorem foldl_fieldWrite_rwWs (v old ok : Word) {hw : SameCycle} (hd : hw.wsDone = 0#32) :
    ∀ (fs : List FieldSpec) (a b : Word), (∀ f ∈ fs, f.kind = .rw ∨ f.kind = .ws) →
      fs.foldl (fun x f => x ||| fieldWrite false 0 v old ok hw f) (v &&& a ||| old &&& b) =
        v &&& (fs.filter (fun f => f.kind = .rw)).foldl (fun x f => x ||| f.mask) a |||
        old &&& (fs.filter (fun f => f.kind = .ws)).foldl (fun x f => x ||| f.mask) b := by
  intro fs
  induction fs with
  | nil => exact fun _ _ _ => rfl
  | cons f fs ih =>
    intro a b h
    obtain ⟨hf, hfs⟩ := List.forall_mem_cons.1 h
    rw [List.foldl_cons]
    rcases hf with hf | hf
    · have hv : fieldWrite false 0 v old ok hw f = v &&& f.mask := by
        simp only [fieldWrite, hf, Bool.false_and, Bool.false_eq_true, if_false, aliasWord]
      rw [hv, BitVec.or_assoc, BitVec.or_comm (old &&& b), ← BitVec.or_assoc, ← BitVec.and_or_distrib_left, ih _ _ hfs]
      simp [hf]
    · have hv : fieldWrite false 0 v old ok hw f = old &&& f.mask := by
        have hkeep : ~~~ (0#32) = BitVec.allOnes 32 := rfl
        simp only [fieldWrite, hf, hd, hkeep, BitVec.and_allOnes]
      rw [hv, BitVec.or_assoc, ← BitVec.and_or_distrib_left, ih _ _ hfs]
      simp [hf]

/-- Without CFG_LOCK a write leaves the written bits of the RW fields, and the WS fields as they were. -/
theorem fieldsWrite_rwWs {fs : List FieldSpec} (h : ∀ f ∈ fs, f.kind = .rw ∨ f.kind = .ws) (v old ok : Word) {hw : SameCycle}
    (hd : hw.wsDone = 0#32) :
    fieldsWrite fs false 0 v old ok hw = v &&& (fs.filter (fun f => f.kind = .rw)).foldl (fun x f => x ||| f.mask) 0#32 |||
      old &&& (fs.filter (fun f => f.kind = .ws)).foldl (fun x f => x ||| f.mask) 0#32 := by
  rw [← foldl_fieldWrite_rwWs v old ok hd fs 0#32 0#32 h, BitVec.and_zero, BitVec.and_zero, BitVec.or_zero, fieldsWrite]

/-! ### Enabling a controller (R242) -/

theorem fieldsAt_canCtrl_rwWs (n : Fin 2) : ∀ f ∈ fieldsAt (canBase n.val + 8), f.kind = .rw ∨ f.kind = .ws := by
  fin_cases n <;> decide

/-- In CAN_CTRL every field is written but RECOVER. -/
theorem fieldsWrite_canCtrl (n : Fin 2) (v old ok : Word) {hw : SameCycle} (hd : hw.wsDone = 0#32) :
    fieldsWrite (fieldsAt (canBase n.val + 8)) false 0 v old ok hw = (v &&& 0xFB#32) ||| (old &&& 4#32) := by
  rw [fieldsWrite_rwWs (fieldsAt_canCtrl_rwWs n) v old ok hd]
  fin_cases n <;> rfl

/-- Outside CFG_LOCK a write of CAN_CTRL takes effect. -/
theorem State.writeReg_canCtrl (v : Word) (hl : s.on (F.cfgLock (canBase n.val)) = false) :
    s.writeReg .host (canBase n.val + 8) v {} =
      (s.setReg (canBase n.val + 8) ((v &&& 0xFB#32) ||| (s.reg (canBase n.val + 8) &&& 4#32))).canCtrlWritten n.val
        (s.reg (canBase n.val + 8)) v := by
  have hfields (w : Word) := fieldsWrite_canCtrl n v (s.reg (canBase n.val + 8)) 0#32 (hw := { w1cSet := w }) rfl
  rw [← hfields 0#32]
  fin_cases n <;>
    exact State.writeReg_rw s .host _ v _ rfl rfl (fun _ => rfl) rfl (by decide) rfl rfl rfl (by decide) (by decide) hl rfl rfl
      (fun w => (hfields w).trans (hfields 0#32).symm)

/-- EN from 0 to 1: good settings take the mode and set SYNCED, bad ones are dropped. -/
theorem State.canCtrlWritten_enable {old v : Word} (i : Nat) (ho : old.toNat.testBit 0 = false) (hr : v.toNat.testBit 2 = false)
    (he : t.on (F.CAN_CTRL_EN i) = true) :
    t.canCtrlWritten i old v = if t.canSettingsOk i then
        (let u := t.canLeft i
         (u.setCan i { u.canOf i with mode := bits (u.reg (canBase i + 8)).toNat 5 3 }).put (F.CAN_STAT_SYNCED i) 1)
      else ((t.put (F.CAN_CTRL_EN i) 0).put (F.CAN_FAULT_STAT_CFG_DROP i) 1).noteDrop := by
  rw [State.canCtrlWritten, if_neg (by simp [hr]), if_pos (by simp [ho, he])]

theorem State.canCtrlWritten_disable {old v : Word} (i : Nat) (ho : old.toNat.testBit 0 = true) (hr : v.toNat.testBit 2 = false)
    (he : t.on (F.CAN_CTRL_EN i) = false) : t.canCtrlWritten i old v = t.canOff i := by
  rw [State.canCtrlWritten, if_neg (by simp [hr]), if_neg (by simp [ho]), if_pos (by simp [ho, he])]

/-! ### Error states (R243) -/

theorem exec_canRecover (h : (s.put (F.CAN_CTRL_RECOVER n.val) 0).busOff n.val = true) :
    exec (.canRecover n) s = .next (let t := s.put (F.CAN_CTRL_RECOVER n.val) 0
      t.setCan n.val { t.canOf n.val with recovering := true }) :=
  congrArg Host.Outcome.next (if_pos h)

theorem exec_canRecoveryDone (hb : s.busOff n.val = true)
    (hr : (s.canOf n.val).recovering = true ∨ s.on (F.CAN_CTRL_AUTO_RECOV n.val) = true) :
    exec (.canRecoveryDone n) s =
      .next (((s.setCan n.val { s.canOf n.val with recovering := false }).put (F.CAN_STAT_SYNCED n.val) 1).canErr n.val 0 0) :=
  if_pos (by simp [hb, hr])

/-- An error met while receiving is counted; bus monitoring and restricted operation keep REC. -/
theorem exec_canBusError (e : CanRxErr) (he : s.on (F.CAN_CTRL_EN n.val) = true) (hb : s.busOff n.val = false)
    (ht : t = s.cnt (F.CAN_BUS_ERR n.val)) :
    exec (.canBusError n e) s = .next (if (t.canOf n.val).mode.testBit 0 = true ∨ (t.canOf n.val).mode.testBit 1 = true then t
      else t.canErr n.val (t.tec n.val) (t.recOf n.val + (if e = .ordinary then 1 else 8))) := by
  subst ht
  rw [apply_ite Host.Outcome.next]
  refine (if_neg (by simp [he, hb])).trans (if_congr (by rw [Bool.or_eq_true]) rfl ?_)
  cases e <;> rfl

/-! ### The transmit queue (R244, R247) -/

theorem exec_txPush_notOwner {m : Master} (v : Word) (h : s.queueOwner n.val m = false) :
    exec (.txPush n m v) s = .next (s.notOwner n.val) :=
  congrArg Host.Outcome.next (if_neg (by simp [h]))

/-- A push by the queue's owner names its entry; with bit 31 it takes the staging words, and an entry hardware owns refuses it. -/
theorem exec_txPush_owner {m : Master} {v : Word} (h : s.queueOwner n.val m = true) (hv : v.toNat.testBit 31 = true)
    (ht : t = s.put (F.CAN_TX_PUSH_ENTRY n.val) (v.toNat % 64)) :
    exec (.txPush n m v) s = .next (if t.txPend n.val (v.toNat % 64) then
        ((t.put (F.CAN_FAULT_STAT_PUSH_REF n.val) 1).cnt (F.CAN_ERR_COUNT_PUSH_REFUSED n.val)).noteDrop
      else ((t.setCan n.val ((t.canOf n.val).setEntry (v.toNat % 64) { words := t.staging n.val, pushed := t.ctb })).setTxPend n.val
        (v.toNat % 64) true).putPairBit (F.CAN_TX_DONE n.val) (v.toNat % 64) false) := by
  subst ht
  exact congrArg Host.Outcome.next ((if_pos h).trans (if_neg (by simp [hv])))

theorem exec_txCancel_owner {m : Master} (v : BitVec 64) (sof : Option Nat) (h : s.queueOwner n.val m = true) :
    exec (.txCancel n m v sof) s = .next (s.txCancel n.val v.toNat sof) :=
  congrArg Host.Outcome.next (if_pos h)

/-- Where no frame of the queue is on the bus, a cancel frees a pending entry. -/
theorem State.cancelOne_none (i e : Nat) :
    s.cancelOne i none e = if s.txPend i e = true then (s.setTxPend i e false).setCan i ((s.canOf i).setEntry e {}) else s := by
  rw [State.cancelOne, if_neg (Option.some_ne_none e).symm]
  exact (if_congr (by simp) rfl rfl).trans (ite_not _ _ _)

theorem State.txCancel_none (i v : Nat) : s.txCancel i v none = (bitIndices 64 v).foldl (fun t e => if t.txPend i e = true then
      (t.setTxPend i e false).setCan i ((t.canOf i).setEntry e {}) else t) s := by
  simp only [State.txCancel, State.cancelOne_none]

/-- While the controller sends, the entry on the bus is the one offered, unless the reference message is. -/
theorem State.txCancel_some {i sof : Nat} (v : Nat) (h : s.canSending i sof = true) :
    s.txCancel i v (some sof) = (bitIndices 64 v).foldl (fun t e => t.cancelOne i
      (if s.refOffered i sof = false then s.canOffer i sof else none) e) s := by
  simp only [State.txCancel, h, Bool.true_and, Bool.not_eq_true']

/-! ### Frames on the bus (R245, R246, R248, R251) -/

section
variable {sof e : Nat} (hs : s.canSending n.val sof = true)
include hs

theorem exec_canTxAck_ref (hr : s.refOffered n.val sof = true) :
    exec (.canTxAck n sof) s = .next ((s.refAck n.val sof).canEnded n.val) :=
  (if_neg (by simp [hs])).trans (if_pos hr)

theorem exec_canTxAck_entry (hr : s.refOffered n.val sof = false) (ho : s.canOffer n.val sof = some e) :
    exec (.canTxAck n sof) s = .next ((s.txAck n.val e sof).canEnded n.val) := by
  show execCanTxAck n sof s = _
  rw [execCanTxAck, if_neg (by simp [hs]), if_neg (by simp [hr]), ho]

theorem exec_canTxFail_ref (why : CanFail) (hr : s.refOffered n.val sof = true) :
    exec (.canTxFail n sof why) s = .next ((s.refFail n.val why).canEnded n.val) :=
  (if_neg (by simp [hs])).trans (if_pos hr)

theorem exec_canTxFail_entry (why : CanFail) (hr : s.refOffered n.val sof = false) (ho : s.canOffer n.val sof = some e) :
    exec (.canTxFail n sof why) s = .next ((s.txFail n.val e why).canEnded n.val) := by
  show execCanTxFail n sof why s = _
  rw [execCanTxFail, if_neg (by simp [hs]), if_neg (by simp [hr]), ho]

end

/-- The reference message acknowledged: cycle time runs from its start of frame, and a further cycle that began after it stays due. -/
theorem State.refAck_eq {u : State} {i sof k : Nat} {later : Option (Nat × Nat)}
    (hl : later = (s.canOf i).refNext.filter (fun p => decide (sof < p.1)))
    (hk : k = (later.map (fun p => p.2)).getD (s.get (F.CAN_TT_STAT_CYCLE i)))
    (ht : t = s.canEmit i (s.get (F.CAN_TT_REF_REF_ID i) + 2 ^ 29 * s.get (F.CAN_TT_REF_REF_IDE i))
      (clampN 1 8 (s.get (F.CAN_REF_DATA_HI_REF_DLC i))) (s.refWords i k))
    (hu : u = t.setCan i { t.canOf i with
      refDue := later.map (fun p => p.1), refNext := none, refColl := 0, cycleAt := some sof, winCount := k, missed := 0 }) :
    s.refAck i sof = u.canErr i (u.tec i - 1) (u.recOf i) := by
  subst hu ht hk hl
  unfold State.refAck
  cases (s.canOf i).refNext with
  | none => rfl
  | some p => simp only [Option.filter_some, decide_eq_true_eq]

@[simp] theorem State.get_setCan (i : Nat) (c : CanSt) (f : Fld) : (s.setCan i c).get f = s.get f := rfl

/-- Replacing what a controller keeps leaves its error counters alone. -/
theorem State.tec_setCan (i j : Nat) (c : CanSt) : (s.setCan i c).tec j = s.tec j := State.get_setCan i c _

theorem State.recOf_setCan (i j : Nat) (c : CanSt) : (s.setCan i c).recOf j = s.recOf j := State.get_setCan i c _

/-- An entry acknowledged is free, done and stamped, and is counted with its event. -/
theorem State.txAck_eq {u v : State} {i sof e : Nat}
    (ht : t = ((s.canEmit i ((s.canOf i).entry e).head (s.sentCtl i ((s.canOf i).entry e)) ((s.canOf i).entry e).sentData).tdcMeasure
      i (s.sentCtl i ((s.canOf i).entry e))).setTxPend i e false)
    (hu : u = ((((t.putPairBit (F.CAN_TX_DONE i) e true).setTxts i e sof).cnt (F.CAN_TX_OK i)).raise (canBase i) 0))
    (hv : v = u.setCan i ((u.canOf i).setEntry e { (s.canOf i).entry e with coll := 0 })) :
    s.txAck i e sof = v.canErr i (v.tec i - 1) (v.recOf i) := by
  subst hv
  rw [State.tec_setCan, State.recOf_setCan]
  subst hu ht
  rfl

theorem exec_collisionHoldExpiry {e : Fin 64} {x : CanEntry} (hx : x = (s.canOf n.val).entry e.val) (hh : x.held = true)
    (ht : t = s.until (x.heldAt + (1 + s.get F.SYS_SLOT_SLOT_ID) * 64 * s.nomBit n.val)) :
    exec (.collisionHoldExpiry n e) s = .next (t.setCan n.val ((t.canOf n.val).setEntry e.val { x with held := false, heldTo := t.ctb })) := by
  subst ht hx
  exact if_pos hh

/-! ### Received frames (R250, R252) -/

theorem exec_canRxFrame {f : CanRx} (he : s.on (F.CAN_CTRL_EN n.val) = true) (hb : s.busOff n.val = false) (hf : f.own = false) :
    exec (.canRxFrame n f) s = .next (((s.recGood n.val).refRx n.val f).rxFilter n.val f) :=
  if_neg (by simp [he, hb, hf])

/-! ### The time master (R251, R252) -/

/-- A basic cycle offers the reference message; while backed off it is only counted. -/
theorem exec_canBasicCycle (hs : s.canSends n.val = true) (he : s.on (F.CAN_TT_CFG_TT_EN n.val) = true)
    (ht : t = s.untilCtb (s.nextCycle n.val)) :
    exec (.canBasicCycle n) s = .next (if t.on (F.CAN_STAT_BACKED n.val) then
        t.setCan n.val { t.canOf n.val with lastCycle := some (s.nextCycle n.val), quiet := (t.canOf n.val).quiet + 1 }
      else t.masterCycle n.val (s.nextCycle n.val)) := by
  subst ht
  rw [apply_ite Host.Outcome.next]
  exact if_neg (by simp [hs, he])

theorem exec_canMasterResume (hs : s.canSends n.val = true) (he : s.on (F.CAN_TT_CFG_TT_EN n.val) = true)
    (hb : s.on (F.CAN_STAT_BACKED n.val) = true) (hq : 8 ≤ (s.canOf n.val).quiet)
    (ht : t = ((s.untilCtb (s.nextCycle n.val)).put (F.CAN_STAT_BACKED n.val) 0).put (F.CAN_TT_STAT_BACKED n.val) 0) :
    exec (.canMasterResume n) s = .next (((t.setCan n.val { t.canOf n.val with quiet := 0 }).masterCycle n.val
      (s.nextCycle n.val)).raise (canBase n.val) 7) := by
  subst ht
  exact if_pos (by simp [hs, he, hb, hq])

/-- The window of a pending time-triggered entry of this cycle closes unsent: the miss is noted once. -/
theorem exec_canTtMiss {e : Fin 64} (hn : s.on (F.CAN_CTRL_EN n.val) = true) (he : s.on (F.CAN_TT_CFG_TT_EN n.val) = true)
    (hp : s.txPend n.val e.val = true) (hx : ((s.canOf n.val).entry e.val).tt = true) (hc : (s.canOf n.val).cycleAt.isSome = true)
    (hw : ((s.canOf n.val).entry e.val).inCycle (s.canOf n.val).winCount = true) (hm : (s.canOf n.val).missed.testBit e.val = false)
    (ht : t = if (s.canOf n.val).refDue.isSome = true ∨ s.on (F.CAN_STAT_BACKED n.val) = true then s else s.untilCtb (s.nextCycle n.val)) :
    exec (.canTtMiss n e) s = .next ((((t.setCan n.val { s.canOf n.val with missed := setBit (s.canOf n.val).missed e.val }).cnt
      (F.CAN_TT_MISS n.val)).put (F.CAN_FAULT_STAT_TT_MISS_F n.val) 1).raise (canBase n.val) 6) := by
  subst ht
  show execCanTtMiss n e s = _
  simp only [execCanTtMiss, hn, he, hp, hx, hc, hw, hm, Bool.not_false, Bool.and_self, if_true, Bool.or_eq_true]

/-- Settles O20: each command by its own equation, where the clause's conditions choose its branch. -/
theorem canCommandsAct : Obligations.CanCommandsAct := by
  unfold Obligations.CanCommandsAct
  refine ⟨fun s n v => rfl, ?enable, ?disable, fun s t n m v h hv ht => exec_txPush_owner h hv ht, fun s n m v h => exec_txPush_notOwner v h,
    ?cancel, ?cancelSending, ?refAck, ?entryAck, fun s n sof e hs hr ho => exec_canTxFail_entry hs .arbitration hr ho, ?otherFail,
    fun s n sof why hs hr => exec_canTxFail_ref hs why hr, fun s t n e x hx hh ht => exec_collisionHoldExpiry hx hh ht,
    fun s n f he hb hf => exec_canRxFrame he hb hf, fun s n _ hb => exec_canRecover hb, fun s n hb hr => exec_canRecoveryDone hb hr,
    fun s t n e he hb ht => exec_canBusError e he hb ht, fun s t n hs he ht => exec_canBasicCycle hs he ht,
    fun s t n hs he hb hq ht => exec_canMasterResume hs he hb hq ht,
    fun s t n e hn he hp hx hc hw hm ht => exec_canTtMiss hn he hp hx hc hw hm ht⟩
  case enable =>
    intro s t n v hl ho hr ht he
    subst ht
    exact congrArg Host.Outcome.next ((State.writeReg_canCtrl v hl).trans (State.canCtrlWritten_enable n.val ho hr he))
  case disable =>
    intro s t n v hl ho hr ht he
    subst ht
    exact congrArg Host.Outcome.next ((State.writeReg_canCtrl v hl).trans (State.canCtrlWritten_disable n.val ho hr he))
  case cancel =>
    intro s n m v h
    rw [exec_txCancel_owner v none h, State.txCancel_none]
  case cancelSending =>
    intro s n m v sof h hs
    rw [exec_txCancel_owner v (some sof) h, State.txCancel_some v.toNat hs]
  case refAck =>
    intro s t u n sof k later hs hr hl hk ht hu
    rw [exec_canTxAck_ref hs hr, State.refAck_eq hl hk ht hu]
  case entryAck =>
    intro s t u n sof e hs hr ho ht hu
    rw [exec_canTxAck_entry hs hr ho, State.txAck_eq ht hu rfl]
  case otherFail =>
    intro s t n sof e hs hr ho ht
    subst ht
    exact exec_canTxFail_entry hs .other hr ho

end Sys2Proof.Machine
end

section
/-! PROOFS. Converters and their triggers (R262–R265), settling (R261), the reference (R256), calibration (R266), comparators (R268) and temperatures
(R271–R274). -/

namespace Sys2Proof.Machine

variable {s t : State} {k : Fin 8}

/-! ### Triggers and bursts (R262, R263) -/

theorem State.convTakes_eq_true {i : Nat} (he : s.bitOf F.ADC_CTRL_EN i = true) (hp : s.pairedOdd i = false) : s.convTakes i = true := by
  simp [State.convTakes, he, hp]

/-- A burst outside continuous conversion: BURST results, 0 being 256, the first sampled DLY after its trigger. -/
theorem State.startBurst_of_src_ne {i : Nat} (src at0 : Nat) (h : s.get (F.ADC_CH_TRIG_SRC i) ≠ 5) :
    s.startBurst i src at0 =
      let b := s.get (F.ADC_CH_TRIG_BURST i)
      let n := if b = 0 then 256 else b
      let t := (s.setConv8 i { s.conv8 i with
        run := some ⟨src, n, 0, s.sampleFrom i (at0 + s.get (F.ADC_CH_TRIG_DLY i) * 10), at0⟩
        bursts := ((s.conv8 i).bursts + 1) % 256 }).setBitOf F.ADC_STAT_BUSY i
      (t.startRes (A.ADC_CH_RES i)).put (F.ADC_CH_TRIG_START i) 0 := by
  simp only [State.startBurst, h, decide_false, Bool.false_or, decide_eq_true_eq, if_false]

/-- A trigger of a converter at rest starts a burst. -/
theorem State.adcTrig_idle {i : Nat} (src : Nat) (ht : s.convTakes i = true) (hc : s.calBusy i = false) (hr : (s.conv8 i).run = none) :
    s.adcTrig i src = s.startBurst i src s.now := by
  rw [State.adcTrig, if_neg (by simp [ht]), if_neg (by simp [hc]), hr]

/-- A trigger of a converter whose turn in a calibration sweep it is misses. -/
theorem State.adcTrig_calibrating {i : Nat} (src : Nat) (ht : s.convTakes i = true) (hc : s.calBusy i = true) :
    s.adcTrig i src = (s.put (F.ADC_CH_TRIG_START i) 0).trigMiss := by
  rw [State.adcTrig, if_neg (by simp [ht]), if_pos hc]

theorem exec_adcStart_continuous (h : s.get (F.ADC_CH_TRIG_SRC k.val) = 5) :
    exec (.adcStart k) s = .next (s.put (F.ADC_CH_TRIG_START k.val) 0) :=
  congrArg Host.Outcome.next (if_pos h)

/-- START outside continuous conversion is a trigger tagged 0. -/
theorem exec_adcStart (h : s.get (F.ADC_CH_TRIG_SRC k.val) ≠ 5) : exec (.adcStart k) s = .next (s.adcTrig k.val 0) :=
  congrArg Host.Outcome.next (if_neg h)

/-- The period's trigger comes at its instant. -/
theorem exec_adcTrigger_period (h : s.get (F.ADC_CH_TRIG_SRC k.val) = 1) (hr : s.running = true) (hp : s.perTicks ≠ 0) :
    exec (.adcTrigger k) s = .next ((s.untilCtb (s.periodTrig k.val)).adcTrig k.val 1) :=
  (if_pos h).trans (if_pos (by simp [hr, hp]))

/-- A compare unit, a PWM channel that gives triggers, or an edge of SYNC_IN triggers at once. -/
theorem exec_adcTrigger_source {src : Nat} (h : src = s.get (F.ADC_CH_TRIG_SRC k.val))
    (hg : (src = 2 ∧ (s.get (F.TIME_CMP_CFG_OUT (s.get (F.ADC_CH_TRIG_SEL k.val) % 8))).testBit 2 = true) ∨
      (src = 3 ∧ (s.pwmCh (s.get (F.ADC_CH_TRIG_SEL k.val))).givesTrig = true) ∨ src = 4) :
    exec (.adcTrigger k) s = .next (s.adcTrig k.val src) := by
  have h1 : src ≠ 1 := by omega
  subst h
  exact (if_neg h1).trans (if_pos hg)

theorem exec_adcTrigger_pwm_silent (h : s.get (F.ADC_CH_TRIG_SRC k.val) = 3)
    (hg : (s.pwmCh (s.get (F.ADC_CH_TRIG_SEL k.val))).givesTrig = false) : exec (.adcTrigger k) s = .next s := by
  show execAdcTrigger k s = _
  rw [execAdcTrigger, if_neg (by omega), if_neg (by simp [h, hg])]

/-! ### Results and settling (R257–R261) -/

/-- A result completes at its last sample instant, from as many raw codes as its filter takes. -/
theorem exec_adcResult {raw : List (BitVec 16)} {r : AdcRun} {o : AdcOld} (hr : (s.conv8 k.val).run = some r)
    (hk : s.convTakes k.val = true ∨ (s.conv8 k.val).old ≠ []) (ho : o = s.adcNow k.val) (hl : raw.length = o.d k.val) :
    exec (.adcResult k raw) s =
      .next ((s.until (r.next + o.step * (o.d k.val - 1))).adcStore k.val r (raw.map (fun x => x.toInt))) := by
  subst ho
  have htaken : (!s.convTakes k.val && (s.conv8 k.val).old.isEmpty) = false := by
    rcases hk with h | h <;> simp [h]
  show execAdcResult k raw s = _
  rw [execAdcResult, hr]
  exact if_neg (by simp [htaken, hl])

@[simp] theorem State.sampleFrom_until (n i x : Nat) : (s.until n).sampleFrom i x = s.sampleFrom i x := rfl

@[simp] theorem State.conv8_until (n i : Nat) : (s.until n).conv8 i = s.conv8 i := rfl

/-- From the first sample instant outside its interval on, a converter is settled. -/
theorem State.settled_until (i : Nat) : (s.until (s.sampleFrom i (s.conv8 i).unsUntil)).settled i = true := by
  have hpast : ¬(s.until (s.sampleFrom i (s.conv8 i).unsUntil)).now < s.sampleFrom i (s.conv8 i).unsUntil := by
    rw [State.until_now]
    omega
  simp [State.settled, hpast]

/-! ### The reference (R256) -/

/-- VREFX is stored with its judgement; three bad measurements in a row on the external reference end its use. -/
theorem exec_vrefxMeasure {u : State} {mv n : Nat} (ht : t = (s.until (s.adc.vrefAt + 10 * us)).put F.ADC_VREFX mv)
    (hu : u = t.put F.ADC_STAT_VREFX_OK (if t.vrefOut then 0 else 1))
    (hn : n = if u.on F.ADC_STAT_REF_ACT && u.vrefOut then u.adc.vrefBad + 1 else 0) :
    exec (.vrefxMeasure mv) s = .next (
      let v : State := { u with adc := { u.adc with vrefAt := u.now, vrefBad := n } }
      if 3 ≤ n then (((v.put F.ADC_FAULT_STAT_VREFX_BAD 1).put F.ADC_STAT_REF_ACT 0).refChange).raise Base.ADC 2 else v) := by
  have hok : (if t.vrefOut then 0 else 1) = b2n (!t.vrefOut) := by cases t.vrefOut <;> rfl
  rw [hok] at hu
  subst hn hu ht
  rfl

/-! ### Calibration (R266) -/

theorem exec_calSweep_noConverter (m : List CalMeas) (h : s.cmdIs 0x40 = true) (h0 : s.cmdArg 0 % 256 = 0) :
    exec (.calSweep m) s = .next (s.finish 2 []) :=
  (if_pos h).trans (if_pos h0)

/-- A sweep takes the turns it has results for, and ends with the last. -/
theorem exec_calSweep {m : List CalMeas} (h : s.cmdIs 0x40 = true) (h0 : s.cmdArg 0 % 256 ≠ 0) (ht : t = s.calTake m s.calLeft) :
    exec (.calSweep m) s = .next (if t.calLeft = [] then
        t.calOver.finish (if t.adc.calBad = 0 then 0 else 5) [BitVec.ofNat 32 t.adc.calOk, BitVec.ofNat 32 t.adc.calBad]
      else t) := by
  subst ht
  rw [apply_ite Host.Outcome.next]
  exact (if_pos h).trans ((if_neg h0).trans (if_congr List.isEmpty_iff rfl rfl))

theorem State.calOne_passes {x : CalMeas} (h : calOk x = true) (hl : s.tableLock = false) :
    s.calOne x = { s.calWrite x with adc := { (s.calWrite x).adc with calOk := setBit (s.calWrite x).adc.calOk x.conv.val } } :=
  if_pos (by simp [h, hl])

theorem State.calOne_fails {x : CalMeas} (h : calOk x = false ∨ s.tableLock = true) :
    s.calOne x = { s with adc := { s.adc with calBad := setBit s.adc.calBad x.conv.val } } :=
  if_neg (by rcases h with h | h <;> simp [h])

/-! ### Comparators (R268) -/

section
variable {n : Fin 12} {high : Bool} {mv : Int} {ns : Nat} (hf : cmpFilt (s.get (F.ADC_CMP_ACT_FILT n.val)) ≤ ns)
include hf

theorem exec_comparatorTrip (ho : s.sideOn n.val high = true) (hl : s.bitOf (liveFld high) n.val = false)
    (hp : s.pastThr n.val high mv = true) : exec (.comparatorTrip n high mv ns) s = .next (s.cmpTrip n.val high) :=
  if_pos (by simp [ho, hl, hp, hf])

theorem exec_comparatorRelease (hl : s.bitOf (liveFld high) n.val = true) (hi : s.insideHyst n.val high mv = true) :
    exec (.comparatorRelease n high mv ns) s = .next (s.clrBitOf (liveFld high) n.val).fenceJudge :=
  if_pos (by simp [hl, hi, hf])

end

/-! ### Temperatures (R271–R274) -/

/-- A measurement comes 1 ms after the last. -/
theorem exec_tempMeasure (l : List Int) (ht : t = s.until (s.therm.at0 + ms)) :
    exec (.tempMeasure l) s = .next ((t.withTherm { t.therm with at0 := t.now }).measure l) := by
  subst ht
  rfl

/-- Settles O21: each command by its own equation, where the clause's conditions choose its branch. -/
theorem measurementCommandsAct : Obligations.MeasurementCommandsAct := by
  unfold Obligations.MeasurementCommandsAct
  refine ⟨?start, ?startCalibrating, fun s k h => exec_adcStart_continuous h, ?trigger, fun s k h hg => exec_adcTrigger_pwm_silent h hg,
    ?period, ?result, ?settled, fun s t u mv n ht hu hn => exec_vrefxMeasure ht hu hn, fun s m h h0 => exec_calSweep_noConverter m h h0,
    fun s t m h h0 ht => exec_calSweep h h0 ht, fun s x h hl => State.calOne_passes h hl, fun s x h => State.calOne_fails h, ?trip,
    fun s n high mv ns hl hi hf => exec_comparatorRelease hf hl hi, fun s t l ht => exec_tempMeasure l ht⟩
  case start =>
    intro s k h he hp hc hr
    rw [exec_adcStart h, State.adcTrig_idle 0 (State.convTakes_eq_true he hp) hc hr, State.startBurst_of_src_ne 0 s.now h]
  case startCalibrating =>
    intro s t k h he hp hc ht
    rw [exec_adcStart h, State.adcTrig_calibrating 0 (State.convTakes_eq_true he hp) hc, ← ht, State.trigMiss]
  case trigger =>
    intro s k src h hg he hp hc hr
    rw [exec_adcTrigger_source h hg, State.adcTrig_idle src (State.convTakes_eq_true he hp) hc hr]
  case period =>
    intro s t k h hr hp ht
    rw [exec_adcTrigger_period h hr hp, ht]
  case result =>
    intro s t k raw r o hr hk ho hl ht
    rw [exec_adcResult hr hk ho hl, ht]
  case settled =>
    intro s t k _ ht
    subst ht
    exact ⟨rfl, State.settled_until k.val⟩
  case trip =>
    intro s t n high mv ns ho hl hp hf ht
    rw [exec_comparatorTrip hf ho hl hp, State.cmpTrip, ← ht]

end Sys2Proof.Machine
end

section
/-! PROOFS. The power section: feeds (R276–R278), regulator groups (R279–R283), gate-power loops (R284, R285), committed words (R286) and telemetry
(R287). -/

namespace Sys2Proof.Machine

variable {s t u : State} {g x : Fin 2}

/-! ### The 54 V bus (R281) -/

theorem exec_bus54vLow {mv : Nat} (hv : mv < 38000) :
    exec (.bus54vLow mv) s = .next ((List.range 2).foldl
      (fun u g => if u.get (F.AUX_GRP_STAT_STATE g) = grpOff then u else u.groupOff g) (s.setBus mv)) :=
  if_pos hv

theorem exec_bus54vReturn {mv : Nat} (hv : 44000 ≤ mv) :
    exec (.bus54vReturn mv) s = .next ((List.range 2).foldl
      (fun u g => if u.get (F.AUX_GRP_STAT_STATE g) = grpOff && u.on (F.AUX_GRP_CFG_EN g) then u.startSoft g else u) (s.setBus mv)) :=
  if_pos hv

/-! ### Committed words and the freeze (R286) -/

/-- What the fabric cycle's writes found: kept from its first write on, and taken afresh in a new cycle. -/
def State.undoNow (s : State) : AuxUndo :=
  (s.aux.undo.filter (fun w => decide (w.cycle = s.cycleNo))).getD
    ⟨s.cycleNo, s.aux.grpA, s.aux.grpB, s.aux.loopA, s.aux.loopB, auxRegs.map (fun r => (r, s.reg r)), []⟩

theorem State.auxNow_eq (s : State) (a : Nat) (v : Word) :
    s.auxNow a v =
      { s with aux := { s.aux with undo := some { s.undoNow with writes := s.undoNow.writes ++ [(a, v)] } } }.auxApply a v := by
  unfold State.auxNow State.undoNow
  cases s.aux.undo with
  | none => rfl
  | some w => by_cases h : w.cycle = s.cycleNo <;> simp [Option.filter, h]

/-- A committed word is held while frozen, unless it disables; else it acts, noted for a freeze that begins in its cycle. -/
theorem State.auxCommit_eq (a : Nat) (v : Word)
    (ht : t = { s with aux := { s.aux with undo := some { s.undoNow with writes := s.undoNow.writes ++ [(a, v)] } } }) :
    s.auxCommit a v = if s.frozen = true ∧ v.toNat.testBit 31 = true then
        { s with aux := { s.aux with heldWrites := s.aux.heldWrites ++ [(a, v)] } }
      else t.auxApply a v := by
  subst ht
  rw [State.auxCommit, State.auxNow_eq]
  exact if_congr (by rw [Bool.and_eq_true]) rfl rfl

theorem State.auxApply_grpCfg (g : Fin 2) (v : Word) : s.auxApply (A.AUX_GRP_CFG g.val) v = s.grpApply g.val v := by
  fin_cases g <;> rfl

theorem State.auxApply_loopCfg (x : Fin 2) (v : Word) : s.auxApply (A.AUX_LOOP_CFG x.val) v = s.loopApply x.val v := by
  fin_cases x <;> rfl

/-! ### Soft start and hiccups (R281, R291) -/

theorem exec_softStartComplete {h : Nat} (hs : s.get (F.AUX_GRP_STAT_STATE g.val) = grpSoft) (hh : h < s.ssMs g.val * ms)
    (ht : t = (s.until ((s.grp g.val).ssAt + s.rampTicks g.val + h)).charged g.val) :
    exec (.softStartComplete g h) s = .next (let u := t.put (F.AUX_GRP_STAT_STATE g.val) grpRun
      (((u.put (F.AUX_GRP_STAT_VSET g.val) (20 * t.voutMin g.val)).dropNote t g.val).loopJoin g.val).groupSenseCheck g.val) := by
  subst ht
  exact if_pos (by simp [hs, hh])

/-- A fault in soft start is SS_SHORT and a hiccup. -/
theorem State.groupFault_soft {i : Nat} (hs : s.get (F.AUX_GRP_STAT_STATE i) = grpSoft) :
    s.groupFault i = (s.put (F.AUX_GRP_FAULT_SS_SHORT i) 1).groupHiccup i := if_pos hs

/-- A fault in RUN is HICCUP and a hiccup. -/
theorem State.groupFault_run {i : Nat} (hs : s.get (F.AUX_GRP_STAT_STATE i) = grpRun) :
    s.groupFault i = (s.put (F.AUX_GRP_FAULT_HICCUP i) 1).groupHiccup i :=
  (if_neg (by simp [hs])).trans (if_pos hs)

section
variable (hs : s.get (F.AUX_GRP_STAT_STATE g.val) = grpSoft)
include hs

/-- The instant at which a soft start fails changes no state code. -/
theorem State.groupFault_until_soft (n : Nat) :
    (s.until n).groupFault g.val = ((s.until n).put (F.AUX_GRP_FAULT_SS_SHORT g.val) 1).groupHiccup g.val :=
  State.groupFault_soft (by rw [State.get_until, hs])

theorem exec_softStartFail_holds (ht : t = s.until ((s.grp g.val).ssAt + s.ssMs g.val * ms)) :
    exec (.softStartFail g .holds) s = .next ((t.put (F.AUX_GRP_FAULT_SS_SHORT g.val) 1).groupHiccup g.val) := by
  subst ht
  rw [← State.groupFault_until_soft hs]
  exact if_pos hs

theorem exec_softStartFail_short (ht : t = s.until ((s.grp g.val).ssAt + 2 * ms)) :
    exec (.softStartFail g .short) s = .next ((t.put (F.AUX_GRP_FAULT_SS_SHORT g.val) 1).groupHiccup g.val) := by
  subst ht
  rw [← State.groupFault_until_soft hs]
  exact if_pos hs

theorem exec_softStartFail_bootstrap {j : Fin 3} (hj : (s.grp g.val).chg.testBit j.val = true)
    (ht : t = s.until ((s.grp g.val).chgAt + 100 * us)) :
    exec (.softStartFail g (.bootstrap j)) s = .next ((t.put (F.AUX_GRP_FAULT_SS_SHORT g.val) 1).groupHiccup g.val) := by
  subst ht
  rw [← State.groupFault_until_soft hs]
  exact (if_pos hs).trans (congrArg Host.Outcome.next (if_pos hj))

theorem exec_softStartFail_sense (j : Fin 3) (high : Bool) :
    exec (.softStartFail g (.sense j high)) s = .next (s.senseTrip (3 * g.val + j.val) high) := if_pos hs

end

theorem exec_groupOutputFault_none (hs : s.get (F.AUX_GRP_STAT_STATE g.val) = grpRun) :
    exec (.groupOutputFault g none) s = .next ((s.put (F.AUX_GRP_FAULT_HICCUP g.val) 1).groupHiccup g.val) :=
  (if_pos hs).trans (congrArg Host.Outcome.next (State.groupFault_run hs))

theorem exec_groupOutputFault_sense (hs : s.get (F.AUX_GRP_STAT_STATE g.val) = grpRun) (j : Fin 3) (high : Bool) :
    exec (.groupOutputFault g (some (j, high))) s = .next (s.senseTrip (3 * g.val + j.val) high) := if_pos hs

/-- HIC_MS after a hiccup those older than HIC_W are forgotten, and the group starts again or latches. -/
theorem exec_hiccupExpiry (hs : s.get (F.AUX_GRP_STAT_STATE g.val) = grpHiccup)
    (ht : t = s.until ((s.grp g.val).hicAt + s.hicMs g.val * ms))
    (hu : u = t.setGrp g.val { t.grp g.val with hiccups := t.recentHiccups g.val }) :
    exec (.hiccupExpiry g) s =
      .next (if (t.recentHiccups g.val).length < u.hicN g.val then u.startSoft g.val else u.groupLatch g.val) := by
  subst hu ht
  rw [apply_ite Host.Outcome.next]
  exact if_pos hs

theorem exec_groupLatchClear (ht : t = s.put (F.AUX_GRP_FAULT_LATCH g.val) 0)
    (hl : t.get (F.AUX_GRP_STAT_STATE g.val) = grpLatched) :
    exec (.groupLatchClear g) s = .next (let u := t.setGrp g.val { t.grp g.val with hiccups := [] }
      if u.on (F.AUX_GRP_CFG_EN g.val) then u.startSoft g.val else u.groupOff g.val) := by
  subst ht
  exact congrArg Host.Outcome.next (if_pos hl)

/-! ### Turn-ons (R279, R280, R282) -/

section
variable {i c j : Nat} (hr : s.time.stopped = false) (ht : t = (s.untilCtb c).refSettle i) (ha : t.phActive i ≠ 0)
  (hd : t.dropout i = false) (hn : (t.grp i).ssAt ≤ t.now) (hj : j = nextPhase (t.phActive i) (t.grp i).turn)
include hr ht ha hd hn hj

/-- With the fabric clock present a comparator trip turns the phase in turn on, or its valley limit withholds it. -/
theorem State.turnOn_eq :
    State.turnOn i s c =
      if t.valley i j = true then (t.setGrp i { t.grp i with turn := j, withheld := true }).put (F.AUX_GRP_STAT_ILIM i) 1
      else
        let u := if bitIndices j (t.phActive i) = [] then
          t.put (F.AUX_GRP_STAT_ILIM i) (if (t.grp i).withheld = true then 1 else 0) else t
        let v := u.startPulse i j
        if t.time.stopped = true then v else v.syncJudge i (t.targetErr i j) := by
  have hi : (if s.time.stopped then s else s.untilCtb c).refSettle i = t := by rw [if_neg (by simp [hr]), ht]
  unfold State.turnOn
  rw [hi]
  subst hj
  refine (if_neg (by simp [ha, hd, hn])).trans ?_
  simp only [List.isEmpty_iff, b2n]

theorem State.turnOn_valley (hv : t.valley i j = true) :
    State.turnOn i s c = (t.setGrp i { t.grp i with turn := j, withheld := true }).put (F.AUX_GRP_STAT_ILIM i) 1 :=
  (State.turnOn_eq hr ht ha hd hn hj).trans (if_pos hv)

theorem State.turnOn_pulse (hv : t.valley i j = false) :
    State.turnOn i s c =
      let u := if bitIndices j (t.phActive i) = [] then
        t.put (F.AUX_GRP_STAT_ILIM i) (if (t.grp i).withheld = true then 1 else 0) else t
      let v := u.startPulse i j
      if t.time.stopped = true then v else v.syncJudge i (t.targetErr i j) :=
  (State.turnOn_eq hr ht ha hd hn hj).trans (if_neg (by simp [hv]))

end

theorem exec_phaseWindowEnd {w : PhaseWindow} (hs : s.get (F.AUX_GRP_STAT_STATE g.val) = grpRun) (hw : w.runThroughout = true)
    (hi : 10800 ≤ w.iout) :
    exec (.phaseWindowEnd g w) s = .next ((bitIndices 3 (s.phActive g.val)).foldl
      (State.judgePhase g.val (bitIndices 3 (s.phActive g.val)) w) s) :=
  if_pos (by simp [hs, hw, hi])

/-! ### Loops (R284, R285) -/

/-- With the clock present an update publishes ILOOP and the loop's power, and in RUN moves VSET and judges the loop's faults. -/
theorem exec_loopControlUpdate (m : LoopMeas) (ht : t = s.until ((s.loop x.val).updAt + 100 * us))
    (hr : (t.setLoop x.val { t.loop x.val with updAt := t.now }).time.stopped = false)
    (hu : u = (((t.setLoop x.val { t.loop x.val with updAt := t.now }).put (F.AUX_LOOP_STAT_ILOOP x.val) (min m.iloop 65535)).complete
      (A.AUX_TEL (14 + x.val)) (min m.iloop 65535)).complete (A.AUX_TEL (4 + 3 * x.val)) (min m.pown 65535)) :
    exec (.loopControlUpdate x m) s = .next (
      if u.get (F.AUX_LOOP_STAT_STATE x.val) = loopRun ∧ u.get (F.AUX_GRP_STAT_STATE x.val) = grpRun then
        let v := (u.stepVset x.val m).watchLoop x.val m
        if v.held (v.loop x.val).overSince ms = true then v.loopFault x.val true
        else if v.held (v.loop x.val).openSince (10 * ms) = true then v.loopFault x.val false else v
      else u) := by
  subst ht
  show execLoopControlUpdate x m s = _
  simp only [execLoopControlUpdate, hr, Bool.false_eq_true, if_false, ← hu]
  simp only [apply_ite Host.Outcome.next, Bool.and_eq_true, decide_eq_true_eq]

theorem exec_loopRetry (hs : s.get (F.AUX_LOOP_STAT_STATE x.val) = loopRetry) (ht : t = s.until ((s.loop x.val).retryAt + sec)) :
    exec (.loopRetry x) s = .next ((t.put (F.AUX_LOOP_STAT_STATE x.val) loopWait).loopJoin x.val) := by
  subst ht
  exact if_pos hs

theorem exec_loopLatchClear (ht : t = s.put (F.AUX_LOOP_FAULT_LATCH x.val) 0)
    (hl : t.get (F.AUX_LOOP_STAT_STATE x.val) = loopLatched) :
    exec (.loopLatchClear x) s = .next (if t.on (F.AUX_LOOP_CFG_EN x.val) then
        (t.put (F.AUX_LOOP_STAT_STATE x.val) loopWait).loopJoin x.val
      else (t.put (F.AUX_LOOP_STAT_STATE x.val) loopOff).groupMin x.val) := by
  subst ht
  exact congrArg Host.Outcome.next (if_pos hl)

/-! ### Telemetry (R287) -/

theorem exec_telemetryWindow {l : List TelSample} (hl : l.length = 2 ^ min 10 (s.get F.AUX_CTRL_AVG_LOG2))
    (hr : s.time.stopped = false) (ht : t = l.foldl (State.hold g.val) s) :
    exec (.telemetryWindow g l) s = .next (if t.aux.telDiscard.getD g.val false = true then
        { t with aux := { t.aux with telDiscard := setAt t.aux.telDiscard g.val false } } else t.publishTel g.val l) := by
  subst ht
  rw [apply_ite Host.Outcome.next]
  exact if_pos (by simp [hl, hr])

/-- Settles O22: each command by its own equation, where the clause's conditions choose its branch. -/
theorem powerCommandsAct : Obligations.PowerCommandsAct := by
  unfold Obligations.PowerCommandsAct
  refine ⟨?feed, ?low, ?back, ?groupCommit, ?loopCommit,
    fun s t g h hs hh ht => exec_softStartComplete hs hh ht, fun s t g hs ht => exec_softStartFail_holds hs ht,
    fun s t g hs ht => exec_softStartFail_short hs ht, fun s t g j hs hj ht => exec_softStartFail_bootstrap hs hj ht,
    fun s g j high hs => exec_softStartFail_sense hs j high, fun s g hs => exec_groupOutputFault_none hs,
    fun s g j high hs => exec_groupOutputFault_sense hs j high, fun s t u g hs ht hu => exec_hiccupExpiry hs ht hu,
    fun s t g ht hl => exec_groupLatchClear ht hl, fun s g l => rfl, ?withheld, ?turnedOn,
    fun s g w hs hw hi => exec_phaseWindowEnd hs hw hi, ?readmit, fun s t u x m ht _ hu hr => exec_loopControlUpdate m ht hr hu,
    fun s t x hs ht => exec_loopRetry hs ht, fun s t x ht hl => exec_loopLatchClear ht hl,
    fun s t g l hl hr ht => exec_telemetryWindow hl hr ht, fun s => rfl⟩
  case feed =>
    intro s t i dc v ht
    subst ht
    rw [apply_ite Host.Outcome.next, apply_ite Host.Outcome.next]
    rfl
  case low =>
    intro s t mv hv ht
    rw [exec_bus54vLow hv, ht]
  case back =>
    intro s t mv hv ht
    rw [exec_bus54vReturn hv, ht]
  case groupCommit =>
    intro s t g v u hu ht
    subst hu
    exact congrArg Host.Outcome.next (State.auxApply_grpCfg g v ▸ State.auxCommit_eq _ v ht)
  case loopCommit =>
    intro s t x v u hu ht
    subst hu
    exact congrArg Host.Outcome.next (State.auxApply_loopCfg x v ▸ State.auxCommit_eq _ v ht)
  case withheld =>
    intro s t g c j hr ht ha hd hn hj hv
    exact congrArg Host.Outcome.next (State.turnOn_valley hr ht ha hd hn hj hv)
  case turnedOn =>
    intro s t g c j hr ht ha hd hn hj hv
    exact congrArg Host.Outcome.next (State.turnOn_pulse hr ht ha hd hn hj hv)
  case readmit =>
    intro s t g o c ht
    subst ht
    rfl

end Sys2Proof.Machine
end

section
/-! PROOFS. The half-bridge drivers (R289–R292), the PWM channels (R293, R294), their trip inputs (R295–R298) and the supervisor's debug halt
(R286, R299). -/

namespace Sys2Proof.Machine

variable {s t u : State}

/-! ### Half-bridges (R289–R292) -/

section
variable {h : Fin 10}

theorem exec_gdrvXcmd (hd : s.hbDisabled h.val = false) :
    exec (.gdrvXcmd h) s =
      .next ((((s.put F.GDRV_FAULT_STAT_XCMD 1).cnt F.GDRV_XCMD_COUNT).raise Base.GDRV 2).hbLatch h.val 3) :=
  if_neg (by simp [hd])

/-- A sense-cell trip is counted with its event and reaches the owner before it latches. -/
theorem State.senseTrip_enabled {i : Nat} (hi : Bool) (hd : s.hbDisabled i = false) :
    s.senseTrip i hi = ((((s.put F.GDRV_FAULT_STAT_SC 1).cnt F.GDRV_SC_COUNT).raise Base.GDRV 0).ownerSense i).hbLatch i (if hi then 0 else 1) :=
  if_neg (by simp [hd])

theorem exec_gdrvBstUv {mv : Nat} (ht : t = s.setHb h.val { s.hbs h.val with bstMv := mv }) (hd : t.hbDisabled h.val = false)
    (hv : mv < 8000) :
    exec (.gdrvBstUv h mv) s =
      .next ((((t.put F.GDRV_FAULT_STAT_BST_UV 1).cnt F.GDRV_BST_UV_COUNT).raise Base.GDRV 1).hbLatch h.val 2) := by
  subst ht
  exact if_neg (by simp [hd, hv])

theorem exec_gdrvRefresh {n mv wait : Nat} (hu : u = s.advance wait) (ht : t = u.setHb h.val { u.hbs h.val with bstMv := mv })
    (hg : (t.gates h.val).1 = true) (hn : t.refreshN ≤ n ∨ mv < 10000) :
    exec (.gdrvRefresh h n mv wait) s =
      .next ((t.cnt F.GDRV_REFRESH_COUNT).setHb h.val { t.hbs h.val with refreshAt := some t.now }) := by
  subst ht hu
  exact if_pos (by simp [hg, hn])

/-- An input edge of a driven half-bridge releases latches; one over the other input is ignored from then on. -/
theorem exec_gdrvLatchRelease {e : GateEdge} (hi : Bool) (hd : s.hbDisabled h.val = false) (hg : s.driven h.val = true)
    (ht : t = s.hbRelease h.val e) :
    exec (.gdrvLatchRelease h hi e) s = .next (if e.oneInput then t else t.hbIgnore h.val hi) := by
  subst ht
  exact if_neg (by simp [hd, hg])

theorem exec_gdrvDisabledClear {mv : Nat} (ht : t = s.setHb h.val { s.hbs h.val with bstMv := mv })
    (hd : t.on (F.GDRV_HB_DISABLED h.val) = true) : exec (.gdrvDisabledClear h mv) s = .next (t.hbEnable h.val) := by
  subst ht
  exact if_pos hd

end

/-! ### Counting, commits and syncs (R293, R294) -/

/-- A channel that is enabled starts its counter at 0, with the pulse there. -/
theorem State.pwmStart_enable {c : Nat} (he : (s.reg (A.PWM_CH_CFG c)).toNat.testBit 31 = true) (hr : (s.pwmCh c).running = false) :
    s.pwmStart c = (s.movePwm c { s.pwmCh c with
      running := true, at0 := s.now, base := 0, cfg := s.reg (A.PWM_CH_CFG c) }).pwmZero c :=
  if_pos (by simp [he, hr])

theorem State.pwmStart_disable {c : Nat} (he : (s.reg (A.PWM_CH_CFG c)).toNat.testBit 31 = false) (hr : (s.pwmCh c).running = true) :
    s.pwmStart c = (s.pwmPulse c ((s.pwmCh c).upto s.now)).movePwm c { s.pwmCh c with running := false, cfg := s.reg (A.PWM_CH_CFG c) } :=
  (if_neg (by simp [hr])).trans (if_pos (by simp [he, hr]))

section
variable {c : Fin 16}

/-- At the cut-off of a running channel its committed shadow is copied for the reload edge. -/
theorem exec_pwmCutoff_running (hr : (s.pwmCh c.val).running = true) (hh : (s.pwmCh c.val).haltMode ≠ 2)
    (ht : t = s.until ((s.pwmCh c.val).nextCut s.now)) (hb : t.bitOf F.PWM_CTRL_COMMIT c.val = true) :
    exec (.pwmCutoff c) s = .next (((t.setPwm c.val { s.pwmCh c.val with copy := some (t.pwmShadow c.val) }).clrBitOf
      F.PWM_CTRL_COMMIT c.val).raise Base.PWM 1) := by
  subst ht
  show execPwmCutoff c s = _
  simp only [execPwmCutoff, hr, hb, hh, if_true, ne_eq, not_false_eq_true, decide_true, Bool.and_self]

/-- A channel that stands still has no reload edge: its committed shadow acts at once. -/
theorem exec_pwmCutoff_still (hr : (s.pwmCh c.val).running = false) (hh : (s.pwmCh c.val).haltMode ≠ 2)
    (hb : s.bitOf F.PWM_CTRL_COMMIT c.val = true) :
    exec (.pwmCutoff c) s = .next (((s.setPwm c.val { s.pwmCh c.val with active := s.pwmShadow c.val }).clrBitOf
      F.PWM_CTRL_COMMIT c.val).raise Base.PWM 1) := by
  show execPwmCutoff c s = _
  simp only [execPwmCutoff, hr, hb, hh, Bool.false_eq_true, if_false, if_true, ne_eq, not_false_eq_true, decide_true, Bool.and_self]

theorem exec_pwmReload (hr : (s.pwmCh c.val).running = true)
    (ht : t = (s.until ((s.pwmCh c.val).nextReload s.now)).pwmPulse c.val (s.pwmCh c.val).len) :
    exec (.pwmReload c) s = .next (t.pwmEdge c.val) := by
  subst ht
  exact if_pos hr

/-- A selected sync loads PHASE at the channel's next clock. -/
theorem exec_pwmSync {src : PwmSync} (hr : (s.pwmCh c.val).running = true) (hs : syncSelected src (s.pwmCh c.val) = true)
    (ht : t = (s.pwmPulse c.val ((s.pwmCh c.val).upto s.now)).advance (pclk - (s.now - (s.pwmCh c.val).at0) % pclk)) :
    exec (.pwmSync c src) s = .next (t.pwmLoad c.val) := by
  subst ht
  exact if_pos (by simp [hr, hs])

/-! ### Trips (R295–R298) -/

/-- A channel outside the trip state that has a cause enters it. -/
theorem State.pwmJudge_trips {i : Nat} (hc : s.pwmCause i = true) (hn : (s.pwmCh i).tripped = false) :
    s.pwmJudge i = (
      let t := s.movePwm i { s.pwmCh i with tripped := true, clearing := false, tsOnAt := (s.pwmCh i).tsOn (s.pwmCh i) s.now }
      (((((t.put (F.PWM_CH_TRIP_TRIPPED i) 1).put (F.PWM_CH_TRIP_ACTIVE i) 1).setBitOf F.PWM_STAT_ACTIVE i).put
        F.PWM_FAULT_STAT_TRIP 1).cnt F.PWM_TRIPS).raise Base.PWM 0) := by
  rw [State.pwmJudge, if_pos (by simp [hc, hn])]
  simp only [State.pwmEnterTrip, hn, Bool.false_eq_true, if_false]

/-- At a window's end every channel is judged, unless an edge has restarted the window. -/
theorem exec_pwmBlankEnd {i : Fin 8} {w : Nat} (hw : s.blankEnd i.val = some w) (ht : t = s.until w) :
    exec (.pwmBlankEnd i) s = .next (if (t.blankEnd i.val).isSome = true then t
      else (t.setTripIn i.val { t.tripInput i.val with inBlank := false }).pwmScan) := by
  subst ht
  show execPwmBlankEnd i s = _
  rw [execPwmBlankEnd, hw, apply_ite Host.Outcome.next]

/-- A change that lasts for the filter time is stored; an active input trips, and a pulse inside a blanking window is counted. -/
theorem exec_tripInputChange {i : Fin 8} {lv a : Bool} {n : Nat} (hn : 4 * s.get (F.PWM_TRIPIN_TF i.val) ≤ n)
    (ha : a = decide (lv ≠ s.on (F.PWM_TRIPIN_POL i.val))) (hx : a ≠ (s.tripInput i.val).active)
    (ht : t = (s.setTripIn i.val ⟨a, a && (s.blankEnd i.val).isSome⟩).putBitOf F.PWM_STAT_TRIP_IN i.val a) :
    exec (.tripInputChange i lv n) s = .next (if a then t.pwmScan
      else if (s.tripInput i.val).inBlank && (s.blankEnd i.val).isSome then t.cnt F.PWM_TRIP_BLANKED else t) := by
  subst ht ha
  rw [apply_ite Host.Outcome.next, apply_ite Host.Outcome.next]
  refine if_neg ?_
  rw [Bool.or_eq_true, decide_eq_true_eq, decide_eq_true_eq]
  exact not_or.2 ⟨Nat.not_lt.2 hn, hx⟩

theorem exec_pwmTripClear (ht : s.on (F.PWM_CH_TRIP_TRIPPED c.val) = true) : exec (.pwmTripClear c) s = .next (s.pwmClear c.val) :=
  if_pos ht

end

/-- Settles O23: each command by its own equation, where the clause's conditions choose its branch. -/
theorem driverAndPwmCommandsAct : Obligations.DriverAndPwmCommandsAct := by
  unfold Obligations.DriverAndPwmCommandsAct
  refine ⟨fun s h hd => exec_gdrvXcmd hd, fun s h hi hd => congrArg Host.Outcome.next (State.senseTrip_enabled hi hd),
    fun s t h mv ht hd hv => exec_gdrvBstUv ht hd hv, fun s u t h n mv wait hu ht hg hn => exec_gdrvRefresh hu ht hg hn,
    fun s t h hi e hd hg ht => exec_gdrvLatchRelease hi hd hg ht, fun s t h mv ht hd => exec_gdrvDisabledClear ht hd, ?enable, ?disable,
    fun s m => rfl, fun s t c hr hh ht hb => exec_pwmCutoff_running hr hh ht hb,
    fun s c hr hh hb => exec_pwmCutoff_still hr hh hb, fun s t c hr ht => exec_pwmReload hr ht,
    fun s t c src hr hs ht => exec_pwmSync hr hs ht, fun s c hc hn => congrArg Host.Outcome.next (State.pwmJudge_trips hc hn),
    fun s t i w hw ht => exec_pwmBlankEnd hw ht, fun s t i lv a n hn ha hx ht => exec_tripInputChange hn ha hx ht,
    fun s c ht => exec_pwmTripClear ht, fun s => rfl, fun s => rfl⟩
  case enable =>
    intro s t c ht he hr
    subst ht
    exact congrArg Host.Outcome.next (State.pwmStart_enable he hr)
  case disable =>
    intro s t c ht he hr
    subst ht
    exact congrArg Host.Outcome.next (State.pwmStart_disable he hr)

end Sys2Proof.Machine
end

section
/-! PROOFS. The safety section's judgements: safety cycles (R302, R309, R310), inputs and feedback (R304–R306), agreement (R307), broken lines (R308,
R327), restart windows (R309) and overloaded outputs (R396). -/

namespace Sys2Proof.Machine

variable {s t : State}

theorem exec_safetyCycle (good bad : Bool) (ht : t = s.until (s.safe.cycAt + 8 * us)) :
    exec (.safetyCycle good bad) s =
      .next ((((t.withSafe { t.safe with cycAt := t.now }).challenge good).fenceView bad).svJudge).judgeB := by
  subst ht
  rfl

/-! ### Inputs and feedback (R304–R306) -/

/-- Contacts that have stood for the filter time are stored and judged. -/
theorem exec_safetyInputChange {i : Fin 8} {a b : Bool} {n : Nat} (hn : s.siFilt i.val ≤ n)
    (ht : t = s.withSafe { s.safe with closedA := putBit s.safe.closedA i.val a, closedB := putBit s.safe.closedB i.val b }) :
    exec (.safetyInputChange i a b n) s = .next ((t.siNote i.val).updHealthy.fenceJudge) := by
  subst ht
  exact if_neg (Nat.not_lt.2 hn)

/-- Contacts of a used input that have disagreed for DISC_MS latch it, where it is not latched already. -/
theorem exec_siDiscrepancy {i : Fin 8} {at0 : Nat} (hd : KMap.get (fun _ => none) s.safe.discAt i.val = some at0)
    (hy : s.siType i.val ≠ 0) (hl : s.safe.discLatch.testBit i.val = false) (ht : t = s.until (at0 + s.discMs i.val * ms)) :
    exec (.siDiscrepancy i) s = .next (((((t.withSafe
      { t.safe with discLatch := setBit t.safe.discLatch i.val, discShown := clearBit t.safe.discShown i.val }).put
        F.SAFE_FAULT_STAT_SI_DISC 1).raise Base.SAFE 10).fenceJudge).trip ⟨3, 8, i.val, allOutputs⟩) := by
  subst ht
  show execSiDiscrepancy i s = _
  simp only [execSiDiscrepancy, hd]
  exact if_neg (by simp [hy, hl])

theorem exec_feedbackChange (m : Fin 8) (c : Bool) (ht : t = s.putBitOf F.SAFE_IN_FB m.val c) :
    exec (.feedbackChange m c) s = .next (if t.fbWrong m.val then t else
      t.withSafe { t.safe with fbMet := setBit t.safe.fbMet m.val, fbBad := clearBit t.safe.fbBad m.val }) := by
  subst ht
  rfl

/-- A wrong feedback trips once: at once where it had met its state, else at FB_T of its output's change. -/
theorem exec_fbMismatch {m : Fin 8} (hw : s.fbWrong m.val = true) (hb : s.safe.fbBad.testBit m.val = false)
    (ht : t = if s.safe.fbMet.testBit m.val then s else s.until (s.safe.outAt.getD (s.aget (F.SAFE_FB_SO m.val)) 0 + s.fbTime)) :
    exec (.fbMismatch m) s = .next ((((t.withSafe { t.safe with fbBad := setBit t.safe.fbBad m.val }).put
      F.SAFE_FAULT_STAT_FB_MISMATCH 1).raise Base.SAFE 9).trip ⟨3, 9, m.val, allOutputs⟩) := by
  subst ht
  exact if_neg (by simp [hw, hb])

/-! ### Agreement and broken lines (R307, R308, R327) -/

/-- Outside a restart window channels that have differed on a function for AGREE_US count once, and trip. -/
theorem exec_disagree {f : Fin 16} {at0 : Nat} (hd : KMap.get (fun _ => none) s.safe.diffAt f.val = some at0)
    (hw : s.on F.SAFE_STAT_SV_WINDOW = false) (hn : s.safe.disagreed.testBit f.val = false)
    (ht : t = (s.withSafe { s.safe with disagreed := setBit s.safe.disagreed f.val }).until
      (max at0 s.safe.agreeFrom + s.agreeUs * us)) :
    exec (.disagree f) s = .next ((((t.put F.SAFE_FAULT_STAT_DISAGREE 1).cnt F.SAFE_DISAGREE_COUNT).raise Base.SAFE 7).trip
      ⟨if t.bitOf F.SAFE_FN_LIVE_FENCE f.val then 1 else 2, 6, f.val, allOutputs⟩) := by
  subst ht
  show execDisagree f s = _
  simp only [execDisagree, hd]
  exact if_neg (by simp [hw, hn])

/-- A line not yet listed as broken is listed, recorded with its address, raised and reacted to. -/
theorem exec_brokenLine {l : LineId} (k : LineKind) (hl : s.flt.broken.any (fun b => b.1 = l) = false)
    (ht : t = State.updBroken { s with flt := { s.flt with broken := s.flt.broken ++ [(l, k)] } }) :
    exec (.brokenLine l k) s = .next ((((t.err .brokenLine (lineMaster k) 15
      (l.blk.val * 2 ^ 24 + l.inst.val * 2 ^ 16 + l.line.val)).put F.FLT_FAULT_STAT_BROKEN_LINE 1).raise Base.FLT 2).lineReact k) := by
  subst ht
  exact if_neg (by simp [hl])

theorem exec_brokenLineHeal (l : LineId)
    (ht : t = { s with flt := { s.flt with broken := s.flt.broken.filter (fun b => b.1 ≠ l) } }) :
    exec (.brokenLineHeal l) s = .next (t.put F.FLT_STAT_BROKEN_N (min t.flt.broken.length 255)).fenceJudge := by
  subst ht
  rfl

/-! ### Restart windows and overloads (R309, R396) -/

theorem exec_restartWindowLong (hw : s.on F.SAFE_STAT_SV_WINDOW = true) (ht : t = s.until (s.safe.winAt + s.restartMax)) :
    exec .restartWindowLong s = .next (t.cstop ⟨1, 0x0D, 0, 0⟩) := by
  subst ht
  exact if_pos hw

theorem exec_soOverload {o : Fin 4} (he : s.bitOf F.SAFE_OUT_ENERGISED o.val = true) (ht : t = s.advance (5 * ms)) :
    exec (.soOverload o) s = .next (t.withSafe { t.safe with soOver := setBit t.safe.soOver o.val }).driveOutputs := by
  subst ht
  exact if_pos he

/-- Settles O24: each command by its own equation, where the clause's conditions choose its branch. -/
theorem safetyJudgementsAct : Obligations.SafetyJudgementsAct := by
  unfold Obligations.SafetyJudgementsAct
  exact ⟨fun s t good bad ht => exec_safetyCycle good bad ht, fun s t i a b n hn ht => exec_safetyInputChange hn ht,
    fun s t i at0 hd hy hl ht => exec_siDiscrepancy hd hy hl ht, fun s t m c ht => exec_feedbackChange m c ht,
    fun s t m hw hb ht => exec_fbMismatch hw hb ht, fun s t f at0 hd hw hn ht => exec_disagree hd hw hn ht,
    fun s t l k hl ht => exec_brokenLine k hl ht, fun s t l ht => exec_brokenLineHeal l ht,
    fun s t hw ht => exec_restartWindowLong hw ht, fun s t o he ht => exec_soOverload he ht⟩

end Sys2Proof.Machine
end

section
/-! PROOFS. Reset requests in LOCKOUT: the table of WHY, discarded requests, acceptance and refusal (R318, R319). -/

namespace Sys2Proof.Machine

variable {s t : State} {remote sv : Bool}

/-! ### The table of WHY (R318) -/

/-- The nine rows of R318's table in the order of WHY, each as whether it holds against a request. -/
def State.whyRows (s : State) (remote svAgrees : Bool) : List Bool :=
  [s.classAActive, decide (s.reg 0x11001C &&& 0x6F80#32 ≠ 0#32), s.running,
    decide (2 ≤ s.get F.SAFE_STAT_RST_IN) || (remote && s.on F.SAFE_IN_RST_CLOSED), s.safe.testsFailed, !svAgrees,
    !(if remote = true then s.on F.SAFE_CFG_RST_REMOTE else s.on F.SAFE_CFG_RST_INPUT), s.on F.THERM_FAULT_STAT_CRIT_LATCH,
    s.on F.SAFE_STAT_SV_WINDOW]

/-- The number of the first row that holds, counted from `k`, by its first row. -/
theorem elim_findIdx?_cons (b : Bool) (l : List Bool) (k : Nat) :
    ((b :: l).findIdx? (fun b => b)).elim 0 (fun i => i + k) = if b = true then k else (l.findIdx? (fun b => b)).elim 0 (fun i => i + (k + 1)) := by
  cases b with
  | true => simp [List.findIdx?_cons]
  | false => cases h : l.findIdx? (fun b => b) <;> simp [List.findIdx?_cons, h, Nat.add_right_comm, Nat.add_assoc]

/-- WHY is the number of the lowest row that holds, and 0 where none does. -/
theorem State.resetWhy_eq_lowest (s : State) (remote sv : Bool) :
    s.resetWhy remote sv = ((s.whyRows remote sv).findIdx? (fun b => b)).elim 0 (fun k => k + 1) := by
  have hcfg : s.on (if remote = true then F.SAFE_CFG_RST_REMOTE else F.SAFE_CFG_RST_INPUT) =
      if remote = true then s.on F.SAFE_CFG_RST_REMOTE else s.on F.SAFE_CFG_RST_INPUT := apply_ite _ _ _ _
  simp only [State.resetWhy, State.whyRows, elim_findIdx?_cons, hcfg, decide_eq_true_eq]
  rfl

theorem State.resetWhy_eq_zero_iff : s.resetWhy remote sv = 0 ↔ ∀ b ∈ s.whyRows remote sv, b = false := by
  rw [State.resetWhy_eq_lowest, ← List.findIdx?_eq_none_iff (p := fun b => b)]
  cases (s.whyRows remote sv).findIdx? (fun b => b) <;> simp

theorem State.resetWhy_le_nine (s : State) (remote sv : Bool) : s.resetWhy remote sv ≤ 9 := by
  rw [State.resetWhy_eq_lowest]
  cases h : (s.whyRows remote sv).findIdx? (fun b => b) with
  | none => exact Nat.zero_le 9
  | some k => exact (List.findIdx?_eq_some_iff_findIdx_eq.1 h).1

/-! ### Judging a request (R318, R319) -/

theorem State.safeState_put_reset (s : State) : (s.put F.SAFE_RESET 0).safeState = s.safeState :=
  State.get_put_of_reg_ne _ _ (by decide)

/-- Outside LOCKOUT, and in the cycle of a judged press, a remote request only loses its REQ bit. -/
theorem State.lockReset_discarded (ht : t = s.put F.SAFE_RESET 0)
    (h : t.safeState ≠ safeLockout ∨ t.safe.reqAt = some (t.cycleNo, false)) : s.lockReset true sv = t := by
  subst ht
  exact if_pos (by simpa [State.sameRequest] using h)

/-- Any other remote request is judged by the table. -/
theorem State.lockReset_judged (ht : t = s.put F.SAFE_RESET 0) (hl : t.safeState = safeLockout)
    (hr : t.safe.reqAt ≠ some (t.cycleNo, false)) :
    s.lockReset true sv =
      let u := t.withSafe { t.safe with reqAt := some (t.cycleNo, true) }
      if t.resetWhy true sv = 0 then u.resetAccept else u.resetRefuse (t.resetWhy true sv) := by
  subst ht
  exact if_neg (by simpa [State.sameRequest] using ⟨hl, hr⟩)

/-! ### A refusal (R318) -/

theorem State.get_resetRefuse_refuse (s : State) (w : Nat) : (s.resetRefuse w).get F.SAFE_REFUSE = w % 2 ^ 8 := by
  rw [State.resetRefuse, State.get_raise_of_ne _ _ (by decide), State.get_cnt_of_reg_ne _ _ (by decide),
    State.get_put_of_reg_ne _ _ (by decide), State.get_put_self _ _ _ (by decide)]
  rfl

theorem State.on_resetRefuse_latch (s : State) (w : Nat) : (s.resetRefuse w).on F.SAFE_FAULT_STAT_RESET_REFUSED = true := by
  rw [State.on, State.resetRefuse, State.get_raise_of_ne _ _ (by decide), State.get_cnt_of_reg_ne _ _ (by decide),
    State.get_put_self _ _ _ (by decide)]
  rfl

theorem State.get_resetRefuse_count (s : State) (w : Nat) :
    (s.resetRefuse w).get F.SAFE_ERR_COUNT_RESET_REFUSED_COUNT = min (s.get F.SAFE_ERR_COUNT_RESET_REFUSED_COUNT + 1)
      (2 ^ F.SAFE_ERR_COUNT_RESET_REFUSED_COUNT.len - 1) := by
  rw [State.resetRefuse, State.get_raise_of_ne _ _ (by decide), State.get_cnt_self _ _ _ (by decide),
    State.get_put_of_reg_ne _ _ (by decide), State.get_put_of_reg_ne _ _ (by decide)]

theorem State.bitOf_resetRefuse_event (s : State) (w : Nat) : (s.resetRefuse w).bitOf (F.evtRaw Base.SAFE) 4 = true :=
  State.bitOf_raise _ _ _ (by decide)

theorem State.safeState_resetRefuse (s : State) (w : Nat) : (s.resetRefuse w).safeState = s.safeState := by
  rw [State.safeState, State.resetRefuse, State.get_raise_of_ne _ _ (by decide), State.get_cnt_of_reg_ne _ _ (by decide),
    State.get_put_of_reg_ne _ _ (by decide), State.get_put_of_reg_ne _ _ (by decide)]
  rfl

/-- Settles O48: the rows decide WHY, and WHY with the request's cycle decides its branch. -/
theorem lockoutResetIsJudgedByTheTable : Obligations.LockoutResetIsJudgedByTheTable := by
  unfold Obligations.LockoutResetIsJudgedByTheTable
  refine ⟨?outside, ?rows, State.resetWhy_le_nine, ?lowest, ?samePress, ?accepted, ?refused⟩
  case outside =>
    intro s sv hs
    exact congrArg Host.Outcome.next (State.lockReset_discarded rfl (.inl (State.safeState_put_reset s ▸ hs)))
  case rows =>
    intro s remote sv
    rw [State.resetWhy_eq_zero_iff]
    cases remote <;> simp [State.whyRows, and_assoc]
  case lowest =>
    rintro s remote sv _ rfl
    exact State.resetWhy_eq_lowest s remote sv
  case samePress =>
    intro s sv _ hr
    exact congrArg Host.Outcome.next (State.lockReset_discarded rfl (.inr hr))
  case accepted =>
    rintro s t sv hs rfl hw hr
    exact congrArg Host.Outcome.next ((State.lockReset_judged rfl (State.safeState_put_reset s ▸ hs) hr).trans (if_pos hw))
  case refused =>
    rintro s t sv w hs rfl rfl hw hr
    have hl : (s.put F.SAFE_RESET 0).safeState = safeLockout := State.safeState_put_reset s ▸ hs
    refine ⟨_, congrArg Host.Outcome.next ((State.lockReset_judged rfl hl hr).trans (if_neg hw)), ?_, State.on_resetRefuse_latch _ _, ?_,
      State.bitOf_resetRefuse_event _ _, (State.safeState_resetRefuse _ _).trans hl⟩
    · have hle := State.resetWhy_le_nine (s.put F.SAFE_RESET 0) true sv
      rw [State.get_resetRefuse_refuse, Nat.mod_eq_of_lt (by omega)]
    · rw [State.get_resetRefuse_count]
      congr 2
      exact State.get_put_of_reg_ne _ _ (by decide)

end Sys2Proof.Machine
end

section
/-! PROOFS. Controlled stops, halts and LOCKOUT (R311, R312, R381), the reset input (R317), proof tests (R321, R322) and the end of the power-up tests
(R311, R386). -/

namespace Sys2Proof.Machine

variable {s t u : State}

/-! ### Controlled stops and LOCKOUT (R311, R381) -/

/-- A stop that has yielded every stall to the partner withdraws before LOCKOUT is entered, where R381 is enabled. -/
theorem State.cstopFinish_eq (t : State) :
    t.cstopFinish =
      let w := t.on F.PAIR_CFG_EN && t.on F.PAIR_CFG_WITHDRAW_EN && t.pair.csYielded
      let v := (if w then t.withdrawNow else t).nameOutputs allOutputs
      let u := ((v.cnt F.SAFE_TRIPS).raise Base.SAFE 0).enterLockout
      if w then { u with pair := { u.pair with withdrawAt := none } } else u := by
  by_cases hw : (t.on F.PAIR_CFG_EN && t.on F.PAIR_CFG_WITHDRAW_EN && t.pair.csYielded) = true
  · simp only [State.cstopFinish, State.cstopEnd, hw, if_true]
  · simp only [State.cstopFinish, State.cstopEnd, hw, if_false, Bool.false_eq_true]

theorem exec_cstopComplete (hs : s.safeState = safeCstop) (ht : t = if s.allCoast then s else s.until
      (s.safe.cstopAt + (if s.aget F.SAFE_TIMES_CS_COAST_MS = 0 then 1 else s.aget F.SAFE_TIMES_CS_COAST_MS) * ms)) :
    exec .cstopComplete s = .next t.cstopFinish := by
  subst ht
  exact if_neg (by simp [hs])

theorem exec_lockoutLoopOff (hs : s.safeState = safeLockout) (h0 : s.aget F.SAFE_TIMES_LOOP_OFF_S ≠ 0)
    (ht : t = s.until (s.safe.lockAt + s.aget F.SAFE_TIMES_LOOP_OFF_S * sec)) :
    exec .lockoutLoopOff s = .next ((List.range 2).foldl
      (fun (u : State) x => u.auxApply (A.AUX_LOOP_CFG x) (u.reg (A.AUX_LOOP_CFG x) &&& 0x7FFFFFFF#32)) t) := by
  subst ht
  exact if_neg (by simp [hs, h0])

/-! ### The reset input (R317) -/

theorem exec_rstInChange_closes (sv : Bool) (n : Nat) (h : s.on F.SAFE_IN_RST_CLOSED = false) :
    exec (.rstInChange true sv n) s =
      .next (((s.withSafe { s.safe with rstAt := s.now }).put F.SAFE_IN_RST_CLOSED 1).put F.SAFE_STAT_RST_IN 1) :=
  if_neg (by simp [h])

/-- An input released after 50 ms and before 5 s is a request, unless it has been found held. -/
theorem exec_rstInChange_opens (sv : Bool) {n : Nat} (h : s.on F.SAFE_IN_RST_CLOSED = true) (ht : t = s.until (s.safe.rstAt + n * ms)) :
    exec (.rstInChange false sv n) s = .next (let u := (t.put F.SAFE_IN_RST_CLOSED 0).put F.SAFE_STAT_RST_IN 0
      if s.get F.SAFE_STAT_RST_IN = 1 ∧ 50 * ms ≤ t.now - t.safe.rstAt ∧ t.now - t.safe.rstAt < 5 * sec then
        u.lockReset false sv else u) := by
  subst ht
  refine (if_neg (by simp [h])).trans ?_
  simp only [Bool.and_eq_true, decide_eq_true_eq, and_assoc]

theorem exec_resetHeld (h : s.get F.SAFE_STAT_RST_IN = 1) (ht : t = s.until (s.safe.rstAt + 5 * sec)) :
    exec .resetHeld s = .next (((t.put F.SAFE_STAT_RST_IN 2).put F.SAFE_FAULT_STAT_RESET_HELD 1).raise Base.SAFE 5) := by
  subst ht
  exact if_pos h

theorem exec_resetStuck (h : s.get F.SAFE_STAT_RST_IN = 2) (ht : t = s.until (s.safe.rstAt + 60 * sec)) :
    exec .resetStuck s = .next (((t.put F.SAFE_STAT_RST_IN 3).put F.SAFE_FAULT_STAT_RESET_STUCK 1).raise Base.SAFE 6) := by
  subst ht
  exact if_pos h

/-! ### Proof tests (R321, R322) -/

/-- A test that passes is dated; one of the sweep's tests counts for the sweep, which it may end. -/
theorem State.proofPass_succ {x : SafeSt} (k : Nat)
    (hx : x = { s.safe with proofPass := setAt s.safe.proofPass k s.now, proofFailed := clearBit s.safe.proofFailed (k + 1) })
    (ht : t = s.withSafe { x with sweepLeft := clearBit (if x.sweepLeft = 0 then sweepTests else x.sweepLeft) (k + 1) }) :
    s.proofPass (k + 1) = if 5 ≤ k then s.withSafe x
      else if t.safe.sweepLeft = 0 then (t.put F.SAFE_PROOF_RUNNING 0).cnt F.SAFE_PROOF_RUNS else t.put F.SAFE_PROOF_RUNNING 1 := by
  subst ht hx
  refine if_congr Nat.succ_le_succ_iff rfl ?_
  by_cases h0 : s.safe.sweepLeft = 0
  · simp only [h0, if_true, Nat.add_sub_cancel]
  · simp only [h0, if_false, Nat.add_sub_cancel]

/-- The switch test of an output whose PULSE_EN bit is 0 cannot fail. -/
theorem exec_proofTest_passes {k : Fin 7} {bad : Option (Fin 4)}
    (h : bad = none ∨ (k.val = 3 ∧ bad.all (fun o => !(s.aget F.SAFE_PROOF_CFG_PULSE_EN).testBit o.val) = true)) :
    exec (.proofTest k bad) s = .next (s.proofPass (k.val + 1)) := by
  cases bad with
  | none => rfl
  | some o =>
    obtain ⟨hk, ho⟩ := h.resolve_left (by simp)
    exact congrArg Host.Outcome.next (if_pos (by simpa [hk] using ho))

theorem exec_proofTest_fails {k : Fin 7} {o : Fin 4} (h : k.val ≠ 3 ∨ (s.aget F.SAFE_PROOF_CFG_PULSE_EN).testBit o.val = true) :
    exec (.proofTest k (some o)) s = .next ((s.proofFail (k.val + 1)).trip ⟨3, 0x0A, 0, allOutputs⟩) :=
  congrArg Host.Outcome.next (if_neg (by
    rcases h with hk | ho
    · simp [hk]
    · simp [ho]))

theorem exec_proofOverdue (h : s.on F.SAFE_FAULT_STAT_PROOF_OVERDUE = false) (ht : t = s.until (s.oldestPass + s.ptMax + 1)) :
    exec .proofOverdue s = .next ((t.put F.SAFE_FAULT_STAT_PROOF_OVERDUE 1).raise Base.SAFE 13) := by
  subst ht
  exact if_neg (by simp [h])

/-! ### The power-up tests (R311, R321, R386) -/

theorem exec_powerUpTestsDone (pass : Bool) (hs : s.safeState = safeTest) (hr : s.rst.asserted = false) :
    exec (.powerUpTestsDone pass) s = .next (s.testsDone pass) :=
  if_pos (by simp [hs, hr])

theorem State.testsDone_failed (ht : t = ((s.put F.SAFE_STAT_SELFTEST_OK 0).put F.SAFE_STAT_FENCE_OK 0).put F.SAFE_STAT_SV_OK 0) :
    s.testsDone false = ((t.withSafe { t.safe with testsFailed := true }).proofFail 7).testLock ⟨3, 0x10, 0, allOutputs⟩ := by
  subst ht
  rfl

/-- Tests that pass date every proof test, and end in LOCKOUT by POWERUP_LOCK or an active function, else in NORMAL, where a cause kept that
still stands trips. -/
theorem State.testsDone_passed {x : State}
    (hx : x = ((s.put F.SAFE_STAT_SELFTEST_OK 1).put F.SAFE_STAT_FENCE_OK 1).put F.SAFE_STAT_SV_OK (b2n s.svAlive))
    (ht : t = x.withSafe { x.safe with testsFailed := false })
    (hu : u = t.withSafe { t.safe with proofPass := [t.now, t.now, t.now, t.now, t.now, t.now, t.now] }) :
    s.testsDone true =
      if u.aget F.SAFE_CFG_POWERUP_LOCK ≠ 0 then u.testLock ⟨3, 0x0F, 0, allOutputs⟩
      else u.lowestFn.elim (
          let y := (u.setSafe safeNormal).enforce.laneCommon
          (y.safe.testCause.filter y.causeStands).elim y y.trip)
        (fun f => u.testLock ⟨3, 1, f, u.aget (F.SAFE_FN_TRIP_SO f)⟩) := by
  have hx' : ((s.put F.SAFE_STAT_SELFTEST_OK (b2n true)).put F.SAFE_STAT_FENCE_OK (b2n true)).put F.SAFE_STAT_SV_OK
      (b2n (true && s.svAlive)) = x := hx.symm
  simp only [State.testsDone, hx', Bool.not_true, Bool.false_eq_true, if_false, ← ht, ← hu]
  refine if_congr Iff.rfl rfl ?_
  cases u.lowestFn with
  | some f => rfl
  | none =>
    dsimp only [Option.elim_none]
    cases Option.filter _ _ <;> rfl

/-- Settles O25: each command by its own equation, where the clause's conditions choose its branch. -/
theorem stopsResetsAndTestsAct : Obligations.StopsResetsAndTestsAct := by
  unfold Obligations.StopsResetsAndTestsAct
  refine ⟨?stopEnds, fun s t hs h0 ht => exec_lockoutLoopOff hs h0 ht, fun s => rfl, fun s => rfl, ?judged, ?samePress,
    fun s sv n h => exec_rstInChange_closes sv n h, fun s t sv n h ht => exec_rstInChange_opens sv h ht,
    fun s t h ht => exec_resetHeld h ht, fun s t h ht => exec_resetStuck h ht, fun s => rfl, ?passes,
    fun s k o h => exec_proofTest_fails h, fun s t h ht => exec_proofOverdue h ht, ?testsFail, ?testsPass⟩
  case stopEnds =>
    intro s t hs ht
    rw [exec_cstopComplete hs ht, State.cstopFinish_eq]
  case judged =>
    intro s t u sv ht hl hr hu
    subst hu
    exact congrArg Host.Outcome.next (State.lockReset_judged ht hl hr)
  case samePress =>
    intro s t sv ht hr
    exact congrArg Host.Outcome.next (State.lockReset_discarded ht (.inr hr))
  case passes =>
    intro s t k bad x h hx ht
    rw [exec_proofTest_passes h, State.proofPass_succ k.val hx ht]
  case testsFail =>
    intro s t hs hr ht
    rw [exec_powerUpTestsDone false hs hr, State.testsDone_failed ht]
  case testsPass =>
    intro s t x u v hs hr ht hx hu hv
    rw [exec_powerUpTestsDone true hs hr, State.testsDone_passed (ht ▸ hx) hu hv]

end Sys2Proof.Machine
end

section
/-! PROOFS. One step of the machine: the front command on the queue's rest, an idle cycle on an empty queue (log 1), and no command that
stops the machine. -/

namespace Sys2Proof.Machine

/-! ### The queue and the idle cycle -/

/-- Settles O29, by the definition of `step`. -/
theorem stepRunsFrontCommand : Obligations.StepRunsFrontCommand := fun _ _ _ => rfl

theorem step_idle {s : State} (h : s.pending = []) : step s = .next (s.advance cyc) := by
  simp only [step, h]

theorem step_command {s : State} {c : Instr} {rest : List Instr} (h : s.pending = c :: rest) :
    step s = exec c { s with pending := rest } := by
  simp only [step, h]

/-- Settles O30: time passes by one fabric cycle, which moves the clocks alone. -/
theorem idleStepPassesOneCycle : Obligations.IdleStepPassesOneCycle := by
  intro s h
  exact ⟨s.advance cyc, step_idle h, rfl, s.reg_advance cyc, fun a => by simp only [State.byte, State.mem_of_advance]⟩

/-- Settles O33: an idle cycle leaves the empty queue empty, and every command keeps the queue it is given. -/
theorem everyStepTakesOnlyTheFront : Obligations.EveryStepTakesOnlyTheFront := by
  intro s t h
  cases hq : s.pending with
  | nil =>
    rw [step_idle hq] at h
    cases h
    simp [hq]
  | cons c rest =>
    rw [step_command hq] at h
    exact (keeps_of_exec h).pending

/-! ### Every command answers a next state -/

/-- An outcome is a next state. -/
def Answers (o : Host.Outcome State Fault Refusal) : Prop := ∃ t, o = .next t

theorem Answers.next {t : State} : Answers (.next t) := ⟨t, rfl⟩

theorem Answers.ite {p : Prop} {_ : Decidable p} {x y : Host.Outcome State Fault Refusal} (hx : Answers x) (hy : Answers y) :
    Answers (if p then x else y) := by
  split
  · exact hx
  · exact hy

/-- A condition that is met by an effect of its own, else what follows it. -/
theorem Answers.elif {p : Prop} {_ : Decidable p} {t : State} {y : Host.Outcome State Fault Refusal} (hy : Answers y) :
    Answers (if p then .next t else y) := .ite .next hy

/-- Each command's outcome is a tree of conditions and choices whose every leaf is a next state. -/
theorem exec_answers (c : Instr) (s : State) : Answers (exec c s) := by
  cases c
  -- An effect that no condition of the command itself withholds.
  case registerWrite | lockWrite | guardedPrimaryWrite | guardTwinWrite | svrRestartRequest | svrWatchdogRestart | yardCheck | yardStart
      | yardStop | yardEnterRun | yardEnterStopping | yardStopComplete | stallInsertRequest | stallRemoveRequest | stallLastingClear |
      uplinkReceived | uplinkCutoff | mrspReceived | insertReadyTimeout | prechargeTimeout | removalComplete | laneEnable | lanePark |
      laneTrainComplete | laneAdapt | applyEq | laneLastingClear | laneRetryTimeout | relockTimeout | alignmentMarker | markerMissing |
      markerIntervalEnd | echoRspReceived | edgeCommit | armResetRequest | cmp | illegalOpcode | cmeOverrun | programCheck |
      armRestoreRequest | presetRequest | debugHalt | breakpointHit | debugStep | debugRelease | warmupEnd | paddockReport |
      retainExpiry | healthLog | timeSnap | align | ptpEnable | pdelayTimer | calSet | backupWrite | backupWriteDone | tamperInput |
      backupLow | backupStop | backupStart | rtcLogRead | e12Enable | canEnable | txPush | txCancel | canRecover | adcStart |
      vrefxMeasure | tempMeasure | groupEnable | groupLatchClear | syncLockChange | phaseReadmit | loopEnable | loopLatchClear | peakClr
      | gdrvSenseTrip | pwmChannelEnable | pwmCommit | pwmTrip | safetyCycle | feedbackChange | brokenLineHeal | hostHaltRequest |
      hostCstopRequest | lockoutReset | proofRun | proofTest | capClr | eoi | evtSw | imageVerify | imageStage | adcCalApply |
      ownershipApply | treeGenerated | confirm | fenceConfirmation | fpendDiscard | pairEnable | forceLead | pstatRx | poutRx |
      pairLinkLoss | digestUpdate | digestMismatch | resetInputRelease | echoReceived | blockReceived | tamperInputRelease |
      svrDebugHalt | svrDebugRelease | adcSettled | nop | endRun | wait | loop | brf | setx | ldc | lds | sts | gath | scat | mark | wra
      | mvm | vmac | vmacc | obs | accl | wb | lim | sat | preset | sel | vadd | red =>
    exact .next
  -- One condition.
  case pcieLinkUp | aerError | lanePllLock | blockLockLoss | blockLockGain | edgeCutoff | balanceDelivery | commandDeadline |
      programCheckComplete | tbWrap | ctbAutoAlign | ctbServoUpdate | announceTimeout | domainHoldoverExpiry | timeFifoPop | compareFire
      | syncInCapture | calTrim | rtcAlarm | ethLinkChange | sfpChange | supervisionTimer | ringOpen | collisionHoldExpiry | canRxFrame
      | canRecoveryDone | canTtMiss | canMasterResume | comparatorTrip | comparatorRelease | bus54vLow | bus12vLow | softStartComplete |
      phaseWindowEnd | loopRetry | gdrvXcmd | gdrvBstUv | gdrvRefresh | gdrvLatchRelease | gdrvDisabledClear | pwmCutoff | pwmReload |
      pwmSync | pwmTripClear | safetyInputChange | fbMismatch | brokenLine | restartWindowLong | cstopComplete | lockoutLoopOff |
      fabricClockLoss | rootPllRelock | resetHeld | resetStuck | proofOverdue | powerUpTestsDone | fabricProbe | msixHoldoffExpiry |
      evtLogPop | fenceParamApply | readIdentity | indexStatus | tackBadSubop | trialTimeout | powerOn | moduleResetRelease |
      resetInputAssert | bus54vReturn | soOverload | pcieConfigReady =>
    exact .elif .next
  -- Conditions judged in turn.
  case svrRestartEnd | reloadEdge | paddockEnd | pdelayReqRx | syncTimeout | tcForward | canBasicCycle | feedJudge | canBusError |
      bootNoBank =>
    exact .elif (.elif .next)
  case paddockRollback | tripInputChange =>
    exact .elif (.elif (.elif .next))
  case flashErase | flashProgram | stationErase =>
    exact .elif (.elif (.elif (.elif .next)))
  case stationSet =>
    exact .elif (.elif (.elif (.elif (.elif .next))))
  case ethFrameRx =>
    exact .elif (.elif (.elif (.elif (.elif (.elif .next)))))
  case paddockCompareHandover =>
    exact .elif (.elif (.elif (.elif (.elif (.elif (.elif .next))))))
  -- Conditions judged inside another.
  case svrRestartBegin | echoTimer | calCorrection | hiccupExpiry | telemetryWindow =>
    exact .ite (.elif .next) .next
  case yardCheckComplete | calSweep | loopControlUpdate =>
    exact .ite (.elif (.elif .next)) .next
  case adcTrigger | rstInChange =>
    exact .ite (.elif .next) (.elif .next)
  case paddockLoad =>
    exact .elif (.elif (.ite (.elif .next) (.elif .next)))
  -- One choice by what the state or an operand holds.
  case unmappedAccess | guardTimeout | resultRead | msixUnmask | periodBoundary | schedTransmit | echoLost | scheduleCompute |
      engineRamWrite | paddockRamWrite | paddockHandover | nodeForgetExpiry | rxTopPop | adcFifoPop | eventDelivery | laneTableApply |
      fenceConfirmationDone | withdraw | serviceButtonHeld | serviceButtonStuck | serviceButtonUnstick | moduleReset | groomScrub |
      pcieReset =>
    dsimp only [exec, execUnmappedAccess, execGuardTimeout, execResultRead, execMsixUnmask, execPeriodBoundary, execSchedTransmit,
      execEchoLost, execScheduleCompute, execEngineRamWrite, execPaddockRamWrite, execPaddockHandover, execNodeForgetExpiry,
      execRxTopPop, execAdcFifoPop, execEventDelivery, execLaneTableApply, execFenceConfirmationDone, execWithdraw,
      execServiceButtonHeld, execServiceButtonStuck, execServiceButtonUnstick, execModuleReset, execGroomScrub, execPcieReset]
    split <;> exact .next
  -- Choices and conditions in turn.
  case cmdNop | cmdBadOpcode | cmdComplete | cmdTimeout | fabricTimeout | waitEvent | softStartFail | groupOutputFault |
      serviceButtonChange | hostNpRequest | stallRecordWrite | adcWindowWrite | mgmtRequest | mgmtTimeout | lanFaultTimeout | rraExecute
      | adcResult | pwmBlankEnd | siDiscrepancy | disagree | paddockCompareEnd | ptpSyncRx | ptpAnnounceRx | canTxAck | canTxFail |
      pdelayRespRx | rraRequest | attestSign =>
    dsimp only [exec, execCmdNop, execCmdBadOpcode, execCmdComplete, execCmdTimeout, execFabricTimeout, execWaitEvent,
      execSoftStartFail, execGroupOutputFault, execServiceButtonChange, execHostNpRequest, execStallRecordWrite, execAdcWindowWrite,
      execMgmtRequest, execMgmtTimeout, execLanFaultTimeout, execRraExecute, execAdcResult, execPwmBlankEnd, execSiDiscrepancy,
      execDisagree, execPaddockCompareEnd, execPtpSyncRx, execPtpAnnounceRx, execCanTxAck, execCanTxFail, execPdelayRespRx,
      execRraRequest, execAttestSign]
    (repeat' split) <;> exact .next

/-- Settles O34: no leaf of any command's meaning is a fault or a refusal. -/
theorem everyCommandAnswersANextState : Obligations.EveryCommandAnswersANextState := exec_answers

end Sys2Proof.Machine
end

section
/-! PROOFS. Occurrences (R335), software events (R340) and the classes of the fault collector (R331). -/

namespace Sys2Proof.Machine

variable {s t : State}

/-! ### Bits of fields -/

theorem State.bitOf_congr {f : Fld} (h : s.reg f.reg = t.reg f.reg) (i : Nat) : s.bitOf f i = t.bitOf f i := by
  simp only [State.bitOf, State.get, h]

/-- Setting a bit leaves the field's other bits alone. -/
theorem State.bitOf_setBitOf_of_ne (s : State) {f : Fld} {i j : Nat} (hf : f.lo + f.len ≤ 32) (hi : i < f.len) (h : j ≠ i) :
    (s.setBitOf f i).bitOf f j = s.bitOf f j := by
  have hij : ¬ i = j := fun e => h e.symm
  rw [State.bitOf, s.get_setBitOf_self f i hf hi, setBit, Nat.testBit_or, Nat.one_shiftLeft, Nat.testBit_two_pow, decide_eq_false hij,
    Bool.or_false, State.bitOf]

/-! ### One occurrence (R335) -/

/-- An occurrence records itself in RAW, and is sent on its way where its EN bit is 1. -/
theorem State.raise_eq (s : State) (b k : Nat) :
    s.raise b k = if s.bitOf (F.evtEn b) k then
        (s.setBitOf (F.evtRaw b) k).pushOcc (evBase b + k) (evInst b) (s.bitOf (F.evtRouteHost b) k) (s.bitOf (F.evtRouteSv b) k)
      else s.setBitOf (F.evtRaw b) k := by
  have hraw : ∀ f : Fld, f.reg ≠ b + 0x10 → (s.setBitOf (F.evtRaw b) k).bitOf f k = s.bitOf f k :=
    fun f h => State.bitOf_congr (s.reg_setBitOf_of_ne k h) k
  simp only [State.raise, hraw (F.evtEn b) (by simp only [F.evtEn]; omega), hraw (F.evtRouteHost b) (by simp only [F.evtRouteHost]; omega),
    hraw (F.evtRouteSv b) (by simp only [F.evtRouteSv]; omega)]

theorem State.bitOf_raise_of_ne (s : State) (b : Nat) {k j : Nat} (hk : k < 16) (h : j ≠ k) :
    (s.raise b k).bitOf (F.evtRaw b) j = s.bitOf (F.evtRaw b) j :=
  (State.bitOf_congr (s.reg_raise b k _) j).trans (s.bitOf_setBitOf_of_ne (by simp [F.evtRaw]) hk h)

/-- Settles O49: RAW is set whatever EN holds, and the EN bit alone decides whether the occurrence is sent on. -/
theorem rawRecordsEveryOccurrence : Obligations.RawRecordsEveryOccurrence := by
  refine ⟨fun s b k hk => s.bitOf_raise b k hk, fun s b k j hk _ h => s.bitOf_raise_of_ne b hk h, fun s b k a h => s.reg_raise_of_ne k h,
    fun s b k h => ?_, fun s b k h => ?_⟩
  · rw [State.raise_eq, if_neg (by simp [h]), State.setBitOf_evt]
  · rw [State.raise_eq, if_pos h]
    rfl

/-! ### Software events (R340) -/

/-- The occurrence that bit `b` of EVT_SW makes. -/
def State.swOcc (s : State) (b : Nat) : Occ :=
  ⟨240 + b, 0, s.bitOf F.EVT_SW_ROUTE_HOST b, s.bitOf F.EVT_SW_ROUTE_SV b, s.now, s.ctb⟩

/-- The occurrences on their way replaced. -/
def State.withPipe (s : State) (p : List Occ) : State := { s with evt := { s.evt with pipe := p } }

/-- A write of EVT_SW changes nothing but the occurrences on their way. -/
theorem State.swEvents_eq (s : State) (v : Nat) :
    s.swEvents v = s.withPipe ((bitIndices 16 v).foldl (fun p b => Occ.insert (s.swOcc b) p) s.evt.pipe) := by
  have hfold : ∀ (l : List Nat) (p : List Occ),
      l.foldl (fun (t : State) b => t.pushOcc (240 + b) 0 (t.bitOf F.EVT_SW_ROUTE_HOST b) (t.bitOf F.EVT_SW_ROUTE_SV b)) (s.withPipe p) =
        s.withPipe (l.foldl (fun p b => Occ.insert (s.swOcc b) p) p) := by
    intro l
    induction l with
    | nil => exact fun p => rfl
    | cons b l ih => exact fun p => ih (Occ.insert (s.swOcc b) p)
  exact hfold _ s.evt.pipe

theorem Occ.mem_foldl_insert (o : Nat → Occ) (x : Occ) (l : List Nat) (p : List Occ) :
    x ∈ l.foldl (fun p b => Occ.insert (o b) p) p ↔ x ∈ p ∨ ∃ b ∈ l, x = o b := by
  induction l generalizing p with
  | nil => simp
  | cons b l ih =>
    rw [List.foldl_cons, ih, Occ.mem_insert]
    simp only [List.mem_cons, exists_eq_or_imp]
    tauto

theorem Occ.length_foldl_insert (o : Nat → Occ) (l : List Nat) (p : List Occ) :
    (l.foldl (fun p b => Occ.insert (o b) p) p).length = p.length + l.length := by
  induction l generalizing p with
  | nil => rfl
  | cons b l ih => rw [List.foldl_cons, ih, Occ.length_insert, List.length_cons]; omega

theorem mem_bitIndices {w n i : Nat} : i ∈ bitIndices w n ↔ i < w ∧ n.testBit i = true := by
  simp [bitIndices]

theorem bitIndices_two_pow : ∀ b : Fin 16, bitIndices 16 (BitVec.ofNat 16 (2 ^ b.val)).toNat = [b.val] := by decide

/-- Settles O40: the write adds the occurrence of each bit written 1 to those on their way, and no other. -/
theorem softwareEventsOccur : Obligations.SoftwareEventsOccur := by
  refine ⟨fun s b => ?_, fun s v => ⟨s.swEvents v.toNat, rfl, fun b hb => ?_, ?_⟩⟩
  · refine congrArg Host.Outcome.next ?_
    rw [State.swEvents_eq, bitIndices_two_pow]
    rfl
  · rw [State.swEvents_eq]
    exact (Occ.mem_foldl_insert s.swOcc _ _ _).mpr (.inr ⟨b.val, mem_bitIndices.mpr ⟨b.isLt, hb⟩, rfl⟩)
  · rw [State.swEvents_eq]
    exact Occ.length_foldl_insert s.swOcc _ _

/-! ### Classes of errors (R331) -/

variable {c : Nat}

theorem FLT_LASTING_reg_ne_COUNT (hc : c < 8) : F.FLT_LASTING.reg ≠ (F.FLT_COUNT c).reg := by
  simp only [F.FLT_LASTING, F.FLT_COUNT]
  omega

theorem State.bitOf_lasting_cnt (s : State) (hc : c < 8) : (s.cnt (F.FLT_COUNT c)).bitOf F.FLT_LASTING c = s.bitOf F.FLT_LASTING c :=
  State.bitOf_congr (s.reg_cnt_of_ne 1 (FLT_LASTING_reg_ne_COUNT hc)) c

/-- N and W of a class are set by software: no count changes them. -/
theorem State.class_cnt (s : State) (c : Nat) : (s.cnt (F.FLT_COUNT c)).fltN c = s.fltN c ∧ (s.cnt (F.FLT_COUNT c)).fltW c = s.fltW c := by
  have hr : A.FLT_CLASS0 + 4 * c ≠ (F.FLT_COUNT c).reg := by simp only [A.FLT_CLASS0, F.FLT_COUNT]; omega
  have hget (lo len : Nat) : (s.cnt (F.FLT_COUNT c)).get ⟨A.FLT_CLASS0 + 4 * c, lo, len⟩ = s.get ⟨A.FLT_CLASS0 + 4 * c, lo, len⟩ :=
    s.get_cnt_of_reg_ne 1 hr
  exact ⟨by rw [State.fltN, hget, State.fltN], by rw [State.fltW, hget, State.fltW]⟩

theorem State.fltCount_lasting (hc : c < 8) (h : s.bitOf F.FLT_LASTING c = true) : s.fltCount c = s.cnt (F.FLT_COUNT c) := by
  rw [State.fltCount]
  exact if_pos ((s.bitOf_lasting_cnt hc).trans h)

/-- While a class is not lasting its last 255 errors are kept, and the Nth of them, the newest counted first, is judged against W. -/
theorem State.fltCount_judged {ts : List Nat} (hc : c < 8) (h : s.bitOf F.FLT_LASTING c = false)
    (hts : ts = (s.now :: KMap.get (fun _ => []) s.flt.times c).take 255)
    (ht : t = { s.cnt (F.FLT_COUNT c) with flt := { s.flt with times := KMap.set (fun _ => []) s.flt.times c ts } }) :
    s.fltCount c = if s.fltN c ≤ ts.length ∧ s.now ≤ ts.getD (s.fltN c - 1) 0 + s.fltW c * ms then (t.setBitOf F.FLT_LASTING c).raise Base.FLT 1
      else t := by
  obtain ⟨hN, hW⟩ := s.class_cnt c
  have htN : t.fltN c = s.fltN c := ht ▸ hN
  have htW : t.fltW c = s.fltW c := ht ▸ hW
  have htnow : t.now = s.now := ht ▸ rfl
  have hj : s.fltCount c = if t.fltN c ≤ ts.length && decide (t.now ≤ ts.getD (t.fltN c - 1) 0 + t.fltW c * ms) then
      (t.setBitOf F.FLT_LASTING c).raise Base.FLT 1 else t := by
    subst ht hts
    rw [State.fltCount]
    exact if_neg (by rw [s.bitOf_lasting_cnt hc, h]; exact Bool.false_ne_true)
  rw [hj, htN, htW, htnow]
  simp only [Bool.and_eq_true, decide_eq_true_eq]

/-- A class found lasting has its bit set; else the bit is as it was. -/
theorem State.bitOf_fltCount {ts : List Nat} (hc : c < 8) (h : s.bitOf F.FLT_LASTING c = false)
    (hts : ts = (s.now :: KMap.get (fun _ => []) s.flt.times c).take 255) :
    (s.fltCount c).bitOf F.FLT_LASTING c = true ↔ s.fltN c ≤ ts.length ∧ s.now ≤ ts.getD (s.fltN c - 1) 0 + s.fltW c * ms := by
  rw [State.fltCount_judged hc h hts rfl]
  split
  case isTrue hj =>
    refine iff_of_true ?_ hj
    rw [State.bitOf_congr (State.reg_raise_of_ne _ 1 (by decide)) c]
    exact State.bitOf_setBitOf_self _ _ _ (by decide) hc
  case isFalse hj =>
    refine iff_of_false ?_ hj
    have hbit := (s.bitOf_lasting_cnt hc).trans h
    exact (Bool.not_eq_true _).mpr hbit

/-- Judging a class leaves its counter alone. -/
theorem State.get_count_fltCount (s : State) (hc : c < 8) :
    (s.fltCount c).get (F.FLT_COUNT c) = (s.cnt (F.FLT_COUNT c)).get (F.FLT_COUNT c) := by
  cases h : s.bitOf F.FLT_LASTING c with
  | true => rw [State.fltCount_lasting hc h]
  | false =>
    rw [State.fltCount_judged hc h rfl rfl]
    split
    · have hraw : (F.FLT_COUNT c).reg ≠ Base.FLT + 0x10 := by simp only [F.FLT_COUNT, Base.FLT]; omega
      rw [State.get_raise_of_ne _ 1 hraw, State.setBitOf, State.get_put_of_reg_ne _ _ (FLT_LASTING_reg_ne_COUNT hc).symm]
      rfl
    · rfl

/-- Settles O50: a class that is lasting is only counted, one that is not is also judged. -/
theorem errorClassesBecomeLasting : Obligations.ErrorClassesBecomeLasting := by
  refine ⟨fun s c hc => ?_, fun s c hc h hN => ?_, fun s c ts hc h hts => State.bitOf_fltCount hc h hts,
    fun s t c ts hc h hts ht => State.fltCount_judged hc h hts ht, fun s c hc h => State.fltCount_lasting hc h⟩
  · rw [s.get_count_fltCount hc, s.get_cnt_self _ 1 (by simp [F.FLT_COUNT])]
    rfl
  · refine (State.bitOf_fltCount hc h rfl).mpr ?_
    rw [hN]
    exact ⟨by simp, Nat.le_add_right _ _⟩

end Sys2Proof.Machine
end

section
/-! PROOFS. What the partner reads from a PSTAT frame (R369): every field lies in its own bits of the frame's blocks. -/

namespace Sys2Proof.Machine

/-! ### Blocks of a sealed frame -/

theorem length_sealFrame (body : List Nat) (hi : Nat) : (sealFrame body hi).length = body.length + 1 := by
  simp [sealFrame]

/-- A block before the CRC block holds the number it was built from, cut to 64 bits. -/
theorem blk_sealFrame {body : List Nat} (hi : Nat) {i : Nat} (h : i < body.length) : blk (sealFrame body hi) i = body[i] % 2 ^ 64 := by
  simp [blk, sealFrame, List.getD_eq_getElem?_getD, List.getElem?_append_left, h]

/-! ### Fields packed into one block -/

/-- The control block of PSTAT: 16 bits of type and sequence, then each field above the one before it. -/
theorem pstatControl_fields {q k sf y w l m r ch ct : Nat} (hq : q < 2 ^ 8) (hk : k < 2 ^ 32) (hs : sf < 2 ^ 4) (hy : y < 2 ^ 2) (hw : w < 2)
    (hl : l < 2) (hm : m < 2) (hr : r < 2) (hh : ch < 2) (ht : ct < 2) {c : Nat}
    (hc : c = 0xA5 + 2 ^ 8 * q + 2 ^ 16 * k + 2 ^ 48 * sf + 2 ^ 52 * y + 2 ^ 54 * w + 2 ^ 55 * l + 2 ^ 56 * m + 2 ^ 57 * r + 2 ^ 58 * ch +
      2 ^ 59 * ct) :
    c < 2 ^ 64 ∧ bits c 47 16 = k ∧ bits c 51 48 = sf ∧ bits c 53 52 = y ∧ bits c 56 56 = m ∧ c.testBit 54 = decide (w = 1) ∧
      c.testBit 55 = decide (l = 1) ∧ c.testBit 57 = decide (r = 1) ∧ c.testBit 58 = decide (ch = 1) ∧ c.testBit 59 = decide (ct = 1) := by
  simp only [bits, Nat.shiftRight_eq_div_pow, Nat.testBit_eq_decide_div_mod_eq, decide_eq_decide]
  norm_num at *
  refine ⟨?_, ?_, ?_, ?_, ?_, ?_, ?_, ?_, ?_, ?_⟩ <;> omega

/-- Departure, FIT, followers and sort size. -/
theorem pstatCounts_fields {d f n l : Nat} (hd : d < 2 ^ 24) (hf : f < 2 ^ 6) (hn : n < 2 ^ 8) (hl : l < 2 ^ 8) {c : Nat}
    (hc : c = d + 2 ^ 24 * f + 2 ^ 32 * n + 2 ^ 40 * l) :
    c < 2 ^ 64 ∧ bits c 23 0 = d ∧ bits c 29 24 = f ∧ bits c 39 32 = n ∧ bits c 47 40 = l := by
  simp only [bits, Nat.shiftRight_eq_div_pow]
  norm_num at *
  omega

/-- Two dwords of a block. -/
theorem dwords_fields {x y c : Nat} (hx : x < 2 ^ 32) (hy : y < 2 ^ 32) (hc : c = x + 2 ^ 32 * y) :
    c < 2 ^ 64 ∧ bits c 31 0 = x ∧ bits c 63 32 = y := by
  simp only [bits, Nat.shiftRight_eq_div_pow]
  norm_num at *
  omega

theorem decide_b2n (b : Bool) : decide (b2n b = 1) = b := by cases b <;> rfl

theorem State.length_sortList_lt (s : State) : s.sortList.length < 2 ^ 8 :=
  lt_of_le_of_lt (List.length_filter_le _ _) (by simp [stalls])

/-- A flag of one bit is 1 where it is on. -/
theorem State.decide_get_eq_one (s : State) {f : Fld} (h : f.len = 1) : decide (s.get f = 1) = s.on f := by
  have hlt := s.get_lt f
  rw [h] at hlt
  simp only [State.on]
  exact decide_eq_decide.mpr (by omega)

/-- Settles O42: block by block, each field of the frame is read from the bits it was put into. -/
theorem pstatRoundTrips : Obligations.PstatRoundTrips := by
  intro s dly n htk hdly
  refine ⟨framesCarryTheirCrc.1 _ 0 (by norm_num), length_sealFrame _ 0, ?_⟩
  unfold State.pstatFrame
  extract_lets c counts serials digests
  obtain ⟨hc, hperiod, hsafe, hyard, hmember, hwarm, hlead, hrel, hch, hctb⟩ := pstatControl_fields (c := c)
    (Nat.mod_lt s.pair.pseq (by norm_num)) (Nat.mod_lt s.periodK (by norm_num)) (Nat.mod_lt s.safeState (by norm_num))
    (Nat.mod_lt s.yardState (by norm_num)) (b2n_lt s.warmup) (b2n_lt s.lead) (s.get_lt F.PAIR_STAT_MEMBER)
    (s.get_lt F.PAIR_CTRL_RELINQUISH) (b2n_lt (s.on F.SAFE_STAT_FENCE_OK && s.on F.SAFE_STAT_SV_OK)) (b2n_lt s.ctbOk) rfl
  obtain ⟨hcounts, hdep, hfit, hfollow, hsort⟩ := pstatCounts_fields (c := counts) (Nat.mod_lt dly (by norm_num))
    (s.get_lt F.PAIR_STAT_FIT) (s.get_lt F.PAIR_FOLLOW_SELF) s.length_sortList_lt rfl
  obtain ⟨hserials, hserial, hdigYard⟩ := dwords_fields (c := serials) (s.reg A.SYS_SERIAL).isLt (s.reg A.PAIR_DIG_YARD).isLt rfl
  obtain ⟨hdigests, hdigProg, hdigSet⟩ := dwords_fields (c := digests) (s.reg A.PAIR_DIG_PROG).isLt (s.reg A.PAIR_DIG_SET).isLt rfl
  have hblk {i : Nat} (hi : i < 5) (hlt : [c, s.yard.tk, counts, serials, digests][i] < 2 ^ 64) :
      blk (sealFrame [c, s.yard.tk, counts, serials, digests] 0) i = [c, s.yard.tk, counts, serials, digests][i] :=
    (blk_sealFrame 0 hi).trans (Nat.mod_eq_of_lt hlt)
  simp only [readPstat, hblk (i := 0) (by decide) hc, hblk (i := 1) (by decide) htk, hblk (i := 2) (by decide) hcounts,
    hblk (i := 3) (by decide) hserials, hblk (i := 4) (by decide) hdigests]
  simp only [List.getElem_cons_zero, List.getElem_cons_succ, hperiod, hsafe, hyard, hmember, hwarm, hlead, hrel, hch, hctb, hdep, hfit,
    hfollow, hsort, hserial, hdigYard, hdigProg, hdigSet, decide_b2n, s.decide_get_eq_one (f := F.PAIR_CTRL_RELINQUISH) rfl,
    Nat.mod_eq_of_lt hdly]
  rfl

end Sys2Proof.Machine
end

section
/-! PROOFS. The module pair: its state machine (R371), received PSTAT and POUT frames (R369, R370), digests (R372) and withdrawal (R381);
the fault collector's record (R329, R330), its probe (R332) and fabric errors (R328). -/

namespace Sys2Proof.Machine

variable {s t v : State}

theorem State.on_put_of_disjoint (s : State) {f g : Fld} (x : Nat) (h : g.lo + g.len ≤ 32) (hd : g.lo + g.len ≤ f.lo ∨ f.lo + f.len ≤ g.lo) :
    (s.put f x).on g = s.on g := by
  rw [State.on, s.get_put_of_disjoint x h hd, State.on]

theorem State.on_put_of_reg_ne (s : State) {f g : Fld} (x : Nat) (h : g.reg ≠ f.reg) : (s.put f x).on g = s.on g := by
  rw [State.on, s.get_put_of_reg_ne x h, State.on]

theorem State.on_raise_of_ne (s : State) {b : Nat} {g : Fld} (k : Nat) (h : g.reg ≠ b + 0x10) : (s.raise b k).on g = s.on g := by
  rw [State.on, s.get_raise_of_ne k h, State.on]

/-! ### The state machine of the pair (R371) -/

theorem exec_forceLead : exec .forceLead s = .next (s.put F.PAIR_CFG_FORCE_LEAD 1).mirrorCheck := by
  have hen : (s.put F.PAIR_CFG_FORCE_LEAD 1).on F.PAIR_CFG_EN = s.on F.PAIR_CFG_EN := s.on_put_of_disjoint 1 (by decide) (by decide)
  exact congrArg (fun x : State => Host.Outcome.next x.mirrorCheck) (if_neg (by rw [hen, Bool.and_not_self]; exact Bool.false_ne_true))

theorem State.pairState_setPairState (s : State) {x : Nat} (hx : x < 4) : (s.setPairState x).pairState = x := by
  unfold State.setPairState
  split
  case isTrue h => exact h
  case isFalse =>
    rw [State.pairState, State.get_raise_of_ne _ 0 (by decide), s.get_put_self _ _ (by decide)]
    exact Nat.mod_eq_of_lt hx

theorem State.lead_setLead (s : State) (b : Bool) : (s.setLead b).lead = b := by
  unfold State.setLead
  split
  case isTrue h => exact h
  case isFalse =>
    rw [State.lead, State.on_raise_of_ne _ 1 (by decide), State.on, s.get_put_self _ _ (by decide)]
    cases b <;> rfl

/-- A change of LEAD leaves every field alone that is neither LEAD nor in RAW. -/
theorem State.get_setLead (s : State) (b : Bool) {g : Fld} (hg : g.lo + g.len ≤ 32)
    (hd : g.lo + g.len ≤ F.PAIR_STAT_LEAD.lo ∨ F.PAIR_STAT_LEAD.lo + F.PAIR_STAT_LEAD.len ≤ g.lo) (hr : g.reg ≠ Base.PAIR + 0x10) :
    (s.setLead b).get g = s.get g := by
  unfold State.setLead
  split
  · rfl
  · rw [State.get_raise_of_ne _ 1 hr, s.get_put_of_disjoint _ hg hd]

theorem State.pairState_setLead (s : State) (b : Bool) : (s.setLead b).pairState = s.pairState :=
  s.get_setLead b (by decide) (by decide) (by decide)

theorem State.on_forceLead_setLead (s : State) (b : Bool) : (s.setLead b).on F.PAIR_CFG_FORCE_LEAD = s.on F.PAIR_CFG_FORCE_LEAD := by
  rw [State.on, s.get_setLead b (by decide) (by decide) (by decide), State.on]

theorem State.on_forceLead_setPairState (s : State) (x : Nat) :
    (s.setPairState x).on F.PAIR_CFG_FORCE_LEAD = s.on F.PAIR_CFG_FORCE_LEAD := by
  unfold State.setPairState
  split
  · rfl
  · rw [State.on_raise_of_ne _ 0 (by decide), s.on_put_of_reg_ne x (by decide)]

/-- The row of EN at a reload edge. -/
def State.pairEnRow (s : State) : State :=
  if s.on F.PAIR_CFG_EN && s.pairState = prDisabled then (s.setPairState prSearching).setLead (s.member = 0)
  else if !s.on F.PAIR_CFG_EN && s.pairState ≠ prDisabled then (s.setLead true).setPairState prDisabled
  else s

/-- The row of FORCE_LEAD at a reload edge. -/
def State.pairForceRow (s : State) : State :=
  if s.on F.PAIR_CFG_FORCE_LEAD then (s.put F.PAIR_CFG_FORCE_LEAD 0).setLead true else s

theorem State.pairEnter_eq (s : State) : s.pairEnter = s.pairEnRow.pairForceRow := rfl

theorem State.pairState_pairForceRow (s : State) : s.pairForceRow.pairState = s.pairState := by
  unfold State.pairForceRow
  split
  · rw [State.pairState_setLead, State.pairState, s.get_put_of_reg_ne 0 (by decide), State.pairState]
  · rfl

theorem State.on_forceLead_pairEnRow (s : State) : s.pairEnRow.on F.PAIR_CFG_FORCE_LEAD = s.on F.PAIR_CFG_FORCE_LEAD := by
  unfold State.pairEnRow
  split
  · rw [State.on_forceLead_setLead, State.on_forceLead_setPairState]
  · split
    · rw [State.on_forceLead_setPairState, State.on_forceLead_setLead]
    · rfl

theorem State.pairEnter_searches (he : s.on F.PAIR_CFG_EN = true) (hs : s.pairState = prDisabled) :
    s.pairEnter.pairState = prSearching := by
  rw [State.pairEnter_eq, State.pairState_pairForceRow, State.pairEnRow, if_pos (by simp [he, hs]), State.pairState_setLead]
  exact s.pairState_setPairState (by decide)

theorem State.pairEnter_disables (he : s.on F.PAIR_CFG_EN = false) : s.pairEnter.pairState = prDisabled := by
  rw [State.pairEnter_eq, State.pairState_pairForceRow, State.pairEnRow, if_neg (by simp [he])]
  split
  case isTrue => exact State.pairState_setPairState _ (by decide)
  case isFalse h => simpa [he] using h

/-- FORCE_LEAD returns to 0 as it is taken. -/
theorem State.pairEnter_forced (hf : s.on F.PAIR_CFG_FORCE_LEAD = true) :
    s.pairEnter.on F.PAIR_CFG_FORCE_LEAD = false ∧ s.pairEnter.lead = true := by
  rw [State.pairEnter_eq, State.pairForceRow, if_pos (s.on_forceLead_pairEnRow.trans hf)]
  exact ⟨(State.on_forceLead_setLead _ true).trans (State.on_put_zero _ (by decide)), State.lead_setLead _ true⟩

theorem exec_pairLinkLoss (hs : s.pairState = prLinked) (hm : max (s.get F.PAIR_CFG_LOSS_PER) 4 ≤ s.pair.rxMiss) :
    exec .pairLinkLoss s = .next (((s.put F.PAIR_FAULT_STAT_LOST 1).raise Base.PAIR 4).setPairState prLost) :=
  congrArg Host.Outcome.next (if_pos (by simpa [hs, State.lossPer] using hm))

theorem exec_digestUpdate {d : Fin 3} {a x : Nat} (ha : digAddr d.val = a)
    (hx : (if d.val = 0 then s.digYard else if d.val = 1 then s.digProg else s.digSet) = x) :
    exec (.digestUpdate d) s = .next (s.setReg a (BitVec.ofNat 32 x)) := by
  subst ha hx
  rfl

theorem exec_digestMismatch {d : Fin 3} (hs : s.pairState = prLinked) (hr : 16 ≤ s.pair.digRun.getD d.val 0) (hd : s.digDiffers d.val = true) :
    exec (.digestMismatch d) s = .next ((s.setBitOf F.PAIR_FAULT_STAT_DIGEST_MISMATCH d.val).raise Base.PAIR 5) :=
  congrArg Host.Outcome.next (if_pos (by simpa [hs, hd] using hr))

theorem exec_withdraw {at0 : Nat} (h : s.pair.withdrawAt = some at0) : exec .withdraw s = .next (s.until (at0 + 50 * us)).withdrawNow := by
  simp only [exec, execWithdraw, h]

/-! ### Received frames (R369, R370) -/

/-- A frame whose control block names how many data blocks follow is received whole. -/
theorem State.rxBlocks_whole (s : State) {n k ty : Nat} {f : List (BitVec 64)} (ht : blk f 0 % 256 = ty) (hlen : f.length = k + 1) (hk : k ≠ 0)
    (hd : dataBlocks n (blk f 0) = k) (hknown : knownType n ty = true) (h96 : ty ≠ 0x96) (h3c : ty ≠ 0x3C) :
    s.rxBlocks n f = (s.setRx n []).frameIn n f := by
  subst ht
  cases f with
  | nil => simp at hlen
  | cons c ds =>
    have hds : ds.length = k := by simpa using hlen
    exact s.rxBlocks_frame n c ds (by rintro rfl; exact hk hds.symm) (hds.trans hd.symm) hknown h96 h3c

theorem knownType_pair {n ty : Nat} (hn : 48 ≤ n) (h : ty = 0xA5 ∨ ty = 0xB4) : knownType n ty = true := by
  rcases h with rfl | rfl
  · simp [knownType, hn]
  · simp [knownType, hn]

theorem exec_pstatRx {p : Fin 2} {f : List (BitVec 64)} (hl : s.laneState (48 + p.val) ≠ lnParked) (hlen : f.length = 6)
    (ht : blk f 0 % 256 = 0xA5) (hv : v = s.setRx (48 + p.val) []) : exec (.pstatRx p f) s = .next (v.pstatIn (48 + p.val) f) := by
  have hn : 48 ≤ 48 + p.val := Nat.le_add_right _ _
  have hd : dataBlocks (48 + p.val) (blk f 0) = 5 := by simp [dataBlocks, ht]
  have hin : v.frameIn (48 + p.val) f = v.pstatIn (48 + p.val) f := by simp [State.frameIn, ht]
  refine congrArg Host.Outcome.next ((if_neg hl).trans ?_)
  rw [s.rxBlocks_whole ht hlen (by decide) hd (knownType_pair hn (.inl rfl)) (by decide) (by decide), ← hv, hin]

theorem exec_poutRx {p : Fin 2} {f : List (BitVec 64)} {nw : Nat} (hl : s.laneState (48 + p.val) ≠ lnParked) (ht : blk f 0 % 256 = 0xB4)
    (hw : nw = bits (blk f 0) 55 48) (hlen : f.length = (nw + 3) / 4 + 2) (hv : v = s.setRx (48 + p.val) []) :
    exec (.poutRx p f) s = .next (v.poutIn (48 + p.val) f) := by
  have hn : 48 ≤ 48 + p.val := Nat.le_add_right _ _
  have hd : dataBlocks (48 + p.val) (blk f 0) = (nw + 3) / 4 + 1 := by simp [dataBlocks, ht, hw]
  have hin : v.frameIn (48 + p.val) f = v.poutIn (48 + p.val) f := by simp [State.frameIn, ht]
  refine congrArg Host.Outcome.next ((if_neg hl).trans ?_)
  rw [s.rxBlocks_whole ht hlen (by omega) hd (knownType_pair hn (.inr rfl)) (by decide) (by decide), ← hv, hin]

theorem State.pstatIn_badCrc {n : Nat} {f : List (BitVec 64)} (hf : frameOk f = false) : s.pstatIn n f = s.cnt (F.LANE_CRC_ERR n) :=
  if_pos (by simp [hf])

/-- The second copy of a frame is discarded. -/
theorem State.pstatIn_again {n : Nat} {f : List (BitVec 64)} (hf : frameOk f = true) (hq : s.pair.lastSeq = some (blk f 0 % 2 ^ 48)) :
    s.pstatIn n f = s :=
  (if_neg (by simp [hf])).trans (if_pos (by simp [hq]))

theorem State.pstatIn_first {n : Nat} {f : List (BitVec 64)} (hf : frameOk f = true) (he : s.on F.PAIR_CFG_EN = true)
    (hq : s.pair.lastSeq ≠ some (blk f 0 % 2 ^ 48)) :
    s.pstatIn n f = (s.withPair { s.pair with lastSeq := some (blk f 0 % 2 ^ 48) }).pstatTake (readPstat f n) :=
  (if_neg (by simp [hf])).trans (if_neg (by simpa [he] using hq))

/-- A good POUT frame of 1 to 128 words, while EN is 1, is kept where no copy of its part is. -/
theorem State.poutIn_good {n nw j q : Nat} {f : List (BitVec 64)} (hf : frameOk f = true) (he : s.on F.PAIR_CFG_EN = true)
    (hw : nw = bits (blk f 0) 55 48) (h1 : 1 ≤ nw) (h128 : nw ≤ 128) (hj : j = bits (blk f 0) 39 8) (hq : q = bits (blk f 0) 47 40)
    {words : List Nat} (hwords : words = (List.range nw).map (fun i => bits (blk f (1 + i / 4)) (16 * (i % 4) + 15) (16 * (i % 4)))) :
    s.poutIn n f = if s.pair.parts.any (fun x => x.period = j && x.part = q) then s
      else s.withPair { s.pair with parts := ⟨j, q, words⟩ :: s.pair.parts.filter (fun x => s.recent x.period 9) } := by
  subst hw hj hq hwords
  have h0 : bits (blk f 0) 55 48 ≠ 0 := by omega
  exact (if_neg (by simp [hf])).trans (if_neg (by simpa [he, h0] using h128))

/-! ### The collector's record and its probe (R329, R330, R332) -/

theorem State.fltFresh_put_more (s : State) (n : Nat) : (s.put F.FLT_MORE n).fltFresh = s.fltFresh := by
  rw [State.fltFresh, s.on_put_of_reg_ne n (by decide), State.fltFresh]
  rfl

theorem State.fltFresh_old (h : s.flt.capAt ≠ some s.cycleNo) : s.fltFresh = false := by
  simp [State.fltFresh, h]

/-- A record captured in the command's own fabric cycle stays; the cycle's other errors are those FLT_MORE counts. -/
theorem State.capClr_fresh (hv : s.on F.FLT_STAT_CAP_VALID = true) (hc : s.flt.capAt = some s.cycleNo) :
    s.capClr = s.put F.FLT_MORE (s.fltRecent.length - 1) :=
  if_pos ((s.fltFresh_put_more _).trans (by simp [State.fltFresh, hv, hc]))

/-- An older record gives way to the first error of the cycle, where there is one. -/
theorem State.capClr_old (hc : s.flt.capAt ≠ some s.cycleNo) (ht : t = s.put F.FLT_MORE (s.fltRecent.length - 1)) :
    s.capClr = (firstErr s.fltRecent).elim
      ((({ t with flt := { t.flt with probeBad := false, capAt := none } } : State).put F.FLT_STAT_CAP_VALID 0).put F.FLT_FIRST_INFO_VALID 0)
      (fun x => (t.fltRecord x).raise Base.FLT 0) := by
  subst ht
  refine (if_neg (by rw [s.fltFresh_put_more, State.fltFresh_old hc]; exact Bool.false_ne_true)).trans ?_
  cases firstErr s.fltRecent <;> rfl

theorem exec_fabricProbe (bad : Bool) (hv : s.on F.FLT_STAT_CAP_VALID = true)
    (hc : s.get F.FLT_FIRST_INFO_CODE = 8 ∨ s.get F.FLT_FIRST_INFO_CODE = 9) :
    exec (.fabricProbe bad) s = .next { s with flt := { s.flt with probeBad := bad } } :=
  if_pos (by simpa [State.fabricHeld, hv] using hc)

/-- Settles O28: each command by its own equation, where the clause's conditions choose its branch. -/
theorem pairAndCollectorCommandsAct : Obligations.PairAndCollectorCommandsAct := by
  unfold Obligations.PairAndCollectorCommandsAct
  refine ⟨fun s x => rfl, fun s => exec_forceLead, fun s he hs => State.pairEnter_searches he hs, fun s he => State.pairEnter_disables he,
    fun s hf => State.pairEnter_forced hf, ?pstatFirst, ?pstatAgain, ?pstatBad, ?poutFirst, ?poutAgain,
    fun s hs hm => exec_pairLinkLoss hs hm, ?digests, fun s d hs hr hd => exec_digestMismatch hs hr hd,
    fun s at0 h => exec_withdraw h, ?readTimeout, ?writeTimeout, ?readParity, ?writeParity, ?clearNone, ?clearFresh, ?clearFirst,
    fun s bad hv hc => exec_fabricProbe bad hv hc⟩
  case pstatFirst =>
    intro s v p f hl hlen ht hf hv he hq
    rw [exec_pstatRx hl hlen ht hv, State.pstatIn_first hf he hq]
  case pstatAgain =>
    intro s v p f hl hlen ht hf hv hq
    rw [exec_pstatRx hl hlen ht hv, State.pstatIn_again hf hq]
  case pstatBad =>
    intro s v p f hl hlen ht hf hv
    rw [exec_pstatRx hl hlen ht hv, State.pstatIn_badCrc hf]
  case poutFirst =>
    intro s v p f nw j q words hl ht hw h1 h128 hlen hf hv he hj hq hnew hwords
    rw [exec_poutRx hl ht hw hlen hv, State.poutIn_good hf he hw h1 h128 hj hq hwords, hnew]
    rfl
  case poutAgain =>
    intro s v p f nw j q hl ht hw h1 h128 hlen hf hv he hj hq hold
    rw [exec_poutRx hl ht hw hlen hv, State.poutIn_good hf he hw h1 h128 hj hq rfl, hold]
    rfl
  case digests =>
    exact fun s => ⟨exec_digestUpdate rfl (if_pos rfl), exec_digestUpdate rfl ((if_neg (by decide)).trans (if_pos rfl)),
      exec_digestUpdate rfl ((if_neg (by decide)).trans (if_neg (by decide)))⟩
  case readTimeout =>
    rintro s t r rfl
    rfl
  case writeTimeout =>
    rintro s t w rfl
    rfl
  case readParity =>
    rintro s t r rfl
    rfl
  case writeParity =>
    rintro s t w rfl
    rfl
  case clearNone =>
    intro s t hn hc ht
    refine congrArg Host.Outcome.next ((State.capClr_old hc rfl).trans ?_)
    rw [hn, ht]
    rfl
  case clearFresh =>
    intro s hv hc
    exact congrArg Host.Outcome.next (State.capClr_fresh hv hc)
  case clearFirst =>
    intro s x hc hx
    refine congrArg Host.Outcome.next ((State.capClr_old hc rfl).trans ?_)
    rw [hx]
    rfl

end Sys2Proof.Machine
end

section
/-! PROOFS. Flash (R357) and signed images: verification, staging, lane tables, ADC trims, fence parameters, ownership (R353–R358, R364,
R365). -/

namespace Sys2Proof.Machine

variable {s t u : State}

/-! ### Flash operations (R357) -/

/-- An erase outside the active bank's protected part comes to its verify. -/
theorem exec_flashErase (ok : Bool) (hc : s.cmdIs 0x10 = true) (ha : s.cmdArg 0 % 0x10000 = 0) (hin : inFlash (s.cmdArg 0) 0x10000 = true)
    (hact : s.activeFlash (s.cmdArg 0) = false) (ht : t = (s.flashTouch (s.cmdArg 0) (s.cmdArg 0 + 0x10000)).flashErase (s.cmdArg 0))
    (hu : u = t.flashPut (s.cmdArg 0) (s.freeBytes 0x10000)) :
    exec (.flashErase ok) s = if ok = true then .next (t.finish 0 []) else .next ({ u with freeIx := u.freeIx + 0x10000 }.failDetail 2) := by
  subst hu ht
  exact (if_neg (by simp [hc])).trans ((if_neg (by simp [ha, hin])).trans (if_neg (by simp [hact])))

/-- A program of whole 8-byte words outside the active bank's protected part comes to its read-back. -/
theorem exec_flashProgram {data : List Byte} (ok : Bool) (hc : s.cmdIs 0x11 = true) (ha : s.cmdArg 0 % 8 = 0) (hn : s.cmdArg 1 % 8 = 0)
    (hmin : 8 ≤ s.cmdArg 1) (hmax : s.cmdArg 1 ≤ 1024) (hin : inFlash (s.cmdArg 0) (s.cmdArg 1) = true)
    (hact : s.activeFlash (s.cmdArg 0) = false) (ht : t = s.flashTouch (s.cmdArg 0) (s.cmdArg 0 + s.cmdArg 1))
    (hu : u = t.flashPut (s.cmdArg 0) (s.freeBytes (s.cmdArg 1)))
    (hdata : data = match s.cmd with
      | some r => (r.data.flatMap (fun w => bytesLE 4 w.toNat)).take (s.cmdArg 1)
      | none => []) :
    exec (.flashProgram ok) s = if ok = true then .next ((t.flashPut (s.cmdArg 0) data).finish 0 [])
      else .next ({ u with freeIx := u.freeIx + s.cmdArg 1 }.failDetail 2) := by
  subst hu ht hdata
  exact (if_neg (by simp [hc])).trans ((if_neg (by simp [ha, hn, hin]; omega)).trans (if_neg (by simp [hact])))

/-! ### Lane tables (R365) -/

/-- A lane's second marker slot: the change it carries takes effect, and the lane's health decides whether the apply goes on. -/
theorem State.laneStep_waiting {x : LaneApply} {n : Nat} (durable : Bool) (hx : x.waiting = some n)
    (ht : t = if s.on (F.LANE_CTRL_APPLY_EQ n) = true then s.laneEqSlot n else s) :
    s.laneStep x durable = if t.laneHealthy n then t.laneNext { x with waiting := none } durable
      else ((((t.put F.UPD_FAULT_STAT_APPLY_STOP 1).applyEnd.raise Base.UPD 9).verifyCount 12).finish 5
        [0#32, 0#32, 0#32, BitVec.ofNat 32 (12 + 2 ^ 8 * n)]) := by
  subst ht
  simp only [State.laneStep, hx]

theorem exec_laneTableApply_first (ue : Option (BitVec 29)) (durable : Bool) (h : s.upd.lanes = none) :
    exec (.laneTableApply ue durable) s = .next (s.imageRun .lanes ue (State.laneApply durable)) := by
  simp only [exec, execLaneTableApply, h]

theorem exec_laneTableApply_later {x : LaneApply} (ue : Option (BitVec 29)) (durable : Bool) (h : s.upd.lanes = some x)
    (hc : s.cmdIs 0x20 = true) : exec (.laneTableApply ue durable) s = .next (s.laneStep x durable) := by
  simp only [exec, execLaneTableApply, h, hc, if_true]

theorem exec_fenceParamApply (ue : Option (BitVec 29)) (sv : Option Word) (durable : Bool) (h : s.upd.fconf = none) :
    exec (.fenceParamApply ue sv durable) s = .next (s.imageRun .fence ue (State.fenceApply sv durable)) :=
  if_neg (by simp [h])

/-- Settles O26: the flash operations by their own equations, every action on an image by the run of a verification. -/
theorem flashAndImageCommandsAct : Obligations.FlashAndImageCommandsAct := by
  unfold Obligations.FlashAndImageCommandsAct
  refine ⟨fun s t hc ha hin hact ht => exec_flashErase true hc ha hin hact ht rfl,
    fun s t u hc ha hin hact ht hu => exec_flashErase false hc ha hin hact ht hu, ?program,
    fun s t u hc ha hn hmin hmax hin hact ht hu => exec_flashProgram false hc ha hn hmin hmax hin hact ht hu rfl,
    fun s t ue i hc hrow ha hin hi ht => congrArg Host.Outcome.next (s.imageRun_eq t _ ue i _ hc hrow ha hin hi ht),
    fun s t ue i hc hrow ha hin hi ht => congrArg Host.Outcome.next (s.imageRun_eq t _ ue i _ hc hrow ha hin hi ht), ?lanesFirst, ?lanesLater,
    fun s t ue durable i hc hrow ha hin hi ht => congrArg Host.Outcome.next (s.imageRun_eq t _ ue i _ hc hrow ha hin hi ht), ?fence,
    fun s t ue w i hc hrow ha hin hi ht => congrArg Host.Outcome.next (s.imageRun_eq t _ ue i _ hc hrow ha hin hi ht)⟩
  case program =>
    intro s t r hc hr ha hn hmin hmax hin hact ht
    exact exec_flashProgram true hc ha hn hmin hmax hin hact ht rfl (by rw [hr])
  case lanesFirst =>
    intro s t ue durable i hl hc hrow ha hin hi ht
    rw [exec_laneTableApply_first ue durable hl, s.imageRun_eq t _ ue i _ hc hrow ha hin hi ht]
  case lanesLater =>
    intro s t ue durable x n hl hc hx ht
    rw [exec_laneTableApply_later ue durable hl hc, State.laneStep_waiting durable hx ht]
  case fence =>
    intro s t ue sv durable i hf hc hrow ha hin hi ht
    rw [exec_fenceParamApply ue sv durable hf, s.imageRun_eq t _ ue i _ hc hrow ha hin hi ht]

end Sys2Proof.Machine
end

section
/-! PROOFS. Attestation (R348–R350), the tack store's operations (R359), signature trees (R346), confirmations of a trial (R363) and of the
fence parameters (R364). -/

namespace Sys2Proof.Machine

variable {s t u v : State}

/-! ### Attestation (R348–R350) -/

theorem exec_attestSign_ready {r : CmdRun} (durable : Bool) (hc : s.cmdIs 0x21 = true) (hr : s.cmd = some r) (hn : s.cmdArg 0 ≤ 1024)
    (hw : s.attestWhy = 0) (hd : s.needsBlock = true → durable = true) :
    exec (.attestSign durable) s = .next (s.reserve.attest ((r.data.flatMap (fun w => bytesLE 4 w.toNat)).take (s.cmdArg 0))) := by
  have hok : ¬(s.needsBlock && !durable) = true := by cases hb : s.needsBlock <;> simp_all
  simp only [exec, execAttestSign, hc, hw, hr, hok, Nat.not_lt.mpr hn, Bool.not_true, Bool.false_eq_true, if_false]

theorem exec_attestSign_noTree (durable : Bool) (hc : s.cmdIs 0x21 = true) (hn : s.cmdArg 0 ≤ 1024) (hw : s.attestWhy = 1) :
    exec (.attestSign durable) s = .next (((s.put F.SEC_FAULT_STAT_NO_TREE 1).raise Base.SEC 1).failDetail 1) := by
  simp only [exec, execAttestSign, hc, hw, Nat.not_lt.mpr hn, Bool.not_true, Bool.false_eq_true, if_false]

theorem exec_attestSign_refused {d : Nat} (durable : Bool) (hc : s.cmdIs 0x21 = true) (hn : s.cmdArg 0 ≤ 1024) (hw : s.attestWhy = d)
    (hd : 2 ≤ d) : exec (.attestSign durable) s = .next (s.failDetail d) := by
  obtain ⟨e, rfl⟩ := Nat.exists_eq_add_of_le' hd
  simp only [exec, execAttestSign, hc, hw, Nat.not_lt.mpr hn, Bool.not_true, Bool.false_eq_true, if_false]

/-! ### The tack store's operations (R359) -/

theorem exec_readIdentity (h : s.tackIs 1 = true) (ht : t = (List.range 15).foldl (fun (u : State) i => u.setReg (A.SYS_CMD_DATA i)
      (BitVec.ofNat 32 (ofBytesLE ((List.range 4).map (fun j => identityKey.getD (4 * i + j) 0))))) s) :
    exec .readIdentity s = .next (t.finish 0 [s.reg A.SYS_SERIAL]) := by
  subst ht
  exact if_pos h

/-- A STATION_SET of host software comes to its permission, then to its write. -/
theorem exec_stationSet {key : List Byte} (durable : Bool) (h : s.tackIs 2 = true) (hn : s.cmdArg 1 ≤ 15) (hh : s.byHost = true)
    (hkey : key = match s.cmd with
      | some r => (r.data.take 8).flatMap (fun w => bytesLE 4 w.toNat)
      | none => [])
    (ht : t = (s.withTack { s.tack with stations := KMap.set (fun _ => []) s.tack.stations (s.cmdArg 1) key }).setBitOf F.SEC_KEYS_STATION
      (s.cmdArg 1))
    (hu : u = (List.range 8).foldl (fun (x : State) i => x.setReg (A.SYS_CMD_DATA i) 0#32) t)
    (hv : v = { u with eth := { u.eth with lastSeq := KMap.set (fun _ => none) u.eth.lastSeq (s.cmdArg 1) (some 0) } }) :
    exec (.stationSet durable) s = if !s.on F.SEC_CTRL_KEY_WR_EN then .next (s.failDetail 2)
      else if !durable then .next (s.tackFail.failDetail 3) else .next ((v.raise Base.SEC 9).finish 0 []) := by
  subst hv hu ht hkey
  exact (if_neg (by simp [h])).trans ((if_neg (by omega)).trans (if_neg (by simp [hh])))

theorem exec_stationErase_durable (h : s.tackIs 3 = true) (hn : s.cmdArg 1 ≤ 15) (hh : s.byHost = true)
    (ht : t = (s.withTack { s.tack with stations := KMap.set (fun _ => []) s.tack.stations (s.cmdArg 1) [] }).clrBitOf F.SEC_KEYS_STATION
      (s.cmdArg 1)) :
    exec (.stationErase true) s
      = .next ((if s.bitOf F.SEC_KEYS_STATION (s.cmdArg 1) = true then t.raise Base.SEC 9 else t).finish 0 []) := by
  subst ht
  exact (if_neg (by simp [h])).trans ((if_neg (by omega)).trans ((if_neg (by simp [hh])).trans (if_neg (by simp))))

theorem exec_indexStatus (h : s.tackIs 4 = true) : exec .indexStatus s = .next
    (s.finish 0 [BitVec.ofNat 32 s.nextIndex, BitVec.ofNat 32 (s.get F.SEC_RESERVED), BitVec.ofNat 32 (2 ^ 30 - s.nextIndex), 0#32]) :=
  if_pos h

theorem exec_tackBadSubop (h : s.cmdIs 0x50 = true) (hn : s.cmdArg 0 % 256 = 0 ∨ 4 < s.cmdArg 0 % 256) :
    exec .tackBadSubop s = .next (s.finish 2 []) :=
  if_pos (by simpa [h] using hn)

/-! ### Signature trees (R346) -/

theorem State.treeDone_bottom {n : Nat} {rest : List TreeJob} (hj : s.tack.jobs = .bottom n :: rest)
    (ht : t = s.withTack { s.tack with jobs := rest })
    (hu : u = if n = t.treeNeeded then t.treeCurrent n else t.withTack { t.tack with spare := some n }) :
    s.treeDone = (u.treeBits.cnt F.SEC_TREES).raise Base.SEC 0 := by
  subst hu ht
  simp only [State.treeDone, hj]

theorem State.treeDone_level1 {n : Nat} {rest : List TreeJob} (hj : s.tack.jobs = .level1 n :: rest)
    (ht : t = s.withTack { s.tack with jobs := rest }) :
    s.treeDone = ((t.withTack { t.tack with level1 := some n }).treeBits.cnt F.SEC_TREES).raise Base.SEC 0 := by
  subst ht
  simp only [State.treeDone, hj]

/-! ### Confirmations of a trial (R363) and of the fence parameters (R364) -/

theorem State.confirm_trial (durable : Bool) (hw : s.on F.SAFE_STAT_SV_WINDOW = false) (ht : s.on F.UPD_STAT_TRIAL = true) :
    s.confirm durable = ((s.put F.UPD_STAT_TRIAL 0).advRollback 1 (s.image (0x10000000 * s.get F.SYS_STAT_BOOT_BANK)).rollback
      durable).raise Base.UPD 2 :=
  if_neg (by simp [hw, ht])

/-- What a commit of UPD_FCONF starts, given by what each of its fields is. -/
theorem exec_fenceConfirmation {c : Word} {sv : Option Word} {x : FConf} (ht : t = s.setReg A.UPD_FCONF c) (htime : x.time = t.now)
    (hc : x.c = c) (hsnap : x.snap = t.pendingSet) (hcrcF : x.crcF = setCrc t.pendingSet)
    (hcrcS : x.crcS = sv.elim (setCrc t.pendingSet) (fun w => w.toNat)) (hby : x.byApply = false)
    (hchanged : x.changed = decide (s.upd.fenceAt = some s.cycleNo))
    (hu : u = ((t.put F.UPD_CRC_FENCE x.crcF).put F.UPD_CRC_SV x.crcS).put F.UPD_STAT_FCONF_BUSY 1) :
    exec (.fenceConfirmation c sv) s = .next ((u.withUpd { u.upd with fconf := some x }).startRes A.UPD_FCONF_RES) := by
  subst hu ht
  have hx : x = ⟨(s.setReg A.UPD_FCONF c).now, c, (s.setReg A.UPD_FCONF c).pendingSet, setCrc (s.setReg A.UPD_FCONF c).pendingSet,
      sv.elim (setCrc (s.setReg A.UPD_FCONF c).pendingSet) (fun w => w.toNat), decide (s.upd.fenceAt = some s.cycleNo), false⟩ := by
    cases x
    exact (FConf.mk.injEq ..).mpr ⟨htime, hc, hsnap, hcrcF, hcrcS, hchanged, hby⟩
  subst hx
  cases sv with
  | none => rfl
  | some w => rfl

theorem exec_fenceConfirmationDone {f : FConf} (durable : Bool) (hf : s.upd.fconf = some f) :
    exec (.fenceConfirmationDone durable) s = .next (s.fconfJudge f (s.fconfCode f) durable) := by
  simp only [exec, execFenceConfirmationDone, hf]

theorem State.fconfJudge_ok {f : FConf} (durable : Bool) (hf : f.byApply = false)
    (ht : t = (s.complete A.UPD_FCONF_RES 0).put F.UPD_STAT_FCONF_BUSY 0) (hu : u = t.withUpd { t.upd with fconf := none }) :
    s.fconfJudge f 0 durable = (u.pendingApply.cnt F.UPD_FCONF_OK).raise Base.UPD 6 := by
  subst hu ht
  exact if_neg (by simp [hf])

/-- Settles O27: each command by the equation of its case. -/
theorem securityAndTrialCommandsAct : Obligations.SecurityAndTrialCommandsAct := by
  unfold Obligations.SecurityAndTrialCommandsAct
  refine ⟨fun s r durable hc hr hn hw hd => exec_attestSign_ready durable hc hr hn hw hd,
    fun s durable hc hn hw => exec_attestSign_noTree durable hc hn hw,
    fun s durable d hc hn hw hd => exec_attestSign_refused durable hc hn hw hd,
    fun s t h ht => exec_readIdentity h ht, ?set, ?setFails, ?setDenied,
    fun s t h hn hh ht => exec_stationErase_durable h hn hh ht,
    fun s h => exec_indexStatus h, fun s h hn => exec_tackBadSubop h hn,
    fun s t u n rest hj ht hu => congrArg Host.Outcome.next (State.treeDone_bottom hj ht hu),
    fun s t n rest hj ht => congrArg Host.Outcome.next (State.treeDone_level1 hj ht),
    fun s durable hw ht => congrArg Host.Outcome.next (State.confirm_trial durable hw ht),
    fun s t u c sv x ht htime hc hsnap hF hS hby hch hu => exec_fenceConfirmation ht htime hc hsnap hF hS hby hch hu, ?done,
    fun s => rfl⟩
  case set =>
    intro s t u v r h hr hn hh hen ht hu hv
    rw [exec_stationSet (key := (r.data.take 8).flatMap (fun w => bytesLE 4 w.toNat)) true h hn hh (by rw [hr]) ht hu hv, hen]
    rfl
  case setFails =>
    intro s h hn hh hen
    rw [exec_stationSet false h hn hh rfl rfl rfl rfl, hen]
    rfl
  case setDenied =>
    intro s durable h hn hh hen
    rw [exec_stationSet durable h hn hh rfl rfl rfl rfl, hen]
    rfl
  case done =>
    intro s t u f durable hf hby hcode ht hu
    rw [exec_fenceConfirmationDone durable hf, hcode, State.fconfJudge_ok durable hby ht hu]

end Sys2Proof.Machine
end

section
/-! PROOFS. Rollback counters (R356, R363). -/

namespace Sys2Proof.Machine

variable {s t : State}

theorem State.rollbackOf_put_of_reg_ne (s : State) {f : Fld} {k : Nat} (x : Nat) (h : (F.SEC_ROLLBACK (k - 1)).reg ≠ f.reg) :
    (s.put f x).rollbackOf k = s.rollbackOf k :=
  s.get_put_of_reg_ne x h

theorem State.rollbackOf_raise_of_ne (s : State) {b k : Nat} (i : Nat) (h : (F.SEC_ROLLBACK (k - 1)).reg ≠ b + 0x10) :
    (s.raise b i).rollbackOf k = s.rollbackOf k :=
  s.get_raise_of_ne i h

/-- A durable advance leaves the counters of other kinds; one that is not durable leaves every counter. -/
theorem State.rollbackOf_advRollback_of_ne (s : State) {k j : Nat} (r : Nat) (durable : Bool) (hk : 1 ≤ k) (hj : 1 ≤ j) (hj6 : j ≤ 6)
    (h : j ≠ k ∨ durable = false) : (s.advRollback k r durable).rollbackOf j = s.rollbackOf j := by
  unfold State.advRollback
  split
  · rfl
  · cases durable with
    | false => exact s.rollbackOf_tackFail hj6
    | true =>
      have hne : j ≠ k := h.resolve_right (by decide)
      rw [if_pos rfl, State.rollbackOf_raise_of_ne _ 6 (SEC_ROLLBACK_reg_ne_evt hj6 _ (.inl rfl)),
        s.rollbackOf_put_of_reg_ne r (SEC_ROLLBACK_reg_ne hne hk hj)]

/-- A durable advance takes its counter to the maximum. -/
theorem State.rollbackOf_advRollback_self (s : State) {k r : Nat} (hk : 1 ≤ k) (hk6 : k ≤ 6) (hr : r < 2 ^ 32) :
    (s.advRollback k r true).rollbackOf k = max (s.rollbackOf k) r := by
  unfold State.advRollback
  split
  case isTrue h => rw [max_eq_left h]
  case isFalse h => rw [if_pos rfl, s.rollbackOf_put_raise hk hk hk6 hr, if_pos rfl, max_eq_right (Nat.le_of_not_le h)]

theorem State.image_rollback_lt (s : State) (a : Nat) : (s.image a).rollback < 2 ^ 32 := leAt_lt_pow _ 8 4

/-- A confirmed trial moves the counter of kind 1 to the maximum of itself and the ROLLBACK of the bank it booted from. -/
theorem State.rollbackOf_confirm (hw : s.on F.SAFE_STAT_SV_WINDOW = false) (ht : s.on F.UPD_STAT_TRIAL = true) :
    (s.confirm true).rollbackOf 1 = max (s.rollbackOf 1) (s.image (0x10000000 * s.get F.SYS_STAT_BOOT_BANK)).rollback := by
  rw [State.confirm_trial true hw ht, State.rollbackOf_raise_of_ne _ 2 (by decide),
    State.rollbackOf_advRollback_self _ (Nat.le_refl 1) (by decide) (s.image_rollback_lt _), s.rollbackOf_put_of_reg_ne 0 (by decide)]

/-- Settles O43: an advance that is durable and of kind j itself gives the maximum, any other leaves counter j. -/
theorem rollbackCountersOnlyRise : Obligations.RollbackCountersOnlyRise := by
  unfold Obligations.RollbackCountersOnlyRise
  refine ⟨?rises, fun s k r hk hk6 hr => s.rollbackOf_advRollback_self hk hk6 hr,
    fun s k j r durable hk _ hj hj6 h => s.rollbackOf_advRollback_of_ne r durable hk hj hj6 h, ?raised,
    fun s hw ht => ⟨s.confirm true, rfl, State.rollbackOf_confirm hw ht⟩⟩
  case rises =>
    intro s k j r durable hk hk6 hj hj6 hr
    by_cases h : j ≠ k ∨ durable = false
    · rw [s.rollbackOf_advRollback_of_ne r durable hk hj hj6 h]
    · obtain ⟨hjk, hd⟩ : j = k ∧ durable = true := by simpa using h
      subst hjk hd
      rw [s.rollbackOf_advRollback_self hk hk6 hr]
      exact le_max_left _ _
  case raised =>
    intro s k r h
    rw [State.advRollback, if_neg (Nat.not_le.mpr h), if_pos rfl]
    exact State.bitOf_raise _ _ _ (by decide)

end Sys2Proof.Machine
end

section
/-! PROOFS. The indices of signatures (R346, R348–R350). -/

namespace Sys2Proof.Machine

variable {s t : State}

/-- `t` has the block in use, RESERVED and the running command of `s`: what the next index and the command's result are read from. -/
structure SameIndex (s t : State) : Prop where
  block : t.tack.block = s.tack.block
  reserved : t.get F.SEC_RESERVED = s.get F.SEC_RESERVED
  cmd : t.cmd = s.cmd

theorem SameIndex.refl (s : State) : SameIndex s s := ⟨rfl, rfl, rfl⟩

theorem SameIndex.nextIndex (h : SameIndex s t) : t.nextIndex = s.nextIndex := by
  rw [State.nextIndex, State.nextIndex, h.block, h.reserved]

theorem SameIndex.put (h : SameIndex s t) {f : Fld} (x : Nat) (hf : F.SEC_RESERVED.reg ≠ f.reg) : SameIndex s (t.put f x) :=
  ⟨h.block, (t.get_put_of_reg_ne x hf).trans h.reserved, h.cmd⟩

theorem SameIndex.cnt (h : SameIndex s t) {f : Fld} (n : Nat) (hf : F.SEC_RESERVED.reg ≠ f.reg) : SameIndex s (t.cnt f n) :=
  h.put _ hf

theorem SameIndex.raise (h : SameIndex s t) {b : Nat} (k : Nat) (hb : F.SEC_RESERVED.reg ≠ b + 0x10) : SameIndex s (t.raise b k) :=
  ⟨by rw [State.raise_tack, h.block], (t.get_raise_of_ne k hb).trans h.reserved, by rw [State.raise_cmd, h.cmd]⟩

theorem SameIndex.withTack (h : SameIndex s t) {x : SecSt} (hx : x.block = t.tack.block) : SameIndex s (t.withTack x) :=
  ⟨hx.trans h.block, h.reserved, h.cmd⟩

theorem SameIndex.indexLow (h : SameIndex s t) : SameIndex s t.indexLow := by
  unfold State.indexLow
  split
  · exact (h.put 1 (by decide)).raise 2 (by decide)
  · exact h

theorem SameIndex.treeBits (h : SameIndex s t) : SameIndex s t.treeBits :=
  ((h.put _ (by decide)).put _ (by decide)).put _ (by decide)

theorem SameIndex.treeCurrent (h : SameIndex s t) (c : Nat) : SameIndex s (t.treeCurrent c) :=
  (h.withTack rfl).withTack rfl

theorem SameIndex.treeMove (h : SameIndex s t) : SameIndex s t.treeMove := by
  unfold State.treeMove
  dsimp only
  split
  · exact h.treeBits
  · split
    · exact (h.treeCurrent _).treeBits
    · exact h.treeBits

/-! ### A reservation (R348) -/

theorem State.nextIndex_some {b n : Nat} (hb : s.tack.block = some (b, n)) :
    s.nextIndex = if n < 64 * (b + 1) then n else 64 * s.get F.SEC_RESERVED := by
  simp only [State.nextIndex, hb]

theorem State.nextIndex_none (hb : s.tack.block = none) : s.nextIndex = 64 * s.get F.SEC_RESERVED := by
  simp only [State.nextIndex, hb]

theorem State.needsBlock_some {b n : Nat} (hb : s.tack.block = some (b, n)) : s.needsBlock = decide (64 * (b + 1) ≤ n) := by
  simp only [State.needsBlock, hb]

theorem State.nextIndex_of_needsBlock (h : s.needsBlock = true) : s.nextIndex = 64 * s.get F.SEC_RESERVED := by
  cases hb : s.tack.block with
  | none => exact State.nextIndex_none hb
  | some x =>
    obtain ⟨b, n⟩ := x
    rw [State.needsBlock_some hb] at h
    rw [State.nextIndex_some hb]
    exact if_neg (Nat.not_lt.mpr (of_decide_eq_true h))

theorem State.reserve_of_needsBlock (h : s.needsBlock = true) (ht : t = (s.put F.SEC_RESERVED (s.get F.SEC_RESERVED + 1)).withTack
      { s.tack with block := some (s.get F.SEC_RESERVED, 64 * s.get F.SEC_RESERVED), unused := 0 }) :
    s.reserve = if s.tack.unused = 0 then t else (t.cnt F.SEC_SKIPPED s.tack.unused).raise Base.SEC 3 := by
  subst ht
  exact if_neg (by rw [h]; decide)

/-- A reservation takes the block RESERVED names into use and moves RESERVED past it. -/
theorem State.reserve_spec (h : s.needsBlock = true) (hr : s.get F.SEC_RESERVED + 1 < 2 ^ 25) :
    s.reserve.tack.block = some (s.get F.SEC_RESERVED, 64 * s.get F.SEC_RESERVED) ∧
      s.reserve.get F.SEC_RESERVED = s.get F.SEC_RESERVED + 1 ∧ s.reserve.cmd = s.cmd := by
  rw [State.reserve_of_needsBlock h rfl]
  set u := (s.put F.SEC_RESERVED (s.get F.SEC_RESERVED + 1)).withTack
    { s.tack with block := some (s.get F.SEC_RESERVED, 64 * s.get F.SEC_RESERVED), unused := 0 }
  have hget : u.get F.SEC_RESERVED = s.get F.SEC_RESERVED + 1 := (s.get_put_self _ _ (by decide)).trans (Nat.mod_eq_of_lt hr)
  have hsame : SameIndex u (if s.tack.unused = 0 then u else (u.cnt F.SEC_SKIPPED s.tack.unused).raise Base.SEC 3) := by
    split
    · exact SameIndex.refl u
    · exact ((SameIndex.refl u).cnt _ (by decide)).raise 3 (by decide)
  exact ⟨hsame.block, hsame.reserved.trans hget, hsame.cmd⟩

/-! ### A signature (R350) -/

/-- Index `q` out of block `b` is used up and `att` stands in the attestation buffer. -/
def State.indexTaken (s : State) (b q : Nat) (att : List Byte) : State :=
  let u := if s.on F.SYS_STAT_SVR_UP then s else { s with freeIx := s.freeIx + 32 }
  u.withTack { u.tack with block := some (b, q + 1), att := att }

/-- What a signature with index `q` out of block `b` leaves, before its command's result. -/
def State.signed (s : State) (b q : Nat) (att : List Byte) : State :=
  (((((s.indexTaken b q att).put F.SEC_INDEX (q + 1)).put F.SEC_ATT_LEN 4728).cnt F.SEC_SIGNS).indexLow).treeMove

/-- What the requester of a signature with the next index receives: the statement and its signature. -/
def State.attested (s : State) (data : List Byte) : List Byte :=
  s.statement s.nextIndex data ++ identitySign s.nextIndex (s.statement s.nextIndex data)

theorem State.attest_eq (data : List Byte) {b n : Nat} (hb : s.tack.block = some (b, n)) :
    s.attest data = (s.signed b s.nextIndex (s.attested data)).finish 0 [BitVec.ofNat 32 s.nextIndex, 4728#32, 0#32, 0#32] := by
  unfold State.attest
  rw [hb]
  rfl

theorem State.indexTaken_spec (s : State) (b q : Nat) (att : List Byte) :
    (s.indexTaken b q att).tack.block = some (b, q + 1) ∧ (s.indexTaken b q att).get F.SEC_RESERVED = s.get F.SEC_RESERVED ∧
      (s.indexTaken b q att).cmd = s.cmd := by
  unfold State.indexTaken
  split <;> exact ⟨rfl, rfl, rfl⟩

/-- A signature moves its block's next index; RESERVED and the running command stay. -/
theorem State.signed_spec (s : State) (b q : Nat) (att : List Byte) :
    (s.signed b q att).tack.block = some (b, q + 1) ∧ (s.signed b q att).get F.SEC_RESERVED = s.get F.SEC_RESERVED ∧
      (s.signed b q att).cmd = s.cmd := by
  obtain ⟨hblock, hres, hcmd⟩ := s.indexTaken_spec b q att
  unfold State.signed
  have h := (((((SameIndex.refl (s.indexTaken b q att)).put (f := F.SEC_INDEX) (q + 1) (by decide)).put (f := F.SEC_ATT_LEN) 4728
    (by decide)).cnt (f := F.SEC_SIGNS) 1 (by decide)).indexLow).treeMove
  exact ⟨h.block.trans hblock, h.reserved.trans hres, h.cmd.trans hcmd⟩

/-- A signature writes the index after its own into the block in use, and its result begins with its own. -/
theorem State.attest_spec (data : List Byte) {b n : Nat} (hb : s.tack.block = some (b, n)) :
    (s.attest data).tack.block = some (b, s.nextIndex + 1) ∧ (s.attest data).get F.SEC_RESERVED = s.get F.SEC_RESERVED ∧
      (s.attest data).cmd = s.cmd.map (fun r => { r with outcome := some (0, [BitVec.ofNat 32 s.nextIndex, 4728#32, 0#32, 0#32]) }) := by
  rw [State.attest_eq data hb]
  obtain ⟨hblock, hres, hcmd⟩ := s.signed_spec b s.nextIndex (s.attested data)
  generalize s.signed b s.nextIndex (s.attested data) = t at *
  exact ⟨hblock, hres, by rw [← hcmd]; rfl⟩

/-- A signature moves the next index on by 1, also past the last index of its block, where RESERVED lies directly above the block. -/
theorem State.nextIndex_attest (data : List Byte) {b n : Nat} (hb : s.tack.block = some (b, n)) (hn : n < 64 * (b + 1))
    (hr : s.get F.SEC_RESERVED = b + 1) : s.nextIndex = n ∧ (s.attest data).nextIndex = n + 1 := by
  have hq : s.nextIndex = n := (State.nextIndex_some hb).trans (if_pos hn)
  obtain ⟨hblock, hres, -⟩ := State.attest_spec data hb
  refine ⟨hq, ?_⟩
  rw [State.nextIndex_some hblock, hres, hr, hq]
  split <;> omega

/-- The two cases of ATTEST_SIGN with RESERVED directly above the block in use: it holds an index more, or the next block is reserved. -/
theorem State.nextIndex_reserve_attest (data : List Byte) {b n : Nat} (hb : s.tack.block = some (b, n)) (hn : n ≤ 64 * (b + 1))
    (hr : s.get F.SEC_RESERVED = b + 1) (hlt : b + 1 < 2 ^ 24) :
    s.reserve.nextIndex = s.nextIndex ∧ (s.reserve.attest data).nextIndex = s.nextIndex + 1 ∧ s.reserve.cmd = s.cmd ∧
      ∃ x, s.reserve.tack.block = some x := by
  rcases Nat.lt_or_eq_of_le hn with h | h
  case inl =>
    have hno : s.needsBlock = false := (State.needsBlock_some hb).trans (decide_eq_false (Nat.not_le.mpr h))
    have hres : s.reserve = s := if_pos (by rw [hno]; rfl)
    obtain ⟨hq, hq'⟩ := State.nextIndex_attest data hb h hr
    rw [hres, hq', hq]
    exact ⟨rfl, rfl, rfl, _, hb⟩
  case inr =>
    have hneed : s.needsBlock = true := (State.needsBlock_some hb).trans (decide_eq_true (Nat.le_of_eq h.symm))
    obtain ⟨hblock, hres, hcmd⟩ := State.reserve_spec hneed (by omega)
    obtain ⟨hq, hq'⟩ := State.nextIndex_attest data hblock (by omega) hres
    rw [hq', hq, State.nextIndex_of_needsBlock hneed]
    exact ⟨rfl, rfl, hcmd, _, hblock⟩

/-- Settles O44: by the two cases of a signature, within the block in use and across a reservation. -/
theorem signatureIndicesAreUsedOnce : Obligations.SignatureIndicesAreUsedOnce := by
  unfold Obligations.SignatureIndicesAreUsedOnce
  refine ⟨?signs, fun s h hr => ⟨(State.reserve_spec h hr).1, (State.reserve_spec h hr).2.1⟩⟩
  intro s r b n hc hcmd hlen hwhy hb _ hn hr hlt
  set data := (r.data.flatMap (fun w => bytesLE 4 w.toNat)).take (s.cmdArg 0)
  obtain ⟨hq, hq', hkeep, x, hblock⟩ := State.nextIndex_reserve_attest data hb hn hr hlt
  obtain ⟨-, -, hout⟩ := State.attest_spec data hblock
  rw [hkeep, hcmd, hq] at hout
  exact ⟨s.reserve.attest data, exec_attestSign_ready true hc hcmd hlen hwhy (fun _ => rfl), hq', _, hout, rfl⟩

end Sys2Proof.Machine
end

section
/-! PROOFS. The register frames of sixteen commands: which registers an update can change. -/

namespace Sys2Proof.Machine

variable {s t u : State} {l : List Nat}

/-- Every register outside `l` reads in `t` as in `s`. -/
def RegsKept (l : List Nat) (s t : State) : Prop := ∀ a, a ∉ l → t.reg a = s.reg a

theorem RegsKept.refl (l : List Nat) (s : State) : RegsKept l s s := fun _ _ => rfl

theorem RegsKept.of_regs_eq (h : RegsKept l s t) (hr : u.regs = t.regs) : RegsKept l s u := fun a ha => by
  rw [← h a ha, State.reg, hr, State.reg]

theorem RegsKept.ite {p : Prop} [Decidable p] (ht : RegsKept l s t) (hu : RegsKept l s u) : RegsKept l s (if p then t else u) := by
  split
  · exact ht
  · exact hu

theorem RegsKept.setReg (h : RegsKept l s t) {b : Nat} (w : Word) (hb : b ∈ l) : RegsKept l s (t.setReg b w) := fun a ha => by
  rw [State.reg_setReg_of_ne t w (fun e : a = b => ha (e ▸ hb)), h a ha]

theorem RegsKept.put (h : RegsKept l s t) {f : Fld} (v : Nat) (hf : f.reg ∈ l) : RegsKept l s (t.put f v) := h.setReg _ hf

theorem RegsKept.raise (h : RegsKept l s t) {b : Nat} (k : Nat) (hb : b + 0x10 ∈ l) : RegsKept l s (t.raise b k) := fun a ha => by
  rw [State.reg_raise_of_ne t k (fun e : a = b + 0x10 => ha (e ▸ hb)), h a ha]

theorem RegsKept.finish (h : RegsKept l s t) (code : Nat) (res : List Word) : RegsKept l s (t.finish code res) := h.of_regs_eq rfl

/-- A frame of the state a command answers is a frame of the command. -/
theorem RegsKept.of_exec {c : Instr} (h : RegsKept l s u) (hc : exec c s = .next u) (ht : exec c s = .next t) {a : Nat} (ha : a ∉ l) :
    t.reg a = s.reg a := by
  cases hc.symm.trans ht
  exact h a ha

/-! ### The pair and its digests (R371, R372) -/

theorem RegsKept.mirrorCheck (h : RegsKept l s t) (hf : F.PAIR_FAULT_STAT_MIRROR_BAD.reg ∈ l) (he : Base.PAIR + 0x10 ∈ l) :
    RegsKept l s t.mirrorCheck :=
  ((h.put 1 hf).raise 11 he).ite h

theorem RegsKept.setPairState (h : RegsKept l s t) (v : Nat) (hf : F.PAIR_STAT_STATE.reg ∈ l) (he : Base.PAIR + 0x10 ∈ l) :
    RegsKept l s (t.setPairState v) :=
  h.ite ((h.put v hf).raise 0 he)

/-! ### The fault collector (R330) -/

/-- The registers of the collector's record. -/
abbrev fltRecordRegs : List Nat :=
  [F.FLT_STAT_CAP_VALID.reg, A.FLT_FIRST_INFO, A.FLT_FIRST_ADDR, A.FLT_FIRST_CTB 0, A.FLT_FIRST_CTB 1, A.FLT_MORE, Base.FLT + 0x10]

theorem RegsKept.fltRecord (h : RegsKept fltRecordRegs s t) (x : FltErr) : RegsKept fltRecordRegs s (t.fltRecord x) := by
  unfold State.fltRecord
  dsimp only
  have hv : RegsKept fltRecordRegs s { t with flt := { t.flt with capAt := some t.cycleNo, probeBad := false } } := h.of_regs_eq rfl
  generalize ({ t with flt := { t.flt with capAt := some t.cycleNo, probeBad := false } } : State) = v at hv ⊢
  have hfirst := (hv.put (f := F.FLT_STAT_CAP_VALID) 1 (by decide)).setReg (b := A.FLT_FIRST_ADDR) (BitVec.ofNat 32 x.addr) (by decide)
  have hinfo := (((hfirst.put (f := F.FLT_FIRST_INFO_VALID) 1 (by decide)).put (f := F.FLT_FIRST_INFO_CODE) x.code (by decide)).put
    (f := F.FLT_FIRST_INFO_MASTER) x.master (by decide)).put (f := F.FLT_FIRST_INFO_ACCESS) x.access (by decide)
  exact (hinfo.put (f := F.FLT_FIRST_CTB 0) (x.ctb % 2 ^ 32) (by decide)).put (f := F.FLT_FIRST_CTB 1) (x.ctb / 2 ^ 32) (by decide)

theorem State.capClr_regsKept (s : State) : RegsKept fltRecordRegs s s.capClr := by
  have hmore := (RegsKept.refl fltRecordRegs s).put (f := F.FLT_MORE) (s.fltRecent.length - 1) (by decide)
  unfold State.capClr
  dsimp only
  split
  · exact hmore
  · split
    · exact (hmore.fltRecord _).raise 0 (by decide)
    · exact ((hmore.of_regs_eq rfl).put 0 (by decide)).put 0 (by decide)

/-! ### The tack store and trials (R343, R356, R359, R363) -/

theorem RegsKept.tackFail (h : RegsKept l s t) (hf : F.SEC_FAULT_STAT_TACK_WR_FAIL.reg ∈ l) (he : Base.SEC + 0x10 ∈ l) :
    RegsKept l s t.tackFail :=
  (h.put 1 hf).raise 8 he

theorem RegsKept.advRollback (h : RegsKept l s t) (k r : Nat) (durable : Bool) (hk : (F.SEC_ROLLBACK (k - 1)).reg ∈ l)
    (hf : F.SEC_FAULT_STAT_TACK_WR_FAIL.reg ∈ l) (he : Base.SEC + 0x10 ∈ l) : RegsKept l s (t.advRollback k r durable) :=
  h.ite (((h.put r hk).raise 6 he).ite (h.tackFail hf he))

theorem State.confirm_regsKept (s : State) (durable : Bool) :
    RegsKept [F.UPD_STAT_TRIAL.reg, A.SEC_ROLLBACK 0, F.SEC_FAULT_STAT_TACK_WR_FAIL.reg, Base.SEC + 0x10, Base.UPD + 0x10] s
      (s.confirm durable) :=
  (RegsKept.refl _ s).ite ((((RegsKept.refl _ s).put 0 (by decide)).advRollback 1 _ durable (by decide) (by decide) (by decide)).raise 2
    (by decide))

theorem exec_stationErase_regsKept (s : State) (durable : Bool) : ∃ u, exec (.stationErase durable) s = .next u ∧
    RegsKept [F.SEC_KEYS_STATION.reg, F.SEC_FAULT_STAT_TACK_WR_FAIL.reg, Base.SEC + 0x10] s u := by
  have h := RegsKept.refl [F.SEC_KEYS_STATION.reg, F.SEC_FAULT_STAT_TACK_WR_FAIL.reg, Base.SEC + 0x10] s
  simp only [exec, execStationErase]
  split
  · exact ⟨_, rfl, h⟩
  split
  · exact ⟨_, rfl, h.finish 2 []⟩
  split
  · exact ⟨_, rfl, h.finish 5 _⟩
  split
  · exact ⟨_, rfl, (h.tackFail (by decide) (by decide)).finish 5 _⟩
  · have herased := (h.of_regs_eq (u := s.withTack { s.tack with stations := KMap.set (fun _ => []) s.tack.stations (s.cmdArg 1) [] }) rfl).put
      (f := F.SEC_KEYS_STATION) (clearBit (s.get F.SEC_KEYS_STATION) (s.cmdArg 1)) (by decide)
    exact ⟨_, rfl, ((herased.raise 9 (by decide)).ite herased).finish 0 []⟩

/-! ### The clock domain (R223, R226) -/

theorem State.regs_backupNote (s : State) (a : Nat) : (s.backupNote a).regs = s.regs := by
  unfold State.backupNote
  dsimp only
  split
  · split <;> rfl
  · rfl

theorem exec_calTrim_due {m : Int}
    (h : (s.rtc.running && s.on F.RTC_CTRL_TRIM_AUTO && s.ctbState = ctbTracking && decide (s.get F.TIME_STAT_SRC_ACT < 2)) = true)
    (ht : t = s.until (s.rtc.trimAt + 1000 * sec)) : exec (.calTrim m) s =
      .next (((t.withRtc { t.rtc with trimAt := t.now }).backupNote A.RTC_TRIM).put F.RTC_TRIM (tc 16 (sat16 m))) := by
  subst ht
  exact if_pos h

theorem RegsKept.trim (h : RegsKept [A.RTC_TRIM] s t) (m : Int) : RegsKept [A.RTC_TRIM] s
    (((t.withRtc { t.rtc with trimAt := t.now }).backupNote A.RTC_TRIM).put F.RTC_TRIM (tc 16 (sat16 m))) := by
  have hnote : RegsKept [A.RTC_TRIM] s ((t.withRtc { t.rtc with trimAt := t.now }).backupNote A.RTC_TRIM) :=
    h.of_regs_eq (State.regs_backupNote _ _)
  exact hnote.put (f := F.RTC_TRIM) (tc 16 (sat16 m)) (by decide)

theorem exec_calTrim_regsKept (s : State) (m : Int) : ∃ u, exec (.calTrim m) s = .next u ∧ RegsKept [A.RTC_TRIM] s u := by
  by_cases hdue : (s.rtc.running && s.on F.RTC_CTRL_TRIM_AUTO && s.ctbState = ctbTracking && decide (s.get F.TIME_STAT_SRC_ACT < 2)) = true
  · have htime : RegsKept [A.RTC_TRIM] s (s.until (s.rtc.trimAt + 1000 * sec)) := fun a _ => State.reg_until s _ a
    exact ⟨_, exec_calTrim_due hdue rfl, htime.trim m⟩
  · exact ⟨s, if_neg hdue, RegsKept.refl _ s⟩

theorem State.tamperOn_put_off (s : State) : (s.put F.RTC_STAT_TAMPER_IN 0).tamperOn = false := by
  have hin : (s.put F.RTC_STAT_TAMPER_IN 0).on F.RTC_STAT_TAMPER_IN = false := by
    rw [State.on, s.get_put_self _ _ (by decide)]
    decide
  rw [State.tamperOn, hin, Bool.and_false]

/-- A contact at its inactive level clears TAMPER_IN and signals nothing. -/
theorem State.tamperJudge_released (s : State) :
    s.tamperJudge (s.tamperLevel false) = if !s.rtc.running then s.tamperLevel false else (s.tamperLevel false).put F.RTC_STAT_TAMPER_IN 0 := by
  have hlevel : decide ((s.tamperLevel false).rtc.tamperOpen ≠ (s.tamperLevel false).on F.RTC_CTRL_TAMPER_POL) = false := by
    change decide (decide (false ≠ s.on F.RTC_CTRL_TAMPER_POL) ≠ s.on F.RTC_CTRL_TAMPER_POL) = false
    cases s.on F.RTC_CTRL_TAMPER_POL <;> rfl
  unfold State.tamperJudge
  dsimp only
  rw [hlevel, b2n, if_neg Bool.false_ne_true, State.tamperOn_put_off]
  rfl

theorem State.tamperJudge_released_regsKept (s : State) : RegsKept [F.RTC_STAT_TAMPER_IN.reg] s (s.tamperJudge (s.tamperLevel false)) := by
  rw [s.tamperJudge_released]
  have h := (RegsKept.refl [F.RTC_STAT_TAMPER_IN.reg] s).of_regs_eq (u := s.tamperLevel false) rfl
  exact h.ite (h.put 0 (by decide))

/-! ### The host and the safety inputs (R25, R29, R306) -/

theorem exec_pcieLinkUp_regsKept (s : State) (sp w : Nat) (sris : Bool) (mps : Fin 2) :
    ∃ u, exec (.pcieLinkUp sp w sris mps) s = .next u ∧ RegsKept [F.HOST_LINK_SPEED.reg, Base.HOST + 0x10] s u := by
  have h := RegsKept.refl [F.HOST_LINK_SPEED.reg, Base.HOST + 0x10] s
  simp only [exec, execPcieLinkUp]
  split
  · have hlink := ((h.put (f := F.HOST_LINK_SPEED) sp (by decide)).put (f := F.HOST_LINK_WIDTH) w (by decide)).put
      (f := F.HOST_LINK_LINK_UP) 1 (by decide)
    exact ⟨_, rfl, ((hlink.put (f := F.HOST_LINK_SRIS) _ (by decide)).put (f := F.HOST_LINK_MPS) _ (by decide)).raise 0 (by decide)⟩
  · exact ⟨_, rfl, h⟩

theorem exec_aerError_regsKept (s : State) (c : Bool) :
    ∃ u, exec (.aerError c) s = .next u ∧ RegsKept [F.HOST_AER_COUNT.reg, Base.HOST + 0x10] s u := by
  have h := RegsKept.refl [F.HOST_AER_COUNT.reg, Base.HOST + 0x10] s
  cases c with
  | true => exact ⟨_, rfl, (h.put (f := F.HOST_AER_COUNT) _ (by decide)).raise 1 (by decide)⟩
  | false => exact ⟨_, rfl, h.raise 2 (by decide)⟩

theorem exec_feedbackChange_regsKept (s : State) (m : Fin 8) (c : Bool) :
    ∃ u, exec (.feedbackChange m c) s = .next u ∧ RegsKept [F.SAFE_IN_FB.reg] s u := by
  have h : RegsKept [F.SAFE_IN_FB.reg] s (s.putBitOf F.SAFE_IN_FB m.val c) :=
    ((RegsKept.refl _ s).put _ (by decide)).ite ((RegsKept.refl _ s).put _ (by decide))
  exact ⟨_, rfl, h.ite (h.of_regs_eq rfl)⟩

/-! ### The sixteen frames -/

/-- A command whose footprint leaves the registers out changes none. -/
theorem reg_eq_of_exec {c : Instr} (hc : Part.regs ∉ touches c) (h : exec c s = .next t) (a : Nat) : t.reg a = s.reg a :=
  commandsTouchOnlyTheirParts.2.2 c s t h hc a

/-- A frame of every state a command can answer, from a frame of one. -/
theorem reg_eq_of_exec_regsKept {c : Instr} (hc : ∃ u, exec c s = .next u ∧ RegsKept l s u) (ht : exec c s = .next t) {a : Nat}
    (ha : a ∉ l) : t.reg a = s.reg a := by
  obtain ⟨u, hu, h⟩ := hc
  exact h.of_exec hu ht ha

/-- Settles O47: each frame from the frames of the updates the command is made of; the last three by the command's footprint. -/
theorem registersOutsideTheEffectKeepTheirValue : Obligations.RegistersOutsideTheEffectKeepTheirValue := by
  unfold Obligations.RegistersOutsideTheEffectKeepTheirValue
  refine ⟨?forceLead, ?linkLoss, ?mismatch, ?update, fun s t a ht ha => s.capClr_regsKept.of_exec rfl ht ha,
    fun s t durable a ht ha => (s.confirm_regsKept durable).of_exec rfl ht ha,
    fun s t durable a ht ha => reg_eq_of_exec_regsKept (exec_stationErase_regsKept s durable) ht ha,
    fun s t m a ht ha => reg_eq_of_exec_regsKept (exec_calTrim_regsKept s m) ht ha,
    fun s t a ht ha => s.tamperJudge_released_regsKept.of_exec rfl ht ha,
    fun s t m a ht ha => ((RegsKept.refl _ s).put (f := F.PWM_CTRL_COMMIT) _ (by decide)).of_exec rfl ht ha,
    fun s t sp w sris mps a ht ha => reg_eq_of_exec_regsKept (exec_pcieLinkUp_regsKept s sp w sris mps) ht ha,
    fun s t c a ht ha => reg_eq_of_exec_regsKept (exec_aerError_regsKept s c) ht ha,
    fun s t m c a ht ha => reg_eq_of_exec_regsKept (exec_feedbackChange_regsKept s m c) ht ha,
    fun s t v a ht => reg_eq_of_exec (c := .evtSw v) (show Part.regs ∉ [Part.evt] by decide) ht a,
    fun s t bad a ht => reg_eq_of_exec (c := .fabricProbe bad) (show Part.regs ∉ [Part.flt] by decide) ht a,
    fun s t a ht => reg_eq_of_exec (c := .indexStatus) (show Part.regs ∉ [Part.cmd] by decide) ht a⟩
  case forceLead =>
    intro s t a ht ha
    exact (((RegsKept.refl _ s).put 1 (by decide)).mirrorCheck (by decide) (by decide)).of_exec exec_forceLead ht ha
  case linkLoss =>
    intro s t a ht ha
    have h := RegsKept.refl [F.PAIR_FAULT_STAT_LOST.reg, F.PAIR_STAT_STATE.reg, Base.PAIR + 0x10] s
    have hlost := ((h.put (f := F.PAIR_FAULT_STAT_LOST) 1 (by decide)).raise (b := Base.PAIR) 4 (by decide)).setPairState prLost (by decide)
      (by decide)
    exact (hlost.ite h).of_exec rfl ht ha
  case mismatch =>
    intro s t d a ht ha
    have h := RegsKept.refl [F.PAIR_FAULT_STAT_DIGEST_MISMATCH.reg, Base.PAIR + 0x10] s
    have hdiffers := (h.put (f := F.PAIR_FAULT_STAT_DIGEST_MISMATCH) (setBit (s.get F.PAIR_FAULT_STAT_DIGEST_MISMATCH) d.val)
      (by decide)).raise (b := Base.PAIR) 5 (by decide)
    exact (hdiffers.ite h).of_exec rfl ht ha
  case update =>
    intro s t d a ht ha
    exact ((RegsKept.refl _ s).setReg _ (List.mem_singleton_self _)).of_exec (exec_digestUpdate rfl rfl) ht ha

end Sys2Proof.Machine
end
